-- ==== Sys2Proof/Word.lean ====
section
/-! DEFINITION. The words of the HX32 (R4): bytes, registers, flits, and the identifiers of its numbered parts (R12 to R18). -/

namespace Sys2Proof

/-- One byte. -/
abbrev Byte := BitVec 8
/-- A 32-bit register or word. -/
abbrev Word32 := BitVec 32
/-- A 64-bit register. -/
abbrev Word64 := BitVec 64

/-- Bay number b = row × 8 + column (R12). -/
abbrev BayId := Fin 32
/-- Global stall id b × 64 + s (R16). -/
abbrev StallId := Fin 2048
/-- Global paddock number b × 8 + p (R18). -/
abbrev PaddockId := Fin 256
/-- Feed queue q0 to q63 (R391). -/
abbrev QueueId := Fin 64
/-- Selay management core (R55). -/
abbrev CoreId := Fin 4
/-- Zilsa port k, in bay 8k + 7 (R29). -/
abbrev PortId := Fin 4
/-- Array, stream engine or tile buffer of a stall (R17). -/
abbrev UnitId := Fin 4
/-- Mailbox 0 to 7 privileged, 8 to 15 unprivileged (R57). -/
abbrev MailboxId := Fin 16

/-- Bits [hi:lo] of a number (R4). -/
def bits (v hi lo : Nat) : Nat := (v / 2 ^ lo) % 2 ^ (hi + 1 - lo)

/-- Bit [i] of a number (R4). -/
def bit (v i : Nat) : Bool := (v / 2 ^ i) % 2 == 1

/-- 1 for true and 0 for false, as a field of a register shows a flag. -/
def b2n (b : Bool) : Nat := if b then 1 else 0

/-- A signed reading of the low w bits of v (two's complement). -/
def toSigned (w v : Nat) : Int :=
  let m := v % 2 ^ w
  if 2 ^ (w - 1) ≤ m then (m : Int) - (2 ^ w : Nat) else (m : Int)

/-- The low w bits of an integer. -/
def ofSigned (w : Nat) (x : Int) : Nat := (x % ((2 ^ w : Nat) : Int)).toNat

/-- A signed value clamped to the range of w bits. -/
def clampSigned (w : Nat) (x : Int) : Int :=
  let hi : Int := ((2 ^ (w - 1) : Nat) : Int) - 1
  let lo : Int := -((2 ^ (w - 1) : Nat) : Int)
  if x > hi then hi else if x < lo then lo else x

/-- The n little-endian bytes of a number (R4), lowest address first. -/
def leBytes : Nat → Nat → List Byte
  | 0, _ => []
  | n + 1, v => BitVec.ofNat 8 v :: leBytes n (v / 256)

/-- The number that little-endian bytes hold (R4). -/
def ofLe : List Byte → Nat
  | [] => 0
  | b :: bs => b.toNat + 256 * ofLe bs

/-- The smallest number of pieces of size m that hold n, ⌈n / m⌉. -/
def ceilDiv (n m : Nat) : Nat := (n + m - 1) / m

end Sys2Proof
end

