-- ==== Sys2Proof/Syntax.lean ====
section
/-! DEFINITION. The commands of the HX32: one constructor of Instr for each row of spec/opcode_table.json, with the values a
command brings from outside (who makes an access, at which address, with which data; which unit; what the world measured). -/

namespace Sys2Proof

/-- Who makes an access (R42). -/
inductive Master
  | bar0                          -- host through BAR0
  | bar2 (page : Fin 4096)        -- host through one BAR2 page
  | selay (core : CoreId)         -- a Selay core
  | jtag                          -- JTAG
  | mgmtBus                       -- module management bus
  | unit (g : StallId)            -- a stall or fabric master
deriving DecidableEq, Repr

/-- The direction of a translated access (R254): a load needs R of the leaf, a store needs W. -/
inductive Access
  | load
  | store
deriving DecidableEq, Repr

/-- A flit's header fields (R344) and payload; CHECK is computed, and the route fields are the routers'. -/
structure Flit where
  dest     : BitVec 16
  src      : BitVec 16
  op       : BitVec 5
  pfx      : Bool            -- a leading flit of a two-flit packet
  pall     : Bool
  retry    : Bool
  deadline : BitVec 12
  tag      : BitVec 10
  phase    : Bool
  line     : BitVec 25
  wpx      : BitVec 6
  wpy      : BitVec 5
  payload  : List Byte       -- 64 bytes
deriving DecidableEq, Repr

/-- A router or hub link of the packet network (R339 to R341). -/
inductive RouterId
  | stall (g : StallId)                    -- the stall router of stall g
  | edge (b : BayId) (k : Fin 32)          -- edge router k of bay b
  | hub                                    -- the hub router
deriving DecidableEq, Repr

/-- A beat of a stall port (R298). -/
structure Beat where
  chan   : Fin 16
  kind   : Fin 4             -- 0 data, 1 token, 2 and 3 reserved
  poison : Bool
  data   : List Byte         -- 64 bytes; a token beat carries the name in its low 12 bits
deriving DecidableEq, Repr

/-- A token on its way: its name, its consumer, and the job instance that made it (R192, R195). -/
structure TokenPkt where
  name     : BitVec 12
  core     : Bool            -- consumer: true the control core, false the instruction queue
  stall    : StallId         -- the consumer's stall
  slot     : Fin 1024
  gen      : BitVec 8
  producer : StallId
deriving DecidableEq, Repr

/-- Strap pins (R481). -/
structure Straps where
  bootsrc  : Bool := false
  keysrc   : Bool := false
  linkmode : BitVec 4 := 0
  pullsel  : BitVec 2 := 0
  mbaddr   : BitVec 3 := 0
deriving DecidableEq, Repr

/-- The values of a received CONFIG management frame (R380). -/
structure PeerConfig where
  version : BitVec 8
  module  : BitVec 16
  port    : BitVec 2
  maxrate : BitVec 2
  fp64    : BitVec 64
  epoch   : BitVec 32
deriving DecidableEq, Repr

/-- What the host programs in the configuration space of the CXL port (R61, R386, R390, R402, R403): the base of the HDM decoder, the
MSI-X enable and function mask, mask bits of vectors, whether it clears the error status, and whether it aborts the DOE mailbox. -/
structure HostCfg where
  hdm     : Option Nat := none
  msixEn  : Option Bool := none
  fmask   : Option Bool := none
  masks   : List (Fin 68 × Bool) := []   -- true masks the vector
  clear   : Bool := false
  abort   : Bool := false
deriving DecidableEq, Repr

/-- One bay's rail and energy sample (R446). -/
structure RailSample where
  coreMv : Nat
  fabMv  : Nat
  uJ     : Nat
deriving DecidableEq, Repr

/-- What a fabric port does to a block memory in one cycle (R293). -/
inductive RamOp
  | read (addr : Nat)
  | write (addr : Nat) (data : List Byte) (poison : Bool) (window : Bool)
deriving DecidableEq, Repr

/-- A command of the module: one constructor per row of the table of operations and events. (DESIGN CHOICE, log entry 6). -/
inductive Instr
  -- registers, events, interrupts (R10, R38 to R61)
  | registerWrite (m : Master) (off : Nat) (v : Word32)
  | lpLowRead (m : Master) (off : Nat)
  | lpLowWrite (m : Master) (off : Nat) (v : Word32)
  | lpHighWrite (m : Master) (off : Nat) (v : Word32)
  | lpAlignedAccess (m : Master) (off : Nat) (wr : Option Word64)
  | sqClearWrite (m : Master) (off : Nat) (v : Word32)
  | rcCounterRead (m : Master) (off : Nat) (inc : Nat)
  | unmappedAccess (m : Master) (off : Nat) (write : Bool) (width : Nat := 32)
  | privilegeViolation (m : Master) (off : Nat) (write : Bool)
  | eventRingWrite
  | evringEnable (m : Master) (v : Word32)
  | evringDisable (m : Master) (v : Word32)
  | evringTailWrite (m : Master) (v : Word32)
  | icDone (c : CoreId) (v : Word32)
  | icRouteWrite (c : CoreId) (n : Fin 2048) (v : Word32)
  | icSignal (c : CoreId) (v : Word32)
  | selayTimer (c : CoreId)
  | msixRaise (c : CoreId) (v : Word32)
  | amaxWrite (m : Master) (off : Nat) (v : Word32) (fold : Option (BitVec 31))
  -- fences and faults of the module (R15, R32)
  | fence (b : BayId) (cause : Nat)
  | hubFault (cause : Nat)
  -- feed engine and firmware (R214 to R236, R393 to R424)
  | tailSnoop (q : QueueId) (stores : List (Nat × Byte) := [])
  | recordAdmission (q : QueueId)
  | recordRetest (q : QueueId)
  | batchClose (q : QueueId)
  | jobDispatch
  | jobRerun (slot : Fin 1024)
  | jobCommit (q : QueueId)
  | faultNotice
  -- matrix arrays (R91 to R116)
  | mpass (g : StallId)
  | weightSetRead (g : StallId)
  | stagedSetMove (g : StallId)
  | frontSwap (g : StallId) (a : UnitId) (row : Fin 64)
  | epilogueRow (g : StallId) (a : UnitId) (row : Fin 64)
  | mpassComplete (g : StallId)
  -- instruction queue (R179 to R208)
  | jbegin (g : StallId)
  | jcommit (g : StallId)
  | jcommitComplete (g : StallId)
  | qrep (g : StallId)
  | qrepIteration (g : StallId)
  | wload (g : StallId)
  | sld (g : StallId)
  | sst (g : StallId)
  | fxch (g : StallId)
  | takeInstruction (g : StallId)
  | tprod (g : StallId)
  | tprodProduction (g : StallId)
  | twait (g : StallId)
  | token (p : TokenPkt)
  | fabricTokenBeat (g : StallId) (chan : Fin 16)
  | watchExpiry (g : StallId)
  | watchCtlWrite (m : Master) (g : StallId) (v : Word32)
  | watchDeclare (c : CoreId) (g : StallId) (v : Word32)
  -- control core: the core of stall g issues its next bundle, in which the named operation stands (R117 to R157)
  | nop (g : StallId)
  | add (g : StallId)
  | sub (g : StallId)
  | adds (g : StallId)
  | subs (g : StallId)
  | and (g : StallId)
  | or (g : StallId)
  | xor (g : StallId)
  | shl (g : StallId)
  | shr (g : StallId)
  | sra (g : StallId)
  | srar (g : StallId)
  | min (g : StallId)
  | max (g : StallId)
  | slt (g : StallId)
  | seq (g : StallId)
  | movi (g : StallId)
  | movh (g : StallId)
  | mul (g : StallId)
  | muls (g : StallId)
  | mulq (g : StallId)
  | mac (g : StallId)
  | msu (g : StallId)
  | macw (g : StallId)
  | aclr (g : StallId)
  | ashr (g : StallId)
  | norm (g : StallId)
  | nshl (g : StallId)
  | expx (g : StallId)
  | expe8 (g : StallId)
  | aadd (g : StallId)
  | asub (g : StallId)
  | aaddl (g : StallId)
  | amul16 (g : StallId)
  | aelm (g : StallId)
  | acmplt (g : StallId)
  | mov (g : StallId)
  | ld (g : StallId)
  | st (g : StallId)
  | take (g : StallId)
  | br (g : StallId)
  | bz (g : StallId)
  | bnz (g : StallId)
  | bltz (g : StallId)
  | loop (g : StallId)
  | waitt (g : StallId)
  | pub (g : StallId)
  | trap (g : StallId)
  | reti (g : StallId)
  | halt (g : StallId)
  | writeLand (g : StallId)
  | interruptEntry (g : StallId)
  | issueTimerExpiry (g : StallId)
  -- tallies (R217 to R227)
  | tallyArm (c : CoreId) (b : BayId) (v : Word32)
  | tallyRelease (c : CoreId) (b : BayId) (v : Word32)
  | takeNext (b : BayId)
  | report (b : BayId)
  | cellRelease (b : BayId) (cell : Fin 256)
  -- vector engine (R158 to R178)
  | vopAdd (g : StallId)
  | vopSub (g : StallId)
  | vopMul (g : StallId)
  | vopMax (g : StallId)
  | vopMin (g : StallId)
  | vopFma (g : StallId)
  | vopBscale (g : StallId)
  | vopCvt (g : StallId)
  | vopAbs (g : StallId)
  | vopNeg (g : StallId)
  | vopExp2 (g : StallId)
  | vopLog2 (g : StallId)
  | vopRcp (g : StallId)
  | vopRsqrt (g : StallId)
  | vopRsum (g : StallId)
  | vopRmax (g : StallId)
  | vopRmin (g : StallId)
  | vopRamax (g : StallId)
  | vopScani (g : StallId)
  | vopScane (g : StallId)
  | vopScanmax (g : StallId)
  | vopComplete (g : StallId) (waits : Nat)
  -- stream engines and translation (R238 to R262)
  | strArm (c : CoreId) (g : StallId) (k : UnitId) (v : Word32)
  | standbyStart (g : StallId) (k : UnitId)
  | walk (g : StallId) (q : QueueId) (dva : BitVec 48) (acc : Access)
  | streamComplete (g : StallId) (k : UnitId) (errs : List Nat := [])
  -- HBM4 controller (R263 to R283)
  | commandSlot (b : BayId) (pc : Fin 64) (illegal : List Nat) (symErrs : Nat) (odecc : Nat)
  | refreshDue (b : BayId) (pc : Fin 64) (bank : Fin 48)
  | rfmRequest (b : BayId) (pc : Fin 64)
  | stackTemperature (b : BayId) (degC : BitVec 8)
  | retrainSlot (b : BayId) (ch : Fin 32)
  | retrainComplete (b : BayId) (ch : Fin 32) (ok : Bool)
  | stackFatal (b : BayId) (catastrophic : Bool)
  | fchgGo (c : CoreId) (b : BayId) (v : Word32)
  | fchgDrained (b : BayId)
  | fchgRelock (b : BayId)
  | fchgRetrainDone (b : BayId) (failed : Bool)
  -- programmable fabric (R284 to R306)
  | fabPllWrite (c : CoreId) (b : BayId) (n : UnitId) (div : Bool) (v : Word32)
  | pllLock (b : BayId) (n : UnitId)
  | pllLockTimeout (b : BayId) (n : UnitId)
  | pllLossOfLock (b : BayId) (n : UnitId)
  | gclkSelect (c : CoreId) (b : BayId) (i : Fin 16) (v : Word32)
  | sleepInput (b : BayId) (i : Fin 16) (level : Bool)
  | ramPortAccess (b : BayId) (block : Fin 3584) (portB : Bool) (op : RamOp)
  | queuePush (b : BayId) (block : Fin 3584) (data : List Byte) (poison : Bool)
  | queuePop (b : BayId) (block : Fin 3584)
  | rstQ (b : BayId) (block : Fin 3584)
  | blockNocAccess (b : BayId) (block : Fin 3584) (line : Fin 256) (wr : Option (List Byte)) (portBEnable : Bool)
  | outboundBeat (g : StallId) (ready : BitVec 16)
  | inboundBeat (g : StallId) (beat : Beat)
  | endpointFlit (b : BayId) (ep : Fin 64) (f : Flit)
  | endpointDelivery (b : BayId) (ep : Fin 64) (domainReady : Nat)
  | wakeTimeout (b : BayId) (ep : Fin 64)
  -- configuration (R307 to R338)
  | load (m : Master) (v : Word32)
  | isolateAndClear (m : Master) (v : Word32)
  | sessionEnd (m : Master) (v : Word32)
  | restart (m : Master) (v : Word32)
  | doneSeen (high : Bool := true)
  | cfgDonewait
  | loaderChecks
  | loaderClearDone
  | payloadBlock
  | loaderDigest
  | clockPlanLock
  | loadCommit
  | gatesOpen (p : PaddockId)
  | writeEnablesOn (p : PaddockId)
  | resetsReleased (p : PaddockId)
  | auditStep (b : BayId) (votes : Nat)
  | fingerprintRecompute
  | errpinWrite (m : Master) (v : Word32)
  -- packet network (R339 to R360)
  | flitCheckFail (r : RouterId) (port : Fin 8)
  | flitGrant (r : RouterId) (port : Fin 8)
  | traceCtlWrite (m : Master) (region : Fin 33) (v : Word32)
  | routeCommit (c : CoreId) (b : BayId) (v : Word32)
  | resend (src : BitVec 16) (dest : BitVec 16)
  | rd (f : Flit)
  | wr (pfx : Option Flit) (f : Flit)
  | msg (f : Flit)
  | mrd (f : Flit)
  | mwr (f : Flit)
  | rdata (f : Flit)
  | wack (f : Flit)
  | ack (f : Flit)
  | tans (g : StallId)
  | mdata (f : Flit)
  | nack (f : Flit)
  -- Zilsa links (R361 to R385)
  | linkEnable (m : Master) (k : PortId) (v : Word32)
  | linkDisable (m : Master) (k : PortId) (v : Word32)
  | signalDetected (k : PortId) (lanes : BitVec 16)
  | lanesLocked (k : PortId) (lanes : BitVec 16)
  | lockTimeout (k : PortId)
  | config (k : PortId) (peer : PeerConfig)
  | configTimeout (k : PortId)
  | stepTimeout (k : PortId) (failed : BitVec 16)
  | markerLockLoss (k : PortId) (lane : Fin 16)
  | codeword (k : PortId) (number : Word32) (line : List (Fin 4)) (skew : Fin 16 := 0)
  | control (k : PortId) (ackNo : Word32) (nak : Bool) (credits : List Nat)
  | flit (k : PortId) (f : Flit)
  | fp (k : PortId) (fp64 : Word64) (epoch : Word32)
  | fpSend (k : PortId)
  | sleepIdle (k : PortId)
  | sleepReq (k : PortId)
  | sleepAck (k : PortId)
  | wakeBurst (k : PortId)
  | linkWakeTimeout (k : PortId)
  | fecInj (m : Master) (k : PortId) (v : Word32)
  | injOne (m : Master) (k : PortId) (lane : Fin 16) (v : Word32)
  -- host attachment (R386 to R404)
  | hostLinkDown
  | linkDownTimeout
  | hostLinkUp (speed : Nat) (width : Nat) (cfg : HostCfg)
  | hotReset
  | memrd (hpa : Nat)
  | memwr (hpa : Nat) (data : List Byte) (enables : BitVec 64) (poison : Bool)
  | claim (page : Fin 4096) (v : Word32)
  | submit (m : Master) (mb : MailboxId) (v : Word32)
  | release (m : Master) (mb : MailboxId) (v : Word32)
  | ownerRelease (m : Master) (u : Fin 8) (v : Word32)
  | getVersion (size : Nat)
  | getCapabilities (size : Nat)
  | negotiateAlgorithms (p384 : Bool) (sha384 : Bool) (size : Nat)
  | getDigests (size : Nat)
  | getCertificate (offset : Nat) (length : Nat) (size : Nat)
  | challenge (nonce : List Byte) (size : Nat)
  | getMeasurements (index : Nat) (signed : Bool) (size : Nat)
  -- mailbox commands (R426 to R432): the request stands in mailbox mb
  | identify (mb : MailboxId)
  | fqConfig (mb : MailboxId)
  | fqStop (mb : MailboxId)
  | xlateInval (mb : MailboxId)
  | pageResolved (mb : MailboxId)
  | jobAbandon (mb : MailboxId)
  | ctxOpen (mb : MailboxId)
  | ctxSet (mb : MailboxId)
  | ctxClose (mb : MailboxId)
  | ctxRead (mb : MailboxId)
  | batchClass (mb : MailboxId)
  | cfgLoad (mb : MailboxId)
  | cfgSession (mb : MailboxId)
  | cfgIsolate (mb : MailboxId)
  | spdigestSet (mb : MailboxId)
  | bayFence (mb : MailboxId)
  | bayReturn (mb : MailboxId) (good : Bool)
  | engBudget (mb : MailboxId)
  | engRead (mb : MailboxId)
  | lcTransition (mb : MailboxId) (bad : Option Nat)
  | warmReset (mb : MailboxId)
  | selayCoreFault (c : CoreId)
  -- energy, voltage, heat (R435 to R455)
  | ledgerSample (bays : List RailSample) (inputUJ : Nat)
  | ledgerTick (inputMJ : Nat)
  | tickAck (m : Master) (v : Word32)
  | rateMonitor (b : BayId) (measured : Nat)
  | corewarn (b : BayId) (mv : Nat)
  | fabwarn (b : BayId) (mv : Nat)
  | recover (b : BayId) (fab : Bool) (mv : Nat := 1000)
  | corereset (b : BayId) (mv : Nat)
  | fabreset (b : BayId) (mv : Nat)
  | hubwarn (mv : Nat)
  | vsetWrite (m : Master) (b : BayId) (v : Word32)
  | dipFree (m : Master) (b : BayId) (v : Word64)
  | capSample (watts : Nat)
  | throttle (b : BayId) (degC : Nat)
  | hot (b : BayId) (degC : Nat)
  | trip (b : BayId) (degC : Nat)
  -- security and life cycle (R456 to R478)
  | fuseValue (m : Master) (v : Word32)
  | fuseFill (m : Master) (v : Word32)
  | fuseRevoke (m : Master) (v : Word32)
  | fuseState (m : Master) (v : Word32)
  | fuseProgrammed (verified : Bool)
  | bkeyStore (m : Master) (v : Word32)
  | bkeyZero (m : Master) (v : Word32)
  | boot
  | extest
  | idcode
  | samplePreload (cells : List Bool)
  | regacc (off : Nat) (wr : Option Word32)
  | bypass
  -- module management bus and power (R479 to R493)
  | regRead (pecOk : Bool) (off : Word32)
  | regWrite (pecOk : Bool) (off : Word32) (v : Word32)
  | flashErase (pecOk : Bool) (off : Word32)
  | flashWrite (pecOk : Bool) (off : Word32) (data : List Byte)
  | flashRead (pecOk : Bool) (off : Word32)
  | flashStatus (pecOk : Bool)
  | flashComplete
  | pushData (pecOk : Bool) (off : Word32) (data : List Byte)
  | pushDone (pecOk : Bool) (len : Word32)
  | coldReset (lowNs : Nat) (straps : Straps) (vbatKept : Bool)
  | bayPowerOn (b : BayId)
  | powerLoss
  | coldStart
  | logicDieFault (b : BayId)
  | fabricInterruptLine (b : BayId) (k : Fin 16) (level : Bool)
  | patternCheck (k : PortId) (lane : Fin 16) (received : List Bool)
  | keyExchange (code : Byte) (size : Nat)
  | doeDiscovery (index : Nat) (size : Nat)
  | testLogicReset
deriving DecidableEq, Repr

end Sys2Proof
end

