-- ==== Sys2Proof/Config.lean ====
section
/-! DEFINITION. What the manual leaves open: free values. An opaque constant has no body, so nothing about its value can be
proved; a statement holds whatever it is. The counter it is applied to stands in State (State.free). -/

namespace Sys2Proof

/-- What drives a signal of the fabric (R284 to R286, R304): routing wire or cell input w of global paddock p, an output of cell c's
lookup table (the second one when it is used as two), one of its two flip-flops, its carry output, and output k of hard site i. -/
inductive Node
  | wire (p w : Nat)
  | table (p c : Nat) (second : Bool)
  | flop (p c : Nat) (second : Bool)
  | carry (p c : Nat)
  | site (p i k : Nat)
deriving DecidableEq, Repr

end Sys2Proof

namespace Sys2Proof.Config

/-- The value the model's counter reaches next, as w bits: one use of it per value the manual leaves open. (DESIGN CHOICE, log
entries 7, 84). -/
opaque freeWord (w : Nat) : Nat → BitVec w

/-- What the frames of a paddock set at one of its hard sites. The manual does not define the bits within a frame (chapter
"Configuration with Chouk streams"); the argument is the list of the paddock's frame bytes that are not zero, and the number of the
site. (DESIGN CHOICE, log entry 113). -/
opaque siteBits : List (Nat × BitVec 8) → Nat → BitVec 64

/-- What the frames of a paddock set in logic cell c (R284): bits [63:0] the truth table; [64] two 5-input tables; then for each flip-flop
four bits from 65 and from 69: D from the bypass input, from the second table output, initial value, asynchronous reset; [77:73] the
clock, 0 to 15 a global network and else the cell's clock wire. (DESIGN CHOICE, log entry 112). -/
opaque cellBits : List (Nat × BitVec 8) → Nat → BitVec 78

/-- The inputs of the encoded multiplexer of routing wire or cell input w of paddock p, input 1 first (R285, R286). -/
opaque muxInputs (p w : Nat) : List Node

/-- The selector that the frames of a paddock set in the multiplexer of wire w, and the clamp bits they set for wire w of neighbouring
paddock q (R285, R328). -/
opaque muxCode : List (Nat × BitVec 8) → Nat → Nat
opaque clampBit : List (Nat × BitVec 8) → (q w : Nat) → Bool

/-- The carry output of a cell, from its two table outputs and its carry input (R284). -/
opaque carryOut (table second carryIn : Bool) : Bool

/-- The wire of a paddock that is its root wire (R290), and the wires that give a user I/O pin its value and its output enable. -/
opaque rootWire (p : Nat) : Nat
opaque pinWire (p pin : Nat) (enable : Bool) : Nat

/-- The rate in kHz of the clock at user I/O pin 0 or 8 of a bay (R288, R290). -/
opaque pinClock (b pin : Nat) : Nat

/-- The certificate chain of SPDM slot 0 with the alias certificate last (R468): of the chain in the boot flash, given as the bytes that
are not erased, the identity seed, the firmware digest and the life-cycle code. (PRESUMED, log entry 176). -/
opaque certChain (flash : List (Nat × BitVec 8)) (seed : Nat) (digest : List (BitVec 8)) (lc : Nat) : List (BitVec 8)

/-- The 32 check bits of a line's 64 bytes (R278). The manual gives what the code corrects and detects, and not the code. (DESIGN
CHOICE, log entry 110). -/
opaque checkBits : List (BitVec 8) → BitVec 32

/-- A signature with the alias key (R468) over a message, with the randomness of the signer. -/
opaque aliasSign (seed : Nat) (digest : List (BitVec 8)) (lc : Nat) (msg : List (BitVec 8)) (salt : BitVec 384) : List (BitVec 8)

end Sys2Proof.Config
end

