-- ==== Sys2Proof/Machine/Tab.lean ====
section
/-! DEFINITION. Sparse tables: a list of (key, value) pairs with keys strictly rising and no entry equal to what an unlisted
key reads as. Memories, registers and the state of numbered units are held so; equal tables are equal lists. -/

namespace Sys2Proof.Machine

/-- A sparse table from numbers to values. -/
abbrev Tab (α : Type) := List (Nat × α)

variable {α : Type}

/-- The value listed for a key, or the default. -/
def Tab.get (d : α) : Tab α → Nat → α
  | [], _ => d
  | (a, v) :: t, k => if a = k then v else Tab.get d t k

/-- The table without any entry for k. -/
def Tab.del : Tab α → Nat → Tab α
  | [], _ => []
  | (a, v) :: t, k => if a = k then Tab.del t k else (a, v) :: Tab.del t k

/-- The table with the entry (k, v), at its place. -/
def Tab.ins : Tab α → Nat → α → Tab α
  | [], k, v => [(k, v)]
  | (a, w) :: t, k, v =>
    if k < a then (k, v) :: (a, w) :: t
    else if k = a then (k, v) :: t
    else (a, w) :: Tab.ins t k v

/-- The table after key k takes value v; the default value is not listed. -/
def Tab.set [DecidableEq α] (d : α) (t : Tab α) (k : Nat) (v : α) : Tab α :=
  if v = d then Tab.del t k else Tab.ins t k v

/-- The table after f is applied to the value of key k. -/
def Tab.upd [DecidableEq α] (d : α) (t : Tab α) (k : Nat) (f : α → α) : Tab α :=
  Tab.set d t k (f (Tab.get d t k))

/-- Keys strictly rising, all at least lo. -/
def Tab.rising : Nat → Tab α → Bool
  | _, [] => true
  | lo, (a, _) :: t => decide (lo ≤ a) && Tab.rising (a + 1) t

/-- No entry lists the default. -/
def Tab.lean [DecidableEq α] (d : α) : Tab α → Bool
  | [] => true
  | (_, v) :: t => decide (v ≠ d) && Tab.lean d t

/-- The canonical form. -/
def Tab.wf [DecidableEq α] (d : α) (t : Tab α) : Bool := Tab.rising 0 t && Tab.lean d t

/-- n bytes from address a, lowest address first. -/
def readBytes (t : Tab Byte) (a : Nat) : Nat → List Byte
  | 0 => []
  | n + 1 => Tab.get 0 t a :: readBytes t (a + 1) n

/-- The table after bytes are stored from address a up. -/
def writeBytes (t : Tab Byte) (a : Nat) : List Byte → Tab Byte
  | [] => t
  | b :: bs => writeBytes (Tab.set 0 t a b) (a + 1) bs

/-- n tags from address a. -/
def readTags (t : Tab Bool) (a : Nat) : Nat → List Bool
  | 0 => []
  | n + 1 => Tab.get false t a :: readTags t (a + 1) n

/-- The tag of every one of n addresses from a set to p. -/
def writeTags (t : Tab Bool) (a : Nat) (p : Bool) : Nat → Tab Bool
  | 0 => t
  | n + 1 => writeTags (Tab.set false t a p) (a + 1) p n

end Sys2Proof.Machine
end

