-- ==== Sys2Proof/Machine/HostParts.lean ====
section
/-! DEFINITION. Mailboxes (R399, R400) and the energy ledger with its rails and thermal levels (R435 to R455) as plain data. -/

namespace Sys2Proof.Machine

/-- A mailbox. STATE is 0 FREE, 1 OWNED, 2 BUSY, 3 ANSWERED. -/
structure Mbox where
  state  : Nat := 0
  owner  : Option Nat := none     -- the BAR2 page that owns an unprivileged mailbox
  acount : Nat := 0
  req    : Tab Byte := []         -- request area, by page offset
  ans    : Tab Byte := []         -- answer area
  page   : Option Nat := none     -- the page whose SUBMIT made it BUSY; none for BAR0
  drop   : Bool := false          -- released by force while BUSY: the answer is discarded
deriving DecidableEq, Repr

/-- The MSI-X capability and its table of 68 vectors (R61): enable and function mask, the vectors whose mask bit is clear, the pending
bits, and the messages sent, oldest first. (PRESUMED, log entry 253). -/
structure Msix where
  en    : Bool := false
  fmask : Bool := false
  clear : Tab Bool := []
  pend  : Tab Bool := []
  sent  : List Nat := []
deriving DecidableEq, Repr

/-- The error status of AER and of the CXL RAS capability (R386): uncorrectable and correctable, each word by its bits.
(PRESUMED, log entry 254). -/
structure HostErr where
  rasUncor : Nat := 0
  rasCor   : Nat := 0
  aerUncor : Nat := 0
  aerCor   : Nat := 0
deriving DecidableEq, Repr

/-- A warning of a rail (R441): since when, and the lowest sample. -/
structure RailWarn where
  since : Nat
  low   : Nat
deriving DecidableEq, Repr

/-- The ledger, the ramps and the hardware cap. -/
structure Eng where
  rest    : Tab Nat := []         -- remainders in µJ, by bay; 32 is the hub (R446)
  ring    : List Nat := []        -- input energy of the last milliseconds in mJ, newest first, at most 1000 (R447)
  tick    : Bool := false
  over_   : Bool := false         -- U ÷ w exceeds the budget (R451)
  rails   : Tab (Option RailWarn) := []  -- key bay × 2, plus 1 for VDD_FAB: a warning that runs
  sag     : Tab Bool := []        -- bays whose assured rate follows the measurement alone since a warning (R443)
  lowered : Tab Nat := []         -- bays that firmware lowered for budget or heat: the setpoint before, 0 for none
  ramp    : Tab (Nat × Nat) := [] -- a ramp: the setpoint it left and the local count of its end (R437)
  throt   : Tab Bool := []        -- bays at THROT, at HOT (R454)
  hot     : Tab Bool := []
  watts   : List Nat := []        -- input power of the last 20 µs, newest first (R453)
  offset  : Nat := 0              -- in units of 10 mV
  pace    : Nat := 0
  up      : Nat := 0              -- samples since the last step up, and samples in a row below 0.94 × ENG_CAP
  below   : Nat := 0
  budget  : Option Nat := none    -- ENG_BUDGET as the next tick puts it in force (R448)
deriving DecidableEq, Repr

end Sys2Proof.Machine
end

