-- ==== Sys2Proof/Machine/Num.lean ====
section
/-! DEFINITION. Number formats (R62 to R90): exact values, the one rounding function, decoding and conversion of every format,
and the arithmetic that arrays, converters and the vector engine share. -/

namespace Sys2Proof.Machine

/-- An exact value: a NaN or an infinity with its sign, or (−1)^s × m × 2^e. -/
inductive Val
  | nan (s : Bool)
  | inf (s : Bool)
  | fin (s : Bool) (m : Nat) (e : Int)
deriving DecidableEq, Repr

/-- The formats of R62. -/
inductive Fmt
  | fp32 | bf16 | fp16 | e4m3 | e5m2 | int8 | int32 | fp4 | int4 | e8m0
deriving DecidableEq, Repr

/-- The format of a code; 10 to 15 are reserved (R62). -/
def Fmt.ofCode : Nat → Option Fmt
  | 0 => some .fp32 | 1 => some .bf16 | 2 => some .fp16 | 3 => some .e4m3 | 4 => some .e5m2
  | 5 => some .int8 | 6 => some .int32 | 7 => some .fp4 | 8 => some .int4 | 9 => some .e8m0
  | _ => none

/-- The code of a format (R62). -/
def Fmt.code : Fmt → Nat
  | .fp32 => 0 | .bf16 => 1 | .fp16 => 2 | .e4m3 => 3 | .e5m2 => 4
  | .int8 => 5 | .int32 => 6 | .fp4 => 7 | .int4 => 8 | .e8m0 => 9

/-- The width of a format in bits (R62). -/
def Fmt.width : Fmt → Nat
  | .fp32 | .int32 => 32
  | .bf16 | .fp16 => 16
  | .e4m3 | .e5m2 | .int8 | .e8m0 => 8
  | .fp4 | .int4 => 4

/-- Whether a format has two's complement values. -/
def Fmt.isInt : Fmt → Bool
  | .int8 | .int32 | .int4 => true
  | _ => false

/-- Exponent bits, mantissa bits and bias of a floating-point format (R62). -/
def Fmt.shape : Fmt → Nat × Nat × Int
  | .fp32 => (8, 23, 127) | .bf16 => (8, 7, 127) | .fp16 => (5, 10, 15)
  | .e4m3 => (4, 3, 7) | .e5m2 => (5, 2, 15) | .fp4 => (2, 1, 1)
  | _ => (0, 0, 0)

/-- Formats with infinities (R62). -/
def Fmt.hasInf : Fmt → Bool
  | .fp32 | .bf16 | .fp16 | .e5m2 => true
  | _ => false

/-- The canonical NaN of a format with sign 0 (R66). -/
def Fmt.nan : Fmt → Nat
  | .fp32 => 0x7FC00000 | .bf16 => 0x7FC0 | .fp16 => 0x7E00 | .e4m3 => 0x7F | .e5m2 => 0x7E
  | .e8m0 => 0xFF
  | _ => 0

/-- The largest finite magnitude, as mantissa and exponent (R62). -/
def Fmt.largest : Fmt → Nat × Int
  | .fp32 => (2 ^ 24 - 1, 104) | .bf16 => (2 ^ 8 - 1, 120) | .fp16 => (2 ^ 11 - 1, 5)
  | .e4m3 => (14, 5) | .e5m2 => (7, 13) | .fp4 => (3, 1)
  | _ => (0, 0)

/-- The exact value of an element (R62 to R65). -/
def Fmt.value (f : Fmt) (v : Nat) : Val :=
  match f with
  | .int8 | .int32 | .int4 => let x := toSigned f.width v; .fin (decide (x < 0)) x.natAbs 0
  | .e8m0 => if v % 256 = 255 then .nan false else .fin false 1 ((v % 256 : Nat) - 127 : Int)
  | _ =>
    let (eb, mb, bias) := f.shape
    let s := bit v (eb + mb)
    let e := bits v (eb + mb - 1) mb
    let m := bits v (mb - 1) 0
    if f.hasInf ∧ e = 2 ^ eb - 1 then (if m = 0 then .inf s else .nan s)
    else if f = .e4m3 ∧ e = 15 ∧ m = 7 then .nan s
    else if e = 0 then .fin s m (1 - bias - (mb : Int))
    else .fin s (2 ^ mb + m) ((e : Int) - bias - (mb : Int))

/-- m × 2^(−k) rounded to an integer, ties to even (R75). -/
def rne (m k : Nat) : Nat :=
  let q := m / 2 ^ k
  let r := m % 2 ^ k
  if k = 0 then q
  else if r > 2 ^ (k - 1) then q + 1
  else if r = 2 ^ (k - 1) then (if q % 2 = 1 then q + 1 else q)
  else q

/-- m × 2^(−k) rounded up to an integer. -/
def roundUp (m k : Nat) : Nat := if m % 2 ^ k = 0 then m / 2 ^ k else m / 2 ^ k + 1

/-- The number of bits of m. -/
def bitLen (m : Nat) : Nat := if m = 0 then 0 else Nat.log2 m + 1

/-- A non-zero magnitude m × 2^e on the lattice of a floating-point format with an unbounded exponent upward: mantissa and
quantum exponent, by the given rounding of a right shift. -/
def toLattice (f : Fmt) (rnd : Nat → Nat → Nat) (m : Nat) (e : Int) : Nat × Int :=
  let (_, mb, bias) := f.shape
  let q := max ((bitLen m : Int) + e - ((mb : Int) + 1)) (1 - bias - (mb : Int))
  if q ≤ e then (m * 2 ^ (e - q).toNat, q) else (rnd m (q - e).toNat, q)

/-- The encoding of a lattice magnitude within the range of the format. -/
def encodeMag (f : Fmt) (m : Nat) (q : Int) : Nat :=
  let (_, mb, bias) := f.shape
  let (m, q) := if m = 2 ^ (mb + 1) then (2 ^ mb, q + 1) else (m, q)
  if m < 2 ^ mb then m else (q + (mb : Int) + bias).toNat * 2 ^ mb + (m - 2 ^ mb)

/-- The place of the sign bit. -/
def Fmt.signBit (f : Fmt) : Nat := 2 ^ (f.width - 1)

/-- Whether a × 2^p is above b × 2^q. -/
def magGt (a : Nat) (p : Int) (b : Nat) (q : Int) : Bool :=
  let l := min p q
  decide (b * 2 ^ (q - l).toNat < a * 2 ^ (p - l).toNat)

/-- What a conversion gives: the element, how often STL_NUM_OVF and how often STL_NUM_INV advance. -/
structure Conv where
  val : Nat
  ovf : Nat := 0
  inv : Nat := 0
deriving DecidableEq, Repr

/-- A finite exact value rounded to an integer, ties to even (R75). -/
def roundInt (s : Bool) (m : Nat) (e : Int) : Int :=
  let n : Nat := if 0 ≤ e then m * 2 ^ e.toNat else rne m (-e).toNat
  if s then -(n : Int) else n

/-- Conversion of an exact value to a format, rounded once (R75, R77 to R80). A conversion to E8M0 has no place in R67; it
keeps the byte of the value. (DESIGN CHOICE, log entry 38). -/
def convert (f : Fmt) (ovfInf : Bool) (x : Val) : Conv :=
  if f.isInt then
    let w := f.width
    match x with
    | .nan _ => { val := 0, inv := 1 }
    | .inf s => { val := if s then 2 ^ (w - 1) else 2 ^ (w - 1) - 1, ovf := 1 }
    | .fin s m e =>
      let i := roundInt s m e
      let c := clampSigned w i
      { val := ofSigned w c, ovf := if c = i then 0 else 1 }
  else
    let sg (s : Bool) (v : Nat) : Nat := if s then f.signBit + v else v
    let top : Nat := encodeMag f f.largest.1 f.largest.2
    match x with
    | .nan s => if f = .fp4 then { val := 0, inv := 1 } else { val := sg s f.nan }
    | .inf s => if f.hasInf then { val := sg s (bits f.nan (f.width - 2) f.shape.2.1 * 2 ^ f.shape.2.1) }
                else { val := sg s top, ovf := 1 }
    | .fin s m e =>
      if m = 0 then { val := sg s 0 }
      else
        let (m', q) := toLattice f rne m e
        if magGt m' q f.largest.1 f.largest.2 then
          { val := sg s (if f.hasInf && ovfInf then bits f.nan (f.width - 2) f.shape.2.1 * 2 ^ f.shape.2.1 else top), ovf := 1 }
        else { val := sg s (encodeMag f m' q) }

/-- Rounding to FP32 in accumulation and vector arithmetic, which overflows to infinity (R77). -/
def toFp32 (x : Val) : Conv := convert .fp32 true x

/-- The magnitude of a value rounded up to FP32, without its sign bit, as a running maximum takes it; a NaN folds nothing
(R86). -/
def amaxOf (x : Val) : Option Nat :=
  match x with
  | .nan _ => none
  | .inf _ => some 0x7F800000
  | .fin _ m e =>
    if m = 0 then some 0
    else
      let (m', q) := toLattice .fp32 roundUp m e
      if magGt m' q (Fmt.largest .fp32).1 (Fmt.largest .fp32).2 then some 0x7F800000
      else some (encodeMag .fp32 m' q)

/-- A running maximum after a fold (R86). (DEDUCED, log entry 30). -/
def amaxFold (old : Nat) (x : Val) : Nat :=
  match amaxOf x with
  | none => old
  | some v => max old v

/-- The signed integer m with sign s. -/
def sInt (s : Bool) (m : Nat) : Int := if s then -(m : Int) else m

/-- The exact product; true when it creates a NaN from operands that are not NaN (R81). (DEDUCED, log entry 27). -/
def Val.mul (x y : Val) : Val × Bool :=
  match x, y with
  | .nan _, _ | _, .nan _ => (.nan false, false)
  | .inf a, .inf b => (.inf (a != b), false)
  | .inf a, .fin b m _ | .fin b m _, .inf a => if m = 0 then (.nan false, true) else (.inf (a != b), false)
  | .fin a m e, .fin b n f => (.fin (a != b) (m * n) (e + f), false)

/-- The exact sum; an exact zero sum has the common sign of its operands, else +0 (R75). -/
def Val.add (x y : Val) : Val × Bool :=
  match x, y with
  | .nan _, _ | _, .nan _ => (.nan false, false)
  | .inf a, .inf b => if a = b then (.inf a, false) else (.nan false, true)
  | .inf a, _ => (.inf a, false)
  | _, .inf b => (.inf b, false)
  | .fin a m e, .fin b n f =>
    let l := min e f
    let v := sInt a (m * 2 ^ (e - l).toNat) + sInt b (n * 2 ^ (f - l).toNat)
    if v = 0 then (.fin (a && b) 0 l, false) else (.fin (decide (v < 0)) v.natAbs l, false)

/-- The negated value. -/
def Val.neg : Val → Val
  | .nan s => .nan s
  | .inf s => .inf (!s)
  | .fin s m e => .fin (!s) m e

/-- The magnitude. -/
def Val.abs : Val → Val
  | .nan _ => .nan false
  | .inf _ => .inf false
  | .fin _ m e => .fin false m e

/-- x × 2^k. -/
def Val.scale (x : Val) (k : Int) : Val :=
  match x with
  | .fin s m e => .fin s m (e + k)
  | y => y

/-- x < y as numbers; a NaN is below nothing. -/
def Val.nlt (x y : Val) : Bool :=
  match x, y with
  | .nan _, _ | _, .nan _ => false
  | .inf a, .inf b => a && !b
  | .inf a, _ => a
  | _, .inf b => !b
  | .fin a m e, .fin b n f =>
    let l := min e f
    decide (sInt a (m * 2 ^ (e - l).toNat) < sInt b (n * 2 ^ (f - l).toNat))

/-- x < y on values that are not NaN, where −0 counts as below +0 (R82). -/
def Val.lt (x y : Val) : Bool :=
  x.nlt y || (match x, y with
    | .fin a m _, .fin b n _ => m == 0 && n == 0 && a && !b
    | _, _ => false)

/-- The larger operand; a NaN operand gives the NaN with sign 0 (R82). -/
def Val.max (x y : Val) : Val :=
  match x, y with
  | .nan _, _ | _, .nan _ => .nan false
  | _, _ => if x.lt y then y else x

/-- The smaller operand (R82). -/
def Val.min (x y : Val) : Val :=
  match x, y with
  | .nan _, _ | _, .nan _ => .nan false
  | _, _ => if y.lt x then y else x

/-- x × y + z with one rounding to FP32. (DEDUCED, log entry 246). -/
def fma32 (x y z : Val) : Conv :=
  let (p, i) := x.mul y
  let (t, j) := p.add z
  let r := toFp32 t
  { r with inv := r.inv + b2n i + b2n j }

/-- x + y with one rounding to FP32. -/
def add32 (x y : Val) : Conv :=
  let (t, j) := x.add y
  let r := toFp32 t
  { r with inv := r.inv + b2n j }

/-- x × y with one rounding to FP32. -/
def mul32 (x y : Val) : Conv :=
  let (t, j) := x.mul y
  let r := toFp32 t
  { r with inv := r.inv + b2n j }

/-- A conversion control word (R84). -/
structure CCW where
  scaleEn : Bool
  amaxClr : Bool
  amaxEn  : Bool
  ovfInf  : Bool
  target  : Nat
  rsv     : Nat
deriving DecidableEq, Repr

/-- The fields of a conversion control word (R84). -/
def CCW.of (v : Nat) : CCW :=
  { scaleEn := bit v 7, amaxClr := bit v 6, amaxEn := bit v 5, ovfInf := bit v 4, target := bits v 3 0, rsv := bits v 15 8 }

/-- x × c as a converter forms it, c taken as 1 when nothing scales; a NaN x stays the NaN it is (R66, R85). True when the product
creates a NaN. (DEDUCED, log entry 28). -/
def Val.coarse (x : Val) (scaleEn : Bool) (c : Nat) : Val × Bool :=
  if scaleEn then
    match x with
    | .nan s => (.nan s, false)
    | y => y.mul (Fmt.fp32.value c)
  else (x, false)

/-- The common format of two vector operands (R70). -/
def widen (a b : Fmt) : Fmt :=
  let eight (f : Fmt) : Bool := f == .e4m3 || f == .e5m2 || f == .int8
  if a = b then a
  else if a = .fp32 ∨ b = .fp32 then .fp32
  else if a = .int32 ∨ b = .int32 then (if a = .int8 ∨ b = .int8 then .int32 else .fp32)
  else if eight a && eight b then .fp16
  else if (a = .bf16 ∧ b = .fp16) ∨ (a = .fp16 ∧ b = .bf16) then .fp32
  else if a = .bf16 ∨ b = .bf16 then .bf16
  else .fp16

/-- FP4-E2M1 expands to FP8-E4M3 and INT4 to INT8, exactly (R69). -/
def expand (f : Fmt) (v : Nat) : Fmt × Nat :=
  match f with
  | .fp4 => (.e4m3, (convert .e4m3 false (Fmt.fp4.value v)).val)
  | .int4 => (.int8, ofSigned 8 (toSigned 4 v))
  | g => (g, v)

/-- The format an array or vector operand has after expansion (R69). -/
def Fmt.expanded : Fmt → Fmt
  | .fp4 => .e4m3
  | .int4 => .int8
  | f => f

end Sys2Proof.Machine
end

