-- ==== Sys2Proof/Machine/StallParts.lean ====
section
/-! DEFINITION. The parts of a stall (R17) as plain data: matrix arrays, control core, vector engine, instruction queue, stream
engines, stall watch, stall port; and the tally cells of a bay. -/

namespace Sys2Proof.Machine

/-- A 32-bit value with its poison bit (R126). -/
structure PVal where
  v : Nat := 0
  p : Bool := false
deriving DecidableEq, Repr

/-! ### Matrix arrays (R91 to R116) -/

/-- The fields of a pass descriptor (R95). -/
structure PassDesc where
  k       : Nat
  n       : Nat
  m       : List Nat         -- M0 to M3
  operand : Nat              -- format codes
  storage : Nat
  abs     : Bool
  wbs     : Bool
  biasEn  : Bool
  wsup    : Bool
  rsv     : Bool             -- some reserved bit is set
  conv    : Nat
  c       : Nat
  clipLo  : Nat
  clipHi  : Nat
  wBase   : Nat
  wStride : Nat
  aBase   : Nat
  aStride : Nat
  oBase   : Nat
  oStride : Nat
  asBase  : Nat
  wsBase  : Nat
  bBase   : Nat
deriving DecidableEq, Repr

/-- A weight set: up to 64 rows of N elements in the operand format, and the scale bytes of its two row groups (R100). -/
structure WSet where
  rows   : List (List PVal)
  scale0 : List PVal
  scale1 : List PVal
deriving DecidableEq, Repr

/-- An exact partial sum of a row group with the NaN creations it met (R92, R81). -/
structure PSum where
  v   : Val := .fin false 0 0
  p   : Bool := false
  inv : Nat := 0
deriving DecidableEq, Repr

/-- One array during an instruction: CUR and NXT of its rows and columns, the front, the sums and the accumulator. -/
structure ArrayUnit where
  m     : Nat                        -- output rows; 0 leaves the array idle
  cur   : List (List PVal) := []     -- CUR of rows 0 to 63
  nxt   : List (Option (List PVal)) := []
  cur0  : List PVal := []            -- scale bytes of row group 0 and 1, CUR and NXT (R93)
  cur1  : List PVal := []
  nxt0  : Option (List PVal) := none
  nxt1  : Option (List PVal) := none
  pass  : Nat := 0                   -- passes completed
  front : Nat := 0                   -- the array row the front passes next
  epi   : Nat := 0                   -- the accumulator row the epilogue takes next
  ahead : Bool := false              -- the activation rows of the last pass have all met their weights (R107, R112)
  sums  : Tab PSum := []             -- key m × 64 + n
  acc   : Tab PVal := []             -- the accumulator, key m × 64 + n
deriving DecidableEq, Repr

/-! ### The instruction queue (R179 to R208) -/

/-- A queue entry: the 128-bit word, its job slot and generation, and its index in the list (R183). -/
structure QEntry where
  word : Nat
  slot : Nat
  gen  : Nat
  idx  : Nat
deriving DecidableEq, Repr

/-- An instruction that has issued and has not completed; seq counts the issues of the stall. -/
structure Issued where
  e   : QEntry
  seq : Nat
deriving DecidableEq, Repr

/-- The running matrix-pass instruction. -/
structure MRun where
  e       : QEntry
  off     : Nat              -- descriptor offset
  d       : PassDesc
  bias    : List PVal
  staging : Option WSet
  next    : Nat              -- the weight set the load path reads next
  units   : List ArrayUnit
deriving DecidableEq, Repr

/-- A repeat block in progress (R188): its length, the iterations left, the next instruction of the block (none while an
iteration has yet to start) and the iteration wait. -/
structure QRep where
  e    : QEntry
  cond : Nat
  len  : Nat
  left : Nat
  pos  : Option Nat
deriving DecidableEq, Repr

/-- A tally map slot (R221) with the OK answers received (R222). -/
structure MapSlot where
  tally : Nat
  bay   : Nat
  cell  : Nat
  count : Nat := 0
  epoch : Nat := 0
deriving DecidableEq, Repr

/-- A job instance dispatched to the stall whose JCOMMIT has not completed there, with its tally map (R195, R221). -/
structure Inst where
  slot : Nat
  gen  : Nat
  map  : List MapSlot
deriving DecidableEq, Repr

/-! ### The control core (R117 to R157) -/

/-- Where a write of the core lands (R124): a physical register (64 to 79 are the shadow copies of g0 to g15), an accumulator,
a port destination index, a word of core memory, or a take-next request. -/
inductive CDest
  | reg (p : Nat)
  | acc (a : Nat)
  | port (i : Nat)
  | mem (off : Nat)
  | take
deriving DecidableEq, Repr

/-- What a write does when it lands: replace the value, replace bits [31:16] (MOVH), or add to the accumulator (R128). -/
inductive CKind
  | set
  | high
  | accumulate
deriving DecidableEq, Repr

/-- A write in flight: `left` issue steps of its context remain before it lands (R138). -/
structure CWrite where
  dest : CDest
  kind : CKind
  v    : Int
  p    : Bool
  left : Nat
deriving DecidableEq, Repr

/-- A hardware loop (R142): body, count n, stages S, ROT, and the iteration k. -/
structure Loop where
  first : Nat
  len   : Nat
  n     : Nat
  s     : Nat
  rot   : Bool
  k     : Nat
deriving DecidableEq, Repr

/-- The control core of a stall. -/
structure Core where
  run     : Bool := false
  halted  : Bool := false
  handler : Bool := false
  sat     : Bool := false
  pc      : Nat := 0
  pbase   : Nat := 0
  plen    : Nat := 0
  ivec    : Nat := 0
  rrb     : Nat := 0
  g       : Tab PVal := []         -- 0 to 63 and the shadow copies 64 to 79
  acc     : List (Int × Bool) := [(0, false), (0, false), (0, false), (0, false)]
  sbStage : Tab PVal := []
  sb      : Tab PVal := []         -- the visible set
  loops   : List Loop := []        -- innermost first
  savedPc : Nat := 0
  savedLoops : List Loop := []
  main    : List CWrite := []      -- writes in flight, oldest first
  hand    : List CWrite := []
  tally   : List (Nat × Option Nat) := []  -- take-next requests in order, with their 64-bit answers once given (R150)
  takeSeq : Nat := 0               -- requests made
  lcHigh  : Nat := 0
  irqEn   : Nat := 0
  irqEdge : Nat := 0
  tmrLoad : Nat := 0
  tmr     : Nat := 0
  mainSinceReti : Bool := false
  auditRaw : Bool := false
  auditWaw : Bool := false
  auditBus : Bool := false
  tag     : Option Nat := none     -- the loop cache (R143)
  cache   : Tab Nat := []          -- bundles by offset in the body, plus one (0 is not captured)
  ports   : List (List Nat) := [[], [], [], [], [], [], [], []]  -- as0 to as7
deriving DecidableEq, Repr

/-! ### The vector engine (R158 to R178) -/

/-- An operand or destination specification (R161). -/
structure VSpec where
  off    : Nat
  stride : Nat
  kind   : Nat
  index  : Nat
  rsv    : Bool
deriving DecidableEq, Repr

/-- A vector descriptor (R160). -/
structure VDesc where
  code  : Nat
  flags : Nat
  conv  : Nat
  fa    : Nat
  fb    : Nat
  fc    : Nat
  fcRsv : Bool
  rows  : Nat
  cols  : Nat
  c     : Nat
  a     : VSpec
  b     : VSpec
  cop   : VSpec
  d     : VSpec
deriving DecidableEq, Repr

/-- A running vector operation: its descriptor, the row it takes next, the visible set as it sampled it at its start (R149), and the
flags that a scalar holds for a segmented scan. -/
structure VRun where
  e     : QEntry
  d     : VDesc
  row   : Nat
  sb    : Tab PVal
  flags : Nat
deriving DecidableEq, Repr

/-! ### Stream engines (R238 to R262) -/

/-- The fields of a stream descriptor (R238). -/
structure StreamDesc where
  fmt     : Nat
  dims    : Nat
  conv    : Nat
  c       : Nat
  far     : Nat
  near    : Nat
  rate    : Nat
  dim     : List Nat        -- five dimension words
  stride  : List Int        -- FSTRIDE1 to FSTRIDE4
  npitch  : Nat
  rsv     : Bool
deriving DecidableEq, Repr

/-- One byte for the core memory of every stall of a WLOAD. -/
structure NearByte where
  off : Nat
  v   : Byte
  p   : Bool
deriving DecidableEq, Repr

/-- A transfer in a descriptor slot. `e` is none for an arm of STR_ARM (R246). -/
structure Transfer where
  e       : Option QEntry
  seq     : Nat
  queue   : Nat             -- the feed queue whose root translates
  opc     : Nat
  off     : Nat             -- descriptor offset
  d       : StreamDesc
  portEn  : Bool
  port    : Nat
  base    : Nat
  dir     : Nat
  chan    : Nat
  mask    : Nat
  started : Bool
  since   : Nat             -- local count at the start (R248)
  lines   : Nat             -- lines completed
  beats   : Nat             -- channel beats moved
  els     : List Nat        -- port-mode elements taken, oldest first (R148)
  done    : Bool            -- everything has moved
  pages   : List Nat        -- faulting pages or elements already counted (R258)
  hold    : List Nat        -- stalls whose WLOAD data waits for an MPASS (R186)
  held    : List NearByte   -- that data
  row     : Nat := 0        -- rows of the walk that have moved
deriving DecidableEq, Repr

/-- A stream engine: active and standby slot (R244). -/
structure Engine where
  active  : Option Transfer := none
  standby : Option Transfer := none
deriving DecidableEq, Repr

/-- A cached translation entry (R255): feed queue, level, the virtual address bits above the level's page, and the entry. -/
structure TlbEntry where
  queue : Nat
  level : Nat
  vpn   : Nat
  entry : Nat
deriving DecidableEq, Repr

/-- A fault record on its way to the feed engine (R258). LEVEL 0xFF says that no walk ended the fault. -/
structure FaultRec where
  kind   : Nat
  engine : Nat
  opc    : Nat
  slot   : Nat
  gen    : Nat
  stall  : Nat
  idx    : Nat
  level  : Nat
  coord  : List Nat         -- i0 to i4
  dva    : Nat
deriving DecidableEq, Repr

/-! ### Stall port (R297 to R302) -/

/-- One inbound beat in a channel buffer (R301). -/
structure PBeat where
  kind   : Nat              -- 0 data, 1 token
  poison : Bool
  data   : List Byte
deriving DecidableEq, Repr

/-- One outbound beat on the stall side (R298): LAST marks the last data beat of the FXCH with issue number seq. -/
structure OBeat where
  chan   : Nat
  kind   : Nat
  last   : Bool
  poison : Bool
  data   : List Byte
  seq    : Nat
deriving DecidableEq, Repr

/-! ### The stall -/

/-- The stall watch (R202, R203). -/
structure Watch where
  quiet   : Bool := false
  expired : Bool := false
  episode : Nat := 0
  since   : Nat := 0             -- local count from which the interval is measured
  frozen  : Option Nat := none   -- STL_WATCH_STATE as it stood at an abandonment
deriving DecidableEq, Repr

/-- One stall. (DEDUCED, log entry 211). -/
structure Stall where
  queue    : List QEntry := []          -- at most 512 entries
  held     : List QEntry := []          -- the rest of the lists, held by the feed engine (R207)
  inflight : List Issued := []
  issues   : Nat := 0                   -- issue numbers given
  rep      : Option QRep := none
  run      : Option (Nat × Nat) := none -- slot and generation of the job whose JBEGIN has issued
  faulted  : List (Nat × Nat) := []     -- instances whose precise fault stops their issue (R206)
  commit   : Option (QEntry × Nat) := none   -- JCOMMIT issued, with the reports still to be applied
  insts    : List Inst := []
  counts   : Tab Nat := []              -- token counts: key (slot × 2 + core) × 4096 + name (R192)
  core     : Core := {}
  mrun     : Option MRun := none
  drain    : Bool := false
  vrun     : Option VRun := none
  vop      : Nat := 0                   -- OP of the running or last vector operation
  vt       : Tab Byte := []             -- tile buffers T0 to T3: key t × 0x4000 + offset
  vtTag    : Tab Bool := []
  engines  : List Engine := [{}, {}, {}, {}]
  tlb      : List TlbEntry := []        -- at most 64, oldest first
  watch    : Watch := {}
  inBuf    : Tab (List PBeat) := []     -- inbound channel buffers, at most 16 beats each
  out      : List OBeat := []           -- outbound beats in the order the port produced them (R300)
deriving DecidableEq, Repr

/-- The word of a stall's state that is at its reset value. -/
def Stall.init : Stall := {}

/-! ### Tallies (R217 to R227) -/

/-- A tally cell (R217). STATE is 0 idle, 1 armed, 2 exhausted. -/
structure Cell where
  state : Nat := 0
  cover : Bool := false
  job   : Nat := 0
  gen   : Nat := 0
  epoch : Nat := 0
  base  : Nat := 0
  limit : Nat := 0
  next  : Nat := 0
  taken : Nat := 0
  done  : Nat := 0
deriving DecidableEq, Repr

/-- A take-next request on its way to a cell (R219). `dest` is where a queue TAKE writes its answer. -/
structure TakeReq where
  stall : Nat
  queue : Bool               -- true the instruction queue, false the control core
  seq   : Nat                -- issue number of a queue TAKE
  slot  : Nat
  gen   : Nat
  tally : Nat
  cell  : Nat
deriving DecidableEq, Repr

/-- A tally answer on its way to a stall (R220, R221). -/
structure TakeAns where
  stall  : Nat
  queue  : Bool
  seq    : Nat
  slot   : Nat
  gen    : Nat
  answer : Nat
deriving DecidableEq, Repr

/-- A completion report on its way to a cell (R222). -/
structure Report where
  stall : Nat
  slot  : Nat
  gen   : Nat
  cell  : Nat
  count : Nat
  epoch : Nat
deriving DecidableEq, Repr

end Sys2Proof.Machine
end

