-- ==== Sys2Proof/Machine/JobParts.lean ====
section
/-! DEFINITION. The feed queues and job slots (R390 to R425) as plain data. -/

namespace Sys2Proof.Machine

/-- A token record of a job (R190); `copy` is the stall of the copy that it belongs to in a replicated job (R211). -/
structure TokRec where
  init   : Nat
  cstall : Nat
  pstall : Nat
  ckind  : Nat
  pkind  : Nat
  name   : Nat
  copy   : Option Nat := none
deriving DecidableEq, Repr

/-! ### Job images (R210 to R213, R407, R408) -/

/-- A placement record (R210). -/
structure Placement where
  mode    : Nat              -- 0 explicit, 1 replicated
  barrier : Bool
  least   : Nat              -- MIN_STALLS
  bays    : Nat              -- bit b includes bay b
  stalls  : Nat              -- bit s includes stall s of every included bay
  rsv     : Bool             -- some reserved bit is set
deriving DecidableEq, Repr

/-- A tally claim (R213). -/
structure Claim where
  tally : Nat
  cover : Bool
  base  : Nat
  limit : Nat
  rsv   : Bool
deriving DecidableEq, Repr

/-- An instruction list: the stall it is tagged with and its words. -/
structure JList where
  stall : Nat
  words : List Nat
deriving DecidableEq, Repr

/-- A segment: its stall, or 0xFFFF for every placed stall, its core-memory offset and its bytes (R408). -/
structure Seg where
  stall : Nat
  off   : Nat
  bytes : List Byte
deriving DecidableEq, Repr

/-- A job image as the feed engine has read it (R407). -/
structure Image where
  retry   : Nat
  inplace : Bool
  energy  : Nat
  steps   : Nat
  place   : Placement
  claims  : List Claim
  tokens  : List Nat         -- records of the token table (R190)
  lists   : List JList
  segs    : List Seg
  shadows : List (Nat × Nat) -- device virtual address and length
deriving DecidableEq, Repr

/-! ### Feed queues -/

/-- A completion entry that is to be written: its count, its 64 bytes with PHASE clear (none for a record that leads to no entry),
the journal record to be mirrored first, the HEAD that follows it, and whether it is a COMPLETE or FAULT entry (R396, R413, R417). -/
structure Entry where
  cseq : Nat
  body : List Byte
  jseq : Nat
  jrec : List Byte
  head : Option Nat
  loud : Bool
deriving DecidableEq, Repr

/-- A command record under decision or held (R405, R411). -/
structure CmdRec where
  bytes    : List Byte
  fseq     : Nat
  slots    : Nat
  img      : Image
  ctx      : Option Nat      -- the context of a decode record
  cls      : Nat
  deadline : Nat             -- µs
  user     : Nat
deriving DecidableEq, Repr

/-- A decode batch that is open (R234): its class, the job slots of its records in order, and when the first was accepted. -/
structure OpenBatch where
  cls   : Nat
  slots : List Nat
  since : Nat
deriving DecidableEq, Repr

/-- A batch class (R233). -/
structure BatchClass where
  img     : Image
  queue   : Nat              -- whose root translates IMAGE and RESULT
  listOff : Nat
  result  : Nat
  fill    : Nat
  wait    : Nat
deriving DecidableEq, Repr

/-- One feed queue (R392, R428). -/
structure FeedQueue where
  en       : Bool := false
  root     : Nat := 0            -- level-0 table (R251)
  rootHost : Bool := false
  hbm      : Bool := false
  irq      : Nat := 0
  f        : Nat := 0
  c        : Nat := 0
  owner    : Nat := 0xFFFF
  cb       : Nat := 0
  feed     : Nat := 0
  cpl      : Nat := 0
  mirror   : Nat := 0
  j        : Nat := 0
  shadow   : Nat := 0
  shadowLen : Nat := 0
  head     : Nat := 0
  tail     : Nat := 0            -- TAIL and CDONE as last read
  written  : Nat := 0
  cdone    : Nat := 0
  stop     : Nat := 0            -- cause of the last stop
  aseq     : Nat := 0            -- the next acceptance sequence number
  jseq     : Nat := 0            -- the next journal sequence number
  cseq     : Nat := 0            -- the next completion count
  recs     : List (Nat × Nat) := []   -- journal records, with their CSEQ, that CDONE has not passed (R416)
  copies   : List Nat := []      -- bays whose stacks hold the journal copies (R414)
  waiting  : List Entry := []    -- entries to be written, in count order
  held     : Option CmdRec := none
  batch    : Option OpenBatch := none
  mute     : Bool := false       -- entry and head-line writes are discarded after a stop of cause 3 in a fenced stack (R395)
deriving DecidableEq, Repr

/-- The statuses of entries, journal records and mailbox answers (R433). -/
inductive Status
  | ok | late
  | mbForm | mbOpcode | mbView | range | busy | bayState | batchForm | lcRefused
  | recForm | imageForm
  | instrReserved | instrForm | instrCount | ccoReserved
  | formatReserved | formatMismatch | scaleAlign | passShape | coreRange | vecOpcode | vecShape | vecRange | streamShape
  | streamRange
  | tokenDecl | tokenUnmatched | tokenCycle
  | placeForm | placeLost | tallyClaim | ctxRange | ctxState | claimSpace
  | deadlineUnreachable | energyBudget
  | poisoned | deadlock | tokenOverflow | pcRange | loopDepth | schedHazard | tallyRange | tallyUnderrun | tallyShort
  | ctxLost | bayLost | abandoned
  | cfg (n : Nat)              -- CFG_SESSION 1 to CFG_RESET 15
deriving DecidableEq, Repr

/-- The 16-bit code of a status (R433). -/
def Status.code : Status → Nat
  | .ok => 0 | .late => 1
  | .mbForm => 0x10 | .mbOpcode => 0x11 | .mbView => 0x12 | .range => 0x13 | .busy => 0x14 | .bayState => 0x15
  | .batchForm => 0x16 | .lcRefused => 0x17
  | .recForm => 0x100 | .imageForm => 0x101
  | .instrReserved => 0x102 | .instrForm => 0x103 | .instrCount => 0x104 | .ccoReserved => 0x105
  | .formatReserved => 0x106 | .formatMismatch => 0x107 | .scaleAlign => 0x108 | .passShape => 0x109 | .coreRange => 0x10A
  | .vecOpcode => 0x10B | .vecShape => 0x10C | .vecRange => 0x10D | .streamShape => 0x10E | .streamRange => 0x10F
  | .tokenDecl => 0x110 | .tokenUnmatched => 0x111 | .tokenCycle => 0x112
  | .placeForm => 0x113 | .placeLost => 0x114 | .tallyClaim => 0x115 | .ctxRange => 0x116 | .ctxState => 0x117
  | .claimSpace => 0x118
  | .deadlineUnreachable => 0x119 | .energyBudget => 0x11A
  | .poisoned => 0x200 | .deadlock => 0x201 | .tokenOverflow => 0x202 | .pcRange => 0x203 | .loopDepth => 0x204
  | .schedHazard => 0x205 | .tallyRange => 0x206 | .tallyUnderrun => 0x207 | .tallyShort => 0x208 | .ctxLost => 0x209
  | .bayLost => 0x20A | .abandoned => 0x20B
  | .cfg n => 0x300 + n

/-- A reason for which a run fails (R498): its status and what it names (R434). -/
structure Reason where
  status : Status
  fault  : Bool := false        -- a precise fault under R206
  stall  : Nat := 0xFFFF
  idx    : Nat := 0xFFFFFFFF
  tok    : Option Nat := none
deriving DecidableEq, Repr

/-- A job slot. A decode job (`ctx`) runs in the instance of its batch's leader. -/
structure Job where
  gen    : Nat := 0              -- generation of the slot (R183)
  live   : Bool := false         -- the slot holds an accepted job that has not committed
  queue  : Nat := 0
  img    : Option Image := none
  aseq   : Nat := 0
  fseq   : Nat := 0
  user   : Nat := 0
  order  : Nat := 0              -- order of acceptance over all queues
  taken  : Nat := 0              -- hub local count of the ACCEPT entry
  limit  : Option Nat := none    -- the hub local count of its deadline
  base   : Nat := 0              -- max(P, E) of its prediction, and the prediction (R412); none without STEPS
  pred   : Option Nat := none
  charge : Nat := 0              -- its charge rate in mW (R449)
  ctx    : Option Nat := none
  cls    : Nat := 0
  cla    : Option BatchClass := none   -- its batch class as accepted
  leader : Option Nat := none    -- the slot whose instance runs its batch, once the batch has closed
  batch  : List Nat := []        -- of a leader: the slots of the batch in order
  rows   : Nat := 0              -- of a leader: the entries of the batch's pointer list
  gone   : Tab (Option Nat) := []  -- of a leader: the contexts of entries whose jobs have committed (R234)
  entry  : Nat := 0              -- its entry in the pointer list and the result array
  sent   : Bool := false         -- dispatched
  cells  : List (Nat × Nat) := []  -- the bay and cell that serve each claim
  tokens : List TokRec := []     -- with stall ids as placed
  stalls : List Nat := []        -- the stalls that hold a list of the running instance
  left   : List Nat := []        -- those whose JCOMMIT has not completed
  abandoned : Bool := false      -- firmware has abandoned the running instance
  reasons : List Reason := []    -- why the running instance fails
  faults : List Nat := []        -- kinds of R256 that the running instance met
  poison : Bool := false         -- it met a CTL_POISON or QREP_POISON fault (R259)
  foreign : Bool := false        -- it met one before any fault of R256, so with poison of another origin (R259)
  declared : List Nat := []      -- the stalls in which firmware has declared it deadlocked (R205)
  attempts : Nat := 0            -- runs started
  retried : Nat := 0             -- re-runs that counted against RETRY
  rerun  : Bool := false         -- it is to run again
  asking : Bool := false         -- its fault notices wait for answers (R260)
  notices : List Nat := []       -- the virtual addresses of the notices without an answer
  posted : Nat := 0              -- fault notices posted
  used   : Tab Nat := []         -- array steps of the running instance, by stall
  causes : List Nat := []        -- conditions of R424 observed
  own    : Option Status := none -- a status of this job alone: JOB_ABANDON (R429), CTX_LOST (R236)
deriving DecidableEq, Repr

end Sys2Proof.Machine
end

