-- ==== Sys2Proof/Machine/NetParts.lean ====
section
/-! DEFINITION. The packet network (R339 to R360) and the HBM4 controllers (R263 to R283) as plain data. -/

namespace Sys2Proof.Machine

/-! ### Packet network -/

/-- A flit in a buffer: whether its source's route table set a waypoint (R350), the hub link it takes to or from the hub, and the
network steps it has waited at the head of its channel (R349). -/
structure Hop where
  f    : Flit
  wp   : Bool := false
  link : Nat := 0
  wait : Nat := 0
deriving DecidableEq, Repr

/-- A packet that its source has sent and that has no answer yet, or that waits at its source: a flit with its prefix flit. A
held packet (R353) waits for the route epoch to pass `epoch`. -/
structure Sent where
  pre   : Option Flit := none
  f     : Flit
  wp    : Bool := false
  link  : Nat := 0
  held  : Bool := false
  epoch : Nat := 0
deriving DecidableEq, Repr

/-- A trace writer (R359): records waiting to be written with their ring index, at most 16; whether a record has been lost since
the last one; records taken since the ring started; and whether tracing has stopped. -/
structure Tracer where
  recs : List (Nat × List Byte) := []
  lost : Bool := false
  n    : Nat := 0
  full : Bool := false
deriving DecidableEq, Repr

/-- The state of the packet network. Routers are numbered 0 to 2047 for the stall routers, 2048 + b × 32 + k for edge router k
of bay b, and 3072 for the hub router. -/
structure Net where
  vc      : Tab (List Hop) := []    -- key router × 64 + input port × 8 + class × 2 + phase; at most 4 flits each (R348)
  waiting : Tab (List Sent) := []   -- packets waiting at their source, by endpoint address
  sent    : Tab (List Sent) := []   -- packets without an answer, by endpoint address of the source
  kept    : Tab (List Flit) := []   -- kept answers (R354), key answering endpoint × 2^16 + source endpoint; at most 8
  arrived : Tab (List Flit) := []   -- flits that have reached an endpoint, oldest first
  rr      : Tab Nat := []           -- round-robin over input ports, key router × 8 + output port (R349)
  lock    : Tab Nat := []           -- an output port whose packet still lacks its second flit: its channel plus one (R343)
  fails   : Tab Nat := []           -- consecutive failed replays, key router × 8 + receiving port (R347)
  dead    : Tab Bool := []          -- failed links inside a bay or to an edge router, same key
  closed  : Tab Nat := []           -- closed bridges of each bay (NOC_STATUS.CLOSED)
  epoch   : Tab Nat := []           -- route epoch of each bay (R350)
  route   : Tab Nat := []           -- entries in effect, key bay × 64 + destination bay, plus one; 0 is the reset entry
  tracers : Tab Tracer := []        -- by probe region; 32 is the hub
  selay   : List Flit := []         -- messages delivered to the Selay cores, oldest first
deriving DecidableEq, Repr

/-! ### HBM4 controllers -/

/-- A line read in the queue of a pseudo-channel (R265 to R269). `ask` is the packet it answers; for a read through the HDM window
it is none. The data is the line as the arrival order of R268 gives it. -/
structure HRead where
  ask  : Option Flit
  hpa  : Nat := 0
  line : Nat                 -- L of R264, shifted right by 6
  due  : Nat
  seq  : Nat
  data : List Byte
  bad  : Bool                -- the line carries poison
deriving DecidableEq, Repr

/-- A line in the write queue, with its byte enables (R268). -/
structure HWrite where
  line : Nat
  due  : Nat
  seq  : Nat
  mask : Nat
  old  : Bool                -- the line carried poison before the write
  pm   : Nat := 0            -- its enabled bytes that carry poison
deriving DecidableEq, Repr

/-- What a pseudo-channel must do under Order 1 of R267, in the order in which it fell due: the refresh of an idle bank, an
all-bank refresh for a busy bank or, for 48, for the stack (R272), or the pause of its channel. -/
inductive HForced
  | bank (k : Nat)
  | all (k : Nat)
  | pause
deriving DecidableEq, Repr

/-- A pseudo-channel. -/
structure PChan where
  rq     : List HRead := []
  wq     : List HWrite := []
  seqs   : Nat := 0              -- requests accepted
  drain  : Bool := false
  rows   : Tab Nat := []         -- open row of each bank, plus one
  hits   : Tab Nat := []         -- consecutive row hits of each bank while another row of it is wanted
  debt   : Tab Nat := []
  forced : List HForced := []
deriving DecidableEq, Repr

/-- The controller and stack of one bay. -/
structure Hbm where
  ready    : Bool := false
  temp     : Nat := 0
  tset     : Nat := 0
  pcs      : Tab PChan := []
  training : Option Nat := none      -- the channel in a retraining pause
  deferred : List Nat := []          -- channels whose pause is deferred, oldest first (R274)
  slotCh   : Nat := 31               -- the channel of the last slot, and its time (R273)
  slotAt   : Nat := 0
  trained  : Tab Nat := []           -- temperature at each channel's last training
  fails    : Tab Nat := []           -- consecutive failures by channel (R275)
  lost     : Tab Bool := []          -- channels lost
  lanes    : Tab Nat := []           -- the lanes that each channel's last training replaced by spares (R263)
  ueTimes  : Tab (List Nat) := []    -- times of the uncorrectable reads of each channel (R281)
  phase    : Nat := 0                -- a frequency change: 1 draining, 2 relocking, 3 retraining (R276)
  back     : Bool := false           -- the change runs back to the old set (R277)
  since    : Nat := 0                -- when self-refresh began
deriving DecidableEq, Repr

/-! ### Answers to the outside -/

/-- An answer of the DOE mailbox (R401, R402, R386). -/
inductive Doe
  | discovery (protocol next : Nat)         -- a data object type, discovery 0 or CMA/SPDM 1, and the next index
  | noProtocol                              -- no type has the index
  | version (major minor : Nat)
  | capabilities (ctExponent : Nat)
  | algorithms (p384 sha384 : Bool)
  | digests (digest : List Byte)
  | certificate (bytes : List Byte) (remainder : Nat)
  | challengeAuth (digest nonce signature : List Byte)
  | measurements (total : Nat) (blocks : List (Nat × List Byte)) (nonce signature : List Byte)
  | unsupported (code : Byte)               -- UnsupportedRequest, for a request code
deriving DecidableEq, Repr

/-- Features of CXL 2.0 and of its PCIe base that R386 lists. -/
inductive CxlFeature
  | io | cache | mem | bifurcation | deviceCache | hdmDecoder | biasFlip | poison | viral | gpf | mld | pooling | hotPlug | ide | flr | sriov
  | intx | msi | msix | aer | ras | doe
deriving DecidableEq, Repr

/-- The last answer that the module gave to a master outside it: the value of a register read, a line read through the HDM
window with its poison, a block read on the management bus, what the fabric logic of a paddock received (data with its POISON, or
a flit), an answer of the DOE mailbox with the bytes of its object, what a JTAG data register shifts out, and the capabilities that the
host finds when it enumerates the device. -/
inductive Said
  | reg (m : Master) (off : Nat) (v : Nat)
  | line (hpa : Nat) (data : List Byte) (poison : Bool)
  | block (bs : List Byte)
  | fabric (data : List Byte) (poison : Bool)
  | packet (f : Flit)
  | doe (a : Doe) (object : List Byte)
  | jtag (dr : Nat) (cells : List Bool)
  | caps (fs : List CxlFeature)
deriving DecidableEq, Repr

end Sys2Proof.Machine
end

