-- ==== Sys2Proof/Machine/FabParts.lean ====
section
/-! DEFINITION. The programmable fabric (R284 to R306) and its configuration (R307 to R338) as plain data. -/

namespace Sys2Proof.Machine

/-! ### Fabric -/

/-- A queue controller of a block memory in QUEUE mode (R296): the entry that the next pop returns, the entries held, and the
sticky outputs. -/
structure FabQueue where
  rd    : Nat := 0
  n     : Nat := 0
  over_ : Bool := false
  under : Bool := false
deriving DecidableEq, Repr

/-- A NoC endpoint of a paddock (R303, R356): the packets it holds for the fabric, oldest first, and since when. -/
structure FabEnd where
  hold  : List Flit := []
  since : Nat := 0
deriving DecidableEq, Repr

/-- The I/O registers of a user I/O pin (R305): the value it drives and the value it took in, at the rising and at the falling edge. -/
structure PinRegs where
  outRise : Bool := false
  outFall : Bool := false
  inRise  : Bool := false
  inFall  : Bool := false
deriving DecidableEq, Repr

/-- The fabric of one bay outside its frames. -/
structure Fab where
  lock   : List Bool := [false, false, false, false]   -- PLL n is locked (R288)
  sleep  : Tab Bool := []          -- SLEEP input of each global network (R291)
  irq    : Tab Bool := []          -- interrupt lines (R304)
  queues : Tab FabQueue := []      -- by block of the bay
  busy   : Tab Nat := []           -- consecutive port-B cycles with its enable high, by block, at most 16 (R295)
  hold   : Tab Bool := []          -- B_HOLD of each block's last port-B cycle
  used   : Tab Nat := []           -- port-B cycles with the enable high in this period of the host reference, by block
  winA   : Tab (Nat × Nat) := []   -- the bytes of port A's last write, by block: the first and how many (R294)
  flops  : Tab (Option Bool) := [] -- flip-flops that have left their initial value, by number (R284)
  levels : Tab Bool := []          -- clock wires and root wires as last seen, by number (R284, R290)
  pins   : Tab PinRegs := []       -- by user I/O pin 0 to 15
  ends   : Tab FabEnd := []        -- by endpoint p × 8 + e
  warnCore : Bool := false         -- WARN_CORE and WARN_FAB (R304)
  warnFab  : Bool := false
deriving DecidableEq, Repr

/-! ### Configuration -/

/-- A paddock. STATE is 0 UNCONFIGURED, 1 LOADING, 2 LOADED, 3 RELEASING, 4 RELEASED (R338). -/
structure Pad where
  state  : Nat := 0
  status : Nat := 0                -- status of the last load that targeted it
  nets   : List Nat := []          -- NET_SRC of networks 0 to 15 that it requires, 0 for none; empty while nothing is required
  plls   : List (Nat × Nat) := []  -- CFG and DIV words of PLLs 0 to 3 that it requires
  digest : List Byte := []         -- reference digest; empty while it is zero
  wen    : Bool := false           -- write enables on
  t1     : Nat := 0                -- T1 and T2 of the release that runs, and when its last stage took place
  t2     : Nat := 0
  at_    : Nat := 0
  sites  : Tab Nat := []           -- what the frames set at the hard sites, as loaded
deriving DecidableEq, Repr

/-- A region entry of a manifest (R310). -/
structure Region where
  pad    : Nat
  ffirst : Nat
  flast  : Nat
  mfirst : Nat
  mlast  : Nat
  mem    : Bool
  digest : List Byte
  nets   : List Nat
  plls   : List (Nat × Nat)
  rsv    : Bool
deriving DecidableEq, Repr

/-- The load in progress. STAGE is LOADER of CFG_STATUS; the manifest's fields stand once checks 1 to 8 have passed. -/
structure Load where
  stage   : Nat := 1
  host    : Bool
  addr    : Nat
  len     : Nat
  target  : Nat
  mlen    : Nat := 0
  nblk    : Nat := 0
  keysrc  : Nat := 0
  id      : List Byte := []
  epoch   : Nat := 0
  regions : List Region := []
  next    : Nat := 0               -- INDEX of the next block
  started : List (Nat × Nat) := [] -- bay and PLL that the clock plan started
  since   : Nat := 0               -- when it started them
deriving DecidableEq, Repr

/-- The auditor of a bay (R333, R334): the paddock and frame it hashes next, and whether the paddock has been configured since
its first frame. -/
structure Auditor where
  pad   : Nat := 0
  frame : Nat := 0
  whole : Bool := false
deriving DecidableEq, Repr

/-- The configuration of the module. (DESIGN CHOICE, log entry 112). -/
structure Cfg where
  session : Nat := 0               -- 0 OPEN, 1 ENDED, 2 RUNNING, 3 FAILED
  doneIn  : Bool := false          -- the last sample of DONE
  doneRun : Nat := 0               -- high samples in a row, and whether one was high or DONEWAIT was raised since ENDED began
  doneHigh : Bool := false
  waited  : Bool := false
  doneOut : Bool := false
  ended   : Nat := 0               -- when ENDED began
  load    : Option Load := none
  pads    : Tab Pad := []          -- by global paddock
  frames  : Tab (Tab Byte) := []   -- by global paddock: the bytes of its frames, frame 0 first
  audits  : Tab Auditor := []      -- by bay
  asked   : Option Nat := none     -- the mailbox whose CFG_LOAD waits for the load
deriving DecidableEq, Repr

end Sys2Proof.Machine
end

