-- ==== Sys2Proof/Machine/LinkParts.lean ====
section
/-! DEFINITION. Zilsa ports (R361 to R385) as plain data. -/

namespace Sys2Proof.Machine

/-- An attachment of a port (R377 to R379): MSG flits that wait to be sent, and the credits it holds. -/
structure Att where
  waiting : List Flit := []
  credits : Nat := 64
  returns : Nat := 0           -- credits to return to the peer with the next CONTROL slot
deriving DecidableEq, Repr

/-- A numbered codeword in the replay buffer: its number, its first slot (type and bytes; type 0 where it carries a CONTROL slot alone),
how often it has been replayed in succession, where the slot is a FLIT, the flit as its attachment took it, and, once it has been sent,
the CREDIT bytes of its CONTROL slot (R374, R376, R377). -/
structure Numbered where
  num     : Nat
  kind    : Nat
  body    : List Byte
  f       : Option Flit := none
  replays : Nat := 0
  credits : Option (List Nat) := none
deriving DecidableEq, Repr

/-- A lane's pattern checker (R383): the last bits received, newest first, the bits in a row that were right, whether it has
locked, and its place in the FIXED word. -/
structure Checker where
  hist   : List Bool := []
  run    : Nat := 0
  locked : Bool := false
  phase  : Nat := 0
deriving DecidableEq, Repr

/-- A lane's pattern generator (R383): the last pattern bits, newest first, its place in the FIXED word, the bits sent, and those of the
last period as they left, with inversions. (DESIGN CHOICE, log entry 268). -/
structure Gen where
  hist  : List Bool := List.replicate 31 true
  phase : Nat := 0
  sent  : Nat := 0
  out   : List Bool := []
deriving DecidableEq, Repr

/-- A Zilsa port. STATE is as R371 codes it. -/
structure Link where
  state    : Nat := 0
  rate     : Nat := 0
  compat   : Bool := false         -- the mode in effect
  width    : Nat := 0
  mmcause  : Nat := 0
  fpvalid  : Bool := false
  live     : Nat := 0              -- live, signalling and locked lanes, bit per lane
  signal   : Nat := 0
  lock     : Nat := 0
  retrain  : Bool := false         -- a retrain under R374
  fresh    : Bool := true          -- no entry to UP since DETECT
  tries    : Nat := 0              -- timeouts of the step that runs (R372)
  falling  : Bool := false         -- relocking at the previous rate
  fellBack : Bool := false
  tx       : Nat := 0              -- number of the next numbered codeword sent, and of the next one expected
  rx       : Nat := 0
  txIdx    : Nat := 0              -- least place in the stream of the next codeword sent (R369)
  run      : Nat := 0              -- numbered codewords sent since the last unnumbered one that R369 asks for
  rxIdx    : Nat := 0              -- place in the stream of the next codeword received (R366, R369)
  slots    : List (Nat × List Byte) := []   -- slots received and not yet acted on, oldest first: type and 80 bytes
  nak      : Bool := false         -- a NAK is to be sent with ACK
  naking   : Bool := false         -- a NAK has been sent, and the codeword it asks for has not come
  owed     : Nat := 0              -- numbered codewords with a FLIT or MGMT slot received since the last CONTROL slot sent
  marks    : Tab Nat := []         -- wrong markers in a row on each lane (R367)
  sent     : List Numbered := []   -- the replay buffer, at most 1024
  atts     : List Att := [{}, {}, {}, {}, {}, {}, {}, {}]
  replay   : Bool := false         -- unacknowledged codewords are to be resent at the next entry to UP (R374)
  outs     : List (List (Fin 4)) := []   -- the lines of the codewords sent last, with their markers
  scr      : Tab Nat := []         -- scrambler and descrambler of each lane in compatibility mode (R370)
  descr    : Tab Nat := []
  asked    : Bool := false         -- SLEEP_REQ sent and not cancelled
  inj      : Nat := 0              -- symbols to corrupt in the next numbered codeword (R384)
  injOne   : Tab Bool := []        -- lanes whose next generated bit is inverted (R383)
  checks   : Tab Checker := []
  gens     : Tab Gen := []
  genRate  : Nat := 0              -- the rate code that the link last used
  burst    : Nat := 0              -- periods of the wake burst still to send (R382)
deriving DecidableEq, Repr

end Sys2Proof.Machine
end

