-- ==== Sys2Proof/Machine/RegMap.lean ====
section
/-! DEFINITION. The register map (R8, R37 to R41): one name for each register table of the manual, with its block, its
offset in the block, its fields with their access codes and reset values, and the way from a BAR0 offset to a register. -/

namespace Sys2Proof.Machine

/-- The access codes of R9; LP and PV are attributes of the whole register here. -/
inductive Acc
  | ro | rw | wo | sq | rc
deriving DecidableEq, Repr

/-- One field of a register: bits [hi:lo], its access code, its reset value and the values that are not reserved (R10). -/
structure Fld where
  hi    : Nat
  lo    : Nat
  acc   : Acc
  reset : Nat
  least : Nat
  most  : Nat
  pv    : Bool := false
deriving DecidableEq, Repr

/-- The block a register stands in (R39, R40). The instance is 0 for a block that exists once, the bay number b, the global
stall id g, the global tally number for `cell`, and the region for `prb` (32 is the hub). -/
inductive Blk
  | glb | cfgm | sel | hst | eng | engBay | sec | prb
  | bay | stl | cco | vec | str | tly | cell | hbm | fab | cfg | noc | lnk
deriving DecidableEq, Repr

/-- The registers of the module, one name for each register table. -/
inductive Rn
  | glbId
  | glbEvent
  | glbViol
  | glbViolInfo
  | glbViolCount
  | glbEvringBase
  | glbEvringCtl
  | glbEvringHead
  | glbEvringTail
  | glbEvringLost
  | bayStatus
  | bayEvent
  | bayLcount
  | bayErrCount
  | selIcRoute
  | selIcPendSh
  | selIcPendPriv
  | selIcDone
  | selIcSignal
  | selMsixRaise
  | stlNumEvent
  | stlNumOvf
  | stlNumInv
  | stlAmaxArr
  | stlAmaxStr
  | stlAmaxVec
  | stlArrStatus
  | stlArrEvent
  | stlArrFault
  | stlArrPasses
  | stlArrWstall
  | stlArrPoison
  | stlArrCtl
  | ccoStatus
  | ccoEvent
  | ccoFault
  | ccoCtl
  | ccoPbase
  | ccoPlen
  | ccoIvec
  | ccoIrq
  | ccoIssued
  | ccoWaits
  | ccoBusconf
  | ccoAsDrop
  | vecStatus
  | vecEvent
  | vecFault
  | vecOps
  | vecElems
  | vecWaits
  | vecPoison
  | vecCtl
  | stlIqStatus
  | stlIqEvent
  | stlIqFault
  | stlIqIssued
  | stlTokProd
  | stlTokStale
  | stlTokFabdrop
  | stlWatchCtl
  | stlWatchState
  | stlWatchDeclare
  | tlyEvent
  | tlyForeignInfo
  | tlyTakes
  | tlyLate
  | tlyArmRange
  | tlyArmCmd
  | tlyCellState
  | tlyCellRange
  | tlyCellNext
  | tlyCellCount
  | strEvent
  | strFaultInfo
  | strFaultCoord
  | strFaultDva
  | strFaults
  | strPoison
  | strTlbMiss
  | strWalks
  | strRearms
  | strArm
  | strSlots
  | strTte
  | strLines
  | strDry
  | hbmStatus
  | hbmEvent
  | hbmErrInfo
  | hbmCe
  | hbmUe
  | hbmOdecc
  | hbmErrCtl
  | hbmSched
  | hbmRefCtl
  | hbmRefFall
  | hbmTrainCtl
  | hbmTsetA
  | hbmTsetB
  | hbmFchg
  | hbmRawHolds
  | hbmLate
  | fabStatus
  | fabEvent
  | fabQerrInfo
  | fabQerr
  | fabPortDrop
  | fabPortBeats
  | fabPllCfg
  | fabPllDiv
  | fabGclk
  | cfgStatus
  | cfgLevent
  | cfgLoadResult
  | cfgErrpin
  | cfgCtl
  | cfgRel
  | cfgLoadSrc
  | cfgLoadLen
  | cfgLoadCmd
  | cfgSession
  | cfgEpoch
  | cfgFp64
  | cfgFp
  | cfgSpdigest
  | cfgFpCtl
  | cfgPstate
  | cfgPevent
  | cfgPdigest
  | cfgAuditCtl
  | cfgAuditRounds
  | cfgAuditVote
  | cfgAuditPos
  | nocStatus
  | nocEvent
  | nocDiscard
  | nocReplay
  | nocResend
  | nocWakeCtl
  | nocRoute
  | nocRouteCmd
  | prbPoint
  | prbFilt
  | prbCount
  | prbEvent
  | prbTraceCtl
  | prbTraceBase
  | prbTraceHead
  | prbTraceLost
  | lnkStatus
  | lnkEvent
  | lnkCtl
  | lnkId
  | lnkPeer
  | lnkPeerFp
  | lnkCwCorr
  | lnkSymCorr
  | lnkCwUncorr
  | lnkReplay
  | lnkStuffErr
  | lnkFlits
  | lnkFecInj
  | lnkAtt
  | lnkLaneCtl
  | lnkLaneErr
  | lnkLaneStat
  | hstStatus
  | hstEvent
  | hstMbOwner
  | hstMemLines
  | hstCacheLines
  | hstFqState
  | hstFqPos
  | hstFqCpos
  | engStatus
  | engTickAck
  | engEvent
  | engRailEvent
  | engBudget
  | engCap
  | engIdle
  | engCharged
  | engWindowUsed
  | engCount
  | engBayEvent
  | engBayVset
  | engBayVlim
  | engBayWarn
  | engBayRail
  | engBayTemp
  | engBayRate
  | engBayDip
  | engBayRateCtl
  | engBayWarns
  | secStatus
  | secEvent
  | secBoot
  | secLcNonce
  | secDeviceId
  | secFwDigest
  | secFuseData
  | secFuseProg
  | secFuseStatus
  | secBkey
  | secBkeyCtl
deriving DecidableEq, Repr

/-- Where a register stands and what it holds: register (i, j) of instance n stands at off + i × si + j × sj of its block. -/
structure RegSpec where
  blk    : Blk
  off    : Nat
  si     : Nat := 0
  ni     : Nat := 1
  sj     : Nat := 0
  nj     : Nat := 1
  wide   : Bool := false      -- 64 bits, access code LP
  secure : Bool := false      -- view secure (R43)
  flds   : List Fld
deriving DecidableEq, Repr

/-- The offset of bay window b in BAR0 (R39). -/
def bayWindow (b : Nat) : Nat := 0x2000000 + b * 0x100000

/-- The BAR0 offset of an instance of a block (R39, R40; chapters 8, 12 and 17 for the cells, the module-wide CFG_ registers
and the bay blocks of the ledger). -/
def Blk.base : Blk → Nat → Nat
  | .glb, _ => 0
  | .cfgm, _ => 0x80000
  | .sel, _ => 0x100000
  | .hst, _ => 0x200000
  | .eng, _ => 0x300000
  | .engBay, b => 0x301000 + 0x40 * b
  | .sec, _ => 0x400000
  | .prb, r => if r = 32 then 0x500000 else bayWindow r + 0xD0000
  | .bay, b => bayWindow b
  | .stl, g => bayWindow (g / 64) + 0x40000 + (g % 64) * 0x1000
  | .cco, g => bayWindow (g / 64) + 0x40400 + (g % 64) * 0x1000
  | .vec, g => bayWindow (g / 64) + 0x40800 + (g % 64) * 0x1000
  | .str, g => bayWindow (g / 64) + 0x40C00 + (g % 64) * 0x1000
  | .tly, b => bayWindow b + 0x80000
  | .cell, n => bayWindow (n / 256) + 0x81000 + 32 * (n % 256)
  | .hbm, b => bayWindow b + 0x90000
  | .fab, b => bayWindow b + 0xA0000
  | .cfg, b => bayWindow b + 0xB0000
  | .noc, b => bayWindow b + 0xC0000
  | .lnk, b => bayWindow b + 0xE0000

/-- The block id of an event ring record (R52). -/
def Blk.id : Blk → Nat
  | .glb => 0 | .bay => 1 | .stl => 2 | .cco => 3 | .vec => 4 | .str => 5
  | .tly => 6 | .cell => 6 | .hbm => 7 | .fab => 8 | .cfg => 9 | .cfgm => 9 | .noc => 10 | .lnk => 11
  | .hst => 12 | .sel => 13 | .eng => 14 | .engBay => 14 | .sec => 15 | .prb => 16

/-- The bay of a block instance, 32 for the hub (R52). -/
def Blk.bayOf : Blk → Nat → Nat
  | .glb, _ | .cfgm, _ | .sel, _ | .hst, _ | .eng, _ | .sec, _ => 32
  | .stl, g | .cco, g | .vec, g | .str, g => g / 64
  | .cell, n => n / 256
  | .engBay, b | .prb, b | .bay, b | .tly, b | .hbm, b | .fab, b | .cfg, b | .noc, b | .lnk, b => b

/-- The register tables, chapter by chapter. -/
def Rn.spec : Rn → RegSpec
  | .glbId => { blk := .glb, off := 0x0, flds := [⟨31, 16, .ro, 18482, 0, 65535, false⟩, ⟨15, 8, .ro, 161, 0, 255, false⟩] }
  | .glbEvent => { blk := .glb, off := 0x10, flds := [⟨31, 24, .sq, 0, 0, 255, false⟩, ⟨4, 4, .sq, 0, 0, 1, false⟩, ⟨3, 3, .sq, 0, 0, 1, false⟩, ⟨2, 2, .sq, 0, 0, 1, false⟩, ⟨1, 1, .sq, 0, 0, 1, false⟩, ⟨0, 0, .sq, 0, 0, 1, false⟩] }
  | .glbViol => { blk := .glb, off := 0x18, flds := [⟨31, 24, .sq, 0, 0, 255, false⟩, ⟨1, 1, .sq, 0, 0, 1, false⟩, ⟨0, 0, .sq, 0, 0, 1, false⟩] }
  | .glbViolInfo => { blk := .glb, off := 0x20, wide := true, flds := [⟨63, 62, .ro, 0, 0, 3, false⟩, ⟨61, 50, .ro, 0, 0, 4095, false⟩, ⟨49, 49, .ro, 0, 0, 1, false⟩, ⟨48, 48, .ro, 0, 0, 1, false⟩, ⟨43, 0, .ro, 0, 0, 17592186044415, false⟩] }
  | .glbViolCount => { blk := .glb, off := 0x28, flds := [⟨31, 0, .rc, 0, 0, 4294967295, false⟩] }
  | .glbEvringBase => { blk := .glb, off := 0x40, wide := true, flds := [⟨51, 5, .rw, 0, 0, 140737488355327, true⟩] }
  | .glbEvringCtl => { blk := .glb, off := 0x48, flds := [⟨9, 9, .rw, 0, 0, 1, true⟩, ⟨8, 8, .rw, 0, 0, 1, true⟩, ⟨4, 0, .rw, 6, 6, 16, true⟩] }
  | .glbEvringHead => { blk := .glb, off := 0x4C, flds := [⟨15, 0, .ro, 0, 0, 65535, false⟩] }
  | .glbEvringTail => { blk := .glb, off := 0x50, flds := [⟨15, 0, .rw, 0, 0, 65535, false⟩] }
  | .glbEvringLost => { blk := .glb, off := 0x54, flds := [⟨31, 0, .rc, 0, 0, 4294967295, false⟩] }
  | .bayStatus => { blk := .bay, off := 0x0, flds := [⟨12, 8, .ro, 0, 0, 31, false⟩, ⟨2, 2, .ro, 0, 0, 1, false⟩, ⟨1, 1, .ro, 0, 0, 1, false⟩, ⟨0, 0, .ro, 0, 0, 1, false⟩] }
  | .bayEvent => { blk := .bay, off := 0x10, flds := [⟨31, 24, .sq, 0, 0, 255, false⟩, ⟨7, 7, .sq, 0, 0, 1, false⟩, ⟨6, 6, .sq, 0, 0, 1, false⟩, ⟨5, 5, .sq, 0, 0, 1, false⟩, ⟨4, 4, .sq, 0, 0, 1, false⟩, ⟨3, 3, .sq, 0, 0, 1, false⟩, ⟨2, 2, .sq, 0, 0, 1, false⟩, ⟨1, 1, .sq, 0, 0, 1, false⟩, ⟨0, 0, .sq, 0, 0, 1, false⟩] }
  | .bayLcount => { blk := .bay, off := 0x20, wide := true, flds := [⟨63, 0, .ro, 0, 0, 18446744073709551615, false⟩] }
  | .bayErrCount => { blk := .bay, off := 0x28, flds := [⟨31, 0, .rc, 0, 0, 4294967295, false⟩] }
  | .selIcRoute => { blk := .sel, off := 0x0, si := 0x4, ni := 2048, secure := true, flds := [⟨8, 8, .rw, 0, 0, 1, false⟩, ⟨1, 0, .rw, 0, 0, 3, false⟩] }
  | .selIcPendSh => { blk := .sel, off := 0x2000, si := 0x4, ni := 64, secure := true, flds := [⟨31, 0, .ro, 0, 0, 4294967295, false⟩] }
  | .selIcPendPriv => { blk := .sel, off := 0x2100, secure := true, flds := [⟨31, 0, .ro, 0, 0, 4294967295, false⟩] }
  | .selIcDone => { blk := .sel, off := 0x2110, secure := true, flds := [⟨12, 12, .wo, 0, 0, 1, false⟩, ⟨11, 0, .wo, 0, 0, 4095, false⟩] }
  | .selIcSignal => { blk := .sel, off := 0x2120, secure := true, flds := [⟨1, 0, .wo, 0, 0, 3, false⟩] }
  | .selMsixRaise => { blk := .sel, off := 0x2200, secure := true, flds := [⟨6, 0, .wo, 0, 0, 127, false⟩] }
  | .stlNumEvent => { blk := .stl, off := 0x300, flds := [⟨31, 24, .sq, 0, 0, 255, false⟩, ⟨1, 1, .sq, 0, 0, 1, false⟩, ⟨0, 0, .sq, 0, 0, 1, false⟩] }
  | .stlNumOvf => { blk := .stl, off := 0x304, flds := [⟨31, 0, .rc, 0, 0, 4294967295, false⟩] }
  | .stlNumInv => { blk := .stl, off := 0x308, flds := [⟨31, 0, .rc, 0, 0, 4294967295, false⟩] }
  | .stlAmaxArr => { blk := .stl, off := 0x310, si := 0x4, ni := 4, flds := [⟨30, 0, .rw, 0, 0, 2147483647, false⟩] }
  | .stlAmaxStr => { blk := .stl, off := 0x320, si := 0x4, ni := 4, flds := [⟨30, 0, .rw, 0, 0, 2147483647, false⟩] }
  | .stlAmaxVec => { blk := .stl, off := 0x330, flds := [⟨30, 0, .rw, 0, 0, 2147483647, false⟩] }
  | .stlArrStatus => { blk := .stl, off := 0x0, flds := [⟨9, 9, .ro, 0, 0, 1, false⟩, ⟨8, 8, .ro, 0, 0, 1, false⟩, ⟨7, 4, .ro, 0, 0, 15, false⟩, ⟨3, 0, .ro, 0, 0, 15, false⟩] }
  | .stlArrEvent => { blk := .stl, off := 0x10, flds := [⟨31, 24, .sq, 0, 0, 255, false⟩, ⟨1, 1, .sq, 0, 0, 1, false⟩, ⟨0, 0, .sq, 0, 0, 1, false⟩] }
  | .stlArrFault => { blk := .stl, off := 0x18, wide := true, flds := [⟨39, 36, .ro, 0, 0, 15, false⟩, ⟨35, 32, .ro, 0, 0, 15, false⟩, ⟨23, 0, .ro, 0, 0, 16777215, false⟩] }
  | .stlArrPasses => { blk := .stl, off := 0x20, wide := true, flds := [⟨63, 0, .rc, 0, 0, 18446744073709551615, false⟩] }
  | .stlArrWstall => { blk := .stl, off := 0x28, flds := [⟨31, 0, .rc, 0, 0, 4294967295, false⟩] }
  | .stlArrPoison => { blk := .stl, off := 0x2C, flds := [⟨31, 0, .rc, 0, 0, 4294967295, false⟩] }
  | .stlArrCtl => { blk := .stl, off := 0x30, flds := [⟨0, 0, .rw, 1, 0, 1, true⟩] }
  | .ccoStatus => { blk := .cco, off := 0x0, flds := [⟨31, 31, .ro, 0, 0, 1, false⟩, ⟨30, 30, .ro, 0, 0, 1, false⟩, ⟨29, 27, .ro, 0, 0, 7, false⟩, ⟨26, 26, .ro, 0, 0, 1, false⟩, ⟨25, 25, .ro, 0, 0, 1, false⟩, ⟨24, 23, .ro, 0, 0, 3, false⟩, ⟨22, 18, .ro, 0, 0, 31, false⟩, ⟨12, 0, .ro, 0, 0, 8191, false⟩] }
  | .ccoEvent => { blk := .cco, off := 0x10, flds := [⟨31, 24, .sq, 0, 0, 255, false⟩, ⟨2, 2, .sq, 0, 0, 1, false⟩, ⟨1, 1, .sq, 0, 0, 1, false⟩, ⟨0, 0, .sq, 0, 0, 1, false⟩] }
  | .ccoFault => { blk := .cco, off := 0x18, wide := true, flds := [⟨55, 32, .ro, 0, 0, 16777215, false⟩, ⟨31, 28, .ro, 0, 0, 15, false⟩, ⟨27, 25, .ro, 0, 0, 7, false⟩, ⟨24, 24, .ro, 0, 0, 1, false⟩, ⟨12, 0, .ro, 0, 0, 8191, false⟩] }
  | .ccoCtl => { blk := .cco, off := 0x20, flds := [⟨2, 2, .rw, 0, 0, 1, false⟩, ⟨1, 1, .rw, 0, 0, 1, false⟩, ⟨0, 0, .rw, 0, 0, 1, false⟩] }
  | .ccoPbase => { blk := .cco, off := 0x24, flds := [⟨23, 6, .ro, 0, 0, 262143, false⟩] }
  | .ccoPlen => { blk := .cco, off := 0x28, flds := [⟨13, 0, .ro, 0, 0, 16383, false⟩] }
  | .ccoIvec => { blk := .cco, off := 0x2C, flds := [⟨12, 0, .ro, 0, 0, 8191, false⟩] }
  | .ccoIrq => { blk := .cco, off := 0x30, flds := [⟨15, 8, .ro, 0, 0, 255, false⟩, ⟨7, 0, .ro, 0, 0, 255, false⟩] }
  | .ccoIssued => { blk := .cco, off := 0x40, wide := true, flds := [⟨63, 0, .rc, 0, 0, 18446744073709551615, false⟩] }
  | .ccoWaits => { blk := .cco, off := 0x48, flds := [⟨31, 0, .rc, 0, 0, 4294967295, false⟩] }
  | .ccoBusconf => { blk := .cco, off := 0x4C, flds := [⟨31, 0, .rc, 0, 0, 4294967295, false⟩] }
  | .ccoAsDrop => { blk := .cco, off := 0x50, flds := [⟨31, 0, .rc, 0, 0, 4294967295, false⟩] }
  | .vecStatus => { blk := .vec, off := 0x0, flds := [⟨31, 31, .ro, 0, 0, 1, false⟩, ⟨30, 30, .ro, 0, 0, 1, false⟩, ⟨23, 16, .ro, 0, 0, 255, false⟩, ⟨11, 0, .ro, 0, 0, 4095, false⟩] }
  | .vecEvent => { blk := .vec, off := 0x10, flds := [⟨31, 24, .sq, 0, 0, 255, false⟩, ⟨1, 1, .sq, 0, 0, 1, false⟩, ⟨0, 0, .sq, 0, 0, 1, false⟩] }
  | .vecFault => { blk := .vec, off := 0x18, wide := true, flds := [⟨43, 40, .ro, 0, 0, 15, false⟩, ⟨39, 36, .ro, 0, 0, 15, false⟩, ⟨31, 24, .ro, 0, 0, 255, false⟩, ⟨23, 0, .ro, 0, 0, 16777215, false⟩] }
  | .vecOps => { blk := .vec, off := 0x20, wide := true, flds := [⟨63, 0, .rc, 0, 0, 18446744073709551615, false⟩] }
  | .vecElems => { blk := .vec, off := 0x28, wide := true, flds := [⟨63, 0, .rc, 0, 0, 18446744073709551615, false⟩] }
  | .vecWaits => { blk := .vec, off := 0x30, flds := [⟨31, 0, .rc, 0, 0, 4294967295, false⟩] }
  | .vecPoison => { blk := .vec, off := 0x34, flds := [⟨31, 0, .rc, 0, 0, 4294967295, false⟩] }
  | .vecCtl => { blk := .vec, off := 0x38, flds := [⟨0, 0, .rw, 1, 0, 1, true⟩] }
  | .stlIqStatus => { blk := .stl, off := 0x100, flds := [⟨31, 31, .ro, 0, 0, 1, false⟩, ⟨30, 30, .ro, 0, 0, 1, false⟩, ⟨29, 20, .ro, 0, 0, 1023, false⟩, ⟨19, 15, .ro, 0, 0, 31, false⟩, ⟨9, 0, .ro, 0, 0, 1023, false⟩] }
  | .stlIqEvent => { blk := .stl, off := 0x110, flds := [⟨31, 24, .sq, 0, 0, 255, false⟩, ⟨3, 3, .sq, 0, 0, 1, false⟩, ⟨2, 2, .sq, 0, 0, 1, false⟩, ⟨1, 1, .sq, 0, 0, 1, false⟩, ⟨0, 0, .sq, 0, 0, 1, false⟩] }
  | .stlIqFault => { blk := .stl, off := 0x118, wide := true, flds := [⟨63, 48, .ro, 0, 0, 65535, false⟩, ⟨47, 40, .ro, 0, 0, 255, false⟩, ⟨39, 30, .ro, 0, 0, 1023, false⟩, ⟨23, 0, .ro, 0, 0, 16777215, false⟩] }
  | .stlIqIssued => { blk := .stl, off := 0x120, wide := true, flds := [⟨63, 0, .rc, 0, 0, 18446744073709551615, false⟩] }
  | .stlTokProd => { blk := .stl, off := 0x128, flds := [⟨31, 0, .rc, 0, 0, 4294967295, false⟩] }
  | .stlTokStale => { blk := .stl, off := 0x12C, flds := [⟨31, 0, .rc, 0, 0, 4294967295, false⟩] }
  | .stlTokFabdrop => { blk := .stl, off := 0x130, flds := [⟨31, 0, .rc, 0, 0, 4294967295, false⟩] }
  | .stlWatchCtl => { blk := .stl, off := 0x140, flds := [⟨31, 31, .rw, 1, 0, 1, true⟩, ⟨29, 0, .rw, 1000000, 100000, 1000000000, true⟩] }
  | .stlWatchState => { blk := .stl, off := 0x148, wide := true, flds := [⟨63, 63, .ro, 0, 0, 1, false⟩, ⟨62, 62, .ro, 0, 0, 1, false⟩, ⟨61, 61, .ro, 0, 0, 1, false⟩, ⟨60, 60, .ro, 0, 0, 1, false⟩, ⟨55, 48, .ro, 0, 0, 255, false⟩, ⟨47, 32, .ro, 0, 0, 65535, false⟩, ⟨31, 22, .ro, 0, 0, 1023, false⟩, ⟨12, 12, .ro, 0, 0, 1, false⟩, ⟨11, 0, .ro, 0, 0, 4095, false⟩] }
  | .stlWatchDeclare => { blk := .stl, off := 0x150, secure := true, flds := [⟨9, 0, .wo, 0, 0, 1023, false⟩] }
  | .tlyEvent => { blk := .tly, off := 0x0, flds := [⟨31, 24, .sq, 0, 0, 255, false⟩, ⟨3, 3, .sq, 0, 0, 1, false⟩, ⟨2, 2, .sq, 0, 0, 1, false⟩, ⟨1, 1, .sq, 0, 0, 1, false⟩, ⟨0, 0, .sq, 0, 0, 1, false⟩] }
  | .tlyForeignInfo => { blk := .tly, off := 0x8, wide := true, flds := [⟨63, 51, .ro, 0, 0, 8191, false⟩, ⟨50, 50, .ro, 0, 0, 1, false⟩, ⟨49, 40, .ro, 0, 0, 1023, false⟩, ⟨39, 32, .ro, 0, 0, 255, false⟩, ⟨31, 24, .ro, 0, 0, 255, false⟩, ⟨10, 0, .ro, 0, 0, 2047, false⟩] }
  | .tlyTakes => { blk := .tly, off := 0x10, wide := true, flds := [⟨63, 0, .rc, 0, 0, 18446744073709551615, false⟩] }
  | .tlyLate => { blk := .tly, off := 0x18, flds := [⟨31, 0, .rc, 0, 0, 4294967295, false⟩] }
  | .tlyArmRange => { blk := .tly, off := 0x20, wide := true, secure := true, flds := [⟨63, 32, .rw, 0, 0, 4294967295, false⟩, ⟨31, 0, .rw, 0, 0, 4294967295, false⟩] }
  | .tlyArmCmd => { blk := .tly, off := 0x28, secure := true, flds := [⟨31, 30, .wo, 0, 0, 3, false⟩, ⟨29, 29, .wo, 0, 0, 1, false⟩, ⟨28, 21, .wo, 0, 0, 255, false⟩, ⟨20, 11, .wo, 0, 0, 1023, false⟩, ⟨7, 0, .wo, 0, 0, 255, false⟩] }
  | .tlyCellState => { blk := .cell, off := 0x0, wide := true, flds := [⟨63, 62, .ro, 0, 0, 3, false⟩, ⟨61, 61, .ro, 0, 0, 1, false⟩, ⟨57, 48, .ro, 0, 0, 1023, false⟩, ⟨47, 40, .ro, 0, 0, 255, false⟩, ⟨15, 0, .ro, 0, 0, 65535, false⟩] }
  | .tlyCellRange => { blk := .cell, off := 0x8, wide := true, flds := [⟨63, 32, .ro, 0, 0, 4294967295, false⟩, ⟨31, 0, .ro, 0, 0, 4294967295, false⟩] }
  | .tlyCellNext => { blk := .cell, off := 0x10, flds := [⟨31, 0, .ro, 0, 0, 4294967295, false⟩] }
  | .tlyCellCount => { blk := .cell, off := 0x18, wide := true, flds := [⟨63, 32, .ro, 0, 0, 4294967295, false⟩, ⟨31, 0, .ro, 0, 0, 4294967295, false⟩] }
  | .strEvent => { blk := .str, off := 0x0, flds := [⟨31, 24, .sq, 0, 0, 255, false⟩, ⟨1, 1, .sq, 0, 0, 1, false⟩, ⟨0, 0, .sq, 0, 0, 1, false⟩] }
  | .strFaultInfo => { blk := .str, off := 0x8, wide := true, flds := [⟨63, 60, .ro, 0, 0, 15, false⟩, ⟨59, 58, .ro, 0, 0, 3, false⟩, ⟨57, 56, .ro, 0, 0, 3, false⟩, ⟨55, 48, .ro, 0, 0, 255, false⟩, ⟨47, 38, .ro, 0, 0, 1023, false⟩, ⟨32, 32, .ro, 0, 0, 1, false⟩, ⟨31, 16, .ro, 0, 0, 65535, false⟩, ⟨15, 8, .ro, 0, 0, 255, false⟩] }
  | .strFaultCoord => { blk := .str, off := 0x10, wide := true, flds := [⟨63, 48, .ro, 0, 0, 65535, false⟩, ⟨47, 32, .ro, 0, 0, 65535, false⟩, ⟨31, 16, .ro, 0, 0, 65535, false⟩, ⟨15, 0, .ro, 0, 0, 65535, false⟩] }
  | .strFaultDva => { blk := .str, off := 0x18, wide := true, flds := [⟨63, 48, .ro, 0, 0, 65535, false⟩, ⟨47, 0, .ro, 0, 0, 281474976710655, false⟩] }
  | .strFaults => { blk := .str, off := 0x20, flds := [⟨31, 0, .rc, 0, 0, 4294967295, false⟩] }
  | .strPoison => { blk := .str, off := 0x24, flds := [⟨31, 0, .rc, 0, 0, 4294967295, false⟩] }
  | .strTlbMiss => { blk := .str, off := 0x28, flds := [⟨31, 0, .rc, 0, 0, 4294967295, false⟩] }
  | .strWalks => { blk := .str, off := 0x2C, flds := [⟨31, 0, .rc, 0, 0, 4294967295, false⟩] }
  | .strRearms => { blk := .str, off := 0x30, flds := [⟨31, 0, .rc, 0, 0, 4294967295, false⟩] }
  | .strArm => { blk := .str, off := 0x40, si := 0x4, ni := 4, secure := true, flds := [⟨31, 31, .wo, 0, 0, 1, false⟩, ⟨29, 24, .wo, 0, 0, 63, false⟩, ⟨23, 0, .wo, 0, 0, 16777215, false⟩] }
  | .strSlots => { blk := .str, off := 0x100, si := 0x40, ni := 4, flds := [⟨31, 31, .ro, 0, 0, 1, false⟩, ⟨30, 30, .ro, 0, 0, 1, false⟩, ⟨29, 29, .ro, 0, 0, 1, false⟩, ⟨23, 0, .ro, 0, 0, 16777215, false⟩] }
  | .strTte => { blk := .str, off := 0x104, si := 0x40, ni := 4, flds := [⟨11, 0, .ro, 4095, 0, 4095, false⟩] }
  | .strLines => { blk := .str, off := 0x108, si := 0x40, ni := 4, wide := true, flds := [⟨63, 0, .rc, 0, 0, 18446744073709551615, false⟩] }
  | .strDry => { blk := .str, off := 0x110, si := 0x40, ni := 4, flds := [⟨31, 0, .rc, 0, 0, 4294967295, false⟩] }
  | .hbmStatus => { blk := .hbm, off := 0x0, flds := [⟨31, 31, .ro, 0, 0, 1, false⟩, ⟨30, 30, .ro, 0, 0, 1, false⟩, ⟨29, 28, .ro, 0, 0, 3, false⟩, ⟨23, 16, .ro, 0, 0, 255, false⟩, ⟨15, 8, .ro, 255, 0, 255, false⟩, ⟨0, 0, .ro, 0, 0, 1, false⟩] }
  | .hbmEvent => { blk := .hbm, off := 0x10, flds := [⟨31, 24, .sq, 0, 0, 255, false⟩, ⟨3, 3, .sq, 0, 0, 1, false⟩, ⟨2, 2, .sq, 0, 0, 1, false⟩, ⟨1, 1, .sq, 0, 0, 1, false⟩, ⟨0, 0, .sq, 0, 0, 1, false⟩] }
  | .hbmErrInfo => { blk := .hbm, off := 0x18, wide := true, flds := [⟨63, 61, .ro, 0, 0, 7, false⟩, ⟨60, 60, .ro, 0, 0, 1, false⟩, ⟨36, 6, .ro, 0, 0, 2147483647, false⟩] }
  | .hbmCe => { blk := .hbm, off := 0x20, flds := [⟨31, 0, .rc, 0, 0, 4294967295, false⟩] }
  | .hbmUe => { blk := .hbm, off := 0x24, flds := [⟨31, 0, .rc, 0, 0, 4294967295, false⟩] }
  | .hbmOdecc => { blk := .hbm, off := 0x28, flds := [⟨31, 0, .rc, 0, 0, 4294967295, false⟩] }
  | .hbmErrCtl => { blk := .hbm, off := 0x30, flds := [⟨4, 0, .rw, 16, 1, 31, true⟩] }
  | .hbmSched => { blk := .hbm, off := 0x40, flds := [⟨31, 20, .rw, 64, 0, 4095, true⟩, ⟨19, 15, .rw, 16, 1, 31, true⟩, ⟨14, 12, .rw, 4, 0, 7, true⟩, ⟨11, 6, .rw, 48, 1, 63, true⟩, ⟨5, 0, .rw, 16, 0, 62, true⟩] }
  | .hbmRefCtl => { blk := .hbm, off := 0x50, flds := [⟨3, 0, .rw, 8, 1, 8, true⟩] }
  | .hbmRefFall => { blk := .hbm, off := 0x58, flds := [⟨31, 0, .rc, 0, 0, 4294967295, false⟩] }
  | .hbmTrainCtl => { blk := .hbm, off := 0x70, flds := [⟨31, 22, .rw, 64, 1, 1000, true⟩, ⟨21, 10, .rw, 200, 0, 4095, true⟩, ⟨3, 0, .rw, 8, 1, 15, true⟩] }
  | .hbmTsetA => { blk := .hbm, off := 0x80, si := 0x10, ni := 2, secure := true, flds := [⟨31, 30, .rw, 0, 0, 3, false⟩, ⟨29, 24, .rw, 16, 0, 63, false⟩, ⟨23, 16, .rw, 16, 0, 255, false⟩, ⟨15, 8, .rw, 16, 0, 255, false⟩, ⟨7, 0, .rw, 33, 0, 255, false⟩] }
  | .hbmTsetB => { blk := .hbm, off := 0x84, si := 0x10, ni := 2, secure := true, flds := [⟨31, 22, .rw, 410, 0, 1023, false⟩, ⟨21, 13, .rw, 190, 0, 511, false⟩, ⟨12, 0, .rw, 3900, 0, 8191, false⟩] }
  | .hbmFchg => { blk := .hbm, off := 0xA0, secure := true, flds := [⟨0, 0, .wo, 0, 0, 1, false⟩] }
  | .hbmRawHolds => { blk := .hbm, off := 0xB0, flds := [⟨31, 0, .rc, 0, 0, 4294967295, false⟩] }
  | .hbmLate => { blk := .hbm, off := 0xB4, flds := [⟨31, 0, .rc, 0, 0, 4294967295, false⟩] }
  | .fabStatus => { blk := .fab, off := 0x0, flds := [⟨27, 24, .ro, 0, 0, 15, false⟩, ⟨17, 17, .ro, 0, 0, 1, false⟩, ⟨16, 16, .ro, 0, 0, 1, false⟩, ⟨15, 0, .ro, 0, 0, 65535, false⟩] }
  | .fabEvent => { blk := .fab, off := 0x10, flds := [⟨31, 24, .sq, 0, 0, 255, false⟩, ⟨2, 2, .sq, 0, 0, 1, false⟩, ⟨1, 1, .sq, 0, 0, 1, false⟩, ⟨0, 0, .sq, 0, 0, 1, false⟩] }
  | .fabQerrInfo => { blk := .fab, off := 0x18, wide := true, flds := [⟨63, 62, .ro, 0, 0, 3, false⟩, ⟨43, 32, .ro, 0, 0, 4095, false⟩] }
  | .fabQerr => { blk := .fab, off := 0x20, flds := [⟨31, 0, .rc, 0, 0, 4294967295, false⟩] }
  | .fabPortDrop => { blk := .fab, off := 0x24, flds := [⟨31, 0, .rc, 0, 0, 4294967295, false⟩] }
  | .fabPortBeats => { blk := .fab, off := 0x28, wide := true, flds := [⟨63, 0, .rc, 0, 0, 18446744073709551615, false⟩] }
  | .fabPllCfg => { blk := .fab, off := 0x40, si := 0x8, ni := 4, secure := true, flds := [⟨31, 31, .rw, 0, 0, 1, false⟩, ⟨30, 29, .rw, 0, 0, 2, false⟩, ⟨28, 26, .rw, 0, 0, 7, false⟩, ⟨25, 19, .rw, 24, 12, 96, false⟩] }
  | .fabPllDiv => { blk := .fab, off := 0x44, si := 0x8, ni := 4, secure := true, flds := [⟨31, 24, .rw, 5, 1, 255, false⟩, ⟨23, 16, .rw, 5, 1, 255, false⟩, ⟨15, 8, .rw, 5, 1, 255, false⟩, ⟨7, 0, .rw, 5, 1, 255, false⟩] }
  | .fabGclk => { blk := .fab, off := 0x80, si := 0x4, ni := 16, secure := true, flds := [⟨4, 0, .rw, 0, 0, 26, false⟩] }
  | .cfgStatus => { blk := .cfgm, off := 0x0, flds := [⟨11, 8, .ro, 0, 0, 15, false⟩, ⟨5, 5, .ro, 0, 0, 1, false⟩, ⟨4, 4, .ro, 0, 0, 1, false⟩, ⟨3, 3, .ro, 0, 0, 1, false⟩, ⟨1, 0, .ro, 0, 0, 3, false⟩] }
  | .cfgLevent => { blk := .cfgm, off := 0x10, flds := [⟨31, 24, .sq, 0, 0, 255, false⟩, ⟨3, 3, .sq, 0, 0, 1, false⟩, ⟨2, 2, .sq, 0, 0, 1, false⟩, ⟨1, 1, .sq, 0, 0, 1, false⟩, ⟨0, 0, .sq, 0, 0, 1, false⟩] }
  | .cfgLoadResult => { blk := .cfgm, off := 0x18, flds := [⟨31, 28, .ro, 0, 0, 15, false⟩, ⟨23, 16, .ro, 0, 0, 255, false⟩, ⟨15, 0, .ro, 0, 0, 65535, false⟩] }
  | .cfgErrpin => { blk := .cfgm, off := 0x1C, secure := true, flds := [⟨1, 1, .rw, 0, 0, 1, false⟩, ⟨0, 0, .ro, 0, 0, 1, false⟩] }
  | .cfgCtl => { blk := .cfgm, off := 0x20, flds := [⟨31, 31, .rw, 0, 0, 1, true⟩, ⟨15, 0, .rw, 0, 0, 65535, true⟩] }
  | .cfgRel => { blk := .cfgm, off := 0x24, flds := [⟨31, 16, .rw, 16, 0, 65535, true⟩, ⟨15, 0, .rw, 16, 0, 65535, true⟩] }
  | .cfgLoadSrc => { blk := .cfgm, off := 0x30, wide := true, secure := true, flds := [⟨63, 63, .rw, 0, 0, 1, false⟩, ⟨51, 0, .rw, 0, 0, 4503599627370495, false⟩] }
  | .cfgLoadLen => { blk := .cfgm, off := 0x38, secure := true, flds := [⟨31, 0, .rw, 0, 0, 4294967295, false⟩] }
  | .cfgLoadCmd => { blk := .cfgm, off := 0x3C, secure := true, flds := [⟨31, 30, .wo, 0, 0, 3, false⟩, ⟨7, 0, .wo, 0, 0, 255, false⟩] }
  | .cfgSession => { blk := .cfgm, off := 0x40, secure := true, flds := [⟨1, 0, .wo, 0, 0, 3, false⟩] }
  | .cfgEpoch => { blk := .cfgm, off := 0x48, flds := [⟨31, 0, .ro, 0, 0, 4294967295, false⟩] }
  | .cfgFp64 => { blk := .cfgm, off := 0x50, wide := true, flds := [⟨63, 0, .ro, 0, 0, 18446744073709551615, false⟩] }
  | .cfgFp => { blk := .cfgm, off := 0x60, si := 0x4, ni := 12, flds := [⟨31, 0, .ro, 0, 0, 4294967295, false⟩] }
  | .cfgSpdigest => { blk := .cfgm, off := 0xA0, si := 0x4, ni := 12, secure := true, flds := [⟨31, 0, .rw, 0, 0, 4294967295, false⟩] }
  | .cfgFpCtl => { blk := .cfgm, off := 0xD0, flds := [⟨9, 0, .rw, 200, 1, 1000, true⟩] }
  | .cfgPstate => { blk := .cfg, off := 0x0, si := 0x100, ni := 8, flds := [⟨31, 16, .ro, 0, 0, 65535, false⟩, ⟨15, 12, .ro, 0, 0, 15, false⟩, ⟨7, 4, .ro, 0, 0, 15, false⟩, ⟨2, 0, .ro, 0, 0, 7, false⟩] }
  | .cfgPevent => { blk := .cfg, off := 0x10, si := 0x100, ni := 8, flds := [⟨31, 24, .sq, 0, 0, 255, false⟩, ⟨2, 2, .sq, 0, 0, 1, false⟩, ⟨1, 1, .sq, 0, 0, 1, false⟩, ⟨0, 0, .sq, 0, 0, 1, false⟩] }
  | .cfgPdigest => { blk := .cfg, off := 0x40, si := 0x100, ni := 8, sj := 4, nj := 12, flds := [⟨31, 0, .ro, 0, 0, 4294967295, false⟩] }
  | .cfgAuditCtl => { blk := .cfg, off := 0x800, flds := [⟨15, 0, .rw, 1744, 100, 65535, true⟩] }
  | .cfgAuditRounds => { blk := .cfg, off := 0x808, flds := [⟨31, 0, .rc, 0, 0, 4294967295, false⟩] }
  | .cfgAuditVote => { blk := .cfg, off := 0x80C, flds := [⟨31, 0, .rc, 0, 0, 4294967295, false⟩] }
  | .cfgAuditPos => { blk := .cfg, off := 0x810, flds := [⟨18, 16, .ro, 0, 0, 7, false⟩, ⟨13, 0, .ro, 0, 0, 16383, false⟩] }
  | .nocStatus => { blk := .noc, off := 0x0, flds := [⟨31, 16, .ro, 0, 0, 65535, false⟩, ⟨3, 0, .ro, 0, 0, 15, false⟩] }
  | .nocEvent => { blk := .noc, off := 0x10, flds := [⟨31, 24, .sq, 0, 0, 255, false⟩, ⟨2, 2, .sq, 0, 0, 1, false⟩, ⟨1, 1, .sq, 0, 0, 1, false⟩, ⟨0, 0, .sq, 0, 0, 1, false⟩] }
  | .nocDiscard => { blk := .noc, off := 0x20, flds := [⟨31, 0, .rc, 0, 0, 4294967295, false⟩] }
  | .nocReplay => { blk := .noc, off := 0x24, flds := [⟨31, 0, .rc, 0, 0, 4294967295, false⟩] }
  | .nocResend => { blk := .noc, off := 0x28, flds := [⟨31, 0, .rc, 0, 0, 4294967295, false⟩] }
  | .nocWakeCtl => { blk := .noc, off := 0x30, flds := [⟨15, 0, .rw, 1000, 1, 65535, true⟩] }
  | .nocRoute => { blk := .noc, off := 0x100, si := 0x4, ni := 33, secure := true, flds := [⟨31, 31, .rw, 0, 0, 1, false⟩, ⟨29, 24, .rw, 0, 0, 63, false⟩, ⟨20, 16, .rw, 0, 0, 31, false⟩, ⟨1, 0, .rw, 0, 0, 3, false⟩] }
  | .nocRouteCmd => { blk := .noc, off := 0x200, secure := true, flds := [⟨0, 0, .wo, 0, 0, 1, false⟩] }
  | .prbPoint => { blk := .prb, off := 0x0, si := 0x20, ni := 4, flds := [⟨31, 31, .rw, 0, 0, 1, false⟩, ⟨30, 30, .rw, 0, 0, 1, false⟩, ⟨10, 8, .rw, 0, 0, 6, false⟩, ⟨5, 0, .rw, 0, 0, 63, false⟩] }
  | .prbFilt => { blk := .prb, off := 0x8, si := 0x20, ni := 4, wide := true, flds := [⟨63, 32, .rw, 0, 0, 4294967295, false⟩, ⟨31, 0, .rw, 0, 0, 4294967295, false⟩] }
  | .prbCount => { blk := .prb, off := 0x10, si := 0x20, ni := 4, wide := true, flds := [⟨63, 0, .rc, 0, 0, 18446744073709551615, false⟩] }
  | .prbEvent => { blk := .prb, off := 0x80, flds := [⟨31, 24, .sq, 0, 0, 255, false⟩, ⟨0, 0, .sq, 0, 0, 1, false⟩] }
  | .prbTraceCtl => { blk := .prb, off := 0x88, flds := [⟨31, 31, .rw, 0, 0, 1, false⟩, ⟨30, 30, .rw, 0, 0, 1, false⟩, ⟨4, 0, .rw, 6, 6, 20, false⟩] }
  | .prbTraceBase => { blk := .prb, off := 0x90, wide := true, flds := [⟨51, 5, .rw, 0, 0, 140737488355327, false⟩] }
  | .prbTraceHead => { blk := .prb, off := 0x98, flds := [⟨19, 0, .ro, 0, 0, 1048575, false⟩] }
  | .prbTraceLost => { blk := .prb, off := 0x9C, flds := [⟨31, 0, .rc, 0, 0, 4294967295, false⟩] }
  | .lnkStatus => { blk := .lnk, off := 0x0, flds := [⟨31, 28, .ro, 0, 0, 15, false⟩, ⟨27, 26, .ro, 0, 0, 3, false⟩, ⟨25, 25, .ro, 0, 0, 1, false⟩, ⟨24, 20, .ro, 0, 0, 31, false⟩, ⟨19, 18, .ro, 0, 0, 3, false⟩, ⟨17, 17, .ro, 0, 0, 1, false⟩, ⟨15, 0, .ro, 0, 0, 65535, false⟩] }
  | .lnkEvent => { blk := .lnk, off := 0x10, flds := [⟨31, 24, .sq, 0, 0, 255, false⟩, ⟨4, 4, .sq, 0, 0, 1, false⟩, ⟨3, 3, .sq, 0, 0, 1, false⟩, ⟨2, 2, .sq, 0, 0, 1, false⟩, ⟨1, 1, .sq, 0, 0, 1, false⟩, ⟨0, 0, .sq, 0, 0, 1, false⟩] }
  | .lnkCtl => { blk := .lnk, off := 0x20, flds := [⟨31, 31, .rw, 0, 0, 1, true⟩, ⟨30, 30, .rw, 0, 0, 1, true⟩, ⟨29, 28, .rw, 3, 0, 3, true⟩, ⟨27, 23, .rw, 1, 0, 31, true⟩, ⟨22, 22, .rw, 1, 0, 1, true⟩, ⟨21, 21, .rw, 0, 0, 1, true⟩] }
  | .lnkId => { blk := .lnk, off := 0x24, flds := [⟨31, 16, .rw, 0, 0, 65535, true⟩, ⟨15, 0, .rw, 0, 0, 65535, true⟩] }
  | .lnkPeer => { blk := .lnk, off := 0x28, flds := [⟨31, 16, .ro, 0, 0, 65535, false⟩, ⟨15, 14, .ro, 0, 0, 3, false⟩, ⟨13, 12, .ro, 0, 0, 3, false⟩, ⟨11, 8, .ro, 0, 0, 15, false⟩] }
  | .lnkPeerFp => { blk := .lnk, off := 0x30, wide := true, flds := [⟨63, 0, .ro, 0, 0, 18446744073709551615, false⟩] }
  | .lnkCwCorr => { blk := .lnk, off := 0x40, flds := [⟨31, 0, .rc, 0, 0, 4294967295, false⟩] }
  | .lnkSymCorr => { blk := .lnk, off := 0x44, flds := [⟨31, 0, .rc, 0, 0, 4294967295, false⟩] }
  | .lnkCwUncorr => { blk := .lnk, off := 0x48, flds := [⟨31, 0, .rc, 0, 0, 4294967295, false⟩] }
  | .lnkReplay => { blk := .lnk, off := 0x4C, flds := [⟨31, 0, .rc, 0, 0, 4294967295, false⟩] }
  | .lnkStuffErr => { blk := .lnk, off := 0x50, flds := [⟨31, 0, .rc, 0, 0, 4294967295, false⟩] }
  | .lnkFlits => { blk := .lnk, off := 0x58, wide := true, flds := [⟨63, 32, .rc, 0, 0, 4294967295, false⟩, ⟨31, 0, .rc, 0, 0, 4294967295, false⟩] }
  | .lnkFecInj => { blk := .lnk, off := 0x70, flds := [⟨4, 0, .wo, 0, 0, 31, true⟩] }
  | .lnkAtt => { blk := .lnk, off := 0x100, si := 0x4, ni := 8, secure := true, flds := [⟨31, 31, .rw, 0, 0, 1, false⟩, ⟨15, 0, .rw, 0, 0, 65535, false⟩] }
  | .lnkLaneCtl => { blk := .lnk, off := 0x200, si := 0x10, ni := 16, flds := [⟨31, 30, .rw, 0, 0, 3, true⟩, ⟨29, 28, .rw, 0, 0, 3, true⟩, ⟨27, 27, .wo, 0, 0, 1, false⟩, ⟨26, 24, .rw, 0, 0, 7, true⟩, ⟨23, 23, .rw, 0, 0, 1, true⟩, ⟨15, 0, .rw, 0, 0, 65535, true⟩] }
  | .lnkLaneErr => { blk := .lnk, off := 0x204, si := 0x10, ni := 16, flds := [⟨31, 0, .rc, 0, 0, 4294967295, false⟩] }
  | .lnkLaneStat => { blk := .lnk, off := 0x208, si := 0x10, ni := 16, flds := [⟨31, 31, .ro, 0, 0, 1, false⟩, ⟨30, 30, .ro, 0, 0, 1, false⟩, ⟨29, 29, .ro, 0, 0, 1, false⟩, ⟨27, 24, .ro, 0, 0, 15, false⟩] }
  | .hstStatus => { blk := .hst, off := 0x0, flds := [⟨31, 31, .ro, 0, 0, 1, false⟩, ⟨30, 30, .ro, 0, 0, 1, false⟩, ⟨29, 29, .ro, 0, 0, 1, false⟩, ⟨28, 28, .ro, 0, 0, 1, false⟩, ⟨12, 8, .ro, 0, 0, 31, false⟩, ⟨5, 0, .ro, 0, 0, 63, false⟩] }
  | .hstEvent => { blk := .hst, off := 0x10, flds := [⟨31, 24, .sq, 0, 0, 255, false⟩, ⟨2, 2, .sq, 0, 0, 1, false⟩, ⟨1, 1, .sq, 0, 0, 1, false⟩, ⟨0, 0, .sq, 0, 0, 1, false⟩] }
  | .hstMbOwner => { blk := .hst, off := 0x20, si := 0x4, ni := 8, flds := [⟨31, 31, .rw, 0, 0, 1, false⟩, ⟨11, 0, .ro, 0, 0, 4095, false⟩] }
  | .hstMemLines => { blk := .hst, off := 0x40, wide := true, flds := [⟨63, 32, .rc, 0, 0, 4294967295, false⟩, ⟨31, 0, .rc, 0, 0, 4294967295, false⟩] }
  | .hstCacheLines => { blk := .hst, off := 0x48, wide := true, flds := [⟨63, 32, .rc, 0, 0, 4294967295, false⟩, ⟨31, 0, .rc, 0, 0, 4294967295, false⟩] }
  | .hstFqState => { blk := .hst, off := 0x10000, si := 0x10, ni := 64, flds := [⟨31, 31, .ro, 0, 0, 1, false⟩, ⟨30, 30, .ro, 0, 0, 1, false⟩, ⟨29, 28, .ro, 0, 0, 3, false⟩, ⟨26, 24, .ro, 0, 0, 7, false⟩, ⟨12, 8, .ro, 0, 0, 31, false⟩, ⟨4, 0, .ro, 0, 0, 31, false⟩] }
  | .hstFqPos => { blk := .hst, off := 0x10008, si := 0x10, ni := 64, wide := true, flds := [⟨63, 32, .ro, 0, 0, 4294967295, false⟩, ⟨31, 0, .ro, 0, 0, 4294967295, false⟩] }
  | .hstFqCpos => { blk := .hst, off := 0x10400, si := 0x8, ni := 64, wide := true, flds := [⟨63, 32, .ro, 0, 0, 4294967295, false⟩, ⟨31, 0, .ro, 0, 0, 4294967295, false⟩] }
  | .engStatus => { blk := .eng, off := 0x0, flds := [⟨31, 31, .ro, 0, 0, 1, false⟩, ⟨30, 30, .ro, 0, 0, 1, false⟩, ⟨29, 29, .ro, 0, 0, 1, false⟩, ⟨28, 28, .ro, 0, 0, 1, false⟩, ⟨11, 8, .ro, 0, 0, 15, false⟩, ⟨7, 0, .ro, 0, 0, 255, false⟩] }
  | .engTickAck => { blk := .eng, off := 0x4, secure := true, flds := [⟨0, 0, .wo, 0, 0, 1, false⟩] }
  | .engEvent => { blk := .eng, off := 0x10, flds := [⟨31, 24, .sq, 0, 0, 255, false⟩, ⟨1, 1, .sq, 0, 0, 1, false⟩, ⟨0, 0, .sq, 0, 0, 1, false⟩] }
  | .engRailEvent => { blk := .eng, off := 0x18, flds := [⟨31, 24, .sq, 0, 0, 255, false⟩, ⟨0, 0, .sq, 0, 0, 1, false⟩] }
  | .engBudget => { blk := .eng, off := 0x20, secure := true, flds := [⟨31, 31, .rw, 0, 0, 1, false⟩, ⟨30, 16, .rw, 0, 1, 27000, false⟩, ⟨9, 0, .rw, 0, 1, 1000, false⟩] }
  | .engCap => { blk := .eng, off := 0x24, flds := [⟨14, 0, .rw, 27000, 1000, 27000, true⟩] }
  | .engIdle => { blk := .eng, off := 0x28, flds := [⟨15, 0, .ro, 0, 0, 65535, false⟩] }
  | .engCharged => { blk := .eng, off := 0x2C, flds := [⟨31, 0, .ro, 0, 0, 4294967295, false⟩] }
  | .engWindowUsed => { blk := .eng, off := 0x30, wide := true, flds := [⟨63, 0, .ro, 0, 0, 18446744073709551615, false⟩] }
  | .engCount => { blk := .eng, off := 0x100, si := 0x8, ni := 33, wide := true, flds := [⟨63, 0, .ro, 0, 0, 18446744073709551615, false⟩] }
  | .engBayEvent => { blk := .engBay, off := 0x0, flds := [⟨31, 24, .sq, 0, 0, 255, false⟩, ⟨7, 7, .sq, 0, 0, 1, false⟩, ⟨6, 6, .sq, 0, 0, 1, false⟩, ⟨5, 5, .sq, 0, 0, 1, false⟩, ⟨4, 4, .sq, 0, 0, 1, false⟩, ⟨3, 3, .sq, 0, 0, 1, false⟩, ⟨2, 2, .sq, 0, 0, 1, false⟩, ⟨1, 1, .sq, 0, 0, 1, false⟩, ⟨0, 0, .sq, 0, 0, 1, false⟩] }
  | .engBayVset => { blk := .engBay, off := 0x8, secure := true, flds := [⟨9, 0, .rw, 750, 0, 1023, false⟩] }
  | .engBayVlim => { blk := .engBay, off := 0xC, flds := [⟨25, 16, .rw, 900, 620, 900, true⟩, ⟨9, 0, .rw, 620, 620, 900, true⟩] }
  | .engBayWarn => { blk := .engBay, off := 0x10, flds := [⟨25, 16, .rw, 760, 730, 780, true⟩, ⟨9, 0, .rw, 640, 590, 700, true⟩] }
  | .engBayRail => { blk := .engBay, off := 0x14, flds := [⟨25, 16, .ro, 0, 0, 1023, false⟩, ⟨9, 0, .ro, 0, 0, 1023, false⟩] }
  | .engBayTemp => { blk := .engBay, off := 0x18, flds := [⟨23, 16, .ro, 0, 0, 255, false⟩, ⟨7, 0, .ro, 0, 0, 255, false⟩] }
  | .engBayRate => { blk := .engBay, off := 0x1C, flds := [⟨27, 16, .ro, 0, 0, 4095, false⟩, ⟨11, 0, .ro, 0, 0, 4095, false⟩] }
  | .engBayDip => { blk := .engBay, off := 0x20, wide := true, flds := [⟨63, 62, .ro, 0, 0, 3, false⟩, ⟨61, 61, .ro, 0, 0, 1, false⟩, ⟨60, 60, .rw, 0, 0, 1, false⟩, ⟨57, 48, .ro, 0, 0, 1023, false⟩, ⟨31, 0, .ro, 0, 0, 4294967295, false⟩] }
  | .engBayRateCtl => { blk := .engBay, off := 0x28, flds := [⟨15, 8, .rw, 95, 70, 100, true⟩, ⟨7, 0, .rw, 5, 0, 64, true⟩] }
  | .engBayWarns => { blk := .engBay, off := 0x2C, flds := [⟨31, 0, .rc, 0, 0, 4294967295, false⟩] }
  | .secStatus => { blk := .sec, off := 0x0, flds := [⟨31, 29, .ro, 0, 0, 7, false⟩, ⟨28, 28, .ro, 0, 0, 1, false⟩, ⟨27, 27, .ro, 0, 0, 1, false⟩, ⟨26, 26, .ro, 0, 0, 1, false⟩, ⟨25, 25, .ro, 0, 0, 1, false⟩, ⟨24, 24, .ro, 0, 0, 1, false⟩, ⟨15, 8, .ro, 0, 0, 255, false⟩, ⟨7, 0, .ro, 0, 0, 255, false⟩] }
  | .secEvent => { blk := .sec, off := 0x10, flds := [⟨31, 24, .sq, 0, 0, 255, false⟩, ⟨4, 4, .sq, 0, 0, 1, false⟩, ⟨3, 3, .sq, 0, 0, 1, false⟩, ⟨2, 2, .sq, 0, 0, 1, false⟩, ⟨1, 1, .sq, 0, 0, 1, false⟩, ⟨0, 0, .sq, 0, 0, 1, false⟩] }
  | .secBoot => { blk := .sec, off := 0x18, flds := [⟨2, 0, .ro, 0, 0, 7, false⟩] }
  | .secLcNonce => { blk := .sec, off := 0x20, si := 0x4, ni := 4, flds := [⟨31, 0, .ro, 0, 0, 4294967295, false⟩] }
  | .secDeviceId => { blk := .sec, off := 0x30, wide := true, flds := [⟨63, 0, .ro, 0, 0, 18446744073709551615, false⟩] }
  | .secFwDigest => { blk := .sec, off := 0x40, si := 0x4, ni := 12, flds := [⟨31, 0, .ro, 0, 0, 4294967295, false⟩] }
  | .secFuseData => { blk := .sec, off := 0x80, si := 0x4, ni := 12, flds := [⟨31, 0, .wo, 0, 0, 4294967295, true⟩] }
  | .secFuseProg => { blk := .sec, off := 0xC0, flds := [⟨31, 31, .wo, 0, 0, 1, true⟩, ⟨5, 4, .wo, 0, 0, 3, true⟩, ⟨2, 0, .wo, 0, 0, 7, true⟩] }
  | .secFuseStatus => { blk := .sec, off := 0xC4, flds := [⟨31, 31, .ro, 0, 0, 1, false⟩, ⟨10, 8, .ro, 0, 0, 7, false⟩, ⟨2, 0, .ro, 0, 0, 7, false⟩] }
  | .secBkey => { blk := .sec, off := 0x100, si := 0x4, ni := 8, flds := [⟨31, 0, .wo, 0, 0, 4294967295, true⟩] }
  | .secBkeyCtl => { blk := .sec, off := 0x120, flds := [⟨1, 0, .wo, 0, 0, 3, true⟩] }

/-- The registers of each block. -/
def Blk.regs : Blk → List Rn
  | .glb => [.glbId, .glbEvent, .glbViol, .glbViolInfo, .glbViolCount, .glbEvringBase, .glbEvringCtl, .glbEvringHead, .glbEvringTail, .glbEvringLost]
  | .bay => [.bayStatus, .bayEvent, .bayLcount, .bayErrCount]
  | .sel => [.selIcRoute, .selIcPendSh, .selIcPendPriv, .selIcDone, .selIcSignal, .selMsixRaise]
  | .stl => [.stlNumEvent, .stlNumOvf, .stlNumInv, .stlAmaxArr, .stlAmaxStr, .stlAmaxVec, .stlArrStatus, .stlArrEvent, .stlArrFault, .stlArrPasses, .stlArrWstall, .stlArrPoison, .stlArrCtl, .stlIqStatus, .stlIqEvent, .stlIqFault, .stlIqIssued, .stlTokProd, .stlTokStale, .stlTokFabdrop, .stlWatchCtl, .stlWatchState, .stlWatchDeclare]
  | .cco => [.ccoStatus, .ccoEvent, .ccoFault, .ccoCtl, .ccoPbase, .ccoPlen, .ccoIvec, .ccoIrq, .ccoIssued, .ccoWaits, .ccoBusconf, .ccoAsDrop]
  | .vec => [.vecStatus, .vecEvent, .vecFault, .vecOps, .vecElems, .vecWaits, .vecPoison, .vecCtl]
  | .tly => [.tlyEvent, .tlyForeignInfo, .tlyTakes, .tlyLate, .tlyArmRange, .tlyArmCmd]
  | .cell => [.tlyCellState, .tlyCellRange, .tlyCellNext, .tlyCellCount]
  | .str => [.strEvent, .strFaultInfo, .strFaultCoord, .strFaultDva, .strFaults, .strPoison, .strTlbMiss, .strWalks, .strRearms, .strArm, .strSlots, .strTte, .strLines, .strDry]
  | .hbm => [.hbmStatus, .hbmEvent, .hbmErrInfo, .hbmCe, .hbmUe, .hbmOdecc, .hbmErrCtl, .hbmSched, .hbmRefCtl, .hbmRefFall, .hbmTrainCtl, .hbmTsetA, .hbmTsetB, .hbmFchg, .hbmRawHolds, .hbmLate]
  | .fab => [.fabStatus, .fabEvent, .fabQerrInfo, .fabQerr, .fabPortDrop, .fabPortBeats, .fabPllCfg, .fabPllDiv, .fabGclk]
  | .cfgm => [.cfgStatus, .cfgLevent, .cfgLoadResult, .cfgErrpin, .cfgCtl, .cfgRel, .cfgLoadSrc, .cfgLoadLen, .cfgLoadCmd, .cfgSession, .cfgEpoch, .cfgFp64, .cfgFp, .cfgSpdigest, .cfgFpCtl]
  | .cfg => [.cfgPstate, .cfgPevent, .cfgPdigest, .cfgAuditCtl, .cfgAuditRounds, .cfgAuditVote, .cfgAuditPos]
  | .noc => [.nocStatus, .nocEvent, .nocDiscard, .nocReplay, .nocResend, .nocWakeCtl, .nocRoute, .nocRouteCmd]
  | .prb => [.prbPoint, .prbFilt, .prbCount, .prbEvent, .prbTraceCtl, .prbTraceBase, .prbTraceHead, .prbTraceLost]
  | .lnk => [.lnkStatus, .lnkEvent, .lnkCtl, .lnkId, .lnkPeer, .lnkPeerFp, .lnkCwCorr, .lnkSymCorr, .lnkCwUncorr, .lnkReplay, .lnkStuffErr, .lnkFlits, .lnkFecInj, .lnkAtt, .lnkLaneCtl, .lnkLaneErr, .lnkLaneStat]
  | .hst => [.hstStatus, .hstEvent, .hstMbOwner, .hstMemLines, .hstCacheLines, .hstFqState, .hstFqPos, .hstFqCpos]
  | .eng => [.engStatus, .engTickAck, .engEvent, .engRailEvent, .engBudget, .engCap, .engIdle, .engCharged, .engWindowUsed, .engCount]
  | .engBay => [.engBayEvent, .engBayVset, .engBayVlim, .engBayWarn, .engBayRail, .engBayTemp, .engBayRate, .engBayDip, .engBayRateCtl, .engBayWarns]
  | .sec => [.secStatus, .secEvent, .secBoot, .secLcNonce, .secDeviceId, .secFwDigest, .secFuseData, .secFuseProg, .secFuseStatus, .secBkey, .secBkeyCtl]

/-- A register of an instance of its block. -/
structure RegAt where
  rn   : Rn
  inst : Nat
  i    : Nat := 0
  j    : Nat := 0
deriving DecidableEq, Repr

/-- The BAR0 offset of a register. -/
def RegAt.off (r : RegAt) : Nat :=
  r.rn.spec.blk.base r.inst + r.rn.spec.off + r.i * r.rn.spec.si + r.j * r.rn.spec.sj

/-- A register of a block at an offset in the block; true marks the high word of a 64-bit register. -/
def findIn (inst rel : Nat) : List Rn → Option (RegAt × Bool)
  | [] => none
  | r :: rs =>
    let sp := r.spec
    let d := rel - sp.off
    let i := if sp.si = 0 then 0 else d / sp.si
    let e := d - i * sp.si
    let j := if sp.sj = 0 then 0 else e / sp.sj
    let rest := e - j * sp.sj
    if sp.off ≤ rel ∧ i < sp.ni ∧ j < sp.nj ∧ (rest = 0 ∨ (sp.wide = true ∧ rest = 4))
    then some (⟨r, inst, i, j⟩, rest == 4)
    else findIn inst rel rs

/-- The block instance that holds a BAR0 offset, with the offset in it (R39, R40). The LNK_ region exists in bays 7, 15, 23
and 31 only. -/
def blockAt (off : Nat) : Option (Blk × Nat × Nat) :=
  if off < 0x80000 then some (.glb, 0, off)
  else if off < 0x100000 then some (.cfgm, 0, off - 0x80000)
  else if off < 0x200000 then some (.sel, 0, off - 0x100000)
  else if off < 0x300000 then some (.hst, 0, off - 0x200000)
  else if off < 0x301000 then some (.eng, 0, off - 0x300000)
  else if off < 0x301000 + 0x800 then some (.engBay, (off - 0x301000) / 0x40, (off - 0x301000) % 0x40)
  else if off < 0x400000 then none
  else if off < 0x500000 then some (.sec, 0, off - 0x400000)
  else if off < 0x600000 then some (.prb, 32, off - 0x500000)
  else if off < 0x2000000 ∨ 0x4000000 ≤ off then none
  else
    let b := (off - 0x2000000) / 0x100000
    let w := (off - 0x2000000) % 0x100000
    if w < 0x10000 then some (.bay, b, w)
    else if w < 0x40000 then none
    else if w < 0x80000 then
      let g := b * 64 + (w - 0x40000) / 0x1000
      let o := (w - 0x40000) % 0x1000
      if o < 0x400 then some (.stl, g, o)
      else if o < 0x800 then some (.cco, g, o - 0x400)
      else if o < 0xC00 then some (.vec, g, o - 0x800)
      else some (.str, g, o - 0xC00)
    else if w < 0x81000 then some (.tly, b, w - 0x80000)
    else if w < 0x83000 then some (.cell, b * 256 + (w - 0x81000) / 32, (w - 0x81000) % 32)
    else if w < 0x90000 then none
    else if w < 0xA0000 then some (.hbm, b, w - 0x90000)
    else if w < 0xB0000 then some (.fab, b, w - 0xA0000)
    else if w < 0xC0000 then some (.cfg, b, w - 0xB0000)
    else if w < 0xD0000 then some (.noc, b, w - 0xC0000)
    else if w < 0xE0000 then some (.prb, b, w - 0xD0000)
    else if w < 0xF0000 then (if b % 8 = 7 then some (.lnk, b, w - 0xE0000) else none)
    else none

/-- The register at a BAR0 offset, if one is mapped there. -/
def locate (off : Nat) : Option (RegAt × Bool) :=
  match blockAt off with
  | none => none
  | some (blk, inst, rel) => findIn inst rel blk.regs

/-- The value of the fields of a register after a cold reset. -/
def resetOf : List Fld → Nat
  | [] => 0
  | f :: fs => f.reset * 2 ^ f.lo + resetOf fs

/-- The reset value of a register (R8), with the entries that the tables give in words: the bay number of BAY_STATUS, the
rate of the timing sets, and the hub link of NOC_ROUTE 32, which is the row of the bay. (DESIGN CHOICE, log entries 10, 11). -/
def RegAt.reset (r : RegAt) : Nat :=
  match r.rn with
  | .bayStatus => r.inst * 256
  | .hbmTsetA => resetOf r.rn.spec.flds + (if r.i = 0 then 3 * 2 ^ 30 else 0)
  | .nocRoute => if r.i = 32 then r.inst / 8 else 0
  | _ => resetOf r.rn.spec.flds

end Sys2Proof.Machine
end

