-- ==== Sys2Proof/Machine/SecParts.lean ====
section
/-! DEFINITION. Security and life cycle (R456 to R478) and the module's sideband (R479 to R493) as plain data. -/

namespace Sys2Proof.Machine

/-- A fuse slot (R457): the bits blown (for a thermometer slot their number), whether it has been programmed, and its revoke
bit. -/
structure FuseSlot where
  val : Nat := 0
  set : Bool := false
  rev : Bool := false
deriving DecidableEq, Repr

/-- A programming that runs (R458): slot, kind and the value of SEC_FUSE_DATA. -/
structure FuseJob where
  slot : Nat
  kind : Nat
  data : Nat
deriving DecidableEq, Repr

/-- Fuses, key store and boot chain. -/
structure Sec where
  fuses : Tab FuseSlot := []
  prog  : Option FuseJob := none
  bkey  : Option Nat := none         -- the battery key (R462)
  straps : Straps := {}
  stage : Nat := 0                   -- SEC_BOOT.STAGE (R466)
  slotB : Bool := false              -- the booted slot
  last  : Nat := 0                   -- SLOT and RESULT of the last programming
  result : Nat := 0
  svn   : Nat := 0                   -- SVN of the running firmware
  version : Nat := 0                 -- its MAJOR, MINOR and PATCH (R465), header bytes 16 to 19
deriving DecidableEq, Repr

/-- A flash operation that runs (R483): an erase of 64 KiB or a write of bytes at an offset. -/
inductive FlashOp
  | erase (off : Nat)
  | write (off : Nat) (data : List Byte)
deriving DecidableEq, Repr

/-- Sideband pins, boot flash, pushed image and JTAG. -/
structure Board where
  flash   : Tab Byte := []           -- boot flash (R483); an unlisted byte is erased, 0xFF
  op      : Option FlashOp := none
  refused : Bool := false            -- FLASH_STATUS [1]
  sram    : Tab Byte := []           -- pushed image in secure SRAM (R484)
  pushed  : Option Nat := none       -- its length, once PUSH_DONE has named it
  ir      : Nat := 0x01              -- JTAG instruction in force; IDCODE after a test-logic reset
  dr      : Nat := 0                 -- the data register captured for the last instruction
  cells   : List Bool := []          -- boundary-scan output cells, as last shifted in (R485)
  powered : Bool := true             -- the rack's supply is in regulation and the module is on (R491, R493)
  held    : Bool := false            -- RESET_N holds the module since a cold start (R491)
  railsUp : Tab Bool := []           -- regulators of each bay are on
deriving DecidableEq, Repr

end Sys2Proof.Machine
end

