-- ==== Sys2Proof/Machine/State.lean ====
section
/-! DEFINITION. The state of the module and the reasons a step can stop. -/

namespace Sys2Proof.Machine

/-- Why the machine stops with a fault. -/
inductive Fault
  /-- raised by a control-core bundle that holds a reserved operation, source or destination: admission refuses such programs
  (R119) and the manual gives them no effect. Safe: the machine stops where the hardware's effect is not given. -/
  | reservedBundle
deriving DecidableEq, Repr

/-- Why a command has no meaning here. -/
inductive Refusal
  /-- raised by an arm of exec whose command has no meaning in the model yet. Safe: nothing can be proved of it. -/
  | notModelled (mnemonic : String)
deriving DecidableEq, Repr

/-- The record of one event, waiting to be written to the event ring (R51, R52). -/
structure EvRec where
  code  : Nat
  seq   : Nat
  bay   : Nat
  off   : Nat      -- BAR0 offset of the event register
  time  : Nat
  pend  : Nat
  w0    : Nat
  w1    : Nat
  w2    : Nat
deriving DecidableEq, Repr

/-- One master's latch shadow and staging word of one LP register (R45); none is unloaded. -/
structure Latch where
  shadow : Nat := 0
  stage  : Option Nat := none
deriving DecidableEq, Repr

/-- The HX32 module. -/
structure State where
  pending : List Instr := []            -- commands waiting, first in, first out
  free    : Nat := 0                    -- the model's own counter of free values
  regs    : Tab Nat := []               -- registers by BAR0 offset; unlisted: the reset value of R8
  latch   : Tab Latch := []             -- key master × 2^28 + offset
  mem     : List Host.Cell := []        -- device physical memory (R37)
  memTag  : Tab Bool := []              -- its poison tags, by byte
  host    : List Host.Cell := []        -- host memory, by host physical address
  hostTag : Tab Bool := []              -- CXL poison of host memory
  lcount  : Tab Nat := []               -- local counters of bays 0 to 31 and of the hub, 32 (R26)
  events  : List EvRec := []            -- records to be written, oldest first
  evLost  : Bool := false               -- the next record follows lost ones (R53)
  icEdge  : Tab Nat := []               -- pending edge sources 0 to 3 of each Selay core (R57)
  msix    : List Nat := []              -- MSI-X vectors raised, oldest first (R61)
  fenced  : Tab Bool := []              -- R31
  stalls  : Tab Stall := []
  cells   : Tab Cell := []              -- tally cells, key bay × 256 + cell
  takeQ   : Tab (List TakeReq) := []    -- requests at the tally unit of each bay
  reportQ : Tab (List Report) := []
  answers : List TakeAns := []          -- tally answers on their way
  tokens  : List TokenPkt := []         -- tokens on their way, in production order
  bayTlb  : Tab (List TlbEntry) := []   -- the shared cache of each bay (R255), at most 1024 entries, oldest first
  jobs    : Tab Job := []
  queues  : Tab FeedQueue := []
  faultQ  : List FaultRec := []         -- fault records on their way to the feed engine (R258)
  net     : Net := {}
  hbms    : Tab Hbm := []
  fabs    : Tab Fab := []
  cfg     : Cfg := {}
  sec     : Sec := {}
  board   : Board := {}
  links   : Tab Link := []
  said    : Option Said := none         -- the last answer given to a master outside the module
  doeErr  : Bool := false               -- the Error bit of the DOE mailbox (R402)
  hostUp  : Bool := false               -- the CXL link is up
  speed   : Nat := 0                    -- GT/s and lanes of the CXL link
  width   : Nat := 0
  hdm     : Option Nat := none          -- BASE of the HDM window, once the host has committed the decoder (R390)
  mboxes  : Tab Mbox := []              -- mailboxes 0 to 7 privileged, 8 to 15 unprivileged
  fw      : Bool := false               -- firmware runs (HST_STATUS.FWREADY)
  viral   : Bool := false
  warms   : Nat := 0                    -- warm resets since the last cold reset
  accepts : Nat := 0                    -- jobs accepted
  classes : Tab (Option BatchClass) := []
  eng     : Eng := {}
  hostWait : Bool := false              -- it is down and requests still wait for it (R388)
  mx      : Msix := {}                  -- masks and pending bits of the 68 MSI-X vectors (R61)
  errs    : HostErr := {}               -- AER and CXL RAS status (R386)
  ctxLost : Tab Bool := []              -- contexts whose home and mirror were lost together (R236)
deriving DecidableEq, Repr

/-- The machine right after a cold reset. -/
def State.reset : State := {}

end Sys2Proof.Machine
end

