-- ==== Sys2Proof/Machine/Ops.lean ====
section
/-! DEFINITION. The named operations over registers, events, memories and units that the meanings share. -/

namespace Sys2Proof.Machine

/-! ### Registers -/

/-- The value a register holds. -/
def State.regAt (s : State) (r : RegAt) : Nat := Tab.get r.reset s.regs r.off

/-- The state after a register takes a value. -/
def State.setRegAt (s : State) (r : RegAt) (v : Nat) : State := { s with regs := Tab.set r.reset s.regs r.off v }

/-- Register r of instance n, at index i (and j). -/
def State.reg (s : State) (r : Rn) (n : Nat := 0) (i : Nat := 0) (j : Nat := 0) : Nat := s.regAt ⟨r, n, i, j⟩

/-- The state after register r of instance n, at index i, takes value v. -/
def State.setReg (s : State) (r : Rn) (n i v : Nat) : State := s.setRegAt ⟨r, n, i, 0⟩ v

/-- v with bits [hi:lo] replaced by x. -/
def putBits (v hi lo x : Nat) : Nat :=
  v - bits v hi lo * 2 ^ lo + (x % 2 ^ (hi + 1 - lo)) * 2 ^ lo

/-- The value of a register after a write of v to its RW fields: a value that is reserved leaves its field as it was (R10). -/
def rwMerge (fs : List Fld) (old v : Nat) : Nat :=
  fs.foldl (fun acc f =>
    let x := bits v f.hi f.lo
    if f.acc = .rw ∧ f.least ≤ x ∧ x ≤ f.most then putBits acc f.hi f.lo x else acc) old

/-- The state after a plain write of a register's RW fields. -/
def State.rwWrite (s : State) (r : RegAt) (v : Nat) : State := s.setRegAt r (rwMerge r.rn.spec.flds (s.regAt r) v)

/-- The state after bits [hi:lo] of a register take value x. -/
def State.setFld (s : State) (r : Rn) (n i hi lo x : Nat) : State := s.setReg r n i (putBits (s.reg r n i) hi lo x)

/-- The largest value of a register's counter: 2^32 − 1, or 2^64 − 1 for an LP register. -/
def Rn.top (r : Rn) : Nat := if r.spec.wide then 2 ^ 64 - 1 else 2 ^ 32 - 1

/-- A counter advances by k and stays at its all-ones value (R50). -/
def State.count (s : State) (r : Rn) (n : Nat) (k : Nat := 1) (i : Nat := 0) : State :=
  s.setReg r n i (min r.top (s.reg r n i + k))

/-- One half of a counter of two 32-bit halves advances by k, the high half when `hi` is set, and stays at its top (R50). -/
def State.countHalf (s : State) (r : Rn) (n : Nat) (hi : Bool) (k : Nat) : State :=
  let v := s.reg r n
  let l := v % 2 ^ 32
  let h := v / 2 ^ 32
  s.setReg r n 0 (if hi then min (2 ^ 32 - 1) (h + k) * 2 ^ 32 + l else h * 2 ^ 32 + min (2 ^ 32 - 1) (l + k))

/-- HST_CACHE_LINES advances by k host-memory lines read or written through CXL.cache. -/
def State.cacheLines (s : State) (wr : Bool) (k : Nat := 1) : State := s.countHalf .hstCacheLines 0 wr k

/-! ### Free values -/

/-- The next free value of w bits. -/
def State.freeVal (s : State) (w : Nat) : Nat := (Config.freeWord w s.free).toNat

/-- The state after a free value is taken. -/
def State.takeFree (s : State) : State := { s with free := s.free + 1 }

/-! ### Local counters and events -/

/-- The local count of bay b, or of the hub for 32 (R26). -/
def State.local (s : State) (b : Nat) : Nat := Tab.get 0 s.lcount b

/-- The sequence after an event: 0xFF is followed by 0x01 (R47). -/
def nextSeq (q : Nat) : Nat := if q = 255 then 1 else q + 1

/-- The event register after an event sets bit k: the sequence advances, the bit is pending (R47). -/
def evAdvance (v k : Nat) : Nat := nextSeq (bits v 31 24) * 2 ^ 24 + (bits v 23 0 ||| 2 ^ k)

/-- The event register after a clearing write of w (R48). -/
def evClear (v w : Nat) : Nat :=
  if bits w 31 24 = bits v 31 24 then bits v 31 24 * 2 ^ 24 + (bits v 23 0 - (bits v 23 0 &&& bits w 23 0)) else v

/-- An event: it advances the sequence of its register, sets its pending bit, and leaves a record to be written to the ring
(R47, R51, R52). (DEDUCED, log entry 12). -/
def State.raise (s : State) (r : Rn) (n : Nat) (k num : Nat) (w0 w1 w2 : Nat) (i : Nat := 0) : State :=
  let v := evAdvance (s.reg r n i) k
  let b := r.spec.blk.bayOf n
  let s := s.setReg r n i v
  { s with events := s.events ++ [
      { code := r.spec.blk.id * 1024 + num, seq := bits v 31 24, bay := b, off := (RegAt.mk r n i 0).off,
        time := s.local b, pend := bits v 23 0, w0 := w0 % 2 ^ 32, w1 := w1 % 2 ^ 32, w2 := w2 % 2 ^ 32 }] }

/-- Whether a pending bit of an event register is set. -/
def State.pendBit (s : State) (r : Rn) (n k : Nat) (i : Nat := 0) : Bool := bit (s.reg r n i) k

/-- An event that is raised only while its bit is clear. -/
def State.raiseOnce (s : State) (r : Rn) (n : Nat) (k num : Nat) (w0 w1 w2 : Nat) : State :=
  if s.pendBit r n k then s else s.raise r n k num w0 w1 w2

/-- A capture register takes v while bit k of its event register is clear (R496). -/
def State.capture (s : State) (ev : Rn) (k : Nat) (info : Rn) (n v : Nat) : State :=
  if s.pendBit ev n k then s else s.setReg info n 0 v

/-- An access violation of cause 0 (PRIV) or 1 (UNMAPPED): GLB_VIOL advances and is recorded, GLB_VIOL_COUNT counts, and
GLB_VIOL_INFO captures one that finds neither bit pending (R38, R43, R44, R495, R496). -/
def State.violate (s : State) (cls page off : Nat) (write : Bool) (cause : Nat) : State :=
  let s := s.count .glbViolCount 0
  let s := if bits (s.reg .glbViol) 1 0 ≠ 0 then s else
    s.setReg .glbViolInfo 0 0 (cls * 2 ^ 62 + page * 2 ^ 50 + b2n write * 2 ^ 49 + cause * 2 ^ 48 + off % 2 ^ 44)
  s.raise .glbViol 0 cause (0x10 + cause) off (cls * 2 ^ 30 + page * 2 ^ 18 + b2n write * 2 ^ 17 + bits off 43 32) 0

/-! ### MSI-X and the error status of the CXL port (R61, R386) -/

/-- The message of vector v may be sent: MSI-X is enabled and neither the function nor the vector is masked. -/
def Msix.passes (m : Msix) (v : Nat) : Bool := m.en && !m.fmask && Tab.get false m.clear v

/-- A vector is raised: its message is sent, or its pending bit is set while it is masked. -/
def Msix.raise (m : Msix) (v : Nat) : Msix :=
  if m.passes v then { m with sent := m.sent ++ [v] } else { m with pend := Tab.set false m.pend v true }

/-- Pending vectors that are no longer masked are sent, the lowest first. -/
def Msix.release (m : Msix) : Msix :=
  let now := (m.pend.filter fun e => e.2 && m.passes e.1).map Prod.fst
  { m with sent := m.sent ++ now, pend := m.pend.filter fun e => !m.passes e.1 }

/-- A unit of R61 raises vector v. -/
def State.msixSend (s : State) (v : Nat) : State := { s with msix := s.msix ++ [v], mx := s.mx.raise v }

/-- A correctable error of the CXL RAS capability, bit k, which AER shows as a corrected internal error. -/
def State.rasCorrectable (s : State) (k : Nat) : State :=
  { s with errs := { s.errs with rasCor := s.errs.rasCor ||| 2 ^ k, aerCor := s.errs.aerCor ||| 2 ^ 14 } }

/-- An uncorrectable internal error of the port. -/
def State.rasFatal (s : State) : State :=
  { s with errs := { s.errs with rasUncor := s.errs.rasUncor ||| 2 ^ 14, aerUncor := s.errs.aerUncor ||| 2 ^ 22 } }

/-! ### The device physical address map (R37) -/

/-- Where a device physical address lies. -/
inductive Place
  | hbm (b off : Nat)
  | core (g off : Nat)
  | block (b off : Nat)
  | sys (b off : Nat)
  | regs (off : Nat)
  | nowhere
deriving DecidableEq, Repr

/-- The part of the map an address lies in; an address past the part that exists lies nowhere (R37, R38). -/
def placeOf (a : Nat) : Place :=
  if a < 0x30000000000 then .hbm (a / 0x1800000000) (a % 0x1800000000)
  else if a < 0x40000000000 then .nowhere
  else if a < 0x40800000000 then
    let o := (a - 0x40000000000) % 0x1000000
    if o < 0xE00000 then .core ((a - 0x40000000000) / 0x1000000) o else .nowhere
  else if a < 0x40880000000 then
    let o := (a - 0x40800000000) % 0x4000000
    if o < 0x3800000 then .block ((a - 0x40800000000) / 0x4000000) o else .nowhere
  else if a < 0x41000000000 then .nowhere
  else if a < 0x41010000000 then .sys ((a - 0x41000000000) / 0x800000) ((a - 0x41000000000) % 0x800000)
  else if a < 0x42000000000 then .nowhere
  else if a < 0x42004000000 then .regs (a - 0x42000000000)
  else .nowhere

/-- The device physical address of an offset of stall g's core memory. -/
def coreAddr (g off : Nat) : Nat := 0x40000000000 + g * 0x1000000 + off

/-- The device physical address of an offset of bay b's block memory. -/
def blockAddr (b off : Nat) : Nat := 0x40800000000 + b * 0x4000000 + off

/-- The device physical address of an offset of bay b's system memory. -/
def sysAddr (b off : Nat) : Nat := 0x41000000000 + b * 0x800000 + off

/-- The device physical address of an offset of the stack of bay b. -/
def hbmAddr (b off : Nat) : Nat := b * 0x1800000000 + off

/-- The bay whose memory a place is in. -/
def Place.bay : Place → Nat
  | .hbm b _ | .block b _ | .sys b _ => b
  | .core g _ => g / 64
  | _ => 32

/-! ### Memory -/

/-- n bytes of device memory. (DESIGN CHOICE, log entry 9). -/
def State.read (s : State) (a n : Nat) : List Byte := readBytes s.mem a n

/-- The state after bytes are stored in device memory, every one with tag p. -/
def State.write (s : State) (a : Nat) (bs : List Byte) (p : Bool) : State :=
  { s with mem := writeBytes s.mem a bs, memTag := writeTags s.memTag a p bs.length }

/-- The state after one byte with its tag is stored in device memory. -/
def State.writeByte (s : State) (a : Nat) (v : Byte) (p : Bool) : State :=
  { s with mem := Tab.set 0 s.mem a v, memTag := Tab.set false s.memTag a p }

/-- The state after n bytes of device memory from address a are discarded, with their tags. -/
def State.discard (s : State) (a n : Nat) : State :=
  { s with mem := s.mem.filter fun e => decide (e.1 < a) || decide (a + n ≤ e.1)
           memTag := s.memTag.filter fun e => decide (e.1 < a) || decide (a + n ≤ e.1) }

/-- Whether one of n bytes carries a poison tag (R257). -/
def State.poisoned (s : State) (a n : Nat) : Bool := (readTags s.memTag a n).any id

/-- n bytes of host memory. -/
def State.hread (s : State) (a n : Nat) : List Byte := readBytes s.host a n

/-- The state after bytes are stored in host memory with tag p. -/
def State.hwrite (s : State) (a : Nat) (bs : List Byte) (p : Bool := false) : State :=
  { s with host := writeBytes s.host a bs, hostTag := writeTags s.hostTag a p bs.length }

/-- A little-endian word of w bytes of stall g's core memory, poisoned when any of its bytes is (R257). -/
def State.coreVal (s : State) (g off w : Nat) : PVal :=
  { v := ofLe (s.read (coreAddr g off) w), p := s.poisoned (coreAddr g off) w }

/-- The state after a word of w bytes is stored in stall g's core memory with its tag. -/
def State.setCore (s : State) (g off w v : Nat) (p : Bool) : State := s.write (coreAddr g off) (leBytes w v) p

/-- An element of a format in row-packed memory: 4-bit elements share bytes (R64). -/
def elemByte (f : Fmt) (row j : Nat) : Nat := if f.width = 4 then row + j / 2 else row + j * (f.width / 8)

/-- Element j of a row of stall g's core memory, in format f, with its poison (R64, R257). -/
def State.coreElem (s : State) (g : Nat) (f : Fmt) (row j : Nat) : PVal :=
  if f.width = 4 then
    let b := s.coreVal g (row + j / 2) 1
    { b with v := if j % 2 = 0 then b.v % 16 else b.v / 16 }
  else s.coreVal g (row + j * (f.width / 8)) (f.width / 8)

/-! ### Units -/

/-- Stall g. -/
def State.stall (s : State) (g : Nat) : Stall := Tab.get {} s.stalls g

/-- The state after stall g becomes st. -/
def State.setStall (s : State) (g : Nat) (st : Stall) : State := { s with stalls := Tab.set {} s.stalls g st }

/-- The state after f is applied to stall g. -/
def State.modStall (s : State) (g : Nat) (f : Stall → Stall) : State := s.setStall g (f (s.stall g))

/-- The state after f is applied to the control core of stall g. -/
def State.modCore (s : State) (g : Nat) (f : Core → Core) : State :=
  s.modStall g fun st => { st with core := f st.core }

/-- Whether bay b is fenced (R31). -/
def State.isFenced (s : State) (b : Nat) : Bool := Tab.get false s.fenced b

/-- Job slot j. -/
def State.job (s : State) (j : Nat) : Job := Tab.get {} s.jobs j

/-- The state after f is applied to job slot j. -/
def State.modJob (s : State) (j : Nat) (f : Job → Job) : State := { s with jobs := Tab.upd {} s.jobs j f }

/-- A stall is in a bay that is in service. -/
def State.stallUp (s : State) (g : Nat) : Bool := !s.isFenced (g / 64)

/-! ### Numeric counters (R88, R89) -/

/-- STL_NUM_OVF and STL_NUM_INV advance for a unit of stall g; each raises its event only while its bit is clear (R89).
(DEDUCED, log entries 37, 243). -/
def State.numCount (s : State) (g unit target ovf inv : Nat) : State :=
  let s := if ovf = 0 then s else (s.count .stlNumOvf g ovf).raiseOnce .stlNumEvent g 0 0x100 g unit target
  if inv = 0 then s else (s.count .stlNumInv g inv).raiseOnce .stlNumEvent g 1 0x101 g unit target

/-- A queue error of a block of bay b (R296, R306): counted, captured and raised while QERR is clear. -/
def State.fabQerr (s : State) (b block cause : Nat) : State :=
  let s := s.count .fabQerr b
  let s := s.capture .fabEvent 1 .fabQerrInfo b (cause * 2 ^ 62 + block * 2 ^ 32)
  s.raiseOnce .fabEvent b 1 0x1C1 b block cause

/-- Apply f to each element of a list in turn. -/
def each {α : Type} (l : List α) (s : State) (f : State → α → State) : State := l.foldl f s

end Sys2Proof.Machine
end

