-- ==== Sys2Proof/Machine/NetOps.lean ====
section
/-! DEFINITION. What the packet network's meanings share: flits and their header (R343 to R346), endpoints and routes (R339 to R342,
R350), sources and answers (R348, R352 to R354), closed bridges and the sweep (R353). -/

namespace Sys2Proof

/-! ### Flits (R343 to R345) -/

/-- Bits [111:0] of a flit's header (R344). -/
def Flit.head (f : Flit) : Nat :=
  f.dest.toNat + f.src.toNat * 2 ^ 16 + f.op.toNat * 2 ^ 32 + b2n f.pfx * 2 ^ 37 + b2n f.pall * 2 ^ 38 + b2n f.retry * 2 ^ 39
    + f.deadline.toNat * 2 ^ 40 + f.tag.toNat * 2 ^ 52 + b2n f.phase * 2 ^ 62 + f.line.toNat * 2 ^ 64 + f.wpx.toNat * 2 ^ 89
    + f.wpy.toNat * 2 ^ 95

/-- One step of CRC-16 with polynomial 0x1021, a bit at a time from the most significant. -/
def crc16Bits : Nat → Nat → Nat
  | 0, c => c
  | n + 1, c => crc16Bits n ((if 2 ^ 15 ≤ c then (c * 2) ^^^ 0x1021 else c * 2) % 2 ^ 16)

/-- CRC-16 over bytes, from an initial value (R344). -/
def crc16 (c : Nat) : List Byte → Nat
  | [] => c
  | b :: bs => crc16 (crc16Bits 8 (c ^^^ (b.toNat * 256))) bs

/-- CHECK of a flit: over its payload and the first 14 bytes of its header (R344). -/
def Flit.check (f : Flit) : Nat := crc16 0xFFFF (f.payload ++ leBytes 14 f.head)

/-- The header of a flit as bits [127:0] (R343, R344). -/
def Flit.header (f : Flit) : Nat := f.head + f.check * 2 ^ 112

/-- The 80 bytes of a flit (R343). -/
def Flit.wire (f : Flit) : List Byte := (f.payload ++ List.replicate (64 - f.payload.length) 0).take 64 ++ leBytes 16 f.header

/-- The class of an opcode (R345); none for a reserved one. -/
def opClass : Nat → Option Nat
  | 0x01 | 0x02 | 0x03 => some 0
  | 0x04 | 0x05 => some 2
  | 0x06 | 0x07 | 0x08 => some 3
  | 0x10 | 0x11 | 0x12 | 0x13 | 0x14 | 0x15 => some 1
  | _ => none

/-- The class of a flit; one with a reserved opcode travels in class 0. -/
def Flit.cls (f : Flit) : Nat := (opClass f.op.toNat).getD 0

/-- An opcode whose answers are kept, and of which a source has at most 8 packets outstanding to one destination: TAKE, REPORT,
TOKEN, MSG, MRD and MWR (R348, R354). -/
def keptOp (op : Nat) : Bool := decide (3 ≤ op) && decide (op ≤ 8)

/-- 64 bytes that begin with the given ones. -/
def padLine (bs : List Byte) : List Byte := (bs ++ List.replicate (64 - bs.length) 0).take 64

/-- An answer to a request: its source and destination swapped, DEADLINE and TAG copied (R344). -/
def Flit.answer (f : Flit) (op : Nat) (payload : List Byte) (pall : Bool := false) : Flit :=
  { dest := f.src, src := f.dest, op := BitVec.ofNat 5 op, pfx := false, pall := pall, retry := false, deadline := f.deadline
    tag := f.tag, phase := false, line := 0, wpx := 0, wpy := 0, payload := padLine payload }

/-- A NACK of a flit with its reason (R345, R352). -/
def Flit.nack (f : Flit) (reason : Nat) : Flit :=
  f.answer 0x15 ([BitVec.ofNat 8 reason] ++ List.replicate 15 0 ++ leBytes 16 f.header)

end Sys2Proof

namespace Sys2Proof.Machine

/-! ### Endpoints (R342) -/

def addrBay (a : Nat) : Nat := a / 1024
def addrKind (a : Nat) : Nat := a / 256 % 4
def addrIdx (a : Nat) : Nat := a % 256

/-- An endpoint address. -/
def addrOf (bay kind idx : Nat) : Nat := bay * 1024 + kind * 256 + idx

/-- The rows of R342. -/
def endpointExists (a : Nat) : Bool :=
  let b := addrBay a
  let i := addrIdx a
  if b = 32 then addrKind a == 3 && decide (i ≤ 2)
  else if 32 < b then false
  else if addrKind a = 3 then decide (i ≤ 9) || (decide (16 ≤ i) && decide (i ≤ 23) && b % 8 == 7)
  else decide (i < 64)

/-- The edge router of a bay that serves an endpoint other than a stall (R340). -/
def edgeOf (a : Nat) : Nat :=
  let i := addrIdx a
  match addrKind a with
  | 1 => i / 2
  | 2 => i / 2
  | _ => if i ≤ 1 then i else if i ≤ 9 then 4 * (i - 2) + 2 else i - 16 + 8

/-- The attachment of a link-bound KIND 2 address while its BIND is set, with its port (R378). -/
def State.linkBound (s : State) (d : Nat) : Option (Nat × Nat) :=
  let b := addrBay d
  let i := addrIdx d
  if addrKind d = 2 ∧ b < 32 ∧ b % 8 = 7 ∧ 17 ≤ i ∧ i ≤ 31 ∧ i % 2 = 1 ∧ bit (s.reg .lnkAtt b ((i - 17) / 2)) 31 = true
  then some (b / 8, (i - 17) / 2) else none

/-! ### Routers (R30, R339 to R341) -/

/-- The coordinates of stall router g (R30). -/
def rx (g : Nat) : Nat := g / 64 % 8 * 8 + g % 8
def ry (g : Nat) : Nat := g / 64 / 8 * 8 + g % 64 / 8

/-- The stall router at coordinates. -/
def routerAt (x y : Nat) : Nat := (y / 8 * 8 + x / 8) * 64 + y % 8 * 8 + x % 8

/-- The stall router of edge router k of bay b (R340). -/
def edgeStall (b k : Nat) : Nat :=
  let j := k % 8
  b * 64 + (match k / 8 with
    | 0 => j
    | 1 => j * 8 + 7
    | 2 => 56 + j
    | _ => j * 8)

/-- The attach port that leads to edge router k: 5 for a north or south side, 6 for an east or west side. -/
def attachPort (k : Nat) : Nat := if k / 8 % 2 = 0 then 5 else 6

/-- The edge router behind an attach port of stall router g, if that side is one of the yard's. -/
def edgeBehind (g port : Nat) : Option Nat :=
  let b := g / 64
  let x := g % 8
  let y := g % 64 / 8
  let k? := if port = 5 then (if y = 0 then some x else if y = 7 then some (16 + x) else none)
    else (if x = 7 then some (8 + y) else if x = 0 then some (24 + y) else none)
  k?.map fun k => 2048 + b * 32 + k

/-- The router of an endpoint: its stall router, its edge router, or the hub's. -/
def homeRouter (a : Nat) : Nat :=
  if addrBay a = 32 then 3072
  else if addrKind a = 0 then addrBay a * 64 + addrIdx a
  else 2048 + addrBay a * 32 + edgeOf a

/-- The bay of a router; 32 is the hub. -/
def routerBay (r : Nat) : Nat := if r < 2048 then r / 64 else if r < 3072 then (r - 2048) / 32 else 32

/-- The number of a router in its bay, as event records and probes name it: an edge router by the stall router it stands at.
(DEDUCED, log entry 139). -/
def routerS (r : Nat) : Nat :=
  if r < 2048 then r % 64 else if r < 3072 then edgeStall 0 ((r - 2048) % 32) else 0

/-- The number of a router that a command names. -/
def routerNum : RouterId → Nat
  | .stall g => g.val
  | .edge b k => 2048 + b.val * 32 + k.val
  | .hub => 3072

/-- The router and input port behind output port `port` of router r: ports 0 to 3 lead north, east, south and west, 5 and 6 to
edge routers; an edge router's port 0 leads to its stall router; the hub's port k is hub bridge k (R339 to R341). -/
def linkOf (r port : Nat) : Option (Nat × Nat) :=
  if r < 2048 then
    let x := rx r
    let y := ry r
    match port with
    | 0 => if y = 0 then none else some (routerAt x (y - 1), 2)
    | 1 => if x = 63 then none else some (routerAt (x + 1) y, 3)
    | 2 => if y = 31 then none else some (routerAt x (y + 1), 0)
    | 3 => if x = 0 then (if y % 8 = 3 then some (3072, y / 8) else none) else some (routerAt (x - 1) y, 1)
    | 5 | 6 => (edgeBehind r port).map fun e => (e, 0)
    | _ => none
  else if r < 3072 then
    if port = 0 then some (edgeStall ((r - 2048) / 32) ((r - 2048) % 32), attachPort ((r - 2048) % 32)) else none
  else if port < 4 then some (routerAt 0 (8 * port + 3), 3) else none

/-! ### Closed bridges (R31, R347, R353) -/

/-- The direction of the bridge from bay a to neighbour c, as NOC_STATUS.CLOSED numbers it; the hub lies west of column 0. -/
def bridgeDir (a c : Nat) : Nat :=
  if c = 32 then 3
  else if c + 8 = a then 0
  else if c = a + 1 then 1
  else if c = a + 8 then 2
  else 3

/-- Whether the bridge between two neighbours is closed; the hub keeps no mask of its own. -/
def State.bridgeClosed (s : State) (a c : Nat) : Bool :=
  if a = 32 then bit (Tab.get 0 s.net.closed c) 3
  else bit (Tab.get 0 s.net.closed a) (bridgeDir a c)

/-- The next hop from bay a to bay c crosses a closed bridge or enters a fenced bay (R352). -/
def State.hopBlocked (s : State) (a c : Nat) : Bool :=
  a != c && (s.bridgeClosed a c || s.isFenced c)

/-! ### Routes (R341, R350) -/

/-- The entry in effect of bay b for destination bay d. -/
def State.routeEntry (s : State) (b d : Nat) : Nat :=
  match Tab.get 0 s.net.route (b * 64 + d) with
  | 0 => (RegAt.mk .nocRoute b d 0).reset
  | v + 1 => v

/-- The hub link by which a packet from the hub enters toward a bay (R341). -/
def State.hubEntry (s : State) (d : Nat) : Nat :=
  let l := d / 8
  match [l, (l + 1) % 4, (l + 2) % 4, (l + 3) % 4].find? fun k => !s.isFenced (8 * k) with
  | some k => k
  | none => l

/-- The waypoint of a packet from bay b to bay d, and the hub link it takes (R350). -/
def State.plan (s : State) (b d : Nat) : Option (Nat × Nat) × Nat :=
  if b = 32 then (none, s.hubEntry d)
  else
    let e := s.routeEntry b d
    let wp := if b = d ∨ d = 32 ∨ bit e 31 = false then none else some (bits e 29 24, bits e 20 16)
    (wp, bits (s.routeEntry b 32) 1 0)

/-- The stall router at which a packet leaves the mesh: that of its destination, or the one beside its hub link. -/
def exitStall (dest link : Nat) : Nat :=
  if addrBay dest = 32 then routerAt 0 (8 * link + 3)
  else if addrKind dest = 0 then addrBay dest * 64 + addrIdx dest
  else edgeStall (addrBay dest) (edgeOf dest)

/-- The output port that a flit takes at router r (R350): x first and then y to its waypoint or its exit, then out. -/
def outPort (r : Nat) (h : Hop) : Nat :=
  let dest := h.f.dest.toNat
  if r < 2048 then
    let t := if h.wp && !h.f.phase then routerAt h.f.wpx.toNat h.f.wpy.toNat else exitStall dest h.link
    if rx r < rx t then 1
    else if rx t < rx r then 3
    else if ry r < ry t then 2
    else if ry t < ry r then 0
    else if addrBay dest = 32 then 3
    else if addrKind dest = 0 then 4
    else attachPort (edgeOf dest)
  else if r < 3072 then (if homeRouter dest = r then 4 else 0)
  else if addrBay dest = 32 then 4 else h.link

/-- A flit as it stands in router r: at its waypoint PHASE becomes 1 (R350). -/
def Hop.arrive (r : Nat) (h : Hop) : Hop :=
  if h.wp && !h.f.phase && r == routerAt h.f.wpx.toNat h.f.wpy.toNat then { h with f := { h.f with phase := true }, wait := 0 }
  else { h with wait := 0 }

/-- The bays that a walk along one row or column of bays passes, from a to c. -/
def baysLine (a c step : Nat) : List Nat :=
  if a ≤ c then (List.range ((c - a) / step + 1)).map fun i => a + i * step
  else (List.range ((a - c) / step + 1)).map fun i => a - i * step

/-- The bays on the way from stall router a to stall router c, x first and then y. -/
def baysLeg (a c : Nat) : List Nat :=
  let ba := a / 64
  let turn := ba / 8 * 8 + rx c / 8
  baysLine ba turn 1 ++ (baysLine turn (c / 64) 8).drop 1

/-- The bays that a packet passes; 32 is the hub. -/
def baysOf (src dest : Nat) (wp : Option (Nat × Nat)) (link : Nat) : List Nat :=
  let from_ := if addrBay src = 32 then routerAt 0 (8 * link + 3) else exitStall src link
  let to_ := exitStall dest link
  let mid := match wp with
    | none => baysLeg from_ to_
    | some (x, y) => baysLeg from_ (routerAt x y) ++ (baysLeg (routerAt x y) to_).drop 1
  (if addrBay src = 32 then [32] else []) ++ mid ++ (if addrBay dest = 32 then [32] else [])

/-- A way crosses a closed bridge or a fenced bay. -/
def State.wayBlocked (s : State) : List Nat → Bool
  | [] => false
  | [a] => a != 32 && s.isFenced a
  | a :: c :: t => (a != 32 && s.isFenced a) || s.hopBlocked a c || s.wayBlocked (c :: t)

/-! ### Discards (R352, R360) -/

/-- Whether a bay number is that of a bay, and not the hub's. -/
def isBay (b : Nat) : Bool := decide (b < 32)

/-- A NACK or a discard raised in a bay counts there and raises NOC_DISCARD; the hub has no such registers (R352, R360).
(DEDUCED, log entry 138). -/
def State.netDiscard (s : State) (b rs reason : Nat) (f : Flit) : State :=
  if isBay b then (s.count .nocDiscard b).raiseOnce .nocEvent b 0 0x200 b (rs * 256 + reason) (f.head % 2 ^ 32) else s

/-! ### Injection (R348, R350) -/

/-- The key of a virtual channel. -/
def vcKey (r inPort cls : Nat) (phase : Bool) : Nat := r * 64 + inPort * 8 + cls * 2 + b2n phase

/-- The state after f is applied to the network. -/
def State.modNet (s : State) (f : Net → Net) : State := { s with net := f s.net }

/-- A flit enters a virtual channel of router r. -/
def State.pushVc (s : State) (r inPort cls : Nat) (h : Hop) : State :=
  let h := h.arrive r
  s.modNet fun n => { n with vc := Tab.upd [] n.vc (vcKey r inPort cls h.f.phase) (· ++ [h]) }

/-- A packet with its route decided (R350). -/
def State.routed (s : State) (p : Sent) : Sent :=
  let (wp, link) := s.plan (addrBay p.f.src.toNat) (addrBay p.f.dest.toNat)
  let mark (f : Flit) : Flit :=
    { f with phase := false, wpx := BitVec.ofNat 6 ((wp.map Prod.fst).getD 0), wpy := BitVec.ofNat 5 ((wp.map Prod.snd).getD 0) }
  { p with pre := p.pre.map mark, f := mark p.f, wp := wp.isSome, link := link }

/-- The flits of a packet. -/
def Sent.flits (p : Sent) : List Flit := p.pre.toList ++ [p.f]

/-- The packet's flits have room in the local channel of its source's router (R348). -/
def State.hasRoom (s : State) (p : Sent) : Bool :=
  let r := homeRouter p.f.src.toNat
  let at_ := r == routerAt p.f.wpx.toNat p.f.wpy.toNat && p.wp
  decide ((Tab.get [] s.net.vc (vcKey r 4 p.f.cls at_)).length + p.flits.length ≤ 4)

/-- Packets of a source without an answer, to one destination. -/
def Net.sentTo (n : Net) (src dest : Nat) : List Sent := (Tab.get [] n.sent src).filter fun p => p.f.dest.toNat == dest

/-- A source may send a packet now: nothing held to that destination, a TAG left for its answer, and at most 8 outstanding of the limited
opcodes (R348, R353). -/
def State.maySend (s : State) (p : Sent) : Bool :=
  let out := s.net.sentTo p.f.src.toNat p.f.dest.toNat
  p.f.cls == 1 || (!out.any Sent.held && decide (out.length < 1024) &&
    (!keptOp p.f.op.toNat || decide ((out.filter fun q => keptOp q.f.op.toNat).length < 8)))

/-- A router's NACK of a flit enters its own channel toward the flit's source, by the routes of the router's bay (R350, R352).
(DESIGN CHOICE, log entry 136). -/
def State.routerNack (s : State) (r : Nat) (f : Flit) (reason : Nat) : State :=
  let b := routerBay r
  let s := s.netDiscard b (routerS r) reason f
  if f.cls = 1 then s
  else
    let n := f.nack reason
    let (wp, link) := s.plan b (addrBay n.dest.toNat)
    let n := { n with wpx := BitVec.ofNat 6 ((wp.map Prod.fst).getD 0), wpy := BitVec.ofNat 5 ((wp.map Prod.snd).getD 0) }
    s.pushVc r 7 1 { f := n, wp := wp.isSome, link := link }

/-- A packet enters the network; one that asks for an answer is kept until it has it (R353, R355). The source's router refuses one to
an address that matches no endpoint (R342). -/
def State.enter (s : State) (p : Sent) : State :=
  let src := p.f.src.toNat
  let s := if endpointExists p.f.dest.toNat then
      p.flits.foldl (fun s f => s.pushVc (homeRouter src) 4 p.f.cls { f := f, wp := p.wp, link := p.link }) s
    else s.routerNack (homeRouter src) p.f 4
  if p.f.cls = 1 then s else s.modNet fun n => { n with sent := Tab.upd [] n.sent src (· ++ [p]) }

/-- The packets waiting at a source, in order: each enters the network as soon as it may, and one that may not holds those
behind it to the same destination and class (R348, R351). -/
def State.pumpList (s : State) (left : List Sent) : List Sent → State × List Sent
  | [] => (s, left)
  | p :: t =>
    let q := s.routed p
    let stuck := left.any fun x => x.f.dest == p.f.dest && x.f.cls == p.f.cls
    if !stuck && s.maySend q && s.hasRoom q then (s.enter q).pumpList left t else s.pumpList (left ++ [p]) t

/-- The packets waiting at a source endpoint enter the network as far as they may. -/
def State.pump (s : State) (src : Nat) : State :=
  let w := Tab.get [] s.net.waiting src
  let (s, left) := s.pumpList [] w
  s.modNet fun n => { n with waiting := Tab.set [] n.waiting src left }

/-- Every source with waiting packets. -/
def State.pumpAll (s : State) : State := each (s.net.waiting.map Prod.fst) s fun s src => s.pump src

/-- A source hands a packet to the network. -/
def State.send (s : State) (p : Sent) : State :=
  let src := p.f.src.toNat
  (s.modNet fun n => { n with waiting := Tab.upd [] n.waiting src (· ++ [p]) }).pump src

/-! ### Answers (R345, R352, R354) -/

/-- The last n of a list. -/
def lastOf {α : Type} (n : Nat) (l : List α) : List α := l.drop (l.length - n)

/-- An endpoint sends the answer of a request; those of the limited opcodes are kept, a NACK among them, the last
8 for each source (R345, R354). (DEDUCED, log entry 140). -/
def State.respond (s : State) (f : Flit) (a : Flit) : State :=
  let s := if keptOp f.op.toNat then
      s.modNet fun n => { n with kept := Tab.upd [] n.kept (f.dest.toNat * 2 ^ 16 + f.src.toNat) fun l => lastOf 8 (l ++ [a]) }
    else s
  s.send { f := a }

/-- An endpoint refuses a packet with a NACK, counted in bay b (R352). -/
def State.refuse (s : State) (b rs reason : Nat) (f : Flit) : State :=
  let s := s.netDiscard b rs reason f
  if f.cls = 1 then s else s.respond f (f.nack reason)

/-- The kept answer of a resent packet (R354). -/
def State.keptAnswer (s : State) (f : Flit) : Option Flit :=
  if f.retry && keptOp f.op.toNat then
    (Tab.get [] s.net.kept (f.dest.toNat * 2 ^ 16 + f.src.toNat)).find? fun a => a.tag == f.tag
  else none

/-- A flit leaves the arrival buffer of its endpoint. -/
def State.takeArrived (s : State) (f : Flit) : State :=
  s.modNet fun n => { n with arrived := Tab.upd [] n.arrived f.dest.toNat fun l => l.erase f }

/-- An endpoint discards a flit that it does not take (R345, R352). (DEDUCED, log entry 144). -/
def State.badOp (s : State) (f : Flit) : State :=
  (s.takeArrived f).netDiscard (addrBay f.dest.toNat) (routerS (homeRouter f.dest.toNat)) 6 f

/-- A packet to an address that matches no endpoint, or that a link-bound address does not take (R342, R378). -/
def State.noEndpoint (s : State) (f : Flit) : State :=
  (s.takeArrived f).refuse (addrBay f.dest.toNat) (routerS (homeRouter f.dest.toNat)) 4 f

/-- The destination's bay is fenced: its routers deliver nothing. -/
def State.deadEnd (s : State) (f : Flit) : Bool := isBay (addrBay f.dest.toNat) && s.isFenced (addrBay f.dest.toNat)

/-- An earlier packet of the same source and class waits in front of a flit at its endpoint; packets are delivered in the order of
injection (R351). -/
def State.behind (s : State) (f : Flit) : Bool :=
  match (Tab.get [] s.net.arrived f.dest.toNat).find? fun x => x.src == f.src && x.cls == f.cls with
  | some x => x != f
  | none => false

/-- What becomes of a packet before its endpoint looks at what it asks: none when the endpoint takes it up. Nothing reaches a fenced bay,
a packet behind another waits, one with a reserved opcode is discarded with BAD_OP, and one to no endpoint refused (R342, R345, R351). -/
def State.turnedAway (s : State) (f : Flit) : Option State :=
  if s.deadEnd f || s.behind f then some s
  else if opClass f.op.toNat = none then some (s.badOp f)
  else if !endpointExists f.dest.toNat then some (s.noEndpoint f)
  else none

/-- The packet of a source that an answer answers, found by its destination and tag, and those that stay. -/
def takeSent (dest : Nat) (tag : BitVec 10) : List Sent → Option Sent × List Sent
  | [] => (none, [])
  | p :: t =>
    if p.f.dest.toNat = dest ∧ p.f.tag = tag then (some p, t)
    else
      let (r, t) := takeSent dest tag t
      (r, p :: t)

/-- An answer has reached its source: the packet it answers is outstanding no more, and packets that waited for it may go. -/
def State.answered (s : State) (f : Flit) : State × Option Sent :=
  let src := f.dest.toNat
  let (r, l) := takeSent f.src.toNat f.tag (Tab.get [] s.net.sent src)
  let s := s.modNet fun n => { n with sent := Tab.set [] n.sent src l }
  ((s.takeArrived f).pump src, r)

/-! ### The sweep (R353) -/

/-- The way of a packet, and of its answer, is blocked. -/
def State.packetLost (s : State) (p : Sent) : Bool :=
  let src := p.f.src.toNat
  let dest := p.f.dest.toNat
  let wp := if p.wp then some (p.f.wpx.toNat, p.f.wpy.toNat) else none
  let (wp', link') := s.plan (addrBay dest) (addrBay src)
  s.wayBlocked (baysOf src dest wp p.link) || s.wayBlocked (baysOf dest src wp' link')

/-- A packet is held at its source until it may be resent, or fails because its destination's bay is fenced (R353). -/
def State.holdOrFail (s : State) (src : Nat) (p : Sent) : State × Option Sent :=
  if isBay (addrBay p.f.dest.toNat) && s.isFenced (addrBay p.f.dest.toNat) then (s, none)
  else (s, some { p with held := true, epoch := Tab.get 0 s.net.epoch (addrBay src) })

/-- The sweep of one source: each outstanding packet whose way is lost counts as answered NACK LOST. -/
def State.sweepOne (s : State) (src : Nat) : State :=
  let (s, l) := (Tab.get [] s.net.sent src).foldl (fun (s, out) p =>
    if !p.held && s.packetLost p then
      let s := s.netDiscard (addrBay src) (routerS (homeRouter src)) 5 p.f
      let (s, q) := s.holdOrFail src p
      (s, out ++ q.toList)
    else (s, out ++ [p])) (s, [])
  s.modNet fun n => { n with sent := Tab.set [] n.sent src l }

/-- Every source endpoint of a bay that is not fenced checks its outstanding packets (R353). -/
def State.sweep (s : State) : State :=
  each (s.net.sent.map Prod.fst) s fun s src =>
    if isBay (addrBay src) && s.isFenced (addrBay src) then s else s.sweepOne src

/-- The neighbours of a bay, the hub's 32 among them (R14, R15). -/
def neighbours (b : Nat) : List Nat :=
  (if 8 ≤ b then [b - 8] else []) ++ (if b % 8 < 7 then [b + 1] else []) ++ (if b < 24 then [b + 8] else [])
    ++ (if b % 8 ≠ 0 then [b - 1] else [32])

/-- One end of a bridge closes: the mask of NOC_STATUS and, once, BRIDGE of BAY_EVENT (R360). -/
def State.closeEnd (s : State) (b c cause : Nat) (event : Bool) : State :=
  if !isBay b || bit (Tab.get 0 s.net.closed b) (bridgeDir b c) then s
  else
    let s := s.modNet fun n => { n with closed := Tab.upd 0 n.closed b (· ||| 2 ^ bridgeDir b c) }
    if event then s.raise .bayEvent b 7 0x007 b c cause else s

/-- A failed bridge closes at both ends, and the sources sweep (R347, R353). -/
def State.closeBridge (s : State) (a c : Nat) : State :=
  ((s.closeEnd a c 2 true).closeEnd c a 2 true).sweep

end Sys2Proof.Machine
end

