-- ==== Sys2Proof/Machine/Hbm.lean ====
section
/-! DEFINITION. HBM4 controller (R263 to R283): the address mapping, queues and their scheduling, refresh, retraining, frequency
change, check bits and poison. The bytes of a write take effect in memory when the controller accepts it, and a read takes its
line when it is accepted: that is the arrival order of R268. -/

namespace Sys2Proof.Machine

/-! ### Address mapping (R264) -/

/-- The pseudo-channel of a stack offset. -/
def hbmPc (a : Nat) : Nat := (a / 256 % 64) ^^^ (a / 16384 % 64)

/-- The offset L in the pseudo-channel. -/
def hbmL (a : Nat) : Nat := a / 16384 * 256 + a % 256

/-- The stack offset of a place in a pseudo-channel. -/
def hbmOff (pc l : Nat) : Nat :=
  let h := l / 256
  (h * 64 + (pc ^^^ (h % 64))) * 256 + l % 256

/-- The bank of a line, 0 to 47: stack id, bank group, bank. -/
def lineBank (line : Nat) : Nat :=
  let l := line * 64
  l / 2 ^ 29 * 16 + l / 4096 % 4 * 4 + l / 1024 % 4

/-- The row of a line. -/
def lineRow (line : Nat) : Nat := line * 64 / 16384 % 32768

/-- The lines of a pseudo-channel: 1.5 GiB (R263). -/
def hbmLines : Nat := 0x1800000

/-! ### The controller of a bay -/

/-- The controller of bay b. -/
def State.hbm (s : State) (b : Nat) : Hbm := Tab.get {} s.hbms b

/-- The state after f is applied to the controller of bay b. -/
def State.modHbm (s : State) (b : Nat) (f : Hbm → Hbm) : State := { s with hbms := Tab.upd {} s.hbms b f }

/-- A pseudo-channel. -/
def Hbm.pc (h : Hbm) (pc : Nat) : PChan := Tab.get {} h.pcs pc

/-- The controller after f is applied to a pseudo-channel. -/
def Hbm.modPc (h : Hbm) (pc : Nat) (f : PChan → PChan) : Hbm := { h with pcs := Tab.upd {} h.pcs pc f }

/-- The state after f is applied to a pseudo-channel of bay b. -/
def State.modPc (s : State) (b pc : Nat) (f : PChan → PChan) : State := s.modHbm b fun h => h.modPc pc f

/-- The controller accepts requests: the stack is ready, no frequency change runs, and the bay is in service (R276, R282). -/
def State.hbmOpen (s : State) (b : Nat) : Bool := (s.hbm b).ready && (s.hbm b).phase == 0 && !s.isFenced b

/-- Drain mode after a request has come or gone (R267). (DEDUCED, log entry 104). -/
def PChan.drainStep (p : PChan) (hi lo : Nat) : PChan :=
  if hi ≤ p.wq.length ∨ p.rq = [] then { p with drain := true }
  else if p.wq.length ≤ lo then { p with drain := false }
  else p

/-- Drain mode of a pseudo-channel of bay b. -/
def State.drainPc (s : State) (b pc : Nat) : State :=
  let r := s.reg .hbmSched b
  s.modPc b pc fun p => p.drainStep (bits r 11 6) (bits r 5 0)

/-- A read is accepted (R265, R266, R269); none when it must wait in the network. A matching write takes the earlier due time.
(DEDUCED, log entry 111). -/
def State.hbmAskRead (s : State) (b pc line d : Nat) (ask : Option Flit) (hpa : Nat) : Option State :=
  let p := (s.hbm b).pc pc
  if !s.hbmOpen b || decide (64 ≤ p.rq.length) then none
  else
    let a := hbmAddr b (hbmOff pc (line * 64))
    let due := s.local b + d
    let r : HRead := { ask := ask, hpa := hpa, line := line, due := due, seq := p.seqs, data := s.read a 64, bad := s.poisoned a 64 }
    let held := p.wq.any fun w => w.line == line
    let s := if held then s.count .hbmRawHolds b else s
    let s := s.modPc b pc fun p =>
      { p with rq := p.rq ++ [r], seqs := p.seqs + 1
               wq := p.wq.map fun w => if w.line = line then { w with due := Nat.min w.due due } else w }
    some (s.drainPc b pc)

/-- The 32 check bits that stand in the stack with the line at an address (R278, R279): those of its data, and for a poisoned line their
XOR with the poison pattern. -/
def State.lineChecks (s : State) (a : Nat) : BitVec 32 :=
  let c := Config.checkBits (s.read a 64)
  if s.poisoned a 64 then c ^^^ 0x96C35A0F#32 else c

/-- The bytes of a write with their enables and poison, in a line of a stack that is then poisoned whole or not (R279). -/
def State.storeLine (s : State) (a : Nat) (bs : List Byte) (mask pmask : Nat) (bad : Bool) : State :=
  let old := s.read a 64
  let new := (List.range 64).map fun i =>
    if bit mask i then (if bit pmask i then 0 else bs.getD i 0) else old.getD i 0
  s.write a new bad

/-- The undrained write that a write of its line merges with (R268): the last one of the line, unless a read of the line waits between the
two. -/
def PChan.mergeWith (p : PChan) (line : Nat) : Option HWrite :=
  match (p.wq.filter fun w => w.line == line).getLast? with
  | some w => if p.rq.any fun r => r.line == line && decide (w.seq < r.seq) then none else some w
  | none => none

/-- A write after a later one has been merged into it: later bytes and their poison prevail, and the earlier due time stays. -/
def HWrite.merge (w : HWrite) (mask pmask due : Nat) : HWrite :=
  { w with mask := w.mask ||| mask, due := Nat.min w.due due, pm := (w.pm - (w.pm &&& mask)) ||| (pmask &&& mask) }

/-- The line is poisoned once the write has drained: a byte of it carries poison, or it writes a part of a poisoned line (R279). -/
def HWrite.bad (w : HWrite) : Bool := w.pm != 0 || (w.mask != 2 ^ 64 - 1 && w.old)

/-- A write is accepted and acknowledged (R265, R268); none when it must wait in the network. (DEDUCED, log entries 100, 101). -/
def State.hbmAskWrite (s : State) (b pc line d : Nat) (bs : List Byte) (mask pmask : Nat) : Option State :=
  let p := (s.hbm b).pc pc
  let a := hbmAddr b (hbmOff pc (line * 64))
  let due := s.local b + d
  let into := p.mergeWith line
  if !s.hbmOpen b || (into.isNone && decide (64 ≤ p.wq.length)) then none
  else
    let w : HWrite := match into with
      | some x => x.merge mask pmask due
      | none => { line := line, due := due, seq := p.seqs, mask := mask, old := s.poisoned a 64, pm := pmask &&& mask }
    let s := s.storeLine a bs mask pmask w.bad
    let s := s.modPc b pc fun p =>
      { p with seqs := p.seqs + 1
               wq := if into.isSome then p.wq.map fun x => if x.seq = w.seq then w else x else p.wq ++ [w] }
    some (s.drainPc b pc)

/-! ### Errors (R278 to R281, R283) -/

/-- HBM_STACK with its cause, and HBM of BAY_EVENT (R281, R283, R497). -/
def State.hbmStack (s : State) (b cause ch : Nat) : State :=
  if s.pendBit .hbmEvent b 2 then s
  else (s.raise .hbmEvent b 2 0x1A2 b cause ch).raise .bayEvent b 3 0x003 0x1A2 cause ch

/-- An uncorrectable read of a line (R280, R281, R283, R496). (DEDUCED, log entry 108). -/
def State.hbmUeAt (s : State) (b pc line : Nat) (rmw : Bool) : State :=
  let lineNo := hbmOff pc (line * 64) / 64
  let s := s.count .hbmUe b
  let s := s.capture .hbmEvent 0 .hbmErrInfo b (2 ^ 61 + b2n rmw * 2 ^ 60 + lineNo * 64)
  let s := if s.pendBit .hbmEvent b 0 then s
    else (s.raise .hbmEvent b 0 0x1A0 b lineNo (b2n rmw)).raise .bayEvent b 3 0x003 0x1A0 lineNo (b2n rmw)
  let now := s.local b
  let ch := pc / 2
  let times := ((Tab.get [] (s.hbm b).ueTimes ch).filter fun t => decide (now ≤ t + 100000000)) ++ [now]
  let s := s.modHbm b fun h => { h with ueTimes := Tab.set [] h.ueTimes ch times }
  if bits (s.reg .hbmErrCtl b) 4 0 < times.length then s.hbmStack b 2 ch else s

/-- What the check bits tell of a line read with symErrs bad symbols: a poisoned line counts no error while at most one symbol is
bad; else one is corrected and counted, and two or more make the read uncorrectable (R278 to R280). (DEDUCED, log entry 110). -/
def State.hbmCheck (s : State) (b pc line : Nat) (bad : Bool) (symErrs : Nat) (rmw : Bool) : State × Bool :=
  if 2 ≤ symErrs then (s.hbmUeAt b pc line rmw, true)
  else if symErrs = 1 ∧ bad = false then (s.count .hbmCe b, false)
  else (s, false)

/-! ### Choosing a command (R267) -/

/-- A command that a pseudo-channel may issue. -/
inductive HCmd
  | forced (f : HForced)
  | read (r : HRead)
  | write (w : HWrite)
  | refresh (k : Nat)
deriving DecidableEq, Repr

/-- A queued read or write as the scheduler sees it. -/
structure HCand where
  cmd  : HCmd
  line : Nat
  due  : Nat
  seq  : Nat
deriving DecidableEq, Repr

/-- A read that no undrained earlier write of its line holds (R269). -/
def PChan.readFree (p : PChan) (r : HRead) : Bool := !p.wq.any fun w => w.line == r.line && decide (w.seq < r.seq)

/-- A write that no earlier queued read or write of its line holds back (R268). -/
def PChan.writeFree (p : PChan) (w : HWrite) : Bool :=
  !(p.rq.any fun r => r.line == w.line && decide (r.seq < w.seq)) && !(p.wq.any fun x => x.line == w.line && decide (x.seq < w.seq))

/-- The reads and the writes whose command is legal now; request n is named 2n in the list of commands that are not. -/
def PChan.reads (p : PChan) (illegal : List Nat) : List HCand :=
  (p.rq.filter fun r => p.readFree r && !illegal.contains (2 * r.seq)).map fun r => ⟨.read r, r.line, r.due, r.seq⟩
def PChan.writes (p : PChan) (illegal : List Nat) : List HCand :=
  (p.wq.filter fun w => p.writeFree w && !illegal.contains (2 * w.seq)).map fun w => ⟨.write w, w.line, w.due, w.seq⟩

/-- The lines of every queued request. -/
def PChan.lines (p : PChan) : List Nat := p.rq.map HRead.line ++ p.wq.map HWrite.line

/-- A bank without a queued request (R271). -/
def PChan.idle (p : PChan) (k : Nat) : Bool := !p.lines.any fun l => lineBank l == k

/-- The row of a line is open. -/
def PChan.hit (p : PChan) (line : Nat) : Bool := Tab.get 0 p.rows (lineBank line) == lineRow line + 1

/-- Another request waits for a different row of a line's bank. -/
def PChan.rowWanted (p : PChan) (line : Nat) : Bool :=
  p.lines.any fun l => lineBank l == lineBank line && lineRow l != lineRow line

/-- The bank of a line has had its run of row hits (R267). (DEDUCED, log entry 103). -/
def PChan.capped (p : PChan) (cap line : Nat) : Bool :=
  decide (cap ≤ Tab.get 0 p.hits (lineBank line)) && p.lines.any fun l => lineBank l == lineBank line && !p.hit l

/-- The first of a list by a key. -/
def minBy {α : Type} (k : α → Nat × Nat × Nat) : List α → Option α
  | [] => none
  | a :: t => match minBy k t with
    | none => some a
    | some b =>
      let (x1, x2, x3) := k a
      let (y1, y2, y3) := k b
      if x1 < y1 ∨ (x1 = y1 ∧ (x2 < y2 ∨ (x2 = y2 ∧ x3 ≤ y3))) then some a else some b

/-- Candidates after the row-hit limit: a bank that has had its run offers only its request with the earliest due time, which no
longer counts as a row hit. -/
def PChan.offers (p : PChan) (cap : Nat) (l : List HCand) : List (HCand × Bool) :=
  l.filterMap fun c =>
    if p.capped cap c.line then
      let first := minBy (fun x => (x.due, x.seq, 0)) (l.filter fun x => lineBank x.line == lineBank c.line)
      if first = some c then some (c, false) else none
    else some (c, p.hit c.line)

/-- The legal forced commands, in the order in which they fell due; an all-bank refresh is named 97 and a pause 99 in the list of
commands that are not legal, the refresh of bank k 2k + 1. -/
def PChan.forcedNow (p : PChan) (illegal : List Nat) (paused : Bool) : Option HForced :=
  p.forced.find? fun f => match f with
    | .bank k => !illegal.contains (2 * k + 1)
    | .all _ => !illegal.contains 97
    | .pause => !paused && !illegal.contains 99

/-- The command of a slot (R267). -/
def PChan.choose (p : PChan) (illegal : List Nat) (paused : Bool) (now urgent cap : Nat) (drain : Bool) : Option HCmd :=
  let rs := p.reads illegal
  let ws := p.writes illegal
  let order2 := minBy (fun c => (c.due, c.seq, 0)) ((rs ++ ws).filter fun c => decide (c.due ≤ now + urgent))
  let order3 := if drain then minBy (fun (c, h) => (b2n (!h), c.seq, 0)) (p.offers cap ws) else none
  let order4 := minBy (fun (c, h) => (b2n (!h), c.due, c.seq)) (p.offers cap rs)
  let idle := (List.range 48).filter fun k =>
    p.idle k && decide (1 ≤ Tab.get 0 p.debt k) && !illegal.contains (2 * k + 1)
  let order5 := minBy (fun k => (48 - Tab.get 0 p.debt k, k, 0)) idle
  match p.forcedNow illegal paused with
  | some f => some (.forced f)
  | none => match order2 with
    | some c => some c.cmd
    | none => match order3 with
      | some c => some c.1.cmd
      | none => match order4 with
        | some c => some c.1.cmd
        | none => order5.map .refresh

/-! ### Carrying out a command -/

/-- A request to a line has been served: its row is open, and the run of row hits goes on while another row is wanted (R267). -/
def PChan.served (p : PChan) (cap line : Nat) : PChan :=
  let k := lineBank line
  let n := if p.capped cap line || !p.hit line || !p.rowWanted line then 0 else Tab.get 0 p.hits k + 1
  { p with rows := Tab.set 0 p.rows k (lineRow line + 1), hits := Tab.set 0 p.hits k n }

/-- A bank has been refreshed: its row is closed and its debt is one lower. -/
def PChan.refreshed (p : PChan) (k : Nat) : PChan :=
  { p with rows := Tab.set 0 p.rows k 0, hits := Tab.set 0 p.hits k 0, debt := Tab.upd 0 p.debt k (· - 1)
           forced := p.forced.filter fun f => !(f == .bank k) }

/-- An all-bank refresh: every debt is one lower, and what a bank below the limit had forced is due no more (R272). -/
def PChan.refreshedAll (p : PChan) (f : HForced) (limit : Nat) : PChan :=
  let p := { p with forced := p.forced.erase f, rows := [], hits := []
                    debt := (List.range 48).foldl (fun d k => Tab.upd 0 d k (· - 1)) p.debt }
  { p with forced := p.forced.filter fun f => match f with
      | .bank k => decide (limit ≤ Tab.get 0 p.debt k)
      | .all k => k == 48 || decide (limit ≤ Tab.get 0 p.debt k)
      | .pause => true }

/-- A pseudo-channel at the start of its channel's pause: an all-bank refresh clears its debts (R273). -/
def PChan.pausing (p : PChan) : PChan := { p with debt := [], rows := [], hits := [], forced := [] }

/-- The pause of a channel starts (R273). -/
def Hbm.startPause (h : Hbm) (ch : Nat) : Hbm :=
  let h := (h.modPc (2 * ch) PChan.pausing).modPc (2 * ch + 1) PChan.pausing
  { h with training := some ch, deferred := h.deferred.filter (· != ch) }

/-- A queued request of the channel is urgent or due within the deferral margin (R274). -/
def Hbm.near (h : Hbm) (ch now margin : Nat) : Bool :=
  [2 * ch, 2 * ch + 1].any fun i => (h.pc i).rq.any (fun r => decide (r.due ≤ now + margin)) ||
    (h.pc i).wq.any fun w => decide (w.due ≤ now + margin)

/-- The deferral margin: DEFER, and at least the urgency margin. -/
def State.hbmMargin (s : State) (b : Nat) : Nat :=
  Nat.max (bits (s.reg .hbmTrainCtl b) 21 10) (bits (s.reg .hbmSched b) 14 12)

/-- A deferred pause starts as soon as nothing defers it (R274). -/
def State.hbmResume (s : State) (b : Nat) : State :=
  let h := s.hbm b
  if h.training.isSome || h.phase != 0 then s
  else match h.deferred.find? fun ch => !h.near ch (s.local b) (s.hbmMargin b) with
    | some ch => s.modHbm b fun h => h.startPause ch
    | none => s

/-- A request is served after its due time (R266). -/
def State.hbmLate (s : State) (b due : Nat) : State := if due < s.local b then s.count .hbmLate b else s

/-- The line is poisoned after the undrained writes of a list have followed a poisoned line: a full write without poison ends it. -/
def badAfter : Bool → List HWrite → Bool
  | bad, [] => bad
  | bad, w :: t => badAfter (w.pm != 0 || (w.mask != 2 ^ 64 - 1 && bad)) t

/-- The read half of a read-modify-write was uncorrectable: the line is written with its new bytes kept and every other byte
poisoned, so that it reads poisoned whole until a later full write; reads that the write held return it so (R279, R280). -/
def State.hbmRmwLost (s : State) (b pc : Nat) (w : HWrite) : State :=
  let a := hbmAddr b (hbmOff pc (w.line * 64))
  let later := ((s.hbm b).pc pc).wq.filter fun x => x.line == w.line && decide (w.seq < x.seq)
  let before (n : Nat) : Bool := badAfter true (later.filter fun x => decide (x.seq < n))
  let keep := (later.map HWrite.mask).foldl (· ||| ·) w.mask
  let s := s.storeLine a [] (2 ^ 64 - 1 - keep) (2 ^ 64 - 1) (badAfter true later)
  s.modPc b pc fun p =>
    { p with rq := p.rq.map fun r => if r.line = w.line ∧ w.seq < r.seq then { r with bad := before r.seq } else r
             wq := p.wq.map fun x => if x.line = w.line ∧ w.seq < x.seq then { x with old := before x.seq } else x }

/-- A read is answered: RDATA to its requester, or the line to the host (R280, R345). -/
def State.hbmAnswer (s : State) (r : HRead) (bad : Bool) : State :=
  let data := if bad then List.replicate 64 0 else r.data
  match r.ask with
  | some f => s.respond f (f.answer 0x10 data bad)
  | none => { s with said := some (.line r.hpa data bad) }

/-- One command of a pseudo-channel. -/
def State.hbmDo (s : State) (b pc cap : Nat) (symErrs : Nat) : HCmd → State
  | .forced (.bank k) => s.modPc b pc (·.refreshed k)
  | .forced (.all k) =>
    let s := if k = 48 then s else s.count .hbmRefFall b
    s.modPc b pc (·.refreshedAll (.all k) (bits (s.reg .hbmRefCtl b) 3 0))
  | .forced .pause => s.modHbm b fun h => h.startPause (pc / 2)
  | .refresh k => s.modPc b pc (·.refreshed k)
  | .read r =>
    let s := s.hbmLate b r.due
    let s := s.modPc b pc fun p => { p.served cap r.line with rq := p.rq.filter fun x => x.seq != r.seq }
    let (s, ue) := s.hbmCheck b pc r.line r.bad symErrs false
    (s.drainPc b pc).hbmAnswer r (ue || r.bad)
  | .write w =>
    let s := s.hbmLate b w.due
    let s := s.modPc b pc fun p => { p.served cap w.line with wq := p.wq.filter fun x => x.seq != w.seq }
    let (s, ue) := if w.mask = 2 ^ 64 - 1 then (s, false) else s.hbmCheck b pc w.line w.old symErrs true
    let s := if ue then s.hbmRmwLost b pc w else s
    s.drainPc b pc

/-- COMMAND_SLOT (R267): a pseudo-channel issues the first command of the order whose timing is legal. `illegal` names the
commands whose timing is not, `symErrs` the bad symbols of the line that is read, and `odecc` the corrections that the stack's
on-die ECC reports. (DESIGN CHOICE, log entry 102). -/
def execCommandSlot (b : BayId) (pc : Fin 64) (illegal : List Nat) (symErrs odecc : Nat) (s : State) :
    Host.Outcome State Fault Refusal :=
  let h := s.hbm b
  let p := h.pc pc
  if !h.ready || s.isFenced b || decide (2 ≤ h.phase) || h.training == some (pc.val / 2) then .next s
  else
    let r := s.reg .hbmSched b
    let cap := bits r 19 15
    let s := s.count .hbmOdecc b odecc
    match p.choose illegal h.training.isSome (s.local b) (bits r 14 12) cap (p.drain || h.phase == 1) with
    | none => .next (s.hbmResume b)
    | some c => .next ((s.hbmDo b pc cap symErrs c).hbmResume b)

/-! ### Refresh (R270 to R272) -/

/-- REFRESH_DUE (R270 to R272): a bank owes one refresh more; at the limit its refresh, or an all-bank refresh when the bank has a
queued request, is forced. (DEDUCED, log entry 105). -/
def execRefreshDue (b : BayId) (pc : Fin 64) (bank : Fin 48) (s : State) : Host.Outcome State Fault Refusal :=
  if s.isFenced b || !(s.hbm b).ready || decide (2 ≤ (s.hbm b).phase) then .next s
  else
    let limit := bits (s.reg .hbmRefCtl b) 3 0
    .next (s.modPc b pc fun p =>
      let d := Tab.get 0 p.debt bank.val
      let d := if d < limit then d + 1 else d
      let p := { p with debt := Tab.set 0 p.debt bank.val d }
      let f : HForced := if p.idle bank.val then .bank bank.val else .all bank.val
      if d < limit ∨ p.forced.contains (.bank bank.val) = true ∨ p.forced.contains (.all bank.val) = true then p
      else { p with forced := p.forced ++ [f] })

/-- RFM_REQUEST (R272): the stack asks for refresh management; an all-bank refresh of the pseudo-channel is forced. -/
def execRfmRequest (b : BayId) (pc : Fin 64) (s : State) : Host.Outcome State Fault Refusal :=
  if s.isFenced b || !(s.hbm b).ready then .next s
  else .next (s.modPc b pc fun p => { p with forced := p.forced ++ [.all 48] })

/-- The refresh interval in force, in half ns: tREFI of the active set, halved above 85 °C (R270). -/
def State.hbmRefi (s : State) (b : Nat) : Nat :=
  let t := bits (s.reg .hbmTsetB b (s.hbm b).tset) 12 0
  if 85 < (s.hbm b).temp then t else 2 * t

/-! ### Retraining (R273 to R275) -/

/-- The slot of a channel falls due: its pause starts, or is deferred (R273, R274). -/
def State.hbmSlot (s : State) (b ch : Nat) : State :=
  let h := s.hbm b
  if h.phase != 0 || !h.ready || s.isFenced b || Tab.get false h.lost ch || h.training == some ch || h.deferred.contains ch then s
  else if h.training.isSome || h.near ch (s.local b) (s.hbmMargin b) then
    s.modHbm b fun h => { h with deferred := h.deferred ++ [ch] }
  else s.modHbm b fun h => h.startPause ch

/-- A pause that was deferred to this slot is forced (R274). -/
def Hbm.forceDeferred (h : Hbm) : Hbm :=
  let add (p : PChan) : PChan := if p.forced.contains .pause then p else { p with forced := p.forced ++ [.pause] }
  { h.deferred.foldl (fun h ch => (h.modPc (2 * ch) add).modPc (2 * ch + 1) add) h with deferred := [] }

/-- RETRAIN_SLOT (R273, R274): within a frequency change the slot is skipped (R276). (DEDUCED, log entry 106). -/
def execRetrainSlot (b : BayId) (ch : Fin 32) (s : State) : Host.Outcome State Fault Refusal :=
  let now := s.local b
  if (s.hbm b).phase != 0 then .next (s.modHbm b fun h => { h with slotCh := ch.val, slotAt := now })
  else
  let s := s.modHbm b fun h => { h.forceDeferred with slotCh := ch.val, slotAt := now }
  .next (s.hbmSlot b ch)

/-- The periods from now to a channel's next slot (R273). -/
def State.hbmToSlot (s : State) (b ch : Nat) : Nat :=
  let h := s.hbm b
  let step := bits (s.reg .hbmTrainCtl b) 31 22 * 100000
  let k := (ch + 31 - h.slotCh) % 32 + 1
  step * k / 32 - (s.local b - h.slotAt)

/-- STACK_TEMPERATURE (R270, R273): the stack reports a temperature. A channel whose temperature has moved by TEMP_DELTA since its
last training is retrained at once, unless its next slot is nearer than a eighth of the period. (DEDUCED, log entry 107). -/
def execStackTemperature (b : BayId) (degC : BitVec 8) (s : State) : Host.Outcome State Fault Refusal :=
  if s.isFenced b then .next s
  else
    let t := degC.toNat
    let s := s.modHbm b fun h => { h with temp := t }
    let r := s.reg .hbmTrainCtl b
    let moved := (List.range 32).filter fun ch =>
      let o := Tab.get 0 (s.hbm b).trained ch
      decide (bits r 3 0 ≤ (t - o) + (o - t)) && decide (bits r 31 22 * 100000 / 8 ≤ s.hbmToSlot b ch)
    .next (each moved s fun s ch => s.hbmSlot b ch)

/-- RETRAIN_COMPLETE (R263, R275): a pause ends. A success resets the channel's failures and replaces bad lanes by spares; a failure counts and raises HBM_TRAINFAIL, and
the third in a row loses the channel. (DESIGN CHOICE, log entry 261). -/
def execRetrainComplete (b : BayId) (ch : Fin 32) (ok : Bool) (s : State) : Host.Outcome State Fault Refusal :=
  let h := s.hbm b
  if h.training ≠ some ch.val ∨ s.isFenced b = true then .next s
  else
    let s := s.modHbm b fun h => { h with training := none }
    if ok then
      let lanes := s.freeVal 8
      .next ((s.takeFree.modHbm b fun h =>
        { h with fails := Tab.set 0 h.fails ch.val 0, trained := Tab.set 0 h.trained ch.val h.temp
                 lanes := Tab.set 0 h.lanes ch.val lanes }).hbmResume b)
    else
      let n := Tab.get 0 h.fails ch.val + 1
      let s := s.modHbm b fun h => { h with fails := Tab.set 0 h.fails ch.val n }
      let s := s.raiseOnce .hbmEvent b 1 0x1A1 b ch n
      let s := if n < 3 then s else (s.modHbm b fun h => { h with lost := Tab.set false h.lost ch.val true }).hbmStack b 1 ch
      .next (s.hbmResume b)

/-- STACK_FATAL (R281): the stack signals a catastrophic temperature (cause 3) or a fatal error (cause 4). -/
def execStackFatal (b : BayId) (catastrophic : Bool) (s : State) : Host.Outcome State Fault Refusal :=
  if s.isFenced b then .next s else .next (s.hbmStack b (if catastrophic then 3 else 4) 0xFFFFFFFF)

/-! ### Frequency change (R276, R277) -/

/-- Every queue of the controller is empty. -/
def Hbm.drained (h : Hbm) : Bool := h.pcs.all fun e => e.2.rq.isEmpty && e.2.wq.isEmpty

/-- Every refresh debt and open row is gone when the pseudo-channels enter self-refresh (R276). -/
def Hbm.selfRefresh (h : Hbm) : Hbm :=
  { h with phase := 2, pcs := h.pcs.foldl (fun t e => Tab.upd {} t e.1 PChan.pausing) h.pcs }

/-- FCHG_DRAINED (R276): with its queues empty the controller enters self-refresh, and the PHY PLL relocks. (DEDUCED, log
entry 109). -/
def execFchgDrained (b : BayId) (s : State) : Host.Outcome State Fault Refusal :=
  let h := s.hbm b
  if h.phase ≠ 1 ∨ h.drained = false ∨ h.training.isSome = true ∨ s.isFenced b = true then .next s
  else
    let now := s.local b
    .next (s.modHbm b fun h => { h.selfRefresh with since := now, deferred := [] })

/-- FCHG_RELOCK (R276): the PLL has relocked; the sets swap and all channels retrain. -/
def execFchgRelock (b : BayId) (s : State) : Host.Outcome State Fault Refusal :=
  let h := s.hbm b
  if h.phase ≠ 2 ∨ s.isFenced b = true then .next s
  else .next (s.modHbm b fun h => { h with phase := 3, tset := 1 - h.tset })

/-- FCHG_RETRAIN_DONE (R276, R277, R283): all channels have retrained and acceptance resumes; a failure of the new set runs the
change back to the old one first, and HBM_FCHG then carries FAIL. -/
def execFchgRetrainDone (b : BayId) (failed : Bool) (s : State) : Host.Outcome State Fault Refusal :=
  let h := s.hbm b
  if h.phase ≠ 3 ∨ s.isFenced b = true then .next s
  else if failed && !h.back then .next (s.modHbm b fun h => { h.selfRefresh with back := true })
  else
    let rate := bits (s.reg .hbmTsetA b h.tset) 31 30
    let temp := h.temp
    let s := s.modHbm b fun h =>
      { h with phase := 0, back := false, fails := []
               trained := (List.range 32).foldl (fun t ch => Tab.set 0 t ch temp) h.trained }
    .next (s.raiseOnce .hbmEvent b 3 0x1A3 b (b2n h.back * 256 + rate) (s.local b - h.since))

/-! ### Drain at a warm reset (R282) -/

/-- The queued reads of a pseudo-channel are dropped, and its writes drain in order, each as its command would: an overdue one counts, and a
partial one is read first, with a number of bad symbols that the world gives. (DESIGN CHOICE, log entry 262). -/
def State.hbmFlushPc (s : State) (b pc : Nat) : State :=
  let s := s.modPc b pc fun p => { p with rq := [] }
  let cap := bits (s.reg .hbmSched b) 19 15
  let s := each ((s.hbm b).pc pc).wq s fun s w => (s.hbmDo b pc cap (s.freeVal 2) (.write w)).takeFree
  s.modPc b pc fun p => { p with wq := [], drain := false }

/-- The controller of bay b drains. -/
def State.hbmFlush (s : State) (b : Nat) : State := each ((s.hbm b).pcs.map Prod.fst) s fun s pc => s.hbmFlushPc b pc

end Sys2Proof.Machine
end

