-- ==== Sys2Proof/Machine/Crypto.lean ====
section
/-! DEFINITION. The standards the manual cites for keys and digests (R11, R308, R311 to R313): SHA-384 of FIPS 180-4, ECDSA P-384
verification of FIPS 186-5, AES-256-GCM of FIPS 197 and NIST SP 800-38D, and the CRC-32 of the records (R494). Numbers of byte
strings are big-endian here. -/

namespace Sys2Proof.Machine

/-- The number that big-endian bytes hold. -/
def ofBe (bs : List Byte) : Nat := bs.foldl (fun n b => n * 256 + b.toNat) 0

/-- The n big-endian bytes of a number. -/
def beBytes (n v : Nat) : List Byte := (leBytes n v).reverse

/-! ### SHA-384 (FIPS 180-4) -/

/-- The largest r with r ^ k ≤ n and acc ≤ r < acc + 2 ^ m, where acc is a multiple of 2 ^ m: the root of n bit by bit. -/
def rootFrom (k n : Nat) : Nat → Nat → Nat
  | 0, acc => acc
  | m + 1, acc => rootFrom k n m (if (acc + 2 ^ m) ^ k ≤ n then acc + 2 ^ m else acc)

/-- The first 64 bits of the fraction of the k-th root of p (below 2 ^ 70 in all): FIPS 180-4 defines its constants so. -/
def rootFraction (k p : Nat) : Nat := rootFrom k (p * 2 ^ (64 * k)) 70 0 % 2 ^ 64

/-- The first 80 prime numbers, 2 to 409: below 441, a number is prime if no smaller number from 2 to 20 divides it. -/
def shaPrimes : List Nat :=
  (List.range' 2 408).filter fun p => (List.range' 2 19).all fun d => p ≤ d || p % d != 0

/-- The round constants K: cube roots of the first 80 primes (FIPS 180-4, 4.2.3). -/
def sha512K : List (BitVec 64) := shaPrimes.map fun p => BitVec.ofNat 64 (rootFraction 3 p)

/-- The initial hash value: square roots of the ninth to the sixteenth prime (FIPS 180-4, 5.3.4). -/
def sha384H : List Nat := ((shaPrimes.drop 8).take 8).map (rootFraction 2)

/-- The message schedule: the last 16 words, newest first, give each new one. -/
def shaSchedule : Nat → List (BitVec 64) → List (BitVec 64)
  | 0, w => w
  | n + 1, w =>
    let a := w.getD 14 0
    let b := w.getD 1 0
    let s0 := a.rotateRight 1 ^^^ a.rotateRight 8 ^^^ (a >>> 7)
    let s1 := b.rotateRight 19 ^^^ b.rotateRight 61 ^^^ (b >>> 6)
    shaSchedule n ((s1 + w.getD 6 0 + s0 + w.getD 15 0) :: w)

/-- The eight working variables. -/
structure ShaVars where
  a : BitVec 64
  b : BitVec 64
  c : BitVec 64
  d : BitVec 64
  e : BitVec 64
  f : BitVec 64
  g : BitVec 64
  h : BitVec 64
deriving DecidableEq, Repr

/-- One round with its constant and schedule word. -/
def ShaVars.round (v : ShaVars) (k w : BitVec 64) : ShaVars :=
  let s1 := v.e.rotateRight 14 ^^^ v.e.rotateRight 18 ^^^ v.e.rotateRight 41
  let ch := (v.e &&& v.f) ^^^ (~~~v.e &&& v.g)
  let t1 := v.h + s1 + ch + k + w
  let s0 := v.a.rotateRight 28 ^^^ v.a.rotateRight 34 ^^^ v.a.rotateRight 39
  let maj := (v.a &&& v.b) ^^^ (v.a &&& v.c) ^^^ (v.b &&& v.c)
  { a := t1 + s0 + maj, b := v.a, c := v.b, d := v.c, e := v.d + t1, f := v.e, g := v.f, h := v.g }

/-- The n 64-bit big-endian words of bytes. -/
def beWords : Nat → List Byte → List (BitVec 64)
  | 0, _ => []
  | n + 1, bs => BitVec.ofNat 64 (ofBe (bs.take 8)) :: beWords n (bs.drop 8)

/-- One block of 128 bytes into the hash value. -/
def ShaVars.block (v : ShaVars) (bs : List Byte) : ShaVars :=
  let w := (shaSchedule 64 (beWords 16 bs).reverse).reverse
  let r := (sha512K.zip w).foldl (fun x kw => x.round kw.1 kw.2) v
  { a := v.a + r.a, b := v.b + r.b, c := v.c + r.c, d := v.d + r.d, e := v.e + r.e, f := v.f + r.f, g := v.g + r.g, h := v.h + r.h }

/-- n blocks. -/
def ShaVars.blocks : Nat → ShaVars → List Byte → ShaVars
  | 0, v, _ => v
  | n + 1, v, bs => ShaVars.blocks n (v.block bs) (bs.drop 128)

/-- The SHA-384 digest of bytes: 48 bytes. (DEDUCED, log entry 133). -/
def sha384 (bs : List Byte) : List Byte :=
  let n := bs.length
  let zeros := (239 - n % 128) % 128
  let msg := bs ++ [0x80] ++ List.replicate zeros 0 ++ beBytes 16 (8 * n)
  let h (i : Nat) : BitVec 64 := BitVec.ofNat 64 (sha384H.getD i 0)
  let v := ShaVars.blocks (msg.length / 128) ⟨h 0, h 1, h 2, h 3, h 4, h 5, h 6, h 7⟩ msg
  [v.a, v.b, v.c, v.d, v.e, v.f].flatMap fun x => beBytes 8 x.toNat

/-! ### ECDSA P-384 (FIPS 186-5) -/

/-- The field prime, the order, the coefficient b and the base point of P-384. -/
def p384P : Nat := 2 ^ 384 - 2 ^ 128 - 2 ^ 96 + 2 ^ 32 - 1
def p384N : Nat := 0xffffffffffffffffffffffffffffffffffffffffffffffffc7634d81f4372ddf581a0db248b0a77aecec196accc52973
def p384B : Nat := 0xb3312fa7e23ee7e4988e056be3f82d19181d9c6efe8141120314088f5013875ac656398d8a2ed19d2a85c8edd3ec2aef
def p384G : Option (Nat × Nat) := some
  (0xaa87ca22be8b05378eb1c71ef320ad746e1d3b628ba79b9859f741e082542a385502f25dbf55296c3a545e3872760ab7,
   0x3617de4a96262c6f5d9e98bf9292dc29f8f41dbd289a147ce9da3113b5f0b8c00a60b1ce1d7e819d7a431d7c90ea0e5f)

/-- a to the power e modulo m, over the given number of bits of e. -/
def powMod (a m : Nat) : Nat → Nat → Nat
  | 0, _ => 1 % m
  | k + 1, e =>
    let h := powMod (a * a % m) m k (e / 2)
    if e % 2 = 1 then h * a % m else h

/-- The inverse modulo a prime of 384 bits. -/
def invMod (a m : Nat) : Nat := powMod (a % m) m 384 (m - 2)

/-- a − b modulo m, both below m. -/
def subMod (a b m : Nat) : Nat := (a + m - b) % m

/-- The sum of two points; none is the point at infinity. -/
def ecAdd : Option (Nat × Nat) → Option (Nat × Nat) → Option (Nat × Nat)
  | none, q => q
  | p, none => p
  | some (x1, y1), some (x2, y2) =>
    let l? := if x1 = x2 then
        (if (y1 + y2) % p384P = 0 then none
         else some (subMod (3 * x1 * x1 % p384P) 3 p384P * invMod (2 * y1) p384P % p384P))
      else some (subMod y2 y1 p384P * invMod (subMod x2 x1 p384P) p384P % p384P)
    match l? with
    | none => none
    | some l =>
      let x := subMod (subMod (l * l % p384P) x1 p384P) x2 p384P
      some (x, subMod (l * subMod x1 x p384P % p384P) y1 p384P)

/-- Twice a point in Jacobian coordinates: (X, Y, Z) stands for (X / Z², Y / Z³), and Z = 0 for infinity. -/
def jacDouble (p : Nat × Nat × Nat) : Nat × Nat × Nat :=
  let zz := p.2.2 * p.2.2 % p384P
  let yy := p.2.1 * p.2.1 % p384P
  let b := p.1 * yy % p384P
  let a := 3 * (subMod p.1 zz p384P * (p.1 + zz)) % p384P
  let x := subMod (a * a % p384P) (8 * b % p384P) p384P
  (x, subMod (a * subMod (4 * b % p384P) x p384P % p384P) (8 * yy * yy % p384P) p384P, 2 * p.2.1 * p.2.2 % p384P)

/-- The sum of a point in Jacobian coordinates and the point (x, y). -/
def jacAdd (p : Nat × Nat × Nat) (x y : Nat) : Nat × Nat × Nat :=
  if p.2.2 = 0 then (x, y, 1)
  else
    let zz := p.2.2 * p.2.2 % p384P
    let h := subMod (x * zz % p384P) p.1 p384P
    let r := subMod (y * (zz * p.2.2 % p384P) % p384P) p.2.1 p384P
    if h = 0 then (if r = 0 then jacDouble p else (1, 1, 0))
    else
      let hh := h * h % p384P
      let hhh := h * hh % p384P
      let v := p.1 * hh % p384P
      let x := subMod (r * r % p384P) ((hhh + 2 * v) % p384P) p384P
      (x, subMod (r * subMod v x p384P % p384P) (p.2.1 * hhh % p384P) p384P, p.2.2 * h % p384P)

/-- k times the point (x, y), over the given number of bits of k. -/
def jacMul : Nat → Nat → Nat → Nat → Nat × Nat × Nat
  | 0, _, _, _ => (1, 1, 0)
  | n + 1, k, x, y =>
    let d := jacDouble (jacMul n (k / 2) x y)
    if k % 2 = 1 then jacAdd d x y else d

/-- The point of Jacobian coordinates. -/
def jacPoint (p : Nat × Nat × Nat) : Option (Nat × Nat) :=
  if p.2.2 = 0 then none
  else
    let i := invMod p.2.2 p384P
    let ii := i * i % p384P
    some (p.1 * ii % p384P, p.2.1 * (ii * i % p384P) % p384P)

/-- k times a point, k of at most 384 bits. -/
def ecMul (k : Nat) : Option (Nat × Nat) → Option (Nat × Nat)
  | none => none
  | some (x, y) => jacPoint (jacMul 384 k x y)

/-- Whether a 96-byte signature, r then s, verifies over a SHA-384 digest under a 96-byte public key, x then y (R307, R312). -/
def ecdsaVerify (key digest sig : List Byte) : Bool :=
  let x := ofBe (key.take 48)
  let y := ofBe (key.drop 48)
  let r := ofBe (sig.take 48)
  let s := ofBe (sig.drop 48)
  let onCurve := decide (x < p384P) && decide (y < p384P) &&
    (y * y % p384P == (x * x * x + (p384P - 3) * x + p384B) % p384P)
  if !onCurve || r == 0 || decide (p384N ≤ r) || s == 0 || decide (p384N ≤ s) then false
  else
    let w := invMod s p384N
    let u1 := ofBe digest * w % p384N
    let u2 := r * w % p384N
    match ecAdd (ecMul u1 p384G) (ecMul u2 (some (x, y))) with
    | none => false
    | some (vx, _) => vx % p384N == r

/-! ### AES-256 and GCM (FIPS 197, SP 800-38D) -/

/-- Multiplication by x in the field of AES. -/
def xtime (b : Nat) : Nat := if 128 ≤ b then ((b * 2) ^^^ 0x1B) % 256 else b * 2

/-- The product in the field of AES, over the given number of bits of the second factor. -/
def gmul8 : Nat → Nat → Nat → Nat
  | 0, _, _ => 0
  | n + 1, a, b => (if b % 2 = 1 then a else 0) ^^^ gmul8 n (xtime a) (b / 2)

/-- a to the power e in the field of AES. -/
def gpow8 : Nat → Nat → Nat → Nat
  | 0, _, _ => 1
  | n + 1, a, e =>
    let h := gpow8 n (gmul8 8 a a) (e / 2)
    if e % 2 = 1 then gmul8 8 h a else h

/-- The substitution of one byte: the inverse in the field, then the affine map. -/
def aesSub (b : Nat) : Nat :=
  let i := gpow8 8 b 254
  let rot (k : Nat) : Nat := (i * 2 ^ k + i / 2 ^ (8 - k)) % 256
  i ^^^ rot 1 ^^^ rot 2 ^^^ rot 3 ^^^ rot 4 ^^^ 0x63

/-- The key schedule of AES-256: words of four bytes, newest first. -/
def aesExpand : Nat → Nat → Nat → List (List Nat) → List (List Nat)
  | 0, _, _, w => w
  | n + 1, i, rcon, w =>
    let t := w.getD 0 []
    let t := if i % 8 = 0 then
        (match (t.drop 1 ++ t.take 1).map aesSub with
         | a :: r => (a ^^^ rcon) :: r
         | [] => [])
      else if i % 8 = 4 then t.map aesSub else t
    let x := (w.getD 7 []).zipWith (· ^^^ ·) t
    aesExpand n (i + 1) (if i % 8 = 0 then xtime rcon else rcon) (x :: w)

/-- The 15 round keys of 16 bytes. -/
def aesKeys (key : List Byte) : List (List Nat) :=
  let k := key.map BitVec.toNat
  let w0 := (List.range 8).map fun i => (k.drop (4 * i)).take 4
  let w := (aesExpand 52 8 1 w0.reverse).reverse
  (List.range 15).map fun r => ((w.drop (4 * r)).take 4).flatten

/-- One column of MixColumns. -/
def aesMix : List Nat → List Nat
  | [a, b, c, d] =>
    let m2 := xtime
    let m3 (x : Nat) : Nat := xtime x ^^^ x
    [m2 a ^^^ m3 b ^^^ c ^^^ d, a ^^^ m2 b ^^^ m3 c ^^^ d, a ^^^ b ^^^ m2 c ^^^ m3 d, m3 a ^^^ b ^^^ c ^^^ m2 d]
  | l => l

/-- ShiftRows on 16 bytes, column by column. -/
def aesShift (s : List Nat) : List Nat := (List.range 16).map fun i => s.getD ((i + 4 * (i % 4)) % 16) 0

/-- The rounds after the first key: SubBytes, ShiftRows, MixColumns but in the last, and the round key. -/
def aesRounds : List (List Nat) → List Nat → List Nat
  | [], s => s
  | [k], s => (aesShift (s.map aesSub)).zipWith (· ^^^ ·) k
  | k :: ks, s =>
    let t := aesShift (s.map aesSub)
    let t := (List.range 4).flatMap fun c => aesMix ((t.drop (4 * c)).take 4)
    aesRounds ks (t.zipWith (· ^^^ ·) k)

/-- One block of 16 bytes under the round keys. -/
def aesBlock (ks : List (List Nat)) (b : List Nat) : List Nat :=
  match ks with
  | [] => b
  | k :: ks => aesRounds ks (b.zipWith (· ^^^ ·) k)

/-- The product in the field of GHASH, over the bits of x from the most significant. -/
def ghashMul : Nat → Nat → Nat → Nat → Nat
  | 0, _, _, z => z
  | n + 1, x, v, z =>
    let z := if bit x n then z ^^^ v else z
    ghashMul n x (if v % 2 = 1 then (v / 2) ^^^ (0xE1 * 2 ^ 120) else v / 2) z

/-- GHASH over n blocks of 16 bytes, the last filled with zeros. -/
def ghash (h : Nat) : Nat → Nat → List Byte → Nat
  | 0, y, _ => y
  | n + 1, y, bs =>
    let b := bs.take 16
    ghash h n (ghashMul 128 (y ^^^ ofBe (b ++ List.replicate (16 - b.length) 0)) h 0) (bs.drop 16)

/-- Counter mode over n blocks from a counter. -/
def gcmCtr (ks : List (List Nat)) (iv : List Byte) : Nat → Nat → List Byte → List Byte
  | 0, _, _ => []
  | n + 1, c, bs =>
    let e := aesBlock ks ((iv ++ beBytes 4 c).map BitVec.toNat)
    (bs.take 16).zipWith (fun b k => b ^^^ BitVec.ofNat 8 k) e ++ gcmCtr ks iv n (c + 1) (bs.drop 16)

/-- AES-256-GCM: the plaintext when the tag verifies (R311). -/
def gcmOpen (key iv aad ct tag : List Byte) : Option (List Byte) :=
  let ks := aesKeys key
  let h := ofBe ((aesBlock ks (List.replicate 16 0)).map (BitVec.ofNat 8))
  let y := ghash h (ceilDiv aad.length 16) 0 aad
  let y := ghash h (ceilDiv ct.length 16) y ct
  let y := ghash h 1 y (beBytes 8 (8 * aad.length) ++ beBytes 8 (8 * ct.length))
  let e := ofBe ((aesBlock ks ((iv ++ beBytes 4 1).map BitVec.toNat)).map (BitVec.ofNat 8))
  if beBytes 16 (y ^^^ e) = tag then some (gcmCtr ks iv (ceilDiv ct.length 16) 2 ct) else none

/-! ### CRC-32 (R494) -/

/-- The steps of one byte, least significant bit first. -/
def crc32Bits : Nat → Nat → Nat
  | 0, c => c
  | n + 1, c => crc32Bits n (if c % 2 = 1 then (c / 2) ^^^ 0xEDB88320 else c / 2)

/-- The CRC-32 of bytes. -/
def crc32 (bs : List Byte) : Nat :=
  bs.foldl (fun c b => crc32Bits 8 (c ^^^ b.toNat)) 0xFFFFFFFF ^^^ 0xFFFFFFFF

end Sys2Proof.Machine
end

