-- ==== Sys2Proof/Machine/AccessOps.lean ====
section
/-! DEFINITION. Masters and their views (R42 to R44, R474), and the access check that every register access passes. -/

namespace Sys2Proof.Machine

/-- Fuse slot k (R457). -/
def State.fuse (s : State) (k : Nat) : FuseSlot := Tab.get {} s.sec.fuses k

/-- The life-cycle code: that of the highest bit blown of slot 0 (R456). -/
def State.lc (s : State) : Nat :=
  let v := (s.fuse 0).val
  if v = 0 then 0 else Nat.log2 v + 1

/-- The views of R42 and R474. -/
inductive View
  | nothing
  | unprivileged
  | privileged
  | readOnly       -- privileged, read only
  | secure
  | secStatus      -- SEC_STATUS only
deriving DecidableEq, Repr

/-- The view that JTAG has in a life-cycle state (R474). -/
def jtagView (lc : Nat) : View :=
  if lc = 0 ∨ lc = 1 ∨ lc = 4 then .secure else if lc = 2 then .privileged else if lc = 3 then .readOnly else .nothing

/-- The view that the management bus has (R474). -/
def busView (lc : Nat) : View :=
  if lc = 0 ∨ lc = 1 ∨ lc = 4 then .secure else if lc = 2 then .privileged else if lc = 3 then .readOnly else .secStatus

/-- The view of a master (R42). (DEDUCED, log entry 23). -/
def State.view (s : State) : Master → View
  | .bar0 => .privileged
  | .bar2 _ => .unprivileged
  | .selay _ => .secure
  | .jtag => jtagView s.lc
  | .mgmtBus => busView s.lc
  | .unit _ => .unprivileged

/-- Whether a view may make an access to a register (R43, R474). -/
def View.may (v : View) (r : Rn) (write : Bool) : Bool :=
  match v with
  | .secure => true
  | .privileged => !r.spec.secure
  | .readOnly => !r.spec.secure && !write
  | .secStatus => r == .secStatus && !write
  | .unprivileged => false
  | .nothing => false

/-- The class of a master in violation records: none for a Selay core, which the manual does not code. -/
def Master.cls : Master → Option Nat
  | .bar0 => some 0
  | .bar2 _ => some 1
  | .jtag => some 2
  | .mgmtBus => some 2
  | .unit _ => some 3
  | .selay _ => none

/-- The BAR2 page of a master. -/
def Master.page : Master → Nat
  | .bar2 p => p.val
  | _ => 0

/-- An access violation by a master (R38, R43, R44); the class of a Selay core is a free value. (DESIGN CHOICE, log entry 18). -/
def State.violateBy (s : State) (m : Master) (off : Nat) (write : Bool) (cause : Nat) : State :=
  match Master.cls m with
  | some c => s.violate c (Master.page m) off write cause
  | none => (s.violate (s.freeVal 2) 0 off write cause).takeFree

/-- The module answers accesses to a block: it is powered and out of reset, and once the boot chain has stopped only SEC_ registers
answer (R466, R491). (DEDUCED, log entry 22). -/
def State.responds (s : State) (k : Blk) : Bool :=
  s.board.powered && !s.board.held && (s.sec.stage != 7 || k == .sec)

/-- An access of a master to a register that answers: its effect when the master's view allows it, else a PV violation. -/
def State.guarded (s : State) (m : Master) (r : RegAt) (write : Bool) (f : State → State) : State :=
  if s.responds r.rn.spec.blk = false then s
  else if (s.view m).may r.rn write then f s else s.violateBy m r.off write 0

end Sys2Proof.Machine
end

