-- ==== Sys2Proof/Machine/FabOps.lean ====
section
/-! DEFINITION. Named operations of the fabric that other units use: paddocks and what their frames set at the hard sites, which
global networks run (R288 to R291), and the port-B cycles of the block memories (R295). -/

namespace Sys2Proof.Machine

/-! ### Paddocks and hard sites -/

def State.fab (s : State) (b : Nat) : Fab := Tab.get {} s.fabs b
def State.modFab (s : State) (b : Nat) (f : Fab → Fab) : State := { s with fabs := Tab.upd {} s.fabs b f }

/-- Global paddock P. -/
def State.pad (s : State) (p : Nat) : Pad := Tab.get {} s.cfg.pads p
def State.modCfg (s : State) (f : Cfg → Cfg) : State := { s with cfg := f s.cfg }
def State.modPad (s : State) (p : Nat) (f : Pad → Pad) : State := s.modCfg fun c => { c with pads := Tab.upd {} c.pads p f }

/-- The gate cells of a paddock are open: it is RELEASING or RELEASED (R330). (DEDUCED, log entry 116). -/
def State.gates (s : State) (p : Nat) : Bool := decide (3 ≤ (s.pad p).state) && !s.isFenced (p / 8)

/-- What the paddock's frames set at a hard site: block memory m is site m, stall port j site 448 + j, endpoint e site 456 + e,
user I/O pin n of the bay site 464 + n % 2. -/
def Pad.site (p : Pad) (i : Nat) : Nat := Tab.get 0 p.sites i

/-- The block is in QUEUE mode (R292). -/
def siteQueue (v : Nat) : Bool := bit v 0
/-- Bytes of a RAM port's width: 8, 16, 32, 64, 128 or 256 bits (R293). -/
def siteWidth (v : Nat) (portB : Bool) : Nat := 2 ^ ((if portB then bits v 6 4 else bits v 3 1) % 6)
/-- Bytes of a queue's width: 32, 64, 128 or 256 bits (R296). -/
def siteQWidth (v : Nat) : Nat := 4 * 2 ^ bits v 2 1
/-- Entries of a queue (R296). -/
def siteDepth (v : Nat) : Nat := 16384 / siteQWidth v
/-- Thresholds AE and AF, 1 to depth − 1 (R296). -/
def siteAE (v : Nat) : Nat := 1 + bits v 24 8 % (siteDepth v - 1)
def siteAF (v : Nat) : Nat := 1 + bits v 41 25 % (siteDepth v - 1)
/-- The global network of port A or port B. -/
def siteNet (v : Nat) (portB : Bool) : Nat := if portB then bits v 49 46 else bits v 45 42
/-- The network of a stall port or an endpoint, and the crossing mode of an endpoint (R297, R303). -/
def portNet (v : Nat) : Nat := bits v 3 0
def endWakes (v : Nat) : Bool := bit v 4

/-! ### Clocks (R288 to R291) -/

/-- The rate of a PLL's reference in kHz: the host reference, user I/O pin 0, or pin 8 (R288). -/
def State.refKhz (s : State) (b n : Nat) : Nat :=
  match bits (s.reg .fabPllCfg b n) 30 29 with
  | 0 => 100000
  | 1 => Config.pinClock b 0
  | 2 => Config.pinClock b 8
  | _ => 0

/-- The rate of network source 1 to 16 in kHz, as a fraction: f_ref × M over N × D (R288). -/
def State.outputRate (s : State) (b src : Nat) : Nat × Nat :=
  let n := (src - 1) / 4
  let c := s.reg .fabPllCfg b n
  let d := bits (s.reg .fabPllDiv b n) (8 * ((src - 1) % 4) + 7) (8 * ((src - 1) % 4)) + 1
  (s.refKhz b n * bits c 25 19, (bits c 28 26 + 1) * d)

/-- The output of a network source 1 to 16 would exceed a rate in MHz (R288, R290). -/
def State.outputOver (s : State) (b src mhz : Nat) : Bool :=
  if src = 0 ∨ 16 < src then false
  else decide (mhz * 1000 * (s.outputRate b src).2 < (s.outputRate b src).1)

/-- An endpoint of a bay in wake-on-packet mode, bound to network i, holds a packet (R291). -/
def State.wakes (s : State) (b i : Nat) : Bool :=
  (List.range 64).any fun e =>
    let v := (s.pad (b * 8 + e / 8)).site (456 + e % 8)
    endWakes v && portNet v == i && !(Tab.get ({} : FabEnd) (s.fab b).ends e).hold.isEmpty

/-- Network i of bay b runs (R290, R291). (DESIGN CHOICE, log entry 114). -/
def State.netRuns (s : State) (b i : Nat) : Bool :=
  let src := bits (s.reg .fabGclk b i) 4 0
  let fed :=
    if src = 0 then false
    else if src ≤ 16 then (s.fab b).lock.getD ((src - 1) / 4) false && !s.outputOver b src 800
    else if src ≤ 18 then true
    else s.gates (b * 8 + (src - 19))
  !s.isFenced b && fed && (!Tab.get false (s.fab b).sleep i || s.wakes b i)

/-! ### Block memories (R292 to R295) -/

/-- The configuration of block j of bay b. -/
def State.blockSite (s : State) (b j : Nat) : Nat := (s.pad (b * 8 + j / 448)).site (j % 448)

/-- The device physical address of a byte of block j. -/
def blockByte (b j off : Nat) : Nat := blockAddr b (j * 16384 + off)

/-- A port-B cycle with its enable high (R295). (DESIGN CHOICE, log entry 119). -/
def State.busyB (s : State) (b j : Nat) : State :=
  s.modFab b fun f =>
    { f with busy := Tab.set 0 f.busy j (Nat.min 16 (Tab.get 0 f.busy j + 1))
             hold := Tab.set false f.hold j false
             used := Tab.upd 0 f.used j (· + 1) }

/-- A NoC access takes a cycle of port B (R295): one in which the enable is low, or the one after 16 with the enable high, with
B_HOLD high then. -/
def State.serveB (s : State) (b j : Nat) : State :=
  let p := b * 8 + j / 448
  let held := s.gates p && s.netRuns b (siteNet (s.blockSite b j) true) && decide (16 ≤ Tab.get 0 (s.fab b).busy j)
  s.modFab b fun f => { f with busy := Tab.set 0 f.busy j 0, hold := Tab.set false f.hold j held }

end Sys2Proof.Machine
end

