-- ==== Sys2Proof/Machine/Cells.lean ====
section
/-! DEFINITION. The configured logic of the fabric: lookup tables, flip-flops and carry chains (R284), encoded multiplexers and routing
wires (R285), wires that cross a paddock border or a bay bridge (R286, R328), hard-site outputs (R304), user I/O pins (R305), and the
clock edges of one period of the host reference. -/

namespace Sys2Proof.Machine

/-! ### Cells and multiplexers -/

/-- Cells of a paddock, and of one of its 600 columns (R284). -/
def cellCount : Nat := 150000
def columnCells : Nat := 250

/-- Selector bits of a multiplexer with n inputs: ⌈log₂(n + 1)⌉ (R285). -/
def selectorBits (n : Nat) : Nat := if n = 0 then 0 else Nat.log2 n + 1

/-- The input that a selector code chooses: codes 1 to n one input each, code 0 and codes above n none, so that constant 0 is driven
(R285). -/
def muxSelect {α : Type} (inputs : List α) (code : Nat) : Option α :=
  match code % 2 ^ selectorBits inputs.length with
  | 0 => none
  | k + 1 => inputs[k]?

/-- What a stream sets at one flip-flop of a cell (R284). -/
structure FlopCfg where
  bypass : Bool      -- D comes from the bypass input, else from a table output
  second : Bool      -- the second table output
  init   : Bool
  async  : Bool      -- the reset is asynchronous
deriving DecidableEq, Repr

/-- What a stream sets in a cell (R284). -/
structure CellCfg where
  truth : Nat
  split : Bool       -- two 5-input tables
  a     : FlopCfg
  b     : FlopCfg
  clk   : Nat        -- global network 0 to 15; 16 and above: the cell's clock wire
deriving DecidableEq, Repr

/-- Four bits of a flip-flop. -/
def flopCfg (v i : Nat) : FlopCfg := { bypass := bit v i, second := bit v (i + 1), init := bit v (i + 2), async := bit v (i + 3) }

/-- A cell as its bits say. -/
def cellCfg (v : Nat) : CellCfg :=
  { truth := bits v 63 0, split := bit v 64, a := flopCfg v 65, b := flopCfg v 69, clk := bits v 77 73 }

/-- The frames of global paddock p. -/
def State.frames (s : State) (p : Nat) : Tab Byte := Tab.get [] s.cfg.frames p

/-- Cell c of paddock p. -/
def State.logicCell (s : State) (p c : Nat) : CellCfg := cellCfg (Config.cellBits (s.frames p) c).toNat

/-- The configuration of one flip-flop. -/
def CellCfg.flop (x : CellCfg) (second : Bool) : FlopCfg := if second then x.b else x.a

/-- An output of a lookup table: of one 6-input table, or of two 5-input tables that share inputs 0 to 4 (R284). -/
def CellCfg.output (x : CellCfg) (second : Bool) (inputs : List Bool) : Bool :=
  let idx := inputs.foldr (fun v n => 2 * n + b2n v) 0
  if x.split then bit x.truth (idx % 32 + if second then 32 else 0)
  else !second && bit x.truth idx

/-- The input wires of cell c: 0 to 5 the table's, 6 and 7 the bypass inputs, 8 and 9 the clock enables, 10 and 11 the resets, 12 the
clock wire. -/
def cellWire (c k : Nat) : Nat := c * 13 + k

/-- The number of a flip-flop in its bay. -/
def flopKey (p c : Nat) (second : Bool) : Nat := (p % 8 * cellCount + c) * 2 + b2n second

/-- A flip-flop's value; it is the configured initial value until a clock has changed it (R284, R330). -/
def State.flop (s : State) (p c : Nat) (second : Bool) : Bool :=
  (Tab.get none (s.fab (p / 8)).flops (flopKey p c second)).getD ((s.logicCell p c).flop second).init

/-! ### User I/O pins (R305) -/

/-- The pull of a pin. -/
inductive Pull | none_ | up | down | keeper
deriving DecidableEq, Repr

/-- What the module puts on a user I/O pin: high impedance with a pull, or a level with its drive in mA and a fast or slow slew. -/
inductive PinDrive
  | highZ (pull : Pull)
  | drives (level : Bool) (mA : Nat) (fast : Bool)
deriving DecidableEq, Repr

/-- The weak pull that the straps select: 0 and 3 pull-down, 1 pull-up, 2 none (R481). -/
def strapPull (x : Straps) : Pull :=
  match x.pullsel.toNat with
  | 1 => .up
  | 2 => .none_
  | _ => .down

/-- The site of pin n of a bay in its paddock. -/
def pinSite (n : Nat) : Nat := 464 + n % 2

/-- What a stream sets at a pin: its direction (0 input, 1 output, 2 bidirectional), drive, slew, pull, hysteresis, and registers
(0 none, 1 single, 2 double data rate), with their network. -/
structure PinCfg where
  dir   : Nat
  mA    : Nat
  fast  : Bool
  pull  : Pull
  hyst  : Bool
  regs  : Nat
  net   : Nat
deriving DecidableEq, Repr

/-- DESIGN CHOICE, log entry 266. (DESIGN CHOICE, log entry 266). -/
def pinCfg (v : Nat) : PinCfg :=
  { dir := bits v 1 0 % 3, mA := 4 * (1 + bits v 3 2 % 3), fast := bit v 4
    pull := (match bits v 6 5 with | 0 => .none_ | 1 => .up | 2 => .down | _ => .keeper)
    hyst := bit v 7, regs := bits v 9 8 % 3, net := bits v 13 10 }

/-- The configuration of pin n of bay b. -/
def State.pinCfg (s : State) (b n : Nat) : PinCfg := Machine.pinCfg ((s.pad (b * 8 + n / 2)).site (pinSite n))

/-- The level that the outside gives to a pin: a free value. -/
def State.pinLevel (s : State) (b n : Nat) : Bool := bit (s.freeVal 1536) (3 * (b * 16 + n))

/-! ### Hard-site outputs (R304) -/

/-- Gray code. -/
def gray (n : Nat) : Nat := Nat.xor n (n / 2)

/-- Sites of a paddock past its blocks, ports, endpoints and pins: WARN_CORE, WARN_FAB and LCOUNT. -/
def siteWarnCore : Nat := 466
def siteWarnFab : Nat := 467
def siteLcount : Nat := 468

/-- Output k of hard site i of paddock p (R304): WARN_CORE and WARN_FAB; LCOUNT, the local counter in Gray code; what a pin takes in. The
outputs of ports, endpoints and blocks that no command carries are free values. -/
def State.siteOut (s : State) (p i k : Nat) : Bool :=
  let f := s.fab (p / 8)
  if i = siteWarnCore then f.warnCore
  else if i = siteWarnFab then f.warnFab
  else if i = siteLcount then bit (gray (s.local (p / 8))) k
  else if i = 464 ∨ i = 465 then
    let n := 2 * (p % 8) + i % 2
    let r := Tab.get ({} : PinRegs) f.pins n
    if (s.pinCfg (p / 8) n).regs = 0 then s.pinLevel (p / 8) n else if k = 1 then r.inFall else r.inRise
  else bit (s.freeVal 1024) (k % 1024)

/-! ### Signals (R285, R286, R328) -/

/-- The value of a signal as seen in paddock q. A wire of another paddock passes its gate cells: while they are clamped, it shows the
clamp bit that q's own frames set, and 0 when q is itself isolated. A combinational loop, which uses up every step, gives a free value
(R287). -/
def State.signal (s : State) (q : Nat) : Nat → Node → Bool
  | 0, _ => bit (s.freeVal 1024) 0
  | n + 1, x =>
    match x with
    | .wire p w =>
      if p ≠ q ∧ s.gates p = false then s.gates q && Config.clampBit (s.frames q) p w
      else match muxSelect (Config.muxInputs p w) (Config.muxCode (s.frames p) w) with
        | some y => State.signal s p n y
        | none => false
    | .table p c second =>
      (s.logicCell p c).output second ((List.range 6).map fun k => State.signal s p n (.wire p (cellWire c k)))
    | .flop p c second => s.flop p c second
    | .carry p c =>
      Config.carryOut (State.signal s p n (.table p c false)) (State.signal s p n (.table p c true))
        (if c % columnCells = 0 then false else State.signal s p n (.carry p (c - 1)))
    | .site p i k => s.siteOut p i k

/-- Steps within which every signal without a combinational loop is found. -/
def signalSteps : Nat := 2 ^ 24

/-- The value of an input wire of cell c in its paddock. -/
def State.cellIn (s : State) (p c k : Nat) : Bool := s.signal p signalSteps (.wire p (cellWire c k))

/-- What a pin puts out: high impedance with the straps' pull while its paddock's gate cells are clamped or its bay is fenced, else as
configured (R305, R328). A bidirectional pin drives while its output enable is high. Under EXTEST the boundary cells drive the pins
(R474, R485). -/
def State.pinDrive (s : State) (b n : Nat) : PinDrive :=
  let p := b * 8 + n / 2
  let i := 3 * (b * 16 + n)
  if s.board.ir = 0 then
    if s.board.cells.getD (i + 2) false then .drives (s.board.cells.getD (i + 1) false) 4 false else .highZ (strapPull s.sec.straps)
  else if s.gates p = false then .highZ (strapPull s.sec.straps)
  else
    let c := s.pinCfg b n
    let on := c.dir = 1 ∨ (c.dir = 2 ∧ s.signal p signalSteps (.wire p (Config.pinWire p (n % 2) true)) = true)
    let r := Tab.get ({} : PinRegs) (s.fab b).pins n
    let v := if c.regs = 0 then s.signal p signalSteps (.wire p (Config.pinWire p (n % 2) false)) else r.outRise
    if on then .drives v c.mA c.fast else .highZ c.pull

/-! ### Clock edges (R284, R290, R330) -/

/-- The value of a flip-flop after an edge of its clock: the initial value while its reset is high, the D input while its clock enable
is high, else what it holds (R284). -/
def State.flopNext (s : State) (p c : Nat) (second : Bool) : Bool :=
  let x := (s.logicCell p c).flop second
  let k := b2n second
  if s.cellIn p c (10 + k) then x.init
  else if s.cellIn p c (8 + k) then
    if x.bypass then s.cellIn p c (6 + k) else s.signal p signalSteps (.table p c x.second)
  else s.flop p c second

/-- A paddock whose flip-flops run: it is RELEASED and its bay is not fenced. -/
def State.flopsRun (s : State) (p : Nat) : Bool := (s.pad p).state == 4 && s.gates p

/-- Both flip-flops of the cells that `on` chooses take their next values at once. -/
def State.clockCells (s : State) (p : Nat) (on : Nat → Bool) : State :=
  let put (t : Tab (Option Bool)) (c : Nat) : Tab (Option Bool) :=
    if on c then
      Tab.set none (Tab.set none t (flopKey p c false) (some (s.flopNext p c false))) (flopKey p c true) (some (s.flopNext p c true))
    else t
  s.modFab (p / 8) fun f => { f with flops := (List.range cellCount).foldl put f.flops }

/-- An asynchronous reset acts at once: its flip-flop takes the initial value (R284). -/
def State.asyncResets (s : State) (p : Nat) : State :=
  let one (t : Tab (Option Bool)) (c : Nat) (second : Bool) : Tab (Option Bool) :=
    let x := (s.logicCell p c).flop second
    if x.async && s.cellIn p c (10 + b2n second) then Tab.set none t (flopKey p c second) (some x.init) else t
  s.modFab (p / 8) fun f => { f with flops := (List.range cellCount).foldl (fun t c => one (one t c false) c true) f.flops }

/-- The number of a clock wire, and of a paddock's root wire, among those whose level is kept. -/
def levelKey (p c : Nat) : Nat := p % 8 * (cellCount + 1) + c

/-- Cells whose clock wire has risen take an edge; the levels are kept for the next time (R284). -/
def State.wireClocks (s : State) (p : Nat) : State :=
  let b := p / 8
  let lvl (c : Nat) : Bool := s.cellIn p c 12
  let s' := s.clockCells p fun c => decide (16 ≤ (s.logicCell p c).clk) && lvl c && !Tab.get false (s.fab b).levels (levelKey p c)
  s'.modFab b fun f =>
    { f with levels := (List.range cellCount).foldl (fun t c => if 16 ≤ (s.logicCell p c).clk then Tab.set false t (levelKey p c) (lvl c) else t)
               f.levels }

/-- The I/O registers of a paddock's pins on network i take an edge; those of double data rate take the falling one too (R305). -/
def State.clockPins (s : State) (p i : Nat) : State :=
  let b := p / 8
  each [2 * (p % 8), 2 * (p % 8) + 1] s fun s n =>
    let c := s.pinCfg b n
    if c.regs = 0 ∨ c.net ≠ i then s
    else
      let v := s.signal p signalSteps (.wire p (Config.pinWire p (n % 2) false))
      let l := s.pinLevel b n
      s.modFab b fun f => { f with pins := Tab.upd {} f.pins n fun r =>
        if c.regs = 2 then { outRise := v, outFall := v, inRise := l, inFall := l } else { r with outRise := v, inRise := l } }

/-- A network's rising edges in the period of the host reference that ends at count t, for a rate of num over den kHz. -/
def edgesAt (num den t : Nat) : Nat :=
  if den = 0 then 0 else num * t / (den * 100000) - num * (t - 1) / (den * 100000)

/-- The level of a paddock's root wire (R290); 0 while its gate cells are clamped (R328). -/
def State.rootLevel (s : State) (p : Nat) : Bool := s.gates p && s.signal p signalSteps (.wire p (Config.rootWire p))

/-- Rising edges of network i of bay b in the present period (R288, R290). -/
def State.netEdges (s : State) (b i : Nat) : Nat :=
  let src := bits (s.reg .fabGclk b i) 4 0
  if s.netRuns b i = false then 0
  else if src ≤ 16 then edgesAt (s.outputRate b src).1 (s.outputRate b src).2 (s.local b)
  else if src = 17 then edgesAt (Config.pinClock b 0) 1 (s.local b)
  else if src = 18 then edgesAt (Config.pinClock b 8) 1 (s.local b)
  else b2n (s.rootLevel (b * 8 + (src - 19)) && !Tab.get false (s.fab b).levels (levelKey (src - 19) cellCount))

/-- One edge of network i: every flip-flop and pin register on it in a released paddock. -/
def State.netEdge (s : State) (b i : Nat) : State :=
  each ((List.range 8).map (b * 8 + ·)) s fun s p =>
    if s.flopsRun p then ((s.clockCells p fun c => (s.logicCell p c).clk == i).clockPins p i).asyncResets p else s

/-- A block memory whose port B was idle in some cycle of the period has no cycles in a row with the enable high (R295). -/
def State.portBIdle (s : State) (b : Nat) : State :=
  let f := s.fab b
  let busy := f.busy.filter fun e => decide (s.netEdges b (siteNet (s.blockSite b e.1) true) ≤ Tab.get 0 f.used e.1)
  s.modFab b fun f => { f with busy := busy, used := [], winA := [] }

/-- Bays with a released paddock. -/
def State.fabBays (s : State) : List Nat :=
  (List.range 32).filter fun b => s.cfg.pads.any fun e => e.1 / 8 == b && e.2.state == 4

/-- One period of a bay's fabric: the edges of its networks, lowest network first, then the cells clocked from wires. A stopped network
leaves what is on it as it is (R290). -/
def State.fabPeriod (s : State) (b : Nat) : State :=
  let s := s.portBIdle b
  let s := each (List.range 16) s fun s i => (List.range (s.netEdges b i)).foldl (fun s _ => s.netEdge b i) s
  let s := each ((List.range 8).map (b * 8 + ·)) s fun s p => if s.flopsRun p then (s.wireClocks p).asyncResets p else s
  let lv := (List.range 8).map fun q => (q, s.rootLevel (b * 8 + q))
  s.modFab b fun f => { f with levels := lv.foldl (fun t x => Tab.set false t (levelKey x.1 cellCount) x.2) f.levels }

end Sys2Proof.Machine
end

