-- ==== Sys2Proof/Machine/StallOps.lean ====
section
/-! DEFINITION. What the units of a stall share: the instruction queue's head and its issue (R183 to R189), tokens (R190 to
R197), the stall watch (R202, R203), precise faults (R206), and completion. -/

namespace Sys2Proof.Machine

/-! ### Instruction words (R179) -/

def QEntry.opc (e : QEntry) : Nat := bits e.word 127 120
def QEntry.wtEn (e : QEntry) : Bool := bit e.word 119
def QEntry.prEn (e : QEntry) : Bool := bit e.word 118
def QEntry.unit (e : QEntry) : Nat := bits e.word 115 112
def QEntry.wtTok (e : QEntry) : Nat := bits e.word 111 100
def QEntry.prTok (e : QEntry) : Nat := bits e.word 99 88
/-- DESC, in bits [23:0] (R180). -/
def QEntry.desc (e : QEntry) : Nat := bits e.word 23 0

/-- The opcodes of R180. -/
inductive Op
  | jbegin | jcommit | qrep | mpass | wload | sld | sst | vop | take | tprod | twait | fxch
deriving DecidableEq, Repr

/-- The operation of an opcode (R180). -/
def Op.ofCode : Nat → Option Op
  | 0x01 => some .jbegin | 0x02 => some .jcommit | 0x03 => some .qrep | 0x10 => some .mpass | 0x11 => some .wload
  | 0x20 => some .sld | 0x21 => some .sst | 0x30 => some .vop | 0x40 => some .take | 0x50 => some .tprod
  | 0x51 => some .twait | 0x60 => some .fxch
  | _ => none

def QEntry.op (e : QEntry) : Option Op := Op.ofCode e.opc

/-! ### Token counts (R192) -/

/-- The key of the count of a name for one consumer of a stall: its queue, or its control core. -/
def countKey (slot : Nat) (core : Bool) (name : Nat) : Nat := (slot * 2 + b2n core) * 4096 + name

/-- The count of a name for a consumer. -/
def Stall.count (st : Stall) (slot : Nat) (core : Bool) (name : Nat) : Nat := Tab.get 0 st.counts (countKey slot core name)

/-- The stall after one count of a name is taken by a wait (R193). -/
def Stall.takeCount (st : Stall) (slot : Nat) (core : Bool) (name : Nat) : Stall :=
  { st with counts := Tab.upd 0 st.counts (countKey slot core name) (· - 1) }

/-! ### The head of the queue (R184, R188) -/

/-- The instruction at the head; none while a repeat block waits for its next iteration. -/
def Stall.head (st : Stall) : Option QEntry :=
  match st.rep with
  | none => st.queue.head?
  | some r => match r.pos with
    | none => none
    | some p => st.queue[p]?

/-- The entry whose wait stands at the head: the head instruction, or the QREP whose iteration is to start. -/
def Stall.headEntry (st : Stall) : Option QEntry :=
  match st.rep with
  | some r => match r.pos with
    | none => some r.e
    | some p => st.queue[p]?
  | none => st.queue.head?

/-- Whether the wait of an entry is satisfied (R193). -/
def Stall.waitOk (st : Stall) (e : QEntry) : Bool := !e.wtEn || decide (1 ≤ st.count e.slot false e.wtTok)

/-- The feed engine refills the queue to 512 entries (R183, R207). -/
def Stall.refill (st : Stall) : Stall :=
  let room := 512 - st.queue.length
  { st with queue := st.queue ++ st.held.take room, held := st.held.drop room }

/-- The conditions of R184 that every opcode shares: no earlier fault of the instance on the stall, the wait satisfied, fewer than 16
instructions issued without completing; the wait of a QREP belongs to its iterations (R188); and a job's JBEGIN issues only when no job runs, its other instructions only while it
runs. -/
def Stall.canIssue (st : Stall) (e : QEntry) : Bool :=
  !st.faulted.contains (e.slot, e.gen) && (e.op == some .qrep || st.waitOk e) && decide (st.inflight.length < 16) &&
    (if e.op = some .jbegin then st.run.isNone else st.run == some (e.slot, e.gen) && st.commit.isNone)

/-- The head leaves the queue: its wait takes a count, STL_IQ_ISSUED advances, and the next entry, or the next instruction of
the repeat block, becomes the head (R184, R188, R193). A repeat block ends after its last iteration. -/
def Stall.pop (st : Stall) (e : QEntry) : Stall :=
  let st := if e.wtEn && e.op ≠ some .qrep then st.takeCount e.slot false e.wtTok else st
  let st := { st with issues := st.issues + 1 }
  match st.rep with
  | none => { st with queue := st.queue.drop 1 }.refill
  | some r => match r.pos with
    | none => st
    | some p =>
      if p + 1 < r.len then { st with rep := some { r with pos := some (p + 1) } }
      else if r.left ≤ 1 then { st with rep := none, queue := st.queue.drop r.len }.refill
      else { st with rep := some { r with pos := none, left := r.left - 1 } }

/-- The head issues; it stays incomplete when `keep` is set. (DEDUCED, log entry 65). -/
def State.issue (s : State) (g : Nat) (e : QEntry) (keep : Bool) : State :=
  let s := s.count .stlIqIssued g
  s.modStall g fun st =>
    let n := st.issues
    let st := st.pop e
    if keep then { st with inflight := st.inflight ++ [{ e := e, seq := n }] } else st

/-- Whether the head of stall g is operation o and meets the shared conditions of R184. -/
def State.headIs (s : State) (g : Nat) (o : Op) : Option QEntry :=
  let st := s.stall g
  match st.head with
  | some e => if e.op = some o ∧ st.canIssue e = true ∧ s.stallUp g = true then some e else none
  | none => none

/-! ### The stall watch (R202, R203) -/

/-- The waiting reason of the control core that counts for the stall watch is computed where the core is modelled; here it is
an argument. A port wait is an issued transfer that waits on its channel (R202). -/
def Transfer.portWait (t : Transfer) : Bool := t.opc == 0x60 && !t.done

/-- A transfer is that of an issued instruction. -/
def Transfer.isOf (t : Transfer) (i : Issued) : Bool := t.e == some i.e && t.seq == i.seq

/-- An issued instruction is an exchange that waits on its channel, or back-pressure of the stall port holds it: it stands by behind
such an exchange, or it is a TPROD that waits for an instruction issued before it (R187, R202). -/
def Stall.portHeld (st : Stall) (i : Issued) : Bool :=
  (i.e.op == some .tprod && st.inflight.any fun x => decide (x.seq < i.seq)) ||
  st.engines.any fun en =>
    match en.active, en.standby with
    | some t, none => t.isOf i && t.portWait
    | some t, some u => t.portWait && (t.isOf i || u.isOf i)
    | none, some u => u.isOf i && u.portWait
    | none, none => false

/-- Every issued, incomplete instruction waits on its channel or is held by back-pressure of the stall port. -/
def Stall.onlyPortWaits (st : Stall) : Bool := st.inflight.all st.portHeld

/-- The conditions of R202 on the queue and the issued instructions; `coreWaits` says that the control core has halted or
waits as R151 states. -/
def Stall.quietNow (st : Stall) (coreWaits : Bool) : Bool :=
  match st.run with
  | none => false
  | some _ =>
    (match st.headEntry with
     | none => !st.inflight.isEmpty || st.commit.isSome
     | some e => (e.wtEn && !st.waitOk e) || (e.op == some .jcommit && !st.core.halted)) &&
    st.onlyPortWaits && coreWaits && st.commit.isNone

/-- The watch after a step of the stall: an activity or a broken condition ends the quiet, and a quiet begins while the
conditions hold (R202). -/
def Stall.watchStep (st : Stall) (now : Nat) (activity coreWaits : Bool) : Stall :=
  let q := st.quietNow coreWaits
  let w := st.watch
  if w.frozen.isSome then st
  else if !q then { st with watch := { w with quiet := false, expired := false } }
  else if activity || !w.quiet then
    { st with watch := { w with quiet := true, expired := false, episode := (w.episode + 1) % 256, since := now } }
  else st

/-! ### Precise faults (R206) -/

/-- A reason for which the running instance of a slot fails. -/
def State.addReason (s : State) (slot gen : Nat) (r : Reason) : State :=
  if (s.job slot).gen = gen then s.modJob slot fun j => { j with reasons := j.reasons ++ [r] } else s

/-- A job meets a CTL_POISON or QREP_POISON fault; before any fault of R256, the poison is of another origin (R259). (DEDUCED,
log entry 242). -/
def Job.metPoison (j : Job) : Job := { j with poison := true, foreign := j.foreign || j.faults.isEmpty }

/-- A precise fault at an instruction of stall g: no later instruction issues, STL_IQ_FAULT captures, IQ_FAULT is raised and the
job instance gets its reason (R206, R208). -/
def State.iqFault (s : State) (g : Nat) (e : QEntry) (cause detail w1 w2 : Nat) (st : Status) (tok : Option Nat := none) : State :=
  let s := s.capture .stlIqEvent 0 .stlIqFault g
    (e.idx * 2 ^ 48 + cause * 2 ^ 40 + e.slot * 2 ^ 30 + detail % 2 ^ 24)
  let s := s.raise .stlIqEvent g 0 0x140 g (e.idx * 2 ^ 16 + w1 + cause) (e.slot * 2 ^ 20 + w2)
  let s := s.modStall g fun x => { x with faulted := (e.slot, e.gen) :: x.faulted }
  s.addReason e.slot e.gen { status := st, fault := true, stall := g, idx := e.idx, tok := tok }

/-! ### Tokens (R190 to R196) -/

/-- The record of a name in a job's token table, as stall g applies it: in a replicated job that of its own copy (R211). -/
def Job.token (j : Job) (g name : Nat) : Option TokRec := j.tokens.find? fun t => t.name == name && (t.copy.getD g == g)

/-- A token of record t is handed to delivery: one packet for each consumer, or a token beat toward the fabric on a channel of
the stall port (R190, R192, R196). -/
def State.tokenOut (s : State) (g slot gen : Nat) (t : TokRec) (chan : Nat) : State :=
  let pkt (c : Nat) (core : Bool) : TokenPkt :=
    { name := BitVec.ofNat 12 t.name, core := core, stall := Fin.ofNat 2048 c, slot := Fin.ofNat 1024 slot
      gen := BitVec.ofNat 8 gen, producer := Fin.ofNat 2048 g }
  match t.ckind with
  | 3 => s.modStall t.cstall fun st => { st with out := st.out ++
      [{ chan := chan, kind := 1, last := false, poison := false, data := leBytes 64 t.name, seq := 0 }] }
  | 2 => { s with tokens := s.tokens ++ (s.job slot).stalls.map fun c => pkt c false }
  | k => { s with tokens := s.tokens ++ [pkt t.cstall (k == 1)] }

/-- A token that a queue or a control core of stall g produces, counted there; `chan` is the channel that carried the data
(R192, R194, R196). (DEDUCED, log entry 76). -/
def State.produce (s : State) (g slot gen name chan : Nat) : State :=
  let s := s.count .stlTokProd g
  match (s.job slot).token g name with
  | none => s
  | some t => s.tokenOut g slot gen t chan

/-- An instruction of stall g completes: it leaves the issued instructions and produces its token when PR_EN is set. -/
def State.complete (s : State) (g : Nat) (e : QEntry) (seq : Nat) (chan : Nat := 0) : State :=
  let s := s.modStall g fun st => { st with inflight := st.inflight.filter fun i => !(i.seq == seq) }
  if e.prEn then s.produce g e.slot e.gen e.prTok chan else s

/-- The issue number of an entry among the issued instructions. -/
def Stall.seqOf (st : Stall) (e : QEntry) : Nat :=
  match st.inflight.find? fun i => i.e == e with
  | some i => i.seq
  | none => 0

end Sys2Proof.Machine
end

