-- ==== Sys2Proof/Machine/CoreDecode.lean ====
section
/-! DEFINITION. Control core, what a bundle is (R119 to R136): slots, operations, operand and destination fields, what admission
refuses; which bundle issues next, and for what it waits (R146, R150, R151), which the stall watch reads (R202). -/

namespace Sys2Proof.Machine

/-- The operations of the ALU, address and move slots (R131, R134, R135). -/
inductive CoreOp
  | nop
  | add | sub | adds | subs | and | or | xor | shl | shr | sra | srar | min | max | slt | seq | movi | movh
  | mul | muls | mulq | mac | msu | macw | aclr | ashr | norm | nshl | expx | expe8
  | aadd | asub | aaddl | amul16 | aelm | acmplt
  | mov | ld | st | take
deriving DecidableEq, Repr

/-- The operation of an ALU opcode (R131); none is reserved. -/
def CoreOp.ofAlu : Nat → Option CoreOp
  | 0x00 => some .nop | 0x01 => some .add | 0x02 => some .sub | 0x03 => some .adds | 0x04 => some .subs | 0x05 => some .and
  | 0x06 => some .or | 0x07 => some .xor | 0x08 => some .shl | 0x09 => some .shr | 0x0A => some .sra | 0x0B => some .srar
  | 0x0C => some .min | 0x0D => some .max | 0x0E => some .slt | 0x0F => some .seq | 0x10 => some .movi | 0x11 => some .movh
  | 0x20 => some .mul | 0x21 => some .muls | 0x22 => some .mulq | 0x30 => some .mac | 0x31 => some .msu | 0x32 => some .macw
  | 0x33 => some .aclr | 0x34 => some .ashr | 0x35 => some .norm | 0x36 => some .nshl | 0x37 => some .expx
  | 0x38 => some .expe8
  | _ => none

/-- The operation of an address opcode (R134). -/
def CoreOp.ofAddr : Nat → Option CoreOp
  | 0x00 => some .nop | 0x01 => some .aadd | 0x02 => some .asub | 0x03 => some .aaddl | 0x04 => some .amul16
  | 0x05 => some .aelm | 0x06 => some .acmplt
  | _ => none

/-- The operation of a move opcode (R135). -/
def CoreOp.ofMove : Nat → Option CoreOp
  | 0x00 => some .nop | 0x01 => some .mov | 0x02 => some .ld | 0x03 => some .st | 0x04 => some .take
  | _ => none

/-- The control operations (R136). -/
inductive CtlOp
  | none | br | bz | bnz | bltz | loop | waitt | pub | trap | reti | halt
deriving DecidableEq, Repr

/-- The control operation of a CTRL value; 11 to 15 are reserved (R136). -/
def CtlOp.ofCode : Nat → Option CtlOp
  | 0 => some .none | 1 => some .br | 2 => some .bz | 3 => some .bnz | 4 => some .bltz | 5 => some .loop | 6 => some .waitt
  | 7 => some .pub | 8 => some .trap | 9 => some .reti | 10 => some .halt
  | _ => Option.none

/-- How many operand fields an operation reads (R123). -/
def CoreOp.reads : CoreOp → Nat
  | .nop | .movi | .movh => 0
  | .aclr | .norm | .nshl | .expx | .mov | .take => 1
  | _ => 2

/-- The latency of an operation in issue steps (R131, R134, R135). -/
def CoreOp.latency : CoreOp → Nat
  | .srar | .mac | .msu | .ashr | .norm | .nshl | .expe8 | .amul16 | .st => 2
  | .mul | .muls | .mulq | .macw => 3
  | .ld => 4
  | _ => 1

/-- Whether an operation accepts a destination class (R131, R134, R135): 0 g, 1 acc, 2 port, 3 none. (DEDUCED, log entry 42). -/
def CoreOp.accepts (o : CoreOp) (c : Nat) : Bool :=
  match o with
  | .st | .take => c == 3
  | .mac | .msu | .macw | .aclr => c == 1
  | .movh => c == 0
  | .mov => c == 0 || c == 1 || c == 2
  | _ => c == 0 || c == 2

/-- A slot of a bundle (R122); `op` is none for a reserved opcode. -/
structure Slot where
  op    : Option CoreOp
  dst   : Nat
  s1    : Nat
  s2    : Nat
  stage : Nat
deriving DecidableEq, Repr

/-- A bundle (R121). -/
structure Bundle where
  ctrl : Option CtlOp
  creg : Nat
  cimm : Nat
  slots : List Slot          -- ALU, address, move
deriving DecidableEq, Repr

/-- The fields of a slot's word (R122). -/
def Slot.of (ops : Nat → Option CoreOp) (w stage : Nat) : Slot :=
  { op := ops (bits w 31 24), dst := bits w 23 16, s1 := bits w 15 8, s2 := bits w 7 0, stage := stage }

/-- The fields of a bundle (R121). -/
def Bundle.of (w : Nat) : Bundle :=
  { ctrl := CtlOp.ofCode (bits w 127 124), creg := bits w 123 118, cimm := bits w 108 96
    slots := [Slot.of CoreOp.ofAlu (bits w 95 64) (bits w 117 115), Slot.of CoreOp.ofAddr (bits w 63 32) (bits w 114 112),
              Slot.of CoreOp.ofMove (bits w 31 0) (bits w 111 109)] }

/-- A destination field names nothing reserved (R124). -/
def dstOk (d : Nat) : Bool :=
  match d / 64 with
  | 0 => true
  | 1 => decide (d % 64 ≤ 3)
  | 2 => decide (d % 64 ≤ 27)
  | _ => d % 64 == 0

/-- An operand field names nothing reserved (R125). -/
def srcOk (f : Nat) : Bool := f / 64 != 2 || decide (f % 64 ≤ 45)

/-- A slot that admission accepts (R119, R122, R123). -/
def Slot.ok (x : Slot) : Bool :=
  match x.op with
  | none => false
  | some .nop => x.dst == 0 && x.s1 == 0 && x.s2 == 0
  | some o =>
    dstOk x.dst && o.accepts (x.dst / 64) &&
      (match o.reads with
       | 0 => true
       | 1 => srcOk x.s1 && x.s2 == 0
       | _ => srcOk x.s1 && srcOk x.s2)

/-- A bundle that admission accepts (R119). -/
def Bundle.ok (b : Bundle) : Bool :=
  (match b.ctrl with
   | none => false
   | some .loop => bits b.cimm 12 10 == 0
   | some _ => true) && b.slots.all Slot.ok

/-! ### Names -/

/-- The physical register of a g name: the shadow copies in the handler, and the rotating half under RRB (R126, R154). -/
def Core.phys (c : Core) (n : Nat) : Nat :=
  if n < 16 then (if c.handler then 64 + n else n)
  else if n < 32 then n
  else 32 + (n - 32 + c.rrb) % 32

/-- The loop that governs stage tags: the innermost active one with stages (R144). -/
def Core.stageLoop (c : Core) : Option Loop := c.loops.find? fun l => decide (1 ≤ l.s)

/-- Whether a slot with tag j takes effect (R144). -/
def Core.stageOn (c : Core) (j : Nat) : Bool :=
  match c.stageLoop with
  | none => true
  | some l => decide (j ≤ l.k) && decide (l.k - j < l.n)

/-- The slots of a bundle that take effect, numbered 1 ALU, 2 address, 3 move, with their operations. -/
def Core.active (c : Core) (b : Bundle) : List (Nat × CoreOp × Slot) :=
  ([1, 2, 3].zip b.slots).filterMap fun (i, x) =>
    match x.op with
    | some .nop | none => none
    | some o => if c.stageOn x.stage then some (i, o, x) else none

/-- An operand field that a bundle reads: its slot, which field of it, its class and index (R123). -/
structure Field where
  slot : Nat
  pos  : Nat
  cls  : Nat
  idx  : Nat
deriving DecidableEq, Repr

/-- The operand fields that a bundle reads, in priority order (R130). -/
def Core.fields (c : Core) (b : Bundle) : List Field :=
  (c.active b).flatMap fun (i, o, x) =>
    let f1 : Field := { slot := i, pos := 1, cls := x.s1 / 64, idx := x.s1 % 64 }
    let f2 : Field := { slot := i, pos := 2, cls := x.s2 / 64, idx := x.s2 % 64 }
    match o.reads with
    | 0 => []
    | 1 => [f1]
    | _ => [f1, f2]

/-- The index that a bus carries: the winner's (R130). -/
def busWinner (fs : List Field) (cls : Nat) : Option Nat := (fs.find? fun f => f.cls == cls).map Field.idx

/-- The fields that lose their bus (R130). -/
def busLosers (fs : List Field) : List Field :=
  fs.filter fun f => decide (f.cls < 3) && busWinner fs f.cls != some f.idx

/-! ### The next bundle -/

/-- The bundle word at an index of the image (R117). -/
def State.imageWord (s : State) (g pc : Nat) : Nat := ofLe (s.read (coreAddr g ((s.stall g).core.pbase + 16 * pc)) 16)

/-- The bundle word of the loop cache for the next bundle (R143): that of the innermost loop's body, once captured. -/
def Core.cached (c : Core) : Option Nat :=
  match c.loops.head? with
  | none => none
  | some l =>
    if c.tag = some l.first ∧ l.first ≤ c.pc ∧ c.pc < l.first + l.len then
      match Tab.get 0 c.cache (c.pc - l.first) with
      | 0 => none
      | w + 1 => some w
    else none

/-- The next bundle: from the loop cache, or fetched from core memory (R143). (DESIGN CHOICE, log entry 53). -/
def State.nextWord (s : State) (g : Nat) : Nat :=
  match (s.stall g).core.cached with
  | some w => w
  | none => s.imageWord g (s.stall g).core.pc

/-! ### Waits (R146, R149 to R151) -/

/-- Whether a control-core write goes to address port p. -/
def CWrite.pushes (w : CWrite) (p : Nat) : Bool := w.dest == .port (16 + p)

/-- Writes in flight of both contexts. -/
def Core.flight (c : Core) : List CWrite := c.main ++ c.hand

/-- Whether the bundle reads special source TALLY (R125, R150). -/
def Core.readsTally (c : Core) (b : Bundle) : Bool := busWinner (c.fields b) 2 == some 10

/-- Whether a port that the bundle pushes to lacks room for the pushes in flight and its own (R146). -/
def Core.portFull (c : Core) (b : Bundle) : Bool :=
  (List.range 8).any fun p =>
    let own := ((c.active b).filter fun x => x.2.2.dst == 128 + 16 + p).length
    own != 0 && decide (16 < (c.ports.getD p []).length + (c.flight.filter fun w => w.pushes p).length + own)

/-- Take-next requests outstanding: answers not yet read, requests on their way, and those whose write is in flight (R150). -/
def Core.takes (c : Core) : Nat := c.tally.length + (c.flight.filter fun w => w.dest == .take).length

/-- Whether the bundle's TAKE would be a fifth one outstanding; an answer that the same bundle reads frees its place (R150).
(DEDUCED, log entry 43). -/
def Core.takeFull (c : Core) (b : Bundle) : Bool :=
  ((c.active b).any fun x => x.2.1 == .take) && decide (4 < c.takes - b2n (c.readsTally b) + 1)

/-- The wait at the issue of a bundle, as CCO_STATUS.WAIT codes it: 2 token, 3 tally answer, 4 port full, 7 take limit, 0 none.
`slot` is the job slot that runs. -/
def Stall.bundleWait (st : Stall) (slot : Nat) (b : Bundle) : Nat :=
  let c := st.core
  if c.readsTally b && (match c.tally with | (_, none) :: _ => true | [] => c.takes != 0 | _ => false) then 3
  else if c.takeFull b then 7
  else if c.portFull b then 4
  else if b.ctrl == some .waitt && st.count slot true (bits b.cimm 11 0) == 0 then 2
  else 0

/-- For what the control core of stall g waits (R151). -/
def State.coreWait (s : State) (g : Nat) : Nat :=
  let st := s.stall g
  let c := st.core
  match st.run with
  | some (slot, _) =>
    if c.run && !c.halted && decide (c.pc < c.plen) then st.bundleWait slot (Bundle.of (s.nextWord g)) else 0
  | none => 0

/-- The control core has halted, or waits as R151 states. -/
def State.coreQuiet (s : State) (g : Nat) : Bool :=
  (s.stall g).core.halted || [2, 3, 4].contains (s.coreWait g)

/-- The stall watch after a step that touched stall g; `activity` marks one of the activities of R202. -/
def State.settle (s : State) (g : Nat) (activity : Bool := true) : State :=
  let quiet := s.coreQuiet g
  s.modStall g fun st => st.watchStep (s.local (g / 64)) activity quiet

end Sys2Proof.Machine
end

