-- ==== Sys2Proof/Machine/Arrays.lean ====
section
/-! DEFINITION. Stall matrix arrays (chapter "Stall matrix arrays", R91 to R116): the pass descriptor and its checks, weight
sets, the moving front, the accumulator and the epilogue, and the commands of a matrix pass. -/

namespace Sys2Proof.Machine

/-- The 32-bit word at byte i of a descriptor. -/
def word32 (bs : List Byte) (i : Nat) : Nat := ofLe ((bs.drop i).take 4)
/-- The byte at i of a descriptor. -/
def byteAt (bs : List Byte) (i : Nat) : Nat := ofLe ((bs.drop i).take 1)

/-- The fields of a pass descriptor from its 64 bytes (R95). -/
def PassDesc.of (bs : List Byte) : PassDesc :=
  let w := word32 bs
  let b := byteAt bs
  let conv := ofLe ((bs.drop 12).take 2)
  { k := w 0, n := b 4, m := [b 5, b 6, b 7, b 8], operand := b 9 % 16, storage := b 9 / 16
    abs := bit (b 10) 0, wbs := bit (b 10) 1, biasEn := bit (b 10) 2, wsup := bit (b 10) 3
    rsv := b 10 / 16 != 0 || b 11 != 0 || ofLe ((bs.drop 14).take 2) != 0
      || [28, 36, 44, 52, 56, 60].any (fun i => w i / 2 ^ 24 != 0)
    conv := conv, c := w 16, clipLo := w 20, clipHi := w 24
    wBase := w 28, wStride := w 32, aBase := w 36, aStride := w 40, oBase := w 44, oStride := w 48
    asBase := w 52, wsBase := w 56, bBase := w 60 }

/-- The operand format of a pass. -/
def PassDesc.fmt (d : PassDesc) : Fmt := (Fmt.ofCode d.operand).getD .e4m3
/-- The weight storage format. -/
def PassDesc.sfmt (d : PassDesc) : Fmt := (Fmt.ofCode d.storage).getD .e4m3
/-- The conversion control word. -/
def PassDesc.ccw (d : PassDesc) : CCW := CCW.of d.conv
/-- The epilogue target. -/
def PassDesc.target (d : PassDesc) : Fmt := (Fmt.ofCode d.ccw.target).getD .fp32
/-- An INT8 pass accumulates in INT32 (R74). -/
def PassDesc.isInt (d : PassDesc) : Bool := d.fmt == .int8
/-- Passes, ⌈K / 64⌉. -/
def PassDesc.passes (d : PassDesc) : Nat := ceilDiv d.k 64
/-- Blocks, ⌈K / 32⌉ (R96). -/
def PassDesc.blocks (d : PassDesc) : Nat := ceilDiv d.k 32

/-- Formats that an array takes as operands (R67). -/
def Fmt.arrayOperand : Fmt → Bool
  | .bf16 | .fp16 | .e4m3 | .e5m2 | .int8 => true
  | _ => false

/-- Formats that an epilogue writes (R67). -/
def Fmt.epilogueTarget : Fmt → Bool
  | .fp32 | .bf16 | .fp16 | .e4m3 | .e5m2 | .int8 | .int32 => true
  | _ => false

/-- The bytes an element row of n elements takes from its start. -/
def rowBytes (f : Fmt) (n : Nat) : Nat := if f.width = 4 then ceilDiv n 2 else n * (f.width / 8)

/-- The first byte after everything that R96 places for the used elements, scales, biases and outputs. (DEDUCED, log entry
247). -/
def PassDesc.span (d : PassDesc) : Nat :=
  let quiet := d.k = 0 ∧ d.wsup = true
  let rows : List Nat := ((List.range 4).zip d.m).filterMap fun (a, m) => if m = 0 then none else some (a * 64 + m - 1)
  let top := rows.foldl max 0
  let w := if d.k = 0 then 0 else d.wBase + (d.k - 1) * d.wStride + rowBytes d.sfmt d.n
  let a := if d.k = 0 then 0 else d.aBase + top * d.aStride + rowBytes d.fmt d.k
  let as := if d.abs ∧ d.k ≠ 0 then d.asBase + top * d.blocks + d.blocks else 0
  let ws := if d.wbs ∧ d.k ≠ 0 then d.wsBase + (d.blocks - 1) * 64 + d.n else 0
  let b := if d.biasEn ∧ ¬ quiet then d.bBase + 4 * d.n else 0
  let o := if quiet then 0 else d.oBase + top * d.oStride + rowBytes d.target d.n
  [w, a, as, ws, b, o].foldl max 0

/-- The checks of R97, in order, each with its number and status. (DEDUCED, log entries 58, 59, 99). -/
def PassDesc.checks (d : PassDesc) : List (Nat × Bool × Status) :=
  [ (1, d.rsv || d.ccw.rsv != 0 || decide (10 ≤ d.operand) || decide (10 ≤ d.storage) || decide (10 ≤ d.ccw.target),
      .formatReserved),
    (2, !(d.fmt.arrayOperand &&
          (d.storage == d.operand || (d.sfmt == .fp4 && d.fmt == .e4m3) || (d.sfmt == .int4 && d.fmt == .int8))),
      .formatMismatch),
    (3, d.isInt && (d.abs || d.wbs), .formatMismatch),
    (4, !d.target.epilogueTarget || (d.target == .int32 && !d.isInt), .formatMismatch),
    (5, decide (262145 ≤ d.k), .passShape),
    (6, d.n == 0 || decide (65 ≤ d.n), .passShape),
    (7, d.m.any (fun m => decide (65 ≤ m)) || d.m.all (· == 0), .passShape),
    (8, (match Fmt.fp32.value d.clipLo, Fmt.fp32.value d.clipHi with
         | .nan _, _ | _, .nan _ => true
         | lo, hi => hi.nlt lo), .passShape),
    (9, [d.wBase, d.wStride, d.aBase, d.aStride, d.oBase, d.oStride, d.asBase, d.wsBase, d.bBase].any (· % 4 != 0), .passShape),
    (10, decide (0xE00000 < d.span), .coreRange) ]

/-- The first check that fails, with its number and status. -/
def firstFail (l : List (Nat × Bool × Status)) : Option (Nat × Status) :=
  match l with
  | [] => none
  | (n, true, st) :: _ => some (n, st)
  | (_, false, _) :: t => firstFail t

/-! ### Weights and scales -/

/-- The weights of set p: rows 64p to 64p + 63, columns below N; a row at K or above is zeros and reads nothing (R69, R96,
R103). -/
def State.weightRows (s : State) (g : Nat) (d : PassDesc) (p : Nat) : List (List PVal) :=
  (List.range 64).map fun r =>
    let k := 64 * p + r
    (List.range d.n).map fun n =>
      if k < d.k then
        let e := s.coreElem g d.sfmt (d.wBase + k * d.wStride) n
        { e with v := (expand d.sfmt e.v).2 }
      else {}

/-- The weight scale bytes of block j, one for each column; 0x7F where the weights carry none (R71, R96). -/
def State.weightScales (s : State) (g : Nat) (d : PassDesc) (j : Nat) : List PVal :=
  (List.range d.n).map fun n =>
    if d.wbs ∧ j < d.blocks then s.coreVal g (d.wsBase + j * 64 + n) 1 else { v := 0x7F }

/-- Weight set p with its scales (R100). -/
def State.weightSet (s : State) (g : Nat) (d : PassDesc) (p : Nat) : WSet :=
  { rows := s.weightRows g d p, scale0 := s.weightScales g d (2 * p), scale1 := s.weightScales g d (2 * p + 1) }

/-! ### The front -/

/-- An element's value as an operand; a poisoned element counts as zero (R83). (DEDUCED, log entry 33). -/
def opVal (f : Fmt) (e : PVal) : Val := if e.p then .fin false 0 0 else f.value e.v

/-- A product joins a partial sum (R91, R92, R114). (DEDUCED, log entry 165; DESIGN CHOICE, log entries 1, 2). -/
def PSum.step (f : Fmt) (q : PSum) (a w : PVal) : PSum :=
  let (x, i) := (opVal f a).mul (opVal f w)
  let (t, j) := q.v.add x
  { v := t, p := q.p || a.p || w.p, inv := q.inv + b2n i + b2n j }

/-- The partial sums of an array after the activation rows pass array row r, which is reduction index k: every used element of
the column adds its product (R91). (DESIGN CHOICE, log entry 36). -/
def State.passRow (s : State) (g a : Nat) (d : PassDesc) (u : ArrayUnit) (k : Nat) (w : List PVal) : Tab PSum :=
  (List.range u.m).foldl (fun t m =>
    let act : PVal := if k < d.k then s.coreElem g d.fmt (d.aBase + (a * 64 + m) * d.aStride) k else {}
    (List.range d.n).foldl (fun t n =>
      Tab.upd {} t (m * 64 + n) fun q => q.step d.fmt act (w.getD n {})) t) u.sums

/-- The activation scale byte of row m of array a and block j (R96). -/
def State.actScale (s : State) (g a : Nat) (d : PassDesc) (m j : Nat) : PVal :=
  if d.abs ∧ j < d.blocks then s.coreVal g (d.asBase + (a * 64 + m) * d.blocks + j) 1 else { v := 0x7F }

/-- What a row group adds to an accumulator element: the sum rounded once, then scaled (R73); with the counts of R77 and R81.
NaN when a scale byte is 0xFF. (DEDUCED, log entry 245). -/
def groupValue (q : PSum) (ea ew : PVal) : Conv × Bool :=
  let r := toFp32 q.v
  let x := Fmt.fp32.value r.val
  let p := q.p || ea.p || ew.p
  if ea.v = 255 ∨ ew.v = 255 then ({ val := Fmt.nan .fp32, ovf := r.ovf, inv := r.inv + q.inv }, p)
  else
    let t := toFp32 (x.scale ((ea.v : Int) + (ew.v : Int) - 254))
    ({ val := t.val, ovf := r.ovf + t.ovf, inv := r.inv + q.inv }, p)

/-- The exit of a row group of a float pass (rows 31 and 63): every used element's group value is added to its accumulator, and
the sums start again at zero (R73, R92). A group wholly at or beyond K adds nothing (R103). -/
def State.groupExit (s : State) (g a : Nat) (d : PassDesc) (u : ArrayUnit) (j : Nat) (scale : List PVal) : State × ArrayUnit :=
  if d.k ≤ 32 * j then (s, { u with sums := [] })
  else
    let cells := (List.range u.m).flatMap fun m => (List.range d.n).map fun n => (m, n)
    let (s, acc) := cells.foldl (fun (s, acc) (m, n) =>
      let key := m * 64 + n
      let q : PSum := Tab.get {} u.sums key
      let (v, p) := groupValue q (s.actScale g a d m j) (scale.getD n { v := 0x7F })
      let old : PVal := Tab.get {} acc key
      let r := add32 (Fmt.fp32.value old.v) (Fmt.fp32.value v.val)
      let p := p || old.p
      let s := if p then s else s.numCount g a d.ccw.target (v.ovf + r.ovf) (v.inv + r.inv)
      (s, Tab.set {} acc key { v := if p then 0 else r.val, p := p })) (s, u.acc)
    (s, { u with sums := [], acc := acc })

/-- The exit of row 63 of an INT8 pass: the 64 products of each column are added to the accumulator, saturating (R74, R78). -/
def State.intExit (s : State) (g a : Nat) (d : PassDesc) (u : ArrayUnit) : State × ArrayUnit :=
  let cells := (List.range u.m).flatMap fun m => (List.range d.n).map fun n => (m, n)
  let (s, acc) := cells.foldl (fun (s, acc) (m, n) =>
    let key := m * 64 + n
    let q : PSum := Tab.get {} u.sums key
    let old : PVal := Tab.get {} acc key
    let r := convert .int32 false (q.v.add (Fmt.int32.value old.v)).1
    let p := q.p || old.p
    let s := if p then s else s.numCount g a d.ccw.target r.ovf r.inv
    (s, Tab.set {} acc key { v := if p then 0 else r.val, p := p })) (s, u.acc)
  (s, { u with sums := [], acc := acc })

/-- The front swaps the cells of array row r, and the scales of its row group at rows 31 and 63 (R93, R98). -/
def ArrayUnit.swap (u : ArrayUnit) (r : Nat) : ArrayUnit :=
  let u := match u.nxt.getD r none with
    | some w => { u with cur := u.cur.set r w, nxt := u.nxt.set r none }
    | none => u
  if r = 31 then { u with cur0 := u.nxt0.getD u.cur0, nxt0 := none }
  else if r = 63 then { u with cur1 := u.nxt1.getD u.cur1, nxt1 := none }
  else u

/-- NXT is empty in every row of an array (R100). -/
def ArrayUnit.nxtEmpty (u : ArrayUnit) : Bool := u.nxt.all Option.isNone

/-- A staged set written into the NXT registers of an array (R100). -/
def ArrayUnit.load (u : ArrayUnit) (w : WSet) : ArrayUnit :=
  { u with nxt := w.rows.map some, nxt0 := some w.scale0, nxt1 := some w.scale1 }

/-- The array has seen the front of the last pass leave. -/
def ArrayUnit.drained (u : ArrayUnit) (d : PassDesc) : Bool := u.m == 0 || u.pass == d.passes

/-- The state after the running instruction of stall g becomes r. -/
def State.setMRun (s : State) (g : Nat) (r : MRun) : State := s.modStall g fun st => { st with mrun := some r }

/-! ### The epilogue -/

/-- One output element of the epilogue: the element, the value folded into the running maximum, and the counts (R85, R106,
R109). (DEDUCED, log entries 29, 31). -/
def PassDesc.output (d : PassDesc) (acc bias : PVal) : Conv × Val :=
  if d.isInt && d.target == .int32 then ({ val := acc.v }, Fmt.fp32.value (toFp32 (Fmt.int32.value acc.v)).val)
  else
    let a : Val := if d.isInt then Fmt.fp32.value (toFp32 (Fmt.int32.value acc.v)).val else Fmt.fp32.value acc.v
    let c : Val := if d.ccw.scaleEn then Fmt.fp32.value d.c else .fin false 1 0
    let b : Val := if d.biasEn then Fmt.fp32.value bias.v else .fin false 0 0
    let t := fma32 a c b
    let x := Fmt.fp32.value t.val
    let lo := Fmt.fp32.value d.clipLo
    let hi := Fmt.fp32.value d.clipHi
    let x := match x with
      | .nan _ => x
      | _ => if x.nlt lo then lo else if hi.nlt x then hi else x
    let r := convert d.target d.ccw.ovfInf x
    ({ val := r.val, ovf := t.ovf + r.ovf, inv := t.inv + r.inv }, x)

/-- The epilogue takes the bias in: an INT8 pass to INT32 skips the step that adds it (R85). (DEDUCED, log entry 32). -/
def PassDesc.takesBias (d : PassDesc) : Bool := d.biasEn && !(d.isInt && d.target == .int32)

/-- One accumulator row of one array through the epilogue: converted, counted, folded, and written under the byte mask, poisoned
elements with their tag (R105, R109, R110, R114). -/
def State.epilogueRow (s : State) (g a : Nat) (r : MRun) (u : ArrayUnit) (m : Nat) : State :=
  let d := r.d
  let w := d.target.width / 8
  (List.range d.n).foldl (fun s n =>
    let acc : PVal := Tab.get {} u.acc (m * 64 + n)
    let bias : PVal := if d.takesBias then r.bias.getD n {} else {}
    let off := d.oBase + (a * 64 + m) * d.oStride + n * w
    if acc.p || bias.p then
      let s := s.setCore g off w 0 true
      let s := if bit (s.reg .stlArrCtl g) 0
        then s.raiseOnce .stlArrEvent g 1 0x111 g a (m * 256 + n) else s
      s.count .stlArrPoison g
    else
      let (o, t) := d.output acc bias
      let s := s.setCore g off w o.val false
      let s := s.numCount g a d.ccw.target o.ovf o.inv
      if d.ccw.amaxEn then s.setReg .stlAmaxArr g a (amaxFold (s.reg .stlAmaxArr g a) t) else s) s

/-! ### The commands -/

/-- A transfer of the stall is in flight between its core memory and a place outside it (R113). -/
def Stall.moving (st : Stall) : Bool := st.engines.any fun e => e.active.isSome

/-- MPASS (R97, R99, R112, R113): the descriptor is read and checked; a failing check faults the instruction; otherwise the
running maxima are cleared when the word asks for it, the bias is read, and the first weight set is written into CUR. (DESIGN
CHOICE, log entry 244). -/
def execMpass (g : StallId) (s : State) : Host.Outcome State Fault Refusal :=
  match s.headIs g .mpass with
  | none => .next s
  | some e =>
    if (s.stall g).mrun.isSome || (s.stall g).moving then .next s
    else
      let d := PassDesc.of (s.read (coreAddr g e.desc) 64)
      match firstFail d.checks with
      | some (n, st) =>
        let on : Nat := (List.range 4).foldl (fun x a => x + b2n (d.m.getD a 0 != 0) * 2 ^ a) 0
        let s := s.issue g e false
        let s := s.capture .stlArrEvent 0 .stlArrFault g (n * 2 ^ 36 + on * 2 ^ 32 + e.desc)
        let s := s.raise .stlArrEvent g 0 0x110 g n e.desc
        .next ((s.iqFault g e 1 e.desc 0 0 st).settle g)
      | none =>
        let s := s.issue g e true
        let idle := d.k = 0 ∧ d.wsup = true
        let s := if d.ccw.amaxClr ∧ ¬ idle then each (List.range 4) s fun s a => s.setReg .stlAmaxArr g a 0 else s
        let bias := if d.biasEn ∧ ¬ idle then (List.range d.n).map fun n => s.coreVal g (d.bBase + 4 * n) 4 else []
        let w := s.weightSet g d 0
        let unit (m : Nat) : ArrayUnit :=
          if m = 0 ∨ d.k = 0 then { m := m }
          else { m := m, cur := w.rows, nxt := List.replicate 64 none, cur0 := w.scale0, cur1 := w.scale1 }
        let s := s.setMRun g { e := e, off := e.desc, d := d, bias := bias, staging := none, next := 1, units := d.m.map unit }
        .next (s.settle g)

/-- WEIGHT_SET_READ (R100): when the staging buffer is empty, the next weight set is read into it. -/
def execWeightSetRead (g : StallId) (s : State) : Host.Outcome State Fault Refusal :=
  match (s.stall g).mrun with
  | none => .next s
  | some r =>
    if r.staging.isSome || decide (r.d.passes ≤ r.next) then .next s
    else .next (s.setMRun g { r with staging := some (s.weightSet g r.d r.next), next := r.next + 1 })

/-- STAGED_SET_MOVE (R100): the staged set moves into NXT of every active array once NXT is empty in all their rows. -/
def execStagedSetMove (g : StallId) (s : State) : Host.Outcome State Fault Refusal :=
  match (s.stall g).mrun with
  | none => .next s
  | some r =>
    match r.staging with
    | none => .next s
    | some w =>
      if r.units.all fun u => u.m == 0 || u.nxtEmpty then
        .next (s.setMRun g { r with staging := none, units := r.units.map fun u => if u.m = 0 then u else u.load w })
      else .next s

/-- The activation rows of array a meet the CUR weights of array row k, and the row groups leave at rows 31 and 63 (R91, R92,
R74). -/
def State.arrayRow (s : State) (g a : Nat) (d : PassDesc) (u : ArrayUnit) (k : Nat) : State × ArrayUnit :=
  let u := { u with sums := s.passRow g a d u (64 * u.pass + k) (u.cur.getD k []) }
  if k = 31 then (if d.isInt then (s, u) else s.groupExit g a d u (2 * u.pass) u.cur0)
  else if k = 63 then (if d.isInt then s.intExit g a d u else s.groupExit g a d u (2 * u.pass + 1) u.cur1)
  else (s, u)

/-- FRONT_SWAP (R98, R101): the front of array a passes row k. It waits, counting STL_ARR_WSTALL, where NXT does not hold the
set of a pass still to come; otherwise the pass's activation rows meet the row's CUR weights, unless the epilogue has let them run
ahead, and the row swaps. The pass is counted at row 63. (DESIGN CHOICE, log entry 34). -/
def execFrontSwap (g : StallId) (a : UnitId) (row : Fin 64) (s : State) : Host.Outcome State Fault Refusal :=
  match (s.stall g).mrun with
  | none => .next s
  | some r =>
    let u : ArrayUnit := r.units.getD a.val { m := 0 }
    let k := row.val
    if u.m = 0 ∨ r.d.passes ≤ u.pass ∨ u.front ≠ k then .next s
    else if u.pass + 1 < r.d.passes ∧ (u.nxt.getD k none).isNone = true then .next (s.count .stlArrWstall g)
    else
      let (s, u) := if u.ahead then (s, u) else s.arrayRow g a.val r.d u k
      let u := u.swap k
      let u := if k = 63 then { u with front := 0, pass := u.pass + 1 } else { u with front := k + 1 }
      let s := if k = 63 then s.count .stlArrPasses g else s
      .next (s.setMRun g { r with units := r.units.set a.val u })

/-- Every read of an array is done: it is idle or drained, or the front of its last pass, which the last activation row carries,
has entered it (R98, R107). -/
def ArrayUnit.readDone (u : ArrayUnit) (d : PassDesc) : Bool :=
  u.drained d || (u.pass + 1 == d.passes && u.front != 0)

/-- The activation rows of the last pass of array a run ahead of its front to the exit of row 63: their values do not depend on
when the front moves (R102). (DEDUCED, log entry 35). -/
def State.runAhead (s : State) (g a : Nat) (d : PassDesc) (u : ArrayUnit) : State × ArrayUnit :=
  if u.drained d || u.ahead then (s, u)
  else
    let (s, u) := (List.range' u.front (64 - u.front)).foldl (fun (s, u) k => s.arrayRow g a d u k) (s, u)
    (s, { u with ahead := true })

/-- The four arrays of the running instruction after what is left of their last pass has run ahead. -/
def State.unitsAhead (s : State) (g : Nat) (d : PassDesc) (us : List ArrayUnit) : State × List ArrayUnit :=
  ((List.range us.length).zip us).foldl (fun (s, l) (a, u) =>
    let (s, u) := s.runAhead g a d u
    (s, l ++ [u])) (s, [])

/-- EPILOGUE_ROW (R105, R107, R109, R112): the epilogue of array a takes accumulator row r once the last pass has added into it,
which activation row r has when the front that follows it has passed array row r, and once every read of the instruction is done;
rows at or past M write nothing. (DEDUCED, log entry 35). -/
def execEpilogueRow (g : StallId) (a : UnitId) (row : Fin 64) (s : State) : Host.Outcome State Fault Refusal :=
  match (s.stall g).mrun with
  | none => .next s
  | some r =>
    let u : ArrayUnit := r.units.getD a.val { m := 0 }
    if u.m = 0 ∨ u.epi ≠ row.val ∨ (r.d.k = 0 ∧ r.d.wsup = true) ∨ !(r.units.all fun x => x.readDone r.d) ∨
        (u.drained r.d = false ∧ u.front ≤ row.val) then .next s
    else
      let (s, us) := s.unitsAhead g r.d r.units
      let u : ArrayUnit := us.getD a.val { m := 0 }
      let s := if row.val < u.m then s.epilogueRow g a.val r u row.val else s
      let s := s.setMRun g { r with units := us.set a.val { u with epi := row.val + 1 } }
      .next (s.modStall g fun st => { st with drain := true })

/-- The data of WLOADs that waited for the pass is written whole (R186). -/
def State.releaseHeld (s : State) (g : Nat) : State :=
  each (List.range 64) s fun s i =>
    let o := g / 64 * 64 + i
    each (List.range 4) s fun s k =>
      match ((s.stall o).engines.getD k {}).active with
      | none => s
      | some t =>
        if t.hold.contains g then
          let s := t.held.foldl (fun s (b : NearByte) => s.writeByte (coreAddr g b.off) b.v b.p) s
          s.modStall o fun st =>
            let en : Engine := st.engines.getD k {}
            { st with engines := st.engines.set k { en with active := some { t with hold := t.hold.filter (· != g) } } }
        else s

/-- The array steps of an instruction (R112). -/
def PassDesc.steps (d : PassDesc) : Nat :=
  if d.k = 0 then (if d.wsup then 2 else 73)
  else (if d.fmt.width = 16 then 256 else 64) * d.passes + 82

/-- The array steps that a job's run has taken on a stall advance: firmware holds them against STEPS (R423, R424). -/
def State.useSteps (s : State) (g : Nat) (e : QEntry) (n : Nat) : State :=
  if (s.job e.slot).gen = e.gen then s.modJob e.slot fun j => { j with used := Tab.upd 0 j.used g (· + n) } else s

/-- MPASS_COMPLETE (R112): every active array has written its last row; the instruction completes and hands over its token
(R180), and held WLOAD data is written. -/
def execMpassComplete (g : StallId) (s : State) : Host.Outcome State Fault Refusal :=
  match (s.stall g).mrun with
  | none => .next s
  | some r =>
    if (r.d.k = 0 ∧ r.d.wsup = true) ∨ (r.units.all fun u => u.m == 0 || u.epi == 64) then
      let seq := (s.stall g).seqOf r.e
      let s := s.modStall g fun st => { st with mrun := none, drain := false }
      let s := s.useSteps g r.e r.d.steps
      let s := s.complete g r.e seq
      .next ((s.releaseHeld g).settle g)
    else .next s

end Sys2Proof.Machine
end

