-- ==== Sys2Proof/Machine/Translate.lean ====
section
/-! DEFINITION. Device virtual addressing (R251 to R255): the four-level walk, its outcomes, and the two caches. -/

namespace Sys2Proof.Machine

/-- How a translation ends (R254): a physical address, a fault with its kind and the level at which the walk ended, or a table read
that waits for the CXL link (R388). -/
inductive Trans
  | ok (host : Bool) (pa : Nat)
  | fault (kind level : Nat)
  | wait
deriving DecidableEq, Repr

/-- The bits of a virtual address below the page of a level: 39, 30, 21 and 12 (R252). -/
def levelShift : Nat → Nat
  | 0 => 39 | 1 => 30 | 2 => 21 | _ => 12

/-- The index of a virtual address at a level (R252). -/
def levelIndex (va l : Nat) : Nat := va / 2 ^ levelShift l % 512

/-- An entry breaks the form of R253: a reserved bit, LEAF where its level forbids it or absent where it must stand, or a large
leaf whose PA has bits below its page size. -/
def badEntry (l e : Nat) : Bool :=
  bits e 63 52 != 0 || bits e 11 5 != 0 ||
  (bit e 3 && l == 0) || (!bit e 3 && l == 3) ||
  (bit e 3 && (l == 1 || l == 2) && bits e 51 12 * 4096 % 2 ^ levelShift l != 0)

/-- A walk may read a table there: existing device memory outside system memory and the register range (R254). -/
def Place.readable : Place → Bool
  | .hbm _ _ | .core _ _ | .block _ _ => true
  | _ => false

/-- A table entry read by a walk at level l. A table in a place that may not be read is a protection fault (R254); a read that
returns poison, goes to a fenced bay or fails without the CXL link is a SOURCE_POISON that no walk ended (R256, R353, R388).
(DEDUCED, log entry 89). -/
def State.tableEntry (s : State) (host : Bool) (table i l : Nat) : Except Trans Nat :=
  let a := table + i * 8
  if host then
    if s.hostUp then
      if (readTags s.hostTag a 8).any id then .error (.fault 3 0xFF) else .ok (ofLe (s.hread a 8))
    else .error (if s.hostWait then .wait else .fault 3 0xFF)
  else if !(placeOf a).readable then .error (.fault 2 l)
  else if s.isFenced (placeOf a).bay || s.poisoned a 8 then .error (.fault 3 0xFF)
  else .ok (ofLe (s.read a 8))

/-- The leaf's page, checked against the access (R254). -/
def leafResult (l e va : Nat) (acc : Access) : Trans :=
  let ok := match acc with
    | .load => bit e 1
    | .store => bit e 2
  if !ok then .fault 2 l
  else
    let pa := bits e 51 12 * 4096 + va % 2 ^ levelShift l
    if bit e 4 then .ok true pa
    else if (placeOf pa).readable then .ok false pa
    else .fault 2 l

/-- The entries of R255 for one queue: the cached entry of a level for a virtual address. -/
def tlbFind (t : List TlbEntry) (q l va : Nat) : Option Nat :=
  (t.find? fun x => x.queue == q && x.level == l && x.vpn == va / 2 ^ levelShift l).map TlbEntry.entry

/-- A cache of n entries after one more, the oldest dropped when it is full. (DESIGN CHOICE, log entry 97). -/
def tlbAdd (n : Nat) (t : List TlbEntry) (x : TlbEntry) : List TlbEntry :=
  if t.contains x then t else
  let t := t ++ [x]
  if n < t.length then t.drop 1 else t

/-- A walk from level l down to level 3, with the entries it read: a cached entry stands for a read (R252 to R255). -/
def State.walkFrom (s : State) (bay : List TlbEntry) (q va : Nat) (acc : Access) :
    Nat → Nat → Bool → Nat → List TlbEntry → Trans × List TlbEntry
  | 0, l, _, _, seen => (.fault 2 l, seen)
  | fuel + 1, l, host, table, seen =>
    let e? : Except Trans Nat := match tlbFind bay q l va with
      | some e => .ok e
      | none => s.tableEntry host table (levelIndex va l) l
    match e? with
    | .error r => (r, seen)
    | .ok e =>
      if !bit e 0 then (.fault 1 l, seen)
      else if badEntry l e then (.fault 2 l, seen)
      else
        let x : TlbEntry := { queue := q, level := l, vpn := va / 2 ^ levelShift l, entry := e }
        if bit e 3 then (leafResult l e va acc, seen ++ [x])
        else State.walkFrom s bay q va acc fuel (l + 1) (bit e 4) (bits e 51 12 * 4096) (seen ++ [x])

/-- How many of the reads of a walk go to tables in host memory. -/
def State.hostReads (s : State) (bay : List TlbEntry) (q va : Nat) : Nat → Nat → Bool → Nat → Nat
  | 0, _, _, _ => 0
  | fuel + 1, l, host, table =>
    let hit := tlbFind bay q l va
    let n := b2n (hit.isNone && host && s.hostUp)
    let e? : Except Trans Nat := match hit with
      | some e => .ok e
      | none => s.tableEntry host table (levelIndex va l) l
    match e? with
    | .error _ => n
    | .ok e =>
      if !bit e 0 || badEntry l e || bit e 3 then n
      else n + State.hostReads s bay q va fuel (l + 1) (bit e 4) (bits e 51 12 * 4096)

/-- A whole walk through the root of feed queue q (R251). -/
def State.walk (s : State) (bay : List TlbEntry) (q va : Nat) (acc : Access) : Trans × List TlbEntry :=
  let f : FeedQueue := Tab.get {} s.queues q
  State.walkFrom s bay q va acc 4 0 f.rootHost f.root []

/-- The leaf that a cache holds for a virtual address, at level 3, 2 or 1. -/
def tlbLeaf (t : List TlbEntry) (q va : Nat) : Option (Nat × Nat) :=
  let try1 (l : Nat) : Option (Nat × Nat) := (tlbFind t q l va).bind fun e => if bit e 3 then some (l, e) else none
  (try1 3).orElse fun _ => (try1 2).orElse fun _ => try1 1

/-- The translation of one line for stall g (R252 to R255): the stall's cache, then the bay's cache, then a walk; each miss and
each walk is counted, and a fault is never cached. -/
def State.translate (s : State) (g q va : Nat) (acc : Access) : State × Trans :=
  match tlbLeaf (s.stall g).tlb q va with
  | some (l, e) => (s, leafResult l e va acc)
  | none =>
    let s := s.count .strTlbMiss g
    let bay := Tab.get [] s.bayTlb (g / 64)
    match tlbLeaf bay q va with
    | some (l, e) =>
      let x : TlbEntry := { queue := q, level := l, vpn := va / 2 ^ levelShift l, entry := e }
      (s.modStall g fun st => { st with tlb := tlbAdd 64 st.tlb x }, leafResult l e va acc)
    | none =>
      let s := s.count .strWalks g
      let f : FeedQueue := Tab.get {} s.queues q
      let s := s.cacheLines false (s.hostReads bay q va 4 0 f.rootHost f.root)
      let (r, seen) := s.walk bay q va acc
      match r with
      | .fault k l => (s, .fault k l)
      | .wait => (s, .wait)
      | .ok h pa =>
        let s := { s with bayTlb := Tab.set [] s.bayTlb (g / 64) (seen.foldl (tlbAdd 1024) bay) }
        (s.modStall g fun st => { st with tlb := seen.foldl (tlbAdd 64) st.tlb }, .ok h pa)

/-- Every cached entry of a queue whose page meets the range is dropped from every cache (R255); a length of 0 names the whole
queue. -/
def tlbInval (q va len : Nat) (t : List TlbEntry) : List TlbEntry :=
  t.filter fun x => !(x.queue == q && (len == 0 ||
    (decide (x.vpn * 2 ^ levelShift x.level < va + len) && decide (va < (x.vpn + 1) * 2 ^ levelShift x.level))))

/-- The translation-invalidate of R255 in every stall and bay. -/
def State.invalidate (s : State) (q va len : Nat) : State :=
  let s := each (s.stalls.map Prod.fst) s fun s g => s.modStall g fun st => { st with tlb := tlbInval q va len st.tlb }
  each (List.range 32) s fun s b =>
    { s with bayTlb := Tab.upd [] s.bayTlb b (tlbInval q va len) }

/-- WALK (R252 to R255): one translation by stall g through the root of queue q. (DESIGN CHOICE, log entry 98). -/
def execWalk (g : StallId) (q : QueueId) (dva : BitVec 48) (acc : Access) (s : State) : Host.Outcome State Fault Refusal :=
  if !s.stallUp g then .next s
  else .next (s.translate g q dva.toNat acc).1

end Sys2Proof.Machine
end

