-- ==== Sys2Proof/Machine/Streams.lean ====
section
/-! DEFINITION. Stream engines (R238 to R250, R256 to R262): descriptors and their checks, the walk, conversion on the path, the
moves of loads, stores and exchanges, faults in mid-stream, and descriptor slots. -/

namespace Sys2Proof.Machine

/-! ### The descriptor (R238) -/

/-- The fields of a stream descriptor from its 64 bytes. -/
def StreamDesc.of (bs : List Byte) : StreamDesc :=
  let w := word32 bs
  let b := byteAt bs
  let far := ofLe ((bs.drop 8).take 8)
  { fmt := b 0 % 16, dims := b 1 % 8, conv := ofLe ((bs.drop 2).take 2), c := w 4, far := bits far 47 0
    near := bits (w 16) 23 0, rate := ofLe ((bs.drop 20).take 2)
    dim := [w 24, w 28, w 32, w 36, w 40]
    stride := [toSigned 32 (w 44), toSigned 32 (w 48), toSigned 32 (w 52), toSigned 32 (w 56)]
    npitch := bits (w 60) 23 0
    rsv := b 0 / 16 != 0 || b 1 / 8 != 0 || bits far 63 48 != 0 || w 16 / 2 ^ 24 != 0 || w 60 / 2 ^ 24 != 0
      || ofLe ((bs.drop 22).take 2) != 0 }

def StreamDesc.ccw (d : StreamDesc) : CCW := CCW.of d.conv
/-- The format of the source side. -/
def StreamDesc.sfmt (d : StreamDesc) : Fmt := (Fmt.ofCode d.fmt).getD .int8
/-- The format of the destination side. -/
def StreamDesc.tfmt (d : StreamDesc) : Fmt := (Fmt.ofCode d.ccw.target).getD .int8
/-- COUNT of dimension i (R240). -/
def StreamDesc.count (d : StreamDesc) (i : Nat) : Nat := bits (d.dim.getD i 0) 15 0 + 1
/-- CUT of dimension i. -/
def StreamDesc.cut (d : StreamDesc) (i : Nat) : Nat := bits (d.dim.getD i 0) 31 16
/-- In-bound indices of dimension i: those below COUNT − CUT (R241). -/
def StreamDesc.used (d : StreamDesc) (i : Nat) : Nat := d.count i - d.cut i
/-- The far stride of dimension i. -/
def StreamDesc.fstride (d : StreamDesc) (i : Nat) : Int := if i = 0 then 0 else d.stride.getD (i - 1) 0

/-- The operations that move data: opcodes of R180. -/
def opSld : Nat := 0x20
def opSst : Nat := 0x21
def opWload : Nat := 0x11
def opFxch : Nat := 0x60

/-- Whether an operation moves data toward core memory. -/
def loads (opc dir : Nat) : Bool := opc == opSld || opc == opWload || (opc == opFxch && dir == 1)

/-- The formats of the far side, or of the channel, and of the near side (R239). -/
def StreamDesc.farFmt (d : StreamDesc) (opc dir : Nat) : Fmt := if loads opc dir then d.sfmt else d.tfmt
def StreamDesc.nearFmt (d : StreamDesc) (opc dir : Nat) : Fmt := if loads opc dir then d.tfmt else d.sfmt

/-- The near row of (i1, i2, i3, i4) (R240). -/
def StreamDesc.row (d : StreamDesc) (i1 i2 i3 i4 : Nat) : Nat := i1 + d.count 1 * (i2 + d.count 2 * (i3 + d.count 3 * i4))

/-- The far byte of the first element of row (i1, i2, i3, i4) (R240). -/
def StreamDesc.farRow (d : StreamDesc) (i1 i2 i3 i4 : Nat) : Int :=
  (d.far : Int) + i1 * d.fstride 1 + i2 * d.fstride 2 + i3 * d.fstride 3 + i4 * d.fstride 4

/-- The lowest and highest far row start over the in-bound indices. -/
def StreamDesc.farEnds (d : StreamDesc) : Int × Int :=
  [1, 2, 3, 4].foldl (fun (lo, hi) i =>
    let x := ((d.used i : Int) - 1) * d.fstride i
    (lo + min 0 x, hi + max 0 x)) ((d.far : Int), (d.far : Int))

/-- The checks of R242, in order. -/
def StreamDesc.checks (d : StreamDesc) (opc dir : Nat) (portEn : Bool) : List (Nat × Bool × Status) :=
  let ff := d.farFmt opc dir
  let nf := d.nearFmt opc dir
  let fx := opc == opFxch
  let wf := if ff.width = 4 then 1 else ff.width / 8
  let wn := if nf.width = 4 then 1 else nf.width / 8
  let total := d.used 0 * d.used 1 * d.used 2 * d.used 3 * d.used 4
  let nearEnd := d.near + d.row (d.used 1 - 1) (d.used 2 - 1) (d.used 3 - 1) (d.used 4 - 1) * d.npitch + rowBytes nf (d.used 0)
  let (lo, hi) := d.farEnds
  let allZero := d.dim.all (· == 0) && d.stride.all (· == 0) && d.far == 0
  [ (1, d.rsv || d.ccw.rsv != 0 || decide (10 ≤ d.fmt) || decide (10 ≤ d.ccw.target), .formatReserved),
    (2, d.sfmt == .e8m0 || d.tfmt == .e8m0, .formatMismatch),
    (3, d.dims == 0 || decide (6 ≤ d.dims)
        || (List.range 5).any (fun i => decide (d.dims ≤ i) && (d.dim.getD i 0 != 0 || d.fstride i != 0))
        || (List.range 5).any (fun i => decide (d.count i ≤ d.cut i))
        || decide (2 ^ 35 < total * ff.width) || decide (2 ^ 35 < total * nf.width), .streamShape),
    (4, (fx && (d.far != 0 || d.stride.any (· != 0) || d.rate != 0))
        || (portEn && (d.dims != 1 || !allZero)) || (portEn && fx && (d.near != 0 || d.npitch != 0)), .streamShape),
    (5, (!fx && (d.far % wf != 0 || d.stride.any (fun x => x % (wf : Int) != 0)))
        || d.near % wn != 0 || d.npitch % wn != 0
        || (decide (2 ≤ d.dims) && decide (d.npitch < rowBytes nf (d.count 0))), .streamShape),
    (6, !portEn && decide (0xE00000 < nearEnd), .coreRange),
    (7, !fx && !portEn && (decide (lo < 0) || decide ((2 ^ 48 : Int) < hi + rowBytes ff (d.used 0))), .streamRange) ]

/-! ### Conversion on the path (R243) -/

/-- One in-bound element through engine k's converter: bit for bit when the formats agree and nothing scales; a poisoned element
becomes zero and keeps its tag (R83), and counts where the engine delivers it (R256). (DEDUCED, log entry 88). -/
def State.convertElem (s : State) (g k : Nat) (d : StreamDesc) (deliver : Bool) (e : PVal) : State × PVal :=
  if e.p then (if deliver then s.count .strPoison g else s, { v := 0, p := true })
  else
    let (x, i) := (d.sfmt.value e.v).coarse d.ccw.scaleEn d.c
    let same := d.sfmt == d.tfmt && !d.ccw.scaleEn
    let r : Conv := if same then { val := e.v } else convert d.tfmt d.ccw.ovfInf x
    let s := if same then s else s.numCount g (4 + k) d.ccw.target r.ovf (r.inv + b2n i)
    let s := if d.ccw.amaxEn then s.setReg .stlAmaxStr g k (amaxFold (s.reg .stlAmaxStr g k) x) else s
    (s, { v := r.val, p := false })

/-- A list of elements through the converter. -/
def State.convertAll (s : State) (g k : Nat) (d : StreamDesc) (deliver : Bool) (l : List PVal) : State × List PVal :=
  l.foldl (fun (s, out) e => let (s, x) := s.convertElem g k d deliver e; (s, out ++ [x])) (s, [])

/-- Elements of a format from bytes with their tags. -/
def unpack (f : Fmt) (n : Nat) (bs : List (Byte × Bool)) : List PVal :=
  (List.range n).map fun j =>
    if f.width = 4 then
      let b := bs.getD (j / 2) (0, false)
      { v := if j % 2 = 0 then b.1.toNat % 16 else b.1.toNat / 16, p := b.2 }
    else
      let w := f.width / 8
      let l := (bs.drop (j * w)).take w
      { v := ofLe (l.map Prod.fst), p := l.any Prod.snd }

/-- Two 4-bit elements share a byte; a missing high one is zero (R64). -/
def packNibbles : List PVal → List (Byte × Bool)
  | [] => []
  | [a] => [(BitVec.ofNat 8 (a.v % 16), a.p)]
  | a :: b :: t => (BitVec.ofNat 8 (a.v % 16 + 16 * (b.v % 16)), a.p || b.p) :: packNibbles t

/-- Bytes with their tags from elements of a format. -/
def pack (f : Fmt) (l : List PVal) : List (Byte × Bool) :=
  if f.width = 4 then packNibbles l
  else l.flatMap fun e => (leBytes (f.width / 8) e.v).map fun b => (b, e.p)

/-! ### Lines -/

/-- What one far line gives: bytes with their tags (`src`: from a place whose poison is a SOURCE_POISON), a fault with its kind and level, or a request that waits for the CXL link
(R388). -/
inductive Line
  | data (bs : List (Byte × Bool)) (src : Bool)
  | fault (kind level : Nat)
  | blocked
deriving DecidableEq, Repr

/-- The run reaches the stack of a fenced bay (R421). -/
def State.bayLost (s : State) (t : Transfer) (g : Nat) (p : Place) : State :=
  match p, t.e with
  | .hbm _ _, some e => s.addReason e.slot e.gen { status := .bayLost, stall := g, idx := e.idx }
  | _, _ => s

/-- A read of n bytes of one far line at a virtual address, with sym bad symbols where it stands in a stack (R251, R256, R280, R388). A stack
that changes its frequency takes no request (R276). (DEDUCED, log entry 90). -/
def State.lineRead (s : State) (g : Nat) (t : Transfer) (va n : Nat) (sym : Nat := 0) : State × Line :=
  if 2 ^ 48 ≤ va then (s, .fault 2 0xFF)
  else
    let (s, r) := s.translate g t.queue va .load
    match r with
    | .fault k l => (s, .fault k l)
    | .wait => (s, .blocked)
    | .ok true pa =>
      if s.hostUp then
        let tags := readTags s.hostTag pa n
        let s := s.cacheLines false
        (if tags.any id then s.rasCorrectable 4 else s, .data ((s.hread pa n).zip tags) true)
      else if s.hostWait then (s, .blocked)
      else (s, .fault 3 0xFF)
    | .ok false pa =>
      if s.isFenced (placeOf pa).bay then (s.bayLost t g (placeOf pa), .fault 3 0xFF)
      else match placeOf pa with
        | .hbm b off =>
          if (s.hbm b).phase != 0 then (s, .blocked)
          else
            let (s, ue) := s.hbmCheck b (hbmPc off) (hbmL off / 64) (s.poisoned (pa - pa % 64) 64) sym false
            (s, .data (if ue then List.replicate n (0, true) else (s.read pa n).zip (readTags s.memTag pa n)) true)
        | .block b off => (s.serveB b (off / 16384), .data ((s.read pa n).zip (readTags s.memTag pa n)) false)
        | _ => (s, .data ((s.read pa n).zip (readTags s.memTag pa n)) false)

/-- Bytes written into a line of a stack: a line with a poisoned byte is written poisoned whole, and a partial write of a
poisoned line leaves it poisoned (R257, R279). -/
def State.hbmWrite (s : State) (pa : Nat) (bs : List (Byte × Bool)) : State :=
  let line := pa - pa % 64
  let whole := bs.length = 64 ∧ pa % 64 = 0
  let bad := bs.any Prod.snd || (!decide whole && s.poisoned line 64)
  let s := s.write pa (bs.map fun b => if b.2 then 0 else b.1) false
  { s with memTag := writeTags s.memTag line bad 64 }

/-- Bytes written into a line of the stack of bay b by a stream: a partial line is read first, and an uncorrectable read poisons the bytes
that the write does not bring (R268, R280). -/
def State.hbmStore (s : State) (b off pa : Nat) (bs : List (Byte × Bool)) (sym : Nat) : State :=
  if bs.length = 64 ∧ pa % 64 = 0 then s.hbmWrite pa bs
  else
    let line := pa - pa % 64
    let (s, ue) := s.hbmCheck b (hbmPc off) (hbmL off / 64) (s.poisoned line 64) sym true
    (if ue then s.write line (List.replicate 64 0) true else s).hbmWrite pa bs

/-- Bytes with their tags stored one by one. -/
def State.writeTagged (s : State) (a : Nat) : List (Byte × Bool) → State
  | [] => s
  | b :: t => (s.writeByte a b.1 b.2).writeTagged (a + 1) t

/-- The block memories in QUEUE mode, which do not take stores (R296): bit 0 of what the frames set at the block. -/
def State.blockIsQueue (s : State) (b off : Nat) : Bool :=
  let j := off / 16384
  bit (Tab.get 0 (Tab.get ({} : Pad) s.cfg.pads (b * 8 + j / 448)).sites (j % 448)) 0

/-- Bytes written into a line of host memory: with a poisoned byte the line carries the CXL poison whole (R257). -/
def State.hostWrite (s : State) (pa : Nat) (bs : List (Byte × Bool)) : State :=
  let s := (s.cacheLines true).hwrite pa (bs.map Prod.fst)
  if bs.any Prod.snd then { s with hostTag := writeTags s.hostTag (pa - pa % 64) true 64 } else s

/-- A write of some bytes of one far line; none when it was carried out (R254, R257, R353). -/
def State.lineWrite (s : State) (g : Nat) (t : Transfer) (va : Nat) (bs : List (Byte × Bool)) (sym : Nat := 0) :
    State × Option Line :=
  if 2 ^ 48 ≤ va then (s, some (.fault 2 0xFF))
  else
    let (s, r) := s.translate g t.queue va .store
    match r with
    | .fault k l => (s, some (.fault k l))
    | .wait => (s, some .blocked)
    | .ok true pa =>
      if s.hostUp then (s.hostWrite pa bs, none)
      else if s.hostWait then (s, some .blocked)
      else (s, some (.fault 2 0xFF))
    | .ok false pa =>
      let p := placeOf pa
      if s.isFenced p.bay then (s.bayLost t g p, none)
      else match p with
        | .hbm b off => if (s.hbm b).phase != 0 then (s, some .blocked) else (s.hbmStore b off pa bs sym, none)
        | .block b off =>
          let s := s.serveB b (off / 16384)
          if s.blockIsQueue b off then (s.fabQerr b (off / 16384) 3, none) else (s.writeTagged pa bs, none)
        | _ => (s.writeTagged pa bs, none)

/-! ### Faults in mid-stream (R256 to R258) -/

/-- A fault of a transfer: counted once for its page or element, recorded for the first 16, captured and raised (R258, R262).
(DEDUCED, log entry 95). -/
def State.strFault (s : State) (g k : Nat) (t : Transfer) (kind level key : Nat) (coord : List Nat) (dva : Nat) :
    State × Transfer :=
  if t.pages.contains key then (s, t)
  else
    let (slot, gen, idx) := match t.e with
      | some e => (e.slot, e.gen, e.idx)
      | none => (0x3FF, 0, 0xFFFF)
    let r : FaultRec := { kind := kind, engine := k, opc := t.opc, slot := slot, gen := gen, stall := g, idx := idx,
                          level := level, coord := coord, dva := dva % 2 ^ 48 }
    let s := s.count .strFaults g
    let s := if t.pages.length < 16 then { s with faultQ := s.faultQ ++ [r] } else s
    let c (i : Nat) : Nat := coord.getD i 0 % 65536
    let s := s.capture .strEvent 0 .strFaultCoord g (c 3 * 2 ^ 48 + c 2 * 2 ^ 32 + c 1 * 2 ^ 16 + c 0)
    let s := s.capture .strEvent 0 .strFaultDva g (c 4 * 2 ^ 48 + dva % 2 ^ 48)
    let s := s.capture .strEvent 0 .strFaultInfo g
      (kind * 2 ^ 60 + k * 2 ^ 58 + (if level = 0xFF then 0 else level) * 2 ^ 56 + gen * 2 ^ 48 + slot * 2 ^ 38
        + (if level = 0xFF then 1 else 0) * 2 ^ 32 + idx * 2 ^ 16 + t.opc * 2 ^ 8)
    let s := s.raiseOnce .strEvent g 0 0x150 g (idx * 2 ^ 16 + slot) (if kind = 4 then 0 else bits dva 47 16)
    let s := match t.e with
      | some e => if (s.job e.slot).gen = e.gen then s.modJob e.slot fun j => { j with faults := j.faults ++ [kind] } else s
      | none => s
    (s, { t with pages := t.pages ++ [key] })

/-- The pieces of a span of n bytes from address a, cut at 64-byte lines: address and length. (DEDUCED, log entry 87). -/
def linesOf : Nat → Nat → Nat → List (Nat × Nat)
  | 0, _, _ => []
  | fuel + 1, a, n =>
    if n = 0 then []
    else
      let k := min n (64 - a % 64)
      (a, k) :: linesOf fuel (a + k) (n - k)

/-- What a transfer carries along while it moves: the state, itself, and whether it met a request that waits. -/
structure Mv where
  s : State
  t : Transfer
  blocked : Bool := false
  errs : List Nat := []      -- the bad symbols of the next far lines

/-- The coordinates of a fault: walk indices, or element and line in port mode (R258). -/
def coordOf (t : Transfer) (ix : List Nat) (off wf line : Nat) : List Nat :=
  if t.portEn then [ix.getD 0 0, line, 0, 0, 0]
  else (off * 8 / (if wf = 0 then 1 else wf)) :: ix

/-- A span of far bytes read for one row, line by line: a faulting line gives poisoned zeros and its record (R256). -/
def Mv.load (m : Mv) (g k : Nat) (va n wfBits : Nat) (ix : List Nat) : Mv × List (Byte × Bool) :=
  (linesOf (n / 64 + 2) va n).foldl (fun (m, out) (a, len) =>
    if m.blocked then (m, out)
    else
      let (s, r) := m.s.lineRead g m.t a len (m.errs.headD 0)
      let m := { m with errs := m.errs.drop 1 }
      let key := if m.t.portEn then ix.getD 0 0 else a / 4096
      let coord := coordOf m.t ix (a - va) wfBits ((a - va) / 64)
      match r with
      | .blocked => ({ m with blocked := true }, out)
      | .fault kind level =>
        let (s, t) := s.strFault g k m.t kind level key coord a
        ({ m with s := s, t := { t with lines := t.lines + 1 } }, out ++ List.replicate len (0, true))
      | .data bs src =>
        let t := { m.t with lines := m.t.lines + 1 }
        if bs.any Prod.snd && src then
          let j := (bs.takeWhile fun b => !b.2).length
          let (s, t) := s.strFault g k t 3 0xFF key (coordOf m.t ix (a + j - va) wfBits ((a - va) / 64)) (a + j)
          ({ m with s := s, t := t }, out ++ bs.map fun b => if b.2 then (0, true) else b)
        else ({ m with s := s, t := t }, out ++ bs)) (m, [])

/-- A span of far bytes written for one row, line by line (R256, R257). -/
def Mv.store (m : Mv) (g k : Nat) (va : Nat) (bs : List (Byte × Bool)) (wfBits : Nat) (ix : List Nat) : Mv :=
  (linesOf (bs.length / 64 + 2) va bs.length).foldl (fun m (a, len) =>
    if m.blocked then m
    else
      let (s, r) := m.s.lineWrite g m.t a ((bs.drop (a - va)).take len) (m.errs.headD 0)
      let m := { m with errs := m.errs.drop 1 }
      let key := if m.t.portEn then ix.getD 0 0 else a / 4096
      let coord := coordOf m.t ix (a - va) wfBits ((a - va) / 64)
      match r with
      | none => { m with s := s, t := { m.t with lines := m.t.lines + 1 } }
      | some (.fault kind level) =>
        let (s, t) := s.strFault g k m.t kind level key coord a
        { m with s := s, t := { t with lines := t.lines + 1 } }
      | some _ => { m with blocked := true }) m

/-! ### Near rows -/

/-- Bytes with their tags written into core memory of the stall, or, for a WLOAD, into every stall of MASK: a stall whose MPASS
runs takes them when the pass completes (R186). Bytes past core memory are not written. -/
def Mv.near (m : Mv) (g off : Nat) (bs : List (Byte × Bool)) : Mv :=
  let bs := bs.take (0xE00000 - off)
  if m.t.opc = opWload then
    let targets := (List.range 64).filter fun i => bit m.t.mask i
    let base := g / 64 * 64
    let busy := targets.filter fun i => (m.s.stall (base + i)).mrun.isSome
    let s := each (targets.filter fun i => !busy.contains i) m.s fun s i => s.writeTagged (coreAddr (base + i) off) bs
    let hold := m.t.hold ++ (busy.map (base + ·)).filter fun x => !m.t.hold.contains x
    let held := if busy.isEmpty then m.t.held
      else m.t.held ++ (List.range bs.length).map fun j => { off := off + j, v := (bs.getD j (0, false)).1, p := (bs.getD j (0, false)).2 }
    { m with s := s, t := { m.t with hold := hold, held := held } }
  else { m with s := m.s.writeTagged (coreAddr g off) bs }

/-- n elements of a near row. -/
def State.nearElems (s : State) (g : Nat) (f : Fmt) (off n : Nat) : List PVal :=
  (List.range n).map fun j => s.coreElem g f off j

/-- The rows of the walk, and row n of them: i1 is fastest (R240). -/
def StreamDesc.total (d : StreamDesc) : Nat := d.count 1 * d.count 2 * d.count 3 * d.count 4
def StreamDesc.rowAt (d : StreamDesc) (n : Nat) : Nat × Nat × Nat × Nat :=
  (n % d.count 1, n / d.count 1 % d.count 2, n / (d.count 1 * d.count 2) % d.count 3, n / (d.count 1 * d.count 2 * d.count 3))

/-- The walk's rows in order. -/
def StreamDesc.rows (d : StreamDesc) : List (Nat × Nat × Nat × Nat) := (List.range d.total).map d.rowAt

/-- A row of in-bound outer indices (R241). -/
def StreamDesc.rowIn (d : StreamDesc) : Nat × Nat × Nat × Nat → Bool
  | (i1, i2, i3, i4) => decide (i1 < d.used 1) && decide (i2 < d.used 2) && decide (i3 < d.used 3) && decide (i4 < d.used 4)

/-- SLD and WLOAD without a port: a row is loaded, converted and placed, its out-of-bound elements as zeros (R240, R241). -/
def Mv.loadRow (m : Mv) (g k : Nat) (r : Nat × Nat × Nat × Nat) : Mv :=
  let (i1, i2, i3, i4) := r
  let d := m.t.d
  let ff := d.farFmt m.t.opc 0
  let nf := d.nearFmt m.t.opc 0
  let off := d.near + d.row i1 i2 i3 i4 * d.npitch
  if d.rowIn r then
    let n := d.used 0
    let (m, bs) := m.load g k (d.farRow i1 i2 i3 i4).toNat (rowBytes ff n) ff.width [i1, i2, i3, i4]
    if m.blocked then m
    else
      let (s, es) := m.s.convertAll g k d true (unpack ff n bs)
      { m with s := s }.near g off (pack nf (es ++ List.replicate (d.cut 0) ({} : PVal)))
  else m.near g off (pack nf (List.replicate (d.count 0) ({} : PVal)))

/-- SST without a port: an in-bound row is read, converted and stored (R240, R241). -/
def Mv.storeRow (m : Mv) (g k : Nat) (r : Nat × Nat × Nat × Nat) : Mv :=
  let (i1, i2, i3, i4) := r
  let d := m.t.d
  let ff := d.farFmt m.t.opc 0
  let nf := d.nearFmt m.t.opc 0
  if !d.rowIn r then m
  else
    let off := d.near + d.row i1 i2 i3 i4 * d.npitch
    let (s, es) := m.s.convertAll g k d false (m.s.nearElems g nf off (d.used 0))
    { m with s := s }.store g k (d.farRow i1 i2 i3 i4).toNat (pack ff es) ff.width [i1, i2, i3, i4]

/-- One port-mode element of an SLD or SST (R249, R250): LEN + 1 lines at BASE + LINE × 64 and near row e. (DEDUCED, log entry
96). -/
def Mv.portElem (m : Mv) (g k e : Nat) (el : Nat) : Mv :=
  let d := m.t.d
  let ff := d.farFmt m.t.opc 0
  let nf := d.nearFmt m.t.opc 0
  let lines := bits el 30 25 + 1
  let va := m.t.base + bits el 24 0 * 64
  let n := lines * 64 * 8 / ff.width
  let off := d.near + e * d.npitch
  let len := rowBytes nf n
  if 0xE00000 < off + len then
    let (s, t) := m.s.strFault g k m.t 4 0xFF e [e, 0, 0, 0, 0] va
    { m with s := s, t := t }
  else if m.t.opc = opSst then
    let (s, es) := m.s.convertAll g k d false (m.s.nearElems g nf off n)
    { m with s := s }.store g k va (pack ff es) ff.width [e]
  else
    let (m, bs) := m.load g k va (lines * 64) ff.width [e]
    if m.blocked then m
    else
      let (s, es) := m.s.convertAll g k d true (unpack ff n bs)
      { m with s := s }.near g off (pack nf es)

/-- The core-memory bytes of a port-mode exchange, element by element. -/
def Transfer.portSpans (t : Transfer) : List (Nat × Nat) :=
  t.els.map fun el => (t.base + bits el 24 0 * 64, (bits el 30 25 + 1) * 64)

/-- Whether the last port-mode element has been taken. -/
def Transfer.lastTaken (t : Transfer) : Bool :=
  match t.els.getLast? with
  | some el => bit el 31
  | none => false

/-- The places of an exchange's elements in walk order: core-memory offset of its row, index in the row, and whether it is in
bound (R240, R241, R249). -/
def Transfer.places (t : Transfer) : List (Nat × Nat × Bool) :=
  let d := t.d
  if t.portEn then
    t.portSpans.flatMap fun (off, len) => (List.range (len * 8 / (d.nearFmt opFxch t.dir).width)).map fun j => (off, j, true)
  else d.rows.flatMap fun r =>
    let off := d.near + d.row r.1 r.2.1 r.2.2.1 r.2.2.2 * d.npitch
    (List.range (d.count 0)).map fun j => (off, j, d.rowIn r && decide (j < d.used 0))

/-- An element of a row lies in core memory; port-mode addresses of an exchange can pass its end, where the manual gives no bytes:
a free value is sent and nothing is stored. -/
def inCore (f : Fmt) (off j : Nat) : Bool := decide (elemByte f off j + ceilDiv f.width 8 ≤ 0xE00000)

/-- FXCH with DIR 0: the elements in walk order, converted and packed into beats of 64 bytes, leave on the channel; the last beat
carries LAST and an out-of-bound element is sent as zero (R241, R299). -/
def Mv.sendAll (m : Mv) (g k : Nat) : Mv :=
  let t := m.t
  let (s, es) := t.places.foldl (fun (s, out) (off, j, inb) =>
    if inb then
      let nf := t.d.nearFmt opFxch 0
      let e : PVal := if inCore nf off j then s.coreElem g nf off j else { v := s.freeVal nf.width, p := false }
      let s := if inCore nf off j then s else s.takeFree
      let (s, x) := s.convertElem g k t.d false e
      (s, out ++ [x])
    else (s, out ++ [({} : PVal)])) (m.s, [])
  let bs := pack (t.d.farFmt opFxch 0) es
  let n := ceilDiv bs.length 64
  let beats := (List.range n).map fun i =>
    let l := (bs.drop (64 * i)).take 64
    let l := l ++ List.replicate (64 - l.length) (0, false)
    ({ chan := t.chan, kind := 0, last := i + 1 == n, poison := l.any Prod.snd
       data := l.map fun b => if b.2 then 0 else b.1, seq := t.seq } : OBeat)
  { m with s := s.modStall g fun st => { st with out := st.out ++ beats } }

/-- Beats an exchange moves, ⌈E × w / 64⌉ (R299). -/
def Transfer.beatCount (t : Transfer) : Nat :=
  ceilDiv (rowBytes (t.d.farFmt opFxch t.dir) t.places.length) 64

/-- One inbound beat of an FXCH with DIR 1: its elements are converted and placed; an out-of-bound element is discarded (R241,
R299, R301). -/
def Mv.receive (m : Mv) (g k : Nat) (b : PBeat) : Mv :=
  let t := m.t
  let f := t.d.farFmt opFxch 1
  let nf := t.d.nearFmt opFxch 1
  let per := 64 * 8 / f.width
  let es := unpack f per (b.data.map fun x => (x, b.poison))
  let places := (t.places.drop (t.beats * per)).take per
  let s := (places.zip es).foldl (fun s (p, e) =>
    let (off, j, inb) := p
    if inb && inCore nf off j then
      let (s, x) := s.convertElem g k t.d true e
      let a := coreAddr g (elemByte nf off j)
      if nf.width = 4 then
        let old := Tab.get (0 : Byte) s.mem a
        let v := if j % 2 = 0 then x.v % 16 else old.toNat % 16 + 16 * (x.v % 16)
        s.writeByte a (BitVec.ofNat 8 v) (x.p || (decide (j % 2 = 1) && s.poisoned a 1))
      else s.writeTagged a (pack nf [x])
    else s) m.s
  let s := if b.poison then (match t.e with
      | some e => if (s.job e.slot).gen = e.gen then s.modJob e.slot fun j => { j with faults := j.faults ++ [3] } else s
      | none => s) else s
  { m with s := s, t := { t with beats := t.beats + 1, lines := t.lines + 1 } }

/-! ### Engines and slots (R244, R245) -/

/-- Engine k of a stall. -/
def Stall.engine (st : Stall) (k : Nat) : Engine := st.engines.getD k {}

/-- The state after engine k of stall g becomes e. -/
def State.setEngine (s : State) (g k : Nat) (e : Engine) : State :=
  s.modStall g fun st => { st with engines := st.engines.set k e }

/-- Every transfer in a slot of the stall, with its engine and whether the slot is the active one. -/
def Stall.transfers (st : Stall) : List (Nat × Transfer × Bool) :=
  (List.range 4).flatMap fun k =>
    let e := st.engine k
    (match e.active with | some t => [(k, t, true)] | none => []) ++
    (match e.standby with | some t => [(k, t, false)] | none => [])

/-- The transfer issued first among those that a test picks. -/
def firstIssued (p : Transfer → Bool) (l : List (Nat × Transfer × Bool)) : Option (Nat × Transfer × Bool) :=
  l.foldl (fun best x =>
    if p x.2.1 then
      match best with
      | some b => if x.2.1.seq < b.2.1.seq then some x else best
      | none => some x
    else best) none

/-- The transfer that takes the elements of port p: the first issued of those bound to it, once it is active (R148). -/
def Stall.portUser (st : Stall) (p : Nat) : Option (Nat × Transfer) :=
  match firstIssued (fun t => t.portEn && t.port == p && !t.lastTaken) st.transfers with
  | some (k, t, true) => some (k, t)
  | _ => none

/-- Whether no exchange issued earlier stands on the same channel and direction (R300). -/
def Stall.chanFirst (st : Stall) (t : Transfer) : Bool :=
  match firstIssued (fun u => u.opc == opFxch && u.chan == t.chan && u.dir == t.dir) st.transfers with
  | some (_, u, _) => u.seq == t.seq
  | none => true

/-- The exchange takes the inbound beats of its channel: it is the first on it, started, not done, and has its length where a port gives it
(R299, R300). -/
def Stall.pulls (st : Stall) (t : Transfer) : Bool :=
  t.opc == opFxch && t.dir == 1 && t.started && !t.done && !(t.portEn && !t.lastTaken) && st.chanFirst t

/-- The state after a move, with the moved transfer back in its slot; a transfer that met a waiting request has moved nothing. -/
def Mv.commit (m : Mv) (g k : Nat) (old : State) : State :=
  if m.blocked then old
  else
    let moved := m.t.lines - (match ((old.stall g).engine k).active with | some t => t.lines | none => 0)
    (m.s.count .strLines g moved k).setEngine g k { (m.s.stall g).engine k with active := some m.t }

/-- The inbound beats that wait on the channel of a started FXCH with DIR 1 are taken while it needs them; it stops at a token
beat (R301). -/
def State.pullBeats (s : State) (g k : Nat) : Nat → State
  | 0 => s
  | fuel + 1 =>
    match ((s.stall g).engine k).active with
    | none => s
    | some t =>
      if (s.stall g).pulls t = false then s
      else if t.beatCount ≤ t.beats then
        s.setEngine g k { (s.stall g).engine k with active := some { t with done := true } }
      else match Tab.get [] (s.stall g).inBuf t.chan with
        | b :: rest =>
          if b.kind ≠ 0 then s
          else
            let s' := s.modStall g fun st => { st with inBuf := Tab.set [] st.inBuf t.chan rest }
            let m := ({ s := s'.count .fabPortBeats (g / 64), t := t } : Mv).receive g k b
            let m := if t.beatCount ≤ m.t.beats then { m with t := { m.t with done := true } } else m
            State.pullBeats (m.commit g k s') g k fuel
        | [] => s

/-- Port-mode elements that wait in port p go to the transfer bound to it (R148, R249). -/
def State.pullPort (s : State) (g p : Nat) : Nat → State
  | 0 => s
  | fuel + 1 =>
    match (s.stall g).portUser p with
    | none => s
    | some (k, t) =>
      if t.started = false then s
      else match (s.stall g).core.ports.getD p [] with
        | [] => s
        | el :: rest =>
          let s' := s.modCore g fun c => { c with ports := c.ports.set p rest }
          let e := t.els.length
          let t := { t with els := t.els ++ [el] }
          let m : Mv := { s := s', t := t }
          let m := if t.opc = opFxch then (if t.dir = 0 ∧ t.lastTaken = true then m.sendAll g k else m) else m.portElem g k e el
          if m.blocked then s
          else
            let m := if t.opc ≠ opFxch ∧ t.lastTaken = true then { m with t := { m.t with done := true } } else m
            let s := (m.commit g k s')
            State.pullPort (s.pullBeats g k 0x10000) g p fuel

/-- A transfer walks: an SLD, SST or WLOAD without a port. -/
def Transfer.walks (t : Transfer) : Bool := !t.portEn && t.opc != opFxch

/-- The started walk of engine k that has rows left. -/
def Engine.walking (e : Engine) : Option Transfer :=
  match e.active with
  | some t => if t.started && !t.done && t.walks then some t else none
  | none => none

/-- The next row of engine k's walk moves, unless a request of it waits for the CXL link or for a stack; after the last one everything has
moved. With it, the bad symbols of the lines after it. -/
def State.moveRow (s : State) (g k : Nat) (errs : List Nat := []) : State × List Nat :=
  match ((s.stall g).engine k).walking with
  | none => (s, errs)
  | some t =>
    let r := t.d.rowAt t.row
    let m : Mv := { s := s, t := t, errs := errs }
    let m := if t.opc = opSst then m.storeRow g k r else m.loadRow g k r
    ({ m with t := { m.t with row := t.row + 1, done := decide (t.d.total ≤ t.row + 1) } }.commit g k s, m.errs)

/-- The rows that are left move. -/
def State.moveRows (s : State) (g k : Nat) (errs : List Nat) : Nat → State
  | 0 => s
  | n + 1 => let r := s.moveRow g k errs; r.1.moveRows g k r.2 n

/-- The rows that engine k's walk has left. -/
def State.rowsLeft (s : State) (g k : Nat) : Nat :=
  match ((s.stall g).engine k).walking with
  | none => 0
  | some t => t.d.total - t.row

/-- The active transfer of engine k starts: the maximum is cleared when CONV asks for it, and it moves what it can (R243,
R244). (DESIGN CHOICE, log entry 86). -/
def State.startTransfer (s : State) (g k : Nat) : State :=
  match ((s.stall g).engine k).active with
  | none => s
  | some t =>
    if t.started ∨ (s.stall g).mrun.isSome ∨ (t.opc = opFxch ∧ t.dir = 0 ∧ (s.stall g).chanFirst t = false) then s
    else
      let t := { t with started := true, since := s.local (g / 64) }
      let s := if t.d.ccw.amaxClr then s.setReg .stlAmaxStr g k 0 else s
      let s := s.setEngine g k { (s.stall g).engine k with active := some t }
      if t.portEn then (s.pullPort g t.port 17)
      else
        let m : Mv := { s := s, t := t }
        if t.walks then s
        else if t.dir = 0 then (m.sendAll g k).commit g k s
        else s.pullBeats g k 0x10000

/-- A descriptor enters the first empty slot of engine k, and starts when that is the active one (R244); true when both slots
are full. -/
def State.arm (s : State) (g k : Nat) (t : Transfer) : State × Bool :=
  let e := (s.stall g).engine k
  match e.active, e.standby with
  | none, _ => ((s.setEngine g k { e with active := some t }).startTransfer g k, false)
  | some _, none => (s.setEngine g k { e with standby := some t }, false)
  | some _, some _ => (s, true)

/-- The transfer that an instruction names. -/
def Transfer.ofInstr (e : QEntry) (seq queue : Nat) (d : StreamDesc) : Transfer :=
  let fx := e.opc = opFxch
  { e := some e, seq := seq, queue := queue, opc := e.opc, off := e.desc, d := d
    portEn := e.opc ≠ opWload && bit e.word 24, port := bits e.word 27 25
    base := if fx then bits e.word 63 40 else bits e.word 87 40
    dir := if fx then bits e.word 28 28 else 0, chan := bits e.word 32 29, mask := bits e.word 87 24
    started := false, since := 0, lines := 0, beats := 0, els := [], done := false, pages := [], hold := [], held := [] }

/-- SLD, SST, WLOAD or FXCH issues (R184, R242, R244): its descriptor is read and checked; a failing check faults it with cause
DESC_STREAM; otherwise it takes a free slot of its engine. -/
def State.streamInstr (s : State) (g : Nat) (o : Op) : State :=
  match s.headIs g o with
  | none => s
  | some e =>
    let k := e.unit % 4
    let en := (s.stall g).engine k
    if (s.stall g).mrun.isSome || (en.active.isSome && en.standby.isSome) then s
    else
      let d := StreamDesc.of (s.read (coreAddr g e.desc) 64)
      let t := Transfer.ofInstr e (s.stall g).issues (s.job e.slot).queue d
      match firstFail (d.checks t.opc t.dir t.portEn) with
      | some (_, st) => ((s.issue g e false).iqFault g e 3 e.desc 0 0 st).settle g
      | none => (((s.issue g e true).arm g k t).1).settle g

/-- SLD (R239). -/
def execSld (g : StallId) (s : State) : Host.Outcome State Fault Refusal := .next (s.streamInstr g .sld)
/-- SST (R239). -/
def execSst (g : StallId) (s : State) : Host.Outcome State Fault Refusal := .next (s.streamInstr g .sst)
/-- WLOAD (R186, R239). -/
def execWload (g : StallId) (s : State) : Host.Outcome State Fault Refusal := .next (s.streamInstr g .wload)
/-- FXCH (R239, R299). -/
def execFxch (g : StallId) (s : State) : Host.Outcome State Fault Refusal := .next (s.streamInstr g .fxch)

/-- STR_ARM k written by firmware (R244, R246): the descriptor is read and checked, and takes a slot, or the arm is refused with
REARM, whose word 2 carries the number of the failed check. (DESIGN CHOICE, log entry 148). -/
def execStrArm (_c : CoreId) (g : StallId) (k : UnitId) (v : Word32) (s : State) : Host.Outcome State Fault Refusal :=
  let v := v.toNat
  let off := bits v 23 0
  let dir := bits v 31 31
  let opc := if dir = 1 then opSst else opSld
  let d := StreamDesc.of (s.read (coreAddr g off) 64)
  let refuse (n : Nat) : State :=
    (s.count .strRearms g).raiseOnce .strEvent g 1 0x151 g k (n * 2 ^ 24 + off)
  match firstFail (d.checks opc 0 false) with
  | some (n, _) => .next (refuse n)
  | none =>
    let t : Transfer := { e := none, seq := (s.stall g).issues, queue := bits v 29 24, opc := opc, off := off, d := d, portEn := false, port := 0,
                          base := 0, dir := 0, chan := 0, mask := 0, started := false, since := 0, lines := 0, beats := 0,
                          els := [], done := false, pages := [], hold := [], held := [] }
    let (s', full) := s.arm g k t
    if full then .next (refuse 0) else .next s'

/-- STANDBY_START (R244): the descriptor promoted to the active slot, or one that waited for an MPASS (R113), starts. -/
def execStandbyStart (g : StallId) (k : UnitId) (s : State) : Host.Outcome State Fault Refusal := .next (s.startTransfer g k)

/-- STREAM_COMPLETE (R180, R245): the rest of the active slot's transfer moves; once everything has, it raises source k of the control
core, completes its instruction, and the standby descriptor is promoted. `errs` gives the bad symbols that its far lines meet in a
stack, in turn. -/
def execStreamComplete (g : StallId) (k : UnitId) (s : State) (errs : List Nat := []) : Host.Outcome State Fault Refusal :=
  let s := s.moveRows g k errs (s.rowsLeft g k)
  let en := (s.stall g).engine k
  match en.active with
  | none => .next s
  | some t =>
    if !t.done || !t.hold.isEmpty then .next s
    else
      let s := s.setEngine g k { active := en.standby, standby := none }
      let s := s.modCore g fun c => { c with irqEdge := c.irqEdge ||| 2 ^ k.val }
      let s := each [0, 1, 2, 3] s fun s j => s.pullBeats g j 0x10000
      match t.e with
      | none => .next (s.settle g false)
      | some e => .next ((s.complete g e t.seq (if t.opc = opFxch then t.chan else 0)).settle g)

end Sys2Proof.Machine
end

