-- ==== Sys2Proof/Machine/Tally.lean ====
section
/-! DEFINITION. Tallies (R213 to R227, R237): take-next requests and their answers, completion reports, arming and release. -/

namespace Sys2Proof.Machine

/-- Cell c of bay b. -/
def State.cell (s : State) (b c : Nat) : Cell := Tab.get {} s.cells (b * 256 + c)
/-- The state after cell c of bay b becomes x. -/
def State.setCell (s : State) (b c : Nat) (x : Cell) : State := { s with cells := Tab.set {} s.cells (b * 256 + c) x }

/-- The answers of R220. -/
def answerWord (tally status epoch index : Nat) : Nat := tally * 2 ^ 51 + status * 2 ^ 48 + epoch * 2 ^ 32 + index

/-- A FOREIGN answer given in bay b: TLY_FOREIGN and its capture (R219, R221, R237). -/
def State.foreign (s : State) (b : Nat) (r : TakeReq) (reason : Nat) : State :=
  let s := s.capture .tlyEvent 0 .tlyForeignInfo b
    (r.tally * 2 ^ 51 + b2n r.queue * 2 ^ 50 + r.slot * 2 ^ 40 + r.gen * 2 ^ 32 + reason * 2 ^ 24 + r.stall)
  s.raiseOnce .tlyEvent b 0 0x180 r.stall (r.tally * 2 ^ 19 + reason) r.slot

/-- The map slot of a running instance that names a tally (R221). -/
def Stall.mapSlot (st : Stall) (slot gen tally : Nat) : Option MapSlot :=
  match st.insts.find? fun i => i.slot == slot && i.gen == gen with
  | none => none
  | some i => i.map.find? fun m => m.tally == tally

/-- A take-next request leaves stall g: to the serving cell's bay, or answered FOREIGN by the stall itself when no map slot names
the tally (R221). A request to a fenced bay is lost with the bay (R32). (DEDUCED, log entry 78; DESIGN CHOICE, log entry 77). -/
def State.sendTake (s : State) (g : Nat) (queue : Bool) (seq slot gen tally : Nat) : State :=
  let r : TakeReq := { stall := g, queue := queue, seq := seq, slot := slot, gen := gen, tally := tally, cell := 0 }
  match (s.stall g).mapSlot slot gen tally with
  | none =>
    let s := s.foreign (g / 64) r 1
    { s with answers := s.answers ++ [{ stall := g, queue := queue, seq := seq, slot := slot, gen := gen,
                                        answer := answerWord tally 2 0 0xFFFFFFFF }] }
  | some m =>
    if s.isFenced m.bay then s
    else { s with takeQ := Tab.upd [] s.takeQ m.bay (· ++ [{ r with cell := m.cell }]) }

/-- The cell after a take by an owner, the status and the index (R219). -/
def Cell.take (c : Cell) (slot gen : Nat) : Cell × Nat × Nat :=
  if c.state = 0 ∨ c.job ≠ slot ∨ c.gen ≠ gen then (c, 2, 0xFFFFFFFF)
  else if c.state = 2 then (c, 1, 0xFFFFFFFF)
  else
    ({ c with next := c.next + 1, taken := c.taken + 1, state := if c.next + 1 = c.limit then 2 else 1 }, 0, c.next)

/-- TAKE_NEXT (R219): the tally unit of bay b answers the oldest request. -/
def execTakeNext (b : BayId) (s : State) : Host.Outcome State Fault Refusal :=
  match Tab.get [] s.takeQ b.val with
  | [] => .next s
  | r :: rest =>
    if s.isFenced b then .next s
    else
      let c := s.cell b r.cell
      let (c', status, index) := c.take r.slot r.gen
      let s := { s with takeQ := Tab.set [] s.takeQ b.val rest }
      let s := (s.setCell b r.cell c').count .tlyTakes b
      let s := if status = 2 then s.foreign b r (if c.state = 0 then 2 else 3) else s
      .next { s with answers := s.answers ++ [{ stall := r.stall, queue := r.queue, seq := r.seq, slot := r.slot, gen := r.gen,
                                                 answer := answerWord r.tally status c.epoch index }] }

/-- The OK answers of an instance's map slot after one more (R222). -/
def Stall.countTake (st : Stall) (slot gen tally epoch : Nat) : Stall :=
  { st with insts := st.insts.map fun i =>
      if i.slot = slot ∧ i.gen = gen then
        { i with map := i.map.map fun m => if m.tally = tally then { m with count := m.count + 1, epoch := epoch } else m }
      else i }

/-- An answer for the control core takes its place in request order (R150). -/
def fillTake (seq a : Nat) : List (Nat × Option Nat) → List (Nat × Option Nat)
  | [] => []
  | (q, x) :: t => if q = seq then (q, some a) :: t else (q, x) :: fillTake seq a t

/-- TANS (R220, R221): the oldest answer for stall g arrives. One for a job instance that no longer runs there is discarded; one
for the instruction queue is written at DEST and completes its TAKE; one for the control core enters its answer queue. -/
def execTans (g : StallId) (s : State) : Host.Outcome State Fault Refusal :=
  match s.answers.find? fun a => a.stall == g.val with
  | none => .next s
  | some a =>
    let s := { s with answers := s.answers.erase a }
    if (s.stall g).run ≠ some (a.slot, a.gen) then .next s
    else
      let status := bits a.answer 50 48
      let s := if status = 0 then
          s.modStall g fun st => st.countTake a.slot a.gen (bits a.answer 63 51) (bits a.answer 47 32) else s
      if a.queue then
        match (s.stall g).inflight.find? fun i => i.seq == a.seq with
        | none => .next (s.settle g)
        | some i =>
          let s := s.setCore g (bits i.e.word 47 24) 8 a.answer false
          .next ((s.complete g i.e i.seq).settle g)
      else .next ((s.modCore g fun c => { c with tally := fillTake a.seq a.answer c.tally }).settle g)

/-- A completion report is applied to its cell, or counted late (R222, R224). -/
def State.applyReport (s : State) (b : Nat) (r : Report) : State :=
  let c := s.cell b r.cell
  if c.epoch = r.epoch ∧ c.state ≠ 0 then s.setCell b r.cell { c with done := c.done + r.count }
  else (s.count .tlyLate b r.count).raiseOnce .tlyEvent b 1 0x181 (b * 256 + r.cell) r.count r.epoch

/-- REPORT (R222): the oldest completion report at bay b is applied, and its stall's JCOMMIT has one report fewer to wait for. -/
def execReport (b : BayId) (s : State) : Host.Outcome State Fault Refusal :=
  match Tab.get [] s.reportQ b.val with
  | [] => .next s
  | r :: rest =>
    if s.isFenced b then .next s
    else
      let s := { s with reportQ := Tab.set [] s.reportQ b.val rest }
      let s := s.applyReport b r
      .next (s.modStall r.stall fun st => match st.commit with
        | some (e, n) => if e.slot = r.slot ∧ e.gen = r.gen then { st with commit := some (e, n - 1) } else st
        | none => st)

/-- Arming a cell (R218). -/
def Cell.arm (c : Cell) (job gen base limit : Nat) (cover : Bool) : Cell :=
  { state := if limit = base then 2 else 1, cover := cover, job := job, gen := gen, epoch := (c.epoch + 1) % 65536
    base := base, limit := limit, next := base, taken := 0, done := 0 }

/-- A cell of bay b is armed for a job instance. -/
def State.armCell (s : State) (b c job gen base limit : Nat) (cover : Bool) : State :=
  s.setCell b c ((s.cell b c).arm job gen base limit cover)

/-- TALLY_ARM (R218): a write of TLY_ARM_CMD with OP 1 arms a cell with the range of TLY_ARM_RANGE; a BASE above LIMIT is ignored
and raises ARMERR (R237). (DEDUCED, log entry 80). -/
def execTallyArm (_c : CoreId) (b : BayId) (v : Word32) (s : State) : Host.Outcome State Fault Refusal :=
  let v := v.toNat
  if bits v 31 30 ≠ 1 then .next s
  else
    let base := bits (s.reg .tlyArmRange b) 31 0
    let limit := bits (s.reg .tlyArmRange b) 63 32
    if limit < base then .next (s.raiseOnce .tlyEvent b 3 0x183 (bits v 7 0) base limit)
    else .next (s.armCell b (bits v 7 0) (bits v 20 11) (bits v 28 21) base limit (bit v 29))

/-- TALLY_RELEASE (R223): a write of TLY_ARM_CMD with OP 2 releases a cell without the coverage check. -/
def execTallyRelease (_c : CoreId) (b : BayId) (v : Word32) (s : State) : Host.Outcome State Fault Refusal :=
  let v := v.toNat
  if bits v 31 30 ≠ 2 then .next s
  else .next (s.setCell b (bits v 7 0) { s.cell b (bits v 7 0) with state := 0 })

/-- The coverage check fails (R223). -/
def Cell.short (c : Cell) : Bool := c.cover && (decide (c.next < c.limit) || c.done != c.taken)

/-- A cell is released: STATE becomes 0; the coverage check of R223 where it applies. -/
def State.releaseCell (s : State) (b c : Nat) (check : Bool) : State :=
  let x := s.cell b c
  let s := s.setCell b c { x with state := 0 }
  if check && x.short then
    (s.raiseOnce .tlyEvent b 2 0x182 (b * 256 + c) x.next x.done).addReason x.job x.gen { status := .tallyShort }
  else s

/-- CELL_RELEASE (R223): a cell whose owning instance has completed its last JCOMMIT, or has been abandoned, is released. -/
def execCellRelease (b : BayId) (cell : Fin 256) (s : State) : Host.Outcome State Fault Refusal :=
  let x := s.cell b cell
  let j := s.job x.job
  if x.state = 0 then .next s
  else if j.gen ≠ x.gen ∨ j.abandoned = true then .next (s.releaseCell b cell false)
  else if j.left = [] then .next (s.releaseCell b cell true)
  else .next s

end Sys2Proof.Machine
end

