-- ==== Sys2Proof/Machine/ControlCore.lean ====
section
/-! DEFINITION. The control core (R117 to R157): operands and buses, results, the exposed pipeline, loops, interrupts and faults;
one command per operation, each the issue of the next bundle of a stall in which that operation stands. -/

namespace Sys2Proof.Machine

/-! ### Operands (R123, R125, R130) -/

/-- A delivered operand: its 32 bits, the 40-bit value of an accumulator source, and its poison. -/
structure Opd where
  v    : Nat := 0
  wide : Option Int := none
  p    : Bool := false
deriving DecidableEq, Repr

/-- Iterations that a loop still starts after the current one (R125). -/
def Loop.remaining (l : Loop) : Nat := l.n + l.s - 1 - l.k

/-- Pending interrupt sources (R153). -/
def State.irqPend (s : State) (g : Nat) : Nat :=
  let c := (s.stall g).core
  let answer := match c.tally with | (_, some _) :: _ => 16 | _ => 0
  (c.irqEdge &&& 0x6F) ||| answer ||| (if bits (s.reg .stlNumEvent g) 23 0 = 0 then 0 else 128)

/-- A special source (R125). (DEDUCED, log entry 249). -/
def State.special (s : State) (g : Nat) (i : Nat) : Opd :=
  let c := (s.stall g).core
  if i < 4 then
    let a := c.acc.getD i (0, false)
    { v := ofSigned 32 a.1, wide := some a.1, p := a.2 }
  else if i < 6 then { v := (match c.loops[i - 4]? with | some l => l.remaining | none => 0) % 2 ^ 32 }
  else if i = 6 then { v := c.rrb }
  else if i = 7 then { v := g }
  else if i = 8 then { v := s.local (g / 64) % 2 ^ 32 }
  else if i = 9 then { v := c.lcHigh }
  else if i = 10 then { v := (match c.tally with | (_, some a) :: _ => bits a 31 0 | _ => 0) }
  else if i < 19 then { v := (c.ports.getD (i - 11) []).length }
  else if i < 23 then { v := s.reg .stlAmaxArr g (i - 19) }
  else if i < 27 then { v := s.reg .stlAmaxStr g (i - 23) }
  else if i = 27 then { v := s.reg .stlAmaxVec g }
  else if i = 28 then { v := s.irqPend g }
  else if i = 29 then { v := c.tmr }
  else
    let x : PVal := Tab.get {} c.sbStage (i - 30)
    { v := x.v, p := x.p }

/-- The value of a g name (R126). -/
def Core.gVal (c : Core) (n : Nat) : PVal := Tab.get {} c.g (c.phys n)

/-- What an operand class and index deliver (R123). -/
def State.source (s : State) (g cls idx : Nat) : Opd :=
  match cls with
  | 0 | 1 => let x := (s.stall g).core.gVal idx; { v := x.v, p := x.p }
  | 2 => s.special g idx
  | _ => { v := idx }

/-- The operand that field `pos` of a slot receives: its own source, or that of the field that won its bus (R130). -/
def State.operand (s : State) (g : Nat) (fs : List Field) (slot pos : Nat) : Opd :=
  match fs.find? fun f => f.slot == slot && f.pos == pos with
  | none => {}
  | some f => s.source g f.cls (if f.cls < 3 then (busWinner fs f.cls).getD f.idx else f.idx)

/-! ### Results (R129, R131 to R135) -/

/-- A signed value clamped to w bits, and whether it was (R129). -/
def clampSat (w : Nat) (x : Int) : Int × Bool := (clampSigned w x, clampSigned w x != x)

/-- The low 32 bits of an integer. -/
def wrap32 (x : Int) : Int := (ofSigned 32 x : Nat)

/-- x × 2^(−n) rounded half up; n = 0 gives x (R76, R132). -/
def halfUp (x : Int) (n : Nat) : Int := if n = 0 then x else (x + (2 ^ (n - 1) : Nat)) / (2 ^ n : Nat)

/-- Redundant sign bits of a w-bit value (R131). -/
def redundant (w : Nat) (x : Int) : Nat := w - 1 - bitLen (if x < 0 then -x - 1 else x).toNat

/-- EXPX (R132). -/
def expxOf (v : Nat) : Int :=
  let e := bits v 30 23
  let m := bits v 22 0
  if e = 255 then 128
  else if e ≠ 0 then (e : Int) - 127
  else if m = 0 then -150
  else (bitLen m : Int) - 1 - 149

/-- EXPE8 (R133): the byte and whether SAT is set. -/
def expe8Of (v code : Nat) : Nat × Bool :=
  if ¬ (code = 1 ∨ code = 2 ∨ code = 3 ∨ code = 4 ∨ code = 7) then (0xFF, false)
  else match Fmt.fp32.value v with
    | .nan _ => (0xFF, false)
    | .inf _ => (0xFE, true)
    | .fin _ m e =>
      if m = 0 then (0x7F, false)
      else
        let (fm, fe) := ((Fmt.ofCode code).getD .bf16).largest
        let x0 : Int := (bitLen m : Int) + e - (bitLen fm : Int) - fe
        let x := if magGt m e fm (fe + x0) then x0 + 1 else x0
        let y := 127 + x
        if y < 0 then (0, true) else if 0xFE < y then (0xFE, true) else (y.toNat, false)

/-- AELM (R134, R147): the element and whether SAT is set. -/
def aelmOf (s1 s2 : Nat) : Nat × Bool :=
  let tooBig := bits s1 31 25 != 0
  (bits s2 6 6 * 2 ^ 31 + bits s2 5 0 * 2 ^ 25 + (if tooBig then 0x1FFFFFF else bits s1 24 0), tooBig)

/-- The result of an operation of the ALU, address or move slot other than LD, ST and TAKE: the value that its write carries,
and whether it sets SAT at once. A MAC, MSU or MACW carries what it adds. -/
def CoreOp.result (o : CoreOp) (a b : Opd) (x : Slot) : Int × Bool :=
  let s1 := toSigned 32 a.v
  let s2 := toSigned 32 b.v
  let n := b.v % 32
  let flag (p : Bool) : Int := if p then 1 else 0
  match o with
  | .add | .aadd => (wrap32 ((a.v : Int) + b.v), false)
  | .sub | .asub => (wrap32 ((a.v : Int) - b.v), false)
  | .adds => let (r, t) := clampSat 32 (s1 + s2); (wrap32 r, t)
  | .subs => let (r, t) := clampSat 32 (s1 - s2); (wrap32 r, t)
  | .and => ((a.v &&& b.v : Nat), false)
  | .or => ((a.v ||| b.v : Nat), false)
  | .xor => ((a.v ^^^ b.v : Nat), false)
  | .shl => (wrap32 ((a.v * 2 ^ n : Nat)), false)
  | .shr => ((a.v / 2 ^ n : Nat), false)
  | .sra => (wrap32 (s1 / (2 ^ n : Nat)), false)
  | .srar => (wrap32 (halfUp s1 n), false)
  | .min => (if s1 ≤ s2 then a.v else b.v, false)
  | .max => (if s1 ≤ s2 then b.v else a.v, false)
  | .slt => (flag (decide (s1 < s2)), false)
  | .seq => (flag (a.v == b.v), false)
  | .movi | .movh => ((x.s1 * 256 + x.s2 : Nat), false)
  | .mul => (wrap32 ((a.v : Int) * b.v), false)
  | .muls => let (r, t) := clampSat 32 (s1 * s2); (wrap32 r, t)
  | .mulq => let (r, t) := clampSat 32 (halfUp (s1 * s2) 31); (wrap32 r, t)
  | .mac => (toSigned 16 a.v * toSigned 16 b.v, false)
  | .msu => (-(toSigned 16 a.v * toSigned 16 b.v), false)
  | .macw => (s1 * s2, false)
  | .aclr => (s1, false)
  | .ashr => let (r, t) := clampSat 32 (halfUp (a.wide.getD s1) (Nat.min (bits b.v 5 0) 39)); (wrap32 r, t)
  | .norm => (match a.wide with | some w => (redundant 40 w : Int) | none => (redundant 32 s1 : Int), false)
  | .nshl => (match a.wide with
      | some w => (bits (ofSigned 40 (w * (2 ^ redundant 40 w : Nat))) 39 8 : Int)
      | none => wrap32 (s1 * (2 ^ redundant 32 s1 : Nat)), false)
  | .expx => (wrap32 (expxOf a.v), false)
  | .expe8 => let (r, t) := expe8Of a.v b.v; (r, t)
  | .aaddl => (wrap32 ((a.v + b.v * 64 : Nat)), false)
  | .amul16 => ((a.v % 65536 * (b.v % 65536) : Nat), false)
  | .aelm => let (r, t) := aelmOf a.v b.v; (r, t)
  | .acmplt => (flag (decide (a.v < b.v)), false)
  | .mov => (if x.dst / 64 = 1 then s1 else a.v, false)
  | .nop | .ld | .st | .take => (0, false)

/-- Where the write of a slot lands: the physical register that its name has at issue (R124, R127). -/
def Core.destOf (c : Core) (d : Nat) : CDest :=
  match d / 64 with
  | 0 => .reg (c.phys (d % 64))
  | 1 => .acc (d % 64)
  | _ => .port (d % 64)

/-- What a slot does: its write with its latency as `left`, whether it sets SAT, or the fault it raises, cause and detail. -/
structure SlotOut where
  slot  : Nat
  write : Option CWrite := none
  sat   : Bool := false
  fault : Option (Nat × Nat) := none
deriving DecidableEq, Repr

/-- A destination that must not take a poisoned value: an address port, RRB, IRQ_EN or TIMER (R152). -/
def CDest.noPoison : CDest → Bool
  | .port i => decide (16 ≤ i) && i != 26
  | _ => false

/-- One active slot evaluated (R131 to R135, R150, R152). -/
def State.slotOut (s : State) (g : Nat) (fs : List Field) (i : Nat) (o : CoreOp) (x : Slot) : SlotOut :=
  let c := (s.stall g).core
  let a := s.operand g fs i 1
  let b := s.operand g fs i 2
  match o with
  | .ld =>
    let off := (a.v + b.v) % 2 ^ 32 / 4 * 4
    if a.p || b.p then { slot := i, fault := some (4, 0) }
    else if 0xE00000 ≤ off then { slot := i, fault := some (2, off) }
    else
      let w := s.coreVal g off 4
      let d := c.destOf x.dst
      if d.noPoison && w.p then { slot := i, fault := some (4, 0) }
      else { slot := i, write := some { dest := d, kind := .set, v := w.v, p := w.p, left := 4 } }
  | .st =>
    let off := a.v / 4 * 4
    if a.p then { slot := i, fault := some (4, 0) }
    else if 0xE00000 ≤ off ∨ (c.pbase ≤ off ∧ off < c.pbase + 16 * c.plen) then { slot := i, fault := some (2, off) }
    else { slot := i, write := some { dest := .mem off, kind := .set, v := b.v, p := b.p, left := 2 } }
  | .take =>
    if a.p then { slot := i, fault := some (4, 0) }
    else if 8192 ≤ a.v then { slot := i, fault := some (8, a.v) }
    else { slot := i, write := some { dest := .take, kind := .set, v := a.v, p := false, left := 1 } }
  | _ =>
    let (v, sat) := o.result a b x
    let p := (decide (1 ≤ o.reads) && a.p) || (decide (2 ≤ o.reads) && b.p)
    let d := c.destOf x.dst
    let kind : CKind := match o with | .movh => .high | .mac | .msu | .macw => .accumulate | _ => .set
    if d.noPoison && p then { slot := i, fault := some (4, 0) }
    else { slot := i, write := some { dest := d, kind := kind, v := v, p := p, left := o.latency }, sat := sat }

/-! ### Landing (R124, R128, R138, R139) -/

/-- The writes in flight of the context that issues (R139). -/
def Core.own (c : Core) : List CWrite := if c.handler then c.hand else c.main
/-- The core after the writes in flight of the issuing context become ws. -/
def Core.setOwn (c : Core) (ws : List CWrite) : Core := if c.handler then { c with hand := ws } else { c with main := ws }

/-- One write lands. (DEDUCED, log entries 54, 248). -/
def State.landOne (s : State) (g : Nat) (w : CWrite) : State :=
  let v := w.v.toNat
  match w.dest with
  | .reg p => s.modCore g fun c =>
      let old : PVal := Tab.get {} c.g p
      match w.kind with
      | .high => { c with g := Tab.set {} c.g p { v := v * 65536 + old.v % 65536, p := w.p || old.p } }
      | _ => { c with g := Tab.set {} c.g p { v := v, p := w.p } }
  | .acc a => s.modCore g fun c =>
      match w.kind with
      | .accumulate =>
        let old := c.acc.getD a (0, false)
        let (r, t) := clampSat 40 (old.1 + w.v)
        { c with acc := c.acc.set a (r, w.p || old.2), sat := c.sat || t }
      | _ => { c with acc := c.acc.set a (w.v, w.p) }
  | .mem off => s.setCore g off 4 v w.p
  | .take =>
    let n := (s.stall g).core.takeSeq
    let (slot, gen) := ((s.stall g).run).getD (0, 0)
    let s := s.modCore g fun c => { c with takeSeq := n + 1, tally := c.tally ++ [(n, none)] }
    s.sendTake g false n slot gen v
  | .port i =>
    if i < 16 then s.modCore g fun c => { c with sbStage := Tab.set {} c.sbStage i { v := v, p := w.p } }
    else if i < 24 then
      let s := s.modCore g fun c => { c with ports := c.ports.set (i - 16) (c.ports.getD (i - 16) [] ++ [v]) }
      s.pullPort g (i - 16) 17
    else if i = 24 then s.modCore g fun c => { c with rrb := v % 32 }
    else if i = 25 then s.modCore g fun c => { c with irqEn := v % 256 }
    else if i = 26 then s.modCore g fun c => { c with irqEdge := c.irqEdge - (c.irqEdge &&& v) }
    else s.modCore g fun c => { c with tmrLoad := v, tmr := v }

/-- Of the writes that land in one step, those that take effect: a write to a register, accumulator or port is dropped when a
later one to the same place lands with it; accumulate operations all land (R138). -/
def kept : List CWrite → List CWrite
  | [] => []
  | w :: t =>
    if w.kind ≠ .accumulate ∧ w.dest ≠ .take ∧ t.any (fun x => x.dest == w.dest) = true then kept t else w :: kept t

/-- The timer has run down: source 6 pends and the timer reloads itself (R153). (DEDUCED, log entry 49). -/
def Core.expireTimer (c : Core) : Core :=
  if c.tmrLoad ≠ 0 ∧ c.tmr = 0 then { c with irqEdge := c.irqEdge ||| 64, tmr := c.tmrLoad } else c

/-- A timer that has run down reloads itself, and then the due writes of the issuing context land, in order of issue. (DESIGN
CHOICE, log entry 40). -/
def State.landDue (s : State) (g : Nat) : State :=
  let s := s.modCore g Core.expireTimer
  let ws := (s.stall g).core.own
  let due := ws.filter fun w => w.left == 0
  let s := s.modCore g fun c => c.setOwn (ws.filter fun w => w.left != 0)
  each (kept due) s fun s w => s.landOne g w

/-- Each write in flight of the issuing context is one issue step nearer (R139). -/
def Core.advance (c : Core) : Core := c.setOwn (c.own.map fun w => { w with left := w.left - 1 })

/-- The issue-step timer counts a main issue step (R153). -/
def Core.tickTimer (c : Core) : Core := if c.handler then c else { c with tmr := c.tmr - 1 }

/-- Empty bundles issue until no write of the issuing context is in flight (R120, R155). -/
def State.drainOwn (s : State) (g : Nat) : Nat → State
  | 0 => s
  | fuel + 1 =>
    let s := s.landDue g
    if (s.stall g).core.own.isEmpty then s
    else
      let s := (s.count .ccoIssued g).modCore g fun c => (c.advance.tickTimer).expireTimer
      State.drainOwn s g fuel

/-- The writes already in flight of a context land, without an issue step (R156). -/
def State.landAll (s : State) (g : Nat) : Nat → State
  | 0 => s
  | fuel + 1 =>
    let s := s.landDue g
    if (s.stall g).core.own.isEmpty then s else State.landAll (s.modCore g Core.advance) g fuel

/-! ### Faults (R156) -/

/-- The status of a control-core fault. -/
def coreStatus : Nat → Status
  | 1 => .pcRange | 2 => .coreRange | 3 => .loopDepth | 4 => .poisoned | 8 => .tallyRange | 9 => .tallyUnderrun
  | _ => .schedHazard

/-- The queue entry that a control-core fault names in STL_IQ_FAULT: the entry at the head, else one of the running job with
index 0. (DEDUCED, log entry 50). -/
def Stall.coreEntry (st : Stall) : QEntry :=
  let (slot, gen) := st.run.getD (0, 0)
  match st.headEntry with
  | some e => if e.slot = slot ∧ e.gen = gen then e else { word := 0, slot := slot, gen := gen, idx := 0 }
  | none => { word := 0, slot := slot, gen := gen, idx := 0 }

/-- A control-core fault: the bundle does not issue, writes in flight land, the core stops, and the job instance fails. -/
def State.coreFault (s : State) (g cause slot detail : Nat) : State :=
  let c := (s.stall g).core
  let h := c.handler
  let pc := c.pc
  let s := s.landAll g 5
  let s := if h then
      let s := s.modCore g fun c => { c with handler := false }
      (s.landAll g 5).modCore g fun c => { c with handler := true }
    else s
  let s := s.modCore g fun c => { c with run := false, halted := true }
  let s := s.capture .ccoEvent 0 .ccoFault g
    (detail % 2 ^ 24 * 2 ^ 32 + cause * 2 ^ 28 + slot * 2 ^ 25 + b2n h * 2 ^ 24 + pc % 8192)
  let s := s.raise .ccoEvent g 0 0x120 g cause (b2n h * 2 ^ 15 + pc % 8192)
  let e := (s.stall g).coreEntry
  let s := s.iqFault g e 6 0 0 0 (coreStatus cause)
  if cause = 4 ∧ (s.job e.slot).gen = e.gen then s.modJob e.slot Job.metPoison else s

/-! ### Checks before issue (R130, R137, R141, R142, R150, R152) -/

/-- The number of a destination in CCO_FAULT.DETAIL; none for memory and take-next. -/
def CDest.detail : CDest → Option Nat
  | .reg p => some (p % 64)
  | .acc a => some (64 + a)
  | .port i => some (96 + i)
  | _ => none

/-- Whether the control operation reads CREG (R136). -/
def CtlOp.readsCreg : CtlOp → Bool
  | .bz | .bnz | .bltz | .loop => true
  | _ => false

/-- AUDIT_RAW (R141): slot and detail of the first read of a register or accumulator with a write in flight. -/
def Core.auditRawFault (c : Core) (b : Bundle) (fs : List Field) : Option (Nat × Nat) :=
  let busy (d : CDest) : Bool := c.flight.any fun w => w.dest == d
  let ctl := match b.ctrl with
    | some o => if o.readsCreg && busy (.reg (c.phys b.creg)) then some (0, c.phys b.creg % 64) else none
    | none => none
  match ctl with
  | some x => some x
  | none =>
    let read (f : Field) : Option CDest :=
      if 3 ≤ f.cls then none
      else
        let i := (busWinner fs f.cls).getD f.idx
        if f.cls < 2 then some (.reg (c.phys i)) else if i < 4 then some (.acc i) else none
    fs.findSome? fun f => match read f with
      | some d => if busy d then (d.detail).map fun n => (f.slot, n) else none
      | none => none

/-- AUDIT_BUS (R141): slot and detail of the highest-ranking field that would lose its bus. -/
def Core.auditBusFault (c : Core) (fs : List Field) : Option (Nat × Nat) :=
  (busLosers fs).head?.map fun f => (f.slot, if f.cls < 2 then c.phys f.idx % 64 else 128 + f.idx)

/-- AUDIT_WAW (R141): slot and detail of the first write that would land in the same step as an earlier write to the same
destination. -/
def Core.auditWawFault (c : Core) : List (Nat × CWrite) → List CWrite → Option (Nat × Nat)
  | [], _ => none
  | (i, w) :: t, seen =>
    match w.dest.detail with
    | none => c.auditWawFault t seen
    | some n =>
      if seen.any fun x => x.dest == w.dest && x.left == w.left then some (i, n)
      else c.auditWawFault t (seen ++ [w])

/-- Whether a branch is taken (R136). -/
def Core.taken (c : Core) (b : Bundle) : Bool :=
  let v := (c.gVal b.creg).v
  match b.ctrl with
  | some .br => true
  | some .bz => v == 0
  | some .bnz => v != 0
  | some .bltz => bit v 31
  | _ => false

/-- What the checks say: the bundle issues, waits, or faults with cause, slot and detail. -/
inductive Verdict
  | go (outs : List SlotOut)
  | wait
  | fault (cause slot detail : Nat)
deriving DecidableEq, Repr

/-- The first fault among the slots. -/
def slotFault (outs : List SlotOut) : Option (Nat × Nat × Nat) :=
  outs.findSome? fun o => o.fault.map fun (c, d) => (c, o.slot, d)

/-- The checks of the control operation: poison of CREG, the branch target, loop depth (R137, R142, R152). (DEDUCED, log entry
251). -/
def Core.ctlFault (c : Core) (b : Bundle) : Option Nat :=
  match b.ctrl with
  | none => none
  | some o =>
    if o.readsCreg && (c.gVal b.creg).p then some 4
    else if c.taken b && decide (c.plen ≤ b.cimm) then some 1
    else if o = .loop ∧ (c.handler = true ∨ 2 ≤ c.loops.length) then some 3
    else none

/-- The checks on the next bundle: audits, then the tally answer it needs, then its other faults, then its other waits.
(DEDUCED, log entry 41). -/
def State.verdict (s : State) (g : Nat) (b : Bundle) : Verdict :=
  let st := s.stall g
  let c := st.core
  let slot := (st.run.getD (0, 0)).1
  let fs := c.fields b
  let raw := if c.auditRaw then c.auditRawFault b fs else none
  let bus := if c.auditBus then c.auditBusFault fs else none
  match raw, bus with
  | some (i, d), _ => .fault 5 i d
  | _, some (i, d) => .fault 7 i d
  | none, none =>
    if c.readsTally b && c.tally.isEmpty && c.takes == 0 then
      .fault 9 (((fs.find? fun f => f.cls == 2).map Field.slot).getD 0) 0
    else
      let w := st.bundleWait slot b
      if w = 3 then .wait
      else match c.ctlFault b with
        | some cause => .fault cause 0 0
        | none =>
          let outs := (c.active b).map fun (i, o, x) => s.slotOut g fs i o x
          match slotFault outs with
          | some (cause, i, d) => .fault cause i d
          | none =>
            let ws := outs.filterMap fun o => o.write.map fun w => (o.slot, w)
            match (if c.auditWaw then c.auditWawFault ws c.own else none) with
            | some (i, d) => .fault 6 i d
            | none => if w ≠ 0 then .wait else .go outs

/-! ### Issue (R136, R137, R142 to R145) -/

/-- The loops and RRB after the fall-through from the last bundle of a body: the innermost loop whose body ends at index n starts
its next iteration, or ends and lets the next one out be looked at (R142, R145). The result is the next index. (DEDUCED, log
entries 52, 252). -/
def Core.fallThrough (c : Core) (n : Nat) : Nat → Core
  | 0 => { c with pc := n }
  | fuel + 1 =>
    match c.loops with
    | [] => { c with pc := n }
    | l :: outer =>
      if l.first + l.len ≠ n then { c with pc := n }
      else
        let rrb := if l.rot then (c.rrb + 31) % 32 else c.rrb
        if l.k + 1 < l.n + l.s then { c with rrb := rrb, pc := l.first, loops := { l with k := l.k + 1 } :: outer }
        else Core.fallThrough { c with rrb := rrb, loops := outer } n fuel

/-- A taken branch: loops whose body does not hold the target end (R137, R142). (DEDUCED, log entry 44). -/
def Core.jump (c : Core) (n : Nat) : Core :=
  { c with pc := n, loops := c.loops.filter fun l => decide (l.first ≤ n) && decide (n < l.first + l.len) }

/-- The next index after a bundle of the body at `pc` has issued without a taken branch. -/
def Core.next (c : Core) : Core := c.fallThrough (c.pc + 1) 3

/-- LOOP (R142, R143): the loop starts with its first iteration, or, for n = 0, issue continues after the body. (DEDUCED, log
entries 45, 46). -/
def Core.startLoop (c : Core) (b : Bundle) : Core :=
  let n := (c.gVal b.creg).v
  let len := bits b.cimm 5 0 + 1
  let first := c.pc + 1
  if n = 0 then c.fallThrough (first + len) 3
  else
    let c := if c.tag = some first then c else { c with tag := some first, cache := [] }
    { c with pc := first
             loops := { first := first, len := len, n := n, s := bits b.cimm 9 7, rot := bit b.cimm 6, k := 0 } :: c.loops }

/-- The bundle is captured in the loop cache during the first iteration of the innermost loop (R143). -/
def Core.captureBundle (c : Core) (w : Nat) : Core :=
  match c.loops.head? with
  | none => c
  | some l =>
    if c.tag = some l.first ∧ l.k = 0 ∧ l.first ≤ c.pc ∧ c.pc < l.first + l.len then
      { c with cache := Tab.set 0 c.cache (c.pc - l.first) (w + 1) }
    else c

/-- HALT (R120): empty bundles until no write is in flight, then the core stops at the HALT bundle. (DEDUCED, log entry 48). -/
def State.haltCore (s : State) (g : Nat) : State :=
  (s.drainOwn g 6).modCore g fun c => { c with run := false, halted := true }

/-- RETI (R155): empty bundles until no handler write is in flight, then the main program resumes; in the main program it leaves
nothing. (DEDUCED, log entry 47). -/
def State.leaveHandler (s : State) (g : Nat) : State :=
  if (s.stall g).core.handler then
    (s.drainOwn g 6).modCore g fun c =>
      { c with handler := false, loops := c.savedLoops, savedLoops := [], pc := c.savedPc, mainSinceReti := false }
  else s.modCore g Core.next

/-- The control operation of an issuing bundle takes effect (R136). -/
def State.control (s : State) (g : Nat) (b : Bundle) : State :=
  let c := (s.stall g).core
  let (slot, gen) := ((s.stall g).run).getD (0, 0)
  let next (s : State) : State := s.modCore g Core.next
  match b.ctrl with
  | some .br | some .bz | some .bnz | some .bltz => if c.taken b then s.modCore g fun c => c.jump b.cimm else next s
  | some .loop => s.modCore g fun c => c.startLoop b
  | some .waitt => next (s.modStall g fun st => st.takeCount slot true (bits b.cimm 11 0))
  | some .pub =>
    let s := s.modCore g fun c => { c with sb := c.sbStage }
    next (if bit b.cimm 12 then s.produce g slot gen (bits b.cimm 11 0) 0 else s)
  | some .trap => next (s.raise .ccoEvent g 1 0x121 g b.cimm c.pc)
  | some .reti => s.leaveHandler g
  | some .halt => s.haltCore g
  | some .none | none => next s

/-- A bundle issues: its buses are counted, what it read of LCOUNT_LO and TALLY takes effect, its writes enter flight behind those
of its context, the timer counts, and its control operation acts. (DEDUCED, log entry 250). -/
def State.issueBundle (s : State) (g w : Nat) (b : Bundle) (outs : List SlotOut) : State :=
  let c := (s.stall g).core
  let fs := c.fields b
  let bus := busWinner fs 2
  let high := s.local (g / 64) / 2 ^ 32 % 2 ^ 32
  let new := outs.filterMap fun o => o.write.map fun x => { x with left := x.left - 1 }
  let s := (s.count .ccoIssued g).count .ccoBusconf g (busLosers fs).length
  let s := s.modCore g fun c =>
    let c := if bus = some 8 then { c with lcHigh := high } else c
    let c := if bus = some 10 then { c with tally := c.tally.drop 1 } else c
    let c := { c with sat := c.sat || outs.any SlotOut.sat, mainSinceReti := c.mainSinceReti || !c.handler }
    let c := (c.captureBundle w).advance
    (c.setOwn (c.own ++ new)).tickTimer
  s.control g b

/-- The control core of stall g issues its next bundle when that holds the operation a command names. Writes that are due land
first; a bundle that must wait stays where it is; one that faults stops the core; a bundle that holds a reserved encoding has no
effect that the manual gives. (DEDUCED, log entry 8; DESIGN CHOICE, log entry 39). -/
def coreStep (g : Nat) (has : Bundle → Bool) (s : State) : Host.Outcome State Fault Refusal :=
  let c := (s.stall g).core
  if c.run = false ∨ c.halted = true ∨ s.stallUp g = false then .next s
  else
    let t := s.landDue g
    if c.plen ≤ c.pc then .next ((t.coreFault g 1 7 0).settle g)
    else
      let w := t.nextWord g
      let b := Bundle.of w
      if has b = false then .next s
      else if b.ok = false then .fault .reservedBundle
      else match t.verdict g b with
        | .wait => .next (t.settle g false)
        | .fault cause slot detail => .next ((t.coreFault g cause slot detail).settle g)
        | .go outs => .next ((t.issueBundle g w b outs).settle g)

/-- An operation stands in a slot of the bundle. -/
def Bundle.has (o : CoreOp) (b : Bundle) : Bool := b.slots.any fun x => x.op == some o
/-- A control operation stands in the bundle. -/
def Bundle.ctl (o : CtlOp) (b : Bundle) : Bool := b.ctrl == some o

/-! ### The commands: ALU slot (R131 to R133) -/

/-- NOP (R122). -/
def execNop (g : StallId) (s : State) : Host.Outcome State Fault Refusal := coreStep g (Bundle.has .nop) s
/-- ADD (R131). -/
def execAdd (g : StallId) (s : State) : Host.Outcome State Fault Refusal := coreStep g (Bundle.has .add) s
/-- SUB (R131). -/
def execSub (g : StallId) (s : State) : Host.Outcome State Fault Refusal := coreStep g (Bundle.has .sub) s
/-- ADDS (R129, R131). -/
def execAdds (g : StallId) (s : State) : Host.Outcome State Fault Refusal := coreStep g (Bundle.has .adds) s
/-- SUBS (R129, R131). -/
def execSubs (g : StallId) (s : State) : Host.Outcome State Fault Refusal := coreStep g (Bundle.has .subs) s
/-- AND (R131). -/
def execAnd (g : StallId) (s : State) : Host.Outcome State Fault Refusal := coreStep g (Bundle.has .and) s
/-- OR (R131). -/
def execOr (g : StallId) (s : State) : Host.Outcome State Fault Refusal := coreStep g (Bundle.has .or) s
/-- XOR (R131). -/
def execXor (g : StallId) (s : State) : Host.Outcome State Fault Refusal := coreStep g (Bundle.has .xor) s
/-- SHL (R131). -/
def execShl (g : StallId) (s : State) : Host.Outcome State Fault Refusal := coreStep g (Bundle.has .shl) s
/-- SHR (R131). -/
def execShr (g : StallId) (s : State) : Host.Outcome State Fault Refusal := coreStep g (Bundle.has .shr) s
/-- SRA (R131). -/
def execSra (g : StallId) (s : State) : Host.Outcome State Fault Refusal := coreStep g (Bundle.has .sra) s
/-- SRAR (R131, R132). -/
def execSrar (g : StallId) (s : State) : Host.Outcome State Fault Refusal := coreStep g (Bundle.has .srar) s
/-- MIN (R131). -/
def execMin (g : StallId) (s : State) : Host.Outcome State Fault Refusal := coreStep g (Bundle.has .min) s
/-- MAX (R131). -/
def execMax (g : StallId) (s : State) : Host.Outcome State Fault Refusal := coreStep g (Bundle.has .max) s
/-- SLT (R131). -/
def execSlt (g : StallId) (s : State) : Host.Outcome State Fault Refusal := coreStep g (Bundle.has .slt) s
/-- SEQ (R131). -/
def execSeq (g : StallId) (s : State) : Host.Outcome State Fault Refusal := coreStep g (Bundle.has .seq) s
/-- MOVI (R131). -/
def execMovi (g : StallId) (s : State) : Host.Outcome State Fault Refusal := coreStep g (Bundle.has .movi) s
/-- MOVH (R131). -/
def execMovh (g : StallId) (s : State) : Host.Outcome State Fault Refusal := coreStep g (Bundle.has .movh) s
/-- MUL (R131). -/
def execMul (g : StallId) (s : State) : Host.Outcome State Fault Refusal := coreStep g (Bundle.has .mul) s
/-- MULS (R129, R131). -/
def execMuls (g : StallId) (s : State) : Host.Outcome State Fault Refusal := coreStep g (Bundle.has .muls) s
/-- MULQ (R131, R132). -/
def execMulq (g : StallId) (s : State) : Host.Outcome State Fault Refusal := coreStep g (Bundle.has .mulq) s
/-- MAC (R128, R131). -/
def execMac (g : StallId) (s : State) : Host.Outcome State Fault Refusal := coreStep g (Bundle.has .mac) s
/-- MSU (R128, R131). -/
def execMsu (g : StallId) (s : State) : Host.Outcome State Fault Refusal := coreStep g (Bundle.has .msu) s
/-- MACW (R128, R131). -/
def execMacw (g : StallId) (s : State) : Host.Outcome State Fault Refusal := coreStep g (Bundle.has .macw) s
/-- ACLR (R131). -/
def execAclr (g : StallId) (s : State) : Host.Outcome State Fault Refusal := coreStep g (Bundle.has .aclr) s
/-- ASHR (R131, R132). -/
def execAshr (g : StallId) (s : State) : Host.Outcome State Fault Refusal := coreStep g (Bundle.has .ashr) s
/-- NORM (R131). -/
def execNorm (g : StallId) (s : State) : Host.Outcome State Fault Refusal := coreStep g (Bundle.has .norm) s
/-- NSHL (R131). -/
def execNshl (g : StallId) (s : State) : Host.Outcome State Fault Refusal := coreStep g (Bundle.has .nshl) s
/-- EXPX (R132). -/
def execExpx (g : StallId) (s : State) : Host.Outcome State Fault Refusal := coreStep g (Bundle.has .expx) s
/-- EXPE8 (R133). -/
def execExpe8 (g : StallId) (s : State) : Host.Outcome State Fault Refusal := coreStep g (Bundle.has .expe8) s

/-! ### Address slot (R134) -/

/-- AADD (R134). -/
def execAadd (g : StallId) (s : State) : Host.Outcome State Fault Refusal := coreStep g (Bundle.has .aadd) s
/-- ASUB (R134). -/
def execAsub (g : StallId) (s : State) : Host.Outcome State Fault Refusal := coreStep g (Bundle.has .asub) s
/-- AADDL (R134). -/
def execAaddl (g : StallId) (s : State) : Host.Outcome State Fault Refusal := coreStep g (Bundle.has .aaddl) s
/-- AMUL16 (R134). -/
def execAmul16 (g : StallId) (s : State) : Host.Outcome State Fault Refusal := coreStep g (Bundle.has .amul16) s
/-- AELM (R134, R147). -/
def execAelm (g : StallId) (s : State) : Host.Outcome State Fault Refusal := coreStep g (Bundle.has .aelm) s
/-- ACMPLT (R134). -/
def execAcmplt (g : StallId) (s : State) : Host.Outcome State Fault Refusal := coreStep g (Bundle.has .acmplt) s

/-! ### Move slot (R135) -/

/-- MOV (R135). -/
def execMov (g : StallId) (s : State) : Host.Outcome State Fault Refusal := coreStep g (Bundle.has .mov) s
/-- LD (R135, R152). -/
def execLd (g : StallId) (s : State) : Host.Outcome State Fault Refusal := coreStep g (Bundle.has .ld) s
/-- ST (R135, R152). -/
def execSt (g : StallId) (s : State) : Host.Outcome State Fault Refusal := coreStep g (Bundle.has .st) s
/-- TAKE (R135, R150). -/
def execTake (g : StallId) (s : State) : Host.Outcome State Fault Refusal := coreStep g (Bundle.has .take) s

/-! ### Control operations (R136) -/

/-- BR (R136, R137). -/
def execBr (g : StallId) (s : State) : Host.Outcome State Fault Refusal := coreStep g (Bundle.ctl .br) s
/-- BZ (R136, R137). -/
def execBz (g : StallId) (s : State) : Host.Outcome State Fault Refusal := coreStep g (Bundle.ctl .bz) s
/-- BNZ (R136, R137). -/
def execBnz (g : StallId) (s : State) : Host.Outcome State Fault Refusal := coreStep g (Bundle.ctl .bnz) s
/-- BLTZ (R136, R137). -/
def execBltz (g : StallId) (s : State) : Host.Outcome State Fault Refusal := coreStep g (Bundle.ctl .bltz) s
/-- LOOP (R142 to R145). -/
def execLoop (g : StallId) (s : State) : Host.Outcome State Fault Refusal := coreStep g (Bundle.ctl .loop) s
/-- WAITT (R137, R193). -/
def execWaitt (g : StallId) (s : State) : Host.Outcome State Fault Refusal := coreStep g (Bundle.ctl .waitt) s
/-- PUB (R149). -/
def execPub (g : StallId) (s : State) : Host.Outcome State Fault Refusal := coreStep g (Bundle.ctl .pub) s
/-- TRAP (R136, R157). -/
def execTrap (g : StallId) (s : State) : Host.Outcome State Fault Refusal := coreStep g (Bundle.ctl .trap) s
/-- RETI (R155). -/
def execReti (g : StallId) (s : State) : Host.Outcome State Fault Refusal := coreStep g (Bundle.ctl .reti) s
/-- HALT (R120). -/
def execHalt (g : StallId) (s : State) : Host.Outcome State Fault Refusal := coreStep g (Bundle.ctl .halt) s

/-! ### Landing, interrupts, timer -/

/-- WRITE_LAND (R138): the writes of the issuing context whose issue steps have passed land. -/
def execWriteLand (g : StallId) (s : State) : Host.Outcome State Fault Refusal :=
  .next ((s.landDue g).settle g false)

/-- INTERRUPT_ENTRY (R154): with an enabled source pending, the next main bundle and the loop state are saved, the main writes in
flight freeze, the shadow copies stand for g0 to g15, and the bundle at CCO_IVEC is next. -/
def execInterruptEntry (g : StallId) (s : State) : Host.Outcome State Fault Refusal :=
  let t := s.landDue g
  let c := (t.stall g).core
  if c.run = false ∨ c.halted = true ∨ c.handler = true ∨ c.mainSinceReti = false ∨ t.irqPend g &&& c.irqEn = 0 ∨
      s.stallUp g = false then .next s
  else .next ((t.modCore g fun c =>
    { c with savedPc := c.pc, savedLoops := c.loops, loops := [], handler := true, pc := c.ivec }).settle g false)

/-- ISSUE_TIMER_EXPIRY (R153): the issue-step timer that has reached zero makes source 6 pend and reloads itself. -/
def execIssueTimerExpiry (g : StallId) (s : State) : Host.Outcome State Fault Refusal :=
  .next (s.modCore g Core.expireTimer)

end Sys2Proof.Machine
end

