-- ==== Sys2Proof/Machine/QueueCmds.lean ====
section
/-! DEFINITION. Instruction queue and tokens (R179 to R208): job begin and commit, repeat blocks, takes, tokens and their
delivery, the stall watch, and the abandonment of a job in its stalls. -/

namespace Sys2Proof.Machine

/-! ### Job begin and commit (R117, R118, R158, R180, R184) -/

/-- The control core as a JBEGIN starts it: everything zero, the program of the instruction, the audit bits of CCO_CTL
(R117, R118, R141). -/
def Core.start (word ctl : Nat) : Core :=
  { run := true, pbase := bits word 23 0, plen := bits word 37 24, pc := bits word 50 38, ivec := bits word 63 51
    auditRaw := bit ctl 0, auditWaw := bit ctl 1, auditBus := bit ctl 2 }

/-- JBEGIN (R117, R118, R158, R180, R202): the job runs on the stall; the control core starts, the tile buffers are zero and the
watch is clear. Its token is produced when the core has started. -/
def execJbegin (g : StallId) (s : State) : Host.Outcome State Fault Refusal :=
  match s.headIs g .jbegin with
  | none => .next s
  | some e =>
    let ctl := s.reg .ccoCtl g
    let s := s.issue g e false
    let s := s.modStall g fun st =>
      { st with run := some (e.slot, e.gen), core := Core.start e.word ctl, vt := [], vtTag := [], watch := {} }
    let s := if e.prEn then s.produce g e.slot e.gen e.prTok 0 else s
    .next (s.settle g)

/-- The completion reports that a stall sends for an instance: one for each map slot with OK answers whose cell is in a bay in
service (R222, R227). -/
def State.reportsOf (s : State) (g slot gen : Nat) : List (Nat × Report) :=
  match (s.stall g).insts.find? fun i => i.slot == slot && i.gen == gen with
  | none => []
  | some i => i.map.filterMap fun m =>
      if m.count = 0 ∨ s.isFenced m.bay = true then none
      else some (m.bay, { stall := g, slot := slot, gen := gen, cell := m.cell, count := m.count, epoch := m.epoch })

/-- JCOMMIT (R184, R222): every earlier instruction has completed and the control core has halted; the completion reports are
sent. (DEDUCED, log entry 68). -/
def execJcommit (g : StallId) (s : State) : Host.Outcome State Fault Refusal :=
  match s.headIs g .jcommit with
  | none => .next s
  | some e =>
    if !(s.stall g).inflight.isEmpty || !(s.stall g).core.halted then .next s
    else
      let rs := s.reportsOf g e.slot e.gen
      let s := s.issue g e false
      let s := s.modStall g fun st => { st with commit := some (e, rs.length) }
      let s := each rs s fun s r => { s with reportQ := Tab.upd [] s.reportQ r.1 (· ++ [r.2]) }
      .next (s.settle g)

/-! ### Discards at the stall port (R197, R301) -/

/-- A token from the fabric is discarded (R197, R208). -/
def State.fabTokDrop (s : State) (g name reason : Nat) : State :=
  let job := match (s.stall g).run with | some (slot, _) => slot | none => 0x3FF
  (s.count .stlTokFabdrop g).raise .stlIqEvent g 2 0x142 g job (reason * 4096 + name)

/-- One inbound beat is discarded for a reason; a token beat counts as a discarded fabric token too (R301). (DEDUCED, log
entry 74). -/
def State.beatDrop (s : State) (g chan reason : Nat) (b : PBeat) : State :=
  let s := (s.count .fabPortDrop (g / 64)).raiseOnce .fabEvent (g / 64) 2 0x1C2 g chan reason
  if b.kind = 1 then s.fabTokDrop g (ofLe b.data % 4096) 3 else s

/-- Every inbound beat that a stall port holds is discarded. -/
def State.dropInbound (s : State) (g reason : Nat) : State :=
  let bufs := (s.stall g).inBuf
  let s := s.modStall g fun st => { st with inBuf := [] }
  each (List.range 16) s fun s c => each (Tab.get [] bufs c) s fun s b => s.beatDrop g c reason b

/-- JCOMMIT_COMPLETE (R148, R184, R222, R301): every report is applied; elements that wait in ports are discarded and counted, as
are inbound beats; the stall is free for the next JBEGIN. -/
def execJcommitComplete (g : StallId) (s : State) : Host.Outcome State Fault Refusal :=
  match (s.stall g).commit with
  | some (e, 0) =>
    if s.stallUp g = false then .next s
    else
      let ports := (s.stall g).core.ports
      let s := each (List.range 8) s fun s p =>
        let n := (ports.getD p []).length
        if n = 0 then s else (s.count .ccoAsDrop g n).raise .ccoEvent g 2 0x122 g p n
      let s := s.modStall g fun st =>
        { st with run := none, commit := none, core := { st.core with ports := List.replicate 8 [] }
                  insts := st.insts.filter fun i => !(i.slot == e.slot && i.gen == e.gen) }
      let s := s.dropInbound g 2
      let s := if (s.job e.slot).gen = e.gen then s.modJob e.slot fun j => { j with left := j.left.filter (· != g.val) } else s
      .next (s.settle g)
  | _ => .next s

/-! ### Repeat blocks (R188, R189) -/

/-- QREP issues and completes; its block waits for the first iteration (R184, R188). (DEDUCED, log entry 66). -/
def execQrep (g : StallId) (s : State) : Host.Outcome State Fault Refusal :=
  match s.headIs g .qrep with
  | none => .next s
  | some e =>
    let s := s.issue g e false
    .next ((s.modStall g fun st =>
      { st with rep := some { e := e, cond := bits e.word 23 0, len := bits e.word 29 24 + 1, left := bits e.word 47 32 + 1
                              pos := none } }).settle g)

/-- QREP_ITERATION (R188, R189): with its wait satisfied, an iteration takes its count and reads the condition word: poisoned it
faults, zero it ends the loop, else the block's first instruction becomes the head. -/
def execQrepIteration (g : StallId) (s : State) : Host.Outcome State Fault Refusal :=
  let st := s.stall g
  match st.rep with
  | none => .next s
  | some r =>
    if r.pos.isSome || st.faulted.contains (r.e.slot, r.e.gen) || !st.waitOk r.e || !s.stallUp g then .next s
    else
      let s := if r.e.wtEn then s.modStall g fun st => st.takeCount r.e.slot false r.e.wtTok else s
      let c := s.coreVal g r.cond 4
      if c.p then
        let s := s.iqFault g r.e 5 r.cond 0 0 .poisoned
        let s := if (s.job r.e.slot).gen = r.e.gen then s.modJob r.e.slot Job.metPoison else s
        .next (s.settle g)
      else if c.v = 0 then
        .next ((s.modStall g fun st => { st with rep := none, queue := st.queue.drop r.len }.refill).settle g)
      else .next ((s.modStall g fun st => { st with rep := some { r with pos := some 0 } }).settle g)

/-! ### Takes and tokens in the queue (R180, R184) -/

/-- TAKE of the queue (R180, R184, R219): with fewer than 4 outstanding, the request is sent. -/
def execTakeInstruction (g : StallId) (s : State) : Host.Outcome State Fault Refusal :=
  match s.headIs g .take with
  | none => .next s
  | some e =>
    if 4 ≤ ((s.stall g).inflight.filter fun i => i.e.op == some .take).length then .next s
    else
      let seq := (s.stall g).issues
      .next (((s.issue g e true).sendTake g true seq e.slot e.gen (bits e.word 12 0)).settle g)

/-- TPROD issues (R184). -/
def execTprod (g : StallId) (s : State) : Host.Outcome State Fault Refusal :=
  match s.headIs g .tprod with
  | none => .next s
  | some e => .next ((s.issue g e true).settle g)

/-- TPROD_PRODUCTION (R180, R187): a TPROD before which nothing issued is incomplete produces its token and completes.
(DEDUCED, log entry 67). -/
def execTprodProduction (g : StallId) (s : State) : Host.Outcome State Fault Refusal :=
  match (s.stall g).inflight with
  | i :: _ =>
    if i.e.op = some .tprod ∧ s.stallUp g = true then .next ((s.complete g i.e i.seq).settle g) else .next s
  | [] => .next s

/-- TWAIT (R193): its wait takes a count, and it is complete. -/
def execTwait (g : StallId) (s : State) : Host.Outcome State Fault Refusal :=
  match s.headIs g .twait with
  | none => .next s
  | some e => .next ((s.issue g e false).settle g)

/-! ### Delivery (R192 to R197) -/

/-- The queue entry that a fault of a job instance names on a stall: the head when it is the instance's. -/
def Stall.entryOf (st : Stall) (slot gen : Nat) : QEntry :=
  match st.headEntry with
  | some e => if e.slot = slot ∧ e.gen = gen then e else { word := 0, slot := slot, gen := gen, idx := 0 }
  | none => { word := 0, slot := slot, gen := gen, idx := 0 }

/-- Whether a job instance has been dispatched to a stall and has not completed its JCOMMIT there (R195). -/
def Stall.holds (st : Stall) (slot gen : Nat) : Bool := st.insts.any fun i => i.slot == slot && i.gen == gen

/-- A production is counted for a consumer, or found stale, or overflows and faults the consumer's stall (R192, R195, R206).
(DEDUCED, log entry 71). -/
def State.deliver (s : State) (p : TokenPkt) : State :=
  let g := p.stall.val
  let st := s.stall g
  let slot := p.slot.val
  let gen := p.gen.toNat
  let name := p.name.toNat
  if s.isFenced (g / 64) then s
  else if !st.holds slot gen then s.count .stlTokStale g
  else
    let n := st.count slot p.core name
    if 65535 ≤ n then
      (s.iqFault g (st.entryOf slot gen) 4 name (p.producer.val / 8 % 256 * 256) name .tokenOverflow (some name)).settle g false
    else (s.modStall g fun st => { st with counts := Tab.set 0 st.counts (countKey slot p.core name) (n + 1) }).settle g

/-- TOKEN (R192, R194): the packet is delivered, unless one of the same producer for the same consumer was produced before it and
is still on its way. (DEDUCED, log entry 72). -/
def execToken (p : TokenPkt) (s : State) : Host.Outcome State Fault Refusal :=
  match s.tokens.find? fun q => q.producer == p.producer && q.stall == p.stall && q.core == p.core with
  | some q => if q = p then .next (({ s with tokens := s.tokens.erase p }).deliver p) else .next s
  | none => .next s

/-- FABRIC_TOKEN_BEAT (R196, R197, R301): the token beat at the head of an inbound buffer is checked against the job's table and
handed to delivery, or discarded. Beats behind it may then move. (DEDUCED, log entry 73). -/
def execFabricTokenBeat (g : StallId) (chan : Fin 16) (s : State) : Host.Outcome State Fault Refusal :=
  let st := s.stall g
  match Tab.get [] st.inBuf chan.val with
  | [] => .next s
  | b :: rest =>
    if b.kind ≠ 1 ∨ s.stallUp g = false then .next s
    else
      let name := ofLe b.data % 4096
      let s := s.modStall g fun st => { st with inBuf := Tab.set [] st.inBuf chan.val rest }
      let s := match st.run with
        | none => s.fabTokDrop g name 3
        | some (slot, gen) =>
          match (s.job slot).token g name with
          | none => s.fabTokDrop g name 1
          | some t =>
            if t.pkind ≠ 2 ∨ t.pstall ≠ g.val then s.fabTokDrop g name 2
            else (s.count .fabPortBeats (g.val / 64)).tokenOut g slot gen t 0
      let s := each [0, 1, 2, 3] s fun s k => s.pullBeats g k 0x10000
      .next (s.settle g)

/-! ### The stall watch (R202 to R205) -/

/-- The token awaited by the head, or by the control core when the head is JCOMMIT (R208). -/
def State.awaited (s : State) (g : Nat) : Option Nat :=
  let st := s.stall g
  match st.headEntry with
  | none => none
  | some e =>
    if e.wtEn && !st.waitOk e then some e.wtTok
    else if e.op = some .jcommit ∧ s.coreWait g = 2 then some (bits (Bundle.of (s.nextWord g)).cimm 11 0)
    else none

/-- An issued exchange waits on its channel, or an instruction is held by back-pressure (R202). -/
def Stall.portWaits (st : Stall) : Bool := st.inflight.any st.portHeld

/-- Word 2 of IQ_WATCH and DEADLOCK (R208). -/
def State.watchWord (s : State) (g : Nat) : Nat :=
  let st := s.stall g
  let idx := match st.headEntry with | some e => e.idx | none => 0
  let t := s.awaited g
  idx % 65536 * 65536 + b2n (s.coreQuiet g) * 2 ^ 14 + b2n st.portWaits * 2 ^ 13 + b2n t.isSome * 4096 + t.getD 0

/-- STL_WATCH_STATE (R202). (DEDUCED, log entry 69). -/
def State.watchState (s : State) (g : Nat) : Nat :=
  let st := s.stall g
  match st.watch.frozen with
  | some v => v
  | none => match st.run with
    | none => b2n (s.coreQuiet g) * 2 ^ 60 + st.watch.episode * 2 ^ 48
    | some (slot, _) =>
      let w := s.watchWord g
      b2n st.watch.quiet * 2 ^ 63 + b2n st.watch.expired * 2 ^ 62 + bits w 13 13 * 2 ^ 61 + bits w 14 14 * 2 ^ 60
        + st.watch.episode * 2 ^ 48 + bits w 31 16 * 2 ^ 32 + slot * 2 ^ 22 + bits w 12 0

/-- WATCH_EXPIRY (R203): a stall quiet for INTERVAL periods while the watch is enabled sets EXPIRED and raises WATCH of
STL_IQ_EVENT and of BAY_EVENT. -/
def execWatchExpiry (g : StallId) (s : State) : Host.Outcome State Fault Refusal :=
  let st := s.stall g
  let ctl := s.reg .stlWatchCtl g
  match st.run with
  | none => .next s
  | some (slot, _) =>
    if st.watch.frozen.isSome || !st.watch.quiet || st.watch.expired || !bit ctl 31 || !s.stallUp g ||
        decide (s.local (g / 64) < st.watch.since + bits ctl 29 0) then .next s
    else
      let w2 := s.watchWord g
      let s := s.modStall g fun st => { st with watch := { st.watch with expired := true } }
      let s := s.raise .stlIqEvent g 1 0x141 g slot w2
      .next (s.raise .bayEvent (g / 64) 5 0x005 g slot w2)

/-- A write of STL_WATCH_CTL (R203): EN and an INTERVAL in range are taken; the measurement starts again when EN goes from 0 to 1
or an INTERVAL in range is placed. -/
def State.watchCtl (s : State) (g v : Nat) : State :=
  let old := s.reg .stlWatchCtl g
  let ok := 100000 ≤ bits v 29 0 ∧ bits v 29 0 ≤ 1000000000
  let s := s.setReg .stlWatchCtl g 0 (bits v 31 31 * 2 ^ 31 + (if ok then bits v 29 0 else bits old 29 0))
  if ok ∨ (bit v 31 = true ∧ bit old 31 = false) then
    let now := s.local (g / 64)
    s.modStall g fun st => { st with watch := { st.watch with since := now } }
  else s

/-! ### Abandonment (R205, R206, R259) -/

/-- A job instance is taken off one stall: the watch keeps its value, running units stop, its entries leave the queue.
(DEDUCED, log entry 75). -/
def State.abandonStall (s : State) (g slot gen : Nat) : State :=
  let w := s.watchState g
  let mine (e : QEntry) : Bool := e.slot == slot && e.gen == gen
  let runs := (s.stall g).run == some (slot, gen)
  let dropT (t : Option Transfer) : Option Transfer :=
    match t with
    | some x => match x.e with
      | some e => if mine e then none else t
      | none => t
    | none => none
  let s := s.modStall g fun st =>
    let st := { st with
      queue := st.queue.filter fun e => !mine e, held := st.held.filter fun e => !mine e
      inflight := st.inflight.filter fun i => !mine i.e
      engines := st.engines.map fun (en : Engine) =>
        match dropT en.active, dropT en.standby with
        | none, y => ({ active := y, standby := none } : Engine)
        | x, y => { active := x, standby := y }
      faulted := st.faulted.filter fun i => !(i == (slot, gen))
      insts := st.insts.filter fun i => !(i.slot == slot && i.gen == gen) }
    if runs then
      { st.refill with run := none, rep := none, commit := none, mrun := none, drain := false, vrun := none
                       watch := { st.watch with frozen := some w }
                       core := { st.core with run := false, main := [], hand := [], tally := [], ports := List.replicate 8 [] } }
    else st.refill
  if runs then s.dropInbound g 2 else s

/-- Firmware abandons the running instance of a job in every stall that holds it. -/
def State.abandonJob (s : State) (slot : Nat) : State :=
  let j := s.job slot
  let s := each j.stalls s fun s g => if s.isFenced (g / 64) then s else s.abandonStall g slot j.gen
  let s := each j.stalls s fun s g => s.releaseHeld g
  s.modJob slot fun j => { j with abandoned := true, left := [] }

/-- DEADLOCK of a stall: the event and its record, and the reason of the instance it runs (R205, R208). -/
def State.deadlock (s : State) (g slot gen : Nat) : State :=
  let w2 := s.watchWord g
  let tok := s.awaited g
  let s := s.raise .stlIqEvent g 3 0x143 g slot w2
  s.addReason slot gen { status := .deadlock, stall := g, idx := bits w2 31 16, tok := tok }

/-- WATCH_DECLARE (R205): firmware declares the job in a slot deadlocked in a stall, which raises DEADLOCK where it is the job that
the stall runs; once every stall that holds the job has been written, firmware abandons it. (DESIGN CHOICE, log entry 70). -/
def execWatchDeclare (_c : CoreId) (g : StallId) (v : Word32) (s : State) : Host.Outcome State Fault Refusal :=
  let slot := bits v.toNat 9 0
  if s.stallUp g = false then .next s
  else
    let s := match (s.stall g).run with
      | some (sl, gen) => if sl = slot then s.deadlock g slot gen else s
      | none => s
    let j := s.job slot
    if j.live = false ∨ g.val ∉ j.left then .next s
    else
      let s := s.modJob slot fun j => { j with declared := g.val :: j.declared.filter (· != g.val) }
      .next (if j.left.all (s.job slot).declared.contains then s.abandonJob slot else s)

end Sys2Proof.Machine
end

