-- ==== Sys2Proof/Machine/Fabric.lean ====
section
/-! DEFINITION. Programmable fabric (R284 to R306): clocks, block memories and queue controllers, stall ports, NoC endpoints, and
the isolation of a paddock (R327, R328). What the configured logic drives into a hard site at a command is an operand of it. -/

namespace Sys2Proof.Machine

/-! ### Clocks (R288 to R291) -/

/-- FAB_PLL with its cause (R288, R290, R297, R306). -/
def State.pllEvent (s : State) (b w1 cause : Nat) : State := s.raiseOnce .fabEvent b 0 0x1C0 b w1 cause

/-- The stall ports of a bay that a network clocks. -/
def State.portsOn (s : State) (b i : Nat) : List Nat :=
  (List.range 64).filter fun g => portNet ((s.pad (b * 8 + g / 8)).site (448 + g % 8)) == i && decide (2 ≤ (s.pad (b * 8 + g / 8)).state)

/-- The rate checks of a network after its source or its PLL has changed: cause 3 above 800 MHz, cause 4 above 500 MHz for a stall
port it clocks (R290, R297). (DEDUCED, log entry 115). -/
def State.rateCheck (s : State) (b i : Nat) : State :=
  let src := bits (s.reg .fabGclk b i) 4 0
  let s := if s.outputOver b src 800 then s.pllEvent b (i * 256 + (src - 1) / 4) 3 else s
  if s.outputOver b src 500 then each (s.portsOn b i) s fun s g => s.pllEvent b (i * 256 + g) 4 else s

/-- The networks of a bay fed from PLL n. -/
def State.netsOf (s : State) (b n : Nat) : List Nat :=
  (List.range 16).filter fun i =>
    let src := bits (s.reg .fabGclk b i) 4 0
    decide (1 ≤ src) && decide (src ≤ 16) && (src - 1) / 4 == n

/-- A PLL's registers change: it restarts, and its outputs stop until it locks (R289). -/
def State.pllWrite (s : State) (b n : Nat) (div : Bool) (v : Nat) : State :=
  let s := s.rwWrite ⟨if div then .fabPllDiv else .fabPllCfg, b, n, 0⟩ v
  let s := s.modFab b fun f => { f with lock := f.lock.set n false }
  each (s.netsOf b n) s fun s i => s.rateCheck b i

/-- FAB_PLL_WRITE (R289, R297): a secure write of FAB_PLL_CFG n, or of FAB_PLL_DIV n. -/
def execFabPllWrite (_c : CoreId) (b : BayId) (n : UnitId) (div : Bool) (v : Word32) (s : State) :
    Host.Outcome State Fault Refusal := .next (s.pllWrite b n div v.toNat)

/-- PLL_LOCK (R288): an enabled PLL locks and its outputs start. -/
def execPllLock (b : BayId) (n : UnitId) (s : State) : Host.Outcome State Fault Refusal :=
  if bit (s.reg .fabPllCfg b n) 31 = false ∨ s.isFenced b = true then .next s
  else
    let s := s.modFab b fun f => { f with lock := f.lock.set n true }
    .next (each (s.netsOf b n) s fun s i => s.rateCheck b i)

/-- PLL_LOCK_TIMEOUT (R288): an enabled PLL has not locked within 100 µs. -/
def execPllLockTimeout (b : BayId) (n : UnitId) (s : State) : Host.Outcome State Fault Refusal :=
  if bit (s.reg .fabPllCfg b n) 31 = false ∨ (s.fab b).lock.getD n.val false = true ∨ s.isFenced b = true then .next s
  else .next (s.pllEvent b n 2)

/-- PLL_LOSS_OF_LOCK (R288): a locked PLL loses lock and stops its outputs. -/
def execPllLossOfLock (b : BayId) (n : UnitId) (s : State) : Host.Outcome State Fault Refusal :=
  if (s.fab b).lock.getD n.val false = false ∨ s.isFenced b = true then .next s
  else .next ((s.modFab b fun f => { f with lock := f.lock.set n.val false }).pllEvent b n 1)

/-- A write of FAB_GCLK i. -/
def State.gclkWrite (s : State) (b i v : Nat) : State := (s.rwWrite ⟨.fabGclk, b, i, 0⟩ v).rateCheck b i

/-- GCLK_SELECT (R290, R297): a secure write of FAB_GCLK i changes the source of network i. -/
def execGclkSelect (_c : CoreId) (b : BayId) (i : Fin 16) (v : Word32) (s : State) : Host.Outcome State Fault Refusal :=
  .next (s.gclkWrite b i v.toNat)

/-- SLEEP_INPUT (R291, R328): paddock i div 2 drives the SLEEP input of network i; an isolated paddock's is clamped to 0. -/
def execSleepInput (b : BayId) (i : Fin 16) (level : Bool) (s : State) : Host.Outcome State Fault Refusal :=
  if s.gates (b.val * 8 + i.val / 2) = false then .next s
  else .next (s.modFab b fun f => { f with sleep := Tab.set false f.sleep i.val level })

/-- FABRIC_INTERRUPT_LINE (R304, R328): paddock k div 2 drives interrupt line k; an isolated paddock's is clamped to 0. -/
def execFabricInterruptLine (b : BayId) (k : Fin 16) (level : Bool) (s : State) : Host.Outcome State Fault Refusal :=
  if s.gates (b.val * 8 + k.val / 2) = false then .next s
  else .next (s.modFab b fun f => { f with irq := Tab.set false f.irq k.val level })

/-! ### Block memories (R292 to R295) -/

/-- What a fabric port receives. -/
def State.toFabric (s : State) (data : List Byte) (poison : Bool) : State := { s with said := some (.fabric data poison) }

/-- A list of bytes of exactly n. (DESIGN CHOICE, log entry 121). -/
def fitBytes (n : Nat) (bs : List Byte) : List Byte := (bs ++ List.replicate (n - bs.length) 0).take n

/-- The tagged bytes of the window that the block's port A wrote last. -/
def State.heldA (s : State) (b j : Nat) : List (Byte × Bool) :=
  let w := Tab.get (0, 0) (s.fab b).winA j
  (s.read (blockByte b j w.1) w.2).zip (readTags s.memTag (blockByte b j w.1) w.2)

/-- What a write of port B leaves where it falls in the access window of port A's last write and the ports share a network: port A's
values win (R294). -/
def State.keepA (s : State) (b j : Nat) (held : List (Byte × Bool)) : State :=
  s.writeTagged (blockByte b j (Tab.get (0, 0) (s.fab b).winA j).1) held

/-- A write of one fabric port (R293, R294). (DEDUCED, log entry 265). -/
def State.portWrite (s : State) (b j : Nat) (portB : Bool) (off : Nat) (data : List Byte) (poison window : Bool) : State :=
  let v := s.blockSite b j
  let s' := s.write (blockByte b j off) data poison
  if portB = false then s'.modFab b fun f => { f with winA := Tab.set (0, 0) f.winA j (off, data.length) }
  else if window = true ∧ siteNet v false = siteNet v true then s'.keepA b j (s.heldA b j)
  else s'

/-- RAM_PORT_ACCESS (R293, R294): a fabric port of a RAM-mode block reads, or writes and reads the old contents, with the poison tags of
the bytes. Writes need the paddock's write enables (R330). -/
def execRamPortAccess (b : BayId) (block : Fin 3584) (portB : Bool) (op : RamOp) (s : State) : Host.Outcome State Fault Refusal :=
  let p := b.val * 8 + block.val / 448
  let v := s.blockSite b block
  if s.gates p = false ∨ siteQueue v = true ∨ s.netRuns b (siteNet v portB) = false then .next s
  else
    let w := siteWidth v portB
    let s := if portB then s.busyB b block else s
    match op with
    | .read a =>
      let x := blockByte b block (a * w % 16384)
      .next (s.toFabric (s.read x w) (s.poisoned x w))
    | .write a data poison window =>
      let x := blockByte b block (a * w % 16384)
      let s' := s.toFabric (s.read x w) (s.poisoned x w)
      .next (if (s.pad p).wen then s'.portWrite b block portB (a * w % 16384) (fitBytes w data) poison window else s')

/-- The NoC reaches one line of a block: a read is answered, a write stored, or in QUEUE mode ignored with cause 3 (R295,
R296). (DEDUCED, log entry 120). -/
def State.blockLine (s : State) (b j line : Nat) (wr : Option (List Byte)) : State :=
  let x := blockByte b j (line * 64)
  match wr with
  | none => { s with said := some (.line x (s.read x 64) (s.poisoned x 64)) }
  | some data =>
    if siteQueue (s.blockSite b j) then s.fabQerr b j 3 else s.write x (fitBytes 64 data) false

/-- BLOCK_NOC_ACCESS (R295): one port-B cycle in which a NoC access waits. It is served when port B's enable is low, when its
network is stopped or the paddock not released, or after 16 cycles in a row with the enable high, and B_HOLD is then high. -/
def execBlockNocAccess (b : BayId) (block : Fin 3584) (line : Fin 256) (wr : Option (List Byte)) (portBEnable : Bool) (s : State) :
    Host.Outcome State Fault Refusal :=
  let p := b.val * 8 + block.val / 448
  let v := s.blockSite b block
  if s.isFenced b then .next s
  else if s.gates p = false ∨ s.netRuns b (siteNet v true) = false ∨ portBEnable = false then
    .next ((s.modFab b fun f => { f with busy := Tab.set 0 f.busy block.val 0 }).serveB b block |>.blockLine b block line wr)
  else if 16 ≤ Tab.get 0 (s.fab b).busy block.val then .next ((s.serveB b block).blockLine b block line wr)
  else .next (s.busyB b block)

/-! ### Queue controllers (R296) -/

def State.fabQueue (s : State) (b j : Nat) : FabQueue := Tab.get {} (s.fab b).queues j
def State.setQueue (s : State) (b j : Nat) (q : FabQueue) : State :=
  s.modFab b fun f => { f with queues := Tab.set {} f.queues j q }

/-- The outputs EMPTY, AEMPTY, FULL and AFULL of a queue. -/
def State.queueFlags (s : State) (b j : Nat) : Bool × Bool × Bool × Bool :=
  let v := s.blockSite b j
  let n := (s.fabQueue b j).n
  (n == 0, decide (n ≤ siteAE v), n == siteDepth v, decide (siteAF v ≤ n))

/-- A queue controller that works: its paddock is released and the port's network runs. -/
def State.queueOn (s : State) (b j : Nat) (portB : Bool) : Bool :=
  let v := s.blockSite b j
  siteQueue v && (s.pad (b * 8 + j / 448)).state == 4 && s.gates (b * 8 + j / 448) && s.netRuns b (siteNet v portB)

/-- QUEUE_PUSH (R296): an entry enters the queue with its tags; one that finds it full is discarded, with OVERRUN and cause 1. -/
def execQueuePush (b : BayId) (block : Fin 3584) (data : List Byte) (poison : Bool) (s : State) : Host.Outcome State Fault Refusal :=
  if s.queueOn b block false = false then .next s
  else
    let v := s.blockSite b block
    let q := s.fabQueue b block
    if siteDepth v ≤ q.n then .next ((s.setQueue b block { q with over_ := true }).fabQerr b block 1)
    else
      let w := siteQWidth v
      let x := blockByte b block ((q.rd + q.n) % siteDepth v * w)
      .next ((s.write x (fitBytes w data) poison).setQueue b block { q with n := q.n + 1 })

/-- QUEUE_POP (R296): the oldest entry is returned with its POISON; an empty queue returns zero, with UNDERRUN and cause 2. -/
def execQueuePop (b : BayId) (block : Fin 3584) (s : State) : Host.Outcome State Fault Refusal :=
  if s.queueOn b block true = false then .next s
  else
    let v := s.blockSite b block
    let w := siteQWidth v
    let q := s.fabQueue b block
    let s := s.busyB b block
    if q.n = 0 then
      .next (((s.setQueue b block { q with under := true }).fabQerr b block 2).toFabric (List.replicate w 0) false)
    else
      let x := blockByte b block (q.rd * w)
      let s := s.toFabric (s.read x w) (s.poisoned x w)
      .next (s.setQueue b block { q with rd := (q.rd + 1) % siteDepth v, n := q.n - 1 })

/-- RST_Q (R296): the queue is emptied, OVERRUN and UNDERRUN clear. -/
def execRstQ (b : BayId) (block : Fin 3584) (s : State) : Host.Outcome State Fault Refusal :=
  if s.queueOn b block false = false then .next s else .next (s.setQueue b block {})

/-! ### Stall ports (R297 to R302) -/

/-- The paddock and the configuration of the stall port of stall g. -/
def portPad (g : Nat) : Nat := g / 64 * 8 + g % 64 / 8
def State.portSite (s : State) (g : Nat) : Nat := (s.pad (portPad g)).site (448 + g % 8)

/-- The port of stall g moves beats: its paddock's gates are open, its network runs, and its PLL output is not above 500 MHz
(R297, R302). -/
def State.portMoves (s : State) (g : Nat) : Bool :=
  let i := portNet (s.portSite g)
  s.gates (portPad g) && s.netRuns (g / 64) i && !s.outputOver (g / 64) (bits (s.reg .fabGclk (g / 64) i) 4 0) 500

/-- A beat of an exchange has left: the transfer counts it, and is done with its last one. -/
def Stall.beatSent (st : Stall) (b : OBeat) : Stall :=
  { st with engines := st.engines.map fun (en : Engine) =>
      match en.active with
      | some t =>
        if t.opc = opFxch ∧ t.seq = b.seq ∧ t.dir = 0 then
          { en with active := some { t with beats := t.beats + 1, lines := t.lines + 1, done := t.done || b.last } }
        else en
      | none => en }

/-- The engine whose transfer a beat belongs to. -/
def Stall.beatEngine (st : Stall) (b : OBeat) : Option Nat :=
  (List.range 4).find? fun k => match (st.engine k).active with
    | some t => t.opc == opFxch && t.seq == b.seq && t.dir == 0
    | none => false

/-- OUTBOUND_BEAT (R298, R300, R302): the beat that the port presents, the oldest produced, moves when READY of its channel is
high. The last beat of an exchange lets it complete. (DEDUCED, log entry 117). -/
def execOutboundBeat (g : StallId) (ready : BitVec 16) (s : State) : Host.Outcome State Fault Refusal :=
  match (s.stall g).out with
  | [] => .next s
  | b :: rest =>
    if s.portMoves g = false ∨ bit ready.toNat b.chan = false then .next s
    else
      let s := (s.count .fabPortBeats (g.val / 64)).toFabric b.data b.poison
      let s := if b.kind = 0 then (match (s.stall g).beatEngine b with
        | some k => s.count .strLines g 1 k
        | none => s) else s
      let s := s.modStall g fun st => { st with out := rest }
      .next ((if b.kind = 0 then s.modStall g fun st => st.beatSent b else s).settle g)

/-- INBOUND_BEAT (R298, R301): a beat from the fabric is discarded while no job runs or when its kind is reserved; else it enters
its channel's buffer, unless READY is low because the buffer is full. A waiting exchange takes data beats at once. FAB_PORT_BEATS counts
a beat when it is taken out of the buffer, so that a discarded one does not count. (DEDUCED, log entry 118). -/
def execInboundBeat (g : StallId) (beat : Beat) (s : State) : Host.Outcome State Fault Refusal :=
  if s.portMoves g = false then .next s
  else
    let x : PBeat := { kind := beat.kind.val, poison := beat.poison, data := fitBytes 64 beat.data }
    let c := beat.chan.val
    if (s.stall g).run = none then .next (s.beatDrop g c 1 x)
    else if 16 ≤ (Tab.get [] (s.stall g).inBuf c).length then .next s
    else if 2 ≤ x.kind then .next (s.beatDrop g c 4 x)
    else
      let s := s.modStall g fun st => { st with inBuf := Tab.upd [] st.inBuf c (· ++ [x]) }
      let s := each [0, 1, 2, 3] s fun s k => s.pullBeats g k 0x10000
      .next (s.settle g)

/-! ### NoC endpoints (R303, R355, R356) -/

def State.fabEnd (s : State) (b e : Nat) : FabEnd := Tab.get {} (s.fab b).ends e
def State.setEnd (s : State) (b e : Nat) (x : FabEnd) : State := s.modFab b fun f => { f with ends := Tab.set {} f.ends e x }

/-- The configuration of endpoint e of bay b. -/
def State.endSite (s : State) (b e : Nat) : Nat := (s.pad (b * 8 + e / 8)).site (456 + e % 8)

/-- A tag that none of a source's outstanding packets to one destination bears: the free value where it is one, else the lowest. -/
def State.newTag (s : State) (src dest : Nat) : BitVec 10 :=
  let used := (s.net.sentTo src dest ++ (Tab.get [] s.net.waiting src)).map fun p => p.f.tag
  let t := BitVec.ofNat 10 (s.freeVal 10)
  if used.contains t then
    match (List.range 1024).find? fun i => !used.contains (BitVec.ofNat 10 i) with
    | some i => BitVec.ofNat 10 i
    | none => t
  else t

/-- ENDPOINT_FLIT (R355): a released paddock hands a flit to its endpoint: an MSG to a fabric endpoint or to the Selay cores is
sent, with SRC, TAG, RETRY and the route fields filled; any other is discarded with reason BAD_OP. (DEDUCED, log entry 122). -/
def execEndpointFlit (b : BayId) (ep : Fin 64) (f : Flit) (s : State) : Host.Outcome State Fault Refusal :=
  let p := b.val * 8 + ep.val / 8
  if s.gates p = false ∨ (s.pad p).state ≠ 4 ∨ s.netRuns b (portNet (s.endSite b ep)) = false then .next s
  else
    let src := addrOf b.val 2 ep.val
    let dest := f.dest.toNat
    if f.op ≠ 6 ∨ !(dest == addrOf 32 3 1 || (addrKind dest == 2 && addrBay dest != 32)) then
      .next (s.netDiscard b (routerS (homeRouter src)) 6 f)
    else
      let tag := s.newTag src dest
      let m : Flit := { dest := f.dest, src := BitVec.ofNat 16 src, op := 6, pfx := false, pall := false, retry := false
                        deadline := f.deadline, tag := tag, phase := false, line := 0, wpx := 0, wpy := 0
                        payload := fitBytes 64 f.payload }
      .next (s.takeFree.send { f := m })

/-- ENDPOINT_DELIVERY (R303, R355): the oldest packet that an endpoint holds goes to the fabric while its network runs; a
wake-on-packet endpoint waits for DOMAIN_READY to have been high for 2 consecutive cycles. A delivered MSG is answered ACK. An endpoint
whose address is link-bound delivers nothing (R378). -/
def execEndpointDelivery (b : BayId) (ep : Fin 64) (domainReady : Nat) (s : State) : Host.Outcome State Fault Refusal :=
  let p := b.val * 8 + ep.val / 8
  let v := s.endSite b ep
  match (s.fabEnd b ep).hold with
  | [] => .next s
  | f :: rest =>
    if (s.linkBound (addrOf b.val 2 ep.val)).isSome = true ∨ s.gates p = false ∨ (s.pad p).state ≠ 4 ∨
        s.netRuns b (portNet v) = false ∨ (endWakes v = true ∧ domainReady < 2) then .next s
    else
      let s := s.setEnd b ep { hold := rest, since := s.local b }
      let s := { s with said := some (.packet f) }
      .next (if f.cls = 1 then s else s.respond f (f.answer 0x13 []))

/-- Every packet that an endpoint holds is answered NACK with a reason, and a class 1 packet discarded (R356). -/
def State.refuseHeld (s : State) (b e reason : Nat) : State :=
  let l := (s.fabEnd b e).hold
  let s := s.setEnd b e {}
  each l s fun s f => s.refuse b (routerS (homeRouter (addrOf b 2 e))) reason f

/-- WAKE_TIMEOUT (R356, R360): packets held for LIMIT periods without delivery are answered NACK WAKE_TIMEOUT, and WAKE falls. -/
def execWakeTimeout (b : BayId) (ep : Fin 64) (s : State) : Host.Outcome State Fault Refusal :=
  let x := s.fabEnd b ep
  let v := s.endSite b ep
  if x.hold = [] ∨ endWakes v = false ∨ s.isFenced b = true ∨ s.local b < x.since + bits (s.reg .nocWakeCtl b) 15 0 then .next s
  else
    let n := (x.hold.filter fun f => f.cls != 1).length
    let s := s.refuseHeld b ep 3
    .next (s.raiseOnce .nocEvent b 2 0x202 (b.val * 64 + ep.val) n (portNet v))

/-! ### Isolation (R327, R328) -/

/-- A paddock is isolated and its state becomes st: ports discard what they hold, endpoints refuse what they hold, SLEEP inputs and
interrupt lines read 0, write enables turn off, and every flip-flop and queue controller is reset to its initial value. One that is no longer
configured has no requirements and no reference digest, and the auditor drops its partial digest (R325, R334). (DEDUCED, log
entry 126). -/
def State.isolate (s : State) (p st : Nat) : State :=
  let b := p / 8
  let q := p % 8
  let s := each (List.range 8) s fun s j => s.dropInbound (b * 64 + q * 8 + j) 3
  let s := each (List.range 8) s fun s e => s.refuseHeld b (q * 8 + e) 2
  let s := s.modFab b fun f =>
    { f with sleep := Tab.set false (Tab.set false f.sleep (2 * q) false) (2 * q + 1) false
             irq := Tab.set false (Tab.set false f.irq (2 * q) false) (2 * q + 1) false
             flops := f.flops.filter fun e => e.1 / (2 * cellCount) != q
             levels := f.levels.filter fun e => e.1 / (cellCount + 1) != q
             pins := f.pins.filter fun e => e.1 / 2 != q
             winA := f.winA.filter fun e => e.1 / 448 != q
             queues := f.queues.filter fun e => e.1 / 448 != q
             busy := f.busy.filter fun e => e.1 / 448 != q
             hold := f.hold.filter fun e => e.1 / 448 != q }
  let s := if 2 ≤ st then s else s.modCfg fun c => { c with
    audits := Tab.upd {} c.audits b fun a => if a.pad = q then { a with whole := false } else a }
  s.modPad p fun x => if 2 ≤ st then { x with state := st, wen := false }
    else { x with state := st, wen := false, nets := [], plls := [], digest := [], sites := [] }

end Sys2Proof.Machine
end

