-- ==== Sys2Proof/Machine/Configuration.lean ====
section
/-! DEFINITION. Configuration with Chouk streams (R307 to R338): sessions, the loader and its checks, the clock plan, release, the
auditor and the configuration fingerprint. -/

namespace Sys2Proof.Machine

/-! ### Reading the stream (R307 to R311) -/

/-- n bytes of the stream from an offset, and whether the read succeeds: it fails on poison, on a place that does not answer, and
without the CXL link (check 12 of R320). -/
def State.streamRead (s : State) (l : Load) (off n : Nat) : List Byte × Bool :=
  let a := l.addr + off
  if l.host then (s.hread a n, s.hostUp && !(readTags s.hostTag a n).any id)
  else
    let b := a / 0x1800000000
    (s.read a n, decide (a + n ≤ 0x30000000000) && !s.isFenced b && !s.isFenced ((a + n - 1) / 0x1800000000) && !s.poisoned a n)

/-- The host-memory lines that the loader reads for n bytes of its stream are counted. -/
def State.loaderLines (s : State) (l : Load) (n : Nat) : State :=
  if l.host && s.hostUp then s.cacheLines false (ceilDiv n 64) else s

/-- A little-endian field of bytes. -/
def field (bs : List Byte) (off n : Nat) : Nat := ofLe ((bs.drop off).take n)

/-- Every byte of a span is zero. -/
def zeros (bs : List Byte) (off n : Nat) : Bool := ((bs.drop off).take n).all (· == 0)

/-- A region entry from its 128 bytes (R310). -/
def Region.of (bs : List Byte) : Region :=
  { pad := field bs 0 2, ffirst := field bs 4 2, flast := field bs 6 2, mfirst := field bs 8 2, mlast := field bs 10 2
    mem := bit (field bs 12 1) 0, digest := (bs.drop 16).take 48
    nets := (List.range 16).map fun i => field bs (64 + i) 1
    plls := (List.range 4).map fun n => (field bs (80 + 8 * n) 4, field bs (84 + 8 * n) 4)
    rsv := !zeros bs 2 2 || field bs 12 1 / 2 != 0 || !zeros bs 13 3 || !zeros bs 112 16 }

/-- The PLL n that a region or paddock requires: its CFG word has EN set. -/
def needPll (plls : List (Nat × Nat)) (n : Nat) : Option (Nat × Nat) :=
  match plls[n]? with
  | some w => if bit w.1 31 then some (w.1 / 2 ^ 19 * 2 ^ 19, w.2) else none
  | none => none

/-- The source of network i that a region or paddock requires. -/
def needNet (nets : List Nat) (i : Nat) : Option Nat :=
  match nets[i]? with
  | some 0 => none
  | x => x

/-! ### Checks 1 to 8 (R320, R325) -/

/-- Check 2: the form of header and manifest header. -/
def formOk (h m : List Byte) (len : Nat) : Bool :=
  let mlen := field h 8 4
  let nblk := field h 12 4
  let nreg := field m 20 2
  field h 0 4 == 0x4B4F4843 && field h 4 2 == 1 && zeros h 7 1 && zeros h 16 48 && zeros m 22 42
    && decide (1 ≤ nreg) && decide (nreg ≤ 256) && decide (1 ≤ nblk) && decide (nblk ≤ 57344) && nblk == field m 8 4
    && mlen == 64 + 128 * nreg && len == 256 + mlen + 65616 * nblk

/-- A key slot is valid: programmed, and not revoked (R460). -/
def FuseSlot.valid (f : FuseSlot) : Bool := f.set && !f.rev

/-- The key that KEYSRC names, as 32 bytes (R462, R463). -/
def State.chosenKey (s : State) (keysrc : Nat) : Option (List Byte) :=
  if keysrc = 0 then (if (s.fuse 5).valid then some (leBytes 32 (s.fuse 5).val) else none)
  else s.sec.bkey.map fun k => leBytes 32 k

/-- The owner key digest in force, and the minimum SVN (R464). -/
def State.ownerDigest (s : State) : Option (List Byte) × Nat :=
  let d (k : Nat) : Option (List Byte) := if (s.fuse k).valid then some (leBytes 48 (s.fuse k).val) else none
  let min_ := (s.fuse 7).val
  match s.lc with
  | 1 => (d 2, 0)
  | 4 => (d 2, 0)
  | 2 => ((d 4).orElse fun _ => d 2, min_)
  | 3 => (d 4, min_)
  | _ => (none, 0)

/-- Check 6 for one region. -/
def Region.ok (r : Region) : Bool :=
  !r.rsv && decide (r.pad < 256) && decide (r.ffirst ≤ r.flast) && decide (r.flast < 14336)
    && (if r.mem then decide (r.mfirst ≤ r.mlast) && decide (r.mlast < 448) else r.mfirst == 0 && r.mlast == 0)

/-- No two of a list are the same. -/
def distinct : List Nat → Bool
  | [] => true
  | a :: t => !t.contains a && distinct t

/-- The paddocks of a bay, other than targets, whose requirements stand (R325). -/
def State.standing (s : State) (b : Nat) (targets : List Nat) : List Pad :=
  ((List.range 8).filter fun q => !targets.contains (b * 8 + q) && decide (2 ≤ (s.pad (b * 8 + q)).state)).map fun q => s.pad (b * 8 + q)

/-- Two requirements agree when both stand. -/
def agree {α : Type} [BEq α] (x y : Option α) : Bool :=
  match x, y with
  | some a, some b => a == b
  | _, _ => true

/-- A PLL's words as they stand, and whether it runs. -/
def State.pllWords (s : State) (b n : Nat) : Nat × Nat := (s.reg .fabPllCfg b n, s.reg .fabPllDiv b n)
def State.pllRuns (s : State) (b n : Nat) : Bool := bit (s.reg .fabPllCfg b n) 31 && (s.fab b).lock.getD n false

/-- A paddock requires a network that PLL n feeds. -/
def Pad.feeds (x : Pad) (n : Nat) : Bool :=
  (List.range 16).any fun i => match needNet x.nets i with
    | some src => decide (1 ≤ src) && decide (src ≤ 16) && (src - 1) / 4 == n
    | none => false

/-- Check 8 for one region: the words of each PLL, the source of each network, and their agreement with other regions and
paddocks of the bay (R325). A network whose PLL the region does not require needs that PLL running with the words that any other region or
paddock requires. A PLL that feeds a network of another paddock keeps its words (R329). (DEDUCED, log entry 130). -/
def State.planOk (s : State) (rs : List Region) (r : Region) : Bool :=
  let b := r.pad / 8
  let standing := s.standing b (rs.map Region.pad)
  let others := (rs.filter fun x => x.pad / 8 == b).map (fun x => (x.nets, x.plls)) ++ standing.map fun x => (x.nets, x.plls)
  let pllOk := (List.range 4).all fun n => match needPll r.plls n with
    | none => true
    | some (c, d) =>
      let m := bits c 25 19
      let nd := bits c 28 26 + 1
      decide (12 ≤ m) && decide (m ≤ 96) && bits c 30 29 != 3
        && ((List.range 4).all fun k => bits d (8 * k + 7) (8 * k) != 0)
        && (bits c 30 29 != 0 || (decide (1200 * nd ≤ 100 * m) && decide (100 * m ≤ 2400 * nd)))
  let netOk := (List.range 16).all fun i => match needNet r.nets i with
    | none => true
    | some src =>
      if 16 < src then decide (src ≤ 26)
      else
        let n := (src - 1) / 4
        let w := match needPll r.plls n with
          | some w => some w
          | none =>
            if s.pllRuns b n && others.all fun o => agree (needPll o.2 n) (some (s.pllWords b n)) then some (s.pllWords b n) else none
        match w with
        | none => false
        | some (c, d) =>
          let k := (src - 1) % 4
          bits c 30 29 != 0 || decide (100 * bits c 25 19 ≤ 800 * (bits c 28 26 + 1) * (bits d (8 * k + 7) (8 * k) + 1))
  pllOk && netOk && others.all fun o =>
    ((List.range 16).all fun i => agree (needNet r.nets i) (needNet o.1 i)) &&
    ((List.range 4).all fun n => agree (needPll r.plls n) (needPll o.2 n) &&
      (!standing.any (fun x => x.feeds n) || agree (needPll r.plls n) (some (s.pllWords b n))))

/-- The check that fails, with the load as the manifest gives it; none when all eight pass. A failed read is check 12.
(DEDUCED, log entry 124). -/
def State.loadChecks (s : State) (l : Load) : Option Nat × Load :=
  let (h, okH) := s.streamRead l 0 64
  let (m, okM) := s.streamRead l 160 64
  let mlen := field h 8 4
  let keysrc := field h 6 1
  let nreg := field m 20 2
  let (all, okA) := s.streamRead l 0 (256 + Nat.min mlen 32832)
  let key := (all.drop 64).take 96
  let sig := (all.drop (160 + mlen)).take 96
  let rs := (List.range nreg).map fun i => Region.of ((all.drop (224 + 128 * i)).take 128)
  let (digest, minSvn) := s.ownerDigest
  let l' := { l with mlen := mlen, nblk := field h 12 4, keysrc := keysrc, id := m.take 8, epoch := field m 16 4, regions := rs }
  let bad :=
    if s.cfg.session = 1 ∨ s.cfg.session = 3 then some 1
    else if !okH || !okM then some 12
    else if !formOk h m l.len then some 2
    else if 2 ≤ keysrc ∨ keysrc ≠ b2n s.sec.straps.keysrc ∨ s.chosenKey keysrc = none then some 3
    else if !okA then some 12
    else if digest ≠ some (sha384 key) ∨ ecdsaVerify key (sha384 (all.take (160 + mlen))) sig = false then some 4
    else if field m 12 4 < minSvn then some 5
    else if !rs.all Region.ok || !distinct (rs.map Region.pad)
        || (s.cfg.session == 0 && rs.any fun r => (s.pad r.pad).state != 0)
        || (s.cfg.session == 2 && rs.map Region.pad != [l.target]) then some 6
    else if rs.any fun r => s.isFenced (r.pad / 8) then some 7
    else if !rs.all (s.planOk rs) then some 8
    else none
  (bad, l')

/-! ### How a load ends (R315, R318, R321, R322, R338) -/

/-- The session fails: CFG_ERRPIN.SESSION is set (R315, R318). -/
def State.sessionFail (s : State) : State :=
  if s.cfg.session = 0 then (s.modCfg fun c => { c with session := 3 }).setFld .cfgErrpin 0 0 0 0 1 else s

/-- The result of a load, and CFG_FAIL: `pad` is the first region's paddock once check 6 has been reached. -/
def State.loadFail (s : State) (l : Load) (code blk : Nat) (pad : Option Nat) : State :=
  let s := s.setReg .cfgLoadResult 0 0 (code * 2 ^ 28 + pad.getD l.target % 256 * 2 ^ 16 + (if blk = 0xFFFFFFFF then 0xFFFF else blk % 2 ^ 16))
  let s := s.raiseOnce .cfgLevent 0 1 0x1E4 code blk (pad.getD 0xFFFFFFFF)
  (s.modCfg fun c => { c with load := none }).sessionFail

/-- The last block INDEX handled by a load. -/
def Load.block (l : Load) : Nat := if l.next = 0 then 0xFFFFFFFF else l.next - 1

/-- A load aborts: every target is UNCONFIGURED and stays isolated (R322). -/
def State.loadAbort (s : State) (l : Load) (code blk : Nat) : State :=
  let s := each l.regions s fun s r =>
    let s := s.isolate r.pad 0
    let s := s.modPad r.pad fun x => { x with status := code }
    if s.pendBit .cfgPevent (r.pad / 8) 0 (r.pad % 8) then s
    else s.raise .cfgPevent (r.pad / 8) 0 0x1E0 r.pad code blk (r.pad % 8)
  s.loadFail l code blk (l.regions.head?.map Region.pad)

/-- The state after the load is l. -/
def State.setLoad (s : State) (l : Load) : State := s.modCfg fun c => { c with load := some l }

/-- A write of OP 1 to CFG_LOAD_CMD while the loader is idle starts a load (R319). -/
def State.startLoad (s : State) (v : Nat) : State :=
  if s.cfg.load.isSome then s
  else
    let src := s.reg .cfgLoadSrc 0
    s.setLoad { host := bit src 63, addr := bits src 51 0, len := s.reg .cfgLoadLen 0, target := bits v 7 0 }

/-- LOAD (R319). -/
def execLoad (m : Master) (v : Word32) (s : State) : Host.Outcome State Fault Refusal :=
  .next (s.guarded m ⟨.cfgLoadCmd, 0, 0, 0⟩ true fun s => if bits v.toNat 31 30 = 1 then s.startLoad v.toNat else s)

/-- The frames of a paddock and the block memories of it outside a span are zero (R321). -/
def State.clearPad (s : State) (p : Nat) (keep : Nat → Bool) : State :=
  let s := s.modCfg fun c => { c with frames := Tab.set [] c.frames p [] }
  each ((List.range 448).filter fun m => !keep m) s fun s m =>
    s.discard (blockAddr (p / 8) ((448 * (p % 8) + m) * 16384)) 16384

/-- A paddock is isolated, cleared and unconfigured (R326). -/
def State.isolateClear (s : State) (p : Nat) : State := (s.isolate p 0).clearPad p fun _ => false

/-- OP 2 of CFG_LOAD_CMD while the loader is idle (R319, R326). -/
def State.opIsolate (s : State) (v : Nat) : State :=
  let p := bits v 7 0
  if s.cfg.load.isSome || s.isFenced (p / 8) then s else s.isolateClear p

/-- ISOLATE_AND_CLEAR (R326). -/
def execIsolateAndClear (m : Master) (v : Word32) (s : State) : Host.Outcome State Fault Refusal :=
  .next (s.guarded m ⟨.cfgLoadCmd, 0, 0, 0⟩ true fun s => if bits v.toNat 31 30 = 2 then s.opIsolate v.toNat else s)

/-! ### Sessions (R315 to R318) -/

/-- END moves an OPEN session to ENDED, or with SOLO to RUNNING, and releases DONE (R315 to R317). -/
def State.endSession (s : State) : State :=
  if s.cfg.session ≠ 0 then s
  else
    let now := s.local 32
    s.modCfg fun c =>
      { c with session := if bit (s.reg .cfgCtl 0) 31 then 2 else 1
               doneOut := true
               ended := now
               doneRun := 0
               doneHigh := false
               waited := false }

/-- RESTART opens an OPEN or FAILED session again: a load that runs ends, every paddock is isolated and cleared, and CFG_EPOCH and
CFG_ERRPIN.SESSION are 0 (R315). (DEDUCED, log entry 125). -/
def State.restartSession (s : State) : State :=
  if s.cfg.session ≠ 0 ∧ s.cfg.session ≠ 3 then s
  else
    let s := match s.cfg.load with
      | some l => if l.stage = 1 then s.loadFail l 15 0xFFFFFFFF none else s.loadAbort l 15 l.block
      | none => s
    let s := each (List.range 256) s fun s p => if s.isFenced (p / 8) then s else s.isolateClear p
    let s := (s.setFld .cfgErrpin 0 0 0 0 0).setReg .cfgEpoch 0 0 0
    s.modCfg fun c => { c with session := 0 }

/-- END (R315). -/
def execSessionEnd (m : Master) (v : Word32) (s : State) : Host.Outcome State Fault Refusal :=
  .next (s.guarded m ⟨.cfgSession, 0, 0, 0⟩ true fun s => if bits v.toNat 1 0 = 1 then s.endSession else s)

/-- RESTART (R315). -/
def execRestart (m : Master) (v : Word32) (s : State) : Host.Outcome State Fault Refusal :=
  .next (s.guarded m ⟨.cfgSession, 0, 0, 0⟩ true fun s => if bits v.toNat 1 0 = 2 then s.restartSession else s)

/-- DONE_SEEN (R317): one sample of the DONE line in ENDED; the 16th consecutive high one starts the session. (DEDUCED, log
entry 131). -/
def execDoneSeen (s : State) (high : Bool := true) : Host.Outcome State Fault Refusal :=
  if s.cfg.session ≠ 1 then .next s
  else
    let n := if high then s.cfg.doneRun + 1 else 0
    .next (s.modCfg fun c =>
      { c with session := (if 16 ≤ n then 2 else 1), doneIn := high, doneRun := n, doneHigh := c.doneHigh || high })

/-- CFG_DONEWAIT (R317): DONE has stayed low for DONE_WAIT ms after ENDED began; raised once. -/
def execCfgDonewait (s : State) : Host.Outcome State Fault Refusal :=
  let w := bits (s.reg .cfgCtl 0) 15 0
  if s.cfg.session ≠ 1 ∨ w = 0 ∨ s.cfg.doneHigh = true ∨ s.cfg.waited = true ∨ s.local 32 < s.cfg.ended + w * 100000 then .next s
  else .next ((s.modCfg fun c => { c with waited := true }).raiseOnce .cfgLevent 0 2 0x1E5 w 0 0)

/-! ### The loader (R319 to R325) -/

/-- LOADER_CHECKS (R320, R321): checks 1 to 8. A failure is a refusal and writes nothing; else the targets are isolated.
(DEDUCED, log entry 123). -/
def execLoaderChecks (s : State) : Host.Outcome State Fault Refusal :=
  match s.cfg.load with
  | none => .next s
  | some l =>
    if l.stage ≠ 1 then .next s
    else match s.loadChecks l with
      | (some code, l') =>
        let s := s.loaderLines l (256 + Nat.min 32832 (field (s.streamRead l 0 64).1 8 4))
        let reached := code == 6 || code == 7 || code == 8
        let s := if code == 7 || code == 8 then each l'.regions s fun s r => s.modPad r.pad fun x => { x with status := code } else s
        .next (s.loadFail l code 0xFFFFFFFF (if reached then l'.regions.head?.map Region.pad else none))
      | (none, l') =>
        let s := s.loaderLines l (256 + l'.mlen)
        let s := each l'.regions s fun s r => s.isolate r.pad 1
        .next (s.setLoad { l' with stage := 2 })

/-- LOADER_CLEAR_DONE (R321): the targets' frames, and their block memories but those the region may write, are zero. -/
def execLoaderClearDone (s : State) : Host.Outcome State Fault Refusal :=
  match s.cfg.load with
  | none => .next s
  | some l =>
    if l.stage ≠ 2 then .next s
    else
      let s := each l.regions s fun s r => s.clearPad r.pad fun m => r.mem && decide (r.mfirst ≤ m) && decide (m ≤ r.mlast)
      .next (s.setLoad { l with stage := 3 })

/-- Check 9 on a block header. -/
def blockFormOk (l : Load) (h : List Byte) : Bool :=
  let kind := field h 4 1
  let flags := field h 5 1
  let count := field h 10 2
  field h 0 4 == l.next && decide (kind ≤ 1) && flags == b2n (l.next + 1 == l.nblk) && zeros h 12 52
    && decide (1 ≤ count) && decide (count ≤ (if kind = 0 then 128 else 4))

/-- Check 11 on a block header. -/
def blockRangeOk (l : Load) (h : List Byte) : Bool :=
  let first := field h 8 2
  let last := first + field h 10 2 - 1
  match l.regions.find? fun r => r.pad == field h 6 2 with
  | none => false
  | some r =>
    if field h 4 1 = 0 then decide (r.ffirst ≤ first) && decide (last ≤ r.flast)
    else r.mem && decide (r.mfirst ≤ first) && decide (last ≤ r.mlast)

/-- The plaintext of a block goes to its frames or block memories (R311). -/
def State.writeBlock (s : State) (h plain : List Byte) : State :=
  let p := field h 6 2
  let first := field h 8 2
  let count := field h 10 2
  if field h 4 1 = 0 then
    s.modCfg fun c => { c with frames := Tab.upd [] c.frames p fun t => writeBytes t (first * 512) (plain.take (count * 512)) }
  else s.write (blockAddr (p / 8) ((448 * (p % 8) + first) * 16384)) (plain.take (count * 16384)) false

/-- PAYLOAD_BLOCK (R320, R321): the next block passes checks 12 and 9 to 11 and is written, or the load aborts. -/
def execPayloadBlock (s : State) : Host.Outcome State Fault Refusal :=
  match s.cfg.load with
  | none => .next s
  | some l =>
    if l.stage ≠ 3 then .next s
    else
      let (bs, ok) := s.streamRead l (256 + l.mlen + l.next * 65616) 65616
      let s := s.loaderLines l 65616
      let h := bs.take 64
      if !ok then .next (s.loadAbort l 12 l.next)
      else if !blockFormOk l h then .next (s.loadAbort l 9 l.next)
      else match (s.chosenKey l.keysrc).bind fun k =>
          gcmOpen k (l.id ++ h.take 4) h ((bs.drop 64).take 65536) (bs.drop 65600) with
        | none => .next (s.loadAbort l 10 l.next)
        | some plain =>
          if !blockRangeOk l h then .next (s.loadAbort l 11 l.next)
          else
            let s := s.writeBlock h plain
            .next (s.setLoad { l with next := l.next + 1, stage := if l.next + 1 = l.nblk then 4 else 3 })

/-- The paddock digest (R313). -/
def State.padDigest (s : State) (p : Nat) : List Byte :=
  sha384 (leBytes 2 p ++ List.replicate 6 0 ++ readBytes (Tab.get [] s.cfg.frames p) 0 (14336 * 512))

/-- The clock plan is applied: only what is not already set is written, and the PLLs started are remembered (R325). (DEDUCED,
log entry 129). -/
def State.applyPlan (s : State) (l : Load) : State :=
  let wants := l.regions.flatMap fun r => (List.range 4).filterMap fun n => (needPll r.plls n).map fun w => (r.pad / 8, n, w)
  let (s, started) := wants.foldl (fun (acc : State × List (Nat × Nat)) x =>
    let (s, st) := acc
    let (b, n, w) := x
    let s1 := if s.reg .fabPllCfg b n = w.1 then s else s.pllWrite b n false w.1
    let s2 := if s.reg .fabPllDiv b n = w.2 then s1 else s1.pllWrite b n true w.2
    if s.reg .fabPllCfg b n = w.1 ∧ s.reg .fabPllDiv b n = w.2 then acc else (s2, st ++ [(b, n)])) (s, [])
  let s := each l.regions s fun s r => each (List.range 16) s fun s i => match needNet r.nets i with
    | none => s
    | some src => if bits (s.reg .fabGclk (r.pad / 8) i) 4 0 = src then s else s.gclkWrite (r.pad / 8) i src
  let now := s.local 32
  s.setLoad { l with stage := 5, started := started, since := now }

/-- LOADER_DIGEST (R320, R321): the digest of every target is compared, and the clock plan applied. -/
def execLoaderDigest (s : State) : Host.Outcome State Fault Refusal :=
  match s.cfg.load with
  | none => .next s
  | some l =>
    if l.stage ≠ 4 then .next s
    else if l.regions.any fun r => s.padDigest r.pad != r.digest then .next (s.loadAbort l 13 l.block)
    else .next (s.applyPlan l)

/-- CLOCK_PLAN_LOCK (R320, R325): every PLL that the plan started has locked; one that has not within 100 µs aborts the load. -/
def execClockPlanLock (s : State) : Host.Outcome State Fault Refusal :=
  match s.cfg.load with
  | none => .next s
  | some l =>
    if l.stage ≠ 5 ∨ l.started = [] then .next s
    else if l.started.all fun x => (s.fab x.1).lock.getD x.2 false then .next (s.setLoad { l with started := [] })
    else if l.since + 10000 ≤ s.local 32 then .next (s.loadAbort l 14 l.block)
    else .next s

/-- One target at commit (R321). -/
def State.commitPad (s : State) (r : Region) : State :=
  let frames := Tab.get [] s.cfg.frames r.pad
  let sites := (List.range 466).foldl (fun t i => Tab.set 0 t i (Config.siteBits frames i).toNat) []
  s.modPad r.pad fun x =>
    { x with state := 2, status := 0, digest := r.digest, nets := r.nets
             plls := r.plls.map fun w => if bit w.1 31 then w else (0, 0), sites := sites }

/-- LOAD_COMMIT (R321): reference digests, LOADED, requirements and CFG_EPOCH are set, and LOAD is raised. -/
def execLoadCommit (s : State) : Host.Outcome State Fault Refusal :=
  match s.cfg.load with
  | none => .next s
  | some l =>
    if l.stage ≠ 5 ∨ l.started ≠ [] then .next s
    else
      let s := each l.regions s State.commitPad
      let s := s.setReg .cfgEpoch 0 0 l.epoch
      let first := (l.regions.head?.map Region.pad).getD l.target
      let s := s.setReg .cfgLoadResult 0 0 (first % 256 * 2 ^ 16 + (l.nblk - 1) % 2 ^ 16)
      let s := s.modCfg fun c => { c with load := none }
      let s := each l.regions s fun s r => each (List.range 16) s fun s i => s.rateCheck (r.pad / 8) i
      .next (s.raiseOnce .cfgLevent 0 0 0x1E3 l.regions.length l.epoch l.nblk)

/-! ### Release (R330, R331) -/

/-- GATES_OPEN (R330, R475): a LOADED paddock of a RUNNING session opens its gate cells, unless EXTEST holds the pins.
(DEDUCED, log entry 127). -/
def execGatesOpen (p : PaddockId) (s : State) : Host.Outcome State Fault Refusal :=
  if (s.pad p).state ≠ 2 ∨ s.cfg.session ≠ 2 ∨ s.isFenced (p.val / 8) = true ∨ s.board.ir = 0 then .next s
  else
    let r := s.reg .cfgRel 0
    let now := s.local (p.val / 8)
    .next (s.modPad p fun x => { x with state := 3, wen := false, t1 := bits r 15 0, t2 := bits r 31 16, at_ := now })

/-- WRITE_ENABLES_ON (R330): T1 periods after the gates opened. -/
def execWriteEnablesOn (p : PaddockId) (s : State) : Host.Outcome State Fault Refusal :=
  let x := s.pad p
  let now := s.local (p.val / 8)
  if x.state ≠ 3 ∨ x.wen = true ∨ s.isFenced (p.val / 8) = true ∨ now < x.at_ + Nat.max 1 x.t1 then .next s
  else .next (s.modPad p fun x => { x with wen := true, at_ := now })

/-- RESETS_RELEASED (R330): T2 periods after the write enables; the paddock is RELEASED. -/
def execResetsReleased (p : PaddockId) (s : State) : Host.Outcome State Fault Refusal :=
  let x := s.pad p
  let now := s.local (p.val / 8)
  if x.state ≠ 3 ∨ x.wen = false ∨ s.isFenced (p.val / 8) = true ∨ now < x.at_ + Nat.max 1 x.t2 then .next s
  else
    let s := s.modPad p fun x => { x with state := 4 }
    if s.pendBit .cfgPevent (p.val / 8) 2 (p.val % 8) then .next s
    else .next (s.raise .cfgPevent (p.val / 8) 2 0x1E2 p.val (s.reg .cfgEpoch 0) 0 (p.val % 8))

/-! ### The auditor (R333 to R335) -/

/-- CONFIG_DRIFT in a paddock (R335). -/
def State.drift (s : State) (p : Nat) (digest : List Byte) : State :=
  let b := p / 8
  let w1 := s.reg .cfgAuditRounds b
  let w2 := field digest 0 4
  let s := s.isolate p 0
  let s := if s.pendBit .cfgPevent b 1 (p % 8) then s else s.raise .cfgPevent b 1 0x1E1 p w1 w2 (p % 8)
  (s.raise .bayEvent b 6 0x006 p w1 w2).setFld .cfgErrpin 0 0 1 1 1

/-- AUDIT_STEP (R333, R334): the auditor of a bay hashes one frame; at the last frame of a paddock that has been configured
throughout, the digest is compared. `votes` counts the state copies corrected. (DEDUCED, log entry 128). -/
def execAuditStep (b : BayId) (votes : Nat) (s : State) : Host.Outcome State Fault Refusal :=
  if s.isFenced b then .next s
  else
    let s := s.count .cfgAuditVote b votes
    let a : Auditor := Tab.get {} s.cfg.audits b.val
    let p := b.val * 8 + a.pad
    let here := decide (2 ≤ (s.pad p).state)
    let whole := here && (a.frame == 0 || a.whole)
    if a.frame + 1 < 14336 then
      .next (s.modCfg fun c => { c with audits := Tab.set {} c.audits b.val { a with frame := a.frame + 1, whole := whole } })
    else
      let s := s.modCfg fun c => { c with audits := Tab.set {} c.audits b.val { pad := (a.pad + 1) % 8, frame := 0, whole := false } }
      let s := if whole then
          let d := s.padDigest p
          if d = (s.pad p).digest then s else s.drift p d
        else s
      .next (if a.pad = 7 then s.count .cfgAuditRounds b else s)

/-! ### The configuration fingerprint (R336, R337) -/

/-- Bytes that a register array holds, four to a word. -/
def State.regBytes (s : State) (r : Rn) (n : Nat) : List Byte := (List.range n).flatMap fun w => leBytes 4 (s.reg r 0 w)

/-- The state after bytes are placed in a register array. -/
def State.setRegBytes (s : State) (r : Rn) (bs : List Byte) : State :=
  each (List.range (bs.length / 4)) s fun s w => s.setReg r 0 w (field bs (4 * w) 4)

/-- The bytes that the fingerprint covers (R336). -/
def State.fpBytes (s : State) : List Byte :=
  ((List.range 256).flatMap fun p =>
    let x := s.pad p
    if 2 ≤ x.state then fitBytes 48 x.digest else List.replicate 48 0)
  ++ s.regBytes .secFwDigest 12 ++ s.regBytes .cfgSpdigest 12 ++ leBytes 4 (s.reg .cfgEpoch 0)

/-- FINGERPRINT_RECOMPUTE (R337): the fingerprint and FP64; a change of FP64 raises FPCHG. (DEDUCED, log entry 132). -/
def execFingerprintRecompute (s : State) : Host.Outcome State Fault Refusal :=
  let d := sha384 s.fpBytes
  let old := s.reg .cfgFp64 0
  let new := field d 0 8
  let s := (s.setRegBytes .cfgFp d).setReg .cfgFp64 0 0 new
  if new = old then .next s else .next (s.raiseOnce .cfgLevent 0 3 0x1E6 (new % 2 ^ 32) (new / 2 ^ 32) (s.reg .cfgEpoch 0))

/-- A write of CFG_ERRPIN: a 0 clears DRIFT, a 1 is ignored (R318). -/
def State.errpinWrite (s : State) (v : Nat) : State := if bit v 1 then s else s.setFld .cfgErrpin 0 0 1 1 0

/-- ERRPIN_WRITE (R318). -/
def execErrpinWrite (m : Master) (v : Word32) (s : State) : Host.Outcome State Fault Refusal :=
  .next (s.guarded m ⟨.cfgErrpin, 0, 0, 0⟩ true fun s => s.errpinWrite v.toNat)

end Sys2Proof.Machine
end

