-- ==== Sys2Proof/Machine/LineCode.lean ====
section
/-! DEFINITION. The coding of a Zilsa lane: codewords and their slots (R364, R365), the code RS(544,514) (R364), scrambling (R366),
markers (R367), stuffing (R368), and the frames of compatibility mode (R370). -/

namespace Sys2Proof.Machine

/-- The bits of a number, most significant first. -/
def msbBits (w v : Nat) : List Bool := (List.range w).map fun i => bit v (w - 1 - i)

/-- The bits of a number, least significant first. -/
def lsbBits (w v : Nat) : List Bool := (List.range w).map fun i => bit v i

/-- The number that bits hold, most significant first. -/
def ofMsb (bs : List Bool) : Nat := bs.foldl (fun a b => 2 * a + b2n b) 0

/-- The number that bits hold, least significant first. -/
def ofLsb (bs : List Bool) : Nat := bs.foldr (fun b a => b2n b + 2 * a) 0

/-- n groups of w elements from the front of a list. -/
def groupsOf {α : Type} (w : Nat) : Nat → List α → List (List α)
  | 0, _ => []
  | n + 1, l => l.take w :: groupsOf w n (l.drop w)

/-! ### The field of 1024 elements and the code (R364) -/

/-- x times an element, modulo x^10 + x^3 + 1. (PRESUMED, log entry 150). -/
def gfTwice (a : Nat) : Nat := if 512 ≤ a then (2 * a) ^^^ 0x409 else 2 * a

/-- Some steps of a product. -/
def gfMulSteps : Nat → Nat → Nat → Nat → Nat
  | 0, _, _, acc => acc
  | n + 1, a, b, acc => gfMulSteps n (gfTwice a) (b / 2) (if b % 2 = 1 then acc ^^^ a else acc)

/-- The product of two elements. -/
def gfMul (a b : Nat) : Nat := gfMulSteps 10 a b 0

/-- The product of the n squares a^2, a^4, … -/
def gfSquares : Nat → Nat → Nat
  | 0, _ => 1
  | n + 1, a => let q := gfMul a a; gfMul q (gfSquares n q)

/-- The inverse of an element: its power 1022. -/
def gfInv (a : Nat) : Nat := gfSquares 9 a

/-- The powers of the root 2, from an element on. -/
def gfPowers : Nat → Nat → List Nat
  | 0, _ => []
  | n + 1, a => a :: gfPowers n (gfTwice a)

/-- A polynomial, highest power first, at a point. -/
def gfEval (p : List Nat) (x : Nat) : Nat := p.foldl (fun acc c => gfMul acc x ^^^ c) 0

/-- The generator: the product of x − 2^i for i from 0 to 29, highest power first. -/
def rsGenerator : List Nat :=
  (gfPowers 30 1).foldl (fun p r => List.zipWith (· ^^^ ·) (p ++ [0]) (0 :: p.map (gfMul r))) [1]

/-- The parity symbols of message symbols. -/
def rsParity (msg : List Nat) : List Nat :=
  let g := rsGenerator.drop 1
  msg.foldl (fun reg m =>
    let fb := (reg.headD 0) ^^^ m
    List.zipWith (fun r c => r ^^^ gfMul fb c) (reg.drop 1 ++ [0]) g) (List.replicate 30 0)

/-- The 544 symbols of a codeword. -/
def rsEncode (msg : List Nat) : List Nat := msg ++ rsParity msg

/-- The 30 syndromes of received symbols. -/
def syndromes (w : List Nat) : List Nat := (gfPowers 30 1).map (gfEval w)

/-- The running values of the search for the error locator; polynomials stand lowest power first. -/
structure Locator where
  c : List Nat := [1]
  b : List Nat := [1]
  len : Nat := 0
  gap : Nat := 1
  last : Nat := 1

/-- p minus f times q shifted up by n. -/
def polySub (p : List Nat) (f n : Nat) (q : List Nat) : List Nat :=
  let s := List.replicate n 0 ++ q.map (gfMul f)
  let m := Nat.max p.length s.length
  List.zipWith (· ^^^ ·) (p ++ List.replicate (m - p.length) 0) (s ++ List.replicate (m - s.length) 0)

/-- One syndrome more, given with those before it, newest first. -/
def Locator.step (l : Locator) (n : Nat) (seen : List Nat) : Locator :=
  let d := (List.zipWith gfMul l.c seen).foldl (· ^^^ ·) 0
  if d = 0 then { l with gap := l.gap + 1 }
  else
    let c := polySub l.c (gfMul d (gfInv l.last)) l.gap l.b
    if 2 * l.len ≤ n then { c := c, b := l.c, len := n + 1 - l.len, gap := 1, last := d }
    else { l with c := c, gap := l.gap + 1 }

/-- The locator that syndromes give. -/
def locatorOf (ss : List Nat) : Locator :=
  (ss.foldl (fun (acc : Locator × Nat × List Nat) x =>
    let seen := x :: acc.2.2
    (acc.1.step acc.2.1 seen, acc.2.1 + 1, seen)) ({}, 0, [])).1

/-- The odd terms of a polynomial, as its derivative has them. -/
def derivative : List Nat → List Nat
  | _ :: b :: t => b :: 0 :: derivative t
  | _ => []

/-- The correction of each of the 544 symbols. -/
def rsErrors (ss : List Nat) : List Nat :=
  let lam := (locatorOf ss).c
  let om := (List.range 30).map fun i => ((List.range (i + 1)).map fun j => gfMul (lam.getD j 0) (ss.getD (i - j) 0)).foldl (· ^^^ ·) 0
  let dl := derivative lam
  (gfPowers 544 ((gfPowers 481 1).getLastD 1)).map fun inv =>
    if gfEval lam.reverse inv = 0 then gfMul (gfInv inv) (gfMul (gfEval om.reverse inv) (gfInv (gfEval dl.reverse inv))) else 0

/-- The symbols of the nearest codeword and the number corrected; none when more than 15 are in error. -/
def rsDecode (w : List Nat) : Option (List Nat × Nat) :=
  let ss := syndromes w
  if ss.all (· == 0) then some (w, 0)
  else
    let es := rsErrors ss
    let r := List.zipWith (· ^^^ ·) w es
    let n := (es.filter (· != 0)).length
    if n ≤ 15 ∧ (syndromes r).all (· == 0) = true then some (r, n) else none

/-! ### Codewords (R364, R365) -/

/-- The header and slots of a codeword. A slot has its type, 0 to 3, and 80 bytes. -/
structure Codeword where
  unnum  : Bool
  stridx : Nat
  slots  : List (Nat × List Byte)
deriving DecidableEq, Repr

/-- The header of a codeword. -/
def Codeword.header (c : Codeword) : Nat :=
  ((List.range 8).foldl (fun a i => a + (c.slots.getD i (0, [])).1 % 4 * 4 ^ i) 0) + b2n c.unnum * 2 ^ 16 + c.stridx % 8 * 2 ^ 17

/-- 80 bytes that begin with the given ones. -/
def padSlot (bs : List Byte) : List Byte := (bs ++ List.replicate (80 - bs.length) 0).take 80

/-- The 640 slot bytes. -/
def Codeword.body (c : Codeword) : List Byte := (List.range 8).flatMap fun i => padSlot (c.slots.getD i (0, [])).2

/-- The codeword of a header and slot bytes. -/
def Codeword.of (header : Nat) (body : List Byte) : Codeword :=
  { unnum := bit header 16, stridx := bits header 19 17
    slots := ((groupsOf 80 8 body).zip (List.range 8)).map fun x => (bits header (2 * x.2 + 1) (2 * x.2), x.1) }

/-- The 514 message symbols. -/
def Codeword.message (c : Codeword) : List Nat :=
  (groupsOf 10 514 (msbBits 20 c.header ++ c.body.flatMap fun b => msbBits 8 b.toNat)).map ofMsb

/-- The codeword of 514 message symbols. -/
def Codeword.ofMessage (m : List Nat) : Codeword :=
  let bs := m.flatMap (msbBits 10)
  Codeword.of (ofMsb (bs.take 20)) ((groupsOf 8 640 (bs.drop 20)).map fun g => BitVec.ofNat 8 (ofMsb g))

/-! ### Scrambling, PAM4 and stuffing (R365 to R368) -/

/-- The register of the scrambler at the first bit of a codeword. -/
def scramblerSeed (lane idx : Nat) : Nat := 0x40000000 ||| (lane * 2 ^ 20) ||| (idx % 2 ^ 20)

/-- Bits XORed with the scrambler's output. -/
def scramble (reg : Nat) : List Bool → List Bool
  | [] => []
  | b :: bs => (b != bit reg 30) :: scramble ((2 * reg + b2n (bit reg 30 != bit reg 27)) % 2 ^ 31) bs

/-- A bit pair as a PAM4 level. -/
def pamLevel (hi lo : Bool) : Fin 4 := if hi then (if lo then 2 else 3) else (if lo then 1 else 0)

/-- Bits as PAM4 symbols. -/
def pamOf : List Bool → List (Fin 4)
  | a :: b :: t => pamLevel a b :: pamOf t
  | _ => []

/-- PAM4 symbols as bits. -/
def pamBits (l : List (Fin 4)) : List Bool := l.flatMap fun x => [decide (2 ≤ x.val), x == 1 || x == 2]

/-- The marker of a physical lane. -/
def markerOf (lane : Nat) : List (Fin 4) :=
  let n : Fin 4 := Fin.ofNat 4 (bits lane 3 2)
  let m : Fin 4 := Fin.ofNat 4 (bits lane 1 0)
  [3, 0, 3, 0, 0, 3, 3, 0, 3, 0, 0, 3, n, 3 - n, m, 3 - m]

/-- Symbols with a stuff symbol after every 6th identical one; `lvl` and `n` are the run so far. -/
def stuff (lvl : Fin 4) (n : Nat) : List (Fin 4) → List (Fin 4)
  | [] => if 6 ≤ n then [3 - lvl] else []
  | x :: t =>
    if 6 ≤ n then
      let z := 3 - lvl
      z :: x :: (if x = z then stuff x 2 t else stuff x 1 t)
    else x :: (if x = lvl then stuff x (n + 1) t else stuff x 1 t)

/-- Symbols without the one that follows every 6th identical one, and how many of those were not the stuff symbol. -/
def unstuff (lvl : Fin 4) (n : Nat) : List (Fin 4) → List (Fin 4) × Nat
  | [] => ([], 0)
  | x :: t =>
    if 6 ≤ n then
      let (r, e) := unstuff x 1 t
      (r, e + b2n (x != 3 - lvl))
    else
      let (r, e) := unstuff x (if x = lvl then n + 1 else 1) t
      (x :: r, e)

/-- The line of RS symbols, with the marker before it. -/
def lineOf (phys lane idx : Nat) (symbols : List Nat) : List (Fin 4) :=
  let m := markerOf phys
  m ++ stuff (m.getLastD 0) 1 (pamOf (scramble (scramblerSeed lane idx) (symbols.flatMap (msbBits 10))))

/-- What a receiver makes of a line that begins with its marker: the codeword and the symbols corrected, or none, and the stuff
errors. (DEDUCED, log entry 152). -/
def receiveLine (lane idx : Nat) (line : List (Fin 4)) : Option (Codeword × Nat) × Nat :=
  let (u, errs) := unstuff ((line.take 16).getLastD 0) 1 (line.drop 16)
  let bs := scramble (scramblerSeed lane idx) (pamBits (u.take 2720))
  if bs.length < 5440 then (none, errs)
  else ((rsDecode ((groupsOf 10 544 bs).map ofMsb)).map fun x => (Codeword.ofMessage (x.1.take 514), x.2), errs)

/-! ### Compatibility mode (R370) -/

/-- The self-synchronising scrambler x^58 + x^39 + 1: bits out and the register after them. -/
def selfScramble (reg : Nat) : List Bool → List Bool × Nat
  | [] => ([], reg)
  | b :: bs =>
    let o := b != (bit reg 38 != bit reg 57)
    let (r, z) := selfScramble ((2 * reg + b2n o) % 2 ^ 58) bs
    (o :: r, z)

/-- Its inverse. -/
def selfDescramble (reg : Nat) : List Bool → List Bool × Nat
  | [] => ([], reg)
  | b :: bs =>
    let (r, z) := selfDescramble ((2 * reg + b2n b) % 2 ^ 58) bs
    ((b != (bit reg 38 != bit reg 57)) :: r, z)

/-- The bytes of the control block and of the data blocks; `bad` corrupts the CRC. -/
def Codeword.frameBytes (c : Codeword) (bad : Nat) : List Byte :=
  let h := leBytes 3 c.header
  [0x4B] ++ h ++ leBytes 4 (crc32 (h ++ c.body) ^^^ bad) ++ c.body

/-- NRZ levels of bits. -/
def nrzOf (bs : List Bool) : List (Fin 4) := bs.map fun b => if b then 1 else 0

/-- The line of a frame, and the scrambler after it. -/
def frameLine (reg bad : Nat) (c : Codeword) : List (Fin 4) × Nat :=
  let (bs, z) := selfScramble reg ((c.frameBytes bad).flatMap fun b => lsbBits 8 b.toNat)
  (((groupsOf 64 81 bs).zip (List.range 81)).flatMap fun x => nrzOf ((if x.2 = 0 then [true, false] else [false, true]) ++ x.1), z)

/-- What a receiver makes of a frame, and its descrambler after it. -/
def receiveFrame (reg : Nat) (line : List (Fin 4)) : Option Codeword × Nat :=
  let bs := line.map fun x => x != 0
  let blocks := groupsOf 66 81 bs
  let (d, z) := selfDescramble reg (blocks.flatMap (List.drop 2))
  let bytes := (groupsOf 8 648 d).map fun g => BitVec.ofNat 8 (ofLsb g)
  let h := (bytes.drop 1).take 3
  let body := bytes.drop 8
  let sync := blocks.zip (List.range 81) |>.all fun x => x.1.take 2 == (if x.2 = 0 then [true, false] else [false, true])
  if bs.length = 5346 ∧ sync = true ∧ bytes.take 1 = [0x4B] ∧ ofLe ((bytes.drop 4).take 4) = crc32 (h ++ body) then
    (some (Codeword.of (ofLe h) body), z)
  else (none, z)

end Sys2Proof.Machine
end

