-- ==== Sys2Proof/Machine/Network.lean ====
section
/-! DEFINITION. Packet network (R339 to R360): grants, checks and failed links, route commits, reads and writes at their
endpoints, answers at their sources, refusals and resends, probes and traces. -/

namespace Sys2Proof.Machine

/-! ### Probes and traces (R358, R359) -/

/-- The 32-bit key of a flit (R358). -/
def flitKey (f : Flit) : Nat :=
  let d := f.dest.toNat
  addrBay d * 2 ^ 26 + addrKind d * 2 ^ 24 + addrIdx d * 2 ^ 16 + addrBay f.src.toNat * 2 ^ 10 + f.op.toNat * 2 ^ 5
    + b2n f.retry * 16 + b2n f.pall * 8 + b2n f.phase * 4

/-- One trace record (R359). -/
def traceRecord (f : Flit) (time bay router port n : Nat) (lost : Bool) : List Byte :=
  leBytes 16 f.header ++ leBytes 8 time ++ [BitVec.ofNat 8 bay, BitVec.ofNat 8 router, BitVec.ofNat 8 (port + 16 * n),
    BitVec.ofNat 8 (b2n lost)] ++ f.payload.take 4

/-- Point n of a region traces a flit (R359): the record enters the writer, or is lost when the writer is full; with WRAP clear
tracing stops after 2^LOG2 records. -/
def State.trace (s : State) (region router port n : Nat) (f : Flit) : State :=
  let ctl := s.reg .prbTraceCtl region
  let t : Tracer := Tab.get {} s.net.tracers region
  let put (t : Tracer) (s : State) : State := s.modNet fun x => { x with tracers := Tab.set {} x.tracers region t }
  if bit ctl 31 = false ∨ t.full = true then s
  else if 16 ≤ t.recs.length then put { t with lost := true } (s.count .prbTraceLost region)
  else
    let size := 2 ^ bits ctl 4 0
    let head := s.reg .prbTraceHead region
    let r := traceRecord f (s.local region) region router port n t.lost
    let full := !bit ctl 30 && decide (size ≤ t.n + 1)
    let s := put { recs := t.recs ++ [(head, r)], lost := false, n := t.n + 1, full := full } s
    let s := s.setReg .prbTraceHead region 0 ((head + 1) % size)
    if full then s.raiseOnce .prbEvent region 0 0x220 region (t.n + 1) (bits ctl 4 0) else s

/-- A flit leaves a router, or the hub by one of its links, through a port: every probe point that watches it counts it and traces
it (R358, R359). (DEDUCED, log entry 147). -/
def State.probe (s : State) (region router port : Nat) (f : Flit) : State :=
  each (List.range 4) s fun s n =>
    let p := s.reg .prbPoint region n
    let flt := s.reg .prbFilt region n
    let here := bits p 5 0 == router && (region == 32 || bits p 10 8 == port)
    if bit p 31 && here && flitKey f &&& bits flt 63 32 == bits flt 31 0 then
      let s := s.count .prbCount region 1 n
      if bit p 30 then s.trace region router port n f else s
    else s

/-- The endpoint whose router injects a region's trace writes: system memory of its bay, or the Selay cores. -/
def traceSource (region : Nat) : Nat := addrOf region 3 1

/-- The WR packet that stores `bs` from byte o of a line on, o + bs.length at most 64: a data flit behind its prefix flit (R346). -/
def wrPacket (src dest line : Nat) (tag : BitVec 10) (deadline o : Nat) (bs : List Byte) : Sent :=
  let f : Flit := { dest := BitVec.ofNat 16 dest, src := BitVec.ofNat 16 src, op := 2, pfx := false, pall := false, retry := false,
                    deadline := BitVec.ofNat 12 deadline, tag := tag, phase := false, line := BitVec.ofNat 25 line,
                    wpx := 0, wpy := 0, payload := List.replicate o 0 ++ bs ++ List.replicate (64 - o - bs.length) 0 }
  let enables := (2 ^ bs.length - 1) * 2 ^ o
  { pre := some { f with pfx := true, payload := List.replicate 8 0 ++ leBytes 8 enables ++ List.replicate 48 0 }, f := f }

/-- One record of a region's writer goes to its ring as a WR with DEADLINE 4095 (R359). -/
def State.sendRecord (s : State) (region : Nat) (r : Nat × List Byte) : State :=
  match placeOf (s.reg .prbTraceBase region + r.1 * 32) with
  | .hbm b off =>
    let src := traceSource region
    let dest := addrOf b 1 (hbmPc off)
    let l := hbmL off
    let tag := s.newTag src dest
    s.takeFree.send (wrPacket src dest (l / 64) tag 4095 (l % 64) r.2)
  | _ => s

/-- The oldest record of a region's writer leaves it once no packet waits at the writer's source (R359). (DESIGN CHOICE, log
entry 146). -/
def State.drainTracer (s : State) (region : Nat) : State :=
  let t : Tracer := Tab.get {} s.net.tracers region
  match t.recs with
  | [] => s
  | r :: l =>
    if Tab.get [] s.net.waiting (traceSource region) = [] then
      (s.modNet fun x => { x with tracers := Tab.set {} x.tracers region { t with recs := l } }).sendRecord region r
    else s

/-- A write of PRB_TRACE_CTL; one with EN set restarts the ring at HEAD 0. -/
def State.traceCtl (s : State) (region v : Nat) : State :=
  let s := s.rwWrite ⟨.prbTraceCtl, region, 0, 0⟩ v
  if bit v 31 then
    let s := s.setReg .prbTraceHead region 0 0
    s.modNet fun x => { x with tracers := Tab.upd {} x.tracers region fun t => { t with n := 0, full := false } }
  else s

/-- TRACE_CTL_WRITE (R359): a write of PRB_TRACE_CTL. -/
def execTraceCtlWrite (m : Master) (region : Fin 33) (v : Word32) (s : State) : Host.Outcome State Fault Refusal :=
  .next (s.guarded m ⟨.prbTraceCtl, region.val, 0, 0⟩ true fun s => s.traceCtl region v.toNat)

/-! ### Links (R347) -/

/-- FLIT_CHECK_FAIL (R347): a flit that arrives at a port of a router fails its check and is replayed. After 8 consecutive failed
replays the link is declared failed: a bridge closes at both ends, a link inside a bay sets DIE. -/
def execFlitCheckFail (r : RouterId) (port : Fin 8) (s : State) : Host.Outcome State Fault Refusal :=
  let r := routerNum r
  let p := port.val
  let k := r * 8 + p
  match linkOf r p with
  | none => .next s
  | some (r', _) =>
    let b := routerBay r
    let c := routerBay r'
    if Tab.get false s.net.dead k || s.hopBlocked b c || (isBay b && s.isFenced b) then .next s
    else
      let n := Tab.get 0 s.net.fails k + 1
      if n ≤ 8 then
        let s := s.modNet fun x => { x with fails := Tab.set 0 x.fails k n }
        .next (if isBay b then s.count .nocReplay b else s)
      else
        let w1 := routerS r * 256 + p
        let s := s.modNet fun x => { x with fails := Tab.set 0 x.fails k 0 }
        let s := if isBay b then s.raiseOnce .nocEvent b 1 0x201 b w1 8 else s
        if b = c then
          let s := s.modNet fun x => { x with dead := Tab.set false x.dead k true }
          .next (if isBay b then s.raise .bayEvent b 4 0x004 1 w1 0 else s)
        else .next (s.closeBridge b c)

/-! ### Grants (R348, R349) -/

/-- A head of a virtual channel that wants an output port. -/
structure Head where
  key : Nat
  inPort : Nat
  cls : Nat
  hop : Hop
deriving DecidableEq, Repr

/-- The heads of router r's channels that want an output port. -/
def State.heads (s : State) (r port : Nat) : List Head :=
  (List.range 64).filterMap fun i =>
    match Tab.get [] s.net.vc (r * 64 + i) with
    | h :: _ => if outPort r h = port then some { key := r * 64 + i, inPort := i / 8, cls := i / 2 % 4, hop := h } else none
    | [] => none

/-- What becomes of a flit that leaves router r through a port: it is refused, lost in a failed link, reaches its endpoint, or
enters the next router's channel. -/
inductive Leave
  | refused
  | lost
  | endpoint
  | next (r' inPort : Nat)
  | nowhere
deriving DecidableEq, Repr

/-- Where a port of router r leads. (DEDUCED, log entry 137). -/
def State.leave (s : State) (r port : Nat) : Leave :=
  if port = 4 then .endpoint
  else match linkOf r port with
    | none => .nowhere
    | some (r', p') =>
      if s.hopBlocked (routerBay r) (routerBay r') then .refused
      else if Tab.get false s.net.dead (r' * 8 + p') then .lost
      else .next r' p'

/-- An endpoint has room for a flit: it holds at most 4 of each class that it has not taken up (R348). -/
def State.exitRoom (s : State) (h : Head) : Bool :=
  decide (((Tab.get [] s.net.arrived h.hop.f.dest.toNat).filter fun f => f.cls == h.cls).length < 4)

/-- A head may be granted: the port's packet is complete or is its own, and there is a credit (R343, R348). -/
def State.grantable (s : State) (r port : Nat) (h : Head) : Bool :=
  let lock := Tab.get 0 s.net.lock (r * 8 + port)
  (lock == 0 || lock == h.key + 1) &&
    (match s.leave r port with
     | .nowhere => false
     | .endpoint => s.exitRoom h
     | .refused => decide ((Tab.get [] s.net.vc (vcKey r 7 1 false)).length < 4)
     | .next r' p' => decide ((Tab.get [] s.net.vc (vcKey r' p' h.cls (h.hop.arrive r').f.phase)).length < 4)
     | _ => true)

/-- The effective deadline of a flit (R349). -/
def Hop.eff (h : Hop) : Nat := h.f.deadline.toNat - h.wait / 16

/-- The order of grants (R349): class 3, then the effective deadline, then classes 1, 2 and 0, then round-robin. -/
def Head.order (rr : Nat) (h : Head) : Nat × Nat × Nat :=
  (if h.cls = 3 then 0 else h.hop.eff + 1, (if h.cls = 0 then 3 else h.cls % 3), (h.inPort + 8 - rr) % 8)

/-- The flit at a head leaves. -/
def State.depart (s : State) (r port : Nat) (h : Head) : State :=
  let key := r * 8 + port
  let s := s.modNet fun n =>
    { n with vc := Tab.upd [] n.vc h.key (·.drop 1), rr := Tab.set 0 n.rr key ((h.inPort + 1) % 8)
             lock := Tab.set 0 n.lock key (if h.hop.f.pfx then h.key + 1 else 0) }
  match s.leave r port with
  | .refused => if h.hop.f.pfx then s else s.routerNack r h.hop.f 1
  | .lost => s
  | .nowhere => s
  | .endpoint =>
    let s := if r < 2048 then s.probe (r / 64) (r % 64) port h.hop.f else s
    s.modNet fun n => { n with arrived := Tab.upd [] n.arrived h.hop.f.dest.toNat (· ++ [h.hop.f]) }
  | .next r' p' =>
    let s := if r < 2048 then s.probe (r / 64) (r % 64) port h.hop.f else s
    let s := if r = 3072 then s.probe 32 port port h.hop.f else if r' = 3072 then s.probe 32 p' p' h.hop.f else s
    let s := s.modNet fun n => { n with fails := Tab.set 0 n.fails (r' * 8 + p') 0 }
    s.pushVc r' p' h.cls h.hop

/-- FLIT_GRANT (R349, R350, R352, R358): one network step of an output port. One flit is granted; every other that wants the port
has waited one step more. Packets that waited at their source may then enter. (DEDUCED, log entry 134). -/
def execFlitGrant (r : RouterId) (port : Fin 8) (s : State) : Host.Outcome State Fault Refusal :=
  let r := routerNum r
  let p := port.val
  if isBay (routerBay r) && s.isFenced (routerBay r) then .next s
  else
    let hs := s.heads r p
    let best := minBy (Head.order (Tab.get 0 s.net.rr (r * 8 + p))) (hs.filter (s.grantable r p))
    let waits := hs.filter fun h => some h != best
    let s := s.modNet fun n =>
      { n with vc := waits.foldl (fun t h => Tab.upd [] t h.key fun l => match l with
          | x :: rest => { x with wait := x.wait + 1 } :: rest
          | [] => []) n.vc }
    match best with
    | none => .next s
    | some h => .next (s.depart r p h).pumpAll

/-! ### Routes and resends (R350, R353) -/

/-- The staged entries of a bay take effect, and its route epoch advances (R350). -/
def State.routeCommit (s : State) (b : Nat) : State :=
  s.modNet fun n =>
    { n with route := (List.range 33).foldl (fun t d =>
               let v := s.reg .nocRoute b d
               Tab.set 0 t (b * 64 + d) (if v = (RegAt.mk .nocRoute b d 0).reset then 0 else v + 1)) n.route
             epoch := Tab.set 0 n.epoch b ((Tab.get 0 n.epoch b + 1) % 65536) }

/-- ROUTE_COMMIT (R350): a secure write of NOC_ROUTE_CMD with COMMIT. -/
def execRouteCommit (_c : CoreId) (b : BayId) (v : Word32) (s : State) : Host.Outcome State Fault Refusal :=
  .next (if bit v.toNat 0 then s.routeCommit b else s)

/-- RESEND (R353): once every earlier packet to the destination has been answered and the route epoch of the source's bay has
advanced (the hub has none), the held packets are resent with RETRY in their order; they fail when the destination's bay is
fenced. (DEDUCED, log entry 141). -/
def execResend (src dest : BitVec 16) (s : State) : Host.Outcome State Fault Refusal :=
  let a := src.toNat
  let d := dest.toNat
  let out := s.net.sentTo a d
  let b := addrBay a
  if out = [] ∨ out.all Sent.held = false ∨ (isBay b && s.isFenced b) = true then .next s
  else
    let rest := (Tab.get [] s.net.sent a).filter fun p => p.f.dest != dest
    if isBay (addrBay d) && s.isFenced (addrBay d) then
      .next ((s.modNet fun n => { n with sent := Tab.set [] n.sent a rest }).pump a)
    else if isBay b && out.any fun p => p.epoch == Tab.get 0 s.net.epoch b then .next s
    else
      let s := if isBay b then s.count .nocResend b out.length else s
      let again (p : Sent) : Sent := { pre := p.pre.map fun f => { f with retry := true }, f := { p.f with retry := true } }
      let s := s.modNet fun n =>
        { n with sent := Tab.set [] n.sent a rest, waiting := Tab.upd [] n.waiting a fun w => out.map again ++ w }
      .next (s.pump a)

/-! ### Reads and writes at their endpoints (R345, R346) -/

/-- A packet that is no MSG reaches an endpoint that does not take it. -/
def State.notTaken (s : State) (f : Flit) : State :=
  if (s.linkBound f.dest.toNat).isSome then s.noEndpoint f else s.badOp f

/-- The device physical address of the line that a packet names at its endpoint, and the bytes that exist there; none where the
endpoint holds no lines (R37, R344). -/
def lineAddr (f : Flit) : Option (Nat × Nat) :=
  let d := f.dest.toNat
  let b := addrBay d
  let o := f.line.toNat * 64
  if b = 32 then none
  else match addrKind d with
    | 0 => some (coreAddr (b * 64 + addrIdx d) o, 0xE00000)
    | 1 => some (hbmAddr b (hbmOff (addrIdx d) o), hbmLines * 64)
    | 2 => none
    | _ =>
      let i := addrIdx d
      if i = 1 then some (sysAddr b o, 0x800000)
      else if 2 ≤ i ∧ i ≤ 9 then some (blockAddr b ((i - 2) * 448 * 16384 + o), 448 * 16384)
      else none

/-- A packet's source may reach system memory: only the hub's masters may (R42). -/
def reaches (f : Flit) : Bool :=
  let d := f.dest.toNat
  !(addrKind d == 3 && addrBay d != 32 && addrIdx d == 1) || addrBay f.src.toNat == 32

/-- A line of memory behind a packet's endpoint is read (R38, R43, R345). (DEDUCED, log entry 143). -/
def State.readLine (s : State) (f : Flit) (a size : Nat) : State :=
  let s := s.takeArrived f
  if size ≤ f.line.toNat * 64 then (s.violate 3 0 a false 1).respond f (f.answer 0x10 [])
  else if !reaches f then (s.violate 3 0 a false 0).respond f (f.answer 0x10 [])
  else
    let bad := s.poisoned a 64
    s.respond f (f.answer 0x10 (if bad then [] else s.read a 64) bad)

/-- RD (R265, R345): a line read reaches its endpoint. One to a pseudo-channel enters its read queue, and the queue's command answers
it; the others are answered RDATA here. (DESIGN CHOICE, log entry 135). -/
def execRd (f : Flit) (s : State) : Host.Outcome State Fault Refusal :=
  let d := f.dest.toNat
  match s.turnedAway f with
  | some t => .next t
  | none =>
  if d = addrOf 32 3 2 then
    let a := ofLe (f.payload.take 8)
    let bad := (readTags s.hostTag a 64).any id
    if s.hostUp then .next (((s.cacheLines false).takeArrived f).respond f (f.answer 0x10 (if bad then [] else s.hread a 64) bad))
    else if s.hostWait then .next s
    else .next ((s.takeArrived f).respond f (f.answer 0x10 [] true))
  else match lineAddr f with
    | none => .next (s.notTaken f)
    | some (a, size) =>
      if addrKind d = 1 ∧ f.line.toNat < hbmLines then
        match s.hbmAskRead (addrBay d) (addrIdx d) f.line.toNat f.deadline.toNat (some f) 0 with
        | some s => .next (s.takeArrived f)
        | none => .next s
      else .next (s.readLine f a size)

/-- The byte enables and poison mask of a WR (R346). -/
def wrMasks (pfx : Option Flit) (f : Flit) : Nat × Nat :=
  match pfx with
  | some p => (field8 p 8, field8 p 16)
  | none => (2 ^ 64 - 1, if f.pall then 2 ^ 64 - 1 else 0)
where field8 (p : Flit) (o : Nat) : Nat := ofLe ((p.payload.drop o).take 8)

/-- The enabled bytes of a line, each with its tag, stored at an address. -/
def State.storeBytes (s : State) (a : Nat) (bs : List Byte) (mask pmask : Nat) : State :=
  each ((List.range 64).filter fun i => bit mask i) s fun s i =>
    s.writeByte (a + i) (if bit pmask i then 0 else bs.getD i 0) (bit pmask i)

/-- The enabled bytes of a line stored in host memory. -/
def State.hostBytes (s : State) (a : Nat) (bs : List Byte) (mask pmask : Nat) : State :=
  each ((List.range 64).filter fun i => bit mask i) s fun s i =>
    s.hwrite (a + i) [if bit pmask i then 0 else bs.getD i 0] (bit pmask i)

/-- A line of memory behind a packet's endpoint is written, and the write acknowledged (R38, R43, R296, R346). -/
def State.writeLine (s : State) (f : Flit) (a size mask pmask : Nat) : State :=
  let s := s.takeArrived f
  let s := if size ≤ f.line.toNat * 64 then s.violate 3 0 a true 1
    else if !reaches f then s.violate 3 0 a true 0
    else match placeOf a with
      | .block b off => if s.blockIsQueue b off then s.fabQerr b (off / 16384) 3 else s.storeBytes a f.payload mask pmask
      | _ => s.storeBytes a f.payload mask pmask
  s.respond f (f.answer 0x11 [])

/-- WR (R265, R345, R346): a line write, with its prefix flit when it has one, reaches its endpoint and is answered WACK; at a
pseudo-channel it enters the write queue. -/
def execWr (pfx : Option Flit) (f : Flit) (s : State) : Host.Outcome State Fault Refusal :=
  let d := f.dest.toNat
  let (mask, pmask) := wrMasks pfx f
  let s' := match pfx with
    | some p => s.takeArrived p
    | none => s
  if pfx.any s.behind then .next s
  else match s'.turnedAway f with
  | some t => .next (if s.deadEnd f || s'.behind f then s else t)
  | none =>
  if d = addrOf 32 3 2 then
    let a := match pfx with
      | some p => ofLe (p.payload.take 8)
      | none => ofLe (f.payload.take 8)
    if s.hostUp then .next ((((s'.cacheLines true).takeArrived f).hostBytes a f.payload mask pmask).respond f (f.answer 0x11 []))
    else if s.hostWait then .next s
    else .next ((s'.takeArrived f).respond f (f.answer 0x11 []))
  else match lineAddr f with
    | none => .next (s'.notTaken f)
    | some (a, size) =>
      if addrKind d = 1 ∧ f.line.toNat < hbmLines then
        match s'.hbmAskWrite (addrBay d) (addrIdx d) f.line.toNat f.deadline.toNat f.payload mask pmask with
        | some s => .next ((s.takeArrived f).respond f (f.answer 0x11 []))
        | none => .next s
      else .next (s'.writeLine f a size mask pmask)

/-! ### Answers at their sources (R345, R353, R355) -/

/-- A fabric endpoint whose paddock is not RELEASED; an attachment of a link is none (R356, R378). -/
def State.closedEnd (s : State) (f : Flit) : Bool :=
  let d := f.dest.toNat
  addrKind d == 2 && isBay (addrBay d) && (s.linkBound d).isNone && (s.pad (addrBay d * 8 + addrIdx d / 8)).state != 4

/-- What becomes of a class 1 packet before its source looks at it: none when the source takes it up. One at a paddock that is not
RELEASED is discarded (R352, R356). (DEDUCED, log entry 267). -/
def State.answerAway (s : State) (f : Flit) : Option State :=
  match s.turnedAway f with
  | some t => some t
  | none =>
    if s.closedEnd f then
      some ((s.takeArrived f).netDiscard (addrBay f.dest.toNat) (routerS (homeRouter f.dest.toNat)) 2 f)
    else none

/-- An answer of class 1 reaches its source. -/
def State.deliverAnswer (s : State) (f : Flit) : State :=
  match s.answerAway f with
  | some t => t
  | none => (s.answered f).1

/-- RDATA (R345): the read's packet is answered. -/
def execRdata (f : Flit) (s : State) : Host.Outcome State Fault Refusal := .next (s.deliverAnswer f)
/-- WACK (R345): the write's packet is answered. -/
def execWack (f : Flit) (s : State) : Host.Outcome State Fault Refusal := .next (s.deliverAnswer f)
/-- ACK (R345): the REPORT, TOKEN, MSG or MWR packet is answered. -/
def execAck (f : Flit) (s : State) : Host.Outcome State Fault Refusal := .next (s.deliverAnswer f)
/-- MDATA (R345): the register read's packet is answered. -/
def execMdata (f : Flit) (s : State) : Host.Outcome State Fault Refusal := .next (s.deliverAnswer f)

/-- NACK (R352, R353, R355): a refusal reaches the source. Reasons 1 and 5 hold the packet until it may be resent; it fails when its
destination's bay is fenced, and for every other reason. A fabric endpoint hands reasons 2 to 4 to the fabric. -/
def execNack (f : Flit) (s : State) : Host.Outcome State Fault Refusal :=
  match s.answerAway f with
  | some t => .next t
  | none =>
    let a := f.dest.toNat
    let reason := (f.payload.getD 0 0).toNat
    let mine (p : Sent) : Bool := p.f.dest == f.src && p.f.tag == f.tag
    match (Tab.get [] s.net.sent a).find? mine with
    | none => .next (s.takeArrived f)
    | some p =>
      if reason = 1 ∨ reason = 5 then
        let (s, q) := (s.takeArrived f).holdOrFail a p
        .next (s.modNet fun n =>
          { n with sent := Tab.upd [] n.sent a fun l => l.filterMap fun x => if mine x then q else some x })
      else
        let x := s.fabEnd (addrBay a) (addrIdx a)
        if addrBay a ≠ 32 ∧ addrKind a = 2 ∧ 2 ≤ reason ∧ reason ≤ 4 ∧ (s.linkBound a).isNone = true then
          if 4 ≤ x.hold.length then .next s
          else
            .next ((s.answered f).1.setEnd (addrBay a) (addrIdx a)
              { hold := x.hold ++ [f], since := if x.hold = [] then s.local (addrBay a) else x.since })
        else .next (s.answered f).1

end Sys2Proof.Machine
end

