-- ==== Sys2Proof/Machine/Links.lean ====
section
/-! DEFINITION. Zilsa links (R361 to R385): bring-up and link states, codewords and their acknowledgement, attachments,
fingerprints, the deep low-power state, and test patterns; and MSG packets at their endpoints (R355, R378, R379). Each flit and each
management frame is sent in a numbered codeword of its own, whose second slot is a CONTROL slot. -/

namespace Sys2Proof.Machine

def State.link (s : State) (k : Nat) : Link := Tab.get {} s.links k
def State.modLink (s : State) (k : Nat) (f : Link → Link) : State := { s with links := Tab.upd {} s.links k f }

/-- The bay of port k (R29). -/
def portBay (k : Nat) : Nat := 8 * k + 7

/-- The port's bay is in service. -/
def State.portUp (s : State) (k : Nat) : Bool := !s.isFenced (portBay k)

/-- An event of a port that is raised only while its bit is clear (R385). -/
def State.linkEvent (s : State) (k bit_ w1 w2 : Nat) : State := s.raiseOnce .lnkEvent (portBay k) bit_ (0x240 + bit_) k w1 w2

/-- The state after f is applied to attachment a. -/
def Link.modAtt (l : Link) (a : Nat) (f : Att → Att) : Link := { l with atts := l.atts.set a (f (l.atts.getD a {})) }

/-- The lanes that may be live: neither disabled nor in a pattern mode (R373). -/
def State.usable (s : State) (k : Nat) : Nat :=
  (List.range 16).foldl (fun m l =>
    let c := s.reg .lnkLaneCtl (portBay k) l
    if bits c 31 30 = 0 ∧ bit c 23 = false then m + 2 ^ l else m) 0

/-- A port as its registers show it: a lane that is disabled or in a pattern mode is not live (R373). (DEDUCED, log entry
269). -/
def State.linkSeen (s : State) (k : Nat) : Link := let l := s.link k; { l with live := l.live &&& s.usable k }

/-- The lanes of a mask. -/
def lanesIn (m : Nat) : Nat := ((List.range 16).filter fun l => bit m l).length

/-- The width that n live lanes give (R361). -/
def widthOf (n : Nat) : Nat := if 16 ≤ n then 16 else if 8 ≤ n then 8 else if 4 ≤ n then 4 else if 2 ≤ n then 2 else n

/-- Fields of LNK_CTL. -/
def State.maxRate (s : State) (k : Nat) : Nat := bits (s.reg .lnkCtl (portBay k)) 29 28
def State.minWidth (s : State) (k : Nat) : Nat := bits (s.reg .lnkCtl (portBay k)) 27 23
def State.fpCheck (s : State) (k : Nat) : Bool := bit (s.reg .lnkCtl (portBay k)) 22

/-! ### Attachments and the replay buffer (R375 to R379) -/

/-- The KIND 2 address of attachment a of port k (R378). -/
def attAddr (k a : Nat) : Nat := addrOf (portBay k) 2 (17 + 2 * a)

/-- The attachment of port k refuses an MSG: nothing crosses (R379). -/
def State.attRefuse (s : State) (k : Nat) (f : Flit) : State := s.refuse (portBay k) (routerS (homeRouter f.dest.toNat)) 4 f

/-- A numbered codeword enters the replay buffer (R369, R376). -/
def Link.number (l : Link) (kind : Nat) (body : List Byte) (f : Option Flit) : Link :=
  { l with sent := l.sent ++ [{ num := l.tx, kind := kind, body := body, f := f }], tx := (l.tx + 1) % 2 ^ 32 }

/-- A FLIT slot: the flit with DEST replaced by the attachment (R375). -/
def flitSlot (a : Nat) (f : Flit) : List Byte := Flit.wire { f with dest := BitVec.ofNat 16 a }

/-- The flits that wait at an attachment are sent while it holds credits and the replay buffer has room (R376, R377). -/
def Link.sendFrom (l : Link) (a : Nat) : Nat → Link
  | 0 => l
  | n + 1 =>
    let x := l.atts.getD a {}
    match x.waiting with
    | [] => l
    | f :: rest =>
      if x.credits = 0 ∨ 1024 ≤ l.sent.length then l
      else Link.sendFrom ((l.modAtt a fun x => { x with waiting := rest, credits := x.credits - 1 }).number 1 (flitSlot a f) (some f)) a n

/-- Every attachment sends what it may while the link is UP. (DEDUCED, log entry 93). -/
def Link.sendAll (l : Link) : Link :=
  if l.state = 5 then [0, 1, 2, 3, 4, 5, 6, 7].foldl (fun l a => l.sendFrom a 64) l else l

/-- A CONTROL slot: the last codeword received good and in order, a NAK, and the credits returned (R376). -/
def Link.control (l : Link) (credits : List Nat) : List Byte :=
  leBytes 4 ((l.rx + 2 ^ 32 - 1) % 2 ^ 32) ++ leBytes 1 (b2n l.nak) ++ ((List.range 8).flatMap fun a => leBytes 1 (credits.getD a 0))

/-- The credits that are to be returned, at most 255 of an attachment (R376, R377). -/
def Link.returns (l : Link) : List Nat := l.atts.map fun a => Nat.min 255 a.returns

/-- The logical lane of a live lane (R361). -/
def Link.logical (l : Link) (i : Nat) : Nat := lanesIn (l.live % 2 ^ i)

/-- The physical lanes of logical lanes 0 to W − 1 (R361). -/
def Link.lanes (l : Link) : List Nat := ((List.range 16).filter fun i => bit l.live i).take l.width

/-- n symbols from one on are changed, each by what `v` says of it; which symbols and how is open (R384). (DESIGN CHOICE, log
entry 154). -/
def corrupt (n start v : Nat) (w : List Nat) : List Nat :=
  (w.zip (List.range 544)).map fun x =>
    if (x.2 + 544 - start % 544) % 544 < n then x.1 ^^^ (1 + bits v (10 * x.2 + 9) (10 * x.2) % 1023) else x.1

/-- The line of a codeword that goes at a place of the stream, on its lane; how many unnumbered codewords go between is a free value, and
so are the symbols that an injection corrupts (R364 to R370, R384). A lane that is disabled or in a pattern mode carries no
line (R373). (DESIGN CHOICE, log entry 151). -/
def State.emitLine (s : State) (k : Nat) (c : Codeword) (inj : Nat) (only : Option Nat) : State :=
  let l := s.link k
  let idx := l.txIdx + s.freeVal 20
  let start := (s.takeFree).freeVal 10
  let v := (s.takeFree.takeFree).freeVal 5440
  let phys := only.getD (l.lanes.getD (idx % Nat.max 1 l.width) 0)
  let lane := if only.isSome then l.logical phys else idx % Nat.max 1 l.width
  let c := { c with stridx := idx % 8 }
  let on := bit (s.usable k) phys
  let s := s.takeFree.takeFree.takeFree
  if l.compat then
    let (line, z) := frameLine (Tab.get 0 l.scr phys) (if inj = 0 then 0 else 1 + v % (2 ^ 32 - 1)) c
    s.modLink k fun l => { l with txIdx := idx + 1, outs := (if on then l.outs ++ [line] else l.outs), scr := Tab.set 0 l.scr phys z }
  else
    let line := lineOf phys lane idx (corrupt inj start v (rsEncode c.message))
    s.modLink k fun l => { l with txIdx := idx + 1, outs := if on then l.outs ++ [line] else l.outs }

/-- The unnumbered codeword with every slot IDLE (R369). -/
def idleWord : Codeword := { unnum := true, stridx := 0, slots := [] }

/-- What a link keeps of a numbered codeword that it has sent: its CREDIT bytes, which a replay sends again, so that a codeword that the
peer discards loses none (R376, R377). -/
def Link.emitted (l : Link) (x : Numbered) : Link :=
  let cr := x.credits.getD l.returns
  { l with inj := 0, nak := false, owed := 0, run := l.run + 1
           sent := l.sent.map fun y => if y.num = x.num then { y with credits := some cr } else y
           atts := if x.credits.isSome then l.atts else l.atts.map fun a => { a with returns := a.returns - Nat.min 255 a.returns } }

/-- A numbered codeword is sent, or sent again, with a CONTROL slot; an injection acts on it (R376, R384). After every 2048 of them an
unnumbered one follows (R369). (DESIGN CHOICE, log entry 153). -/
def State.emit (s : State) (k : Nat) (x : Numbered) : State :=
  let l := s.link k
  let s := s.emitLine k { unnum := false, stridx := 0, slots := [(x.kind, x.body), (2, l.control (x.credits.getD l.returns))] } l.inj none
  let s := s.modLink k fun l => l.emitted x
  if (s.link k).run < 2048 then s else (s.emitLine k idleWord 0 none).modLink k fun l => { l with run := 0 }

/-- Numbered codewords are sent in order. -/
def State.emitAll (s : State) (k : Nat) (xs : List Numbered) : State :=
  if xs.isEmpty then s else each xs (s.modLink k fun l => { l with outs := [] }) fun s x => s.emit k x

/-- What may be sent is sent. -/
def State.sendAll (s : State) (k : Nat) : State :=
  let n := (s.link k).sent.length
  let s := s.modLink k Link.sendAll
  s.emitAll k ((s.link k).sent.drop n)

/-- The unacknowledged codewords that may be sent again, in order: all of them in UP; in MISMATCH those before the first with a FLIT slot
(R371, R376). -/
def Link.resends (l : Link) : List Numbered :=
  if l.state = 5 then l.sent else if l.state = 6 then l.sent.takeWhile fun x => x.kind != 1 else []

/-- Unacknowledged codewords are sent again; what MISMATCH bars waits for UP (R371, R374, R376). (DEDUCED, log entry 156). -/
def State.resendAll (s : State) (k : Nat) : State :=
  let xs := (s.link k).resends
  let s := (s.count .lnkReplay (portBay k) xs.length).emitAll k xs
  s.modLink k fun l => { l with replay := decide (xs.length < l.sent.length) }

/-- A numbered codeword of its own, when the replay buffer has room (R376). -/
def State.sendOne (s : State) (k kind : Nat) (body : List Byte) : State :=
  if 1024 ≤ (s.link k).sent.length then s
  else
    let s := s.modLink k fun l => l.number kind body none
    s.emitAll k ((s.link k).sent.drop ((s.link k).sent.length - 1))

/-- A management frame is sent (R376, R380). -/
def State.sendMgmt (s : State) (k : Nat) (bytes : List Byte) : State := s.sendOne k 3 (padSlot bytes)

/-- A CONTROL slot is sent alone: a NAK, or an ACK that no other codeword takes along (R376). -/
def State.sendControl (s : State) (k : Nat) : State := s.sendOne k 0 []

/-- The MSGs that wait unsent are answered NACK (R379). -/
def State.dropWaiting (s : State) (k : Nat) : State :=
  let fs := (s.link k).atts.flatMap Att.waiting
  let s := s.modLink k fun l => { l with atts := l.atts.map fun x => { x with waiting := [] } }
  each fs s fun s f => s.attRefuse k f

/-- Every MSG that is unacknowledged or unsent is answered NACK, and the replay buffer is empty (R379). -/
def State.dropLink (s : State) (k : Nat) : State :=
  let fs := (s.link k).sent.filterMap Numbered.f
  let s := s.modLink k fun l => { l with sent := [] }
  (each fs s fun s f => s.attRefuse k f).dropWaiting k

/-- The link is idle: no flit waits and every numbered codeword is acknowledged, but for those that carry a CONTROL slot alone (R382). -/
def Link.idle (l : Link) : Bool := (l.sent.all fun x => x.kind == 0) && l.atts.all fun x => x.waiting.isEmpty

/-! ### Link states (R371 to R374) -/

/-- The link leaves for DOWN (0) or DETECT (1) as `dst`; `down` is the cause of LNK_DOWN when it is raised. (DEDUCED, log
entry 159). -/
def State.linkLeave (s : State) (k dst : Nat) (down : Option Nat) : State :=
  let st := (s.link k).state
  let s := s.dropLink k
  let compat := bit (s.reg .lnkCtl (portBay k)) 30
  let s := s.modLink k fun l =>
    { l with genRate := (if 2 ≤ l.state then l.rate else l.genRate), naking := false, owed := 0, burst := 0
             state := dst, rate := 0, width := 0, mmcause := 0, live := 0, signal := 0, lock := 0, retrain := false, fresh := true
             tries := 0, falling := false, fellBack := false, asked := false, nak := false, slots := [], replay := false
             fpvalid := false, compat := if dst = 1 then compat else l.compat }
  match down with
  | some c => s.linkEvent k 0 st c
  | none => s

/-- The link goes to DETECT after a timeout: LNK_DOWN with cause 2 ends a retrain, else LNK_TRAINFAIL (R371, R374). -/
def State.trainFail (s : State) (k : Nat) : State :=
  let l := s.link k
  if l.retrain then s.linkLeave k 1 (some 2)
  else (s.linkLeave k 1 none).linkEvent k 4 l.state l.lock

/-- EN is cleared, or the port's bay is fenced: the link is DOWN (R371). -/
def State.linkStop (s : State) (k cause : Nat) : State :=
  let st := (s.link k).state
  if st = 0 then s else s.linkLeave k 0 (if 5 ≤ st then some cause else none)

/-- A sleeping link starts to wake, with a wake burst of 2 µs (R382). -/
def State.linkWake (s : State) (k : Nat) : State :=
  s.modLink k fun l => if l.state = 7 then { l with state := 8, lock := 0, asked := false, burst := 200 } else l

/-- A write of LNK_CTL (R10, R371, R382). -/
def State.lnkCtlWrite (s : State) (k v : Nat) : State :=
  let b := portBay k
  let old := s.reg .lnkCtl b
  let w := bits v 27 23
  let v := if w = 1 ∨ w = 2 ∨ w = 4 ∨ w = 8 ∨ w = 16 then v else putBits v 27 23 (bits old 27 23)
  let s := s.rwWrite ⟨.lnkCtl, b, 0, 0⟩ v
  let s := if bit v 21 then s else s.linkWake k
  if bit v 31 = false then s.linkStop k 1
  else if (s.link k).state = 0 ∧ s.portUp k = true then s.linkLeave k 1 none
  else s

/-- LINK_ENABLE (R371): a write of LNK_CTL with EN 1. -/
def execLinkEnable (m : Master) (k : PortId) (v : Word32) (s : State) : Host.Outcome State Fault Refusal :=
  .next (if bit v.toNat 31 then s.guarded m ⟨.lnkCtl, portBay k, 0, 0⟩ true fun s => s.lnkCtlWrite k v.toNat else s)

/-- LINK_DISABLE (R371): a write of LNK_CTL with EN 0. -/
def execLinkDisable (m : Master) (k : PortId) (v : Word32) (s : State) : Host.Outcome State Fault Refusal :=
  .next (if bit v.toNat 31 then s else s.guarded m ⟨.lnkCtl, portBay k, 0, 0⟩ true fun s => s.lnkCtlWrite k v.toNat)

/-- The CONFIG frame of a physical lane (R380). -/
def State.configFrame (s : State) (k lane : Nat) : List Byte :=
  let b := portBay k
  leBytes 1 1 ++ leBytes 1 (b2n !(s.link k).compat) ++ leBytes 2 (bits (s.reg .lnkId b) 15 0) ++ leBytes 1 k ++ leBytes 1 (s.maxRate k) ++
    leBytes 1 lane ++ [0] ++ leBytes 8 (s.reg .cfgFp64) ++ leBytes 4 (s.reg .cfgEpoch)

/-- A CONFIG frame goes on every lane of a mask (R371, R380). -/
def State.sendConfig (s : State) (k lanes : Nat) : State :=
  each ((List.range 16).filter fun i => bit lanes i) s fun s i =>
    s.emitLine k { unnum := true, stridx := 0, slots := [(3, padSlot (s.configFrame k i))] } 0 (some i)

/-- The link enters CONFIG: the live lanes and W are fixed, and a CONFIG frame goes on every locked lane (R361, R371, R380).
(DESIGN CHOICE, log entry 157). -/
def State.enterConfig (s : State) (k : Nat) : State :=
  let u := s.usable k
  let s := s.modLink k fun l =>
    let live := l.lock &&& u
    { l with state := 3, live := live, width := widthOf (lanesIn live), rxIdx := 0, marks := [], outs := [] }
  s.sendConfig k (s.link k).live

/-- SIGNAL_DETECTED (R371): in DETECT, MINWIDTH or more lanes that may be live show signal. (DESIGN CHOICE, log entry 149). -/
def execSignalDetected (k : PortId) (lanes : BitVec 16) (s : State) : Host.Outcome State Fault Refusal :=
  if s.portUp k = false ∨ (s.link k).state ≠ 1 then .next s
  else
    let m := lanes.toNat
    let go := decide (s.minWidth k ≤ lanesIn (m &&& s.usable k))
    .next (s.modLink k fun l => { l with signal := m, lock := 0, state := if go then 2 else 1 })

/-- LANES_LOCKED (R371, R372): the lanes that have locked. In LOCK every signalling lane leads to CONFIG; in STEP every live lane
leads to CONFIG at the new rate, or at the previous one when falling back. -/
def execLanesLocked (k : PortId) (lanes : BitVec 16) (s : State) : Host.Outcome State Fault Refusal :=
  let l := s.link k
  if s.portUp k = false then .next s
  else
    let m := lanes.toNat
    if l.state = 2 then
      let s := s.modLink k fun l => { l with lock := m }
      .next (if l.signal &&& s.usable k &&& m = l.signal &&& s.usable k then s.enterConfig k else s)
    else if l.state = 4 then
      let s := s.modLink k fun l => { l with lock := m }
      .next (if l.live &&& m = l.live then
          (s.modLink k fun l => { l with rate := if l.falling then l.rate else l.rate + 1, tries := 0 }).enterConfig k else s)
    else if l.state = 8 then
      let s := s.modLink k fun l => { l with lock := m, outs := [] }
      .next (if s.minWidth k ≤ lanesIn (m &&& s.usable k) then s.sendConfig k (m &&& s.usable k) else s)
    else .next s

/-- LOCK_TIMEOUT (R371, R374): LOCK has lasted 2 ms. -/
def execLockTimeout (k : PortId) (s : State) : Host.Outcome State Fault Refusal :=
  let l := s.link k
  if s.portUp k = false ∨ l.state ≠ 2 then .next s
  else if s.minWidth k ≤ lanesIn (l.lock &&& s.usable k) then .next (s.enterConfig k)
  else .next (s.trainFail k)

/-- CONFIG_TIMEOUT (R371, R374). -/
def execConfigTimeout (k : PortId) (s : State) : Host.Outcome State Fault Refusal :=
  if s.portUp k = false ∨ (s.link k).state ≠ 3 then .next s else .next (s.trainFail k)

/-- STEP_TIMEOUT (R372): a step that does not lock is repeated once; then the link returns to the previous rate, and LNK_STEPFAIL
is raised; a relock that fails too leads to DETECT. -/
def execStepTimeout (k : PortId) (failed : BitVec 16) (s : State) : Host.Outcome State Fault Refusal :=
  let l := s.link k
  if s.portUp k = false ∨ l.state ≠ 4 then .next s
  else if l.falling then .next (s.trainFail k)
  else if l.tries = 0 then .next (s.modLink k fun l => { l with tries := 1 })
  else
    .next ((s.modLink k fun l => { l with falling := true, fellBack := true, tries := 0 }).linkEvent k 3 (l.rate + 1) failed.toNat)

/-- A link in UP or MISMATCH retrains at its rate (R374). -/
def State.startRetrain (s : State) (k : Nat) : State :=
  s.modLink k fun l => if l.state = 5 ∨ l.state = 6 then { l with state := 2, retrain := true, asked := false, replay := l.replay || !l.sent.isEmpty } else l

/-- MARKER_LOCK_LOSS (R374): a live lane loses marker lock. -/
def execMarkerLockLoss (k : PortId) (lane : Fin 16) (s : State) : Host.Outcome State Fault Refusal :=
  let l := s.link k
  if s.portUp k = false ∨ bit l.live lane.val = false ∨ (l.state ≠ 5 ∧ l.state ≠ 6) then .next s
  else .next ((s.modLink k fun l => { l with lock := l.lock - 2 ^ lane.val * b2n (bit l.lock lane.val) }).startRetrain k)

/-- The link enters MISMATCH (R380, R381): MSGs that wait unsent are refused. -/
def State.enterMismatch (s : State) (k cause w2 : Nat) : State :=
  let s := s.modLink k fun l => { l with state := 6, mmcause := cause, retrain := false, asked := false, naking := false }
  let s := if (s.link k).replay then s.resendAll k else s
  (s.linkEvent k 2 cause w2).dropWaiting k

/-- After DETECT numbers start at 0 and credits at 64 (R369, R377). (DEDUCED, log entry 158). -/
def Link.restart (l : Link) : Link :=
  if l.fresh then
    { l with tx := 0, rx := 0, sent := [], slots := [], fresh := false, replay := false
             atts := l.atts.map fun x => { x with credits := 64, returns := 0 } }
  else l

/-- The link enters UP (R371, R374): what is unacknowledged since a retrain is sent again, and then what waits. -/
def State.enterUp (s : State) (k : Nat) : State :=
  let s := s.modLink k fun l => { l.restart with state := 5, mmcause := 0, retrain := false, falling := false, nak := false, naking := false }
  let s := if (s.link k).replay then s.resendAll k else s
  let s := s.sendAll k
  let l := s.link k
  s.linkEvent k 1 (l.rate * 256 + l.width) (bits (s.reg .lnkPeer (portBay k)) 31 16)

/-- Where training ends: MISMATCH for a peer with the wrong module id or another fingerprint, else UP (R380, R381). (DEDUCED,
log entry 155). -/
def State.trained (s : State) (k : Nat) : State :=
  let b := portBay k
  let expect := bits (s.reg .lnkId b) 31 16
  let peer := bits (s.reg .lnkPeer b) 31 16
  let fp := s.reg .lnkPeerFp b
  if expect ≠ 0 ∧ peer ≠ expect then (s.modLink k Link.restart).enterMismatch k 2 peer
  else if (s.link k).compat = false ∧ s.fpCheck k = true ∧ fp ≠ s.reg .cfgFp64 0 then (s.modLink k Link.restart).enterMismatch k 1 fp
  else s.enterUp k

/-- An FP64 is received in UP or MISMATCH of a native link: one that differs moves UP to MISMATCH; one that matches ends a MISMATCH of
cause 1 (R381). -/
def State.fpIn (s : State) (k fp : Nat) : State :=
  let l := s.link k
  if l.compat then s
  else
    let s := (s.setReg .lnkPeerFp (portBay k) 0 fp).modLink k fun l => { l with fpvalid := true }
    if s.fpCheck k = false then s
    else if fp ≠ s.reg .cfgFp64 0 then (if l.state = 5 then s.enterMismatch k 1 fp else s)
    else if l.state = 6 ∧ l.mmcause = 1 then s.enterUp k else s

/-- The peer's CONFIG values are shown in LNK_PEER (R380). -/
def State.showPeer (s : State) (k : Nat) (p : PeerConfig) : State :=
  s.setReg .lnkPeer (portBay k) 0 (p.module.toNat * 2 ^ 16 + p.port.toNat * 2 ^ 14 + p.maxrate.toNat * 2 ^ 12 + p.version.toNat % 16 * 2 ^ 8)

/-- The oldest slot received has a type and begins with given bytes. -/
def Link.slotIs (l : Link) (kind : Nat) (front : List Byte) : Bool :=
  match l.slots with
  | (t, bs) :: _ => t == kind && bs.take front.length == front
  | [] => false

/-- The oldest slot received has been acted on. -/
def Link.popSlot (l : Link) : Link := { l with slots := l.slots.drop 1 }

/-- CONFIG (R361, R371, R372, R380, R381): the peer's CONFIG has been received on every live lane. The link steps to the next rate while
a higher one is agreed and none has failed, and then enters UP or MISMATCH. One received in UP or MISMATCH gives its FP64.
(DEDUCED, log entry 160). -/
def execConfig (k : PortId) (peer : PeerConfig) (s : State) : Host.Outcome State Fault Refusal :=
  let l := s.link k
  let b := portBay k
  if s.portUp k = false then .next s
  else if l.state = 5 ∨ l.state = 6 then
    if l.slotIs 3 ([1, peer.version] ++ leBytes 2 peer.module.toNat ++ leBytes 1 peer.port.toNat ++ leBytes 1 peer.maxrate.toNat) &&
        ((l.slots.headD (0, [])).2.drop 8).take 12 == leBytes 8 peer.fp64.toNat ++ leBytes 4 peer.epoch.toNat then
      .next (((s.modLink k Link.popSlot).showPeer k peer).fpIn k peer.fp64.toNat)
    else .next s
  else if l.state = 3 ∨ l.state = 8 then
    let s := s.showPeer k peer
    let s := if l.compat then s else (s.setReg .lnkPeerFp b 0 peer.fp64.toNat).modLink k fun l => { l with fpvalid := true }
    if l.state = 8 then
      .next (if widthOf (lanesIn (l.lock &&& s.usable k)) < s.minWidth k then s else (s.enterConfig k).trained k)
    else if l.width < s.minWidth k then .next s
    else
      let agreed := Nat.min (s.maxRate k) peer.maxrate.toNat
      if l.compat = false ∧ l.retrain = false ∧ l.fellBack = false ∧ l.rate < agreed then
        .next (s.modLink k fun l => { l with state := 4, tries := 0, falling := false, lock := 0 })
      else .next (s.trained k)
  else .next s

/-! ### Codewords and slots (R364, R369, R375, R376) -/

/-- The slots of a codeword that are to be acted on: FLIT, CONTROL, and the management frames of R380. -/
def actedSlots (c : Codeword) : List (Nat × List Byte) :=
  c.slots.filter fun x => x.1 == 1 || x.1 == 2 || (x.1 == 3 && [1, 2, 3, 4].contains (x.2.headD 0))

/-- What the receiver makes of the line that holds the next codeword of the stream: the codeword and the symbols corrected, or none;
the stuff errors; and the descrambler of its lane in compatibility mode (R365 to R370). (DEDUCED, log entry 94). -/
def Link.receive (l : Link) (line : List (Fin 4)) : Option (Codeword × Nat) × Nat × Nat :=
  let lane := l.rxIdx % Nat.max 1 l.width
  let phys := l.lanes.getD lane 0
  if l.compat then
    let (c, z) := receiveFrame (Tab.get 0 l.descr phys) line
    (c.map fun c => (c, 0), 0, z)
  else
    let (c, e) := receiveLine lane l.rxIdx line
    (c, e, Tab.get 0 l.descr phys)

/-- A NAK goes to the peer (R376). -/
def State.nakOut (s : State) (k : Nat) : State := (s.modLink k fun l => { l with nak := true, naking := true }).sendControl k

/-- A numbered codeword received in order: its slots are to be acted on, and an ACK is owed where it carries more than a CONTROL slot;
after 16 the ACK goes at once (R376). -/
def State.takeWord (s : State) (k : Nat) (c : Codeword) : State :=
  let s := s.modLink k fun l =>
    { l with rx := (l.rx + 1) % 2 ^ 32, nak := false, naking := false, slots := l.slots ++ actedSlots c
             owed := l.owed + b2n ((actedSlots c).any fun x => x.1 != 2) }
  if 16 ≤ (s.link k).owed then s.sendControl k else s

/-- What the receiver of link k does with a codeword it decoded, or could not decode, where it stood as l before (R368, R369, R374,
R376). -/
def State.decoded (s : State) (k : Nat) (l : Link) (number : Word32) (got : Option (Codeword × Nat)) : State :=
  let b := portBay k
  match got with
  | none => (s.count .lnkCwUncorr b).nakOut k
  | some (c, n) =>
    let s := if n = 0 then s else (s.count .lnkCwCorr b).count .lnkSymCorr b n
    if c.stridx ≠ l.rxIdx % 8 then s.startRetrain k
    else if c.unnum then s
    else if number.toNat = l.rx then s.takeWord k c
    else if l.naking then s
    else s.nakOut k

/-- CODEWORD (R364 to R370, R376): the line of a codeword is received: decoded and corrected, or discarded with a NAK when it is
uncorrectable or a numbered one out of sequence. An STRIDX that does not follow, a lane more than 4 codewords behind another (`skew`), or 8
wrong markers in a row on a lane start a retrain (R367, R369). -/
def execCodeword (k : PortId) (number : Word32) (line : List (Fin 4)) (s : State) (skew : Fin 16 := 0) :
    Host.Outcome State Fault Refusal :=
  let l := s.link k
  let b := portBay k
  if s.portUp k = false ∨ (l.state ≠ 5 ∧ l.state ≠ 6) then .next s
  else
    let (got, stuffErrs, z) := l.receive line
    let phys := l.lanes.getD (l.rxIdx % Nat.max 1 l.width) 0
    let s := s.count .lnkStuffErr b stuffErrs
    let wrong := if l.compat || line.take 16 == markerOf phys then 0 else Tab.get 0 l.marks phys + 1
    let s := s.modLink k fun l => { l with rxIdx := l.rxIdx + 1, descr := Tab.set 0 l.descr phys z, marks := Tab.set 0 l.marks phys wrong }
    if 4 < skew.val then .next (s.startRetrain k)
    else if 8 ≤ wrong then
      .next ((s.modLink k fun l => { l with lock := l.lock - 2 ^ phys * b2n (bit l.lock phys) }).startRetrain k)
    else .next (s.decoded k l number got)

/-- The codewords that an ACK frees, and those that stay: the replay buffer up to the number named. -/
def ackSplit (n : Nat) (l : List Numbered) : List Numbered × List Numbered :=
  if l.any fun x => x.num == n then (l.take ((l.findIdx fun x => x.num == n) + 1), l.drop ((l.findIdx fun x => x.num == n) + 1)) else ([], l)

/-- The bytes of a CONTROL slot (R376). -/
def controlBytes (ackNo : Word32) (nak : Bool) (credits : List Nat) : List Byte :=
  leBytes 4 ackNo.toNat ++ leBytes 1 (b2n nak) ++ ((List.range 8).flatMap fun a => leBytes 1 (credits.getD a 0))

/-- Credits come back to each attachment; a byte that would raise a count above 64 is ignored (R377). -/
def Link.addCredits (l : Link) (credits : List Nat) : Link :=
  { l with atts := (List.range 8).map fun a =>
      let x := l.atts.getD a {}
      let n := x.credits + credits.getD a 0 % 256
      if n ≤ 64 then { x with credits := n } else x }

/-- Every codeword that a NAK sends again is replayed once more in succession. -/
def Link.replayed (l : Link) : Link :=
  { l with sent := (l.resends.map fun x => { x with replays := x.replays + 1 }) ++ l.sent.drop l.resends.length }

/-- A NAK: what is unacknowledged is sent again; the eighth replay in succession of one codeword starts a retrain (R374, R376). -/
def State.nakIn (s : State) (k : Nat) : State :=
  let s := (s.modLink k Link.replayed).resendAll k
  if (s.link k).sent.any fun x => decide (8 ≤ x.replays) then
    (s.modLink k fun l => { l with sent := l.sent.map fun y => { y with replays := 0 } }).startRetrain k
  else s

/-- CONTROL (R374, R376, R377, R379): the next slot is a CONTROL slot. Acknowledged codewords leave the replay buffer and their MSGs are
answered ACK; credits are returned; a NAK resends the rest; and what waits is sent. -/
def execControl (k : PortId) (ackNo : Word32) (nak : Bool) (credits : List Nat) (s : State) : Host.Outcome State Fault Refusal :=
  let l := s.link k
  let b := portBay k
  if s.portUp k = false ∨ (l.state ≠ 5 ∧ l.state ≠ 6) ∨ l.slotIs 2 (controlBytes ackNo nak credits) = false then .next s
  else
    let (freed, rest) := ackSplit ackNo.toNat l.sent
    let flits := freed.filterMap Numbered.f
    let s := s.countHalf .lnkFlits b false flits.length
    let s := s.modLink k fun l => { (l.popSlot.addCredits credits) with sent := rest }
    let s := each flits s fun s f => s.respond f (f.answer 0x13 [])
    let s := if nak then s.nakIn k else s
    .next (s.sendAll k)

/-- FLIT (R375, R377, R378): the next slot is a FLIT slot. It reaches attachment a, which sends it to its DELIVER endpoint as its own
MSG, and it returns the credit. An attachment that is not bound delivers nothing. (DEDUCED, log entries 161, 162). -/
def execFlit (k : PortId) (f : Flit) (s : State) : Host.Outcome State Fault Refusal :=
  let l := s.link k
  let b := portBay k
  if s.portUp k = false ∨ (l.state ≠ 5 ∧ l.state ≠ 6) ∨ l.slotIs 1 ((Flit.wire f).take 78) = false then .next s
  else
    let a := f.dest.toNat % 8
    let r := s.reg .lnkAtt b a
    let s := s.modLink k fun l => l.popSlot.modAtt a fun x => { x with returns := x.returns + 1 }
    if bit r 31 = false then .next s
    else
      let s := s.countHalf .lnkFlits b true 1
      let m : Flit := { dest := BitVec.ofNat 16 r, src := BitVec.ofNat 16 (attAddr k a), op := 6, pfx := false, pall := f.pall, retry := false
                        deadline := f.deadline, tag := f.tag, phase := false, line := 0, wpx := 0, wpy := 0
                        payload := fitBytes 64 f.payload }
      .next (s.send { f := m })

/-! ### Fingerprints (R381) -/

/-- FP (R381): the next slot is an FP frame of the peer. -/
def execFp (k : PortId) (fp64 : Word64) (epoch : Word32) (s : State) : Host.Outcome State Fault Refusal :=
  let l := s.link k
  if s.portUp k = false ∨ (l.state ≠ 5 ∧ l.state ≠ 6) ∨
      l.slotIs 3 ([2, 0, 0, 0, 0, 0, 0, 0] ++ leBytes 8 fp64.toNat ++ leBytes 4 epoch.toNat) = false then .next s
  else .next ((s.modLink k Link.popSlot).fpIn k fp64.toNat)

/-- FP_SEND (R381): in UP and MISMATCH this end sends its FP64 and CFG_EPOCH. -/
def execFpSend (k : PortId) (s : State) : Host.Outcome State Fault Refusal :=
  let l := s.link k
  if s.portUp k = false ∨ l.compat = true ∨ (l.state ≠ 5 ∧ l.state ≠ 6) then .next s
  else .next (s.sendMgmt k ([2, 0, 0, 0, 0, 0, 0, 0] ++ leBytes 8 (s.reg .cfgFp64 0) ++ leBytes 4 (s.reg .cfgEpoch 0)))

/-! ### Deep low-power state (R382) -/

/-- SLEEP_IDLE (R382): a link idle in UP with SLEEP set asks for sleep, or asks again. (DEDUCED, log entry 164). -/
def execSleepIdle (k : PortId) (s : State) : Host.Outcome State Fault Refusal :=
  let l := s.link k
  if s.portUp k = false ∨ l.state ≠ 5 ∨ (l.asked = false ∧ l.idle = false) ∨ bit (s.reg .lnkCtl (portBay k)) 21 = false then .next s
  else .next ((s.modLink k fun l => { l with asked := true }).sendMgmt k [3])

/-- SLEEP_REQ (R382): the next slot is a SLEEP_REQ frame. An idle end answers SLEEP_ACK and enters SLEEP. -/
def execSleepReq (k : PortId) (s : State) : Host.Outcome State Fault Refusal :=
  let l := s.link k
  if s.portUp k = false ∨ (l.state ≠ 5 ∧ l.state ≠ 6) ∨ l.slotIs 3 [3] = false then .next s
  else
    let s := s.modLink k Link.popSlot
    if l.state = 5 ∧ l.idle = true then .next ((s.sendMgmt k [4]).modLink k fun l => { l with state := 7, asked := false }) else .next s

/-- SLEEP_ACK (R382): the next slot is a SLEEP_ACK frame. The end that asked, and whose request no MSG has cancelled, enters SLEEP. -/
def execSleepAck (k : PortId) (s : State) : Host.Outcome State Fault Refusal :=
  let l := s.link k
  if s.portUp k = false ∨ (l.state ≠ 5 ∧ l.state ≠ 6) ∨ l.slotIs 3 [4] = false then .next s
  else
    let s := s.modLink k Link.popSlot
    if l.state = 5 ∧ l.asked = true then .next (s.modLink k fun l => { l with state := 7, asked := false }) else .next s

/-- WAKE_BURST (R382): the detector of a sleeping link sees the peer's wake burst. -/
def execWakeBurst (k : PortId) (s : State) : Host.Outcome State Fault Refusal :=
  if s.portUp k = false then .next s else .next (s.linkWake k)

/-- LINK_WAKE_TIMEOUT (R371, R382): a link that has not reached UP within 800 µs of waking goes to DETECT. -/
def execLinkWakeTimeout (k : PortId) (s : State) : Host.Outcome State Fault Refusal :=
  if s.portUp k = false ∨ (s.link k).state ≠ 8 then .next s else .next (s.linkLeave k 1 (some 3))

/-! ### Injection and test patterns (R383, R384) -/

/-- FEC_INJ (R384): symbols of the next numbered codeword are corrupted. -/
def execFecInj (m : Master) (k : PortId) (v : Word32) (s : State) : Host.Outcome State Fault Refusal :=
  .next (s.guarded m ⟨.lnkFecInj, portBay k, 0, 0⟩ true fun s =>
    if bits v.toNat 4 0 = 0 then s else s.modLink k fun l => { l with inj := bits v.toNat 4 0 })

/-- A write of LNK_LANE_CTL l: a change of mode, pattern or FIXED starts the checker again; INJ_ONE inverts the next bit once. A change of mode or pattern starts the generator again. -/
def State.laneWrite (s : State) (k lane v : Nat) : State :=
  let r : RegAt := ⟨.lnkLaneCtl, portBay k, lane, 0⟩
  let old := s.regAt r
  let s := s.rwWrite r v
  let s := if bits (s.regAt r) 31 28 = bits old 31 28 ∧ bits (s.regAt r) 15 0 = bits old 15 0 then s
    else s.modLink k fun l => { l with checks := Tab.set {} l.checks lane {}, gens := Tab.set {} l.gens lane {} }
  if bit v 27 then s.modLink k fun l => { l with injOne := Tab.set false l.injOne lane true } else s

/-- INJ_ONE (R383): a write of LNK_LANE_CTL with INJ_ONE. -/
def execInjOne (m : Master) (k : PortId) (lane : Fin 16) (v : Word32) (s : State) : Host.Outcome State Fault Refusal :=
  .next (if bit v.toNat 27 then s.guarded m ⟨.lnkLaneCtl, portBay k, lane.val, 0⟩ true fun s => s.laneWrite k lane v.toNat else s)

/-- The taps of a pattern: the bits back whose XOR is the next one (R383). -/
def prbsTaps (pattern : Nat) : Nat × Nat := if pattern = 0 then (6, 7) else if pattern = 1 then (14, 15) else (28, 31)

/-- The bit that a checker expects next; none while a PRBS has too little history. -/
def Checker.expect (c : Checker) (pattern fixed : Nat) : Option Bool :=
  if pattern = 3 then some (bit fixed (c.phase % 16))
  else
    let (a, b) := prbsTaps pattern
    match c.hist[a - 1]?, c.hist[b - 1]? with
    | some x, some y => some (x != y)
    | _, _ => none

/-- One bit received: before lock the checker follows the line and counts right bits; after lock it runs on its own pattern and a
bit that differs is an error. -/
def Checker.step (c : Checker) (pattern fixed : Nat) (x : Bool) : Checker × Bool :=
  match c.expect pattern fixed with
  | none => ({ c with hist := x :: c.hist.take 30 }, false)
  | some e =>
    if c.locked then ({ c with hist := e :: c.hist.take 30, phase := (c.phase + 1) % 16 }, x != e)
    else if x = e then
      let n := c.run + 1
      ({ hist := x :: c.hist.take 30, run := n, locked := decide (64 ≤ n), phase := (c.phase + 1) % 16 }, false)
    else ({ hist := x :: c.hist.take 30, run := 0, locked := false, phase := c.phase }, false)

/-- The next bit of a lane's generator (R383). -/
def Gen.next (g : Gen) (pattern fixed : Nat) : Bool :=
  if pattern = 3 then bit fixed (g.phase % 16)
  else g.hist.getD ((prbsTaps pattern).1 - 1) false != g.hist.getD ((prbsTaps pattern).2 - 1) false

/-- A lane's generator after n bits: INJ_RATE r inverts one bit in every 2^(8 + 2r), and INJ_ONE the first one (R383). -/
def Gen.run (pattern fixed rate : Nat) : Nat → Bool → Gen → Gen
  | 0, _, g => g
  | n + 1, one, g =>
    let x := g.next pattern fixed
    let flip := rate ≠ 0 ∧ (g.sent + 1) % 2 ^ (8 + 2 * rate) = 0
    Gen.run pattern fixed rate n false
      { hist := x :: g.hist.take 30, phase := (g.phase + 1) % 16, sent := g.sent + 1, out := g.out ++ [x != (one != decide flip)] }

/-- Bits of a lane in one period of the host reference: 16 Gb/s at rate code 0, twice as many at each next one, 32 Gb/s in compatibility
mode (R362). -/
def Link.periodBits (l : Link) : Nat := if l.compat then 320 else 160 * 2 ^ (if 2 ≤ l.state then l.rate else l.genRate)

/-- The lanes of a port in a generator mode send their bits of one period. -/
def State.genPeriod (s : State) (k : Nat) : State :=
  each (List.range 16) s fun s i =>
    let r := s.reg .lnkLaneCtl (portBay k) i
    if bit r 30 = false then s
    else
      s.modLink k fun l =>
        { l with injOne := Tab.set false l.injOne i false
                 gens := Tab.upd {} l.gens i fun g =>
                   Gen.run (bits r 29 28) (bits r 15 0) (bits r 26 24) l.periodBits (Tab.get false l.injOne i) { g with out := [] } }

/-- What a port sends in a period without a command: the wake burst; markers and scrambled IDLE while it trains; CONFIG frames in CONFIG and
on the lanes that a wake has relocked; in UP and MISMATCH a NAK or an ACK that is owed, else an unnumbered codeword (R369, R371, R376,
R382). -/
def State.linkPeriod (s : State) (k : Nat) : State :=
  let l := s.link k
  let s := if 1 ≤ l.state ∧ l.state ≤ 8 ∧ l.state ≠ 7 then s.modLink k fun l => { l with outs := [] } else s
  let s := match l.state with
    | 1 | 2 | 4 =>
      each ((List.range 16).filter fun i => bit (s.usable k) i) s fun s i => s.emitLine k idleWord 0 (some i)
    | 3 => s.sendConfig k l.live
    | 5 | 6 => if l.nak = true ∨ 0 < l.owed then s.sendControl k else s.emitLine k idleWord 0 none
    | 8 =>
      if 0 < l.burst then
        s.modLink k fun l => { l with burst := l.burst - 1, outs := [(List.replicate (l.periodBits / 4) [3, 0]).flatten] }
      else if s.minWidth k ≤ lanesIn (l.lock &&& s.usable k) then s.sendConfig k (l.lock &&& s.usable k)
      else s
    | _ => s
  s.genPeriod k

/-- PATTERN_CHECK (R383): a lane in a checker mode receives bits. -/
def execPatternCheck (k : PortId) (lane : Fin 16) (received : List Bool) (s : State) : Host.Outcome State Fault Refusal :=
  let r := s.reg .lnkLaneCtl (portBay k) lane
  if s.portUp k = false ∨ bit r 31 = false then .next s
  else
    let (c, n) := received.foldl (fun (acc : Checker × Nat) x =>
      let (c, e) := acc.1.step (bits r 29 28) (bits r 15 0) x
      (c, acc.2 + b2n e)) (Tab.get {} (s.link k).checks lane.val, 0)
    .next ((s.count .lnkLaneErr (portBay k) n lane).modLink k fun l => { l with checks := Tab.set {} l.checks lane.val c })

/-! ### MSG at its endpoint (R345, R354 to R356, R378, R379) -/

/-- An MSG reaches a bound attachment: refused while the link cannot carry it, waiting during a retrain or in sleep, else sent when
it may be; the network holds it while another waits. -/
def State.msgLink (s : State) (k a : Nat) (f : Flit) : State :=
  let l := s.link k
  if l.state = 0 ∨ l.state = 1 ∨ l.state = 6 ∨ (l.state < 5 ∧ l.retrain = false) then (s.takeArrived f).attRefuse k f
  else if (l.atts.getD a {}).waiting ≠ [] then s.linkWake k
  else
    let s := (s.takeArrived f).modLink k fun l => { l.modAtt a fun x => { x with waiting := x.waiting ++ [f] } with asked := false }
    (s.sendAll k).linkWake k

/-- An MSG reaches a fabric endpoint: refused while its paddock is not released, held while one of the 4 slots is free. -/
def State.msgEndpoint (s : State) (f : Flit) : State :=
  let d := f.dest.toNat
  let b := addrBay d
  let e := addrIdx d
  let x := s.fabEnd b e
  if (s.pad (b * 8 + e / 8)).state ≠ 4 then (s.takeArrived f).refuse b (routerS (homeRouter d)) 2 f
  else if 4 ≤ x.hold.length then s
  else (s.takeArrived f).setEnd b e { hold := x.hold ++ [f], since := if x.hold = [] then s.local b else x.since }

/-- MSG (R345, R354, R355, R378, R379): a message reaches a link attachment, a fabric endpoint or the Selay cores. A resent one with
a kept answer receives it again. -/
def execMsg (f : Flit) (s : State) : Host.Outcome State Fault Refusal :=
  let d := f.dest.toNat
  match s.turnedAway f with
  | some t => .next t
  | none =>
  match s.keptAnswer f with
    | some a => .next ((s.takeArrived f).send { f := a })
    | none =>
      match s.linkBound d with
      | some (k, a) => .next (s.msgLink k a f)
      | none =>
        if addrBay d = 32 then
          if addrIdx d = 1 then
            let s := (s.takeArrived f).modNet fun n => { n with selay := n.selay ++ [f] }
            .next (s.respond f (f.answer 0x13 []))
          else .next (s.badOp f)
        else if addrKind d = 2 then .next (s.msgEndpoint f)
        else if addrKind d = 3 ∧ 16 ≤ addrIdx d then
          let a := addrIdx d - 16
          if bit (s.reg .lnkAtt (addrBay d) a) 31 then .next (s.msgLink (addrBay d / 8) a f) else .next (s.noEndpoint f)
        else .next (s.badOp f)

end Sys2Proof.Machine
end

