-- ==== Sys2Proof/Machine/Feed.lean ====
section
/-! DEFINITION. Feed queues (R392 to R397, R413 to R417): the control block and the rings, stops, the journal, and completion
entries. -/

namespace Sys2Proof.Machine

/-- Feed queue q. -/
def State.queue (s : State) (q : Nat) : FeedQueue := Tab.get {} s.queues q

/-- The state after f is applied to feed queue q. -/
def State.modQueue (s : State) (q : Nat) (f : FeedQueue → FeedQueue) : State := { s with queues := Tab.upd {} s.queues q f }

/-- The hub's local count, bay 32 (R26, R27). -/
def State.hubNow (s : State) : Nat := s.local 32

/-- The distance from b up to a, of 32-bit counts. -/
def ahead (a b : Nat) : Nat := (a + 2 ^ 32 - b % 2 ^ 32) % 2 ^ 32

/-! ### Control block and rings (R392, R394) -/

/-- A request of the queue waits for the CXL link (R388). -/
def State.linkWaits (s : State) (q : FeedQueue) : Bool := !q.hbm && !s.hostUp && s.hostWait

/-- n bytes of the control block or a ring: none where the read fails or returns poison (R388, R390, R395). (DESIGN CHOICE,
log entry 171). -/
def State.ringRead (s : State) (q : FeedQueue) (a n : Nat) : Option (List Byte) :=
  if q.hbm then
    if 0x30000000000 ≤ a ∨ s.isFenced (a / 0x1800000000) = true ∨ s.poisoned a n = true then none else some (s.read a n)
  else if !s.hostUp || (readTags s.hostTag a n).any id then none
  else some (s.hread a n)

/-- The lines of a ring read are counted when they lie in host memory. -/
def State.ringLines (s : State) (q : FeedQueue) (n : Nat) : State := if q.hbm then s else s.cacheLines false n

/-- A write of the queue into its memory goes into the stack of a fenced bay, where it is discarded (R395). -/
def State.ringLost (s : State) (q : FeedQueue) (a : Nat) : Bool :=
  q.hbm && decide (a < 0x30000000000) && s.isFenced (a / 0x1800000000)

/-- A full line of an entry or a head line is written. -/
def State.ringWrite (s : State) (q : FeedQueue) (a : Nat) (bs : List Byte) : State :=
  if !q.hbm then (s.cacheLines true).hwrite a bs
  else if 0x30000000000 ≤ a ∨ s.isFenced (a / 0x1800000000) = true then s
  else s.write a bs false

/-- The head line (R392). -/
def FeedQueue.headLine (q : FeedQueue) : List Byte :=
  leBytes 4 q.head ++ leBytes 4 q.written ++ leBytes 4 (if q.en then 0 else q.stop) ++ List.replicate 52 0

/-- HST_QERR (R395, R404). -/
def State.queueError (s : State) (q cause w2 : Nat) : State := s.raiseOnce .hstEvent 0 0 0x260 q cause w2

/-- A stop of cause 3 after a write that a fenced stack discarded: later writes are discarded in the same way (R395).
(DEDUCED, log entry 173). -/
def State.muteQueue (s : State) (q : Nat) : State :=
  if (s.queue q).mute then s
  else
    let s := if (s.queue q).en then s.queueError q 3 0 else s
    s.modQueue q fun x => { x with mute := true, en := false, held := none, stop := if x.en then 3 else x.stop }

/-- The head line is written after a change; while the CXL link is down it waits, and is written when the link returns. -/
def State.writeHead (s : State) (q : Nat) : State :=
  let f := s.queue q
  if f.mute || (!f.hbm && !s.hostUp) then s
  else if s.ringLost f f.cb then s.muteQueue q
  else s.ringWrite f (f.cb + 64) f.headLine

/-- The queue stops with a cause (R395). -/
def State.stopQueue (s : State) (q cause w2 : Nat) : State :=
  let s := s.modQueue q fun x => { x with en := false, held := none, stop := cause }
  let s := s.writeHead q
  if cause = 4 then s else s.queueError q cause w2

/-! ### Journal (R414 to R417) -/

/-- Where the firmware area of stack b holds record n of queue q (R414). -/
def journalAddr (b q n : Nat) : Nat := hbmAddr b (0x17F0000000 + q * 0x200000 + n % 8192 * 256)

/-- The bays of the two journal copies when a queue is configured (R414). -/
def State.journalBays (s : State) (q : Nat) : List Nat :=
  let a := q % 32
  let c := (q + 16) % 32
  let free := (List.range 32).filter fun b => !s.isFenced b
  match s.isFenced a, s.isFenced c with
  | false, false => [a, c]
  | false, true => a :: ((free.filter (· != a)).take 1)
  | true, false => c :: ((free.filter (· != c)).take 1)
  | true, true => free.take 2

/-- The fields of a journal record (R415) but QUEUE, JSEQ, CSEQ, TIME and CHECK. -/
structure JRec where
  typ      : Nat
  status   : Nat := 0
  aseq     : Nat
  fseq     : Nat
  job      : Nat
  gen      : Nat
  attempts : Nat
  detail   : List Byte := List.replicate 40 0
  body     : List Byte := []
deriving DecidableEq, Repr

/-- n bytes of a list, filled up with zeros. -/
def fitTo (n : Nat) (bs : List Byte) : List Byte := (bs ++ List.replicate (n - bs.length) 0).take n

/-- The 256 bytes of a journal record (R415). -/
def JRec.bytes (r : JRec) (q jseq cseq time : Nat) : List Byte :=
  let head := leBytes 1 r.typ ++ leBytes 1 q ++ leBytes 2 r.status ++ leBytes 4 jseq ++ leBytes 4 r.aseq ++ leBytes 4 r.fseq ++
    leBytes 4 cseq ++ leBytes 2 r.job ++ leBytes 1 r.gen ++ leBytes 1 r.attempts ++ leBytes 8 time ++ fitTo 40 r.detail ++
    List.replicate 52 0
  let body := fitTo 128 r.body
  head ++ leBytes 4 (crc32 (head ++ body)) ++ body

/-- The record counts: its CHECK is correct (R416). -/
def recordGood (bs : List Byte) : Bool :=
  ofLe ((bs.drop 124).take 4) == crc32 (bs.take 124 ++ bs.drop 128) && bs.length == 256

/-- A copy is full: the record that the next one overwrites has not been passed by CDONE (R416). -/
def FeedQueue.full (q : FeedQueue) : Bool := q.recs.any fun r => decide (8192 ≤ ahead q.jseq r.1)

/-- A record is written into the copies of queue q that stand in stacks in service. (DEDUCED, log entry 174). -/
def State.journalWrite (s : State) (q jseq : Nat) (bs : List Byte) : State :=
  each ((s.queue q).copies.filter fun b => !s.isFenced b) s fun s b => s.write (journalAddr b q jseq) bs false

/-! ### Completion entries (R396, R397) -/

/-- The entries that may be written now: the completion ring has room (R394), or the queue's writes are discarded. -/
def FeedQueue.room (q : FeedQueue) : Bool := q.mute || decide (ahead q.written q.cdone < 2 ^ q.c)

/-- The bytes of an entry with its PHASE for count v (R396). -/
def FeedQueue.phased (q : FeedQueue) (e : Entry) : List Byte :=
  e.body.take 1 ++ [BitVec.ofNat 8 ((e.cseq / 2 ^ q.c + 1) % 2)] ++ e.body.drop 2

/-- The first waiting entry goes as far as it can: its record is mirrored once the CXL link is up (R417), then, with ring room, it
is written, and the MSI-X vector of the queue is raised as its mode says (R397). False when it must wait. (DEDUCED, log
entries 172, 175). -/
def State.flushOne (s : State) (q : Nat) : State × Bool :=
  let f := s.queue q
  match f.waiting with
  | [] => (s, false)
  | e :: rest =>
    if !e.jrec.isEmpty && !s.hostUp then (s, false)
    else
      let s := if e.jrec.isEmpty then s
        else (s.cacheLines true 4).hwrite (f.mirror + e.jseq % 2 ^ f.j * 256) e.jrec
      if e.body.isEmpty then (s.modQueue q fun x => { x with waiting := rest }, true)
      else if !f.room || (!f.hbm && !s.hostUp) then
        (s.modQueue q fun x => { x with waiting := { e with jrec := [] } :: rest }, false)
      else
        let a := f.cpl + e.cseq % 2 ^ f.c * 64
        let lost := f.mute || s.ringLost f a
        let s := if f.mute then s else if lost then s.muteQueue q else s.ringWrite f a (f.phased e)
        let s := s.modQueue q fun x =>
          { x with waiting := rest, written := (e.cseq + 1) % 2 ^ 32, head := e.head.getD x.head }
        let irq := !lost && (f.irq == 2 || (f.irq == 1 && e.loud))
        (if irq then s.msixSend (3 + q) else s, true)

/-- Waiting entries are written in count order while they can be. -/
def State.flushN (s : State) (q : Nat) : Nat → State
  | 0 => s
  | fuel + 1 =>
    let r := s.flushOne q
    if r.2 then State.flushN r.1 q fuel else r.1

/-- Every entry that can be written is written, then the head line (R392, R394). -/
def State.flush (s : State) (q : Nat) : State := (s.flushN q (s.queue q).waiting.length).writeHead q

/-- A journal record and the entry it leads to: the record takes the next JSEQ and completion count, is written to both copies, and
its mirror record and entry follow (R413, R415 to R417). -/
def State.post (s : State) (q : Nat) (r : JRec) (head : Option Nat) : State :=
  let f := s.queue q
  let time := s.hubNow
  let bs := r.bytes q f.jseq f.cseq time
  let s := s.journalWrite q f.jseq bs
  let body := leBytes 1 r.typ ++ [0] ++ leBytes 2 r.status ++ leBytes 4 r.aseq ++ leBytes 4 r.fseq ++ leBytes 2 r.job ++
    leBytes 1 r.gen ++ [0] ++ leBytes 8 time ++ fitTo 40 r.detail
  let e : Entry := { cseq := f.cseq, body := body, jseq := f.jseq, jrec := bs, head := head, loud := r.typ == 3 || r.typ == 4 }
  let s := s.modQueue q fun x =>
    { x with jseq := (x.jseq + 1) % 2 ^ 32, cseq := (x.cseq + 1) % 2 ^ 32, recs := x.recs ++ [(f.jseq, f.cseq)]
             waiting := x.waiting ++ [e] }
  s.flush q

/-- A journal record that leads to no entry, CSEQ 0xFFFF_FFFF (R415): it is mirrored in its turn. -/
def State.postSilent (s : State) (q : Nat) (r : JRec) : State :=
  let f := s.queue q
  let bs := r.bytes q f.jseq 0xFFFFFFFF s.hubNow
  let s := s.journalWrite q f.jseq bs
  let e : Entry := { cseq := 0, body := [], jseq := f.jseq, jrec := bs, head := none, loud := false }
  (s.modQueue q fun x => { x with jseq := (x.jseq + 1) % 2 ^ 32, waiting := x.waiting ++ [e] }).flush q

/-! ### The tail line (R393, R395, R430) -/

/-- An accepted job of the queue has not committed. -/
def State.queueBusy (s : State) (q : Nat) : Bool := s.jobs.any fun e => e.2.live && e.2.queue == q

/-- The feed engine watches the tail line: the queue runs, or it has stopped and a job or an entry of it is still to come. -/
def State.watches (s : State) (q : Nat) : Bool :=
  let f := s.queue q
  !f.mute && (f.en || (f.stop != 0 && (s.queueBusy q || !f.waiting.isEmpty)))

/-- The engine reads TAIL and CDONE: a running queue stops on a failed read or an overrun; else entries that wait are written as
room appears. -/
def State.readTail (s : State) (q : Nat) : State :=
  let f := s.queue q
  match s.ringRead f f.cb 64 with
  | none => if f.en then s.stopQueue q 3 0 else s
  | some bs =>
    let tail := ofLe (bs.take 4)
    let cdone := ofLe ((bs.drop 4).take 4)
    let s := s.ringLines f 1
    let s := s.modQueue q fun x => { x with tail := tail, cdone := cdone }
    if f.en && decide (2 ^ f.f < ahead tail f.head) then s.stopQueue q 1 tail
    else
      let past := ahead cdone f.written
      if past ≠ 0 ∧ past < 2 ^ 31 then (if f.en then s.stopQueue q 2 cdone else s)
      else
        let s := s.modQueue q fun x =>
          { x with recs := x.recs.filter fun r => decide (2 ^ 31 ≤ ahead cdone (r.2 + 1)) }
        s.flush q

/-- The host stores bytes into its own memory: record slots and, last, the tail line (R393, R394). -/
def State.hostStores (s : State) (ws : List (Nat × Byte)) : State := each ws s fun s w => s.hwrite w.1 [w.2]

/-- TAIL_SNOOP (R393, R395, R430): the host's stores reach its memory, and the engine re-reads the tail line of queue q.
(DESIGN CHOICE, log entry 256). -/
def execTailSnoop (q : QueueId) (s : State) (ws : List (Nat × Byte) := []) : Host.Outcome State Fault Refusal :=
  let s := s.hostStores ws
  if !s.watches q || s.linkWaits (s.queue q) then .next s else .next (s.readTail q)

end Sys2Proof.Machine
end

