-- ==== Sys2Proof/Machine/VecMath.lean ====
section
/-! DEFINITION. The four functions of the vector engine that are not sums or products (R167): each rounds the exact result once to
FP32. A result that is not exact is carried with more bits than the rounding needs and a sticky last bit. -/

namespace Sys2Proof.Machine

/-- The integer square root by Newton's iteration from above. -/
def isqrtFrom (n : Nat) : Nat → Nat → Nat
  | 0, x => x
  | fuel + 1, x =>
    let y := (x + n / x) / 2
    if y < x then isqrtFrom n fuel y else x

/-- The largest r with r × r ≤ n. -/
def isqrt (n : Nat) : Nat := if n = 0 then 0 else isqrtFrom n 600 (2 ^ ((bitLen n + 1) / 2))

/-- m × 2^e with a sticky bit below m, which stands for what lies under it. -/
def sticky (s : Bool) (m : Nat) (e : Int) (more : Bool) : Val := .fin s (2 * m + b2n more) (e - 1)

/-- 2^f in units of 2^(−160), for f = n × 2^(−k): the product of 2^(2^(−i)) over the set bits of f, each factor a square root of
the one before. `r` is the factor of the bit last taken. -/
def exp2Frac (n : Nat) : Nat → Nat → Nat → Nat
  | 0, _, acc => acc
  | k + 1, r, acc =>
    let r := isqrt (r * 2 ^ 160)
    exp2Frac n k r (if bit n k then acc * r / 2 ^ 160 else acc)

/-- EXP2 (R167). -/
def exp2Of (x : Val) : Conv :=
  match x with
  | .nan _ => toFp32 (.nan false)
  | .inf s => toFp32 (if s then .fin false 0 0 else .inf false)
  | .fin s m e =>
    if m = 0 then toFp32 (.fin false 1 0)
    else if (Val.fin false 128 0).nlt (.fin s m e) ∨ (!s ∧ !(Val.fin s m e).nlt (.fin false 128 0)) then toFp32 (.fin false 1 128)
    else if (Val.fin s m e).nlt (.fin true 151 0) then toFp32 (.fin false 1 (-200))
    else if bitLen m + e ≤ -25 then toFp32 (.fin false 1 0)
    else
      let k := (-e).toNat
      let v : Int := sInt s (if 0 ≤ e then m * 2 ^ e.toNat else m)
      let n := v / (2 ^ k : Nat)
      let f := (v % (2 ^ k : Nat)).toNat
      if f = 0 then toFp32 (.fin false 1 n)
      else toFp32 (sticky false (exp2Frac f k (2 ^ 161) (2 ^ 160)) (n - 160) true)

/-- The first `fuel` binary digits of log₂ x, for x in [1, 2) in units of 2^(−288). -/
def log2Digits : Nat → Nat → Nat → Nat
  | 0, _, acc => acc
  | fuel + 1, x, acc =>
    let y := x * x / 2 ^ 288
    if 2 ^ 289 ≤ y then log2Digits fuel (y / 2) (2 * acc + 1) else log2Digits fuel y (2 * acc)

/-- LOG2 (R167). -/
def log2Of (x : Val) : Conv :=
  match x with
  | .nan _ => toFp32 (.nan false)
  | .inf true => { val := Fmt.nan .fp32, inv := 1 }
  | .inf false => toFp32 (.inf false)
  | .fin s m e =>
    if m = 0 then toFp32 (.inf true)
    else if s then { val := Fmt.nan .fp32, inv := 1 }
    else
      let l := bitLen m
      let k : Int := (l : Int) - 1 + e
      if m = 2 ^ (l - 1) then toFp32 (.fin (decide (k < 0)) k.natAbs 0)
      else
        let d := log2Digits 140 (m * 2 ^ (289 - l)) 0
        let v : Int := 2 * (k * (2 ^ 140 : Nat) + d) + 1
        toFp32 (.fin (decide (v < 0)) v.natAbs (-141))

/-- RCP (R167). -/
def rcpOf (x : Val) : Conv :=
  match x with
  | .nan _ => toFp32 (.nan false)
  | .inf s => toFp32 (.fin s 0 0)
  | .fin s m e =>
    if m = 0 then toFp32 (.inf s)
    else
      let n := bitLen m + 64
      toFp32 (sticky s (2 ^ n / m) (-(n : Int) - e) (2 ^ n % m != 0))

/-- RSQRT (R167). -/
def rsqrtOf (x : Val) : Conv :=
  match x with
  | .nan _ => toFp32 (.nan false)
  | .inf true => { val := Fmt.nan .fp32, inv := 1 }
  | .inf false => toFp32 (.fin false 0 0)
  | .fin s m e =>
    if m = 0 then toFp32 (.inf s)
    else if s then { val := Fmt.nan .fp32, inv := 1 }
    else
      let (m, e) := if e % 2 = 0 then (m, e) else (2 * m, e - 1)
      let q := isqrt (2 ^ 200 / m)
      toFp32 (sticky false q (-100 - e / 2) (q * q * m != 2 ^ 200))

end Sys2Proof.Machine
end

