-- ==== Sys2Proof/Machine/Vector.lean ====
section
/-! DEFINITION. The vector engine (R158 to R178): the descriptor and its checks, operands, results, the output stage, poison; one
command per operation, and the completion. -/

namespace Sys2Proof.Machine

/-! ### The descriptor (R160, R161) -/

/-- The operations of R164. -/
inductive VOp
  | add | sub | mul | max | min | fma | bscale | cvt | abs | neg | exp2 | log2 | rcp | rsqrt
  | rsum | rmax | rmin | ramax | scani | scane | scanmax
deriving DecidableEq, Repr

/-- The operation of an OP code; none is reserved. -/
def VOp.ofCode : Nat → Option VOp
  | 0x01 => some .add | 0x02 => some .sub | 0x03 => some .mul | 0x04 => some .max | 0x05 => some .min | 0x06 => some .fma
  | 0x07 => some .bscale | 0x10 => some .cvt | 0x11 => some .abs | 0x12 => some .neg | 0x13 => some .exp2 | 0x14 => some .log2
  | 0x15 => some .rcp | 0x16 => some .rsqrt | 0x20 => some .rsum | 0x21 => some .rmax | 0x22 => some .rmin | 0x23 => some .ramax
  | 0x30 => some .scani | 0x31 => some .scane | 0x32 => some .scanmax
  | _ => none

/-- The specification at byte i of a descriptor. -/
def VSpec.of (bs : List Byte) (i : Nat) : VSpec :=
  { off := word32 bs i, stride := word32 bs (i + 4), kind := byteAt bs (i + 8), index := byteAt bs (i + 9)
    rsv := word32 bs i / 2 ^ 24 != 0 || byteAt bs (i + 10) != 0 || byteAt bs (i + 11) != 0 }

/-- The fields of a descriptor from its 64 bytes. -/
def VDesc.of (bs : List Byte) : VDesc :=
  { code := byteAt bs 0, flags := byteAt bs 1, conv := ofLe ((bs.drop 2).take 2), fa := byteAt bs 4 % 16, fb := byteAt bs 4 / 16
    fc := byteAt bs 5 % 16, fcRsv := byteAt bs 5 / 16 != 0, rows := ofLe ((bs.drop 6).take 2), cols := word32 bs 8
    c := word32 bs 12, a := VSpec.of bs 16, b := VSpec.of bs 28, cop := VSpec.of bs 40, d := VSpec.of bs 52 }

def VDesc.op (d : VDesc) : VOp := (VOp.ofCode d.code).getD .cvt
def VDesc.wide (d : VDesc) : Bool := bit d.flags 0
def VDesc.seg (d : VDesc) : Bool := bit d.flags 1
def VDesc.ccw (d : VDesc) : CCW := CCW.of d.conv
/-- The format of operand i, 0 A, 1 B, 2 C. -/
def VDesc.fmt (d : VDesc) (i : Nat) : Fmt :=
  (Fmt.ofCode (match i with | 0 => d.fa | 1 => d.fb | _ => d.fc)).getD .fp32
def VDesc.target (d : VDesc) : Fmt := (Fmt.ofCode d.ccw.target).getD .fp32
/-- The specification of operand i. -/
def VDesc.spec (d : VDesc) (i : Nat) : VSpec := match i with | 0 => d.a | 1 => d.b | _ => d.cop

/-- Operations that give one result per row. -/
def VOp.reduces : VOp → Bool
  | .rsum | .rmax | .rmin | .ramax => true
  | _ => false

/-- Operations with running sums or maxima along a row. -/
def VOp.scans : VOp → Bool
  | .scani | .scane | .scanmax => true
  | _ => false

/-- Whether a segmented scan is asked for: operand B is then read as flags (R169). -/
def VDesc.flagged (d : VDesc) : Bool := d.seg && (d.op == .scani || d.op == .scane)

/-- How many of the operands A, B and C the operation uses (R164). -/
def VDesc.arity (d : VDesc) : Nat :=
  match d.op with
  | .add | .sub | .mul | .max | .min | .bscale => 2
  | .fma => 3
  | .scani | .scane => if d.seg then 2 else 1
  | _ => 1

/-- The bytes of one row of operand i from its row start (R161). -/
def VDesc.rowLen (d : VDesc) (i : Nat) : Nat :=
  let n := if (d.spec i).kind = 4 ∨ (d.spec i).kind = 5 then 1 else d.cols
  if i = 1 ∧ d.op = .bscale then ceilDiv n 32
  else if i = 1 ∧ d.flagged = true then ceilDiv d.cols 8
  else rowBytes (d.fmt i) n

/-- The bytes of one row of the destination. -/
def VDesc.outLen (d : VDesc) : Nat := rowBytes d.target (if d.op.reduces then 1 else d.cols)

/-- The element width in bytes that an OFFSET and a STRIDE are aligned to; a 4-bit row starts on a byte. -/
def VDesc.unit (d : VDesc) (i : Nat) : Nat :=
  let f := if i = 3 then d.target else d.fmt i
  if i = 1 ∧ (d.op = .bscale ∨ d.flagged = true) then 1 else if f.width = 4 then 1 else f.width / 8

/-- The first byte after every byte placed for specification i; 3 is the destination. -/
def VDesc.spanEnd (d : VDesc) (i : Nat) : Nat :=
  let sp := if i = 3 then d.d else d.spec i
  sp.off + (d.rows - 1) * sp.stride + (if i = 3 then d.outLen else d.rowLen i)

/-- Whether a specification is in core memory, or in a tile buffer. (DESIGN CHOICE, log entry 92). -/
def VSpec.inCore (sp : VSpec) : Bool := sp.kind == 1 || sp.kind == 4
def VSpec.inTile (sp : VSpec) : Bool := sp.kind == 2 || sp.kind == 5

/-- The largest INDEX of a KIND (R161). -/
def VSpec.indexOk (sp : VSpec) : Bool :=
  match sp.kind with
  | 0 | 1 | 4 => sp.index == 0
  | 2 | 5 => decide (sp.index ≤ 3)
  | 3 => decide (sp.index ≤ 15)
  | _ => false

/-- A check of R162: number, whether it fails, status, and the specification named: 0 A, 1 B, 2 C, 3 D, 15 none. -/
structure VCheck where
  num  : Nat
  bad  : Bool
  st   : Status
  who  : Nat
deriving DecidableEq, Repr

/-- The checks of R162 and R163 in order; within one, A, B, C, D and then what no specification names. -/
def VDesc.checks (d : VDesc) : List VCheck :=
  let used (i : Nat) : Bool := i < d.arity
  let ops := [0, 1, 2]
  let sp (i : Nat) : VSpec := if i = 3 then d.d else d.spec i
  let placed (i : Nat) : Bool := (i == 3 || used i) && ((sp i).inCore || (sp i).inTile)
  let fmtBad (i : Nat) : Bool :=
    used i &&
      (if i = 1 ∧ d.flagged = true then d.fb != 0
       else
        ((sp i).kind == 3 && !(d.fmt i == .fp32 || d.fmt i == .int32)) ||
          ((d.fmt i == .e8m0) != (i == 1 && d.op == .bscale)))
  ([0, 1, 2, 3].map fun i =>
    ({ num := 1, bad := (sp i).rsv || decide (10 ≤ [d.fa, d.fb, d.fc, 0].getD i 0), st := .formatReserved, who := i } : VCheck)) ++
  [{ num := 1, bad := d.flags / 4 != 0 || d.fcRsv || d.ccw.rsv != 0 || decide (10 ≤ d.ccw.target), st := .formatReserved
     who := 15 },
   { num := 2, bad := (VOp.ofCode d.code).isNone, st := .vecOpcode, who := 15 }] ++
  (ops.map fun i =>
    ({ num := 3, bad := (used i == ((sp i).kind == 0)) || decide (6 ≤ (sp i).kind) || !(sp i).indexOk, st := .vecShape
       who := i } : VCheck)) ++
  [{ num := 3, bad := !((d.d.kind == 1 || d.d.kind == 2) && d.d.indexOk), st := .vecShape, who := 3 },
   { num := 3, bad := d.seg && !(d.op == .scani || d.op == .scane), st := .vecShape, who := 15 }] ++
  (ops.map fun i => ({ num := 4, bad := fmtBad i, st := .formatMismatch, who := i } : VCheck)) ++
  [{ num := 4, bad := d.target == .e8m0 || ((d.target == .fp4 || d.target == .int4) && d.op != .cvt), st := .formatMismatch
     who := 3 },
   { num := 5, bad := d.rows == 0 || decide (4097 ≤ d.rows) || d.cols == 0 || decide (65537 ≤ d.cols), st := .vecShape
     who := 15 }] ++
  ([0, 1, 2, 3].map fun i =>
    ({ num := 6, bad := (i == 3 || used i) && ((sp i).off % d.unit i != 0 || (sp i).stride % d.unit i != 0), st := .vecShape
       who := i } : VCheck)) ++
  ([0, 1, 2, 3].map fun i =>
    ({ num := 7, bad := placed i && (sp i).inCore && decide (0xE00000 < d.spanEnd i), st := .coreRange, who := i } : VCheck)) ++
  ([0, 1, 2, 3].map fun i =>
    ({ num := 8, bad := placed i && (sp i).inTile && decide (0x4000 < d.spanEnd i), st := .vecRange, who := i } : VCheck))

/-- The first check that fails. -/
def VDesc.fail (d : VDesc) : Option VCheck := d.checks.find? VCheck.bad

/-! ### Operands -/

/-- A byte with its tag of core memory or of a tile buffer, as the specification's KIND says. -/
def State.vByte (s : State) (g : Nat) (sp : VSpec) (a : Nat) : Byte × Bool :=
  if sp.inTile then
    (Tab.get 0 (s.stall g).vt (sp.index * 0x4000 + a), Tab.get false (s.stall g).vtTag (sp.index * 0x4000 + a))
  else (Tab.get 0 s.mem (coreAddr g a), Tab.get false s.memTag (coreAddr g a))

/-- n bytes with their tags, as a number. -/
def State.vBytes (s : State) (g : Nat) (sp : VSpec) (a n : Nat) : PVal :=
  let l := (List.range n).map fun i => s.vByte g sp (a + i)
  { v := ofLe (l.map Prod.fst), p := l.any Prod.snd }

/-- The visible value of sb i as the running operation sampled it at its start (R149, R172). -/
def State.vScalar (s : State) (g i : Nat) : PVal :=
  match (s.stall g).vrun with
  | some r => Tab.get {} r.sb i
  | none => {}

/-- Element (r, j) of an operand in format f (R161). -/
def State.vElem (s : State) (g : Nat) (f : Fmt) (sp : VSpec) (r j : Nat) : PVal :=
  if sp.kind = 3 then s.vScalar g sp.index
  else
    let j := if sp.kind = 4 ∨ sp.kind = 5 then 0 else j
    let row := sp.off + r * sp.stride
    if f.width = 4 then
      let b := s.vBytes g sp (row + j / 2) 1
      { b with v := if j % 2 = 0 then b.v % 16 else b.v / 16 }
    else s.vBytes g sp (row + j * (f.width / 8)) (f.width / 8)

/-- The E8M0 byte of operand B of BSCALE for element (r, j) (R161). -/
def State.vScale (s : State) (g : Nat) (sp : VSpec) (r j : Nat) : PVal :=
  s.vBytes g sp (sp.off + r * sp.stride + (if sp.kind = 4 ∨ sp.kind = 5 then 0 else j / 32)) 1

/-- The flag of element (r, j) of a segmented scan (R169). A scalar has no bytes that R161 places: its flags are one free
byte. (DEDUCED, log entry 57). -/
def State.vFlag (s : State) (g : Nat) (sp : VSpec) (r j : Nat) : Bool × Bool :=
  let b := if sp.kind = 3 then { v := ((s.stall g).vrun.map VRun.flags).getD 0, p := false } else s.vBytes g sp (sp.off + r * sp.stride + j / 8) 1
  (bit b.v (j % 8), b.p)

/-! ### Results (R165 to R169, R171) -/

/-- The format in which two operands of the same format compute (R165). -/
def Fmt.selfCompute : Fmt → Fmt
  | .e4m3 | .e5m2 => .fp16
  | .int8 => .int32
  | f => f

/-- The compute format of two operands (R165). -/
def pairCompute (a b : Fmt) : Fmt := if a = b then a.selfCompute else widen a b

/-- The compute format of an operation (R165). (DEDUCED, log entries 63, 64). -/
def VDesc.compute (d : VDesc) : Fmt :=
  let fa := (d.fmt 0).expanded
  let fb := (d.fmt 1).expanded
  let base := match d.op with
    | .exp2 | .log2 | .rcp | .rsqrt | .bscale => .fp32
    | .add | .sub | .mul | .max | .min => pairCompute fa fb
    | .fma => widen (pairCompute fa fb) (d.fmt 2).expanded
    | _ => fa.selfCompute
  if d.wide ∧ (base = .bf16 ∨ base = .fp16) then .fp32 else base

/-- An operand's value in the compute format: exact, but for INT32 to FP32 (R70, R165); a poisoned element is zero (R171). -/
def widened (cf f : Fmt) (e : PVal) : Val :=
  if e.p then .fin false 0 0
  else
    let x := f.value e.v
    if f.isInt && !cf.isInt then cf.value (convert cf true x).val else x

/-- A result before the output stage: its value, its counts and its poison. -/
structure VRes where
  x   : Val
  ovf : Nat := 0
  inv : Nat := 0
  p   : Bool := false
deriving DecidableEq, Repr

/-- An exact result rounded once to the compute format (R165, R166). -/
def roundTo (cf : Fmt) (x : Val) (inv : Bool) : VRes :=
  let r := convert cf true x
  { x := cf.value r.val, ovf := r.ovf, inv := r.inv + b2n inv }

/-- A result already rounded to FP32. -/
def ofConv (r : Conv) : VRes := { x := Fmt.fp32.value r.val, ovf := r.ovf, inv := r.inv }

/-- An element-wise result (R164 to R167). -/
def VOp.elem (o : VOp) (cf : Fmt) (a b c : Val) : VRes :=
  match o with
  | .add => let (x, i) := a.add b; roundTo cf x i
  | .sub => let (x, i) := a.add b.neg; roundTo cf x i
  | .mul => let (x, i) := a.mul b; roundTo cf x i
  | .max => { x := a.max b }
  | .min => { x := a.min b }
  | .fma =>
    let (t, i) := a.mul b
    let (x, j) := t.add c
    roundTo cf x (i || j)
  | .bscale => match b with
    | .nan _ => { x := .nan false }
    | .fin _ _ e => match a with
      | .nan _ => { x := .nan false }
      | _ => roundTo cf (a.scale e) false
    | .inf _ => { x := a }
  | .abs => match a with
    | .nan _ => { x := .nan false }
    | _ => roundTo cf a.abs false
  | .neg => match a with
    | .nan s => { x := .nan (!s) }
    | _ => roundTo cf a.neg false
  | .exp2 => ofConv (exp2Of a)
  | .log2 => ofConv (log2Of a)
  | .rcp => ofConv (rcpOf a)
  | .rsqrt => ofConv (rsqrtOf a)
  | _ => { x := a }

/-- An integer value has no negative zero. -/
def Val.unsignedZero : Val → Val
  | .fin _ 0 _ => .fin false 0 0
  | x => x

/-- Element (r, j) of an element-wise operation, with its poison (R171). -/
def State.vResult (s : State) (g : Nat) (d : VDesc) (r j : Nat) : VRes :=
  let cf := d.compute
  let n := d.arity
  let e (i : Nat) : PVal :=
    if n ≤ i then {} else if i = 1 ∧ d.op = .bscale then s.vScale g d.b r j else s.vElem g (d.fmt i) (d.spec i) r j
  let v (i : Nat) : Val := widened cf (if i = 1 ∧ d.op = .bscale then .e8m0 else d.fmt i) (e i)
  let x := d.op.elem cf (v 0) (v 1) (v 2)
  { x with x := if cf.isInt then x.x.unsignedZero else x.x, p := (e 0).p || (e 1).p || (e 2).p }

/-- The sum of covered elements, rounded once, with the NaN creation counted once (R168). -/
def sumRes (f : Fmt) (x : Val) (made p : Bool) : VRes :=
  let cf : Fmt := if f.isInt then .int32 else .fp32
  { roundTo cf x made with p := p }

/-- The exact sum so far: its value, whether it covers +∞ and −∞, and its poison. -/
structure VAcc where
  x   : Val := .fin true 0 0
  pos : Bool := false
  neg : Bool := false
  p   : Bool := false
deriving DecidableEq, Repr

/-- An accumulator takes one more element. -/
def VAcc.add (q : VAcc) (v : Val) (p : Bool) : VAcc :=
  { x := (q.x.add v).1, pos := q.pos || v == .inf false, neg := q.neg || v == .inf true, p := q.p || p }

/-- The covered elements hold an infinity of each sign, which makes a NaN (R168). (DEDUCED, log entry 61). -/
def VAcc.made (q : VAcc) : Bool := q.pos && q.neg

/-- An accumulator that has covered nothing. (DEDUCED, log entry 60). -/
def VAcc.none : VAcc := {}

/-- The elements of row r of operand A as values with their poison. -/
def State.vRow (s : State) (g : Nat) (d : VDesc) (r : Nat) : List (Val × Bool) :=
  (List.range d.cols).map fun j =>
    let e := s.vElem g (d.fmt 0) d.a r j
    ((if e.p then (Val.fin false 0 0) else (d.fmt 0).value e.v), e.p)

/-- The one result of row r of a reduction (R164, R168). -/
def State.vReduce (s : State) (g : Nat) (d : VDesc) (r : Nat) : VRes :=
  let l := s.vRow g d r
  let p := l.any Prod.snd
  let fold (f : Val → Val → Val) (l : List Val) : Val :=
    match l with | [] => .fin false 0 0 | x :: t => t.foldl f (f x x)
  let vs := l.map Prod.fst
  match d.op with
  | .rmax => { x := fold Val.max vs, p := p }
  | .rmin => { x := fold Val.min vs, p := p }
  | .ramax =>
    let x := fold Val.max (vs.map Val.abs)
    if d.compute.isInt then { roundTo d.compute x false with p := p } else { x := x, p := p }
  | _ =>
    let q := l.foldl (fun q x => q.add x.1 x.2) VAcc.none
    sumRes (d.fmt 0) q.x q.made p

/-- The results of row r of a scan, element by element (R164, R168, R169, R171). The accumulator starts again where a flag is
set; a poisoned flag byte poisons its elements and every later output of the row. -/
def State.vScan (s : State) (g : Nat) (d : VDesc) (r : Nat) : List VRes :=
  let zero : Val := .fin false 0 0
  let res (q : VAcc) (empty flagP : Bool) : VRes :=
    if d.op == .scanmax then { x := q.x, p := q.p || flagP }
    else if empty then { x := zero, p := q.p || flagP }
    else { sumRes (d.fmt 0) q.x q.made (q.p || flagP) with p := q.p || flagP }
  let step (st : VAcc × Bool × Bool × List VRes) (jx : Nat × (Val × Bool)) : VAcc × Bool × Bool × List VRes :=
    let (q, empty, bad, out) := st
    let (j, v, p) := jx
    let (flag, fp) := if d.flagged then s.vFlag g d.b r j else (false, false)
    let bad := bad || fp
    let (q, empty) := if j = 0 ∨ flag = true then (VAcc.none, true) else (q, empty)
    let q' : VAcc := if d.op == .scanmax then { x := if empty then v.max v else q.x.max v, p := q.p || p } else q.add v p
    let o := if d.op == .scane then { res q empty bad with p := q.p || p || bad } else res q' false bad
    (q', false, bad, out ++ [o])
  (((List.range d.cols).zip (s.vRow g d r)).foldl step (VAcc.none, true, false, [])).2.2.2

/-- The results of row r. -/
def State.vResults (s : State) (g : Nat) (d : VDesc) (r : Nat) : List VRes :=
  if d.op.reduces then [s.vReduce g d r]
  else if d.op.scans then s.vScan g d r
  else (List.range d.cols).map fun j => s.vResult g d r j

/-! ### The output stage and the writes (R170, R171, R173) -/

/-- Whether byte a lies in what operand i places, taken over its rows. -/
def VDesc.covers (d : VDesc) (i a : Nat) : Bool :=
  let sp := d.spec i
  let r := if sp.stride = 0 then 0 else min (d.rows - 1) ((a - sp.off) / sp.stride)
  decide (sp.off ≤ a) && decide (a < sp.off + r * sp.stride + d.rowLen i)

/-- Whether destination byte a lies in an operand that is not in place (R173). -/
def VDesc.clash (d : VDesc) (a : Nat) : Bool :=
  (List.range d.arity).any fun i =>
    let sp := d.spec i
    let same := sp.kind == d.d.kind && sp.index == d.d.index && sp.off == d.d.off && sp.stride == d.d.stride
    let space := (sp.inCore && d.d.inCore) || (sp.inTile && d.d.inTile && sp.index == d.d.index)
    !same && space && d.covers i a

/-- One byte with its tag written at the destination; where the destination overlaps an operand that is not in place, the byte
is a free value (R173). (DEDUCED, log entry 56). -/
def State.vWrite (s : State) (g : Nat) (d : VDesc) (a : Nat) (v : Byte) (p : Bool) : State :=
  let (s, v) := if d.clash a then (s.takeFree, BitVec.ofNat 8 (s.freeVal 8)) else (s, v)
  if d.d.inTile then
    s.modStall g fun st =>
      { st with vt := Tab.set 0 st.vt (d.d.index * 0x4000 + a) v, vtTag := Tab.set false st.vtTag (d.d.index * 0x4000 + a) p }
  else s.writeByte (coreAddr g a) v p

/-- One result through the converter: the element written, with its counts and folds (R84 to R86, R170, R171). -/
def State.vOut (s : State) (g : Nat) (d : VDesc) (r j : Nat) (x : VRes) : State × PVal :=
  let s := s.count .vecElems g
  if x.p then
    let s := if bit (s.reg .vecCtl g) 0 then s.raiseOnce .vecEvent g 1 0x131 g d.code (r * 65536 + j) else s
    (s.count .vecPoison g, { v := 0, p := true })
  else
    let (t, i) := x.x.coarse d.ccw.scaleEn d.c
    let o := convert d.target d.ccw.ovfInf t
    let s := s.numCount g 8 d.ccw.target (x.ovf + o.ovf) (x.inv + o.inv + b2n i)
    let s := if d.ccw.amaxEn then s.setReg .stlAmaxVec g 0 (amaxFold (s.reg .stlAmaxVec g) t) else s
    (s, { v := o.val, p := false })

/-- Row r: every result through the output stage, and the row's bytes written. -/
def State.vRowOut (s : State) (g : Nat) (d : VDesc) (r : Nat) (res : List VRes) : State :=
  let (s, els) := ((List.range res.length).zip res).foldl (fun (s, out) (j, x) =>
    let (s, e) := s.vOut g d r j x
    (s, out ++ [e])) (s, [])
  let bs := pack d.target els
  ((List.range bs.length).zip bs).foldl (fun s (i, b) => s.vWrite g d (d.d.off + r * d.d.stride + i) b.1 b.2) s

/-- The running operation takes its next row: the results are formed from what the operands hold then, and written (R173,
R176). (DESIGN CHOICE, log entry 55). -/
def State.vNextRow (s : State) (g : Nat) : State :=
  match (s.stall g).vrun with
  | none => s
  | some r =>
    if r.row < r.d.rows then
      (s.vRowOut g r.d r.row (s.vResults g r.d r.row)).modStall g fun st => { st with vrun := some { r with row := r.row + 1 } }
    else s

/-- The running operation takes n more rows. -/
def State.vRows (s : State) (g : Nat) : Nat → State
  | 0 => s
  | n + 1 => State.vRows (s.vNextRow g) g n

/-- An operation starts: the running maximum is cleared where CONV asks for it, and the visible set is sampled (R149, R170, R172). -/
def State.vStart (s : State) (g : Nat) (e : QEntry) (d : VDesc) : State :=
  let s := if d.ccw.amaxClr then s.setReg .stlAmaxVec g 0 0 else s
  let flags := s.freeVal 8
  let s := if d.flagged && d.b.kind == 3 then s.takeFree else s
  s.modStall g fun st =>
    { st with vrun := some { e := e, d := d, row := 0, sb := st.core.sb, flags := flags }, vop := d.code }

/-! ### The commands -/

/-- VEC_FAULT of a failing check (R162, R178). -/
def State.vecFault (s : State) (g : Nat) (e : QEntry) (d : VDesc) (c : VCheck) : State :=
  let s := s.capture .vecEvent 0 .vecFault g (c.who * 2 ^ 40 + c.num * 2 ^ 36 + d.code * 2 ^ 24 + e.desc)
  let s := s.raise .vecEvent g 0 0x130 g c.num e.desc
  s.iqFault g e 2 e.desc 0 0 c.st

/-- A VOP at the head whose descriptor has operation o, or a reserved OP, starts once the engine is free: the descriptor is read
and checked, and its rows follow, the remaining ones at the latest with VOP_COMPLETE (R159, R162, R172, R184). (DEDUCED, log
entry 62). -/
def State.vop (s : State) (g : Nat) (o : VOp) : State :=
  match s.headIs g .vop with
  | none => s
  | some e =>
    if (s.stall g).vrun.isSome then s
    else
      let d := VDesc.of (s.read (coreAddr g e.desc) 64)
      if (VOp.ofCode d.code).isSome ∧ VOp.ofCode d.code ≠ some o then s
      else match d.fail with
        | some c => ((s.issue g e false).vecFault g e d c).settle g
        | none => ((s.issue g e true).vStart g e d).settle g

/-- VOP_ADD (R164, R165). -/
def execVopAdd (g : StallId) (s : State) : Host.Outcome State Fault Refusal := .next (s.vop g .add)
/-- VOP_SUB (R164, R165). -/
def execVopSub (g : StallId) (s : State) : Host.Outcome State Fault Refusal := .next (s.vop g .sub)
/-- VOP_MUL (R164, R165). -/
def execVopMul (g : StallId) (s : State) : Host.Outcome State Fault Refusal := .next (s.vop g .mul)
/-- VOP_MAX (R164, R165). -/
def execVopMax (g : StallId) (s : State) : Host.Outcome State Fault Refusal := .next (s.vop g .max)
/-- VOP_MIN (R164, R165). -/
def execVopMin (g : StallId) (s : State) : Host.Outcome State Fault Refusal := .next (s.vop g .min)
/-- VOP_FMA (R164, R165). -/
def execVopFma (g : StallId) (s : State) : Host.Outcome State Fault Refusal := .next (s.vop g .fma)
/-- VOP_BSCALE (R161, R164). -/
def execVopBscale (g : StallId) (s : State) : Host.Outcome State Fault Refusal := .next (s.vop g .bscale)
/-- VOP_CVT (R164, R170). -/
def execVopCvt (g : StallId) (s : State) : Host.Outcome State Fault Refusal := .next (s.vop g .cvt)
/-- VOP_ABS (R164, R166). -/
def execVopAbs (g : StallId) (s : State) : Host.Outcome State Fault Refusal := .next (s.vop g .abs)
/-- VOP_NEG (R164, R166). -/
def execVopNeg (g : StallId) (s : State) : Host.Outcome State Fault Refusal := .next (s.vop g .neg)
/-- VOP_EXP2 (R164, R167). -/
def execVopExp2 (g : StallId) (s : State) : Host.Outcome State Fault Refusal := .next (s.vop g .exp2)
/-- VOP_LOG2 (R164, R167). -/
def execVopLog2 (g : StallId) (s : State) : Host.Outcome State Fault Refusal := .next (s.vop g .log2)
/-- VOP_RCP (R164, R167). -/
def execVopRcp (g : StallId) (s : State) : Host.Outcome State Fault Refusal := .next (s.vop g .rcp)
/-- VOP_RSQRT (R164, R167). -/
def execVopRsqrt (g : StallId) (s : State) : Host.Outcome State Fault Refusal := .next (s.vop g .rsqrt)
/-- VOP_RSUM (R164, R168). -/
def execVopRsum (g : StallId) (s : State) : Host.Outcome State Fault Refusal := .next (s.vop g .rsum)
/-- VOP_RMAX (R164, R168). -/
def execVopRmax (g : StallId) (s : State) : Host.Outcome State Fault Refusal := .next (s.vop g .rmax)
/-- VOP_RMIN (R164, R168). -/
def execVopRmin (g : StallId) (s : State) : Host.Outcome State Fault Refusal := .next (s.vop g .rmin)
/-- VOP_RAMAX (R164, R168). -/
def execVopRamax (g : StallId) (s : State) : Host.Outcome State Fault Refusal := .next (s.vop g .ramax)
/-- VOP_SCANI (R168, R169). -/
def execVopScani (g : StallId) (s : State) : Host.Outcome State Fault Refusal := .next (s.vop g .scani)
/-- VOP_SCANE (R168, R169). -/
def execVopScane (g : StallId) (s : State) : Host.Outcome State Fault Refusal := .next (s.vop g .scane)
/-- VOP_SCANMAX (R168). -/
def execVopScanmax (g : StallId) (s : State) : Host.Outcome State Fault Refusal := .next (s.vop g .scanmax)

/-- VOP_COMPLETE (R172, R177): the rows that the running operation has not taken follow, and its last write has landed; `waits` is
the number of engine steps in which a bank was held by another unit. (DESIGN CHOICE, log entry 3). -/
def execVopComplete (g : StallId) (waits : Nat) (s : State) : Host.Outcome State Fault Refusal :=
  match (s.stall g).vrun with
  | none => .next s
  | some r =>
    let seq := (s.stall g).seqOf r.e
    let s := s.vRows g (r.d.rows - r.row)
    let s := (s.count .vecOps g).count .vecWaits g waits
    let s := s.modStall g fun st => { st with vrun := none, core := { st.core with irqEdge := st.core.irqEdge ||| 32 } }
    .next ((s.complete g r.e seq).settle g)

end Sys2Proof.Machine
end

