-- ==== Sys2Proof/Machine/Images.lean ====
section
/-! DEFINITION. Command records and job images (R405 to R409): reading through a queue's root, the form of a record, the form of an
image, and stages 1 and 2 of admission. -/

namespace Sys2Proof.Machine

/-! ### Reading through a root (R251, R407) -/

/-- n bytes of one line at a virtual address of queue q, with whether they lie in host memory: none when the read fails or returns
poison. -/
def State.vaLine (s : State) (q va n : Nat) : Option (List Byte × Bool) :=
  if 2 ^ 48 ≤ va then none
  else match (s.walk [] q va .load).1 with
    | .fault _ _ | .wait => none
    | .ok true pa => if !s.hostUp || (readTags s.hostTag pa n).any id then none else some (s.hread pa n, true)
    | .ok false pa => if s.isFenced (placeOf pa).bay || s.poisoned pa n then none else some (s.read pa n, false)

/-- The lines of a span, read in turn, and how many lie in host memory. -/
def State.vaLines (s : State) (q : Nat) : List (Nat × Nat) → Option (List Byte × Nat)
  | [] => some ([], 0)
  | (a, n) :: t => match s.vaLine q a n, State.vaLines s q t with
    | some (bs, h), some (r, k) => some (bs ++ r, k + b2n h)
    | _, _ => none

/-- n bytes from a virtual address of queue q. -/
def State.vaRead (s : State) (q va n : Nat) : Option (List Byte × Nat) := s.vaLines q (linesOf (n / 64 + 2) va n)

/-- The line that a read meets first waits for the CXL link (R388). -/
def State.vaWaits (s : State) (q va : Nat) : Bool :=
  !s.hostUp && s.hostWait && (match (s.walk [] q va .load).1 with
    | .ok h _ => h
    | .wait => true
    | .fault _ _ => false)

/-! ### Refusals (R410, R434) -/

/-- Why a record is refused: status, stage and failing check, and what the entry names. -/
structure Refuse where
  status : Status
  stage  : Nat
  check  : Nat
  stall  : Nat := 0xFFFF
  idx    : Nat := 0xFFFFFFFF
  tok    : Option Nat := none
  aux    : Nat := 0
deriving DecidableEq, Repr

/-- Bytes 32 to 33 of a detail: the token with its valid bit (R434). -/
def tokField : Option Nat → Nat
  | some t => 0x8000 + t
  | none => 0

/-- DETAIL of a REFUSE entry (R434). (DEDUCED, log entry 51). -/
def Refuse.detail (r : Refuse) (user : Nat) : List Byte :=
  leBytes 1 r.stage ++ leBytes 1 r.check ++ leBytes 2 r.stall ++ leBytes 4 r.idx ++ leBytes 2 (tokField r.tok) ++ leBytes 2 0 ++
    leBytes 4 r.aux ++ leBytes 4 0 ++ List.replicate 12 0 ++ leBytes 8 user

/-! ### Stage 1: the form of a record (R405, R406) -/

/-- The slots that a record occupies: a SLOTS of 0 is read as 1, and 9 or more occupies one slot. -/
def slotsOf (b1 : Nat) : Nat := if b1 = 0 ∨ 9 ≤ b1 then 1 else b1

/-- The failing check of R406, numbered in the order of its list. (DEDUCED, log entry 190). -/
def State.recordForm (s : State) (bs : List Byte) : Option Nat :=
  let kind := field bs 0 1
  let slots := if field bs 1 1 = 0 then 1 else field bs 1 1
  let job := kind == 1
  if !((kind == 1 && slots == 2) || (kind == 2 && slots == 1)) then some 1
  else if field bs 3 1 ≠ 0 ∨ zeros bs 24 (64 * slots - 24) = false ∨ (job = true ∧ (field bs 2 1 ≠ 0 ∨ field bs 14 2 ≠ 0)) ∨
      (job = false ∧ field bs 12 4 ≠ 0) then some 2
  else if 4000000000 < field bs 4 4 then some 3
  else if job = true ∧ field bs 8 8 % 64 ≠ 0 then some 4
  else if job = false ∧ (Tab.get none s.classes (field bs 2 1)).isNone = true then some 5
  else none

/-! ### Stage 2: the form of an image (R407 to R409) -/

/-- A structure that the header or a directory entry locates: its offset, its alignment and its size. -/
structure Span where
  off  : Nat
  unit : Nat
  len  : Nat
deriving DecidableEq, Repr

/-- The structures of a header whose count is not 0 (R407). -/
def headerSpans (h : List Byte) : List Span :=
  [⟨field h 24 4, 8, 32⟩, ⟨field h 32 4, 8, 16 * field h 28 2⟩, ⟨field h 36 4, 8, 8 * field h 40 4⟩,
   ⟨field h 44 4, 8, 16 * field h 48 4⟩, ⟨field h 52 4, 8, 16 * field h 56 4⟩, ⟨field h 60 4, 8, 16 * field h 64 2⟩].filter
    fun x => x.len != 0

/-- A structure lies outside the image. -/
def Span.outside (x : Span) (len : Nat) : Bool := decide (x.off < 128) || decide (len < x.off + x.len)

/-- The failing check of R409 on a header, of checks 1 to 3; `timed` says that the record has a DEADLINE. -/
def headerForm (h : List Byte) (timed : Bool) : Option Nat :=
  let len := field h 8 4
  if field h 0 4 ≠ 0x424A5848 ∨ field h 4 2 ≠ 1 ∨ 8 ≤ field h 6 1 ∨ 2 ≤ field h 7 1 ∨ field h 30 2 ≠ 0 ∨
      zeros h 66 62 = false then some 1
  else if len < 128 ∨ 2 ^ 30 < len ∨ 16 < field h 28 2 ∨ 4096 < field h 40 4 ∨ field h 48 4 = 0 ∨ 2048 < field h 48 4 ∨
      field h 56 4 = 0 ∨ 65536 < field h 56 4 ∨ 16 < field h 64 2 ∨ (timed = true ∧ field h 16 8 = 0) ∨
      (headerSpans h).any (fun x => x.off % x.unit != 0) = true then some 2
  else if (headerSpans h).any (fun x => x.outside len) = true then some 3
  else none

/-- Entries of 16 bytes of a directory. -/
def entries (bs : List Byte) : Nat → List (List Byte)
  | 0 => []
  | n + 1 => bs.take 16 :: entries (bs.drop 16) n

/-- The failing check of R409 on the directories, of checks 1 to 3 (R408). -/
def dirForm (len : Nat) (lists segs shadows : List (List Byte)) : Option Nat :=
  if lists.any (fun e => !zeros e 2 2 || !zeros e 12 4) || segs.any (fun e => !zeros e 2 2) ||
      shadows.any (fun e => !zeros e 12 4) then some 1
  else if lists.any (fun e => field e 8 4 % 16 != 0) ||
      segs.any (fun e => (field e 0 2 != 0xFFFF && decide (2048 ≤ field e 0 2)) || field e 4 4 % 64 != 0 || field e 8 4 % 64 != 0 ||
        decide (field e 8 4 < 64) || decide (0xE00000 < field e 4 4 + field e 8 4)) ||
      shadows.any (fun e => field e 0 8 % 64 != 0 || decide (2 ^ 48 ≤ field e 0 8) || field e 8 4 % 64 != 0 ||
        decide (field e 8 4 < 64) || decide (2 ^ 30 < field e 8 4)) then some 2
  else if lists.any (fun e => field e 4 4 != 0 && Span.outside ⟨field e 8 4, 16, 16 * field e 4 4⟩ len) ||
      segs.any (fun e => Span.outside ⟨field e 12 4, 1, field e 8 4⟩ len) then some 3
  else none

/-- A placement record (R210). -/
def Placement.of (bs : List Byte) : Placement :=
  { mode := field bs 0 1 % 4, barrier := bit (field bs 0 1) 2, least := field bs 4 4, bays := field bs 8 4, stalls := field bs 16 8
    rsv := decide (8 ≤ field bs 0 1) || !zeros bs 1 3 || !zeros bs 12 4 || !zeros bs 24 8 || decide (2 ≤ field bs 0 1 % 4) }

/-- A tally claim (R213). -/
def Claim.of (bs : List Byte) : Claim :=
  { tally := field bs 0 2, cover := bit (field bs 2 1) 0, base := field bs 4 4, limit := field bs 8 4
    rsv := decide (8192 ≤ field bs 0 2) || decide (2 ≤ field bs 2 1) || !zeros bs 3 1 || !zeros bs 12 4 }

/-- Words of w bytes. -/
def wordsOf (w : Nat) (bs : List Byte) : Nat → List Nat
  | 0 => []
  | n + 1 => ofLe (bs.take w) :: wordsOf w (bs.drop w) n

/-- The segments that a stall has: its own and those of every placed stall (R408). -/
def Image.segsOf (im : Image) (g : Nat) : List Seg := im.segs.filter fun x => x.stall == g || x.stall == 0xFFFF

/-- A span lies wholly within segments. -/
def covered (segs : List Seg) : Nat → Nat → Nat → Bool
  | 0, _, _ => false
  | fuel + 1, a, n =>
    if n = 0 then true
    else match segs.find? fun x => decide (x.off ≤ a) && decide (a < x.off + x.bytes.length) with
      | none => false
      | some x => let k := min n (x.off + x.bytes.length - a); covered segs fuel (a + k) (n - k)

/-- n bytes of core memory as the segments of a stall set them; a byte that none sets is zero. -/
def segBytes (segs : List Seg) (a n : Nat) : List Byte :=
  (List.range n).map fun i => match segs.find? fun x => decide (x.off ≤ a + i) && decide (a + i < x.off + x.bytes.length) with
    | some x => x.bytes.getD (a + i - x.off) 0
    | none => 0

/-- The entry of a list: an instruction word with its index. -/
def JList.entries (l : JList) : List QEntry := l.words.zipIdx.map fun w => { word := w.1, slot := 0, gen := 0, idx := w.2 }

/-- What an instruction names in core memory (R409): a descriptor of 64 bytes, or the program image of a JBEGIN. -/
def QEntry.names (e : QEntry) : Option (Nat × Nat) :=
  match e.op with
  | some .jbegin => some (bits e.word 23 0, 16 * bits e.word 37 24)
  | some .mpass | some .wload | some .sld | some .sst | some .vop | some .fxch => some (e.desc, 64)
  | _ => none

/-- An item goes to its place in a list that rises by a key, after its equals. -/
def insertBy {α : Type} (k : α → Nat) (x : α) : List α → List α
  | [] => [x]
  | y :: t => if k x < k y then x :: y :: t else y :: insertBy k x t

/-- A list in ascending order of a key. -/
def sortBy {α : Type} (k : α → Nat) (l : List α) : List α := l.foldl (fun acc x => insertBy k x acc) []

/-- The lists of a job in ascending order of their stalls (R198). -/
def Image.ordered (im : Image) : List JList := sortBy JList.stall im.lists

/-- Two segments of one stall overlap (check 5 of R409). -/
def overlap : List Seg → Bool
  | [] => false
  | x :: t => t.any (fun y => (x.stall == y.stall || x.stall == 0xFFFF || y.stall == 0xFFFF) &&
      decide (x.off < y.off + y.bytes.length) && decide (y.off < x.off + x.bytes.length)) || overlap t

/-- The first instruction whose descriptor or program does not lie within its stall's segments (check 6 of R409). -/
def Image.outsideSegs (im : Image) : Option Refuse :=
  im.ordered.findSome? fun l => l.entries.findSome? fun e =>
    match e.names with
    | some (a, n) =>
      if covered (im.segsOf l.stall) (im.segs.length + 1) a n then none
      else some { status := .imageForm, stage := 2, check := 6, stall := l.stall, idx := e.idx, aux := a }
    | none => none

/-- The checks of R409 on an image that has been read. -/
def Image.form (im : Image) : Option Refuse :=
  let bad (n : Nat) : Option Refuse := some { status := .imageForm, stage := 2, check := n }
  if im.place.mode = 1 ∧ im.lists.any (fun l => l.stall != 0) = true then bad 4
  else if overlap im.segs then bad 5
  else match im.outsideSegs with
    | some r => some r
    | none => if im.inplace != !im.shadows.isEmpty then bad 7 else none

/-- The spans of an image, read in turn; none when a read fails. -/
def State.readAll (s : State) (q va : Nat) : List (Nat × Nat) → Option (List (List Byte) × Nat)
  | [] => some ([], 0)
  | (off, n) :: t => match s.vaRead q (va + off) n, State.readAll s q va t with
    | some (bs, k), some (r, j) => some (bs :: r, k + j)
    | _, _ => none

/-- A job image read through the root of queue q, or the check of R409 that fails; with the host-memory lines that were read.
(DEDUCED, log entry 191). -/
def State.readImage (s : State) (q va : Nat) (timed : Bool) : Except Refuse Image × Nat :=
  let bad (n : Nat) : Except Refuse Image := .error { status := .imageForm, stage := 2, check := n }
  match s.vaRead q va 128 with
  | none => (bad 8, 0)
  | some (h, k0) =>
    match headerForm h timed with
    | some n => (bad n, k0)
    | none =>
      match s.readAll q va [(field h 24 4, 32), (field h 32 4, 16 * field h 28 2), (field h 36 4, 8 * field h 40 4),
          (field h 44 4, 16 * field h 48 4), (field h 52 4, 16 * field h 56 4), (field h 60 4, 16 * field h 64 2)] with
      | some ([pl, cl, tk, ls, sg, sh], k1) =>
        let lists := entries ls (field h 48 4)
        let segs := entries sg (field h 56 4)
        let shadows := entries sh (field h 64 2)
        match dirForm (field h 8 4) lists segs shadows with
        | some n => (bad n, k0 + k1)
        | none =>
          match s.readAll q va (lists.map fun e => (field e 8 4, 16 * field e 4 4)),
              s.readAll q va (segs.map fun e => (field e 12 4, field e 8 4)) with
          | some (lw, k2), some (sb, k3) =>
            let im : Image :=
              { retry := field h 6 1, inplace := bit (field h 7 1) 0, energy := field h 12 4, steps := field h 16 8
                place := Placement.of pl, claims := (entries cl (field h 28 2)).map Claim.of, tokens := wordsOf 8 tk (field h 40 4)
                lists := (lists.zip lw).map fun x => { stall := field x.1 0 2, words := wordsOf 16 x.2 (field x.1 4 4) }
                segs := (segs.zip sb).map fun x => { stall := field x.1 0 2, off := field x.1 4 4, bytes := x.2 }
                shadows := shadows.map fun e => (field e 0 8, field e 8 4) }
            (match im.form with
             | some r => .error r
             | none => .ok im, k0 + k1 + k2 + k3)
          | _, _ => (bad 8, k0 + k1)
      | _ => (bad 8, k0)

/-- An image of queue q waits for the CXL link: a read of it needs host memory, which would answer on a link that is up (R388). -/
def State.imageWaits (s : State) (q va : Nat) (timed : Bool) : Bool :=
  !s.hostUp && s.hostWait &&
    (let now := s.readImage q va timed
     let up := { s with hostUp := true }.readImage q va timed
     now.2 != up.2 || (match now.1, up.1 with
      | .error r, .ok _ => r.check == 8
      | .error r, .error t => r.check == 8 && t.check != 8
      | .ok _, _ => false))

end Sys2Proof.Machine
end

