-- ==== Sys2Proof/Machine/Rates.lean ====
section
/-! DEFINITION. Step rates, predictions and charges (R412, R435 to R440, R449, R450). Rates count M steps/s, times host-reference
periods, charges mW. -/

namespace Sys2Proof.Machine

/-! ### The bound on the array rate (R435 to R438) -/

/-- The rows of R435: VDD_CORE in mV, and the rates in units of 10 M steps/s at 25, 60, 85 and 105 °C. -/
def rateRows : List (Nat × List Nat) :=
  [(580, [70, 68, 65, 63]), (600, [78, 76, 73, 70]), (620, [87, 84, 81, 77]), (650, [98, 95, 91, 87]), (700, [111, 108, 104, 99]),
   (750, [124, 120, 115, 110]), (800, [135, 131, 126, 121]), (850, [144, 140, 134, 129]), (900, [152, 148, 142, 136])]

/-- The column that applies to a temperature: the one at or above it, 105 °C beyond (R436). -/
def rateColumn (t : Nat) : Nat := if t ≤ 25 then 0 else if t ≤ 60 then 1 else if t ≤ 85 then 2 else 3

/-- The bound between two rows, linear in the voltage (R436). -/
def rateBetween (c mv : Nat) : List (Nat × List Nat) → Nat
  | [] => 0
  | [x] => x.2.getD c 0 * 10
  | x :: y :: t =>
    if mv ≤ x.1 then x.2.getD c 0 * 10
    else if mv ≤ y.1 then
      (x.2.getD c 0 * 10 * (y.1 - x.1) + (y.2.getD c 0 - x.2.getD c 0) * 10 * (mv - x.1)) / (y.1 - x.1)
    else rateBetween c mv (y :: t)

/-- The bound of R435 and R436 at a voltage and a temperature. -/
def rateBound (mv t : Nat) : Nat := rateBetween (rateColumn t) mv rateRows

/-- The setpoint of bay b. -/
def State.vset (s : State) (b : Nat) : Nat := bits (s.reg .engBayVset b) 9 0

/-- VMAX and VMIN of bay b (R439). -/
def State.vmax (s : State) (b : Nat) : Nat := bits (s.reg .engBayVlim b) 25 16
def State.vmin (s : State) (b : Nat) : Nat := bits (s.reg .engBayVlim b) 9 0

/-- The floor of bay b (R440). -/
def State.vfloor (s : State) (b : Nat) : Nat := max (s.vmin b) (bits (s.reg .engBayWarn b) 9 0 + 30)

/-- The bound of bay b at a voltage, at the present temperature. -/
def State.boundAt (s : State) (b mv : Nat) : Nat := rateBound mv (bits (s.reg .engBayTemp b) 7 0)

/-- The voltage whose bound counts for bay b: the setpoint, or the lower end of a ramp that runs (R437). -/
def State.vnow (s : State) (b : Nat) : Nat :=
  let r := Tab.get (0, 0) s.eng.ramp b
  if s.local b < r.2 then min r.1 (s.vset b) else s.vset b

/-- MEASURED less the margin (R438). -/
def State.measured (s : State) (b : Nat) : Nat :=
  bits (s.reg .engBayRate b) 11 0 * (256 - bits (s.reg .engBayRateCtl b) 7 0) / 256

/-- A warning of a rail of bay b runs: VDD_FAB for fab, else VDD_CORE (R441). -/
def State.warned (s : State) (b : Nat) (fab : Bool) : Bool := (Tab.get none s.eng.rails (b * 2 + b2n fab)).isSome

/-- The assured rate of bay b at a setpoint (R438, R443). (DEDUCED, log entries 200, 218). -/
def State.assuredAt (s : State) (b mv : Nat) : Nat :=
  if Tab.get false s.eng.sag b then s.measured b else min (s.boundAt b mv) (s.measured b)

/-- The assured rate of bay b (R438). -/
def State.assured (s : State) (b : Nat) : Nat := s.assuredAt b (s.vnow b)

/-- ENG_BAY_RATE.ASSURED shows the assured rate. -/
def State.showRate (s : State) (b : Nat) : State := s.setFld .engBayRate b 0 27 16 (s.assured b)

/-! ### Placement (R211, R216) -/

/-- No element twice, in order of first appearance. -/
def dedup : List Nat → List Nat
  | [] => []
  | a :: t => a :: (dedup t).filter (· != a)

/-- The placement set of a replicated job, before fences. -/
def Placement.all (p : Placement) : List Nat :=
  (List.range 32).flatMap fun b =>
    if bit p.bays b then (List.range 64).filterMap fun i => if bit p.stalls i then some (b * 64 + i) else none else []

/-- A spare bay for each fenced bay of a list, in ascending order (R216); none when spares run out. -/
def State.spares (s : State) (bays : List Nat) : List Nat → Option (List (Nat × Nat))
  | [] => some []
  | b :: t => match (List.range 32).find? fun x => !s.isFenced x && !bays.contains x with
    | none => none
    | some x => (State.spares s (x :: bays) t).map fun m => (b, x) :: m

/-- A stall id with its fenced bay replaced by the spare (R216). -/
def mapStall (m : List (Nat × Nat)) (g : Nat) : Nat :=
  match m.find? fun e => e.1 == g / 64 with
  | some e => e.2 * 64 + g % 64
  | none => g

/-- Where the lists of an image run now: the map of bays, and each placed stall with its list. None when the placement is lost
(R211, R212, R216). -/
def State.placed (s : State) (im : Image) : Option (List (Nat × Nat) × List (Nat × JList)) :=
  if im.place.mode = 1 then
    let on := im.place.all.filter fun g => !s.isFenced (g / 64)
    if on.length < im.place.least then none
    else match im.lists with
      | l :: _ => some ([], on.map fun g => (g, l))
      | [] => none
  else
    let bays := dedup (im.ordered.map fun l => l.stall / 64)
    (s.spares bays (bays.filter s.isFenced)).map fun m => (m, im.ordered.map fun l => (mapStall m l.stall, l))

/-- The stalls where an image would run now. -/
def State.stallsFor (s : State) (im : Image) : List Nat :=
  match s.placed im with
  | some x => x.2.map Prod.fst
  | none => []

/-- The bays of stalls. -/
def baysFor (l : List Nat) : List Nat := dedup (l.map (· / 64))

/-- The slot whose instance runs a job. -/
def State.runner (s : State) (slot : Nat) : Nat := ((s.job slot).leader).getD slot

/-- The stalls of an accepted job: where it runs, or where it would be placed. -/
def State.stallsOf (s : State) (slot : Nat) : List Nat :=
  let r := s.job (s.runner slot)
  if r.sent then r.stalls else match (s.job slot).img with
    | some im => s.stallsFor im
    | none => []

/-- The slots of accepted jobs that have not committed. -/
def State.live (s : State) : List Nat := (s.jobs.filter fun e => e.2.live).map Prod.fst

/-! ### Prediction (R412) -/

/-- The slowest assured rate of some bays, those of `at_` taken at the setpoint mv. -/
def State.slowest (s : State) (bays at_ : List Nat) (mv : Nat) : Nat :=
  match bays.map fun b => if at_.contains b then s.assuredAt b mv else s.assured b with
  | [] => 0
  | a :: t => t.foldl min a

/-- STEPS ÷ (10 × v) + 2000 periods, rounded up; none without a rate. (DEDUCED, log entry 197). -/
def runTime (steps rate : Nat) : Option Nat := if rate = 0 then none else some (ceilDiv (steps * 100) rate + 2000)

/-- max(P, E) of R412 for a record of queue q that runs on some stalls, with its deadline as a hub count. -/
def State.predBase (s : State) (q : Nat) (stalls : List Nat) (limit : Option Nat) : Nat :=
  let now := s.hubNow
  let mine := s.live.filter fun j => (s.job j).queue == q
  let last := mine.foldl (fun (a : Option Nat) j => match a with
    | none => some j
    | some k => if (s.job k).order < (s.job j).order then some j else a) none
  let p := match last with
    | some j => (s.job j).pred.getD now
    | none => now
  let before (j : Nat) : Bool := match (s.job j).limit, limit with
    | some a, some b => decide (a < b)
    | some _, none => true
    | none, _ => false
  let ends := (s.live.filter fun j => before j && (s.stallsOf j).any stalls.contains).map fun j => (s.job j).pred.getD now
  match ends with
  | [] => max p now
  | e :: t => max p (t.foldl max e)

/-- The prediction of an accepted job with the bays of `at_` at the setpoint mv (R412). -/
def State.predAt (s : State) (slot : Nat) (at_ : List Nat) (mv : Nat) : Option Nat :=
  let j := s.job slot
  match j.img with
  | none => none
  | some im =>
    if im.steps = 0 then none
    else (runTime im.steps (s.slowest (baysFor (s.stallsOf slot)) at_ mv)).map (j.base + ·)

/-- An accepted deadline job on some bays stays on time with those bays at the setpoint mv (R450, R451). -/
def State.onTime (s : State) (at_ : List Nat) (mv : Nat) : Bool :=
  s.live.all fun j => match (s.job j).limit with
    | none => true
    | some l => !((baysFor (s.stallsOf j)).any at_.contains) || (match s.predAt j at_ mv with
        | some t => decide (t ≤ l)
        | none => false)

/-! ### Charge (R449, R450) -/

/-- The charge rate in mW, rounded up, of a job that spends ENERGY ÷ part mJ at 0.75 V over D periods; none when D is 0.
(DEDUCED, log entry 198). -/
def chargeOf (energy part mv d : Nat) : Option Nat :=
  if d = 0 then none else some (ceilDiv (energy * mv * mv * 10 ^ 8) (562500 * d * part))

/-- The window w of the budget in ms, and P_B in W (R448). -/
def State.window (s : State) : Nat := bits (s.reg .engBudget 0) 9 0
def State.power (s : State) : Nat := bits (s.reg .engBudget 0) 30 16
/-- A budget is in force. -/
def State.budgetOn (s : State) : Bool := bit (s.reg .engBudget 0) 31

/-- The run time D of R449 on some bays, those of `at_` at the setpoint mv; 0 when it is not defined. -/
def State.timeFor (s : State) (steps : Nat) (bays at_ : List Nat) (mv : Nat) : Nat :=
  if steps = 0 then s.window * 100000 else (runTime steps (s.slowest bays at_ mv)).getD 0

/-- The highest setpoint of some bays. -/
def State.topSet (s : State) (bays : List Nat) : Nat := bays.foldl (fun a b => max a (s.vset b)) 0

/-- The charge of a job after bays that hold it wholly go to the setpoint mv (R450). -/
def State.rescaled (s : State) (slot : Nat) (at_ : List Nat) (mv : Nat) : Nat :=
  let bays := baysFor (s.stallsOf slot)
  let p := (s.job slot).charge
  if !bays.all at_.contains then p
  else
    let least (f : Nat → Nat) : Nat := match bays.map f with
      | [] => 0
      | a :: t => t.foldl min a
    let old := s.topSet bays
    let bo := least fun b => s.boundAt b (s.vset b)
    let bn := least fun b => s.boundAt b mv
    if old = 0 ∨ bo = 0 then p else ceilDiv (p * mv * mv * bn) (old * old * bo)

/-- The sum of the charge rates, those of jobs wholly within some bays rescaled for the setpoint mv. -/
def State.chargeSum (s : State) (at_ : List Nat) (mv : Nat) : Nat := (s.live.map fun j => s.rescaled j at_ mv).foldl (· + ·) 0

/-- ENG_CHARGED (R449). -/
def State.charged (s : State) : Nat := (s.live.map fun j => (s.job j).charge).foldl (· + ·) 0

/-- The test of R450: S plus p mW is at most P_B, with some bays at the setpoint mv. -/
def State.fits (s : State) (at_ : List Nat) (mv p : Nat) : Bool :=
  let w := s.window
  let sum := s.reg .engIdle 0 * 1000 + s.chargeSum at_ mv
  decide (max (s.reg .engWindowUsed 0 * 1000) (w * sum) + w * p ≤ w * s.power * 1000)

/-- The candidate setpoints of some bays, highest first, none above that of a bay in warning (R443, R450). (DEDUCED, log entry
199). -/
def State.candidates (s : State) (bays : List Nat) : List Nat :=
  let top := bays.foldl (fun a b => min a (if s.warned b false || s.warned b true then s.vset b else s.vmax b)) 900 / 10 * 10
  let low := bays.foldl (fun a b => max a (s.vfloor b)) 0
  ((List.range 91).filterMap fun i => if i * 10 ≤ top ∧ low ≤ top - i * 10 then some (top - i * 10) else none).filter
    fun v => s.onTime bays v

end Sys2Proof.Machine
end

