-- ==== Sys2Proof/Machine/Admission.lean ====
section
/-! DEFINITION. Admission checks of stages 3 and 4 (R181, R182, R189, R191, R198 to R201, R212): instruction words, list shape,
control-core programs, descriptors, tokens, the static graph with its cycle search, and resource claims. -/

namespace Sys2Proof.Machine

/-- A refusal that names an instruction of a list. -/
def refuseAt (st : Status) (stage check stall idx : Nat) (tok : Option Nat := none) (aux : Nat := 0) : Refuse :=
  { status := st, stage := stage, check := check, stall := stall, idx := idx, tok := tok, aux := aux }

/-- The first instruction of a job, in the order of R198, of which p holds. -/
def Image.firstInstr (im : Image) (p : QEntry → Bool) : Option (JList × QEntry) :=
  im.ordered.findSome? fun l => (l.entries.find? p).map fun e => (l, e)

/-! ### Check 1: instruction words (R181) -/

/-- The operand bits that R180 marks zero, by opcode: spans [hi:lo]. -/
def Op.zeroBits : Op → List (Nat × Nat)
  | .jbegin => [(87, 64)]
  | .jcommit | .tprod | .twait => [(87, 0)]
  | .qrep => [(31, 30), (87, 48)]
  | .mpass | .vop => [(87, 24)]
  | .wload => []
  | .sld | .sst => [(39, 28)]
  | .take => [(23, 13), (87, 48)]
  | .fxch => [(39, 33), (87, 64)]

/-- The opcode names a stream engine. -/
def Op.streams : Op → Bool
  | .wload | .sld | .sst | .fxch => true
  | _ => false

/-- INSTR_RESERVED (R181). -/
def QEntry.reserved (e : QEntry) : Bool :=
  match e.op with
  | none => true
  | some o =>
    bits e.word 117 116 != 0 || (o.zeroBits.any fun z => bits e.word z.1 z.2 != 0) ||
      (if o.streams then decide (4 ≤ e.unit) else e.unit != 0) ||
      (!e.wtEn && e.wtTok != 0) || (!e.prEn && e.prTok != 0)

/-- INSTR_FORM (R181): a must or clear rule or an alignment of R180, the MASK and PLEN. -/
def QEntry.badForm (e : QEntry) : Bool :=
  match e.op with
  | none => false
  | some o =>
    let w := e.word
    let wt : Bool := match o with
      | .jbegin => e.wtEn
      | .twait => !e.wtEn
      | _ => false
    let pr : Bool := match o with
      | .jcommit | .qrep | .twait => e.prEn
      | .tprod => !e.prEn
      | _ => false
    let port : Bool := !bit w 24 && (bits w 27 25 != 0 || (if o = .fxch then bits w 63 40 != 0 else bits w 87 40 != 0))
    let form : Bool := match o with
      | .jbegin => bits w 23 0 % 64 != 0 || bits w 37 24 == 0 || decide (8193 ≤ bits w 37 24)
      | .qrep => bits w 23 0 % 4 != 0
      | .take => bits w 47 24 % 8 != 0
      | .mpass | .vop => e.desc % 64 != 0
      | .wload => e.desc % 64 != 0 || bits w 87 24 == 0
      | .sld | .sst | .fxch => e.desc % 64 != 0 || port
      | _ => false
    wt || pr || form

/-- CORE_RANGE of an instruction word (R181). -/
def QEntry.badCore (e : QEntry) : Bool :=
  match e.op with
  | some .take => decide (0xE00000 ≤ bits e.word 47 24 + 7)
  | some .qrep => decide (0xE00000 ≤ bits e.word 23 0 + 3)
  | _ => false

/-- Check 1 of R198. (DEDUCED, log entry 192). -/
def Image.checkWords (im : Image) : Option Refuse :=
  let at_ (p : QEntry → Bool) (st : Status) : Option Refuse :=
    (im.firstInstr p).map fun x => refuseAt st 3 1 x.1.stall x.2.idx
  (at_ QEntry.reserved .instrReserved).orElse fun _ => (at_ QEntry.badForm .instrForm).orElse fun _ =>
    at_ QEntry.badCore .coreRange

/-! ### Check 2: list shape and repeat blocks (R182, R189) -/

/-- An instruction breaks the shape of a list of n instructions: JBEGIN stands first and only there, JCOMMIT last and only there. -/
def badPlace (n : Nat) (e : QEntry) : Bool :=
  (e.op == some .jbegin) != (e.idx == 0) || (e.op == some .jcommit) != (e.idx + 1 == n)

/-- The block of a QREP holds one of the three, or does not lie before the JCOMMIT (R189). -/
def badBlock (es : List QEntry) (e : QEntry) : Bool :=
  e.op == some .qrep &&
    (let len := bits e.word 29 24 + 1
     decide (es.length ≤ e.idx + len + 1) ||
      ((es.drop (e.idx + 1)).take len).any fun x => x.op == some .jbegin || x.op == some .jcommit || x.op == some .qrep)

/-- Check 2 of R198. -/
def Image.checkShape (im : Image) : Option Refuse :=
  im.ordered.findSome? fun l =>
    let es := l.entries
    let n := es.length
    if 65536 < n then some (refuseAt .instrCount 3 2 l.stall 0xFFFFFFFF)
    else match es.find? fun e => badPlace n e || badBlock es e with
      | some e => some (refuseAt .instrForm 3 2 l.stall e.idx)
      | none => if n < 2 then some (refuseAt .instrForm 3 2 l.stall 0xFFFFFFFF) else none

/-! ### Checks 3 and 4: programs and descriptors -/

/-- The bundles of the control-core program of a list, from its segments (R117, R119). -/
def Image.bundles (im : Image) (l : JList) : List (Nat × Bundle) :=
  match l.entries with
  | [] => []
  | e :: _ =>
    let n := bits e.word 37 24
    let bs := segBytes (im.segsOf l.stall) (bits e.word 23 0) (16 * n)
    (List.range n).map fun i => (i, Bundle.of (field bs (16 * i) 16))

/-- Check 3 of R198 (R119): a refused bundle is named with bit 31 set (R434). -/
def Image.checkCores (im : Image) : Option Refuse :=
  im.ordered.findSome? fun l => ((im.bundles l).find? fun b => !b.2.ok).map fun b =>
    refuseAt .ccoReserved 3 3 l.stall (2 ^ 31 + b.1)

/-- The failing check of the descriptor that an instruction names. -/
def descFail (e : QEntry) (bs : List Byte) : Option Status :=
  match e.op with
  | some .mpass => (firstFail (PassDesc.of bs).checks).map Prod.snd
  | some .vop => (VDesc.of bs).fail.map VCheck.st
  | some o =>
    if o.streams then
      let t := Transfer.ofInstr e 0 0 (StreamDesc.of bs)
      (firstFail (t.d.checks t.opc t.dir t.portEn)).map Prod.snd
    else none
  | none => none

/-- Check 4 of R198 (R97, R162, R242). -/
def Image.checkDescs (im : Image) : Option Refuse :=
  im.ordered.findSome? fun l => l.entries.findSome? fun e => match e.names with
    | some (a, n) => (descFail e (segBytes (im.segsOf l.stall) a n)).map fun st => refuseAt st 3 4 l.stall e.idx none a
    | none => none

/-! ### The static graph (R199) -/

/-- A node: its stall, whether it is of the control core, its index, the names it waits on, and the name it produces. -/
structure GNode where
  stall : Nat
  core  : Bool
  idx   : Nat
  waits : List Nat
  prod  : Option Nat
deriving DecidableEq, Repr

/-- The INDEX that names a node (R434). -/
def GNode.index (n : GNode) : Nat := if n.core then 2 ^ 31 + n.idx else n.idx

/-- The node of an instruction, with a wait that stands before its own. -/
def queueNode (g : Nat) (first : List Nat) (e : QEntry) : GNode :=
  { stall := g, core := false, idx := e.idx, waits := first ++ (if e.wtEn then [e.wtTok] else [])
    prod := if e.prEn then some e.prTok else none }

/-- The nodes of a queue: a QREP has a node without a wait, and its block appears twice, each copy taking the iteration wait with its
first instruction. (DEDUCED, log entry 193). -/
def queueNodes (g : Nat) : Nat → List QEntry → List GNode
  | 0, _ => []
  | _, [] => []
  | fuel + 1, e :: t =>
    if e.op = some .qrep then
      let len := bits e.word 29 24 + 1
      let copy := match t.take len with
        | [] => []
        | b :: bs => queueNode g (if e.wtEn then [e.wtTok] else []) b :: bs.map (queueNode g [])
      { queueNode g [] e with waits := [] } :: (copy ++ copy ++ queueNodes g fuel (t.drop len))
    else queueNode g [] e :: queueNodes g fuel t

/-- Bundles in node order: a LOOP body appears twice, a nested one four times. -/
def unrolled : Nat → List (Nat × Bundle) → List (Nat × Bundle)
  | 0, _ => []
  | _, [] => []
  | fuel + 1, b :: t =>
    if b.2.ctrl = some .loop then
      let len := bits b.2.cimm 5 0 + 1
      let body := unrolled fuel (t.take len)
      body ++ body ++ unrolled fuel (t.drop len)
    else b :: unrolled fuel t

/-- The nodes of a control core: WAITT, and PUB with CIMM [12] set. -/
def coreNodes (g : Nat) (bs : List (Nat × Bundle)) : List GNode :=
  (unrolled bs.length bs).filterMap fun b =>
    let name := bits b.2.cimm 11 0
    match b.2.ctrl with
    | some .waitt => some { stall := g, core := true, idx := b.1, waits := [name], prod := none }
    | some .pub => if bit b.2.cimm 12 then some { stall := g, core := true, idx := b.1, waits := [], prod := some name } else none
    | _ => none

/-- The nodes of each list: its queue's, then its control core's. -/
def Image.nodeLists (im : Image) : List (List GNode × List GNode) :=
  im.ordered.map fun l => (queueNodes l.stall l.words.length l.entries, coreNodes l.stall (im.bundles l))

/-- All nodes, in the order of R198. -/
def Image.nodes (im : Image) : List GNode := im.nodeLists.flatMap fun x => x.1 ++ x.2

/-! ### Check 5: token declarations (R190, R191, R211) -/

/-- A token record (R190). -/
def TokRec.of (w : Nat) : TokRec :=
  { init := bits w 45 38, cstall := bits w 37 27, pstall := bits w 26 16, ckind := bits w 15 14, pkind := bits w 13 12, name := bits w 11 0 }

/-- The records of a job's token table. -/
def Image.table (im : Image) : List TokRec := im.tokens.map TokRec.of

/-- A stall holds a list of the job. -/
def Image.holds (im : Image) (g : Nat) : Bool := im.lists.any fun l => l.stall == g

/-- The first record that breaks R191. -/
def Image.badRecord (im : Image) : List Nat → List Nat → Option Nat
  | _, [] => none
  | seen, w :: t =>
    let r := TokRec.of w
    if seen.contains r.name || w / 2 ^ 46 != 0 || r.pkind == 3 || !im.holds r.pstall ||
        (if r.ckind = 2 then r.cstall != 0 || im.place.mode == 1 else !im.holds r.cstall) then some r.name
    else Image.badRecord im (r.name :: seen) t

/-- A wait of a node on a name whose consumer the node is not. -/
def GNode.badWait (n : GNode) (tab : List TokRec) (name : Nat) : Bool :=
  match tab.find? fun t => t.name == name with
  | none => true
  | some t => if n.core then t.ckind != 1 || t.cstall != n.stall else !(t.ckind == 2 || (t.ckind == 0 && t.cstall == n.stall))

/-- A production of a node under a name whose producer the node is not. -/
def GNode.badProd (n : GNode) (tab : List TokRec) (name : Nat) : Bool :=
  match tab.find? fun t => t.name == name with
  | none => true
  | some t => t.pkind != b2n n.core || t.pstall != n.stall

/-- The name that a node uses against its declaration. -/
def GNode.badUse (n : GNode) (tab : List TokRec) : Option Nat :=
  (n.waits.find? fun t => n.badWait tab t).orElse fun _ => n.prod.bind fun t => if n.badProd tab t then some t else none

/-- Check 5 of R198. -/
def Image.checkTokens (im : Image) : Option Refuse :=
  match im.badRecord [] im.tokens with
  | some t => some { status := .tokenDecl, stage := 3, check := 5, tok := some t }
  | none => im.nodes.findSome? fun n => (n.badUse im.table).map fun t => refuseAt .tokenDecl 3 5 n.stall n.index (some t)

/-! ### Checks 6 and 7: wait matching and the cycle search (R200, R201) -/

/-- The numbers of the nodes that produce a record's name, in order. -/
def producers (ns : List (GNode × Nat)) (t : TokRec) : List Nat :=
  (ns.filter fun n => n.1.stall == t.pstall && n.1.core == (t.pkind == 1) && n.1.prod == some t.name).map Prod.snd

/-- The waits of the graph: the node, the name, and how many waits of the same consumer on the name stand before it. -/
def waitsOf (ns : List (GNode × Nat)) : List (GNode × Nat × Nat × Nat) :=
  let all := ns.flatMap fun n => n.1.waits.map fun w => (n.1, n.2, w)
  all.zipIdx.map fun x =>
    let same := (all.take x.2).filter fun y => y.1.stall == x.1.1.stall && y.1.core == x.1.1.core && y.2.2 == x.1.2.2
    (x.1.1, x.1.2.1, x.1.2.2, same.length)

/-- What R200 says of a wait: no edge, an edge from a node, or no production for it. -/
inductive Match
  | free
  | edge (u : Nat)
  | unmatched
deriving DecidableEq, Repr

/-- The matching of wait number k + 1 on a name (R200). -/
def matchWait (tab : List TokRec) (ns : List (GNode × Nat)) (name k : Nat) : Match :=
  match tab.find? fun t => t.name == name with
  | none => .free
  | some t =>
    if k < t.init ∨ t.pkind = 2 then .free
    else match (producers ns t)[k - t.init]? with
      | some u => .edge u
      | none => .unmatched

/-- Check 6 of R198. -/
def Image.checkMatch (im : Image) : Option Refuse :=
  let ns := im.nodes.zipIdx
  (waitsOf ns).findSome? fun x =>
    if matchWait im.table ns x.2.2.1 x.2.2.2 = .unmatched then some (refuseAt .tokenUnmatched 3 6 x.1.stall x.1.index (some x.2.2.1))
    else none

/-- The token edges (u, v, name) of the graph. -/
def Image.tokenEdges (im : Image) : List (Nat × Nat × Nat) :=
  let ns := im.nodes.zipIdx
  (waitsOf ns).filterMap fun x => match matchWait im.table ns x.2.2.1 x.2.2.2 with
    | .edge u => some (u, x.2.1, x.2.2.1)
    | _ => none

/-- Edges between consecutive numbers from a, n nodes long. -/
def chain (a n : Nat) : List (Nat × Nat) := (List.range (n - 1)).map fun i => (a + i, a + i + 1)

/-- The order edges (R199), lists numbered on from a. -/
def orderEdges (a : Nat) : List (List GNode × List GNode) → List (Nat × Nat)
  | [] => []
  | (q, c) :: t =>
    let k := q.length
    let m := c.length
    chain a k ++ chain (a + k) m ++ (if k = 0 ∨ m = 0 then [] else [(a, a + k), (a + k + m - 1, a + k - 1)]) ++
      orderEdges (a + k + m) t

/-- The nodes that can be reached from some nodes along edges, taking at most fuel rounds. -/
def reach (edges : List (Nat × Nat)) : Nat → List Nat → List Nat → List Nat
  | 0, seen, _ => seen
  | fuel + 1, seen, front =>
    let next := dedup ((edges.filter fun e => front.contains e.1 && !seen.contains e.2).map Prod.snd)
    if next.isEmpty then seen else reach edges fuel (seen ++ next) next

/-- Check 7 of R198: the first node that a token edge of a cycle enters (R201). -/
def Image.checkCycle (im : Image) : Option Refuse :=
  let ns := im.nodes
  let te := im.tokenEdges
  let edges := orderEdges 0 im.nodeLists ++ te.map fun e => (e.1, e.2.1)
  ns.zipIdx.findSome? fun n =>
    let into := te.filter fun e => e.2.1 == n.2
    if into.isEmpty then none
    else
      let r := reach edges ns.length [n.2] [n.2]
      (into.find? fun e => r.contains e.1).map fun e => refuseAt .tokenCycle 3 7 n.1.stall n.1.index (some e.2.2)

/-- Stage 3 of admission (R198). -/
def Image.stage3 (im : Image) : Option Refuse :=
  im.checkWords.orElse fun _ => im.checkShape.orElse fun _ => im.checkCores.orElse fun _ => im.checkDescs.orElse fun _ =>
    im.checkTokens.orElse fun _ => im.checkMatch.orElse fun _ => im.checkCycle

/-! ### Stage 4: resource claims (R212, R19, R420) -/

/-- Check 2 of R212. -/
def Image.placeForm (im : Image) : Bool :=
  let p := im.place
  if p.mode = 1 then
    im.lists.length != 1 || p.all.isEmpty || p.least == 0 || decide (p.all.length < p.least)
  else im.lists.any (fun l => decide (2048 ≤ l.stall)) || !distinct (im.lists.map JList.stall) || p.least != 0 || p.bays != 0 || p.stalls != 0

/-- Check 4 of R212. -/
def Image.claimForm (im : Image) : Bool :=
  decide (16 < im.claims.length) || im.claims.any (fun c => c.rsv || decide (c.limit < c.base)) ||
    !distinct (im.claims.map Claim.tally)

/-- The token records of a placed job, with their stalls: every record of a replicated job applies to each stall (R211, R216). -/
def Image.records (im : Image) (m : List (Nat × Nat)) (on : List Nat) : List TokRec :=
  if im.place.mode = 1 then on.flatMap fun g => im.table.map fun t => { t with cstall := g, pstall := g, copy := some g }
  else im.table.map fun t => { t with cstall := if t.ckind = 2 then 0 else mapStall m t.cstall, pstall := mapStall m t.pstall }

/-- The stalls whose counts a record takes an entry for, one for each (R192). (DEDUCED, log entry 194). -/
def TokRec.consumers (t : TokRec) (on : List Nat) : List Nat :=
  match t.ckind with
  | 2 => on
  | 3 => []
  | _ => [t.cstall]

/-- The entries that an image takes in the token table of bay b. -/
def Image.entriesIn (im : Image) (m : List (Nat × Nat)) (on : List Nat) (b : Nat) : Nat :=
  ((im.records m on).flatMap fun t => t.consumers on).foldl (fun n g => n + b2n (g / 64 == b)) 0

/-- The entries of a bay's token table (R19). -/
def tableSize : Nat := 262144

/-- Stage 4 of admission for a job image (R212, then R19 and R420). -/
def State.stage4 (s : State) (q : Nat) (im : Image) : Option Refuse :=
  let bad (st : Status) (n : Nat) : Option Refuse := some { status := st, stage := 4, check := n }
  if im.place.rsv then bad .placeForm 1
  else if im.placeForm then bad .placeForm 2
  else match s.placed im with
    | none => bad .placeLost 3
    | some (m, on) =>
      let on := on.map Prod.fst
      if im.claimForm then bad .tallyClaim 4
      else if (baysFor on).any fun b => decide (tableSize < im.entriesIn m on b) then bad .claimSpace 6
      else if (s.queue q).shadowLen < (im.shadows.map Prod.snd).foldl (· + ·) 0 then bad .claimSpace 7
      else none

end Sys2Proof.Machine
end

