-- ==== Sys2Proof/Machine/Contexts.lean ====
section
/-! DEFINITION. The context store (R231, R235, R236), and who may run: when an instance has ended, what accepted jobs own, and the
conditions that hold a record (R213, R411). -/

namespace Sys2Proof.Machine

/-! ### Contexts (R231, R236) -/

/-- Where context c stands in its home bay's context store, and in the mirror (R236, R414). (DESIGN CHOICE, log entry 81). -/
def ctxHome (c : Nat) : Nat := sysAddr (c / 8192) (64 * (c % 8192))
def ctxMirror (c : Nat) : Nat := hbmAddr ((c / 8192 + 16) % 32) (0x17F8000000 + 64 * (c % 8192))

/-- The 64 bytes of a context: from its home, or from the mirror while the home bay is fenced; none when both are lost, also once one
of the two bays has returned. -/
def State.ctxRead (s : State) (c : Nat) : Option (List Byte) :=
  if Tab.get false s.ctxLost c then none
  else if !s.isFenced (c / 8192) then some (s.read (ctxHome c) 64)
  else if !s.isFenced ((c / 8192 + 16) % 32) then some (s.read (ctxMirror c) 64)
  else none

/-- A context changes in its store and in its mirror, where their bays are in service. -/
def State.ctxWrite (s : State) (c : Nat) (bs : List Byte) : State :=
  let s := if s.isFenced (c / 8192) then s else s.write (ctxHome c) bs false
  if s.isFenced ((c / 8192 + 16) % 32) then s else s.write (ctxMirror c) bs false

/-- A context is written by a command, which ends a loss of it. -/
def State.ctxSet (s : State) (c : Nat) (bs : List Byte) : State :=
  { s with ctxLost := Tab.set false s.ctxLost c false }.ctxWrite c bs

/-- The contexts that a fence of bay b loses, because the other of the two stacks that hold them is lost already (R236): those that have
entries in its memory. (DESIGN CHOICE, log entry 259). -/
def State.ctxDoomed (s : State) (b : Nat) : List Nat :=
  let o := (b + 16) % 32
  if s.isFenced o = false then []
  else
    let part (base home : Nat) : List Nat :=
      (s.mem.filter fun e => decide (base ≤ e.1) && decide (e.1 < base + 0x80000)).map fun e => home * 8192 + (e.1 - base) / 64
    dedup (part (sysAddr b 0) b ++ part (hbmAddr b 0x17F8000000) o)

/-- STATE of a context, and its QUEUE. -/
def ctxState (bs : List Byte) : Nat := field bs 8 1
def ctxQueue (bs : List Byte) : Nat := field bs 9 1

/-- A context after a step that produced a token (R235). (DEDUCED, log entry 83). -/
def ctxStep (bs : List Byte) (tok : Nat) (fin : Bool) : List Byte :=
  let pos := (field bs 12 4 + 1) % 2 ^ 32
  let st := if fin || pos == field bs 20 4 then 2 else ctxState bs
  bs.take 8 ++ leBytes 1 st ++ (bs.drop 9).take 3 ++ leBytes 4 pos ++ leBytes 4 tok ++ bs.drop 20

/-- The context checks of a decode record (R232). (DEDUCED, log entry 82). -/
def State.ctxCheck (s : State) (q c : Nat) : Option Refuse :=
  let bad (st : Status) : Option Refuse := some { status := st, stage := 4, check := 5 }
  if 262144 ≤ c then bad .ctxRange
  else match s.ctxRead c with
    | none => none
    | some bs => if ctxState bs ≠ 1 ∨ ctxQueue bs ≠ q then bad .ctxState else none

/-- An accepted decode job of a context has not committed (R429). -/
def State.ctxBusy (s : State) (c : Nat) : Bool := s.live.any fun j => (s.job j).ctx == some c

/-! ### Ends -/

/-- Every cell that serves the instance has been released, or is gone with its bay (R213, R223). -/
def State.cellsFree (s : State) (r : Nat) : Bool :=
  (s.job r).cells.all fun c =>
    let x : Cell := Tab.get {} s.cells (c.1 * 256 + c.2)
    s.isFenced c.1 || x.state == 0 || x.job != r || x.gen != (s.job r).gen

/-- Execution has finished (R214): every JCOMMIT has completed, or firmware has abandoned the instance; one that is to run again or that
waits for answers of the host has not (R259, R260). -/
def Job.finished (j : Job) : Bool := ((j.sent && j.left.isEmpty) || j.abandoned) && !j.rerun && !j.asking

/-- A fault record of the instance is on its way (R258). -/
def State.faultComing (s : State) (r : Nat) : Bool := s.faultQ.any fun x => x.slot == r && x.gen == (s.job r).gen

/-- The instance of runner r has ended for good, so that its jobs can commit in their turn (R259, R260). -/
def State.ended (s : State) (r : Nat) : Bool := (s.job r).finished && !s.faultComing r && s.cellsFree r

/-- A job that JOB_ABANDON ends before its batch runs needs no instance. -/
def State.jobEnded (s : State) (slot : Nat) : Bool :=
  s.ended (s.runner slot) || ((s.job slot).own.isSome && !(s.job (s.runner slot)).sent)

/-! ### What accepted jobs hold -/

/-- The slots of the open batch that a decode record of a queue, class and context joins (R234). -/
def State.joins (s : State) (q cls ctx : Nat) : Option (List Nat) :=
  match (s.queue q).batch with
  | some b => if b.cls = cls ∧ (b.slots.any fun j => (s.job j).ctx == some ctx) = false then some b.slots else none
  | none => none

/-- A tally is owned by an accepted job other than some (R213). (DEDUCED, log entry 79). -/
def State.tallyOwned (s : State) (t : Nat) (but : List Nat) : Bool :=
  s.live.any fun j => !but.contains j && !s.jobEnded j &&
    (match (s.job j).img with
     | some im => im.claims.any fun c => c.tally == t
     | none => false)

/-- A job holds the token counts of its instance: a batch holds one set. -/
def State.carries (s : State) (slot : Nat) : Bool :=
  let j := s.job slot
  match j.ctx, j.leader with
  | none, _ => true
  | _, some r => r == slot
  | _, none => match (s.queue j.queue).batch with
    | some b => b.slots.head? == some slot
    | none => true

/-- The entries of the token table of bay b that accepted, uncommitted jobs take (R19). (DEDUCED, log entry 195). -/
def State.entriesUsed (s : State) (b : Nat) : Nat :=
  (s.live.filter s.carries).foldl (fun n slot =>
    let j := s.job slot
    n + (if j.sent then (j.tokens.flatMap fun t => t.consumers j.stalls).foldl (fun n g => n + b2n (g / 64 == b)) 0
      else match j.img with
        | none => 0
        | some im => match s.placed im with
          | none => 0
          | some (m, on) => im.entriesIn m (on.map Prod.fst) b)) 0

/-- The free entries of a placed bay do not hold the counts of an image (R19, R411). -/
def State.tableFull (s : State) (im : Image) : Bool :=
  match s.placed im with
  | none => false
  | some (m, on) =>
    let on := on.map Prod.fst
    (baysFor on).any fun b => decide (tableSize < s.entriesUsed b + im.entriesIn m on b)

/-- The lowest free job slot. (DEDUCED, log entry 196). -/
def State.freeSlot (s : State) : Option Nat := (List.range 1024).find? fun j => !(s.job j).live

/-- An earlier accepted job of the queue without STEPS has not committed (R411, R412). -/
def State.blindJob (s : State) (q : Nat) : Bool :=
  s.live.any fun j => (s.job j).queue == q && (match (s.job j).img with
    | some im => im.steps == 0
    | none => false)

/-- The conditions of R411 that hold a record which has passed every stage, the energy stage apart. -/
def State.mustHold (s : State) (q : Nat) (r : CmdRec) : Bool :=
  let f := s.queue q
  let join := match r.ctx with
    | some c => s.joins q r.cls c
    | none => none
  s.freeSlot.isNone || (r.img.claims.any fun c => s.tallyOwned c.tally (join.getD [])) ||
    decide ((f.copies.filter fun b => !s.isFenced b).length < 2) || !f.room || (join.isNone && s.tableFull r.img)

/-! ### Late causes (R424) -/

/-- A condition of R424 is observed for accepted jobs. -/
def State.addCause (s : State) (p : Nat → Bool) (c : Nat) : State :=
  each (s.live.filter p) s fun s j => s.modJob j fun x => if x.causes.contains c then x else { x with causes := x.causes ++ [c] }

/-- A re-run of a job also counts for the later jobs of its queue (condition 1 of R423). -/
def State.causeFor (s : State) (slot c : Nat) : State :=
  let j := s.job slot
  s.addCause (fun k => k == slot || ((s.job k).queue == j.queue && decide (j.order < (s.job k).order))) c

/-- A bay counts as throttled (R453, R454). -/
def State.throttled (s : State) (b : Nat) : Bool :=
  Tab.get false s.eng.throt b || Tab.get false s.eng.hot b || s.eng.offset != 0 || s.eng.pace != 0

/-- The runs of a job have stepped past its STEPS (condition 3 of R423). -/
def State.exceeded (s : State) (slot : Nat) : Bool :=
  match (s.job slot).img with
  | some im => im.steps != 0 && (s.job (s.runner slot)).used.any fun e => decide (im.steps < e.2)
  | none => false

/-- Whether job a counts for job b under condition 3 of R423: an earlier job of its queue, or one with an earlier deadline that shares
a stall. -/
def State.bears (s : State) (a b : Nat) : Bool :=
  let x := s.job a
  let y := s.job b
  a != b && ((x.queue == y.queue && decide (x.order < y.order)) ||
    ((match x.limit, y.limit with
      | some l, some m => decide (l < m)
      | some _, none => true
      | none, _ => false) && (s.stallsOf a).any (s.stallsOf b).contains))

end Sys2Proof.Machine
end

