-- ==== Sys2Proof/Machine/Jobs.lean ====
section
/-! DEFINITION. Admission, batches, dispatch, re-runs and commit (R209 to R236, R405 to R424, R498). -/

namespace Sys2Proof.Machine

/-! ### Setpoints -/

/-- Where VDD_CORE of bay b stands, in mV: on the way from where its ramp began to the setpoint, at 1 mV in 10 periods (R437). -/
def State.railAt (s : State) (b : Nat) : Nat :=
  let (start, till) := Tab.get (0, 0) s.eng.ramp b
  let left := (till - s.local b + 9) / 10
  let mv := s.vset b
  if start < mv then mv - min left (mv - start) else mv + min left (start - mv)

/-- A bay's setpoint changes: VDD_CORE ramps from where it stands at 10 mV per µs (R437). (DEDUCED, log entry 220). -/
def State.setVset (s : State) (b mv : Nat) : State :=
  let old := s.railAt b
  if mv = s.vset b then s
  else
    let gap := if old < mv then mv - old else old - mv
    let till := s.local b + gap * 10
    let s := s.setFld .engBayVset b 0 9 0 mv
    ({ s with eng := { s.eng with ramp := Tab.set (0, 0) s.eng.ramp b (old, till) } }).showRate b

/-! ### Stages 5 and 6, and acceptance (R411 to R413, R449, R450) -/

/-- What the last stages decide on a record. -/
inductive Decision
  | refuse (r : Refuse)
  | hold
  | accept (set : Option Nat) (charge : Option Nat) (base : Nat) (pred : Option Nat)
deriving DecidableEq, Repr

/-- The part of its image's ENERGY that a record is charged: FILL shares for a decode record (R449). -/
def State.shares (s : State) (r : CmdRec) : Nat :=
  match r.ctx, Tab.get none s.classes r.cls with
  | some _, some c => c.fill
  | _, _ => 1

/-- Stages 5 and 6 on a record of queue q, and the conditions that hold it (R411, R412, R450). -/
def State.weigh (s : State) (q : Nat) (r : CmdRec) : Decision :=
  let now := s.hubNow
  let limit := if r.deadline = 0 then none else some (now + r.deadline * 100)
  let stalls := s.stallsFor r.img
  let bays := baysFor stalls
  let part := s.shares r
  if limit.isSome && s.blindJob q then .hold
  else
    let base := s.predBase q stalls limit + 3200 * (bays.filter fun b => (s.hbm b).phase != 0).length
    let predAt (at_ : List Nat) (mv : Nat) : Option Nat :=
      if r.img.steps = 0 then none else (runTime r.img.steps (s.slowest bays at_ mv)).map (base + ·)
    let inTime (p : Option Nat) : Bool := match limit, p with
      | none, _ => true
      | some l, some t => decide (t ≤ l)
      | some _, none => false
    let cost (at_ : List Nat) (mv : Nat) : Option Nat := chargeOf r.img.energy part mv (s.timeFor r.img.steps bays at_ mv)
    if !inTime (predAt [] 0) then .refuse { status := .deadlineUnreachable, stage := 5, check := 1 }
    else if !s.budgetOn then
      (if s.mustHold q r then .hold else .accept none (cost [] (s.topSet bays)) base (predAt [] 0))
    else
      let cs := s.candidates bays
      match cs.find? fun v => inTime (predAt bays v) && (match cost bays v with
          | some p => s.fits bays v p
          | none => false) with
      | some v => if s.mustHold q r || s.eng.over_ then .hold else .accept (some v) (cost bays v) base (predAt bays v)
      | none =>
        let low := cs.getLast?.getD (bays.foldl (fun a b => max a (s.vfloor b)) 0)
        let own := match cost bays low with
          | some p => decide (s.power * 1000 < s.reg .engIdle 0 * 1000 + p)
          | none => false
        if own then .refuse { status := .energyBudget, stage := 6, check := 1 } else .hold

/-- A batch closes: its jobs run in the instance of its first one (R234). (DESIGN CHOICE, log entry 201). -/
def State.closeBatch (s : State) (q : Nat) : State :=
  match (s.queue q).batch with
  | none => s
  | some b =>
    let s := s.modQueue q fun x => { x with batch := none }
    match b.slots with
    | [] => s
    | r :: _ =>
      let s := each b.slots.zipIdx s fun s x => s.modJob x.1 fun j => { j with leader := some r, entry := x.2 }
      s.modJob r fun j => { j with batch := b.slots, rows := b.slots.length }

/-- A decode job enters the open batch of its queue, or opens one; a batch of FILL records closes (R234). -/
def State.enterBatch (s : State) (q slot : Nat) : State :=
  let j := s.job slot
  let fill := (j.cla.map BatchClass.fill).getD 1
  let old := match j.ctx with
    | some c => s.joins q j.cls c
    | none => none
  let s := if old.isSome then s else s.closeBatch q
  let slots := old.getD [] ++ [slot]
  let since := match (s.queue q).batch with
    | some b => b.since
    | none => j.taken
  let s := s.modQueue q fun x => { x with batch := some { cls := j.cls, slots := slots, since := since } }
  if fill ≤ slots.length then s.closeBatch q else s

/-- The queue's records that a consumed record moves HEAD past. -/
def FeedQueue.past (f : FeedQueue) (slots : Nat) : Nat := (f.head + slots) % 2 ^ 32

/-- A record is refused: its REFUSE journal record precedes its entry (R413, R434). -/
def State.refuseRecord (s : State) (q : Nat) (bytes : List Byte) (slots user : Nat) (r : Refuse) : State :=
  let f := s.queue q
  let s := s.modQueue q fun x => { x with held := none }
  s.post q { typ := 2, status := r.status.code, aseq := 0xFFFFFFFF, fseq := f.head, job := 0x3FF, gen := 0, attempts := 0
             detail := r.detail user, body := bytes } (some (f.past slots))

/-- A record is accepted (R413): it takes a slot, whose generation advances, and the queue's next acceptance sequence number. -/
def State.acceptRecord (s : State) (q : Nat) (r : CmdRec) (charge : Option Nat) (base : Nat) (pred : Option Nat) : State :=
  match s.freeSlot with
  | none => s
  | some slot =>
    let f := s.queue q
    let now := s.hubNow
    let gen := ((s.job slot).gen + 1) % 256
    let p := charge.getD (s.freeVal 32)
    let s := if charge.isNone then s.takeFree else s
    let job : Job :=
      { gen := gen, live := true, queue := q, img := some r.img, aseq := f.aseq, fseq := r.fseq, user := r.user, order := s.accepts
        taken := now, limit := if r.deadline = 0 then none else some (now + r.deadline * 100), base := base, pred := pred
        charge := p, ctx := r.ctx, cls := r.cls, cla := if r.ctx.isSome then Tab.get none s.classes r.cls else none }
    let s := { s.modJob slot (fun _ => job) with accepts := s.accepts + 1 }
    let s := s.modQueue q fun x => { x with aseq := (x.aseq + 1) % 2 ^ 32, held := none }
    let bays := baysFor (s.stallsOf slot)
    let s := if bays.any fun b => s.warned b false || s.warned b true then s.addCause (· == slot) 3 else s
    let s := if bays.any s.throttled then s.addCause (· == slot) 4 else s
    let s := if r.ctx.isSome then s.enterBatch q slot else s.closeBatch q
    s.post q { typ := 1, aseq := f.aseq, fseq := r.fseq, job := slot, gen := gen, attempts := 0, body := r.bytes } (some (f.past r.slots))

/-- The setpoint that stage 6 chose is written, with the charges it rescales (R450). -/
def State.steer (s : State) (bays : List Nat) (mv : Nat) : State :=
  let new := s.live.map fun j => (j, s.rescaled j bays mv)
  let s := each new s fun s x => s.modJob x.1 fun j => { j with charge := x.2 }
  each bays s fun s b => s.setVset b mv

/-- The decision on a record whose first four stages have passed. -/
def State.settleRecord (s : State) (q : Nat) (r : CmdRec) : State :=
  match s.weigh q r with
  | .refuse x => s.refuseRecord q r.bytes r.slots r.user x
  | .hold => s.modQueue q fun x => { x with held := some r }
  | .accept set charge base pred =>
    let s := match set with
      | some v => s.steer (baysFor (s.stallsFor r.img)) v
      | none => s
    s.acceptRecord q r charge base pred

/-- Queue q may decide a record: it runs, holds none, its entries are written, the completion ring has room and the journal copies are
not full (R394, R411, R416). -/
def State.mayDecide (s : State) (q : Nat) : Bool :=
  let f := s.queue q
  s.fw && f.en && f.waiting.isEmpty && f.room && !f.full && !s.linkWaits f

/-- n slots from HEAD. -/
def State.readSlots (s : State) (f : FeedQueue) (i : Nat) : Nat → Option (List Byte)
  | 0 => some []
  | n + 1 => match s.ringRead f (f.feed + (f.head + i) % 2 ^ f.f * 64) 64, State.readSlots s f (i + 1) n with
    | some a, some b => some (a ++ b)
    | _, _ => none

/-- The first four stages on a record of queue q with its bytes (R410). -/
def State.stages (s : State) (q : Nat) (bs : List Byte) (slots : Nat) : State :=
  let f := s.queue q
  let user := field bs 16 8
  match s.recordForm bs with
  | some n => s.refuseRecord q bs slots user { status := .recForm, stage := 1, check := n }
  | none =>
    let deadline := field bs 4 4
    if field bs 0 1 = 2 then
      let c := field bs 8 4
      match s.ctxCheck q c, Tab.get none s.classes (field bs 2 1) with
      | some r, _ => s.refuseRecord q bs slots user r
      | none, none => s
      | none, some k =>
        s.settleRecord q { bytes := bs, fseq := f.head, slots := slots, img := k.img, ctx := some c, cls := field bs 2 1
                           deadline := deadline, user := user }
    else
      let va := field bs 8 8
      if s.imageWaits q va (deadline != 0) then s
      else
        let (x, k) := s.readImage q va (deadline != 0)
        let s := s.cacheLines false k
        match x with
        | .error r => s.refuseRecord q bs slots user r
        | .ok im =>
          match im.stage3.orElse fun _ => s.stage4 q im with
          | some r => s.refuseRecord q bs slots user r
          | none =>
            s.settleRecord q { bytes := bs, fseq := f.head, slots := slots, img := im, ctx := none, cls := 0
                               deadline := deadline, user := user }

/-- RECORD_ADMISSION (R394, R405, R410, R411, R413): the next whole record of queue q is taken and decided. (DESIGN CHOICE,
log entries 26, 189). -/
def execRecordAdmission (q : QueueId) (s : State) : Host.Outcome State Fault Refusal :=
  let f := s.queue q
  let n := ahead f.tail f.head
  if !s.mayDecide q || f.held.isSome || n == 0 then .next s
  else match s.readSlots f 0 1 with
    | none => .next (s.stopQueue q 3 0)
    | some b0 =>
      let slots := slotsOf (field b0 1 1)
      if n < slots then .next s
      else match s.readSlots f 0 slots with
        | none => .next (s.stopQueue q 3 0)
        | some bs => .next ((s.ringLines f slots).stages q bs slots)

/-- RECORD_RETEST (R411): the held record of queue q is tested again from stage 5. -/
def execRecordRetest (q : QueueId) (s : State) : Host.Outcome State Fault Refusal :=
  match (s.queue q).held with
  | none => .next s
  | some r => if s.mayDecide q then .next (s.settleRecord q r) else .next s

/-- The open batch of queue q closes now (R234): FILL is reached, WAIT has passed, its earliest deadline leaves no time, or the ring
is empty and WAIT is 0; a stopped queue admits no more records (R430). -/
def State.batchDue (s : State) (q : Nat) (b : OpenBatch) : Bool :=
  match Tab.get none s.classes b.cls with
  | none => true
  | some k =>
    let limits := b.slots.filterMap fun j => (s.job j).limit
    let run := runTime k.img.steps (s.slowest (baysFor (s.stallsFor k.img)) [] 0)
    !(s.queue q).en || decide (k.fill ≤ b.slots.length) || decide (b.since + k.wait ≤ s.hubNow && k.wait != 0) ||
      (limits.any fun l => match run with
        | some d => decide (l ≤ s.hubNow + d)
        | none => true) ||
      (k.wait == 0 && (s.queue q).tail == (s.queue q).head)

/-- BATCH_CLOSE (R234). (DEDUCED, log entry 85). -/
def execBatchClose (q : QueueId) (s : State) : Host.Outcome State Fault Refusal :=
  match (s.queue q).batch with
  | none => .next s
  | some b => if s.fw && s.batchDue q b then .next (s.closeBatch q) else .next s

/-! ### Dispatch (R214 to R216, R227, R420, R421) -/

/-- The cell of a bay is idle. -/
def State.cellIdle (s : State) (c : Nat × Nat) : Bool := (Tab.get {} s.cells (c.1 * 256 + c.2) : Cell).state == 0

/-- The lowest-numbered idle cell of the lowest-numbered unfenced bay that has one, other than some (R227). (DEDUCED, log
entry 203). -/
def State.standIn (s : State) (but : List (Nat × Nat)) : Option (Nat × Nat) :=
  ((List.range 32).filter fun b => !s.isFenced b).findSome? fun b =>
    ((List.range 256).find? fun c => s.cellIdle (b, c) && !but.contains (b, c)).map fun c => (b, c)

/-- The cells that serve the claims of an instance of runner r: the cell of the run before, or the home cell, or a stand-in where its
bay is fenced; a stand-in is none of the cells that serve the instance's other claims. None while one of them is not free. -/
def State.chooseCells (s : State) (r : Nat) (old : List (Nat × Nat)) : List (Nat × Nat) → List (Claim × Nat) → Option (List (Nat × Nat))
  | done, [] => some done
  | done, (c, i) :: t =>
    let want := old.getD i (c.tally / 256, c.tally % 256)
    let x : Cell := Tab.get {} s.cells (want.1 * 256 + want.2)
    if s.isFenced want.1 then
      let kept := (t.map fun x => old.getD x.2 (x.1.tally / 256, x.1.tally % 256)).filter fun c => !s.isFenced c.1
      match s.standIn (done ++ kept) with
      | some y => State.chooseCells s r old (done ++ [y]) t
      | none => none
    else if (x.state = 0 ∨ (x.job = r ∧ x.gen = (s.job r).gen)) ∧ done.contains want = false then
      State.chooseCells s r old (done ++ [want]) t
    else none

/-- A transfer of firmware's own through the root of queue q, as STR_ARM arms it (R246). -/
def firmwareTransfer (q opc : Nat) : Transfer :=
  { e := none, seq := 0, queue := q, opc := opc, off := 0, d := StreamDesc.of [], portEn := false, port := 0, base := 0, dir := 0, chan := 0
    mask := 0, started := true, since := 0, lines := 0, beats := 0, els := [], done := false, pages := [], hold := [], held := [] }

/-- n bytes are copied line by line through the root of queue q by two firmware arms of stall g, a load on engine 0 and a store on engine 1
(R246, R420): lines count in STR_LINES, and a line that cannot be read is copied as poison, with its fault. (DEDUCED, log
entry 204). -/
def State.copyLines (s : State) (g q src dst n : Nat) : State :=
  let r := (List.range (n / 64)).foldl (fun (x : State × Transfer × Transfer) i =>
      let (m, bs) := ({ s := x.1, t := x.2.1 } : Mv).load g 0 (src + 64 * i) 64 8 [0, 0, 0, 0]
      let w := ({ s := m.s, t := x.2.2 } : Mv).store g 1 (dst + 64 * i) bs 8 [0, 0, 0, 0]
      (w.s, m.t, w.t)) (s, firmwareTransfer q opSld, firmwareTransfer q opSst)
  (r.1.count .strLines g r.2.1.lines 0).count .strLines g r.2.2.lines 1

/-- The shadow regions of a job are copied into the queue's shadow area, or back from it (R420). -/
def State.copyShadows (s : State) (g q : Nat) (back : Bool) : Nat → List (Nat × Nat) → State
  | _, [] => s
  | off, (va, n) :: t =>
    let a := (s.queue q).shadow + off
    (if back then s.copyLines g q a va n else s.copyLines g q va a n).copyShadows g q back (off + n) t

/-- The entry of context c in a pointer list (R234): ROWS is 1 and TAG the context; a lost one gives zeros for its values.
(DEDUCED, log entry 205). -/
def State.pointerEntry (s : State) (c : Nat) : List Byte :=
  let bs := (s.ctxRead c).getD (List.replicate 64 0)
  (bs.drop 24).take 6 ++ [0, 0] ++ leBytes 4 1 ++ leBytes 4 c ++ (bs.drop 12).take 4 ++ (bs.drop 16).take 4 ++ (bs.drop 32).take 8

/-- The context of entry i of the batch that runner r leads: that of its job, or of one that has committed already. -/
def State.entryCtx (s : State) (r i : Nat) : Nat :=
  let j := s.job r
  match j.batch.find? fun k => (s.job k).entry == i with
  | some k => ((s.job k).ctx).getD 0
  | none => (Tab.get none j.gone i).getD 0

/-- The pointer list of the batch that runner r leads (R230, R234). -/
def State.pointerList (s : State) (r : Nat) : List Byte :=
  let n := (s.job r).rows
  leBytes 4 n ++ leBytes 4 0 ++ leBytes 4 n ++ leBytes 4 (s.freeVal 32) ++ List.replicate 16 0 ++
    (List.range n).flatMap fun i => s.pointerEntry (s.entryCtx r i)

/-- The stalls that a segment goes to: every placed stall, or its own, which a fenced bay's spare bay stands in for (R216, R408). -/
def Seg.stalls (x : Seg) (m : List (Nat × Nat)) (on : List Nat) : List Nat := if x.stall = 0xFFFF then on else [mapStall m x.stall]

/-- Every segment of a job goes into the core memory of its stall (R408). -/
def State.placeSegs (s : State) (im : Image) (m : List (Nat × Nat)) (on : List Nat) : State :=
  each im.segs s fun s x => each (x.stalls m on) s fun s g =>
    if s.stallUp g then s.write (coreAddr g x.off) x.bytes false else s

/-- A claim's cell is armed as a write of TLY_ARM_CMD after one of TLY_ARM_RANGE arms it (R218). -/
def State.armClaim (s : State) (r gen : Nat) (c : Claim) (at_ : Nat × Nat) : State :=
  (s.setReg .tlyArmRange at_.1 0 (c.limit * 2 ^ 32 + c.base)).armCell at_.1 at_.2 r gen c.base c.limit c.cover

/-- The list of one stall with its tally map and token counts (R183, R192, R221). -/
def State.placeList (s : State) (r gen g : Nat) (l : JList) (map : List MapSlot) (tokens : List TokRec) (on : List Nat) : State :=
  let counts := (tokens.filter fun t => t.init != 0 && (t.consumers on).contains g).map fun t =>
    (countKey r (t.ckind == 1) t.name, t.init)
  let es : List QEntry := l.words.zipIdx.map fun w => { word := w.1, slot := r, gen := gen, idx := w.2 }
  let s := s.modStall g fun st =>
    { st with insts := st.insts ++ [{ slot := r, gen := gen, map := map }]
              counts := counts.foldl (fun t c => Tab.set 0 t c.1 c.2)
                (st.counts.filter fun c => decide (c.1 < r * 8192) || decide ((r + 1) * 8192 ≤ c.1))
              held := st.held ++ es }
  (s.modStall g Stall.refill).settle g false

/-- An instance of runner r starts: shadows, tallies, maps, segments, counts and lists are written (R214, R215, R218, R420, R421). None
while a cell is awaited; a placement that is lost ends the job (R216). -/
def State.launch (s : State) (r : Nat) (again : Bool) : Option State :=
  let j := s.job r
  match j.img with
  | none => none
  | some im =>
    match s.placed im with
    | none => some (s.modJob r fun x => { x with reasons := [{ status := .placeLost }], abandoned := true, rerun := false, left := [] })
    | some (m, on) =>
      (s.chooseCells r j.cells [] im.claims.zipIdx).map fun cells =>
        let gen := if again then (j.gen + 1) % 256 else j.gen
        let stalls := on.map Prod.fst
        let s := if im.inplace then s.copyShadows (stalls.headD 0) j.queue again 0 im.shadows else s
        let s := if im.inplace && !again then
            s.postSilent j.queue { typ := 5, aseq := j.aseq, fseq := j.fseq, job := r, gen := gen, attempts := min 255 j.attempts } else s
        let s := each (im.claims.zip cells) s fun s x => s.armClaim r gen x.1 x.2
        let map : List MapSlot := (im.claims.zip cells).map fun x => { tally := x.1.tally, bay := x.2.1, cell := x.2.2 }
        let tokens := im.records m stalls
        let past := if again && s.exceeded r then [5] else []
        let s := s.modJob r fun x =>
          { x with gen := gen, sent := true, cells := cells, tokens := tokens, stalls := stalls, left := stalls, abandoned := false
                   reasons := [], faults := [], poison := false, foreign := false, declared := [], rerun := false, asking := false, notices := [], used := []
                   attempts := x.attempts + 1, causes := x.causes ++ past.filter fun c => !x.causes.contains c }
        let s := s.placeSegs im m stalls
        let s := each on s fun s x => s.placeList r gen x.1 x.2 map tokens stalls
        if j.ctx.isNone then s
        else
          let bs := s.pointerList r
          each stalls s.takeFree fun s g => s.write (coreAddr g ((j.cla.map BatchClass.listOff).getD 0)) bs false

/-- A line of a job's shadow regions waits for the CXL link (R388). -/
def State.shadowWaits (s : State) (q : Nat) (im : Image) : Bool :=
  im.shadows.any fun x => (List.range (x.2 / 64)).any fun i => s.vaWaits q (x.1 + 64 * i)

/-- The conditions on a dispatch apart from its cells (R214, R234, R420): BARRIER, one INPLACE job of a queue at a time, and, for a
batch, every earlier decode job of its queue committed. -/
def State.mayGo (s : State) (r : Nat) : Bool :=
  let j := s.job r
  let mine := s.live.filter fun k => (s.job k).queue == j.queue
  match j.img with
  | none => false
  | some im =>
    (!im.place.barrier || mine.all fun k => s.runner k == r || decide (j.order < (s.job k).order) || (s.job (s.runner k)).finished) &&
    (!im.inplace || (!s.shadowWaits j.queue im && !(s.queue j.queue).full && mine.all fun k => k == r || !(s.job k).sent || (match (s.job k).img with
      | some x => !x.inplace
      | none => true))) &&
    (j.ctx.isNone || mine.all fun k => s.runner k == r || (s.job k).ctx.isNone || decide (j.order < (s.job k).order))

/-- The earliest deadline of the jobs that a runner runs: a batch goes by that of any of its jobs. -/
def State.limitOf (s : State) (r : Nat) : Option Nat :=
  let j := s.job r
  ((j.limit :: j.batch.map fun k => (s.job k).limit).filterMap id).foldl
    (fun (a : Option Nat) l => some (min l (a.getD l))) none

/-- The runners to be dispatched, in the order of R214. -/
def State.dispatchOrder (s : State) : List Nat :=
  let all := s.live.filter fun r =>
    let j := s.job r
    !j.sent && !j.abandoned && (j.ctx.isNone || j.leader == some r)
  let byOrder := sortBy (fun r => (s.job r).order) all
  let timed := byOrder.filter fun r => (s.limitOf r).isSome
  sortBy (fun r => (s.limitOf r).getD 0) timed ++ byOrder.filter fun r => (s.limitOf r).isNone

/-- JOB_DISPATCH (R214, R215): the first accepted job in the order that can go is dispatched. (DEDUCED, log entry 202). -/
def execJobDispatch (s : State) : Host.Outcome State Fault Refusal :=
  if !s.fw then .next s
  else match s.dispatchOrder.findSome? fun r => if s.mayGo r then s.launch r false else none with
    | some s' => .next s'
    | none => .next s

/-- JOB_RERUN (R216, R227, R260, R421): a job that must run again is dispatched with a new generation, once no fault record of its
last run is on its way. -/
def execJobRerun (slot : Fin 1024) (s : State) : Host.Outcome State Fault Refusal :=
  let j := s.job slot
  if !s.fw || !j.live || !j.rerun || j.asking || s.faultComing slot || !s.mayGo slot then .next s
  else match s.launch slot true with
    | some s' => .next s'
    | none => .next s

/-! ### Faults (R258 to R260) -/

/-- The job may still run again for its faults (R259). -/
def Job.mayRetry (j : Job) : Bool :=
  !j.faults.isEmpty && j.faults.all (fun k => k == 1 || k == 2) && !j.foreign && decide (j.retried < (j.img.map Image.retry).getD 0)

/-- The 32 bytes of a fault record (R258). -/
def FaultRec.bytes (f : FaultRec) : List Byte :=
  leBytes 1 (f.kind + f.engine * 16) ++ leBytes 1 f.opc ++ leBytes 2 f.slot ++ leBytes 1 f.gen ++ [0] ++ leBytes 2 f.stall ++
    leBytes 2 f.idx ++ leBytes 1 f.level ++ [0] ++ leBytes 4 (f.coord.getD 0 0) ++
    ((List.range 4).flatMap fun i => leBytes 2 (f.coord.getD (i + 1) 0)) ++ leBytes 8 f.dva

/-- FAULT_NOTICE (R258 to R260): the oldest fault record is posted as a FAULT entry of its job's queue; a job that is eligible for a
re-run is abandoned, and its notices wait for answers. (DEDUCED, log entry 207). -/
def execFaultNotice (s : State) : Host.Outcome State Fault Refusal :=
  match s.faultQ with
  | [] => .next s
  | f :: rest =>
    let j := s.job f.slot
    if !s.fw then .next s
    else if f.slot = 0x3FF ∧ f.idx = 0xFFFF ∨ ¬ j.live ∨ j.gen ≠ f.gen then .next { s with faultQ := rest }
    else if (s.queue j.queue).full then .next s
    else
      let s := { s with faultQ := rest }
      let s := s.modJob f.slot fun x => { x with faults := x.faults ++ [f.kind], posted := x.posted + 1 }
      let bs := f.bytes
      let s := s.post j.queue { typ := 4, aseq := j.aseq, fseq := j.fseq, job := f.slot, gen := j.gen, attempts := min 255 j.attempts
                                detail := List.replicate 8 0 ++ bs, body := bs } none
      if (s.job f.slot).mayRetry then
        let s := if (s.job f.slot).abandoned then s else s.abandonJob f.slot
        let s := s.modJob f.slot fun x => { x with asking := true, rerun := false, notices := x.notices ++ [f.dva] }
        .next (s.causeFor f.slot 7)
      else
        .next (s.modJob f.slot fun x =>
          { x with rerun := false, notices := if x.asking then x.notices ++ [f.dva] else x.notices })

/-! ### Commit (R416, R424, R434, R498) -/

/-- The place of a reason in the order of R498. (DEDUCED, log entry 209). -/
def Reason.rank (r : Reason) (own : Bool) : Nat :=
  match r.status with
  | .abandoned => 1
  | .placeLost => 2
  | .ctxLost => 3
  | .bayLost => 4
  | .deadlock => 5
  | .poisoned => if own then 1 else if r.fault then 6 else 7
  | .tallyShort => 8
  | _ => 6

/-- The context of a decode job is lost (R236). -/
def State.ctxGone (s : State) (j : Job) : Bool := match j.ctx with
  | some c => (s.ctxRead c).isNone
  | none => false

/-- Every reason of a job to fail: its own, those of its instance, and a lost context; a decode job is poisoned by its own row of the
result array alone (R235). (DEDUCED, log entry 258). -/
def State.reasonsOf (s : State) (slot : Nat) : List (Nat × Reason) :=
  let r := s.job (s.runner slot)
  (if s.ctxGone (s.job slot) then [(3, { status := .ctxLost })] else []) ++ (match (s.job slot).own with
   | some st => [(Reason.rank { status := st } true, { status := st })]
   | none => []) ++ (r.reasons.map fun x => (x.rank false, x)) ++
    (if (s.job slot).ctx.isNone && (r.poison || !r.faults.isEmpty) then [(7, { status := .poisoned })] else [])

/-- The reason that gives the status (R498): the lowest rank, then the lowest stall. -/
def firstReason : List (Nat × Reason) → Option Reason
  | [] => none
  | l => ((sortBy (fun x => x.1 * 65536 + x.2.stall) l).head?).map Prod.snd

/-- The outcome of a job that has ended: why it fails, or for a decode job its new context (R235). -/
def State.outcome (s : State) (slot : Nat) : Except Reason (Option (List Byte)) :=
  let j := s.job slot
  match firstReason (s.reasonsOf slot) with
  | some r => .error r
  | none =>
    match j.ctx, j.cla with
    | some c, some k =>
      match s.ctxRead c with
      | none => .error { status := .ctxLost }
      | some bs => match s.vaRead k.queue (k.result + 8 * j.entry) 8 with
        | none => .error { status := .poisoned }
        | some (e, _) => .ok (some (ctxStep bs (field e 0 4) (bit (field e 4 1) 0)))
    | _, _ => .ok none

/-- DETAIL of a COMPLETE entry (R434). -/
def completeDetail (j : Job) (attempts posted cause late : Nat) (r : Option Reason) : List Byte :=
  let x : Reason := r.getD { status := .ok }
  let idx := if x.status = .deadlock then 0xFFFFFFFF else x.idx
  leBytes 1 (min 255 attempts) ++ leBytes 1 cause ++ leBytes 2 x.stall ++ leBytes 4 idx ++ leBytes 2 (tokField x.tok) ++ leBytes 2 0 ++
    leBytes 4 posted ++ leBytes 4 (min (2 ^ 32 - 1) late) ++ List.replicate 12 0 ++ leBytes 8 j.user

/-- CAUSE of R424 for a job that commits after its deadline. (DEDUCED, log entry 210). -/
def State.lateCause (s : State) (slot : Nat) : Nat :=
  let cs := (s.job slot).causes ++ (if s.exceeded slot then [5] else []) ++
    (if s.live.any fun k => s.exceeded k && s.bears k slot then [6] else [])
  cs.foldl min 9

/-- The line of the result array that a decode job reads waits for the CXL link (R388). -/
def State.resultWaits (s : State) (slot : Nat) : Bool :=
  let j := s.job slot
  match j.ctx, j.cla with
  | some _, some k => s.vaWaits k.queue (k.result + 8 * j.entry)
  | _, _ => false

/-- A batch goes on without a job that has committed: the next live job takes over as its runner, and a closed batch keeps the job's
entry (R234). -/
def State.leaveBatch (s : State) (slot : Nat) : State :=
  let j := s.job slot
  match j.leader with
  | none =>
    s.modQueue j.queue fun x =>
      { x with batch := x.batch.bind fun b =>
          let rest := b.slots.filter (· != slot)
          if rest.isEmpty then none else some { b with slots := rest } }
  | some r =>
    if r = slot then
      match j.batch.filter (· != slot) with
      | [] => s
      | k :: rest =>
        let s := each (k :: rest) s fun s i => s.modJob i fun x => { x with leader := some k }
        s.modJob k fun x =>
          { x with batch := k :: rest, rows := j.rows, gone := Tab.set none j.gone j.entry j.ctx, sent := j.sent, cells := j.cells
                   tokens := j.tokens, stalls := j.stalls, left := j.left, abandoned := j.abandoned, reasons := j.reasons
                   faults := j.faults, poison := j.poison, foreign := j.foreign, declared := j.declared, attempts := j.attempts
                   retried := j.retried, posted := j.posted, used := j.used }
    else s.modJob r fun x => { x with batch := x.batch.filter (· != slot), gone := Tab.set none x.gone j.entry j.ctx }

/-- The job in slot commits (R33, R235, R415, R424): its COMMIT record is journalled with the new context of a decode job, its COMPLETE
entry follows, and the slot is free. -/
def State.commitJob (s : State) (slot : Nat) : State :=
  let j := s.job slot
  let r := s.job (s.runner slot)
  let now := s.hubNow
  let late := match j.limit with
    | some l => if l < now then ceilDiv (now - l) 100 else 0
    | none => 0
  let cause := if late = 0 then 0 else s.lateCause slot
  let (why, st, ctx) : Option Reason × Status × Option (List Byte) := match s.outcome slot with
    | .error x => (some x, x.status, none)
    | .ok c => (none, if late = 0 then .ok else .late, c)
  let s := if s.exceeded slot then s.addCause (fun k => s.bears slot k) 6 else s
  let s := match ctx, j.ctx with
    | some bs, some c => s.ctxWrite c bs
    | _, _ => s
  let s := s.post j.queue { typ := 3, status := st.code, aseq := j.aseq, fseq := j.fseq, job := slot, gen := j.gen
                            attempts := min 255 r.attempts
                            detail := completeDetail j r.attempts r.posted cause late why, body := ctx.getD [] } none
  let s := if j.ctx.isSome then s.leaveBatch slot else s
  s.modJob slot fun x => { gen := x.gen }

/-- The accepted, uncommitted job of queue q that was accepted first (R35). -/
def State.headJob (s : State) (q : Nat) : Option Nat :=
  (sortBy (fun j => (s.job j).order) (s.live.filter fun j => (s.job j).queue == q)).head?

/-- JOB_COMMIT (R35, R206, R223, R394, R416): jobs of queue q that met a precise fault are abandoned; then the first accepted job
commits once it has ended and the queue's earlier entries are written. (DEDUCED, log entry 208). -/
def execJobCommit (q : QueueId) (s : State) : Host.Outcome State Fault Refusal :=
  if !s.fw then .next s
  else
    let faulted := s.live.filter fun j =>
      let x := s.job j
      x.queue == q.val && !x.abandoned && x.sent && x.reasons.any Reason.fault
    let s := each faulted s fun s j => s.abandonJob j
    let f := s.queue q
    match s.headJob q with
    | none => .next s
    | some j =>
      if !s.jobEnded j || f.full || s.resultWaits j then .next s
      else if !f.waiting.isEmpty then
        .next (if f.room then s else s.addCause (fun k => (s.job k).queue == q.val) 8)
      else .next (s.commitJob j)

end Sys2Proof.Machine
end

