-- ==== Sys2Proof/Machine/Security.lean ====
section
/-! DEFINITION. Fuses, keys and the boot chain (R456 to R468), and the JTAG port (R474, R475, R485). -/

namespace Sys2Proof.Machine

def State.modSec (s : State) (f : Sec → Sec) : State := { s with sec := f s.sec }
def State.modBoard (s : State) (f : Board → Board) : State := { s with board := f s.board }

/-- The state after f is applied to fuse slot k. -/
def State.modFuse (s : State) (k : Nat) (f : FuseSlot → FuseSlot) : State :=
  s.modSec fun x => { x with fuses := Tab.upd {} x.fuses k f }

/-! ### Fuse programming (R457 to R460) -/

/-- Data bits of a fuse slot (R457). -/
def fuseWidth : Nat → Nat
  | 0 => 5 | 1 => 64 | 2 => 384 | 3 => 256 | 4 => 384 | 5 => 256 | _ => 64

/-- The value of SEC_FUSE_DATA. -/
def State.fuseData (s : State) : Nat := ofLe (s.regBytes .secFuseData 12)

/-- Life-cycle states in which KIND 0 may program a slot (R457). -/
def fuseStates : Nat → List Nat
  | 0 => [0] | 1 => [0, 1] | 2 => [0, 1] | 3 => [1] | 4 => [2] | 5 => [2] | 6 => [1, 2, 3] | _ => [2, 3]

/-- A transition that LC_TRANSITION can make (R469). -/
def lcReach (a b : Nat) : Bool :=
  (a == 1 && b == 2) || (a == 2 && b == 3) || ((a == 2 || a == 3) && b == 4) ||
    ((a == 1 || a == 2 || a == 3 || a == 4) && b == 5)

/-- A master over JTAG or the management bus. -/
def Master.external : Master → Bool
  | .jtag | .mgmtBus => true
  | _ => false

/-- A Selay core. -/
def Master.isSelay : Master → Bool
  | .selay _ => true
  | _ => false

/-- The refusal of a programming, if it is refused (R457 to R459, R469). (DEDUCED, log entry 228). -/
def State.fuseRefusal (s : State) (m : Master) (slot kind : Nat) : Option Nat :=
  let d := s.fuseData
  let w := d % 2 ^ 32
  if kind = 0 then
    if !(fuseStates slot).contains s.lc ∨
        (slot = 0 ∧ ((Master.external m && (s.fuse 1).set && (s.fuse 2).set) = false ∨ d % 32 ≠ 1)) then some 1
    else if 1 ≤ slot ∧ slot ≤ 5 ∧ (s.fuse slot).set = true then some 2
    else if 6 ≤ slot ∧ (w < (s.fuse slot).val ∨ 64 < w ∨ (slot = 6 ∧ s.sec.svn < w)) then some 3
    else none
  else
    let ok := match kind with
      | 1 => (slot == 3 || slot == 5) && decide (1 ≤ s.lc) && decide (s.lc ≤ 4)
      | 2 => (slot == 4 || slot == 5) && decide (1 ≤ s.lc) && decide (s.lc ≤ 4)
      | _ => lcReach s.lc w
    if Master.isSelay m && ok then none else some 1

/-- The bits of a FILL or REVOKE are all blown already (R459). -/
def State.fuseBlown (s : State) (slot kind : Nat) : Bool :=
  (kind == 1 && (s.fuse slot).val == 2 ^ fuseWidth slot - 1) || (kind == 2 && (s.fuse slot).rev)

/-- The outcome of a programming in SEC_FUSE_STATUS, and FUSE (R458, R477). -/
def State.fuseResult (s : State) (slot result : Nat) : State :=
  (s.modSec fun x => { x with prog := none, last := slot, result := result }).raiseOnce .secEvent 0 2 0x2C2 slot result s.lc

/-- The fuses after a verified programming: bits are only ever blown (R456 to R459). -/
def State.blow (s : State) (j : FuseJob) : State :=
  match j.kind with
  | 0 =>
    let d := j.data % 2 ^ fuseWidth j.slot
    if 6 ≤ j.slot then s.modFuse j.slot fun f => { f with val := max f.val (j.data % 2 ^ 32), set := true }
    else s.modFuse j.slot fun f => { f with val := f.val ||| d, set := true }
  | 1 => s.modFuse j.slot fun f => { f with val := f.val ||| (2 ^ fuseWidth j.slot - 1), set := true }
  | 2 => s.modFuse j.slot fun f => { f with rev := true }
  | _ => s.modFuse 0 fun f => { f with val := f.val ||| 2 ^ (j.data % 2 ^ 32 - 1), set := true }

/-- The fuses after a programming whose read-back differs, or that a loss of power breaks: each bit is blown or not, which a free
value says (R458, R461). (DESIGN CHOICE, log entry 230). -/
def State.blowSome (s : State) (j : FuseJob) : State :=
  let w := fuseWidth j.slot
  let x := s.freeVal w
  let s := s.takeFree
  match j.kind with
  | 0 =>
    if 6 ≤ j.slot then
      s.modFuse j.slot fun f => { f with val := f.val + (if j.data % 2 ^ 32 ≤ f.val then 0 else x % (j.data % 2 ^ 32 - f.val)), set := true }
    else if j.slot = 0 then s
    else s.modFuse j.slot fun f => { f with val := f.val ||| (j.data % 2 ^ w &&& x), set := true }
  | 1 => s.modFuse j.slot fun f => { f with val := f.val ||| x, set := true }
  | _ => s

/-- A write of SEC_FUSE_PROG (R458, R459). The value of slot 3 comes from the entropy source: a free value. (DEDUCED, log
entry 229). -/
def State.fuseProg (s : State) (m : Master) (v : Nat) : State :=
  let kind := bits v 5 4
  let slot := if kind = 3 then 0 else bits v 2 0
  if bit v 31 = false ∨ s.sec.prog.isSome = true then s
  else match s.fuseRefusal m slot kind with
    | some r => s.fuseResult slot r
    | none =>
      if s.fuseBlown slot kind then s.fuseResult slot 0
      else
        let (s, d) := if kind = 0 ∧ slot = 3 then (s.takeFree, s.freeVal 256) else (s, s.fuseData)
        s.modSec fun x => { x with prog := some { slot := slot, kind := kind, data := d } }

/-- A write of SEC_FUSE_PROG whose KIND is the one named. -/
def State.fuseKind (s : State) (m : Master) (v : Word32) (kind : Nat) : Host.Outcome State Fault Refusal :=
  if bits v.toNat 5 4 = kind then .next (s.guarded m ⟨.secFuseProg, 0, 0, 0⟩ true fun s => s.fuseProg m v.toNat) else .next s

/-- FUSE_VALUE (R457, R458). -/
def execFuseValue (m : Master) (v : Word32) (s : State) : Host.Outcome State Fault Refusal := s.fuseKind m v 0

/-- FUSE_FILL (R459). -/
def execFuseFill (m : Master) (v : Word32) (s : State) : Host.Outcome State Fault Refusal := s.fuseKind m v 1

/-- FUSE_REVOKE (R459, R460). -/
def execFuseRevoke (m : Master) (v : Word32) (s : State) : Host.Outcome State Fault Refusal := s.fuseKind m v 2

/-- FUSE_STATE (R459, R469). -/
def execFuseState (m : Master) (v : Word32) (s : State) : Host.Outcome State Fault Refusal := s.fuseKind m v 3

/-- A programming ends with its read-back (R458). -/
def State.fuseDone (s : State) (j : FuseJob) (verified : Bool) : State :=
  if verified then (s.blow j).fuseResult j.slot 0 else (s.blowSome j).fuseResult j.slot 4

/-- FUSE_PROGRAMMED: the bits are blown within 2 ms and read back (R458). -/
def execFuseProgrammed (verified : Bool) (s : State) : Host.Outcome State Fault Refusal :=
  match s.sec.prog with
  | none => .next s
  | some j => .next (s.fuseDone j verified)

/-! ### The battery key (R462) -/

/-- A write of SEC_BKEY_CTL. -/
def State.bkeyCtl (s : State) (v : Nat) : State :=
  match bits v 1 0 with
  | 1 => if s.lc = 2 ∨ s.lc = 3 then s.modSec fun x => { x with bkey := some (ofLe (s.regBytes .secBkey 8)) } else s
  | 2 => s.modSec fun x => { x with bkey := none }
  | _ => s

/-- A write of SEC_BKEY_CTL whose OP is the one named. -/
def State.bkeyOp (s : State) (m : Master) (v : Word32) (op : Nat) : Host.Outcome State Fault Refusal :=
  if bits v.toNat 1 0 = op then .next (s.guarded m ⟨.secBkeyCtl, 0, 0, 0⟩ true fun s => s.bkeyCtl v.toNat) else .next s

/-- BKEY_STORE. -/
def execBkeyStore (m : Master) (v : Word32) (s : State) : Host.Outcome State Fault Refusal := s.bkeyOp m v 1

/-- BKEY_ZERO. -/
def execBkeyZero (m : Master) (v : Word32) (s : State) : Host.Outcome State Fault Refusal := s.bkeyOp m v 2

/-! ### Boot chain (R465, R466) -/

/-- n bytes of the boot flash; an erased byte reads 0xFF. (PRESUMED, log entry 239). -/
def flashBytes (t : Tab Byte) (a : Nat) : Nat → List Byte
  | 0 => []
  | n + 1 => Tab.get 0xFF t a :: flashBytes t (a + 1) n

/-- The bytes a firmware signature covers: header bytes 0 to 159 followed by the body. -/
def signedPart (img : List Byte) : List Byte := img.take 160 ++ (img.drop 256).take (field img 12 4)

/-- The check of Order 3 that an image fails, if any. (DEDUCED, log entry 232). -/
def State.bootCheck (s : State) (img : List Byte) : Option Nat :=
  let len := field img 12 4
  let key := (img.drop 64).take 96
  if !(field img 0 4 == 0x5357464C && field img 4 2 == 1 && zeros img 6 2 && zeros img 24 40 && len % 64 == 0
      && decide (64 ≤ len) && decide (len ≤ 1572864) && decide (256 + len ≤ img.length)) then some 1
  else if sha384 key ≠ leBytes 48 (s.fuse 2).val then some 2
  else if ecdsaVerify key (sha384 (signedPart img)) ((img.drop 160).take 96) = false then some 3
  else if field img 8 4 < (s.fuse 6).val then some 4
  else none

/-- A source of firmware: slot A, slot B or the pushed image. -/
inductive BootSource
  | slotA
  | slotB
  | bus
deriving DecidableEq, Repr

/-- The code of a source in SEC_BOOT records (R477). -/
def BootSource.code : BootSource → Nat
  | .slotA => 0 | .slotB => 1 | .bus => 2

/-- The bytes the ROM reads from a source: at most a header and the largest body. -/
def State.bootImage (s : State) : BootSource → List Byte
  | .slotA => flashBytes s.board.flash 0 1573120
  | .slotB => flashBytes s.board.flash 0x400000 1573120
  | .bus => readBytes s.board.sram 0 (min 1573120 (s.board.pushed.getD 0))

/-- Orders 2 to 6 over the sources in order: a source that fails raises BOOT; the first that passes starts the firmware, which
sets its idle power; when none passes, the ROM stops. (DESIGN CHOICE, log entry 222). -/
def State.bootFrom (s : State) : List BootSource → State
  | [] => { s.modSec (fun x => { x with stage := 7, svn := 0 }) with fw := false }
  | x :: xs =>
    let img := s.bootImage x
    match s.bootCheck img with
    | some c => (s.raiseOnce .secEvent 0 0 0x2C0 x.code c (if c = 1 then 0xFFFFFFFF else field img 8 4)).bootFrom xs
    | none =>
      let s := s.setRegBytes .secFwDigest (sha384 (signedPart img))
      let s := (s.setReg .engIdle 0 0 (s.freeVal 16)).takeFree
      { s.modSec (fun y => { y with stage := 3, slotB := decide (x = .slotB), svn := field img 8 4, version := field img 16 4 })
        with fw := true }

/-- In BLANK and SCRAPPED the ROM boots nothing. -/
def State.bootable (s : State) : Bool := s.lc != 0 && s.lc != 5

/-- BOOT: the chain of a cold start, from the boot flash or, after PUSH_DONE, from the pushed image. (DESIGN CHOICE, log entry
231). -/
def execBoot (s : State) : Host.Outcome State Fault Refusal :=
  if s.board.powered = false ∨ s.board.held = true ∨ s.bootable = false then .next s
  else if s.sec.straps.bootsrc then (if s.sec.stage = 1 then .next (s.bootFrom [.bus]) else .next s)
  else if s.sec.stage = 0 then .next (s.bootFrom [.slotA, .slotB]) else .next s

/-- The chain of a warm reset: the booted slot, then the other one (R466, R467). -/
def State.bootAgain (s : State) : State :=
  if s.bootable = false then s
  else if s.sec.straps.bootsrc then s.bootFrom [.bus]
  else s.bootFrom (if s.sec.slotB then [.slotB, .slotA] else [.slotA, .slotB])

/-- SEC_LC_NONCE takes a new value from the entropy source (R471). -/
def State.newNonce (s : State) : State :=
  each (List.range 4) s fun s w => (s.setReg .secLcNonce 0 w (s.freeVal 32)).takeFree

/-! ### JTAG (R474, R475, R485) -/

/-- The instructions that a life-cycle state allows. -/
def jtagAllows (lc code : Nat) : Bool :=
  match lc with
  | 2 => code == 0x00 || code == 0x01 || code == 0x02 || code == 0x10 || code == 0xFF
  | 3 => code == 0x01 || code == 0x02 || code == 0x10 || code == 0xFF
  | 5 => code == 0x01 || code == 0xFF
  | _ => true

/-- No paddock is RELEASING or RELEASED. -/
def State.noneReleased (s : State) : Bool := s.cfg.pads.all fun e => decide (e.2.state < 3)

/-- Whether an instruction is carried out; EXTEST only while no paddock is released. -/
def State.jtagRuns (s : State) (code : Nat) : Bool :=
  jtagAllows s.lc code && (code != 0 || s.noneReleased)

/-- An instruction in force, with what its data register captured. -/
def State.jtagSet (s : State) (code dr : Nat) (cells : List Bool) : State :=
  { s.modBoard (fun b => { b with ir := code, dr := dr }) with said := some (.jtag dr cells) }

/-- An instruction that is not carried out acts as BYPASS and raises JTAG. -/
def State.jtagRefuse (s : State) (code : Nat) : State :=
  (s.jtagSet 0xFF 0 []).raiseOnce .secEvent 0 4 0x2C4 code s.lc 0

/-- The boundary cells as captured (R485): of global pin n, cell 3n its level, which the outside gives unless the module drives the pin;
cell 3n + 1 its output and cell 3n + 2 its output enable. (DESIGN CHOICE, log entry 234). -/
def State.pinCells (s : State) : List Bool :=
  (List.range 512).flatMap fun n =>
    match s.pinDrive (n / 16) (n % 16) with
    | .highZ _ => [s.pinLevel (n / 16) (n % 16), false, false]
    | .drives v _ _ => [v, v, true]

/-- EXTEST: the output cells drive the user I/O pins. -/
def execExtest (s : State) : Host.Outcome State Fault Refusal :=
  if s.jtagRuns 0 then .next (s.jtagSet 0 0 s.pinCells).takeFree else .next (s.jtagRefuse 0)

/-- IDCODE. -/
def execIdcode (s : State) : Host.Outcome State Fault Refusal := .next (s.jtagSet 1 0x1483274F [])

/-- SAMPLE/PRELOAD: the pins are captured, and new values are shifted into the output cells. -/
def execSamplePreload (cells : List Bool) (s : State) : Host.Outcome State Fault Refusal :=
  if s.jtagRuns 2 then
    .next ((s.jtagSet 2 0 s.pinCells).takeFree.modBoard fun b => { b with cells := cells.take 1536 })
  else .next (s.jtagRefuse 2)

/-- BYPASS: one bit, captured as 0. -/
def execBypass (s : State) : Host.Outcome State Fault Refusal := .next (s.jtagSet 0xFF 0 [])

/-- TEST_LOGIC_RESET: the port is idle and IDCODE is in force. (PRESUMED, log entry 233). -/
def execTestLogicReset (s : State) : Host.Outcome State Fault Refusal :=
  .next (s.modBoard fun b => { b with ir := 1, dr := 0 })

end Sys2Proof.Machine
end

