-- ==== Sys2Proof/Machine/Power.lean ====
section
/-! DEFINITION. Fences (R31 to R33), rail warnings (R441, R443), hub-die and logic-die faults (R15, R497), warm resets (R422), cold
resets and power (R491 to R493). -/

namespace Sys2Proof.Machine

def State.modEng (s : State) (f : Eng → Eng) : State := { s with eng := f s.eng }

/-! ### Warnings of a rail (R441, R443) -/

/-- ENG_BAY_DIP as its fields give it. -/
def dipWord (rail : Nat) (reset done : Bool) (low dur : Nat) : Nat :=
  rail * 2 ^ 62 + b2n reset * 2 ^ 61 + b2n done * 2 ^ 60 + low % 1024 * 2 ^ 48 + min dur (2 ^ 32 - 1)

/-- The warning of a rail of bay b, if one runs. -/
def State.warning (s : State) (b : Nat) (fab : Bool) : Option RailWarn := Tab.get none s.eng.rails (b * 2 + b2n fab)

/-- The WARN_CORE or WARN_FAB input of every paddock of bay b (R304). -/
def State.warnInput (s : State) (b : Nat) (fab on : Bool) : State :=
  s.modFab b fun f => if fab then { f with warnFab := on } else { f with warnCore := on }

/-- A warning of a rail ends, at its release or at a reset: a capture that it started is complete (R443, R444). -/
def State.endWarn (s : State) (b : Nat) (fab reset : Bool) : State :=
  match s.warning b fab with
  | none => s
  | some w =>
    let rail := if fab then 2 else 1
    let dip := s.reg .engBayDip b
    let s := (s.modEng fun e => { e with rails := Tab.set none e.rails (b * 2 + b2n fab) none }).warnInput b fab false
    if bits dip 63 62 = rail ∧ bit dip 60 = false then
      s.setReg .engBayDip b 0 (dipWord rail reset true w.low (s.local b - w.since))
    else s

/-! ### Fences (R31 to R33) -/

/-- The entries of device memory from one place are copied to another, which held something else before. -/
def State.copyMem (s : State) (src dst n : Nat) : State :=
  let inside (a : Nat) : Bool := decide (src ≤ a) && decide (a < src + n)
  let m := s.mem.filter fun e => inside e.1
  let t := s.memTag.filter fun e => inside e.1
  let s := s.discard dst n
  { s with mem := m.foldl (fun x e => Tab.set 0 x (dst + (e.1 - src)) e.2) s.mem
           memTag := t.foldl (fun x e => Tab.set false x (dst + (e.1 - src)) e.2) s.memTag }

/-- A running instance is abandoned and is to run again, for which later jobs of the queue can be late (R36, R421, R424). -/
def State.markRerun (s : State) (r cause : Nat) : State :=
  let s := (s.abandonJob r).modJob r fun j => { j with rerun := true }
  each ((s.job r).batch ++ [r]) s fun s k => s.causeFor k cause

/-- The jobs that a fence of bay b makes run again: those with a cell of the bay, or unfinished with a list there (R32, R227). A job that
is to fail for a precise fault is abandoned in its turn (R206). (DEDUCED, log entry 214). -/
def State.fenceJobs (s : State) (b : Nat) : State :=
  let hit (r : Nat) : Bool :=
    let j := s.job r
    let held := j.cells.filter fun c => c.1 == b && (let x := s.cell c.1 c.2; x.state != 0 && x.job == r && x.gen == j.gen)
    j.sent && !j.abandoned && !j.rerun && !j.reasons.any Reason.fault &&
      ((!j.left.isEmpty && j.stalls.any fun g => g / 64 == b) || !held.isEmpty)
  each (s.live.filter hit) s fun s r => s.markRerun r 1

/-- The units and memories of bay b lose what they hold (R32). The stack, whose supply is off, does so too. (DEDUCED, log
entry 235). -/
def State.dropBay (s : State) (b : Nat) : State :=
  let s := { s with
    stalls := s.stalls.filter fun e => e.1 / 64 != b
    cells := s.cells.filter fun e => e.1 / 256 != b
    takeQ := Tab.set [] s.takeQ b []
    reportQ := Tab.set [] s.reportQ b []
    answers := s.answers.filter fun a => a.stall / 64 != b
    tokens := s.tokens.filter fun t => t.stall.val / 64 != b
    bayTlb := Tab.set [] s.bayTlb b []
    hbms := Tab.set {} s.hbms b {}
    fabs := Tab.set {} s.fabs b {} }
  let s := s.discard (coreAddr (b * 64) 0) (64 * 0x1000000)
  let s := s.discard (blockAddr b 0) 0x4000000
  let s := s.discard (sysAddr b 0) 0x800000
  s.discard (hbmAddr b 0) 0x1800000000

/-- The routers and endpoints of bay b stop, and every bridge to it closes at both ends (R32, R353, R360). (DEDUCED, log entry
236). -/
def State.dropNet (s : State) (b : Nat) : State :=
  let s := s.modNet fun n => { n with
    vc := n.vc.filter fun e => routerBay (e.1 / 64) != b
    waiting := n.waiting.filter fun e => addrBay e.1 != b
    sent := n.sent.filter fun e => addrBay e.1 != b
    arrived := n.arrived.filter fun e => addrBay e.1 != b
    kept := n.kept.filter fun e => addrBay (e.1 / 65536) != b
    rr := n.rr.filter fun e => routerBay (e.1 / 8) != b
    lock := n.lock.filter fun e => routerBay (e.1 / 8) != b
    fails := n.fails.filter fun e => routerBay (e.1 / 8) != b
    tracers := Tab.upd {} n.tracers b fun t => { t with recs := [] } }
  let s := each (neighbours b) s fun s c => (s.closeEnd b c 1 false).closeEnd c b 1 true
  s.sweep

/-- A load that targets a paddock of bay b aborts with CFG_FENCED; every paddock of the bay is clamped and unconfigured (R32,
R323). -/
def State.fencePads (s : State) (b : Nat) : State :=
  let s := match s.cfg.load with
    | some l => if l.regions.any fun r => r.pad / 8 == b then s.loadAbort l 7 l.block else s
    | none => s
  each (List.range 8) s fun s q =>
    (s.isolate (b * 8 + q) 0).modCfg fun c => { c with frames := Tab.set [] c.frames (b * 8 + q) [] }

/-- The regulators of bay b are off (R32, R444): its rails read 0, and no warning, ramp or budget step of it goes on. -/
def State.railsOff (s : State) (b : Nat) : State :=
  let s := (s.endWarn b false false).endWarn b true false
  let s := s.setReg .engBayRail b 0 0
  let s := s.modEng fun e => { e with ramp := Tab.set (0, 0) e.ramp b (0, 0), sag := Tab.set false e.sag b false
                                      lowered := Tab.set 0 e.lowered b 0 }
  s.modBoard fun x => { x with railsUp := Tab.set false x.railsUp b false }

/-- Firmware writes a new second copy of each journal that loses one (R32, R414). (DEDUCED, log entry 212). -/
def State.moveJournals (s : State) (b : Nat) : State :=
  each ((s.queues.filter fun e => decide (e.1 < 64) && e.2.copies.contains b).map Prod.fst) s fun s q =>
    match (s.queue q).copies.find? fun c => c != b && !s.isFenced c with
    | none => s.modQueue q fun x => { x with copies := x.copies.filter (· != b) }
    | some c => match (List.range 32).find? fun n => n != c && !s.isFenced n with
      | none => s.modQueue q fun x => { x with copies := [c] }
      | some n => (s.copyMem (journalAddr c q 0) (journalAddr n q 0) 0x200000).modQueue q fun x => { x with copies := [c, n] }

/-- Bay b is fenced, with its cause in BAY_FENCE, and MSI-X vector 67 is raised (R31, R32, R61, R497). -/
def State.fenceBay (s : State) (b cause : Nat) : State :=
  if s.isFenced b then s
  else
    let s := { s with fenced := Tab.set false s.fenced b true }
    let s := { s with ctxLost := (s.ctxDoomed b).foldl (fun t c => Tab.set false t c true) s.ctxLost }
    let s := (((s.fenceJobs b).dropBay b).fencePads b).dropNet b
    let s := if b % 8 = 7 then s.linkStop (b / 8) 4 else s
    let s := (s.railsOff b).moveJournals b
    let s := s.raise .bayEvent b 0 0x000 cause 0 0
    s.msixSend 67

/-- FENCE (R32, R432): firmware fences a bay for a cause of R497. -/
def execFence (b : BayId) (cause : Nat) (s : State) : Host.Outcome State Fault Refusal :=
  if s.fw && decide (1 ≤ cause) && decide (cause ≤ 6) then .next (s.fenceBay b cause) else .next s

/-! ### Faults of a die (R15, R497) -/

/-- HUB_FAULT (R15, R386, R442): viral, GLB_HUB, and vector 67. (DEDUCED, log entries 178, 241). -/
def execHubFault (cause : Nat) (s : State) : Host.Outcome State Fault Refusal :=
  if cause = 1 ∨ cause = 2 then
    let s := s.raise .glbEvent 0 2 0x002 cause 0 0
    .next (({ s with viral := true }.rasFatal).msixSend 67)
  else .next s

/-- LOGIC_DIE_FAULT (R497): DIE of BAY_EVENT with cause 2. -/
def execLogicDieFault (b : BayId) (s : State) : Host.Outcome State Fault Refusal :=
  if s.isFenced b then .next s else .next (s.raise .bayEvent b 4 0x004 2 0 0)

/-! ### Warm reset (R422) -/

/-- A mailbox is FREE with its frame zeroed; ACOUNT stays (R400). -/
def Mbox.freed (m : Mbox) : Mbox := { acount := m.acount }

/-- A programming in progress is verified before a reset goes on; whether it verifies is a free value (R461). -/
def State.settleFuse (s : State) : State :=
  match s.sec.prog with
  | none => s
  | some j => (s.takeFree).fuseDone j (bit (s.freeVal 1) 0)

/-- Order 1: every stall stops, running jobs are abandoned and will run again, and tokens and tally traffic are discarded.
(DEDUCED, log entry 213). -/
def State.stopStalls (s : State) : State :=
  let runs := s.live.filter fun r => (s.job r).sent && ((s.job r).own.isNone || !(s.job r).batch.isEmpty)
  let s := each runs s fun s r => s.abandonJob r
  let s := each runs s fun s r => s.modJob r fun j => { j with rerun := true, asking := false, notices := [] }
  let s := s.addCause (fun _ => true) 2
  { s with stalls := s.stalls.map fun e => (e.1, { e.2 with engines := [{}, {}, {}, {}], queue := [], held := [], inflight := [] })
           tokens := [], answers := [], takeQ := [], reportQ := [], faultQ := [], fw := false
           mboxes := s.mboxes.map fun e => (e.1, e.2.freed), cfg := { s.cfg with asked := none } }

/-- Order 2: acknowledged writes of the stacks drain, queued reads are dropped (R282), a load aborts (R323), and every paddock that
holds a configuration is clamped, LOADED (R327, R331, R332). -/
def State.quietUnits (s : State) : State :=
  let s := each (s.hbms.map Prod.fst) s State.hbmFlush
  let s := match s.cfg.load with
    | some l => if l.stage = 1 then s.loadFail l 15 0xFFFFFFFF none else s.loadAbort l 15 l.block
    | none => s
  each ((s.cfg.pads.filter fun e => decide (2 < e.2.state)).map Prod.fst) s fun s p => s.isolate p 2

/-- Tables mapped entry by entry list no entry that reads as unlisted. -/
def State.tidy (s : State) : State :=
  { s with stalls := s.stalls.filter fun e => e.2 != {}
           mboxes := s.mboxes.filter fun e => e.2 != {}
           hbms := (s.hbms.map fun e => (e.1, { e.2 with pcs := e.2.pcs.filter fun x => x.2 != {} })).filter fun e => e.2 != {} }

/-- Where record n of queue q stands in the copy of bay b, as the bytes of that record. -/
def State.journalAt (s : State) (b q n : Nat) : List Byte := s.read (journalAddr b q n) 256

/-- The indices at which the copy of bay b holds a record of queue q. -/
def State.journalHas (s : State) (b q : Nat) : List Nat :=
  let base := journalAddr b q 0
  dedup ((s.mem.filter fun e => decide (base ≤ e.1) && decide (e.1 < base + 0x200000)).map fun e => (e.1 - base) / 256)

/-- A record of queue q counts in the copy of bay b: its CHECK is correct and no byte of it is poisoned (R416). -/
def State.recordCounts (s : State) (b q n : Nat) : Bool :=
  recordGood (s.journalAt b q n) && !s.poisoned (journalAddr b q n) 256

/-- Order 4 of R422: every record that counts in one copy is written into the copy that lacks it. Of two that count at one index, both
copies keep what they hold. (DEDUCED, log entry 260). -/
def State.mendCopies (s : State) (q : Nat) : State :=
  let cs := (s.queue q).copies.filter fun b => !s.isFenced b
  each cs s fun s a => each (s.journalHas a q) s fun s n =>
    if s.recordCounts a q n then
      each (cs.filter fun b => !s.recordCounts b q n) s fun s b => s.write (journalAddr b q n) (s.journalAt a q n) false
    else s

/-- Orders 4, 5 and 8 for one queue: its entries are written, then its head line, and its tail line is read again. -/
def State.recoverQueue (s : State) (q : Nat) : State :=
  let s := (s.mendCopies q).flush q
  if s.watches q && !s.linkWaits (s.queue q) then s.readTail q else s

/-- A warm reset with its cause (R422, R495). It completes only when firmware starts. -/
def State.warmReset (s : State) (cause : Nat) : State :=
  if s.board.powered = false ∨ s.board.held = true then s
  else
    let s := (s.settleFuse.stopStalls.quietUnits.tidy).bootAgain
    if s.fw = false then s
    else
      let s := each (s.queues.map Prod.fst) s fun s q => s.recoverQueue q
      let s := { s with warms := s.warms + 1 }
      s.raise .glbEvent 0 3 0x003 cause s.warms 0

/-- HOT_RESET (R387): a reset of the CXL port by the host, or PERST_N. -/
def execHotReset (s : State) : Host.Outcome State Fault Refusal := .next (s.warmReset 1)

/-- SELAY_CORE_FAULT (R422): firmware's own fault. -/
def execSelayCoreFault (_c : CoreId) (s : State) : Host.Outcome State Fault Refusal :=
  if s.fw then .next (s.warmReset 3) else .next s

/-! ### Cold reset and power (R491 to R493) -/

/-- What outlives a cold reset and a loss of power: the fuses, a battery key that VBAT holds, the boot flash, host memory, and the
commands that wait. (DEDUCED, log entry 237). -/
def State.wiped (s : State) : State :=
  { State.reset with pending := s.pending, free := s.free, host := s.host, hostTag := s.hostTag
                     sec := { fuses := s.sec.fuses, bkey := s.sec.bkey, prog := s.sec.prog }
                     board := { flash := s.board.flash, op := s.board.op } }

/-- Order 4 of R491: the straps are sampled into SEC_STATUS and the ports, the nonce is new, and a key store that lost its retention
comes up zeroed (R462, R463, R471, R481). -/
def State.release (s : State) (straps : Straps) (vbatKept : Bool) : State :=
  let s := s.modSec fun x => { x with straps := straps, bkey := if vbatKept then x.bkey else none }
  let s := each (List.range 4) s fun s k => if bit straps.linkmode.toNat k then
    (s.setFld .lnkCtl (portBay k) 0 30 30 1).modLink k fun l => { l with compat := true } else s
  let s := s.newNonce
  if vbatKept then s else s.raise .secEvent 0 3 0x2C3 0 0 0

/-- COLD_RESET (R492): RESET_N low for 1 µs or more. A programming that a loss of power broke leaves each bit blown or not, and
SEC_FUSE_STATUS reads VERIFY (R461). -/
def execColdReset (lowNs : Nat) (straps : Straps) (vbatKept : Bool) (s : State) : Host.Outcome State Fault Refusal :=
  if lowNs < 1000 ∨ s.board.powered = false then .next s
  else
    let s := match s.sec.prog with
      | none => s.wiped
      | some j => if s.board.held then (s.wiped.blowSome j).modSec fun x => { x with prog := none, last := j.slot, result := 4 }
        else s.settleFuse.wiped
    .next (s.release straps vbatKept)

/-- BAY_POWER_ON (R491): the bay's rails ramp, its local counter starts from zero and its stack trains. -/
def execBayPowerOn (b : BayId) (s : State) : Host.Outcome State Fault Refusal :=
  if s.board.powered = false ∨ s.board.held = true ∨ s.isFenced b = true ∨ Tab.get false s.board.railsUp b = true then .next s
  else
    let s := s.modBoard fun x => { x with railsUp := Tab.set false x.railsUp b true }
    let s := { s with lcount := Tab.set 0 s.lcount b 0 }
    .next (s.modHbm b fun h => { h with ready := true })

/-- POWER_LOSS (R493): everything that does not outlive it is gone. -/
def execPowerLoss (s : State) : Host.Outcome State Fault Refusal :=
  if s.board.powered = false then .next s
  else .next (s.wiped.modBoard fun x => { x with powered := false, op := none })

/-- COLD_START (R491): VDD_HUB rises, and the module waits for PWR_OK and RESET_N. (DESIGN CHOICE, log entry 238). -/
def execColdStart (s : State) : Host.Outcome State Fault Refusal :=
  if s.board.powered then .next s
  else .next (s.modBoard fun x => { x with powered := true, held := true })

/-! ### Boot flash and pushed image over the management bus (R482 to R484) -/

/-- A flash command is refused: FLASH_STATUS [1] is set. -/
def State.flashRefuse (s : State) : State := s.modBoard fun x => { x with refused := true }

/-- Whether the life-cycle state and the ranges let a flash command through (R483). (DEDUCED, log entry 240). -/
def State.flashMay (s : State) (off n : Nat) (change : Bool) : Bool :=
  s.lc != 5 && s.board.op.isNone && decide (off + n ≤ 0xC00000) &&
    !(change && decide (0x800000 ≤ off) && s.lc != 0 && s.lc != 1 && s.lc != 4)

/-- A bus transfer is taken: the module has power and a PEC byte that is present is right (R482). -/
def State.busTakes (s : State) (pecOk : Bool) : Bool := pecOk && s.board.powered && !s.board.held

/-- FLASH_ERASE. -/
def execFlashErase (pecOk : Bool) (off : Word32) (s : State) : Host.Outcome State Fault Refusal :=
  if s.busTakes pecOk = false then .next s
  else if s.flashMay off.toNat 0x10000 true && off.toNat % 0x10000 == 0 then
    .next (s.modBoard fun x => { x with op := some (.erase off.toNat), refused := false })
  else .next s.flashRefuse

/-- FLASH_WRITE. -/
def execFlashWrite (pecOk : Bool) (off : Word32) (data : List Byte) (s : State) : Host.Outcome State Fault Refusal :=
  if s.busTakes pecOk = false then .next s
  else if s.flashMay off.toNat 32 true && off.toNat % 32 == 0 then
    .next (s.modBoard fun x => { x with op := some (.write off.toNat (fitTo 32 data)), refused := false })
  else .next s.flashRefuse

/-- FLASH_READ: 32 bytes. -/
def execFlashRead (pecOk : Bool) (off : Word32) (s : State) : Host.Outcome State Fault Refusal :=
  if s.busTakes pecOk = false then .next s
  else if s.flashMay off.toNat 32 false && off.toNat % 32 == 0 then
    .next { s.modBoard (fun x => { x with refused := false }) with said := some (.block (flashBytes s.board.flash off.toNat 32)) }
  else .next s.flashRefuse

/-- FLASH_STATUS: busy and refused. -/
def execFlashStatus (pecOk : Bool) (s : State) : Host.Outcome State Fault Refusal :=
  if s.busTakes pecOk = false then .next s
  else .next { s with said := some (.block (leBytes 1 (b2n s.board.op.isSome + 2 * b2n s.board.refused))) }

/-- The flash after bytes are written. -/
def flashStore (t : Tab Byte) (a : Nat) : List Byte → Tab Byte
  | [] => t
  | b :: bs => flashStore (Tab.set 0xFF t a b) (a + 1) bs

/-- FLASH_COMPLETE: the erase or write that runs takes effect, and busy clears. -/
def execFlashComplete (s : State) : Host.Outcome State Fault Refusal :=
  match s.board.op with
  | none => .next s
  | some (.erase off) => .next (s.modBoard fun x =>
      { x with op := none, flash := x.flash.filter fun e => decide (e.1 < off) || decide (off + 0x10000 ≤ e.1) })
  | some (.write off bs) => .next (s.modBoard fun x => { x with op := none, flash := flashStore x.flash off bs })

/-- PUSH_DATA: 32 bytes of the image go into secure SRAM. -/
def execPushData (pecOk : Bool) (off : Word32) (data : List Byte) (s : State) : Host.Outcome State Fault Refusal :=
  if s.busTakes pecOk && s.sec.straps.bootsrc && s.sec.stage == 0 && decide (off.toNat < 1573120) && off.toNat % 32 == 0 then
    .next (s.modBoard fun x => { x with sram := writeBytes x.sram off.toNat (fitTo 32 data) })
  else .next s

/-- PUSH_DONE: Order 2 of R466 starts with the pushed image. -/
def execPushDone (pecOk : Bool) (len : Word32) (s : State) : Host.Outcome State Fault Refusal :=
  if s.busTakes pecOk && s.sec.straps.bootsrc && s.sec.stage == 0 && s.bootable then
    .next ((s.modBoard fun x => { x with pushed := some len.toNat }).modSec fun x => { x with stage := 1 })
  else .next s

end Sys2Proof.Machine
end

