-- ==== Sys2Proof/Machine/Energy.lean ====
section
/-! DEFINITION. The energy ledger, voltage and heat (R435 to R455). -/

namespace Sys2Proof.Machine

/-- An event of ENG_BAY_EVENT of bay b (R455). -/
def State.bayEnergy (s : State) (b k w1 w2 : Nat) : State := s.raiseOnce .engBayEvent b k (0x280 + k) b w1 w2

/-- Accepted jobs placed on bay b observe a condition of R424. -/
def State.causeOn (s : State) (b c : Nat) : State := s.addCause (fun j => (baysFor (s.stallsOf j)).contains b) c

/-! ### Warnings and resets of a rail (R441 to R445) -/

/-- The warning level of a rail of bay b (R439). -/
def State.warnLevel (s : State) (b : Nat) (fab : Bool) : Nat :=
  if fab then bits (s.reg .engBayWarn b) 25 16 else bits (s.reg .engBayWarn b) 9 0

/-- A lower sample of a rail in warning is kept. -/
def State.noteLow (s : State) (b : Nat) (fab : Bool) (mv : Nat) : State :=
  match s.warning b fab with
  | some w => s.modEng fun e => { e with rails := Tab.set none e.rails (b * 2 + b2n fab) (some { w with low := min w.low mv }) }
  | none => s

/-- The predictions of the accepted deadline jobs on bay b are computed anew at the assured rates as they are (Order 3 of R443). -/
def State.repredict (s : State) (b : Nat) : State :=
  let on := s.live.filter fun j => (s.job j).limit.isSome && (baysFor (s.stallsOf j)).contains b
  let new := on.map fun j => (j, s.predAt j [] 0)
  each new s fun s x => s.modJob x.1 fun j => { j with pred := x.2 }

/-- A sample of a rail below its warning level: a warning begins (Orders 1 to 3 of R443), or the one that runs keeps its lowest
sample. (DEDUCED, log entries 216, 217). -/
def State.warn (s : State) (b : Nat) (fab : Bool) (mv : Nat) : State :=
  match s.warning b fab with
  | some _ => s.noteLow b fab mv
  | none =>
    let k := b2n fab
    let s := (s.modEng fun e =>
      { e with rails := Tab.set none e.rails (b * 2 + k) (some { since := s.local b, low := mv }) }).warnInput b fab true
    let w1 := if fab then 800 else s.vset b
    let s := if s.pendBit .engBayEvent b k then s
      else (s.bayEnergy b k w1 mv).raise .bayEvent b (k + 1) (k + 1) b w1 mv
    let s := s.count .engBayWarns b
    let s := if bits (s.reg .engBayDip b) 63 62 = 0 then s.setReg .engBayDip b 0 (dipWord (k + 1) false false mv 0) else s
    let s := s.causeOn b 3
    if fab then s else ((s.modEng fun e => { e with sag := Tab.set false e.sag b true }).showRate b).repredict b

/-- COREWARN (R443). (DESIGN CHOICE, log entry 215). -/
def execCorewarn (b : BayId) (mv : Nat) (s : State) : Host.Outcome State Fault Refusal :=
  if s.isFenced b = false ∧ mv < s.warnLevel b false then .next (s.warn b false mv) else .next s

/-- FABWARN (R443). -/
def execFabwarn (b : BayId) (mv : Nat) (s : State) : Host.Outcome State Fault Refusal :=
  if s.isFenced b = false ∧ mv < s.warnLevel b true then .next (s.warn b true mv) else .next s

/-- The level that releases a warning of a rail of bay b (R439). -/
def State.releaseLevel (s : State) (b : Nat) (fab : Bool) : Nat := s.warnLevel b fab + 15

/-- RECOVER (R441, R443): a rail in warning whose lowest sample of 10 µs is mv ends the warning above the release level; else the warning
goes on. (DEDUCED, log entry 263). -/
def execRecover (b : BayId) (fab : Bool) (s : State) (mv : Nat := 1000) : Host.Outcome State Fault Refusal :=
  match s.warning b fab with
  | none => .next s
  | some w =>
    if mv ≤ s.releaseLevel b fab then .next (s.noteLow b fab mv)
    else
    let s' := s.endWarn b fab false
    .next (s'.bayEnergy b 2 ((if fab then 2 else 1) * 2 ^ 16 + w.low % 1024) (s.local b - w.since))

/-- A rail crosses its reset level (R444): the warning comes first, then the bay is fenced. -/
def State.railReset (s : State) (b : Nat) (fab : Bool) (mv : Nat) : State :=
  let s := s.warn b fab mv
  match s.warning b fab with
  | none => s
  | some w =>
    let s' := s.endWarn b fab true
    (s'.bayEnergy b (if fab then 4 else 3) w.low (s.local b - w.since)).fenceBay b 1

/-- CORERESET (R444). -/
def execCorereset (b : BayId) (mv : Nat) (s : State) : Host.Outcome State Fault Refusal :=
  if s.isFenced b = false ∧ mv < 580 then .next (s.railReset b false mv) else .next s

/-- FABRESET (R444). -/
def execFabreset (b : BayId) (mv : Nat) (s : State) : Host.Outcome State Fault Refusal :=
  if s.isFenced b = false ∧ mv < 720 then .next (s.railReset b true mv) else .next s

/-- HUBWARN (R442). -/
def execHubwarn (mv : Nat) (s : State) : Host.Outcome State Fault Refusal :=
  if mv < 700 then .next (s.raiseOnce .engRailEvent 0 0 0x292 mv 0 0) else .next s

/-! ### Frequency changes of a stack (R276, R452) -/

/-- The accepted deadline jobs that are placed on bay b. -/
def State.timedOn (s : State) (b : Nat) : List Nat :=
  s.live.filter fun j => (s.job j).limit.isSome && (baysFor (s.stallsOf j)).contains b

/-- Every accepted deadline job placed on bay b keeps 3200 periods of slack in its prediction (R452). -/
def State.slackOn (s : State) (b : Nat) : Bool :=
  (s.timedOn b).all fun j => match (s.job j).pred, (s.job j).limit with
    | some t, some l => decide (t + 3200 ≤ l)
    | _, _ => false

/-- Firmware may change the rate code of bay b: not in a warning, and down only with slack (R452). -/
def State.mayChange (s : State) (b : Nat) : Bool :=
  let rate (k : Nat) : Nat := bits (s.reg .hbmTsetA b k) 31 30
  let h := s.hbm b
  (rate (1 - h.tset) == rate h.tset || (!s.warned b false && !s.warned b true)) &&
    (decide (rate h.tset ≤ rate (1 - h.tset)) || s.slackOn b)

/-- A change that firmware plans adds 3200 periods to the prediction of the deadline jobs on the bay (R452). -/
def State.planChange (s : State) (b : Nat) : State :=
  each (s.timedOn b) s fun s j => s.modJob j fun x => { x with base := x.base + 3200, pred := x.pred.map (· + 3200) }

/-- FCHG_GO (R276, R452): a write of HBM_FCHG.GO while the stack is ready and no change runs starts one: the controller stops accepting
requests and drains. (DEDUCED, log entry 264). -/
def execFchgGo (_c : CoreId) (b : BayId) (v : Word32) (s : State) : Host.Outcome State Fault Refusal :=
  let h := s.hbm b
  if bit v.toNat 0 = false ∨ h.phase ≠ 0 ∨ h.ready = false ∨ s.isFenced b = true ∨ s.mayChange b = false then .next s
  else .next ((s.planChange b).modHbm b fun h => { h with phase := 1, back := false })

/-! ### Setpoints and captures (R437 to R440, R443, R445) -/

/-- A write of ENG_BAY_VSET: a value outside the floor and VMAX or off the 10 mV grid changes nothing, nor does one above the floor
while the bay is hot (R440, R454). -/
def State.vsetWrite (s : State) (b v : Nat) : State :=
  let x := bits v 9 0
  if x < s.vfloor b ∨ s.vmax b < x ∨ x % 10 ≠ 0 ∨ (Tab.get false s.eng.hot b = true ∧ s.vfloor b < x) then s else s.setVset b x

/-- VSET_WRITE (R440). -/
def execVsetWrite (m : Master) (b : BayId) (v : Word32) (s : State) : Host.Outcome State Fault Refusal :=
  .next (s.guarded m ⟨.engBayVset, b, 0, 0⟩ true fun s => s.vsetWrite b v.toNat)

/-- A commit of ENG_BAY_DIP: 0 in DONE frees a capture that has ended. -/
def State.dipWrite (s : State) (b v : Nat) : State :=
  if bit v 60 = false ∧ bit (s.reg .engBayDip b) 60 = true then s.setReg .engBayDip b 0 0 else s

/-- DIP_FREE (R443). -/
def execDipFree (m : Master) (b : BayId) (v : Word64) (s : State) : Host.Outcome State Fault Refusal :=
  .next (s.guarded m ⟨.engBayDip, b, 0, 0⟩ true fun s => s.dipWrite b v.toNat)

/-- RATE_MONITOR (R438): MEASURED, and the assured rate that firmware shows. -/
def execRateMonitor (b : BayId) (measured : Nat) (s : State) : Host.Outcome State Fault Refusal :=
  .next ((s.setFld .engBayRate b 0 11 0 measured).showRate b)

/-! ### The ledger (R446, R447) -/

/-- Energy goes into the remainder of count b, and the count advances by 1 mJ for each 1000 µJ. -/
def State.spend (s : State) (b uj : Nat) : State :=
  let r := Tab.get 0 s.eng.rest b + uj
  (s.setReg .engCount 0 b ((s.reg .engCount 0 b + r / 1000) % 2 ^ 64)).modEng fun e => { e with rest := Tab.set 0 e.rest b (r % 1000) }

/-- One bay's sample: nothing while its regulators are off. -/
def State.sampleBay (s : State) (x : RailSample × Nat) : State :=
  if s.isFenced x.2 then s
  else (((s.setReg .engBayRail x.2 0 (x.1.fabMv % 1024 * 2 ^ 16 + x.1.coreMv % 1024)).spend x.2 x.1.uJ).noteLow x.2 false x.1.coreMv).noteLow
    x.2 true x.1.fabMv

/-- LEDGER_SAMPLE (R446): the hub's count takes the input energy less the bay outputs. (DEDUCED, log entry 221). -/
def execLedgerSample (bays : List RailSample) (inputUJ : Nat) (s : State) : Host.Outcome State Fault Refusal :=
  let xs := (bays.take 32).zipIdx
  let out := (xs.filter fun x => !s.isFenced x.2).foldl (fun n x => n + x.1.uJ) 0
  .next ((each xs s State.sampleBay).spend 32 (inputUJ - out))

/-- An accepted deadline job is placed on bay b (R451). -/
def State.deadlineOn (s : State) (b : Nat) : Bool :=
  s.live.any fun j => (s.job j).limit.isSome && (baysFor (s.stallsOf j)).contains b

/-- Firmware lowers a bay by 10 mV, down to its floor, and keeps the setpoint it had (R451, R454). -/
def State.stepDown (s : State) (b : Nat) : State :=
  let v := s.vset b
  if v < s.vfloor b + 10 then s
  else (s.modEng fun e => { e with lowered := if Tab.get 0 e.lowered b = 0 then Tab.set 0 e.lowered b v else e.lowered }).setVset b (v - 10)

/-- Firmware raises a bay that it lowered by 10 mV, toward the setpoint it had, within VMAX and the test of R450. -/
def State.stepUp (s : State) (b : Nat) : State :=
  let v := s.vset b
  let goal := Tab.get 0 s.eng.lowered b
  if goal = 0 then s
  else if goal ≤ v ∨ s.vmax b < v + 10 then s.modEng fun e => { e with lowered := Tab.set 0 e.lowered b 0 }
  else if s.budgetOn && !s.fits [b] (v + 10) 0 then s
  else
    let s := s.setVset b (v + 10)
    if goal ≤ v + 10 then s.modEng fun e => { e with lowered := Tab.set 0 e.lowered b 0 } else s

/-- Firmware's step on a bay at a tick: heat and budget lower it, else it rises again; never up during a warning or while hot.
(DEDUCED, log entry 224). -/
def State.steerBay (s : State) (b : Nat) : State :=
  if s.isFenced b then s
  else if Tab.get false s.eng.throt b then s.stepDown b
  else if s.eng.over_ && !s.deadlineOn b then s.stepDown b
  else if s.eng.over_ || Tab.get false s.eng.hot b || s.warned b false || s.warned b true then s
  else s.stepUp b

/-- At a tick firmware returns the assured rate of a bay whose warning is over to the rule of R438 (Order 5 of R443). -/
def State.settleRates (s : State) : State :=
  each (List.range 32) s fun s b =>
    if Tab.get false s.eng.sag b && !s.warned b false then
      ((s.modEng fun e => { e with sag := Tab.set false e.sag b false }).showRate b).repredict b
    else s

/-- The budget's state at a tick: OVER is raised on entering it (R451). -/
def State.weighBudget (s : State) : State :=
  let u := s.reg .engWindowUsed 0
  let w := s.window
  let over_ := s.budgetOn && decide (s.power * w < u)
  let s := if over_ && !s.eng.over_ then s.raiseOnce .engEvent 0 0 0x290 (u / w) s.power w else s
  s.modEng fun e => { e with over_ := over_ }

/-- LEDGER_TICK (R447, R451, R454): the ledger records the millisecond, sets U and TICK, and firmware steers. -/
def execLedgerTick (inputMJ : Nat) (s : State) : Host.Outcome State Fault Refusal :=
  let s := match s.eng.budget with
    | some v => s.setReg .engBudget 0 0 v
    | none => s
  let s := s.modEng fun e => { e with ring := (inputMJ :: e.ring).take 1000, tick := true, budget := none }
  let s := s.setReg .engWindowUsed 0 0 ((s.eng.ring.take s.window).foldl (· + ·) 0 % 2 ^ 64)
  if s.fw then .next (each (List.range 32) s.settleRates.weighBudget State.steerBay) else .next s

/-- A write of ENG_TICK_ACK. (DEDUCED, log entry 227). -/
def State.tickAckWrite (s : State) (v : Nat) : State := if bit v 0 then s.modEng fun e => { e with tick := false } else s

/-- TICK_ACK (R447). -/
def execTickAck (m : Master) (v : Word32) (s : State) : Host.Outcome State Fault Refusal :=
  .next (s.guarded m ⟨.engTickAck, 0, 0, 0⟩ true fun s => s.tickAckWrite v.toNat)

/-! ### The 27 kW ceiling (R453) -/

/-- The offset has brought every bay to its floor. -/
def State.atFloor (s : State) : Bool :=
  (List.range 32).all fun b => s.isFenced b || decide (s.vset b ≤ s.vfloor b + s.eng.offset * 10)

/-- One stage of the ceiling rises; CAP is raised when it starts from rest. -/
def State.capRise (s : State) (watts cap : Nat) (pace : Bool) : State :=
  let rest := if pace then s.eng.pace = 0 else s.eng.offset = 0
  let s := s.modEng fun e => if pace then { e with pace := min 15 (e.pace + 1), up := 0 } else { e with offset := e.offset + 1, up := 0 }
  if rest then s.raiseOnce .engEvent 0 1 0x291 watts cap (s.eng.offset * 10) else s

/-- One sample of the input power with its average over 20 µs, in 1/20 W (R453). (DEDUCED, log entry 225). -/
def State.capStep (s : State) (sum cap : Nat) : State :=
  let pct (k : Nat) : Nat := k * cap * 20
  if pct 96 < sum * 100 then
    let s := s.modEng fun e => { e with below := 0 }
    let can := if s.atFloor then (if pct 98 < sum * 100 then some true else none) else some false
    match can with
    | none => s.modEng fun e => { e with up := 0 }
    | some pace => if s.eng.up = 0 then s.modEng fun e => { e with up := 1 } else s.capRise (sum / 20) cap pace
  else if sum * 100 < pct 94 then
    s.modEng fun e =>
      if e.below + 1 < 100 then { e with below := e.below + 1, up := 0 }
      else if e.pace ≠ 0 then { e with pace := e.pace - 1, below := 0, up := 0 }
      else { e with offset := e.offset - 1, below := 0, up := 0 }
  else s.modEng fun e => { e with below := 0, up := 0 }

/-- CAP_SAMPLE (R453): while the ceiling acts, every bay counts as throttled. -/
def execCapSample (watts : Nat) (s : State) : Host.Outcome State Fault Refusal :=
  let s := s.modEng fun e => { e with watts := (watts :: e.watts).take 20 }
  let s := s.capStep (s.eng.watts.foldl (· + ·) 0) (s.reg .engCap 0)
  if s.eng.offset = 0 ∧ s.eng.pace = 0 then .next s else .next (s.addCause (fun _ => true) 4)

/-! ### Heat (R454) -/

/-- The THROT level of bay b. -/
def State.throtLevel (s : State) (b : Nat) : Nat := bits (s.reg .engBayRateCtl b) 15 8

/-- Bay b enters or leaves THROT. -/
def State.throtStep (s : State) (b degC : Nat) : State :=
  let on := Tab.get false s.eng.throt b
  if on = false ∧ s.throtLevel b ≤ degC then
    ((s.modEng fun e => { e with throt := Tab.set false e.throt b true }).bayEnergy b 5 degC (s.vset b)).causeOn b 4
  else if on = true ∧ degC + 3 ≤ s.throtLevel b then s.modEng fun e => { e with throt := Tab.set false e.throt b false }
  else s

/-- Bay b enters or leaves HOT: it ramps to its floor. -/
def State.hotStep (s : State) (b degC : Nat) : State :=
  let on := Tab.get false s.eng.hot b
  if on = false ∧ 105 ≤ degC then
    let s := ((s.modEng fun e => { e with hot := Tab.set false e.hot b true }).bayEnergy b 6 degC (s.vset b)).causeOn b 4
    if s.vfloor b < s.vset b then s.setVset b (s.vfloor b) else s
  else if on = true ∧ degC < 100 then s.modEng fun e => { e with hot := Tab.set false e.hot b false }
  else s

/-- The hottest logic-die sensor of bay b reads a temperature; the levels act while the bay is in service. (DEDUCED, log entry
226). -/
def State.heat (s : State) (b degC : Nat) : State :=
  let s := s.setFld .engBayTemp b 0 7 0 (min 255 degC)
  let s := s.showRate b
  if s.isFenced b then s
  else
    let s := (s.throtStep b degC).hotStep b degC
    if 115 ≤ degC then (s.bayEnergy b 7 degC (s.vset b)).fenceBay b 6 else s

/-- THROTTLE (R454): a temperature below HOT. -/
def execThrottle (b : BayId) (degC : Nat) (s : State) : Host.Outcome State Fault Refusal :=
  if degC < 105 then .next (s.heat b degC) else .next s

/-- HOT (R454): 105 °C or more, and below TRIP. -/
def execHot (b : BayId) (degC : Nat) (s : State) : Host.Outcome State Fault Refusal :=
  if 105 ≤ degC ∧ degC < 115 then .next (s.heat b degC) else .next s

/-- TRIP (R454): 115 °C or more. -/
def execTrip (b : BayId) (degC : Nat) (s : State) : Host.Outcome State Fault Refusal :=
  if 115 ≤ degC then .next (s.heat b degC) else .next s

end Sys2Proof.Machine
end

