-- ==== Sys2Proof/Machine/Mailbox.lean ====
section
/-! DEFINITION. Mailboxes (R399, R400): their states, their frames, and the answers of firmware. -/

namespace Sys2Proof.Machine

def State.mbox (s : State) (mb : Nat) : Mbox := Tab.get {} s.mboxes mb
def State.modMbox (s : State) (mb : Nat) (f : Mbox → Mbox) : State := { s with mboxes := Tab.upd {} s.mboxes mb f }

/-- OPC, LEN and TAG of the request header, and whether its reserved bytes are zero (R399). -/
def Mbox.opc (m : Mbox) : Nat := ofLe (readBytes m.req 0x110 2)
def Mbox.len (m : Mbox) : Nat := ofLe (readBytes m.req 0x112 2)
def Mbox.tag (m : Mbox) : Nat := ofLe (readBytes m.req 0x114 4)
def Mbox.zeroTail (m : Mbox) : Bool := (readBytes m.req 0x118 8).all (· == 0)

/-- n bytes of the request payload from an offset, and a little-endian number there. -/
def Mbox.payload (m : Mbox) (off n : Nat) : List Byte := readBytes m.req (0x120 + off) n
def Mbox.arg (m : Mbox) (off n : Nat) : Nat := ofLe (m.payload off n)

/-- The answer area for a status and a payload. -/
def Mbox.answerArea (m : Mbox) (status : Nat) (bs : List Byte) : Tab Byte :=
  writeBytes [] 0x800 (leBytes 2 m.opc ++ leBytes 2 status ++ leBytes 4 m.tag ++ leBytes 4 bs.length ++ leBytes 4 0 ++ bs)

/-- The answer of a command is posted, and vector 1 or 2 is raised; after a forced release it is discarded (R399, R400). -/
def State.answer (s : State) (mb : Nat) (status : Status) (bs : List Byte := []) : State :=
  let m := s.mbox mb
  if m.drop then s.modMbox mb Mbox.freed
  else
    let s := s.modMbox mb fun x =>
      { x with state := 3, acount := (x.acount + 1) % 2 ^ 16, ans := x.answerArea status.code bs, page := none }
    s.msixSend (if mb < 8 then 1 else 2)

/-- The opcodes of R427. -/
def mailOpcodes : List Nat :=
  [0x01, 0x10, 0x11, 0x20, 0x21, 0x22, 0x30, 0x31, 0x32, 0x33, 0x34, 0x40, 0x41, 0x42, 0x43, 0x50, 0x51, 0x60, 0x61, 0x70, 0x80]

/-- A request passes to firmware: one with an unknown OPC or an excess LEN is answered at once (R399, R426). (DEDUCED, log
entry 181). -/
def State.submitted (s : State) (mb : Nat) (page : Option Nat) : State :=
  let s := s.modMbox mb fun x => { x with state := 2, page := page }
  let m := s.mbox mb
  if s.fw = false then s
  else if 1760 < m.len then s.answer mb .mbForm
  else if !mailOpcodes.contains m.opc then s.answer mb .mbOpcode
  else s

/-- The privileged mailbox state machine: SUBMIT in FREE or ANSWERED, RELEASE in ANSWERED (R400). -/
def State.mailPriv (s : State) (mb op : Nat) : State :=
  let st := (s.mbox mb).state
  if op = 2 ∧ (st = 0 ∨ st = 3) then s.submitted mb none
  else if op = 3 ∧ st = 3 then s.modMbox mb Mbox.freed
  else s

/-- The unprivileged mailbox of a BAR2 page: CLAIM in FREE, and for its owner SUBMIT and RELEASE (R400). (DEDUCED, log entry
180). -/
def State.mailPage (s : State) (page op : Nat) : State :=
  let mb := 8 + page % 8
  let m := s.mbox mb
  if op = 1 ∧ m.state = 0 then s.modMbox mb fun x => { x with state := 1, owner := some page }
  else if m.owner ≠ some page then s
  else if op = 2 ∧ (m.state = 1 ∨ m.state = 3) then s.submitted mb (some page)
  else if op = 3 ∧ m.state = 1 then s.modMbox mb Mbox.freed
  else if op = 3 ∧ m.state = 3 then s.modMbox mb fun x => { x with state := 1 }
  else s

/-- A write of 0 to HST_MB_OWNER u: a BUSY mailbox lets its command finish and discards the answer (R400). (DEDUCED, log entry
179). -/
def State.forceRelease (s : State) (u : Nat) : State :=
  let m := s.mbox (8 + u)
  if m.owner = none then s
  else if m.state = 2 then s.modMbox (8 + u) fun x => { x with owner := none, drop := true }
  else s.modMbox (8 + u) Mbox.freed

/-- CLAIM (R400). -/
def execClaim (page : Fin 4096) (v : Word32) (s : State) : Host.Outcome State Fault Refusal :=
  if bits v.toNat 31 30 = 1 ∧ s.responds .hst = true then .next (s.mailPage page 1) else .next s

/-- A write of MB_CTL of mailbox mb by a master with an operation: a privileged mailbox answers masters that may write privileged
registers, an unprivileged one the BAR2 pages of its set. -/
def State.mailCtl (s : State) (m : Master) (mb op : Nat) : State :=
  if s.responds .hst = false then s
  else match m with
    | .bar2 p => if mb = 8 + p.val % 8 then s.mailPage p op else s
    | m => if mb < 8 ∧ (s.view m).may .hstStatus true = true then s.mailPriv mb op else s

/-- SUBMIT (R400). -/
def execSubmit (m : Master) (mb : MailboxId) (v : Word32) (s : State) : Host.Outcome State Fault Refusal :=
  if bits v.toNat 31 30 = 2 then .next (s.mailCtl m mb 2) else .next s

/-- RELEASE (R400). -/
def execRelease (m : Master) (mb : MailboxId) (v : Word32) (s : State) : Host.Outcome State Fault Refusal :=
  if bits v.toNat 31 30 = 3 then .next (s.mailCtl m mb 3) else .next s

/-- OWNER_RELEASE (R400). -/
def execOwnerRelease (m : Master) (u : Fin 8) (v : Word32) (s : State) : Host.Outcome State Fault Refusal :=
  .next (s.guarded m ⟨.hstMbOwner, 0, u, 0⟩ true fun s => if bit v.toNat 31 then s else s.forceRelease u)

/-! ### Frames -/

/-- MB_STATUS as a privileged master sees it, or as a page does (R399, R400). -/
def Mbox.status (m : Mbox) (page : Option Nat) : Nat :=
  let mine := page.isNone || m.owner == page
  m.state * 2 ^ 30 + b2n mine * 2 ^ 29 + (if mine then m.acount else 0)

/-- A 32-bit read of a frame at a page offset from 0x100. -/
def Mbox.frameRead (m : Mbox) (page : Option Nat) (off : Nat) : Nat :=
  let mine := page.isNone || m.owner == page
  if off = 0x104 then m.status page
  else if !mine then 0
  else if 0x110 ≤ off ∧ off < 0x800 then ofLe (readBytes m.req off 4)
  else if 0x800 ≤ off then ofLe (readBytes m.ans off 4)
  else 0

/-- A 32-bit write of a frame's request area: not while the command runs, and by a page only in its own mailbox (R400). -/
def Mbox.frameWrite (m : Mbox) (page : Option Nat) (off v : Nat) : Mbox :=
  if (page.isNone || m.owner == page) && m.state != 2 && decide (0x110 ≤ off) && decide (off < 0x800) then
    { m with req := writeBytes m.req off (leBytes 4 v) }
  else m

end Sys2Proof.Machine
end

