-- ==== Sys2Proof/Machine/Registers.lean ====
section
/-! DEFINITION. What a read of each register shows: registers hold their value, and status registers show the state of their
units. The interrupt controller's pending words (R55 to R60) are among them. -/

namespace Sys2Proof.Machine

/-! ### Interrupt sources (R55 to R59) -/

/-- An event register has a pending bit. -/
def State.pends (s : State) (r : Rn) (n : Nat) (i : Nat := 0) : Bool := bits (s.reg r n i) 23 0 != 0

/-- Shared source n = b × 64 + k is asserted (R56). -/
def State.shared (s : State) (n : Nat) : Bool :=
  let b := n / 64
  let k := n % 64
  if k = 0 then s.pends .bayEvent b
  else if k ≤ 8 then s.pends .cfgPevent b (k - 1)
  else if k = 9 then s.pends .hbmEvent b
  else if k = 10 then s.pends .nocEvent b
  else if k = 11 then s.pends .prbEvent b
  else if k = 12 then s.pends .tlyEvent b
  else if k = 13 then s.pends .fabEvent b
  else if k = 14 then b % 8 == 7 && s.pends .lnkEvent b
  else if k = 15 then s.pends .engBayEvent b
  else if k < 48 then [2 * (k - 16), 2 * (k - 16) + 1].any fun i =>
    let g := b * 64 + i
    s.pends .stlNumEvent g || s.pends .stlArrEvent g || s.pends .stlIqEvent g || s.pends .ccoEvent g || s.pends .vecEvent g ||
      s.pends .strEvent g
  else Tab.get false (s.fab b).irq (k - 48)

/-- The word of SEL_IC_PEND_SH w that core c reads: sources pending, enabled and routed to it. -/
def State.pendShared (s : State) (c w : Nat) : Nat :=
  (List.range 32).foldl (fun v j =>
    let r := s.reg .selIcRoute 0 (32 * w + j)
    if bit r 8 && bits r 1 0 == c && s.shared (32 * w + j) then v + 2 ^ j else v) 0

/-- A level-sensitive source of a private bank whose condition the manual gives (R57); none for one it does not give. (DESIGN
CHOICE, log entry 16). -/
def State.privateLevel (s : State) (c j : Nat) : Option Bool :=
  if j < 8 then some ((s.mbox (4 * c + (j - 4))).state == 2)
  else match c, j with
    | 0, 10 => some (s.pends .glbEvent 0)
    | 0, 11 => some (s.pends .hstEvent 0)
    | 1, 8 => some s.eng.tick
    | 1, 9 => some (s.pends .engEvent 0)
    | 1, 10 => some (s.pends .prbEvent 32)
    | 1, 11 => some (s.pends .engRailEvent 0)
    | 3, 8 => some (s.pends .glbViol 0)
    | 3, 9 => some (s.pends .secEvent 0)
    | 3, 11 => some (s.pends .cfgLevent 0)
    | _, _ => none

/-- SEL_IC_PEND_PRIV as core c reads it; a bit whose condition the manual does not give is a free value once firmware runs, and 0 before,
as it is after a reset. -/
def State.pendPrivate (s : State) (c : Nat) : Nat :=
  let x := s.freeVal 12
  (Tab.get 0 s.icEdge c) % 16 + ((List.range 8).foldl (fun v i =>
    v + b2n ((s.privateLevel c (i + 4)).getD (s.fw && bit x (i + 4))) * 2 ^ (i + 4)) 0)

/-! ### Status registers -/

/-- The bits of a list of flags, the first lowest. -/
def flagBits : List Bool → Nat
  | [] => 0
  | b :: t => b2n b + 2 * flagBits t

/-- STL_ARR_STATUS (R112). -/
def Stall.arrStatus (st : Stall) : Nat :=
  match st.mrun with
  | none => 0
  | some r =>
    b2n st.drain * 2 ^ 9 + b2n (r.staging.isSome || decide (r.next < r.d.passes)) * 2 ^ 8 +
      flagBits (r.units.map fun u => u.m != 0 && u.front != 0) * 2 ^ 4 + flagBits (r.units.map fun u => u.m != 0)

/-- CCO_STATUS. -/
def State.coreStatus (s : State) (g : Nat) : Nat :=
  let c := (s.stall g).core
  b2n c.halted * 2 ^ 31 + b2n (c.run && !c.halted) * 2 ^ 30 + s.coreWait g * 2 ^ 27 + b2n c.handler * 2 ^ 26 + b2n c.sat * 2 ^ 25 +
    c.loops.length * 2 ^ 23 + c.rrb % 32 * 2 ^ 18 + c.pc % 8192

/-- STL_IQ_STATUS. -/
def Stall.iqStatus (st : Stall) : Nat :=
  let (wait, job) := match st.headEntry with
    | none => (false, 0)
    | some e => (e.wtEn && !st.waitOk e, e.slot)
  b2n st.run.isSome * 2 ^ 31 + b2n wait * 2 ^ 30 + job * 2 ^ 20 + (st.inflight.length + b2n st.commit.isSome) * 2 ^ 15 + st.queue.length

/-- STR_SLOTS. -/
def Engine.slots (e : Engine) : Nat :=
  b2n e.active.isSome * 2 ^ 31 + b2n e.standby.isSome * 2 ^ 30 + (match e.active with
    | none => 0
    | some t => b2n t.e.isNone * 2 ^ 29 + t.off % 2 ^ 24)

/-- The time to empty of a transfer at a local count (R248). -/
def Transfer.tte (t : Transfer) (now : Nat) : Nat :=
  if t.d.rate = 0 then 4095
  else
    let due := t.d.rate * (now - t.since) / 1024
    if t.lines ≤ due then 0 else min 4095 ((t.lines - due) * 1024 / t.d.rate)

/-- STR_TTE. -/
def Engine.tte (e : Engine) (now : Nat) : Nat :=
  match e.active with
  | some t => if t.started then t.tte now else 4095
  | none => 4095

/-- HBM_STATUS: RATE is that of the active set once the stack has trained, and 0 before (R8). (DEDUCED, log entry 257). -/
def State.hbmStatus (s : State) (b : Nat) : Nat :=
  let h := s.hbm b
  b2n (h.phase != 0) * 2 ^ 31 + h.tset % 2 * 2 ^ 30 + (if h.ready || h.phase != 0 then bits (s.reg .hbmTsetA b h.tset) 31 30 else 0) * 2 ^ 28 + h.temp % 256 * 2 ^ 16 +
    h.training.getD 255 * 2 ^ 8 + b2n h.ready

/-- FAB_STATUS. -/
def State.fabStatus (s : State) (b : Nat) : Nat :=
  let f := s.fab b
  flagBits f.lock * 2 ^ 24 + b2n f.warnFab * 2 ^ 17 + b2n f.warnCore * 2 ^ 16 + flagBits ((List.range 16).map fun i => s.netRuns b i)

/-- CFG_STATUS. -/
def State.cfgStatus (s : State) : Nat :=
  let c := s.cfg
  (c.load.map Load.stage).getD 0 * 2 ^ 8 + b2n (s.reg .cfgErrpin != 0) * 2 ^ 5 + b2n c.doneIn * 2 ^ 4 + b2n c.doneOut * 2 ^ 3 + c.session

/-- CFG_PSTATE. -/
def Pad.pstate (p : Pad) : Nat :=
  flagBits ((List.range 16).map fun i => (needNet p.nets i).isSome) * 2 ^ 16 +
    flagBits ((List.range 4).map fun n => (needPll p.plls n).isSome) * 2 ^ 12 + p.status % 16 * 2 ^ 4 + p.state

/-- LNK_STATUS. -/
def Link.statusWord (l : Link) : Nat :=
  l.state * 2 ^ 28 + l.rate * 2 ^ 26 + b2n l.compat * 2 ^ 25 + l.width * 2 ^ 20 + l.mmcause * 2 ^ 18 + b2n l.fpvalid * 2 ^ 17 + l.live % 2 ^ 16

/-- LNK_LANE_STAT: the logical lane of a live one is its place among the lanes that CONFIG fixed (R361). -/
def Link.laneStat (l : Link) (on : Bool) (i : Nat) : Nat :=
  b2n (bit l.signal i) * 2 ^ 31 + b2n (bit l.lock i) * 2 ^ 30 + b2n (Tab.get {} l.checks i : Checker).locked * 2 ^ 29 +
    (if on then l.logical i % 16 * 2 ^ 24 else 0)

/-- HST_STATUS. -/
def State.hstStatus (s : State) : Nat :=
  b2n s.fw * 2 ^ 31 + b2n s.hdm.isSome * 2 ^ 30 + b2n s.viral * 2 ^ 29 + b2n s.hostUp * 2 ^ 28 + s.width % 32 * 2 ^ 8 + s.speed % 64

/-- HST_FQ_STATE. -/
def FeedQueue.stateWord (q : FeedQueue) : Nat :=
  b2n q.en * 2 ^ 31 + b2n q.hbm * 2 ^ 30 + q.irq * 2 ^ 28 + q.stop * 2 ^ 24 + q.c * 2 ^ 8 + q.f

/-- ENG_STATUS. -/
def State.engStatus (s : State) : Nat :=
  let e := s.eng
  b2n e.tick * 2 ^ 31 + b2n (e.offset != 0 || e.pace != 0) * 2 ^ 30 + b2n e.over_ * 2 ^ 29 + b2n s.budgetOn * 2 ^ 28 + e.pace * 2 ^ 8 +
    e.offset % 256

/-- SEC_STATUS. -/
def State.secStatus (s : State) : Nat :=
  s.lc * 2 ^ 29 + b2n s.sec.straps.keysrc * 2 ^ 28 + b2n (s.fuse 5).valid * 2 ^ 27 + b2n s.sec.bkey.isSome * 2 ^ 26 +
    b2n (s.fuse 4).valid * 2 ^ 25 + b2n s.sec.slotB * 2 ^ 24 + (s.fuse 6).val % 256 * 2 ^ 8 +
    (s.fuse 7).val % 256

/-- The core that reads through a master. -/
def Master.core : Master → Option Nat
  | .selay c => some c.val
  | _ => none

/-- A register can be read: some field is not write-only. -/
def Rn.readable (r : Rn) : Bool := r.spec.flds.any fun f => f.acc != .wo

/-- What a register shows to a master: for a 64-bit register, both words. -/
def State.shown (s : State) (m : Master) (r : RegAt) : Nat :=
  let n := r.inst
  match r.rn with
  | .bayStatus => n * 2 ^ 8 + b2n (s.hbm n).ready * 2 ^ 2 + b2n (Tab.get false s.board.railsUp n) * 2 + b2n (s.isFenced n)
  | .bayLcount => s.local n
  | .selIcPendSh => ((Master.core m).map fun c => s.pendShared c r.i).getD 0
  | .selIcPendPriv => ((Master.core m).map fun c => s.pendPrivate c).getD 0
  | .stlArrStatus => (s.stall n).arrStatus
  | .ccoStatus => s.coreStatus n
  | .ccoPbase => (s.stall n).core.pbase
  | .ccoPlen => (s.stall n).core.plen
  | .ccoIvec => (s.stall n).core.ivec
  | .ccoIrq => (s.stall n).core.irqEn * 2 ^ 8 + s.irqPend n
  | .vecStatus => b2n (s.stall n).vrun.isSome * 2 ^ 31 + (s.stall n).vop % 256 * 2 ^ 16 + ((s.stall n).vrun.map fun r => min r.row (r.d.rows - 1)).getD 0
  | .stlIqStatus => (s.stall n).iqStatus
  | .stlWatchState => s.watchState n
  | .tlyCellState =>
    let c : Cell := Tab.get {} s.cells n
    c.state * 2 ^ 62 + b2n c.cover * 2 ^ 61 + c.job * 2 ^ 48 + c.gen * 2 ^ 40 + c.epoch
  | .tlyCellRange => (Tab.get {} s.cells n : Cell).limit * 2 ^ 32 + (Tab.get {} s.cells n : Cell).base
  | .tlyCellNext => (Tab.get {} s.cells n : Cell).next
  | .tlyCellCount => (Tab.get {} s.cells n : Cell).done * 2 ^ 32 + (Tab.get {} s.cells n : Cell).taken
  | .strSlots => ((s.stall n).engine r.i).slots
  | .strTte => ((s.stall n).engine r.i).tte (s.local (n / 64))
  | .hbmStatus => s.hbmStatus n
  | .fabStatus => s.fabStatus n
  | .cfgStatus => s.cfgStatus
  | .cfgPstate => (s.pad (n * 8 + r.i)).pstate
  | .cfgPdigest => ofLe (((s.pad (n * 8 + r.i)).digest.drop (4 * r.j)).take 4)
  | .cfgAuditPos => (Tab.get {} s.cfg.audits n : Auditor).pad * 2 ^ 16 + (Tab.get {} s.cfg.audits n : Auditor).frame
  | .nocStatus => Tab.get 0 s.net.epoch n % 2 ^ 16 * 2 ^ 16 + Tab.get 0 s.net.closed n % 16
  | .lnkStatus => (s.linkSeen (n / 8)).statusWord
  | .lnkLaneStat => (s.link (n / 8)).laneStat (bit (s.linkSeen (n / 8)).live r.i) r.i
  | .hstStatus => s.hstStatus
  | .hstMbOwner => match (s.mbox (8 + r.i)).owner with
    | some p => 2 ^ 31 + p
    | none => 0
  | .hstFqState => (s.queue r.i).stateWord
  | .hstFqPos => (s.queue r.i).tail * 2 ^ 32 + (s.queue r.i).head
  | .hstFqCpos => (s.queue r.i).cdone * 2 ^ 32 + (s.queue r.i).written
  | .engStatus => s.engStatus
  | .engCharged => s.charged % 2 ^ 32
  | .secStatus => s.secStatus
  | .secBoot => s.sec.stage
  | .secDeviceId => (s.fuse 1).val
  | .secFuseStatus => b2n s.sec.prog.isSome * 2 ^ 31 + s.sec.last * 2 ^ 8 + s.sec.result
  | k => if k.readable then s.regAt r else 0

end Sys2Proof.Machine
end

