-- ==== Sys2Proof/Machine/Access.lean ====
section
/-! DEFINITION. Accesses to registers and mailbox frames by the masters of R42 (R10, R38 to R50, R54, R58 to R61), and the event
ring (R51 to R54). -/

namespace Sys2Proof.Machine

/-! ### Latches of 64-bit registers (R45) -/

/-- A number for each master. -/
def Master.key : Master → Nat
  | .bar0 => 0
  | .bar2 p => 1 + p.val
  | .selay c => 5000 + c.val
  | .jtag => 5010
  | .mgmtBus => 5011
  | .unit g => 6000 + g.val

/-- A master's shadow and staging word of the LP register at an offset. (DESIGN CHOICE, log entry 24). -/
def State.latchOf (s : State) (m : Master) (off : Nat) : Latch := Tab.get {} s.latch (Master.key m * 2 ^ 28 + off)

/-- The state after a master's latch of a register becomes x. -/
def State.setLatch (s : State) (m : Master) (off : Nat) (x : Latch) : State :=
  { s with latch := Tab.set {} s.latch (Master.key m * 2 ^ 28 + off) x }

/-! ### The controls of the event ring (R54) -/

/-- A write of GLB_EVRING_CTL: LOG2 holds while EN is set, and setting EN starts the ring at index 0. -/
def State.evringCtl (s : State) (v : Nat) : State :=
  let old := s.reg .glbEvringCtl
  let s := s.rwWrite ⟨.glbEvringCtl, 0, 0, 0⟩ (if bit old 8 then putBits v 4 0 (bits old 4 0) else v)
  if bit old 8 = false ∧ bit v 8 = true then (s.setReg .glbEvringHead 0 0 0).setReg .glbEvringTail 0 0 0 else s

/-- The records of the ring. -/
def State.evringSize (s : State) : Nat := 2 ^ bits (s.reg .glbEvringCtl) 4 0

/-- A write of GLB_EVRING_TAIL: one past HEAD is ignored and reported. (DESIGN CHOICE, log entry 14). -/
def State.evringTail (s : State) (v : Nat) : State :=
  let n := s.evringSize
  let t := bits v 15 0 % n
  let old := s.reg .glbEvringTail
  let head := s.reg .glbEvringHead
  let ahead (x : Nat) : Nat := (x + n - old % n) % n
  if ahead head < ahead t then s.raise .glbEvent 0 4 0x004 t head old
  else s.setReg .glbEvringTail 0 0 t

/-! ### The interrupt controller and MSI-X (R57 to R61) -/

/-- An edge on source j of core c's private bank: it merges with a pending one (R58). -/
def State.edge (s : State) (c j : Nat) : State := { s with icEdge := Tab.upd 0 s.icEdge c fun v => v ||| 2 ^ j }

/-- A write of SEL_IC_DONE by core c: an edge-triggered source is cleared; a level-sensitive one is sampled anew, and so reads as it
is (R58 to R60). (DEDUCED, log entry 15). -/
def State.icDone (s : State) (c v : Nat) : State :=
  let j := bits v 11 0
  if bit v 12 = true ∧ j < 4 then { s with icEdge := Tab.upd 0 s.icEdge c fun x => x - (x &&& 2 ^ j) } else s

/-- A write of SEL_IC_SIGNAL by core c: an edge on the target's source for c; naming c itself raises nothing (R57). -/
def State.icSignal (s : State) (c v : Nat) : State :=
  let t := bits v 1 0
  if t = c then s else s.edge t (if c < t then 1 + c else c)

/-- A write of SEL_MSIX_RAISE by core c (R61, R495). -/
def State.msixRaise (s : State) (c v : Nat) : State :=
  let x := bits v 6 0
  if x < 68 then s.msixSend x else s.raise .glbEvent 0 1 0x001 x c 0

/-! ### Writes -/

/-- The state that an outcome gives, or the one before it. -/
def took (o : Host.Outcome State Fault Refusal) (s : State) : State :=
  match o with
  | .next t => t
  | _ => s

/-- The fields of a register that a clearing write or a clearing read touches. -/
def Rn.hasAcc (r : Rn) (a : Acc) : Bool := r.spec.flds.any fun f => f.acc == a

/-- A write of LNK_ATT a: DELIVER names an existing endpoint of KIND 2, or the Selay cores; another value keeps the register's
binding (R10, R378). (DEDUCED, log entry 163). -/
def State.attWrite (s : State) (n a v : Nat) : State :=
  let d := bits v 15 0
  if (addrKind d = 2 ∧ endpointExists d = true) ∨ d = addrOf 32 3 1 then s.rwWrite ⟨.lnkAtt, n, a, 0⟩ v else s

/-- A write of HBM_SCHED: WR_HI and WR_LO, as the write would set them, keep their values where WR_LO would not lie below WR_HI. -/
def State.schedWrite (s : State) (r : RegAt) (v : Nat) : State :=
  let w := rwMerge r.rn.spec.flds (s.regAt r) v
  s.rwWrite r (if bits w 11 6 ≤ bits w 5 0 then putBits v 11 0 (bits (s.regAt r) 11 0) else v)

/-- A write of ENG_BAY_VLIM: VMAX and VMIN, as the write would set them, keep their values where VMAX would lie below VMIN
(R439). (DEDUCED, log entry 219). -/
def State.limitWrite (s : State) (r : RegAt) (v : Nat) : State :=
  let w := rwMerge r.rn.spec.flds (s.regAt r) v
  if bits w 25 16 < bits w 9 0 then s else s.rwWrite r v

/-- The part of a value written that a register has bits for: entry 32 of the route table has no waypoint, and the others no hub link. -/
def RegAt.taken (r : RegAt) (v : Nat) : Nat :=
  if r.rn = .nocRoute then (if r.i = 32 then v % 2 ^ 31 else v / 4 * 4) else v

/-- A write of v to a register by a master that may write it: for a 64-bit register, both halves in one step. (DESIGN CHOICE,
log entries 17, 91). -/
def State.commit (s : State) (m : Master) (r : RegAt) (v : Nat) : State :=
  let n := r.inst
  let i := r.i
  let core := (Master.core m).getD 4
  match r.rn with
  | .glbEvringBase => if bit (s.reg .glbEvringCtl) 8 then s else s.rwWrite r v
  | .glbEvringCtl => s.evringCtl v
  | .glbEvringTail => s.evringTail v
  | .selIcDone => if core = 4 then s else s.icDone core v
  | .selIcSignal => if core = 4 then s else s.icSignal core v
  | .selMsixRaise => if core = 4 then (s.msixRaise (s.freeVal 2) v).takeFree else s.msixRaise core v
  | .stlWatchCtl => s.watchCtl n v
  | .stlWatchDeclare => took (execWatchDeclare 0 (Fin.ofNat 2048 n) (BitVec.ofNat 32 v) s) s
  | .tlyArmCmd =>
    if bits v 31 30 = 1 then took (execTallyArm 0 (Fin.ofNat 32 n) (BitVec.ofNat 32 v) s) s
    else took (execTallyRelease 0 (Fin.ofNat 32 n) (BitVec.ofNat 32 v) s) s
  | .strArm => took (execStrArm 0 (Fin.ofNat 2048 n) (Fin.ofNat 4 i) (BitVec.ofNat 32 v) s) s
  | .hbmSched => s.schedWrite r v
  | .hbmTsetA | .hbmTsetB => if i = (s.hbm n).tset then s else s.rwWrite r v
  | .hbmFchg => took (execFchgGo 0 (Fin.ofNat 32 n) (BitVec.ofNat 32 v) s) s
  | .fabPllCfg => s.pllWrite n i false v
  | .fabPllDiv => s.pllWrite n i true v
  | .fabGclk => s.gclkWrite n i v
  | .cfgErrpin => s.errpinWrite v
  | .cfgLoadCmd => if bits v 31 30 = 1 then s.startLoad v else if bits v 31 30 = 2 then s.opIsolate v else s
  | .cfgSession => if bits v 1 0 = 1 then s.endSession else if bits v 1 0 = 2 then s.restartSession else s
  | .nocRoute => s.rwWrite r (r.taken v)
  | .nocRouteCmd => if bit v 0 then s.routeCommit n else s
  | .prbTraceCtl => s.traceCtl n v
  | .lnkCtl => s.lnkCtlWrite (n / 8) v
  | .lnkFecInj => if bits v 4 0 = 0 then s else s.modLink (n / 8) fun l => { l with inj := bits v 4 0 }
  | .lnkAtt => s.attWrite n i v
  | .lnkLaneCtl => s.laneWrite (n / 8) i v
  | .hstMbOwner => if bit v 31 then s else s.forceRelease i
  | .engTickAck => s.tickAckWrite v
  | .engBayVset => s.vsetWrite n v
  | .engBayVlim => s.limitWrite r v
  | .engBayRateCtl => (s.rwWrite r v).showRate n
  | .engBayDip => s.dipWrite n v
  | .secFuseData | .secBkey => s.setRegAt r (v % 2 ^ 32)
  | .secFuseProg => s.fuseProg m v
  | .secBkeyCtl => s.bkeyCtl v
  | k => if k.hasAcc .sq then s.setRegAt r (evClear (s.regAt r) v) else s.rwWrite r v

/-- A 32-bit write of a word of a register (R45). -/
def State.writeWord (s : State) (m : Master) (r : RegAt) (hi : Bool) (v : Nat) : State :=
  if r.rn.spec.wide = false then s.commit m r v
  else if hi then
    let x := s.latchOf m r.off
    let lo := x.stage.getD (s.regAt r % 2 ^ 32)
    (s.commit m r (v * 2 ^ 32 + lo)).setLatch m r.off { x with stage := some lo }
  else s.setLatch m r.off { s.latchOf m r.off with stage := some v }

/-! ### Reads -/

/-- The value of a register after the read that clears its counters (R50). -/
def rcCleared (r : Rn) (v : Nat) : Nat :=
  r.spec.flds.foldl (fun acc f => if f.acc = .rc then putBits acc f.hi f.lo 0 else acc) (v % (r.top + 1))

/-- The state after a read of a register that shows v. -/
def State.afterRead (s : State) (r : RegAt) : State :=
  let s := if r.rn.hasAcc .rc then s.setRegAt r (rcCleared r.rn (s.regAt r)) else s
  if r.rn = .selIcPendPriv then s.takeFree else s

/-- A 32-bit read of a word of a register, with its value (R45, R50). -/
def State.readWord (s : State) (m : Master) (r : RegAt) (hi : Bool) : State × Nat :=
  if hi then (s, (s.latchOf m r.off).shadow)
  else
    let v := s.shown m r
    let s := if r.rn.spec.wide then s.setLatch m r.off { s.latchOf m r.off with shadow := v / 2 ^ 32 } else s
    (s.afterRead r, v % 2 ^ 32)

/-! ### The spaces of the masters -/

/-- What a master finds at an offset of the space that it addresses. -/
inductive Target
  | reg (r : RegAt) (hi : Bool)
  | frame (mb : Nat) (page : Option Nat) (off : Nat)
  | nothing
deriving DecidableEq, Repr

/-- The 64 MiB register space, with the frames of the privileged mailboxes (R39, R399). (DEDUCED, log entry 20). -/
def regSpace (off : Nat) : Target :=
  let f := (off - 0x201000) / 0x1000
  let o := off % 0x1000
  if off % 4 ≠ 0 then .nothing
  else if 0x201000 ≤ off ∧ off < 0x209000 then (if 0x100 ≤ o then .frame f none o else .nothing)
  else match locate off with
    | some (r, hi) => .reg r hi
    | none => .nothing

/-- A page of BAR2 (R41). -/
def pageSpace (p off : Nat) : Target :=
  if off % 4 ≠ 0 ∨ 0x1000 ≤ off then .nothing
  else if off = 0 then .reg ⟨.glbId, 0, 0, 0⟩ false
  else if 0x100 ≤ off then .frame (8 + p % 8) (some p) off
  else .nothing

/-- What master m finds at an offset. -/
def targetOf (m : Master) (off : Nat) : Target :=
  match m with
  | .bar2 p => pageSpace p off
  | _ => regSpace off

/-- The block that answers at a target. -/
def Target.blk : Target → Blk
  | .reg r _ => r.rn.spec.blk
  | .frame _ _ _ => .hst
  | .nothing => .glb

/-- Whether master m may make an access to a target: GLB_ID and a page's own frame answer the page, privileged frames those that may
reach privileged registers. -/
def State.permits (s : State) (m : Master) (t : Target) (write : Bool) : Bool :=
  match m, t with
  | .bar2 _, _ => true
  | m, .reg r _ => (s.view m).may r.rn write
  | m, .frame _ _ _ => (s.view m).may .hstStatus write
  | _, .nothing => true

/-- A 32-bit read by master m at an offset, with its value; none while the module does not answer (R38, R42 to R45). (DEDUCED,
log entry 19). -/
def State.busRead (s : State) (m : Master) (off : Nat) : State × Option Nat :=
  let t := targetOf m off
  if s.responds t.blk = false then (s, none)
  else if s.permits m t false = false then (s.violateBy m off false 0, some 0)
  else match t with
    | .reg r hi =>
      let (s, v) := s.readWord m r hi
      (s, some v)
    | .frame mb page o => (s, some ((s.mbox mb).frameRead page o))
    | .nothing => (s.violateBy m off false 1, some 0)

/-- A 32-bit write by master m at an offset (R38, R42 to R45). -/
def State.busWrite (s : State) (m : Master) (off v : Nat) : State :=
  let t := targetOf m off
  if s.responds t.blk = false then s
  else if s.permits m t true = false then s.violateBy m off true 0
  else match t with
    | .reg r hi => if m matches .bar2 _ then s else s.writeWord m r hi v
    | .frame mb page o =>
      if o = 0x100 then
        (match page with
         | some p => s.mailPage p (bits v 31 30)
         | none => s.mailPriv mb (bits v 31 30))
      else s.modMbox mb fun x => x.frameWrite page o v
    | .nothing => s.violateBy m off true 1

/-- The answer of a read to its master. (DESIGN CHOICE, log entry 25). -/
def State.answerRead (s : State) (m : Master) (off : Nat) (v : Option Nat) : State :=
  match v with
  | some v => { s with said := some (.reg m off v) }
  | none => s

/-- A 32-bit read whose value its master receives. -/
def State.readAt (s : State) (m : Master) (off : Nat) : State :=
  let (s, v) := s.busRead m off
  s.answerRead m off v

/-- The 64-bit register whose low word stands at an offset that a master may reach, if any. -/
def wideAt (m : Master) (off : Nat) : Option RegAt :=
  match targetOf m off with
  | .reg r false => if r.rn.spec.wide then some r else none
  | _ => none

/-- A 64-bit read: both halves of a 64-bit register in one step, or two 32-bit reads (R45, R389). (DEDUCED, log entry 21). -/
def State.read64 (s : State) (m : Master) (off : Nat) : State :=
  if off % 8 ≠ 0 then (if s.responds .glb then (s.violateBy m off false 1).answerRead m off (some 0) else s)
  else match wideAt m off with
    | some r =>
      if s.responds r.rn.spec.blk = false then s
      else if (s.view m).may r.rn false then (s.afterRead r).answerRead m off (some (s.shown m r))
      else (s.violateBy m off false 0).answerRead m off (some 0)
    | none =>
      let (s, lo) := s.busRead m off
      let (s, hi) := s.busRead m (off + 4)
      s.answerRead m off (lo.bind fun l => hi.map fun h => h * 2 ^ 32 + l)

/-- A 64-bit write. -/
def State.write64 (s : State) (m : Master) (off v : Nat) : State :=
  if off % 8 ≠ 0 then (if s.responds .glb then s.violateBy m off true 1 else s)
  else match wideAt m off with
    | some r => s.guarded m r true fun s => s.commit m r v
    | none => (s.busWrite m off (v % 2 ^ 32)).busWrite m (off + 4) (v / 2 ^ 32)

/-! ### The commands -/

/-- REGISTER_WRITE (R10). -/
def execRegisterWrite (m : Master) (off : Nat) (v : Word32) (s : State) : Host.Outcome State Fault Refusal :=
  .next (s.busWrite m off v.toNat)

/-- The word of a 64-bit register at an offset: false its low one, true its high one. -/
def lpWord (m : Master) (off : Nat) : Option Bool :=
  match targetOf m off with
  | .reg r hi => if r.rn.spec.wide then some hi else none
  | _ => none

/-- LP_LOW_READ (R45). -/
def execLpLowRead (m : Master) (off : Nat) (s : State) : Host.Outcome State Fault Refusal :=
  if lpWord m off = some false then .next (s.readAt m off) else .next s

/-- LP_LOW_WRITE (R45). -/
def execLpLowWrite (m : Master) (off : Nat) (v : Word32) (s : State) : Host.Outcome State Fault Refusal :=
  if lpWord m off = some false then .next (s.busWrite m off v.toNat) else .next s

/-- LP_HIGH_WRITE (R45, R46). -/
def execLpHighWrite (m : Master) (off : Nat) (v : Word32) (s : State) : Host.Outcome State Fault Refusal :=
  if lpWord m off = some true then .next (s.busWrite m off v.toNat) else .next s

/-- LP_ALIGNED_ACCESS (R45, R389): a 64-bit read or write. -/
def execLpAlignedAccess (m : Master) (off : Nat) (wr : Option Word64) (s : State) : Host.Outcome State Fault Refusal :=
  match wr with
  | none => .next (s.read64 m off)
  | some v => .next (s.write64 m off v.toNat)

/-- The register at an offset has a field with an access code. -/
def accAt (m : Master) (off : Nat) (a : Acc) : Option RegAt :=
  match targetOf m off with
  | .reg r false => if r.rn.hasAcc a then some r else none
  | _ => none

/-- SQ_CLEAR_WRITE (R48). -/
def execSqClearWrite (m : Master) (off : Nat) (v : Word32) (s : State) : Host.Outcome State Fault Refusal :=
  if (accAt m off .sq).isSome then .next (s.busWrite m off v.toNat) else .next s

/-- A counter whose halves count apart. -/
def Rn.halved (r : Rn) : Bool := r == .lnkFlits || r == .hstMemLines || r == .hstCacheLines

/-- RC_COUNTER_READ (R50): the read zeroes the counter, and an increment of the same step counts after it. -/
def execRcCounterRead (m : Master) (off : Nat) (inc : Nat) (s : State) : Host.Outcome State Fault Refusal :=
  match accAt m off .rc with
  | none => .next s
  | some r =>
    let s := s.readAt m off
    if inc = 0 ∨ s.responds r.rn.spec.blk = false then .next s
    else if r.rn.halved then .next (s.countHalf r.rn r.inst false inc)
    else .next (s.count r.rn r.inst inc r.i)

/-- An access of a width in bits at an offset is one that a BAR takes: 32 or 64 bits, naturally aligned (R389). -/
def accessOk (off width : Nat) : Bool := (width == 32 || width == 64) && off % (width / 8) == 0

/-- UNMAPPED_ACCESS (R38, R389): an access where nothing is, or of a width or an alignment that no BAR takes. -/
def execUnmappedAccess (m : Master) (off : Nat) (write : Bool) (s : State) (width : Nat := 32) :
    Host.Outcome State Fault Refusal :=
  if accessOk off width = true ∧ targetOf m off ≠ .nothing then .next s
  else if s.responds .glb = false then .next s
  else
    let s := s.violateBy m off write 1
    .next (if write then s else s.answerRead m off (some 0))

/-- PRIVILEGE_VIOLATION (R43, R44): an access that the master's view does not allow. -/
def execPrivilegeViolation (m : Master) (off : Nat) (write : Bool) (s : State) : Host.Outcome State Fault Refusal :=
  if targetOf m off ≠ .nothing ∧ s.permits m (targetOf m off) write = false then
    (if write then .next (s.busWrite m off 0) else .next (s.readAt m off))
  else .next s

/-- EVRING_ENABLE (R54): a write of GLB_EVRING_CTL that sets EN from 0 to 1. -/
def execEvringEnable (m : Master) (v : Word32) (s : State) : Host.Outcome State Fault Refusal :=
  if bit v.toNat 8 = true ∧ bit (s.reg .glbEvringCtl) 8 = false then
    .next (s.guarded m ⟨.glbEvringCtl, 0, 0, 0⟩ true fun s => s.evringCtl v.toNat)
  else .next s

/-- EVRING_DISABLE (R54): a write that clears EN. -/
def execEvringDisable (m : Master) (v : Word32) (s : State) : Host.Outcome State Fault Refusal :=
  if bit v.toNat 8 = false ∧ bit (s.reg .glbEvringCtl) 8 = true then
    .next (s.guarded m ⟨.glbEvringCtl, 0, 0, 0⟩ true fun s => s.evringCtl v.toNat)
  else .next s

/-- EVRING_TAIL_WRITE (R54). -/
def execEvringTailWrite (m : Master) (v : Word32) (s : State) : Host.Outcome State Fault Refusal :=
  .next (s.guarded m ⟨.glbEvringTail, 0, 0, 0⟩ true fun s => s.evringTail v.toNat)

/-- IC_DONE (R58 to R60). -/
def execIcDone (c : CoreId) (v : Word32) (s : State) : Host.Outcome State Fault Refusal :=
  .next (s.guarded (.selay c) ⟨.selIcDone, 0, 0, 0⟩ true fun s => s.icDone c v.toNat)

/-- IC_ROUTE_WRITE (R55, R60). -/
def execIcRouteWrite (c : CoreId) (n : Fin 2048) (v : Word32) (s : State) : Host.Outcome State Fault Refusal :=
  .next (s.guarded (.selay c) ⟨.selIcRoute, 0, n, 0⟩ true fun s => s.rwWrite ⟨.selIcRoute, 0, n, 0⟩ v.toNat)

/-- IC_SIGNAL (R57, R58). -/
def execIcSignal (c : CoreId) (v : Word32) (s : State) : Host.Outcome State Fault Refusal :=
  .next (s.guarded (.selay c) ⟨.selIcSignal, 0, 0, 0⟩ true fun s => s.icSignal c v.toNat)

/-- SELAY_TIMER (R57, R58): the own timer of core c, source 0. -/
def execSelayTimer (c : CoreId) (s : State) : Host.Outcome State Fault Refusal := .next (s.edge c 0)

/-- MSIX_RAISE (R61). -/
def execMsixRaise (c : CoreId) (v : Word32) (s : State) : Host.Outcome State Fault Refusal :=
  .next (s.guarded (.selay c) ⟨.selMsixRaise, 0, 0, 0⟩ true fun s => s.msixRaise c v.toNat)

/-- A running-maximum register (R86). -/
def Rn.isAmax (r : Rn) : Bool := r == .stlAmaxArr || r == .stlAmaxStr || r == .stlAmaxVec

/-- AMAX_WRITE (R87): a fold of the same step leaves the larger of the two. -/
def execAmaxWrite (m : Master) (off : Nat) (v : Word32) (fold : Option (BitVec 31)) (s : State) :
    Host.Outcome State Fault Refusal :=
  match targetOf m off with
  | .reg r _ =>
    if r.rn.isAmax then
      .next (s.guarded m r true fun s =>
        let s := s.rwWrite r v.toNat
        match fold with
        | some x => s.setRegAt r (max (bits (s.regAt r) 30 0) x.toNat)
        | none => s)
    else .next s
  | _ => .next s

/-- WATCH_CTL_WRITE (R202). -/
def execWatchCtlWrite (m : Master) (g : StallId) (v : Word32) (s : State) : Host.Outcome State Fault Refusal :=
  .next (s.guarded m ⟨.stlWatchCtl, g, 0, 0⟩ true fun s => s.watchCtl g v.toNat)

/-! ### The event ring (R51 to R53) -/

/-- The 32 bytes of a record (R52). -/
def EvRec.bytes (e : EvRec) (lost : Bool) : List Byte :=
  leBytes 2 e.code ++ leBytes 1 e.seq ++ leBytes 1 e.bay ++ leBytes 4 e.off ++ leBytes 8 e.time ++ leBytes 3 e.pend ++
    leBytes 1 (b2n lost) ++ leBytes 4 e.w0 ++ leBytes 4 e.w1 ++ leBytes 4 e.w2

/-- The LOST event: GLB_EVENT bit 0, without a record of its own (R53). -/
def State.lostRecord (s : State) : State :=
  let s := (s.count .glbEvringLost 0).setReg .glbEvent 0 0 (evAdvance (s.reg .glbEvent) 0)
  { s with evLost := true }

/-- A record is written at HEAD (R51 to R53, R61). -/
def State.putRecord (s : State) (e : EvRec) : State :=
  let n := s.evringSize
  let head := s.reg .glbEvringHead
  let was := decide (head % n = s.reg .glbEvringTail % n)
  let s := (s.hwrite (s.reg .glbEvringBase + 32 * head) (e.bytes s.evLost)).cacheLines true
  let s := { s.setReg .glbEvringHead 0 0 ((head + 1) % n) with evLost := false }
  if was && bit (s.reg .glbEvringCtl) 9 then s.msixSend 0 else s

/-- EVENT_RING_WRITE: the oldest record that waits is written or lost; it waits for the CXL link as R388 says. (DEDUCED, log
entry 13). -/
def execEventRingWrite (s : State) : Host.Outcome State Fault Refusal :=
  match s.events with
  | [] => .next s
  | e :: rest =>
    let n := s.evringSize
    let full := decide ((s.reg .glbEvringHead + 1) % n = s.reg .glbEvringTail % n)
    let out : State := { s with events := rest }
    if bit (s.reg .glbEvringCtl) 8 = false ∨ full = true then .next out.lostRecord
    else if s.hostUp then .next (out.putRecord e)
    else if s.hostWait then .next s
    else .next out.lostRecord

/-! ### JTAG and the management bus (R474, R482) -/

/-- REGACC: a 32-bit access at a BAR0 offset in JTAG's view; the data word read is captured. -/
def execRegacc (off : Nat) (wr : Option Word32) (s : State) : Host.Outcome State Fault Refusal :=
  if s.jtagRuns 0x10 = false then .next (s.jtagRefuse 0x10)
  else
    match wr with
    | some v => .next ((s.busWrite .jtag off v.toNat).modBoard fun b => { b with ir := 0x10 })
    | none =>
      let (s, v) := s.busRead .jtag off
      let s := s.modBoard fun b => { b with ir := 0x10, dr := v.getD 0 }
      .next (s.answerRead .jtag off v)

/-- REG_READ. -/
def execRegRead (pecOk : Bool) (off : Word32) (s : State) : Host.Outcome State Fault Refusal :=
  if s.busTakes pecOk then .next (s.readAt .mgmtBus off.toNat) else .next s

/-- REG_WRITE. -/
def execRegWrite (pecOk : Bool) (off v : Word32) (s : State) : Host.Outcome State Fault Refusal :=
  if s.busTakes pecOk then .next (s.busWrite .mgmtBus off.toNat v.toNat) else .next s

end Sys2Proof.Machine
end

