-- ==== Sys2Proof/Machine/HostRows.lean ====
section
/-! DEFINITION. The host side: the CXL link (R388), the HDM window (R390), register accesses by packet (R345), and the DOE mailbox
(R401, R402). -/

namespace Sys2Proof.Machine

/-! ### The CXL link (R387, R388, R404) -/

/-- HOST_LINK_DOWN: the link goes down though the host has not reset it; requests toward host memory wait for it. (DEDUCED,
log entry 167). -/
def execHostLinkDown (s : State) : Host.Outcome State Fault Refusal :=
  if s.hostUp then
    .next ({ s with hostUp := false, speed := 0, width := 0, hostWait := true }.raiseOnce .hstEvent 0 1 0x261 1 0 0)
  else .next s

/-- A read of the feed ring of a queue waits for the link: TAIL covers the record at HEAD. The SLOTS byte of a record is byte 1 of its
first slot. (DEDUCED, log entry 255). -/
def State.reading (s : State) (q : FeedQueue) : Bool :=
  let n := ((s.hread (q.feed + q.head % 2 ^ q.f * 64 + 1) 1).map fun b => b.toNat).headD 0
  q.en && !q.hbm && q.tail != q.head && q.held.isNone && q.waiting.isEmpty && q.room &&
    (decide (8 < n) || decide (n ≤ ahead q.tail q.head))

/-- LINK_DOWN_TIMEOUT: 50 ms later the requests that wait end, and so do later ones; a feed-ring read stops its queue. -/
def execLinkDownTimeout (s : State) : Host.Outcome State Fault Refusal :=
  if s.hostUp = true ∨ s.hostWait = false then .next s
  else
    let qs := (s.queues.filter fun e => s.reading e.2).map Prod.fst
    .next (each qs { s with hostWait := false } fun s q => s.stopQueue q 3 0)

/-- A speed and a width that HST_STATUS gives. -/
def linkRateOk (speed width : Nat) : Bool := [2, 5, 8, 16, 32].contains speed && [1, 2, 4, 8, 16].contains width

/-- A base that the HDM decoder takes: a multiple of 256 MiB. -/
def hdmBaseOk (b : Nat) : Bool := b % 2 ^ 28 == 0

/-- The table of R386: the features that the module has, and so advertises. -/
def CxlFeature.supported : CxlFeature → Bool
  | .io | .cache | .mem | .deviceCache | .hdmDecoder | .poison | .viral | .msix | .aer | .ras | .doe => true
  | .bifurcation | .biasFlip | .gpf | .mld | .pooling | .hotPlug | .ide | .flr | .sriov | .intx | .msi => false

/-- The capabilities that the host finds (R386, R403). -/
def advertised : List CxlFeature :=
  [CxlFeature.io, .cache, .mem, .bifurcation, .deviceCache, .hdmDecoder, .biasFlip, .poison, .viral, .gpf, .mld, .pooling, .hotPlug, .ide,
    .flr, .sriov, .intx, .msi, .msix, .aer, .ras, .doe].filter CxlFeature.supported

/-- The MSI-X capability and table as the host programs them; what is pending and no longer masked is sent. -/
def Msix.program (m : Msix) (c : HostCfg) : Msix :=
  Msix.release { m with en := c.msixEn.getD m.en, fmask := c.fmask.getD m.fmask
                        clear := c.masks.foldl (fun t v => Tab.set false t v.1.val (!v.2)) m.clear }

/-- The host programs the configuration space of an enumerated device: the HDM decoder takes a multiple of 256 MiB, and an abort of the
DOE mailbox clears its Error bit (R61, R386, R390, R402). (DESIGN CHOICE, log entry 168). -/
def State.hostProgram (s : State) (c : HostCfg) : State :=
  let base := match c.hdm with
    | some b => if hdmBaseOk b then some b else s.hdm
    | none => s.hdm
  { s with hdm := base, mx := s.mx.program c, errs := if c.clear then {} else s.errs, doeErr := s.doeErr && !c.abort }

/-- The link trains: what waited for it goes on, so that mirror records, entries and head lines are written (R394, R417), and the host finds
the capabilities of R386. -/
def State.linkTrained (s : State) (speed width : Nat) : State :=
  let s := { s with hostUp := true, hostWait := false, speed := speed, width := width, said := some (.caps advertised) }
  let s := s.raiseOnce .hstEvent 0 1 0x261 2 speed width
  each (s.queues.map Prod.fst) s fun s q => s.flush q

/-- HOST_LINK_UP: the link trains, and the host programs the device; on a link that is up the host programs it anew. (DESIGN
CHOICE, log entry 168). -/
def execHostLinkUp (speed width : Nat) (cfg : HostCfg) (s : State) : Host.Outcome State Fault Refusal :=
  if s.hostUp then .next (s.hostProgram cfg)
  else if s.board.powered = false ∨ s.board.held = true ∨ linkRateOk speed width = false then .next s
  else .next ((s.linkTrained speed width).hostProgram cfg)

/-! ### The HDM window (R390, R393) -/

/-- The device physical address of the line that a host physical address names in the window. -/
def State.hdmLine (s : State) (hpa : Nat) : Option Nat :=
  match s.hdm with
  | some base => if s.hostUp && decide (base ≤ hpa) && decide (hpa < base + 0x30000000000) then some ((hpa - base) / 64 * 64) else none
  | none => none

/-- A request to the stack of a fenced bay (R390, R404). -/
def State.hdmFence (s : State) (b off : Nat) (write : Bool) : State := s.raiseOnce .hstEvent 0 2 0x262 b (off / 64) (b2n write)

/-- The deadline field of host requests (R266). -/
def State.hostTte (s : State) (b : Nat) : Nat := bits (s.reg .hbmSched b) 31 20

/-- MEMRD: a line read through the window enters the read queue of its pseudo-channel; a fenced stack answers poison.
(DEDUCED, log entry 169). -/
def execMemrd (hpa : Nat) (s : State) : Host.Outcome State Fault Refusal :=
  match s.hdmLine hpa with
  | none => .next s
  | some a =>
    let b := a / 0x1800000000
    let off := a % 0x1800000000
    if s.isFenced b then .next { s.hdmFence b off false with said := some (.line hpa (List.replicate 64 0) true) }
    else match s.hbmAskRead b (hbmPc off) (hbmL off / 64) (s.hostTte b) none hpa with
      | some s => .next (s.countHalf .hstMemLines 0 false 1)
      | none => .next s

/-- The queues whose tail line in HBM4 is the line at an address. -/
def State.tailQueues (s : State) (a : Nat) : List Nat :=
  (s.queues.filter fun e => e.2.hbm && e.2.cb == a && s.watches e.1).map Prod.fst

/-- MEMWR: a line write through the window enters the write queue; a write to a tail line wakes the feed engine (R393); a fenced stack
discards it. (DEDUCED, log entry 170). -/
def execMemwr (hpa : Nat) (data : List Byte) (enables : BitVec 64) (poison : Bool) (s : State) :
    Host.Outcome State Fault Refusal :=
  match s.hdmLine hpa with
  | none => .next s
  | some a =>
    let b := a / 0x1800000000
    let off := a % 0x1800000000
    if s.isFenced b then .next (s.hdmFence b off true)
    else match s.hbmAskWrite b (hbmPc off) (hbmL off / 64) (s.hostTte b) (fitTo 64 data) enables.toNat (if poison then 2 ^ 64 - 1 else 0) with
      | some s =>
        let s := if poison then s.rasCorrectable 5 else s
        .next (each (s.tailQueues a) (s.countHalf .hstMemLines 0 true 1) fun s q => s.readTail q)
      | none => .next s

/-! ### Register accesses by packet (R42, R345) -/

/-- The master behind a packet's source: the hub's is a Selay core, which the packet does not name; a bay's is a stall or fabric
master. -/
def State.packetMaster (s : State) (f : Flit) : Master :=
  let b := addrBay f.src.toNat
  if b = 32 then .selay (Fin.ofNat 4 (s.freeVal 2)) else .unit (Fin.ofNat 2048 (b * 64 + addrIdx f.src.toNat % 64))

/-- A register packet at its endpoint: resent ones are answered from the kept answers, those that no endpoint takes are
refused. (DESIGN CHOICE, log entry 145). -/
def State.regPacket (s : State) (f : Flit) (serve : State → Host.Outcome State Fault Refusal) : Host.Outcome State Fault Refusal :=
  let d := f.dest.toNat
  match s.turnedAway f with
  | some t => .next t
  | none =>
  if (s.linkBound d).isSome then .next (s.noEndpoint f)
  else match s.keptAnswer f with
    | some a => .next ((s.takeArrived f).send { f := a })
    | none => serve (s.takeArrived f)

/-- The BAR0 offset that a register packet names. -/
def Flit.regOff (f : Flit) : Nat := ofLe (f.payload.take 4)

/-- MRD: the register value is answered, a 64-bit register whole. -/
def execMrd (f : Flit) (s : State) : Host.Outcome State Fault Refusal :=
  s.regPacket f fun s =>
    let m := s.packetMaster f
    let off := Flit.regOff f
    let was := s.said
    let t := if (wideAt m off).isSome then s.read64 m off else s.readAt m off
    let v := match t.said with
      | some (.reg _ _ v) => v
      | _ => 0
    .next ({ t.takeFree with said := was }.respond f (f.answer 0x14 (leBytes 8 v)))

/-- MWR: a write of 8 bytes or of 4. -/
def execMwr (f : Flit) (s : State) : Host.Outcome State Fault Refusal :=
  s.regPacket f fun s =>
    let m := s.packetMaster f
    let off := Flit.regOff f
    let v := ofLe ((f.payload.drop 8).take 8)
    let s := if (f.payload.getD 16 0).toNat = 8 then s.write64 m off v else s.busWrite m off (v % 2 ^ 32)
    .next (s.takeFree.respond f (f.answer 0x13 []))

/-! ### The DOE mailbox (R401, R402, R468) -/

/-- The length of the bytes that a DOE object carries behind its header and the message's. -/
def certificateMost : Nat := 16368

/-- An SPDM 1.2 message: version, code, and two parameters. -/
def spdmMsg (code p1 p2 : Nat) (bs : List Byte) : List Byte := leBytes 1 0x12 ++ leBytes 1 code ++ leBytes 1 p1 ++ leBytes 1 p2 ++ bs

/-- One measurement block: index, the DMTF specification, and a raw value. -/
def spdmBlock (x : Nat × List Byte) : List Byte :=
  leBytes 1 x.1 ++ leBytes 1 1 ++ leBytes 2 (x.2.length + 3) ++ leBytes 1 0x81 ++ leBytes 2 x.2.length ++ x.2

/-- The message of an answer (R401), as SPDM 1.2 and DOE discovery lay it out. (PRESUMED, log entry 176). -/
def Doe.message : Doe → List Byte
  | .discovery p next => leBytes 2 1 ++ leBytes 1 p ++ leBytes 1 next
  | .noProtocol => leBytes 2 0xFFFF ++ leBytes 2 0
  | .version maj min => leBytes 1 0x10 ++ leBytes 1 0x04 ++ leBytes 2 0 ++ leBytes 1 0 ++ leBytes 1 1 ++ leBytes 2 (maj * 2 ^ 12 + min * 2 ^ 8)
  | .capabilities ct => spdmMsg 0x61 0 0 (leBytes 1 0 ++ leBytes 1 ct ++ leBytes 2 0 ++ leBytes 4 0x16 ++ leBytes 4 4088 ++ leBytes 4 4088)
  | .algorithms p384 sha384 => spdmMsg 0x63 0 0 (leBytes 2 36 ++ leBytes 1 1 ++ leBytes 1 0 ++ leBytes 4 4 ++
      leBytes 4 (b2n p384 * 0x80) ++ leBytes 4 (b2n sha384 * 2) ++ List.replicate 12 0 ++ List.replicate 4 0)
  | .digests d => spdmMsg 0x01 0 1 d
  | .certificate bs rest => spdmMsg 0x02 0 0 (leBytes 2 bs.length ++ leBytes 2 rest ++ bs)
  | .challengeAuth d nonce sig => spdmMsg 0x03 0 1 (d ++ nonce ++ leBytes 2 0 ++ sig)
  | .measurements total blocks nonce sig =>
    let rec_ := blocks.flatMap spdmBlock
    spdmMsg 0x60 total 0 (leBytes 1 blocks.length ++ leBytes 3 rec_.length ++ rec_ ++ nonce ++ leBytes 2 0 ++ sig)
  | .unsupported code => spdmMsg 0x7F 0x07 code.toNat []

/-- The data object of an answer: vendor 1, type 0 for discovery and 1 for SPDM, the length in words, and the message filled up to
words. -/
def Doe.object (a : Doe) : List Byte :=
  let m := a.message
  let typ := if a matches .discovery _ _ | .noProtocol then 0 else 1
  let n := (m.length + 3) / 4
  leBytes 2 1 ++ leBytes 1 typ ++ leBytes 1 0 ++ leBytes 4 (n + 2) ++ m ++ List.replicate (4 * n - m.length) 0

/-- An answer of the DOE mailbox. -/
def State.doe (s : State) (a : Doe) : State := { s with said := some (.doe a a.object) }

/-- A request object reaches the DOE mailbox while the link is up: one of more than 4 KiB sets the Error bit and is discarded
(R402); else it is served. (PRESUMED, log entry 177). -/
def State.doeAsk (s : State) (size : Nat) (f : State → State) : Host.Outcome State Fault Refusal :=
  if !s.hostUp then .next s
  else if 4096 < size then .next { s with doeErr := true }
  else .next (f s)

/-- SPDM requests are firmware's (R401). -/
def State.spdm (s : State) (size : Nat) (f : State → State) : Host.Outcome State Fault Refusal :=
  s.doeAsk size fun s => if s.fw then f s else s

/-- The certificate chain of slot 0 (R468). -/
def State.chain (s : State) : List Byte :=
  Config.certChain (s.board.flash.filter fun e => decide (0x800000 ≤ e.1) && decide (e.1 < 0xC00000)) (s.fuse 3).val
    (s.regBytes .secFwDigest 12) s.lc

/-- A signature with the alias key over a message (R468). -/
def State.signed (s : State) (msg : List Byte) : List Byte :=
  Config.aliasSign (s.fuse 3).val (s.regBytes .secFwDigest 12) s.lc msg (BitVec.ofNat 384 (s.freeVal 384))

/-- GET_VERSION: SPDM 1.2. -/
def execGetVersion (size : Nat) (s : State) : Host.Outcome State Fault Refusal := s.spdm size fun s => s.doe (.version 1 2)

/-- GET_CAPABILITIES: the CT exponent agrees with the times of R402, 2 to the 21 microseconds being the least power that holds 2 s. -/
def execGetCapabilities (size : Nat) (s : State) : Host.Outcome State Fault Refusal := s.spdm size fun s => s.doe (.capabilities 21)

/-- NEGOTIATE_ALGORITHMS: ECDSA P-384 and SHA-384 only. -/
def execNegotiateAlgorithms (p384 sha384 : Bool) (size : Nat) (s : State) : Host.Outcome State Fault Refusal :=
  s.spdm size fun s => s.doe (.algorithms p384 sha384)

/-- GET_DIGESTS. -/
def execGetDigests (size : Nat) (s : State) : Host.Outcome State Fault Refusal := s.spdm size fun s => s.doe (.digests (sha384 s.chain))

/-- GET_CERTIFICATE: a part of the chain of slot 0, no longer than an object of 16 KiB holds, and how many bytes follow it. -/
def execGetCertificate (offset length : Nat) (size : Nat) (s : State) : Host.Outcome State Fault Refusal :=
  s.spdm size fun s =>
    let rest := s.chain.drop offset
    let n := min length certificateMost
    s.doe (.certificate (rest.take n) (rest.length - n))

/-- CHALLENGE: the responder's nonce is new, and the answer is signed. -/
def execChallenge (nonce : List Byte) (size : Nat) (s : State) : Host.Outcome State Fault Refusal :=
  s.spdm size fun s =>
    let own := leBytes 32 (s.freeVal 256)
    let s := s.takeFree
    let d := sha384 s.chain
    (s.doe (.challengeAuth d own (s.signed (d ++ own ++ nonce)))).takeFree

/-- The measurement blocks (R401). -/
def State.measurement (s : State) : Nat → Option (List Byte)
  | 1 => some (s.regBytes .secFwDigest 12)
  | 2 => some (s.regBytes .cfgSpdigest 12)
  | 3 => some (s.regBytes .cfgFp 12 ++ leBytes 4 (s.reg .cfgEpoch))
  | 4 => some (leBytes 1 s.lc ++ leBytes 1 (s.fuse 6).val ++ leBytes 1 (s.fuse 7).val)
  | _ => none

/-- GET_MEASUREMENTS: one block, or with index 0xFF every block. -/
def execGetMeasurements (index : Nat) (signed : Bool) (size : Nat) (s : State) : Host.Outcome State Fault Refusal :=
  s.spdm size fun s =>
    let ks := if index = 0xFF then [1, 2, 3, 4] else [index]
    let bs := ks.filterMap fun k => (s.measurement k).map fun v => (k, v)
    let total := if index = 0 then 4 else 0
    let nonce := leBytes 32 (s.freeVal 256)
    let s := s.takeFree
    if signed then (s.doe (.measurements total bs nonce (s.signed (bs.flatMap fun x => x.2)))).takeFree
    else s.doe (.measurements total bs nonce [])

/-- KEY_EXCHANGE: a request of a key exchange or a secured session is answered UnsupportedRequest. -/
def execKeyExchange (code : Byte) (size : Nat) (s : State) : Host.Outcome State Fault Refusal :=
  s.spdm size fun s => s.doe (.unsupported code)

/-- DOE_DISCOVERY (R386): the mailbox carries DOE discovery, type 0, and CMA/SPDM, type 1. -/
def execDoeDiscovery (index : Nat) (size : Nat) (s : State) : Host.Outcome State Fault Refusal :=
  s.doeAsk size fun s => s.doe (if index = 0 then .discovery 0 1 else if index = 1 then .discovery 1 0 else .noProtocol)

end Sys2Proof.Machine
end

