-- ==== Sys2Proof/Machine/Firmware.lean ====
section
/-! DEFINITION. The mailbox commands of firmware (R426 to R432, R448, R469 to R472). -/

namespace Sys2Proof.Machine

/-! ### Requests (R426) -/

/-- The request of mailbox mb when firmware runs and the mailbox holds command op. -/
def State.request (s : State) (mb op : Nat) : Option Mbox :=
  let m := s.mbox mb
  if s.fw && m.state == 2 && m.opc == op && decide (m.len ≤ 1760) then some m else none

/-- A command of a mailbox: the view it needs, then its form, then its effect. (DEDUCED, log entry 182). -/
def State.command (s : State) (mb op : Nat) (all : Bool) (size : Nat) (rsv : Mbox → Bool) (f : Mbox → State) :
    Host.Outcome State Fault Refusal :=
  match s.request mb op with
  | none => .next s
  | some m =>
    if 8 ≤ mb ∧ all = false then .next (s.answer mb .mbView)
    else if m.len < size ∨ m.zeroTail = false ∨ rsv m = false then .next (s.answer mb .mbForm)
    else .next (f m)

/-- Bytes of the request payload from one offset up to another are zero. (DEDUCED, log entry 183). -/
def Mbox.zero (m : Mbox) (a b : Nat) : Bool := (m.payload a (b - a)).all (· == 0)

/-- A mailbox may name a queue: a privileged one any, an unprivileged one a queue that its page owns. -/
def State.ownsQueue (s : State) (mb : Nat) (m : Mbox) (q : Nat) : Bool :=
  decide (mb < 8) || (decide (q < 64) && m.page == some (s.queue q).owner)

/-- A command that names a queue in byte 0. -/
def State.queueCommand (s : State) (mb op size : Nat) (rsv : Mbox → Bool) (f : Mbox → Nat → State) :
    Host.Outcome State Fault Refusal :=
  s.command mb op true size rsv fun m =>
    let q := m.arg 0 1
    if s.ownsQueue mb m q = false then s.answer mb .mbView
    else if 64 ≤ q then s.answer mb .range
    else f m q

/-! ### IDENTIFY (R427) -/

/-- Fenced bays, bit b. -/
def State.fencedMask (s : State) : Nat := (List.range 32).foldl (fun v b => v + b2n (s.isFenced b) * 2 ^ b) 0

/-- IDENTIFY. -/
def execIdentify (mb : MailboxId) (s : State) : Host.Outcome State Fault Refusal :=
  s.command mb 0x01 true 0 (fun _ => true) fun _ =>
    s.answer mb .ok (leBytes 2 0x4832 ++ leBytes 1 0xA1 ++ [0] ++ leBytes 4 s.sec.version ++ leBytes 4 s.sec.svn ++
      leBytes 4 s.fencedMask ++ leBytes 4 s.warms)

/-! ### Feed queues (R428 to R430) -/

/-- A value of FQ_CONFIG lies outside its range. (DEDUCED, log entry 184). -/
def fqRange (m : Mbox) : Bool :=
  let hbm := bit (m.arg 1 1) 0
  let inHbm (a n : Nat) : Bool := !hbm || decide (a + n ≤ 0x30000000000)
  !(decide (m.arg 0 1 < 64) && decide (bits (m.arg 1 1) 2 1 < 3) && decide (4 ≤ m.arg 2 1) && decide (m.arg 2 1 ≤ 16) &&
    decide (4 ≤ m.arg 3 1) && decide (m.arg 3 1 ≤ 16) && (decide (m.arg 4 2 < 4096) || m.arg 4 2 == 0xFFFF) &&
    m.arg 8 8 % 128 == 0 && m.arg 16 8 % 64 == 0 && m.arg 24 8 % 64 == 0 && m.arg 32 8 % 256 == 0 &&
    decide (8 ≤ m.arg 40 1) && decide (m.arg 40 1 ≤ 16) && m.arg 56 8 % 64 == 0 && m.arg 64 8 % 64 == 0 &&
    inHbm (m.arg 8 8) 128 && inHbm (m.arg 16 8) (2 ^ m.arg 2 1 * 64) && inHbm (m.arg 24 8) (2 ^ m.arg 3 1 * 64))

/-- The queue as FQ_CONFIG configures it; its journal sequence goes on (R415). -/
def Mbox.newQueue (m : Mbox) (old : FeedQueue) : FeedQueue :=
  let fl := m.arg 1 1
  { en := true, root := bits (m.arg 48 8) 51 12 * 4096, rootHost := bit (m.arg 48 8) 0, hbm := bit fl 0, irq := bits fl 2 1
    f := m.arg 2 1, c := m.arg 3 1, owner := m.arg 4 2, cb := m.arg 8 8, feed := m.arg 16 8, cpl := m.arg 24 8, mirror := m.arg 32 8
    j := m.arg 40 1, shadow := m.arg 56 8, shadowLen := m.arg 64 8, aseq := m.arg 72 4, jseq := old.jseq }

/-- FQ_CONFIG (R414, R428). It waits for the CXL link while requests wait for it (R388). -/
def execFqConfig (mb : MailboxId) (s : State) : Host.Outcome State Fault Refusal :=
  s.command mb 0x10 false 80 (fun m => decide (m.arg 1 1 < 8) && m.zero 6 8 && m.zero 41 48 && m.zero 76 80) fun m =>
    if fqRange m then s.answer mb .range
    else
      let q := m.arg 0 1
      let old := s.queue q
      if s.queueBusy q || !old.waiting.isEmpty then s.answer mb .busy
      else
        let f := m.newQueue old
        if s.linkWaits f then s
        else match s.ringRead f f.cb 64 with
          | none => s.answer mb .range
          | some bs =>
            let tail := field bs 0 4
            let cdone := field bs 4 4
            let s := s.ringLines f 1
            let copies := s.journalBays q
            let s := s.modQueue q fun _ =>
              { f with head := tail, tail := tail, written := cdone, cdone := cdone, cseq := cdone, copies := copies }
            (s.writeHead q).answer mb .ok

/-- FQ_STOP (R430). -/
def execFqStop (mb : MailboxId) (s : State) : Host.Outcome State Fault Refusal :=
  s.command mb 0x11 false 1 (fun _ => true) fun m =>
    let q := m.arg 0 1
    if 64 ≤ q then s.answer mb .range
    else if (s.queue q).en then (s.stopQueue q 4 0).answer mb .ok
    else s.answer mb .ok

/-- XLATE_INVAL (R255). -/
def execXlateInval (mb : MailboxId) (s : State) : Host.Outcome State Fault Refusal :=
  s.queueCommand mb 0x20 24 (fun m => m.zero 1 8) fun m q =>
    let va := m.arg 8 8
    if va % 4096 ≠ 0 ∨ 2 ^ 48 ≤ va then s.answer mb .range
    else (s.invalidate q va (m.arg 16 8)).answer mb .ok

/-- PAGE_RESOLVED (R260): it answers one notice; when none is left the job runs again if it may, which counts one attempt. -/
def execPageResolved (mb : MailboxId) (s : State) : Host.Outcome State Fault Refusal :=
  s.queueCommand mb 0x21 16 (fun m => m.zero 1 2 && m.zero 5 8) fun m q =>
    let slot := m.arg 2 2
    let dva := m.arg 8 8
    let j := s.job slot
    if !(decide (slot < 1024) && j.live && j.queue == q && j.gen == m.arg 4 1 && j.asking && j.notices.contains dva) then
      s.answer mb .range
    else
      let rest := j.notices.erase dva
      let s := s.modJob slot fun x =>
        if rest.isEmpty then { x with notices := [], asking := false, rerun := x.mayRetry, retried := x.retried + b2n x.mayRetry }
        else { x with notices := rest }
      (if rest.isEmpty && j.mayRetry then s.causeFor slot 1 else s).answer mb .ok

/-- JOB_ABANDON's effect on the job in a slot (R260, R429): a job whose notices wait for answers commits with POISONED, any other with
ABANDONED; its instance is abandoned unless it runs other decode jobs too. (DEDUCED, log entry 206). -/
def State.giveUp (s : State) (slot : Nat) : State :=
  let r := s.runner slot
  let asking := (s.job r).asking
  let st : Status := if asking then .poisoned else .abandoned
  let s := s.modJob slot fun x => { x with own := some st }
  if asking then s.modJob r fun x => { x with asking := false, notices := [], rerun := false }
  else if 2 ≤ (s.job r).batch.length ∨ ((s.job slot).ctx.isSome ∧ (s.job slot).leader.isNone) then s
  else
    let s := if (s.job r).abandoned then s else s.abandonJob r
    s.modJob r fun x => { x with rerun := false }

/-- JOB_ABANDON (R429). -/
def execJobAbandon (mb : MailboxId) (s : State) : Host.Outcome State Fault Refusal :=
  s.queueCommand mb 0x22 8 (fun m => m.zero 1 4) fun m q =>
    match s.live.find? fun j => (s.job j).queue == q && (s.job j).aseq == m.arg 4 4 with
    | none => s.answer mb .range
    | some j => (s.giveUp j).answer mb .ok

/-! ### Contexts (R231, R431) -/

/-- The 64 bytes of a context; a context whose two stacks are lost reads as free. -/
def State.ctxBytes (s : State) (c : Nat) : List Byte := (s.ctxRead c).getD (List.replicate 64 0)

/-- A context command: its range, the queue that an unprivileged mailbox must own, then its effect. -/
def State.ctxCommand (s : State) (mb op size : Nat) (rsv : Mbox → Bool) (f : Mbox → Nat → List Byte → State) :
    Host.Outcome State Fault Refusal :=
  s.command mb op true size rsv fun m =>
    let c := m.arg 0 4
    let bs := s.ctxBytes c
    if 262144 ≤ c then s.answer mb .ctxRange
    else if ctxState bs ≠ 0 ∧ s.ownsQueue mb m (ctxQueue bs) = false then s.answer mb .mbView
    else f m c bs

/-- The reserved bytes of a context in the payload are zero. -/
def ctxForm (m : Mbox) : Bool := m.zero 14 16 && m.zero 44 68

/-- CTX_OPEN. -/
def execCtxOpen (mb : MailboxId) (s : State) : Host.Outcome State Fault Refusal :=
  s.ctxCommand mb 0x30 68 ctxForm fun m c bs =>
    let new := m.payload 4 64
    if s.ownsQueue mb m (ctxQueue new) = false then s.answer mb .mbView
    else if ctxState new ≠ 1 ∨ 64 ≤ ctxQueue new then s.answer mb .range
    else if ctxState bs ≠ 0 then s.answer mb .ctxState
    else (s.ctxSet c new).answer mb .ok

/-- CTX_SET. -/
def execCtxSet (mb : MailboxId) (s : State) : Host.Outcome State Fault Refusal :=
  s.ctxCommand mb 0x31 68 ctxForm fun m c bs =>
    let new := m.payload 4 64
    if s.ownsQueue mb m (ctxQueue new) = false then s.answer mb .mbView
    else if (ctxState new ≠ 1 ∧ ctxState new ≠ 2) ∨ 64 ≤ ctxQueue new then s.answer mb .range
    else if ctxState bs = 0 then s.answer mb .ctxState
    else if s.ctxBusy c then s.answer mb .busy
    else (s.ctxSet c new).answer mb .ok

/-- CTX_CLOSE. -/
def execCtxClose (mb : MailboxId) (s : State) : Host.Outcome State Fault Refusal :=
  s.ctxCommand mb 0x32 4 (fun _ => true) fun _ c bs =>
    if ctxState bs = 0 then s.answer mb .ctxState
    else if s.ctxBusy c then s.answer mb .busy
    else (s.ctxSet c (List.replicate 64 0)).answer mb .ok

/-- CTX_READ. -/
def execCtxRead (mb : MailboxId) (s : State) : Host.Outcome State Fault Refusal :=
  s.ctxCommand mb 0x33 4 (fun _ => true) fun _ _ bs => s.answer mb .ok bs

/-! ### Batch classes (R233, R410) -/

/-- A batch of a class is open. -/
def State.classOpen (s : State) (k : Nat) : Bool := s.queues.any fun e => match e.2.batch with
  | some b => b.cls == k
  | none => false

/-- BATCH_CLASS: the class record and stages 2 to 4 on its image. (DEDUCED, log entry 185). -/
def execBatchClass (mb : MailboxId) (s : State) : Host.Outcome State Fault Refusal :=
  s.command mb 0x34 false 40 (fun m => m.zero 2 8 && m.zero 20 24) fun m =>
    let k := m.arg 0 1
    let q := m.arg 1 1
    let off := m.arg 16 4
    let fill := m.arg 32 4
    let wait := m.arg 36 4
    if 64 ≤ k ∨ 64 ≤ q ∨ off % 64 ≠ 0 ∨ 0xE00000 ≤ off then s.answer mb .range
    else if fill = 0 ∨ 4097 ≤ fill ∨ 10000000 < wait then s.answer mb .batchForm
    else if s.classOpen k then s.answer mb .busy
    else
      let va := m.arg 8 8
      if s.imageWaits q va false then s
      else
        let (x, n) := s.readImage q va false
        let s := s.cacheLines false n
        match x with
        | .error r => s.answer mb r.status
        | .ok im => match im.stage3.orElse fun _ => s.stage4 q im with
          | some r => s.answer mb r.status
          | none =>
            let c : BatchClass := { img := im, queue := q, listOff := off, result := m.arg 24 8, fill := fill, wait := wait }
            { s with classes := Tab.set none s.classes k (some c) }.answer mb .ok

/-! ### Configuration (R315, R319, R326, R336) -/

/-- The status of the load that has ended. -/
def State.loadStatus (s : State) : Status :=
  let c := bits (s.reg .cfgLoadResult) 31 28
  if c = 0 then .ok else .cfg c

/-- CFG_LOAD: firmware starts the load, and answers once it has ended. (DESIGN CHOICE, log entry 186). -/
def execCfgLoad (mb : MailboxId) (s : State) : Host.Outcome State Fault Refusal :=
  s.command mb 0x40 false 20 (fun m => decide (m.arg 0 1 < 2) && m.zero 1 2 && m.zero 4 8) fun m =>
    if s.cfg.asked = some mb.val then
      (if s.cfg.load.isSome then s else (s.modCfg fun c => { c with asked := none }).answer mb s.loadStatus)
    else if s.cfg.load.isSome ∨ s.cfg.asked.isSome then s.answer mb .busy
    else
      let target := m.arg 2 2
      let a := m.arg 8 8
      if (256 ≤ target ∧ target ≠ 0xFFFF) ∨ 2 ^ 52 ≤ a then s.answer mb .range
      else
        let s := (s.setReg .cfgLoadSrc 0 0 (bits (m.arg 0 1) 0 0 * 2 ^ 63 + a)).setReg .cfgLoadLen 0 0 (m.arg 16 4)
        (s.startLoad target).modCfg fun c => { c with asked := some mb.val }

/-- CFG_SESSION: END or RESTART; one that the session's state does not take is answered CFG_SESSION. -/
def execCfgSession (mb : MailboxId) (s : State) : Host.Outcome State Fault Refusal :=
  s.command mb 0x41 false 1 (fun _ => true) fun m =>
    let x := s.cfg.session
    match m.arg 0 1 with
    | 1 => if x = 0 then s.endSession.answer mb .ok else s.answer mb (.cfg 1)
    | 2 => if x = 0 ∨ x = 3 then s.restartSession.answer mb .ok else s.answer mb (.cfg 1)
    | _ => s.answer mb .range

/-- CFG_ISOLATE. -/
def execCfgIsolate (mb : MailboxId) (s : State) : Host.Outcome State Fault Refusal :=
  s.command mb 0x42 false 2 (fun _ => true) fun m =>
    let p := m.arg 0 2
    if 256 ≤ p then s.answer mb .range
    else if s.cfg.load.isSome then s.answer mb .busy
    else (s.opIsolate p).answer mb .ok

/-- SPDIGEST_SET. -/
def execSpdigestSet (mb : MailboxId) (s : State) : Host.Outcome State Fault Refusal :=
  s.command mb 0x43 false 48 (fun _ => true) fun m => (s.setRegBytes .cfgSpdigest (m.payload 0 48)).answer mb .ok

/-! ### Bays (R31, R432) -/

/-- BAY_FENCE. -/
def execBayFence (mb : MailboxId) (s : State) : Host.Outcome State Fault Refusal :=
  s.command mb 0x50 false 1 (fun _ => true) fun m =>
    let b := m.arg 0 1
    if 32 ≤ b then s.answer mb .range else (s.fenceBay b 5).answer mb .ok

/-- The bridges of bay b to bays in service, and to the hub, open again at both ends, and its links carry traffic. -/
def State.openBridges (s : State) (b : Nat) : State :=
  let ns := (neighbours b).filter fun c => c == 32 || !s.isFenced c
  let s := each ns s fun s c =>
    s.modNet fun n =>
      let drop (t : Tab Nat) (x y : Nat) : Tab Nat := Tab.upd 0 t x fun v => v - (v &&& 2 ^ bridgeDir x y)
      { n with closed := if c = 32 then drop n.closed b c else drop (drop n.closed b c) c b }
  s.modNet fun n => { n with dead := n.dead.filter fun e => routerBay (e.1 / 8) != b }

/-- The contexts homed in bay b come back from their mirror, and the mirror that its stack holds is written again (R236, R419). -/
def State.restoreContexts (s : State) (b : Nat) : State :=
  let o := (b + 16) % 32
  if s.isFenced o then s
  else (s.copyMem (hbmAddr o 0x17F8000000) (sysAddr b 0) 0x80000).copyMem (sysAddr o 0) (hbmAddr b 0x17F8000000) 0x80000

/-- Firmware rewrites the route tables for bay b, which takes traffic again (R353, R432): the entries that name it, and its own, are as after
a reset, and every table is committed, so that each EPOCH advances. (DESIGN CHOICE, log entry 187). -/
def State.rewriteRoutes (s : State) (b : Nat) : State :=
  let up := (List.range 32).filter fun c => !s.isFenced c
  let s := each up s fun s c => s.setReg .nocRoute c b (RegAt.mk .nocRoute c b 0).reset
  let s := each (List.range 33) s fun s d => s.setReg .nocRoute b d (RegAt.mk .nocRoute b d 0).reset
  each up s fun s c => s.routeCommit c

/-- A fenced bay comes back (R432): its rails are up at 750 mV, its stack is ready, its port leaves DOWN when it is enabled, and
firmware measures the idle power again (R448). -/
def State.returnBay (s : State) (b : Nat) : State :=
  let s := { s with fenced := Tab.set false s.fenced b false }
  let s := s.modBoard fun x => { x with railsUp := Tab.set false x.railsUp b true }
  let s := (s.setFld .engBayVset b 0 9 0 750).showRate b
  let s := s.modHbm b fun h => { h with ready := true }
  let s := (s.openBridges b).restoreContexts b
  let k := b / 8
  let s := if b % 8 = 7 ∧ bit (s.reg .lnkCtl b) 31 = true ∧ (s.link k).state = 0 then s.linkLeave k 1 none else s
  ((s.rewriteRoutes b).setReg .engIdle 0 0 (s.freeVal 16)).takeFree

/-- BAY_RETURN: the bay returns when its rails, its stack and the cause of its fence allow it, which the world says. (DESIGN
CHOICE, log entry 187). -/
def execBayReturn (mb : MailboxId) (good : Bool) (s : State) : Host.Outcome State Fault Refusal :=
  s.command mb 0x51 false 1 (fun _ => true) fun m =>
    let b := m.arg 0 1
    if 32 ≤ b then s.answer mb .range
    else if s.isFenced b = false ∨ good = false then s.answer mb .bayState
    else (s.returnBay b).answer mb .ok

/-! ### Energy (R446, R448) -/

/-- ENG_BUDGET: the new budget applies from the next tick. (DEDUCED, log entry 223). -/
def execEngBudget (mb : MailboxId) (s : State) : Host.Outcome State Fault Refusal :=
  s.command mb 0x60 false 8 (fun _ => true) fun m =>
    let p := m.arg 0 4
    let w := m.arg 4 4
    if p = 0 ∨ 27000 < p ∨ w = 0 ∨ 1000 < w then s.answer mb .range
    else (s.modEng fun e => { e with budget := some (2 ^ 31 + p * 2 ^ 16 + w) }).answer mb .ok

/-- ENG_READ. -/
def execEngRead (mb : MailboxId) (s : State) : Host.Outcome State Fault Refusal :=
  s.command mb 0x61 false 0 (fun _ => true) fun _ =>
    s.answer mb .ok (leBytes 8 s.hubNow ++ (List.range 33).flatMap fun b => leBytes 8 (s.reg .engCount 0 b))

/-! ### Life cycle (R469 to R472) -/

/-- SEC_LC (R477). -/
def State.lcEvent (s : State) (before target reason : Nat) : State := s.raiseOnce .secEvent 0 1 0x2C1 before target reason

/-- A signer that R469 allows for a transition to a target: 0 maker, 1 owner. -/
def State.signerOk (s : State) (target signer : Nat) : Bool :=
  match target with
  | 2 | 4 => signer == 0
  | 3 => signer == 1
  | 5 => signer == 0 || (signer == 1 && (s.fuse 4).valid)
  | _ => false

/-- The reason of checks 2 to 8 of R471 that refuses a request, if any. -/
def State.lcCheck (s : State) (target : Nat) (tok : List Byte) : Option Nat :=
  let signer := field tok 6 1
  if lcReach s.lc target = false then some 1
  else if tok.length ≠ 224 then some 2
  else if field tok 0 4 ≠ 0x4B54434C ∨ field tok 4 1 ≠ 1 ∨ field tok 5 1 ≠ target ∨ field tok 7 1 ≠ 0 ∨
      s.signerOk target signer = false then some 3
  else if field tok 8 8 ≠ (s.fuse 1).val then some 4
  else if (tok.drop 16).take 16 ≠ s.regBytes .secLcNonce 4 then some 5
  else if sha384 ((tok.drop 32).take 96) ≠ leBytes 48 (s.fuse (if signer = 0 then 2 else 4)).val then some 6
  else if ecdsaVerify ((tok.drop 32).take 96) (sha384 (tok.take 128)) (tok.drop 128) = false then some 7
  else none

/-- A precondition of R469 is unmet: BUSY while jobs are outstanding, else reason 8. -/
def State.lcMissing (s : State) (target : Nat) : Option Status :=
  match target with
  | 2 => if (s.fuse 1).set && (s.fuse 2).set && (s.fuse 3).set then none else some .lcRefused
  | 3 => if (s.fuse 4).valid && (if s.sec.straps.keysrc then s.sec.bkey.isSome else (s.fuse 5).valid) then none else some .lcRefused
  | _ => if s.live.isEmpty then none else some .busy

/-- The fuse steps before the state bit (R472): slot and kind. -/
def lcSteps (target : Nat) : List (Nat × Nat) :=
  match target with
  | 4 => [(5, 1), (5, 2), (4, 2)]
  | 5 => [(5, 1), (5, 2), (4, 2), (3, 1)]
  | _ => []

/-- The fuse steps in order, each a programming with its result; `bad` counts down to the one whose read-back fails, which ends the
sequence with false. -/
def State.runFuses (s : State) (target : Nat) : Option Nat → List (Nat × Nat) → State × Bool
  | _, [] => (s, true)
  | bad, (slot, kind) :: rest =>
    let j : FuseJob := { slot := slot, kind := kind, data := target }
    if s.fuseBlown slot kind then (s.fuseResult slot 0).runFuses target (bad.map (· - 1)) rest
    else match bad with
      | some 0 => (s.fuseDone j false, false)
      | some (n + 1) => (s.fuseDone j true).runFuses target (some n) rest
      | none => (s.fuseDone j true).runFuses target none rest

/-- An accepted request (R472): erase or destroy, the state bit, and cleared paddocks. -/
def State.lcRun (s : State) (mb target : Nat) (bad : Option Nat) : State :=
  let before := s.lc
  let ends := target == 4 || target == 5
  let s := if ends then s.modSec fun x => { x with bkey := none } else s
  let r := s.runFuses target bad (lcSteps target ++ [(0, 3)])
  if r.2 = false then (r.1.lcEvent before target 9).answer mb .lcRefused
  else
    let s := if ends then each (List.range 256) r.1 fun s p => if s.isFenced (p / 8) then s else s.isolateClear p else r.1
    (s.lcEvent before target 0).answer mb .ok

/-- LC_TRANSITION (R469 to R472): it waits while the fuse programmer or, for a transition that clears the paddocks, the loader is busy.
`bad` is the fuse step whose read-back fails, if one does. (DEDUCED, log entry 188). -/
def execLcTransition (mb : MailboxId) (bad : Option Nat) (s : State) : Host.Outcome State Fault Refusal :=
  s.command mb 0x70 false 8 (fun m => m.zero 1 4 && (decide (1024 < m.arg 4 4) || decide (8 + m.arg 4 4 ≤ m.len))) fun m =>
    let target := m.arg 0 1
    let n := m.arg 4 4
    if 1024 < n then s.answer mb .range
    else if s.sec.prog.isSome || (decide (4 ≤ target) && s.cfg.load.isSome) then s
    else
      let s' := s.newNonce
      match s.lcCheck target (m.payload 8 n) with
      | some r => (s'.lcEvent s.lc target r).answer mb .lcRefused
      | none => match s.lcMissing target with
        | some .busy => s'.answer mb .busy
        | some st => (s'.lcEvent s.lc target 8).answer mb st
        | none => s'.lcRun mb target bad

/-! ### WARM_RESET (R422) -/

/-- WARM_RESET: no answer. -/
def execWarmReset (mb : MailboxId) (s : State) : Host.Outcome State Fault Refusal :=
  s.command mb 0x80 false 0 (fun _ => true) fun _ => s.warmReset 2

/-! ### Requests sent before firmware ran (R399, R426) -/

/-- Firmware answers a request with an excess LEN or an unknown OPC. -/
def State.answerOdd (s : State) (mb : Nat) : State :=
  let m := s.mbox mb
  if s.fw = false ∨ m.state ≠ 2 then s
  else if 1760 < m.len then s.answer mb .mbForm
  else if !mailOpcodes.contains m.opc then s.answer mb .mbOpcode
  else s

end Sys2Proof.Machine
end

