-- ==== Sys2Proof/Machine/Dispatch.lean ====
section
/-! DEFINITION. The effect of each command: one direct call of its meaning. -/

namespace Sys2Proof.Machine

def exec (i : Instr) (s : State) : Host.Outcome State Fault Refusal :=
  match i with
  | .registerWrite m off v => Sys2Proof.Machine.execRegisterWrite m off v s
  | .lpLowRead m off => Sys2Proof.Machine.execLpLowRead m off s
  | .lpLowWrite m off v => Sys2Proof.Machine.execLpLowWrite m off v s
  | .lpHighWrite m off v => Sys2Proof.Machine.execLpHighWrite m off v s
  | .lpAlignedAccess m off wr => Sys2Proof.Machine.execLpAlignedAccess m off wr s
  | .sqClearWrite m off v => Sys2Proof.Machine.execSqClearWrite m off v s
  | .rcCounterRead m off inc => Sys2Proof.Machine.execRcCounterRead m off inc s
  | .unmappedAccess m off write width => Sys2Proof.Machine.execUnmappedAccess m off write s width
  | .privilegeViolation m off write => Sys2Proof.Machine.execPrivilegeViolation m off write s
  | .eventRingWrite => Sys2Proof.Machine.execEventRingWrite s
  | .evringEnable m v => Sys2Proof.Machine.execEvringEnable m v s
  | .evringDisable m v => Sys2Proof.Machine.execEvringDisable m v s
  | .evringTailWrite m v => Sys2Proof.Machine.execEvringTailWrite m v s
  | .icDone c v => Sys2Proof.Machine.execIcDone c v s
  | .icRouteWrite c n v => Sys2Proof.Machine.execIcRouteWrite c n v s
  | .icSignal c v => Sys2Proof.Machine.execIcSignal c v s
  | .selayTimer c => Sys2Proof.Machine.execSelayTimer c s
  | .msixRaise c v => Sys2Proof.Machine.execMsixRaise c v s
  | .amaxWrite m off v fold => Sys2Proof.Machine.execAmaxWrite m off v fold s
  | .fence b cause => Sys2Proof.Machine.execFence b cause s
  | .hubFault cause => Sys2Proof.Machine.execHubFault cause s
  | .tailSnoop q stores => Sys2Proof.Machine.execTailSnoop q s stores
  | .recordAdmission q => Sys2Proof.Machine.execRecordAdmission q s
  | .recordRetest q => Sys2Proof.Machine.execRecordRetest q s
  | .batchClose q => Sys2Proof.Machine.execBatchClose q s
  | .jobDispatch => Sys2Proof.Machine.execJobDispatch s
  | .jobRerun slot => Sys2Proof.Machine.execJobRerun slot s
  | .jobCommit q => Sys2Proof.Machine.execJobCommit q s
  | .faultNotice => Sys2Proof.Machine.execFaultNotice s
  | .mpass g => Sys2Proof.Machine.execMpass g s
  | .weightSetRead g => Sys2Proof.Machine.execWeightSetRead g s
  | .stagedSetMove g => Sys2Proof.Machine.execStagedSetMove g s
  | .frontSwap g a row => Sys2Proof.Machine.execFrontSwap g a row s
  | .epilogueRow g a row => Sys2Proof.Machine.execEpilogueRow g a row s
  | .mpassComplete g => Sys2Proof.Machine.execMpassComplete g s
  | .jbegin g => Sys2Proof.Machine.execJbegin g s
  | .jcommit g => Sys2Proof.Machine.execJcommit g s
  | .jcommitComplete g => Sys2Proof.Machine.execJcommitComplete g s
  | .qrep g => Sys2Proof.Machine.execQrep g s
  | .qrepIteration g => Sys2Proof.Machine.execQrepIteration g s
  | .wload g => Sys2Proof.Machine.execWload g s
  | .sld g => Sys2Proof.Machine.execSld g s
  | .sst g => Sys2Proof.Machine.execSst g s
  | .fxch g => Sys2Proof.Machine.execFxch g s
  | .takeInstruction g => Sys2Proof.Machine.execTakeInstruction g s
  | .tprod g => Sys2Proof.Machine.execTprod g s
  | .tprodProduction g => Sys2Proof.Machine.execTprodProduction g s
  | .twait g => Sys2Proof.Machine.execTwait g s
  | .token p => Sys2Proof.Machine.execToken p s
  | .fabricTokenBeat g chan => Sys2Proof.Machine.execFabricTokenBeat g chan s
  | .watchExpiry g => Sys2Proof.Machine.execWatchExpiry g s
  | .watchCtlWrite m g v => Sys2Proof.Machine.execWatchCtlWrite m g v s
  | .watchDeclare c g v => Sys2Proof.Machine.execWatchDeclare c g v s
  | .nop g => Sys2Proof.Machine.execNop g s
  | .add g => Sys2Proof.Machine.execAdd g s
  | .sub g => Sys2Proof.Machine.execSub g s
  | .adds g => Sys2Proof.Machine.execAdds g s
  | .subs g => Sys2Proof.Machine.execSubs g s
  | .and g => Sys2Proof.Machine.execAnd g s
  | .or g => Sys2Proof.Machine.execOr g s
  | .xor g => Sys2Proof.Machine.execXor g s
  | .shl g => Sys2Proof.Machine.execShl g s
  | .shr g => Sys2Proof.Machine.execShr g s
  | .sra g => Sys2Proof.Machine.execSra g s
  | .srar g => Sys2Proof.Machine.execSrar g s
  | .min g => Sys2Proof.Machine.execMin g s
  | .max g => Sys2Proof.Machine.execMax g s
  | .slt g => Sys2Proof.Machine.execSlt g s
  | .seq g => Sys2Proof.Machine.execSeq g s
  | .movi g => Sys2Proof.Machine.execMovi g s
  | .movh g => Sys2Proof.Machine.execMovh g s
  | .mul g => Sys2Proof.Machine.execMul g s
  | .muls g => Sys2Proof.Machine.execMuls g s
  | .mulq g => Sys2Proof.Machine.execMulq g s
  | .mac g => Sys2Proof.Machine.execMac g s
  | .msu g => Sys2Proof.Machine.execMsu g s
  | .macw g => Sys2Proof.Machine.execMacw g s
  | .aclr g => Sys2Proof.Machine.execAclr g s
  | .ashr g => Sys2Proof.Machine.execAshr g s
  | .norm g => Sys2Proof.Machine.execNorm g s
  | .nshl g => Sys2Proof.Machine.execNshl g s
  | .expx g => Sys2Proof.Machine.execExpx g s
  | .expe8 g => Sys2Proof.Machine.execExpe8 g s
  | .aadd g => Sys2Proof.Machine.execAadd g s
  | .asub g => Sys2Proof.Machine.execAsub g s
  | .aaddl g => Sys2Proof.Machine.execAaddl g s
  | .amul16 g => Sys2Proof.Machine.execAmul16 g s
  | .aelm g => Sys2Proof.Machine.execAelm g s
  | .acmplt g => Sys2Proof.Machine.execAcmplt g s
  | .mov g => Sys2Proof.Machine.execMov g s
  | .ld g => Sys2Proof.Machine.execLd g s
  | .st g => Sys2Proof.Machine.execSt g s
  | .take g => Sys2Proof.Machine.execTake g s
  | .br g => Sys2Proof.Machine.execBr g s
  | .bz g => Sys2Proof.Machine.execBz g s
  | .bnz g => Sys2Proof.Machine.execBnz g s
  | .bltz g => Sys2Proof.Machine.execBltz g s
  | .loop g => Sys2Proof.Machine.execLoop g s
  | .waitt g => Sys2Proof.Machine.execWaitt g s
  | .pub g => Sys2Proof.Machine.execPub g s
  | .trap g => Sys2Proof.Machine.execTrap g s
  | .reti g => Sys2Proof.Machine.execReti g s
  | .halt g => Sys2Proof.Machine.execHalt g s
  | .writeLand g => Sys2Proof.Machine.execWriteLand g s
  | .interruptEntry g => Sys2Proof.Machine.execInterruptEntry g s
  | .issueTimerExpiry g => Sys2Proof.Machine.execIssueTimerExpiry g s
  | .tallyArm c b v => Sys2Proof.Machine.execTallyArm c b v s
  | .tallyRelease c b v => Sys2Proof.Machine.execTallyRelease c b v s
  | .takeNext b => Sys2Proof.Machine.execTakeNext b s
  | .report b => Sys2Proof.Machine.execReport b s
  | .cellRelease b cell => Sys2Proof.Machine.execCellRelease b cell s
  | .vopAdd g => Sys2Proof.Machine.execVopAdd g s
  | .vopSub g => Sys2Proof.Machine.execVopSub g s
  | .vopMul g => Sys2Proof.Machine.execVopMul g s
  | .vopMax g => Sys2Proof.Machine.execVopMax g s
  | .vopMin g => Sys2Proof.Machine.execVopMin g s
  | .vopFma g => Sys2Proof.Machine.execVopFma g s
  | .vopBscale g => Sys2Proof.Machine.execVopBscale g s
  | .vopCvt g => Sys2Proof.Machine.execVopCvt g s
  | .vopAbs g => Sys2Proof.Machine.execVopAbs g s
  | .vopNeg g => Sys2Proof.Machine.execVopNeg g s
  | .vopExp2 g => Sys2Proof.Machine.execVopExp2 g s
  | .vopLog2 g => Sys2Proof.Machine.execVopLog2 g s
  | .vopRcp g => Sys2Proof.Machine.execVopRcp g s
  | .vopRsqrt g => Sys2Proof.Machine.execVopRsqrt g s
  | .vopRsum g => Sys2Proof.Machine.execVopRsum g s
  | .vopRmax g => Sys2Proof.Machine.execVopRmax g s
  | .vopRmin g => Sys2Proof.Machine.execVopRmin g s
  | .vopRamax g => Sys2Proof.Machine.execVopRamax g s
  | .vopScani g => Sys2Proof.Machine.execVopScani g s
  | .vopScane g => Sys2Proof.Machine.execVopScane g s
  | .vopScanmax g => Sys2Proof.Machine.execVopScanmax g s
  | .vopComplete g waits => Sys2Proof.Machine.execVopComplete g waits s
  | .strArm c g k v => Sys2Proof.Machine.execStrArm c g k v s
  | .standbyStart g k => Sys2Proof.Machine.execStandbyStart g k s
  | .walk g q dva acc => Sys2Proof.Machine.execWalk g q dva acc s
  | .streamComplete g k errs => Sys2Proof.Machine.execStreamComplete g k s errs
  | .commandSlot b pc illegal symErrs odecc => Sys2Proof.Machine.execCommandSlot b pc illegal symErrs odecc s
  | .refreshDue b pc bank => Sys2Proof.Machine.execRefreshDue b pc bank s
  | .rfmRequest b pc => Sys2Proof.Machine.execRfmRequest b pc s
  | .stackTemperature b degC => Sys2Proof.Machine.execStackTemperature b degC s
  | .retrainSlot b ch => Sys2Proof.Machine.execRetrainSlot b ch s
  | .retrainComplete b ch ok => Sys2Proof.Machine.execRetrainComplete b ch ok s
  | .stackFatal b catastrophic => Sys2Proof.Machine.execStackFatal b catastrophic s
  | .fchgGo c b v => Sys2Proof.Machine.execFchgGo c b v s
  | .fchgDrained b => Sys2Proof.Machine.execFchgDrained b s
  | .fchgRelock b => Sys2Proof.Machine.execFchgRelock b s
  | .fchgRetrainDone b failed => Sys2Proof.Machine.execFchgRetrainDone b failed s
  | .fabPllWrite c b n div v => Sys2Proof.Machine.execFabPllWrite c b n div v s
  | .pllLock b n => Sys2Proof.Machine.execPllLock b n s
  | .pllLockTimeout b n => Sys2Proof.Machine.execPllLockTimeout b n s
  | .pllLossOfLock b n => Sys2Proof.Machine.execPllLossOfLock b n s
  | .gclkSelect c b n v => Sys2Proof.Machine.execGclkSelect c b n v s
  | .sleepInput b n level => Sys2Proof.Machine.execSleepInput b n level s
  | .ramPortAccess b block portB op => Sys2Proof.Machine.execRamPortAccess b block portB op s
  | .queuePush b block data poison => Sys2Proof.Machine.execQueuePush b block data poison s
  | .queuePop b block => Sys2Proof.Machine.execQueuePop b block s
  | .rstQ b block => Sys2Proof.Machine.execRstQ b block s
  | .blockNocAccess b block line wr portBEnable => Sys2Proof.Machine.execBlockNocAccess b block line wr portBEnable s
  | .outboundBeat g ready => Sys2Proof.Machine.execOutboundBeat g ready s
  | .inboundBeat g beat => Sys2Proof.Machine.execInboundBeat g beat s
  | .endpointFlit b ep f => Sys2Proof.Machine.execEndpointFlit b ep f s
  | .endpointDelivery b ep domainReady => Sys2Proof.Machine.execEndpointDelivery b ep domainReady s
  | .wakeTimeout b ep => Sys2Proof.Machine.execWakeTimeout b ep s
  | .load m v => Sys2Proof.Machine.execLoad m v s
  | .isolateAndClear m v => Sys2Proof.Machine.execIsolateAndClear m v s
  | .sessionEnd m v => Sys2Proof.Machine.execSessionEnd m v s
  | .restart m v => Sys2Proof.Machine.execRestart m v s
  | .doneSeen high => Sys2Proof.Machine.execDoneSeen s high
  | .cfgDonewait => Sys2Proof.Machine.execCfgDonewait s
  | .loaderChecks => Sys2Proof.Machine.execLoaderChecks s
  | .loaderClearDone => Sys2Proof.Machine.execLoaderClearDone s
  | .payloadBlock => Sys2Proof.Machine.execPayloadBlock s
  | .loaderDigest => Sys2Proof.Machine.execLoaderDigest s
  | .clockPlanLock => Sys2Proof.Machine.execClockPlanLock s
  | .loadCommit => Sys2Proof.Machine.execLoadCommit s
  | .gatesOpen p => Sys2Proof.Machine.execGatesOpen p s
  | .writeEnablesOn p => Sys2Proof.Machine.execWriteEnablesOn p s
  | .resetsReleased p => Sys2Proof.Machine.execResetsReleased p s
  | .auditStep b votes => Sys2Proof.Machine.execAuditStep b votes s
  | .fingerprintRecompute => Sys2Proof.Machine.execFingerprintRecompute s
  | .errpinWrite m v => Sys2Proof.Machine.execErrpinWrite m v s
  | .flitCheckFail r port => Sys2Proof.Machine.execFlitCheckFail r port s
  | .flitGrant r port => Sys2Proof.Machine.execFlitGrant r port s
  | .traceCtlWrite m region v => Sys2Proof.Machine.execTraceCtlWrite m region v s
  | .routeCommit c b v => Sys2Proof.Machine.execRouteCommit c b v s
  | .resend src dest => Sys2Proof.Machine.execResend src dest s
  | .rd f => Sys2Proof.Machine.execRd f s
  | .wr pfx f => Sys2Proof.Machine.execWr pfx f s
  | .msg f => Sys2Proof.Machine.execMsg f s
  | .mrd f => Sys2Proof.Machine.execMrd f s
  | .mwr f => Sys2Proof.Machine.execMwr f s
  | .rdata f => Sys2Proof.Machine.execRdata f s
  | .wack f => Sys2Proof.Machine.execWack f s
  | .ack f => Sys2Proof.Machine.execAck f s
  | .tans g => Sys2Proof.Machine.execTans g s
  | .mdata f => Sys2Proof.Machine.execMdata f s
  | .nack f => Sys2Proof.Machine.execNack f s
  | .linkEnable m k v => Sys2Proof.Machine.execLinkEnable m k v s
  | .linkDisable m k v => Sys2Proof.Machine.execLinkDisable m k v s
  | .signalDetected k lanes => Sys2Proof.Machine.execSignalDetected k lanes s
  | .lanesLocked k lanes => Sys2Proof.Machine.execLanesLocked k lanes s
  | .lockTimeout k => Sys2Proof.Machine.execLockTimeout k s
  | .config k peer => Sys2Proof.Machine.execConfig k peer s
  | .configTimeout k => Sys2Proof.Machine.execConfigTimeout k s
  | .stepTimeout k failed => Sys2Proof.Machine.execStepTimeout k failed s
  | .markerLockLoss k lane => Sys2Proof.Machine.execMarkerLockLoss k lane s
  | .codeword k number line skew => Sys2Proof.Machine.execCodeword k number line s skew
  | .control k ackNo nak credits => Sys2Proof.Machine.execControl k ackNo nak credits s
  | .flit k f => Sys2Proof.Machine.execFlit k f s
  | .fp k fp64 epoch => Sys2Proof.Machine.execFp k fp64 epoch s
  | .fpSend k => Sys2Proof.Machine.execFpSend k s
  | .sleepIdle k => Sys2Proof.Machine.execSleepIdle k s
  | .sleepReq k => Sys2Proof.Machine.execSleepReq k s
  | .sleepAck k => Sys2Proof.Machine.execSleepAck k s
  | .wakeBurst k => Sys2Proof.Machine.execWakeBurst k s
  | .linkWakeTimeout k => Sys2Proof.Machine.execLinkWakeTimeout k s
  | .fecInj m k v => Sys2Proof.Machine.execFecInj m k v s
  | .injOne m k lane v => Sys2Proof.Machine.execInjOne m k lane v s
  | .hostLinkDown => Sys2Proof.Machine.execHostLinkDown s
  | .linkDownTimeout => Sys2Proof.Machine.execLinkDownTimeout s
  | .hostLinkUp speed width cfg => Sys2Proof.Machine.execHostLinkUp speed width cfg s
  | .hotReset => Sys2Proof.Machine.execHotReset s
  | .memrd hpa => Sys2Proof.Machine.execMemrd hpa s
  | .memwr hpa data enables poison => Sys2Proof.Machine.execMemwr hpa data enables poison s
  | .claim page v => Sys2Proof.Machine.execClaim page v s
  | .submit m mb v => Sys2Proof.Machine.execSubmit m mb v s
  | .release m mb v => Sys2Proof.Machine.execRelease m mb v s
  | .ownerRelease m u v => Sys2Proof.Machine.execOwnerRelease m u v s
  | .getVersion size => Sys2Proof.Machine.execGetVersion size s
  | .getCapabilities size => Sys2Proof.Machine.execGetCapabilities size s
  | .negotiateAlgorithms p384 sha384 size => Sys2Proof.Machine.execNegotiateAlgorithms p384 sha384 size s
  | .getDigests size => Sys2Proof.Machine.execGetDigests size s
  | .getCertificate offset length size => Sys2Proof.Machine.execGetCertificate offset length size s
  | .challenge nonce size => Sys2Proof.Machine.execChallenge nonce size s
  | .getMeasurements index signed size => Sys2Proof.Machine.execGetMeasurements index signed size s
  | .identify mb => Sys2Proof.Machine.execIdentify mb s
  | .fqConfig mb => Sys2Proof.Machine.execFqConfig mb s
  | .fqStop mb => Sys2Proof.Machine.execFqStop mb s
  | .xlateInval mb => Sys2Proof.Machine.execXlateInval mb s
  | .pageResolved mb => Sys2Proof.Machine.execPageResolved mb s
  | .jobAbandon mb => Sys2Proof.Machine.execJobAbandon mb s
  | .ctxOpen mb => Sys2Proof.Machine.execCtxOpen mb s
  | .ctxSet mb => Sys2Proof.Machine.execCtxSet mb s
  | .ctxClose mb => Sys2Proof.Machine.execCtxClose mb s
  | .ctxRead mb => Sys2Proof.Machine.execCtxRead mb s
  | .batchClass mb => Sys2Proof.Machine.execBatchClass mb s
  | .cfgLoad mb => Sys2Proof.Machine.execCfgLoad mb s
  | .cfgSession mb => Sys2Proof.Machine.execCfgSession mb s
  | .cfgIsolate mb => Sys2Proof.Machine.execCfgIsolate mb s
  | .spdigestSet mb => Sys2Proof.Machine.execSpdigestSet mb s
  | .bayFence mb => Sys2Proof.Machine.execBayFence mb s
  | .bayReturn mb good => Sys2Proof.Machine.execBayReturn mb good s
  | .engBudget mb => Sys2Proof.Machine.execEngBudget mb s
  | .engRead mb => Sys2Proof.Machine.execEngRead mb s
  | .lcTransition mb bad => Sys2Proof.Machine.execLcTransition mb bad s
  | .warmReset mb => Sys2Proof.Machine.execWarmReset mb s
  | .selayCoreFault c => Sys2Proof.Machine.execSelayCoreFault c s
  | .ledgerSample bays inputUJ => Sys2Proof.Machine.execLedgerSample bays inputUJ s
  | .ledgerTick inputMJ => Sys2Proof.Machine.execLedgerTick inputMJ s
  | .tickAck m v => Sys2Proof.Machine.execTickAck m v s
  | .rateMonitor b measured => Sys2Proof.Machine.execRateMonitor b measured s
  | .corewarn b mv => Sys2Proof.Machine.execCorewarn b mv s
  | .fabwarn b mv => Sys2Proof.Machine.execFabwarn b mv s
  | .recover b fab mv => Sys2Proof.Machine.execRecover b fab s mv
  | .corereset b mv => Sys2Proof.Machine.execCorereset b mv s
  | .fabreset b mv => Sys2Proof.Machine.execFabreset b mv s
  | .hubwarn mv => Sys2Proof.Machine.execHubwarn mv s
  | .vsetWrite m b v => Sys2Proof.Machine.execVsetWrite m b v s
  | .dipFree m b v => Sys2Proof.Machine.execDipFree m b v s
  | .capSample watts => Sys2Proof.Machine.execCapSample watts s
  | .throttle b degC => Sys2Proof.Machine.execThrottle b degC s
  | .hot b degC => Sys2Proof.Machine.execHot b degC s
  | .trip b degC => Sys2Proof.Machine.execTrip b degC s
  | .fuseValue m v => Sys2Proof.Machine.execFuseValue m v s
  | .fuseFill m v => Sys2Proof.Machine.execFuseFill m v s
  | .fuseRevoke m v => Sys2Proof.Machine.execFuseRevoke m v s
  | .fuseState m v => Sys2Proof.Machine.execFuseState m v s
  | .fuseProgrammed verified => Sys2Proof.Machine.execFuseProgrammed verified s
  | .bkeyStore m v => Sys2Proof.Machine.execBkeyStore m v s
  | .bkeyZero m v => Sys2Proof.Machine.execBkeyZero m v s
  | .boot => Sys2Proof.Machine.execBoot s
  | .extest => Sys2Proof.Machine.execExtest s
  | .idcode => Sys2Proof.Machine.execIdcode s
  | .samplePreload cells => Sys2Proof.Machine.execSamplePreload cells s
  | .regacc off wr => Sys2Proof.Machine.execRegacc off wr s
  | .bypass => Sys2Proof.Machine.execBypass s
  | .regRead pecOk off => Sys2Proof.Machine.execRegRead pecOk off s
  | .regWrite pecOk off v => Sys2Proof.Machine.execRegWrite pecOk off v s
  | .flashErase pecOk off => Sys2Proof.Machine.execFlashErase pecOk off s
  | .flashWrite pecOk off data => Sys2Proof.Machine.execFlashWrite pecOk off data s
  | .flashRead pecOk off => Sys2Proof.Machine.execFlashRead pecOk off s
  | .flashStatus pecOk => Sys2Proof.Machine.execFlashStatus pecOk s
  | .flashComplete => Sys2Proof.Machine.execFlashComplete s
  | .pushData pecOk off data => Sys2Proof.Machine.execPushData pecOk off data s
  | .pushDone pecOk len => Sys2Proof.Machine.execPushDone pecOk len s
  | .coldReset lowNs straps vbatKept => Sys2Proof.Machine.execColdReset lowNs straps vbatKept s
  | .bayPowerOn b => Sys2Proof.Machine.execBayPowerOn b s
  | .powerLoss => Sys2Proof.Machine.execPowerLoss s
  | .coldStart => Sys2Proof.Machine.execColdStart s
  | .logicDieFault b => Sys2Proof.Machine.execLogicDieFault b s
  | .fabricInterruptLine b k level => Sys2Proof.Machine.execFabricInterruptLine b k level s
  | .patternCheck k lane received => Sys2Proof.Machine.execPatternCheck k lane received s
  | .keyExchange code size => Sys2Proof.Machine.execKeyExchange code size s
  | .doeDiscovery index size => Sys2Proof.Machine.execDoeDiscovery index size s
  | .testLogicReset => Sys2Proof.Machine.execTestLogicReset s

end Sys2Proof.Machine
end

