-- ==== Sys2Proof/Machine/Tick.lean ====
section
/-! DEFINITION. One period of the 100 MHz host reference, which passes when no command waits: the local counters advance (R26), the
counters of waiting cores and of dry transfers count, vector operations and transfers move a row, fabric networks take their edges,
trace writers and links send, and firmware answers the requests it could not answer while it did not run. -/

namespace Sys2Proof.Machine

/-- A local counter runs: that of the hub (32) once the module is out of reset, that of a bay once it has left power-on reset, which
a fence does not undo (R13, R26, R32). (DEDUCED, log entry 166). -/
def State.counterRuns (s : State) (b : Nat) : Bool :=
  s.board.powered && !s.board.held && (b == 32 || Tab.get false s.board.railsUp b || s.isFenced b)

/-- Every local counter that runs advances by one and wraps (R26). -/
def State.countPeriods (s : State) : State :=
  each (List.range 33) s fun s b =>
    if s.counterRuns b then { s with lcount := Tab.set 0 s.lcount b ((s.local b + 1) % 2 ^ 64) } else s

/-- The control core of stall g waits without issuing (R151). -/
def State.coreIdles (s : State) (g : Nat) : Bool :=
  let c := (s.stall g).core
  if c.run = false ∨ c.halted = true ∨ s.stallUp g = false then false
  else
    let t := s.landDue g
    decide (c.pc < c.plen) && t.verdict g (Bundle.of (t.nextWord g)) == .wait

/-- The active transfer of engine k of stall g has time to empty 0 and lines still to move (R248). -/
def State.engineDry (s : State) (g k : Nat) : Bool :=
  match ((s.stall g).engine k).active with
  | none => false
  | some t => t.started && !t.done && ((s.stall g).engine k).tte (s.local (g / 64)) == 0

/-- The engine that stall g's port grants: of those whose walk has a row left, the one with the smallest time to empty, and of equals the
lowest (R248). -/
def State.granted (s : State) (g : Nat) : Option Nat :=
  let tte (k : Nat) : Nat := ((s.stall g).engine k).tte (s.local (g / 64))
  ((List.range 4).filter fun k => ((s.stall g).engine k).walking.isSome).foldl
    (fun (a : Option Nat) k => match a with
      | some i => if tte k < tte i then some k else some i
      | none => some k) none

/-- The granted engine's row moves (R248). -/
def State.portPeriod (s : State) (g : Nat) : State :=
  match s.granted g with
  | some k => (s.moveRow g k).1
  | none => s

/-- CCO_WAITS and STR_DRY of stall g count the period, a running vector operation takes its next row, and the stall's port moves one of the
engine that it grants. (DESIGN CHOICE, log entries 55, 86). -/
def State.stallPeriod (s : State) (g : Nat) : State :=
  let s := if s.coreIdles g then s.count .ccoWaits g else s
  let s := if s.stallUp g then s.vNextRow g else s
  let s := each (List.range 4) s fun s k => if s.stallUp g && s.engineDry g k then s.count .strDry g 1 k else s
  if s.stallUp g then s.portPeriod g else s

/-- One period of the host reference. -/
def State.period (s : State) : State :=
  let s := s.countPeriods
  let s := each (s.stalls.map Prod.fst) s State.stallPeriod
  let s := each s.fabBays s State.fabPeriod
  let s := each (s.net.tracers.map Prod.fst) s State.drainTracer
  let s := each (s.links.map Prod.fst) s fun s k => if s.portUp k then s.linkPeriod k else s
  each (List.range 16) s State.answerOdd

end Sys2Proof.Machine
end

