-- ==== Sys2Proof/Safety.lean ====
section
/-! DEFINITION. What no command may break: memories in one canonical form, the queue, fuses that are only ever blown (R456), the fence
of a bay (R31), the sampled straps (R481) and the boot flash (R483). -/

namespace Sys2Proof.Machine

/-- The canonical form of a memory: addresses strictly rise, and no entry lists what an unlisted address reads as. -/
def Memory.wf (t : Tab Byte) : Bool := Tab.wf 0 t

/-- Device memory, host memory and their poison tags are in canonical form. -/
def State.canonical (s : State) : Bool :=
  Memory.wf s.mem && Tab.wf false s.memTag && (Memory.wf s.host && Tab.wf false s.hostTag)

/-- Slot k can pass from one content to another by blowing bits only (R456, R457): a thermometer slot counts up, any other slot keeps
its blown bits. -/
def FuseSlot.within (k : Nat) (a b : FuseSlot) : Prop :=
  (a.rev = true → b.rev = true) ∧ (a.set = true → b.set = true) ∧
    if 6 ≤ k then a.val ≤ b.val else ∀ i, bit a.val i = true → bit b.val i = true

/-- Every fuse blown in one state is blown in another. -/
def State.fusesStay (s t : State) : Prop := ∀ k, FuseSlot.within k (s.fuse k) (t.fuse k)

/-- Every bay fenced in one state is fenced in another. -/
def State.fencesStay (s t : State) : Prop := ∀ b, s.isFenced b = true → t.isFenced b = true

/-- The parts of the state: one for each field of State. -/
inductive Part
  | pending | free | regs | latch | mem | memTag | host | hostTag | lcount | events | evLost | icEdge | msix | fenced | stalls
  | cells | takeQ | reportQ | answers | tokens | bayTlb | jobs | queues | faultQ | net | hbms | fabs | cfg | sec | board
  | links | said | doeErr | hostUp | speed | width | hdm | mboxes | fw | viral | warms | accepts | classes | eng | hostWait
  | mx | errs | ctxLost
deriving DecidableEq, Repr

/-- A part is the same in two states. -/
def Part.same : Part → State → State → Prop
  | .pending, s, t => t.pending = s.pending
  | .free, s, t => t.free = s.free
  | .regs, s, t => t.regs = s.regs
  | .latch, s, t => t.latch = s.latch
  | .mem, s, t => t.mem = s.mem
  | .memTag, s, t => t.memTag = s.memTag
  | .host, s, t => t.host = s.host
  | .hostTag, s, t => t.hostTag = s.hostTag
  | .lcount, s, t => t.lcount = s.lcount
  | .events, s, t => t.events = s.events
  | .evLost, s, t => t.evLost = s.evLost
  | .icEdge, s, t => t.icEdge = s.icEdge
  | .msix, s, t => t.msix = s.msix
  | .fenced, s, t => t.fenced = s.fenced
  | .stalls, s, t => t.stalls = s.stalls
  | .cells, s, t => t.cells = s.cells
  | .takeQ, s, t => t.takeQ = s.takeQ
  | .reportQ, s, t => t.reportQ = s.reportQ
  | .answers, s, t => t.answers = s.answers
  | .tokens, s, t => t.tokens = s.tokens
  | .bayTlb, s, t => t.bayTlb = s.bayTlb
  | .jobs, s, t => t.jobs = s.jobs
  | .queues, s, t => t.queues = s.queues
  | .faultQ, s, t => t.faultQ = s.faultQ
  | .net, s, t => t.net = s.net
  | .hbms, s, t => t.hbms = s.hbms
  | .fabs, s, t => t.fabs = s.fabs
  | .cfg, s, t => t.cfg = s.cfg
  | .sec, s, t => t.sec = s.sec
  | .board, s, t => t.board = s.board
  | .links, s, t => t.links = s.links
  | .said, s, t => t.said = s.said
  | .doeErr, s, t => t.doeErr = s.doeErr
  | .hostUp, s, t => t.hostUp = s.hostUp
  | .speed, s, t => t.speed = s.speed
  | .width, s, t => t.width = s.width
  | .hdm, s, t => t.hdm = s.hdm
  | .mboxes, s, t => t.mboxes = s.mboxes
  | .fw, s, t => t.fw = s.fw
  | .viral, s, t => t.viral = s.viral
  | .warms, s, t => t.warms = s.warms
  | .accepts, s, t => t.accepts = s.accepts
  | .classes, s, t => t.classes = s.classes
  | .eng, s, t => t.eng = s.eng
  | .hostWait, s, t => t.hostWait = s.hostWait
  | .mx, s, t => t.mx = s.mx
  | .errs, s, t => t.errs = s.errs
  | .ctxLost, s, t => t.ctxLost = s.ctxLost

/-- The parts that a command may change: every other part is the same after it. -/
def touches : Instr → List Part
  | .registerWrite _ _ _ | .lpLowWrite _ _ _ | .lpHighWrite _ _ _ | .sqClearWrite _ _ _ | .mwr _ | .regWrite _ _ _ =>
    [.free, .regs, .latch, .mem, .memTag, .host, .hostTag, .events, .icEdge, .msix, .stalls, .cells, .bayTlb, .jobs, .faultQ,
    .net, .hbms, .fabs, .cfg, .sec, .links, .mboxes, .eng, .mx, .errs]
  | .lpLowRead _ _ | .rcCounterRead _ _ _ | .regRead _ _ => [.free, .regs, .latch, .events, .said]
  | .lpAlignedAccess _ _ _ | .privilegeViolation _ _ _ =>
    [.free, .regs, .latch, .mem, .memTag, .host, .hostTag, .events, .icEdge, .msix, .stalls, .cells, .bayTlb, .jobs, .faultQ,
    .net, .hbms, .fabs, .cfg, .sec, .links, .said, .mboxes, .eng, .mx, .errs]
  | .unmappedAccess _ _ _ _ => [.free, .regs, .events, .said]
  | .eventRingWrite => [.regs, .host, .hostTag, .events, .evLost, .msix, .mx]
  | .evringEnable _ _ | .evringDisable _ _ | .evringTailWrite _ _ | .icRouteWrite _ _ _ | .amaxWrite _ _ _ _
  | .errpinWrite _ _ | .dipFree _ _ _ => [.free, .regs, .events]
  | .icDone _ _ | .icSignal _ _ => [.free, .regs, .events, .icEdge]
  | .selayTimer _ => [.icEdge]
  | .msixRaise _ _ => [.free, .regs, .events, .msix, .mx]
  | .fence _ _ | .corereset _ _ | .fabreset _ _ | .throttle _ _ | .hot _ _ | .trip _ _ =>
    [.regs, .mem, .memTag, .events, .msix, .fenced, .stalls, .cells, .takeQ, .reportQ, .answers, .tokens, .bayTlb, .jobs,
    .queues, .net, .hbms, .fabs, .cfg, .board, .links, .eng, .mx, .ctxLost]
  | .hubFault _ => [.regs, .events, .msix, .viral, .mx, .errs]
  | .tailSnoop _ _ => [.regs, .mem, .memTag, .host, .hostTag, .events, .msix, .queues, .mx]
  | .recordAdmission _ | .recordRetest _ =>
    [.free, .regs, .mem, .memTag, .host, .hostTag, .events, .msix, .jobs, .queues, .accepts, .eng, .mx]
  | .batchClose _ => [.jobs, .queues]
  | .jobDispatch | .jobRerun _ =>
    [.free, .regs, .mem, .memTag, .host, .hostTag, .events, .msix, .stalls, .cells, .bayTlb, .jobs, .queues, .faultQ, .hbms,
    .fabs, .mx, .errs]
  | .jobCommit _ => [.regs, .mem, .memTag, .host, .hostTag, .events, .msix, .stalls, .jobs, .queues, .mx]
  | .faultNotice => [.regs, .mem, .memTag, .host, .hostTag, .events, .msix, .stalls, .jobs, .queues, .faultQ, .mx]
  | .mpass _ | .jcommitComplete _ | .qrepIteration _ => [.regs, .events, .stalls, .jobs]
  | .weightSetRead _ | .stagedSetMove _ | .issueTimerExpiry _ => [.stalls]
  | .frontSwap _ _ _ | .watchExpiry _ => [.regs, .events, .stalls]
  | .epilogueRow _ _ _ => [.regs, .mem, .memTag, .events, .stalls]
  | .mpassComplete _ => [.regs, .mem, .memTag, .stalls, .tokens, .jobs]
  | .jbegin _ | .tprodProduction _ => [.regs, .stalls, .tokens]
  | .jcommit _ => [.regs, .stalls, .reportQ]
  | .qrep _ | .tprod _ | .twait _ => [.regs, .stalls]
  | .wload _ | .sld _ | .sst _ | .fxch _ | .strArm _ _ _ _ | .standbyStart _ _ =>
    [.free, .regs, .mem, .memTag, .host, .hostTag, .events, .stalls, .bayTlb, .jobs, .faultQ, .hbms, .fabs, .errs]
  | .takeInstruction _ => [.regs, .events, .stalls, .takeQ, .answers]
  | .token _ => [.regs, .events, .stalls, .tokens, .jobs]
  | .fabricTokenBeat _ _ => [.regs, .mem, .memTag, .events, .stalls, .tokens, .jobs]
  | .watchCtlWrite _ _ _ => [.free, .regs, .events, .stalls]
  | .watchDeclare _ _ _ | .inboundBeat _ _ => [.regs, .mem, .memTag, .events, .stalls, .jobs]
  | .nop _ | .add _ | .sub _ | .adds _ | .subs _ | .and _ | .or _ | .xor _ | .shl _ | .shr _ | .sra _ | .srar _ | .min _
  | .max _ | .slt _ | .seq _ | .movi _ | .movh _ | .mul _ | .muls _ | .mulq _ | .mac _ | .msu _ | .macw _ | .aclr _ | .ashr _
  | .norm _ | .nshl _ | .expx _ | .expe8 _ | .aadd _ | .asub _ | .aaddl _ | .amul16 _ | .aelm _ | .acmplt _ | .mov _ | .ld _
  | .st _ | .take _ | .br _ | .bz _ | .bnz _ | .bltz _ | .loop _ | .waitt _ | .pub _ | .trap _ | .reti _ | .halt _ =>
    [.free, .regs, .mem, .memTag, .host, .hostTag, .events, .stalls, .takeQ, .answers, .tokens, .bayTlb, .jobs, .faultQ, .hbms,
    .fabs, .errs]
  | .writeLand _ | .interruptEntry _ =>
    [.free, .regs, .mem, .memTag, .host, .hostTag, .events, .stalls, .takeQ, .answers, .bayTlb, .jobs, .faultQ, .hbms, .fabs,
    .errs]
  | .tallyArm _ _ _ => [.regs, .events, .cells]
  | .tallyRelease _ _ _ => [.cells]
  | .takeNext _ => [.regs, .events, .cells, .takeQ, .answers]
  | .report _ => [.regs, .events, .stalls, .cells, .reportQ]
  | .cellRelease _ _ => [.regs, .events, .cells, .jobs]
  | .vopAdd _ | .vopSub _ | .vopMul _ | .vopMax _ | .vopMin _ | .vopFma _ | .vopBscale _ | .vopCvt _ | .vopAbs _ | .vopNeg _
  | .vopExp2 _ | .vopLog2 _ | .vopRcp _ | .vopRsqrt _ | .vopRsum _ | .vopRmax _ | .vopRmin _ | .vopRamax _ | .vopScani _
  | .vopScane _ | .vopScanmax _ => [.free, .regs, .events, .stalls, .jobs]
  | .vopComplete _ _ => [.free, .regs, .mem, .memTag, .events, .stalls, .tokens]
  | .walk _ _ _ _ => [.regs, .stalls, .bayTlb]
  | .streamComplete _ _ _ =>
    [.regs, .mem, .memTag, .host, .hostTag, .events, .stalls, .tokens, .bayTlb, .jobs, .faultQ, .hbms, .fabs, .errs]
  | .commandSlot _ _ _ _ _ => [.regs, .mem, .memTag, .events, .net, .hbms, .said]
  | .refreshDue _ _ _ | .rfmRequest _ _ | .stackTemperature _ _ | .retrainSlot _ _ | .fchgDrained _ | .fchgRelock _ => [.hbms]
  | .retrainComplete _ _ _ => [.free, .regs, .events, .hbms]
  | .stackFatal _ _ | .pllLockTimeout _ _ | .gclkSelect _ _ _ _ | .fingerprintRecompute | .hubwarn _ | .logicDieFault _ =>
    [.regs, .events]
  | .fchgGo _ _ _ => [.jobs, .hbms]
  | .fchgRetrainDone _ _ => [.regs, .events, .hbms]
  | .fabPllWrite _ _ _ _ _ | .pllLock _ _ | .pllLossOfLock _ _ => [.regs, .events, .fabs]
  | .sleepInput _ _ _ | .rstQ _ _ | .fabricInterruptLine _ _ _ => [.fabs]
  | .ramPortAccess _ _ _ _ => [.mem, .memTag, .fabs, .said]
  | .queuePush _ _ _ _ => [.regs, .mem, .memTag, .events, .fabs]
  | .queuePop _ _ => [.regs, .events, .fabs, .said]
  | .blockNocAccess _ _ _ _ _ => [.regs, .mem, .memTag, .events, .fabs, .said]
  | .outboundBeat _ _ => [.regs, .stalls, .said]
  | .endpointFlit _ _ _ | .traceCtlWrite _ _ _ => [.free, .regs, .events, .net]
  | .endpointDelivery _ _ _ => [.regs, .events, .net, .fabs, .said]
  | .wakeTimeout _ _ | .nack _ => [.regs, .events, .net, .fabs]
  | .load _ _ | .sessionEnd _ _ => [.free, .regs, .events, .cfg]
  | .isolateAndClear _ _ | .restart _ _ => [.free, .regs, .mem, .memTag, .events, .stalls, .net, .fabs, .cfg]
  | .doneSeen _ | .gatesOpen _ | .writeEnablesOn _ => [.cfg]
  | .cfgDonewait | .loadCommit | .resetsReleased _ => [.regs, .events, .cfg]
  | .loaderChecks | .loaderDigest | .clockPlanLock | .auditStep _ _ => [.regs, .events, .stalls, .net, .fabs, .cfg]
  | .loaderClearDone => [.mem, .memTag, .cfg]
  | .payloadBlock => [.regs, .mem, .memTag, .events, .stalls, .net, .fabs, .cfg]
  | .flitCheckFail _ _ | .flitGrant _ _ | .resend _ _ | .rdata _ | .wack _ | .ack _ | .mdata _ => [.regs, .events, .net]
  | .routeCommit _ _ _ => [.net]
  | .rd _ => [.regs, .events, .net, .hbms]
  | .wr _ _ => [.regs, .mem, .memTag, .host, .hostTag, .events, .net, .hbms]
  | .msg _ => [.free, .regs, .events, .net, .fabs, .links]
  | .mrd _ => [.free, .regs, .latch, .events, .net, .said]
  | .tans _ => [.regs, .mem, .memTag, .stalls, .answers, .tokens]
  | .linkEnable _ _ _ | .linkDisable _ _ _ | .lockTimeout _ | .config _ _ | .control _ _ _ _ | .fp _ _ _ =>
    [.free, .regs, .events, .net, .links]
  | .signalDetected _ _ | .markerLockLoss _ _ | .sleepAck _ | .wakeBurst _ => [.links]
  | .lanesLocked _ _ | .fpSend _ | .sleepIdle _ | .sleepReq _ => [.free, .links]
  | .configTimeout _ | .stepTimeout _ _ | .flit _ _ | .linkWakeTimeout _ => [.regs, .events, .net, .links]
  | .codeword _ _ _ _ => [.free, .regs, .links]
  | .fecInj _ _ _ | .injOne _ _ _ _ => [.free, .regs, .events, .links]
  | .hostLinkDown => [.regs, .events, .hostUp, .speed, .width, .hostWait]
  | .linkDownTimeout => [.regs, .mem, .memTag, .host, .hostTag, .events, .queues, .hostWait]
  | .hostLinkUp _ _ _ =>
    [.regs, .mem, .memTag, .host, .hostTag, .events, .msix, .queues, .said, .doeErr, .hostUp, .speed, .width, .hdm, .hostWait,
    .mx, .errs]
  | .hotReset | .warmReset _ | .selayCoreFault _ =>
    [.free, .regs, .mem, .memTag, .host, .hostTag, .events, .msix, .stalls, .takeQ, .reportQ, .answers, .tokens, .jobs, .queues,
    .faultQ, .net, .hbms, .fabs, .cfg, .sec, .said, .mboxes, .fw, .warms, .mx]
  | .memrd _ => [.regs, .events, .hbms, .said]
  | .memwr _ _ _ _ => [.regs, .mem, .memTag, .host, .hostTag, .events, .msix, .queues, .hbms, .mx, .errs]
  | .claim _ _ | .submit _ _ _ | .release _ _ _ | .identify _ | .ctxRead _ | .engRead _ => [.msix, .mboxes, .mx]
  | .ownerRelease _ _ _ => [.free, .regs, .events, .mboxes]
  | .getVersion _ | .getCapabilities _ | .negotiateAlgorithms _ _ _ | .getDigests _ | .getCertificate _ _ _
  | .keyExchange _ _ | .doeDiscovery _ _ => [.said, .doeErr]
  | .challenge _ _ | .getMeasurements _ _ _ => [.free, .said, .doeErr]
  | .fqConfig _ | .fqStop _ => [.regs, .mem, .memTag, .host, .hostTag, .events, .msix, .queues, .mboxes, .mx]
  | .xlateInval _ => [.msix, .stalls, .bayTlb, .mboxes, .mx]
  | .pageResolved _ => [.msix, .jobs, .mboxes, .mx]
  | .jobAbandon _ => [.regs, .mem, .memTag, .events, .msix, .stalls, .jobs, .mboxes, .mx]
  | .ctxOpen _ | .ctxSet _ | .ctxClose _ => [.mem, .memTag, .msix, .mboxes, .mx, .ctxLost]
  | .batchClass _ => [.regs, .msix, .mboxes, .classes, .mx]
  | .cfgLoad _ => [.regs, .msix, .cfg, .mboxes, .mx]
  | .cfgSession _ | .cfgIsolate _ => [.regs, .mem, .memTag, .events, .msix, .stalls, .net, .fabs, .cfg, .mboxes, .mx]
  | .spdigestSet _ => [.regs, .msix, .mboxes, .mx]
  | .bayFence _ =>
    [.regs, .mem, .memTag, .events, .msix, .fenced, .stalls, .cells, .takeQ, .reportQ, .answers, .tokens, .bayTlb, .jobs,
    .queues, .net, .hbms, .fabs, .cfg, .board, .links, .mboxes, .eng, .mx, .ctxLost]
  | .bayReturn _ _ => [.free, .regs, .mem, .memTag, .events, .msix, .fenced, .net, .hbms, .board, .links, .mboxes, .mx]
  | .engBudget _ => [.msix, .mboxes, .eng, .mx]
  | .lcTransition _ _ => [.free, .regs, .mem, .memTag, .events, .msix, .stalls, .net, .fabs, .cfg, .sec, .mboxes, .mx]
  | .ledgerSample _ _ => [.regs, .eng]
  | .ledgerTick _ | .capSample _ => [.regs, .events, .jobs, .eng]
  | .tickAck _ _ | .vsetWrite _ _ _ => [.free, .regs, .events, .eng]
  | .rateMonitor _ _ => [.regs]
  | .corewarn _ _ | .fabwarn _ _ => [.regs, .events, .jobs, .fabs, .eng]
  | .recover _ _ _ => [.regs, .events, .fabs, .eng]
  | .fuseValue _ _ | .fuseFill _ _ | .fuseRevoke _ _ | .fuseState _ _ | .fuseProgrammed _ | .bkeyStore _ _ | .bkeyZero _ _ =>
    [.free, .regs, .events, .sec]
  | .boot => [.free, .regs, .events, .sec, .fw]
  | .extest | .samplePreload _ => [.free, .regs, .events, .board, .said]
  | .idcode | .bypass | .flashRead _ _ => [.board, .said]
  | .regacc _ _ =>
    [.free, .regs, .latch, .mem, .memTag, .host, .hostTag, .events, .icEdge, .msix, .stalls, .cells, .bayTlb, .jobs, .faultQ,
    .net, .hbms, .fabs, .cfg, .sec, .board, .links, .said, .mboxes, .eng, .mx, .errs]
  | .flashErase _ _ | .flashWrite _ _ _ | .flashComplete | .pushData _ _ _ | .coldStart | .testLogicReset => [.board]
  | .flashStatus _ => [.said]
  | .pushDone _ _ => [.sec, .board]
  | .coldReset _ _ _ =>
    [.free, .regs, .latch, .mem, .memTag, .lcount, .events, .evLost, .icEdge, .msix, .fenced, .stalls, .cells, .takeQ, .reportQ,
    .answers, .tokens, .bayTlb, .jobs, .queues, .faultQ, .net, .hbms, .fabs, .cfg, .sec, .board, .links, .said, .doeErr,
    .hostUp, .speed, .width, .hdm, .mboxes, .fw, .viral, .warms, .accepts, .classes, .eng, .hostWait, .mx, .errs, .ctxLost]
  | .bayPowerOn _ => [.lcount, .hbms, .board]
  | .powerLoss =>
    [.regs, .latch, .mem, .memTag, .lcount, .events, .evLost, .icEdge, .msix, .fenced, .stalls, .cells, .takeQ, .reportQ,
    .answers, .tokens, .bayTlb, .jobs, .queues, .faultQ, .net, .hbms, .fabs, .cfg, .sec, .board, .links, .said, .doeErr,
    .hostUp, .speed, .width, .hdm, .mboxes, .fw, .viral, .warms, .accepts, .classes, .eng, .hostWait, .mx, .errs, .ctxLost]
  | .patternCheck _ _ _ => [.regs, .links]

/-- The stall of a command that changes no other stall. -/
def stallOf : Instr → Option Nat
  | .mpass g | .weightSetRead g | .stagedSetMove g | .frontSwap g _ _ | .epilogueRow g _ _ | .jcommit g | .jcommitComplete g
  | .qrep g | .qrepIteration g | .wload g | .sld g | .sst g | .fxch g | .takeInstruction g | .tprod g | .twait g
  | .watchExpiry g | .watchCtlWrite _ g _ | .writeLand g | .interruptEntry g | .issueTimerExpiry g | .vopAdd g | .vopSub g
  | .vopMul g | .vopMax g | .vopMin g | .vopFma g | .vopBscale g | .vopCvt g | .vopAbs g | .vopNeg g | .vopExp2 g
  | .vopLog2 g | .vopRcp g | .vopRsqrt g | .vopRsum g | .vopRmax g | .vopRmin g | .vopRamax g | .vopScani g | .vopScane g
  | .vopScanmax g | .strArm _ g _ _ | .standbyStart g _ | .walk g _ _ _ | .outboundBeat g _ | .inboundBeat g _ => some g
  | _ => none

/-- Command c ends in a next state of which P holds. -/
def Does (c : Instr) (s : State) (P : State → Prop) : Prop := ∃ t, exec c s = .next t ∧ P t

/-- Two states differ in the listed parts alone. -/
def SameBut (l : List Part) (s t : State) : Prop := ∀ p : Part, p ∉ l → p.same s t

/-- Registers hold what they held, all but those at some offsets. -/
def RegsBut (offs : List Nat) (s t : State) : Prop := ∀ q : RegAt, q.off ∉ offs → t.regAt q = s.regAt q

/-- Master m reaches a word of register r at an offset of its space: the module answers, and the view of the master allows the
access (R42, R43). (DEDUCED, log entry 142). -/
def State.reaches (s : State) (m : Master) (off : Nat) (r : RegAt) (hi write : Bool) : Prop :=
  targetOf m off = .reg r hi ∧ s.responds r.rn.spec.blk = true ∧ (s.view m).may r.rn write = true

/-- The offsets of GLB_VIOL, GLB_VIOL_INFO and GLB_VIOL_COUNT. -/
def violOffs : List Nat := [(RegAt.mk .glbViol 0 0 0).off, (RegAt.mk .glbViolInfo 0 0 0).off, (RegAt.mk .glbViolCount 0 0 0).off]

/-- The record of an access violation by a master of class cls (R495). -/
def violRec (s : State) (m : Master) (off : Nat) (write : Bool) (cause cls : Nat) : EvRec :=
  { code := 0x10 + cause, seq := nextSeq (bits (s.reg .glbViol) 31 24), bay := 32, off := 0x18, time := s.local 32,
    pend := bits (s.reg .glbViol) 23 0 ||| 2 ^ cause, w0 := off % 2 ^ 32,
    w1 := cls * 2 ^ 30 + Master.page m * 2 ^ 18 + b2n write * 2 ^ 17 + bits off 43 32, w2 := 0 }

/-- What an access violation by master m leaves, of cause 0 (PV) or 1 (unmapped) (R44, R495, R496). -/
structure Violated (s t : State) (m : Master) (off : Nat) (write : Bool) (cause : Nat) : Prop where
  rest  : SameBut [.free, .regs, .events, .said] s t
  regs  : RegsBut violOffs s t
  viol  : t.reg .glbViol = evAdvance (s.reg .glbViol) cause
  count : t.reg .glbViolCount = min (2 ^ 32 - 1) (s.reg .glbViolCount + 1)
  info  : ∃ cls < 4, (∀ c, Master.cls m = some c → cls = c) ∧
    t.reg .glbViolInfo = (if bits (s.reg .glbViol) 1 0 = 0 then
      cls * 2 ^ 62 + Master.page m * 2 ^ 50 + b2n write * 2 ^ 49 + cause * 2 ^ 48 + off % 2 ^ 44 else s.reg .glbViolInfo) ∧
    t.events = s.events ++ [violRec s m off write cause cls]
  said  : t.said = if write then s.said else some (.reg m off 0)

/-- The registers whose write does more than to take its RW fields, and those whose fields hold one another's limits. -/
def Rn.acts (r : Rn) : Bool :=
  r.hasAcc .sq || [.glbEvringBase, .glbEvringCtl, .glbEvringTail, .selIcDone, .selIcSignal, .selMsixRaise, .stlWatchCtl,
    .stlWatchDeclare, .tlyArmCmd, .strArm, .hbmSched, .hbmTsetA, .hbmTsetB, .hbmFchg, .fabPllCfg, .fabPllDiv, .fabGclk, .cfgErrpin,
    .cfgLoadCmd, .cfgSession, .nocRouteCmd, .prbTraceCtl, .lnkCtl, .lnkFecInj, .lnkAtt, .lnkLaneCtl, .hstMbOwner, .engTickAck,
    .engBayVset, .engBayVlim, .engBayRateCtl, .engBayDip, .secFuseData, .secBkey, .secFuseProg, .secBkeyCtl].contains r

/-- The control core of stall g runs, and its next bundle, once due writes have landed (state u), is b, which admission accepts. -/
structure State.NextBundle (s : State) (g : Nat) (u : State) (b : Bundle) : Prop where
  run   : (s.stall g).core.run = true
  going : (s.stall g).core.halted = false
  up    : s.stallUp g = true
  range : (s.stall g).core.pc < (s.stall g).core.plen
  landed : u = s.landDue g
  bundle : b = Bundle.of (u.nextWord g)
  ok    : b.ok = true

/-- The commands of the ALU, address and move slots, with their operations (R131, R134, R135). -/
def slotOps (g : StallId) : List (Instr × CoreOp) :=
  [(.nop g, .nop), (.add g, .add), (.sub g, .sub), (.adds g, .adds), (.subs g, .subs), (.and g, .and), (.or g, .or), (.xor g, .xor),
   (.shl g, .shl), (.shr g, .shr), (.sra g, .sra), (.srar g, .srar), (.min g, .min), (.max g, .max), (.slt g, .slt), (.seq g, .seq),
   (.movi g, .movi), (.movh g, .movh), (.mul g, .mul), (.muls g, .muls), (.mulq g, .mulq), (.mac g, .mac), (.msu g, .msu),
   (.macw g, .macw), (.aclr g, .aclr), (.ashr g, .ashr), (.norm g, .norm), (.nshl g, .nshl), (.expx g, .expx), (.expe8 g, .expe8)] ++
  [(.aadd g, .aadd), (.asub g, .asub), (.aaddl g, .aaddl), (.amul16 g, .amul16), (.aelm g, .aelm), (.acmplt g, .acmplt),
   (.mov g, .mov), (.ld g, .ld), (.st g, .st), (.take g, .take)]

/-- The commands of the control operations (R136). -/
def ctlOps (g : StallId) : List (Instr × CtlOp) :=
  [(.br g, .br), (.bz g, .bz), (.bnz g, .bnz), (.bltz g, .bltz), (.loop g, .loop), (.waitt g, .waitt), (.pub g, .pub),
   (.trap g, .trap), (.reti g, .reti), (.halt g, .halt)]

/-- The commands of the vector engine, with their operations (R164). -/
def vecOps (g : StallId) : List (Instr × VOp) :=
  [(.vopAdd g, .add), (.vopSub g, .sub), (.vopMul g, .mul), (.vopMax g, .max), (.vopMin g, .min), (.vopFma g, .fma),
   (.vopBscale g, .bscale), (.vopCvt g, .cvt), (.vopAbs g, .abs), (.vopNeg g, .neg), (.vopExp2 g, .exp2), (.vopLog2 g, .log2),
   (.vopRcp g, .rcp), (.vopRsqrt g, .rsqrt), (.vopRsum g, .rsum), (.vopRmax g, .rmax), (.vopRmin g, .rmin),
   (.vopRamax g, .ramax), (.vopScani g, .scani), (.vopScane g, .scane), (.vopScanmax g, .scanmax)]

/-- The number that a finite value is, and 0 for the others. -/
def Val.rat : Val → ℚ
  | .fin s m e => (if s then -1 else 1) * (m : ℚ) * 2 ^ e
  | _ => 0

/-- A value is finite. -/
def Val.isFin : Val → Bool
  | .fin _ _ _ => true
  | _ => false

/-- Mailbox mb holds the request m for a command that its view may issue, with payload and header of the right form, and firmware
runs (R399, R426). -/
structure State.Asks (s : State) (mb op size : Nat) (all : Bool) (m : Mbox) : Prop where
  box   : m = s.mbox mb
  fw    : s.fw = true
  busy  : m.state = 2
  opc   : m.opc = op
  least : size ≤ m.len
  most  : m.len ≤ 1760
  tail  : m.zeroTail = true
  kept  : m.drop = false
  view  : 8 ≤ mb → all = true

/-- Firmware has answered the request of mailbox mb with a status and a payload, and no other mailbox has changed (R399, R400). -/
structure Answered (s t : State) (mb status : Nat) (bs : List Byte) : Prop where
  state  : (t.mbox mb).state = 3
  owner  : (t.mbox mb).owner = (s.mbox mb).owner
  acount : (t.mbox mb).acount = ((s.mbox mb).acount + 1) % 2 ^ 16
  area   : readBytes (t.mbox mb).ans 0x800 (16 + bs.length) = leBytes 2 (s.mbox mb).opc ++ leBytes 2 status ++
    leBytes 4 (s.mbox mb).tag ++ leBytes 4 bs.length ++ leBytes 4 0 ++ bs
  vector : t.msix.getLast? = some (if mb < 8 then 1 else 2)
  others : ∀ x, x ≠ mb → t.mbox x = s.mbox x

/-- c is the command of mailbox mb with an opcode, and says whether every view may issue it and the least length of its payload
(R427). -/
def MailCmd (mb : MailboxId) (good : Bool) (bad : Option Nat) (c : Instr) (op : Nat) (all : Bool) (size : Nat) : Prop :=
  (c, op, all, size) ∈ ([(.identify mb, 0x01, true, 0), (.fqConfig mb, 0x10, false, 80), (.fqStop mb, 0x11, false, 1), (.xlateInval mb, 0x20, true, 24),
   (.pageResolved mb, 0x21, true, 16), (.jobAbandon mb, 0x22, true, 8), (.ctxOpen mb, 0x30, true, 68), (.ctxSet mb, 0x31, true, 68),
   (.ctxClose mb, 0x32, true, 4), (.ctxRead mb, 0x33, true, 4), (.batchClass mb, 0x34, false, 40), (.cfgLoad mb, 0x40, false, 20),
   (.cfgSession mb, 0x41, false, 1), (.cfgIsolate mb, 0x42, false, 2), (.spdigestSet mb, 0x43, false, 48),
   (.bayFence mb, 0x50, false, 1), (.bayReturn mb good, 0x51, false, 1), (.engBudget mb, 0x60, false, 8), (.engRead mb, 0x61, false, 0),
   (.lcTransition mb bad, 0x70, false, 8), (.warmReset mb, 0x80, false, 0)] : List (Instr × Nat × Bool × Nat))

/-- What every command keeps: the queue, the canonical form, the blown fuses, and the order of the free values. -/
structure State.Keeps (s t : State) : Prop where
  queue : t.pending = s.pending
  canon : s.canonical = true → t.canonical = true
  fuses : s.fusesStay t
  order : s.free ≤ t.free

/-- What every command keeps but those that return a bay, reset the module, remove its power or end a flash operation. -/
structure State.Holds (s t : State) : Prop where
  fences : s.fencesStay t
  straps : t.sec.straps = s.sec.straps
  flash  : t.board.flash = s.board.flash

end Sys2Proof.Machine
end

