-- ==== Sys2Proof/Certificates/Slice0/Obligations.lean ====
section
/-! DEFINITION. The statements for the provers. -/

open Sys2Proof Sys2Proof.Machine

/-- For every command c, state s and queue rest: step of s with c in front of rest is exec of c on s with rest as its queue; on an
empty queue a step is one period of the host reference and never stops (the model's choice, log entry 1). The model's choices it
rests on: log entries 1, 2. -/
def Obligations.StepRunsFront : Prop :=
  (∀ (c : Instr) (rest : List Instr) (s : State),
    step { s with pending := c :: rest } = exec c { s with pending := rest }) ∧
  ∀ s : State, s.pending = [] → step s = .next s.period

/-- Right after reset no command waits, memories list nothing and are in canonical form, every register reads its reset value
(zero where the manual gives none, the model's choice), no bay is fenced, no paddock is released, firmware does not run, and no
link is up. The model's choices it rests on: log entries 9, 10, 11. (R8, R26) -/
def Obligations.ResetStateOfTheModule : Prop :=
  State.reset.pending = [] ∧ State.reset.canonical = true ∧ (∀ r : RegAt, State.reset.regAt r = r.reset) ∧
  (∀ b, State.reset.isFenced b = false ∧ State.reset.local b = 0) ∧ State.reset.fw = false ∧ State.reset.hostUp = false ∧
  (∀ a n, State.reset.poisoned a n = false) ∧ (∀ g, (State.reset.stall g).queue = [] ∧ (State.reset.stall g).core.run = false) ∧
  (∀ k, (State.reset.link k).state = 0) ∧ State.reset.noneReleased = true ∧ State.reset.jobs = [] ∧ State.reset.queues = []

/-- From every state, whatever command runs: memories in canonical form stay so, every blown fuse stays blown (R456), the free-
value counter never falls, and the queue loses its front command and no other; on an empty queue too. The model's choices it rests
on: log entry 9. -/
def Obligations.StepsKeepTheInvariant : Prop :=
  ∀ s t : State, step s = .next t →
    (s.canonical = true → t.canonical = true) ∧ s.fusesStay t ∧ s.free ≤ t.free ∧ t.pending = s.pending.drop 1

/-- Every one of the 306 commands leaves every part of the state that touches does not list for it as it was, and a command of one
stall leaves every other stall as it was. The model's choices it rests on: log entry 6. -/
def Obligations.CommandsChangeOnlyTheirParts : Prop :=
  ∀ (c : Instr) (s t : State), exec c s = .next t →
    SameBut (touches c) s t ∧ ∀ g h, stallOf c = some g → h ≠ g → t.stall h = s.stall h

/-- A fence lasts until the bay is returned or the module is reset; the strap pins are sampled when RST_N is released and at no
other time; the boot flash changes only when an erase or a write completes. The model's choices it rests on: log entries 187, 237,
239. (R31, R481, R483) -/
def Obligations.FencesStrapsAndFlashHold : Prop :=
  ∀ (c : Instr) (s t : State), exec c s = .next t →
    (∀ mb good, c ≠ .bayReturn mb good) → (∀ ns st kept, c ≠ .coldReset ns st kept) → c ≠ .powerLoss →
    s.fencesStay t ∧ t.sec.straps = s.sec.straps ∧ (c ≠ .flashComplete → t.board.flash = s.board.flash)

/-- No command is refused, and none stops, except a row of the control core whose next bundle holds a reserved encoding; admission
refuses such a program (R119), and the fault is the model's. The model's choices it rests on: log entries 3, 8. -/
def Obligations.EveryCommandCompletes : Prop :=
  ∀ (c : Instr) (s : State), (∃ t, exec c s = .next t) ∨
    (exec c s = .fault .reservedBundle ∧ ∃ g : StallId, stallOf c = some g.val ∧ (s.stall g).core.run = true ∧
      (s.stall g).core.halted = false ∧ s.isFenced (g.val / 64) = false)

/-- A 32-bit read of the low word answers it and copies the high word into the shadow of that master; a read of the high word
answers the shadow; a low write goes only into the staging word; a high write commits both words as an aligned 64-bit write would
and reloads the staging word; an aligned access reads or commits both words and leaves shadow and staging word; both are empty
after reset, and no other master's latch changes. (R45) -/
def Obligations.LpRegistersLatchByMaster : Prop :=
  (∀ (m : Master) (off : Nat), State.reset.latchOf m off = { shadow := 0, stage := none }) ∧
  ∀ (m : Master) (off : Nat) (r : RegAt) (v : Word32) (s : State), r.rn.spec.wide = true →
    (s.reaches m off r false false →
      Does (.lpLowRead m off) s fun t => t.said = some (.reg m off (s.shown m r % 2 ^ 32)) ∧
        t.latchOf m r.off = { s.latchOf m r.off with shadow := s.shown m r / 2 ^ 32 } ∧
        ∀ m', m' ≠ m → t.latchOf m' r.off = s.latchOf m' r.off) ∧
    (s.reaches m off r true false → s.busRead m off = (s, some (s.latchOf m r.off).shadow)) ∧
    (s.reaches m off r false true →
      Does (.lpLowWrite m off v) s fun t => SameBut [.latch] s t ∧
        t.latchOf m r.off = { s.latchOf m r.off with stage := some v.toNat } ∧
        ∀ m', m' ≠ m → t.latchOf m' r.off = s.latchOf m' r.off) ∧
    (∀ (low : Nat) (lo : Word32), s.reaches m off r true true → s.reaches m low r false true → low % 8 = 0 →
      ((s.latchOf m r.off).stage.getD (s.regAt r % 2 ^ 32)) = lo.toNat →
      ∃ u, exec (.lpAlignedAccess m low (some (v ++ lo))) s = .next u ∧
        exec (.lpHighWrite m off v) s = .next (u.setLatch m r.off { s.latchOf m r.off with stage := some lo.toNat })) ∧
    (∀ w : Word64, off % 8 = 0 →
      (s.reaches m off r false false → Does (.lpAlignedAccess m off none) s fun t =>
        t.said = some (.reg m off (s.shown m r)) ∧ t.latch = s.latch) ∧
      (s.reaches m off r false true → Does (.lpAlignedAccess m off (some w)) s fun t => t.latch = s.latch))

/-- A write of a register that only holds values gives every RW field the value written (of a route entry the part that its entry
has) unless that value is reserved, leaves every other bit and every other register, and changes nothing but registers;
IC_ROUTE_WRITE is such a write by a Selay core. The model's choices it rests on: log entry 25. (R10, R60) -/
def Obligations.PlainWritesTakeTheirFields : Prop :=
  (∀ (r : RegAt) (s t : State) (v : Nat) (w : Nat), r.rn.acts = false →
    (∃ m off, s.reaches m off r false true ∧
      ((r.rn.spec.wide = false ∧ ∃ x : Word32, x.toNat = v ∧ exec (.registerWrite m off x) s = .next t) ∨
       (r.rn.spec.wide = true ∧ off % 8 = 0 ∧ ∃ x : Word64, x.toNat = v ∧ exec (.lpAlignedAccess m off (some x)) s = .next t))) →
    SameBut [.regs] s t ∧ RegsBut [r.off] s t ∧
    (∀ f ∈ r.rn.spec.flds, f.acc = .rw → bits (t.regAt r) f.hi f.lo =
      if f.least ≤ bits (r.taken v) f.hi f.lo ∧ bits (r.taken v) f.hi f.lo ≤ f.most then bits (r.taken v) f.hi f.lo else bits (s.regAt r) f.hi f.lo) ∧
    ((∀ f ∈ r.rn.spec.flds, f.acc = .rw → w < f.lo ∨ f.hi < w) → bit (t.regAt r) w = bit (s.regAt r) w)) ∧
  (∀ (m : Master) (off : Nat) (r : RegAt) (v : Word32) (w : Word64) (s : State), s.reaches m off r false true →
    (r.rn.spec.wide = false → ∃ t, exec (.registerWrite m off v) s = .next t) ∧
    (off % 8 = 0 → ∃ t, exec (.lpAlignedAccess m off (some w)) s = .next t)) ∧
  (∀ (c : CoreId) (n : Fin 2048) (v : Word32) (s : State), s.responds .sel = true →
    (∀ off, s.reaches (.selay c) off ⟨.selIcRoute, 0, n, 0⟩ false true →
      exec (.icRouteWrite c n v) s = exec (.registerWrite (.selay c) off v) s) ∧
    Does (.icRouteWrite c n v) s fun t => SameBut [.regs] s t ∧ RegsBut [(RegAt.mk .selIcRoute 0 n 0).off] s t ∧
      bit (t.reg .selIcRoute 0 n) 8 = bit v.toNat 8 ∧ bits (t.reg .selIcRoute 0 n) 1 0 = bits v.toNat 1 0)

/-- A write of an event register whose bits 31 to 24 equal the sequence clears the pending bits written as 1 and leaves every
other bit; one whose bits differ changes nothing; a clearing write that follows an event of the same step clears nothing. (R48) -/
def Obligations.EventRegistersClearBySequence : Prop :=
  ∀ (m : Master) (off : Nat) (r : RegAt) (v : Word32) (s : State), s.reaches m off r false true → r.rn.hasAcc .sq = true →
    (Does (.sqClearWrite m off v) s fun t => SameBut [.regs] s t ∧ RegsBut [r.off] s t ∧
      bits (t.regAt r) 31 24 = bits (s.regAt r) 31 24 ∧
      (bits v.toNat 31 24 = bits (s.regAt r) 31 24 → ∀ k < 24, bit (t.regAt r) k = (bit (s.regAt r) k && !bit v.toNat k)) ∧
      (bits v.toNat 31 24 ≠ bits (s.regAt r) 31 24 → t.regAt r = s.regAt r)) ∧
    ∀ (x k : Nat), k < 24 → s.regAt r = evAdvance x k → bits v.toNat 31 24 = bits x 31 24 →
      Does (.sqClearWrite m off v) s fun t => t.regAt r = s.regAt r

/-- Event registers are 32 bits wide with the sequence in bits 31 to 24, which is 0 after reset. An event advances the sequence by
one, 0xFF to 0x01, sets its pending bit and keeps the others, and appends one record that names the register, the sequence, the
bay and its local count. The model's choices it rests on: log entry 12. (R47) -/
def Obligations.EventsAdvanceTheirRegister : Prop :=
  (∀ r : Rn, r.hasAcc .sq = true → r.spec.wide = false ∧ ∀ n i, bits (State.reset.reg r n i) 31 24 = 0) ∧
  (∀ q, nextSeq q = if q = 0xFF then 0x01 else q + 1) ∧
  ∀ (s : State) (r : Rn) (n i k num w0 w1 w2 : Nat), k < 24 →
    let t := s.raise r n k num w0 w1 w2 i
    SameBut [.regs, .events] s t ∧ RegsBut [(RegAt.mk r n i 0).off] s t ∧
    bits (t.reg r n i) 31 24 = nextSeq (bits (s.reg r n i) 31 24) ∧
    (∀ j < 24, bit (t.reg r n i) j = (bit (s.reg r n i) j || j == k)) ∧
    ∃ e : EvRec, t.events = s.events ++ [e] ∧ e.code = r.spec.blk.id * 1024 + num ∧ e.seq = bits (t.reg r n i) 31 24 ∧
      e.bay = r.spec.blk.bayOf n ∧ e.off = (RegAt.mk r n i 0).off ∧ e.time = s.local e.bay ∧ e.pend = bits (t.reg r n i) 23 0

/-- RC_COUNTER_READ answers the counter, leaves it at the increment of the same step (the two halves of a counter of two fields
cleared together), latches the high word before the clear, and changes no other register; a counter stays at its all-ones value; a
write leaves a counter as it was, and so do both writes of a 64-bit one, whose aligned read clears both halves. (R50) -/
def Obligations.CountersClearOnRead : Prop :=
  (∀ (m : Master) (off : Nat) (r : RegAt) (inc : Nat) (s : State), s.reaches m off r false false → r.rn.hasAcc .rc = true →
    Does (.rcCounterRead m off inc) s fun t => SameBut [.regs, .latch, .said] s t ∧ RegsBut [r.off] s t ∧
      t.said = some (.reg m off (s.regAt r % 2 ^ 32)) ∧
      t.regAt r = min (if r.rn.halved then 2 ^ 32 - 1 else r.rn.top) inc ∧
      (r.rn.spec.wide = true → t.latchOf m r.off = { s.latchOf m r.off with shadow := s.regAt r / 2 ^ 32 })) ∧
  (∀ (m : Master) (off : Nat) (r : RegAt) (v : Word32) (s : State), s.reaches m off r false true → r.rn.spec.wide = false →
    r.rn.hasAcc .rc = true →
    Does (.registerWrite m off v) s fun t => SameBut [.regs] s t ∧ RegsBut [r.off] s t ∧ t.regAt r = s.regAt r) ∧
  (∀ (m : Master) (off : Nat) (r : RegAt) (v : Word32) (w : Word64) (s : State), r.rn.hasAcc .rc = true →
    r.rn.spec.wide = true → off % 8 = 0 →
    (s.reaches m off r false false → Does (.lpAlignedAccess m off none) s fun t => SameBut [.regs, .said] s t ∧
      RegsBut [r.off] s t ∧ t.said = some (.reg m off (s.shown m r)) ∧ t.regAt r = 0) ∧
    (s.reaches m off r false true → Does (.lpAlignedAccess m off (some w)) s fun t => SameBut [.regs] s t ∧
      RegsBut [r.off] s t ∧ t.regAt r = s.regAt r) ∧
    (s.reaches m (off + 4) r true true → Does (.lpHighWrite m (off + 4) v) s fun t => SameBut [.regs, .latch] s t ∧
      RegsBut [r.off] s t ∧ t.regAt r = s.regAt r)) ∧
  (∀ (s : State) (r : Rn) (n k i : Nat), (s.count r n k i).reg r n i = min r.top (s.reg r n i + k))

/-- UNMAPPED_ACCESS (nothing at the offset, or a width other than 32 and 64 bits, or a misaligned access) and PRIVILEGE_VIOLATION
answer a read with zero, ignore a write, advance GLB_VIOL, count, record the event, and capture GLB_VIOL_INFO only while neither
pending bit is set; nothing else changes. (R44) -/
def Obligations.ViolationsLeaveOnlyTheirTraces : Prop :=
  ∀ (m : Master) (off width : Nat) (write : Bool) (s : State),
    (targetOf m off = .nothing ∨ (width ≠ 32 ∧ width ≠ 64) ∨ off % (width / 8) ≠ 0 → s.responds .glb = true →
      Does (.unmappedAccess m off write width) s fun t => Violated s t m off write 1) ∧
    (targetOf m off ≠ .nothing → s.responds (targetOf m off).blk = true → s.permits m (targetOf m off) write = false →
      Does (.privilegeViolation m off write) s fun t => Violated s t m off write 0)

/-- AMAX_WRITE stores the written value, and a fold of the same step then leaves the larger of the two; no other register changes.
The model's choices it rests on: log entry 25. (R87) -/
def Obligations.RunningMaximaKeepTheLarger : Prop :=
  (∀ (m : Master) (off : Nat) (r : RegAt) (v : Word32) (fold : Option (BitVec 31)) (s : State), s.reaches m off r false true →
    r.rn.isAmax = true →
    Does (.amaxWrite m off v fold) s fun t => SameBut [.regs] s t ∧ RegsBut [r.off] s t ∧
      bits (t.regAt r) 30 0 = max (bits v.toNat 30 0) ((fold.map BitVec.toNat).getD 0))

/-- A write that sets EN from 0 to 1 makes HEAD and TAIL 0 and takes the LOG2 it carries; one that clears EN keeps HEAD, TAIL and
LOG2; with EN set LOG2 and BASE keep their values; a TAIL past HEAD is ignored and sets GLB_EVENT bit 4, any other TAIL is taken,
HEAD included. The model's choices it rests on: log entry 14. (R54) -/
def Obligations.EventRingControls : Prop :=
  ∀ (m : Master) (v : Word32) (s : State), s.responds .glb = true → (s.view m).may .glbEvringCtl true = true →
    (bit v.toNat 8 = true → bit (s.reg .glbEvringCtl) 8 = false →
      Does (.evringEnable m v) s fun t => SameBut [.regs] s t ∧ RegsBut [0x48, 0x4C, 0x50] s t ∧
        t.reg .glbEvringHead = 0 ∧ t.reg .glbEvringTail = 0 ∧ bit (t.reg .glbEvringCtl) 8 = true ∧
        bit (t.reg .glbEvringCtl) 9 = bit v.toNat 9 ∧
        (6 ≤ bits v.toNat 4 0 → bits v.toNat 4 0 ≤ 16 → bits (t.reg .glbEvringCtl) 4 0 = bits v.toNat 4 0)) ∧
    (bit v.toNat 8 = false → bit (s.reg .glbEvringCtl) 8 = true →
      Does (.evringDisable m v) s fun t => SameBut [.regs] s t ∧ RegsBut [0x48] s t ∧ bit (t.reg .glbEvringCtl) 8 = false ∧
        bits (t.reg .glbEvringCtl) 4 0 = bits (s.reg .glbEvringCtl) 4 0 ∧ bit (t.reg .glbEvringCtl) 9 = bit v.toNat 9) ∧
    (∀ (w : Word64) (off : Nat), bit (s.reg .glbEvringCtl) 8 = true → s.reaches m off ⟨.glbEvringBase, 0, 0, 0⟩ false true →
      off % 8 = 0 → exec (.lpAlignedAccess m off (some w)) s = .next s) ∧
    (∀ (n old head : Nat), n = 2 ^ bits (s.reg .glbEvringCtl) 4 0 → old = s.reg .glbEvringTail → head = s.reg .glbEvringHead →
      bits v.toNat 15 0 < n →
      ((bits v.toNat 15 0 + n - old % n) % n ≤ (head + n - old % n) % n →
        Does (.evringTailWrite m v) s fun t => SameBut [.regs] s t ∧ RegsBut [0x50] s t ∧
          t.reg .glbEvringTail = bits v.toNat 15 0) ∧
      ((head + n - old % n) % n < (bits v.toNat 15 0 + n - old % n) % n →
        Does (.evringTailWrite m v) s fun t => SameBut [.regs, .events] s t ∧ RegsBut [0x10] s t ∧
          t.reg .glbEvent = evAdvance (s.reg .glbEvent) 4))

/-- EVENT_RING_WRITE with the ring on, not full and the CXL link up stores the 32 bytes of the record (code, sequence, bay,
register, time, pending bits, the lost flag, three words) at BASE + 32 HEAD and advances HEAD; no other host byte changes. With
the ring full or off the record is discarded, GLB_EVRING_LOST counts it, GLB_EVENT bit 0 is set and its sequence advances without
a record, and the next record carries the flag. The model's choices it rests on: log entries 12, 13. (R53) -/
def Obligations.RecordsGoToTheRing : Prop :=
  ∀ (s : State) (e : EvRec) (rest : List EvRec) (n head : Nat), s.events = e :: rest →
    n = 2 ^ bits (s.reg .glbEvringCtl) 4 0 → head = s.reg .glbEvringHead →
    (bit (s.reg .glbEvringCtl) 8 = true → (head + 1) % n ≠ s.reg .glbEvringTail % n → s.hostUp = true →
      Does .eventRingWrite s fun t => SameBut [.regs, .host, .hostTag, .events, .evLost, .msix, .mx] s t ∧
        t.events = rest ∧ t.evLost = false ∧ t.reg .glbEvringHead = (head + 1) % n ∧
        t.hread (s.reg .glbEvringBase + 32 * head) 32 =
          leBytes 2 e.code ++ leBytes 1 e.seq ++ leBytes 1 e.bay ++ leBytes 4 e.off ++ leBytes 8 e.time ++ leBytes 3 e.pend ++
            leBytes 1 (if s.evLost then 1 else 0) ++ leBytes 4 e.w0 ++ leBytes 4 e.w1 ++ leBytes 4 e.w2 ∧
        (∀ a, a < s.reg .glbEvringBase + 32 * head ∨ s.reg .glbEvringBase + 32 * head + 32 ≤ a →
          t.hread a 1 = s.hread a 1) ∧
        t.reg .glbEvent = s.reg .glbEvent ∧ t.reg .glbEvringTail = s.reg .glbEvringTail) ∧
    (bit (s.reg .glbEvringCtl) 8 = false ∨ (head + 1) % n = s.reg .glbEvringTail % n →
      Does .eventRingWrite s fun t => SameBut [.regs, .events, .evLost] s t ∧ RegsBut [0x10, 0x54] s t ∧
        t.events = rest ∧ t.evLost = true ∧ t.reg .glbEvringLost = min (2 ^ 32 - 1) (s.reg .glbEvringLost + 1) ∧
        t.reg .glbEvent = evAdvance (s.reg .glbEvent) 0)

/-- An edge (the timer of a core, or a signal from another core) makes its private source pending, and a further edge leaves it
pending; a write of its number to SEL_IC_DONE clears it; a write of the number of a level-sensitive source changes nothing, so the
next read shows the source as it is; a core that signals itself raises nothing. The model's choices it rests on: log entry 15.
(R58) -/
def Obligations.InterruptSourcesOfACore : Prop :=
  (∀ (s : State) (c j : Nat), j < 4 → bit (s.pendPrivate c) j = bit (Tab.get 0 s.icEdge c) j) ∧
  ∀ (c tg : CoreId) (j : Nat) (v : Word32) (s : State),
    (Does (.selayTimer c) s fun t => SameBut [.icEdge] s t ∧
      ∀ x i, bit (Tab.get 0 t.icEdge x) i = (bit (Tab.get 0 s.icEdge x) i || (x == c.val && i == 0))) ∧
    (s.responds .sel = true → bits v.toNat 1 0 = tg.val → c ≠ tg →
      Does (.icSignal c v) s fun t => SameBut [.icEdge] s t ∧
        ∀ x i, bit (Tab.get 0 t.icEdge x) i =
          (bit (Tab.get 0 s.icEdge x) i || (x == tg.val && i == 1 + ((List.range 4).filter (· ≠ tg.val)).idxOf c.val))) ∧
    (s.responds .sel = true → bits v.toNat 1 0 = c.val → exec (.icSignal c v) s = .next s) ∧
    (s.responds .sel = true → bit v.toNat 12 = true → bits v.toNat 11 0 = j → j < 4 →
      Does (.icDone c v) s fun t => SameBut [.icEdge] s t ∧
        ∀ x i, bit (Tab.get 0 t.icEdge x) i = (bit (Tab.get 0 s.icEdge x) i && !(x == c.val && i == j))) ∧
    (s.responds .sel = true → bit v.toNat 12 = false ∨ 4 ≤ bits v.toNat 11 0 → exec (.icDone c v) s = .next s)

/-- MSIX_RAISE with a vector below 68 adds it to the vectors raised, sends its message or, while MSI-X or the vector is masked,
sets its pending bit, and changes nothing else; a greater one raises GLB_EVENT bit 1 with the vector and the core. The model's
choices it rests on: log entry 175. (R61, R495) -/
def Obligations.MsixVectorsAreRaisedInOrder : Prop :=
  ∀ (c : CoreId) (v : Word32) (s : State), s.responds .sel = true →
    (bits v.toNat 6 0 < 68 → Does (.msixRaise c v) s fun t => SameBut [.msix, .mx] s t ∧
      t.msix = s.msix ++ [bits v.toNat 6 0] ∧
      (s.mx.passes (bits v.toNat 6 0) = true → t.mx = { s.mx with sent := s.mx.sent ++ [bits v.toNat 6 0] }) ∧
      (s.mx.passes (bits v.toNat 6 0) = false → t.mx.sent = s.mx.sent ∧
        ∀ x, Tab.get false t.mx.pend x = (Tab.get false s.mx.pend x || x == bits v.toNat 6 0))) ∧
    (68 ≤ bits v.toNat 6 0 → exec (.msixRaise c v) s = .next (s.raise .glbEvent 0 1 0x001 (bits v.toNat 6 0) c.val 0))

/-- TAIL_SNOOP puts the bytes that the host stored into its memory, the tail line among them. Of a queue that the engine watches:
a failed read stops it with cause 3, a TAIL more than the ring ahead of HEAD with cause 1, a CDONE past WRITTEN with cause 2, each
with HST_EVENT bit 0; otherwise TAIL and CDONE are taken and, with no entry waiting, the head line shows HEAD, WRITTEN and the
stop; a queue that is not watched, or that waits for the CXL link, is left alone. The model's choices it rests on: log entries
171, 172, 173. (R392, R393, R395, R430) -/
def Obligations.FeedQueuesReadTheirTail : Prop :=
  ∀ (q : QueueId) (ws : List (Nat × Byte)) (s u : State) (f : FeedQueue), f = s.queue q → u = s.hostStores ws →
    (∀ a n, (∀ w ∈ ws, w.1 < a ∨ a + n ≤ w.1) → u.hread a n = s.hread a n) ∧
    (∀ a v, ws.getLast? = some (a, v) → u.hread a 1 = [v]) ∧
    (s.watches q = false ∨ u.linkWaits f = true → exec (.tailSnoop q ws) s = .next u) ∧
    (s.watches q = true → u.linkWaits f = false → f.en = true →
      (u.ringRead f f.cb 64 = none → Does (.tailSnoop q ws) s fun t => (t.queue q).en = false ∧ (t.queue q).held = none ∧
        (t.queue q).stop = 3 ∧ bit (t.reg .hstEvent) 0 = true ∧ ∀ p, p ≠ q.val → t.queue p = s.queue p) ∧
      (∀ bs tail cdone, u.ringRead f f.cb 64 = some bs → tail = ofLe (bs.take 4) → cdone = ofLe ((bs.drop 4).take 4) →
        (2 ^ f.f < ahead tail f.head → Does (.tailSnoop q ws) s fun t => (t.queue q).en = false ∧ (t.queue q).held = none ∧
          (t.queue q).stop = 1 ∧ (t.queue q).tail = tail ∧ bit (t.reg .hstEvent) 0 = true) ∧
        (ahead tail f.head ≤ 2 ^ f.f → 0 < ahead cdone f.written → ahead cdone f.written < 2 ^ 31 →
          Does (.tailSnoop q ws) s fun t => (t.queue q).en = false ∧ (t.queue q).held = none ∧ (t.queue q).stop = 2 ∧
            bit (t.reg .hstEvent) 0 = true) ∧
        (ahead tail f.head ≤ 2 ^ f.f → ahead cdone f.written = 0 ∨ 2 ^ 31 ≤ ahead cdone f.written → f.waiting = [] →
          Does (.tailSnoop q ws) s fun t => (t.queue q).en = true ∧ (t.queue q).tail = tail ∧ (t.queue q).cdone = cdone ∧
            (t.queue q).head = f.head ∧ (t.queue q).written = f.written ∧ (t.queue q).held = f.held ∧
            (f.hbm = false → t.hread (f.cb + 64) 64 = leBytes 4 f.head ++ leBytes 4 f.written ++ List.replicate 56 0) ∧
            (f.hbm = true → f.cb + 128 ≤ 0x30000000000 → t.read (f.cb + 64) 64 =
              leBytes 4 f.head ++ leBytes 4 f.written ++ List.replicate 56 0)))) ∧
    (s.watches q = true → u.linkWaits f = false → f.en = false → u.ringRead f f.cb 64 = none →
      exec (.tailSnoop q ws) s = .next u)

/-- RECORD_ADMISSION takes the whole record at HEAD of a queue that may decide: a wrong form is refused (a REFUSE journal record
and its entry, no job), a job record whose image passes goes to stages 5 and 6; RECORD_RETEST does the same with the held record.
Refused: no job changes. Held: it waits. Accepted: the slot takes the job with the next generation and the queue's next acceptance
number, and an ACCEPT journal record follows. The model's choices it rests on: log entries 189, 190, 191, 196, 197, 198, 199.
(R405, R410, R411, R413) -/
def Obligations.RecordsAreDecided : Prop :=
  ∀ (q : QueueId) (s : State) (r : CmdRec), s.mayDecide q = true →
    (∀ (bs : List Byte) (n : Nat), (s.queue q).held = none → n = slotsOf (field bs 1 1) → s.readSlots (s.queue q) 0 1 = some (bs.take 64) →
      s.readSlots (s.queue q) 0 n = some bs → 64 ≤ bs.length → n ≤ ahead (s.queue q).tail (s.queue q).head →
      let u := s.ringLines (s.queue q) n
      (∀ k, u.recordForm bs = some k → Does (.recordAdmission q) s fun t => t.jobs = s.jobs ∧ t.accepts = s.accepts ∧
        (t.queue q).jseq = ((s.queue q).jseq + 1) % 2 ^ 32 ∧ (t.queue q).cseq = ((s.queue q).cseq + 1) % 2 ^ 32 ∧
        (t.queue q).aseq = (s.queue q).aseq) ∧
      (∀ im lines, u.recordForm bs = none → field bs 0 1 ≠ 2 → u.imageWaits q (field bs 8 8) (field bs 4 4 != 0) = false →
        u.readImage q (field bs 8 8) (field bs 4 4 != 0) = (.ok im, lines) → im.stage3 = none →
        (u.cacheLines false lines).stage4 q im = none →
        exec (.recordAdmission q) s = .next ((u.cacheLines false lines).settleRecord q
          { bytes := bs, fseq := (u.queue q).head, slots := n, img := im, ctx := none, cls := 0, deadline := field bs 4 4,
            user := field bs 16 8 }))) ∧
    ((s.queue q).held = some r → exec (.recordRetest q) s = .next (s.settleRecord q r) ∧
      (∀ x, s.weigh q r = .refuse x → Does (.recordRetest q) s fun t => t.jobs = s.jobs ∧ (t.queue q).held = none ∧
        (t.queue q).jseq = ((s.queue q).jseq + 1) % 2 ^ 32 ∧ (t.queue q).aseq = (s.queue q).aseq) ∧
      (s.weigh q r = .hold → Does (.recordRetest q) s fun t => SameBut [.queues] s t ∧ t.queue q = s.queue q) ∧
      (∀ charge base pred slot, s.weigh q r = .accept none charge base pred → s.freeSlot = some slot →
        Does (.recordRetest q) s fun t => (t.job slot).live = true ∧ (t.job slot).gen = ((s.job slot).gen + 1) % 256 ∧
          (t.job slot).queue = q.val ∧ (t.job slot).aseq = (s.queue q).aseq ∧ (t.job slot).fseq = r.fseq ∧
          (t.job slot).user = r.user ∧ (t.job slot).order = s.accepts ∧ (t.job slot).img = some r.img ∧
          (t.job slot).pred = pred ∧ (∀ p, charge = some p → (t.job slot).charge = p) ∧ t.accepts = s.accepts + 1 ∧
          (t.queue q).aseq = ((s.queue q).aseq + 1) % 2 ^ 32 ∧ (t.queue q).jseq = ((s.queue q).jseq + 1) % 2 ^ 32 ∧
          (t.queue q).held = none))

/-- BATCH_CLOSE of a due batch makes its first job the runner of every job of it, with their places in order, and leaves no batch
open. JOB_DISPATCH starts the first job in the order of dispatch that may go: its attempts advance, every stall of its placement
gets its instance; a placement that is lost ends it with PLACE_LOST. JOB_RERUN starts a new generation. The model's choices it
rests on: log entries 84, 85, 201, 202, 203, 204. (R214, R216, R234, R421) -/
def Obligations.BatchesCloseAndJobsAreDispatched : Prop :=
  (∀ (q : QueueId) (s : State) (b : OpenBatch) (r : Nat) (rest : List Nat), (s.queue q).batch = some b → b.slots = r :: rest →
    s.fw = true → s.batchDue q b = true → b.slots.Nodup →
    Does (.batchClose q) s fun t => SameBut [.jobs, .queues] s t ∧ (t.queue q).batch = none ∧ (t.job r).batch = b.slots ∧
      ∀ i j, b.slots[i]? = some j → (t.job j).leader = some r ∧ (t.job j).entry = i) ∧
  (∀ (s : State) (r : Nat) (im : Image) (m : List (Nat × Nat)) (on : List (Nat × JList)), s.fw = true →
    (s.job r).img = some im →
    (∀ rest, s.dispatchOrder = r :: rest → s.mayGo r = true →
      (s.placed im = none → Does .jobDispatch s fun t => SameBut [.jobs] s t ∧
        (t.job r).reasons = [{ status := .placeLost }] ∧ (t.job r).abandoned = true ∧ (t.job r).left = []) ∧
      (∀ cells, s.placed im = some (m, on) → s.chooseCells r (s.job r).cells [] im.claims.zipIdx = some cells →
        Does .jobDispatch s fun t => (t.job r).sent = true ∧ (t.job r).cells = cells ∧ (t.job r).stalls = on.map Prod.fst ∧
          (t.job r).left = on.map Prod.fst ∧ (t.job r).attempts = (s.job r).attempts + 1 ∧ (t.job r).gen = (s.job r).gen ∧
          (t.job r).reasons = [] ∧ ∀ x ∈ on, ∃ i ∈ (t.stall x.1).insts, i.slot = r ∧ i.gen = (s.job r).gen)) ∧
    (∀ (slot : Fin 1024) (cells : List (Nat × Nat)), slot.val = r → (s.job r).live = true → (s.job r).rerun = true →
      (s.job r).asking = false → s.faultComing r = false → s.mayGo r = true → s.placed im = some (m, on) →
      s.chooseCells r (s.job r).cells [] im.claims.zipIdx = some cells →
      Does (.jobRerun slot) s fun t => (t.job r).gen = ((s.job r).gen + 1) % 256 ∧ (t.job r).rerun = false ∧
        (t.job r).attempts = (s.job r).attempts + 1 ∧ (t.job r).left = on.map Prod.fst))

/-- FAULT_NOTICE posts the oldest fault record as a FAULT entry of its job, counts it, and drops a record of an instance that is
gone. JOB_COMMIT commits the first accepted job of the queue once it has ended and earlier entries are written: a COMMIT journal
record follows, its slot is free with its generation kept, and no other job of any queue commits; with a job that has not ended,
or a result line that waits for the CXL link, nothing commits; a job with a precise fault is abandoned. The model's choices it
rests on: log entries 207, 208, 209, 210. (R35, R206, R258, R416, R421) -/
def Obligations.FaultsArePostedAndJobsCommitInOrder : Prop :=
  (∀ (s : State) (f : FaultRec) (rest : List FaultRec), s.faultQ = f :: rest → s.fw = true →
    ((s.job f.slot).live = false ∨ (s.job f.slot).gen ≠ f.gen → exec .faultNotice s = .next { s with faultQ := rest }) ∧
    (f.slot ≠ 0x3FF → (s.job f.slot).live = true → (s.job f.slot).gen = f.gen → (s.queue (s.job f.slot).queue).full = false →
      Does .faultNotice s fun t => t.faultQ = rest ∧ (t.job f.slot).faults = (s.job f.slot).faults ++ [f.kind] ∧
        (t.job f.slot).posted = (s.job f.slot).posted + 1 ∧
        (t.queue (s.job f.slot).queue).jseq = ((s.queue (s.job f.slot).queue).jseq + 1) % 2 ^ 32)) ∧
  (∀ (q : QueueId) (s : State) (j : Nat), s.fw = true → s.headJob q = some j →
    (∀ k, (s.job k).abandoned = true ∨ (s.job k).reasons.any Reason.fault = false) →
    (s.jobEnded j = true → (s.queue q).full = false → (s.queue q).waiting = [] → s.resultWaits j = false →
      Does (.jobCommit q) s fun t => t.job j = { gen := (s.job j).gen } ∧
        (t.queue q).jseq = ((s.queue q).jseq + 1) % 2 ^ 32 ∧ (t.queue q).cseq = ((s.queue q).cseq + 1) % 2 ^ 32 ∧
        ∀ k, k ≠ j → (t.job k).live = (s.job k).live) ∧
    (s.jobEnded j = false ∨ s.resultWaits j = true → exec (.jobCommit q) s = .next s)) ∧
  (∀ (q : QueueId) (s : State) (k : Nat), s.fw = true → k ∈ s.live → (s.job k).queue = q.val → (s.job k).sent = true →
    (s.job k).reasons.any Reason.fault = true → (∀ j, (s.job j).batch = []) →
    Does (.jobCommit q) s fun t => (t.job k).abandoned = true ∨ (t.job k).live = false)

/-- An MPASS at the head whose descriptor passes the checks of R97 issues, clears the running maxima it is to clear, and holds the
first weight set in CUR of every active array; one that fails a check faults the instruction with ARR_FAULT and neither reads nor
writes anything else. WEIGHT_SET_READ stages the next set, with zeros past K; STAGED_SET_MOVE puts it into NXT of every active
array once NXT is empty in all of them, and waits until then. The model's choices it rests on: log entry 34. (R97, R99, R100,
R103, R115) -/
def Obligations.PassesStartWithACheckedDescriptor : Prop :=
  ∀ (g : StallId) (s : State),
    (∀ e d, s.headIs g .mpass = some e → (s.stall g).mrun = none → (s.stall g).moving = false →
      d = PassDesc.of (s.read (coreAddr g e.desc) 64) →
      (firstFail d.checks = none → Does (.mpass g) s fun t => SameBut [.regs, .stalls] s t ∧
        (∃ r : MRun, r.e = e ∧ r.d = d ∧ r.staging = none ∧ r.next = 1 ∧ r.units.map ArrayUnit.m = d.m ∧
          (∀ u ∈ r.units, u.acc = [] ∧ u.sums = [] ∧ u.pass = 0 ∧ u.front = 0 ∧ u.epi = 0 ∧
            u.ahead = false ∧ (u.m ≠ 0 → d.k ≠ 0 → u.cur = s.weightRows g d 0 ∧ u.cur.length = 64 ∧ u.nxt.length = 64 ∧
              u.nxtEmpty = true)) ∧
          t.stall g = { (s.stall g).pop e with
            inflight := ((s.stall g).pop e).inflight ++ [{ e := e, seq := (s.stall g).issues }]
            mrun := some r, watch := (t.stall g).watch }) ∧
        (∀ a < 4, t.reg .stlAmaxArr g a = if d.ccw.amaxClr = true ∧ ¬ (d.k = 0 ∧ d.wsup = true) then 0
          else s.reg .stlAmaxArr g a)) ∧
      (∀ n st, firstFail d.checks = some (n, st) → Does (.mpass g) s fun t =>
        SameBut [.regs, .events, .stalls, .jobs] s t ∧ (t.stall g).mrun = none ∧ (e.slot, e.gen) ∈ (t.stall g).faulted ∧
        (∀ a < 4, t.reg .stlAmaxArr g a = s.reg .stlAmaxArr g a) ∧ bit (t.reg .stlArrEvent g) 0 = true ∧
        (∃ x ∈ t.events, x.code % 1024 = 0x110 ∧ x.w0 = g.val ∧ x.w1 = n ∧ x.w2 = e.desc) ∧
        ((s.job e.slot).gen = e.gen → ∃ x ∈ (t.job e.slot).reasons, x.status = st ∧ x.fault = true ∧ x.stall = g.val ∧
          x.idx = e.idx))) ∧
    (∀ r, (s.stall g).mrun = some r → r.staging = none → r.next < r.d.passes →
      exec (.weightSetRead g) s =
        .next (s.setMRun g { r with staging := some (s.weightSet g r.d r.next), next := r.next + 1 })) ∧
    (∀ d p k n, k < 64 → n < d.n → ((s.weightSet g d p).rows.getD k []).getD n {} =
      if 64 * p + k < d.k then
        { s.coreElem g d.sfmt (d.wBase + (64 * p + k) * d.wStride) n with
          v := (expand d.sfmt (s.coreElem g d.sfmt (d.wBase + (64 * p + k) * d.wStride) n).v).2 }
      else {}) ∧
    (∀ r w, (s.stall g).mrun = some r → r.staging = some w →
      (r.units.all (fun u => u.m == 0 || u.nxtEmpty) = true → Does (.stagedSetMove g) s fun t => SameBut [.stalls] s t ∧
        ∃ us : List ArrayUnit, t.stall g = { s.stall g with mrun := some { r with staging := none, units := us } } ∧
          us.length = r.units.length ∧ ∀ (a : Nat) (u : ArrayUnit), r.units[a]? = some u → ∃ v : ArrayUnit, us[a]? = some v ∧ v.cur = u.cur ∧ v.acc = u.acc ∧
            (u.m = 0 → v = u) ∧ (u.m ≠ 0 → v.nxt = w.rows.map some ∧ v.nxt0 = some w.scale0 ∧ v.nxt1 = some w.scale1)) ∧
      (r.units.all (fun u => u.m == 0 || u.nxtEmpty) = false → exec (.stagedSetMove g) s = .next s))

/-- FRONT_SWAP of the row the front stands at adds the row's products to the sums, swaps NXT into CUR and moves the front; the row
groups leave at rows 31 and 63 of a float pass and the INT8 sums at row 63. Without the set of a pass to come it waits and counts.
EPILOGUE_ROW, once every read is done and the row has left, writes the converted elements of the accumulator row and no other
byte, counts poisoned ones and folds the maximum with AMAX_EN. MPASS_COMPLETE ends the instruction, hands over its token and
writes held WLOAD data. Any other front or row is none of theirs. The model's choices it rests on: log entries 30, 32, 33, 34, 35,
36. (R91, R92, R98, R101, R105, R109, R110, R112, R114) -/
def Obligations.FrontsAndEpiloguesRun : Prop :=
  ∀ (g : StallId) (a : UnitId) (row : Fin 64) (s : State),
    ((s.stall g).mrun = none → exec (.frontSwap g a row) s = .next s ∧ exec (.epilogueRow g a row) s = .next s ∧
      exec (.mpassComplete g) s = .next s) ∧
    ∀ (r : MRun) (u : ArrayUnit), (s.stall g).mrun = some r → u = r.units.getD a.val { m := 0 } →
    (u.m = 0 ∨ r.d.passes ≤ u.pass ∨ u.front ≠ row.val → exec (.frontSwap g a row) s = .next s) ∧
    (u.m ≠ 0 → u.pass < r.d.passes → u.front = row.val →
      (u.pass + 1 < r.d.passes → u.nxt.getD row.val none = none → exec (.frontSwap g a row) s = .next (s.count .stlArrWstall g)) ∧
      (r.d.passes ≤ u.pass + 1 ∨ (u.nxt.getD row.val none).isSome = true →
        Does (.frontSwap g a row) s fun t => SameBut [.regs, .events, .stalls] s t ∧
          t.reg .stlArrPasses g = (if row.val = 63 then min (2 ^ 64 - 1) (s.reg .stlArrPasses g + 1) else s.reg .stlArrPasses g) ∧
          ∃ v : ArrayUnit, t.stall g = { s.stall g with mrun := some { r with units := r.units.set a.val v } } ∧ v.m = u.m ∧
            v.epi = u.epi ∧ v.ahead = u.ahead ∧ v.nxt.getD row.val none = none ∧
            (row.val < u.cur.length →
              v.cur.getD row.val [] = (u.nxt.getD row.val none).getD (u.cur.getD row.val [])) ∧
            (∀ i, i ≠ row.val → v.cur.getD i [] = u.cur.getD i [] ∧ v.nxt.getD i none = u.nxt.getD i none) ∧
            v.cur0 = (if row.val = 31 then u.nxt0.getD u.cur0 else u.cur0) ∧
            v.cur1 = (if row.val = 63 then u.nxt1.getD u.cur1 else u.cur1) ∧
            (row.val < 63 → v.front = row.val + 1 ∧ v.pass = u.pass) ∧ (row.val = 63 → v.front = 0 ∧ v.pass = u.pass + 1) ∧
            (u.ahead = true → v.acc = u.acc ∧ v.sums = u.sums) ∧
            (u.ahead = false → r.d.n ≤ 64 → ∀ m n, m < u.m → n < r.d.n →
              let key := m * 64 + n
              let q := (Tab.get {} u.sums key).step r.d.fmt
                (if 64 * u.pass + row.val < r.d.k then
                  s.coreElem g r.d.fmt (r.d.aBase + (a.val * 64 + m) * r.d.aStride) (64 * u.pass + row.val) else {})
                ((u.cur.getD row.val []).getD n {})
              let old := Tab.get {} u.acc key
              let grp := groupValue q (s.actScale g a.val r.d m (2 * u.pass + row.val / 32))
                ((if row.val = 31 then u.cur0 else u.cur1).getD n { v := 0x7F })
              let int := convert .int32 false (q.v.add (Fmt.int32.value old.v)).1
              if row.val = 63 ∧ r.d.isInt = true then Tab.get {} v.sums key = {} ∧
                Tab.get {} v.acc key = if (q.p || old.p) = true then { v := 0, p := true } else { v := int.val, p := false }
              else if (row.val = 31 ∨ row.val = 63) ∧ r.d.isInt = false then Tab.get {} v.sums key = {} ∧
                Tab.get {} v.acc key = if r.d.k ≤ 64 * u.pass + row.val / 32 * 32 then old
                  else if (grp.2 || old.p) = true then { v := 0, p := true }
                  else { v := (add32 (Fmt.fp32.value old.v) (Fmt.fp32.value grp.1.val)).val, p := false }
              else Tab.get {} v.sums key = q ∧ Tab.get {} v.acc key = old))) ∧
    (u.m = 0 ∨ u.epi ≠ row.val ∨ (r.d.k = 0 ∧ r.d.wsup = true) ∨ r.units.all (fun x => x.readDone r.d) = false ∨
        (u.drained r.d = false ∧ u.front ≤ row.val) → exec (.epilogueRow g a row) s = .next s) ∧
    (∀ (us : List ArrayUnit) (z : ArrayUnit), u.m ≠ 0 → u.epi = row.val → ¬ (r.d.k = 0 ∧ r.d.wsup = true) →
      r.units.all (fun x => x.readDone r.d) = true → u.drained r.d = true ∨ row.val < u.front →
      us = (s.unitsAhead g r.d r.units).2 → z = us.getD a.val { m := 0 } →
      us.length = r.units.length ∧
      (∀ (i : Nat) (x : ArrayUnit), r.units[i]? = some x → ∃ y : ArrayUnit, us[i]? = some y ∧ y.m = x.m ∧ y.cur = x.cur ∧ y.front = x.front ∧ y.epi = x.epi ∧
        ((x.drained r.d || x.ahead) = true → y = x) ∧ ((x.drained r.d || x.ahead) = false → y.ahead = true)) ∧
      Does (.epilogueRow g a row) s fun t =>
        let w := r.d.target.width / 8
        let o := r.d.oBase + (a.val * 64 + row.val) * r.d.oStride
        let c (n : Nat) : PVal := Tab.get {} z.acc (row.val * 64 + n)
        let b (n : Nat) : PVal := if r.d.biasEn && !(r.d.isInt && r.d.target == .int32) then r.bias.getD n {} else {}
        let k := if row.val < u.m then r.d.n else 0
        SameBut [.regs, .mem, .memTag, .events, .stalls] s t ∧
        t.stall g = { s.stall g with drain := true, mrun := some { r with units := us.set a.val { z with epi := row.val + 1 } } } ∧
        (∀ n < k, ofLe (t.read (coreAddr g (o + n * w)) w) =
            (if ((c n).p || (b n).p) = true then 0 else (r.d.output (c n) (b n)).1.val % 2 ^ (8 * w)) ∧
          (0 < w → t.poisoned (coreAddr g (o + n * w)) w = ((c n).p || (b n).p))) ∧
        (∀ x, x < coreAddr g o ∨ coreAddr g o + k * w ≤ x →
          Tab.get 0 t.mem x = Tab.get 0 s.mem x ∧ Tab.get false t.memTag x = Tab.get false s.memTag x) ∧
        t.reg .stlArrPoison g = min (2 ^ 32 - 1)
          (s.reg .stlArrPoison g + ((List.range k).filter fun n => (c n).p || (b n).p).length) ∧
        t.reg .stlAmaxArr g a.val = if r.d.ccw.amaxEn = true then
          ((List.range k).filter fun n => !((c n).p || (b n).p)).foldl (fun x n => amaxFold x (r.d.output (c n) (b n)).2)
            (s.reg .stlAmaxArr g a.val) else s.reg .stlAmaxArr g a.val) ∧
    (¬ (r.d.k = 0 ∧ r.d.wsup = true) → r.units.all (fun x => x.m == 0 || x.epi == 64) = false →
      exec (.mpassComplete g) s = .next s) ∧
    ((r.d.k = 0 ∧ r.d.wsup = true) ∨ r.units.all (fun x => x.m == 0 || x.epi == 64) = true →
      Does (.mpassComplete g) s fun t => SameBut [.regs, .mem, .memTag, .stalls, .tokens, .jobs] s t ∧
        (t.stall g).mrun = none ∧ (t.stall g).drain = false ∧
        (t.stall g).inflight = (s.stall g).inflight.filter (fun i => !(i.seq == (s.stall g).seqOf r.e)) ∧
        (r.e.prEn = false → t.tokens = s.tokens) ∧
        (r.e.prEn = true → t.reg .stlTokProd g = min (2 ^ 32 - 1) (s.reg .stlTokProd g + 1) ∧
          ∀ k, (s.job r.e.slot).token g r.e.prTok = some k → k.ckind < 3 →
            t.tokens = s.tokens ++ ((if k.ckind = 2 then (s.job r.e.slot).stalls else [k.cstall]).map fun c =>
              { name := BitVec.ofNat 12 k.name, core := k.ckind == 1, stall := Fin.ofNat 2048 c,
                slot := Fin.ofNat 1024 r.e.slot, gen := BitVec.ofNat 8 r.e.gen, producer := g })) ∧
        (let held (x : Nat) : Prop := ∃ o k e b, o / 64 = g.val / 64 ∧ k < 4 ∧ ((s.stall o).engines.getD k {}).active = some e ∧
            g.val ∈ e.hold ∧ b ∈ e.held ∧ x = coreAddr g b.off
         (∀ x, ¬ held x → Tab.get 0 t.mem x = Tab.get 0 s.mem x ∧ Tab.get false t.memTag x = Tab.get false s.memTag x) ∧
         (∀ o k e b, o / 64 = g.val / 64 → k < 4 → ((s.stall o).engines.getD k {}).active = some e → g.val ∈ e.hold → b ∈ e.held →
           (∀ o' k' e' b', o' / 64 = g.val / 64 → k' < 4 → ((s.stall o').engines.getD k' {}).active = some e' → g.val ∈ e'.hold →
             b' ∈ e'.held → b'.off = b.off → b'.v = b.v ∧ b'.p = b.p) →
           Tab.get 0 t.mem (coreAddr g b.off) = b.v ∧ Tab.get false t.memTag (coreAddr g b.off) = b.p) ∧
         (∀ o k e, o / 64 = g.val / 64 → k < 4 → ((t.stall o).engines.getD k {}).active = some e → g.val ∉ e.hold)))

/-- JBEGIN at a head that may issue starts the control core from its word with every register, accumulator and port zero, clears
the tile buffers and makes the job the running one; JCOMMIT, once nothing is incomplete and the core has halted, sends one
completion report for every map slot with OK answers; JCOMMIT_COMPLETE, once every report is applied, discards and counts waiting
port elements and frees the stall. The model's choices it rests on: log entries 65, 68, 76. (R117, R118, R180, R184, R222, R227)
-/
def Obligations.JobsBeginAndCommitOnAStall : Prop :=
  ∀ (g : StallId) (s : State),
    (∀ e, s.headIs g .jbegin = some e → Does (.jbegin g) s fun t => SameBut [.regs, .stalls, .tokens] s t ∧
      (t.stall g).run = some (e.slot, e.gen) ∧ (t.stall g).core = Core.start e.word (s.reg .ccoCtl g) ∧
      (t.stall g).core.run = true ∧ (t.stall g).core.pc = bits e.word 50 38 ∧ (t.stall g).core.pbase = bits e.word 23 0 ∧
      (t.stall g).core.plen = bits e.word 37 24 ∧ (∀ n, (t.stall g).core.gVal n = {}) ∧
      (∀ i, (t.stall g).core.acc.getD i (0, false) = (0, false)) ∧ (∀ x, Tab.get 0 (t.stall g).vt x = 0) ∧
      (t.stall g).watch.frozen = none ∧ (t.stall g).inflight = (s.stall g).inflight ∧
      (t.stall g).queue = ((s.stall g).pop e).queue ∧ (e.prEn = false → t.tokens = s.tokens)) ∧
    (∀ e, s.headIs g .jcommit = some e →
      ((s.stall g).inflight = [] → (s.stall g).core.halted = true → Does (.jcommit g) s fun t =>
        SameBut [.regs, .stalls, .reportQ] s t ∧
        t.stall g = { (s.stall g).pop e with
          commit := some (e, (s.reportsOf g e.slot e.gen).length), watch := (t.stall g).watch } ∧
        ∀ b, Tab.get [] t.reportQ b = Tab.get [] s.reportQ b ++
          ((s.reportsOf g e.slot e.gen).filter fun x => x.1 == b).map Prod.snd) ∧
      ((s.stall g).inflight ≠ [] ∨ (s.stall g).core.halted = false → exec (.jcommit g) s = .next s)) ∧
    (∀ slot gen i, (s.stall g).insts.find? (fun x => x.slot == slot && x.gen == gen) = some i →
      s.reportsOf g slot gen = (i.map.filter fun m => m.count != 0 && !s.isFenced m.bay).map fun m =>
        (m.bay, { stall := g.val, slot := slot, gen := gen, cell := m.cell, count := m.count, epoch := m.epoch })) ∧
    (∀ e, (s.stall g).commit = some (e, 0) → s.stallUp g = true → Does (.jcommitComplete g) s fun t =>
      SameBut [.regs, .events, .stalls, .jobs] s t ∧ (t.stall g).run = none ∧ (t.stall g).commit = none ∧
      (t.stall g).inBuf = [] ∧ (∀ p, (t.stall g).core.ports.getD p [] = []) ∧
      (t.stall g).insts = (s.stall g).insts.filter (fun i => !(i.slot == e.slot && i.gen == e.gen)) ∧
      (let n := (((s.stall g).core.ports.take 8).map List.length).sum
       t.reg .ccoAsDrop g = if n = 0 then s.reg .ccoAsDrop g else min (2 ^ 32 - 1) (s.reg .ccoAsDrop g + n)) ∧
      ((s.job e.slot).gen = e.gen → (t.job e.slot).left = (s.job e.slot).left.filter (· != g.val)))

/-- QREP makes its block current with no iteration begun; an iteration takes its count and reads the condition word: zero ends the
loop after the block, poison faults it, anything else starts the block. TWAIT takes one count; TPROD produces its token, one
packet for each consumer, once it is the oldest incomplete instruction; TAKE with fewer than four outstanding sends one request to
the serving cell, or is answered FOREIGN where no map slot names its tally. The model's choices it rests on: log entries 66, 67,
77. (R180, R184, R187, R188, R190, R192, R193, R221) -/
def Obligations.RepeatBlocksWaitsAndTakes : Prop :=
  ∀ (g : StallId) (s : State),
    (∀ e, s.headIs g .qrep = some e → Does (.qrep g) s fun t => SameBut [.regs, .stalls] s t ∧
      t.stall g = { (s.stall g).pop e with
        rep := some { e := e, cond := bits e.word 23 0, len := bits e.word 29 24 + 1, left := bits e.word 47 32 + 1, pos := none }
        watch := (t.stall g).watch }) ∧
    (∀ (r : QRep) (x : Stall), (s.stall g).rep = some r → r.pos = none → (r.e.slot, r.e.gen) ∉ (s.stall g).faulted →
      (s.stall g).waitOk r.e = true → s.stallUp g = true →
      x = (if r.e.wtEn then (s.stall g).takeCount r.e.slot false r.e.wtTok else s.stall g) →
      ((s.coreVal g r.cond 4).p = false → (s.coreVal g r.cond 4).v = 0 → Does (.qrepIteration g) s fun t =>
        SameBut [.stalls] s t ∧
        t.stall g = { ({ x with rep := none, queue := x.queue.drop r.len } : Stall).refill with watch := (t.stall g).watch }) ∧
      ((s.coreVal g r.cond 4).p = false → (s.coreVal g r.cond 4).v ≠ 0 → Does (.qrepIteration g) s fun t =>
        SameBut [.stalls] s t ∧ t.stall g = { x with rep := some { r with pos := some 0 }, watch := (t.stall g).watch }) ∧
      ((s.coreVal g r.cond 4).p = true → Does (.qrepIteration g) s fun t =>
        SameBut [.regs, .events, .stalls, .jobs] s t ∧ (t.stall g).rep = some r ∧ (r.e.slot, r.e.gen) ∈ (t.stall g).faulted ∧
        bit (t.reg .stlIqEvent g) 0 = true)) ∧
    (∀ e, s.headIs g .twait = some e → Does (.twait g) s fun t => SameBut [.regs, .stalls] s t ∧
      t.stall g = { (s.stall g).pop e with watch := (t.stall g).watch } ∧
      (e.wtEn = true → (t.stall g).count e.slot false e.wtTok + 1 = (s.stall g).count e.slot false e.wtTok)) ∧
    (∀ e, s.headIs g .tprod = some e → Does (.tprod g) s fun t => SameBut [.regs, .stalls] s t ∧
      t.stall g = { (s.stall g).pop e with
        inflight := ((s.stall g).pop e).inflight ++ [{ e := e, seq := (s.stall g).issues }], watch := (t.stall g).watch }) ∧
    (∀ i rest k, (s.stall g).inflight = i :: rest → i.e.op = some .tprod → s.stallUp g = true → i.e.prEn = true →
      (s.job i.e.slot).token g i.e.prTok = some k → k.ckind < 3 → Does (.tprodProduction g) s fun t =>
        SameBut [.regs, .stalls, .tokens] s t ∧
        (t.stall g).inflight = (s.stall g).inflight.filter (fun j => !(j.seq == i.seq)) ∧
        t.tokens = s.tokens ++ ((if k.ckind = 2 then (s.job i.e.slot).stalls else [k.cstall]).map fun c =>
          { name := BitVec.ofNat 12 k.name, core := k.ckind == 1, stall := Fin.ofNat 2048 c, slot := Fin.ofNat 1024 i.e.slot,
            gen := BitVec.ofNat 8 i.e.gen, producer := g }) ∧
        t.reg .stlTokProd g = min (2 ^ 32 - 1) (s.reg .stlTokProd g + 1)) ∧
    (∀ i rest k, (s.stall g).inflight = i :: rest → i.e.op = some .tprod → s.stallUp g = true → i.e.prEn = true →
      (s.job i.e.slot).token g i.e.prTok = some k → k.ckind = 3 → Does (.tprodProduction g) s fun t => t.tokens = s.tokens ∧
        (t.stall k.cstall).out = (s.stall k.cstall).out ++
          [{ chan := 0, kind := 1, last := false, poison := false, data := leBytes 64 k.name, seq := 0 }]) ∧
    (∀ e, s.headIs g .take = some e → ((s.stall g).inflight.filter fun i => i.e.op == some .take).length < 4 →
      (∀ m : MapSlot, (s.stall g).mapSlot e.slot e.gen (bits e.word 12 0) = some m → s.isFenced m.bay = false →
        Does (.takeInstruction g) s fun t => SameBut [.regs, .stalls, .takeQ] s t ∧
          Tab.get [] t.takeQ m.bay = Tab.get [] s.takeQ m.bay ++ [{
            stall := g.val, queue := true, seq := (s.stall g).issues, slot := e.slot, gen := e.gen,
            tally := bits e.word 12 0, cell := m.cell }] ∧
          ∀ b, b ≠ m.bay → Tab.get [] t.takeQ b = Tab.get [] s.takeQ b) ∧
      ((s.stall g).mapSlot e.slot e.gen (bits e.word 12 0) = none → Does (.takeInstruction g) s fun t =>
        t.takeQ = s.takeQ ∧ t.answers = s.answers ++ [{
          stall := g.val, queue := true, seq := (s.stall g).issues, slot := e.slot, gen := e.gen, answer := answerWord (bits e.word 12 0) 2 0 0xFFFFFFFF }] ∧
        bit (t.reg .tlyEvent (g.val / 64)) 0 = true))

/-- A packet with none of its producer's before it adds one to the consumer's count where the instance is dispatched to the stall
and has not completed its JCOMMIT there, is counted in STL_TOK_STALE and nothing else where it is not, and leaves a count of 65535
and faults the stall where it would pass it. A token beat from the fabric is handed to delivery only for a name of PKIND 2 whose
PSTALL is this stall; otherwise it is counted and raises FABTOK with its reason. The model's choices it rests on: log entries 71,
72, 74, 76. (R195, R197) -/
def Obligations.TokensAreCountedOrDiscarded : Prop :=
  (∀ (p : TokenPkt) (s : State), let g := p.stall.val
    (s.tokens.find? (fun q => q.producer == p.producer && q.stall == p.stall && q.core == p.core) = some p →
      s.isFenced (g / 64) = false →
      ((s.stall g).holds p.slot.val p.gen.toNat = true → (s.stall g).count p.slot.val p.core p.name.toNat < 65535 →
        Does (.token p) s fun t => SameBut [.stalls, .tokens] s t ∧ t.tokens = s.tokens.erase p ∧
          t.stall g = { s.stall g with
            counts := Tab.set 0 (s.stall g).counts (countKey p.slot.val p.core p.name.toNat)
              ((s.stall g).count p.slot.val p.core p.name.toNat + 1)
            watch := (t.stall g).watch } ∧
          (t.stall g).count p.slot.val p.core p.name.toNat = (s.stall g).count p.slot.val p.core p.name.toNat + 1) ∧
      ((s.stall g).holds p.slot.val p.gen.toNat = false → Does (.token p) s fun t => SameBut [.regs, .tokens] s t ∧
        t.tokens = s.tokens.erase p ∧ RegsBut [(RegAt.mk .stlTokStale g 0 0).off] s t ∧
        t.reg .stlTokStale g = min (2 ^ 32 - 1) (s.reg .stlTokStale g + 1)) ∧
      ((s.stall g).holds p.slot.val p.gen.toNat = true → 65535 ≤ (s.stall g).count p.slot.val p.core p.name.toNat →
        Does (.token p) s fun t => SameBut [.regs, .events, .stalls, .tokens, .jobs] s t ∧ t.tokens = s.tokens.erase p ∧
          (t.stall g).counts = (s.stall g).counts ∧ (p.slot.val, p.gen.toNat) ∈ (t.stall g).faulted ∧
          bit (t.reg .stlIqEvent g) 0 = true)) ∧
    (∀ q, s.tokens.find? (fun q => q.producer == p.producer && q.stall == p.stall && q.core == p.core) = some q → q ≠ p →
      exec (.token p) s = .next s)) ∧
  ∀ (g : StallId) (chan : Fin 16) (s : State) (b : PBeat) (rest : List PBeat) (name : Nat),
    Tab.get [] (s.stall g).inBuf chan.val = b :: rest → b.kind = 1 → s.stallUp g = true → name = ofLe b.data % 4096 →
    (∀ slot gen k, (s.stall g).run = some (slot, gen) → (s.job slot).token g name = some k → k.pkind = 2 → k.pstall = g.val →
      k.ckind < 3 → Does (.fabricTokenBeat g chan) s fun t => t.reg .stlTokFabdrop g = s.reg .stlTokFabdrop g ∧
        t.tokens = s.tokens ++ ((if k.ckind = 2 then (s.job slot).stalls else [k.cstall]).map fun c =>
          { name := BitVec.ofNat 12 k.name, core := k.ckind == 1, stall := Fin.ofNat 2048 c, slot := Fin.ofNat 1024 slot,
            gen := BitVec.ofNat 8 gen, producer := g })) ∧
    (∀ slot gen k, (s.stall g).run = some (slot, gen) → (s.job slot).token g name = some k → k.pkind = 2 → k.pstall = g.val →
      k.ckind = 3 → Does (.fabricTokenBeat g chan) s fun t => t.tokens = s.tokens ∧
        t.reg .stlTokFabdrop g = s.reg .stlTokFabdrop g ∧ (t.stall k.cstall).out = (s.stall k.cstall).out ++
          [{ chan := 0, kind := 1, last := false, poison := false, data := leBytes 64 k.name, seq := 0 }]) ∧
    (∀ reason, ((s.stall g).run = none ∧ reason = 3) ∨
      (∃ slot gen, (s.stall g).run = some (slot, gen) ∧ (((s.job slot).token g name = none ∧ reason = 1) ∨
        ∃ k : TokRec, (s.job slot).token g name = some k ∧ (k.pkind ≠ 2 ∨ k.pstall ≠ g.val) ∧ reason = 2)) →
      Does (.fabricTokenBeat g chan) s fun t => t.tokens = s.tokens ∧ (t.stall g).faulted = (s.stall g).faulted ∧
        t.reg .stlTokFabdrop g = min (2 ^ 32 - 1) (s.reg .stlTokFabdrop g + 1) ∧ bit (t.reg .stlIqEvent g) 2 = true ∧
        ∃ x ∈ t.events, x.code % 1024 = 0x142 ∧ x.w0 = g.val ∧ x.w2 = reason * 4096 + name)

/-- WATCH_EXPIRY acts only while the watch is enabled and the quiet has lasted INTERVAL periods: it sets EXPIRED and raises WATCH
in STL_IQ_EVENT and BAY_EVENT in one step. A write of STL_WATCH_CTL takes an INTERVAL of 100000 to 1000000000 only, and restarts
the measurement when it places one or sets EN. STL_WATCH_DECLARE of the running slot records DEADLOCK there; a job is abandoned
once every stall that still holds it has been declared, whether it runs there or waits behind another. The model's choices it
rests on: log entries 69, 70. (R202, R203, R205, R208) -/
def Obligations.TheStallWatch : Prop :=
  ∀ (g : StallId) (s : State),
    (∀ slot gen, (s.stall g).run = some (slot, gen) → (s.stall g).watch.frozen = none → (s.stall g).watch.quiet = true →
      (s.stall g).watch.expired = false → bit (s.reg .stlWatchCtl g) 31 = true → s.stallUp g = true →
      (s.stall g).watch.since + bits (s.reg .stlWatchCtl g) 29 0 ≤ s.local (g.val / 64) →
      Does (.watchExpiry g) s fun t => SameBut [.regs, .events, .stalls] s t ∧
        t.stall g = { s.stall g with watch := { (s.stall g).watch with expired := true } } ∧
        bit (t.reg .stlIqEvent g) 1 = true ∧ bit (t.reg .bayEvent (g.val / 64)) 5 = true ∧
        ∃ x y : EvRec, t.events = s.events ++ [x, y] ∧ x.code % 1024 = 0x141 ∧ y.code % 1024 = 0x005 ∧ x.w0 = g.val ∧
          y.w0 = g.val ∧ x.w1 = slot % 2 ^ 32 ∧ y.w1 = x.w1 ∧ y.w2 = x.w2) ∧
    ((s.stall g).run = none ∨ (s.stall g).watch.quiet = false ∨ (s.stall g).watch.expired = true ∨
      bit (s.reg .stlWatchCtl g) 31 = false ∨
      s.local (g.val / 64) < (s.stall g).watch.since + bits (s.reg .stlWatchCtl g) 29 0 → exec (.watchExpiry g) s = .next s) ∧
    (∀ (m : Master) (off : Nat) (v : Word32), s.reaches m off ⟨.stlWatchCtl, g, 0, 0⟩ false true →
      let ok := 100000 ≤ bits v.toNat 29 0 ∧ bits v.toNat 29 0 ≤ 1000000000
      exec (.watchCtlWrite m g v) s = exec (.registerWrite m off v) s ∧
      Does (.watchCtlWrite m g v) s fun t => SameBut [.regs, .stalls] s t ∧
        RegsBut [(RegAt.mk .stlWatchCtl g 0 0).off] s t ∧ bit (t.reg .stlWatchCtl g) 31 = bit v.toNat 31 ∧
        bits (t.reg .stlWatchCtl g) 29 0 = (if ok then bits v.toNat 29 0 else bits (s.reg .stlWatchCtl g) 29 0) ∧
        t.stall g = { s.stall g with watch := { (s.stall g).watch with
          since := if ok ∨ (bit v.toNat 31 = true ∧ bit (s.reg .stlWatchCtl g) 31 = false) then s.local (g.val / 64)
            else (s.stall g).watch.since } }) ∧
    (∀ (c : CoreId) (v : Word32) (slot : Nat), bits v.toNat 9 0 = slot → s.stallUp g = true →
      Does (.watchDeclare c g v) s fun t =>
        (∀ gen, (s.stall g).run = some (slot, gen) → bit (t.reg .stlIqEvent g) 3 = true ∧
          (∃ x ∈ t.events, x.code % 1024 = 0x143 ∧ x.w0 = g.val ∧ x.w1 = slot) ∧
          ((s.job slot).gen = gen → ∃ x ∈ (t.job slot).reasons, x.status = .deadlock ∧ x.stall = g.val)) ∧
        ((s.job slot).live = true → g.val ∈ (s.job slot).left →
          ((∀ h ∈ (s.job slot).left, h = g.val ∨ h ∈ (s.job slot).declared) → (t.job slot).abandoned = true ∧ (t.job slot).left = []) ∧
          ((∃ h ∈ (s.job slot).left, h ≠ g.val ∧ h ∉ (s.job slot).declared) → SameBut [.regs, .events, .jobs] s t ∧
            (t.job slot).left = (s.job slot).left ∧ ∀ h, h ∈ (t.job slot).declared ↔ h = g.val ∨ h ∈ (s.job slot).declared)) ∧
        ((s.job slot).live = false ∨ g.val ∉ (s.job slot).left → SameBut [.regs, .events, .jobs] s t ∧
          (t.job slot).declared = (s.job slot).declared)) ∧
    (∀ (c : CoreId) (v : Word32), s.stallUp g = false ∨ (((s.stall g).run.map Prod.fst ≠ some (bits v.toNat 9 0)) ∧
        ((s.job (bits v.toNat 9 0)).live = false ∨ g.val ∉ (s.job (bits v.toNat 9 0)).left)) →
      exec (.watchDeclare c g v) s = .next s)

/-- STANDBY_START starts a walk. For a transfer of n bytes that need no conversion, in one far line whose translation the stall
has cached, its row then moves in a period of the stall's port, or with STREAM_COMPLETE at the latest: SLD copies far bytes to the
near place, WLOAD to that place of every stall of MASK, SST copies near bytes to the far place, in device or host memory; FXCH
with DIR 0 puts one beat on its channel and with DIR 1 places the waiting beat. Every other byte is as before. The model's choices
it rests on: log entries 86, 87, 88, 93, 94, 99. (R239, R240, R244, R257, R299, R301) -/
def Obligations.StreamsMoveTheirBytes : Prop :=
  ∀ (g : StallId) (k : UnitId) (s : State) (en : Engine) (x : Transfer) (far near n : Nat) (c rate p : Nat),
    (s.stall g).engines[k.val]? = some en → en.active = some x → x.portEn = false →
    x.d = { fmt := 5, dims := 1, conv := 5, c := c, far := far, near := near, rate := rate, dim := [n - 1, 0, 0, 0, 0]
            stride := [0, 0, 0, 0], npitch := p, rsv := false } →
    1 ≤ n → n ≤ 0x10000 → far % 64 + n ≤ 64 → far < 2 ^ 48 → near + n ≤ 0xE00000 →
    (x.opc ≠ opFxch → x.started = false → (s.stall g).mrun = none → exec (.standbyStart g k) s =
      .next (s.setEngine g k { en with active := some { x with started := true, since := s.local (g.val / 64) } })) ∧
    (x.opc ≠ opFxch → x.started = true → x.done = false → x.row = 0 →
      ∀ (u : State) (host : Bool) (l e pa : Nat), u = (s.moveRow g k).1 → tlbLeaf (s.stall g).tlb x.queue far = some (l, e) →
      (if host then s.hostUp = true else s.isFenced (placeOf pa).bay = false ∧
        ∀ b off, placeOf pa = .hbm b off → (s.hbm b).phase = 0) →
      ((x.opc = opSld ∨ x.opc = opWload) → leafResult l e far .load = .ok host pa →
        (if host then (readTags s.hostTag pa n).any id else s.poisoned pa n) = false →
        (∀ i < 64, (s.stall (g.val / 64 * 64 + i)).mrun = none) →
        let to_ (a : Nat) : Prop := if x.opc = opSld then a = coreAddr g near
          else ∃ i < 64, bit x.mask i = true ∧ a = coreAddr (g.val / 64 * 64 + i) near
        SameBut [.regs, .mem, .memTag, .stalls, .fabs] s u ∧ exec (.streamComplete g k []) s = exec (.streamComplete g k []) u ∧
        (∀ a, to_ a → u.read a n = (if host then s.hread pa n else s.read pa n) ∧ u.poisoned a n = false) ∧
        (∀ y, (∀ a, to_ a → y < a ∨ a + n ≤ y) →
          Tab.get 0 u.mem y = Tab.get 0 s.mem y ∧ Tab.get false u.memTag y = Tab.get false s.memTag y) ∧
        ∃ z : Transfer, ((u.stall g).engine k).active = some z ∧ z.done = true ∧ z.e = x.e ∧ z.hold = x.hold) ∧
      (x.opc = opSst → leafResult l e far .store = .ok host pa → s.poisoned (coreAddr g near) n = false →
        (∀ b off, placeOf pa = .block b off → s.blockIsQueue b off = false) →
        SameBut [.regs, .mem, .memTag, .host, .hostTag, .stalls, .fabs] s u ∧
        exec (.streamComplete g k []) s = exec (.streamComplete g k []) u ∧
        (if host then u.mem = s.mem ∧ u.hread pa n = s.read (coreAddr g near) n ∧
            ∀ y, y < pa ∨ pa + n ≤ y → Tab.get 0 u.host y = Tab.get 0 s.host y
         else u.host = s.host ∧ u.read pa n = s.read (coreAddr g near) n ∧
            ∀ y, y < pa ∨ pa + n ≤ y → Tab.get 0 u.mem y = Tab.get 0 s.mem y) ∧
        ∃ z : Transfer, ((u.stall g).engine k).active = some z ∧ z.done = true ∧ z.e = x.e ∧ z.hold = x.hold)) ∧
    (x.opc = opFxch → x.started = false → (s.stall g).mrun = none → (s.stall g).chanFirst x = true →
      (x.dir = 0 → n ≤ 64 → s.poisoned (coreAddr g near) n = false →
        Does (.standbyStart g k) s fun t => SameBut [.regs, .stalls] s t ∧
          (t.stall g).out = (s.stall g).out ++ [{ chan := x.chan, kind := 0, last := true, poison := false, seq := x.seq
                                                  data := s.read (coreAddr g near) n ++ List.replicate (64 - n) 0 }]) ∧
      (∀ b : PBeat, x.dir = 1 → n ≤ 64 → x.beats = 0 → x.done = false → Tab.get [] (s.stall g).inBuf x.chan = [b] →
        b.kind = 0 → b.poison = false → b.data.length = 64 →
        Does (.standbyStart g k) s fun t => t.read (coreAddr g near) n = b.data.take n ∧
          Tab.get [] (t.stall g).inBuf x.chan = [] ∧
          (∀ y, y < coreAddr g near ∨ coreAddr g near + n ≤ y → Tab.get 0 t.mem y = Tab.get 0 s.mem y) ∧
          ∃ z : Transfer, ((t.stall g).engine k).active = some z ∧ z.done = true ∧ z.e = x.e))

/-- A transfer whose descriptor passes the checks of R242 enters the first empty slot of its engine: in the active one it starts
as STANDBY_START starts it, in the standby one it waits; with both full, or while an MPASS runs, the instruction waits. One that
fails a check faults, and an STR_ARM that fails or finds no slot is refused with REARM. STREAM_COMPLETE frees the active slot,
raises source k and completes the instruction. A walk that ends in a page caches its leaf; a fault is never cached. The model's
choices it rests on: log entries 86, 95, 97, 98. (R242, R244, R245, R246, R252, R255) -/
def Obligations.TransfersTakeTheirSlots : Prop :=
  ∀ (g : StallId) (k : UnitId) (s : State),
    (∀ (c : Instr) (o : Op) (e : QEntry) (x : Transfer),
      (c, o) ∈ [(Instr.sld g, Op.sld), (.sst g, .sst), (.wload g, .wload), (.fxch g, .fxch)] → s.headIs g o = some e →
      k.val = e.unit % 4 →
      x = Transfer.ofInstr e (s.stall g).issues (s.job e.slot).queue (StreamDesc.of (s.read (coreAddr g e.desc) 64)) →
      ((s.stall g).mrun.isSome = true ∨ ((s.stall g).engine k).active.isSome = true ∧ ((s.stall g).engine k).standby.isSome = true →
        exec c s = .next s) ∧
      ((s.stall g).mrun = none →
        (∀ n st, firstFail (x.d.checks x.opc x.dir x.portEn) = some (n, st) → ((s.stall g).engine k).standby = none →
          Does c s fun t => SameBut [.regs, .events, .stalls, .jobs] s t ∧ (t.stall g).engines = (s.stall g).engines ∧
            (e.slot, e.gen) ∈ (t.stall g).faulted ∧
            ((s.job e.slot).gen = e.gen → ∃ r ∈ (t.job e.slot).reasons, r.status = st ∧ r.fault = true ∧ r.stall = g.val)) ∧
        (firstFail (x.d.checks x.opc x.dir x.portEn) = none →
          (((s.stall g).engine k).active = none → ∃ u,
            exec (.standbyStart g k) ((s.issue g e true).setEngine g k { (s.stall g).engine k with active := some x }) = .next u ∧
            exec c s = .next (u.settle g)) ∧
          (((s.stall g).engine k).active.isSome = true → ((s.stall g).engine k).standby = none →
            Does c s fun t => SameBut [.regs, .stalls] s t ∧ t.stall g = { (s.stall g).pop e with
              inflight := ((s.stall g).pop e).inflight ++ [{ e := e, seq := (s.stall g).issues }]
              engines := (s.stall g).engines.set k { (s.stall g).engine k with standby := some x }
              watch := (t.stall g).watch })))) ∧
    (∀ (c : CoreId) (v : Word32) (opc : Nat) (d : StreamDesc), opc = (if bit v.toNat 31 = true then opSst else opSld) →
      d = StreamDesc.of (s.read (coreAddr g (bits v.toNat 23 0)) 64) →
      ((firstFail (d.checks opc 0 false)).isSome = true ∨
          ((s.stall g).engine k).active.isSome = true ∧ ((s.stall g).engine k).standby.isSome = true →
        Does (.strArm c g k v) s fun t => SameBut [.regs, .events] s t ∧ bit (t.reg .strEvent g) 1 = true ∧
          t.reg .strRearms g = min (2 ^ 32 - 1) (s.reg .strRearms g + 1)) ∧
      (firstFail (d.checks opc 0 false) = none → ∃ x : Transfer, x.e = none ∧ x.d = d ∧ x.opc = opc ∧
        x.queue = bits v.toNat 29 24 ∧ x.started = false ∧
        (((s.stall g).engine k).active = none →
          exec (.strArm c g k v) s = exec (.standbyStart g k) (s.setEngine g k { (s.stall g).engine k with active := some x })) ∧
        (((s.stall g).engine k).active.isSome = true → ((s.stall g).engine k).standby = none →
          exec (.strArm c g k v) s = .next (s.setEngine g k { (s.stall g).engine k with standby := some x })))) ∧
    (∀ x : Transfer, (s.stall g).engines.length = 4 → ((s.stall g).engine k).active = some x → x.done = true → x.hold = [] →
      (∀ y : Transfer, ((s.stall g).engine k).standby = some y → y.started = false) →
      ∀ errs, Does (.streamComplete g k errs) s fun t => ((t.stall g).engine k).active = ((s.stall g).engine k).standby ∧
        ((t.stall g).engine k).standby = none ∧ (t.stall g).core.irqEdge = (s.stall g).core.irqEdge ||| 2 ^ k.val ∧
        (t.stall g).inflight = (match x.e with
          | some _ => (s.stall g).inflight.filter fun i => !(i.seq == x.seq)
          | none => (s.stall g).inflight) ∧
        ((∀ e, x.e = some e → e.prEn = false) → t.tokens = s.tokens)) ∧
    (∀ (q : QueueId) (va : BitVec 48) (acc : Access), s.stallUp g = true →
      ((tlbLeaf (s.stall g).tlb q va.toNat).isSome = true → exec (.walk g q va acc) s = .next s) ∧
      (tlbLeaf (s.stall g).tlb q va.toNat = none → tlbLeaf (Tab.get [] s.bayTlb (g.val / 64)) q va.toNat = none →
        Does (.walk g q va acc) s fun t => SameBut [.regs, .stalls, .bayTlb] s t ∧
          t.reg .strWalks g = min (2 ^ 32 - 1) (s.reg .strWalks g + 1) ∧
          (∀ h pa, (s.walk (Tab.get [] s.bayTlb (g.val / 64)) q va.toNat acc).1 = .ok h pa →
            ∃ y ∈ (t.stall g).tlb, y.queue = q.val ∧ bit y.entry 3 = true ∧ y.vpn = va.toNat / 2 ^ levelShift y.level ∧
              leafResult y.level y.entry va.toNat acc = .ok h pa) ∧
          (∀ kind l, (s.walk (Tab.get [] s.bayTlb (g.val / 64)) q va.toNat acc).1 = .fault kind l → SameBut [.regs] s t)))

/-- Arming copies the range, advances EPOCH, zeroes TAKEN and DONE and records the owner; a BASE above LIMIT changes no cell and
raises ARMERR. The oldest request of a bay is answered OK with NEXT to an owner of an armed cell, which then advances, EXHAUSTED
to an owner of an exhausted one, FOREIGN otherwise. A report of the cell's epoch adds to DONE, any other is late. Release sets
STATE to 0 and checks coverage only where the instance completed. No other cell changes. The model's choices it rests on: log
entries 77, 78, 80. (R217, R218, R219, R222, R223, R237) -/
def Obligations.TalliesHandOutEachIndexOnce : Prop :=
  ∀ (b : BayId) (s : State),
    (∀ (c : CoreId) (v : Word32), bits v.toNat 31 30 = 1 →
      (bits (s.reg .tlyArmRange b) 31 0 ≤ bits (s.reg .tlyArmRange b) 63 32 → Does (.tallyArm c b v) s fun t =>
        SameBut [.cells] s t ∧ t.cell b (bits v.toNat 7 0) =
          { state := if bits (s.reg .tlyArmRange b) 63 32 = bits (s.reg .tlyArmRange b) 31 0 then 2 else 1
            cover := bit v.toNat 29, job := bits v.toNat 20 11, gen := bits v.toNat 28 21
            epoch := ((s.cell b (bits v.toNat 7 0)).epoch + 1) % 65536, base := bits (s.reg .tlyArmRange b) 31 0
            limit := bits (s.reg .tlyArmRange b) 63 32, next := bits (s.reg .tlyArmRange b) 31 0, taken := 0, done := 0 } ∧
        ∀ x, x ≠ b.val * 256 + bits v.toNat 7 0 → Tab.get {} t.cells x = Tab.get {} s.cells x) ∧
      (bits (s.reg .tlyArmRange b) 63 32 < bits (s.reg .tlyArmRange b) 31 0 → Does (.tallyArm c b v) s fun t =>
        SameBut [.regs, .events] s t ∧ bit (t.reg .tlyEvent b) 3 = true)) ∧
    (∀ (c : CoreId) (v : Word32), bits v.toNat 31 30 = 2 → Does (.tallyRelease c b v) s fun t => SameBut [.cells] s t ∧
      t.cell b (bits v.toNat 7 0) = { s.cell b (bits v.toNat 7 0) with state := 0 } ∧
      ∀ x, x ≠ b.val * 256 + bits v.toNat 7 0 → Tab.get {} t.cells x = Tab.get {} s.cells x) ∧
    (∀ (r : TakeReq) (rest : List TakeReq) (x : Cell), Tab.get [] s.takeQ b.val = r :: rest → s.isFenced b = false →
      x = s.cell b r.cell → Does (.takeNext b) s fun t => SameBut [.regs, .events, .cells, .takeQ, .answers] s t ∧
        Tab.get [] t.takeQ b.val = rest ∧ t.reg .tlyTakes b = min (2 ^ 64 - 1) (s.reg .tlyTakes b + 1) ∧
        (∀ y, y ≠ b.val * 256 + r.cell → Tab.get {} t.cells y = Tab.get {} s.cells y) ∧
        ∃ status index, t.answers = s.answers ++ [{ stall := r.stall, queue := r.queue, seq := r.seq, slot := r.slot
                                                    gen := r.gen, answer := answerWord r.tally status x.epoch index }] ∧
          (x.state = 1 → x.job = r.slot → x.gen = r.gen → status = 0 ∧ index = x.next ∧ t.cell b r.cell =
            { x with next := x.next + 1, taken := x.taken + 1, state := if x.next + 1 = x.limit then 2 else 1 }) ∧
          (x.state = 2 → x.job = r.slot → x.gen = r.gen → status = 1 ∧ index = 0xFFFFFFFF ∧ t.cell b r.cell = x) ∧
          (x.state = 0 ∨ x.job ≠ r.slot ∨ x.gen ≠ r.gen → status = 2 ∧ index = 0xFFFFFFFF ∧ t.cell b r.cell = x ∧
            bit (t.reg .tlyEvent b) 0 = true) ∧
          (status ≠ 2 → t.events = s.events)) ∧
    (∀ (r : Report) (rest : List Report) (x : Cell), Tab.get [] s.reportQ b.val = r :: rest → s.isFenced b = false →
      x = s.cell b r.cell → Does (.report b) s fun t => SameBut [.regs, .events, .stalls, .cells, .reportQ] s t ∧
        Tab.get [] t.reportQ b.val = rest ∧
        (x.epoch = r.epoch → x.state ≠ 0 → t.cell b r.cell = { x with done := x.done + r.count } ∧ SameBut [.stalls, .cells, .reportQ] s t ∧
          ∀ y, y ≠ b.val * 256 + r.cell → Tab.get {} t.cells y = Tab.get {} s.cells y) ∧
        (x.epoch ≠ r.epoch ∨ x.state = 0 → t.cells = s.cells ∧ bit (t.reg .tlyEvent b) 1 = true ∧
          t.reg .tlyLate b = min (2 ^ 32 - 1) (s.reg .tlyLate b + r.count)) ∧
        (∀ e n, (s.stall r.stall).commit = some (e, n) → e.slot = r.slot → e.gen = r.gen →
          t.stall r.stall = { s.stall r.stall with commit := some (e, n - 1) })) ∧
    (∀ (cell : Fin 256) (x : Cell) (j : Job), x = s.cell b cell → j = s.job x.job → x.state ≠ 0 →
      ((j.gen ≠ x.gen ∨ j.abandoned = true) → Does (.cellRelease b cell) s fun t => SameBut [.cells] s t ∧
        t.cell b cell = { x with state := 0 }) ∧
      (j.gen = x.gen → j.abandoned = false → j.left = [] → Does (.cellRelease b cell) s fun t =>
        SameBut [.regs, .events, .cells, .jobs] s t ∧ t.cell b cell = { x with state := 0 } ∧
        (∀ y, y ≠ b.val * 256 + cell.val → Tab.get {} t.cells y = Tab.get {} s.cells y) ∧
        (x.cover = true → (x.next < x.limit ∨ x.done ≠ x.taken) → bit (t.reg .tlyEvent b) 2 = true ∧
          ∃ r ∈ (t.job x.job).reasons, r.status = .tallyShort) ∧
        (x.cover = false ∨ (x.limit ≤ x.next ∧ x.done = x.taken) → SameBut [.cells] s t)) ∧
      (j.gen = x.gen → j.abandoned = false → j.left ≠ [] → exec (.cellRelease b cell) s = .next s))

/-- The oldest answer for a stall whose job still runs there counts in its map slot when it is OK; one for the queue is written,
eight bytes at DEST, and completes its TAKE; one for the control core enters its answer queue; one for another slot or generation
is discarded with no other effect. The model's choices it rests on: log entry 77. (R220, R221, R222) -/
def Obligations.TallyAnswersReachTheirStall : Prop :=
  (∀ (g : StallId) (s : State), s.answers.find? (fun x => x.stall == g.val) = none → exec (.tans g) s = .next s) ∧
  ∀ (g : StallId) (s : State) (a : TakeAns), s.answers.find? (fun x => x.stall == g.val) = some a →
    ((s.stall g).run ≠ some (a.slot, a.gen) → Does (.tans g) s fun t => SameBut [.answers] s t ∧ t.answers = s.answers.erase a) ∧
    ((s.stall g).run = some (a.slot, a.gen) → ∀ x : Stall,
      x = (if bits a.answer 50 48 = 0 then
        (s.stall g).countTake a.slot a.gen (bits a.answer 63 51) (bits a.answer 47 32) else s.stall g) →
      (a.queue = true → (s.stall g).inflight.find? (fun i => i.seq == a.seq) = none →
        Does (.tans g) s fun t => SameBut [.stalls, .answers] s t ∧ t.answers = s.answers.erase a ∧
          t.stall g = { x with watch := (t.stall g).watch }) ∧
      (∀ i, a.queue = true → (s.stall g).inflight.find? (fun i => i.seq == a.seq) = some i →
        Does (.tans g) s fun t => SameBut [.regs, .mem, .memTag, .stalls, .answers, .tokens] s t ∧ t.answers = s.answers.erase a ∧
          ofLe (t.read (coreAddr g (bits i.e.word 47 24)) 8) = a.answer % 2 ^ 64 ∧
          t.poisoned (coreAddr g (bits i.e.word 47 24)) 8 = false ∧
          (∀ y, y < coreAddr g (bits i.e.word 47 24) ∨ coreAddr g (bits i.e.word 47 24) + 8 ≤ y →
            Tab.get 0 t.mem y = Tab.get 0 s.mem y ∧ Tab.get false t.memTag y = Tab.get false s.memTag y) ∧
          (i.e.prEn = false → t.regs = s.regs ∧ t.tokens = s.tokens ∧
            t.stall g = { x with inflight := x.inflight.filter (fun j => !(j.seq == i.seq)), watch := (t.stall g).watch })) ∧
      (a.queue = false → Does (.tans g) s fun t => SameBut [.stalls, .answers] s t ∧ t.answers = s.answers.erase a ∧
        t.stall g = { x with core := { x.core with tally := fillTake a.seq a.answer x.core.tally }, watch := (t.stall g).watch })) ∧
    (∀ i m, i ∈ (s.stall g).insts → i.slot = a.slot → i.gen = a.gen → m ∈ i.map → m.tally = bits a.answer 63 51 →
      bits a.answer 50 48 = 0 → (s.stall g).run = some (a.slot, a.gen) → Does (.tans g) s fun t =>
        ∃ j ∈ (t.stall g).insts, j.slot = i.slot ∧ j.gen = i.gen ∧
          { m with count := m.count + 1, epoch := bits a.answer 47 32 } ∈ j.map)

/-- For words a and b the result each operation carries, and whether it sets SAT: wrapping, saturating, logical and shift
operations, rounded shifts and products, comparisons, MOVI, MOVH, accumulator products, ASHR, NORM, NSHL, EXPX, EXPE8, and the
address operations, as the operation tables give them. The model's choices it rests on: log entry 39. (R129, R131, R132, R133,
R134) -/
def Obligations.CoreOperationsComputeTheirResults : Prop :=
  ∀ (a b : Word32) (x : Slot),
    let A : Opd := { v := a.toNat }
    let B : Opd := { v := b.toNat }
    let n := b.toNat % 32
    let word (r : Word32) : Int × Bool := ((r.toNat : Int), false)
    let sat (r : Int) : Int × Bool :=
      (((BitVec.ofInt 32 (max (-2 ^ 31) (min (2 ^ 31 - 1) r))).toNat : Int), decide (r < -2 ^ 31 ∨ 2 ^ 31 - 1 < r))
    (CoreOp.add.result A B x = word (a + b) ∧ CoreOp.aadd.result A B x = word (a + b) ∧ CoreOp.sub.result A B x = word (a - b) ∧
      CoreOp.asub.result A B x = word (a - b) ∧ CoreOp.mul.result A B x = word (a * b) ∧
      CoreOp.and.result A B x = word (a &&& b) ∧ CoreOp.or.result A B x = word (a ||| b) ∧
      CoreOp.xor.result A B x = word (a ^^^ b) ∧ CoreOp.shl.result A B x = word (a <<< n) ∧
      CoreOp.shr.result A B x = word (a >>> n) ∧ CoreOp.sra.result A B x = word (a.sshiftRight n) ∧
      CoreOp.min.result A B x = word (if a.toInt ≤ b.toInt then a else b) ∧
      CoreOp.max.result A B x = word (if a.toInt ≤ b.toInt then b else a) ∧
      CoreOp.slt.result A B x = word (if a.toInt < b.toInt then 1 else 0) ∧ CoreOp.seq.result A B x = word (if a = b then 1 else 0) ∧
      CoreOp.acmplt.result A B x = word (if a.toNat < b.toNat then 1 else 0) ∧
      CoreOp.aaddl.result A B x = word (a + b <<< 6) ∧
      CoreOp.amul16.result A B x = word ((a &&& 0xFFFF) * (b &&& 0xFFFF))) ∧
    (CoreOp.adds.result A B x = sat (a.toInt + b.toInt) ∧ CoreOp.subs.result A B x = sat (a.toInt - b.toInt) ∧
      CoreOp.muls.result A B x = sat (a.toInt * b.toInt) ∧ CoreOp.mulq.result A B x = sat ((a.toInt * b.toInt + 2 ^ 30) / 2 ^ 31) ∧
      CoreOp.srar.result A B x =
        word (if n = 0 then a else BitVec.ofInt 32 ((a.toInt + (2 ^ (n - 1) : Nat)) / (2 ^ n : Nat)))) ∧
    (CoreOp.mac.result A B x = ((a.setWidth 16).toInt * (b.setWidth 16).toInt, false) ∧
      CoreOp.msu.result A B x = (-((a.setWidth 16).toInt * (b.setWidth 16).toInt), false) ∧
      CoreOp.macw.result A B x = (a.toInt * b.toInt, false) ∧ CoreOp.aclr.result A B x = (a.toInt, false) ∧
      CoreOp.movi.result A B x = (((x.s1 * 256 + x.s2 : Nat) : Int), false) ∧ CoreOp.movh.result A B x = (((x.s1 * 256 + x.s2 : Nat) : Int), false) ∧
      CoreOp.mov.result A B x = (if x.dst / 64 = 1 then (a.toInt, false) else word a) ∧
      CoreOp.aelm.result A B x = (((bits b.toNat 6 6 * 2 ^ 31 + bits b.toNat 5 0 * 2 ^ 25 +
        (if 2 ^ 25 ≤ a.toNat then 0x1FFFFFF else a.toNat) : Nat) : Int), decide (2 ^ 25 ≤ a.toNat))) ∧
    (∀ w : Int, -2 ^ 39 ≤ w → w < 2 ^ 39 →
      let W : Opd := { v := ofSigned 32 w, wide := some w }
      let k := min (b.toNat % 64) 39
      let r := (CoreOp.norm.result W B x).1;
      CoreOp.ashr.result W B x = (if k = 0 then sat w else sat ((w + (2 ^ (k - 1) : Nat)) / (2 ^ k : Nat))) ∧
      (0 ≤ r ∧ r ≤ 39 ∧ -2 ^ (39 - r.toNat) ≤ w ∧ w < 2 ^ (39 - r.toNat) ∧
        (r < 39 → w < -2 ^ (38 - r.toNat) ∨ 2 ^ (38 - r.toNat) ≤ w)) ∧
      CoreOp.nshl.result W B x = (((bits ((w * 2 ^ r.toNat) % 2 ^ 40).toNat 39 8 : Nat) : Int), false)) ∧
    (let r := (CoreOp.norm.result A B x).1;
      (0 ≤ r ∧ r ≤ 31 ∧ -2 ^ (31 - r.toNat) ≤ a.toInt ∧ a.toInt < 2 ^ (31 - r.toNat) ∧
        (r < 31 → a.toInt < -2 ^ (30 - r.toNat) ∨ 2 ^ (30 - r.toNat) ≤ a.toInt)) ∧
      CoreOp.nshl.result A B x = word (a <<< r.toNat)) ∧
    (let e := bits a.toNat 30 23;
      let m := bits a.toNat 22 0;
      (e = 255 → CoreOp.expx.result A B x = word 128) ∧ (1 ≤ e → e ≤ 254 → CoreOp.expx.result A B x = word (BitVec.ofInt 32 ((e : Int) - 127))) ∧
      (e = 0 → m = 0 → CoreOp.expx.result A B x = word (BitVec.ofInt 32 (-150))) ∧
      (∀ p : Nat, e = 0 → 2 ^ p ≤ m → m < 2 ^ (p + 1) → CoreOp.expx.result A B x = word (BitVec.ofInt 32 ((p : Int) - 149)))) ∧
    (b.toNat ∉ [1, 2, 3, 4, 7] → CoreOp.expe8.result A B x = (0xFF, false)) ∧
    (∀ f : Fmt, b.toNat ∈ [1, 2, 3, 4, 7] → Fmt.ofCode b.toNat = some f →
      (∀ z, Fmt.fp32.value a.toNat = .nan z → CoreOp.expe8.result A B x = (0xFF, false)) ∧
      (∀ z, Fmt.fp32.value a.toNat = .inf z → CoreOp.expe8.result A B x = (0xFE, true)) ∧
      (∀ z m e, Fmt.fp32.value a.toNat = .fin z m e →
        (m = 0 → CoreOp.expe8.result A B x = (0x7F, false)) ∧
        (m ≠ 0 → ∃ k : Int, (m : ℚ) * 2 ^ e ≤ (f.largest.1 : ℚ) * 2 ^ (f.largest.2 + k) ∧
          (f.largest.1 : ℚ) * 2 ^ (f.largest.2 + k - 1) < (m : ℚ) * 2 ^ e ∧
          CoreOp.expe8.result A B x =
            if 127 + k < 0 then (0, true) else if 0xFE < 127 + k then (0xFE, true) else (127 + k, false))))

/-- For each of the 40 slot operations: where the next bundle holds it and no check stops the bundle, the bundle issues:
CCO_ISSUED and CCO_BUSCONF count, no register, accumulator or memory byte changes yet, and the writes in flight of the context
each come one step nearer, followed by one new write for each active slot with its destination, its result and its latency less
one. A bundle that must wait stays where it is. The model's choices it rests on: log entries 39, 40, 41, 42. (R119, R124, R130,
R135, R138, R150, R156) -/
def Obligations.CoreWritesEnterFlight : Prop :=
  ∀ (g : StallId) (s u : State) (b : Bundle) (c : Instr) (o : CoreOp),
    (c, o) ∈ slotOps g → s.NextBundle g u b → b.has o = true →
    let q := (u.stall g).core
    (∀ outs, u.verdict g b = .go outs → b.ctrl ≠ some .halt → b.ctrl ≠ some .reti →
      Does c s fun t => t.mem = u.mem ∧ t.memTag = u.memTag ∧ (t.stall g).core.g = q.g ∧ (t.stall g).core.acc = q.acc ∧
        (t.stall g).core.sbStage = q.sbStage ∧ (t.stall g).core.ports = q.ports ∧
        t.reg .ccoIssued g = min (2 ^ 64 - 1) (u.reg .ccoIssued g + 1) ∧
        t.reg .ccoBusconf g = min (2 ^ 32 - 1) (u.reg .ccoBusconf g + (busLosers (q.fields b)).length) ∧
        (∃ new : List CWrite, (t.stall g).core.own = q.own.map (fun w => { w with left := w.left - 1 }) ++ new ∧
          new.length = (q.active b).length ∧
          ∀ (j i : Nat) (p : CoreOp) (x : Slot), (q.active b)[j]? = some (i, p, x) →
            let A := u.operand g (q.fields b) i 1
            let B := u.operand g (q.fields b) i 2
            let bad := (decide (1 ≤ p.reads) && A.p) || (decide (2 ≤ p.reads) && B.p)
            (p ≠ .ld → p ≠ .st → p ≠ .take → ∃ kind, new[j]? =
              some { dest := q.destOf x.dst, kind := kind, v := (p.result A B x).1, p := bad, left := p.latency - 1 }) ∧
            (p = .ld → (A.v + B.v) % 2 ^ 32 / 4 * 4 < 0xE00000 ∧ new[j]? = some {
                dest := q.destOf x.dst, kind := .set, v := (u.coreVal g ((A.v + B.v) % 2 ^ 32 / 4 * 4) 4).v
                p := (u.coreVal g ((A.v + B.v) % 2 ^ 32 / 4 * 4) 4).p, left := 3 }) ∧
            (p = .st → A.v / 4 * 4 < 0xE00000 ∧
              new[j]? = some { dest := .mem (A.v / 4 * 4), kind := .set, v := B.v, p := B.p, left := 1 }) ∧
            (p = .take → A.v < 8192 ∧ new[j]? = some { dest := .take, kind := .set, v := A.v, p := false, left := 0 })) ∧
        (b.ctrl = some .none → q.loops = [] → (t.stall g).core.pc = q.pc + 1 ∧ (t.stall g).core.rrb = q.rrb)) ∧
    (u.verdict g b = .wait → Does c s fun t => SameBut [.stalls] u t ∧
      t.stall g = { u.stall g with watch := (t.stall g).watch }) ∧
    (∀ cause i d, u.verdict g b = .fault cause i d → Does c s fun t => (t.stall g).core.run = false ∧
      (t.stall g).core.halted = true ∧ (t.stall g).core.pc = q.pc ∧ bit (t.reg .ccoEvent g) 0 = true ∧
      (bit (u.reg .ccoEvent g) 0 = false → bits (t.reg .ccoFault g) 12 0 = q.pc % 8192))

/-- Where the next bundle holds a control operation and issues: a taken branch goes to CIMM and ends the loops that do not hold
it; LOOP starts its first iteration, or passes the body for a count of 0; WAITT takes one count; PUB copies the staging set whole;
TRAP raises CCO_TRAP and goes on; RETI gives back the names g0 to g15, the loops and the saved index once no handler write is in
flight; HALT stops the core at its bundle once nothing is in flight. The model's choices it rests on: log entries 43, 44, 45, 47,
48. (R120, R136, R137, R142, R145, R149, R155, R157) -/
def Obligations.ControlOperationsSteerTheCore : Prop :=
  ∀ (g : StallId) (s u : State) (b : Bundle) (c : Instr) (o : CtlOp) (outs : List SlotOut),
    (c, o) ∈ ctlOps g → s.NextBundle g u b → b.ctrl = some o → u.verdict g b = .go outs →
    let q := (u.stall g).core
    let v := (q.gVal b.creg).v
    Does c s fun t =>
      (o = .br ∨ (o = .bz ∧ v = 0) ∨ (o = .bnz ∧ v ≠ 0) ∨ (o = .bltz ∧ bit v 31 = true) →
        (t.stall g).core.pc = b.cimm ∧ b.cimm < q.plen ∧
        (t.stall g).core.loops = q.loops.filter fun l => decide (l.first ≤ b.cimm) && decide (b.cimm < l.first + l.len)) ∧
      ((o = .bz ∧ v ≠ 0) ∨ (o = .bnz ∧ v = 0) ∨ (o = .bltz ∧ bit v 31 = false) ∨ o = .waitt ∨ o = .pub ∨ o = .trap →
        (q.loops = [] → (t.stall g).core.pc = q.pc + 1) ∧
        ∀ l outer, q.loops = l :: outer →
          (l.first + l.len ≠ q.pc + 1 → (t.stall g).core.pc = q.pc + 1 ∧ (t.stall g).core.loops = q.loops) ∧
          (l.first + l.len = q.pc + 1 → l.k + 1 < l.n + l.s → (t.stall g).core.pc = l.first ∧
            (t.stall g).core.loops = { l with k := l.k + 1 } :: outer ∧
            (t.stall g).core.rrb = if l.rot then (q.rrb + 31) % 32 else q.rrb)) ∧
      (o = .loop → q.loops.length < 2 ∧
        (v ≠ 0 → (t.stall g).core.pc = q.pc + 1 ∧ (t.stall g).core.loops =
          { first := q.pc + 1, len := bits b.cimm 5 0 + 1, n := v, s := bits b.cimm 9 7, rot := bit b.cimm 6, k := 0 } :: q.loops) ∧
        (v = 0 → q.loops = [] → (t.stall g).core.pc = q.pc + 1 + (bits b.cimm 5 0 + 1) ∧ (t.stall g).core.loops = [])) ∧
      (o = .waitt → ∀ slot gen, (u.stall g).run = some (slot, gen) →
        (t.stall g).count slot true (bits b.cimm 11 0) + 1 = (u.stall g).count slot true (bits b.cimm 11 0)) ∧
      (o = .pub → (t.stall g).core.sb = q.sbStage ∧ (bit b.cimm 12 = false → t.tokens = u.tokens) ∧
        ∀ slot gen k, bit b.cimm 12 = true → (u.stall g).run = some (slot, gen) →
          (u.job slot).token g (bits b.cimm 11 0) = some k → k.ckind < 2 → ∃ p : TokenPkt, t.tokens = u.tokens ++ [p] ∧
            p.name = BitVec.ofNat 12 k.name ∧ p.stall = Fin.ofNat 2048 k.cstall ∧ p.core = (k.ckind == 1)) ∧
      (o = .trap → bit (t.reg .ccoEvent g) 1 = true ∧
        ∃ x : EvRec, t.events = u.events ++ [x] ∧ x.code % 1024 = 0x121 ∧ x.w0 = g.val ∧ x.w1 = b.cimm ∧ x.w2 = q.pc % 2 ^ 32) ∧
      (o = .reti → (q.handler = true → (t.stall g).core.handler = false ∧ (t.stall g).core.pc = q.savedPc ∧
          (t.stall g).core.loops = q.savedLoops ∧ (t.stall g).core.main = q.main ∧ (t.stall g).core.mainSinceReti = false ∧
          ((∀ w ∈ q.hand, w.left ≤ 4) → (t.stall g).core.hand = [])) ∧
        (q.handler = false → q.loops = [] → (t.stall g).core.pc = q.pc + 1)) ∧
      (o = .halt → (t.stall g).core.halted = true ∧ (t.stall g).core.run = false ∧ (t.stall g).core.pc = q.pc ∧
        ((∀ w ∈ q.own, w.left ≤ 4) → (t.stall g).core.own = []))

/-- WRITE_LAND first lets a timer at zero pend and reload; of a context with one due write it puts it into its register,
accumulator, staging register, memory word or port and leaves every other one; writes not due stay in flight. INTERRUPT_ENTRY
saves the next index and the loops, freezes main writes, switches g0 to g15 to the shadow copies and goes to CCO_IVEC, only when a
pending source is enabled and a main bundle has issued since RETI. The timer at zero makes source 6 pend and reloads. The model's
choices it rests on: log entries 40, 49, 51, 52, 54. (R124, R128, R138, R139, R150, R152, R153, R154) -/
def Obligations.WritesLandAndInterruptsEnter : Prop :=
  ∀ (g : StallId) (s : State),
    let q := (s.stall g).core.expireTimer
    (∀ w : CWrite, q.own.filter (fun x => x.left == 0) = [w] → Does (.writeLand g) s fun t =>
      let r := (t.stall g).core
      r.own = q.own.filter (fun x => x.left != 0) ∧ r.pc = q.pc ∧
      (∀ p, w.dest = .reg p → Tab.get {} r.g p = (if w.kind = .high then
          { v := w.v.toNat * 65536 + (Tab.get {} q.g p).v % 65536, p := w.p || (Tab.get {} q.g p).p } else { v := w.v.toNat, p := w.p }) ∧
        (∀ p', p' ≠ p → Tab.get {} r.g p' = Tab.get {} q.g p') ∧ r.acc = q.acc ∧ t.mem = s.mem) ∧
      (∀ a, w.dest = .acc a → a < q.acc.length → r.acc[a]? = some (if w.kind = .accumulate then
          (max (-2 ^ 39) (min (2 ^ 39 - 1) ((q.acc.getD a (0, false)).1 + w.v)), w.p || (q.acc.getD a (0, false)).2)
          else (w.v, w.p)) ∧ (∀ a', a' ≠ a → r.acc[a']? = q.acc[a']?) ∧ r.g = q.g ∧ t.mem = s.mem ∧
          (w.kind = .accumulate → (q.acc.getD a (0, false)).1 + w.v < -2 ^ 39 ∨ 2 ^ 39 ≤ (q.acc.getD a (0, false)).1 + w.v →
            r.sat = true)) ∧
      (∀ off, w.dest = .mem off → t.coreVal g off 4 = { v := w.v.toNat % 2 ^ 32, p := w.p } ∧ r.g = q.g ∧
        ∀ y, y < coreAddr g off ∨ coreAddr g off + 4 ≤ y →
          Tab.get 0 t.mem y = Tab.get 0 s.mem y ∧ Tab.get false t.memTag y = Tab.get false s.memTag y) ∧
      (∀ i, w.dest = .port i → w.kind = .set →
        (i < 16 → Tab.get {} r.sbStage i = { v := w.v.toNat, p := w.p } ∧ r.sb = q.sb) ∧
        (16 ≤ i → i < 24 → q.ports.length = 8 → (s.stall g).portUser (i - 16) = none →
          r.ports[i - 16]? = some (q.ports.getD (i - 16) [] ++ [w.v.toNat]) ∧ t.mem = s.mem) ∧
        (i = 24 → r.rrb = w.v.toNat % 32) ∧ (i = 25 → r.irqEn = w.v.toNat % 256) ∧
        (i = 26 → ∀ k, bit r.irqEdge k = (bit q.irqEdge k && !bit w.v.toNat k)) ∧
        (i = 27 → r.tmr = w.v.toNat ∧ r.tmrLoad = w.v.toNat)) ∧
      (w.dest = .take → ∀ slot gen m, (s.stall g).run = some (slot, gen) → (s.stall g).mapSlot slot gen w.v.toNat = some m →
        s.isFenced m.bay = false → r.tally = q.tally ++ [(q.takeSeq, none)] ∧
          ∃ x : TakeReq, Tab.get [] t.takeQ m.bay = Tab.get [] s.takeQ m.bay ++ [x] ∧ x.stall = g.val ∧ x.queue = false ∧
            x.tally = w.v.toNat ∧ x.cell = m.cell)) ∧
    (q.own.filter (fun x => x.left == 0) = [] → Does (.writeLand g) s fun t => SameBut [.stalls] s t ∧
      (t.stall g).core = q) ∧
    (∀ u, u = s.landDue g →
      let p := (u.stall g).core
      (p.run = true → p.halted = false → p.handler = false → p.mainSinceReti = true → u.irqPend g &&& p.irqEn ≠ 0 →
        s.stallUp g = true → Does (.interruptEntry g) s fun t => SameBut [.stalls] u t ∧
          (t.stall g).core = { p with savedPc := p.pc, savedLoops := p.loops, loops := [], handler := true, pc := p.ivec } ∧
          (∀ n < 16, (t.stall g).core.gVal n = Tab.get {} p.g (64 + n)) ∧ (t.stall g).core.main = p.main) ∧
      (p.run = false ∨ p.halted = true ∨ p.handler = true ∨ p.mainSinceReti = false ∨ u.irqPend g &&& p.irqEn = 0 →
        exec (.interruptEntry g) s = .next s)) ∧
    (Does (.issueTimerExpiry g) s fun t => SameBut [.stalls] s t ∧
      let p := (s.stall g).core
      (p.tmrLoad ≠ 0 → p.tmr = 0 → t.stall g = { s.stall g with core := { p with irqEdge := p.irqEdge ||| 64, tmr := p.tmrLoad } }) ∧
      (p.tmrLoad = 0 ∨ p.tmr ≠ 0 → t.stall g = s.stall g))

/-- An element of a format that is no NaN converts to its own format unchanged and counts nothing; a conversion of an exact value
to a floating-point format that does not overflow gives an element at least as near as every other finite one; to an integer
format it rounds to nearest and saturates, counting one overflow where it saturates; a NaN gives the canonical NaN, or 0 with one
invalid. The model's choices it rests on: log entries 27, 31, 37. (R62, R66, R75, R77, R78) -/
def Obligations.NumbersRoundOnceToNearest : Prop :=
  (∀ (f : Fmt) (o : Bool) (v : Nat), f ≠ .e8m0 → v < 2 ^ f.width → (∀ z, f.value v ≠ .nan z) →
    convert f o (f.value v) = { val := v, ovf := 0, inv := 0 }) ∧
  (∀ (f : Fmt) (o s : Bool) (m : Nat) (e : Int) (y : Nat), f.isInt = false → f ≠ .e8m0 →
    (convert f o (.fin s m e)).ovf = 0 → (f.value y).isFin = true →
    (f.value (convert f o (.fin s m e)).val).isFin = true ∧
    |(f.value (convert f o (.fin s m e)).val).rat - (Val.fin s m e).rat| ≤ |(f.value y).rat - (Val.fin s m e).rat|) ∧
  (∀ (f : Fmt) (o s : Bool) (m : Nat) (e : Int), f.isInt = true → ∃ i : Int, |(i : ℚ) - (Val.fin s m e).rat| ≤ 1 / 2 ∧
    (|(i : ℚ) - (Val.fin s m e).rat| = 1 / 2 → i % 2 = 0) ∧
    convert f o (.fin s m e) =
      { val := (max (-2 ^ (f.width - 1)) (min (2 ^ (f.width - 1) - 1) i) % 2 ^ f.width).toNat
        ovf := if -2 ^ (f.width - 1) ≤ i ∧ i < 2 ^ (f.width - 1) then 0 else 1, inv := 0 }) ∧
  ∀ (f : Fmt) (o s : Bool), f ≠ .e8m0 → convert f o (.nan s) =
    if f.isInt = true ∨ f = .fp4 then { val := 0, ovf := 0, inv := 1 }
    else { val := (if s then 2 ^ (f.width - 1) else 0) + f.nan, ovf := 0, inv := 0 }

/-- For each of the 21 operations: a VOP at the head whose descriptor holds that operation and passes the checks of R162 starts.
Each of its rows in turn, in a period or with VOP_COMPLETE at the latest, writes the results of the row through the converter to
its destination row, poisoned ones as zeros with their tag, and no other byte of core memory or of a tile buffer. One that fails a
check faults with VEC_FAULT and writes nothing; one of another operation is not this command's. VOP_COMPLETE takes the rows that
are left, counts the operation and raises source 5. The model's choices it rests on: log entries 55, 56, 58. (R159, R162, R164,
R170, R171, R172, R177, R178) -/
def Obligations.VectorOperationsRun : Prop :=
  ∀ (g : StallId) (s : State),
    (∀ (c : Instr) (o : VOp) (e : QEntry) (d : VDesc), (c, o) ∈ vecOps g → s.headIs g .vop = some e → (s.stall g).vrun = none →
      d = VDesc.of (s.read (coreAddr g e.desc) 64) →
      (∀ k, d.fail = some k → VOp.ofCode d.code = none ∨ VOp.ofCode d.code = some o → Does c s fun t =>
        SameBut [.regs, .events, .stalls, .jobs] s t ∧ (t.stall g).vt = (s.stall g).vt ∧ (t.stall g).vrun = none ∧
        (e.slot, e.gen) ∈ (t.stall g).faulted ∧ bit (t.reg .vecEvent g) 0 = true ∧
        t.reg .stlAmaxVec g = s.reg .stlAmaxVec g ∧
        ∃ x ∈ t.events, x.code % 1024 = 0x130 ∧ x.w0 = g.val ∧ x.w1 = k.num % 2 ^ 32 ∧ x.w2 = e.desc) ∧
      (VOp.ofCode d.code ≠ none → VOp.ofCode d.code ≠ some o → exec c s = .next s) ∧
      (d.fail = none → VOp.ofCode d.code = some o →
        Does c s fun t => SameBut [.free, .regs, .stalls] s t ∧
          (∃ flags, (t.stall g).vrun = some { e := e, d := d, row := 0, sb := (s.stall g).core.sb, flags := flags }) ∧
          (t.stall g).vop = d.code ∧ (t.stall g).vt = (s.stall g).vt ∧ (t.stall g).queue = ((s.stall g).pop e).queue ∧
          (t.stall g).inflight = ((s.stall g).pop e).inflight ++ [{ e := e, seq := (s.stall g).issues }] ∧
          t.reg .stlAmaxVec g = if d.ccw.amaxClr = true then 0 else s.reg .stlAmaxVec g)) ∧
    (∀ (r : VRun) (d : VDesc) (t : State), (s.stall g).vrun = some r → d = r.d → r.row < d.rows → d.fail = none →
      (VOp.ofCode d.code).isSome = true → (∀ i, i < d.outLen → d.clash (d.d.off + r.row * d.d.stride + i) = false) →
      t = s.vNextRow g →
      SameBut [.free, .regs, .mem, .memTag, .events, .stalls] s t ∧ (t.stall g).vrun = some { r with row := r.row + 1 } ∧
      (∀ (i : Nat) (b : Byte × Bool),
        (pack d.target ((s.vResults g d r.row).map fun x => if x.p = true then ({ v := 0, p := true } : PVal)
          else { v := (convert d.target d.ccw.ovfInf (x.x.coarse d.ccw.scaleEn d.c).1).val, p := false }))[i]? = some b →
        t.vByte g d.d (d.d.off + r.row * d.d.stride + i) = b) ∧
      (if d.d.inTile = true then t.mem = s.mem ∧ t.memTag = s.memTag ∧
        ∀ y, (y < d.d.index * 0x4000 + d.d.off + r.row * d.d.stride ∨
            d.d.index * 0x4000 + d.d.off + r.row * d.d.stride + d.outLen ≤ y) →
          Tab.get 0 (t.stall g).vt y = Tab.get 0 (s.stall g).vt y
       else (t.stall g).vt = (s.stall g).vt ∧
        ∀ y, (y < coreAddr g (d.d.off + r.row * d.d.stride) ∨
            coreAddr g (d.d.off + r.row * d.d.stride) + d.outLen ≤ y) → Tab.get 0 t.mem y = Tab.get 0 s.mem y)) ∧
    (∀ waits : Nat, ((s.stall g).vrun = none → exec (.vopComplete g waits) s = .next s) ∧
      ∀ r : VRun, (s.stall g).vrun = some r →
        (r.row < r.d.rows → exec (.vopComplete g waits) s = exec (.vopComplete g waits) (s.vNextRow g)) ∧
        (r.d.rows ≤ r.row → Does (.vopComplete g waits) s fun t => (t.stall g).vrun = none ∧
          (t.stall g).core.irqEdge = (s.stall g).core.irqEdge ||| 32 ∧
          t.reg .vecOps g = min (Rn.top .vecOps) (s.reg .vecOps g + 1) ∧
          t.reg .vecWaits g = min (Rn.top .vecWaits) (s.reg .vecWaits g + waits) ∧ t.mem = s.mem ∧
          (t.stall g).inflight = (s.stall g).inflight.filter (fun i => !(i.seq == (s.stall g).seqOf r.e)) ∧
          (r.e.prEn = false → t.tokens = s.tokens)))

/-- In INT32 ADD, SUB, MUL and FMA form the exact result and saturate once, NEG and ABS of the least number give the greatest with
one overflow; ADD, SUB, MUL and FMA of finite values round the exact result once; EXP2, LOG2, RCP and RSQRT give the special
values of R167 and are exact where the result is a power of two or an integer; RSUM gives the same for every order of its
elements; one NaN makes RMAX and RMIN a NaN. The model's choices it rests on: log entries 60, 61, 63, 64. (R81, R82, R165, R166,
R167, R168) -/
def Obligations.VectorResultsAreExactSumsAndFunctions : Prop :=
  (∀ a b c : Word32,
    let v (x : Word32) : Val := Fmt.int32.value x.toNat
    let is (r : VRes) (i : Int) : Prop := r.x = Fmt.int32.value (BitVec.ofInt 32 (max (-2 ^ 31) (min (2 ^ 31 - 1) i))).toNat ∧
      r.ovf = (if -2 ^ 31 ≤ i ∧ i < 2 ^ 31 then 0 else 1) ∧ r.inv = 0
    is (VOp.add.elem .int32 (v a) (v b) (v c)) (a.toInt + b.toInt) ∧ is (VOp.sub.elem .int32 (v a) (v b) (v c)) (a.toInt - b.toInt) ∧
    is (VOp.mul.elem .int32 (v a) (v b) (v c)) (a.toInt * b.toInt) ∧
    is (VOp.fma.elem .int32 (v a) (v b) (v c)) (a.toInt * b.toInt + c.toInt) ∧
    is (VOp.neg.elem .int32 (v a) (v b) (v c)) (-a.toInt) ∧ is (VOp.abs.elem .int32 (v a) (v b) (v c)) |a.toInt| ∧
    (VOp.max.elem .int32 (v a) (v b) (v c)).x = v (if a.toInt ≤ b.toInt then b else a) ∧
    (VOp.min.elem .int32 (v a) (v b) (v c)).x = v (if a.toInt ≤ b.toInt then a else b)) ∧
  (∀ (cf : Fmt) (s u z : Bool) (m n l : Nat) (e f h : Int),
    let a : Val := .fin s m e
    let b : Val := .fin u n f
    let c : Val := .fin z l h
    let is (r : VRes) (q : ℚ) : Prop := ∃ k i y, Val.rat (.fin k i y) = q ∧ r = roundTo cf (.fin k i y) false
    is (VOp.add.elem cf a b c) (a.rat + b.rat) ∧ is (VOp.sub.elem cf a b c) (a.rat - b.rat) ∧
    is (VOp.mul.elem cf a b c) (a.rat * b.rat) ∧ is (VOp.fma.elem cf a b c) (a.rat * b.rat + c.rat) ∧
    is (VOp.neg.elem cf a b c) (-a.rat) ∧ is (VOp.abs.elem cf a b c) |a.rat|) ∧
  (∀ (s : Bool) (m j : Nat) (e : Int),
    let inf (z : Bool) : Conv := toFp32 (.inf z)
    let zero (z : Bool) : Conv := toFp32 (.fin z 0 0)
    let bad : Conv := { val := 0x7FC00000, ovf := 0, inv := 1 }
    exp2Of (.nan s) = toFp32 (.nan false) ∧ log2Of (.nan s) = toFp32 (.nan false) ∧ rcpOf (.nan s) = toFp32 (.nan false) ∧
    rsqrtOf (.nan s) = toFp32 (.nan false) ∧ exp2Of (.inf s) = (if s then zero false else inf false) ∧
    log2Of (.inf s) = (if s then bad else inf false) ∧ rcpOf (.inf s) = zero s ∧ rsqrtOf (.inf s) = (if s then bad else zero false) ∧
    exp2Of (.fin s 0 e) = toFp32 (.fin false 1 0) ∧ log2Of (.fin s 0 e) = inf true ∧ rcpOf (.fin s 0 e) = inf s ∧
    rsqrtOf (.fin s 0 e) = inf s ∧
    (m ≠ 0 → log2Of (.fin true m e) = bad ∧ rsqrtOf (.fin true m e) = bad) ∧
    (∀ i : Int, i.natAbs ≤ 200 → exp2Of (.fin (decide (i < 0)) i.natAbs 0) = toFp32 (.fin false 1 i)) ∧
    log2Of (.fin false (2 ^ j) e) = toFp32 (.fin (decide ((j : Int) + e < 0)) ((j : Int) + e).natAbs 0) ∧
    (j ≤ 23 → -200 ≤ e → e ≤ 200 → rcpOf (.fin s (2 ^ j) e) = toFp32 (.fin s 1 (-(j : Int) - e)) ∧
      (((j : Int) + e) % 2 = 0 → rsqrtOf (.fin false (2 ^ j) e) = toFp32 (.fin false 1 (-((j : Int) + e) / 2))))) ∧
  (∀ (f : Fmt) (l l' : List (Val × Bool)), l.Perm l' → l ≠ [] →
    let q := l.foldl (fun q x => q.add x.1 x.2) VAcc.none
    let q' := l'.foldl (fun q x => q.add x.1 x.2) VAcc.none
    sumRes f q.x q.made (l.any Prod.snd) = sumRes f q'.x q'.made (l'.any Prod.snd)) ∧
  (∀ (a b : Val) (z : Bool), Val.max (.nan z) b = .nan false ∧ Val.max a (.nan z) = .nan false ∧ Val.min (.nan z) b = .nan false ∧
    Val.min a (.nan z) = .nan false)

/-- The address mapping of R264 is one-to-one over the stack. A slot of a ready controller issues a legal forced command before
anything else, then the legal request with the earliest due time within the urgency margin; a served read leaves its queue and is
answered, poisoned when its line was or when two or more symbols are bad, which counts and raises an uncorrectable error; one bad
symbol is corrected and counted; a served write leaves its queue; a refresh lowers its bank's debt by one. The model's choices it
rests on: log entries 100, 101, 102, 103, 104, 111. (R264, R267, R278, R280) -/
def Obligations.HbmCommandsFollowTheOrder : Prop :=
  (∀ a < 0x1800000000, hbmOff (hbmPc a) (hbmL a) = a ∧ hbmPc a < 64 ∧ hbmL a < 0x60000000) ∧
  (∀ pc l, pc < 64 → l < 0x60000000 → hbmOff pc l < 0x1800000000 ∧ hbmPc (hbmOff pc l) = pc ∧ hbmL (hbmOff pc l) = l) ∧
  (∀ (p : PChan) (illegal : List Nat) (paused drain : Bool) (now urgent cap : Nat),
    (∀ f, p.forcedNow illegal paused = some f → p.choose illegal paused now urgent cap drain = some (.forced f)) ∧
    (p.forcedNow illegal paused = none → ∀ c ∈ p.reads illegal ++ p.writes illegal, c.due ≤ now + urgent →
      ∃ d ∈ p.reads illegal ++ p.writes illegal, p.choose illegal paused now urgent cap drain = some d.cmd ∧ d.due ≤ c.due ∧
        (d.due = c.due → d.seq ≤ c.seq)) ∧
    (p.forcedNow illegal paused = none → (∀ c ∈ p.reads illegal ++ p.writes illegal, now + urgent < c.due) → drain = false →
      (∀ c ∈ p.reads illegal, p.capped cap c.line = false → p.hit c.line = true →
        ∃ d ∈ p.reads illegal, p.choose illegal paused now urgent cap drain = some d.cmd ∧ p.hit d.line = true ∧ d.due ≤ c.due) ∧
      (p.reads illegal = [] → ∀ k < 48, p.idle k = true → 1 ≤ Tab.get 0 p.debt k → (2 * k + 1) ∉ illegal →
        ∃ j, p.choose illegal paused now urgent cap drain = some (.refresh j) ∧ min 48 (Tab.get 0 p.debt k) ≤ min 48 (Tab.get 0 p.debt j)))) ∧
  ∀ (b : BayId) (pc : Fin 64) (illegal : List Nat) (symErrs odecc : Nat) (s : State) (h : Hbm) (p : PChan),
    h = s.hbm b → p = h.pc pc → h.ready = true → s.isFenced b = false → h.phase < 2 → h.training ≠ some (pc.val / 2) →
    (∀ r, p.choose illegal h.training.isSome (s.local b) (bits (s.reg .hbmSched b) 14 12) (bits (s.reg .hbmSched b) 19 15)
        (p.drain || h.phase == 1) = some (.read r) →
      Does (.commandSlot b pc illegal symErrs odecc) s fun t => t.mem = s.mem ∧ t.memTag = s.memTag ∧
        ((t.hbm b).pc pc).rq = p.rq.filter (fun x => x.seq != r.seq) ∧ ((t.hbm b).pc pc).wq = p.wq ∧
        (r.ask = none → t.said = some (.line r.hpa (if symErrs < 2 ∧ r.bad = false then r.data else List.replicate 64 0)
          (decide (2 ≤ symErrs) || r.bad))) ∧
        t.reg .hbmUe b = (if 2 ≤ symErrs then min (Rn.top .hbmUe) (s.reg .hbmUe b + 1) else s.reg .hbmUe b) ∧
        (2 ≤ symErrs → bit (t.reg .hbmEvent b) 0 = true) ∧
        t.reg .hbmCe b = (if symErrs = 1 ∧ r.bad = false then min (Rn.top .hbmCe) (s.reg .hbmCe b + 1) else s.reg .hbmCe b)) ∧
    (∀ w, p.choose illegal h.training.isSome (s.local b) (bits (s.reg .hbmSched b) 14 12) (bits (s.reg .hbmSched b) 19 15)
        (p.drain || h.phase == 1) = some (.write w) →
      Does (.commandSlot b pc illegal symErrs odecc) s fun t =>
        ((t.hbm b).pc pc).wq.map HWrite.seq = (p.wq.filter fun x => x.seq != w.seq).map HWrite.seq ∧
        ((t.hbm b).pc pc).rq.map HRead.seq = p.rq.map HRead.seq ∧
        (w.mask = 2 ^ 64 - 1 ∨ symErrs < 2 → t.mem = s.mem ∧ ((t.hbm b).pc pc).wq = p.wq.filter fun x => x.seq != w.seq)) ∧
    (∀ k, p.choose illegal h.training.isSome (s.local b) (bits (s.reg .hbmSched b) 14 12) (bits (s.reg .hbmSched b) 19 15)
        (p.drain || h.phase == 1) = some (.refresh k) → h.deferred = [] →
      Does (.commandSlot b pc illegal symErrs odecc) s fun t => SameBut [.regs, .hbms] s t ∧
        Tab.get 0 ((t.hbm b).pc pc).debt k = Tab.get 0 p.debt k - 1 ∧ Tab.get 0 ((t.hbm b).pc pc).rows k = 0 ∧
        (∀ j, j ≠ k → Tab.get 0 ((t.hbm b).pc pc).debt j = Tab.get 0 p.debt j) ∧
        ((t.hbm b).pc pc).rq = p.rq ∧ ((t.hbm b).pc pc).wq = p.wq) ∧
    (p.choose illegal h.training.isSome (s.local b) (bits (s.reg .hbmSched b) 14 12) (bits (s.reg .hbmSched b) 19 15)
        (p.drain || h.phase == 1) = none → h.deferred = [] →
      Does (.commandSlot b pc illegal symErrs odecc) s fun t => SameBut [.regs] s t)

/-- A due refresh adds one to its bank's debt up to the limit, at which its refresh is forced; RFM forces an all-bank refresh. A
retraining slot pauses its channel, or defers the pause, and is skipped within a frequency change; a completed pause resets or
counts failures, and the third in a row loses the channel. A reported temperature is taken; a fatal signal raises HBM_STACK. A
frequency change that firmware may make (R452) adds 3200 periods to the predictions it bears on, drains, relocks, swaps the timing
sets, retrains, and goes back once when the new set fails. The model's choices it rests on: log entries 105, 106, 107, 108, 109.
-/
def Obligations.StacksRefreshRetrainAndChange : Prop :=
  ∀ (b : BayId) (pc : Fin 64) (ch : Fin 32) (s : State) (h : Hbm), h = s.hbm b → s.isFenced b = false →
    (∀ (bank : Fin 48) (p : PChan) (limit : Nat), h.ready = true → h.phase < 2 → p = h.pc pc →
      limit = bits (s.reg .hbmRefCtl b) 3 0 → Does (.refreshDue b pc bank) s fun t => SameBut [.hbms] s t ∧
        ∃ q : PChan, (t.hbm b).pc pc = q ∧ q.rq = p.rq ∧ q.wq = p.wq ∧
          Tab.get 0 q.debt bank.val = (if Tab.get 0 p.debt bank.val < limit then Tab.get 0 p.debt bank.val + 1
            else Tab.get 0 p.debt bank.val) ∧ (∀ j, j ≠ bank.val → Tab.get 0 q.debt j = Tab.get 0 p.debt j) ∧
          (Tab.get 0 q.debt bank.val < limit → q.forced = p.forced) ∧
          (limit ≤ Tab.get 0 q.debt bank.val → .bank bank.val ∈ q.forced ∨ .all bank.val ∈ q.forced)) ∧
    (h.ready = true → Does (.rfmRequest b pc) s fun t => SameBut [.hbms] s t ∧
      ((t.hbm b).pc pc).forced = (h.pc pc).forced ++ [.all 48]) ∧
    (∀ degC, Does (.stackTemperature b degC) s fun t => SameBut [.hbms] s t ∧ (t.hbm b).temp = degC.toNat) ∧
    (h.ready = true → h.phase = 0 → h.deferred = [] → Tab.get false h.lost ch.val = false → h.training ≠ some ch.val →
      (h.training = none → h.near ch.val (s.local b) (s.hbmMargin b) = false → Does (.retrainSlot b ch) s fun t =>
        SameBut [.hbms] s t ∧ (t.hbm b).training = some ch.val ∧ (t.hbm b).slotCh = ch.val ∧ (t.hbm b).slotAt = s.local b ∧
        ((t.hbm b).pc (2 * ch.val)).debt = [] ∧ ((t.hbm b).pc (2 * ch.val + 1)).debt = []) ∧
      (h.training.isSome = true ∨ h.near ch.val (s.local b) (s.hbmMargin b) = true → Does (.retrainSlot b ch) s fun t =>
        SameBut [.hbms] s t ∧ (t.hbm b).training = h.training ∧ (t.hbm b).deferred = [ch.val])) ∧
    (h.phase ≠ 0 → Does (.retrainSlot b ch) s fun t => SameBut [.hbms] s t ∧
      t.hbm b = { h with slotCh := ch.val, slotAt := s.local b }) ∧
    (∀ d ∈ h.deferred, h.phase = 0 → d ≠ ch.val → Does (.retrainSlot b ch) s fun t => (∀ x ∈ (t.hbm b).deferred, x = ch.val) ∧
      HForced.pause ∈ ((t.hbm b).pc (2 * d)).forced ∧ HForced.pause ∈ ((t.hbm b).pc (2 * d + 1)).forced) ∧
    (h.training = some ch.val → h.deferred = [] →
      (Does (.retrainComplete b ch true) s fun t => SameBut [.free, .hbms] s t ∧ (t.hbm b).training = none ∧
        Tab.get 0 (t.hbm b).fails ch.val = 0 ∧ Tab.get 0 (t.hbm b).trained ch.val = h.temp) ∧
      (Does (.retrainComplete b ch false) s fun t => SameBut [.regs, .events, .hbms] s t ∧ (t.hbm b).training = none ∧
        Tab.get 0 (t.hbm b).fails ch.val = Tab.get 0 h.fails ch.val + 1 ∧ bit (t.reg .hbmEvent b) 1 = true ∧
        (2 ≤ Tab.get 0 h.fails ch.val → Tab.get false (t.hbm b).lost ch.val = true ∧ bit (t.reg .hbmEvent b) 2 = true))) ∧
    (∀ cat, Does (.stackFatal b cat) s fun t => SameBut [.regs, .events] s t ∧ bit (t.reg .hbmEvent b) 2 = true ∧
      (bit (s.reg .hbmEvent b) 2 = false → bit (t.reg .bayEvent b) 3 = true ∧
        ∃ x ∈ t.events, x.code % 1024 = 0x1A2 ∧ x.w0 = b.val ∧ x.w1 = if cat then 3 else 4)) ∧
    (∀ (c : CoreId) (v : Word32), bit v.toNat 0 = true → h.phase = 0 → h.ready = true →
      (s.mayChange b = true → Does (.fchgGo c b v) s fun t =>
        SameBut [.jobs, .hbms] s t ∧ t.hbm b = { h with phase := 1, back := false } ∧ t.hbmOpen b = false ∧
        ((s.timedOn b).Nodup → ∀ j ∈ s.timedOn b, (t.job j).pred = (s.job j).pred.map (· + 3200)) ∧
        ∀ j, j ∉ s.timedOn b → t.job j = s.job j) ∧
      (s.mayChange b = false → exec (.fchgGo c b v) s = .next s)) ∧
    (h.phase = 1 → h.drained = true → h.training = none → Does (.fchgDrained b) s fun t => SameBut [.hbms] s t ∧
      (t.hbm b).phase = 2 ∧ (t.hbm b).since = s.local b ∧ (t.hbm b).deferred = [] ∧ (t.hbm b).tset = h.tset) ∧
    (h.phase = 1 → h.drained = false → exec (.fchgDrained b) s = .next s) ∧
    (h.phase = 2 → Does (.fchgRelock b) s fun t => SameBut [.hbms] s t ∧ t.hbm b = { h with phase := 3, tset := 1 - h.tset }) ∧
    (h.phase = 3 → (∀ failed, failed = false ∨ h.back = true → Does (.fchgRetrainDone b failed) s fun t =>
        SameBut [.regs, .events, .hbms] s t ∧ (t.hbm b).phase = 0 ∧ (t.hbm b).tset = h.tset ∧ (t.hbm b).fails = [] ∧
        bit (t.reg .hbmEvent b) 3 = true) ∧
      (h.back = false → Does (.fchgRetrainDone b true) s fun t => SameBut [.hbms] s t ∧ (t.hbm b).phase = 2 ∧
        (t.hbm b).back = true))

/-- A multiplexer's code 0 and its codes above n select nothing, and each other code one input. A clock edge gives each of its
flip-flops its next value at once, and no other. A pin behind clamped gate cells is at high impedance with the pull of the straps.
A PLL write takes its fields and stops the PLL and every network fed from it; PLL_LOCK starts it, a loss of lock stops it with
FAB_PLL, as does a lock that stays out; a network above 800 MHz stays stopped with FAB_PLL. SLEEP and interrupt inputs follow the
fabric while the gates are open. A RAM port reads the bytes at its address with their POISON, and a write stores its own there
alone, where a write of port B in the window of the last write of port A on the same network leaves port A's bytes. A NoC access
is served on a free port-B cycle, or after 16 busy ones with B_HOLD. A queue is first in, first out; a push on a full one and a
pop on an empty one change no entry. The model's choices it rests on: log entries 114, 115, 116, 120, 121. (R284, R285, R288,
R289, R290, R291, R293, R294, R295, R296, R328) -/
def Obligations.FabricClocksAndMemories : Prop :=
  (∀ (inputs : List Bool) (code : Nat), 2 ^ selectorBits inputs.length / 2 ≤ inputs.length ∧ inputs.length < 2 ^ selectorBits inputs.length ∧
    (code < 2 ^ selectorBits inputs.length → muxSelect inputs code = if code = 0 then none else inputs[code - 1]?)) ∧
  (∀ (s : State) (p cell : Nat) (second : Bool) (on : Nat → Bool), cell < cellCount →
    (s.clockCells p on).flop p cell second = if on cell then s.flopNext p cell second else s.flop p cell second) ∧
  (∀ (s : State) (bay pin : Nat), s.board.ir ≠ 0 → s.gates (bay * 8 + pin / 2) = false → s.pinDrive bay pin = .highZ
    (if s.sec.straps.pullsel.toNat = 1 then .up else if s.sec.straps.pullsel.toNat = 2 then .none_ else .down)) ∧
  ∀ (s : State) (c : CoreId) (b : BayId) (n : UnitId) (i : Fin 16),
    (∀ (div : Bool) (v : Word32) (r : RegAt), r = ⟨if div then .fabPllDiv else .fabPllCfg, b, n, 0⟩ →
      Does (.fabPllWrite c b n div v) s fun t => SameBut [.regs, .events, .fabs] s t ∧
        RegsBut [r.off, (RegAt.mk .fabEvent b 0 0).off] s t ∧
        (∀ f ∈ r.rn.spec.flds, f.acc = .rw → bits (t.regAt r) f.hi f.lo =
          if f.least ≤ bits v.toNat f.hi f.lo ∧ bits v.toNat f.hi f.lo ≤ f.most then bits v.toNat f.hi f.lo
          else bits (s.regAt r) f.hi f.lo) ∧
        t.fab b = { s.fab b with lock := (s.fab b).lock.set n false } ∧ (∀ x, x ≠ b.val → t.fab x = s.fab x) ∧
        ∀ k, bits (s.reg .fabGclk b k) 4 0 ∈ [4 * n.val + 1, 4 * n.val + 2, 4 * n.val + 3, 4 * n.val + 4] → t.netRuns b k = false) ∧
    (s.isFenced b = false → bit (s.reg .fabPllCfg b n) 31 = true →
      (Does (.pllLock b n) s fun t => SameBut [.regs, .events, .fabs] s t ∧ RegsBut [(RegAt.mk .fabEvent b 0 0).off] s t ∧
        t.fab b = { s.fab b with lock := (s.fab b).lock.set n true }) ∧
      ((s.fab b).lock.getD n false = false → Does (.pllLockTimeout b n) s fun t => SameBut [.regs, .events] s t ∧
        RegsBut [(RegAt.mk .fabEvent b 0 0).off] s t ∧ bit (t.reg .fabEvent b) 0 = true)) ∧
    (s.isFenced b = false → (s.fab b).lock.getD n false = true → Does (.pllLossOfLock b n) s fun t =>
      SameBut [.regs, .events, .fabs] s t ∧ t.fab b = { s.fab b with lock := (s.fab b).lock.set n false } ∧
      bit (t.reg .fabEvent b) 0 = true ∧
      ∀ k, bits (s.reg .fabGclk b k) 4 0 ∈ [4 * n.val + 1, 4 * n.val + 2, 4 * n.val + 3, 4 * n.val + 4] → t.netRuns b k = false) ∧
    (∀ v : Word32, Does (.gclkSelect c b i v) s fun t => SameBut [.regs, .events] s t ∧
      RegsBut [(RegAt.mk .fabGclk b i 0).off, (RegAt.mk .fabEvent b 0 0).off] s t ∧
      ∀ p o : Nat, p < 4 → o < 4 → bits (t.reg .fabGclk b i) 4 0 = 4 * p + o + 1 → 
        800000 * ((bits (s.reg .fabPllCfg b p) 28 26 + 1) * (bits (s.reg .fabPllDiv b p) (8 * o + 7) (8 * o) + 1)) <
          s.refKhz b p * bits (s.reg .fabPllCfg b p) 25 19 → t.netRuns b i = false ∧ bit (t.reg .fabEvent b) 0 = true) ∧
    (∀ level, s.gates (b.val * 8 + i.val / 2) = true →
      (Does (.sleepInput b i level) s fun t => SameBut [.fabs] s t ∧ Tab.get false (t.fab b).sleep i = level ∧
        t.fab b = { s.fab b with sleep := (t.fab b).sleep } ∧ (level = true → s.wakes b i = false → t.netRuns b i = false) ∧
        ∀ j, j ≠ i.val → Tab.get false (t.fab b).sleep j = Tab.get false (s.fab b).sleep j) ∧
      (Does (.fabricInterruptLine b i level) s fun t => SameBut [.fabs] s t ∧ Tab.get false (t.fab b).irq i = level ∧
        t.fab b = { s.fab b with irq := (t.fab b).irq } ∧
        ∀ j, j ≠ i.val → Tab.get false (t.fab b).irq j = Tab.get false (s.fab b).irq j)) ∧
    (∀ level, s.gates (b.val * 8 + i.val / 2) = false →
      exec (.sleepInput b i level) s = .next s ∧ exec (.fabricInterruptLine b i level) s = .next s) ∧
    ∀ (k : Fin 3584) (v pad : Nat), v = s.blockSite b k → pad = b.val * 8 + k.val / 448 →
      (∀ (pb : Bool) (a w x : Nat), s.gates pad = true → siteQueue v = false → s.netRuns b (siteNet v pb) = true →
        w = siteWidth v pb → x = blockByte b k (a * w % 16384) →
        (Does (.ramPortAccess b k pb (.read a)) s fun t => SameBut [.fabs, .said] s t ∧
          t.said = some (.fabric (s.read x w) (s.poisoned x w))) ∧
        ∀ (d : List Byte) (poison window : Bool) (wa : Nat × Nat) (kept : Nat → Prop), d.length = w → wa = Tab.get (0, 0) (s.fab b).winA k →
          (∀ y, kept y ↔ pb = true ∧ window = true ∧ siteNet v false = siteNet v true ∧
            blockByte b k wa.1 ≤ y ∧ y < blockByte b k wa.1 + wa.2) →
          Does (.ramPortAccess b k pb (.write a d poison window)) s fun t => SameBut [.mem, .memTag, .fabs, .said] s t ∧
            t.said = some (.fabric (s.read x w) (s.poisoned x w)) ∧
            ((s.pad pad).wen = true → (pb = false → Tab.get (0, 0) (t.fab b).winA k = (a * w % 16384, w)) ∧
              ∀ i, i < w → ¬ kept (x + i) → Tab.get 0 t.mem (x + i) = d.getD i 0 ∧ Tab.get false t.memTag (x + i) = poison) ∧
            ∀ y, y < x ∨ x + w ≤ y ∨ (s.pad pad).wen = false ∨ kept y →
              Tab.get 0 t.mem y = Tab.get 0 s.mem y ∧ Tab.get false t.memTag y = Tab.get false s.memTag y) ∧
      (∀ (line : Fin 256) (en : Bool) (x : Nat) (hold : Bool), s.isFenced b = false → x = blockByte b k (line * 64) →
        ((s.gates pad = false ∨ s.netRuns b (siteNet v true) = false ∨ en = false) ∧ hold = false ∨
          s.gates pad = true ∧ s.netRuns b (siteNet v true) = true ∧ en = true ∧ 16 ≤ Tab.get 0 (s.fab b).busy k ∧ hold = true →
          (Does (.blockNocAccess b k line none en) s fun t => SameBut [.fabs, .said] s t ∧ Tab.get 0 (t.fab b).busy k = 0 ∧
            Tab.get false (t.fab b).hold k = hold ∧ t.said = some (.line x (s.read x 64) (s.poisoned x 64))) ∧
          ∀ d : List Byte, d.length = 64 → Does (.blockNocAccess b k line (some d) en) s fun t =>
            SameBut [.regs, .mem, .memTag, .events, .fabs] s t ∧ Tab.get false (t.fab b).hold k = hold ∧
            (siteQueue v = false → t.regs = s.regs ∧ t.read x 64 = d ∧ t.poisoned x 64 = false ∧
              ∀ y, y < x ∨ x + 64 ≤ y → Tab.get 0 t.mem y = Tab.get 0 s.mem y) ∧
            (siteQueue v = true → t.mem = s.mem ∧ bit (t.reg .fabEvent b) 1 = true ∧
              t.reg .fabQerr b = min (Rn.top .fabQerr) (s.reg .fabQerr b + 1))) ∧
        (s.gates pad = true → s.netRuns b (siteNet v true) = true → en = true → Tab.get 0 (s.fab b).busy k < 16 →
          ∀ d, Does (.blockNocAccess b k line d en) s fun t => SameBut [.fabs] s t ∧ Tab.get false (t.fab b).hold k = false ∧
            Tab.get 0 (t.fab b).busy k = Tab.get 0 (s.fab b).busy k + 1)) ∧
      ∀ (q : FabQueue) (w : Nat), q = s.fabQueue b k → w = siteQWidth v →
        (s.queueOn b k false = true → ∀ (d : List Byte) (poison : Bool), d.length = w →
          (q.n < siteDepth v → Does (.queuePush b k d poison) s fun t => SameBut [.mem, .memTag, .fabs] s t ∧
            t.fabQueue b k = { q with n := q.n + 1 } ∧
            (∃ x, x = blockByte b k ((q.rd + q.n) % siteDepth v * w) ∧ t.read x w = d ∧ t.poisoned x w = poison ∧
              ∀ y, y < x ∨ x + w ≤ y → Tab.get 0 t.mem y = Tab.get 0 s.mem y)) ∧
          (siteDepth v ≤ q.n → Does (.queuePush b k d poison) s fun t => SameBut [.regs, .events, .fabs] s t ∧
            t.fabQueue b k = { q with over_ := true } ∧ bit (t.reg .fabEvent b) 1 = true)) ∧
        (s.queueOn b k true = true →
          (0 < q.n → Does (.queuePop b k) s fun t => SameBut [.fabs, .said] s t ∧
            t.said = some (.fabric (s.read (blockByte b k (q.rd * w)) w) (s.poisoned (blockByte b k (q.rd * w)) w)) ∧
            t.fabQueue b k = { q with rd := (q.rd + 1) % siteDepth v, n := q.n - 1 }) ∧
          (q.n = 0 → Does (.queuePop b k) s fun t => SameBut [.regs, .events, .fabs, .said] s t ∧
            t.said = some (.fabric (List.replicate w 0) false) ∧ t.fabQueue b k = { q with under := true } ∧
            bit (t.reg .fabEvent b) 1 = true)) ∧
        (s.queueOn b k false = true → Does (.rstQ b k) s fun t => SameBut [.fabs] s t ∧ t.fabQueue b k = {} ∧
          ∀ j, j ≠ k.val → t.fabQueue b j = s.fabQueue b j)

/-- The oldest outbound beat leaves when its port moves and READY of its channel is high, and counts; its exchange counts it and
is done with the last one; else nothing happens. An inbound beat is discarded with reason 1 while no job runs and with reason 4
when its kind is reserved, stays out while its buffer is full or the port does not move, and else enters its channel's buffer, or
is taken by the exchange that waits for it, which counts and places it and is done with its last one. A ready endpoint sends the
MSG its paddock hands it and discards every other flit with BAD_OP; it delivers its oldest packet and answers ACK; one that is not
ready does nothing. Packets held past the limit are refused and counted and raise NOC_WAKE with their number. The model's choices
it rests on: log entries 117, 118, 119, 122, 135. (R298, R299, R301, R302, R303, R355, R356, R378) -/
def Obligations.PortsAndEndpointsMoveTheirFlits : Prop :=
  (∀ (g : StallId) (ready : BitVec 16) (s : State),
    ((s.stall g).out = [] ∨ s.portMoves g = false ∨ (∃ b ∈ (s.stall g).out.head?, bit ready.toNat b.chan = false) →
      exec (.outboundBeat g ready) s = .next s) ∧
    ∀ (b : OBeat) (rest : List OBeat), (s.stall g).out = b :: rest → s.portMoves g = true → bit ready.toNat b.chan = true →
      Does (.outboundBeat g ready) s fun t => SameBut [.regs, .stalls, .said] s t ∧
        RegsBut ((RegAt.mk .fabPortBeats (g.val / 64) 0 0).off :: (List.range 4).map fun k => (RegAt.mk .strLines g k 0).off) s t ∧
        (t.stall g).out = rest ∧ t.said = some (.fabric b.data b.poison) ∧
        t.reg .fabPortBeats (g.val / 64) = min (Rn.top .fabPortBeats) (s.reg .fabPortBeats (g.val / 64) + 1) ∧
        (∀ k x, b.kind = 0 → ((s.stall g).engine k).active = some x → x.opc = opFxch → x.seq = b.seq → x.dir = 0 →
          ∃ y, ((t.stall g).engine k).active = some y ∧ y.beats = x.beats + 1 ∧ y.done = (x.done || b.last)) ∧
        (b.kind ≠ 0 → (t.stall g).engines = (s.stall g).engines ∧ ∀ k, t.reg .strLines g k = s.reg .strLines g k) ∧
        ∀ j, j ≠ g.val → t.stall j = s.stall j) ∧
  (∀ (g : StallId) (x : Beat) (s : State) (st : Stall) (buf : List PBeat) (p : PBeat), x.data.length = 64 → st = s.stall g →
    buf = Tab.get [] st.inBuf x.chan → p = { kind := x.kind.val, poison := x.poison, data := x.data } →
    (Does (.inboundBeat g x) s fun t => SameBut [.regs, .mem, .memTag, .events, .stalls, .jobs] s t ∧
      ∀ j, j ≠ g.val → t.stall j = s.stall j) ∧
    (s.portMoves g = false ∨ st.run.isSome = true ∧ 16 ≤ buf.length → exec (.inboundBeat g x) s = .next s) ∧
    (s.portMoves g = true → st.run = none → Does (.inboundBeat g x) s fun t => SameBut [.regs, .events] s t ∧
      t.reg .fabPortDrop (g.val / 64) = min (Rn.top .fabPortDrop) (s.reg .fabPortDrop (g.val / 64) + 1) ∧
      bit (t.reg .fabEvent (g.val / 64)) 2 = true ∧
      (x.kind.val = 1 → bit (t.reg .stlIqEvent g) 2 = true ∧
        t.reg .stlTokFabdrop g = min (Rn.top .stlTokFabdrop) (s.reg .stlTokFabdrop g + 1))) ∧
    (s.portMoves g = true → st.run.isSome = true → buf.length < 16 →
      (2 ≤ x.kind.val → Does (.inboundBeat g x) s fun t => SameBut [.regs, .events] s t ∧
        t.reg .fabPortDrop (g.val / 64) = min (Rn.top .fabPortDrop) (s.reg .fabPortDrop (g.val / 64) + 1) ∧
        bit (t.reg .fabEvent (g.val / 64)) 2 = true) ∧
      (x.kind.val < 2 → ∀ idle : Transfer → Prop,
        (∀ y, idle y ↔ (st.pulls y = true → y.beats < y.beatCount ∧ ∀ z ∈ (Tab.get [] st.inBuf y.chan).head?, z.kind ≠ 0)) →
        ((∀ k y, (st.engine k).active = some y → idle y ∧ (st.pulls y = true → y.chan = x.chan.val → x.kind.val = 1 ∨ buf ≠ [])) →
          Does (.inboundBeat g x) s fun t => SameBut [.stalls] s t ∧ Tab.get [] (t.stall g).inBuf x.chan = buf ++ [p] ∧
            t.stall g = { st with inBuf := (t.stall g).inBuf, watch := (t.stall g).watch } ∧
            ∀ c, c ≠ x.chan.val → Tab.get [] (t.stall g).inBuf c = Tab.get [] st.inBuf c) ∧
        ∀ (k : Nat) (y : Transfer), k < 4 → (st.engine k).active = some y → st.pulls y = true → y.chan = x.chan.val → x.kind.val = 0 →
          buf = [] → y.beats < y.beatCount →
          (∀ j z, j ≠ k → (st.engine j).active = some z → idle z ∧ (st.pulls z = true → z.chan ≠ x.chan.val)) →
          ∀ m : Mv, m = ({ s := (s.modStall g fun st =>
              { st with inBuf := Tab.set [] (Tab.upd [] st.inBuf x.chan (· ++ [p])) x.chan [] }).count .fabPortBeats (g.val / 64), t := y } :
              Mv).receive g k p →
          Does (.inboundBeat g x) s fun t => t.mem = m.s.mem ∧ t.memTag = m.s.memTag ∧ t.jobs = m.s.jobs ∧ t.events = m.s.events ∧
            Tab.get [] (t.stall g).inBuf x.chan = [] ∧
            (∃ z, ((t.stall g).engine k).active = some z ∧ z.beats = y.beats + 1 ∧ z.done = decide (y.beatCount ≤ y.beats + 1)) ∧
            t.reg .fabPortBeats (g.val / 64) = min (Rn.top .fabPortBeats) (s.reg .fabPortBeats (g.val / 64) + 1) ∧
            t.reg .strLines g k = min (Rn.top .strLines) (s.reg .strLines g k + 1)))) ∧
  (∀ (b : BayId) (e : Fin 64) (s : State) (x : FabEnd), x = s.fabEnd b e →
    (x.hold = [] ∨ endWakes (s.endSite b e) = false ∨ s.isFenced b = true ∨ s.local b < x.since + bits (s.reg .nocWakeCtl b) 15 0 →
      exec (.wakeTimeout b e) s = .next s) ∧
    (x.hold ≠ [] → endWakes (s.endSite b e) = true → s.isFenced b = false → x.since + bits (s.reg .nocWakeCtl b) 15 0 ≤ s.local b →
      Does (.wakeTimeout b e) s fun t => SameBut [.regs, .events, .net, .fabs] s t ∧
        (t.fabEnd b e).hold = [] ∧
        ((∀ f ∈ x.hold, f.dest.toNat = addrOf b 2 e ∧ endpointExists f.src.toNat = true) →
          (∀ p ∈ Tab.get [] s.net.waiting (addrOf b 2 e), endpointExists p.f.dest.toNat = true) →
          RegsBut [(RegAt.mk .nocDiscard b 0 0).off, (RegAt.mk .nocEvent b 0 0).off] s t ∧
          t.reg .nocDiscard b = min (Rn.top .nocDiscard) (s.reg .nocDiscard b + x.hold.length)) ∧
        bit (t.reg .nocEvent b) 2 = true ∧ bit (t.reg .nocEvent b) 0 = true ∧
        (bit (s.reg .nocEvent b) 2 = false → ∃ r, t.events.getLast? = some r ∧ r.code % 1024 = 0x202 ∧ r.w0 = b.val * 64 + e.val ∧
          r.w1 = (x.hold.filter fun f => f.cls != 1).length % 2 ^ 32 ∧ r.w2 = portNet (s.endSite b e)) ∧
        ∀ y, y ≠ e.val → t.fabEnd b y = s.fabEnd b y)) ∧
  ∀ (b : BayId) (e : Fin 64) (s : State) (pad : Nat), pad = b.val * 8 + e.val / 8 →
    (s.gates pad = false ∨ (s.pad pad).state ≠ 4 ∨ s.netRuns b (portNet (s.endSite b e)) = false →
      (∀ f, exec (.endpointFlit b e f) s = .next s) ∧ ∀ ready, exec (.endpointDelivery b e ready) s = .next s) ∧
    (∀ ready : Nat, (s.fabEnd b e).hold = [] ∨ (s.linkBound (addrOf b 2 e)).isSome = true ∨ endWakes (s.endSite b e) = true ∧ ready < 2 →
      exec (.endpointDelivery b e ready) s = .next s) ∧
    (s.gates pad = true → (s.pad pad).state = 4 → s.netRuns b (portNet (s.endSite b e)) = true →
      (∀ f : Flit,
        (f.op = 6 → (f.dest.toNat = addrOf 32 3 1 ∨ addrKind f.dest.toNat = 2 ∧ addrBay f.dest.toNat ≠ 32) →
          Does (.endpointFlit b e f) s fun t => SameBut [.free, .regs, .events, .net] s t ∧ ∃ m : Flit, t = s.takeFree.send { f := m } ∧
            m.dest = f.dest ∧ m.src.toNat = addrOf b 2 e ∧ m.op = 6 ∧ m.retry = false ∧ m.deadline = f.deadline ∧
            m.payload = fitBytes 64 f.payload ∧
            ((s.net.sentTo (addrOf b 2 e) f.dest.toNat).length + (Tab.get [] s.net.waiting (addrOf b 2 e)).length < 1024 →
              ∀ p ∈ s.net.sentTo (addrOf b 2 e) f.dest.toNat, p.f.tag ≠ m.tag)) ∧
        (f.op ≠ 6 ∨ f.dest.toNat ≠ addrOf 32 3 1 ∧ (addrKind f.dest.toNat ≠ 2 ∨ addrBay f.dest.toNat = 32) →
          Does (.endpointFlit b e f) s fun t => SameBut [.regs, .events] s t ∧ bit (t.reg .nocEvent b) 0 = true ∧
            RegsBut [(RegAt.mk .nocDiscard b 0 0).off, (RegAt.mk .nocEvent b 0 0).off] s t ∧
            t.reg .nocDiscard b = min (Rn.top .nocDiscard) (s.reg .nocDiscard b + 1))) ∧
      (∀ (f : Flit) (rest : List Flit) (ready : Nat), (s.fabEnd b e).hold = f :: rest → s.linkBound (addrOf b 2 e) = none →
        (endWakes (s.endSite b e) = true → 2 ≤ ready) → Does (.endpointDelivery b e ready) s fun t =>
          SameBut [.regs, .events, .net, .fabs, .said] s t ∧
          (t.fabEnd b e).hold = rest ∧ t.said = some (.packet f) ∧ (∀ y, y ≠ e.val → t.fabEnd b y = s.fabEnd b y) ∧
          (f.cls = 1 → t.net = s.net ∧ t.regs = s.regs) ∧
          (f.cls ≠ 1 → ∀ u, u = { s.setEnd b e { hold := rest, since := s.local b } with said := some (.packet f) } →
            t = u.respond f (f.answer 0x13 []))))

/-- A packet of a source with nothing waiting or outstanding enters the local channel of its router, and is kept until answered;
one to no endpoint is refused there. A grant moves one head that may move: class 3 first, else the smallest effective deadline; it
reaches its endpoint or the next router; every other head waits one step more. A failed check is replayed and counted; after 8 the
link fails, which kills a link inside a bay and closes a bridge at both ends. A commit takes the staged entries and advances the
epoch; held packets are then resent. The model's choices it rests on: log entries 134, 136, 137, 138, 139, 141. (R342, R347, R348,
R349, R350, R353, R359) -/
def Obligations.PacketsEnterAndAreGranted : Prop :=
  (∀ (m : Flit) (s : State) (a : Nat), a = m.src.toNat → Tab.get [] s.net.waiting a = [] → s.net.sentTo a m.dest.toNat = [] →
    (∀ ph, Tab.get [] s.net.vc (vcKey (homeRouter a) 4 m.cls ph) = []) →
    (endpointExists m.dest.toNat = false → ∀ b, b = routerBay (homeRouter a) → isBay b = true →
      SameBut [.regs, .events, .net] s (s.send { f := m }) ∧ bit ((s.send { f := m }).reg .nocEvent b) 0 = true ∧
      (s.send { f := m }).reg .nocDiscard b = min (Rn.top .nocDiscard) (s.reg .nocDiscard b + 1)) ∧
    (endpointExists m.dest.toNat = true → SameBut [.net] s (s.send { f := m }) ∧ ∃ h : Hop, h.f = { m with phase := h.f.phase, wpx := h.f.wpx, wpy := h.f.wpy } ∧
      Tab.get [] (s.send { f := m }).net.vc (vcKey (homeRouter a) 4 m.cls h.f.phase) = [h] ∧
      (m.cls = 1 → (s.send { f := m }).net.sent = s.net.sent) ∧
      (m.cls ≠ 1 → ∃ q : Sent, Tab.get [] (s.send { f := m }).net.sent a = Tab.get [] s.net.sent a ++ [q] ∧ q.held = false ∧
        q.f = { m with phase := false, wpx := h.f.wpx, wpy := h.f.wpy }))) ∧
  (∀ (rid : RouterId) (port : Fin 8) (s : State) (r : Nat), r = routerNum rid → (isBay (routerBay r) && s.isFenced (routerBay r)) = false →
    ((s.heads r port).filter (s.grantable r port) = [] → Does (.flitGrant rid port) s fun t => SameBut [.net] s t ∧
      t.net.arrived = s.net.arrived ∧ ∀ h ∈ s.heads r port, Tab.get [] t.net.vc h.key =
        { h.hop with wait := h.hop.wait + 1 } :: (Tab.get [] s.net.vc h.key).drop 1) ∧
    ((s.heads r port).filter (s.grantable r port) ≠ [] → Does (.flitGrant rid port) s fun t => SameBut [.regs, .events, .net] s t ∧
      ∃ h ∈ (s.heads r port).filter (s.grantable r port),
        (∀ x ∈ (s.heads r port).filter (s.grantable r port), (x.cls = 3 → h.cls = 3) ∧
          (h.cls ≠ 3 → h.hop.f.deadline.toNat - h.hop.wait / 16 ≤ x.hop.f.deadline.toNat - x.hop.wait / 16)) ∧
        (∃ l, Tab.get [] t.net.vc h.key = (Tab.get [] s.net.vc h.key).drop 1 ++ l) ∧
        (∀ x ∈ s.heads r port, x.key ≠ h.key → ∃ l, Tab.get [] t.net.vc x.key =
          { x.hop with wait := x.hop.wait + 1 } :: (Tab.get [] s.net.vc x.key).drop 1 ++ l) ∧
        (s.leave r port = .endpoint → Tab.get [] t.net.arrived h.hop.f.dest.toNat = Tab.get [] s.net.arrived h.hop.f.dest.toNat ++ [h.hop.f]) ∧
        (∀ r' p', s.leave r port = .next r' p' →
          (h.hop.arrive r') ∈ Tab.get [] t.net.vc (vcKey r' p' h.cls (h.hop.arrive r').f.phase)) ∧
        (s.leave r port = .refused → h.hop.f.pfx = false → isBay (routerBay r) = true → bit (t.reg .nocEvent (routerBay r)) 0 = true ∧
          ((∀ (a : Nat) (p : Sent), p ∈ Tab.get [] s.net.waiting a → endpointExists p.f.dest.toNat = true) → t.reg .nocDiscard (routerBay r) = min (Rn.top .nocDiscard) (s.reg .nocDiscard (routerBay r) + 1))))) ∧
  (∀ (rid : RouterId) (port : Fin 8) (s : State) (r r' p' k b c : Nat), r = routerNum rid → k = r * 8 + port.val → linkOf r port = some (r', p') →
    b = routerBay r → c = routerBay r' → Tab.get false s.net.dead k = false → s.hopBlocked b c = false → s.hopBlocked c b = false →
    (isBay b && s.isFenced b) = false →
    (Tab.get 0 s.net.fails k < 8 → Does (.flitCheckFail rid port) s fun t => SameBut [.regs, .net] s t ∧
      Tab.get 0 t.net.fails k = Tab.get 0 s.net.fails k + 1 ∧
      (isBay b = true → t.reg .nocReplay b = min (Rn.top .nocReplay) (s.reg .nocReplay b + 1))) ∧
    (8 ≤ Tab.get 0 s.net.fails k → Does (.flitCheckFail rid port) s fun t => SameBut [.regs, .events, .net] s t ∧
      Tab.get 0 t.net.fails k = 0 ∧ (isBay b = true → bit (t.reg .nocEvent b) 1 = true) ∧
      (b = c → Tab.get false t.net.dead k = true ∧ (isBay b = true → bit (t.reg .bayEvent b) 4 = true)) ∧
      (b ≠ c → t.hopBlocked b c = true ∧ t.hopBlocked c b = true ∧ (isBay b = true → bit (t.reg .bayEvent b) 7 = true) ∧
        (isBay c = true → bit (t.reg .bayEvent c) 7 = true)))) ∧
  (∀ (c : CoreId) (b : BayId) (v : Word32) (s : State),
    (bit v.toNat 0 = true → Does (.routeCommit c b v) s fun t => SameBut [.net] s t ∧
      t.net = { s.net with route := t.net.route, epoch := t.net.epoch } ∧
      (∀ d < 33, t.routeEntry b d = s.reg .nocRoute b d) ∧ Tab.get 0 t.net.epoch b = (Tab.get 0 s.net.epoch b + 1) % 65536 ∧
      ∀ x : Nat, x ≠ b.val → Tab.get 0 t.net.epoch x = Tab.get 0 s.net.epoch x ∧ ∀ d < 33, t.routeEntry x d = s.routeEntry x d) ∧
    (bit v.toNat 0 = false → exec (.routeCommit c b v) s = .next s)) ∧
  (∀ (src dest : BitVec 16) (s : State) (a : Nat), a = src.toNat → s.net.sentTo a dest.toNat ≠ [] →
    (s.net.sentTo a dest.toNat).all Sent.held = true → isBay (addrBay a) = true → s.isFenced (addrBay a) = false →
    (∀ p ∈ Tab.get [] s.net.waiting a, p.held = false) →
    (isBay (addrBay dest.toNat) = true → s.isFenced (addrBay dest.toNat) = true → Does (.resend src dest) s fun t => SameBut [.regs, .events, .net] s t ∧
      ∀ p ∈ t.net.sentTo a dest.toNat, p.held = false) ∧
    ((isBay (addrBay dest.toNat) && s.isFenced (addrBay dest.toNat)) = false →
      ((s.net.sentTo a dest.toNat).any (fun p => p.epoch == Tab.get 0 s.net.epoch (addrBay a)) = true → exec (.resend src dest) s = .next s) ∧
      ((s.net.sentTo a dest.toNat).any (fun p => p.epoch == Tab.get 0 s.net.epoch (addrBay a)) = false →
        Does (.resend src dest) s fun t => SameBut [.regs, .events, .net] s t ∧ (∀ p ∈ t.net.sentTo a dest.toNat, p.held = false) ∧
          t.reg .nocResend (addrBay a) = min (Rn.top .nocResend) (s.reg .nocResend (addrBay a) + (s.net.sentTo a dest.toNat).length) ∧
          ∀ p ∈ s.net.sentTo a dest.toNat, p.f.cls ≠ 1 → ∃ q : Sent, (q ∈ Tab.get [] t.net.waiting a ∨ q ∈ t.net.sentTo a dest.toNat) ∧
            q.f.tag = p.f.tag ∧ q.f.payload = p.f.payload ∧ q.f.retry = true))) ∧
  (∀ (m : Master) (k : Fin 33) (v : Word32) (s : State), s.responds .prb = true → (s.view m).may .prbTraceCtl true = true →
    Does (.traceCtlWrite m k v) s fun t => SameBut [.regs, .net] s t ∧
      RegsBut [(RegAt.mk .prbTraceCtl k 0 0).off, (RegAt.mk .prbTraceHead k 0 0).off] s t ∧
      bits (t.reg .prbTraceCtl k) 31 30 = bits v.toNat 31 30 ∧
      (bit v.toNat 31 = true → t.reg .prbTraceHead k = 0 ∧ (Tab.get ({} : Tracer) t.net.tracers k).n = 0 ∧
        (Tab.get ({} : Tracer) t.net.tracers k).full = false) ∧
      (bit v.toNat 31 = false → t.reg .prbTraceHead k = s.reg .prbTraceHead k ∧ t.net = s.net))

/-- A packet of a fenced bay or behind another waits; one of a reserved opcode is discarded with BAD_OP, and one to no endpoint
refused. Else RD answers RDATA with the line, zero and poisoned when any byte is; WR stores the enabled bytes and nothing else and
answers WACK; at a pseudo-channel both enter its queues, and wait while they are full; past the memory, and for system memory from
a bay, both raise a violation. MRD answers MDATA with the register, MWR makes the write and answers ACK; an MSG is held by its
endpoint, passed to its link, or delivered to the Selay cores with an ACK; a resent packet with a kept answer receives it again.
An answer ends its packet; a NACK of reason 1 or 5 holds it; one of another reason fails it, and reaches the logic of a fabric
endpoint. Each command completes. The model's choices it rests on: log entries 135, 140, 142, 143, 144, 145. (R265, R342, R345,
R346, R351, R352, R353, R354, R355, R356, R378) -/
def Obligations.PacketsAreServedAndAnswered : Prop :=
  ∀ (f : Flit) (s : State) (d b i : Nat), d = f.dest.toNat → b = addrBay d → i = addrIdx d →
    (∀ c : Instr, c ∈ [Instr.rd f, .wr none f, .msg f, .mrd f, .mwr f, .rdata f, .wack f, .ack f, .mdata f, .nack f] →
      (s.deadEnd f = true ∨ s.behind f = true → exec c s = .next s) ∧
      (s.deadEnd f = false → s.behind f = false →
        (opClass f.op.toNat = none → exec c s = .next (s.badOp f) ∧ SameBut [.regs, .events, .net] s (s.badOp f) ∧
          (b < 32 → bit ((s.badOp f).reg .nocEvent b) 0 = true ∧
            (s.badOp f).reg .nocDiscard b = min (Rn.top .nocDiscard) (s.reg .nocDiscard b + 1))) ∧
        (opClass f.op.toNat ≠ none → endpointExists d = false → exec c s = .next (s.noEndpoint f) ∧
          (b < 32 → bit ((s.noEndpoint f).reg .nocEvent b) 0 = true)))) ∧
    (∀ (p : Flit) (u : State), u = s.takeArrived p →
      (s.behind p = true ∨ s.deadEnd f = true ∨ u.behind f = true → exec (.wr (some p) f) s = .next s) ∧
      (s.behind p = false → s.deadEnd f = false → u.behind f = false →
        (opClass f.op.toNat = none → exec (.wr (some p) f) s = .next (u.badOp f)) ∧
        (opClass f.op.toNat ≠ none → endpointExists d = false → exec (.wr (some p) f) s = .next (u.noEndpoint f)))) ∧
    (∀ (pfx : Option Flit) (u : State) (mask pm : Nat), pfx.any s.behind = false →
      u = (match pfx with | some p => s.takeArrived p | none => s) → u.turnedAway f = none → wrMasks pfx f = (mask, pm) →
      (lineAddr f = none → d ≠ addrOf 32 3 2 →
        exec (.wr pfx f) s = .next (if (s.linkBound d).isSome then u.noEndpoint f else u.badOp f)) ∧
      (d = addrOf 32 3 2 →
        (s.hostUp = true → ∀ a, a = ofLe ((pfx.getD f).payload.take 8) → Does (.wr pfx f) s fun t =>
          SameBut [.regs, .host, .hostTag, .events, .net] s t ∧ (∃ v : State, v.net = (u.takeArrived f).net ∧ t = v.respond f (f.answer 0x11 [])) ∧
          (∀ y, y < a ∨ a + 64 ≤ y → Tab.get 0 t.host y = Tab.get 0 s.host y) ∧
          ∀ k < 64, Tab.get 0 t.host (a + k) = if bit mask k = true then (if bit pm k = true then 0 else f.payload.getD k 0)
            else Tab.get 0 s.host (a + k)) ∧
        (s.hostUp = false → exec (.wr pfx f) s =
          .next (if s.hostWait then s else (u.takeArrived f).respond f (f.answer 0x11 [])))) ∧
      (∀ a size, lineAddr f = some (a, size) →
        (size ≤ f.line.toNat * 64 →
          exec (.wr pfx f) s = .next (((u.takeArrived f).violate 3 0 a true 1).respond f (f.answer 0x11 []))) ∧
        (f.line.toNat * 64 < size → reaches f = false →
          exec (.wr pfx f) s = .next (((u.takeArrived f).violate 3 0 a true 0).respond f (f.answer 0x11 []))) ∧
        (f.line.toNat * 64 < size → reaches f = true → ∀ room : Prop,
          (room ↔ addrKind d = 1 → s.hbmOpen b = true ∧
            ((((s.hbm b).pc i).mergeWith f.line.toNat).isSome = true ∨ ((s.hbm b).pc i).wq.length < 64)) →
          (¬ room → exec (.wr pfx f) s = .next s) ∧
          (∀ x off, placeOf a = .block x off → s.blockIsQueue x off = true →
            exec (.wr pfx f) s = .next (((u.takeArrived f).fabQerr x (off / 16384) 3).respond f (f.answer 0x11 []))) ∧
          (room → (∀ x off, placeOf a = .block x off → s.blockIsQueue x off = false) →
            Does (.wr pfx f) s fun t => SameBut [.regs, .mem, .memTag, .events, .net, .hbms] s t ∧
              (∃ v : State, v.net = (u.takeArrived f).net ∧ t = v.respond f (f.answer 0x11 [])) ∧
              (∀ y, y < a ∨ a + 64 ≤ y → Tab.get 0 t.mem y = Tab.get 0 s.mem y) ∧
              (∀ k < 64, Tab.get 0 t.mem (a + k) = if bit mask k = true then (if bit pm k = true then 0 else f.payload.getD k 0)
                else Tab.get 0 s.mem (a + k)) ∧
              (addrKind d ≠ 1 → t.hbms = s.hbms ∧ ∀ k < 64, Tab.get false t.memTag (a + k) =
                if bit mask k = true then bit pm k else Tab.get false s.memTag (a + k)))))) ∧
    (s.turnedAway f = none →
      (lineAddr f = none → d ≠ addrOf 32 3 2 → exec (.rd f) s = .next (if (s.linkBound d).isSome then s.noEndpoint f else s.badOp f)) ∧
      (d = addrOf 32 3 2 →
        (s.hostUp = true → ∀ a, a = ofLe (f.payload.take 8) → exec (.rd f) s = .next (((s.cacheLines false).takeArrived f).respond f
          (f.answer 0x10 (if (readTags s.hostTag a 64).any id then [] else s.hread a 64) ((readTags s.hostTag a 64).any id)))) ∧
        (s.hostUp = false → exec (.rd f) s = .next (if s.hostWait then s else (s.takeArrived f).respond f (f.answer 0x10 [] true)))) ∧
      (∀ a size, lineAddr f = some (a, size) →
        (size ≤ f.line.toNat * 64 →
          exec (.rd f) s = .next (((s.takeArrived f).violate 3 0 a false 1).respond f (f.answer 0x10 []))) ∧
        (f.line.toNat * 64 < size → reaches f = false →
          exec (.rd f) s = .next (((s.takeArrived f).violate 3 0 a false 0).respond f (f.answer 0x10 []))) ∧
        (f.line.toNat * 64 < size → reaches f = true →
          (addrKind d ≠ 1 → exec (.rd f) s = .next ((s.takeArrived f).respond f
            (f.answer 0x10 (if s.poisoned a 64 then [] else s.read a 64) (s.poisoned a 64)))) ∧
          (addrKind d = 1 → (s.hbmOpen b = false ∨ 64 ≤ ((s.hbm b).pc i).rq.length) → exec (.rd f) s = .next s) ∧
          (addrKind d = 1 → s.hbmOpen b = true → ((s.hbm b).pc i).rq.length < 64 → Does (.rd f) s fun t =>
            SameBut [.regs, .net, .hbms] s t ∧ RegsBut [(RegAt.mk .hbmRawHolds b 0 0).off] s t ∧ t.net = (s.takeArrived f).net ∧
            ∃ r, ((t.hbm b).pc i).rq = ((s.hbm b).pc i).rq ++ [r] ∧
              r.ask = some f ∧ r.line = f.line.toNat ∧ r.due = s.local b + f.deadline.toNat ∧ r.data = s.read a 64))) ∧
      (∀ c : Instr, c ∈ [Instr.mrd f, .mwr f] → (s.linkBound d).isSome = true → exec c s = .next (s.noEndpoint f)) ∧
      (∀ a, s.keptAnswer f = some a → ∀ c : Instr, c = .msg f ∨ s.linkBound d = none ∧ c ∈ [Instr.mrd f, .mwr f] →
        exec c s = .next ((s.takeArrived f).send { f := a })) ∧
      (s.keptAnswer f = none →
        (∀ k a, s.linkBound d = some (k, a) → exec (.msg f) s = .next (s.msgLink k a f)) ∧
        (s.linkBound d = none →
          (d = addrOf 32 3 1 → exec (.msg f) s = .next (((s.takeArrived f).modNet fun n => { n with selay := n.selay ++ [f] }).respond f
            (f.answer 0x13 []))) ∧
          (b < 32 → addrKind d = 2 → (s.pad (b * 8 + i / 8)).state = 4 →
            (4 ≤ (s.fabEnd b i).hold.length → exec (.msg f) s = .next s) ∧
            ((s.fabEnd b i).hold.length < 4 → Does (.msg f) s fun t => SameBut [.net, .fabs] s t ∧ t.net = (s.takeArrived f).net ∧
              (t.fabEnd b i).hold = (s.fabEnd b i).hold ++ [f] ∧ ∀ e, e ≠ i → t.fabEnd b e = s.fabEnd b e)) ∧
          (b < 32 → addrKind d = 2 → (s.pad (b * 8 + i / 8)).state ≠ 4 →
            exec (.msg f) s = .next ((s.takeArrived f).refuse b (routerS (homeRouter d)) 2 f)) ∧
          (b < 32 → addrKind d = 3 → 16 ≤ i → exec (.msg f) s =
            .next (if bit (s.reg .lnkAtt b (i - 16)) 31 then s.msgLink (b / 8) (i - 16) f else s.noEndpoint f)) ∧
          (b = 32 ∧ d ≠ addrOf 32 3 1 ∨ b < 32 ∧ (addrKind d < 2 ∨ addrKind d = 3 ∧ i < 16) → exec (.msg f) s = .next (s.badOp f)) ∧
          (∀ (u : State) (m : Master) (off : Nat), u = s.takeArrived f → m = u.packetMaster f → off = ofLe (f.payload.take 4) →
            (∀ w : State, w = (if (wideAt m off).isSome then u.read64 m off else u.readAt m off) → Does (.mrd f) s fun t =>
              ∃ v, t = { w.takeFree with said := s.said }.respond f (f.answer 0x14 (leBytes 8 v)) ∧
                ∀ m' x y, w.said = some (.reg m' x y) → v = y) ∧
            (∀ r, u.reaches m off r false false → (r.rn.spec.wide = true → off % 8 = 0) → Does (.mrd f) s fun t =>
              SameBut [.free, .regs, .latch, .events, .net] s t ∧ t.net = (u.respond f (f.answer 0x14
                (leBytes 8 (if r.rn.spec.wide then u.shown m r else u.shown m r % 2 ^ 32)))).net) ∧
            (Does (.mwr f) s fun t => ∃ w : State, t = w.takeFree.respond f (f.answer 0x13 []) ∧
              exec (if (f.payload.getD 16 0).toNat = 8 then
                  Instr.lpAlignedAccess m off (some (BitVec.ofNat 64 (ofLe ((f.payload.drop 8).take 8))))
                else .registerWrite m off (BitVec.ofNat 32 (ofLe ((f.payload.drop 8).take 8)))) u = .next w))))) ∧
    (s.turnedAway f = none → s.closedEnd f = true →
      ∀ c : Instr, c ∈ [Instr.rdata f, .wack f, .ack f, .mdata f, .nack f] → Does c s fun t => SameBut [.regs, .events, .net] s t ∧
        RegsBut [(RegAt.mk .nocDiscard b 0 0).off, (RegAt.mk .nocEvent b 0 0).off] s t ∧ t.net = (s.takeArrived f).net ∧
        bit (t.reg .nocEvent b) 0 = true ∧ t.reg .nocDiscard b = min (Rn.top .nocDiscard) (s.reg .nocDiscard b + 1)) ∧
    (s.turnedAway f = none → s.closedEnd f = false → ∀ (hit : Option Sent) (rs : Nat) (gone : List Sent),
      hit = (Tab.get [] s.net.sent d).find? (fun x => x.f.dest == f.src && x.f.tag == f.tag) → rs = (f.payload.getD 0 0).toNat →
      gone = (match hit with | some p => (Tab.get [] s.net.sent d).erase p | none => Tab.get [] s.net.sent d) →
      ∀ u : State, u = ((s.modNet fun n => { n with sent := Tab.set [] n.sent d gone }).takeArrived f).pump d →
      (∀ c : Instr, c ∈ [Instr.rdata f, .wack f, .ack f, .mdata f] → exec c s = .next u ∧ SameBut [.regs, .events, .net] s u) ∧
      (hit = none → exec (.nack f) s = .next (s.takeArrived f)) ∧
      ∀ p, hit = some p →
        (rs = 1 ∨ rs = 5 →
          ((isBay (addrBay p.f.dest.toNat) && s.isFenced (addrBay p.f.dest.toNat)) = false → Does (.nack f) s fun t =>
            SameBut [.net] s t ∧ { p with held := true, epoch := Tab.get 0 s.net.epoch b } ∈ Tab.get [] t.net.sent d) ∧
          ((isBay (addrBay p.f.dest.toNat) && s.isFenced (addrBay p.f.dest.toNat)) = true → Does (.nack f) s fun t =>
            SameBut [.net] s t ∧ ∀ x ∈ Tab.get [] t.net.sent d, ¬ (x.f.dest = f.src ∧ x.f.tag = f.tag))) ∧
        (rs ≠ 1 → rs ≠ 5 →
          (addrKind d ≠ 2 ∨ b = 32 ∨ rs < 2 ∨ 4 < rs ∨ (s.linkBound d).isSome = true → exec (.nack f) s = .next u) ∧
          (addrKind d = 2 → b ≠ 32 → 2 ≤ rs → rs ≤ 4 → s.linkBound d = none →
            (4 ≤ (s.fabEnd b i).hold.length → exec (.nack f) s = .next s) ∧
            ((s.fabEnd b i).hold.length < 4 → Does (.nack f) s fun t => SameBut [.regs, .events, .net, .fabs] s t ∧ t.net = u.net ∧
              (t.fabEnd b i).hold = (s.fabEnd b i).hold ++ [f] ∧ ∀ e, e ≠ i → t.fabEnd b e = s.fabEnd b e))))

/-- LOAD starts the idle loader; OP 2 isolates and clears one paddock and no other; END moves OPEN to ENDED, or to RUNNING with
SOLO; RESTART opens OPEN or FAILED again with every paddock clear; the 16th high sample of DONE in a row runs an ENDED session;
DONEWAIT is raised once, and only while DONE has stayed low. A LOADED paddock of a RUNNING session opens its gates, after T1 its
write enables turn on, after T2 it is RELEASED. The auditor hashes frame after frame; a digest that differs isolates the paddock
and raises DRIFT. The fingerprint follows R336; a write of ERRPIN clears DRIFT with 0. The model's choices it rests on: log
entries 126, 127, 128, 131, 132. (R315, R317, R318, R326, R330, R333, R334, R335, R337) -/
def Obligations.SessionsReleasesAndAudits : Prop :=
  (∀ (m : Master) (v : Word32) (s : State) (p : Nat), s.responds .cfg = true → (s.view m).may .cfgLoadCmd true = true → p = bits v.toNat 7 0 →
    (bits v.toNat 31 30 = 1 →
      (s.cfg.load = none → Does (.load m v) s fun t => SameBut [.cfg] s t ∧ ∃ l : Load, t.cfg = { s.cfg with load := some l } ∧
        l = { stage := 1, host := bit (s.reg .cfgLoadSrc 0) 63, addr := bits (s.reg .cfgLoadSrc 0) 51 0, len := s.reg .cfgLoadLen 0, target := p }) ∧
      (s.cfg.load.isSome = true → exec (.load m v) s = .next s)) ∧
    (bits v.toNat 31 30 = 2 → s.cfg.load = none → s.isFenced (p / 8) = false → Does (.isolateAndClear m v) s fun t =>
      SameBut [.regs, .mem, .memTag, .events, .stalls, .net, .fabs, .cfg] s t ∧ (t.pad p).state = 0 ∧ (t.pad p).wen = false ∧
      (t.pad p).digest = [] ∧ (t.pad p).nets = [] ∧ (t.pad p).plls = [] ∧ Tab.get [] t.cfg.frames p = [] ∧
      (∀ y, blockAddr (p / 8) (448 * (p % 8) * 16384) ≤ y → y < blockAddr (p / 8) (448 * (p % 8) * 16384) + 448 * 16384 →
        Tab.get 0 t.mem y = 0 ∧ Tab.get false t.memTag y = false) ∧
      (∀ y, y < blockAddr (p / 8) (448 * (p % 8) * 16384) ∨ blockAddr (p / 8) (448 * (p % 8) * 16384) + 448 * 16384 ≤ y →
        Tab.get 0 t.mem y = Tab.get 0 s.mem y ∧ Tab.get false t.memTag y = Tab.get false s.memTag y) ∧
      (∀ q, q ≠ p → t.pad q = s.pad q ∧ Tab.get [] t.cfg.frames q = Tab.get [] s.cfg.frames q) ∧
      ∀ j < 16, j / 2 = p % 8 → Tab.get false (t.fab (p / 8)).irq j = false ∧ Tab.get false (t.fab (p / 8)).sleep j = false)) ∧
  (∀ (m : Master) (v : Word32) (s : State), s.responds .cfg = true → (s.view m).may .cfgSession true = true →
    (bits v.toNat 1 0 = 1 →
      (s.cfg.session = 0 → Does (.sessionEnd m v) s fun t => SameBut [.cfg] s t ∧ t.cfg =
        { s.cfg with session := if bit (s.reg .cfgCtl 0) 31 then 2 else 1, doneOut := true, ended := s.local 32, doneRun := 0,
                     doneHigh := false, waited := false }) ∧
      (s.cfg.session ≠ 0 → exec (.sessionEnd m v) s = .next s)) ∧
    (bits v.toNat 1 0 = 2 →
      (s.cfg.session = 0 ∨ s.cfg.session = 3 → Does (.restart m v) s fun t => t.cfg.session = 0 ∧ t.cfg.load = none ∧
        t.reg .cfgEpoch 0 = 0 ∧ bit (t.reg .cfgErrpin 0) 0 = false ∧ ∀ p < 256, s.isFenced (p / 8) = false →
          (t.pad p).state = 0 ∧ (t.pad p).digest = [] ∧ Tab.get [] t.cfg.frames p = []) ∧
      (s.cfg.session ≠ 0 → s.cfg.session ≠ 3 → exec (.restart m v) s = .next s))) ∧
  (∀ s : State, (s.cfg.session = 1 →
      (∀ high : Bool, Does (.doneSeen high) s fun t => SameBut [.cfg] s t ∧ ∀ n, n = (if high then s.cfg.doneRun + 1 else 0) →
        t.cfg = { s.cfg with session := if 16 ≤ n then 2 else 1, doneIn := high, doneRun := n, doneHigh := s.cfg.doneHigh || high }) ∧
      (∀ w, w = bits (s.reg .cfgCtl 0) 15 0 →
        (w ≠ 0 → s.cfg.doneHigh = false → s.cfg.waited = false → s.cfg.ended + w * 100000 ≤ s.local 32 → Does .cfgDonewait s fun t =>
          SameBut [.regs, .events, .cfg] s t ∧ RegsBut [(RegAt.mk .cfgLevent 0 0 0).off] s t ∧ bit (t.reg .cfgLevent 0) 2 = true ∧
          t.cfg = { s.cfg with waited := true }) ∧
        (w = 0 ∨ s.cfg.doneHigh = true ∨ s.cfg.waited = true ∨ s.local 32 < s.cfg.ended + w * 100000 → exec .cfgDonewait s = .next s))) ∧
    (s.cfg.session ≠ 1 → (∀ high, exec (.doneSeen high) s = .next s) ∧ exec .cfgDonewait s = .next s)) ∧
  (∀ (p : PaddockId) (s : State) (r : Nat), r = s.reg .cfgRel 0 → s.isFenced (p.val / 8) = false →
    ((s.pad p).state = 2 → s.cfg.session = 2 → s.board.ir ≠ 0 → Does (.gatesOpen p) s fun t => SameBut [.cfg] s t ∧
      t.pad p = { s.pad p with state := 3, wen := false, t1 := bits r 15 0, t2 := bits r 31 16, at_ := s.local (p.val / 8) } ∧
      t.gates p = true ∧ ∀ q, q ≠ p.val → t.pad q = s.pad q) ∧
    ((s.pad p).state = 3 → (s.pad p).wen = false → (s.pad p).at_ + max 1 (s.pad p).t1 ≤ s.local (p.val / 8) →
      Does (.writeEnablesOn p) s fun t => SameBut [.cfg] s t ∧ t.pad p = { s.pad p with wen := true, at_ := s.local (p.val / 8) }) ∧
    ((s.pad p).state = 3 → (s.pad p).wen = true → (s.pad p).at_ + max 1 (s.pad p).t2 ≤ s.local (p.val / 8) →
      Does (.resetsReleased p) s fun t => SameBut [.regs, .events, .cfg] s t ∧ t.pad p = { s.pad p with state := 4 } ∧
        bit (t.reg .cfgPevent (p.val / 8) (p.val % 8)) 2 = true) ∧
    (s.local (p.val / 8) < (s.pad p).at_ + 1 → exec (.writeEnablesOn p) s = .next s ∧ exec (.resetsReleased p) s = .next s)) ∧
  (∀ (b : BayId) (votes : Nat) (s : State) (a : Auditor) (p : Nat), a = Tab.get {} s.cfg.audits b.val → p = b.val * 8 + a.pad → a.pad < 8 →
    s.isFenced b = false →
    (a.frame + 1 < 14336 → Does (.auditStep b votes) s fun t => SameBut [.regs, .cfg] s t ∧
      t.cfg = { s.cfg with audits := t.cfg.audits } ∧ Tab.get {} t.cfg.audits b.val =
        { pad := a.pad, frame := a.frame + 1, whole := decide (2 ≤ (s.pad p).state) && (a.frame == 0 || a.whole) } ∧
      t.reg .cfgAuditVote b = min (Rn.top .cfgAuditVote) (s.reg .cfgAuditVote b + votes)) ∧
    (a.frame = 14335 → a.whole = true → 2 ≤ (s.pad p).state →
      (s.padDigest p = (s.pad p).digest → Does (.auditStep b votes) s fun t => SameBut [.regs, .cfg] s t ∧
        t.cfg = { s.cfg with audits := t.cfg.audits } ∧ (Tab.get ({} : Auditor) t.cfg.audits b.val).frame = 0 ∧
        (Tab.get ({} : Auditor) t.cfg.audits b.val).pad = (a.pad + 1) % 8) ∧
      (s.padDigest p ≠ (s.pad p).digest → Does (.auditStep b votes) s fun t => (t.pad p).state = 0 ∧ (t.pad p).wen = false ∧
        bit (t.reg .cfgPevent b a.pad) 1 = true ∧ bit (t.reg .bayEvent b) 6 = true ∧ bit (t.reg .cfgErrpin 0) 1 = true ∧
        ∀ q, q ≠ p → t.pad q = s.pad q))) ∧
  (∀ (s : State) (d : List Byte), d = sha384 s.fpBytes → Does .fingerprintRecompute s fun t => SameBut [.regs, .events] s t ∧
    (∀ w < 12, t.reg .cfgFp 0 w = ofLe ((d.drop (4 * w)).take 4)) ∧ t.reg .cfgFp64 0 = ofLe (d.take 8) ∧
    (ofLe (d.take 8) = s.reg .cfgFp64 0 → t.events = s.events) ∧
    (ofLe (d.take 8) ≠ s.reg .cfgFp64 0 → bit (t.reg .cfgLevent 0) 3 = true)) ∧
  (∀ (m : Master) (v : Word32) (s : State), s.responds .cfg = true → (s.view m).may .cfgErrpin true = true →
    Does (.errpinWrite m v) s fun t => SameBut [.regs] s t ∧ RegsBut [(RegAt.mk .cfgErrpin 0 0 0).off] s t ∧
      bit (t.reg .cfgErrpin 0) 1 = (bit (s.reg .cfgErrpin 0) 1 && bit v.toNat 1) ∧
      bit (t.reg .cfgErrpin 0) 0 = bit (s.reg .cfgErrpin 0) 0)

/-- A stream that passes checks 1 to 8 verifies under the owner key, meets the minimum SVN, and names distinct paddocks of
unfenced bays; its targets are then isolated and LOADING. A refusal writes nothing, records its code, and in OPEN fails the
session. Each block that passes is decrypted to its frames or block memories; one that fails aborts with its code, and every
target is UNCONFIGURED. With right digests and every PLL locked, the commit makes the targets LOADED with their digests and takes
the epoch. The model's choices it rests on: log entries 123, 124, 125, 129, 130, 133. (R311, R312, R313, R319, R320, R321, R322,
R325) -/
def Obligations.TheLoaderChecksAndCommits : Prop :=
  (∀ (s : State) (l l' : Load) (c : Option Nat) (sv : Nat), s.loadChecks l = (c, l') → sv = s.cfg.session →
    (sv = 1 ∨ sv = 3 → c = some 1) ∧
    (c = none → sv ≠ 1 ∧ sv ≠ 3 ∧ (∃ all key digest, all = (s.streamRead l 0 (256 + l'.mlen)).1 ∧ key = (all.drop 64).take 96 ∧
        (s.ownerDigest).1 = some digest ∧ digest = sha384 key ∧
        ecdsaVerify key (sha384 (all.take (160 + l'.mlen))) ((all.drop (160 + l'.mlen)).take 96) = true) ∧
      l.len = 256 + l'.mlen + 65616 * l'.nblk ∧ l'.mlen = 64 + 128 * l'.regions.length ∧ 1 ≤ l'.nblk ∧ l'.nblk ≤ 57344 ∧
      (∀ r ∈ l'.regions, r.pad < 256 ∧ r.ffirst ≤ r.flast ∧ r.flast < 14336 ∧ (r.mem = true → r.mfirst ≤ r.mlast ∧ r.mlast < 448) ∧
        s.isFenced (r.pad / 8) = false ∧ (sv = 0 → (s.pad r.pad).state = 0)) ∧
      (l'.regions.map Region.pad).Nodup ∧ (sv = 2 → l'.regions.map Region.pad = [l.target]))) ∧
  (∀ (s : State) (l l' : Load) (c : Option Nat), s.cfg.load = some l → l.stage = 1 → s.loadChecks l = (c, l') →
    (∀ code, c = some code → Does .loaderChecks s fun t => t.mem = s.mem ∧ t.cfg.load = none ∧ t.cfg.frames = s.cfg.frames ∧
      bits (t.reg .cfgLoadResult 0) 31 28 = code ∧ bit (t.reg .cfgLevent 0) 1 = true ∧
      t.cfg.session = (if s.cfg.session = 0 then 3 else s.cfg.session) ∧ (s.cfg.session = 0 → bit (t.reg .cfgErrpin 0) 0 = true) ∧
      ∀ p, t.pad p = { s.pad p with status := (t.pad p).status }) ∧
    (c = none → Does .loaderChecks s fun t => t.cfg.load = some { l' with stage := 2 } ∧ t.cfg.frames = s.cfg.frames ∧
      (∀ r ∈ l'.regions, (t.pad r.pad).state = 1 ∧ (t.pad r.pad).wen = false) ∧
      ∀ p, p ∉ l'.regions.map Region.pad → t.pad p = s.pad p)) ∧
  (∀ (s : State) (l : Load), s.cfg.load = some l →
    (l.stage = 2 → Does .loaderClearDone s fun t => SameBut [.mem, .memTag, .cfg] s t ∧ t.cfg.load = some { l with stage := 3 } ∧
      t.cfg.pads = s.cfg.pads ∧ (∀ r ∈ l.regions, Tab.get [] t.cfg.frames r.pad = []) ∧
      (∀ p, p ∉ l.regions.map Region.pad → Tab.get [] t.cfg.frames p = Tab.get [] s.cfg.frames p) ∧
      (∀ r ∈ l.regions, ∀ k < 448, (r.mem = true → k < r.mfirst ∨ r.mlast < k) → ∀ x < 16384,
        Tab.get 0 t.mem (blockAddr (r.pad / 8) ((448 * (r.pad % 8) + k) * 16384) + x) = 0)) ∧
    (l.stage = 3 → ∀ (bs h : List Byte) (ok : Bool), s.streamRead l (256 + l.mlen + l.next * 65616) 65616 = (bs, ok) → h = bs.take 64 →
      (∀ (k plain : List Byte), ok = true → blockFormOk l h = true → s.chosenKey l.keysrc = some k →
        gcmOpen k (l.id ++ h.take 4) h ((bs.drop 64).take 65536) (bs.drop 65600) = some plain → blockRangeOk l h = true →
        plain.length = 65536 → Does .payloadBlock s fun t => SameBut [.regs, .mem, .memTag, .cfg] s t ∧
          t.cfg.load = some { l with next := l.next + 1, stage := if l.next + 1 = l.nblk then 4 else 3 } ∧ t.cfg.pads = s.cfg.pads ∧
          (field h 4 1 = 0 → t.mem = s.mem ∧
            readBytes (Tab.get [] t.cfg.frames (field h 6 2)) (field h 8 2 * 512) (field h 10 2 * 512) = plain.take (field h 10 2 * 512) ∧
            ∀ p, p ≠ field h 6 2 → Tab.get [] t.cfg.frames p = Tab.get [] s.cfg.frames p) ∧
          (field h 4 1 = 1 → t.cfg.frames = s.cfg.frames ∧
            t.read (blockAddr (field h 6 2 / 8) ((448 * (field h 6 2 % 8) + field h 8 2) * 16384)) (field h 10 2 * 16384) =
              plain.take (field h 10 2 * 16384))) ∧
      (∀ code : Nat, (ok = false ∧ code = 12 ∨ ok = true ∧ blockFormOk l h = false ∧ code = 9 ∨
          ok = true ∧ blockFormOk l h = true ∧ code = 11 ∧ blockRangeOk l h = false ∧ ((s.chosenKey l.keysrc).bind fun k =>
            gcmOpen k (l.id ++ h.take 4) h ((bs.drop 64).take 65536) (bs.drop 65600)).isSome = true ∨
          ok = true ∧ blockFormOk l h = true ∧ code = 10 ∧ ((s.chosenKey l.keysrc).bind fun k =>
            gcmOpen k (l.id ++ h.take 4) h ((bs.drop 64).take 65536) (bs.drop 65600)) = none) →
        Does .payloadBlock s fun t => t.mem = s.mem ∧ t.cfg.frames = s.cfg.frames ∧ t.cfg.load = none ∧
          bits (t.reg .cfgLoadResult 0) 31 28 = code ∧ bit (t.reg .cfgLevent 0) 1 = true ∧
          (∀ r ∈ l.regions, (t.pad r.pad).state = 0 ∧ (t.pad r.pad).wen = false) ∧
          (∀ p, p ∉ l.regions.map Region.pad → t.pad p = s.pad p) ∧
          t.cfg.session = (if s.cfg.session = 0 then 3 else s.cfg.session))) ∧
    (l.stage = 4 →
      ((∀ r ∈ l.regions, s.padDigest r.pad = r.digest) → Does .loaderDigest s fun t => SameBut [.regs, .events, .fabs, .cfg] s t ∧
        t.cfg.pads = s.cfg.pads ∧ ∃ st, t.cfg.load = some { l with stage := 5, started := st, since := s.local 32 }) ∧
      ((∃ r ∈ l.regions, s.padDigest r.pad ≠ r.digest) → Does .loaderDigest s fun t => t.cfg.load = none ∧
        bits (t.reg .cfgLoadResult 0) 31 28 = 13 ∧ ∀ r ∈ l.regions, (t.pad r.pad).state = 0)) ∧
    (l.stage = 5 → l.started ≠ [] →
      ((∀ x ∈ l.started, (s.fab x.1).lock.getD x.2 false = true) →
        exec .clockPlanLock s = .next { s with cfg := { s.cfg with load := some { l with started := [] } } }) ∧
      ((∃ x ∈ l.started, (s.fab x.1).lock.getD x.2 false = false) → l.since + 10000 ≤ s.local 32 →
        Does .clockPlanLock s fun t => t.cfg.load = none ∧ bits (t.reg .cfgLoadResult 0) 31 28 = 14 ∧
          ∀ r ∈ l.regions, (t.pad r.pad).state = 0)) ∧
    (l.stage = 5 → l.started = [] → (l.regions.map Region.pad).Nodup → Does .loadCommit s fun t => SameBut [.regs, .events, .cfg] s t ∧
      t.cfg.load = none ∧ t.cfg.session = s.cfg.session ∧ t.cfg.frames = s.cfg.frames ∧ t.reg .cfgEpoch 0 = l.epoch ∧
      bits (t.reg .cfgLoadResult 0) 31 28 = 0 ∧ bit (t.reg .cfgLevent 0) 0 = true ∧
      (∀ r ∈ l.regions, (t.pad r.pad).state = 2 ∧ (t.pad r.pad).status = 0 ∧ (t.pad r.pad).digest = r.digest ∧ (t.pad r.pad).nets = r.nets ∧
        ∀ n, needPll (t.pad r.pad).plls n = needPll r.plls n) ∧
      ∀ p, p ∉ l.regions.map Region.pad → t.pad p = s.pad p))

/-- EN takes a DOWN link to DETECT and, cleared, any link to DOWN with what it held refused. Signal on MINWIDTH lanes leads to
LOCK, every signalling lane locked to CONFIG, whose width is the largest of 16, 8, 4, 2 and 1 that the live lanes give; a higher
agreed rate leads to STEP, else the link is UP, or in MISMATCH for another module or fingerprint. Timeouts lead back to DETECT
with their event, or end a step after its repeat. A lane that loses lock retrains and keeps what is unacknowledged. An idle link
sleeps on request and wakes on a burst. In a fenced bay, and in a state that a command does not concern, nothing happens. The
model's choices it rests on: log entries 149, 155, 157, 158, 159, 160, 164. (R361, R371, R372, R374, R380, R381, R382) -/
def Obligations.LinksTrainAndSleep : Prop :=
  ∀ (k : PortId) (s : State) (b : Nat) (l : Link), b = 8 * k.val + 7 → l = s.link k →
    (∀ (m : Master) (v : Word32) (c : Instr), (c = .linkEnable m k v ∨ c = .linkDisable m k v) →
      (c = .linkEnable m k v ∧ bit v.toNat 31 = false ∨ c = .linkDisable m k v ∧ bit v.toNat 31 = true ∨ s.responds .lnk = false →
        exec c s = .next s) ∧
      ((c = .linkEnable m k v ↔ bit v.toNat 31 = true) → s.responds .lnk = true → (s.view m).may .lnkCtl true = false →
        exec c s = .next (s.violateBy m (RegAt.mk .lnkCtl b 0 0).off true 0))) ∧
    (∀ (m : Master) (v : Word32), s.responds .lnk = true → (s.view m).may .lnkCtl true = true →
      (s.isFenced b = false → bit v.toNat 31 = true → Does (.linkEnable m k v) s fun t => SameBut [.free, .regs, .events, .net, .links] s t ∧
        bit (t.reg .lnkCtl b) 31 = true ∧ bits (t.reg .lnkCtl b) 30 28 = bits v.toNat 30 28 ∧ (∀ j, j ≠ k.val → t.link j = s.link j) ∧
        (l.state = 0 → (t.link k).state = 1 ∧ (t.link k).compat = bit v.toNat 30 ∧ (t.link k).fresh = true ∧ (t.link k).sent = []) ∧
        (l.state = 7 → bit v.toNat 21 = false → (t.link k).state = 8 ∧ (t.link k).burst = 200) ∧
        (l.state ≠ 0 → l.state ≠ 7 ∨ bit v.toNat 21 = true → (t.link k).state = l.state)) ∧
      (bit v.toNat 31 = false → Does (.linkDisable m k v) s fun t => bit (t.reg .lnkCtl b) 31 = false ∧ (t.link k).state = 0 ∧
        (∀ j, j ≠ k.val → t.link j = s.link j) ∧ (l.state ≠ 0 → (t.link k).sent = [] ∧ ∀ x ∈ (t.link k).atts, x.waiting = []) ∧
        (5 ≤ l.state → bit (t.reg .lnkEvent b) 0 = true))) ∧
    (∀ (lanes : BitVec 16) (p : PeerConfig) (lane : Fin 16) (c : Instr),
      (s.isFenced b = true ∧ c ∈ [Instr.signalDetected k lanes, .lanesLocked k lanes, .lockTimeout k, .config k p, .configTimeout k,
          .stepTimeout k lanes, .markerLockLoss k lane, .sleepIdle k, .sleepReq k, .sleepAck k, .wakeBurst k, .linkWakeTimeout k] ∨
        l.state ≠ 1 ∧ c = .signalDetected k lanes ∨ l.state ∉ [2, 4, 8] ∧ c = .lanesLocked k lanes ∨ l.state ≠ 2 ∧ c = .lockTimeout k ∨
        l.state ∉ [3, 5, 6, 8] ∧ c = .config k p ∨ l.state ≠ 3 ∧ c = .configTimeout k ∨ l.state ≠ 4 ∧ c = .stepTimeout k lanes ∨
        (l.state ∉ [5, 6] ∨ bit l.live lane = false) ∧ c = .markerLockLoss k lane ∨
        (l.state ≠ 5 ∨ bit (s.reg .lnkCtl b) 21 = false ∨ l.asked = false ∧ l.idle = false) ∧ c = .sleepIdle k ∨
        (l.state ∉ [5, 6] ∨ l.slotIs 3 [3] = false) ∧ c = .sleepReq k ∨ (l.state ∉ [5, 6] ∨ l.slotIs 3 [4] = false) ∧ c = .sleepAck k ∨
        l.state ≠ 8 ∧ c = .linkWakeTimeout k) → exec c s = .next s) ∧
    (s.isFenced b = false →
      (∀ lanes : BitVec 16,
        (l.state = 1 → Does (.signalDetected k lanes) s fun t => SameBut [.links] s t ∧ t.link k =
          { l with signal := lanes.toNat, lock := 0
                   state := if bits (s.reg .lnkCtl b) 27 23 ≤ lanesIn (lanes.toNat &&& s.usable k) then 2 else 1 }) ∧
        (l.state = 2 ∧ l.signal &&& s.usable k &&& lanes.toNat ≠ l.signal &&& s.usable k ∨ l.state = 4 ∧ l.live &&& lanes.toNat ≠ l.live →
          Does (.lanesLocked k lanes) s fun t => SameBut [.links] s t ∧ t.link k = { l with lock := lanes.toNat }) ∧
        (l.state = 2 ∧ l.signal &&& s.usable k &&& lanes.toNat = l.signal &&& s.usable k ∨ l.state = 4 ∧ l.live &&& lanes.toNat = l.live →
          Does (.lanesLocked k lanes) s fun t => SameBut [.free, .links] s t ∧ (t.link k).state = 3 ∧
            (t.link k).live = lanes.toNat &&& s.usable k ∧ (t.link k).rate = (if l.state = 4 ∧ l.falling = false then l.rate + 1 else l.rate) ∧
            (t.link k).sent = l.sent ∧ (t.link k).outs.length = lanesIn (t.link k).live ∧
            (t.link k).width ≤ lanesIn (t.link k).live ∧ ((t.link k).width = 0 ∨ (t.link k).width ∈ [1, 2, 4, 8, 16]) ∧
            ∀ w ∈ [1, 2, 4, 8, 16], w ≤ lanesIn (t.link k).live → w ≤ (t.link k).width) ∧
        (l.state = 8 → Does (.lanesLocked k lanes) s fun t => SameBut [.free, .links] s t ∧ (t.link k).state = 8 ∧
          (t.link k).lock = lanes.toNat ∧ (t.link k).sent = l.sent ∧ (t.link k).outs.length =
            if bits (s.reg .lnkCtl b) 27 23 ≤ lanesIn (lanes.toNat &&& s.usable k) then lanesIn (lanes.toNat &&& s.usable k) else 0)) ∧
      (l.state = 2 →
        (bits (s.reg .lnkCtl b) 27 23 ≤ lanesIn (l.lock &&& s.usable k) → Does (.lockTimeout k) s fun t => SameBut [.free, .links] s t ∧
          (t.link k).state = 3 ∧ (t.link k).live = l.lock &&& s.usable k) ∧
        (lanesIn (l.lock &&& s.usable k) < bits (s.reg .lnkCtl b) 27 23 → Does (.lockTimeout k) s fun t => (t.link k).state = 1 ∧
          (t.link k).sent = [] ∧ bit (t.reg .lnkEvent b) (if l.retrain then 0 else 4) = true)) ∧
      (∀ (p : PeerConfig) (step : Prop),
        (step ↔ l.state = 3 ∧ l.compat = false ∧ l.retrain = false ∧ l.fellBack = false ∧
          l.rate < min (bits (s.reg .lnkCtl b) 29 28) p.maxrate.toNat) →
        (l.state = 3 ∧ l.width < bits (s.reg .lnkCtl b) 27 23 ∨
            l.state = 8 ∧ widthOf (lanesIn (l.lock &&& s.usable k)) < bits (s.reg .lnkCtl b) 27 23 →
          Does (.config k p) s fun t => SameBut [.regs, .links] s t ∧ (t.link k).state = l.state ∧
            bits (t.reg .lnkPeer b) 31 16 = p.module.toNat) ∧
        (bits (s.reg .lnkCtl b) 27 23 ≤ l.width → step → Does (.config k p) s fun t => SameBut [.regs, .links] s t ∧
          (t.link k).state = 4 ∧ (t.link k).rate = l.rate ∧
          t.reg .lnkPeerFp b = p.fp64.toNat ∧ bits (t.reg .lnkPeer b) 31 16 = p.module.toNat) ∧
        (l.state = 3 ∧ bits (s.reg .lnkCtl b) 27 23 ≤ l.width ∧ ¬ step ∨
            l.state = 8 ∧ bits (s.reg .lnkCtl b) 27 23 ≤ widthOf (lanesIn (l.lock &&& s.usable k)) →
          (bits (s.reg .lnkId b) 31 16 ≠ 0 → bits (s.reg .lnkId b) 31 16 ≠ p.module.toNat → Does (.config k p) s fun t =>
            (t.link k).state = 6 ∧ (t.link k).mmcause = 2 ∧ bit (t.reg .lnkEvent b) 2 = true) ∧
          ((bits (s.reg .lnkId b) 31 16 = 0 ∨ bits (s.reg .lnkId b) 31 16 = p.module.toNat) →
            (l.compat = false → bit (s.reg .lnkCtl b) 22 = true → p.fp64.toNat ≠ s.reg .cfgFp64 0 → Does (.config k p) s fun t =>
              (t.link k).state = 6 ∧ (t.link k).mmcause = 1 ∧ bit (t.reg .lnkEvent b) 2 = true ∧ ∀ x ∈ (t.link k).atts, x.waiting = []) ∧
            (l.compat = true ∨ bit (s.reg .lnkCtl b) 22 = false ∨ p.fp64.toNat = s.reg .cfgFp64 0 → Does (.config k p) s fun t =>
              (t.link k).state = 5 ∧ (t.link k).mmcause = 0 ∧ (t.link k).retrain = false ∧ bit (t.reg .lnkEvent b) 1 = true ∧
              (l.fresh = true → (∀ x ∈ l.atts, x.waiting = []) → (t.link k).tx = 0 ∧ (t.link k).rx = 0 ∧ (t.link k).sent = [] ∧
                ∀ x ∈ (t.link k).atts, x.credits = 64)))) ∧
        (∀ frame : Bool, frame = (l.slotIs 3 ([1, p.version] ++ leBytes 2 p.module.toNat ++ leBytes 1 p.port.toNat ++
              leBytes 1 p.maxrate.toNat) &&
            ((l.slots.headD (0, [])).2.drop 8).take 12 == leBytes 8 p.fp64.toNat ++ leBytes 4 p.epoch.toNat) →
          l.state = 5 ∨ l.state = 6 → exec (.config k p) s =
            .next (if frame then ((s.modLink k Link.popSlot).showPeer k p).fpIn k p.fp64.toNat else s))) ∧
      (l.state = 3 → Does (.configTimeout k) s fun t => (t.link k).state = 1 ∧ (t.link k).sent = [] ∧
        bit (t.reg .lnkEvent b) (if l.retrain then 0 else 4) = true) ∧
      (∀ failed : BitVec 16, l.state = 4 →
        (l.falling = true → Does (.stepTimeout k failed) s fun t => (t.link k).state = 1 ∧
          bit (t.reg .lnkEvent b) (if l.retrain then 0 else 4) = true) ∧
        (l.falling = false → l.tries = 0 → Does (.stepTimeout k failed) s fun t => SameBut [.links] s t ∧ t.link k = { l with tries := 1 }) ∧
        (l.falling = false → l.tries ≠ 0 → Does (.stepTimeout k failed) s fun t => SameBut [.regs, .events, .links] s t ∧
          t.link k = { l with falling := true, fellBack := true, tries := 0 } ∧ bit (t.reg .lnkEvent b) 3 = true)) ∧
      (∀ lane : Fin 16, l.state = 5 ∨ l.state = 6 → bit l.live lane = true → Does (.markerLockLoss k lane) s fun t => SameBut [.links] s t ∧
        (t.link k).state = 2 ∧ (t.link k).retrain = true ∧ (t.link k).sent = l.sent ∧ (t.link k).rate = l.rate ∧
        bit (t.link k).lock lane = false ∧ (t.link k).atts = l.atts ∧ (l.sent ≠ [] → (t.link k).replay = true)) ∧
      (l.state = 5 → bit (s.reg .lnkCtl b) 21 = true → l.asked = true ∨ l.idle = true → Does (.sleepIdle k) s fun t =>
        SameBut [.free, .links] s t ∧ (t.link k).state = 5 ∧ (t.link k).asked = true ∧
        (l.sent.length < 1024 → ∃ x : Numbered, (t.link k).sent.getLast? = some x ∧ x.num = l.tx ∧ x.kind = 3 ∧ x.body.headD 0 = 3 ∧
          (t.link k).sent.map Numbered.num = l.sent.map Numbered.num ++ [l.tx])) ∧
      (l.slotIs 3 [3] = true →
        (l.state = 5 → l.idle = true → Does (.sleepReq k) s fun t => SameBut [.free, .links] s t ∧ (t.link k).state = 7 ∧
          (t.link k).slots = l.slots.drop 1 ∧ (l.sent.length < 1024 → ∃ x : Numbered, (t.link k).sent.getLast? = some x ∧ x.num = l.tx ∧
            x.kind = 3 ∧ x.body.headD 0 = 4)) ∧
        (l.state = 6 ∨ l.state = 5 ∧ l.idle = false → Does (.sleepReq k) s fun t => SameBut [.links] s t ∧ t.link k = l.popSlot)) ∧
      (l.state = 5 ∨ l.state = 6 → l.slotIs 3 [4] = true → Does (.sleepAck k) s fun t => SameBut [.links] s t ∧
        (t.link k).state = (if l.state = 5 ∧ l.asked = true then 7 else l.state) ∧ (t.link k).slots = l.slots.drop 1) ∧
      (Does (.wakeBurst k) s fun t => SameBut [.links] s t ∧ (∀ j, j ≠ k.val → t.link j = s.link j) ∧
        t.link k = if l.state = 7 then { l with state := 8, lock := 0, asked := false, burst := 200 } else l) ∧
      (l.state = 8 → Does (.linkWakeTimeout k) s fun t => (t.link k).state = 1 ∧ bit (t.reg .lnkEvent b) 0 = true))

/-- Stuffing and scrambling are undone exactly. A codeword that decodes, follows its stream and bears the expected number advances
the number and hands its slots on; an uncorrectable or unexpected one is discarded, and a NAK sent; a skew of more than 4
codewords, an STRIDX that does not follow and 8 wrong markers in a row start a retrain. A CONTROL slot frees the replay buffer up
to ACK, answers its MSGs, returns credits up to 64, and a NAK sends the rest again, in MISMATCH only what stands before the first
flit; 8 replays in succession start a retrain. A FLIT slot becomes an MSG of this attachment to its DELIVER endpoint. A
fingerprint that differs moves UP to MISMATCH, one that matches back. Injections are kept for the next codeword or bit; a locked
checker counts every bit that differs. Each command completes; where its slot is not the next, or the port is fenced or not in UP
or MISMATCH, nothing happens. The model's choices it rests on: log entries 150, 151, 152, 153, 154, 156, 161, 162, 165. (R366,
R367, R368, R369, R374, R375, R376, R377, R381, R383, R384) -/
def Obligations.LinksCarryFlitsReliably : Prop :=
  (∀ (x : Fin 4) (n : Nat) (r : Nat) (p : List (Fin 4)) (bs : List Bool), n ≤ 6 → (unstuff x n (stuff x n p)) = (p, 0) ∧
    scramble r (scramble r bs) = bs ∧ (bs.length % 2 = 0 → pamBits (pamOf bs) = bs)) ∧
  ∀ (k : PortId) (s : State) (b : Nat) (l : Link) (works : Prop), b = 8 * k.val + 7 → l = s.link k →
    (works ↔ s.isFenced b = false ∧ (l.state = 5 ∨ l.state = 6)) →
    (∀ (number : Word32) (skew : Fin 16) (line : List (Fin 4)) (ack : Word32) (nak : Bool) (credits : List Nat) (f : Flit) (fp : Word64)
        (epoch : Word32) (frame : List Byte), frame = [2, 0, 0, 0, 0, 0, 0, 0] ++ leBytes 8 fp.toNat ++ leBytes 4 epoch.toNat →
      (¬ works → ∀ c ∈ [Instr.codeword k number line skew, .control k ack nak credits, .flit k f, .fp k fp epoch, .fpSend k],
        exec c s = .next s) ∧
      (l.slotIs 2 (controlBytes ack nak credits) = false → exec (.control k ack nak credits) s = .next s) ∧
      (l.slotIs 1 ((Flit.wire f).take 78) = false → exec (.flit k f) s = .next s) ∧
      (l.slotIs 3 frame = false → exec (.fp k fp epoch) s = .next s) ∧
      (l.compat = true ∨ 1024 ≤ l.sent.length → exec (.fpSend k) s = .next s)) ∧
    (works →
      (∀ (number : Word32) (skew : Fin 16) (line : List (Fin 4)) (got : Option (Codeword × Nat)) (e z phys wrong : Nat),
        l.receive line = (got, e, z) → phys = l.lanes.getD (l.rxIdx % max 1 l.width) 0 →
        wrong = (if l.compat || line.take 16 == markerOf phys then 0 else Tab.get 0 l.marks phys + 1) →
        ∀ (P : State → Prop), (∀ t, P t ↔ SameBut [.free, .regs, .links] s t ∧
            RegsBut [(RegAt.mk .lnkStuffErr b 0 0).off, (RegAt.mk .lnkCwUncorr b 0 0).off, (RegAt.mk .lnkCwCorr b 0 0).off,
              (RegAt.mk .lnkSymCorr b 0 0).off] s t ∧ (t.link k).rxIdx = l.rxIdx + 1 ∧ Tab.get 0 (t.link k).marks phys = wrong ∧
            t.reg .lnkStuffErr b = min (Rn.top .lnkStuffErr) (s.reg .lnkStuffErr b + e) ∧ ∀ j, j ≠ k.val → t.link j = s.link j) →
        (4 < skew.val ∨ 8 ≤ wrong → Does (.codeword k number line skew) s fun t => P t ∧ (t.link k).state = 2 ∧ (t.link k).retrain = true ∧
          (t.link k).slots = l.slots ∧ (t.link k).sent = l.sent ∧ (skew.val ≤ 4 → bit (t.link k).lock phys = false)) ∧
        (skew.val ≤ 4 → wrong < 8 → ∀ (Q : State → Prop), (∀ t, Q t ↔ (t.link k).naking = true ∧ (t.link k).rx = l.rx ∧
            (t.link k).slots = l.slots ∧ (t.link k).state = l.state ∧ (1024 ≤ l.sent.length → (t.link k).nak = true ∧ (t.link k).sent = l.sent) ∧
            (l.sent.length < 1024 → (t.link k).sent.map Numbered.num = l.sent.map Numbered.num ++ [l.tx] ∧
              ∃ x, (t.link k).sent.getLast? = some x ∧ x.kind = 0)) →
          (got = none → Does (.codeword k number line skew) s fun t => P t ∧ Q t ∧
            t.reg .lnkCwUncorr b = min (Rn.top .lnkCwUncorr) (s.reg .lnkCwUncorr b + 1)) ∧
          (∀ c n, got = some (c, n) → Does (.codeword k number line skew) s fun t => P t ∧ t.reg .lnkCwUncorr b = s.reg .lnkCwUncorr b ∧
            (n ≠ 0 → t.reg .lnkCwCorr b = min (Rn.top .lnkCwCorr) (s.reg .lnkCwCorr b + 1) ∧
              t.reg .lnkSymCorr b = min (Rn.top .lnkSymCorr) (s.reg .lnkSymCorr b + n)) ∧
            (c.stridx ≠ l.rxIdx % 8 → (t.link k).state = 2 ∧ (t.link k).retrain = true ∧ (t.link k).slots = l.slots ∧
              (t.link k).sent = l.sent) ∧
            (c.stridx = l.rxIdx % 8 → (t.link k).state = l.state ∧
              (c.unnum = false → number.toNat = l.rx → (t.link k).rx = (l.rx + 1) % 2 ^ 32 ∧ (t.link k).nak = false ∧
                (t.link k).naking = false ∧ (t.link k).slots = l.slots ++ actedSlots c) ∧
              (c.unnum = false → number.toNat ≠ l.rx → l.naking = false → Q t) ∧
              (c.unnum = true ∨ number.toNat ≠ l.rx ∧ l.naking = true → (t.link k).rx = l.rx ∧ (t.link k).nak = l.nak ∧
                (t.link k).slots = l.slots ∧ (t.link k).sent = l.sent))))) ∧
      (∀ (ack : Word32) (nak : Bool) (credits : List Nat) (pre rest : List Numbered),
        l.slotIs 2 (controlBytes ack nak credits) = true → l.sent = pre ++ rest →
        ((∃ p x, pre = p ++ [x] ∧ x.num = ack.toNat ∧ ∀ y ∈ p, y.num ≠ ack.toNat) ∨ (pre = [] ∧ ∀ y ∈ rest, y.num ≠ ack.toNat)) →
        Does (.control k ack nak credits) s fun t => SameBut [.free, .regs, .events, .net, .links] s t ∧
          t.net = ((pre.filterMap Numbered.f).foldl (fun u f => u.respond f (f.answer 0x13 [])) s).net ∧
          (t.link k).slots = l.slots.drop 1 ∧ (∃ more, (t.link k).sent.map Numbered.num = rest.map Numbered.num ++ more) ∧
          t.reg .lnkFlits b % 2 ^ 32 = min (2 ^ 32 - 1) (s.reg .lnkFlits b % 2 ^ 32 + (pre.filterMap Numbered.f).length) ∧
          ((∀ x ∈ l.atts, x.waiting = []) → (t.link k).sent.map Numbered.num = rest.map Numbered.num ∧
            (∀ a < 8, ((t.link k).atts.getD a {}).credits = if (l.atts.getD a {}).credits + credits.getD a 0 % 256 ≤ 64
              then (l.atts.getD a {}).credits + credits.getD a 0 % 256 else (l.atts.getD a {}).credits) ∧
            (nak = false → (t.link k).sent = rest ∧ (t.link k).state = l.state ∧ t.reg .lnkReplay b = s.reg .lnkReplay b) ∧
            (nak = true → ∀ again, again = (if l.state = 5 then rest else rest.takeWhile fun x => x.kind != 1) →
              t.reg .lnkReplay b = min (Rn.top .lnkReplay) (s.reg .lnkReplay b + again.length) ∧
              (t.link k).state = if (again.any fun x => decide (8 ≤ x.replays + 1)) ||
                (rest.drop again.length).any fun x => decide (8 ≤ x.replays) then 2 else l.state))) ∧
      (∀ f : Flit, l.slotIs 1 ((Flit.wire f).take 78) = true → ∀ a, a = f.dest.toNat % 8 →
        (bit (s.reg .lnkAtt b a) 31 = true → Does (.flit k f) s fun t => SameBut [.regs, .events, .net, .links] s t ∧
          (t.link k).slots = l.slots.drop 1 ∧ ∃ m : Flit, t.net = (s.send { f := m }).net ∧
            m.dest.toNat = s.reg .lnkAtt b a % 2 ^ 16 ∧ m.src.toNat = attAddr k a ∧ m.op = 6 ∧
            m.deadline = f.deadline ∧ m.tag = f.tag ∧ m.pall = f.pall ∧ m.payload = fitBytes 64 f.payload) ∧
        (bit (s.reg .lnkAtt b a) 31 = false → Does (.flit k f) s fun t => SameBut [.links] s t ∧
          (t.link k).slots = l.slots.drop 1 ∧ (a < l.atts.length → ((t.link k).atts.getD a {}).returns = (l.atts.getD a {}).returns + 1))) ∧
      (∀ (fp : Word64) (epoch : Word32),
        l.slotIs 3 ([2, 0, 0, 0, 0, 0, 0, 0] ++ leBytes 8 fp.toNat ++ leBytes 4 epoch.toNat) = true →
        (l.compat = true → Does (.fp k fp epoch) s fun t => SameBut [.links] s t ∧ t.link k = l.popSlot) ∧
        (l.compat = false → Does (.fp k fp epoch) s fun t => t.reg .lnkPeerFp b = fp.toNat ∧ (t.link k).fpvalid = true ∧
          (bit (s.reg .lnkCtl b) 22 = false → (t.link k).state = l.state) ∧
          (bit (s.reg .lnkCtl b) 22 = true → fp.toNat ≠ s.reg .cfgFp64 0 → (t.link k).state = 6 ∧
            (l.state = 5 → (t.link k).mmcause = 1 ∧ bit (t.reg .lnkEvent b) 2 = true)) ∧
          (bit (s.reg .lnkCtl b) 22 = true → fp.toNat = s.reg .cfgFp64 0 →
            (l.state = 5 ∨ l.mmcause = 1 → (t.link k).state = 5 ∧ (l.state = 6 → bit (t.reg .lnkEvent b) 1 = true)) ∧
            (l.state = 6 → l.mmcause ≠ 1 → (t.link k).state = 6)))) ∧
      (l.compat = false → l.sent.length < 1024 → Does (.fpSend k) s fun t => SameBut [.free, .links] s t ∧
        (t.link k).state = l.state ∧ (t.link k).tx = (l.tx + 1) % 2 ^ 32 ∧
        (t.link k).sent.map Numbered.num = l.sent.map Numbered.num ++ [l.tx] ∧
        ∃ x : Numbered, (t.link k).sent.getLast? = some x ∧ x.num = l.tx ∧ x.kind = 3 ∧ x.f = none ∧
          x.body = [2, 0, 0, 0, 0, 0, 0, 0] ++ leBytes 8 (s.reg .cfgFp64 0) ++ leBytes 4 (s.reg .cfgEpoch 0) ++ List.replicate 60 0)) ∧
    (∀ (m : Master) (v : Word32) (lane : Fin 16),
      (s.responds .lnk = false → exec (.fecInj m k v) s = .next s ∧ exec (.injOne m k lane v) s = .next s) ∧
      (bit v.toNat 27 = false → exec (.injOne m k lane v) s = .next s) ∧
      (s.responds .lnk = true →
        ((s.view m).may .lnkFecInj true = false →
          exec (.fecInj m k v) s = .next (s.violateBy m (RegAt.mk .lnkFecInj b 0 0).off true 0)) ∧
        ((s.view m).may .lnkFecInj true = true → bits v.toNat 4 0 = 0 → exec (.fecInj m k v) s = .next s) ∧
        ((s.view m).may .lnkFecInj true = true → bits v.toNat 4 0 ≠ 0 → Does (.fecInj m k v) s fun t => SameBut [.links] s t ∧
          t.link k = { l with inj := bits v.toNat 4 0 }) ∧
        ((s.view m).may .lnkLaneCtl true = false → bit v.toNat 27 = true →
          exec (.injOne m k lane v) s = .next (s.violateBy m (RegAt.mk .lnkLaneCtl b lane 0).off true 0)) ∧
        ((s.view m).may .lnkLaneCtl true = true → bit v.toNat 27 = true → Does (.injOne m k lane v) s fun t => SameBut [.regs, .links] s t ∧
          RegsBut [(RegAt.mk .lnkLaneCtl b lane 0).off] s t ∧ Tab.get false (t.link k).injOne lane = true ∧
          t.link k = { l with injOne := (t.link k).injOne, checks := (t.link k).checks, gens := (t.link k).gens }))) ∧
    (∀ (lane : Fin 16) (bs : List Bool) (r : Nat) (c : Checker), r = s.reg .lnkLaneCtl b lane → c = Tab.get {} l.checks lane.val →
      (s.isFenced b = true ∨ bit r 31 = false → exec (.patternCheck k lane bs) s = .next s) ∧
      (s.isFenced b = false → bit r 31 = true → Does (.patternCheck k lane bs) s fun t => SameBut [.regs, .links] s t ∧
        RegsBut [(RegAt.mk .lnkLaneErr b lane 0).off] s t ∧ t.link k = { l with checks := (t.link k).checks } ∧
        (bits r 29 28 = 3 → c.locked = true → t.reg .lnkLaneErr b lane = min (Rn.top .lnkLaneErr) (s.reg .lnkLaneErr b lane +
          ((bs.zip (List.range bs.length)).filter fun x => x.1 != bit (bits r 15 0) ((c.phase + x.2) % 16)).length)) ∧
        (∀ x e : Bool, bs = [x] → c.expect (bits r 29 28) (bits r 15 0) = some e →
          t.reg .lnkLaneErr b lane = min (Rn.top .lnkLaneErr) (s.reg .lnkLaneErr b lane + b2n (c.locked && x != e)) ∧
          (Tab.get ({} : Checker) (t.link k).checks lane).locked = (c.locked || x == e && decide (64 ≤ c.run + 1)))))

/-- The link goes down with an event and its requests wait; after 50 ms each queue that waits to read its ring stops with cause 3;
it comes up with its speed, width and HDM base. A read through the window enters the queue of its stack, a write stores its
enabled bytes alone; a fenced stack answers poison or discards, with HDMFENCE. A mailbox is claimed by one page, submitted,
answered at once when LEN or OPC is wrong, and released, also by force; other operations are ignored. SPDM and DOE requests are
answered; one above 4 KiB sets the Error bit. The model's choices it rests on: log entries 167, 168, 169, 170, 176, 177, 179, 180.
(R388, R390, R393, R399, R400, R401, R402) -/
def Obligations.HostLinkWindowAndDoe : Prop :=
  (∀ s : State,
    (s.hostUp = true → Does .hostLinkDown s fun t => SameBut [.regs, .events, .hostUp, .speed, .width, .hostWait] s t ∧
      RegsBut [(RegAt.mk .hstEvent 0 0 0).off] s t ∧ t.hostUp = false ∧ t.hostWait = true ∧ bit (t.reg .hstEvent 0) 1 = true) ∧
    (s.hostUp = false → s.hostWait = true → Does .linkDownTimeout s fun t => t.hostUp = false ∧ t.hostWait = false ∧
      (∀ q, s.reading (s.queue q) = true → (t.queue q).en = false ∧ (t.queue q).stop = 3 ∧ bit (t.reg .hstEvent 0) 0 = true) ∧
      ∀ q, (∀ e ∈ s.queues, e.1 = q → s.reading e.2 = false) → t.queue q = s.queue q) ∧
    (s.hostUp = false → exec .hostLinkDown s = .next s) ∧
    (s.hostUp = true ∨ s.hostWait = false → exec .linkDownTimeout s = .next s) ∧
    (∀ (speed width : Nat) (cfg : HostCfg) (P : State → Prop),
      (∀ t, P t ↔ t.hdm = (match cfg.hdm with | some b => if b % 2 ^ 28 = 0 then some b else s.hdm | none => s.hdm) ∧
        t.doeErr = (s.doeErr && !cfg.abort) ∧ t.mx.en = cfg.msixEn.getD s.mx.en ∧ t.mx.fmask = cfg.fmask.getD s.mx.fmask) →
      (s.hostUp = true → Does (.hostLinkUp speed width cfg) s fun t => SameBut [.hdm, .mx, .errs, .doeErr] s t ∧ P t) ∧
      (s.hostUp = false → s.board.powered = true → s.board.held = false → linkRateOk speed width = true →
        Does (.hostLinkUp speed width cfg) s fun t => t.hostUp = true ∧ t.hostWait = false ∧
          t.speed = speed ∧ t.width = width ∧ bit (t.reg .hstEvent 0) 1 = true ∧ t.said = some (.caps advertised) ∧ P t) ∧
      (s.hostUp = false → s.board.powered = false ∨ s.board.held = true ∨ linkRateOk speed width = false →
        exec (.hostLinkUp speed width cfg) s = .next s))) ∧
  (∀ (hpa base b off : Nat) (s : State), s.hdm = some base → s.hostUp = true → base ≤ hpa → hpa < base + 0x30000000000 →
    b = (hpa - base) / 64 * 64 / 0x1800000000 → off = (hpa - base) / 64 * 64 % 0x1800000000 →
    (s.isFenced b = true → Does (.memrd hpa) s (fun t => SameBut [.regs, .events, .said] s t ∧ bit (t.reg .hstEvent 0) 2 = true ∧
        t.said = some (.line hpa (List.replicate 64 0) true)) ∧
      ∀ data en poison, Does (.memwr hpa data en poison) s fun t => SameBut [.regs, .events] s t ∧ bit (t.reg .hstEvent 0) 2 = true) ∧
    (s.isFenced b = false → s.hbmOpen b = true →
      (((s.hbm b).pc (hbmPc off)).rq.length < 64 → Does (.memrd hpa) s fun t => SameBut [.regs, .hbms] s t ∧
        ∃ r, ((t.hbm b).pc (hbmPc off)).rq = ((s.hbm b).pc (hbmPc off)).rq ++ [r] ∧ r.ask = none ∧ r.hpa = hpa ∧
          r.line = hbmL off / 64 ∧ r.data = s.read ((hpa - base) / 64 * 64) 64 ∧ r.bad = s.poisoned ((hpa - base) / 64 * 64) 64) ∧
      (((s.hbm b).pc (hbmPc off)).wq.length < 64 → ∀ (data : List Byte) (en : BitVec 64) (poison : Bool), data.length = 64 →
        Does (.memwr hpa data en poison) s fun t => ∃ u : State, t = each (s.tailQueues ((hpa - base) / 64 * 64)) u (fun s q => s.readTail q) ∧
          SameBut [.regs, .mem, .memTag, .hbms, .errs] s u ∧
          (∀ y, y < (hpa - base) / 64 * 64 ∨ (hpa - base) / 64 * 64 + 64 ≤ y →
            Tab.get 0 u.mem y = Tab.get 0 s.mem y ∧ Tab.get false u.memTag y = Tab.get false s.memTag y) ∧
          ∀ i < 64, Tab.get 0 u.mem ((hpa - base) / 64 * 64 + i) = if bit en.toNat i = false then
            Tab.get 0 s.mem ((hpa - base) / 64 * 64 + i) else if poison then 0 else data.getD i 0))) ∧
  (∀ (p : Fin 4096) (v : Word32) (s : State) (m : Master) (u mb : Nat) (x : Mbox), s.responds .hst = true → u = p.val % 8 → mb = 8 + u →
    x = s.mbox mb → m = .bar2 p →
    (bits v.toNat 31 30 = 1 → x.state = 0 → Does (.claim p v) s fun t => SameBut [.mboxes] s t ∧
      t.mbox mb = { x with state := 1, owner := some p.val } ∧ ∀ y, y ≠ mb → t.mbox y = s.mbox y) ∧
    (bits v.toNat 31 30 = 1 → x.state ≠ 0 → exec (.claim p v) s = .next s) ∧
    (∀ i : MailboxId, i.val = mb → bits v.toNat 31 30 = 3 →
      (x.owner = some p.val → x.state = 1 → Does (.release m i v) s fun t => SameBut [.mboxes] s t ∧ t.mbox mb = { acount := x.acount }) ∧
      (x.owner = some p.val → x.state = 3 → Does (.release m i v) s fun t => SameBut [.mboxes] s t ∧ t.mbox mb = { x with state := 1 }) ∧
      (x.owner ≠ some p.val ∨ x.state = 2 → exec (.release m i v) s = .next s)) ∧
    (∀ i : Fin 8, i.val = u → ∀ w : Master, (s.view w).may .hstMbOwner true = true → bit v.toNat 31 = false → x.owner.isSome = true →
      Does (.ownerRelease w i v) s fun t => SameBut [.mboxes] s t ∧
        t.mbox mb = if x.state = 2 then { x with owner := none, drop := true } else { acount := x.acount })) ∧
  (∀ (m : Master) (i : MailboxId) (v : Word32) (s : State) (x : Mbox) (page : Option Nat), s.responds .hst = true → x = s.mbox i.val → s.fw = true →
    bits v.toNat 31 30 = 2 → x.drop = false →
    ((∃ p : Fin 4096, m = .bar2 p ∧ i.val = 8 + p.val % 8 ∧ page = some p.val ∧ x.owner = some p.val ∧ (x.state = 1 ∨ x.state = 3)) ∨
      ((∀ p, m ≠ .bar2 p) ∧ i.val < 8 ∧ (s.view m).may .hstStatus true = true ∧ page = none ∧ (x.state = 0 ∨ x.state = 3))) →
    (x.len ≤ 1760 → x.opc ∈ mailOpcodes → Does (.submit m i v) s fun t => SameBut [.mboxes] s t ∧ t.mbox i = { x with state := 2, page := page }) ∧
    (1760 < x.len → Does (.submit m i v) s fun t => SameBut [.msix, .mx, .mboxes] s t ∧ Answered s t i 0x10 []) ∧
    (x.len ≤ 1760 → x.opc ∉ mailOpcodes → Does (.submit m i v) s fun t => SameBut [.msix, .mx, .mboxes] s t ∧ Answered s t i 0x11 [])) ∧
  ∀ (size : Nat) (s : State) (a b : Bool) (o n : Nat) (nonce : List Byte) (code : Byte) (saying : Doe → State), s.hostUp = true →
    (∀ x, saying x = { s with said := some (.doe x x.object) }) →
    (4096 < size → ∀ c ∈ [Instr.getVersion size, .getCapabilities size, .negotiateAlgorithms a b size, .getDigests size,
        .getCertificate o n size, .challenge nonce size, .getMeasurements n a size, .keyExchange code size, .doeDiscovery n size],
      exec c s = .next { s with doeErr := true }) ∧
    (size ≤ 4096 → exec (.doeDiscovery n size) s = .next (saying (if n = 0 then .discovery 0 1 else if n = 1 then .discovery 1 0 else .noProtocol)) ∧
      (s.fw = true →
        exec (.getVersion size) s = .next (saying (.version 1 2)) ∧
        (∃ ct, 2 * 10 ^ 6 ≤ 2 ^ ct ∧ exec (.getCapabilities size) s = .next (saying (.capabilities ct))) ∧
        exec (.negotiateAlgorithms a b size) s = .next (saying (.algorithms a b)) ∧
        exec (.getDigests size) s = .next (saying (.digests (sha384 s.chain))) ∧
        (∃ c, exec (.getCertificate o n size) s = .next (saying (.certificate c (s.chain.length - o - min n 16368))) ∧
          c = (s.chain.drop o).take (min n 16368) ∧ (Doe.certificate c (s.chain.length - o - min n 16368)).object.length ≤ 16384) ∧
        (Does (.challenge nonce size) s fun t => SameBut [.free, .said] s t ∧
          ∃ own sig, t.said = (saying (.challengeAuth (sha384 s.chain) own sig)).said ∧ own.length = 32) ∧
        (∀ k : Nat, 1 ≤ k → k ≤ 4 → Does (.getMeasurements k a size) s fun t => SameBut [.free, .said] s t ∧
          ∃ v own sig, s.measurement k = some v ∧ t.said = (saying (.measurements 0 [(k, v)] own sig)).said ∧ own.length = 32 ∧
            (a = false → sig = [])) ∧
        exec (.keyExchange code size) s = .next (saying (.unsupported code))))

/-- A command from a view that may not issue it is answered MB_VIEW, one with a short payload or a reserved header byte MB_FORM,
and neither has another effect. IDENTIFY answers what the module is. FQ_CONFIG takes the queue as it stands in its control block;
FQ_STOP stops it with code 4. XLATE_INVAL drops the translations it names. PAGE_RESOLVED answers one notice, JOB_ABANDON settles
the status of the job. The context commands act on a context in the states they accept. BATCH_CLASS keeps a class whose image
passes. The model's choices it rests on: log entries 181, 182, 183, 184, 185, 206, 207. (R255, R260, R410, R426, R427, R428, R429,
R430, R431) -/
def Obligations.MailboxCommandsOnQueuesAndJobs : Prop :=
  ∀ (mb : MailboxId) (s : State),
    (∀ (good : Bool) (bad : Option Nat) (c : Instr) (op size : Nat) (all : Bool) (m : Mbox), MailCmd mb good bad c op all size → m = s.mbox mb →
      (m.state ≠ 2 ∨ m.opc ≠ op ∨ s.fw = false → exec c s = .next s) ∧
      (s.fw = true → m.state = 2 → m.opc = op → m.len ≤ 1760 → m.drop = false →
        (8 ≤ mb.val → all = false → Does c s fun t => SameBut [.msix, .mx, .mboxes] s t ∧ Answered s t mb 0x12 []) ∧
        ((8 ≤ mb.val → all = true) → m.len < size ∨ m.zeroTail = false →
          Does c s fun t => SameBut [.msix, .mx, .mboxes] s t ∧ Answered s t mb 0x10 []))) ∧
    (∀ m, s.Asks mb 0x01 0 true m → Does (.identify mb) s fun t => SameBut [.msix, .mx, .mboxes] s t ∧ Answered s t mb 0
      (leBytes 2 0x4832 ++ leBytes 1 0xA1 ++ [0] ++ leBytes 4 s.sec.version ++ leBytes 4 s.sec.svn ++ leBytes 4 s.fencedMask ++ leBytes 4 s.warms)) ∧
    (∀ (m : Mbox) (q : Nat) (f : FeedQueue) (bs : List Byte), s.Asks mb 0x10 80 false m → q = m.arg 0 1 → f = m.newQueue (s.queue q) →
      m.arg 1 1 < 8 → m.zero 6 8 = true → m.zero 41 48 = true → m.zero 76 80 = true →
      (fqRange m = true → Does (.fqConfig mb) s fun t => SameBut [.msix, .mx, .mboxes] s t ∧ Answered s t mb 0x13 []) ∧
      (fqRange m = false → (s.queueBusy q = true ∨ (s.queue q).waiting ≠ [] →
          Does (.fqConfig mb) s fun t => SameBut [.msix, .mx, .mboxes] s t ∧ Answered s t mb 0x14 []) ∧
        (s.queueBusy q = false → (s.queue q).waiting = [] → s.linkWaits f = false →
          (s.ringRead f f.cb 64 = none → Does (.fqConfig mb) s fun t => SameBut [.msix, .mx, .mboxes] s t ∧ Answered s t mb 0x13 []) ∧
          (s.ringRead f f.cb 64 = some bs → Does (.fqConfig mb) s fun t => SameBut [.regs, .mem, .memTag, .host, .hostTag, .events, .msix, .mx, .queues, .mboxes] s t ∧
            Answered s t mb 0 [] ∧ (t.queue q).en = true ∧ (t.queue q).head = field bs 0 4 ∧ (t.queue q).tail = field bs 0 4 ∧
            (t.queue q).written = field bs 4 4 ∧ (t.queue q).cdone = field bs 4 4 ∧ (t.queue q).aseq = m.arg 72 4 ∧
            (t.queue q).owner = m.arg 4 2 ∧ (t.queue q).root = bits (m.arg 48 8) 51 12 * 4096 ∧ (t.queue q).jseq = (s.queue q).jseq ∧
            (t.queue q).copies = s.journalBays q ∧ ∀ x, x ≠ q → t.queue x = s.queue x)))) ∧
    (∀ (m : Mbox) (q : Nat), s.Asks mb 0x11 1 false m → q = m.arg 0 1 →
      (64 ≤ q → Does (.fqStop mb) s fun t => SameBut [.msix, .mx, .mboxes] s t ∧ Answered s t mb 0x13 []) ∧
      (q < 64 → (s.queue q).en = false → Does (.fqStop mb) s fun t => SameBut [.msix, .mx, .mboxes] s t ∧ Answered s t mb 0 []) ∧
      (q < 64 → (s.queue q).en = true → Does (.fqStop mb) s fun t => Answered s t mb 0 [] ∧ (t.queue q).en = false ∧ (t.queue q).stop = 4 ∧
        (t.queue q).held = none ∧ (t.queue q).head = (s.queue q).head ∧ t.jobs = s.jobs ∧ ∀ x, x ≠ q → t.queue x = s.queue x)) ∧
    (∀ (m : Mbox) (q : Nat), s.Asks mb 0x20 24 true m → q = m.arg 0 1 → m.zero 1 8 = true → s.ownsQueue mb m q = true → q < 64 →
      m.arg 8 8 % 4096 = 0 → m.arg 8 8 < 2 ^ 48 → Does (.xlateInval mb) s fun t => SameBut [.msix, .mx, .stalls, .bayTlb, .mboxes] s t ∧
        Answered s t mb 0 [] ∧ (∀ g, t.stall g = { s.stall g with tlb := (t.stall g).tlb }) ∧
        ∀ (old new : List TlbEntry), (∃ g, old = (s.stall g).tlb ∧ new = (t.stall g).tlb) ∨
            (∃ b < 32, old = Tab.get [] s.bayTlb b ∧ new = Tab.get [] t.bayTlb b) → ∀ e, e ∈ new ↔ e ∈ old ∧ (e.queue = q →
              m.arg 16 8 ≠ 0 ∧ (m.arg 8 8 + m.arg 16 8 ≤ e.vpn * 2 ^ levelShift e.level ∨ (e.vpn + 1) * 2 ^ levelShift e.level ≤ m.arg 8 8))) ∧
    (∀ (m : Mbox) (q slot : Nat) (j : Job), s.Asks mb 0x21 16 true m → q = m.arg 0 1 → slot = m.arg 2 2 → j = s.job slot → m.zero 1 2 = true →
      m.zero 5 8 = true → s.ownsQueue mb m q = true → q < 64 → slot < 1024 → j.live = true → j.queue = q → j.gen = m.arg 4 1 → j.asking = true →
      (m.arg 8 8 ∈ j.notices → Does (.pageResolved mb) s fun t => SameBut [.msix, .mx, .jobs, .mboxes] s t ∧ Answered s t mb 0 [] ∧
        (t.job slot).notices = j.notices.erase (m.arg 8 8) ∧
        (2 ≤ j.notices.length → (t.job slot).asking = true ∧ (t.job slot).rerun = j.rerun) ∧
        (j.notices.length = 1 → (t.job slot).asking = false ∧ (t.job slot).rerun = j.mayRetry) ∧
        ∀ x, x ≠ slot → t.job x = { s.job x with causes := (t.job x).causes }) ∧
      (m.arg 8 8 ∉ j.notices → Does (.pageResolved mb) s fun t => SameBut [.msix, .mx, .mboxes] s t ∧ Answered s t mb 0x13 [])) ∧
    (∀ (m : Mbox) (q slot : Nat), s.Asks mb 0x22 8 true m → q = m.arg 0 1 → m.zero 1 4 = true → s.ownsQueue mb m q = true → q < 64 →
      (s.live.find? (fun j => (s.job j).queue == q && (s.job j).aseq == m.arg 4 4) = none →
        Does (.jobAbandon mb) s fun t => SameBut [.msix, .mx, .mboxes] s t ∧ Answered s t mb 0x13 []) ∧
      (s.live.find? (fun j => (s.job j).queue == q && (s.job j).aseq == m.arg 4 4) = some slot → Does (.jobAbandon mb) s fun t =>
        Answered s t mb 0 [] ∧ (t.job slot).live = (s.job slot).live ∧
          (t.job slot).own = some (if (s.job (s.runner slot)).asking then .poisoned else .abandoned))) ∧
    (∀ (m : Mbox) (c : Nat) (bs new : List Byte), c = m.arg 0 4 → c < 262144 → s.isFenced (c / 8192) = false → s.isFenced ((c / 8192 + 16) % 32) = false →
      bs = (if Tab.get false s.ctxLost c then List.replicate 64 0 else s.read (ctxHome c) 64) → new = m.payload 4 64 → (field bs 8 1 ≠ 0 → s.ownsQueue mb m (field bs 9 1) = true) →
      (s.Asks mb 0x33 4 true m → Does (.ctxRead mb) s fun t => SameBut [.msix, .mx, .mboxes] s t ∧ Answered s t mb 0 bs) ∧
      (∀ (k : Instr) (stored : List Byte), (k = .ctxOpen mb ∧ s.Asks mb 0x30 68 true m ∧ field bs 8 1 = 0 ∧ field new 8 1 = 1 ∧ stored = new ∨
          k = .ctxSet mb ∧ s.Asks mb 0x31 68 true m ∧ field bs 8 1 ≠ 0 ∧ (field new 8 1 = 1 ∨ field new 8 1 = 2) ∧ s.ctxBusy c = false ∧ stored = new ∨
          k = .ctxClose mb ∧ s.Asks mb 0x32 4 true m ∧ field bs 8 1 ≠ 0 ∧ s.ctxBusy c = false ∧ stored = List.replicate 64 0) →
        (k ≠ .ctxClose mb → ctxForm m = true ∧ field new 9 1 < 64 ∧ s.ownsQueue mb m (field new 9 1) = true) →
        Does k s fun t => SameBut [.mem, .memTag, .msix, .mx, .mboxes, .ctxLost] s t ∧ Answered s t mb 0 [] ∧ t.read (ctxHome c) 64 = stored ∧
          Tab.get false t.ctxLost c = false ∧
          t.read (ctxMirror c) 64 = stored ∧ ∀ y, (y < ctxHome c ∨ ctxHome c + 64 ≤ y) → (y < ctxMirror c ∨ ctxMirror c + 64 ≤ y) →
            Tab.get 0 t.mem y = Tab.get 0 s.mem y) ∧
      (∀ k : Instr, (k = .ctxSet mb ∧ s.Asks mb 0x31 68 true m ∧ ctxForm m = true ∧ s.ownsQueue mb m (field new 9 1) = true ∧
            (field new 8 1 = 1 ∨ field new 8 1 = 2) ∧ field new 9 1 < 64 ∨ k = .ctxClose mb ∧ s.Asks mb 0x32 4 true m) →
        (field bs 8 1 = 0 → Does k s fun t => SameBut [.msix, .mx, .mboxes] s t ∧ Answered s t mb 0x117 []) ∧
        (field bs 8 1 ≠ 0 → s.ctxBusy c = true → Does k s fun t => SameBut [.msix, .mx, .mboxes] s t ∧ Answered s t mb 0x14 []))) ∧
    (∀ (m : Mbox) (k q n : Nat) (x : Except Refuse Image), s.Asks mb 0x34 40 false m → k = m.arg 0 1 → q = m.arg 1 1 → m.zero 2 8 = true →
      m.zero 20 24 = true → k < 64 → q < 64 → m.arg 16 4 % 64 = 0 → m.arg 16 4 < 0xE00000 →
      (m.arg 32 4 = 0 ∨ 4096 < m.arg 32 4 ∨ 10000000 < m.arg 36 4 → Does (.batchClass mb) s fun t => SameBut [.msix, .mx, .mboxes] s t ∧ Answered s t mb 0x16 []) ∧
      (1 ≤ m.arg 32 4 → m.arg 32 4 ≤ 4096 → m.arg 36 4 ≤ 10000000 →
        (s.classOpen k = true → Does (.batchClass mb) s fun t => SameBut [.msix, .mx, .mboxes] s t ∧ Answered s t mb 0x14 []) ∧
        (s.classOpen k = false → s.imageWaits q (m.arg 8 8) false = false → s.readImage q (m.arg 8 8) false = (x, n) →
          (∀ r, x = .error r → Does (.batchClass mb) s fun t => SameBut [.regs, .msix, .mx, .mboxes] s t ∧ Answered s t mb r.status.code []) ∧
          (∀ im, x = .ok im → im.stage3 = none → s.stage4 q im = none → Does (.batchClass mb) s fun t => SameBut [.regs, .msix, .mx, .mboxes, .classes] s t ∧
            Answered s t mb 0 [] ∧ ∃ b : BatchClass, Tab.get none t.classes k = some b ∧ b.img = im ∧ b.queue = q ∧ b.fill = m.arg 32 4 ∧
              b.wait = m.arg 36 4 ∧ b.listOff = m.arg 16 4 ∧ b.result = m.arg 24 8 ∧ ∀ y, y ≠ k → Tab.get none t.classes y = Tab.get none s.classes y))))

/-- CFG_LOAD starts the loader and answers once the load has ended, with its status; CFG_SESSION, CFG_ISOLATE and SPDIGEST_SET
have the effect of their register commands; BAY_FENCE fences a bay and BAY_RETURN returns a fenced one that is fit, or answers
BAY_STATE; ENG_BUDGET sets the budget from the next tick, ENG_READ answers the counts. LC_TRANSITION refuses a request that fails
a check with its reason and takes a new nonce; one that passes blows the state bit. WARM_RESET is a warm reset and has no answer.
The model's choices it rests on: log entries 186, 187, 188, 213, 222, 223. (R31, R315, R326, R422, R427, R432, R448, R469, R471,
R472) -/
def Obligations.MailboxCommandsOnTheModule : Prop :=
  ∀ (mb : MailboxId) (s : State) (m : Mbox),
    (s.Asks mb 0x40 20 false m → m.arg 0 1 < 2 → m.zero 1 2 = true → m.zero 4 8 = true →
      (s.cfg.asked = none → s.cfg.load = none → m.arg 2 2 < 256 ∨ m.arg 2 2 = 0xFFFF → m.arg 8 8 < 2 ^ 52 →
        Does (.cfgLoad mb) s fun t => SameBut [.regs, .cfg] s t ∧ t.cfg.asked = some mb.val ∧ ∃ l : Load, t.cfg.load = some l ∧ l.stage = 1 ∧
          l.host = bit (m.arg 0 1) 0 ∧ l.addr = m.arg 8 8 ∧ l.len = m.arg 16 4 ∧ (m.arg 2 2 < 256 → l.target = m.arg 2 2)) ∧
      (s.cfg.asked ≠ some mb.val → s.cfg.load.isSome = true ∨ s.cfg.asked.isSome = true →
        Does (.cfgLoad mb) s fun t => SameBut [.msix, .mx, .mboxes] s t ∧ Answered s t mb 0x14 []) ∧
      (s.cfg.asked = some mb.val → s.cfg.load = none → Does (.cfgLoad mb) s fun t => SameBut [.msix, .mx, .cfg, .mboxes] s t ∧ t.cfg.asked = none ∧
        Answered s t mb (if bits (s.reg .cfgLoadResult 0) 31 28 = 0 then 0 else 0x300 + bits (s.reg .cfgLoadResult 0) 31 28) [])) ∧
    (∀ (op : Nat), s.Asks mb 0x41 1 false m → op = m.arg 0 1 →
      (op = 1 → s.cfg.session = 0 → Does (.cfgSession mb) s fun t => Answered s t mb 0 [] ∧
        t.cfg.session = (if bit (s.reg .cfgCtl 0) 31 then 2 else 1) ∧ t.cfg.doneOut = true) ∧
      (op = 2 → s.cfg.session = 0 ∨ s.cfg.session = 3 → Does (.cfgSession mb) s fun t => Answered s t mb 0 [] ∧ t.cfg.session = 0 ∧
        t.reg .cfgEpoch 0 = 0 ∧ ∀ p < 256, s.isFenced (p / 8) = false → (t.pad p).state = 0) ∧
      (op = 1 ∧ s.cfg.session ≠ 0 ∨ op = 2 ∧ s.cfg.session ≠ 0 ∧ s.cfg.session ≠ 3 →
        Does (.cfgSession mb) s fun t => SameBut [.msix, .mx, .mboxes] s t ∧ Answered s t mb 0x301 []) ∧
      (op ≠ 1 → op ≠ 2 → Does (.cfgSession mb) s fun t => SameBut [.msix, .mx, .mboxes] s t ∧ Answered s t mb 0x13 [])) ∧
    (∀ (p : Nat), s.Asks mb 0x42 2 false m → p = m.arg 0 2 →
      (p < 256 → s.cfg.load = none → s.isFenced (p / 8) = false → Does (.cfgIsolate mb) s fun t => Answered s t mb 0 [] ∧ (t.pad p).state = 0 ∧
        (t.pad p).digest = [] ∧ Tab.get [] t.cfg.frames p = [] ∧ ∀ q, q ≠ p → t.pad q = s.pad q) ∧
      (p < 256 → s.cfg.load.isSome = true → Does (.cfgIsolate mb) s fun t => SameBut [.msix, .mx, .mboxes] s t ∧ Answered s t mb 0x14 []) ∧
      (256 ≤ p → Does (.cfgIsolate mb) s fun t => SameBut [.msix, .mx, .mboxes] s t ∧ Answered s t mb 0x13 [])) ∧
    (s.Asks mb 0x43 48 false m → Does (.spdigestSet mb) s fun t => SameBut [.regs, .msix, .mx, .mboxes] s t ∧ Answered s t mb 0 [] ∧
      ∀ w < 12, t.reg .cfgSpdigest 0 w = m.arg (4 * w) 4) ∧
    (∀ (b : Nat) (good : Bool), b = m.arg 0 1 →
      (s.Asks mb 0x50 1 false m → (b < 32 → Does (.bayFence mb) s fun t => Answered s t mb 0 [] ∧ t.isFenced b = true ∧
          (s.isFenced b = false → bit (t.reg .bayEvent b) 0 = true) ∧ ∀ c, c ≠ b → t.isFenced c = s.isFenced c) ∧
        (32 ≤ b → Does (.bayFence mb) s fun t => SameBut [.msix, .mx, .mboxes] s t ∧ Answered s t mb 0x13 [])) ∧
      (s.Asks mb 0x51 1 false m → (b < 32 → s.isFenced b = true → good = true → Does (.bayReturn mb good) s fun t => Answered s t mb 0 [] ∧
          t.isFenced b = false ∧ bits (t.reg .engBayVset b) 9 0 = 750 ∧ (t.hbm b).ready = true ∧ Tab.get false t.board.railsUp b = true ∧
          (∀ c, c ≠ b → t.isFenced c = s.isFenced c) ∧
          ∀ c < 32, t.isFenced c = false → Tab.get 0 t.net.epoch c = (Tab.get 0 s.net.epoch c + 1) % 65536 ∧
            t.routeEntry c b = (RegAt.mk .nocRoute c b 0).reset) ∧
        (b < 32 → s.isFenced b = false ∨ good = false → Does (.bayReturn mb good) s fun t => SameBut [.msix, .mx, .mboxes] s t ∧
          Answered s t mb 0x15 []))) ∧
    (∀ (p w : Nat), s.Asks mb 0x60 8 false m → p = m.arg 0 4 → w = m.arg 4 4 →
      (1 ≤ p → p ≤ 27000 → 1 ≤ w → w ≤ 1000 → Does (.engBudget mb) s fun t => SameBut [.msix, .mx, .mboxes, .eng] s t ∧ Answered s t mb 0 [] ∧
        t.eng = { s.eng with budget := some (2 ^ 31 + p * 2 ^ 16 + w) }) ∧
      (p = 0 ∨ 27000 < p ∨ w = 0 ∨ 1000 < w → Does (.engBudget mb) s fun t => SameBut [.msix, .mx, .mboxes] s t ∧ Answered s t mb 0x13 [])) ∧
    (s.Asks mb 0x61 0 false m → Does (.engRead mb) s fun t => SameBut [.msix, .mx, .mboxes] s t ∧
      Answered s t mb 0 (leBytes 8 s.hubNow ++ (List.range 33).flatMap fun b => leBytes 8 (s.reg .engCount 0 b))) ∧
    (∀ (bad : Option Nat) (target : Nat), s.Asks mb 0x70 8 false m → target = m.arg 0 1 → m.zero 1 4 = true → m.arg 4 4 ≤ 1024 →
      8 + m.arg 4 4 ≤ m.len → s.sec.prog = none → s.cfg.load = none →
      (∀ r, s.lcCheck target (m.payload 8 (m.arg 4 4)) = some r → Does (.lcTransition mb bad) s fun t =>
        SameBut [.free, .regs, .events, .msix, .mx, .mboxes] s t ∧ Answered s t mb 0x17 [] ∧ bit (t.reg .secEvent) 1 = true) ∧
      (s.lcCheck target (m.payload 8 (m.arg 4 4)) = none →
        lcReach s.lc target = true ∧ m.arg 4 4 = 224 ∧
        ecdsaVerify (m.payload 40 96) (sha384 (m.payload 8 128)) (m.payload 136 96) = true ∧
        (∀ st, s.lcMissing target = some st → Does (.lcTransition mb bad) s fun t => SameBut [.free, .regs, .events, .msix, .mx, .mboxes] s t ∧
          Answered s t mb st.code [] ∧ s.fusesStay t ∧ t.lc = s.lc) ∧
        (s.lcMissing target = none → bad = none → Does (.lcTransition mb bad) s fun t => Answered s t mb 0 [] ∧ t.lc = target ∧ s.fusesStay t ∧
          (target = 4 ∨ target = 5 → t.sec.bkey = none ∧ (t.fuse 5).rev = true ∧ (t.fuse 4).rev = true ∧
            ∀ p < 256, s.isFenced (p / 8) = false → (t.pad p).state = 0) ∧
          (target = 5 → ∀ i < fuseWidth 3, bit (t.fuse 3).val i = true)))) ∧
    (s.Asks mb 0x80 0 false m → Does (.warmReset mb) s fun t => t = s.warmReset 2 ∧ t.tokens = [] ∧ t.answers = [] ∧ t.takeQ = [] ∧ t.reportQ = [] ∧
      (∀ x, (t.mbox x).state = 0 ∧ (t.mbox x).req = [] ∧ (t.mbox x).ans = []) ∧ (∀ g, (t.stall g).queue = [] ∧ (t.stall g).inflight = []) ∧
      s.fusesStay t ∧ t.fenced = s.fenced)

/-- A sample adds each bay's energy to its count in whole mJ, and to the hub's the input less the outputs; a tick records the
millisecond, sums the window and sets TICK, which TICK_ACK clears. A rail below its warning level raises its event, starts a
capture and counts; RECOVER above the release level ends it, and below keeps its lowest sample; one below its reset level fences
the bay. VSET takes multiples of 10 mV from the floor to VMAX. The ceiling lowers every bay on the second high sample in a row.
THROTTLE, HOT and TRIP act at their levels; TRIP fences. The model's choices it rests on: log entries 215, 216, 217, 221, 224,
225, 226. (R439, R440, R443, R444, R446, R447, R453, R454) -/
def Obligations.EnergyVoltageAndHeat : Prop :=
  (∀ (bays : List RailSample) (input : Nat) (s : State), Does (.ledgerSample bays input) s fun t => SameBut [.regs, .eng] s t ∧
      (∀ b x, b < 32 → bays[b]? = some x → s.isFenced b = false →
        t.reg .engCount 0 b = (s.reg .engCount 0 b + (Tab.get 0 s.eng.rest b + x.uJ) / 1000) % 2 ^ 64 ∧
        Tab.get 0 t.eng.rest b = (Tab.get 0 s.eng.rest b + x.uJ) % 1000 ∧ bits (t.reg .engBayRail b) 9 0 = x.coreMv % 1024 ∧
        bits (t.reg .engBayRail b) 25 16 = x.fabMv % 1024) ∧
      (∀ b, b < 32 → s.isFenced b = true ∨ bays.length ≤ b → t.reg .engCount 0 b = s.reg .engCount 0 b) ∧
      (bays = [] → t.reg .engCount 0 32 = (s.reg .engCount 0 32 + (Tab.get 0 s.eng.rest 32 + input) / 1000) % 2 ^ 64)) ∧
  (∀ (mJ : Nat) (s : State), s.eng.budget = none → Does (.ledgerTick mJ) s fun t => SameBut [.regs, .events, .jobs, .eng] s t ∧ t.eng.tick = true ∧
      t.eng.ring = (mJ :: s.eng.ring).take 1000 ∧
      t.reg .engWindowUsed 0 = (((mJ :: s.eng.ring).take 1000).take (bits (s.reg .engBudget 0) 9 0)).sum % 2 ^ 64) ∧
  (∀ (m : Master) (v : Word32) (s : State), s.responds .eng = true → (s.view m).may .engTickAck true = true → bit v.toNat 0 = true →
    exec (.tickAck m v) s = .next { s with eng := { s.eng with tick := false } }) ∧
  (∀ (b : BayId) (mv : Nat) (fab : Bool) (s : State) (c : Instr) (level k : Nat), s.isFenced b = false →
    (c = .corewarn b mv ∧ fab = false ∧ level = bits (s.reg .engBayWarn b) 9 0 ∧ k = 0 ∨
      c = .fabwarn b mv ∧ fab = true ∧ level = bits (s.reg .engBayWarn b) 25 16 ∧ k = 1) →
    (level ≤ mv → exec c s = .next s) ∧
    (mv < level → s.warning b fab = none → Does c s fun t => SameBut [.regs, .events, .jobs, .fabs, .eng] s t ∧
      t.warning b fab = some { since := s.local b, low := mv } ∧ bit (t.reg .engBayEvent b) k = true ∧
      (bit (s.reg .engBayEvent b) k = false → bit (t.reg .bayEvent b) (k + 1) = true) ∧
      t.reg .engBayWarns b = min (Rn.top .engBayWarns) (s.reg .engBayWarns b + 1) ∧
      (fab = false → (t.fab b).warnCore = true) ∧ (fab = true → (t.fab b).warnFab = true) ∧ t.reg .engBayVset b = s.reg .engBayVset b) ∧
    (∀ w, mv < level → s.warning b fab = some w → Does c s fun t => SameBut [.eng] s t ∧
      t.warning b fab = some { since := w.since, low := min w.low mv })) ∧
  (∀ (b : BayId) (fab : Bool) (mv release : Nat) (s : State), release = bits (s.reg .engBayWarn b) (if fab then 25 else 9) (if fab then 16 else 0) + 15 →
    (s.warning b fab = none → exec (.recover b fab mv) s = .next s) ∧
    ∀ w : RailWarn, s.warning b fab = some w →
      (mv ≤ release → Does (.recover b fab mv) s fun t => SameBut [.eng] s t ∧ t.warning b fab = some { since := w.since, low := min w.low mv }) ∧
      (release < mv → Does (.recover b fab mv) s fun t =>
        SameBut [.regs, .events, .fabs, .eng] s t ∧ t.warning b fab = none ∧ bit (t.reg .engBayEvent b) 2 = true ∧
        (fab = false → (t.fab b).warnCore = false) ∧ (fab = true → (t.fab b).warnFab = false) ∧
        (bits (s.reg .engBayDip b) 63 62 = (if fab then 2 else 1) → bit (s.reg .engBayDip b) 60 = false →
          bit (t.reg .engBayDip b) 60 = true ∧ bits (t.reg .engBayDip b) 57 48 = w.low % 1024))) ∧
  (∀ (b : BayId) (mv : Nat) (s : State), s.isFenced b = false →
    (mv < 580 → Does (.corereset b mv) s fun t => t.isFenced b = true ∧ bit (t.reg .engBayEvent b) 3 = true ∧ bit (t.reg .bayEvent b) 0 = true) ∧
    (mv < 720 → Does (.fabreset b mv) s fun t => t.isFenced b = true ∧ bit (t.reg .engBayEvent b) 4 = true ∧ bit (t.reg .bayEvent b) 0 = true) ∧
    (mv < 700 → Does (.hubwarn mv) s fun t => SameBut [.regs, .events] s t ∧ bit (t.reg .engRailEvent) 0 = true)) ∧
  (∀ (m : Master) (b : BayId) (v : Word32) (x : Nat) (s : State), s.responds .eng = true → (s.view m).may .engBayVset true = true → x = bits v.toNat 9 0 →
    (max (bits (s.reg .engBayVlim b) 9 0) (bits (s.reg .engBayWarn b) 9 0 + 30) ≤ x → x ≤ bits (s.reg .engBayVlim b) 25 16 → x % 10 = 0 →
      Tab.get false s.eng.hot b = false → Does (.vsetWrite m b v) s fun t => SameBut [.regs, .eng] s t ∧ bits (t.reg .engBayVset b) 9 0 = x) ∧
    (x < max (bits (s.reg .engBayVlim b) 9 0) (bits (s.reg .engBayWarn b) 9 0 + 30) ∨ bits (s.reg .engBayVlim b) 25 16 < x ∨ x % 10 ≠ 0 →
      exec (.vsetWrite m b v) s = .next s)) ∧
  (∀ (m : Master) (b : BayId) (v : Word64) (s : State), s.responds .eng = true → (s.view m).may .engBayDip true = true →
    (bit v.toNat 60 = false → bit (s.reg .engBayDip b) 60 = true → Does (.dipFree m b v) s fun t => SameBut [.regs] s t ∧
      RegsBut [(RegAt.mk .engBayDip b 0 0).off] s t ∧ t.reg .engBayDip b = 0) ∧
    (bit v.toNat 60 = true ∨ bit (s.reg .engBayDip b) 60 = false → exec (.dipFree m b v) s = .next s)) ∧
  (∀ (b : BayId) (measured : Nat) (s : State), measured < 4096 → Does (.rateMonitor b measured) s fun t => SameBut [.regs] s t ∧
    RegsBut [(RegAt.mk .engBayRate b 0 0).off] s t ∧ bits (t.reg .engBayRate b) 11 0 = measured ∧
    bits (t.reg .engBayRate b) 27 16 ≤ measured * (256 - bits (s.reg .engBayRateCtl b) 7 0) / 256) ∧
  (∀ (watts sum cap : Nat) (s : State), sum = (watts :: s.eng.watts.take 19).sum → cap = s.reg .engCap 0 →
    (96 * cap * 20 < sum * 100 → s.atFloor = false → (s.eng.up = 0 → Does (.capSample watts) s fun t => t.eng.offset = s.eng.offset ∧ t.eng.up = 1) ∧
      (s.eng.up ≠ 0 → Does (.capSample watts) s fun t => t.eng.offset = s.eng.offset + 1 ∧ t.eng.up = 0 ∧ t.eng.pace = s.eng.pace ∧
        (s.eng.offset = 0 → bit (t.reg .engEvent) 1 = true))) ∧
    (98 * cap * 20 < sum * 100 → s.atFloor = true → s.eng.up ≠ 0 → Does (.capSample watts) s fun t => t.eng.pace = min 15 (s.eng.pace + 1) ∧
      t.eng.offset = s.eng.offset) ∧
    (sum * 100 < 94 * cap * 20 → s.eng.below = 99 → Does (.capSample watts) s fun t =>
      if s.eng.pace = 0 then t.eng.offset = s.eng.offset - 1 ∧ t.eng.pace = 0 else t.eng.pace = s.eng.pace - 1 ∧ t.eng.offset = s.eng.offset)) ∧
  ∀ (b : BayId) (degC th : Nat) (s : State), s.isFenced b = false → th = bits (s.reg .engBayRateCtl b) 15 8 →
    (degC < 105 → Does (.throttle b degC) s fun t => SameBut [.regs, .events, .jobs, .eng] s t ∧ bits (t.reg .engBayTemp b) 7 0 = degC ∧
      (th ≤ degC → Tab.get false t.eng.throt b = true ∧ (Tab.get false s.eng.throt b = false → bit (t.reg .engBayEvent b) 5 = true)) ∧
      (degC + 3 ≤ th → Tab.get false t.eng.throt b = false) ∧ (degC < 100 → Tab.get false t.eng.hot b = false)) ∧
    (105 ≤ degC → degC < 115 → Does (.hot b degC) s fun t => SameBut [.regs, .events, .jobs, .eng] s t ∧ Tab.get false t.eng.hot b = true ∧
      (Tab.get false s.eng.hot b = false → bit (t.reg .engBayEvent b) 6 = true ∧
        bits (t.reg .engBayVset b) 9 0 = min (bits (s.reg .engBayVset b) 9 0) (s.vfloor b))) ∧
    (115 ≤ degC → Does (.trip b degC) s fun t => t.isFenced b = true ∧ bit (t.reg .engBayEvent b) 7 = true ∧ bit (t.reg .bayEvent b) 0 = true)

/-- The life-cycle state is the one whose bit is the highest bit blown of slot 0, BLANK with none blown, and SEC_STATUS.LC shows
its code; whatever command runs, every blown bit of every slot stays blown and the state never moves back. (R456) -/
def Obligations.FusesAreOnlyBlown : Prop :=
  (∀ (s : State) (k : Nat), bit (s.fuse 0).val k = true → (∀ j, k < j → bit (s.fuse 0).val j = false) → s.lc = k + 1) ∧
  (∀ s : State, (∀ j, bit (s.fuse 0).val j = false) → s.lc = 0) ∧
  (∀ (s : State) (m : Master), s.lc < 8 → bits (s.shown m ⟨.secStatus, 0, 0, 0⟩) 31 29 = s.lc) ∧
  ∀ (c : Instr) (s t : State), exec c s = .next t → s.fusesStay t ∧ s.lc ≤ t.lc

/-- A write of SEC_FUSE_PROG with GO while the programmer is idle starts the programming of its slot and kind, or ends at once
with the refusal code, or with OK where the bits are already blown; no fuse changes yet. FUSE_PROGRAMMED with a right read-back
blows the bits of the kind and reports OK; with a wrong one it reports VERIFY. BKEY_STORE takes the key in SEALED and FIELD only,
BKEY_ZERO clears it in any state. The model's choices it rests on: log entries 228, 229, 230. (R457, R458, R459, R462) -/
def Obligations.FuseProgrammingAndBatteryKey : Prop :=
  (∀ (m : Master) (v : Word32) (k slot : Nat) (c : Instr) (s : State),
    (c, k) ∈ [(Instr.fuseValue m v, 0), (.fuseFill m v, 1), (.fuseRevoke m v, 2), (.fuseState m v, 3)] →
    s.responds .sec = true → (s.view m).may .secFuseProg true = true → bits v.toNat 5 4 = k → bit v.toNat 31 = true →
    s.sec.prog = none → slot = (if k = 3 then 0 else bits v.toNat 2 0) →
    (s.fuseRefusal m slot k = none → s.fuseBlown slot k = false →
      Does c s fun t => SameBut [.free, .sec] s t ∧
        ∃ d, t.sec = { s.sec with prog := some { slot := slot, kind := k, data := d } } ∧ (¬ (k = 0 ∧ slot = 3) → d = s.fuseData)) ∧
    (∀ r, s.fuseRefusal m slot k = some r ∨ (s.fuseRefusal m slot k = none ∧ s.fuseBlown slot k = true ∧ r = 0) →
      Does c s fun t => SameBut [.regs, .events, .sec] s t ∧ t.sec = { s.sec with last := slot, result := r } ∧
        bit (t.reg .secEvent) 2 = true)) ∧
  (∀ (j : FuseJob) (s : State), s.sec.prog = some j →
    (Does (.fuseProgrammed true) s fun t => SameBut [.regs, .events, .sec] s t ∧ t.sec.prog = none ∧ t.sec.last = j.slot ∧
      t.sec.result = 0 ∧ (∀ k, k ≠ (if 3 ≤ j.kind then 0 else j.slot) → t.fuse k = s.fuse k) ∧
      (j.kind = 0 → j.slot < 6 → t.fuse j.slot = { s.fuse j.slot with
        val := (s.fuse j.slot).val ||| j.data % 2 ^ fuseWidth j.slot, set := true }) ∧
      (j.kind = 0 → 6 ≤ j.slot → t.fuse j.slot = { s.fuse j.slot with
        val := max (s.fuse j.slot).val (j.data % 2 ^ 32), set := true }) ∧
      (j.kind = 1 → t.fuse j.slot = { s.fuse j.slot with
        val := (s.fuse j.slot).val ||| (2 ^ fuseWidth j.slot - 1), set := true }) ∧
      (j.kind = 2 → t.fuse j.slot = { s.fuse j.slot with rev := true }) ∧
      (j.kind = 3 → t.fuse 0 = { s.fuse 0 with val := (s.fuse 0).val ||| 2 ^ (j.data % 2 ^ 32 - 1), set := true })) ∧
    (Does (.fuseProgrammed false) s fun t => t.sec.prog = none ∧ t.sec.last = j.slot ∧ t.sec.result = 4 ∧ s.fusesStay t)) ∧
  (∀ (m : Master) (v : Word32) (s : State), s.responds .sec = true → (s.view m).may .secBkeyCtl true = true →
    (bits v.toNat 1 0 = 1 → s.lc = 2 ∨ s.lc = 3 →
      exec (.bkeyStore m v) s = .next { s with sec := { s.sec with bkey := some (ofLe (s.regBytes .secBkey 8)) } }) ∧
    (bits v.toNat 1 0 = 1 → s.lc ≠ 2 → s.lc ≠ 3 → exec (.bkeyStore m v) s = .next s) ∧
    (bits v.toNat 1 0 = 2 → exec (.bkeyZero m v) s = .next { s with sec := { s.sec with bkey := none } }))

/-- BOOT from the boot flash starts slot A where it passes the checks, slot B where A fails and B passes, and otherwise stops with
STAGE 7, after which only SEC_ registers answer; in BLANK and SCRAPPED nothing boots; a pushed image boots after PUSH_DONE, which
PUSH_DATA has filled. The model's choices it rests on: log entries 231, 232. (R466, R484) -/
def Obligations.BootChainTriesItsSlots : Prop :=
  ∀ s : State, s.board.powered = true → s.board.held = false →
    (s.bootable = true → s.sec.straps.bootsrc = false → s.sec.stage = 0 →
      (s.bootCheck (s.bootImage .slotA) = none →
        Does .boot s fun t => SameBut [.free, .regs, .sec, .fw] s t ∧ t.fw = true ∧ t.sec.stage = 3 ∧ t.sec.slotB = false ∧
          t.sec.svn = field (s.bootImage .slotA) 8 4) ∧
      (s.bootCheck (s.bootImage .slotA) ≠ none → s.bootCheck (s.bootImage .slotB) = none →
        Does .boot s fun t => t.fw = true ∧ t.sec.stage = 3 ∧ t.sec.slotB = true ∧ bit (t.reg .secEvent) 0 = true) ∧
      (s.bootCheck (s.bootImage .slotA) ≠ none → s.bootCheck (s.bootImage .slotB) ≠ none →
        Does .boot s fun t => t.fw = false ∧ t.sec.stage = 7 ∧ bit (t.reg .secEvent) 0 = true ∧
          ∀ k, t.responds k = true → k = .sec)) ∧
    (s.lc = 0 ∨ s.lc = 5 → exec .boot s = .next s) ∧
    (s.bootable = true → s.sec.straps.bootsrc = true → s.sec.stage = 1 → s.bootCheck (s.bootImage .bus) = none →
      Does .boot s fun t => t.fw = true ∧ t.sec.stage = 3) ∧
    (∀ (off len : Word32) (data : List Byte), s.busTakes true = true → s.sec.straps.bootsrc = true → s.sec.stage = 0 →
      (off.toNat < 1573120 → off.toNat % 32 = 0 → data.length = 32 →
        Does (.pushData true off data) s fun t => SameBut [.board] s t ∧ readBytes t.board.sram off.toNat 32 = data ∧
          ∀ a, a < off.toNat ∨ off.toNat + 32 ≤ a → Tab.get 0 t.board.sram a = Tab.get 0 s.board.sram a) ∧
      (s.bootable = true → Does (.pushDone true len) s fun t => SameBut [.sec, .board] s t ∧
        t.board.pushed = some len.toNat ∧ t.sec = { s.sec with stage := 1 }))

/-- IDCODE, BYPASS, EXTEST, SAMPLE/PRELOAD and test-logic reset set the instruction in force and what it captures; one the state
does not allow (EXTEST also while a paddock is released) acts as BYPASS and raises JTAG; REGACC and the bus commands make the same
access as a register access of that master. The model's choices it rests on: log entries 233, 234. (R474, R475, R482, R485) -/
def Obligations.JtagAndBusInstructions : Prop :=
  ∀ (s : State) (cells : List Bool) (off : Nat) (v w : Word32),
    (Does .idcode s fun t => SameBut [.board, .said] s t ∧ t.board = { s.board with ir := 0x01, dr := 0x1483274F } ∧
      t.said = some (.jtag 0x1483274F [])) ∧
    (Does .bypass s fun t => SameBut [.board, .said] s t ∧ t.board = { s.board with ir := 0xFF, dr := 0 }) ∧
    exec .testLogicReset s = .next { s with board := { s.board with ir := 0x01, dr := 0 } } ∧
    (s.lc ≠ 3 → s.lc ≠ 5 → s.noneReleased = true →
      Does .extest s fun t => SameBut [.free, .board, .said] s t ∧ t.board.ir = 0x00) ∧
    (s.lc ≠ 5 → Does (.samplePreload cells) s fun t => SameBut [.free, .board, .said] s t ∧ t.board.ir = 0x02 ∧
      t.board.cells = cells.take 1536) ∧
    (s.lc = 3 ∨ s.lc = 5 ∨ s.noneReleased = false →
      Does .extest s fun t => SameBut [.regs, .events, .board, .said] s t ∧ t.board.ir = 0xFF ∧ bit (t.reg .secEvent) 4 = true) ∧
    (s.lc ≠ 5 → Does (.regacc off (some v)) s fun t => ∃ u, exec (.registerWrite .jtag off v) s = .next u ∧
      t = { u with board := { u.board with ir := 0x10 } }) ∧
    (∀ r, s.lc ≠ 5 → s.reaches .jtag off r false false → r.rn.spec.wide = false →
      Does (.regacc off none) s fun t => t.said = some (.reg .jtag off (s.shown .jtag r % 2 ^ 32)) ∧ t.board.ir = 0x10 ∧
        t.board.dr = s.shown .jtag r % 2 ^ 32) ∧
    (s.busTakes true = true → exec (.regWrite true v w) s = exec (.registerWrite .mgmtBus v.toNat w) s) ∧
    (∀ r, s.busTakes true = true → s.reaches .mgmtBus v.toNat r false false → r.rn.spec.wide = false →
      Does (.regRead true v) s fun t => t.said = some (.reg .mgmtBus v.toNat (s.shown .mgmtBus r % 2 ^ 32)))

/-- FLASH_ERASE and FLASH_WRITE that the state and range allow start their operation, FLASH_COMPLETE carries it out (64 KiB read
0xFF, or 32 bytes are stored) and no other byte changes; FLASH_READ answers 32 bytes; one that is not allowed is refused and
changes nothing else; FLASH_STATUS answers busy and refused; a transfer with a wrong PEC byte does nothing. The model's choices it
rests on: log entries 239, 240. (R482, R483) -/
def Obligations.FlashOverTheBus : Prop :=
  ∀ (off : Word32) (data : List Byte) (s : State), s.busTakes true = true → data.length = 32 →
    (s.flashMay off.toNat 0x10000 true = true → off.toNat % 0x10000 = 0 →
      exec (.flashErase true off) s = .next { s with board := { s.board with op := some (.erase off.toNat), refused := false } }) ∧
    (s.flashMay off.toNat 32 true = true → off.toNat % 32 = 0 →
      exec (.flashWrite true off data) s =
        .next { s with board := { s.board with op := some (.write off.toNat data), refused := false } }) ∧
    (s.flashMay off.toNat 32 true = false → Does (.flashWrite true off data) s fun t =>
      t = { s with board := { s.board with refused := true } } ∧ exec (.flashErase true off) s = .next t) ∧
    (s.flashMay off.toNat 32 false = true → off.toNat % 32 = 0 → Does (.flashRead true off) s fun t =>
      SameBut [.board, .said] s t ∧ t.board = { s.board with refused := false } ∧
      ∃ bs, t.said = some (.block bs) ∧ bs.length = 32 ∧ ∀ i < 32, bs[i]? = some (Tab.get 0xFF s.board.flash (off.toNat + i))) ∧
    (Does (.flashStatus true) s fun t => SameBut [.said] s t ∧
      t.said = some (.block [BitVec.ofNat 8 ((if s.board.op.isSome then 1 else 0) + (if s.board.refused then 2 else 0))])) ∧
    (∀ a, s.board.op = some (.erase a) → Does .flashComplete s fun t => SameBut [.board] s t ∧ t.board.op = none ∧
      ∀ x, Tab.get 0xFF t.board.flash x = if a ≤ x ∧ x < a + 0x10000 then 0xFF else Tab.get 0xFF s.board.flash x) ∧
    (∀ a, s.board.op = some (.write a data) → Does .flashComplete s fun t => SameBut [.board] s t ∧ t.board.op = none ∧
      ∀ x, Tab.get 0xFF t.board.flash x =
        if a ≤ x ∧ x < a + 32 then data.getD (x - a) 0 else Tab.get 0xFF s.board.flash x) ∧
    exec (.flashErase false off) s = .next s ∧ exec (.flashWrite false off data) s = .next s

/-- COLD_RESET of 1 µs or more samples the straps and leaves everything but fuses, a key that VBAT held, the boot flash, host
memory and the queue as right after reset; a shorter pulse does nothing; POWER_LOSS leaves the same and an unpowered module;
COLD_START holds it in reset; BAY_POWER_ON raises the rails, zeroes the local counter and trains the stack. The model's choices it
rests on: log entries 230, 237, 238. (R491, R492, R493) -/
def Obligations.ResetsAndPower : Prop :=
  ∀ (s : State) (straps : Straps) (ns : Nat) (b : BayId),
    (s.board.powered = true → 1000 ≤ ns → s.sec.prog = none →
      (∀ kept, Does (.coldReset ns straps kept) s fun t =>
        SameBut [.pending, .free, .regs, .host, .hostTag, .events, .sec, .board, .links] State.reset t ∧
        t.pending = s.pending ∧ t.host = s.host ∧ t.hostTag = s.hostTag ∧
        t.sec = { fuses := s.sec.fuses, straps := straps, bkey := if kept then s.sec.bkey else none } ∧
        t.board = { flash := s.board.flash, op := s.board.op } ∧ bit (t.reg .secEvent) 3 = !kept)) ∧
    (ns < 1000 → ∀ kept, exec (.coldReset ns straps kept) s = .next s) ∧
    (s.board.powered = true → Does .powerLoss s fun t =>
      SameBut [.pending, .free, .host, .hostTag, .sec, .board] State.reset t ∧ t.pending = s.pending ∧ t.host = s.host ∧
      t.hostTag = s.hostTag ∧ t.sec = { fuses := s.sec.fuses, bkey := s.sec.bkey, prog := s.sec.prog } ∧
      t.board = { flash := s.board.flash, powered := false }) ∧
    (s.board.powered = false → exec .coldStart s = .next { s with board := { s.board with powered := true, held := true } }) ∧
    (s.board.powered = true → s.board.held = false → s.isFenced b = false → Tab.get false s.board.railsUp b = false →
      Does (.bayPowerOn b) s fun t => SameBut [.lcount, .hbms, .board] s t ∧ t.local b = 0 ∧ (t.hbm b).ready = true ∧
        Tab.get false t.board.railsUp b = true ∧ ∀ c, c ≠ b.val → t.local c = s.local c ∧ t.hbm c = s.hbm c)

/-- HOT_RESET, and SELAY_CORE_FAULT while firmware runs, stop every stall, discard tokens and tally traffic, free every mailbox
with its frame zeroed, and run the boot chain; where firmware starts, GLB_EVENT bit 3 is set and the count of warm resets
advances; fuses, straps, the fences and the state of the link stay. The model's choices it rests on: log entries 213, 231. (R387,
R400, R422) -/
def Obligations.WarmResetsStopTheUnits : Prop :=
  ∀ (s : State) (c : Instr) (core : CoreId), s.board.powered = true → s.board.held = false →
    c = .hotReset ∨ (c = .selayCoreFault core ∧ s.fw = true) →
    Does c s fun t => t.tokens = [] ∧ t.answers = [] ∧ t.takeQ = [] ∧ t.reportQ = [] ∧ t.faultQ = [] ∧
      (∀ mb, (t.mbox mb).state = 0 ∧ (t.mbox mb).req = [] ∧ (t.mbox mb).ans = [] ∧ (t.mbox mb).owner = none) ∧
      (∀ g, (t.stall g).queue = [] ∧ (t.stall g).held = [] ∧ (t.stall g).inflight = []) ∧
      s.fusesStay t ∧ t.sec.straps = s.sec.straps ∧ t.fenced = s.fenced ∧ t.viral = s.viral ∧ t.hostUp = s.hostUp ∧
      (t.fw = true → t.warms = s.warms + 1 ∧ bit (t.reg .glbEvent) 3 = true) ∧ (t.fw = false → t.warms = s.warms) ∧
      (s.sec.prog = none → s.bootable = false → t.fw = false)

/-- FENCE by firmware for a cause of 1 to 6 leaves bay b fenced and no other bay's fence changed, sets BAY_EVENT bit 0, raises
MSI-X vector 67 last, and empties the bay's tally cells, its tally traffic, its walk cache and its stack, core, block and system
memories; a fenced bay is not fenced again. HUB_FAULT asserts viral, raises GLB_EVENT bit 2 and vector 67, and shows an
uncorrectable internal error in RAS and AER; LOGIC_DIE_FAULT raises BAY_EVENT bit 4 with cause 2. The model's choices it rests on:
log entries 212, 214, 235, 236, 241. (R15, R31, R32, R61, R497) -/
def Obligations.FencesAndDieFaults : Prop :=
  ∀ (s : State) (b : BayId) (cause : Nat),
    (s.fw = true → 1 ≤ cause → cause ≤ 6 → s.isFenced b = false →
      Does (.fence b cause) s fun t => t.isFenced b = true ∧ (∀ c, c ≠ b.val → t.isFenced c = s.isFenced c) ∧
        bit (t.reg .bayEvent b) 0 = true ∧ t.msix = s.msix ++ [67] ∧
        (∀ k, k / 256 = b.val → Tab.get {} t.cells k = ({} : Cell)) ∧ (∀ k, k / 256 ≠ b.val → Tab.get {} t.cells k = Tab.get {} s.cells k) ∧
        Tab.get [] t.takeQ b = [] ∧ Tab.get [] t.reportQ b = [] ∧ Tab.get [] t.bayTlb b = [] ∧ t.hbm b = {} ∧
        (∀ off < 64 * 0x1000000, t.read (coreAddr (b * 64) off) 1 = [0]) ∧
        (∀ off < 0x4000000, t.read (blockAddr b off) 1 = [0]) ∧ (∀ off < 0x800000, t.read (sysAddr b off) 1 = [0]) ∧
        Tab.get false t.board.railsUp b = false ∧ t.host = s.host ∧ t.lcount = s.lcount) ∧
    (s.isFenced b = true → exec (.fence b cause) s = .next s) ∧
    (cause = 1 ∨ cause = 2 → Does (.hubFault cause) s fun t => SameBut [.regs, .events, .msix, .mx, .errs, .viral] s t ∧
      RegsBut [0x10] s t ∧ t.reg .glbEvent = evAdvance (s.reg .glbEvent) 2 ∧ t.viral = true ∧ t.msix = s.msix ++ [67] ∧
      t.errs = { s.errs with rasUncor := s.errs.rasUncor ||| 2 ^ 14, aerUncor := s.errs.aerUncor ||| 2 ^ 22 }) ∧
    (s.isFenced b = false → exec (.logicDieFault b) s = .next (s.raise .bayEvent b 4 0x004 2 0 0))
end

