-- ==== Sys2Proof/Laws/Bits.lean ====
section
/-! SUPPORT. Fields of numbers bit by bit, and what a write of RW fields leaves (R10). -/

namespace Sys2Proof.Machine

theorem bit_eq_testBit (v i : Nat) : bit v i = v.testBit i := by
  simp [bit, Nat.testBit_eq_decide_div_mod_eq, Bool.beq_eq_decide_eq]

/-- Bit n of a field is bit lo + n of the number. -/
theorem bits_testBit (v hi lo n : Nat) : (bits v hi lo).testBit n = (decide (n < hi + 1 - lo) && v.testBit (lo + n)) := by
  simp [bits, Nat.testBit_mod_two_pow, Nat.testBit_div_two_pow, Nat.add_comm]

/-- A field takes the low bits of x; every other bit stays. -/
theorem putBits_testBit (v hi lo x n : Nat) (hl : lo ≤ hi) :
    (putBits v hi lo x).testBit n = if lo ≤ n ∧ n ≤ hi then x.testBit (n - lo) else v.testBit n := by
  unfold putBits bits
  generalize hw : hi + 1 - lo = w
  have hA := Nat.div_add_mod v (2 ^ lo)
  have hB := Nat.div_add_mod (v / 2 ^ lo) (2 ^ w)
  have e : v - v / 2 ^ lo % 2 ^ w * 2 ^ lo + x % 2 ^ w * 2 ^ lo =
      2 ^ (lo + w) * (v / 2 ^ (lo + w)) + (2 ^ lo * (x % 2 ^ w) + v % 2 ^ lo) := by
    rw [pow_add, ← Nat.div_div_eq_div_mul]
    generalize v / 2 ^ lo / 2 ^ w = A at *
    generalize v / 2 ^ lo % 2 ^ w = B at *
    generalize v % 2 ^ lo = C at *
    rw [← hB] at hA
    have : v - B * 2 ^ lo = 2 ^ lo * 2 ^ w * A + C := by
      rw [← hA]
      have : 2 ^ lo * (2 ^ w * A + B) + C = (2 ^ lo * 2 ^ w * A + C) + B * 2 ^ lo := by ring
      rw [this]; exact Nat.add_sub_cancel _ _
    rw [this]; ring
  have h1 : x % 2 ^ w < 2 ^ w := Nat.mod_lt _ (by positivity)
  have h2 : v % 2 ^ lo < 2 ^ lo := Nat.mod_lt _ (by positivity)
  have h3 : 2 ^ lo * (x % 2 ^ w) + v % 2 ^ lo < 2 ^ (lo + w) := by
    rw [pow_add]
    calc _ < 2 ^ lo * (x % 2 ^ w) + 2 ^ lo := by omega
      _ = 2 ^ lo * (x % 2 ^ w + 1) := by ring
      _ ≤ 2 ^ lo * 2 ^ w := Nat.mul_le_mul_left _ h1
  rw [e, Nat.testBit_two_pow_mul_add _ h3, Nat.testBit_two_pow_mul_add _ h2]
  by_cases a : n < lo
  · have a1 : n < lo + w := by omega
    have a2 : ¬ (lo ≤ n ∧ n ≤ hi) := by omega
    simp [a, a1, a2, Nat.testBit_mod_two_pow]
  · by_cases b : n ≤ hi
    · have b1 : n < lo + w := by omega
      have b2 : n - lo < w := by omega
      have b3 : lo ≤ n ∧ n ≤ hi := by omega
      simp [a, b1, b2, b3, Nat.testBit_mod_two_pow]
    · have b1 : ¬ n < lo + w := by omega
      have b3 : ¬ (lo ≤ n ∧ n ≤ hi) := by omega
      have b4 : lo + w + (n - (lo + w)) = n := by omega
      rw [if_neg b1, if_neg b3, Nat.testBit_div_two_pow, Nat.add_comm, b4]

/-- A write of RW fields leaves a bit outside every RW field as it was. -/
theorem rwMerge_outside (fs : List Fld) (old v n : Nat) (hf : ∀ f ∈ fs, f.lo ≤ f.hi) (h : ∀ f ∈ fs, f.acc = .rw → n < f.lo ∨ f.hi < n) :
    (rwMerge fs old v).testBit n = old.testBit n := by
  unfold rwMerge
  induction fs generalizing old with
  | nil => rfl
  | cons f fs ih =>
    have hn := h f (by simp)
    rw [List.foldl_cons, ih _ (fun g hg => hf g (by simp [hg])) (fun g hg => h g (by simp [hg]))]
    dsimp only
    split
    · rename_i c
      rw [putBits_testBit _ _ _ _ _ (hf f (by simp))]
      have := hn c.1
      rw [if_neg (by omega)]
    · rfl

/-- A write of RW fields that do not overlap gives a field its value, or leaves it where the value is reserved. -/
theorem rwMerge_field (fs : List Fld) (old v : Nat) (hf : ∀ f ∈ fs, f.lo ≤ f.hi)
    (hd : fs.Pairwise fun a b => a.hi < b.lo ∨ b.hi < a.lo) (f : Fld) (h : f ∈ fs) (hr : f.acc = .rw) :
    bits (rwMerge fs old v) f.hi f.lo =
      if f.least ≤ bits v f.hi f.lo ∧ bits v f.hi f.lo ≤ f.most then bits v f.hi f.lo else bits old f.hi f.lo := by
  induction fs generalizing old with
  | nil => cases h
  | cons g fs ih =>
    have hd' := List.pairwise_cons.1 hd
    have tail : ∀ x, bits (rwMerge fs x v) g.hi g.lo = bits x g.hi g.lo := fun x => Nat.eq_of_testBit_eq fun n => by
      rw [bits_testBit, bits_testBit]
      by_cases c : n < g.hi + 1 - g.lo
      · rw [rwMerge_outside fs x v _ (fun a ha => hf a (by simp [ha]))]
        intro a ha _
        have := hd'.1 a ha
        have := hf a (by simp [ha])
        omega
      · simp [c]
    rcases List.mem_cons.1 h with e | h
    · subst e
      show bits (rwMerge fs _ v) f.hi f.lo = _
      rw [tail]
      dsimp only
      by_cases c : f.least ≤ bits v f.hi f.lo ∧ bits v f.hi f.lo ≤ f.most
      · rw [if_pos c, if_pos ⟨hr, c⟩]
        refine Nat.eq_of_testBit_eq fun n => ?_
        have hl := hf f (by simp)
        rw [bits_testBit, putBits_testBit _ _ _ _ _ hl, bits_testBit]
        by_cases c : n < f.hi + 1 - f.lo
        · rw [if_pos (by omega), Nat.add_sub_cancel_left, bits_testBit]; simp [c]
        · simp [bits_testBit, c]
      · rw [if_neg c, if_neg (fun x => c x.2)]
    · have hg := hf g (by simp)
      rw [show rwMerge (g :: fs) old v = rwMerge fs (if g.acc = .rw ∧ g.least ≤ bits v g.hi g.lo ∧ bits v g.hi g.lo ≤ g.most then
        putBits old g.hi g.lo (bits v g.hi g.lo) else old) v from rfl, ih _ (fun a ha => hf a (by simp [ha])) hd'.2 h]
      congr 1
      split
      · refine Nat.eq_of_testBit_eq fun n => ?_
        rw [bits_testBit, bits_testBit, putBits_testBit _ _ _ _ _ hg]
        have := hd'.1 f h
        by_cases c : n < f.hi + 1 - f.lo
        · rw [if_neg (by omega)]
        · simp [c]
      · rfl

/-- The fields of every register stand in order and do not overlap. -/
theorem Rn.fields_apart (r : Rn) : (∀ f ∈ r.spec.flds, f.lo ≤ f.hi) ∧ r.spec.flds.Pairwise fun a b => a.hi < b.lo ∨ b.hi < a.lo := by
  cases r <;> decide

end Sys2Proof.Machine
end

