-- ==== Sys2Proof/Laws/Frames.lean ====
section
/-! SUPPORT. Compatibility mode carries a codeword exactly: what frameLine sends, receiveFrame gives back (R370). -/

namespace Sys2Proof.Machine

theorem selfDescramble_selfScramble (bs : List Bool) (reg : Nat) :
    selfDescramble reg (selfScramble reg bs).1 = (bs, (selfScramble reg bs).2) := by
  induction bs generalizing reg with
  | nil => rfl
  | cons b t ih =>
    simp only [selfScramble, selfDescramble, ih]
    cases b <;> cases bit reg 38 <;> cases bit reg 57 <;> rfl

theorem selfScramble_length (bs : List Bool) (reg : Nat) : (selfScramble reg bs).1.length = bs.length := by
  induction bs generalizing reg with
  | nil => rfl
  | cons b t ih => simp [selfScramble, ih]

theorem groupsOf_length {α : Type} (w n : Nat) (l : List α) : (groupsOf w n l).length = n := by
  induction n generalizing l with
  | zero => rfl
  | succ n ih => simp [groupsOf, ih]

theorem groupsOf_flatten {α : Type} (w : Nat) (gs : List (List α)) (h : ∀ g ∈ gs, g.length = w) : groupsOf w gs.length gs.flatten = gs := by
  induction gs with
  | nil => rfl
  | cons g t ih =>
    have hg := h g (by simp)
    simp only [List.length_cons, groupsOf, List.flatten_cons, List.cons.injEq]
    rw [← hg, List.take_left, List.drop_left, hg]
    exact ⟨rfl, ih fun x hx => h x (by simp [hx])⟩

theorem flatten_groupsOf {α : Type} (w n : Nat) (l : List α) (h : l.length = w * n) : (groupsOf w n l).flatten = l := by
  induction n generalizing l with
  | zero => exact (List.length_eq_zero_iff.mp (by simpa using h)).symm
  | succ n ih =>
    simp only [groupsOf, List.flatten_cons]
    rw [ih _ (by simp only [List.length_drop]; rw [Nat.mul_succ] at h; omega), List.take_append_drop]

theorem length_of_mem_groupsOf {α : Type} {w n : Nat} {l g : List α} (h : l.length = w * n) (hg : g ∈ groupsOf w n l) : g.length = w := by
  induction n generalizing l with
  | zero => simp [groupsOf] at hg
  | succ n ih =>
    rw [Nat.mul_succ] at h
    rcases List.mem_cons.mp hg with rfl | hg
    · simp only [List.length_take]; omega
    · exact ih (by simp only [List.length_drop]; omega) hg

theorem ofLsb_lsbBits : ∀ b : Byte, BitVec.ofNat 8 (ofLsb (lsbBits 8 b.toNat)) = b := by decide +kernel

theorem crc32Bits_lt (n c : Nat) (h : c < 2 ^ 32) : crc32Bits n c < 2 ^ 32 := by
  induction n generalizing c with
  | zero => exact h
  | succ n ih =>
    rw [crc32Bits]
    split
    · exact ih _ (Nat.xor_lt_two_pow (by omega) (by decide))
    · exact ih _ (by omega)

theorem crc32_lt (bs : List Byte) : crc32 bs < 2 ^ 32 := by
  have h (c : Nat) (hc : c < 2 ^ 32) : bs.foldl (fun c b => crc32Bits 8 (c ^^^ b.toNat)) c < 2 ^ 32 := by
    induction bs generalizing c with
    | nil => exact hc
    | cons b t ih => exact ih _ (crc32Bits_lt 8 _ (Nat.xor_lt_two_pow hc (by have := b.isLt; omega)))
  exact Nat.xor_lt_two_pow (h _ (by decide)) (by decide)

theorem ofLe_leBytes (n v : Nat) (h : v < 256 ^ n) : ofLe (leBytes n v) = v := by
  induction n generalizing v with
  | zero => simp at h; simp [leBytes, ofLe, h]
  | succ n ih =>
    rw [leBytes, ofLe, ih _ (by rw [pow_succ] at h; omega)]
    simp
    omega

theorem leBytes_length (n v : Nat) : (leBytes n v).length = n := by
  induction n generalizing v with
  | zero => rfl
  | succ n ih => simp [leBytes, ih]

theorem Codeword.body_length (c : Codeword) : c.body.length = 640 := by
  have h (i : Nat) : (padSlot (c.slots.getD i (0, [])).2).length = 80 := by simp [padSlot]; omega
  simp only [Codeword.body, List.length_flatMap, h, List.map_const', List.length_range]
  rfl

/-- What is sent in compatibility mode with a good CRC is received as the codeword of its header and body; the descrambler ends
where the scrambler did. -/
theorem receiveFrame_frameLine (reg : Nat) (c : Codeword) :
    receiveFrame reg (frameLine reg 0 c).1 = (some (Codeword.of (ofLe (leBytes 3 c.header)) c.body), (frameLine reg 0 c).2) := by
  have hlen : (c.frameBytes 0).length = 648 := by simp [Codeword.frameBytes, leBytes_length, c.body_length]
  generalize hb : (c.frameBytes 0).flatMap (fun b => lsbBits 8 b.toNat) = bits
  have hbl : bits.length = 5184 := by
    have l8 (b : Byte) : (lsbBits 8 b.toNat).length = 8 := by rw [lsbBits, List.length_map, List.length_range]
    rw [← hb, List.length_flatMap, List.map_congr_left (g := fun _ => 8) fun b _ => l8 b, List.map_const', hlen, List.sum_replicate]
    rfl
  have hsl : (selfScramble reg bits).1.length = 64 * 81 := by rw [selfScramble_length, hbl]
  generalize hG : ((groupsOf 64 81 (selfScramble reg bits).1).zip (List.range 81)).map
    (fun x => (if x.2 = 0 then [true, false] else [false, true]) ++ x.1) = G
  have hline : (frameLine reg 0 c).1.map (fun x => x != 0) = G.flatten := by
    have n (bs : List Bool) : (nrzOf bs).map (fun x => x != 0) = bs := by
      rw [nrzOf, List.map_map]
      exact (List.map_congr_left fun b _ => by cases b <;> rfl).trans (List.map_id bs)
    unfold frameLine
    rw [hb, ← hG, List.map_flatMap, List.flatMap_def]
    exact congrArg List.flatten (List.map_congr_left fun x _ => n _)
  have hGl : G.length = 81 := by rw [← hG, List.length_map, List.length_zip, groupsOf_length, List.length_range]; rfl
  have hG66 : ∀ g ∈ G, g.length = 66 := by
    rw [← hG]
    intro g hg
    obtain ⟨x, hx, rfl⟩ := List.mem_map.mp hg
    have := length_of_mem_groupsOf hsl (List.of_mem_zip hx).1
    split <;> simp [this]
  have hflat : G.flatten.length = 5346 := by
    rw [List.length_flatten, List.map_congr_left (g := fun _ => 66) hG66, List.map_const', hGl, List.sum_replicate]
    rfl
  have hblocks : groupsOf 66 81 G.flatten = G := by
    conv_lhs => rw [← hGl]
    exact groupsOf_flatten 66 G hG66
  have hdrop : G.flatMap (List.drop 2) = (selfScramble reg bits).1 := by
    rw [← hG, List.flatMap_map, List.flatMap_def]
    refine Eq.trans (congrArg List.flatten ?_) (flatten_groupsOf 64 81 _ hsl)
    refine Eq.trans (List.map_congr_left (g := Prod.fst) fun x _ => ?_) (List.map_fst_zip ?_)
    · split <;> rfl
    · rw [groupsOf_length, List.length_range]
  have hsync : ((G.zip (List.range 81)).all fun x => x.1.take 2 == (if x.2 = 0 then [true, false] else [false, true])) = true := by
    rw [List.all_eq_true]
    intro x hx
    obtain ⟨i, hi, rfl⟩ := List.mem_iff_getElem.mp hx
    subst hG
    simp only [List.getElem_zip, List.getElem_map, List.getElem_range]
    split <;> rfl
  have hbytes : (groupsOf 8 648 bits).map (fun g => BitVec.ofNat 8 (ofLsb g)) = c.frameBytes 0 := by
    have h8 : groupsOf 8 648 bits = (c.frameBytes 0).map fun b => lsbBits 8 b.toNat := by
      rw [← hb, List.flatMap_def]
      have := groupsOf_flatten 8 ((c.frameBytes 0).map fun b => lsbBits 8 b.toNat) (by
        intro g hg
        obtain ⟨x, -, rfl⟩ := List.mem_map.mp hg
        rfl)
      rwa [List.length_map, hlen] at this
    rw [h8, List.map_map]
    exact (List.map_congr_left fun b _ => ofLsb_lsbBits b).trans (List.map_id _)
  have hz : (frameLine reg 0 c).2 = (selfScramble reg bits).2 := by unfold frameLine; rw [hb]
  have hd : selfDescramble reg (G.flatMap (List.drop 2)) = (bits, (selfScramble reg bits).2) := by
    rw [hdrop]
    exact selfDescramble_selfScramble bits reg
  have hh : ((c.frameBytes 0).drop 1).take 3 = leBytes 3 c.header := by
    unfold Codeword.frameBytes
    rfl
  have hbody : (c.frameBytes 0).drop 8 = c.body := by
    unfold Codeword.frameBytes
    rfl
  have hcrc : ofLe (((c.frameBytes 0).drop 4).take 4) = crc32 (leBytes 3 c.header ++ c.body) := by
    have h : ((c.frameBytes 0).drop 4).take 4 = leBytes 4 (crc32 (leBytes 3 c.header ++ c.body) ^^^ 0) := by
      unfold Codeword.frameBytes
      rfl
    rw [h, Nat.xor_zero]
    exact ofLe_leBytes 4 _ (crc32_lt _)
  unfold receiveFrame
  simp only [hline, hblocks, hd, hbytes, hh, hbody, hcrc, hflat, hsync, hz]
  rw [if_pos ⟨trivial, trivial, by unfold Codeword.frameBytes; rfl, trivial⟩]

end Sys2Proof.Machine
end

