-- ==== Sys2Proof/Laws/Tab.lean ====
section
/-! SUPPORT. Laws of sparse tables: what is read after a change, and that every change keeps the canonical form. -/

namespace Sys2Proof.Machine

variable {α : Type}

@[simp] theorem Tab.get_nil (d : α) (k : Nat) : Tab.get d [] k = d := rfl

theorem Tab.get_ins_same (d : α) (t : Tab α) (k : Nat) (v : α) : Tab.get d (Tab.ins t k v) k = v := by
  induction t with
  | nil => simp [Tab.ins, Tab.get]
  | cons e t ih =>
    obtain ⟨a, w⟩ := e
    unfold Tab.ins
    split
    · simp [Tab.get]
    · split
      · simp [Tab.get]
      · have : a ≠ k := by omega
        simp [Tab.get, this, ih]

theorem Tab.get_ins_ne (d : α) (t : Tab α) {k j : Nat} (v : α) (h : j ≠ k) : Tab.get d (Tab.ins t k v) j = Tab.get d t j := by
  induction t with
  | nil => simp [Tab.ins, Tab.get, Ne.symm h]
  | cons e t ih =>
    obtain ⟨a, w⟩ := e
    unfold Tab.ins
    split
    · simp [Tab.get, Ne.symm h]
    · split
      · subst k; simp [Tab.get, Ne.symm h]
      · simp [Tab.get, ih]

theorem Tab.get_del_ne (d : α) (t : Tab α) {k j : Nat} (h : j ≠ k) : Tab.get d (Tab.del t k) j = Tab.get d t j := by
  induction t with
  | nil => rfl
  | cons e t ih =>
    obtain ⟨a, w⟩ := e
    unfold Tab.del
    split
    · subst a; simp [Tab.get, Ne.symm h, ih]
    · simp [Tab.get, ih]

theorem Tab.get_del_same (d : α) (t : Tab α) (k : Nat) : Tab.get d (Tab.del t k) k = d := by
  induction t with
  | nil => rfl
  | cons e t ih =>
    obtain ⟨a, w⟩ := e
    unfold Tab.del
    split
    · exact ih
    · simp [Tab.get, *]

/-- A key below all keys of a rising table reads as unlisted. -/
theorem Tab.get_low (d : α) {t : Tab α} {lo k : Nat} (h : Tab.rising lo t = true) (hk : k < lo) : Tab.get d t k = d := by
  induction t generalizing lo with
  | nil => rfl
  | cons e t ih =>
    obtain ⟨a, w⟩ := e
    simp only [Tab.rising, Bool.and_eq_true, decide_eq_true_eq] at h
    have : a ≠ k := by omega
    simp [Tab.get, this, ih h.2 (by omega)]

theorem Tab.rising_weaken {t : Tab α} {lo hi : Nat} (h : Tab.rising hi t = true) (hl : lo ≤ hi) : Tab.rising lo t = true := by
  cases t with
  | nil => rfl
  | cons e t =>
    simp only [Tab.rising, Bool.and_eq_true, decide_eq_true_eq] at h ⊢
    exact ⟨by omega, h.2⟩

theorem Tab.rising_ins {t : Tab α} {lo k : Nat} (v : α) (h : Tab.rising lo t = true) (hk : lo ≤ k) :
    Tab.rising lo (Tab.ins t k v) = true := by
  induction t generalizing lo with
  | nil => simp [Tab.ins, Tab.rising, hk]
  | cons e t ih =>
    obtain ⟨a, w⟩ := e
    simp only [Tab.rising, Bool.and_eq_true, decide_eq_true_eq] at h
    unfold Tab.ins
    split
    · simp only [Tab.rising, Bool.and_eq_true, decide_eq_true_eq]; exact ⟨hk, by omega, h.2⟩
    · split
      · subst k; simp [Tab.rising, h]
      · simp only [Tab.rising, Bool.and_eq_true, decide_eq_true_eq]; exact ⟨h.1, ih h.2 (by omega)⟩

theorem Tab.rising_del {t : Tab α} {lo : Nat} (k : Nat) (h : Tab.rising lo t = true) : Tab.rising lo (Tab.del t k) = true := by
  induction t generalizing lo with
  | nil => rfl
  | cons e t ih =>
    obtain ⟨a, w⟩ := e
    simp only [Tab.rising, Bool.and_eq_true, decide_eq_true_eq] at h
    unfold Tab.del
    split
    · exact Tab.rising_weaken (ih h.2) (by omega)
    · simp only [Tab.rising, Bool.and_eq_true, decide_eq_true_eq]; exact ⟨h.1, ih h.2⟩

theorem Tab.rising_filter {t : Tab α} {lo : Nat} (p : Nat × α → Bool) (h : Tab.rising lo t = true) :
    Tab.rising lo (t.filter p) = true := by
  induction t generalizing lo with
  | nil => rfl
  | cons e t ih =>
    obtain ⟨a, w⟩ := e
    simp only [Tab.rising, Bool.and_eq_true, decide_eq_true_eq] at h
    rw [List.filter_cons]
    split
    · simp only [Tab.rising, Bool.and_eq_true, decide_eq_true_eq]; exact ⟨h.1, ih h.2⟩
    · exact Tab.rising_weaken (ih h.2) (by omega)

theorem Tab.mem_ins {t : Tab α} {k : Nat} {v : α} {e : Nat × α} (h : e ∈ Tab.ins t k v) : e = (k, v) ∨ e ∈ t := by
  induction t with
  | nil => simpa [Tab.ins] using h
  | cons x t ih =>
    obtain ⟨a, w⟩ := x
    unfold Tab.ins at h
    split at h
    · simp only [List.mem_cons] at h ⊢; tauto
    · split at h
      · simp only [List.mem_cons] at h ⊢; tauto
      · simp only [List.mem_cons] at h ⊢
        rcases h with h | h
        · tauto
        · rcases ih h with h | h <;> tauto

theorem Tab.mem_del {t : Tab α} {k : Nat} {e : Nat × α} (h : e ∈ Tab.del t k) : e ∈ t := by
  induction t with
  | nil => exact h
  | cons x t ih =>
    obtain ⟨a, w⟩ := x
    unfold Tab.del at h
    split at h
    · exact List.mem_cons_of_mem _ (ih h)
    · simp only [List.mem_cons] at h ⊢
      rcases h with h | h
      · exact .inl h
      · exact .inr (ih h)

section
variable [DecidableEq α]

theorem Tab.lean_iff (d : α) (t : Tab α) : Tab.lean d t = true ↔ ∀ e ∈ t, e.2 ≠ d := by
  induction t with
  | nil => simp [Tab.lean]
  | cons e t ih => obtain ⟨a, w⟩ := e; simp [Tab.lean, ih]

/-- Every store in a table keeps its canonical form. -/
theorem Tab.wf_set {d : α} {t : Tab α} (k : Nat) (v : α) (h : Tab.wf d t = true) : Tab.wf d (Tab.set d t k v) = true := by
  simp only [Tab.wf, Bool.and_eq_true, Tab.lean_iff] at h ⊢
  unfold Tab.set
  split
  · exact ⟨Tab.rising_del k h.1, fun e he => h.2 e (Tab.mem_del he)⟩
  · refine ⟨Tab.rising_ins v h.1 (Nat.zero_le _), fun e he => ?_⟩
    rcases Tab.mem_ins he with rfl | he
    · assumption
    · exact h.2 e he

theorem Tab.wf_filter {d : α} {t : Tab α} (p : Nat × α → Bool) (h : Tab.wf d t = true) : Tab.wf d (t.filter p) = true := by
  simp only [Tab.wf, Bool.and_eq_true, Tab.lean_iff] at h ⊢
  exact ⟨Tab.rising_filter p h.1, fun e he => h.2 e (List.mem_of_mem_filter he)⟩

theorem Tab.get_set_ne (d : α) (t : Tab α) {k j : Nat} (v : α) (h : j ≠ k) : Tab.get d (Tab.set d t k v) j = Tab.get d t j := by
  unfold Tab.set
  split
  · exact Tab.get_del_ne d t h
  · exact Tab.get_ins_ne d t v h

/-- A value that is stored is read back. -/
@[simp] theorem Tab.get_set_same (d : α) (t : Tab α) (k : Nat) (v : α) : Tab.get d (Tab.set d t k v) k = v := by
  unfold Tab.set
  split
  · rw [Tab.get_del_same d t k]; exact Eq.symm ‹v = d›
  · exact Tab.get_ins_same d t k v

theorem Tab.get_set (d : α) (t : Tab α) (k j : Nat) (v : α) : Tab.get d (Tab.set d t k v) j = if j = k then v else Tab.get d t j := by
  split
  · subst j; exact Tab.get_set_same d t k v
  · exact Tab.get_set_ne d t v ‹_›

@[simp] theorem Tab.get_upd_same (d : α) (t : Tab α) (k : Nat) (f : α → α) : Tab.get d (Tab.upd d t k f) k = f (Tab.get d t k) :=
  Tab.get_set_same d t k _

theorem Tab.get_upd_ne (d : α) (t : Tab α) {k j : Nat} (f : α → α) (h : j ≠ k) : Tab.get d (Tab.upd d t k f) j = Tab.get d t j :=
  Tab.get_set_ne d t _ h

theorem Tab.rising_set {d : α} {t : Tab α} (k : Nat) (v : α) (h : Tab.rising 0 t = true) :
    Tab.rising 0 (Tab.set d t k v) = true := by
  unfold Tab.set
  split
  · exact Tab.rising_del k h
  · exact Tab.rising_ins v h (Nat.zero_le _)

end

/-! ### Bytes and tags of a memory -/

theorem writeBytes_wf {t : Tab Byte} (a : Nat) (bs : List Byte) (h : Tab.wf 0 t = true) : Tab.wf 0 (writeBytes t a bs) = true := by
  induction bs generalizing t a with
  | nil => exact h
  | cons b bs ih => exact ih (a + 1) (Tab.wf_set a b h)

theorem writeTags_wf {t : Tab Bool} (a : Nat) (p : Bool) (n : Nat) (h : Tab.wf false t = true) :
    Tab.wf false (writeTags t a p n) = true := by
  induction n generalizing t a with
  | zero => exact h
  | succ n ih => exact ih (a + 1) (Tab.wf_set a p h)

/-- A byte outside the bytes stored reads as before. -/
theorem writeBytes_outside (t : Tab Byte) (a : Nat) (bs : List Byte) (j : Nat) (h : j < a ∨ a + bs.length ≤ j) :
    Tab.get 0 (writeBytes t a bs) j = Tab.get 0 t j := by
  induction bs generalizing t a with
  | nil => rfl
  | cons b bs ih =>
    simp only [List.length_cons] at h
    rw [writeBytes, ih _ _ (by omega), Tab.get_set_ne _ _ _ (by omega)]

/-- A byte stored reads back. -/
theorem writeBytes_inside (t : Tab Byte) (a : Nat) (bs : List Byte) (i : Nat) (h : i < bs.length) :
    Tab.get 0 (writeBytes t a bs) (a + i) = bs.getD i 0 := by
  induction bs generalizing t a i with
  | nil => simp at h
  | cons b bs ih =>
    rw [writeBytes]
    cases i with
    | zero =>
      rw [Nat.add_zero a, writeBytes_outside _ _ _ _ (.inl (Nat.lt_succ_self a)), Tab.get_set_same]; rfl
    | succ i =>
      have := ih (Tab.set 0 t a b) (a + 1) i (by simpa using h)
      rw [show a + (i + 1) = a + 1 + i by omega, this]; simp

@[simp] theorem readBytes_length (t : Tab Byte) (a n : Nat) : (readBytes t a n).length = n := by
  induction n generalizing a with
  | zero => rfl
  | succ n ih => simp [readBytes, ih]

/-- Reading bytes that were stored gives them back. -/
theorem readBytes_writeBytes (t : Tab Byte) (a : Nat) (bs : List Byte) :
    readBytes (writeBytes t a bs) a bs.length = bs := by
  induction bs generalizing t a with
  | nil => rfl
  | cons b bs ih =>
    simp only [writeBytes, List.length_cons, readBytes]
    rw [ih (Tab.set 0 t a b) (a + 1), writeBytes_outside _ _ _ _ (.inl (Nat.lt_succ_self a)), Tab.get_set_same]

end Sys2Proof.Machine
end

