-- ==== Sys2Proof/Laws/Keeps.lean ====
section
/-! SUPPORT. The relation between a state and a later one that every shared operation is shown to keep: Keeps and Holds of Safety.lean
together, with the laws of the plainest operations. -/

namespace Sys2Proof.Machine

theorem FuseSlot.within_refl (k : Nat) (a : FuseSlot) : FuseSlot.within k a a := by
  unfold FuseSlot.within
  refine ⟨id, id, ?_⟩
  split
  · exact Nat.le_refl _
  · exact fun _ h => h

theorem FuseSlot.within_trans {k : Nat} {a b c : FuseSlot} (h : FuseSlot.within k a b) (g : FuseSlot.within k b c) :
    FuseSlot.within k a c := by
  unfold FuseSlot.within at *
  refine ⟨g.1 ∘ h.1, g.2.1 ∘ h.2.1, ?_⟩
  have h3 := h.2.2
  have g3 := g.2.2
  split
  · simp only [*, if_true] at h3 g3; exact Nat.le_trans h3 g3
  · simp only [*, if_false] at h3 g3; exact fun i hi => g3 i (h3 i hi)

theorem State.Keeps.refl (s : State) : s.Keeps s := ⟨rfl, id, fun k => FuseSlot.within_refl k _, Nat.le_refl _⟩

theorem State.Keeps.trans {s t u : State} (h : s.Keeps t) (g : t.Keeps u) : s.Keeps u :=
  ⟨g.queue.trans h.queue, g.canon ∘ h.canon, fun k => FuseSlot.within_trans (h.fuses k) (g.fuses k), Nat.le_trans h.order g.order⟩

theorem State.Holds.refl (s : State) : s.Holds s := ⟨fun _ => id, rfl, rfl⟩

theorem State.Holds.trans {s t u : State} (h : s.Holds t) (g : t.Holds u) : s.Holds u :=
  ⟨fun b => g.fences b ∘ h.fences b, g.straps.trans h.straps, g.flash.trans h.flash⟩

/-- A set of parts is a number: bit n stands for the part of constructor n. This set lies in that one. -/
def Within (a l : Nat) : Prop := a ||| l = l

theorem Within.of {a c l : Nat} (hl : Within a l) (h : c ||| a = a) : Within c l := by
  unfold Within at *
  rw [← hl, ← Nat.or_assoc, h]

/-- Nothing is said of the stalls, or stall g may change. -/
def Scope (o : Option Nat) (g : Nat) : Prop := o = none ∨ o = some g

theorem Scope.none {og : Option Nat} {g : Nat} (h : og = Option.none) : Scope og g := .inl h

/-- Only the parts of the set ps differ, and of the stalls only the one that og names. -/
structure State.Only (ps : Nat) (og : Option Nat) (s t : State) : Prop where
  part  : ∀ p : Part, ps.testBit p.ctorIdx = false → p.same s t
  stall : ∀ g, og = some g → ∀ h, h ≠ g → t.stall h = s.stall h

theorem Part.same_refl (p : Part) (s : State) : p.same s s := by cases p <;> rfl

theorem Part.same_trans {p : Part} {s t u : State} (h : p.same s t) (g : p.same t u) : p.same s u := by
  cases p <;> exact Eq.trans g h

theorem State.Only.refl {ps : Nat} {og : Option Nat} (s : State) : s.Only ps og s := ⟨fun p _ => p.same_refl s, fun _ _ _ _ => rfl⟩

theorem State.Only.trans {ps : Nat} {og : Option Nat} {s t u : State} (h : s.Only ps og t) (g : t.Only ps og u) : s.Only ps og u :=
  ⟨fun p hp => Part.same_trans (h.part p hp) (g.part p hp), fun a ha b hb => (g.stall a ha b hb).trans (h.stall a ha b hb)⟩

/-- A state that differs in the parts of the set a alone. -/
theorem State.Only.of {a ps : Nat} {og : Option Nat} {s t : State} (hl : Within a ps) (h : ∀ p : Part, a.testBit p.ctorIdx = false → p.same s t)
    (hs : og = none ∨ t.stalls = s.stalls) : s.Only ps og t := by
  refine ⟨fun p hp => h p ?_, fun g hg k _ => ?_⟩
  · rw [← hl, Nat.testBit_or, Bool.or_eq_false_iff] at hp
    exact hp.1
  · rcases hs with hs | hs
    · rw [hs] at hg; cases hg
    · unfold State.stall; rw [hs]

/-- What a command keeps that does not return a bay, reset the module, remove its power or end a flash operation. -/
structure State.Safe (ps : Nat) (og : Option Nat) (s t : State) : Prop where
  keeps : s.Keeps t
  holds : s.Holds t
  only  : s.Only ps og t

theorem State.Safe.refl {ps : Nat} {og : Option Nat} (s : State) : s.Safe ps og s := ⟨.refl s, .refl s, .refl s⟩

theorem State.Safe.trans {ps : Nat} {og : Option Nat} {s t u : State} (h : s.Safe ps og t) (g : t.Safe ps og u) : s.Safe ps og u :=
  ⟨h.keeps.trans g.keeps, h.holds.trans g.holds, h.only.trans g.only⟩

/-- What every command keeps. -/
structure State.Kept (ps : Nat) (og : Option Nat) (s t : State) : Prop where
  keeps : s.Keeps t
  only  : s.Only ps og t

theorem State.Kept.refl {ps : Nat} {og : Option Nat} (s : State) : s.Kept ps og s := ⟨.refl s, .refl s⟩

theorem State.Kept.trans {ps : Nat} {og : Option Nat} {s t u : State} (h : s.Kept ps og t) (g : t.Kept ps og u) : s.Kept ps og u :=
  ⟨h.keeps.trans g.keeps, h.only.trans g.only⟩

theorem State.Safe.kept {ps : Nat} {og : Option Nat} {s t : State} (h : s.Safe ps og t) : s.Kept ps og t := ⟨h.keeps, h.only⟩

/-- An outcome that is no next state, or a next state that is safe. -/
def State.SafeOut (ps : Nat) (og : Option Nat) (s : State) : Host.Outcome State Fault Refusal → Prop
  | .next t => s.Safe ps og t
  | _ => True

/-- An outcome that is no next state, or a next state that keeps what every command keeps. -/
def State.KeptOut (ps : Nat) (og : Option Nat) (s : State) : Host.Outcome State Fault Refusal → Prop
  | .next t => s.Kept ps og t
  | _ => True

theorem State.SafeOut.next {ps : Nat} {og : Option Nat} {s t : State} (h : s.Safe ps og t) : s.SafeOut ps og (.next t) := h
theorem State.SafeOut.fault {ps : Nat} {og : Option Nat} (s : State) (f : Fault) : s.SafeOut ps og (.fault f) := trivial
theorem State.SafeOut.refused {ps : Nat} {og : Option Nat} (s : State) (r : Refusal) : s.SafeOut ps og (.refused r) := trivial

/-! ### A change of fields is safe: one law for each set of fields that the model changes together -/

theorem State.Safe.upd_free {x y : State} {ps : Nat} {og : Option Nat} {a : Nat} (h : x.Safe ps og y) (hl : Within 0x2 ps) (hf : y.free ≤ a) :
    x.Safe ps og { y with free := a } :=
  h.trans ⟨⟨rfl, id, fun k => FuseSlot.within_refl k _, hf⟩, ⟨fun _ hb => hb, rfl, rfl⟩,
    State.Only.of hl (fun p hp => by cases p <;> first | rfl | contradiction) (.inr rfl)⟩

theorem State.Safe.upd_regs {x y : State} {ps : Nat} {og : Option Nat} {a : Tab Nat} (h : x.Safe ps og y) (hl : Within 0x4 ps) :
    x.Safe ps og { y with regs := a } :=
  h.trans ⟨⟨rfl, id, fun k => FuseSlot.within_refl k _, Nat.le_refl _⟩, ⟨fun _ hb => hb, rfl, rfl⟩,
    State.Only.of hl (fun p hp => by cases p <;> first | rfl | contradiction) (.inr rfl)⟩

theorem State.Safe.upd_latch {x y : State} {ps : Nat} {og : Option Nat} {a : Tab Latch} (h : x.Safe ps og y) (hl : Within 0x8 ps) :
    x.Safe ps og { y with latch := a } :=
  h.trans ⟨⟨rfl, id, fun k => FuseSlot.within_refl k _, Nat.le_refl _⟩, ⟨fun _ hb => hb, rfl, rfl⟩,
    State.Only.of hl (fun p hp => by cases p <;> first | rfl | contradiction) (.inr rfl)⟩

theorem State.Safe.upd_lcount {x y : State} {ps : Nat} {og : Option Nat} {a : Tab Nat} (h : x.Safe ps og y) (hl : Within 0x100 ps) :
    x.Safe ps og { y with lcount := a } :=
  h.trans ⟨⟨rfl, id, fun k => FuseSlot.within_refl k _, Nat.le_refl _⟩, ⟨fun _ hb => hb, rfl, rfl⟩,
    State.Only.of hl (fun p hp => by cases p <;> first | rfl | contradiction) (.inr rfl)⟩

theorem State.Safe.upd_events {x y : State} {ps : Nat} {og : Option Nat} {a : List EvRec} (h : x.Safe ps og y) (hl : Within 0x200 ps) :
    x.Safe ps og { y with events := a } :=
  h.trans ⟨⟨rfl, id, fun k => FuseSlot.within_refl k _, Nat.le_refl _⟩, ⟨fun _ hb => hb, rfl, rfl⟩,
    State.Only.of hl (fun p hp => by cases p <;> first | rfl | contradiction) (.inr rfl)⟩

theorem State.Safe.upd_evLost {x y : State} {ps : Nat} {og : Option Nat} {a : Bool} (h : x.Safe ps og y) (hl : Within 0x400 ps) :
    x.Safe ps og { y with evLost := a } :=
  h.trans ⟨⟨rfl, id, fun k => FuseSlot.within_refl k _, Nat.le_refl _⟩, ⟨fun _ hb => hb, rfl, rfl⟩,
    State.Only.of hl (fun p hp => by cases p <;> first | rfl | contradiction) (.inr rfl)⟩

theorem State.Safe.upd_icEdge {x y : State} {ps : Nat} {og : Option Nat} {a : Tab Nat} (h : x.Safe ps og y) (hl : Within 0x800 ps) :
    x.Safe ps og { y with icEdge := a } :=
  h.trans ⟨⟨rfl, id, fun k => FuseSlot.within_refl k _, Nat.le_refl _⟩, ⟨fun _ hb => hb, rfl, rfl⟩,
    State.Only.of hl (fun p hp => by cases p <;> first | rfl | contradiction) (.inr rfl)⟩

theorem State.Safe.upd_msix {x y : State} {ps : Nat} {og : Option Nat} {a : List Nat} (h : x.Safe ps og y) (hl : Within 0x1000 ps) :
    x.Safe ps og { y with msix := a } :=
  h.trans ⟨⟨rfl, id, fun k => FuseSlot.within_refl k _, Nat.le_refl _⟩, ⟨fun _ hb => hb, rfl, rfl⟩,
    State.Only.of hl (fun p hp => by cases p <;> first | rfl | contradiction) (.inr rfl)⟩

theorem State.Safe.upd_stalls {x y : State} {ps : Nat} {og : Option Nat} {a : Tab Stall} (h : x.Safe ps og y) (hl : Within 0x4000 ps) (ho : og = none) :
    x.Safe ps og { y with stalls := a } :=
  h.trans ⟨⟨rfl, id, fun k => FuseSlot.within_refl k _, Nat.le_refl _⟩, ⟨fun _ hb => hb, rfl, rfl⟩,
    State.Only.of hl (fun p hp => by cases p <;> first | rfl | contradiction) (.inl ho)⟩

theorem State.Safe.upd_cells {x y : State} {ps : Nat} {og : Option Nat} {a : Tab Cell} (h : x.Safe ps og y) (hl : Within 0x8000 ps) :
    x.Safe ps og { y with cells := a } :=
  h.trans ⟨⟨rfl, id, fun k => FuseSlot.within_refl k _, Nat.le_refl _⟩, ⟨fun _ hb => hb, rfl, rfl⟩,
    State.Only.of hl (fun p hp => by cases p <;> first | rfl | contradiction) (.inr rfl)⟩

theorem State.Safe.upd_takeQ {x y : State} {ps : Nat} {og : Option Nat} {a : Tab (List TakeReq)} (h : x.Safe ps og y) (hl : Within 0x10000 ps) :
    x.Safe ps og { y with takeQ := a } :=
  h.trans ⟨⟨rfl, id, fun k => FuseSlot.within_refl k _, Nat.le_refl _⟩, ⟨fun _ hb => hb, rfl, rfl⟩,
    State.Only.of hl (fun p hp => by cases p <;> first | rfl | contradiction) (.inr rfl)⟩

theorem State.Safe.upd_reportQ {x y : State} {ps : Nat} {og : Option Nat} {a : Tab (List Report)} (h : x.Safe ps og y) (hl : Within 0x20000 ps) :
    x.Safe ps og { y with reportQ := a } :=
  h.trans ⟨⟨rfl, id, fun k => FuseSlot.within_refl k _, Nat.le_refl _⟩, ⟨fun _ hb => hb, rfl, rfl⟩,
    State.Only.of hl (fun p hp => by cases p <;> first | rfl | contradiction) (.inr rfl)⟩

theorem State.Safe.upd_answers {x y : State} {ps : Nat} {og : Option Nat} {a : List TakeAns} (h : x.Safe ps og y) (hl : Within 0x40000 ps) :
    x.Safe ps og { y with answers := a } :=
  h.trans ⟨⟨rfl, id, fun k => FuseSlot.within_refl k _, Nat.le_refl _⟩, ⟨fun _ hb => hb, rfl, rfl⟩,
    State.Only.of hl (fun p hp => by cases p <;> first | rfl | contradiction) (.inr rfl)⟩

theorem State.Safe.upd_tokens {x y : State} {ps : Nat} {og : Option Nat} {a : List TokenPkt} (h : x.Safe ps og y) (hl : Within 0x80000 ps) :
    x.Safe ps og { y with tokens := a } :=
  h.trans ⟨⟨rfl, id, fun k => FuseSlot.within_refl k _, Nat.le_refl _⟩, ⟨fun _ hb => hb, rfl, rfl⟩,
    State.Only.of hl (fun p hp => by cases p <;> first | rfl | contradiction) (.inr rfl)⟩

theorem State.Safe.upd_bayTlb {x y : State} {ps : Nat} {og : Option Nat} {a : Tab (List TlbEntry)} (h : x.Safe ps og y) (hl : Within 0x100000 ps) :
    x.Safe ps og { y with bayTlb := a } :=
  h.trans ⟨⟨rfl, id, fun k => FuseSlot.within_refl k _, Nat.le_refl _⟩, ⟨fun _ hb => hb, rfl, rfl⟩,
    State.Only.of hl (fun p hp => by cases p <;> first | rfl | contradiction) (.inr rfl)⟩

theorem State.Safe.upd_jobs {x y : State} {ps : Nat} {og : Option Nat} {a : Tab Job} (h : x.Safe ps og y) (hl : Within 0x200000 ps) :
    x.Safe ps og { y with jobs := a } :=
  h.trans ⟨⟨rfl, id, fun k => FuseSlot.within_refl k _, Nat.le_refl _⟩, ⟨fun _ hb => hb, rfl, rfl⟩,
    State.Only.of hl (fun p hp => by cases p <;> first | rfl | contradiction) (.inr rfl)⟩

theorem State.Safe.upd_queues {x y : State} {ps : Nat} {og : Option Nat} {a : Tab FeedQueue} (h : x.Safe ps og y) (hl : Within 0x400000 ps) :
    x.Safe ps og { y with queues := a } :=
  h.trans ⟨⟨rfl, id, fun k => FuseSlot.within_refl k _, Nat.le_refl _⟩, ⟨fun _ hb => hb, rfl, rfl⟩,
    State.Only.of hl (fun p hp => by cases p <;> first | rfl | contradiction) (.inr rfl)⟩

theorem State.Safe.upd_faultQ {x y : State} {ps : Nat} {og : Option Nat} {a : List FaultRec} (h : x.Safe ps og y) (hl : Within 0x800000 ps) :
    x.Safe ps og { y with faultQ := a } :=
  h.trans ⟨⟨rfl, id, fun k => FuseSlot.within_refl k _, Nat.le_refl _⟩, ⟨fun _ hb => hb, rfl, rfl⟩,
    State.Only.of hl (fun p hp => by cases p <;> first | rfl | contradiction) (.inr rfl)⟩

theorem State.Safe.upd_net {x y : State} {ps : Nat} {og : Option Nat} {a : Net} (h : x.Safe ps og y) (hl : Within 0x1000000 ps) :
    x.Safe ps og { y with net := a } :=
  h.trans ⟨⟨rfl, id, fun k => FuseSlot.within_refl k _, Nat.le_refl _⟩, ⟨fun _ hb => hb, rfl, rfl⟩,
    State.Only.of hl (fun p hp => by cases p <;> first | rfl | contradiction) (.inr rfl)⟩

theorem State.Safe.upd_hbms {x y : State} {ps : Nat} {og : Option Nat} {a : Tab Hbm} (h : x.Safe ps og y) (hl : Within 0x2000000 ps) :
    x.Safe ps og { y with hbms := a } :=
  h.trans ⟨⟨rfl, id, fun k => FuseSlot.within_refl k _, Nat.le_refl _⟩, ⟨fun _ hb => hb, rfl, rfl⟩,
    State.Only.of hl (fun p hp => by cases p <;> first | rfl | contradiction) (.inr rfl)⟩

theorem State.Safe.upd_fabs {x y : State} {ps : Nat} {og : Option Nat} {a : Tab Fab} (h : x.Safe ps og y) (hl : Within 0x4000000 ps) :
    x.Safe ps og { y with fabs := a } :=
  h.trans ⟨⟨rfl, id, fun k => FuseSlot.within_refl k _, Nat.le_refl _⟩, ⟨fun _ hb => hb, rfl, rfl⟩,
    State.Only.of hl (fun p hp => by cases p <;> first | rfl | contradiction) (.inr rfl)⟩

theorem State.Safe.upd_cfg {x y : State} {ps : Nat} {og : Option Nat} {a : Cfg} (h : x.Safe ps og y) (hl : Within 0x8000000 ps) :
    x.Safe ps og { y with cfg := a } :=
  h.trans ⟨⟨rfl, id, fun k => FuseSlot.within_refl k _, Nat.le_refl _⟩, ⟨fun _ hb => hb, rfl, rfl⟩,
    State.Only.of hl (fun p hp => by cases p <;> first | rfl | contradiction) (.inr rfl)⟩

theorem State.Safe.upd_sec {x y : State} {ps : Nat} {og : Option Nat} {a : Sec} (h : x.Safe ps og y) (hl : Within 0x10000000 ps) (h1 : a.fuses = y.sec.fuses) (h2 : a.straps = y.sec.straps) :
    x.Safe ps og { y with sec := a } :=
  h.trans ⟨⟨rfl, id, fun k => by simp only [State.fuse, h1]; exact FuseSlot.within_refl k _, Nat.le_refl _⟩, ⟨fun _ hb => hb, h2, rfl⟩,
    State.Only.of hl (fun p hp => by cases p <;> first | rfl | contradiction) (.inr rfl)⟩

theorem State.Safe.upd_board {x y : State} {ps : Nat} {og : Option Nat} {a : Board} (h : x.Safe ps og y) (hl : Within 0x20000000 ps) (h3 : a.flash = y.board.flash) :
    x.Safe ps og { y with board := a } :=
  h.trans ⟨⟨rfl, id, fun k => FuseSlot.within_refl k _, Nat.le_refl _⟩, ⟨fun _ hb => hb, rfl, h3⟩,
    State.Only.of hl (fun p hp => by cases p <;> first | rfl | contradiction) (.inr rfl)⟩

theorem State.Safe.upd_links {x y : State} {ps : Nat} {og : Option Nat} {a : Tab Link} (h : x.Safe ps og y) (hl : Within 0x40000000 ps) :
    x.Safe ps og { y with links := a } :=
  h.trans ⟨⟨rfl, id, fun k => FuseSlot.within_refl k _, Nat.le_refl _⟩, ⟨fun _ hb => hb, rfl, rfl⟩,
    State.Only.of hl (fun p hp => by cases p <;> first | rfl | contradiction) (.inr rfl)⟩

theorem State.Safe.upd_said {x y : State} {ps : Nat} {og : Option Nat} {a : Option Said} (h : x.Safe ps og y) (hl : Within 0x80000000 ps) :
    x.Safe ps og { y with said := a } :=
  h.trans ⟨⟨rfl, id, fun k => FuseSlot.within_refl k _, Nat.le_refl _⟩, ⟨fun _ hb => hb, rfl, rfl⟩,
    State.Only.of hl (fun p hp => by cases p <;> first | rfl | contradiction) (.inr rfl)⟩

theorem State.Safe.upd_doeErr {x y : State} {ps : Nat} {og : Option Nat} {a : Bool} (h : x.Safe ps og y) (hl : Within 0x100000000 ps) :
    x.Safe ps og { y with doeErr := a } :=
  h.trans ⟨⟨rfl, id, fun k => FuseSlot.within_refl k _, Nat.le_refl _⟩, ⟨fun _ hb => hb, rfl, rfl⟩,
    State.Only.of hl (fun p hp => by cases p <;> first | rfl | contradiction) (.inr rfl)⟩

theorem State.Safe.upd_hostUp {x y : State} {ps : Nat} {og : Option Nat} {a : Bool} (h : x.Safe ps og y) (hl : Within 0x200000000 ps) :
    x.Safe ps og { y with hostUp := a } :=
  h.trans ⟨⟨rfl, id, fun k => FuseSlot.within_refl k _, Nat.le_refl _⟩, ⟨fun _ hb => hb, rfl, rfl⟩,
    State.Only.of hl (fun p hp => by cases p <;> first | rfl | contradiction) (.inr rfl)⟩

theorem State.Safe.upd_speed {x y : State} {ps : Nat} {og : Option Nat} {a : Nat} (h : x.Safe ps og y) (hl : Within 0x400000000 ps) :
    x.Safe ps og { y with speed := a } :=
  h.trans ⟨⟨rfl, id, fun k => FuseSlot.within_refl k _, Nat.le_refl _⟩, ⟨fun _ hb => hb, rfl, rfl⟩,
    State.Only.of hl (fun p hp => by cases p <;> first | rfl | contradiction) (.inr rfl)⟩

theorem State.Safe.upd_width {x y : State} {ps : Nat} {og : Option Nat} {a : Nat} (h : x.Safe ps og y) (hl : Within 0x800000000 ps) :
    x.Safe ps og { y with width := a } :=
  h.trans ⟨⟨rfl, id, fun k => FuseSlot.within_refl k _, Nat.le_refl _⟩, ⟨fun _ hb => hb, rfl, rfl⟩,
    State.Only.of hl (fun p hp => by cases p <;> first | rfl | contradiction) (.inr rfl)⟩

theorem State.Safe.upd_hdm {x y : State} {ps : Nat} {og : Option Nat} {a : Option Nat} (h : x.Safe ps og y) (hl : Within 0x1000000000 ps) :
    x.Safe ps og { y with hdm := a } :=
  h.trans ⟨⟨rfl, id, fun k => FuseSlot.within_refl k _, Nat.le_refl _⟩, ⟨fun _ hb => hb, rfl, rfl⟩,
    State.Only.of hl (fun p hp => by cases p <;> first | rfl | contradiction) (.inr rfl)⟩

theorem State.Safe.upd_mboxes {x y : State} {ps : Nat} {og : Option Nat} {a : Tab Mbox} (h : x.Safe ps og y) (hl : Within 0x2000000000 ps) :
    x.Safe ps og { y with mboxes := a } :=
  h.trans ⟨⟨rfl, id, fun k => FuseSlot.within_refl k _, Nat.le_refl _⟩, ⟨fun _ hb => hb, rfl, rfl⟩,
    State.Only.of hl (fun p hp => by cases p <;> first | rfl | contradiction) (.inr rfl)⟩

theorem State.Safe.upd_fw {x y : State} {ps : Nat} {og : Option Nat} {a : Bool} (h : x.Safe ps og y) (hl : Within 0x4000000000 ps) :
    x.Safe ps og { y with fw := a } :=
  h.trans ⟨⟨rfl, id, fun k => FuseSlot.within_refl k _, Nat.le_refl _⟩, ⟨fun _ hb => hb, rfl, rfl⟩,
    State.Only.of hl (fun p hp => by cases p <;> first | rfl | contradiction) (.inr rfl)⟩

theorem State.Safe.upd_viral {x y : State} {ps : Nat} {og : Option Nat} {a : Bool} (h : x.Safe ps og y) (hl : Within 0x8000000000 ps) :
    x.Safe ps og { y with viral := a } :=
  h.trans ⟨⟨rfl, id, fun k => FuseSlot.within_refl k _, Nat.le_refl _⟩, ⟨fun _ hb => hb, rfl, rfl⟩,
    State.Only.of hl (fun p hp => by cases p <;> first | rfl | contradiction) (.inr rfl)⟩

theorem State.Safe.upd_warms {x y : State} {ps : Nat} {og : Option Nat} {a : Nat} (h : x.Safe ps og y) (hl : Within 0x10000000000 ps) :
    x.Safe ps og { y with warms := a } :=
  h.trans ⟨⟨rfl, id, fun k => FuseSlot.within_refl k _, Nat.le_refl _⟩, ⟨fun _ hb => hb, rfl, rfl⟩,
    State.Only.of hl (fun p hp => by cases p <;> first | rfl | contradiction) (.inr rfl)⟩

theorem State.Safe.upd_accepts {x y : State} {ps : Nat} {og : Option Nat} {a : Nat} (h : x.Safe ps og y) (hl : Within 0x20000000000 ps) :
    x.Safe ps og { y with accepts := a } :=
  h.trans ⟨⟨rfl, id, fun k => FuseSlot.within_refl k _, Nat.le_refl _⟩, ⟨fun _ hb => hb, rfl, rfl⟩,
    State.Only.of hl (fun p hp => by cases p <;> first | rfl | contradiction) (.inr rfl)⟩

theorem State.Safe.upd_classes {x y : State} {ps : Nat} {og : Option Nat} {a : Tab (Option BatchClass)} (h : x.Safe ps og y) (hl : Within 0x40000000000 ps) :
    x.Safe ps og { y with classes := a } :=
  h.trans ⟨⟨rfl, id, fun k => FuseSlot.within_refl k _, Nat.le_refl _⟩, ⟨fun _ hb => hb, rfl, rfl⟩,
    State.Only.of hl (fun p hp => by cases p <;> first | rfl | contradiction) (.inr rfl)⟩

theorem State.Safe.upd_eng {x y : State} {ps : Nat} {og : Option Nat} {a : Eng} (h : x.Safe ps og y) (hl : Within 0x80000000000 ps) :
    x.Safe ps og { y with eng := a } :=
  h.trans ⟨⟨rfl, id, fun k => FuseSlot.within_refl k _, Nat.le_refl _⟩, ⟨fun _ hb => hb, rfl, rfl⟩,
    State.Only.of hl (fun p hp => by cases p <;> first | rfl | contradiction) (.inr rfl)⟩

theorem State.Safe.upd_hostWait {x y : State} {ps : Nat} {og : Option Nat} {a : Bool} (h : x.Safe ps og y) (hl : Within 0x100000000000 ps) :
    x.Safe ps og { y with hostWait := a } :=
  h.trans ⟨⟨rfl, id, fun k => FuseSlot.within_refl k _, Nat.le_refl _⟩, ⟨fun _ hb => hb, rfl, rfl⟩,
    State.Only.of hl (fun p hp => by cases p <;> first | rfl | contradiction) (.inr rfl)⟩

theorem State.Safe.upd_mx {x y : State} {ps : Nat} {og : Option Nat} {a : Msix} (h : x.Safe ps og y) (hl : Within 0x200000000000 ps) :
    x.Safe ps og { y with mx := a } :=
  h.trans ⟨⟨rfl, id, fun k => FuseSlot.within_refl k _, Nat.le_refl _⟩, ⟨fun _ hb => hb, rfl, rfl⟩,
    State.Only.of hl (fun p hp => by cases p <;> first | rfl | contradiction) (.inr rfl)⟩

theorem State.Safe.upd_errs {x y : State} {ps : Nat} {og : Option Nat} {a : HostErr} (h : x.Safe ps og y) (hl : Within 0x400000000000 ps) :
    x.Safe ps og { y with errs := a } :=
  h.trans ⟨⟨rfl, id, fun k => FuseSlot.within_refl k _, Nat.le_refl _⟩, ⟨fun _ hb => hb, rfl, rfl⟩,
    State.Only.of hl (fun p hp => by cases p <;> first | rfl | contradiction) (.inr rfl)⟩

theorem State.Safe.upd_ctxLost {x y : State} {ps : Nat} {og : Option Nat} {a : Tab Bool} (h : x.Safe ps og y) (hl : Within 0x800000000000 ps) :
    x.Safe ps og { y with ctxLost := a } :=
  h.trans ⟨⟨rfl, id, fun k => FuseSlot.within_refl k _, Nat.le_refl _⟩, ⟨fun _ hb => hb, rfl, rfl⟩,
    State.Only.of hl (fun p hp => by cases p <;> first | rfl | contradiction) (.inr rfl)⟩

theorem State.Safe.upd_evLost_msix {x y : State} {ps : Nat} {og : Option Nat} {a0 : Bool} {a1 : List Nat}
    (h : x.Safe ps og y) (hl : Within 0x1400 ps) :
    x.Safe ps og { y with evLost := a0, msix := a1 } :=
  (((h).upd_evLost (a := a0) (hl.of rfl))).upd_msix (a := a1) (hl.of rfl)

theorem State.Safe.upd_msix_mx {x y : State} {ps : Nat} {og : Option Nat} {a0 : List Nat} {a1 : Msix}
    (h : x.Safe ps og y) (hl : Within 0x200000001000 ps) :
    x.Safe ps og { y with msix := a0, mx := a1 } :=
  (((h).upd_msix (a := a0) (hl.of rfl))).upd_mx (a := a1) (hl.of rfl)

theorem State.Safe.upd_sec_board {x y : State} {ps : Nat} {og : Option Nat} {a0 : Sec} {a1 : Board}
    (h : x.Safe ps og y) (hl : Within 0x30000000 ps) (h1 : a0.fuses = y.sec.fuses) (h2 : a0.straps = y.sec.straps) (h3 : a1.flash = y.board.flash) :
    x.Safe ps og { y with sec := a0, board := a1 } :=
  (((h).upd_sec (a := a0) (hl.of rfl) h1 h2)).upd_board (a := a1) (hl.of rfl) h3

theorem State.Safe.upd_stalls_hbms_mboxes {x y : State} {ps : Nat} {og : Option Nat} {a0 : Tab Stall} {a1 : Tab Hbm} {a2 : Tab Mbox}
    (h : x.Safe ps og y) (hl : Within 0x2002004000 ps) (ho : og = none) :
    x.Safe ps og { y with stalls := a0, hbms := a1, mboxes := a2 } :=
  (((((h).upd_stalls (a := a0) (hl.of rfl) ho)).upd_hbms (a := a1) (hl.of rfl))).upd_mboxes (a := a2) (hl.of rfl)

theorem State.Safe.upd_doeErr_hdm_mx_errs {x y : State} {ps : Nat} {og : Option Nat} {a0 : Bool} {a1 : Option Nat} {a2 : Msix} {a3 : HostErr}
    (h : x.Safe ps og y) (hl : Within 0x601100000000 ps) :
    x.Safe ps og { y with doeErr := a0, hdm := a1, mx := a2, errs := a3 } :=
  (((((((h).upd_doeErr (a := a0) (hl.of rfl))).upd_hdm (a := a1) (hl.of rfl))).upd_mx (a := a2) (hl.of rfl))).upd_errs (a := a3) (hl.of rfl)

theorem State.Safe.upd_hostUp_speed_width_hostWait {x y : State} {ps : Nat} {og : Option Nat} {a0 : Bool} {a1 : Nat} {a2 : Nat} {a3 : Bool}
    (h : x.Safe ps og y) (hl : Within 0x100e00000000 ps) :
    x.Safe ps og { y with hostUp := a0, speed := a1, width := a2, hostWait := a3 } :=
  (((((((h).upd_hostUp (a := a0) (hl.of rfl))).upd_speed (a := a1) (hl.of rfl))).upd_width (a := a2) (hl.of rfl))).upd_hostWait (a := a3) (hl.of rfl)

theorem State.Safe.upd_said_hostUp_speed_width_hostWait {x y : State} {ps : Nat} {og : Option Nat} {a0 : Option Said} {a1 : Bool} {a2 : Nat} {a3 : Nat} {a4 : Bool}
    (h : x.Safe ps og y) (hl : Within 0x100e80000000 ps) :
    x.Safe ps og { y with said := a0, hostUp := a1, speed := a2, width := a3, hostWait := a4 } :=
  (((((((((h).upd_said (a := a0) (hl.of rfl))).upd_hostUp (a := a1) (hl.of rfl))).upd_speed (a := a2) (hl.of rfl))).upd_width (a := a3) (hl.of rfl))).upd_hostWait (a := a4) (hl.of rfl)

theorem State.Safe.upd_stalls_cells_takeQ_reportQ_answers_tokens_bayTlb_hbms_fabs {x y : State} {ps : Nat} {og : Option Nat} {a0 : Tab Stall} {a1 : Tab Cell} {a2 : Tab (List TakeReq)} {a3 : Tab (List Report)} {a4 : List TakeAns} {a5 : List TokenPkt} {a6 : Tab (List TlbEntry)} {a7 : Tab Hbm} {a8 : Tab Fab}
    (h : x.Safe ps og y) (hl : Within 0x61fc000 ps) (ho : og = none) :
    x.Safe ps og { y with stalls := a0, cells := a1, takeQ := a2, reportQ := a3, answers := a4, tokens := a5, bayTlb := a6, hbms := a7, fabs := a8 } :=
  (((((((((((((((((h).upd_stalls (a := a0) (hl.of rfl) ho)).upd_cells (a := a1) (hl.of rfl))).upd_takeQ (a := a2) (hl.of rfl))).upd_reportQ (a := a3) (hl.of rfl))).upd_answers (a := a4) (hl.of rfl))).upd_tokens (a := a5) (hl.of rfl))).upd_bayTlb (a := a6) (hl.of rfl))).upd_hbms (a := a7) (hl.of rfl))).upd_fabs (a := a8) (hl.of rfl)

theorem State.Safe.upd_stalls_takeQ_reportQ_answers_tokens_faultQ_cfg_mboxes_fw {x y : State} {ps : Nat} {og : Option Nat} {a0 : Tab Stall} {a1 : Tab (List TakeReq)} {a2 : Tab (List Report)} {a3 : List TakeAns} {a4 : List TokenPkt} {a5 : List FaultRec} {a6 : Cfg} {a7 : Tab Mbox} {a8 : Bool}
    (h : x.Safe ps og y) (hl : Within 0x60088f4000 ps) (ho : og = none) :
    x.Safe ps og { y with stalls := a0, takeQ := a1, reportQ := a2, answers := a3, tokens := a4, faultQ := a5, cfg := a6, mboxes := a7, fw := a8 } :=
  (((((((((((((((((h).upd_stalls (a := a0) (hl.of rfl) ho)).upd_takeQ (a := a1) (hl.of rfl))).upd_reportQ (a := a2) (hl.of rfl))).upd_answers (a := a3) (hl.of rfl))).upd_tokens (a := a4) (hl.of rfl))).upd_faultQ (a := a5) (hl.of rfl))).upd_cfg (a := a6) (hl.of rfl))).upd_mboxes (a := a7) (hl.of rfl))).upd_fw (a := a8) (hl.of rfl)

theorem State.canonical_iff (s : State) : s.canonical = true ↔
    (Tab.wf 0 s.mem = true ∧ Tab.wf false s.memTag = true) ∧ Tab.wf 0 s.host = true ∧ Tab.wf false s.hostTag = true := by
  simp [State.canonical, Memory.wf]

/-- A change of the memories alone is safe when it keeps their canonical form. -/
theorem State.Safe.memory {x y t : State} {a ps : Nat} {og : Option Nat} (h : x.Safe ps og y)
    (e : t = { y with mem := t.mem, memTag := t.memTag, host := t.host, hostTag := t.hostTag })
    (hl : Within a ps) (hp : ∀ p : Part, a.testBit p.ctorIdx = false → p.same y t)
    (hm : Tab.wf 0 y.mem = true → Tab.wf 0 t.mem = true) (hmt : Tab.wf false y.memTag = true → Tab.wf false t.memTag = true)
    (hh : Tab.wf 0 y.host = true → Tab.wf 0 t.host = true) (hht : Tab.wf false y.hostTag = true → Tab.wf false t.hostTag = true) :
    x.Safe ps og t := by
  refine h.trans ⟨⟨by rw [e], fun hc => ?_, fun k => by rw [e]; exact FuseSlot.within_refl k _, Nat.le_of_eq (by rw [e])⟩,
    ⟨fun b hb => by rw [e]; exact hb, by rw [e], by rw [e]⟩, .of hl hp (.inr (by rw [e]))⟩
  rw [State.canonical_iff] at hc ⊢
  exact ⟨⟨hm hc.1.1, hmt hc.1.2⟩, hh hc.2.1, hht hc.2.2⟩

/-- A change of device memory alone is safe when it keeps the canonical form. -/
theorem State.Safe.upd_mem_memTag {x y : State} {ps : Nat} {og : Option Nat} {m : List Host.Cell} {mt : Tab Bool} (h : x.Safe ps og y)
    (hl : Within 0x30 ps) (hm : Tab.wf 0 y.mem = true → Tab.wf 0 m = true)
    (hmt : Tab.wf false y.memTag = true → Tab.wf false mt = true) : x.Safe ps og { y with mem := m, memTag := mt } :=
  State.Safe.memory h rfl hl (fun p hp => by cases p <;> first | rfl | contradiction) hm hmt id id

/-- A change of host memory alone is safe when it keeps the canonical form. -/
theorem State.Safe.upd_host_hostTag {x y : State} {ps : Nat} {og : Option Nat} {m : List Host.Cell} {mt : Tab Bool} (h : x.Safe ps og y)
    (hl : Within 0xC0 ps) (hm : Tab.wf 0 y.host = true → Tab.wf 0 m = true)
    (hmt : Tab.wf false y.hostTag = true → Tab.wf false mt = true) : x.Safe ps og { y with host := m, hostTag := mt } :=
  State.Safe.memory h rfl hl (fun p hp => by cases p <;> first | rfl | contradiction) id id hm hmt

/-- A change of poison tags alone is safe when it keeps their canonical form. -/
theorem State.Safe.upd_memTag {x y : State} {ps : Nat} {og : Option Nat} {mt : Tab Bool} (h : x.Safe ps og y) (hl : Within 0x20 ps)
    (hmt : Tab.wf false y.memTag = true → Tab.wf false mt = true) : x.Safe ps og { y with memTag := mt } :=
  State.Safe.memory h rfl hl (fun p hp => by cases p <;> first | rfl | contradiction) id hmt id id

/-- A change of poison tags of host memory alone is safe when it keeps their canonical form. -/
theorem State.Safe.upd_hostTag {x y : State} {ps : Nat} {og : Option Nat} {mt : Tab Bool} (h : x.Safe ps og y) (hl : Within 0x80 ps)
    (hmt : Tab.wf false y.hostTag = true → Tab.wf false mt = true) : x.Safe ps og { y with hostTag := mt } :=
  State.Safe.memory h rfl hl (fun p hp => by cases p <;> first | rfl | contradiction) id id id hmt

theorem State.write_safe {x : State} {ps : Nat} {og : Option Nat} (s : State) (a : Nat) (bs : List Byte) (p : Bool) (hl : Within 0x30 ps)
    (h : x.Safe ps og s) : x.Safe ps og (s.write a bs p) :=
  h.upd_mem_memTag hl (writeBytes_wf a bs) (writeTags_wf a p _)

theorem State.writeByte_safe {x : State} {ps : Nat} {og : Option Nat} (s : State) (a : Nat) (v : Byte) (p : Bool) (hl : Within 0x30 ps)
    (h : x.Safe ps og s) : x.Safe ps og (s.writeByte a v p) :=
  h.upd_mem_memTag hl (Tab.wf_set a v) (Tab.wf_set a p)

theorem State.discard_safe {x : State} {ps : Nat} {og : Option Nat} (s : State) (a n : Nat) (hl : Within 0x30 ps) (h : x.Safe ps og s) :
    x.Safe ps og (s.discard a n) :=
  h.upd_mem_memTag hl (Tab.wf_filter _) (Tab.wf_filter _)

theorem State.hwrite_safe {x : State} {ps : Nat} {og : Option Nat} (s : State) (a : Nat) (bs : List Byte) (p : Bool) (hl : Within 0xC0 ps)
    (h : x.Safe ps og s) : x.Safe ps og (s.hwrite a bs p) :=
  h.upd_host_hostTag hl (writeBytes_wf a bs) (writeTags_wf a p _)

/-- A bay that becomes fenced is safe. -/
theorem State.Safe.fence {x y : State} {ps : Nat} {og : Option Nat} (b : Nat) (h : x.Safe ps og y) (hl : Within 0x2000 ps) :
    x.Safe ps og { y with fenced := Tab.set false y.fenced b true } := by
  refine h.trans ⟨⟨rfl, id, fun k => FuseSlot.within_refl k _, Nat.le_refl _⟩, ⟨fun c hc => ?_, rfl, rfl⟩,
    .of hl (fun p hp => by cases p <;> first | rfl | contradiction) (.inr rfl)⟩
  show Tab.get false (Tab.set false y.fenced b true) c = true
  by_cases e : c = b
  · subst c; exact Tab.get_set_same _ _ _ _
  · rw [Tab.get_set_ne _ _ _ e]; exact hc

/-- The number of a set of parts. -/
def Part.mask (l : List Part) : Nat := l.foldl (fun m p => m ||| 2 ^ p.ctorIdx) 0

theorem Part.testBit_foldl (l : List Part) (m k : Nat) (h : (l.foldl (fun m p => m ||| 2 ^ p.ctorIdx) m).testBit k = true) :
    m.testBit k = true ∨ ∃ p ∈ l, p.ctorIdx = k := by
  induction l generalizing m with
  | nil => exact .inl h
  | cons a l ih =>
    rcases ih _ h with h | ⟨p, hp, e⟩
    · rw [Nat.testBit_or, Nat.testBit_two_pow, Bool.or_eq_true] at h
      rcases h with h | h
      · exact .inl h
      · exact .inr ⟨a, by simp, by simpa using h⟩
    · exact .inr ⟨p, by simp [hp], e⟩

/-- A part that a list does not name is not in its set. -/
theorem Part.mask_mem (l : List Part) (p : Part) (h : p ∉ l) : (Part.mask l).testBit p.ctorIdx = false := by
  rw [Bool.eq_false_iff]
  intro hb
  rcases Part.testBit_foldl l 0 _ hb with h' | ⟨q, hq, e⟩
  · simp at h'
  · have : q = p := by cases q <;> cases p <;> first | rfl | (simp [Part.ctorIdx] at e)
    exact h (this ▸ hq)

/-- A fold of safe steps is safe. -/
theorem each_safe {α : Type} {x : State} {ps : Nat} {og : Option Nat} (l : List α) (s : State) (f : State → α → State)
    (hf : ∀ y a, x.Safe ps og y → x.Safe ps og (f y a)) (h : x.Safe ps og s) : x.Safe ps og (each l s f) := by
  unfold each
  induction l generalizing s with
  | nil => exact h
  | cons a l ih => exact ih (f s a) (hf s a h)

/-- A property that each step of a fold keeps holds after it. -/
theorem foldl_inv {α β : Type} (P : β → Prop) (l : List α) (b : β) (f : β → α → β) (hf : ∀ y a, P y → P (f y a)) (h : P b) :
    P (l.foldl f b) := by
  induction l generalizing b with
  | nil => exact h
  | cons a l ih => exact ih (f b a) (hf b a h)

/-- A fold of safe steps over a list is safe. -/
theorem foldl_safe {α : Type} {x : State} {ps : Nat} {og : Option Nat} (l : List α) (s : State) (f : State → α → State)
    (hf : ∀ y a, x.Safe ps og y → x.Safe ps og (f y a)) (h : x.Safe ps og s) : x.Safe ps og (l.foldl f s) := each_safe l s f hf h

/-- The state in a fold of safe steps over a state and another value is safe. -/
theorem foldl_fst {α β : Type} {x : State} {ps : Nat} {og : Option Nat} (l : List α) (b : State × β) (f : State × β → α → State × β)
    (hf : ∀ y a, x.Safe ps og y.1 → x.Safe ps og (f y a).1) (h : x.Safe ps og b.1) : x.Safe ps og (l.foldl f b).1 := by
  induction l generalizing b with
  | nil => exact h
  | cons a l ih => exact ih (f b a) (hf b a h)

theorem foldl_pair {α β : Type} {x t : State} {ps : Nat} {og : Option Nat} {r : β} {l : List α} {b : State × β} {f : State × β → α → State × β}
    (e : l.foldl f b = (t, r)) (hf : ∀ y a, x.Safe ps og y.1 → x.Safe ps og (f y a).1) (h : x.Safe ps og b.1) : x.Safe ps og t := by
  have hs := foldl_fst l b f hf h
  rw [e] at hs
  exact hs

end Sys2Proof.Machine
end

