-- ==== Sys2Proof/Laws/SafeOps.lean ====
section
/-! SUPPORT. The operations of Machine/Ops.lean keep what Laws/Keeps.lean calls Safe. -/

namespace Sys2Proof.Machine

variable {x₀ : State} {ps : Nat} {og : Option Nat}

theorem State.setRegAt_safe (s : State) (r : RegAt) (v : Nat) (hl : Within 0x4 ps) (hx : x₀.Safe ps og s) :
    x₀.Safe ps og (s.setRegAt r v) := by
  unfold State.setRegAt
  try dsimp only
  repeat' first
    | with_reducible assumption | with_reducible apply State.Safe.upd_regs

theorem State.setReg_safe (s : State) (r : Rn) (n : Nat) (i : Nat) (v : Nat) (hl : Within 0x4 ps) (hx : x₀.Safe ps og s) :
    x₀.Safe ps og (s.setReg r n i v) := by
  unfold State.setReg
  try dsimp only
  repeat' first
    | with_reducible assumption | with_reducible apply State.setRegAt_safe

theorem State.rwWrite_safe (s : State) (r : RegAt) (v : Nat) (hl : Within 0x4 ps) (hx : x₀.Safe ps og s) :
    x₀.Safe ps og (s.rwWrite r v) := by
  unfold State.rwWrite
  try dsimp only
  repeat' first
    | with_reducible assumption | with_reducible apply State.setRegAt_safe

theorem State.setFld_safe (s : State) (r : Rn) (n : Nat) (i : Nat) (hi : Nat) (lo : Nat) (x : Nat) (hl : Within 0x4 ps)
    (hx : x₀.Safe ps og s) : x₀.Safe ps og (s.setFld r n i hi lo x) := by
  unfold State.setFld
  try dsimp only
  repeat' first
    | with_reducible assumption | with_reducible apply State.setReg_safe

theorem State.count_safe (s : State) (r : Rn) (n : Nat) (k : Nat) (i : Nat) (hl : Within 0x4 ps) (hx : x₀.Safe ps og s) :
    x₀.Safe ps og (s.count r n k i) := by
  unfold State.count
  try dsimp only
  repeat' first
    | with_reducible assumption | with_reducible apply State.setReg_safe

theorem State.countHalf_safe (s : State) (r : Rn) (n : Nat) (hi : Bool) (k : Nat) (hl : Within 0x4 ps) (hx : x₀.Safe ps og s) :
    x₀.Safe ps og (s.countHalf r n hi k) := by
  unfold State.countHalf
  try dsimp only
  repeat' first
    | with_reducible assumption | with_reducible apply State.setReg_safe

theorem State.cacheLines_safe (s : State) (wr : Bool) (k : Nat) (hl : Within 0x4 ps) (hx : x₀.Safe ps og s) :
    x₀.Safe ps og (s.cacheLines wr k) := by
  unfold State.cacheLines
  try dsimp only
  repeat' first
    | with_reducible assumption | with_reducible apply State.countHalf_safe

theorem State.takeFree_safe (s : State) (hl : Within 0x2 ps) (hx : x₀.Safe ps og s) : x₀.Safe ps og (s.takeFree) := by
  unfold State.takeFree
  try dsimp only
  repeat' first
    | with_reducible assumption | with_reducible exact Nat.le_succ _ | with_reducible apply State.Safe.upd_free

theorem State.raise_safe (s : State) (r : Rn) (n : Nat) (k : Nat) (num : Nat) (w0 : Nat) (w1 : Nat) (w2 : Nat) (i : Nat)
    (hl : Within 0x204 ps) (hx : x₀.Safe ps og s) : x₀.Safe ps og (s.raise r n k num w0 w1 w2 i) := by
  unfold State.raise
  try dsimp only
  repeat' first
    | with_reducible assumption | exact hl.of rfl | with_reducible apply State.setReg_safe
    | with_reducible apply State.Safe.upd_events

theorem State.raiseOnce_safe (s : State) (r : Rn) (n : Nat) (k : Nat) (num : Nat) (w0 : Nat) (w1 : Nat) (w2 : Nat)
    (hl : Within 0x204 ps) (hx : x₀.Safe ps og s) : x₀.Safe ps og (s.raiseOnce r n k num w0 w1 w2) := by
  unfold State.raiseOnce
  try dsimp only
  repeat' first
    | with_reducible assumption | with_reducible apply State.raise_safe | split

theorem State.capture_safe (s : State) (ev : Rn) (k : Nat) (info : Rn) (n : Nat) (v : Nat) (hl : Within 0x4 ps)
    (hx : x₀.Safe ps og s) : x₀.Safe ps og (s.capture ev k info n v) := by
  unfold State.capture
  try dsimp only
  repeat' first
    | with_reducible assumption | with_reducible apply State.setReg_safe | split

theorem State.violate_safe (s : State) (cls : Nat) (page : Nat) (off : Nat) (write : Bool) (cause : Nat)
    (hl : Within 0x204 ps) (hx : x₀.Safe ps og s) : x₀.Safe ps og (s.violate cls page off write cause) := by
  unfold State.violate
  try dsimp only
  repeat' first
    | with_reducible assumption | exact hl.of rfl | with_reducible apply State.count_safe
    | with_reducible apply State.setReg_safe | with_reducible apply State.raise_safe | split

theorem State.msixSend_safe (s : State) (v : Nat) (hl : Within 0x200000001000 ps) (hx : x₀.Safe ps og s) :
    x₀.Safe ps og (s.msixSend v) := by
  unfold State.msixSend
  try dsimp only
  repeat' first
    | with_reducible assumption | with_reducible apply State.Safe.upd_msix_mx

theorem State.rasCorrectable_safe (s : State) (k : Nat) (hl : Within 0x400000000000 ps) (hx : x₀.Safe ps og s) :
    x₀.Safe ps og (s.rasCorrectable k) := by
  unfold State.rasCorrectable
  try dsimp only
  repeat' first
    | with_reducible assumption | with_reducible apply State.Safe.upd_errs

theorem State.rasFatal_safe (s : State) (hl : Within 0x400000000000 ps) (hx : x₀.Safe ps og s) : x₀.Safe ps og (s.rasFatal) := by
  unfold State.rasFatal
  try dsimp only
  repeat' first
    | with_reducible assumption | with_reducible apply State.Safe.upd_errs

theorem State.setCore_safe (s : State) (g : Nat) (off : Nat) (w : Nat) (v : Nat) (p : Bool) (hl : Within 0x30 ps)
    (hx : x₀.Safe ps og s) : x₀.Safe ps og (s.setCore g off w v p) := by
  unfold State.setCore
  try dsimp only
  repeat' first
    | with_reducible assumption | with_reducible apply State.write_safe

theorem State.setStall_safe (s : State) (g : Nat) (st : Stall) (hl : Within 0x4000 ps) (ho : Scope og g) (hx : x₀.Safe ps og s) :
    x₀.Safe ps og (s.setStall g st) := by
  refine hx.trans ⟨⟨rfl, id, fun k => FuseSlot.within_refl k _, Nat.le_refl _⟩, ⟨fun _ hb => hb, rfl, rfl⟩, ⟨fun p hp => ?_, fun a ha b hb => ?_⟩⟩
  · exact (State.Only.of (s := s) (t := s.setStall g st) (og := none) hl (fun p hp => by cases p <;> first | rfl | contradiction) (.inl rfl)).part p hp
  · refine Tab.get_set_ne _ _ _ ?_
    rcases ho with ho | ho
    · rw [ho] at ha; cases ha
    · rw [ho] at ha; cases ha; exact hb

theorem State.modStall_safe (s : State) (g : Nat) (f : Stall → Stall) (hl : Within 0x4000 ps) (ho : Scope og g)
    (hx : x₀.Safe ps og s) : x₀.Safe ps og (s.modStall g f) := by
  unfold State.modStall
  try dsimp only
  repeat' first
    | with_reducible assumption | with_reducible apply State.setStall_safe

theorem State.modCore_safe (s : State) (g : Nat) (f : Core → Core) (hl : Within 0x4000 ps) (ho : Scope og g)
    (hx : x₀.Safe ps og s) : x₀.Safe ps og (s.modCore g f) := by
  unfold State.modCore
  try dsimp only
  repeat' first
    | with_reducible assumption | with_reducible apply State.modStall_safe

theorem State.modJob_safe (s : State) (j : Nat) (f : Job → Job) (hl : Within 0x200000 ps) (hx : x₀.Safe ps og s) :
    x₀.Safe ps og (s.modJob j f) := by
  unfold State.modJob
  try dsimp only
  repeat' first
    | with_reducible assumption | with_reducible apply State.Safe.upd_jobs

theorem State.numCount_safe (s : State) (g : Nat) (unit : Nat) (target : Nat) (ovf : Nat) (inv : Nat) (hl : Within 0x204 ps)
    (hx : x₀.Safe ps og s) : x₀.Safe ps og (s.numCount g unit target ovf inv) := by
  unfold State.numCount
  try dsimp only
  repeat' first
    | with_reducible assumption | exact hl.of rfl | with_reducible apply State.raiseOnce_safe
    | with_reducible apply State.count_safe | split

theorem State.fabQerr_safe (s : State) (b : Nat) (block : Nat) (cause : Nat) (hl : Within 0x204 ps) (hx : x₀.Safe ps og s) :
    x₀.Safe ps og (s.fabQerr b block cause) := by
  unfold State.fabQerr
  try dsimp only
  repeat' first
    | with_reducible assumption | exact hl.of rfl | with_reducible apply State.count_safe
    | with_reducible apply State.capture_safe | with_reducible apply State.raiseOnce_safe

end Sys2Proof.Machine
end

