-- ==== Sys2Proof/Laws/SafeAccessOps.lean ====
section
/-! SUPPORT. The operations of Machine/AccessOps.lean keep what Laws/Keeps.lean calls Safe. -/

namespace Sys2Proof.Machine

variable {x₀ : State} {ps : Nat} {og : Option Nat}

theorem State.violateBy_safe (s : State) (m : Master) (off : Nat) (write : Bool) (cause : Nat) (hl : Within 0x206 ps)
    (hx : x₀.Safe ps og s) : x₀.Safe ps og (s.violateBy m off write cause) := by
  unfold State.violateBy
  try dsimp only
  repeat' first
    | with_reducible assumption | exact hl.of rfl | with_reducible apply State.violate_safe
    | with_reducible apply State.takeFree_safe | split

theorem State.guarded_safe (s : State) (m : Master) (r : RegAt) (write : Bool) (f : State → State)
    (h_f : ∀ y0, x₀.Safe ps og y0 → x₀.Safe ps og (f y0)) (hl : Within 0x206 ps) (hx : x₀.Safe ps og s) :
    x₀.Safe ps og (s.guarded m r write f) := by
  unfold State.guarded
  try dsimp only
  repeat' first
    | with_reducible assumption | with_reducible apply h_f | with_reducible apply State.violateBy_safe | split

end Sys2Proof.Machine
end

