-- ==== Sys2Proof/Laws/SafeStallOps.lean ====
section
/-! SUPPORT. The operations of Machine/StallOps.lean keep what Laws/Keeps.lean calls Safe. -/

namespace Sys2Proof.Machine

variable {x₀ : State} {ps : Nat} {og : Option Nat}

theorem State.issue_safe (s : State) (g : Nat) (e : QEntry) (keep : Bool) (hl : Within 0x4004 ps) (ho : Scope og g)
    (hx : x₀.Safe ps og s) : x₀.Safe ps og (s.issue g e keep) := by
  unfold State.issue
  try dsimp only
  repeat' first
    | with_reducible assumption | exact hl.of rfl | with_reducible apply State.count_safe
    | with_reducible apply State.modStall_safe

theorem State.addReason_safe (s : State) (slot : Nat) (gen : Nat) (r : Reason) (hl : Within 0x200000 ps)
    (hx : x₀.Safe ps og s) : x₀.Safe ps og (s.addReason slot gen r) := by
  unfold State.addReason
  try dsimp only
  repeat' first
    | with_reducible assumption | with_reducible apply State.modJob_safe | split

theorem State.iqFault_safe (s : State) (g : Nat) (e : QEntry) (cause : Nat) (detail : Nat) (w1 : Nat) (w2 : Nat) (st : Status)
    (tok : (Option Nat)) (hl : Within 0x204204 ps) (ho : Scope og g) (hx : x₀.Safe ps og s) :
    x₀.Safe ps og (s.iqFault g e cause detail w1 w2 st tok) := by
  unfold State.iqFault
  try dsimp only
  repeat' first
    | with_reducible assumption | exact hl.of rfl | with_reducible apply State.capture_safe
    | with_reducible apply State.raise_safe | with_reducible apply State.modStall_safe
    | with_reducible apply State.addReason_safe

theorem State.tokenOut_safe (s : State) (g : Nat) (slot : Nat) (gen : Nat) (t : TokRec) (chan : Nat) (hl : Within 0x84000 ps)
    (ho : og = none) (hx : x₀.Safe ps og s) : x₀.Safe ps og (s.tokenOut g slot gen t chan) := by
  unfold State.tokenOut
  try dsimp only
  repeat' first
    | with_reducible assumption | exact hl.of rfl | with_reducible exact Scope.none ho
    | with_reducible apply State.modStall_safe | split | with_reducible apply State.Safe.upd_tokens

theorem State.produce_safe (s : State) (g : Nat) (slot : Nat) (gen : Nat) (name : Nat) (chan : Nat) (hl : Within 0x84004 ps)
    (ho : og = none) (hx : x₀.Safe ps og s) : x₀.Safe ps og (s.produce g slot gen name chan) := by
  unfold State.produce
  try dsimp only
  repeat' first
    | with_reducible assumption | exact hl.of rfl | with_reducible apply State.count_safe
    | with_reducible apply State.tokenOut_safe | split

theorem State.complete_safe (s : State) (g : Nat) (e : QEntry) (seq : Nat) (chan : Nat) (hl : Within 0x84004 ps)
    (ho : og = none) (hx : x₀.Safe ps og s) : x₀.Safe ps og (s.complete g e seq chan) := by
  unfold State.complete
  try dsimp only
  repeat' first
    | with_reducible assumption | exact hl.of rfl | with_reducible exact Scope.none ho
    | with_reducible apply State.modStall_safe | with_reducible apply State.produce_safe | split

end Sys2Proof.Machine
end

