-- ==== Sys2Proof/Laws/SafeCoreDecode.lean ====
section
/-! SUPPORT. The operations of Machine/CoreDecode.lean keep what Laws/Keeps.lean calls Safe. -/

namespace Sys2Proof.Machine

variable {x₀ : State} {ps : Nat} {og : Option Nat}

theorem State.settle_safe (s : State) (g : Nat) (activity : Bool) (hl : Within 0x4000 ps) (ho : Scope og g)
    (hx : x₀.Safe ps og s) : x₀.Safe ps og (s.settle g activity) := by
  unfold State.settle
  try dsimp only
  repeat' first
    | with_reducible assumption | with_reducible apply State.modStall_safe

end Sys2Proof.Machine
end

