-- ==== Sys2Proof/Laws/SafeArrays.lean ====
section
/-! SUPPORT. The operations of Machine/Arrays.lean keep what Laws/Keeps.lean calls Safe. -/

namespace Sys2Proof.Machine

variable {x₀ : State} {ps : Nat} {og : Option Nat}

theorem State.groupExit_safe (s : State) (g : Nat) (a : Nat) (d : PassDesc) (u : ArrayUnit) (j : Nat) (scale : List PVal)
    (hl : Within 0x204 ps) (hx : x₀.Safe ps og s) : x₀.Safe ps og (s.groupExit g a d u j scale).1 := by
  unfold State.groupExit
  try dsimp only
  repeat' first
    | with_reducible assumption | with_reducible apply State.numCount_safe | split | intro _ | dsimp only
    | with_reducible apply foldl_fst

theorem State.groupExit_pair {s : State} {g : Nat} {a : Nat} {d : PassDesc} {u : ArrayUnit} {j : Nat} {scale : List PVal}
    {t₁ : State} {r₁ : ArrayUnit} (hl : Within 0x204 ps) (hx : x₀.Safe ps og s) (he : s.groupExit g a d u j scale = (t₁, r₁)) : x₀.Safe ps og t₁ := by
  have hs := State.groupExit_safe s g a d u j scale hl hx
  rw [he] at hs
  exact hs

theorem State.intExit_safe (s : State) (g : Nat) (a : Nat) (d : PassDesc) (u : ArrayUnit) (hl : Within 0x204 ps)
    (hx : x₀.Safe ps og s) : x₀.Safe ps og (s.intExit g a d u).1 := by
  unfold State.intExit
  try dsimp only
  repeat' first
    | with_reducible assumption | with_reducible apply State.numCount_safe | split | intro _ | with_reducible apply foldl_fst

theorem State.intExit_pair {s : State} {g : Nat} {a : Nat} {d : PassDesc} {u : ArrayUnit} {t₁ : State} {r₁ : ArrayUnit}
    (hl : Within 0x204 ps) (hx : x₀.Safe ps og s) (he : s.intExit g a d u = (t₁, r₁)) : x₀.Safe ps og t₁ := by
  have hs := State.intExit_safe s g a d u hl hx
  rw [he] at hs
  exact hs

theorem State.setMRun_safe (s : State) (g : Nat) (r : MRun) (hl : Within 0x4000 ps) (ho : Scope og g) (hx : x₀.Safe ps og s) :
    x₀.Safe ps og (s.setMRun g r) := by
  unfold State.setMRun
  try dsimp only
  repeat' first
    | with_reducible assumption | with_reducible apply State.modStall_safe

theorem State.epilogueRow_safe (s : State) (g : Nat) (a : Nat) (r : MRun) (u : ArrayUnit) (m : Nat) (hl : Within 0x234 ps)
    (hx : x₀.Safe ps og s) : x₀.Safe ps og (s.epilogueRow g a r u m) := by
  unfold State.epilogueRow
  try dsimp only
  repeat' first
    | with_reducible assumption | exact hl.of rfl | with_reducible apply State.setCore_safe
    | with_reducible apply State.raiseOnce_safe | with_reducible apply State.count_safe
    | with_reducible apply State.numCount_safe | with_reducible apply State.setReg_safe | split | intro _ | dsimp only
    | with_reducible apply foldl_safe

theorem execMpass_safe (g : StallId) (s : State) (hl : Within 0x204204 ps) (ho : Scope og g) (hx : x₀.Safe ps og s) :
    x₀.SafeOut ps og (execMpass g s) := by
  unfold execMpass
  try dsimp only
  repeat' first
    | with_reducible assumption | exact hl.of rfl | with_reducible apply State.SafeOut.next
    | with_reducible apply State.issue_safe | with_reducible apply State.capture_safe | with_reducible apply State.raise_safe
    | with_reducible apply State.settle_safe | with_reducible apply State.iqFault_safe | with_reducible apply each_safe
    | with_reducible apply State.setReg_safe | with_reducible apply State.setMRun_safe | split | intro _

theorem execWeightSetRead_safe (g : StallId) (s : State) (hl : Within 0x4000 ps) (ho : Scope og g) (hx : x₀.Safe ps og s) :
    x₀.SafeOut ps og (execWeightSetRead g s) := by
  unfold execWeightSetRead
  try dsimp only
  repeat' first
    | with_reducible assumption | with_reducible apply State.SafeOut.next | with_reducible apply State.setMRun_safe | split

theorem execStagedSetMove_safe (g : StallId) (s : State) (hl : Within 0x4000 ps) (ho : Scope og g) (hx : x₀.Safe ps og s) :
    x₀.SafeOut ps og (execStagedSetMove g s) := by
  unfold execStagedSetMove
  try dsimp only
  repeat' first
    | with_reducible assumption | with_reducible apply State.SafeOut.next | with_reducible apply State.setMRun_safe | split

theorem State.arrayRow_safe (s : State) (g : Nat) (a : Nat) (d : PassDesc) (u : ArrayUnit) (k : Nat) (hl : Within 0x204 ps)
    (hx : x₀.Safe ps og s) : x₀.Safe ps og (s.arrayRow g a d u k).1 := by
  unfold State.arrayRow
  try dsimp only
  repeat' first
    | with_reducible assumption | with_reducible apply State.groupExit_safe | with_reducible apply State.intExit_safe | split

theorem State.arrayRow_pair {s : State} {g : Nat} {a : Nat} {d : PassDesc} {u : ArrayUnit} {k : Nat} {t₁ : State}
    {r₁ : ArrayUnit} (hl : Within 0x204 ps) (hx : x₀.Safe ps og s) (he : s.arrayRow g a d u k = (t₁, r₁)) : x₀.Safe ps og t₁ := by
  have hs := State.arrayRow_safe s g a d u k hl hx
  rw [he] at hs
  exact hs

theorem execFrontSwap_safe (g : StallId) (a : UnitId) (row : Fin 64) (s : State) (hl : Within 0x4204 ps) (ho : Scope og g)
    (hx : x₀.Safe ps og s) : x₀.SafeOut ps og (execFrontSwap g a row s) := by
  unfold execFrontSwap
  try dsimp only
  repeat' first
    | with_reducible assumption | exact hl.of rfl | with_reducible apply State.SafeOut.next
    | with_reducible apply State.count_safe | with_reducible apply State.arrayRow_safe
    | with_reducible apply State.setMRun_safe | split

theorem State.runAhead_safe (s : State) (g : Nat) (a : Nat) (d : PassDesc) (u : ArrayUnit) (hl : Within 0x204 ps)
    (hx : x₀.Safe ps og s) : x₀.Safe ps og (s.runAhead g a d u).1 := by
  unfold State.runAhead
  try dsimp only
  repeat' first
    | with_reducible assumption | with_reducible apply State.arrayRow_safe | split | intro _ | dsimp only
    | with_reducible apply foldl_fst

theorem State.runAhead_pair {s : State} {g : Nat} {a : Nat} {d : PassDesc} {u : ArrayUnit} {t₁ : State} {r₁ : ArrayUnit}
    (hl : Within 0x204 ps) (hx : x₀.Safe ps og s) (he : s.runAhead g a d u = (t₁, r₁)) : x₀.Safe ps og t₁ := by
  have hs := State.runAhead_safe s g a d u hl hx
  rw [he] at hs
  exact hs

theorem State.unitsAhead_safe (s : State) (g : Nat) (d : PassDesc) (us : List ArrayUnit) (hl : Within 0x204 ps)
    (hx : x₀.Safe ps og s) : x₀.Safe ps og (s.unitsAhead g d us).1 := by
  unfold State.unitsAhead
  try dsimp only
  repeat' first
    | with_reducible assumption | with_reducible apply State.runAhead_safe | intro _ | with_reducible apply foldl_fst

theorem State.unitsAhead_pair {s : State} {g : Nat} {d : PassDesc} {us : List ArrayUnit} {t₁ : State} {r₁ : List ArrayUnit}
    (hl : Within 0x204 ps) (hx : x₀.Safe ps og s) (he : s.unitsAhead g d us = (t₁, r₁)) : x₀.Safe ps og t₁ := by
  have hs := State.unitsAhead_safe s g d us hl hx
  rw [he] at hs
  exact hs

theorem execEpilogueRow_safe (g : StallId) (a : UnitId) (row : Fin 64) (s : State) (hl : Within 0x4234 ps) (ho : Scope og g)
    (hx : x₀.Safe ps og s) : x₀.SafeOut ps og (execEpilogueRow g a row s) := by
  unfold execEpilogueRow
  try dsimp only
  repeat' first
    | with_reducible assumption | exact hl.of rfl | with_reducible apply State.SafeOut.next
    | with_reducible apply State.unitsAhead_safe | with_reducible apply State.epilogueRow_safe
    | with_reducible apply State.setMRun_safe | with_reducible apply State.modStall_safe | split

theorem State.releaseHeld_safe (s : State) (g : Nat) (hl : Within 0x4030 ps) (ho : og = none) (hx : x₀.Safe ps og s) :
    x₀.Safe ps og (s.releaseHeld g) := by
  unfold State.releaseHeld
  try dsimp only
  repeat' first
    | with_reducible assumption | exact hl.of rfl | with_reducible exact Scope.none ho | with_reducible apply each_safe
    | with_reducible apply State.writeByte_safe | with_reducible apply State.modStall_safe | split | intro _
    | with_reducible apply foldl_safe

theorem State.useSteps_safe (s : State) (g : Nat) (e : QEntry) (n : Nat) (hl : Within 0x200000 ps) (hx : x₀.Safe ps og s) :
    x₀.Safe ps og (s.useSteps g e n) := by
  unfold State.useSteps
  try dsimp only
  repeat' first
    | with_reducible assumption | with_reducible apply State.modJob_safe | split

theorem execMpassComplete_safe (g : StallId) (s : State) (hl : Within 0x284034 ps) (ho : og = none) (hx : x₀.Safe ps og s) :
    x₀.SafeOut ps og (execMpassComplete g s) := by
  unfold execMpassComplete
  try dsimp only
  repeat' first
    | with_reducible assumption | exact hl.of rfl | with_reducible exact Scope.none ho
    | with_reducible apply State.SafeOut.next | with_reducible apply State.modStall_safe
    | with_reducible apply State.useSteps_safe | with_reducible apply State.complete_safe
    | with_reducible apply State.settle_safe | with_reducible apply State.releaseHeld_safe | split

end Sys2Proof.Machine
end

