-- ==== Sys2Proof/Laws/SafeFabOps.lean ====
section
/-! SUPPORT. The operations of Machine/FabOps.lean keep what Laws/Keeps.lean calls Safe. -/

namespace Sys2Proof.Machine

variable {x₀ : State} {ps : Nat} {og : Option Nat}

theorem State.modFab_safe (s : State) (b : Nat) (f : Fab → Fab) (hl : Within 0x4000000 ps) (hx : x₀.Safe ps og s) :
    x₀.Safe ps og (s.modFab b f) := by
  unfold State.modFab
  try dsimp only
  repeat' first
    | with_reducible assumption | with_reducible apply State.Safe.upd_fabs

theorem State.modCfg_safe (s : State) (f : Cfg → Cfg) (hl : Within 0x8000000 ps) (hx : x₀.Safe ps og s) :
    x₀.Safe ps og (s.modCfg f) := by
  unfold State.modCfg
  try dsimp only
  repeat' first
    | with_reducible assumption | with_reducible apply State.Safe.upd_cfg

theorem State.modPad_safe (s : State) (p : Nat) (f : Pad → Pad) (hl : Within 0x8000000 ps) (hx : x₀.Safe ps og s) :
    x₀.Safe ps og (s.modPad p f) := by
  unfold State.modPad
  try dsimp only
  repeat' first
    | with_reducible assumption | with_reducible apply State.modCfg_safe

theorem State.busyB_safe (s : State) (b : Nat) (j : Nat) (hl : Within 0x4000000 ps) (hx : x₀.Safe ps og s) :
    x₀.Safe ps og (s.busyB b j) := by
  unfold State.busyB
  try dsimp only
  repeat' first
    | with_reducible assumption | with_reducible apply State.modFab_safe

theorem State.serveB_safe (s : State) (b : Nat) (j : Nat) (hl : Within 0x4000000 ps) (hx : x₀.Safe ps og s) :
    x₀.Safe ps og (s.serveB b j) := by
  unfold State.serveB
  try dsimp only
  repeat' first
    | with_reducible assumption | with_reducible apply State.modFab_safe

end Sys2Proof.Machine
end

