-- ==== Sys2Proof/Laws/SafeCells.lean ====
section
/-! SUPPORT. The operations of Machine/Cells.lean keep what Laws/Keeps.lean calls Safe. -/

namespace Sys2Proof.Machine

variable {x₀ : State} {ps : Nat} {og : Option Nat}

theorem State.clockCells_safe (s : State) (p : Nat) (on : Nat → Bool) (hl : Within 0x4000000 ps) (hx : x₀.Safe ps og s) :
    x₀.Safe ps og (s.clockCells p on) := by
  unfold State.clockCells
  try dsimp only
  repeat' first
    | with_reducible assumption | with_reducible apply State.modFab_safe

theorem State.asyncResets_safe (s : State) (p : Nat) (hl : Within 0x4000000 ps) (hx : x₀.Safe ps og s) :
    x₀.Safe ps og (s.asyncResets p) := by
  unfold State.asyncResets
  try dsimp only
  repeat' first
    | with_reducible assumption | with_reducible apply State.modFab_safe

theorem State.wireClocks_safe (s : State) (p : Nat) (hl : Within 0x4000000 ps) (hx : x₀.Safe ps og s) :
    x₀.Safe ps og (s.wireClocks p) := by
  unfold State.wireClocks
  try dsimp only
  repeat' first
    | with_reducible assumption | with_reducible apply State.clockCells_safe | with_reducible apply State.modFab_safe

theorem State.clockPins_safe (s : State) (p : Nat) (i : Nat) (hl : Within 0x4000000 ps) (hx : x₀.Safe ps og s) :
    x₀.Safe ps og (s.clockPins p i) := by
  unfold State.clockPins
  try dsimp only
  repeat' first
    | with_reducible assumption | with_reducible apply each_safe | with_reducible apply State.modFab_safe | split | intro _

theorem State.netEdge_safe (s : State) (b : Nat) (i : Nat) (hl : Within 0x4000000 ps) (hx : x₀.Safe ps og s) :
    x₀.Safe ps og (s.netEdge b i) := by
  unfold State.netEdge
  try dsimp only
  repeat' first
    | with_reducible assumption | with_reducible apply each_safe | with_reducible apply State.asyncResets_safe
    | with_reducible apply State.clockPins_safe | with_reducible apply State.clockCells_safe | split | intro _

theorem State.portBIdle_safe (s : State) (b : Nat) (hl : Within 0x4000000 ps) (hx : x₀.Safe ps og s) :
    x₀.Safe ps og (s.portBIdle b) := by
  unfold State.portBIdle
  try dsimp only
  repeat' first
    | with_reducible assumption | with_reducible apply State.modFab_safe

theorem State.fabPeriod_safe (s : State) (b : Nat) (hl : Within 0x4000000 ps) (hx : x₀.Safe ps og s) :
    x₀.Safe ps og (s.fabPeriod b) := by
  unfold State.fabPeriod
  try dsimp only
  repeat' first
    | with_reducible assumption | with_reducible apply State.portBIdle_safe | with_reducible apply each_safe
    | with_reducible apply State.netEdge_safe | with_reducible apply State.asyncResets_safe
    | with_reducible apply State.wireClocks_safe | with_reducible apply State.modFab_safe | split | intro _
    | with_reducible apply foldl_safe

end Sys2Proof.Machine
end

