-- ==== Sys2Proof/Laws/SafeNetOps.lean ====
section
/-! SUPPORT. The operations of Machine/NetOps.lean keep what Laws/Keeps.lean calls Safe. -/

namespace Sys2Proof.Machine

variable {x₀ : State} {ps : Nat} {og : Option Nat}

theorem State.netDiscard_safe (s : State) (b : Nat) (rs : Nat) (reason : Nat) (f : Flit) (hl : Within 0x204 ps)
    (hx : x₀.Safe ps og s) : x₀.Safe ps og (s.netDiscard b rs reason f) := by
  unfold State.netDiscard
  try dsimp only
  repeat' first
    | with_reducible assumption | exact hl.of rfl | with_reducible apply State.raiseOnce_safe
    | with_reducible apply State.count_safe | split

theorem State.modNet_safe (s : State) (f : Net → Net) (hl : Within 0x1000000 ps) (hx : x₀.Safe ps og s) :
    x₀.Safe ps og (s.modNet f) := by
  unfold State.modNet
  try dsimp only
  repeat' first
    | with_reducible assumption | with_reducible apply State.Safe.upd_net

theorem State.pushVc_safe (s : State) (r : Nat) (inPort : Nat) (cls : Nat) (h : Hop) (hl : Within 0x1000000 ps)
    (hx : x₀.Safe ps og s) : x₀.Safe ps og (s.pushVc r inPort cls h) := by
  unfold State.pushVc
  try dsimp only
  repeat' first
    | with_reducible assumption | with_reducible apply State.modNet_safe

theorem State.routerNack_safe (s : State) (r : Nat) (f : Flit) (reason : Nat) (hl : Within 0x1000204 ps)
    (hx : x₀.Safe ps og s) : x₀.Safe ps og (s.routerNack r f reason) := by
  unfold State.routerNack
  try dsimp only
  repeat' first
    | with_reducible assumption | exact hl.of rfl | with_reducible apply State.netDiscard_safe
    | with_reducible apply State.pushVc_safe | split

theorem State.enter_safe (s : State) (p : Sent) (hl : Within 0x1000204 ps) (hx : x₀.Safe ps og s) : x₀.Safe ps og (s.enter p) := by
  unfold State.enter
  try dsimp only
  repeat' first
    | with_reducible assumption | exact hl.of rfl | with_reducible apply State.pushVc_safe
    | with_reducible apply State.routerNack_safe | with_reducible apply State.modNet_safe | split | intro _
    | with_reducible apply foldl_safe

theorem State.pumpList_safe (s : State) (left l : List Sent) (hl : Within 0x1000204 ps) (hx : x₀.Safe ps og s) :
    x₀.Safe ps og (s.pumpList left l).1 := by
  induction l generalizing s left with
  | nil => exact hx
  | cons p t ih =>
    simp only [State.pumpList]
    split
    · exact ih _ _ (State.enter_safe s _ (hl.of rfl) hx)
    · exact ih _ _ hx

theorem State.pumpList_pair {s : State} {left l : List Sent} {t : State} {r : List Sent} (hl : Within 0x1000204 ps) (hx : x₀.Safe ps og s)
    (e : s.pumpList left l = (t, r)) : x₀.Safe ps og t := by
  have hs := State.pumpList_safe s left l hl hx
  rw [e] at hs
  exact hs

theorem State.pump_safe (s : State) (src : Nat) (hl : Within 0x1000204 ps) (hx : x₀.Safe ps og s) :
    x₀.Safe ps og (s.pump src) := by
  unfold State.pump
  try dsimp only
  repeat' first
    | with_reducible assumption | exact hl.of rfl | with_reducible apply State.pumpList_safe
    | with_reducible apply State.modNet_safe

theorem State.pumpAll_safe (s : State) (hl : Within 0x1000204 ps) (hx : x₀.Safe ps og s) : x₀.Safe ps og (s.pumpAll) := by
  unfold State.pumpAll
  try dsimp only
  repeat' first
    | with_reducible assumption | with_reducible apply each_safe | with_reducible apply State.pump_safe | intro _

theorem State.send_safe (s : State) (p : Sent) (hl : Within 0x1000204 ps) (hx : x₀.Safe ps og s) : x₀.Safe ps og (s.send p) := by
  unfold State.send
  try dsimp only
  repeat' first
    | with_reducible assumption | exact hl.of rfl | with_reducible apply State.pump_safe
    | with_reducible apply State.modNet_safe

theorem State.respond_safe (s : State) (f : Flit) (a : Flit) (hl : Within 0x1000204 ps) (hx : x₀.Safe ps og s) :
    x₀.Safe ps og (s.respond f a) := by
  unfold State.respond
  try dsimp only
  repeat' first
    | with_reducible assumption | exact hl.of rfl | with_reducible apply State.modNet_safe
    | with_reducible apply State.send_safe | split

theorem State.refuse_safe (s : State) (b : Nat) (rs : Nat) (reason : Nat) (f : Flit) (hl : Within 0x1000204 ps)
    (hx : x₀.Safe ps og s) : x₀.Safe ps og (s.refuse b rs reason f) := by
  unfold State.refuse
  try dsimp only
  repeat' first
    | with_reducible assumption | exact hl.of rfl | with_reducible apply State.netDiscard_safe
    | with_reducible apply State.respond_safe | split

theorem State.takeArrived_safe (s : State) (f : Flit) (hl : Within 0x1000000 ps) (hx : x₀.Safe ps og s) :
    x₀.Safe ps og (s.takeArrived f) := by
  unfold State.takeArrived
  try dsimp only
  repeat' first
    | with_reducible assumption | with_reducible apply State.modNet_safe

theorem State.badOp_safe (s : State) (f : Flit) (hl : Within 0x1000204 ps) (hx : x₀.Safe ps og s) : x₀.Safe ps og (s.badOp f) := by
  unfold State.badOp
  try dsimp only
  repeat' first
    | with_reducible assumption | exact hl.of rfl | with_reducible apply State.netDiscard_safe
    | with_reducible apply State.takeArrived_safe

theorem State.noEndpoint_safe (s : State) (f : Flit) (hl : Within 0x1000204 ps) (hx : x₀.Safe ps og s) :
    x₀.Safe ps og (s.noEndpoint f) := by
  unfold State.noEndpoint
  try dsimp only
  repeat' first
    | with_reducible assumption | exact hl.of rfl | with_reducible apply State.refuse_safe
    | with_reducible apply State.takeArrived_safe

theorem State.turnedAway_safe {t : State} (s : State) (f : Flit) (hl : Within 0x1000204 ps) (hx : x₀.Safe ps og s)
    (he : s.turnedAway f = some t) : x₀.Safe ps og t := by
  unfold State.turnedAway at he
  split at he
  · cases he; exact hx
  · split at he
    · cases he; exact State.badOp_safe s f (hl.of rfl) hx
    · split at he
      · cases he; exact State.noEndpoint_safe s f (hl.of rfl) hx
      · cases he

theorem State.answered_safe (s : State) (f : Flit) (hl : Within 0x1000204 ps) (hx : x₀.Safe ps og s) :
    x₀.Safe ps og (s.answered f).1 := by
  unfold State.answered
  try dsimp only
  repeat' first
    | with_reducible assumption | exact hl.of rfl | with_reducible apply State.modNet_safe
    | with_reducible apply State.pump_safe | with_reducible apply State.takeArrived_safe

theorem State.answered_pair {s : State} {f : Flit} {t₁ : State} {r₁ : Option Sent} (hl : Within 0x1000204 ps)
    (hx : x₀.Safe ps og s) (he : s.answered f = (t₁, r₁)) : x₀.Safe ps og t₁ := by
  have hs := State.answered_safe s f hl hx
  rw [he] at hs
  exact hs

theorem State.holdOrFail_safe (s : State) (src : Nat) (p : Sent) (hx : x₀.Safe ps og s) :
    x₀.Safe ps og (s.holdOrFail src p).1 := by
  unfold State.holdOrFail
  try dsimp only
  repeat' first
    | with_reducible assumption | split

theorem State.holdOrFail_pair {s : State} {src : Nat} {p : Sent} {t₁ : State} {r₁ : Option Sent} (hx : x₀.Safe ps og s)
    (he : s.holdOrFail src p = (t₁, r₁)) : x₀.Safe ps og t₁ := by
  have hs := State.holdOrFail_safe s src p hx
  rw [he] at hs
  exact hs

theorem State.sweepOne_safe (s : State) (src : Nat) (hl : Within 0x1000204 ps) (hx : x₀.Safe ps og s) :
    x₀.Safe ps og (s.sweepOne src) := by
  unfold State.sweepOne
  try dsimp only
  repeat' first
    | with_reducible assumption | exact hl.of rfl | with_reducible apply State.netDiscard_safe
    | with_reducible apply State.holdOrFail_safe | with_reducible apply State.modNet_safe | split | intro _
    | with_reducible apply foldl_fst

theorem State.sweep_safe (s : State) (hl : Within 0x1000204 ps) (hx : x₀.Safe ps og s) : x₀.Safe ps og (s.sweep) := by
  unfold State.sweep
  try dsimp only
  repeat' first
    | with_reducible assumption | with_reducible apply each_safe | with_reducible apply State.sweepOne_safe | split | intro _

theorem State.closeEnd_safe (s : State) (b : Nat) (c : Nat) (cause : Nat) (event : Bool) (hl : Within 0x1000204 ps)
    (hx : x₀.Safe ps og s) : x₀.Safe ps og (s.closeEnd b c cause event) := by
  unfold State.closeEnd
  try dsimp only
  repeat' first
    | with_reducible assumption | exact hl.of rfl | with_reducible apply State.modNet_safe
    | with_reducible apply State.raise_safe | split

theorem State.closeBridge_safe (s : State) (a : Nat) (c : Nat) (hl : Within 0x1000204 ps) (hx : x₀.Safe ps og s) :
    x₀.Safe ps og (s.closeBridge a c) := by
  unfold State.closeBridge
  try dsimp only
  repeat' first
    | with_reducible assumption | with_reducible apply State.sweep_safe | with_reducible apply State.closeEnd_safe

end Sys2Proof.Machine
end

