-- ==== Sys2Proof/Laws/SafeHbm.lean ====
section
/-! SUPPORT. The operations of Machine/Hbm.lean keep what Laws/Keeps.lean calls Safe. -/

namespace Sys2Proof.Machine

variable {x₀ : State} {ps : Nat} {og : Option Nat}

theorem State.modHbm_safe (s : State) (b : Nat) (f : Hbm → Hbm) (hl : Within 0x2000000 ps) (hx : x₀.Safe ps og s) :
    x₀.Safe ps og (s.modHbm b f) := by
  unfold State.modHbm
  try dsimp only
  repeat' first
    | with_reducible assumption | with_reducible apply State.Safe.upd_hbms

theorem State.modPc_safe (s : State) (b : Nat) (pc : Nat) (f : PChan → PChan) (hl : Within 0x2000000 ps)
    (hx : x₀.Safe ps og s) : x₀.Safe ps og (s.modPc b pc f) := by
  unfold State.modPc
  try dsimp only
  repeat' first
    | with_reducible assumption | with_reducible apply State.modHbm_safe

theorem State.drainPc_safe (s : State) (b : Nat) (pc : Nat) (hl : Within 0x2000000 ps) (hx : x₀.Safe ps og s) :
    x₀.Safe ps og (s.drainPc b pc) := by
  unfold State.drainPc
  try dsimp only
  repeat' first
    | with_reducible assumption | with_reducible apply State.modPc_safe

theorem State.hbmAskRead_safe {t : State} (s : State) (b pc line d : Nat) (ask : Option Flit) (hpa : Nat)
    (hl : Within 0x2000004 ps) (hx : x₀.Safe ps og s)
    (he : s.hbmAskRead b pc line d ask hpa = some t) : x₀.Safe ps og t := by
  unfold State.hbmAskRead at he
  dsimp only at he
  split at he
  · cases he
  · cases he
    refine State.drainPc_safe _ _ _ (hl.of rfl) (State.modPc_safe _ _ _ _ (hl.of rfl) ?_)
    split
    · exact State.count_safe _ _ _ _ _ (hl.of rfl) hx
    · exact hx

theorem State.storeLine_safe (s : State) (a : Nat) (bs : List Byte) (mask : Nat) (pmask : Nat) (bad : Bool)
    (hl : Within 0x30 ps) (hx : x₀.Safe ps og s) : x₀.Safe ps og (s.storeLine a bs mask pmask bad) := by
  unfold State.storeLine
  try dsimp only
  repeat' first
    | with_reducible assumption | with_reducible apply State.write_safe

theorem State.hbmAskWrite_safe {t : State} (s : State) (b pc line d : Nat) (bs : List Byte) (mask pmask : Nat)
    (hl : Within 0x2000030 ps) (hx : x₀.Safe ps og s)
    (he : s.hbmAskWrite b pc line d bs mask pmask = some t) : x₀.Safe ps og t := by
  unfold State.hbmAskWrite at he
  dsimp only at he
  split at he
  · cases he
  · cases he
    exact State.drainPc_safe _ _ _ (hl.of rfl) (State.modPc_safe _ _ _ _ (hl.of rfl) (State.storeLine_safe _ _ _ _ _ _ (hl.of rfl) hx))

theorem State.hbmStack_safe (s : State) (b : Nat) (cause : Nat) (ch : Nat) (hl : Within 0x204 ps) (hx : x₀.Safe ps og s) :
    x₀.Safe ps og (s.hbmStack b cause ch) := by
  unfold State.hbmStack
  try dsimp only
  repeat' first
    | with_reducible assumption | with_reducible apply State.raise_safe | split

theorem State.hbmUeAt_safe (s : State) (b : Nat) (pc : Nat) (line : Nat) (rmw : Bool) (hl : Within 0x2000204 ps)
    (hx : x₀.Safe ps og s) : x₀.Safe ps og (s.hbmUeAt b pc line rmw) := by
  unfold State.hbmUeAt
  try dsimp only
  repeat' first
    | with_reducible assumption | exact hl.of rfl | with_reducible apply State.count_safe
    | with_reducible apply State.capture_safe | with_reducible apply State.raise_safe | with_reducible apply State.modHbm_safe
    | with_reducible apply State.hbmStack_safe | split

theorem State.hbmCheck_safe (s : State) (b : Nat) (pc : Nat) (line : Nat) (bad : Bool) (symErrs : Nat) (rmw : Bool)
    (hl : Within 0x2000204 ps) (hx : x₀.Safe ps og s) : x₀.Safe ps og (s.hbmCheck b pc line bad symErrs rmw).1 := by
  unfold State.hbmCheck
  try dsimp only
  repeat' first
    | with_reducible assumption | exact hl.of rfl | with_reducible apply State.hbmUeAt_safe
    | with_reducible apply State.count_safe | split

theorem State.hbmCheck_pair {s : State} {b : Nat} {pc : Nat} {line : Nat} {bad : Bool} {symErrs : Nat} {rmw : Bool}
    {t₁ : State} {r₁ : Bool} (hl : Within 0x2000204 ps) (hx : x₀.Safe ps og s)
    (he : s.hbmCheck b pc line bad symErrs rmw = (t₁, r₁)) : x₀.Safe ps og t₁ := by
  have hs := State.hbmCheck_safe s b pc line bad symErrs rmw hl hx
  rw [he] at hs
  exact hs

theorem State.hbmResume_safe (s : State) (b : Nat) (hl : Within 0x2000000 ps) (hx : x₀.Safe ps og s) :
    x₀.Safe ps og (s.hbmResume b) := by
  unfold State.hbmResume
  try dsimp only
  repeat' first
    | with_reducible assumption | with_reducible apply State.modHbm_safe | split

theorem State.hbmLate_safe (s : State) (b : Nat) (due : Nat) (hl : Within 0x4 ps) (hx : x₀.Safe ps og s) :
    x₀.Safe ps og (s.hbmLate b due) := by
  unfold State.hbmLate
  try dsimp only
  repeat' first
    | with_reducible assumption | with_reducible apply State.count_safe | split

theorem State.hbmRmwLost_safe (s : State) (b : Nat) (pc : Nat) (w : HWrite) (hl : Within 0x2000030 ps) (hx : x₀.Safe ps og s) :
    x₀.Safe ps og (s.hbmRmwLost b pc w) := by
  unfold State.hbmRmwLost
  try dsimp only
  repeat' first
    | with_reducible assumption | exact hl.of rfl | with_reducible apply State.storeLine_safe
    | with_reducible apply State.modPc_safe

theorem State.hbmAnswer_safe (s : State) (r : HRead) (bad : Bool) (hl : Within 0x81000204 ps) (hx : x₀.Safe ps og s) :
    x₀.Safe ps og (s.hbmAnswer r bad) := by
  unfold State.hbmAnswer
  try dsimp only
  repeat' first
    | with_reducible assumption | exact hl.of rfl | with_reducible apply State.respond_safe | split
    | with_reducible apply State.Safe.upd_said

theorem State.hbmDo_safe (s : State) (b : Nat) (pc : Nat) (cap : Nat) (symErrs : Nat) (a0 : HCmd) (hl : Within 0x83000234 ps)
    (hx : x₀.Safe ps og s) : x₀.Safe ps og (s.hbmDo b pc cap symErrs a0) := by
  unfold State.hbmDo
  try dsimp only
  repeat' first
    | with_reducible assumption | exact hl.of rfl | with_reducible apply State.modPc_safe
    | with_reducible apply State.count_safe | with_reducible apply State.modHbm_safe | with_reducible apply State.hbmLate_safe
    | with_reducible apply State.hbmCheck_safe | with_reducible apply State.hbmAnswer_safe
    | with_reducible apply State.drainPc_safe | with_reducible apply State.hbmRmwLost_safe | split

theorem execCommandSlot_safe (b : BayId) (pc : Fin 64) (illegal : List Nat) (symErrs : Nat) (odecc : Nat) (s : State)
    (hl : Within 0x83000234 ps) (hx : x₀.Safe ps og s) : x₀.SafeOut ps og (execCommandSlot b pc illegal symErrs odecc s) := by
  unfold execCommandSlot
  try dsimp only
  repeat' first
    | with_reducible assumption | exact hl.of rfl | with_reducible apply State.SafeOut.next
    | with_reducible apply State.count_safe | with_reducible apply State.hbmResume_safe | with_reducible apply State.hbmDo_safe
    | split

theorem execRefreshDue_safe (b : BayId) (pc : Fin 64) (bank : Fin 48) (s : State) (hl : Within 0x2000000 ps)
    (hx : x₀.Safe ps og s) : x₀.SafeOut ps og (execRefreshDue b pc bank s) := by
  unfold execRefreshDue
  try dsimp only
  repeat' first
    | with_reducible assumption | with_reducible apply State.SafeOut.next | with_reducible apply State.modPc_safe | split

theorem execRfmRequest_safe (b : BayId) (pc : Fin 64) (s : State) (hl : Within 0x2000000 ps) (hx : x₀.Safe ps og s) :
    x₀.SafeOut ps og (execRfmRequest b pc s) := by
  unfold execRfmRequest
  try dsimp only
  repeat' first
    | with_reducible assumption | with_reducible apply State.SafeOut.next | with_reducible apply State.modPc_safe | split

theorem State.hbmSlot_safe (s : State) (b : Nat) (ch : Nat) (hl : Within 0x2000000 ps) (hx : x₀.Safe ps og s) :
    x₀.Safe ps og (s.hbmSlot b ch) := by
  unfold State.hbmSlot
  try dsimp only
  repeat' first
    | with_reducible assumption | with_reducible apply State.modHbm_safe | split

theorem execRetrainSlot_safe (b : BayId) (ch : Fin 32) (s : State) (hl : Within 0x2000000 ps) (hx : x₀.Safe ps og s) :
    x₀.SafeOut ps og (execRetrainSlot b ch s) := by
  unfold execRetrainSlot
  try dsimp only
  repeat' first
    | with_reducible assumption | with_reducible apply State.SafeOut.next | with_reducible apply State.modHbm_safe
    | with_reducible apply State.hbmSlot_safe | split

theorem execStackTemperature_safe (b : BayId) (degC : BitVec 8) (s : State) (hl : Within 0x2000000 ps) (hx : x₀.Safe ps og s) :
    x₀.SafeOut ps og (execStackTemperature b degC s) := by
  unfold execStackTemperature
  try dsimp only
  repeat' first
    | with_reducible assumption | with_reducible apply State.SafeOut.next | with_reducible apply State.modHbm_safe
    | with_reducible apply each_safe | with_reducible apply State.hbmSlot_safe | split | intro _

theorem execRetrainComplete_safe (b : BayId) (ch : Fin 32) (ok : Bool) (s : State) (hl : Within 0x2000206 ps)
    (hx : x₀.Safe ps og s) : x₀.SafeOut ps og (execRetrainComplete b ch ok s) := by
  unfold execRetrainComplete
  try dsimp only
  repeat' first
    | with_reducible assumption | exact hl.of rfl | with_reducible apply State.SafeOut.next
    | with_reducible apply State.modHbm_safe | with_reducible apply State.hbmResume_safe
    | with_reducible apply State.takeFree_safe | with_reducible apply State.raiseOnce_safe
    | with_reducible apply State.hbmStack_safe | split

theorem execStackFatal_safe (b : BayId) (catastrophic : Bool) (s : State) (hl : Within 0x204 ps) (hx : x₀.Safe ps og s) :
    x₀.SafeOut ps og (execStackFatal b catastrophic s) := by
  unfold execStackFatal
  try dsimp only
  repeat' first
    | with_reducible assumption | with_reducible apply State.SafeOut.next | with_reducible apply State.hbmStack_safe | split

theorem execFchgDrained_safe (b : BayId) (s : State) (hl : Within 0x2000000 ps) (hx : x₀.Safe ps og s) :
    x₀.SafeOut ps og (execFchgDrained b s) := by
  unfold execFchgDrained
  try dsimp only
  repeat' first
    | with_reducible assumption | with_reducible apply State.SafeOut.next | with_reducible apply State.modHbm_safe | split

theorem execFchgRelock_safe (b : BayId) (s : State) (hl : Within 0x2000000 ps) (hx : x₀.Safe ps og s) :
    x₀.SafeOut ps og (execFchgRelock b s) := by
  unfold execFchgRelock
  try dsimp only
  repeat' first
    | with_reducible assumption | with_reducible apply State.SafeOut.next | with_reducible apply State.modHbm_safe | split

theorem execFchgRetrainDone_safe (b : BayId) (failed : Bool) (s : State) (hl : Within 0x2000204 ps) (hx : x₀.Safe ps og s) :
    x₀.SafeOut ps og (execFchgRetrainDone b failed s) := by
  unfold execFchgRetrainDone
  try dsimp only
  repeat' first
    | with_reducible assumption | exact hl.of rfl | with_reducible apply State.SafeOut.next
    | with_reducible apply State.modHbm_safe | with_reducible apply State.raiseOnce_safe | split

theorem State.hbmFlushPc_safe (s : State) (b : Nat) (pc : Nat) (hl : Within 0x83000236 ps) (hx : x₀.Safe ps og s) :
    x₀.Safe ps og (s.hbmFlushPc b pc) := by
  unfold State.hbmFlushPc
  try dsimp only
  repeat' first
    | with_reducible assumption | exact hl.of rfl | with_reducible apply State.modPc_safe | with_reducible apply each_safe
    | with_reducible apply State.takeFree_safe | with_reducible apply State.hbmDo_safe | intro _

theorem State.hbmFlush_safe (s : State) (b : Nat) (hl : Within 0x83000236 ps) (hx : x₀.Safe ps og s) :
    x₀.Safe ps og (s.hbmFlush b) := by
  unfold State.hbmFlush
  try dsimp only
  repeat' first
    | with_reducible assumption | with_reducible apply each_safe | with_reducible apply State.hbmFlushPc_safe | intro _

end Sys2Proof.Machine
end

