-- ==== Sys2Proof/Laws/SafeTranslate.lean ====
section
/-! SUPPORT. The operations of Machine/Translate.lean keep what Laws/Keeps.lean calls Safe. -/

namespace Sys2Proof.Machine

variable {x₀ : State} {ps : Nat} {og : Option Nat}

theorem State.translate_safe (s : State) (g : Nat) (q : Nat) (va : Nat) (acc : Access) (hl : Within 0x104004 ps)
    (ho : Scope og g) (hx : x₀.Safe ps og s) : x₀.Safe ps og (s.translate g q va acc).1 := by
  unfold State.translate
  try dsimp only
  repeat' first
    | with_reducible assumption | exact hl.of rfl | with_reducible apply State.count_safe
    | with_reducible apply State.modStall_safe | with_reducible apply State.cacheLines_safe | split
    | with_reducible apply State.Safe.upd_bayTlb

theorem State.translate_pair {s : State} {g : Nat} {q : Nat} {va : Nat} {acc : Access} {t₁ : State} {r₁ : Trans}
    (hl : Within 0x104004 ps) (ho : Scope og g) (hx : x₀.Safe ps og s) (he : s.translate g q va acc = (t₁, r₁)) : x₀.Safe ps og t₁ := by
  have hs := State.translate_safe s g q va acc hl ho hx
  rw [he] at hs
  exact hs

theorem State.invalidate_safe (s : State) (q : Nat) (va : Nat) (len : Nat) (hl : Within 0x104000 ps) (ho : og = none)
    (hx : x₀.Safe ps og s) : x₀.Safe ps og (s.invalidate q va len) := by
  unfold State.invalidate
  try dsimp only
  repeat' first
    | with_reducible assumption | exact hl.of rfl | with_reducible exact Scope.none ho | with_reducible apply each_safe
    | with_reducible apply State.modStall_safe | intro _ | with_reducible apply State.Safe.upd_bayTlb

theorem execWalk_safe (g : StallId) (q : QueueId) (dva : BitVec 48) (acc : Access) (s : State) (hl : Within 0x104004 ps)
    (ho : Scope og g) (hx : x₀.Safe ps og s) : x₀.SafeOut ps og (execWalk g q dva acc s) := by
  unfold execWalk
  try dsimp only
  repeat' first
    | with_reducible assumption | with_reducible apply State.SafeOut.next | with_reducible apply State.translate_safe | split

end Sys2Proof.Machine
end

