-- ==== Sys2Proof/Laws/SafeStreams.lean ====
section
/-! SUPPORT. The operations of Machine/Streams.lean keep what Laws/Keeps.lean calls Safe. -/

namespace Sys2Proof.Machine

variable {x₀ : State} {ps : Nat} {og : Option Nat}

theorem State.convertElem_safe (s : State) (g : Nat) (k : Nat) (d : StreamDesc) (deliver : Bool) (e : PVal)
    (hl : Within 0x204 ps) (hx : x₀.Safe ps og s) : x₀.Safe ps og (s.convertElem g k d deliver e).1 := by
  unfold State.convertElem
  try dsimp only
  repeat' first
    | with_reducible assumption | exact hl.of rfl | with_reducible apply State.count_safe
    | with_reducible apply State.numCount_safe | with_reducible apply State.setReg_safe | split

theorem State.convertElem_pair {s : State} {g : Nat} {k : Nat} {d : StreamDesc} {deliver : Bool} {e : PVal} {t₁ : State}
    {r₁ : PVal} (hl : Within 0x204 ps) (hx : x₀.Safe ps og s) (he : s.convertElem g k d deliver e = (t₁, r₁)) : x₀.Safe ps og t₁ := by
  have hs := State.convertElem_safe s g k d deliver e hl hx
  rw [he] at hs
  exact hs

theorem State.convertAll_safe (s : State) (g : Nat) (k : Nat) (d : StreamDesc) (deliver : Bool) (l : List PVal)
    (hl : Within 0x204 ps) (hx : x₀.Safe ps og s) : x₀.Safe ps og (s.convertAll g k d deliver l).1 := by
  unfold State.convertAll
  try dsimp only
  repeat' first
    | with_reducible assumption | with_reducible apply State.convertElem_safe | intro _ | with_reducible apply foldl_fst

theorem State.convertAll_pair {s : State} {g : Nat} {k : Nat} {d : StreamDesc} {deliver : Bool} {l : List PVal} {t₁ : State}
    {r₁ : List PVal} (hl : Within 0x204 ps) (hx : x₀.Safe ps og s) (he : s.convertAll g k d deliver l = (t₁, r₁)) : x₀.Safe ps og t₁ := by
  have hs := State.convertAll_safe s g k d deliver l hl hx
  rw [he] at hs
  exact hs

theorem State.bayLost_safe (s : State) (t : Transfer) (g : Nat) (p : Place) (hl : Within 0x200000 ps) (hx : x₀.Safe ps og s) :
    x₀.Safe ps og (s.bayLost t g p) := by
  unfold State.bayLost
  try dsimp only
  repeat' first
    | with_reducible assumption | with_reducible apply State.addReason_safe | split

theorem State.lineRead_safe (s : State) (g : Nat) (t : Transfer) (va : Nat) (n : Nat) (sym : Nat)
    (hl : Within 0x400006304204 ps) (ho : Scope og g) (hx : x₀.Safe ps og s) : x₀.Safe ps og (s.lineRead g t va n sym).1 := by
  unfold State.lineRead
  try dsimp only
  repeat' first
    | with_reducible assumption | exact hl.of rfl | with_reducible apply State.translate_safe
    | with_reducible apply State.cacheLines_safe | with_reducible apply State.rasCorrectable_safe
    | with_reducible apply State.bayLost_safe | with_reducible apply State.hbmCheck_safe
    | with_reducible apply State.serveB_safe | split

theorem State.lineRead_pair {s : State} {g : Nat} {t : Transfer} {va : Nat} {n : Nat} {sym : Nat} {t₁ : State} {r₁ : Line}
    (hl : Within 0x400006304204 ps) (ho : Scope og g) (hx : x₀.Safe ps og s) (he : s.lineRead g t va n sym = (t₁, r₁)) : x₀.Safe ps og t₁ := by
  have hs := State.lineRead_safe s g t va n sym hl ho hx
  rw [he] at hs
  exact hs

theorem State.hbmWrite_safe (s : State) (pa : Nat) (bs : List (Byte × Bool)) (hl : Within 0x30 ps) (hx : x₀.Safe ps og s) :
    x₀.Safe ps og (s.hbmWrite pa bs) :=
  (State.write_safe s _ _ _ hl hx).upd_memTag (hl.of rfl) (writeTags_wf _ _ _)

theorem State.hbmStore_safe (s : State) (b : Nat) (off : Nat) (pa : Nat) (bs : List (Byte × Bool)) (sym : Nat)
    (hl : Within 0x2000234 ps) (hx : x₀.Safe ps og s) : x₀.Safe ps og (s.hbmStore b off pa bs sym) := by
  unfold State.hbmStore
  try dsimp only
  repeat' first
    | with_reducible assumption | exact hl.of rfl | with_reducible apply State.hbmWrite_safe
    | with_reducible apply State.hbmCheck_safe | with_reducible apply State.write_safe | split

theorem State.writeTagged_safe (s : State) (a : Nat) (bs : List (Byte × Bool)) (hl : Within 0x30 ps) (hx : x₀.Safe ps og s) :
    x₀.Safe ps og (s.writeTagged a bs) := by
  induction bs generalizing s a with
  | nil => exact hx
  | cons b bs ih => exact ih _ _ (State.writeByte_safe s a b.1 b.2 (hl.of rfl) hx)

theorem State.hostWrite_safe (s : State) (pa : Nat) (bs : List (Byte × Bool)) (hl : Within 0xc4 ps) (hx : x₀.Safe ps og s) :
    x₀.Safe ps og (s.hostWrite pa bs) := by
  unfold State.hostWrite
  try dsimp only
  repeat' first
    | with_reducible assumption | exact hl.of rfl | with_reducible apply State.hwrite_safe
    | with_reducible apply State.cacheLines_safe | with_reducible apply writeTags_wf | split
    | with_reducible refine foldl_pair (by with_reducible assumption) ?_ ?_ | with_reducible apply State.Safe.upd_hostTag

theorem State.lineWrite_safe (s : State) (g : Nat) (t : Transfer) (va : Nat) (bs : List (Byte × Bool)) (sym : Nat)
    (hl : Within 0x63042f4 ps) (ho : Scope og g) (hx : x₀.Safe ps og s) : x₀.Safe ps og (s.lineWrite g t va bs sym).1 := by
  unfold State.lineWrite
  try dsimp only
  repeat' first
    | with_reducible assumption | exact hl.of rfl | with_reducible apply State.translate_safe
    | with_reducible apply State.hostWrite_safe | with_reducible apply State.bayLost_safe
    | with_reducible apply State.hbmStore_safe | with_reducible apply State.serveB_safe
    | with_reducible apply State.fabQerr_safe | with_reducible apply State.writeTagged_safe | split

theorem State.lineWrite_pair {s : State} {g : Nat} {t : Transfer} {va : Nat} {bs : List (Byte × Bool)} {sym : Nat}
    {t₁ : State} {r₁ : Option Line} (hl : Within 0x63042f4 ps) (ho : Scope og g) (hx : x₀.Safe ps og s)
    (he : s.lineWrite g t va bs sym = (t₁, r₁)) : x₀.Safe ps og t₁ := by
  have hs := State.lineWrite_safe s g t va bs sym hl ho hx
  rw [he] at hs
  exact hs

theorem State.strFault_safe (s : State) (g : Nat) (k : Nat) (t : Transfer) (kind : Nat) (level : Nat) (key : Nat)
    (coord : List Nat) (dva : Nat) (hl : Within 0xa00204 ps) (hx : x₀.Safe ps og s) :
    x₀.Safe ps og (s.strFault g k t kind level key coord dva).1 := by
  unfold State.strFault
  try dsimp only
  repeat' first
    | with_reducible assumption | exact hl.of rfl | with_reducible apply State.count_safe
    | with_reducible apply State.capture_safe | with_reducible apply State.raiseOnce_safe
    | with_reducible apply State.modJob_safe | split | dsimp only | with_reducible apply State.Safe.upd_faultQ

theorem State.strFault_pair {s : State} {g : Nat} {k : Nat} {t : Transfer} {kind : Nat} {level : Nat} {key : Nat}
    {coord : List Nat} {dva : Nat} {t₁ : State} {r₁ : Transfer} (hl : Within 0xa00204 ps) (hx : x₀.Safe ps og s)
    (he : s.strFault g k t kind level key coord dva = (t₁, r₁)) : x₀.Safe ps og t₁ := by
  have hs := State.strFault_safe s g k t kind level key coord dva hl hx
  rw [he] at hs
  exact hs

theorem Mv.load_safe (m : Mv) (g k va n wfBits : Nat) (ix : List Nat) (hl : Within 0x400006b04204 ps) (ho : Scope og g)
    (hx : x₀.Safe ps og m.s) :
    x₀.Safe ps og (m.load g k va n wfBits ix).1.s := by
  unfold Mv.load
  try dsimp only
  refine foldl_inv (fun b : Mv × List (Byte × Bool) => x₀.Safe ps og b.1.s) _ _ _ ?_ hx
  intro y a h
  try dsimp only
  repeat' first
    | with_reducible assumption | exact hl.of rfl | with_reducible exact Scope.none ho
    | with_reducible apply State.lineRead_safe | with_reducible apply State.strFault_safe
    | split | intro _ | dsimp only

theorem Mv.store_safe (m : Mv) (g k va : Nat) (bs : List (Byte × Bool)) (wfBits : Nat) (ix : List Nat)
    (hl : Within 0x6b042f4 ps) (ho : Scope og g) (hx : x₀.Safe ps og m.s) :
    x₀.Safe ps og (m.store g k va bs wfBits ix).s := by
  unfold Mv.store
  try dsimp only
  refine foldl_inv (fun b : Mv => x₀.Safe ps og b.s) _ _ _ ?_ hx
  intro y a h
  try dsimp only
  repeat' first
    | with_reducible assumption | exact hl.of rfl | with_reducible exact Scope.none ho
    | with_reducible apply State.lineWrite_safe | with_reducible apply State.strFault_safe
    | split | intro _ | dsimp only

theorem Mv.near_safe (m : Mv) (g off : Nat) (bs : List (Byte × Bool)) (hl : Within 0x30 ps) (hx : x₀.Safe ps og m.s) :
    x₀.Safe ps og (m.near g off bs).s := by
  unfold Mv.near
  try dsimp only
  repeat' first
    | with_reducible assumption | exact hl.of rfl
    | with_reducible apply each_safe | with_reducible apply State.writeTagged_safe
    | split | intro _ | dsimp only

theorem Mv.loadRow_safe (m : Mv) (g k : Nat) (r : Nat × Nat × Nat × Nat) (hl : Within 0x400006b04234 ps) (ho : Scope og g)
    (hx : x₀.Safe ps og m.s) :
    x₀.Safe ps og (m.loadRow g k r).s := by
  unfold Mv.loadRow
  try dsimp only
  repeat' first
    | with_reducible assumption | exact hl.of rfl | with_reducible exact Scope.none ho
    | with_reducible apply Mv.near_safe | with_reducible apply State.convertAll_safe | with_reducible apply Mv.load_safe
    | split | intro _ | dsimp only

theorem Mv.storeRow_safe (m : Mv) (g k : Nat) (r : Nat × Nat × Nat × Nat) (hl : Within 0x6b042f4 ps) (ho : Scope og g)
    (hx : x₀.Safe ps og m.s) :
    x₀.Safe ps og (m.storeRow g k r).s := by
  unfold Mv.storeRow
  try dsimp only
  repeat' first
    | with_reducible assumption | exact hl.of rfl | with_reducible exact Scope.none ho
    | with_reducible apply Mv.store_safe | with_reducible apply State.convertAll_safe
    | split | intro _ | dsimp only

theorem Mv.portElem_safe (m : Mv) (g k e el : Nat) (hl : Within 0x400006b042f4 ps) (ho : Scope og g) (hx : x₀.Safe ps og m.s) :
    x₀.Safe ps og (m.portElem g k e el).s := by
  unfold Mv.portElem
  try dsimp only
  repeat' first
    | with_reducible assumption | exact hl.of rfl | with_reducible exact Scope.none ho
    | with_reducible apply Mv.near_safe | with_reducible apply State.convertAll_safe | with_reducible apply Mv.load_safe | with_reducible apply Mv.store_safe | with_reducible apply State.strFault_safe
    | split | intro _ | dsimp only

theorem Mv.sendAll_safe (m : Mv) (g k : Nat) (hl : Within 0x4206 ps) (ho : Scope og g) (hx : x₀.Safe ps og m.s) :
    x₀.Safe ps og (m.sendAll g k).s := by
  unfold Mv.sendAll
  try dsimp only
  repeat' first
    | with_reducible assumption | exact hl.of rfl | with_reducible exact Scope.none ho
    | with_reducible apply State.modStall_safe | with_reducible apply foldl_fst | with_reducible apply State.convertElem_safe | with_reducible apply State.takeFree_safe
    | split | intro _ | dsimp only

theorem Mv.receive_safe (m : Mv) (g k : Nat) (b : PBeat) (hl : Within 0x200234 ps) (hx : x₀.Safe ps og m.s) :
    x₀.Safe ps og (m.receive g k b).s := by
  unfold Mv.receive
  try dsimp only
  repeat' first
    | with_reducible assumption | exact hl.of rfl
    | with_reducible apply State.modJob_safe | with_reducible apply foldl_safe | with_reducible apply State.writeByte_safe | with_reducible apply State.writeTagged_safe | with_reducible apply State.convertElem_safe
    | split | intro _ | dsimp only

theorem State.setEngine_safe (s : State) (g : Nat) (k : Nat) (e : Engine) (hl : Within 0x4000 ps) (ho : Scope og g)
    (hx : x₀.Safe ps og s) : x₀.Safe ps og (s.setEngine g k e) := by
  unfold State.setEngine
  try dsimp only
  repeat' first
    | with_reducible assumption | with_reducible apply State.modStall_safe

theorem Mv.commit_safe (m : Mv) (g k : Nat) (old : State)  (hl : Within 0x4004 ps) (ho : Scope og g)
    (hold : x₀.Safe ps og old) (hx : x₀.Safe ps og m.s) :
    x₀.Safe ps og (m.commit g k old) := by
  unfold Mv.commit
  try dsimp only
  split
  · exact hold
  · exact State.setEngine_safe _ _ _ _ (hl.of rfl) ho (State.count_safe _ _ _ _ _ (hl.of rfl) hx)

theorem State.pullBeats_safe (s : State) (g k fuel : Nat) (hl : Within 0x204234 ps) (ho : Scope og g)
    (hx : x₀.Safe ps og s) : x₀.Safe ps og (s.pullBeats g k fuel) := by
  induction fuel generalizing s with
  | zero => exact hx
  | succ fuel ih =>
    unfold State.pullBeats
    try dsimp only
    repeat' first
      | with_reducible assumption | exact hl.of rfl | with_reducible exact Scope.none ho | with_reducible apply ih | with_reducible apply Mv.commit_safe
      | with_reducible apply Mv.receive_safe | with_reducible apply State.setEngine_safe | with_reducible apply State.count_safe
      | with_reducible apply State.modStall_safe | split | dsimp only

theorem State.pullPort_safe (s : State) (g p fuel : Nat) (hl : Within 0x400006b042f6 ps) (ho : Scope og g)
    (hx : x₀.Safe ps og s) : x₀.Safe ps og (s.pullPort g p fuel) := by
  induction fuel generalizing s with
  | zero => exact hx
  | succ fuel ih =>
    unfold State.pullPort
    try dsimp only
    repeat' first
      | with_reducible assumption | exact hl.of rfl | with_reducible exact Scope.none ho | with_reducible apply ih | with_reducible apply State.pullBeats_safe
      | with_reducible apply Mv.commit_safe | with_reducible apply Mv.sendAll_safe | with_reducible apply Mv.portElem_safe
      | with_reducible apply State.modCore_safe | split | dsimp only

theorem State.moveRow_safe (s : State) (g : Nat) (k : Nat) (errs : (List Nat)) (hl : Within 0x400006b042f4 ps)
    (ho : Scope og g) (hx : x₀.Safe ps og s) : x₀.Safe ps og (s.moveRow g k errs).1 := by
  unfold State.moveRow
  try dsimp only
  repeat' first
    | with_reducible assumption | exact hl.of rfl | with_reducible apply Mv.commit_safe | with_reducible apply Mv.storeRow_safe
    | with_reducible apply Mv.loadRow_safe | split

theorem State.moveRow_pair {s : State} {g : Nat} {k : Nat} {errs : (List Nat)} {t₁ : State} {r₁ : List Nat}
    (hl : Within 0x400006b042f4 ps) (ho : Scope og g) (hx : x₀.Safe ps og s) (he : s.moveRow g k errs = (t₁, r₁)) : x₀.Safe ps og t₁ := by
  have hs := State.moveRow_safe s g k errs hl ho hx
  rw [he] at hs
  exact hs

theorem State.moveRows_safe (s : State) (g k : Nat) (errs : List Nat) (n : Nat) (hl : Within 0x400006b042f4 ps)
    (ho : Scope og g) (hx : x₀.Safe ps og s) :
    x₀.Safe ps og (s.moveRows g k errs n) := by
  induction n generalizing s errs with
  | zero => exact hx
  | succ n ih => exact ih _ _ (State.moveRow_safe s g k errs (hl.of rfl) ho hx)

theorem State.startTransfer_safe (s : State) (g : Nat) (k : Nat) (hl : Within 0x400006b042f6 ps) (ho : Scope og g)
    (hx : x₀.Safe ps og s) : x₀.Safe ps og (s.startTransfer g k) := by
  unfold State.startTransfer
  try dsimp only
  repeat' first
    | with_reducible assumption | exact hl.of rfl | with_reducible apply State.setReg_safe
    | with_reducible apply State.setEngine_safe | with_reducible apply State.pullPort_safe
    | with_reducible apply Mv.commit_safe | with_reducible apply State.pullBeats_safe | with_reducible apply Mv.sendAll_safe
    | split

theorem State.arm_safe (s : State) (g : Nat) (k : Nat) (t : Transfer) (hl : Within 0x400006b042f6 ps) (ho : Scope og g)
    (hx : x₀.Safe ps og s) : x₀.Safe ps og (s.arm g k t).1 := by
  unfold State.arm
  try dsimp only
  repeat' first
    | with_reducible assumption | exact hl.of rfl | with_reducible apply State.startTransfer_safe
    | with_reducible apply State.setEngine_safe | split

theorem State.arm_pair {s : State} {g : Nat} {k : Nat} {t : Transfer} {t₁ : State} {r₁ : Bool} (hl : Within 0x400006b042f6 ps)
    (ho : Scope og g) (hx : x₀.Safe ps og s) (he : s.arm g k t = (t₁, r₁)) : x₀.Safe ps og t₁ := by
  have hs := State.arm_safe s g k t hl ho hx
  rw [he] at hs
  exact hs

theorem State.streamInstr_safe (s : State) (g : Nat) (o : Op) (hl : Within 0x400006b042f6 ps) (ho : Scope og g)
    (hx : x₀.Safe ps og s) : x₀.Safe ps og (s.streamInstr g o) := by
  unfold State.streamInstr
  try dsimp only
  repeat' first
    | with_reducible assumption | exact hl.of rfl | with_reducible apply State.settle_safe
    | with_reducible apply State.iqFault_safe | with_reducible apply State.issue_safe | with_reducible apply State.arm_safe
    | split

theorem execSld_safe (g : StallId) (s : State) (hl : Within 0x400006b042f6 ps) (ho : Scope og g) (hx : x₀.Safe ps og s) :
    x₀.SafeOut ps og (execSld g s) := by
  unfold execSld
  try dsimp only
  repeat' first
    | with_reducible assumption | with_reducible apply State.SafeOut.next | with_reducible apply State.streamInstr_safe

theorem execSst_safe (g : StallId) (s : State) (hl : Within 0x400006b042f6 ps) (ho : Scope og g) (hx : x₀.Safe ps og s) :
    x₀.SafeOut ps og (execSst g s) := by
  unfold execSst
  try dsimp only
  repeat' first
    | with_reducible assumption | with_reducible apply State.SafeOut.next | with_reducible apply State.streamInstr_safe

theorem execWload_safe (g : StallId) (s : State) (hl : Within 0x400006b042f6 ps) (ho : Scope og g) (hx : x₀.Safe ps og s) :
    x₀.SafeOut ps og (execWload g s) := by
  unfold execWload
  try dsimp only
  repeat' first
    | with_reducible assumption | with_reducible apply State.SafeOut.next | with_reducible apply State.streamInstr_safe

theorem execFxch_safe (g : StallId) (s : State) (hl : Within 0x400006b042f6 ps) (ho : Scope og g) (hx : x₀.Safe ps og s) :
    x₀.SafeOut ps og (execFxch g s) := by
  unfold execFxch
  try dsimp only
  repeat' first
    | with_reducible assumption | with_reducible apply State.SafeOut.next | with_reducible apply State.streamInstr_safe

theorem execStrArm_safe (_c : CoreId) (g : StallId) (k : UnitId) (v : Word32) (s : State) (hl : Within 0x400006b042f6 ps)
    (ho : Scope og g) (hx : x₀.Safe ps og s) : x₀.SafeOut ps og (execStrArm _c g k v s) := by
  unfold execStrArm
  try dsimp only
  repeat' first
    | with_reducible assumption | exact hl.of rfl | with_reducible apply State.SafeOut.next
    | with_reducible apply State.raiseOnce_safe | with_reducible apply State.count_safe | with_reducible apply State.arm_safe
    | split

theorem execStandbyStart_safe (g : StallId) (k : UnitId) (s : State) (hl : Within 0x400006b042f6 ps) (ho : Scope og g)
    (hx : x₀.Safe ps og s) : x₀.SafeOut ps og (execStandbyStart g k s) := by
  unfold execStandbyStart
  try dsimp only
  repeat' first
    | with_reducible assumption | with_reducible apply State.SafeOut.next | with_reducible apply State.startTransfer_safe

theorem execStreamComplete_safe (g : StallId) (k : UnitId) (s : State) (errs : (List Nat)) (hl : Within 0x400006b842f4 ps)
    (ho : og = none) (hx : x₀.Safe ps og s) : x₀.SafeOut ps og (execStreamComplete g k s errs) := by
  unfold execStreamComplete
  try dsimp only
  repeat' first
    | with_reducible assumption | exact hl.of rfl | with_reducible exact Scope.none ho
    | with_reducible apply State.SafeOut.next | with_reducible apply State.moveRows_safe
    | with_reducible apply State.setEngine_safe | with_reducible apply State.modCore_safe | with_reducible apply each_safe
    | with_reducible apply State.pullBeats_safe | with_reducible apply State.settle_safe
    | with_reducible apply State.complete_safe | split | intro _

end Sys2Proof.Machine
end

