-- ==== Sys2Proof/Laws/SafeTally.lean ====
section
/-! SUPPORT. The operations of Machine/Tally.lean keep what Laws/Keeps.lean calls Safe. -/

namespace Sys2Proof.Machine

variable {x₀ : State} {ps : Nat} {og : Option Nat}

theorem State.setCell_safe (s : State) (b : Nat) (c : Nat) (x : Cell) (hl : Within 0x8000 ps) (hx : x₀.Safe ps og s) :
    x₀.Safe ps og (s.setCell b c x) := by
  unfold State.setCell
  try dsimp only
  repeat' first
    | with_reducible assumption | with_reducible apply State.Safe.upd_cells

theorem State.foreign_safe (s : State) (b : Nat) (r : TakeReq) (reason : Nat) (hl : Within 0x204 ps) (hx : x₀.Safe ps og s) :
    x₀.Safe ps og (s.foreign b r reason) := by
  unfold State.foreign
  try dsimp only
  repeat' first
    | with_reducible assumption | exact hl.of rfl | with_reducible apply State.capture_safe
    | with_reducible apply State.raiseOnce_safe

theorem State.sendTake_safe (s : State) (g : Nat) (queue : Bool) (seq : Nat) (slot : Nat) (gen : Nat) (tally : Nat)
    (hl : Within 0x50204 ps) (hx : x₀.Safe ps og s) : x₀.Safe ps og (s.sendTake g queue seq slot gen tally) := by
  unfold State.sendTake
  try dsimp only
  repeat' first
    | with_reducible assumption | exact hl.of rfl | with_reducible apply State.foreign_safe | split
    | with_reducible apply State.Safe.upd_answers | with_reducible apply State.Safe.upd_takeQ

theorem execTakeNext_safe (b : BayId) (s : State) (hl : Within 0x58204 ps) (hx : x₀.Safe ps og s) :
    x₀.SafeOut ps og (execTakeNext b s) := by
  unfold execTakeNext
  try dsimp only
  repeat' first
    | with_reducible assumption | exact hl.of rfl | with_reducible apply State.SafeOut.next
    | with_reducible apply State.count_safe | with_reducible apply State.setCell_safe | with_reducible apply State.foreign_safe
    | split | with_reducible apply State.Safe.upd_takeQ | with_reducible apply State.Safe.upd_answers

theorem execTans_safe (g : StallId) (s : State) (hl : Within 0xc4034 ps) (ho : og = none) (hx : x₀.Safe ps og s) :
    x₀.SafeOut ps og (execTans g s) := by
  unfold execTans
  try dsimp only
  repeat' first
    | with_reducible assumption | exact hl.of rfl | with_reducible exact Scope.none ho
    | with_reducible apply State.SafeOut.next | with_reducible apply State.modStall_safe
    | with_reducible apply State.settle_safe | with_reducible apply State.setCore_safe
    | with_reducible apply State.complete_safe | with_reducible apply State.modCore_safe | split
    | with_reducible apply State.Safe.upd_answers

theorem State.applyReport_safe (s : State) (b : Nat) (r : Report) (hl : Within 0x8204 ps) (hx : x₀.Safe ps og s) :
    x₀.Safe ps og (s.applyReport b r) := by
  unfold State.applyReport
  try dsimp only
  repeat' first
    | with_reducible assumption | exact hl.of rfl | with_reducible apply State.setCell_safe
    | with_reducible apply State.raiseOnce_safe | with_reducible apply State.count_safe | split

theorem execReport_safe (b : BayId) (s : State) (hl : Within 0x2c204 ps) (ho : og = none) (hx : x₀.Safe ps og s) :
    x₀.SafeOut ps og (execReport b s) := by
  unfold execReport
  try dsimp only
  repeat' first
    | with_reducible assumption | exact hl.of rfl | with_reducible exact Scope.none ho
    | with_reducible apply State.SafeOut.next | with_reducible apply State.applyReport_safe
    | with_reducible apply State.modStall_safe | split | with_reducible apply State.Safe.upd_reportQ

theorem State.armCell_safe (s : State) (b : Nat) (c : Nat) (job : Nat) (gen : Nat) (base : Nat) (limit : Nat) (cover : Bool)
    (hl : Within 0x8000 ps) (hx : x₀.Safe ps og s) : x₀.Safe ps og (s.armCell b c job gen base limit cover) := by
  unfold State.armCell
  try dsimp only
  repeat' first
    | with_reducible assumption | with_reducible apply State.setCell_safe

theorem execTallyArm_safe (_c : CoreId) (b : BayId) (v : Word32) (s : State) (hl : Within 0x8204 ps) (hx : x₀.Safe ps og s) :
    x₀.SafeOut ps og (execTallyArm _c b v s) := by
  unfold execTallyArm
  try dsimp only
  repeat' first
    | with_reducible assumption | exact hl.of rfl | with_reducible apply State.SafeOut.next
    | with_reducible apply State.raiseOnce_safe | with_reducible apply State.armCell_safe | split

theorem execTallyRelease_safe (_c : CoreId) (b : BayId) (v : Word32) (s : State) (hl : Within 0x8000 ps)
    (hx : x₀.Safe ps og s) : x₀.SafeOut ps og (execTallyRelease _c b v s) := by
  unfold execTallyRelease
  try dsimp only
  repeat' first
    | with_reducible assumption | with_reducible apply State.SafeOut.next | with_reducible apply State.setCell_safe | split

theorem State.releaseCell_safe (s : State) (b : Nat) (c : Nat) (check : Bool) (hl : Within 0x208204 ps) (hx : x₀.Safe ps og s) :
    x₀.Safe ps og (s.releaseCell b c check) := by
  unfold State.releaseCell
  try dsimp only
  repeat' first
    | with_reducible assumption | exact hl.of rfl | with_reducible apply State.setCell_safe
    | with_reducible apply State.addReason_safe | with_reducible apply State.raiseOnce_safe | split

theorem execCellRelease_safe (b : BayId) (cell : Fin 256) (s : State) (hl : Within 0x208204 ps) (hx : x₀.Safe ps og s) :
    x₀.SafeOut ps og (execCellRelease b cell s) := by
  unfold execCellRelease
  try dsimp only
  repeat' first
    | with_reducible assumption | with_reducible apply State.SafeOut.next | with_reducible apply State.releaseCell_safe | split

end Sys2Proof.Machine
end

