-- ==== Sys2Proof/Laws/SafeControlCore.lean ====
section
/-! SUPPORT. The operations of Machine/ControlCore.lean keep what Laws/Keeps.lean calls Safe. -/

namespace Sys2Proof.Machine

variable {x₀ : State} {ps : Nat} {og : Option Nat}

theorem State.landOne_safe (s : State) (g : Nat) (w : CWrite) (hl : Within 0x400006b542f6 ps) (ho : Scope og g)
    (hx : x₀.Safe ps og s) : x₀.Safe ps og (s.landOne g w) := by
  unfold State.landOne
  try dsimp only
  repeat' first
    | with_reducible assumption | exact hl.of rfl | with_reducible apply State.modCore_safe
    | with_reducible apply State.setCore_safe | with_reducible apply State.sendTake_safe
    | with_reducible apply State.pullPort_safe | split

theorem State.landDue_safe (s : State) (g : Nat) (hl : Within 0x400006b542f6 ps) (ho : Scope og g) (hx : x₀.Safe ps og s) :
    x₀.Safe ps og (s.landDue g) := by
  unfold State.landDue
  try dsimp only
  repeat' first
    | with_reducible assumption | exact hl.of rfl | with_reducible apply State.modCore_safe | with_reducible apply each_safe
    | with_reducible apply State.landOne_safe | intro _

theorem State.drainOwn_safe (s : State) (g fuel : Nat) (hl : Within 0x400006b542f6 ps) (ho : Scope og g)
    (hx : x₀.Safe ps og s) : x₀.Safe ps og (s.drainOwn g fuel) := by
  induction fuel generalizing s with
  | zero => exact hx
  | succ fuel ih =>
    simp only [State.drainOwn]
    split
    · exact State.landDue_safe s g (hl.of rfl) ho hx
    · exact ih _ (State.modCore_safe _ _ _ (hl.of rfl) ho (State.count_safe _ _ _ _ _ (hl.of rfl) (State.landDue_safe s g (hl.of rfl) ho hx)))

theorem State.landAll_safe (s : State) (g fuel : Nat) (hl : Within 0x400006b542f6 ps) (ho : Scope og g)
    (hx : x₀.Safe ps og s) : x₀.Safe ps og (s.landAll g fuel) := by
  induction fuel generalizing s with
  | zero => exact hx
  | succ fuel ih =>
    simp only [State.landAll]
    split
    · exact State.landDue_safe s g (hl.of rfl) ho hx
    · exact ih _ (State.modCore_safe _ _ _ (hl.of rfl) ho (State.landDue_safe s g (hl.of rfl) ho hx))

theorem State.coreFault_safe (s : State) (g : Nat) (cause : Nat) (slot : Nat) (detail : Nat) (hl : Within 0x400006b542f6 ps)
    (ho : Scope og g) (hx : x₀.Safe ps og s) : x₀.Safe ps og (s.coreFault g cause slot detail) := by
  unfold State.coreFault
  try dsimp only
  repeat' first
    | with_reducible assumption | exact hl.of rfl | with_reducible apply State.landAll_safe
    | with_reducible apply State.modCore_safe | with_reducible apply State.capture_safe | with_reducible apply State.raise_safe
    | with_reducible apply State.iqFault_safe | with_reducible apply State.modJob_safe | split

theorem State.haltCore_safe (s : State) (g : Nat) (hl : Within 0x400006b542f6 ps) (ho : Scope og g) (hx : x₀.Safe ps og s) :
    x₀.Safe ps og (s.haltCore g) := by
  unfold State.haltCore
  try dsimp only
  repeat' first
    | with_reducible assumption | exact hl.of rfl | with_reducible apply State.modCore_safe
    | with_reducible apply State.drainOwn_safe

theorem State.leaveHandler_safe (s : State) (g : Nat) (hl : Within 0x400006b542f6 ps) (ho : Scope og g) (hx : x₀.Safe ps og s) :
    x₀.Safe ps og (s.leaveHandler g) := by
  unfold State.leaveHandler
  try dsimp only
  repeat' first
    | with_reducible assumption | exact hl.of rfl | with_reducible apply State.modCore_safe
    | with_reducible apply State.drainOwn_safe | split

theorem State.control_safe (s : State) (g : Nat) (b : Bundle) (hl : Within 0x400006bd42f6 ps) (ho : og = none)
    (hx : x₀.Safe ps og s) : x₀.Safe ps og (s.control g b) := by
  unfold State.control
  try dsimp only
  repeat' first
    | with_reducible assumption | exact hl.of rfl | with_reducible exact Scope.none ho
    | with_reducible apply State.modCore_safe | with_reducible apply State.modStall_safe
    | with_reducible apply State.produce_safe | with_reducible apply State.raise_safe
    | with_reducible apply State.leaveHandler_safe | with_reducible apply State.haltCore_safe | split

theorem State.issueBundle_safe (s : State) (g : Nat) (w : Nat) (b : Bundle) (outs : List SlotOut)
    (hl : Within 0x400006bd42f6 ps) (ho : og = none) (hx : x₀.Safe ps og s) : x₀.Safe ps og (s.issueBundle g w b outs) := by
  unfold State.issueBundle
  try dsimp only
  repeat' first
    | with_reducible assumption | exact hl.of rfl | with_reducible exact Scope.none ho | with_reducible apply State.count_safe
    | with_reducible apply State.modCore_safe | with_reducible apply State.control_safe

theorem coreStep_safe (g : Nat) (has : Bundle → Bool) (s : State) (hl : Within 0x400006bd42f6 ps) (ho : og = none)
    (hx : x₀.Safe ps og s) : x₀.SafeOut ps og (coreStep g has s) := by
  unfold coreStep
  try dsimp only
  repeat' first
    | with_reducible assumption | exact hl.of rfl | with_reducible exact Scope.none ho
    | with_reducible apply State.SafeOut.next | with_reducible exact State.SafeOut.fault _ _
    | with_reducible apply State.landDue_safe | with_reducible apply State.settle_safe
    | with_reducible apply State.coreFault_safe | with_reducible apply State.issueBundle_safe | split

theorem execNop_safe (g : StallId) (s : State) (hl : Within 0x400006bd42f6 ps) (ho : og = none) (hx : x₀.Safe ps og s) :
    x₀.SafeOut ps og (execNop g s) := by
  unfold execNop
  try dsimp only
  repeat' first
    | with_reducible assumption | with_reducible apply coreStep_safe

theorem execAdd_safe (g : StallId) (s : State) (hl : Within 0x400006bd42f6 ps) (ho : og = none) (hx : x₀.Safe ps og s) :
    x₀.SafeOut ps og (execAdd g s) := by
  unfold execAdd
  try dsimp only
  repeat' first
    | with_reducible assumption | with_reducible apply coreStep_safe

theorem execSub_safe (g : StallId) (s : State) (hl : Within 0x400006bd42f6 ps) (ho : og = none) (hx : x₀.Safe ps og s) :
    x₀.SafeOut ps og (execSub g s) := by
  unfold execSub
  try dsimp only
  repeat' first
    | with_reducible assumption | with_reducible apply coreStep_safe

theorem execAdds_safe (g : StallId) (s : State) (hl : Within 0x400006bd42f6 ps) (ho : og = none) (hx : x₀.Safe ps og s) :
    x₀.SafeOut ps og (execAdds g s) := by
  unfold execAdds
  try dsimp only
  repeat' first
    | with_reducible assumption | with_reducible apply coreStep_safe

theorem execSubs_safe (g : StallId) (s : State) (hl : Within 0x400006bd42f6 ps) (ho : og = none) (hx : x₀.Safe ps og s) :
    x₀.SafeOut ps og (execSubs g s) := by
  unfold execSubs
  try dsimp only
  repeat' first
    | with_reducible assumption | with_reducible apply coreStep_safe

theorem execAnd_safe (g : StallId) (s : State) (hl : Within 0x400006bd42f6 ps) (ho : og = none) (hx : x₀.Safe ps og s) :
    x₀.SafeOut ps og (execAnd g s) := by
  unfold execAnd
  try dsimp only
  repeat' first
    | with_reducible assumption | with_reducible apply coreStep_safe

theorem execOr_safe (g : StallId) (s : State) (hl : Within 0x400006bd42f6 ps) (ho : og = none) (hx : x₀.Safe ps og s) :
    x₀.SafeOut ps og (execOr g s) := by
  unfold execOr
  try dsimp only
  repeat' first
    | with_reducible assumption | with_reducible apply coreStep_safe

theorem execXor_safe (g : StallId) (s : State) (hl : Within 0x400006bd42f6 ps) (ho : og = none) (hx : x₀.Safe ps og s) :
    x₀.SafeOut ps og (execXor g s) := by
  unfold execXor
  try dsimp only
  repeat' first
    | with_reducible assumption | with_reducible apply coreStep_safe

theorem execShl_safe (g : StallId) (s : State) (hl : Within 0x400006bd42f6 ps) (ho : og = none) (hx : x₀.Safe ps og s) :
    x₀.SafeOut ps og (execShl g s) := by
  unfold execShl
  try dsimp only
  repeat' first
    | with_reducible assumption | with_reducible apply coreStep_safe

theorem execShr_safe (g : StallId) (s : State) (hl : Within 0x400006bd42f6 ps) (ho : og = none) (hx : x₀.Safe ps og s) :
    x₀.SafeOut ps og (execShr g s) := by
  unfold execShr
  try dsimp only
  repeat' first
    | with_reducible assumption | with_reducible apply coreStep_safe

theorem execSra_safe (g : StallId) (s : State) (hl : Within 0x400006bd42f6 ps) (ho : og = none) (hx : x₀.Safe ps og s) :
    x₀.SafeOut ps og (execSra g s) := by
  unfold execSra
  try dsimp only
  repeat' first
    | with_reducible assumption | with_reducible apply coreStep_safe

theorem execSrar_safe (g : StallId) (s : State) (hl : Within 0x400006bd42f6 ps) (ho : og = none) (hx : x₀.Safe ps og s) :
    x₀.SafeOut ps og (execSrar g s) := by
  unfold execSrar
  try dsimp only
  repeat' first
    | with_reducible assumption | with_reducible apply coreStep_safe

theorem execMin_safe (g : StallId) (s : State) (hl : Within 0x400006bd42f6 ps) (ho : og = none) (hx : x₀.Safe ps og s) :
    x₀.SafeOut ps og (execMin g s) := by
  unfold execMin
  try dsimp only
  repeat' first
    | with_reducible assumption | with_reducible apply coreStep_safe

theorem execMax_safe (g : StallId) (s : State) (hl : Within 0x400006bd42f6 ps) (ho : og = none) (hx : x₀.Safe ps og s) :
    x₀.SafeOut ps og (execMax g s) := by
  unfold execMax
  try dsimp only
  repeat' first
    | with_reducible assumption | with_reducible apply coreStep_safe

theorem execSlt_safe (g : StallId) (s : State) (hl : Within 0x400006bd42f6 ps) (ho : og = none) (hx : x₀.Safe ps og s) :
    x₀.SafeOut ps og (execSlt g s) := by
  unfold execSlt
  try dsimp only
  repeat' first
    | with_reducible assumption | with_reducible apply coreStep_safe

theorem execSeq_safe (g : StallId) (s : State) (hl : Within 0x400006bd42f6 ps) (ho : og = none) (hx : x₀.Safe ps og s) :
    x₀.SafeOut ps og (execSeq g s) := by
  unfold execSeq
  try dsimp only
  repeat' first
    | with_reducible assumption | with_reducible apply coreStep_safe

theorem execMovi_safe (g : StallId) (s : State) (hl : Within 0x400006bd42f6 ps) (ho : og = none) (hx : x₀.Safe ps og s) :
    x₀.SafeOut ps og (execMovi g s) := by
  unfold execMovi
  try dsimp only
  repeat' first
    | with_reducible assumption | with_reducible apply coreStep_safe

theorem execMovh_safe (g : StallId) (s : State) (hl : Within 0x400006bd42f6 ps) (ho : og = none) (hx : x₀.Safe ps og s) :
    x₀.SafeOut ps og (execMovh g s) := by
  unfold execMovh
  try dsimp only
  repeat' first
    | with_reducible assumption | with_reducible apply coreStep_safe

theorem execMul_safe (g : StallId) (s : State) (hl : Within 0x400006bd42f6 ps) (ho : og = none) (hx : x₀.Safe ps og s) :
    x₀.SafeOut ps og (execMul g s) := by
  unfold execMul
  try dsimp only
  repeat' first
    | with_reducible assumption | with_reducible apply coreStep_safe

theorem execMuls_safe (g : StallId) (s : State) (hl : Within 0x400006bd42f6 ps) (ho : og = none) (hx : x₀.Safe ps og s) :
    x₀.SafeOut ps og (execMuls g s) := by
  unfold execMuls
  try dsimp only
  repeat' first
    | with_reducible assumption | with_reducible apply coreStep_safe

theorem execMulq_safe (g : StallId) (s : State) (hl : Within 0x400006bd42f6 ps) (ho : og = none) (hx : x₀.Safe ps og s) :
    x₀.SafeOut ps og (execMulq g s) := by
  unfold execMulq
  try dsimp only
  repeat' first
    | with_reducible assumption | with_reducible apply coreStep_safe

theorem execMac_safe (g : StallId) (s : State) (hl : Within 0x400006bd42f6 ps) (ho : og = none) (hx : x₀.Safe ps og s) :
    x₀.SafeOut ps og (execMac g s) := by
  unfold execMac
  try dsimp only
  repeat' first
    | with_reducible assumption | with_reducible apply coreStep_safe

theorem execMsu_safe (g : StallId) (s : State) (hl : Within 0x400006bd42f6 ps) (ho : og = none) (hx : x₀.Safe ps og s) :
    x₀.SafeOut ps og (execMsu g s) := by
  unfold execMsu
  try dsimp only
  repeat' first
    | with_reducible assumption | with_reducible apply coreStep_safe

theorem execMacw_safe (g : StallId) (s : State) (hl : Within 0x400006bd42f6 ps) (ho : og = none) (hx : x₀.Safe ps og s) :
    x₀.SafeOut ps og (execMacw g s) := by
  unfold execMacw
  try dsimp only
  repeat' first
    | with_reducible assumption | with_reducible apply coreStep_safe

theorem execAclr_safe (g : StallId) (s : State) (hl : Within 0x400006bd42f6 ps) (ho : og = none) (hx : x₀.Safe ps og s) :
    x₀.SafeOut ps og (execAclr g s) := by
  unfold execAclr
  try dsimp only
  repeat' first
    | with_reducible assumption | with_reducible apply coreStep_safe

theorem execAshr_safe (g : StallId) (s : State) (hl : Within 0x400006bd42f6 ps) (ho : og = none) (hx : x₀.Safe ps og s) :
    x₀.SafeOut ps og (execAshr g s) := by
  unfold execAshr
  try dsimp only
  repeat' first
    | with_reducible assumption | with_reducible apply coreStep_safe

theorem execNorm_safe (g : StallId) (s : State) (hl : Within 0x400006bd42f6 ps) (ho : og = none) (hx : x₀.Safe ps og s) :
    x₀.SafeOut ps og (execNorm g s) := by
  unfold execNorm
  try dsimp only
  repeat' first
    | with_reducible assumption | with_reducible apply coreStep_safe

theorem execNshl_safe (g : StallId) (s : State) (hl : Within 0x400006bd42f6 ps) (ho : og = none) (hx : x₀.Safe ps og s) :
    x₀.SafeOut ps og (execNshl g s) := by
  unfold execNshl
  try dsimp only
  repeat' first
    | with_reducible assumption | with_reducible apply coreStep_safe

theorem execExpx_safe (g : StallId) (s : State) (hl : Within 0x400006bd42f6 ps) (ho : og = none) (hx : x₀.Safe ps og s) :
    x₀.SafeOut ps og (execExpx g s) := by
  unfold execExpx
  try dsimp only
  repeat' first
    | with_reducible assumption | with_reducible apply coreStep_safe

theorem execExpe8_safe (g : StallId) (s : State) (hl : Within 0x400006bd42f6 ps) (ho : og = none) (hx : x₀.Safe ps og s) :
    x₀.SafeOut ps og (execExpe8 g s) := by
  unfold execExpe8
  try dsimp only
  repeat' first
    | with_reducible assumption | with_reducible apply coreStep_safe

theorem execAadd_safe (g : StallId) (s : State) (hl : Within 0x400006bd42f6 ps) (ho : og = none) (hx : x₀.Safe ps og s) :
    x₀.SafeOut ps og (execAadd g s) := by
  unfold execAadd
  try dsimp only
  repeat' first
    | with_reducible assumption | with_reducible apply coreStep_safe

theorem execAsub_safe (g : StallId) (s : State) (hl : Within 0x400006bd42f6 ps) (ho : og = none) (hx : x₀.Safe ps og s) :
    x₀.SafeOut ps og (execAsub g s) := by
  unfold execAsub
  try dsimp only
  repeat' first
    | with_reducible assumption | with_reducible apply coreStep_safe

theorem execAaddl_safe (g : StallId) (s : State) (hl : Within 0x400006bd42f6 ps) (ho : og = none) (hx : x₀.Safe ps og s) :
    x₀.SafeOut ps og (execAaddl g s) := by
  unfold execAaddl
  try dsimp only
  repeat' first
    | with_reducible assumption | with_reducible apply coreStep_safe

theorem execAmul16_safe (g : StallId) (s : State) (hl : Within 0x400006bd42f6 ps) (ho : og = none) (hx : x₀.Safe ps og s) :
    x₀.SafeOut ps og (execAmul16 g s) := by
  unfold execAmul16
  try dsimp only
  repeat' first
    | with_reducible assumption | with_reducible apply coreStep_safe

theorem execAelm_safe (g : StallId) (s : State) (hl : Within 0x400006bd42f6 ps) (ho : og = none) (hx : x₀.Safe ps og s) :
    x₀.SafeOut ps og (execAelm g s) := by
  unfold execAelm
  try dsimp only
  repeat' first
    | with_reducible assumption | with_reducible apply coreStep_safe

theorem execAcmplt_safe (g : StallId) (s : State) (hl : Within 0x400006bd42f6 ps) (ho : og = none) (hx : x₀.Safe ps og s) :
    x₀.SafeOut ps og (execAcmplt g s) := by
  unfold execAcmplt
  try dsimp only
  repeat' first
    | with_reducible assumption | with_reducible apply coreStep_safe

theorem execMov_safe (g : StallId) (s : State) (hl : Within 0x400006bd42f6 ps) (ho : og = none) (hx : x₀.Safe ps og s) :
    x₀.SafeOut ps og (execMov g s) := by
  unfold execMov
  try dsimp only
  repeat' first
    | with_reducible assumption | with_reducible apply coreStep_safe

theorem execLd_safe (g : StallId) (s : State) (hl : Within 0x400006bd42f6 ps) (ho : og = none) (hx : x₀.Safe ps og s) :
    x₀.SafeOut ps og (execLd g s) := by
  unfold execLd
  try dsimp only
  repeat' first
    | with_reducible assumption | with_reducible apply coreStep_safe

theorem execSt_safe (g : StallId) (s : State) (hl : Within 0x400006bd42f6 ps) (ho : og = none) (hx : x₀.Safe ps og s) :
    x₀.SafeOut ps og (execSt g s) := by
  unfold execSt
  try dsimp only
  repeat' first
    | with_reducible assumption | with_reducible apply coreStep_safe

theorem execTake_safe (g : StallId) (s : State) (hl : Within 0x400006bd42f6 ps) (ho : og = none) (hx : x₀.Safe ps og s) :
    x₀.SafeOut ps og (execTake g s) := by
  unfold execTake
  try dsimp only
  repeat' first
    | with_reducible assumption | with_reducible apply coreStep_safe

theorem execBr_safe (g : StallId) (s : State) (hl : Within 0x400006bd42f6 ps) (ho : og = none) (hx : x₀.Safe ps og s) :
    x₀.SafeOut ps og (execBr g s) := by
  unfold execBr
  try dsimp only
  repeat' first
    | with_reducible assumption | with_reducible apply coreStep_safe

theorem execBz_safe (g : StallId) (s : State) (hl : Within 0x400006bd42f6 ps) (ho : og = none) (hx : x₀.Safe ps og s) :
    x₀.SafeOut ps og (execBz g s) := by
  unfold execBz
  try dsimp only
  repeat' first
    | with_reducible assumption | with_reducible apply coreStep_safe

theorem execBnz_safe (g : StallId) (s : State) (hl : Within 0x400006bd42f6 ps) (ho : og = none) (hx : x₀.Safe ps og s) :
    x₀.SafeOut ps og (execBnz g s) := by
  unfold execBnz
  try dsimp only
  repeat' first
    | with_reducible assumption | with_reducible apply coreStep_safe

theorem execBltz_safe (g : StallId) (s : State) (hl : Within 0x400006bd42f6 ps) (ho : og = none) (hx : x₀.Safe ps og s) :
    x₀.SafeOut ps og (execBltz g s) := by
  unfold execBltz
  try dsimp only
  repeat' first
    | with_reducible assumption | with_reducible apply coreStep_safe

theorem execLoop_safe (g : StallId) (s : State) (hl : Within 0x400006bd42f6 ps) (ho : og = none) (hx : x₀.Safe ps og s) :
    x₀.SafeOut ps og (execLoop g s) := by
  unfold execLoop
  try dsimp only
  repeat' first
    | with_reducible assumption | with_reducible apply coreStep_safe

theorem execWaitt_safe (g : StallId) (s : State) (hl : Within 0x400006bd42f6 ps) (ho : og = none) (hx : x₀.Safe ps og s) :
    x₀.SafeOut ps og (execWaitt g s) := by
  unfold execWaitt
  try dsimp only
  repeat' first
    | with_reducible assumption | with_reducible apply coreStep_safe

theorem execPub_safe (g : StallId) (s : State) (hl : Within 0x400006bd42f6 ps) (ho : og = none) (hx : x₀.Safe ps og s) :
    x₀.SafeOut ps og (execPub g s) := by
  unfold execPub
  try dsimp only
  repeat' first
    | with_reducible assumption | with_reducible apply coreStep_safe

theorem execTrap_safe (g : StallId) (s : State) (hl : Within 0x400006bd42f6 ps) (ho : og = none) (hx : x₀.Safe ps og s) :
    x₀.SafeOut ps og (execTrap g s) := by
  unfold execTrap
  try dsimp only
  repeat' first
    | with_reducible assumption | with_reducible apply coreStep_safe

theorem execReti_safe (g : StallId) (s : State) (hl : Within 0x400006bd42f6 ps) (ho : og = none) (hx : x₀.Safe ps og s) :
    x₀.SafeOut ps og (execReti g s) := by
  unfold execReti
  try dsimp only
  repeat' first
    | with_reducible assumption | with_reducible apply coreStep_safe

theorem execHalt_safe (g : StallId) (s : State) (hl : Within 0x400006bd42f6 ps) (ho : og = none) (hx : x₀.Safe ps og s) :
    x₀.SafeOut ps og (execHalt g s) := by
  unfold execHalt
  try dsimp only
  repeat' first
    | with_reducible assumption | with_reducible apply coreStep_safe

theorem execWriteLand_safe (g : StallId) (s : State) (hl : Within 0x400006b542f6 ps) (ho : Scope og g) (hx : x₀.Safe ps og s) :
    x₀.SafeOut ps og (execWriteLand g s) := by
  unfold execWriteLand
  try dsimp only
  repeat' first
    | with_reducible assumption | exact hl.of rfl | with_reducible apply State.SafeOut.next
    | with_reducible apply State.settle_safe | with_reducible apply State.landDue_safe

theorem execInterruptEntry_safe (g : StallId) (s : State) (hl : Within 0x400006b542f6 ps) (ho : Scope og g)
    (hx : x₀.Safe ps og s) : x₀.SafeOut ps og (execInterruptEntry g s) := by
  unfold execInterruptEntry
  try dsimp only
  repeat' first
    | with_reducible assumption | exact hl.of rfl | with_reducible apply State.SafeOut.next
    | with_reducible apply State.landDue_safe | with_reducible apply State.settle_safe
    | with_reducible apply State.modCore_safe | split

theorem execIssueTimerExpiry_safe (g : StallId) (s : State) (hl : Within 0x4000 ps) (ho : Scope og g) (hx : x₀.Safe ps og s) :
    x₀.SafeOut ps og (execIssueTimerExpiry g s) := by
  unfold execIssueTimerExpiry
  try dsimp only
  repeat' first
    | with_reducible assumption | with_reducible apply State.SafeOut.next | with_reducible apply State.modCore_safe

end Sys2Proof.Machine
end

