-- ==== Sys2Proof/Laws/SafeQueueCmds.lean ====
section
/-! SUPPORT. The operations of Machine/QueueCmds.lean keep what Laws/Keeps.lean calls Safe. -/

namespace Sys2Proof.Machine

variable {x₀ : State} {ps : Nat} {og : Option Nat}

theorem execJbegin_safe (g : StallId) (s : State) (hl : Within 0x84004 ps) (ho : og = none) (hx : x₀.Safe ps og s) :
    x₀.SafeOut ps og (execJbegin g s) := by
  unfold execJbegin
  try dsimp only
  repeat' first
    | with_reducible assumption | exact hl.of rfl | with_reducible exact Scope.none ho
    | with_reducible apply State.SafeOut.next | with_reducible apply State.issue_safe
    | with_reducible apply State.modStall_safe | with_reducible apply State.produce_safe
    | with_reducible apply State.settle_safe | split

theorem execJcommit_safe (g : StallId) (s : State) (hl : Within 0x24004 ps) (ho : Scope og g) (hx : x₀.Safe ps og s) :
    x₀.SafeOut ps og (execJcommit g s) := by
  unfold execJcommit
  try dsimp only
  repeat' first
    | with_reducible assumption | exact hl.of rfl | with_reducible apply State.SafeOut.next
    | with_reducible apply State.issue_safe | with_reducible apply State.modStall_safe | with_reducible apply each_safe
    | with_reducible apply State.settle_safe | split | intro _ | with_reducible apply State.Safe.upd_reportQ

theorem State.fabTokDrop_safe (s : State) (g : Nat) (name : Nat) (reason : Nat) (hl : Within 0x204 ps) (hx : x₀.Safe ps og s) :
    x₀.Safe ps og (s.fabTokDrop g name reason) := by
  unfold State.fabTokDrop
  try dsimp only
  repeat' first
    | with_reducible assumption | exact hl.of rfl | with_reducible apply State.raise_safe
    | with_reducible apply State.count_safe

theorem State.beatDrop_safe (s : State) (g : Nat) (chan : Nat) (reason : Nat) (b : PBeat) (hl : Within 0x204 ps)
    (hx : x₀.Safe ps og s) : x₀.Safe ps og (s.beatDrop g chan reason b) := by
  unfold State.beatDrop
  try dsimp only
  repeat' first
    | with_reducible assumption | exact hl.of rfl | with_reducible apply State.raiseOnce_safe
    | with_reducible apply State.count_safe | with_reducible apply State.fabTokDrop_safe | split

theorem State.dropInbound_safe (s : State) (g : Nat) (reason : Nat) (hl : Within 0x4204 ps) (ho : Scope og g)
    (hx : x₀.Safe ps og s) : x₀.Safe ps og (s.dropInbound g reason) := by
  unfold State.dropInbound
  try dsimp only
  repeat' first
    | with_reducible assumption | exact hl.of rfl | with_reducible apply State.modStall_safe | with_reducible apply each_safe
    | with_reducible apply State.beatDrop_safe | intro _

theorem execJcommitComplete_safe (g : StallId) (s : State) (hl : Within 0x204204 ps) (ho : Scope og g) (hx : x₀.Safe ps og s) :
    x₀.SafeOut ps og (execJcommitComplete g s) := by
  unfold execJcommitComplete
  try dsimp only
  repeat' first
    | with_reducible assumption | exact hl.of rfl | with_reducible apply State.SafeOut.next | with_reducible apply each_safe
    | with_reducible apply State.raise_safe | with_reducible apply State.count_safe | with_reducible apply State.modStall_safe
    | with_reducible apply State.dropInbound_safe | with_reducible apply State.modJob_safe
    | with_reducible apply State.settle_safe | split | intro _

theorem execQrep_safe (g : StallId) (s : State) (hl : Within 0x4004 ps) (ho : Scope og g) (hx : x₀.Safe ps og s) :
    x₀.SafeOut ps og (execQrep g s) := by
  unfold execQrep
  try dsimp only
  repeat' first
    | with_reducible assumption | exact hl.of rfl | with_reducible apply State.SafeOut.next
    | with_reducible apply State.issue_safe | with_reducible apply State.settle_safe | with_reducible apply State.modStall_safe
    | split

theorem execQrepIteration_safe (g : StallId) (s : State) (hl : Within 0x204204 ps) (ho : Scope og g) (hx : x₀.Safe ps og s) :
    x₀.SafeOut ps og (execQrepIteration g s) := by
  unfold execQrepIteration
  try dsimp only
  repeat' first
    | with_reducible assumption | exact hl.of rfl | with_reducible apply State.SafeOut.next
    | with_reducible apply State.modStall_safe | with_reducible apply State.iqFault_safe
    | with_reducible apply State.modJob_safe | with_reducible apply State.settle_safe | split

theorem execTakeInstruction_safe (g : StallId) (s : State) (hl : Within 0x54204 ps) (ho : Scope og g) (hx : x₀.Safe ps og s) :
    x₀.SafeOut ps og (execTakeInstruction g s) := by
  unfold execTakeInstruction
  try dsimp only
  repeat' first
    | with_reducible assumption | exact hl.of rfl | with_reducible apply State.SafeOut.next
    | with_reducible apply State.settle_safe | with_reducible apply State.sendTake_safe | with_reducible apply State.issue_safe
    | split

theorem execTprod_safe (g : StallId) (s : State) (hl : Within 0x4004 ps) (ho : Scope og g) (hx : x₀.Safe ps og s) :
    x₀.SafeOut ps og (execTprod g s) := by
  unfold execTprod
  try dsimp only
  repeat' first
    | with_reducible assumption | exact hl.of rfl | with_reducible apply State.SafeOut.next
    | with_reducible apply State.settle_safe | with_reducible apply State.issue_safe | split

theorem execTprodProduction_safe (g : StallId) (s : State) (hl : Within 0x84004 ps) (ho : og = none) (hx : x₀.Safe ps og s) :
    x₀.SafeOut ps og (execTprodProduction g s) := by
  unfold execTprodProduction
  try dsimp only
  repeat' first
    | with_reducible assumption | exact hl.of rfl | with_reducible exact Scope.none ho
    | with_reducible apply State.SafeOut.next | with_reducible apply State.settle_safe
    | with_reducible apply State.complete_safe | split

theorem execTwait_safe (g : StallId) (s : State) (hl : Within 0x4004 ps) (ho : Scope og g) (hx : x₀.Safe ps og s) :
    x₀.SafeOut ps og (execTwait g s) := by
  unfold execTwait
  try dsimp only
  repeat' first
    | with_reducible assumption | exact hl.of rfl | with_reducible apply State.SafeOut.next
    | with_reducible apply State.settle_safe | with_reducible apply State.issue_safe | split

theorem State.deliver_safe (s : State) (p : TokenPkt) (hl : Within 0x204204 ps) (ho : og = none) (hx : x₀.Safe ps og s) :
    x₀.Safe ps og (s.deliver p) := by
  unfold State.deliver
  try dsimp only
  repeat' first
    | with_reducible assumption | exact hl.of rfl | with_reducible exact Scope.none ho | with_reducible apply State.count_safe
    | with_reducible apply State.settle_safe | with_reducible apply State.iqFault_safe
    | with_reducible apply State.modStall_safe | split

theorem execToken_safe (p : TokenPkt) (s : State) (hl : Within 0x284204 ps) (ho : og = none) (hx : x₀.Safe ps og s) :
    x₀.SafeOut ps og (execToken p s) := by
  unfold execToken
  try dsimp only
  repeat' first
    | with_reducible assumption | exact hl.of rfl | with_reducible apply State.SafeOut.next
    | with_reducible apply State.deliver_safe | split | with_reducible apply State.Safe.upd_tokens

theorem execFabricTokenBeat_safe (g : StallId) (chan : Fin 16) (s : State) (hl : Within 0x284234 ps) (ho : og = none)
    (hx : x₀.Safe ps og s) : x₀.SafeOut ps og (execFabricTokenBeat g chan s) := by
  unfold execFabricTokenBeat
  try dsimp only
  repeat' first
    | with_reducible assumption | exact hl.of rfl | with_reducible exact Scope.none ho
    | with_reducible apply State.SafeOut.next | with_reducible apply State.modStall_safe
    | with_reducible apply State.fabTokDrop_safe | with_reducible apply State.tokenOut_safe
    | with_reducible apply State.count_safe | with_reducible apply each_safe | with_reducible apply State.pullBeats_safe
    | with_reducible apply State.settle_safe | split | intro _

theorem execWatchExpiry_safe (g : StallId) (s : State) (hl : Within 0x4204 ps) (ho : Scope og g) (hx : x₀.Safe ps og s) :
    x₀.SafeOut ps og (execWatchExpiry g s) := by
  unfold execWatchExpiry
  try dsimp only
  repeat' first
    | with_reducible assumption | exact hl.of rfl | with_reducible apply State.SafeOut.next
    | with_reducible apply State.modStall_safe | with_reducible apply State.raise_safe | split

theorem State.watchCtl_safe (s : State) (g : Nat) (v : Nat) (hl : Within 0x4004 ps) (ho : Scope og g) (hx : x₀.Safe ps og s) :
    x₀.Safe ps og (s.watchCtl g v) := by
  unfold State.watchCtl
  try dsimp only
  repeat' first
    | with_reducible assumption | exact hl.of rfl | with_reducible apply State.setReg_safe
    | with_reducible apply State.modStall_safe | split

theorem State.abandonStall_safe (s : State) (g : Nat) (slot : Nat) (gen : Nat) (hl : Within 0x4204 ps) (ho : Scope og g)
    (hx : x₀.Safe ps og s) : x₀.Safe ps og (s.abandonStall g slot gen) := by
  unfold State.abandonStall
  try dsimp only
  repeat' first
    | with_reducible assumption | exact hl.of rfl | with_reducible apply State.modStall_safe
    | with_reducible apply State.dropInbound_safe | split

theorem State.abandonJob_safe (s : State) (slot : Nat) (hl : Within 0x204234 ps) (ho : og = none) (hx : x₀.Safe ps og s) :
    x₀.Safe ps og (s.abandonJob slot) := by
  unfold State.abandonJob
  try dsimp only
  repeat' first
    | with_reducible assumption | exact hl.of rfl | with_reducible exact Scope.none ho | with_reducible apply each_safe
    | with_reducible apply State.abandonStall_safe | with_reducible apply State.releaseHeld_safe
    | with_reducible apply State.modJob_safe | split | intro _

theorem State.deadlock_safe (s : State) (g : Nat) (slot : Nat) (gen : Nat) (hl : Within 0x200204 ps) (hx : x₀.Safe ps og s) :
    x₀.Safe ps og (s.deadlock g slot gen) := by
  unfold State.deadlock
  try dsimp only
  repeat' first
    | with_reducible assumption | exact hl.of rfl | with_reducible apply State.raise_safe
    | with_reducible apply State.addReason_safe

theorem execWatchDeclare_safe (_c : CoreId) (g : StallId) (v : Word32) (s : State) (hl : Within 0x204234 ps) (ho : og = none)
    (hx : x₀.Safe ps og s) : x₀.SafeOut ps og (execWatchDeclare _c g v s) := by
  unfold execWatchDeclare
  try dsimp only
  repeat' first
    | with_reducible assumption | exact hl.of rfl | with_reducible apply State.SafeOut.next
    | with_reducible apply State.deadlock_safe | with_reducible apply State.modJob_safe
    | with_reducible apply State.abandonJob_safe | split

end Sys2Proof.Machine
end

