-- ==== Sys2Proof/Laws/SafeFabric.lean ====
section
/-! SUPPORT. The operations of Machine/Fabric.lean keep what Laws/Keeps.lean calls Safe. -/

namespace Sys2Proof.Machine

variable {x₀ : State} {ps : Nat} {og : Option Nat}

theorem State.pllEvent_safe (s : State) (b : Nat) (w1 : Nat) (cause : Nat) (hl : Within 0x204 ps) (hx : x₀.Safe ps og s) :
    x₀.Safe ps og (s.pllEvent b w1 cause) := by
  unfold State.pllEvent
  try dsimp only
  repeat' first
    | with_reducible assumption | with_reducible apply State.raiseOnce_safe

theorem State.rateCheck_safe (s : State) (b : Nat) (i : Nat) (hl : Within 0x204 ps) (hx : x₀.Safe ps og s) :
    x₀.Safe ps og (s.rateCheck b i) := by
  unfold State.rateCheck
  try dsimp only
  repeat' first
    | with_reducible assumption | with_reducible apply State.pllEvent_safe | with_reducible apply each_safe | split | intro _

theorem State.pllWrite_safe (s : State) (b : Nat) (n : Nat) (div : Bool) (v : Nat) (hl : Within 0x4000204 ps)
    (hx : x₀.Safe ps og s) : x₀.Safe ps og (s.pllWrite b n div v) := by
  unfold State.pllWrite
  try dsimp only
  repeat' first
    | with_reducible assumption | exact hl.of rfl | with_reducible apply State.rwWrite_safe
    | with_reducible apply State.modFab_safe | with_reducible apply each_safe | with_reducible apply State.rateCheck_safe
    | intro _

theorem execFabPllWrite_safe (_c : CoreId) (b : BayId) (n : UnitId) (div : Bool) (v : Word32) (s : State)
    (hl : Within 0x4000204 ps) (hx : x₀.Safe ps og s) : x₀.SafeOut ps og (execFabPllWrite _c b n div v s) := by
  unfold execFabPllWrite
  try dsimp only
  repeat' first
    | with_reducible assumption | with_reducible apply State.SafeOut.next | with_reducible apply State.pllWrite_safe

theorem execPllLock_safe (b : BayId) (n : UnitId) (s : State) (hl : Within 0x4000204 ps) (hx : x₀.Safe ps og s) :
    x₀.SafeOut ps og (execPllLock b n s) := by
  unfold execPllLock
  try dsimp only
  repeat' first
    | with_reducible assumption | exact hl.of rfl | with_reducible apply State.SafeOut.next
    | with_reducible apply State.modFab_safe | with_reducible apply each_safe | with_reducible apply State.rateCheck_safe
    | split | intro _

theorem execPllLockTimeout_safe (b : BayId) (n : UnitId) (s : State) (hl : Within 0x204 ps) (hx : x₀.Safe ps og s) :
    x₀.SafeOut ps og (execPllLockTimeout b n s) := by
  unfold execPllLockTimeout
  try dsimp only
  repeat' first
    | with_reducible assumption | with_reducible apply State.SafeOut.next | with_reducible apply State.pllEvent_safe | split

theorem execPllLossOfLock_safe (b : BayId) (n : UnitId) (s : State) (hl : Within 0x4000204 ps) (hx : x₀.Safe ps og s) :
    x₀.SafeOut ps og (execPllLossOfLock b n s) := by
  unfold execPllLossOfLock
  try dsimp only
  repeat' first
    | with_reducible assumption | exact hl.of rfl | with_reducible apply State.SafeOut.next
    | with_reducible apply State.pllEvent_safe | with_reducible apply State.modFab_safe | split

theorem State.gclkWrite_safe (s : State) (b : Nat) (i : Nat) (v : Nat) (hl : Within 0x204 ps) (hx : x₀.Safe ps og s) :
    x₀.Safe ps og (s.gclkWrite b i v) := by
  unfold State.gclkWrite
  try dsimp only
  repeat' first
    | with_reducible assumption | exact hl.of rfl | with_reducible apply State.rateCheck_safe
    | with_reducible apply State.rwWrite_safe

theorem execGclkSelect_safe (_c : CoreId) (b : BayId) (i : Fin 16) (v : Word32) (s : State) (hl : Within 0x204 ps)
    (hx : x₀.Safe ps og s) : x₀.SafeOut ps og (execGclkSelect _c b i v s) := by
  unfold execGclkSelect
  try dsimp only
  repeat' first
    | with_reducible assumption | with_reducible apply State.SafeOut.next | with_reducible apply State.gclkWrite_safe

theorem execSleepInput_safe (b : BayId) (i : Fin 16) (level : Bool) (s : State) (hl : Within 0x4000000 ps)
    (hx : x₀.Safe ps og s) : x₀.SafeOut ps og (execSleepInput b i level s) := by
  unfold execSleepInput
  try dsimp only
  repeat' first
    | with_reducible assumption | with_reducible apply State.SafeOut.next | with_reducible apply State.modFab_safe | split

theorem execFabricInterruptLine_safe (b : BayId) (k : Fin 16) (level : Bool) (s : State) (hl : Within 0x4000000 ps)
    (hx : x₀.Safe ps og s) : x₀.SafeOut ps og (execFabricInterruptLine b k level s) := by
  unfold execFabricInterruptLine
  try dsimp only
  repeat' first
    | with_reducible assumption | with_reducible apply State.SafeOut.next | with_reducible apply State.modFab_safe | split

theorem State.toFabric_safe (s : State) (data : List Byte) (poison : Bool) (hl : Within 0x80000000 ps) (hx : x₀.Safe ps og s) :
    x₀.Safe ps og (s.toFabric data poison) := by
  unfold State.toFabric
  try dsimp only
  repeat' first
    | with_reducible assumption | with_reducible apply State.Safe.upd_said

theorem State.keepA_safe (s : State) (b : Nat) (j : Nat) (held : List (Byte × Bool)) (hl : Within 0x30 ps)
    (hx : x₀.Safe ps og s) : x₀.Safe ps og (s.keepA b j held) := by
  unfold State.keepA
  try dsimp only
  repeat' first
    | with_reducible assumption | with_reducible apply State.writeTagged_safe

theorem State.portWrite_safe (s : State) (b : Nat) (j : Nat) (portB : Bool) (off : Nat) (data : List Byte) (poison : Bool)
    (window : Bool) (hl : Within 0x4000030 ps) (hx : x₀.Safe ps og s) :
    x₀.Safe ps og (s.portWrite b j portB off data poison window) := by
  unfold State.portWrite
  try dsimp only
  repeat' first
    | with_reducible assumption | exact hl.of rfl | with_reducible apply State.write_safe
    | with_reducible apply State.modFab_safe | with_reducible apply State.keepA_safe | split

theorem execRamPortAccess_safe (b : BayId) (block : Fin 3584) (portB : Bool) (op : RamOp) (s : State)
    (hl : Within 0x84000030 ps) (hx : x₀.Safe ps og s) : x₀.SafeOut ps og (execRamPortAccess b block portB op s) := by
  unfold execRamPortAccess
  try dsimp only
  repeat' first
    | with_reducible assumption | exact hl.of rfl | with_reducible apply State.SafeOut.next
    | with_reducible apply State.busyB_safe | with_reducible apply State.toFabric_safe
    | with_reducible apply State.portWrite_safe | split

theorem State.blockLine_safe (s : State) (b : Nat) (j : Nat) (line : Nat) (wr : Option (List Byte))
    (hl : Within 0x80000234 ps) (hx : x₀.Safe ps og s) : x₀.Safe ps og (s.blockLine b j line wr) := by
  unfold State.blockLine
  try dsimp only
  repeat' first
    | with_reducible assumption | exact hl.of rfl | with_reducible apply State.fabQerr_safe
    | with_reducible apply State.write_safe | split | with_reducible apply State.Safe.upd_said

theorem execBlockNocAccess_safe (b : BayId) (block : Fin 3584) (line : Fin 256) (wr : Option (List Byte)) (portBEnable : Bool)
    (s : State) (hl : Within 0x84000234 ps) (hx : x₀.Safe ps og s) :
    x₀.SafeOut ps og (execBlockNocAccess b block line wr portBEnable s) := by
  unfold execBlockNocAccess
  try dsimp only
  repeat' first
    | with_reducible assumption | exact hl.of rfl | with_reducible apply State.SafeOut.next
    | with_reducible apply State.blockLine_safe | with_reducible apply State.serveB_safe
    | with_reducible apply State.modFab_safe | with_reducible apply State.busyB_safe | split

theorem State.setQueue_safe (s : State) (b : Nat) (j : Nat) (q : FabQueue) (hl : Within 0x4000000 ps) (hx : x₀.Safe ps og s) :
    x₀.Safe ps og (s.setQueue b j q) := by
  unfold State.setQueue
  try dsimp only
  repeat' first
    | with_reducible assumption | with_reducible apply State.modFab_safe

theorem execQueuePush_safe (b : BayId) (block : Fin 3584) (data : List Byte) (poison : Bool) (s : State)
    (hl : Within 0x4000234 ps) (hx : x₀.Safe ps og s) : x₀.SafeOut ps og (execQueuePush b block data poison s) := by
  unfold execQueuePush
  try dsimp only
  repeat' first
    | with_reducible assumption | exact hl.of rfl | with_reducible apply State.SafeOut.next
    | with_reducible apply State.fabQerr_safe | with_reducible apply State.setQueue_safe
    | with_reducible apply State.write_safe | split

theorem execQueuePop_safe (b : BayId) (block : Fin 3584) (s : State) (hl : Within 0x84000204 ps) (hx : x₀.Safe ps og s) :
    x₀.SafeOut ps og (execQueuePop b block s) := by
  unfold execQueuePop
  try dsimp only
  repeat' first
    | with_reducible assumption | exact hl.of rfl | with_reducible apply State.SafeOut.next
    | with_reducible apply State.busyB_safe | with_reducible apply State.toFabric_safe
    | with_reducible apply State.fabQerr_safe | with_reducible apply State.setQueue_safe | split

theorem execRstQ_safe (b : BayId) (block : Fin 3584) (s : State) (hl : Within 0x4000000 ps) (hx : x₀.Safe ps og s) :
    x₀.SafeOut ps og (execRstQ b block s) := by
  unfold execRstQ
  try dsimp only
  repeat' first
    | with_reducible assumption | with_reducible apply State.SafeOut.next | with_reducible apply State.setQueue_safe | split

theorem execOutboundBeat_safe (g : StallId) (ready : BitVec 16) (s : State) (hl : Within 0x80004004 ps) (ho : Scope og g)
    (hx : x₀.Safe ps og s) : x₀.SafeOut ps og (execOutboundBeat g ready s) := by
  unfold execOutboundBeat
  try dsimp only
  repeat' first
    | with_reducible assumption | exact hl.of rfl | with_reducible apply State.SafeOut.next
    | with_reducible apply State.toFabric_safe | with_reducible apply State.count_safe
    | with_reducible apply State.modStall_safe | with_reducible apply State.settle_safe | split

theorem execInboundBeat_safe (g : StallId) (beat : Beat) (s : State) (hl : Within 0x204234 ps) (ho : Scope og g)
    (hx : x₀.Safe ps og s) : x₀.SafeOut ps og (execInboundBeat g beat s) := by
  unfold execInboundBeat
  try dsimp only
  repeat' first
    | with_reducible assumption | exact hl.of rfl | with_reducible apply State.SafeOut.next
    | with_reducible apply State.beatDrop_safe | with_reducible apply State.modStall_safe | with_reducible apply each_safe
    | with_reducible apply State.pullBeats_safe | with_reducible apply State.settle_safe | split | intro _

theorem State.setEnd_safe (s : State) (b : Nat) (e : Nat) (x : FabEnd) (hl : Within 0x4000000 ps) (hx : x₀.Safe ps og s) :
    x₀.Safe ps og (s.setEnd b e x) := by
  unfold State.setEnd
  try dsimp only
  repeat' first
    | with_reducible assumption | with_reducible apply State.modFab_safe

theorem execEndpointFlit_safe (b : BayId) (ep : Fin 64) (f : Flit) (s : State) (hl : Within 0x1000206 ps)
    (hx : x₀.Safe ps og s) : x₀.SafeOut ps og (execEndpointFlit b ep f s) := by
  unfold execEndpointFlit
  try dsimp only
  repeat' first
    | with_reducible assumption | exact hl.of rfl | with_reducible apply State.SafeOut.next
    | with_reducible apply State.netDiscard_safe | with_reducible apply State.send_safe
    | with_reducible apply State.takeFree_safe | split

theorem execEndpointDelivery_safe (b : BayId) (ep : Fin 64) (domainReady : Nat) (s : State) (hl : Within 0x85000204 ps)
    (hx : x₀.Safe ps og s) : x₀.SafeOut ps og (execEndpointDelivery b ep domainReady s) := by
  unfold execEndpointDelivery
  try dsimp only
  repeat' first
    | with_reducible assumption | exact hl.of rfl | with_reducible apply State.SafeOut.next
    | with_reducible apply State.setEnd_safe | with_reducible apply State.respond_safe | split
    | with_reducible apply State.Safe.upd_said

theorem State.refuseHeld_safe (s : State) (b : Nat) (e : Nat) (reason : Nat) (hl : Within 0x5000204 ps) (hx : x₀.Safe ps og s) :
    x₀.Safe ps og (s.refuseHeld b e reason) := by
  unfold State.refuseHeld
  try dsimp only
  repeat' first
    | with_reducible assumption | exact hl.of rfl | with_reducible apply State.setEnd_safe | with_reducible apply each_safe
    | with_reducible apply State.refuse_safe | intro _

theorem execWakeTimeout_safe (b : BayId) (ep : Fin 64) (s : State) (hl : Within 0x5000204 ps) (hx : x₀.Safe ps og s) :
    x₀.SafeOut ps og (execWakeTimeout b ep s) := by
  unfold execWakeTimeout
  try dsimp only
  repeat' first
    | with_reducible assumption | exact hl.of rfl | with_reducible apply State.SafeOut.next
    | with_reducible apply State.refuseHeld_safe | with_reducible apply State.raiseOnce_safe | split

theorem State.isolate_safe (s : State) (p : Nat) (st : Nat) (hl : Within 0xd004204 ps) (ho : og = none) (hx : x₀.Safe ps og s) :
    x₀.Safe ps og (s.isolate p st) := by
  unfold State.isolate
  try dsimp only
  repeat' first
    | with_reducible assumption | exact hl.of rfl | with_reducible exact Scope.none ho | with_reducible apply each_safe
    | with_reducible apply State.dropInbound_safe | with_reducible apply State.refuseHeld_safe
    | with_reducible apply State.modFab_safe | with_reducible apply State.modCfg_safe | with_reducible apply State.modPad_safe
    | split | intro _

end Sys2Proof.Machine
end

