-- ==== Sys2Proof/Laws/SafeConfiguration.lean ====
section
/-! SUPPORT. The operations of Machine/Configuration.lean keep what Laws/Keeps.lean calls Safe. -/

namespace Sys2Proof.Machine

variable {x₀ : State} {ps : Nat} {og : Option Nat}

theorem State.loaderLines_safe (s : State) (l : Load) (n : Nat) (hl : Within 0x4 ps) (hx : x₀.Safe ps og s) :
    x₀.Safe ps og (s.loaderLines l n) := by
  unfold State.loaderLines
  try dsimp only
  repeat' first
    | with_reducible assumption | with_reducible apply State.cacheLines_safe | split

theorem State.sessionFail_safe (s : State) (hl : Within 0x8000004 ps) (hx : x₀.Safe ps og s) : x₀.Safe ps og (s.sessionFail) := by
  unfold State.sessionFail
  try dsimp only
  repeat' first
    | with_reducible assumption | exact hl.of rfl | with_reducible apply State.setFld_safe
    | with_reducible apply State.modCfg_safe | split

theorem State.loadFail_safe (s : State) (l : Load) (code : Nat) (blk : Nat) (pad : Option Nat) (hl : Within 0x8000204 ps)
    (hx : x₀.Safe ps og s) : x₀.Safe ps og (s.loadFail l code blk pad) := by
  unfold State.loadFail
  try dsimp only
  repeat' first
    | with_reducible assumption | exact hl.of rfl | with_reducible apply State.setReg_safe
    | with_reducible apply State.raiseOnce_safe | with_reducible apply State.sessionFail_safe
    | with_reducible apply State.modCfg_safe

theorem State.loadAbort_safe (s : State) (l : Load) (code : Nat) (blk : Nat) (hl : Within 0xd004204 ps) (ho : og = none)
    (hx : x₀.Safe ps og s) : x₀.Safe ps og (s.loadAbort l code blk) := by
  unfold State.loadAbort
  try dsimp only
  repeat' first
    | with_reducible assumption | exact hl.of rfl | with_reducible apply each_safe | with_reducible apply State.isolate_safe
    | with_reducible apply State.modPad_safe | with_reducible apply State.raise_safe | with_reducible apply State.loadFail_safe
    | split | intro _

theorem State.setLoad_safe (s : State) (l : Load) (hl : Within 0x8000000 ps) (hx : x₀.Safe ps og s) :
    x₀.Safe ps og (s.setLoad l) := by
  unfold State.setLoad
  try dsimp only
  repeat' first
    | with_reducible assumption | with_reducible apply State.modCfg_safe

theorem State.startLoad_safe (s : State) (v : Nat) (hl : Within 0x8000000 ps) (hx : x₀.Safe ps og s) :
    x₀.Safe ps og (s.startLoad v) := by
  unfold State.startLoad
  try dsimp only
  repeat' first
    | with_reducible assumption | with_reducible apply State.setLoad_safe | split

theorem execLoad_safe (m : Master) (v : Word32) (s : State) (hl : Within 0x8000206 ps) (hx : x₀.Safe ps og s) :
    x₀.SafeOut ps og (execLoad m v s) := by
  unfold execLoad
  try dsimp only
  repeat' first
    | with_reducible assumption | exact hl.of rfl | with_reducible apply State.SafeOut.next
    | with_reducible apply State.guarded_safe | with_reducible apply State.startLoad_safe | split | intro _

theorem State.clearPad_safe (s : State) (p : Nat) (keep : Nat → Bool) (hl : Within 0x8000030 ps) (hx : x₀.Safe ps og s) :
    x₀.Safe ps og (s.clearPad p keep) := by
  unfold State.clearPad
  try dsimp only
  repeat' first
    | with_reducible assumption | exact hl.of rfl | with_reducible apply State.modCfg_safe | with_reducible apply each_safe
    | with_reducible apply State.discard_safe | intro _

theorem State.isolateClear_safe (s : State) (p : Nat) (hl : Within 0xd004234 ps) (ho : og = none) (hx : x₀.Safe ps og s) :
    x₀.Safe ps og (s.isolateClear p) := by
  unfold State.isolateClear
  try dsimp only
  repeat' first
    | with_reducible assumption | exact hl.of rfl | with_reducible apply State.clearPad_safe
    | with_reducible apply State.isolate_safe

theorem State.opIsolate_safe (s : State) (v : Nat) (hl : Within 0xd004234 ps) (ho : og = none) (hx : x₀.Safe ps og s) :
    x₀.Safe ps og (s.opIsolate v) := by
  unfold State.opIsolate
  try dsimp only
  repeat' first
    | with_reducible assumption | with_reducible apply State.isolateClear_safe | split

theorem execIsolateAndClear_safe (m : Master) (v : Word32) (s : State) (hl : Within 0xd004236 ps) (ho : og = none)
    (hx : x₀.Safe ps og s) : x₀.SafeOut ps og (execIsolateAndClear m v s) := by
  unfold execIsolateAndClear
  try dsimp only
  repeat' first
    | with_reducible assumption | exact hl.of rfl | with_reducible apply State.SafeOut.next
    | with_reducible apply State.guarded_safe | with_reducible apply State.opIsolate_safe | split | intro _

theorem State.endSession_safe (s : State) (hl : Within 0x8000000 ps) (hx : x₀.Safe ps og s) : x₀.Safe ps og (s.endSession) := by
  unfold State.endSession
  try dsimp only
  repeat' first
    | with_reducible assumption | with_reducible apply State.modCfg_safe | split

theorem State.restartSession_safe (s : State) (hl : Within 0xd004234 ps) (ho : og = none) (hx : x₀.Safe ps og s) :
    x₀.Safe ps og (s.restartSession) := by
  unfold State.restartSession
  try dsimp only
  repeat' first
    | with_reducible assumption | exact hl.of rfl | with_reducible apply State.loadFail_safe
    | with_reducible apply State.loadAbort_safe | with_reducible apply each_safe | with_reducible apply State.isolateClear_safe
    | with_reducible apply State.setReg_safe | with_reducible apply State.setFld_safe | with_reducible apply State.modCfg_safe
    | split | intro _

theorem execSessionEnd_safe (m : Master) (v : Word32) (s : State) (hl : Within 0x8000206 ps) (hx : x₀.Safe ps og s) :
    x₀.SafeOut ps og (execSessionEnd m v s) := by
  unfold execSessionEnd
  try dsimp only
  repeat' first
    | with_reducible assumption | exact hl.of rfl | with_reducible apply State.SafeOut.next
    | with_reducible apply State.guarded_safe | with_reducible apply State.endSession_safe | split | intro _

theorem execRestart_safe (m : Master) (v : Word32) (s : State) (hl : Within 0xd004236 ps) (ho : og = none)
    (hx : x₀.Safe ps og s) : x₀.SafeOut ps og (execRestart m v s) := by
  unfold execRestart
  try dsimp only
  repeat' first
    | with_reducible assumption | exact hl.of rfl | with_reducible apply State.SafeOut.next
    | with_reducible apply State.guarded_safe | with_reducible apply State.restartSession_safe | split | intro _

theorem execDoneSeen_safe (s : State) (high : Bool) (hl : Within 0x8000000 ps) (hx : x₀.Safe ps og s) :
    x₀.SafeOut ps og (execDoneSeen s high) := by
  unfold execDoneSeen
  try dsimp only
  repeat' first
    | with_reducible assumption | with_reducible apply State.SafeOut.next | with_reducible apply State.modCfg_safe | split

theorem execCfgDonewait_safe (s : State) (hl : Within 0x8000204 ps) (hx : x₀.Safe ps og s) :
    x₀.SafeOut ps og (execCfgDonewait s) := by
  unfold execCfgDonewait
  try dsimp only
  repeat' first
    | with_reducible assumption | exact hl.of rfl | with_reducible apply State.SafeOut.next
    | with_reducible apply State.raiseOnce_safe | with_reducible apply State.modCfg_safe | split

theorem execLoaderChecks_safe (s : State) (hl : Within 0xd004204 ps) (ho : og = none) (hx : x₀.Safe ps og s) :
    x₀.SafeOut ps og (execLoaderChecks s) := by
  unfold execLoaderChecks
  try dsimp only
  repeat' first
    | with_reducible assumption | exact hl.of rfl | with_reducible apply State.SafeOut.next
    | with_reducible apply State.loaderLines_safe | with_reducible apply each_safe | with_reducible apply State.modPad_safe
    | with_reducible apply State.loadFail_safe | with_reducible apply State.isolate_safe
    | with_reducible apply State.setLoad_safe | split | intro _

theorem execLoaderClearDone_safe (s : State) (hl : Within 0x8000030 ps) (hx : x₀.Safe ps og s) :
    x₀.SafeOut ps og (execLoaderClearDone s) := by
  unfold execLoaderClearDone
  try dsimp only
  repeat' first
    | with_reducible assumption | exact hl.of rfl | with_reducible apply State.SafeOut.next | with_reducible apply each_safe
    | with_reducible apply State.clearPad_safe | with_reducible apply State.setLoad_safe | split | intro _

theorem State.writeBlock_safe (s : State) (h : List Byte) (plain : List Byte) (hl : Within 0x8000030 ps)
    (hx : x₀.Safe ps og s) : x₀.Safe ps og (s.writeBlock h plain) := by
  unfold State.writeBlock
  try dsimp only
  repeat' first
    | with_reducible assumption | exact hl.of rfl | with_reducible apply State.modCfg_safe
    | with_reducible apply State.write_safe | split

theorem execPayloadBlock_safe (s : State) (hl : Within 0xd004234 ps) (ho : og = none) (hx : x₀.Safe ps og s) :
    x₀.SafeOut ps og (execPayloadBlock s) := by
  unfold execPayloadBlock
  try dsimp only
  repeat' first
    | with_reducible assumption | exact hl.of rfl | with_reducible apply State.SafeOut.next
    | with_reducible apply State.loaderLines_safe | with_reducible apply State.loadAbort_safe
    | with_reducible apply State.writeBlock_safe | with_reducible apply State.setLoad_safe | split

theorem State.applyPlan_safe (s : State) (l : Load) (hl : Within 0xc000204 ps) (hx : x₀.Safe ps og s) :
    x₀.Safe ps og (s.applyPlan l) := by
  unfold State.applyPlan
  try dsimp only
  repeat' first
    | with_reducible assumption | exact hl.of rfl | with_reducible apply State.pllWrite_safe | with_reducible apply each_safe
    | with_reducible apply State.gclkWrite_safe | with_reducible apply State.setLoad_safe | split | intro _
    | with_reducible apply foldl_fst

theorem execLoaderDigest_safe (s : State) (hl : Within 0xd004204 ps) (ho : og = none) (hx : x₀.Safe ps og s) :
    x₀.SafeOut ps og (execLoaderDigest s) := by
  unfold execLoaderDigest
  try dsimp only
  repeat' first
    | with_reducible assumption | exact hl.of rfl | with_reducible apply State.SafeOut.next
    | with_reducible apply State.loadAbort_safe | with_reducible apply State.applyPlan_safe | split

theorem execClockPlanLock_safe (s : State) (hl : Within 0xd004204 ps) (ho : og = none) (hx : x₀.Safe ps og s) :
    x₀.SafeOut ps og (execClockPlanLock s) := by
  unfold execClockPlanLock
  try dsimp only
  repeat' first
    | with_reducible assumption | exact hl.of rfl | with_reducible apply State.SafeOut.next
    | with_reducible apply State.setLoad_safe | with_reducible apply State.loadAbort_safe | split

theorem State.commitPad_safe (s : State) (r : Region) (hl : Within 0x8000000 ps) (hx : x₀.Safe ps og s) :
    x₀.Safe ps og (s.commitPad r) := by
  unfold State.commitPad
  try dsimp only
  repeat' first
    | with_reducible assumption | with_reducible apply State.modPad_safe

theorem execLoadCommit_safe (s : State) (hl : Within 0x8000204 ps) (hx : x₀.Safe ps og s) :
    x₀.SafeOut ps og (execLoadCommit s) := by
  unfold execLoadCommit
  try dsimp only
  repeat' first
    | with_reducible assumption | exact hl.of rfl | with_reducible apply State.SafeOut.next | with_reducible apply each_safe
    | with_reducible apply State.commitPad_safe | with_reducible apply State.setReg_safe
    | with_reducible apply State.modCfg_safe | with_reducible apply State.rateCheck_safe
    | with_reducible apply State.raiseOnce_safe | split | intro _

theorem execGatesOpen_safe (p : PaddockId) (s : State) (hl : Within 0x8000000 ps) (hx : x₀.Safe ps og s) :
    x₀.SafeOut ps og (execGatesOpen p s) := by
  unfold execGatesOpen
  try dsimp only
  repeat' first
    | with_reducible assumption | with_reducible apply State.SafeOut.next | with_reducible apply State.modPad_safe | split

theorem execWriteEnablesOn_safe (p : PaddockId) (s : State) (hl : Within 0x8000000 ps) (hx : x₀.Safe ps og s) :
    x₀.SafeOut ps og (execWriteEnablesOn p s) := by
  unfold execWriteEnablesOn
  try dsimp only
  repeat' first
    | with_reducible assumption | with_reducible apply State.SafeOut.next | with_reducible apply State.modPad_safe | split

theorem execResetsReleased_safe (p : PaddockId) (s : State) (hl : Within 0x8000204 ps) (hx : x₀.Safe ps og s) :
    x₀.SafeOut ps og (execResetsReleased p s) := by
  unfold execResetsReleased
  try dsimp only
  repeat' first
    | with_reducible assumption | exact hl.of rfl | with_reducible apply State.SafeOut.next
    | with_reducible apply State.modPad_safe | with_reducible apply State.raise_safe | split

theorem State.drift_safe (s : State) (p : Nat) (digest : List Byte) (hl : Within 0xd004204 ps) (ho : og = none)
    (hx : x₀.Safe ps og s) : x₀.Safe ps og (s.drift p digest) := by
  unfold State.drift
  try dsimp only
  repeat' first
    | with_reducible assumption | exact hl.of rfl | with_reducible apply State.isolate_safe
    | with_reducible apply State.raise_safe | with_reducible apply State.setFld_safe | split

theorem execAuditStep_safe (b : BayId) (votes : Nat) (s : State) (hl : Within 0xd004204 ps) (ho : og = none)
    (hx : x₀.Safe ps og s) : x₀.SafeOut ps og (execAuditStep b votes s) := by
  unfold execAuditStep
  try dsimp only
  repeat' first
    | with_reducible assumption | exact hl.of rfl | with_reducible apply State.SafeOut.next
    | with_reducible apply State.count_safe | with_reducible apply State.modCfg_safe | with_reducible apply State.drift_safe
    | split

theorem State.setRegBytes_safe (s : State) (r : Rn) (bs : List Byte) (hl : Within 0x4 ps) (hx : x₀.Safe ps og s) :
    x₀.Safe ps og (s.setRegBytes r bs) := by
  unfold State.setRegBytes
  try dsimp only
  repeat' first
    | with_reducible assumption | with_reducible apply each_safe | with_reducible apply State.setReg_safe | intro _

theorem execFingerprintRecompute_safe (s : State) (hl : Within 0x204 ps) (hx : x₀.Safe ps og s) : x₀.SafeOut ps og
    (execFingerprintRecompute s) := by
  have h : ∀ d new, x₀.Safe ps og ((s.setRegBytes .cfgFp d).setReg .cfgFp64 0 0 new) := fun d new =>
    State.setReg_safe _ _ _ _ _ (hl.of rfl) (State.setRegBytes_safe _ _ _ (hl.of rfl) hx)
  unfold execFingerprintRecompute
  generalize sha384 s.fpBytes = d
  dsimp only
  split
  · exact h _ _
  · exact State.raiseOnce_safe _ _ _ _ _ _ _ _ (hl.of rfl) (h _ _)

theorem State.errpinWrite_safe (s : State) (v : Nat) (hl : Within 0x4 ps) (hx : x₀.Safe ps og s) :
    x₀.Safe ps og (s.errpinWrite v) := by
  unfold State.errpinWrite
  try dsimp only
  repeat' first
    | with_reducible assumption | with_reducible apply State.setFld_safe | split

theorem execErrpinWrite_safe (m : Master) (v : Word32) (s : State) (hl : Within 0x206 ps) (hx : x₀.Safe ps og s) :
    x₀.SafeOut ps og (execErrpinWrite m v s) := by
  unfold execErrpinWrite
  try dsimp only
  repeat' first
    | with_reducible assumption | exact hl.of rfl | with_reducible apply State.SafeOut.next
    | with_reducible apply State.guarded_safe | with_reducible apply State.errpinWrite_safe | intro _

end Sys2Proof.Machine
end

