-- ==== Sys2Proof/Laws/SafeFeed.lean ====
section
/-! SUPPORT. The operations of Machine/Feed.lean keep what Laws/Keeps.lean calls Safe. -/

namespace Sys2Proof.Machine

variable {x₀ : State} {ps : Nat} {og : Option Nat}

theorem State.modQueue_safe (s : State) (q : Nat) (f : FeedQueue → FeedQueue) (hl : Within 0x400000 ps) (hx : x₀.Safe ps og s) :
    x₀.Safe ps og (s.modQueue q f) := by
  unfold State.modQueue
  try dsimp only
  repeat' first
    | with_reducible assumption | with_reducible apply State.Safe.upd_queues

theorem State.ringLines_safe (s : State) (q : FeedQueue) (n : Nat) (hl : Within 0x4 ps) (hx : x₀.Safe ps og s) :
    x₀.Safe ps og (s.ringLines q n) := by
  unfold State.ringLines
  try dsimp only
  repeat' first
    | with_reducible assumption | with_reducible apply State.cacheLines_safe | split

theorem State.ringWrite_safe (s : State) (q : FeedQueue) (a : Nat) (bs : List Byte) (hl : Within 0xf4 ps)
    (hx : x₀.Safe ps og s) : x₀.Safe ps og (s.ringWrite q a bs) := by
  unfold State.ringWrite
  try dsimp only
  repeat' first
    | with_reducible assumption | exact hl.of rfl | with_reducible apply State.hwrite_safe
    | with_reducible apply State.cacheLines_safe | with_reducible apply State.write_safe | split

theorem State.queueError_safe (s : State) (q : Nat) (cause : Nat) (w2 : Nat) (hl : Within 0x204 ps) (hx : x₀.Safe ps og s) :
    x₀.Safe ps og (s.queueError q cause w2) := by
  unfold State.queueError
  try dsimp only
  repeat' first
    | with_reducible assumption | with_reducible apply State.raiseOnce_safe

theorem State.muteQueue_safe (s : State) (q : Nat) (hl : Within 0x400204 ps) (hx : x₀.Safe ps og s) :
    x₀.Safe ps og (s.muteQueue q) := by
  unfold State.muteQueue
  try dsimp only
  repeat' first
    | with_reducible assumption | exact hl.of rfl | with_reducible apply State.queueError_safe
    | with_reducible apply State.modQueue_safe | split

theorem State.writeHead_safe (s : State) (q : Nat) (hl : Within 0x4002f4 ps) (hx : x₀.Safe ps og s) :
    x₀.Safe ps og (s.writeHead q) := by
  unfold State.writeHead
  try dsimp only
  repeat' first
    | with_reducible assumption | exact hl.of rfl | with_reducible apply State.muteQueue_safe
    | with_reducible apply State.ringWrite_safe | split

theorem State.stopQueue_safe (s : State) (q : Nat) (cause : Nat) (w2 : Nat) (hl : Within 0x4002f4 ps) (hx : x₀.Safe ps og s) :
    x₀.Safe ps og (s.stopQueue q cause w2) := by
  unfold State.stopQueue
  try dsimp only
  repeat' first
    | with_reducible assumption | exact hl.of rfl | with_reducible apply State.modQueue_safe
    | with_reducible apply State.writeHead_safe | with_reducible apply State.queueError_safe | split

theorem State.journalWrite_safe (s : State) (q : Nat) (jseq : Nat) (bs : List Byte) (hl : Within 0x30 ps)
    (hx : x₀.Safe ps og s) : x₀.Safe ps og (s.journalWrite q jseq bs) := by
  unfold State.journalWrite
  try dsimp only
  repeat' first
    | with_reducible assumption | with_reducible apply each_safe | with_reducible apply State.write_safe | intro _

theorem State.flushOne_safe (s : State) (q : Nat) (hl : Within 0x2000004012f4 ps) (hx : x₀.Safe ps og s) :
    x₀.Safe ps og (s.flushOne q).1 := by
  unfold State.flushOne
  try dsimp only
  repeat' first
    | with_reducible assumption | exact hl.of rfl | with_reducible apply State.hwrite_safe
    | with_reducible apply State.cacheLines_safe | with_reducible apply State.modQueue_safe
    | with_reducible apply State.muteQueue_safe | with_reducible apply State.ringWrite_safe
    | with_reducible apply State.msixSend_safe | split

theorem State.flushOne_pair {s : State} {q : Nat} {t₁ : State} {r₁ : Bool} (hl : Within 0x2000004012f4 ps)
    (hx : x₀.Safe ps og s) (he : s.flushOne q = (t₁, r₁)) : x₀.Safe ps og t₁ := by
  have hs := State.flushOne_safe s q hl hx
  rw [he] at hs
  exact hs

theorem State.flushN_safe (s : State) (q fuel : Nat) (hl : Within 0x2000004012f4 ps) (hx : x₀.Safe ps og s) : x₀.Safe ps og
    (s.flushN q fuel) := by
  induction fuel generalizing s with
  | zero => exact hx
  | succ fuel ih =>
    simp only [State.flushN]
    split
    · exact ih _ (State.flushOne_safe s q (hl.of rfl) hx)
    · exact State.flushOne_safe s q (hl.of rfl) hx

theorem State.flush_safe (s : State) (q : Nat) (hl : Within 0x2000004012f4 ps) (hx : x₀.Safe ps og s) :
    x₀.Safe ps og (s.flush q) := by
  unfold State.flush
  try dsimp only
  repeat' first
    | with_reducible assumption | exact hl.of rfl | with_reducible apply State.writeHead_safe
    | with_reducible apply State.flushN_safe

theorem State.post_safe (s : State) (q : Nat) (r : JRec) (head : Option Nat) (hl : Within 0x2000004012f4 ps)
    (hx : x₀.Safe ps og s) : x₀.Safe ps og (s.post q r head) := by
  unfold State.post
  try dsimp only
  repeat' first
    | with_reducible assumption | exact hl.of rfl | with_reducible apply State.journalWrite_safe
    | with_reducible apply State.modQueue_safe | with_reducible apply State.flush_safe

theorem State.postSilent_safe (s : State) (q : Nat) (r : JRec) (hl : Within 0x2000004012f4 ps) (hx : x₀.Safe ps og s) :
    x₀.Safe ps og (s.postSilent q r) := by
  unfold State.postSilent
  try dsimp only
  repeat' first
    | with_reducible assumption | exact hl.of rfl | with_reducible apply State.journalWrite_safe
    | with_reducible apply State.flush_safe | with_reducible apply State.modQueue_safe

theorem State.readTail_safe (s : State) (q : Nat) (hl : Within 0x2000004012f4 ps) (hx : x₀.Safe ps og s) :
    x₀.Safe ps og (s.readTail q) := by
  unfold State.readTail
  try dsimp only
  repeat' first
    | with_reducible assumption | exact hl.of rfl | with_reducible apply State.stopQueue_safe
    | with_reducible apply State.ringLines_safe | with_reducible apply State.modQueue_safe
    | with_reducible apply State.flush_safe | split

theorem State.hostStores_safe (s : State) (ws : List (Nat × Byte)) (hl : Within 0xc0 ps) (hx : x₀.Safe ps og s) :
    x₀.Safe ps og (s.hostStores ws) := by
  unfold State.hostStores
  try dsimp only
  repeat' first
    | with_reducible assumption | with_reducible apply each_safe | with_reducible apply State.hwrite_safe | intro _

theorem execTailSnoop_safe (q : QueueId) (s : State) (ws : (List (Nat × Byte))) (hl : Within 0x2000004012f4 ps)
    (hx : x₀.Safe ps og s) : x₀.SafeOut ps og (execTailSnoop q s ws) := by
  unfold execTailSnoop
  try dsimp only
  repeat' first
    | with_reducible assumption | exact hl.of rfl | with_reducible apply State.SafeOut.next
    | with_reducible apply State.hostStores_safe | with_reducible apply State.readTail_safe | split

end Sys2Proof.Machine
end

