-- ==== Sys2Proof/Laws/SafeVector.lean ====
section
/-! SUPPORT. The operations of Machine/Vector.lean keep what Laws/Keeps.lean calls Safe. -/

namespace Sys2Proof.Machine

variable {x₀ : State} {ps : Nat} {og : Option Nat}

theorem State.vWrite_safe (s : State) (g : Nat) (d : VDesc) (a : Nat) (v : Byte) (p : Bool) (hl : Within 0x4032 ps)
    (ho : Scope og g) (hx : x₀.Safe ps og s) : x₀.Safe ps og (s.vWrite g d a v p) := by
  unfold State.vWrite
  try dsimp only
  repeat' first
    | with_reducible assumption | exact hl.of rfl | with_reducible apply State.takeFree_safe
    | with_reducible apply State.modStall_safe | with_reducible apply State.writeByte_safe | split

theorem State.vOut_safe (s : State) (g : Nat) (d : VDesc) (r : Nat) (j : Nat) (x : VRes) (hl : Within 0x204 ps)
    (hx : x₀.Safe ps og s) : x₀.Safe ps og (s.vOut g d r j x).1 := by
  unfold State.vOut
  try dsimp only
  repeat' first
    | with_reducible assumption | exact hl.of rfl | with_reducible apply State.count_safe
    | with_reducible apply State.raiseOnce_safe | with_reducible apply State.numCount_safe
    | with_reducible apply State.setReg_safe | split

theorem State.vOut_pair {s : State} {g : Nat} {d : VDesc} {r : Nat} {j : Nat} {x : VRes} {t₁ : State} {r₁ : PVal}
    (hl : Within 0x204 ps) (hx : x₀.Safe ps og s) (he : s.vOut g d r j x = (t₁, r₁)) : x₀.Safe ps og t₁ := by
  have hs := State.vOut_safe s g d r j x hl hx
  rw [he] at hs
  exact hs

theorem State.vRowOut_safe (s : State) (g : Nat) (d : VDesc) (r : Nat) (res : List VRes) (hl : Within 0x4236 ps)
    (ho : Scope og g) (hx : x₀.Safe ps og s) : x₀.Safe ps og (s.vRowOut g d r res) := by
  unfold State.vRowOut
  try dsimp only
  repeat' first
    | with_reducible assumption | exact hl.of rfl | with_reducible apply State.vOut_safe
    | with_reducible apply State.vWrite_safe | intro _ | with_reducible apply foldl_safe | with_reducible apply foldl_fst

theorem State.vNextRow_safe (s : State) (g : Nat) (hl : Within 0x4236 ps) (ho : Scope og g) (hx : x₀.Safe ps og s) :
    x₀.Safe ps og (s.vNextRow g) := by
  unfold State.vNextRow
  try dsimp only
  repeat' first
    | with_reducible assumption | exact hl.of rfl | with_reducible apply State.modStall_safe
    | with_reducible apply State.vRowOut_safe | split

theorem State.vRows_safe (s : State) (g n : Nat) (hl : Within 0x4236 ps) (ho : Scope og g) (hx : x₀.Safe ps og s) :
    x₀.Safe ps og (s.vRows g n) := by
  induction n generalizing s with
  | zero => exact hx
  | succ n ih => exact ih _ (State.vNextRow_safe s g hl ho hx)

theorem State.vStart_safe (s : State) (g : Nat) (e : QEntry) (d : VDesc) (hl : Within 0x4006 ps) (ho : Scope og g)
    (hx : x₀.Safe ps og s) : x₀.Safe ps og (s.vStart g e d) := by
  unfold State.vStart
  try dsimp only
  repeat' first
    | with_reducible assumption | exact hl.of rfl | with_reducible apply State.setReg_safe
    | with_reducible apply State.takeFree_safe | with_reducible apply State.modStall_safe | split

theorem State.vecFault_safe (s : State) (g : Nat) (e : QEntry) (d : VDesc) (c : VCheck) (hl : Within 0x204204 ps)
    (ho : Scope og g) (hx : x₀.Safe ps og s) : x₀.Safe ps og (s.vecFault g e d c) := by
  unfold State.vecFault
  try dsimp only
  repeat' first
    | with_reducible assumption | exact hl.of rfl | with_reducible apply State.capture_safe
    | with_reducible apply State.raise_safe | with_reducible apply State.iqFault_safe

theorem State.vop_safe (s : State) (g : Nat) (o : VOp) (hl : Within 0x204206 ps) (ho : Scope og g) (hx : x₀.Safe ps og s) :
    x₀.Safe ps og (s.vop g o) := by
  unfold State.vop
  try dsimp only
  repeat' first
    | with_reducible assumption | exact hl.of rfl | with_reducible apply State.settle_safe
    | with_reducible apply State.vecFault_safe | with_reducible apply State.issue_safe | with_reducible apply State.vStart_safe
    | split

theorem execVopAdd_safe (g : StallId) (s : State) (hl : Within 0x204206 ps) (ho : Scope og g) (hx : x₀.Safe ps og s) :
    x₀.SafeOut ps og (execVopAdd g s) := by
  unfold execVopAdd
  try dsimp only
  repeat' first
    | with_reducible assumption | with_reducible apply State.SafeOut.next | with_reducible apply State.vop_safe

theorem execVopSub_safe (g : StallId) (s : State) (hl : Within 0x204206 ps) (ho : Scope og g) (hx : x₀.Safe ps og s) :
    x₀.SafeOut ps og (execVopSub g s) := by
  unfold execVopSub
  try dsimp only
  repeat' first
    | with_reducible assumption | with_reducible apply State.SafeOut.next | with_reducible apply State.vop_safe

theorem execVopMul_safe (g : StallId) (s : State) (hl : Within 0x204206 ps) (ho : Scope og g) (hx : x₀.Safe ps og s) :
    x₀.SafeOut ps og (execVopMul g s) := by
  unfold execVopMul
  try dsimp only
  repeat' first
    | with_reducible assumption | with_reducible apply State.SafeOut.next | with_reducible apply State.vop_safe

theorem execVopMax_safe (g : StallId) (s : State) (hl : Within 0x204206 ps) (ho : Scope og g) (hx : x₀.Safe ps og s) :
    x₀.SafeOut ps og (execVopMax g s) := by
  unfold execVopMax
  try dsimp only
  repeat' first
    | with_reducible assumption | with_reducible apply State.SafeOut.next | with_reducible apply State.vop_safe

theorem execVopMin_safe (g : StallId) (s : State) (hl : Within 0x204206 ps) (ho : Scope og g) (hx : x₀.Safe ps og s) :
    x₀.SafeOut ps og (execVopMin g s) := by
  unfold execVopMin
  try dsimp only
  repeat' first
    | with_reducible assumption | with_reducible apply State.SafeOut.next | with_reducible apply State.vop_safe

theorem execVopFma_safe (g : StallId) (s : State) (hl : Within 0x204206 ps) (ho : Scope og g) (hx : x₀.Safe ps og s) :
    x₀.SafeOut ps og (execVopFma g s) := by
  unfold execVopFma
  try dsimp only
  repeat' first
    | with_reducible assumption | with_reducible apply State.SafeOut.next | with_reducible apply State.vop_safe

theorem execVopBscale_safe (g : StallId) (s : State) (hl : Within 0x204206 ps) (ho : Scope og g) (hx : x₀.Safe ps og s) :
    x₀.SafeOut ps og (execVopBscale g s) := by
  unfold execVopBscale
  try dsimp only
  repeat' first
    | with_reducible assumption | with_reducible apply State.SafeOut.next | with_reducible apply State.vop_safe

theorem execVopCvt_safe (g : StallId) (s : State) (hl : Within 0x204206 ps) (ho : Scope og g) (hx : x₀.Safe ps og s) :
    x₀.SafeOut ps og (execVopCvt g s) := by
  unfold execVopCvt
  try dsimp only
  repeat' first
    | with_reducible assumption | with_reducible apply State.SafeOut.next | with_reducible apply State.vop_safe

theorem execVopAbs_safe (g : StallId) (s : State) (hl : Within 0x204206 ps) (ho : Scope og g) (hx : x₀.Safe ps og s) :
    x₀.SafeOut ps og (execVopAbs g s) := by
  unfold execVopAbs
  try dsimp only
  repeat' first
    | with_reducible assumption | with_reducible apply State.SafeOut.next | with_reducible apply State.vop_safe

theorem execVopNeg_safe (g : StallId) (s : State) (hl : Within 0x204206 ps) (ho : Scope og g) (hx : x₀.Safe ps og s) :
    x₀.SafeOut ps og (execVopNeg g s) := by
  unfold execVopNeg
  try dsimp only
  repeat' first
    | with_reducible assumption | with_reducible apply State.SafeOut.next | with_reducible apply State.vop_safe

theorem execVopExp2_safe (g : StallId) (s : State) (hl : Within 0x204206 ps) (ho : Scope og g) (hx : x₀.Safe ps og s) :
    x₀.SafeOut ps og (execVopExp2 g s) := by
  unfold execVopExp2
  try dsimp only
  repeat' first
    | with_reducible assumption | with_reducible apply State.SafeOut.next | with_reducible apply State.vop_safe

theorem execVopLog2_safe (g : StallId) (s : State) (hl : Within 0x204206 ps) (ho : Scope og g) (hx : x₀.Safe ps og s) :
    x₀.SafeOut ps og (execVopLog2 g s) := by
  unfold execVopLog2
  try dsimp only
  repeat' first
    | with_reducible assumption | with_reducible apply State.SafeOut.next | with_reducible apply State.vop_safe

theorem execVopRcp_safe (g : StallId) (s : State) (hl : Within 0x204206 ps) (ho : Scope og g) (hx : x₀.Safe ps og s) :
    x₀.SafeOut ps og (execVopRcp g s) := by
  unfold execVopRcp
  try dsimp only
  repeat' first
    | with_reducible assumption | with_reducible apply State.SafeOut.next | with_reducible apply State.vop_safe

theorem execVopRsqrt_safe (g : StallId) (s : State) (hl : Within 0x204206 ps) (ho : Scope og g) (hx : x₀.Safe ps og s) :
    x₀.SafeOut ps og (execVopRsqrt g s) := by
  unfold execVopRsqrt
  try dsimp only
  repeat' first
    | with_reducible assumption | with_reducible apply State.SafeOut.next | with_reducible apply State.vop_safe

theorem execVopRsum_safe (g : StallId) (s : State) (hl : Within 0x204206 ps) (ho : Scope og g) (hx : x₀.Safe ps og s) :
    x₀.SafeOut ps og (execVopRsum g s) := by
  unfold execVopRsum
  try dsimp only
  repeat' first
    | with_reducible assumption | with_reducible apply State.SafeOut.next | with_reducible apply State.vop_safe

theorem execVopRmax_safe (g : StallId) (s : State) (hl : Within 0x204206 ps) (ho : Scope og g) (hx : x₀.Safe ps og s) :
    x₀.SafeOut ps og (execVopRmax g s) := by
  unfold execVopRmax
  try dsimp only
  repeat' first
    | with_reducible assumption | with_reducible apply State.SafeOut.next | with_reducible apply State.vop_safe

theorem execVopRmin_safe (g : StallId) (s : State) (hl : Within 0x204206 ps) (ho : Scope og g) (hx : x₀.Safe ps og s) :
    x₀.SafeOut ps og (execVopRmin g s) := by
  unfold execVopRmin
  try dsimp only
  repeat' first
    | with_reducible assumption | with_reducible apply State.SafeOut.next | with_reducible apply State.vop_safe

theorem execVopRamax_safe (g : StallId) (s : State) (hl : Within 0x204206 ps) (ho : Scope og g) (hx : x₀.Safe ps og s) :
    x₀.SafeOut ps og (execVopRamax g s) := by
  unfold execVopRamax
  try dsimp only
  repeat' first
    | with_reducible assumption | with_reducible apply State.SafeOut.next | with_reducible apply State.vop_safe

theorem execVopScani_safe (g : StallId) (s : State) (hl : Within 0x204206 ps) (ho : Scope og g) (hx : x₀.Safe ps og s) :
    x₀.SafeOut ps og (execVopScani g s) := by
  unfold execVopScani
  try dsimp only
  repeat' first
    | with_reducible assumption | with_reducible apply State.SafeOut.next | with_reducible apply State.vop_safe

theorem execVopScane_safe (g : StallId) (s : State) (hl : Within 0x204206 ps) (ho : Scope og g) (hx : x₀.Safe ps og s) :
    x₀.SafeOut ps og (execVopScane g s) := by
  unfold execVopScane
  try dsimp only
  repeat' first
    | with_reducible assumption | with_reducible apply State.SafeOut.next | with_reducible apply State.vop_safe

theorem execVopScanmax_safe (g : StallId) (s : State) (hl : Within 0x204206 ps) (ho : Scope og g) (hx : x₀.Safe ps og s) :
    x₀.SafeOut ps og (execVopScanmax g s) := by
  unfold execVopScanmax
  try dsimp only
  repeat' first
    | with_reducible assumption | with_reducible apply State.SafeOut.next | with_reducible apply State.vop_safe

theorem execVopComplete_safe (g : StallId) (waits : Nat) (s : State) (hl : Within 0x84236 ps) (ho : og = none)
    (hx : x₀.Safe ps og s) : x₀.SafeOut ps og (execVopComplete g waits s) := by
  unfold execVopComplete
  try dsimp only
  repeat' first
    | with_reducible assumption | exact hl.of rfl | with_reducible exact Scope.none ho
    | with_reducible apply State.SafeOut.next | with_reducible apply State.vRows_safe | with_reducible apply State.count_safe
    | with_reducible apply State.modStall_safe | with_reducible apply State.settle_safe
    | with_reducible apply State.complete_safe | split

end Sys2Proof.Machine
end

