-- ==== Sys2Proof/Laws/SafeRates.lean ====
section
/-! SUPPORT. The operations of Machine/Rates.lean keep what Laws/Keeps.lean calls Safe. -/

namespace Sys2Proof.Machine

variable {x₀ : State} {ps : Nat} {og : Option Nat}

theorem State.showRate_safe (s : State) (b : Nat) (hl : Within 0x4 ps) (hx : x₀.Safe ps og s) : x₀.Safe ps og (s.showRate b) := by
  unfold State.showRate
  try dsimp only
  repeat' first
    | with_reducible assumption | with_reducible apply State.setFld_safe

end Sys2Proof.Machine
end

