-- ==== Sys2Proof/Laws/SafeContexts.lean ====
section
/-! SUPPORT. The operations of Machine/Contexts.lean keep what Laws/Keeps.lean calls Safe. -/

namespace Sys2Proof.Machine

variable {x₀ : State} {ps : Nat} {og : Option Nat}

theorem State.ctxWrite_safe (s : State) (c : Nat) (bs : List Byte) (hl : Within 0x30 ps) (hx : x₀.Safe ps og s) :
    x₀.Safe ps og (s.ctxWrite c bs) := by
  unfold State.ctxWrite
  try dsimp only
  repeat' first
    | with_reducible assumption | with_reducible apply State.write_safe | split

theorem State.ctxSet_safe (s : State) (c : Nat) (bs : List Byte) (hl : Within 0x800000000030 ps) (hx : x₀.Safe ps og s) :
    x₀.Safe ps og (s.ctxSet c bs) := by
  unfold State.ctxSet
  try dsimp only
  repeat' first
    | with_reducible assumption | exact hl.of rfl | with_reducible apply State.ctxWrite_safe
    | with_reducible apply State.Safe.upd_ctxLost

theorem State.addCause_safe (s : State) (p : Nat → Bool) (c : Nat) (hl : Within 0x200000 ps) (hx : x₀.Safe ps og s) :
    x₀.Safe ps og (s.addCause p c) := by
  unfold State.addCause
  try dsimp only
  repeat' first
    | with_reducible assumption | with_reducible apply each_safe | with_reducible apply State.modJob_safe | intro _

theorem State.causeFor_safe (s : State) (slot : Nat) (c : Nat) (hl : Within 0x200000 ps) (hx : x₀.Safe ps og s) :
    x₀.Safe ps og (s.causeFor slot c) := by
  unfold State.causeFor
  try dsimp only
  repeat' first
    | with_reducible assumption | with_reducible apply State.addCause_safe

end Sys2Proof.Machine
end

