-- ==== Sys2Proof/Laws/SafeJobs.lean ====
section
/-! SUPPORT. The operations of Machine/Jobs.lean keep what Laws/Keeps.lean calls Safe. -/

namespace Sys2Proof.Machine

variable {x₀ : State} {ps : Nat} {og : Option Nat}

theorem State.setVset_safe (s : State) (b : Nat) (mv : Nat) (hl : Within 0x80000000004 ps) (hx : x₀.Safe ps og s) :
    x₀.Safe ps og (s.setVset b mv) := by
  unfold State.setVset
  try dsimp only
  repeat' first
    | with_reducible assumption | exact hl.of rfl | with_reducible apply State.setFld_safe
    | with_reducible apply State.showRate_safe | split | with_reducible apply State.Safe.upd_eng

theorem State.closeBatch_safe (s : State) (q : Nat) (hl : Within 0x600000 ps) (hx : x₀.Safe ps og s) :
    x₀.Safe ps og (s.closeBatch q) := by
  unfold State.closeBatch
  try dsimp only
  repeat' first
    | with_reducible assumption | exact hl.of rfl | with_reducible apply State.modQueue_safe | with_reducible apply each_safe
    | with_reducible apply State.modJob_safe | split | intro _

theorem State.enterBatch_safe (s : State) (q : Nat) (slot : Nat) (hl : Within 0x600000 ps) (hx : x₀.Safe ps og s) :
    x₀.Safe ps og (s.enterBatch q slot) := by
  unfold State.enterBatch
  try dsimp only
  repeat' first
    | with_reducible assumption | exact hl.of rfl | with_reducible apply State.closeBatch_safe
    | with_reducible apply State.modQueue_safe | split

theorem State.refuseRecord_safe (s : State) (q : Nat) (bytes : List Byte) (slots : Nat) (user : Nat) (r : Refuse)
    (hl : Within 0x2000004012f4 ps) (hx : x₀.Safe ps og s) : x₀.Safe ps og (s.refuseRecord q bytes slots user r) := by
  unfold State.refuseRecord
  try dsimp only
  repeat' first
    | with_reducible assumption | exact hl.of rfl | with_reducible apply State.modQueue_safe
    | with_reducible apply State.post_safe

theorem State.acceptRecord_safe (s : State) (q : Nat) (r : CmdRec) (charge : Option Nat) (base : Nat)
    (pred : Option Nat) (hl : Within 0x2200006012f6 ps) (hx : x₀.Safe ps og s) : x₀.Safe ps og (s.acceptRecord q r charge base pred) := by
  have cause : ∀ (c : Bool) (p : Nat → Bool) (k : Nat) (y : State), x₀.Safe ps og y → x₀.Safe ps og (if c = true then y.addCause p k else y) := by
    intro c p k y hy
    split
    · exact State.addCause_safe _ _ _ (hl.of rfl) hy
    · exact hy
  unfold State.acceptRecord
  split
  · exact hx
  · refine State.post_safe _ _ _ _ (hl.of rfl) ?_
    have batch : ∀ (c : Bool) (slot : Nat) (y : State), x₀.Safe ps og y → x₀.Safe ps og (if c = true then y.enterBatch q slot else y.closeBatch q) := by
      intro c slot y hy
      split
      · exact State.enterBatch_safe _ _ _ (hl.of rfl) hy
      · exact State.closeBatch_safe _ _ (hl.of rfl) hy
    refine batch _ _ _ (cause _ _ _ _ (cause _ _ _ _ (State.modQueue_safe _ _ _ (hl.of rfl) ?_)))
    refine State.Safe.upd_accepts (State.modJob_safe _ _ _ (hl.of rfl) ?_) (hl.of rfl)
    split
    · exact State.takeFree_safe _ (hl.of rfl) hx
    · exact hx

theorem State.steer_safe (s : State) (bays : List Nat) (mv : Nat) (hl : Within 0x80000200004 ps) (hx : x₀.Safe ps og s) :
    x₀.Safe ps og (s.steer bays mv) := by
  unfold State.steer
  try dsimp only
  repeat' first
    | with_reducible assumption | exact hl.of rfl | with_reducible apply each_safe | with_reducible apply State.modJob_safe
    | with_reducible apply State.setVset_safe | intro _

theorem State.settleRecord_safe (s : State) (q : Nat) (r : CmdRec) (hl : Within 0x2a00006012f6 ps) (hx : x₀.Safe ps og s) :
    x₀.Safe ps og (s.settleRecord q r) := by
  unfold State.settleRecord
  try dsimp only
  repeat' first
    | with_reducible assumption | exact hl.of rfl | with_reducible apply State.refuseRecord_safe
    | with_reducible apply State.modQueue_safe | with_reducible apply State.steer_safe
    | with_reducible apply State.acceptRecord_safe | split

theorem State.stages_safe (s : State) (q : Nat) (bs : List Byte) (slots : Nat) (hl : Within 0x2a00006012f6 ps)
    (hx : x₀.Safe ps og s) : x₀.Safe ps og (s.stages q bs slots) := by
  unfold State.stages
  try dsimp only
  repeat' first
    | with_reducible assumption | exact hl.of rfl | with_reducible apply State.refuseRecord_safe
    | with_reducible apply State.settleRecord_safe | with_reducible apply State.cacheLines_safe | split

theorem execRecordAdmission_safe (q : QueueId) (s : State) (hl : Within 0x2a00006012f6 ps) (hx : x₀.Safe ps og s) :
    x₀.SafeOut ps og (execRecordAdmission q s) := by
  unfold execRecordAdmission
  try dsimp only
  repeat' first
    | with_reducible assumption | exact hl.of rfl | with_reducible apply State.SafeOut.next
    | with_reducible apply State.stopQueue_safe | with_reducible apply State.stages_safe
    | with_reducible apply State.ringLines_safe | split

theorem execRecordRetest_safe (q : QueueId) (s : State) (hl : Within 0x2a00006012f6 ps) (hx : x₀.Safe ps og s) :
    x₀.SafeOut ps og (execRecordRetest q s) := by
  unfold execRecordRetest
  try dsimp only
  repeat' first
    | with_reducible assumption | with_reducible apply State.SafeOut.next | with_reducible apply State.settleRecord_safe
    | split

theorem execBatchClose_safe (q : QueueId) (s : State) (hl : Within 0x600000 ps) (hx : x₀.Safe ps og s) :
    x₀.SafeOut ps og (execBatchClose q s) := by
  unfold execBatchClose
  try dsimp only
  repeat' first
    | with_reducible assumption | with_reducible apply State.SafeOut.next | with_reducible apply State.closeBatch_safe | split

theorem State.copyLines_safe (s : State) (g : Nat) (q : Nat) (src : Nat) (dst : Nat) (n : Nat) (hl : Within 0x400006b042f4 ps)
    (ho : Scope og g) (hx : x₀.Safe ps og s) : x₀.Safe ps og (s.copyLines g q src dst n) := by
  unfold State.copyLines
  try dsimp only
  repeat' first
    | with_reducible assumption | exact hl.of rfl | with_reducible apply State.count_safe | with_reducible apply Mv.load_safe
    | with_reducible apply Mv.store_safe | split | intro _ | dsimp only | with_reducible apply foldl_fst

theorem State.copyShadows_safe (s : State) (g q : Nat) (back : Bool) (off : Nat) (l : List (Nat × Nat))
    (hl : Within 0x400006b042f4 ps) (ho : Scope og g) (hx : x₀.Safe ps og s) : x₀.Safe ps og (s.copyShadows g q back off l) := by
  induction l generalizing s off with
  | nil => exact hx
  | cons e t ih =>
    obtain ⟨va, n⟩ := e
    simp only [State.copyShadows]
    refine ih _ _ ?_
    split
    · exact State.copyLines_safe _ _ _ _ _ _ (hl.of rfl) ho hx
    · exact State.copyLines_safe _ _ _ _ _ _ (hl.of rfl) ho hx

theorem State.placeSegs_safe (s : State) (im : Image) (m : List (Nat × Nat)) (on : List Nat) (hl : Within 0x30 ps)
    (hx : x₀.Safe ps og s) : x₀.Safe ps og (s.placeSegs im m on) := by
  unfold State.placeSegs
  try dsimp only
  repeat' first
    | with_reducible assumption | with_reducible apply each_safe | with_reducible apply State.write_safe | split | intro _

theorem State.armClaim_safe (s : State) (r : Nat) (gen : Nat) (c : Claim) (at_ : Nat × Nat) (hl : Within 0x8004 ps)
    (hx : x₀.Safe ps og s) : x₀.Safe ps og (s.armClaim r gen c at_) := by
  unfold State.armClaim
  try dsimp only
  repeat' first
    | with_reducible assumption | exact hl.of rfl | with_reducible apply State.armCell_safe
    | with_reducible apply State.setReg_safe

theorem State.placeList_safe (s : State) (r : Nat) (gen : Nat) (g : Nat) (l : JList) (map : List MapSlot)
    (tokens : List TokRec) (on : List Nat) (hl : Within 0x4000 ps) (ho : Scope og g) (hx : x₀.Safe ps og s) :
    x₀.Safe ps og (s.placeList r gen g l map tokens on) := by
  unfold State.placeList
  try dsimp only
  repeat' first
    | with_reducible assumption | with_reducible apply State.modStall_safe | with_reducible apply State.settle_safe

theorem State.launch_safe {t : State} (s : State) (r : Nat) (again : Bool) (hl : Within 0x600006f0d2f6 ps) (ho : og = none)
    (hx : x₀.Safe ps og s) (he : s.launch r again = some t) :
    x₀.Safe ps og t := by
  unfold State.launch at he
  dsimp only at he
  split at he
  · cases he
  · split at he
    · cases he
      exact State.modJob_safe _ _ _ (hl.of rfl) hx
    · simp only [Option.map_eq_some_iff] at he
      obtain ⟨cells, -, rfl⟩ := he
      have tail : ∀ (c : Bool) (stalls : List Nat) (off : Nat) (y : State), x₀.Safe ps og y →
          x₀.Safe ps og (if c = true then y else each stalls y.takeFree fun s g => s.write (coreAddr g off) (y.pointerList r) false) := by
        intro c stalls off y hy
        split
        · exact hy
        · exact each_safe _ _ _ (fun y g hy => State.write_safe _ _ _ _ (hl.of rfl) hy) (State.takeFree_safe _ (hl.of rfl) hy)
      refine tail _ _ _ _ (each_safe _ _ _ (fun y g hy => State.placeList_safe _ _ _ _ _ _ _ _ (hl.of rfl) (Scope.none ho) hy) (State.placeSegs_safe _ _ _ _ (hl.of rfl) ?_))
      refine State.modJob_safe _ _ _ (hl.of rfl) (each_safe _ _ _ (fun y g hy => State.armClaim_safe _ _ _ _ _ (hl.of rfl) hy) ?_)
      have copy : ∀ (c : Bool) (g q : Nat) (l : List (Nat × Nat)) (y : State), x₀.Safe ps og y →
          x₀.Safe ps og (if c = true then y.copyShadows g q again 0 l else y) := by
        intro c g q l y hy
        split
        · exact State.copyShadows_safe _ _ _ _ _ _ (hl.of rfl) (Scope.none ho) hy
        · exact hy
      split
      · exact State.postSilent_safe _ _ _ (hl.of rfl) (copy _ _ _ _ _ hx)
      · exact copy _ _ _ _ _ hx

theorem execJobDispatch_safe (s : State) (hl : Within 0x600006f0d2f6 ps) (ho : og = none)
    (hx : x₀.Safe ps og s) : x₀.SafeOut ps og (execJobDispatch s) := by
  unfold execJobDispatch
  split
  · exact hx
  · split
    · rename_i h
      obtain ⟨r, -, hr⟩ := List.exists_of_findSome?_eq_some h
      split at hr
      · exact State.launch_safe _ _ _ (hl.of rfl) ho hx hr
      · cases hr
    · exact hx

theorem execJobRerun_safe (slot : Fin 1024) (s : State) (hl : Within 0x600006f0d2f6 ps) (ho : og = none)
    (hx : x₀.Safe ps og s) : x₀.SafeOut ps og (execJobRerun slot s) := by
  unfold execJobRerun
  try dsimp only
  repeat' first
    | with_reducible assumption | with_reducible apply State.SafeOut.next | split
    | with_reducible refine State.launch_safe _ _ _ ?_ ?_ ?_ (by with_reducible assumption)

theorem execFaultNotice_safe (s : State) (hl : Within 0x200000e052f4 ps) (ho : og = none) (hx : x₀.Safe ps og s) :
    x₀.SafeOut ps og (execFaultNotice s) := by
  unfold execFaultNotice
  try dsimp only
  repeat' first
    | with_reducible assumption | exact hl.of rfl | with_reducible apply State.SafeOut.next
    | with_reducible apply State.modJob_safe | with_reducible apply State.post_safe
    | with_reducible apply State.abandonJob_safe | with_reducible apply State.causeFor_safe | split
    | with_reducible apply State.Safe.upd_faultQ

theorem State.leaveBatch_safe (s : State) (slot : Nat) (hl : Within 0x600000 ps) (hx : x₀.Safe ps og s) :
    x₀.Safe ps og (s.leaveBatch slot) := by
  unfold State.leaveBatch
  try dsimp only
  repeat' first
    | with_reducible assumption | exact hl.of rfl | with_reducible apply State.modQueue_safe | with_reducible apply each_safe
    | with_reducible apply State.modJob_safe | split | intro _

theorem State.commitJob_safe (s : State) (slot : Nat) (hl : Within 0x2000006012f4 ps) (hx : x₀.Safe ps og s) :
    x₀.Safe ps og (s.commitJob slot) := by
  unfold State.commitJob
  try dsimp only
  repeat' first
    | with_reducible assumption | exact hl.of rfl | with_reducible apply State.addCause_safe
    | with_reducible apply State.ctxWrite_safe | with_reducible apply State.post_safe
    | with_reducible apply State.leaveBatch_safe | with_reducible apply State.modJob_safe | split

theorem execJobCommit_safe (q : QueueId) (s : State) (hl : Within 0x2000006052f4 ps) (ho : og = none) (hx : x₀.Safe ps og s) :
    x₀.SafeOut ps og (execJobCommit q s) := by
  unfold execJobCommit
  try dsimp only
  repeat' first
    | with_reducible assumption | exact hl.of rfl | with_reducible apply State.SafeOut.next | with_reducible apply each_safe
    | with_reducible apply State.abandonJob_safe | with_reducible apply State.addCause_safe
    | with_reducible apply State.commitJob_safe | split | intro _

end Sys2Proof.Machine
end

