-- ==== Sys2Proof/Laws/SafeNetwork.lean ====
section
/-! SUPPORT. The operations of Machine/Network.lean keep what Laws/Keeps.lean calls Safe. -/

namespace Sys2Proof.Machine

variable {x₀ : State} {ps : Nat} {og : Option Nat}

theorem State.trace_safe (s : State) (region : Nat) (router : Nat) (port : Nat) (n : Nat) (f : Flit)
    (hl : Within 0x1000204 ps) (hx : x₀.Safe ps og s) : x₀.Safe ps og (s.trace region router port n f) := by
  unfold State.trace
  try dsimp only
  repeat' first
    | with_reducible assumption | exact hl.of rfl | with_reducible apply State.modNet_safe
    | with_reducible apply State.count_safe | with_reducible apply State.setReg_safe
    | with_reducible apply State.raiseOnce_safe | split

theorem State.probe_safe (s : State) (region : Nat) (router : Nat) (port : Nat) (f : Flit) (hl : Within 0x1000204 ps)
    (hx : x₀.Safe ps og s) : x₀.Safe ps og (s.probe region router port f) := by
  unfold State.probe
  try dsimp only
  repeat' first
    | with_reducible assumption | exact hl.of rfl | with_reducible apply each_safe | with_reducible apply State.count_safe
    | with_reducible apply State.trace_safe | split | intro _

theorem State.sendRecord_safe (s : State) (region : Nat) (r : Nat × List Byte) (hl : Within 0x1000206 ps)
    (hx : x₀.Safe ps og s) : x₀.Safe ps og (s.sendRecord region r) := by
  unfold State.sendRecord
  try dsimp only
  repeat' first
    | with_reducible assumption | exact hl.of rfl | with_reducible rfl | with_reducible exact Nat.le_refl _
    | with_reducible exact Nat.le_succ _ | with_reducible apply State.send_safe | with_reducible apply State.takeFree_safe
    | split | intro _ | dsimp only | with_reducible apply foldl_safe | with_reducible apply foldl_fst
    | with_reducible refine foldl_pair (by with_reducible assumption) ?_ ?_

theorem State.drainTracer_safe (s : State) (region : Nat) (hl : Within 0x1000206 ps) (hx : x₀.Safe ps og s) :
    x₀.Safe ps og (s.drainTracer region) := by
  unfold State.drainTracer
  try dsimp only
  repeat' first
    | with_reducible assumption | exact hl.of rfl | with_reducible apply State.sendRecord_safe
    | with_reducible apply State.modNet_safe | split | intro _ | dsimp only

theorem State.traceCtl_safe (s : State) (region : Nat) (v : Nat) (hl : Within 0x1000004 ps) (hx : x₀.Safe ps og s) :
    x₀.Safe ps og (s.traceCtl region v) := by
  unfold State.traceCtl
  try dsimp only
  repeat' first
    | with_reducible assumption | exact hl.of rfl | with_reducible apply State.rwWrite_safe
    | with_reducible apply State.setReg_safe | with_reducible apply State.modNet_safe | split

theorem execTraceCtlWrite_safe (m : Master) (region : Fin 33) (v : Word32) (s : State) (hl : Within 0x1000206 ps)
    (hx : x₀.Safe ps og s) : x₀.SafeOut ps og (execTraceCtlWrite m region v s) := by
  unfold execTraceCtlWrite
  try dsimp only
  repeat' first
    | with_reducible assumption | exact hl.of rfl | with_reducible apply State.SafeOut.next
    | with_reducible apply State.guarded_safe | with_reducible apply State.traceCtl_safe | intro _

theorem execFlitCheckFail_safe (r : RouterId) (port : Fin 8) (s : State) (hl : Within 0x1000204 ps) (hx : x₀.Safe ps og s) :
    x₀.SafeOut ps og (execFlitCheckFail r port s) := by
  unfold execFlitCheckFail
  try dsimp only
  repeat' first
    | with_reducible assumption | exact hl.of rfl | with_reducible apply State.SafeOut.next
    | with_reducible apply State.modNet_safe | with_reducible apply State.count_safe
    | with_reducible apply State.raiseOnce_safe | with_reducible apply State.raise_safe
    | with_reducible apply State.closeBridge_safe | split

theorem State.depart_safe (s : State) (r : Nat) (port : Nat) (h : Head) (hl : Within 0x1000204 ps) (hx : x₀.Safe ps og s) :
    x₀.Safe ps og (s.depart r port h) := by
  unfold State.depart
  try dsimp only
  repeat' first
    | with_reducible assumption | exact hl.of rfl | with_reducible apply State.modNet_safe
    | with_reducible apply State.routerNack_safe | with_reducible apply State.probe_safe
    | with_reducible apply State.pushVc_safe | split

theorem execFlitGrant_safe (r : RouterId) (port : Fin 8) (s : State) (hl : Within 0x1000204 ps) (hx : x₀.Safe ps og s) :
    x₀.SafeOut ps og (execFlitGrant r port s) := by
  unfold execFlitGrant
  try dsimp only
  repeat' first
    | with_reducible assumption | exact hl.of rfl | with_reducible apply State.SafeOut.next
    | with_reducible apply State.modNet_safe | with_reducible apply State.pumpAll_safe | with_reducible apply State.depart_safe
    | split

theorem State.routeCommit_safe (s : State) (b : Nat) (hl : Within 0x1000000 ps) (hx : x₀.Safe ps og s) :
    x₀.Safe ps og (s.routeCommit b) := by
  unfold State.routeCommit
  try dsimp only
  repeat' first
    | with_reducible assumption | with_reducible apply State.modNet_safe

theorem execRouteCommit_safe (_c : CoreId) (b : BayId) (v : Word32) (s : State) (hl : Within 0x1000000 ps)
    (hx : x₀.Safe ps og s) : x₀.SafeOut ps og (execRouteCommit _c b v s) := by
  unfold execRouteCommit
  try dsimp only
  repeat' first
    | with_reducible assumption | with_reducible apply State.SafeOut.next | with_reducible apply State.routeCommit_safe | split

theorem execResend_safe (src : BitVec 16) (dest : BitVec 16) (s : State) (hl : Within 0x1000204 ps) (hx : x₀.Safe ps og s) :
    x₀.SafeOut ps og (execResend src dest s) := by
  unfold execResend
  try dsimp only
  repeat' first
    | with_reducible assumption | exact hl.of rfl | with_reducible apply State.SafeOut.next
    | with_reducible apply State.pump_safe | with_reducible apply State.modNet_safe | with_reducible apply State.count_safe
    | split

theorem State.notTaken_safe (s : State) (f : Flit) (hl : Within 0x1000204 ps) (hx : x₀.Safe ps og s) :
    x₀.Safe ps og (s.notTaken f) := by
  unfold State.notTaken
  try dsimp only
  repeat' first
    | with_reducible assumption | with_reducible apply State.noEndpoint_safe | with_reducible apply State.badOp_safe | split

theorem State.readLine_safe (s : State) (f : Flit) (a : Nat) (size : Nat) (hl : Within 0x1000204 ps) (hx : x₀.Safe ps og s) :
    x₀.Safe ps og (s.readLine f a size) := by
  unfold State.readLine
  try dsimp only
  repeat' first
    | with_reducible assumption | exact hl.of rfl | with_reducible apply State.takeArrived_safe
    | with_reducible apply State.respond_safe | with_reducible apply State.violate_safe | split

theorem execRd_safe (f : Flit) (s : State) (hl : Within 0x3000204 ps) (hx : x₀.Safe ps og s) : x₀.SafeOut ps og (execRd f s) := by
  unfold execRd
  try dsimp only
  repeat' first
    | with_reducible assumption | exact hl.of rfl | with_reducible apply State.SafeOut.next
    | with_reducible apply State.respond_safe | with_reducible apply State.takeArrived_safe
    | with_reducible apply State.cacheLines_safe | with_reducible apply State.notTaken_safe
    | with_reducible apply State.readLine_safe | split
    | with_reducible refine State.turnedAway_safe _ _ ?_ ?_ (by with_reducible assumption)
    | with_reducible refine State.hbmAskRead_safe _ _ _ _ _ _ _ ?_ ?_ (by with_reducible assumption)

theorem State.storeBytes_safe (s : State) (a : Nat) (bs : List Byte) (mask : Nat) (pmask : Nat) (hl : Within 0x30 ps)
    (hx : x₀.Safe ps og s) : x₀.Safe ps og (s.storeBytes a bs mask pmask) := by
  unfold State.storeBytes
  try dsimp only
  repeat' first
    | with_reducible assumption | with_reducible apply each_safe | with_reducible apply State.writeByte_safe | intro _

theorem State.hostBytes_safe (s : State) (a : Nat) (bs : List Byte) (mask : Nat) (pmask : Nat) (hl : Within 0xc0 ps)
    (hx : x₀.Safe ps og s) : x₀.Safe ps og (s.hostBytes a bs mask pmask) := by
  unfold State.hostBytes
  try dsimp only
  repeat' first
    | with_reducible assumption | with_reducible apply each_safe | with_reducible apply State.hwrite_safe | intro _

theorem State.writeLine_safe (s : State) (f : Flit) (a : Nat) (size : Nat) (mask : Nat) (pmask : Nat)
    (hl : Within 0x1000234 ps) (hx : x₀.Safe ps og s) : x₀.Safe ps og (s.writeLine f a size mask pmask) := by
  unfold State.writeLine
  try dsimp only
  repeat' first
    | with_reducible assumption | exact hl.of rfl | with_reducible apply State.takeArrived_safe
    | with_reducible apply State.violate_safe | with_reducible apply State.fabQerr_safe
    | with_reducible apply State.storeBytes_safe | with_reducible apply State.respond_safe | split

theorem execWr_safe (pfx : Option Flit) (f : Flit) (s : State) (hl : Within 0x30002f4 ps) (hx : x₀.Safe ps og s) :
    x₀.SafeOut ps og (execWr pfx f s) := by
  unfold execWr
  try dsimp only
  repeat' first
    | with_reducible assumption | exact hl.of rfl | with_reducible apply State.SafeOut.next
    | with_reducible apply State.takeArrived_safe | with_reducible apply State.respond_safe
    | with_reducible apply State.hostBytes_safe | with_reducible apply State.cacheLines_safe
    | with_reducible apply State.notTaken_safe | with_reducible apply State.writeLine_safe | split
    | with_reducible refine State.turnedAway_safe _ _ ?_ ?_ (by with_reducible assumption)
    | with_reducible refine State.hbmAskWrite_safe _ _ _ _ _ _ _ _ ?_ ?_ (by with_reducible assumption)

theorem State.answerAway_safe {t : State} (s : State) (f : Flit) (hl : Within 0x1000204 ps) (hx : x₀.Safe ps og s)
    (he : s.answerAway f = some t) : x₀.Safe ps og t := by
  unfold State.answerAway at he
  split at he
  · cases he; exact State.turnedAway_safe s f (hl.of rfl) hx ‹_›
  · split at he
    · cases he; exact State.netDiscard_safe _ _ _ _ _ (hl.of rfl) (State.takeArrived_safe _ _ (hl.of rfl) hx)
    · cases he

theorem State.deliverAnswer_safe (s : State) (f : Flit) (hl : Within 0x1000204 ps) (hx : x₀.Safe ps og s) :
    x₀.Safe ps og (s.deliverAnswer f) := by
  unfold State.deliverAnswer
  try dsimp only
  repeat' first
    | with_reducible assumption | with_reducible apply State.answered_safe | split
    | with_reducible refine State.answerAway_safe _ _ ?_ ?_ (by with_reducible assumption)

theorem execRdata_safe (f : Flit) (s : State) (hl : Within 0x1000204 ps) (hx : x₀.Safe ps og s) :
    x₀.SafeOut ps og (execRdata f s) := by
  unfold execRdata
  try dsimp only
  repeat' first
    | with_reducible assumption | with_reducible apply State.SafeOut.next | with_reducible apply State.deliverAnswer_safe

theorem execWack_safe (f : Flit) (s : State) (hl : Within 0x1000204 ps) (hx : x₀.Safe ps og s) :
    x₀.SafeOut ps og (execWack f s) := by
  unfold execWack
  try dsimp only
  repeat' first
    | with_reducible assumption | with_reducible apply State.SafeOut.next | with_reducible apply State.deliverAnswer_safe

theorem execAck_safe (f : Flit) (s : State) (hl : Within 0x1000204 ps) (hx : x₀.Safe ps og s) :
    x₀.SafeOut ps og (execAck f s) := by
  unfold execAck
  try dsimp only
  repeat' first
    | with_reducible assumption | with_reducible apply State.SafeOut.next | with_reducible apply State.deliverAnswer_safe

theorem execMdata_safe (f : Flit) (s : State) (hl : Within 0x1000204 ps) (hx : x₀.Safe ps og s) :
    x₀.SafeOut ps og (execMdata f s) := by
  unfold execMdata
  try dsimp only
  repeat' first
    | with_reducible assumption | with_reducible apply State.SafeOut.next | with_reducible apply State.deliverAnswer_safe

theorem execNack_safe (f : Flit) (s : State) (hl : Within 0x5000204 ps) (hx : x₀.Safe ps og s) :
    x₀.SafeOut ps og (execNack f s) := by
  unfold execNack
  try dsimp only
  repeat' first
    | with_reducible assumption | exact hl.of rfl | with_reducible apply State.SafeOut.next
    | with_reducible apply State.takeArrived_safe | with_reducible apply State.holdOrFail_safe
    | with_reducible apply State.modNet_safe | with_reducible apply State.setEnd_safe
    | with_reducible apply State.answered_safe | split
    | with_reducible refine State.answerAway_safe _ _ ?_ ?_ (by with_reducible assumption)

end Sys2Proof.Machine
end

