-- ==== Sys2Proof/Laws/SafeLinks.lean ====
section
/-! SUPPORT. The operations of Machine/Links.lean keep what Laws/Keeps.lean calls Safe. -/

namespace Sys2Proof.Machine

variable {x₀ : State} {ps : Nat} {og : Option Nat}

theorem State.modLink_safe (s : State) (k : Nat) (f : Link → Link) (hl : Within 0x40000000 ps) (hx : x₀.Safe ps og s) :
    x₀.Safe ps og (s.modLink k f) := by
  unfold State.modLink
  try dsimp only
  repeat' first
    | with_reducible assumption | with_reducible apply State.Safe.upd_links

theorem State.linkEvent_safe (s : State) (k : Nat) (bit_ : Nat) (w1 : Nat) (w2 : Nat) (hl : Within 0x204 ps)
    (hx : x₀.Safe ps og s) : x₀.Safe ps og (s.linkEvent k bit_ w1 w2) := by
  unfold State.linkEvent
  try dsimp only
  repeat' first
    | with_reducible assumption | with_reducible apply State.raiseOnce_safe

theorem State.attRefuse_safe (s : State) (k : Nat) (f : Flit) (hl : Within 0x1000204 ps) (hx : x₀.Safe ps og s) :
    x₀.Safe ps og (s.attRefuse k f) := by
  unfold State.attRefuse
  try dsimp only
  repeat' first
    | with_reducible assumption | with_reducible apply State.refuse_safe

theorem State.emitLine_safe (s : State) (k : Nat) (c : Codeword) (inj : Nat) (only : Option Nat) (hl : Within 0x40000002 ps)
    (hx : x₀.Safe ps og s) : x₀.Safe ps og (s.emitLine k c inj only) := by
  unfold State.emitLine
  try dsimp only
  repeat' first
    | with_reducible assumption | exact hl.of rfl | with_reducible apply State.takeFree_safe
    | with_reducible apply State.modLink_safe | split

theorem State.emit_safe (s : State) (k : Nat) (x : Numbered) (hl : Within 0x40000002 ps) (hx : x₀.Safe ps og s) :
    x₀.Safe ps og (s.emit k x) := by
  unfold State.emit
  try dsimp only
  repeat' first
    | with_reducible assumption | exact hl.of rfl | with_reducible apply State.emitLine_safe
    | with_reducible apply State.modLink_safe | split

theorem State.emitAll_safe (s : State) (k : Nat) (xs : List Numbered) (hl : Within 0x40000002 ps) (hx : x₀.Safe ps og s) :
    x₀.Safe ps og (s.emitAll k xs) := by
  unfold State.emitAll
  try dsimp only
  repeat' first
    | with_reducible assumption | exact hl.of rfl | with_reducible apply each_safe | with_reducible apply State.modLink_safe
    | with_reducible apply State.emit_safe | split | intro _

theorem State.sendAll_safe (s : State) (k : Nat) (hl : Within 0x40000002 ps) (hx : x₀.Safe ps og s) :
    x₀.Safe ps og (s.sendAll k) := by
  unfold State.sendAll
  try dsimp only
  repeat' first
    | with_reducible assumption | exact hl.of rfl | with_reducible apply State.modLink_safe
    | with_reducible apply State.emitAll_safe

theorem State.resendAll_safe (s : State) (k : Nat) (hl : Within 0x40000006 ps) (hx : x₀.Safe ps og s) :
    x₀.Safe ps og (s.resendAll k) := by
  unfold State.resendAll
  try dsimp only
  repeat' first
    | with_reducible assumption | exact hl.of rfl | with_reducible apply State.emitAll_safe
    | with_reducible apply State.count_safe | with_reducible apply State.modLink_safe

theorem State.sendOne_safe (s : State) (k : Nat) (kind : Nat) (body : List Byte) (hl : Within 0x40000002 ps)
    (hx : x₀.Safe ps og s) : x₀.Safe ps og (s.sendOne k kind body) := by
  unfold State.sendOne
  try dsimp only
  repeat' first
    | with_reducible assumption | exact hl.of rfl | with_reducible apply State.modLink_safe
    | with_reducible apply State.emitAll_safe | split

theorem State.sendMgmt_safe (s : State) (k : Nat) (bytes : List Byte) (hl : Within 0x40000002 ps) (hx : x₀.Safe ps og s) :
    x₀.Safe ps og (s.sendMgmt k bytes) := by
  unfold State.sendMgmt
  try dsimp only
  repeat' first
    | with_reducible assumption | with_reducible apply State.sendOne_safe

theorem State.sendControl_safe (s : State) (k : Nat) (hl : Within 0x40000002 ps) (hx : x₀.Safe ps og s) :
    x₀.Safe ps og (s.sendControl k) := by
  unfold State.sendControl
  try dsimp only
  repeat' first
    | with_reducible assumption | with_reducible apply State.sendOne_safe

theorem State.dropWaiting_safe (s : State) (k : Nat) (hl : Within 0x41000204 ps) (hx : x₀.Safe ps og s) :
    x₀.Safe ps og (s.dropWaiting k) := by
  unfold State.dropWaiting
  try dsimp only
  repeat' first
    | with_reducible assumption | exact hl.of rfl | with_reducible apply State.modLink_safe | with_reducible apply each_safe
    | with_reducible apply State.attRefuse_safe | intro _

theorem State.dropLink_safe (s : State) (k : Nat) (hl : Within 0x41000204 ps) (hx : x₀.Safe ps og s) :
    x₀.Safe ps og (s.dropLink k) := by
  unfold State.dropLink
  try dsimp only
  repeat' first
    | with_reducible assumption | exact hl.of rfl | with_reducible apply State.modLink_safe
    | with_reducible apply State.dropWaiting_safe | with_reducible apply each_safe | with_reducible apply State.attRefuse_safe
    | intro _

theorem State.linkLeave_safe (s : State) (k : Nat) (dst : Nat) (down : Option Nat) (hl : Within 0x41000204 ps)
    (hx : x₀.Safe ps og s) : x₀.Safe ps og (s.linkLeave k dst down) := by
  unfold State.linkLeave
  try dsimp only
  repeat' first
    | with_reducible assumption | exact hl.of rfl | with_reducible apply State.dropLink_safe
    | with_reducible apply State.modLink_safe | with_reducible apply State.linkEvent_safe | split

theorem State.trainFail_safe (s : State) (k : Nat) (hl : Within 0x41000204 ps) (hx : x₀.Safe ps og s) :
    x₀.Safe ps og (s.trainFail k) := by
  unfold State.trainFail
  try dsimp only
  repeat' first
    | with_reducible assumption | exact hl.of rfl | with_reducible apply State.linkLeave_safe
    | with_reducible apply State.linkEvent_safe | split

theorem State.linkStop_safe (s : State) (k : Nat) (cause : Nat) (hl : Within 0x41000204 ps) (hx : x₀.Safe ps og s) :
    x₀.Safe ps og (s.linkStop k cause) := by
  unfold State.linkStop
  try dsimp only
  repeat' first
    | with_reducible assumption | with_reducible apply State.linkLeave_safe | split

theorem State.linkWake_safe (s : State) (k : Nat) (hl : Within 0x40000000 ps) (hx : x₀.Safe ps og s) :
    x₀.Safe ps og (s.linkWake k) := by
  unfold State.linkWake
  try dsimp only
  repeat' first
    | with_reducible assumption | with_reducible apply State.modLink_safe

theorem State.lnkCtlWrite_safe (s : State) (k : Nat) (v : Nat) (hl : Within 0x41000204 ps) (hx : x₀.Safe ps og s) :
    x₀.Safe ps og (s.lnkCtlWrite k v) := by
  unfold State.lnkCtlWrite
  try dsimp only
  repeat' first
    | with_reducible assumption | exact hl.of rfl | with_reducible apply State.rwWrite_safe
    | with_reducible apply State.linkWake_safe | with_reducible apply State.linkStop_safe
    | with_reducible apply State.linkLeave_safe | split

theorem execLinkEnable_safe (m : Master) (k : PortId) (v : Word32) (s : State) (hl : Within 0x41000206 ps)
    (hx : x₀.Safe ps og s) : x₀.SafeOut ps og (execLinkEnable m k v s) := by
  unfold execLinkEnable
  try dsimp only
  repeat' first
    | with_reducible assumption | exact hl.of rfl | with_reducible apply State.SafeOut.next
    | with_reducible apply State.guarded_safe | with_reducible apply State.lnkCtlWrite_safe | split | intro _

theorem execLinkDisable_safe (m : Master) (k : PortId) (v : Word32) (s : State) (hl : Within 0x41000206 ps)
    (hx : x₀.Safe ps og s) : x₀.SafeOut ps og (execLinkDisable m k v s) := by
  unfold execLinkDisable
  try dsimp only
  repeat' first
    | with_reducible assumption | exact hl.of rfl | with_reducible apply State.SafeOut.next
    | with_reducible apply State.guarded_safe | with_reducible apply State.lnkCtlWrite_safe | split | intro _

theorem State.sendConfig_safe (s : State) (k : Nat) (lanes : Nat) (hl : Within 0x40000002 ps) (hx : x₀.Safe ps og s) :
    x₀.Safe ps og (s.sendConfig k lanes) := by
  unfold State.sendConfig
  try dsimp only
  repeat' first
    | with_reducible assumption | with_reducible apply each_safe | with_reducible apply State.emitLine_safe | intro _

theorem State.enterConfig_safe (s : State) (k : Nat) (hl : Within 0x40000002 ps) (hx : x₀.Safe ps og s) :
    x₀.Safe ps og (s.enterConfig k) := by
  unfold State.enterConfig
  try dsimp only
  repeat' first
    | with_reducible assumption | exact hl.of rfl | with_reducible apply State.modLink_safe
    | with_reducible apply State.sendConfig_safe

theorem execSignalDetected_safe (k : PortId) (lanes : BitVec 16) (s : State) (hl : Within 0x40000000 ps)
    (hx : x₀.Safe ps og s) : x₀.SafeOut ps og (execSignalDetected k lanes s) := by
  unfold execSignalDetected
  try dsimp only
  repeat' first
    | with_reducible assumption | with_reducible apply State.SafeOut.next | with_reducible apply State.modLink_safe | split

theorem execLanesLocked_safe (k : PortId) (lanes : BitVec 16) (s : State) (hl : Within 0x40000002 ps) (hx : x₀.Safe ps og s) :
    x₀.SafeOut ps og (execLanesLocked k lanes s) := by
  unfold execLanesLocked
  try dsimp only
  repeat' first
    | with_reducible assumption | exact hl.of rfl | with_reducible apply State.SafeOut.next
    | with_reducible apply State.modLink_safe | with_reducible apply State.enterConfig_safe
    | with_reducible apply State.sendConfig_safe | split

theorem execLockTimeout_safe (k : PortId) (s : State) (hl : Within 0x41000206 ps) (hx : x₀.Safe ps og s) :
    x₀.SafeOut ps og (execLockTimeout k s) := by
  unfold execLockTimeout
  try dsimp only
  repeat' first
    | with_reducible assumption | exact hl.of rfl | with_reducible apply State.SafeOut.next
    | with_reducible apply State.enterConfig_safe | with_reducible apply State.trainFail_safe | split

theorem execConfigTimeout_safe (k : PortId) (s : State) (hl : Within 0x41000204 ps) (hx : x₀.Safe ps og s) :
    x₀.SafeOut ps og (execConfigTimeout k s) := by
  unfold execConfigTimeout
  try dsimp only
  repeat' first
    | with_reducible assumption | with_reducible apply State.SafeOut.next | with_reducible apply State.trainFail_safe | split

theorem execStepTimeout_safe (k : PortId) (failed : BitVec 16) (s : State) (hl : Within 0x41000204 ps) (hx : x₀.Safe ps og s) :
    x₀.SafeOut ps og (execStepTimeout k failed s) := by
  unfold execStepTimeout
  try dsimp only
  repeat' first
    | with_reducible assumption | exact hl.of rfl | with_reducible apply State.SafeOut.next
    | with_reducible apply State.trainFail_safe | with_reducible apply State.modLink_safe
    | with_reducible apply State.linkEvent_safe | split

theorem State.startRetrain_safe (s : State) (k : Nat) (hl : Within 0x40000000 ps) (hx : x₀.Safe ps og s) :
    x₀.Safe ps og (s.startRetrain k) := by
  unfold State.startRetrain
  try dsimp only
  repeat' first
    | with_reducible assumption | with_reducible apply State.modLink_safe

theorem execMarkerLockLoss_safe (k : PortId) (lane : Fin 16) (s : State) (hl : Within 0x40000000 ps) (hx : x₀.Safe ps og s) :
    x₀.SafeOut ps og (execMarkerLockLoss k lane s) := by
  unfold execMarkerLockLoss
  try dsimp only
  repeat' first
    | with_reducible assumption | with_reducible apply State.SafeOut.next | with_reducible apply State.startRetrain_safe
    | with_reducible apply State.modLink_safe | split

theorem State.enterMismatch_safe (s : State) (k : Nat) (cause : Nat) (w2 : Nat) (hl : Within 0x41000206 ps)
    (hx : x₀.Safe ps og s) : x₀.Safe ps og (s.enterMismatch k cause w2) := by
  unfold State.enterMismatch
  try dsimp only
  repeat' first
    | with_reducible assumption | exact hl.of rfl | with_reducible apply State.modLink_safe
    | with_reducible apply State.resendAll_safe | with_reducible apply State.dropWaiting_safe
    | with_reducible apply State.linkEvent_safe | split

theorem State.enterUp_safe (s : State) (k : Nat) (hl : Within 0x40000206 ps) (hx : x₀.Safe ps og s) :
    x₀.Safe ps og (s.enterUp k) := by
  unfold State.enterUp
  try dsimp only
  repeat' first
    | with_reducible assumption | exact hl.of rfl | with_reducible apply State.modLink_safe
    | with_reducible apply State.resendAll_safe | with_reducible apply State.sendAll_safe
    | with_reducible apply State.linkEvent_safe | split

theorem State.trained_safe (s : State) (k : Nat) (hl : Within 0x41000206 ps) (hx : x₀.Safe ps og s) :
    x₀.Safe ps og (s.trained k) := by
  unfold State.trained
  try dsimp only
  repeat' first
    | with_reducible assumption | exact hl.of rfl | with_reducible apply State.enterMismatch_safe
    | with_reducible apply State.modLink_safe | with_reducible apply State.enterUp_safe | split

theorem State.fpIn_safe (s : State) (k : Nat) (fp : Nat) (hl : Within 0x41000206 ps) (hx : x₀.Safe ps og s) :
    x₀.Safe ps og (s.fpIn k fp) := by
  unfold State.fpIn
  try dsimp only
  repeat' first
    | with_reducible assumption | exact hl.of rfl | with_reducible apply State.modLink_safe
    | with_reducible apply State.setReg_safe | with_reducible apply State.enterMismatch_safe
    | with_reducible apply State.enterUp_safe | split

theorem State.showPeer_safe (s : State) (k : Nat) (p : PeerConfig) (hl : Within 0x4 ps) (hx : x₀.Safe ps og s) :
    x₀.Safe ps og (s.showPeer k p) := by
  unfold State.showPeer
  try dsimp only
  repeat' first
    | with_reducible assumption | with_reducible apply State.setReg_safe

theorem execConfig_safe (k : PortId) (peer : PeerConfig) (s : State) (hl : Within 0x41000206 ps) (hx : x₀.Safe ps og s) :
    x₀.SafeOut ps og (execConfig k peer s) := by
  unfold execConfig
  try dsimp only
  repeat' first
    | with_reducible assumption | exact hl.of rfl | with_reducible apply State.SafeOut.next
    | with_reducible apply State.fpIn_safe | with_reducible apply State.showPeer_safe | with_reducible apply State.modLink_safe
    | with_reducible apply State.setReg_safe | with_reducible apply State.trained_safe
    | with_reducible apply State.enterConfig_safe | split

theorem State.nakOut_safe (s : State) (k : Nat) (hl : Within 0x40000002 ps) (hx : x₀.Safe ps og s) :
    x₀.Safe ps og (s.nakOut k) := by
  unfold State.nakOut
  try dsimp only
  repeat' first
    | with_reducible assumption | exact hl.of rfl | with_reducible apply State.sendControl_safe
    | with_reducible apply State.modLink_safe

theorem State.takeWord_safe (s : State) (k : Nat) (c : Codeword) (hl : Within 0x40000002 ps) (hx : x₀.Safe ps og s) :
    x₀.Safe ps og (s.takeWord k c) := by
  unfold State.takeWord
  try dsimp only
  repeat' first
    | with_reducible assumption | exact hl.of rfl | with_reducible apply State.modLink_safe
    | with_reducible apply State.sendControl_safe | split

theorem State.decoded_safe (s : State) (k : Nat) (l : Link) (number : Word32) (got : Option (Codeword × Nat))
    (hl : Within 0x40000006 ps) (hx : x₀.Safe ps og s) : x₀.Safe ps og (s.decoded k l number got) := by
  unfold State.decoded
  try dsimp only
  repeat' first
    | with_reducible assumption | exact hl.of rfl | with_reducible apply State.nakOut_safe
    | with_reducible apply State.count_safe | with_reducible apply State.startRetrain_safe
    | with_reducible apply State.takeWord_safe | split

theorem execCodeword_safe (k : PortId) (number : Word32) (line : List (Fin 4)) (s : State) (skew : (Fin 16))
    (hl : Within 0x40000006 ps) (hx : x₀.Safe ps og s) : x₀.SafeOut ps og (execCodeword k number line s skew) := by
  unfold execCodeword
  try dsimp only
  repeat' first
    | with_reducible assumption | exact hl.of rfl | with_reducible apply State.SafeOut.next
    | with_reducible apply State.count_safe | with_reducible apply State.modLink_safe
    | with_reducible apply State.startRetrain_safe | with_reducible apply State.decoded_safe | split

theorem State.nakIn_safe (s : State) (k : Nat) (hl : Within 0x40000006 ps) (hx : x₀.Safe ps og s) : x₀.Safe ps og (s.nakIn k) := by
  unfold State.nakIn
  try dsimp only
  repeat' first
    | with_reducible assumption | exact hl.of rfl | with_reducible apply State.resendAll_safe
    | with_reducible apply State.modLink_safe | with_reducible apply State.startRetrain_safe | split

theorem execControl_safe (k : PortId) (ackNo : Word32) (nak : Bool) (credits : List Nat) (s : State)
    (hl : Within 0x41000206 ps) (hx : x₀.Safe ps og s) : x₀.SafeOut ps og (execControl k ackNo nak credits s) := by
  unfold execControl
  try dsimp only
  repeat' first
    | with_reducible assumption | exact hl.of rfl | with_reducible apply State.SafeOut.next
    | with_reducible apply State.countHalf_safe | with_reducible apply State.modLink_safe | with_reducible apply each_safe
    | with_reducible apply State.respond_safe | with_reducible apply State.nakIn_safe | with_reducible apply State.sendAll_safe
    | split | intro _

theorem execFlit_safe (k : PortId) (f : Flit) (s : State) (hl : Within 0x41000204 ps) (hx : x₀.Safe ps og s) :
    x₀.SafeOut ps og (execFlit k f s) := by
  unfold execFlit
  try dsimp only
  repeat' first
    | with_reducible assumption | exact hl.of rfl | with_reducible apply State.SafeOut.next
    | with_reducible apply State.modLink_safe | with_reducible apply State.countHalf_safe
    | with_reducible apply State.send_safe | split

theorem execFp_safe (k : PortId) (fp64 : Word64) (epoch : Word32) (s : State) (hl : Within 0x41000206 ps)
    (hx : x₀.Safe ps og s) : x₀.SafeOut ps og (execFp k fp64 epoch s) := by
  unfold execFp
  try dsimp only
  repeat' first
    | with_reducible assumption | exact hl.of rfl | with_reducible apply State.SafeOut.next
    | with_reducible apply State.fpIn_safe | with_reducible apply State.modLink_safe | split

theorem execFpSend_safe (k : PortId) (s : State) (hl : Within 0x40000002 ps) (hx : x₀.Safe ps og s) :
    x₀.SafeOut ps og (execFpSend k s) := by
  unfold execFpSend
  try dsimp only
  repeat' first
    | with_reducible assumption | with_reducible apply State.SafeOut.next | with_reducible apply State.sendMgmt_safe | split

theorem execSleepIdle_safe (k : PortId) (s : State) (hl : Within 0x40000002 ps) (hx : x₀.Safe ps og s) :
    x₀.SafeOut ps og (execSleepIdle k s) := by
  unfold execSleepIdle
  try dsimp only
  repeat' first
    | with_reducible assumption | exact hl.of rfl | with_reducible apply State.SafeOut.next
    | with_reducible apply State.sendMgmt_safe | with_reducible apply State.modLink_safe | split

theorem execSleepReq_safe (k : PortId) (s : State) (hl : Within 0x40000002 ps) (hx : x₀.Safe ps og s) :
    x₀.SafeOut ps og (execSleepReq k s) := by
  unfold execSleepReq
  try dsimp only
  repeat' first
    | with_reducible assumption | exact hl.of rfl | with_reducible apply State.SafeOut.next
    | with_reducible apply State.modLink_safe | with_reducible apply State.sendMgmt_safe | split

theorem execSleepAck_safe (k : PortId) (s : State) (hl : Within 0x40000000 ps) (hx : x₀.Safe ps og s) :
    x₀.SafeOut ps og (execSleepAck k s) := by
  unfold execSleepAck
  try dsimp only
  repeat' first
    | with_reducible assumption | with_reducible apply State.SafeOut.next | with_reducible apply State.modLink_safe | split

theorem execWakeBurst_safe (k : PortId) (s : State) (hl : Within 0x40000000 ps) (hx : x₀.Safe ps og s) :
    x₀.SafeOut ps og (execWakeBurst k s) := by
  unfold execWakeBurst
  try dsimp only
  repeat' first
    | with_reducible assumption | with_reducible apply State.SafeOut.next | with_reducible apply State.linkWake_safe | split

theorem execLinkWakeTimeout_safe (k : PortId) (s : State) (hl : Within 0x41000204 ps) (hx : x₀.Safe ps og s) :
    x₀.SafeOut ps og (execLinkWakeTimeout k s) := by
  unfold execLinkWakeTimeout
  try dsimp only
  repeat' first
    | with_reducible assumption | with_reducible apply State.SafeOut.next | with_reducible apply State.linkLeave_safe | split

theorem execFecInj_safe (m : Master) (k : PortId) (v : Word32) (s : State) (hl : Within 0x40000206 ps) (hx : x₀.Safe ps og s) :
    x₀.SafeOut ps og (execFecInj m k v s) := by
  unfold execFecInj
  try dsimp only
  repeat' first
    | with_reducible assumption | exact hl.of rfl | with_reducible apply State.SafeOut.next
    | with_reducible apply State.guarded_safe | with_reducible apply State.modLink_safe | split | intro _

theorem State.laneWrite_safe (s : State) (k : Nat) (lane : Nat) (v : Nat) (hl : Within 0x40000004 ps) (hx : x₀.Safe ps og s) :
    x₀.Safe ps og (s.laneWrite k lane v) := by
  unfold State.laneWrite
  try dsimp only
  repeat' first
    | with_reducible assumption | exact hl.of rfl | with_reducible apply State.rwWrite_safe
    | with_reducible apply State.modLink_safe | split

theorem execInjOne_safe (m : Master) (k : PortId) (lane : Fin 16) (v : Word32) (s : State) (hl : Within 0x40000206 ps)
    (hx : x₀.Safe ps og s) : x₀.SafeOut ps og (execInjOne m k lane v s) := by
  unfold execInjOne
  try dsimp only
  repeat' first
    | with_reducible assumption | exact hl.of rfl | with_reducible apply State.SafeOut.next
    | with_reducible apply State.guarded_safe | with_reducible apply State.laneWrite_safe | split | intro _

theorem State.genPeriod_safe (s : State) (k : Nat) (hl : Within 0x40000000 ps) (hx : x₀.Safe ps og s) :
    x₀.Safe ps og (s.genPeriod k) := by
  unfold State.genPeriod
  try dsimp only
  repeat' first
    | with_reducible assumption | with_reducible apply each_safe | with_reducible apply State.modLink_safe | split | intro _

theorem State.linkPeriod_safe (s : State) (k : Nat) (hl : Within 0x40000002 ps) (hx : x₀.Safe ps og s) :
    x₀.Safe ps og (s.linkPeriod k) := by
  unfold State.linkPeriod
  try dsimp only
  repeat' first
    | with_reducible assumption | exact hl.of rfl | with_reducible apply State.modLink_safe | with_reducible apply each_safe
    | with_reducible apply State.emitLine_safe | with_reducible apply State.sendConfig_safe
    | with_reducible apply State.sendControl_safe | with_reducible apply State.genPeriod_safe | split | intro _

theorem execPatternCheck_safe (k : PortId) (lane : Fin 16) (received : List Bool) (s : State) (hl : Within 0x40000004 ps)
    (hx : x₀.Safe ps og s) : x₀.SafeOut ps og (execPatternCheck k lane received s) := by
  unfold execPatternCheck
  try dsimp only
  repeat' first
    | with_reducible assumption | exact hl.of rfl | with_reducible apply State.SafeOut.next
    | with_reducible apply State.modLink_safe | with_reducible apply State.count_safe | split

theorem State.msgLink_safe (s : State) (k : Nat) (a : Nat) (f : Flit) (hl : Within 0x41000206 ps) (hx : x₀.Safe ps og s) :
    x₀.Safe ps og (s.msgLink k a f) := by
  unfold State.msgLink
  try dsimp only
  repeat' first
    | with_reducible assumption | exact hl.of rfl | with_reducible apply State.attRefuse_safe
    | with_reducible apply State.takeArrived_safe | with_reducible apply State.linkWake_safe
    | with_reducible apply State.modLink_safe | with_reducible apply State.sendAll_safe | split

theorem State.msgEndpoint_safe (s : State) (f : Flit) (hl : Within 0x5000204 ps) (hx : x₀.Safe ps og s) :
    x₀.Safe ps og (s.msgEndpoint f) := by
  unfold State.msgEndpoint
  try dsimp only
  repeat' first
    | with_reducible assumption | exact hl.of rfl | with_reducible apply State.refuse_safe
    | with_reducible apply State.takeArrived_safe | with_reducible apply State.setEnd_safe | split

theorem execMsg_safe (f : Flit) (s : State) (hl : Within 0x45000206 ps) (hx : x₀.Safe ps og s) :
    x₀.SafeOut ps og (execMsg f s) := by
  unfold execMsg
  try dsimp only
  repeat' first
    | with_reducible assumption | exact hl.of rfl | with_reducible apply State.SafeOut.next
    | with_reducible apply State.send_safe | with_reducible apply State.takeArrived_safe
    | with_reducible apply State.msgLink_safe | with_reducible apply State.modNet_safe
    | with_reducible apply State.respond_safe | with_reducible apply State.badOp_safe
    | with_reducible apply State.msgEndpoint_safe | with_reducible apply State.noEndpoint_safe | split
    | with_reducible refine State.turnedAway_safe _ _ ?_ ?_ (by with_reducible assumption)

end Sys2Proof.Machine
end

