-- ==== Sys2Proof/Laws/SafeSecurity.lean ====
section
/-! SUPPORT. The operations of Machine/Security.lean keep what Laws/Keeps.lean calls Safe. -/

namespace Sys2Proof.Machine

variable {x₀ : State} {ps : Nat} {og : Option Nat}

theorem State.modSec_safe (s : State) (f : Sec → Sec) (h1 : ∀ z, (f z).fuses = z.fuses) (h2 : ∀ z, (f z).straps = z.straps)
    (hl : Within 0x10000000 ps) (hx : x₀.Safe ps og s) : x₀.Safe ps og (s.modSec f) :=
  hx.upd_sec hl (h1 _) (h2 _)

theorem State.modBoard_safe (s : State) (f : Board → Board) (h1 : ∀ z, (f z).flash = z.flash) (hl : Within 0x20000000 ps)
    (hx : x₀.Safe ps og s) : x₀.Safe ps og (s.modBoard f) :=
  hx.upd_board hl (h1 _)

theorem State.modFuse_safe (s : State) (k : Nat) (f : FuseSlot → FuseSlot) (hf : ∀ a, FuseSlot.within k a (f a))
    (hl : Within 0x10000000 ps) (hx : x₀.Safe ps og s) : x₀.Safe ps og (s.modFuse k f) := by
  refine hx.trans ⟨⟨rfl, id, fun j => ?_, Nat.le_refl _⟩, ⟨fun _ hb => hb, rfl, rfl⟩,
    State.Only.of hl (fun p hp => by cases p <;> first | rfl | contradiction) (.inr rfl)⟩
  show FuseSlot.within j (Tab.get {} s.sec.fuses j) (Tab.get {} (Tab.upd {} s.sec.fuses k f) j)
  by_cases hj : j = k
  · subst j
    have h := hf (Tab.get {} s.sec.fuses k)
    rw [Tab.get_upd_same]; exact h
  · rw [Tab.get_upd_ne _ _ _ hj]; exact FuseSlot.within_refl _ _

theorem bit_or (a b i : Nat) (h : bit a i = true) : bit (a ||| b) i = true := by
  have e : ∀ v, bit v i = v.testBit i := by
    intro v; simp [bit, Nat.testBit_eq_decide_div_mod_eq, Bool.beq_eq_decide_eq]
  rw [e] at h ⊢
  simp [Nat.testBit_or, h]

/-- Bits that are added to a slot leave the others blown. -/
theorem FuseSlot.within_or (k : Nat) (a : FuseSlot) (x : Nat) : FuseSlot.within k a { a with val := a.val ||| x, set := true } := by
  refine ⟨id, fun _ => rfl, ?_⟩
  split
  · exact Nat.left_le_or
  · exact fun i h => bit_or _ _ _ h

/-- A thermometer slot counts up. -/
theorem FuseSlot.within_up {k : Nat} (a : FuseSlot) {x : Nat} (hk : 6 ≤ k) (h : a.val ≤ x) :
    FuseSlot.within k a { a with val := x, set := true } := by
  refine ⟨id, fun _ => rfl, ?_⟩
  simp only [hk, if_true]
  exact h

theorem State.fuseResult_safe (s : State) (slot : Nat) (result : Nat) (hl : Within 0x10000204 ps) (hx : x₀.Safe ps og s) :
    x₀.Safe ps og (s.fuseResult slot result) := by
  unfold State.fuseResult
  try dsimp only
  repeat' first
    | with_reducible assumption | exact hl.of rfl | with_reducible rfl | with_reducible apply State.raiseOnce_safe
    | with_reducible apply State.modSec_safe | intro _

theorem State.blow_safe (s : State) (j : FuseJob) (hl : Within 0x10000000 ps) (hx : x₀.Safe ps og s) : x₀.Safe ps og (s.blow j) := by
  unfold State.blow
  split
  · dsimp only
    split
    · exact State.modFuse_safe _ _ _ (fun a => FuseSlot.within_up a ‹_› (Nat.le_max_left _ _)) (hl.of rfl) hx
    · exact State.modFuse_safe _ _ _ (fun a => FuseSlot.within_or _ a _) (hl.of rfl) hx
  · exact State.modFuse_safe _ _ _ (fun a => FuseSlot.within_or _ a _) (hl.of rfl) hx
  · exact State.modFuse_safe _ _ _ (fun a => ⟨fun _ => rfl, id, (FuseSlot.within_refl _ a).2.2⟩) (hl.of rfl) hx
  · exact State.modFuse_safe _ _ _ (fun a => FuseSlot.within_or _ a _) (hl.of rfl) hx

theorem State.blowSome_safe (s : State) (j : FuseJob) (hl : Within 0x10000002 ps) (hx : x₀.Safe ps og s) : x₀.Safe ps og
    (s.blowSome j) := by
  have ht := State.takeFree_safe s (hl.of rfl) hx
  unfold State.blowSome
  dsimp only
  split
  · split
    · exact State.modFuse_safe _ _ _ (fun a => FuseSlot.within_up a ‹_› (Nat.le_add_right _ _)) (hl.of rfl) ht
    · split
      · exact ht
      · exact State.modFuse_safe _ _ _ (fun a => FuseSlot.within_or _ a _) (hl.of rfl) ht
  · exact State.modFuse_safe _ _ _ (fun a => FuseSlot.within_or _ a _) (hl.of rfl) ht
  · exact ht

theorem State.fuseProg_safe (s : State) (m : Master) (v : Nat) (hl : Within 0x10000206 ps) (hx : x₀.Safe ps og s) :
    x₀.Safe ps og (s.fuseProg m v) := by
  unfold State.fuseProg
  try dsimp only
  repeat' first
    | with_reducible assumption | exact hl.of rfl | with_reducible rfl | with_reducible apply State.fuseResult_safe
    | with_reducible apply State.takeFree_safe | with_reducible apply State.modSec_safe | split | intro _

theorem State.fuseKind_safe (s : State) (m : Master) (v : Word32) (kind : Nat) (hl : Within 0x10000206 ps)
    (hx : x₀.Safe ps og s) : x₀.SafeOut ps og (s.fuseKind m v kind) := by
  unfold State.fuseKind
  try dsimp only
  repeat' first
    | with_reducible assumption | exact hl.of rfl | with_reducible apply State.SafeOut.next
    | with_reducible apply State.guarded_safe | with_reducible apply State.fuseProg_safe | split | intro _

theorem execFuseValue_safe (m : Master) (v : Word32) (s : State) (hl : Within 0x10000206 ps) (hx : x₀.Safe ps og s) :
    x₀.SafeOut ps og (execFuseValue m v s) := by
  unfold execFuseValue
  try dsimp only
  repeat' first
    | with_reducible assumption | with_reducible apply State.fuseKind_safe

theorem execFuseFill_safe (m : Master) (v : Word32) (s : State) (hl : Within 0x10000206 ps) (hx : x₀.Safe ps og s) :
    x₀.SafeOut ps og (execFuseFill m v s) := by
  unfold execFuseFill
  try dsimp only
  repeat' first
    | with_reducible assumption | with_reducible apply State.fuseKind_safe

theorem execFuseRevoke_safe (m : Master) (v : Word32) (s : State) (hl : Within 0x10000206 ps) (hx : x₀.Safe ps og s) :
    x₀.SafeOut ps og (execFuseRevoke m v s) := by
  unfold execFuseRevoke
  try dsimp only
  repeat' first
    | with_reducible assumption | with_reducible apply State.fuseKind_safe

theorem execFuseState_safe (m : Master) (v : Word32) (s : State) (hl : Within 0x10000206 ps) (hx : x₀.Safe ps og s) :
    x₀.SafeOut ps og (execFuseState m v s) := by
  unfold execFuseState
  try dsimp only
  repeat' first
    | with_reducible assumption | with_reducible apply State.fuseKind_safe

theorem State.fuseDone_safe (s : State) (j : FuseJob) (verified : Bool) (hl : Within 0x10000206 ps) (hx : x₀.Safe ps og s) :
    x₀.Safe ps og (s.fuseDone j verified) := by
  unfold State.fuseDone
  try dsimp only
  repeat' first
    | with_reducible assumption | exact hl.of rfl | with_reducible apply State.fuseResult_safe
    | with_reducible apply State.blow_safe | with_reducible apply State.blowSome_safe | split

theorem execFuseProgrammed_safe (verified : Bool) (s : State) (hl : Within 0x10000206 ps) (hx : x₀.Safe ps og s) :
    x₀.SafeOut ps og (execFuseProgrammed verified s) := by
  unfold execFuseProgrammed
  try dsimp only
  repeat' first
    | with_reducible assumption | with_reducible apply State.SafeOut.next | with_reducible apply State.fuseDone_safe | split

theorem State.bkeyCtl_safe (s : State) (v : Nat) (hl : Within 0x10000000 ps) (hx : x₀.Safe ps og s) :
    x₀.Safe ps og (s.bkeyCtl v) := by
  unfold State.bkeyCtl
  try dsimp only
  repeat' first
    | with_reducible assumption | with_reducible rfl | with_reducible apply State.modSec_safe | split | intro _

theorem State.bkeyOp_safe (s : State) (m : Master) (v : Word32) (op : Nat) (hl : Within 0x10000206 ps) (hx : x₀.Safe ps og s) :
    x₀.SafeOut ps og (s.bkeyOp m v op) := by
  unfold State.bkeyOp
  try dsimp only
  repeat' first
    | with_reducible assumption | exact hl.of rfl | with_reducible apply State.SafeOut.next
    | with_reducible apply State.guarded_safe | with_reducible apply State.bkeyCtl_safe | split | intro _

theorem execBkeyStore_safe (m : Master) (v : Word32) (s : State) (hl : Within 0x10000206 ps) (hx : x₀.Safe ps og s) :
    x₀.SafeOut ps og (execBkeyStore m v s) := by
  unfold execBkeyStore
  try dsimp only
  repeat' first
    | with_reducible assumption | with_reducible apply State.bkeyOp_safe

theorem execBkeyZero_safe (m : Master) (v : Word32) (s : State) (hl : Within 0x10000206 ps) (hx : x₀.Safe ps og s) :
    x₀.SafeOut ps og (execBkeyZero m v s) := by
  unfold execBkeyZero
  try dsimp only
  repeat' first
    | with_reducible assumption | with_reducible apply State.bkeyOp_safe

theorem State.bootFrom_safe (s : State) (l : List BootSource) (hl : Within 0x4010000206 ps)
    (hx : x₀.Safe ps og s) : x₀.Safe ps og (s.bootFrom l) := by
  induction l generalizing s with
  | nil => exact State.Safe.upd_fw (State.modSec_safe _ _ (fun _ => rfl) (fun _ => rfl) (hl.of rfl) hx) (hl.of rfl)
  | cons b t ih =>
    simp only [State.bootFrom]
    split
    · exact ih _ (State.raiseOnce_safe _ _ _ _ _ _ _ _ (hl.of rfl) hx)
    · refine State.Safe.upd_fw (State.modSec_safe _ _ (fun _ => rfl) (fun _ => rfl) (hl.of rfl) ?_) (hl.of rfl)
      exact State.takeFree_safe _ (hl.of rfl) (State.setReg_safe _ _ _ _ _ (hl.of rfl) (State.setRegBytes_safe _ _ _ (hl.of rfl) hx))

theorem execBoot_safe (s : State) (hl : Within 0x4010000206 ps) (hx : x₀.Safe ps og s) : x₀.SafeOut ps og (execBoot s) := by
  unfold execBoot
  try dsimp only
  repeat' first
    | with_reducible assumption | with_reducible apply State.SafeOut.next | with_reducible apply State.bootFrom_safe | split

theorem State.bootAgain_safe (s : State) (hl : Within 0x4010000206 ps) (hx : x₀.Safe ps og s) : x₀.Safe ps og (s.bootAgain) := by
  unfold State.bootAgain
  try dsimp only
  repeat' first
    | with_reducible assumption | with_reducible apply State.bootFrom_safe | split

theorem State.newNonce_safe (s : State) (hl : Within 0x6 ps) (hx : x₀.Safe ps og s) : x₀.Safe ps og (s.newNonce) := by
  unfold State.newNonce
  try dsimp only
  repeat' first
    | with_reducible assumption | exact hl.of rfl | with_reducible apply each_safe | with_reducible apply State.takeFree_safe
    | with_reducible apply State.setReg_safe | intro _

theorem State.jtagSet_safe (s : State) (code : Nat) (dr : Nat) (cells : List Bool) (hl : Within 0xa0000000 ps)
    (hx : x₀.Safe ps og s) : x₀.Safe ps og (s.jtagSet code dr cells) := by
  unfold State.jtagSet
  try dsimp only
  repeat' first
    | with_reducible assumption | exact hl.of rfl | with_reducible rfl | with_reducible apply State.modBoard_safe | intro _
    | with_reducible apply State.Safe.upd_said

theorem State.jtagRefuse_safe (s : State) (code : Nat) (hl : Within 0xa0000204 ps) (hx : x₀.Safe ps og s) :
    x₀.Safe ps og (s.jtagRefuse code) := by
  unfold State.jtagRefuse
  try dsimp only
  repeat' first
    | with_reducible assumption | exact hl.of rfl | with_reducible apply State.raiseOnce_safe
    | with_reducible apply State.jtagSet_safe

theorem execExtest_safe (s : State) (hl : Within 0xa0000206 ps) (hx : x₀.Safe ps og s) : x₀.SafeOut ps og (execExtest s) := by
  unfold execExtest
  try dsimp only
  repeat' first
    | with_reducible assumption | exact hl.of rfl | with_reducible apply State.SafeOut.next
    | with_reducible apply State.takeFree_safe | with_reducible apply State.jtagSet_safe
    | with_reducible apply State.jtagRefuse_safe | split

theorem execIdcode_safe (s : State) (hl : Within 0xa0000000 ps) (hx : x₀.Safe ps og s) : x₀.SafeOut ps og (execIdcode s) := by
  unfold execIdcode
  try dsimp only
  repeat' first
    | with_reducible assumption | with_reducible apply State.SafeOut.next | with_reducible apply State.jtagSet_safe

theorem execSamplePreload_safe (cells : List Bool) (s : State) (hl : Within 0xa0000206 ps) (hx : x₀.Safe ps og s) :
    x₀.SafeOut ps og (execSamplePreload cells s) := by
  unfold execSamplePreload
  try dsimp only
  repeat' first
    | with_reducible assumption | exact hl.of rfl | with_reducible rfl | with_reducible apply State.SafeOut.next
    | with_reducible apply State.modBoard_safe | with_reducible apply State.takeFree_safe
    | with_reducible apply State.jtagSet_safe | with_reducible apply State.jtagRefuse_safe | split | intro _

theorem execBypass_safe (s : State) (hl : Within 0xa0000000 ps) (hx : x₀.Safe ps og s) : x₀.SafeOut ps og (execBypass s) := by
  unfold execBypass
  try dsimp only
  repeat' first
    | with_reducible assumption | with_reducible apply State.SafeOut.next | with_reducible apply State.jtagSet_safe

theorem execTestLogicReset_safe (s : State) (hl : Within 0x20000000 ps) (hx : x₀.Safe ps og s) :
    x₀.SafeOut ps og (execTestLogicReset s) := by
  unfold execTestLogicReset
  try dsimp only
  repeat' first
    | with_reducible assumption | with_reducible rfl | with_reducible apply State.SafeOut.next
    | with_reducible apply State.modBoard_safe | intro _

end Sys2Proof.Machine
end

