-- ==== Sys2Proof/Laws/SafePower.lean ====
section
/-! SUPPORT. The operations of Machine/Power.lean keep what Laws/Keeps.lean calls Safe. -/

namespace Sys2Proof.Machine

variable {x₀ : State} {ps : Nat} {og : Option Nat}

theorem State.modEng_safe (s : State) (f : Eng → Eng) (hl : Within 0x80000000000 ps) (hx : x₀.Safe ps og s) :
    x₀.Safe ps og (s.modEng f) := by
  unfold State.modEng
  try dsimp only
  repeat' first
    | with_reducible assumption | with_reducible apply State.Safe.upd_eng

theorem State.warnInput_safe (s : State) (b : Nat) (fab : Bool) (on : Bool) (hl : Within 0x4000000 ps) (hx : x₀.Safe ps og s) :
    x₀.Safe ps og (s.warnInput b fab on) := by
  unfold State.warnInput
  try dsimp only
  repeat' first
    | with_reducible assumption | with_reducible apply State.modFab_safe

theorem State.endWarn_safe (s : State) (b : Nat) (fab : Bool) (reset : Bool) (hl : Within 0x80004000004 ps)
    (hx : x₀.Safe ps og s) : x₀.Safe ps og (s.endWarn b fab reset) := by
  unfold State.endWarn
  try dsimp only
  repeat' first
    | with_reducible assumption | exact hl.of rfl | with_reducible apply State.warnInput_safe
    | with_reducible apply State.modEng_safe | with_reducible apply State.setReg_safe | split

theorem wf_foldl_set {α β : Type} [DecidableEq β] {d : β} (l : List α) (k : α → Nat) (v : α → β) (t : Tab β) (h : Tab.wf d t = true) :
    Tab.wf d (l.foldl (fun x e => Tab.set d x (k e) (v e)) t) = true := by
  induction l generalizing t with
  | nil => exact h
  | cons a l ih => exact ih _ (Tab.wf_set _ _ h)

theorem State.copyMem_safe (s : State) (src dst n : Nat) (hl : Within 0x30 ps) (hx : x₀.Safe ps og s) : x₀.Safe ps og
    (s.copyMem src dst n) := by
  refine hx.trans ⟨⟨rfl, fun hc => ?_, fun k => FuseSlot.within_refl k _, Nat.le_refl _⟩, ⟨fun _ hb => hb, rfl, rfl⟩,
    State.Only.of hl (fun p hp => by cases p <;> first | rfl | contradiction) (.inr rfl)⟩
  rw [State.canonical_iff] at hc ⊢
  exact ⟨⟨wf_foldl_set _ _ _ _ (Tab.wf_filter _ hc.1.1), wf_foldl_set _ _ _ _ (Tab.wf_filter _ hc.1.2)⟩, hc.2⟩

theorem State.markRerun_safe (s : State) (r : Nat) (cause : Nat) (hl : Within 0x204234 ps) (ho : og = none)
    (hx : x₀.Safe ps og s) : x₀.Safe ps og (s.markRerun r cause) := by
  unfold State.markRerun
  try dsimp only
  repeat' first
    | with_reducible assumption | exact hl.of rfl | with_reducible apply State.modJob_safe
    | with_reducible apply State.abandonJob_safe | with_reducible apply each_safe | with_reducible apply State.causeFor_safe
    | intro _

theorem State.fenceJobs_safe (s : State) (b : Nat) (hl : Within 0x204234 ps) (ho : og = none) (hx : x₀.Safe ps og s) :
    x₀.Safe ps og (s.fenceJobs b) := by
  unfold State.fenceJobs
  try dsimp only
  repeat' first
    | with_reducible assumption | with_reducible apply each_safe | with_reducible apply State.markRerun_safe | intro _

theorem State.dropBay_safe (s : State) (b : Nat) (hl : Within 0x61fc030 ps) (ho : og = none) (hx : x₀.Safe ps og s) :
    x₀.Safe ps og (s.dropBay b) := by
  unfold State.dropBay
  try dsimp only
  repeat' first
    | with_reducible assumption | exact hl.of rfl | with_reducible apply State.discard_safe
    | with_reducible apply State.Safe.upd_stalls_cells_takeQ_reportQ_answers_tokens_bayTlb_hbms_fabs

theorem State.dropNet_safe (s : State) (b : Nat) (hl : Within 0x1000204 ps) (hx : x₀.Safe ps og s) :
    x₀.Safe ps og (s.dropNet b) := by
  unfold State.dropNet
  try dsimp only
  repeat' first
    | with_reducible assumption | exact hl.of rfl | with_reducible apply State.modNet_safe | with_reducible apply each_safe
    | with_reducible apply State.closeEnd_safe | with_reducible apply State.sweep_safe | intro _

theorem State.fencePads_safe (s : State) (b : Nat) (hl : Within 0xd004204 ps) (ho : og = none) (hx : x₀.Safe ps og s) :
    x₀.Safe ps og (s.fencePads b) := by
  unfold State.fencePads
  try dsimp only
  repeat' first
    | with_reducible assumption | exact hl.of rfl | with_reducible apply State.loadAbort_safe | with_reducible apply each_safe
    | with_reducible apply State.modCfg_safe | with_reducible apply State.isolate_safe | split | intro _

theorem State.railsOff_safe (s : State) (b : Nat) (hl : Within 0x80024000004 ps) (hx : x₀.Safe ps og s) :
    x₀.Safe ps og (s.railsOff b) := by
  unfold State.railsOff
  try dsimp only
  repeat' first
    | with_reducible assumption | exact hl.of rfl | with_reducible rfl | with_reducible apply State.endWarn_safe
    | with_reducible apply State.setReg_safe | with_reducible apply State.modEng_safe
    | with_reducible apply State.modBoard_safe | intro _

theorem State.moveJournals_safe (s : State) (b : Nat) (hl : Within 0x400030 ps) (hx : x₀.Safe ps og s) :
    x₀.Safe ps og (s.moveJournals b) := by
  unfold State.moveJournals
  try dsimp only
  repeat' first
    | with_reducible assumption | exact hl.of rfl | with_reducible apply each_safe | with_reducible apply State.modQueue_safe
    | with_reducible apply State.copyMem_safe | split | intro _

theorem State.fenceBay_safe (s : State) (b cause : Nat) (hl : Within 0xa8006f7ff234 ps) (ho : og = none)
    (hx : x₀.Safe ps og s) : x₀.Safe ps og (s.fenceBay b cause) := by
  unfold State.fenceBay
  split
  · exact hx
  · have port : ∀ (c : Prop) [Decidable c] (y : State), x₀.Safe ps og y → x₀.Safe ps og (if c then y.linkStop (b / 8) 4 else y) := by
      intro c _ y hy
      split
      · exact State.linkStop_safe _ _ _ (hl.of rfl) hy
      · exact hy
    refine State.msixSend_safe _ _ (hl.of rfl) (State.raise_safe _ _ _ _ _ _ _ _ _ (hl.of rfl) (State.moveJournals_safe _ _ (hl.of rfl) (State.railsOff_safe _ _ (hl.of rfl) (port (b % 8 = 7) _ ?_))))
    exact State.dropNet_safe _ _ (hl.of rfl) (State.fencePads_safe _ _ (hl.of rfl) ho (State.dropBay_safe _ _ (hl.of rfl) ho (State.fenceJobs_safe _ _ (hl.of rfl) ho (State.Safe.upd_ctxLost (State.Safe.fence _ hx (hl.of rfl)) (hl.of rfl)))))

theorem execFence_safe (b : BayId) (cause : Nat) (s : State) (hl : Within 0xa8006f7ff234 ps) (ho : og = none)
    (hx : x₀.Safe ps og s) : x₀.SafeOut ps og (execFence b cause s) := by
  unfold execFence
  try dsimp only
  repeat' first
    | with_reducible assumption | with_reducible apply State.SafeOut.next | with_reducible apply State.fenceBay_safe | split

theorem execHubFault_safe (cause : Nat) (s : State) (hl : Within 0x608000001204 ps) (hx : x₀.Safe ps og s) :
    x₀.SafeOut ps og (execHubFault cause s) := by
  unfold execHubFault
  try dsimp only
  repeat' first
    | with_reducible assumption | exact hl.of rfl | with_reducible apply State.SafeOut.next
    | with_reducible apply State.raise_safe | with_reducible apply State.msixSend_safe
    | with_reducible apply State.rasFatal_safe | split | with_reducible apply State.Safe.upd_viral

theorem execLogicDieFault_safe (b : BayId) (s : State) (hl : Within 0x204 ps) (hx : x₀.Safe ps og s) :
    x₀.SafeOut ps og (execLogicDieFault b s) := by
  unfold execLogicDieFault
  try dsimp only
  repeat' first
    | with_reducible assumption | with_reducible apply State.SafeOut.next | with_reducible apply State.raise_safe | split

theorem State.settleFuse_safe (s : State) (hl : Within 0x10000206 ps) (hx : x₀.Safe ps og s) : x₀.Safe ps og (s.settleFuse) := by
  unfold State.settleFuse
  try dsimp only
  repeat' first
    | with_reducible assumption | exact hl.of rfl | with_reducible apply State.fuseDone_safe
    | with_reducible apply State.takeFree_safe | split

theorem State.stopStalls_safe (s : State) (hl : Within 0x6008af4234 ps) (ho : og = none) (hx : x₀.Safe ps og s) :
    x₀.Safe ps og (s.stopStalls) := by
  unfold State.stopStalls
  try dsimp only
  repeat' first
    | with_reducible assumption | exact hl.of rfl | with_reducible apply each_safe | with_reducible apply State.abandonJob_safe
    | with_reducible apply State.modJob_safe | with_reducible apply State.addCause_safe | intro _
    | with_reducible apply State.Safe.upd_stalls_takeQ_reportQ_answers_tokens_faultQ_cfg_mboxes_fw

theorem State.quietUnits_safe (s : State) (hl : Within 0x8f004236 ps) (ho : og = none) (hx : x₀.Safe ps og s) :
    x₀.Safe ps og (s.quietUnits) := by
  unfold State.quietUnits
  try dsimp only
  repeat' first
    | with_reducible assumption | exact hl.of rfl | with_reducible apply each_safe | with_reducible apply State.hbmFlush_safe
    | with_reducible apply State.loadFail_safe | with_reducible apply State.loadAbort_safe
    | with_reducible apply State.isolate_safe | split | intro _

theorem State.tidy_safe (s : State) (hl : Within 0x2002004000 ps) (ho : og = none) (hx : x₀.Safe ps og s) :
    x₀.Safe ps og (s.tidy) := by
  unfold State.tidy
  try dsimp only
  repeat' first
    | with_reducible assumption | with_reducible apply State.Safe.upd_stalls_hbms_mboxes

theorem State.mendCopies_safe (s : State) (q : Nat) (hl : Within 0x30 ps) (hx : x₀.Safe ps og s) :
    x₀.Safe ps og (s.mendCopies q) := by
  unfold State.mendCopies
  try dsimp only
  repeat' first
    | with_reducible assumption | with_reducible apply each_safe | with_reducible apply State.write_safe | split | intro _

theorem State.recoverQueue_safe (s : State) (q : Nat) (hl : Within 0x2000004012f4 ps) (hx : x₀.Safe ps og s) :
    x₀.Safe ps og (s.recoverQueue q) := by
  unfold State.recoverQueue
  try dsimp only
  repeat' first
    | with_reducible assumption | exact hl.of rfl | with_reducible apply State.flush_safe
    | with_reducible apply State.mendCopies_safe | with_reducible apply State.readTail_safe | split

theorem State.warmReset_safe (s : State) (cause : Nat) (hl : Within 0x21609fef52f6 ps) (ho : og = none) (hx : x₀.Safe ps og s) :
    x₀.Safe ps og (s.warmReset cause) := by
  unfold State.warmReset
  try dsimp only
  repeat' first
    | with_reducible assumption | exact hl.of rfl | with_reducible apply State.bootAgain_safe
    | with_reducible apply State.tidy_safe | with_reducible apply State.quietUnits_safe
    | with_reducible apply State.stopStalls_safe | with_reducible apply State.settleFuse_safe | with_reducible apply each_safe
    | with_reducible apply State.recoverQueue_safe | with_reducible apply State.raise_safe | split | intro _
    | with_reducible apply State.Safe.upd_warms

theorem execHotReset_safe (s : State) (hl : Within 0x21609fef52f6 ps) (ho : og = none) (hx : x₀.Safe ps og s) :
    x₀.SafeOut ps og (execHotReset s) := by
  unfold execHotReset
  try dsimp only
  repeat' first
    | with_reducible assumption | with_reducible apply State.SafeOut.next | with_reducible apply State.warmReset_safe

theorem execSelayCoreFault_safe (_c : CoreId) (s : State) (hl : Within 0x21609fef52f6 ps) (ho : og = none)
    (hx : x₀.Safe ps og s) : x₀.SafeOut ps og (execSelayCoreFault _c s) := by
  unfold execSelayCoreFault
  try dsimp only
  repeat' first
    | with_reducible assumption | with_reducible apply State.SafeOut.next | with_reducible apply State.warmReset_safe | split

theorem State.wiped_kept (s : State) (hl : Within 0xffffffffff3c ps) (ho : og = none) : s.Kept ps og s.wiped := by
  refine ⟨⟨rfl, fun hc => ?_, fun k => FuseSlot.within_refl k _, Nat.le_refl _⟩,
    State.Only.of hl (fun p hp => by cases p <;> first | rfl | contradiction) (.inl ho)⟩
  rw [State.canonical_iff] at hc ⊢
  exact ⟨⟨rfl, rfl⟩, hc.2⟩

theorem State.release_kept (s : State) (straps : Straps) (vbatKept : Bool) (hl : Within 0x50000206 ps) :
    s.Kept ps og (s.release straps vbatKept) := by
  unfold State.release
  have h0 : ∀ f : Sec → Sec, (∀ z, (f z).fuses = z.fuses) → s.Kept ps og (s.modSec f) := fun f hf =>
    ⟨⟨rfl, id, fun k => by simp only [State.fuse, State.modSec, hf]; exact FuseSlot.within_refl k _, Nat.le_refl _⟩,
      State.Only.of (a := 0x10000000) (hl.of rfl) (fun p hp => by cases p <;> first | rfl | contradiction) (.inr rfl)⟩
  dsimp only
  refine (h0 (fun x => { x with straps := straps, bkey := if vbatKept = true then x.bkey else none }) fun _ => rfl).trans
    (State.Safe.kept ?_)
  generalize (s.modSec fun x => { x with straps := straps, bkey := if vbatKept = true then x.bkey else none }) = y
  have hy : y.Safe ps og y := .refl y
  repeat' first
    | with_reducible assumption | exact hl.of rfl | with_reducible apply State.raise_safe | with_reducible apply State.newNonce_safe
    | with_reducible apply each_safe | with_reducible apply State.modLink_safe | with_reducible apply State.setFld_safe
    | split | intro _

theorem execColdReset_kept (lowNs : Nat) (straps : Straps) (vbatKept : Bool) (s : State) (hl : Within 0xffffffffff3e ps) (ho : og = none) :
    s.KeptOut ps og (execColdReset lowNs straps vbatKept s) := by
  unfold execColdReset
  split
  · exact State.Kept.refl s
  · refine State.Kept.trans (t := _) ?_ (State.release_kept _ straps vbatKept (hl.of rfl))
    split
    · exact State.wiped_kept s (hl.of rfl) ho
    · split
      · have h := State.modSec_safe (s.wiped.blowSome ‹FuseJob›) (fun x => { x with prog := none, last := (‹FuseJob› : FuseJob).slot, result := 4 })
          (fun _ => rfl) (fun _ => rfl) (ps := ps) (og := og) (hl.of rfl) (State.blowSome_safe _ _ (hl.of rfl) (.refl s.wiped))
        exact (State.wiped_kept s (hl.of rfl) ho).trans h.kept
      · exact (State.settleFuse_safe s (hl.of rfl) (.refl s)).kept.trans (State.wiped_kept _ (hl.of rfl) ho)

theorem execBayPowerOn_safe (b : BayId) (s : State) (hl : Within 0x22000100 ps) (hx : x₀.Safe ps og s) :
    x₀.SafeOut ps og (execBayPowerOn b s) := by
  unfold execBayPowerOn
  try dsimp only
  repeat' first
    | with_reducible assumption | exact hl.of rfl | with_reducible rfl | with_reducible apply State.SafeOut.next
    | with_reducible apply State.modBoard_safe | with_reducible apply State.modHbm_safe | split | intro _
    | with_reducible apply State.Safe.upd_lcount

theorem execPowerLoss_kept (s : State) (hl : Within 0xffffffffff3c ps) (ho : og = none) : s.KeptOut ps og (execPowerLoss s) := by
  unfold execPowerLoss
  split
  · exact State.Kept.refl s
  · exact (State.wiped_kept s (hl.of rfl) ho).trans (State.modBoard_safe s.wiped (fun x => { x with powered := false, op := none }) (fun _ => rfl) (hl.of rfl) (.refl _)).kept

theorem execColdStart_safe (s : State) (hl : Within 0x20000000 ps) (hx : x₀.Safe ps og s) :
    x₀.SafeOut ps og (execColdStart s) := by
  unfold execColdStart
  try dsimp only
  repeat' first
    | with_reducible assumption | with_reducible rfl | with_reducible apply State.SafeOut.next
    | with_reducible apply State.modBoard_safe | split | intro _

theorem State.flashRefuse_safe (s : State) (hl : Within 0x20000000 ps) (hx : x₀.Safe ps og s) : x₀.Safe ps og (s.flashRefuse) := by
  unfold State.flashRefuse
  try dsimp only
  repeat' first
    | with_reducible assumption | with_reducible rfl | with_reducible apply State.modBoard_safe | intro _

theorem execFlashErase_safe (pecOk : Bool) (off : Word32) (s : State) (hl : Within 0x20000000 ps) (hx : x₀.Safe ps og s) :
    x₀.SafeOut ps og (execFlashErase pecOk off s) := by
  unfold execFlashErase
  try dsimp only
  repeat' first
    | with_reducible assumption | with_reducible rfl | with_reducible apply State.SafeOut.next
    | with_reducible apply State.modBoard_safe | with_reducible apply State.flashRefuse_safe | split | intro _

theorem execFlashWrite_safe (pecOk : Bool) (off : Word32) (data : List Byte) (s : State) (hl : Within 0x20000000 ps)
    (hx : x₀.Safe ps og s) : x₀.SafeOut ps og (execFlashWrite pecOk off data s) := by
  unfold execFlashWrite
  try dsimp only
  repeat' first
    | with_reducible assumption | with_reducible rfl | with_reducible apply State.SafeOut.next
    | with_reducible apply State.modBoard_safe | with_reducible apply State.flashRefuse_safe | split | intro _

theorem execFlashRead_safe (pecOk : Bool) (off : Word32) (s : State) (hl : Within 0xa0000000 ps) (hx : x₀.Safe ps og s) :
    x₀.SafeOut ps og (execFlashRead pecOk off s) := by
  unfold execFlashRead
  try dsimp only
  repeat' first
    | with_reducible assumption | exact hl.of rfl | with_reducible rfl | with_reducible apply State.SafeOut.next
    | with_reducible apply State.modBoard_safe | with_reducible apply State.flashRefuse_safe | split | intro _
    | with_reducible apply State.Safe.upd_said

theorem execFlashStatus_safe (pecOk : Bool) (s : State) (hl : Within 0x80000000 ps) (hx : x₀.Safe ps og s) :
    x₀.SafeOut ps og (execFlashStatus pecOk s) := by
  unfold execFlashStatus
  try dsimp only
  repeat' first
    | with_reducible assumption | with_reducible apply State.SafeOut.next | split | with_reducible apply State.Safe.upd_said

theorem execFlashComplete_kept (s : State) (hl : Within 0x20000000 ps) : s.KeptOut ps og (execFlashComplete s) := by
  have h : ∀ f, s.Kept ps og (s.modBoard f) := fun f => ⟨⟨rfl, id, fun k => FuseSlot.within_refl k _, Nat.le_refl _⟩,
    State.Only.of (a := 0x20000000) (hl.of rfl) (fun p hp => by cases p <;> first | rfl | contradiction) (.inr rfl)⟩
  unfold execFlashComplete
  split
  · exact State.Kept.refl s
  · exact h _
  · exact h _

theorem execPushData_safe (pecOk : Bool) (off : Word32) (data : List Byte) (s : State) (hl : Within 0x20000000 ps)
    (hx : x₀.Safe ps og s) : x₀.SafeOut ps og (execPushData pecOk off data s) := by
  unfold execPushData
  try dsimp only
  repeat' first
    | with_reducible assumption | with_reducible rfl | with_reducible apply State.SafeOut.next
    | with_reducible apply State.modBoard_safe | split | intro _

theorem execPushDone_safe (pecOk : Bool) (len : Word32) (s : State) (hl : Within 0x30000000 ps) (hx : x₀.Safe ps og s) :
    x₀.SafeOut ps og (execPushDone pecOk len s) := by
  unfold execPushDone
  try dsimp only
  repeat' first
    | with_reducible assumption | exact hl.of rfl | with_reducible rfl | with_reducible apply State.SafeOut.next
    | with_reducible apply State.modSec_safe | with_reducible apply State.modBoard_safe | split | intro _

end Sys2Proof.Machine
end

