-- ==== Sys2Proof/Laws/SafeEnergy.lean ====
section
/-! SUPPORT. The operations of Machine/Energy.lean keep what Laws/Keeps.lean calls Safe. -/

namespace Sys2Proof.Machine

variable {x₀ : State} {ps : Nat} {og : Option Nat}

theorem State.bayEnergy_safe (s : State) (b : Nat) (k : Nat) (w1 : Nat) (w2 : Nat) (hl : Within 0x204 ps)
    (hx : x₀.Safe ps og s) : x₀.Safe ps og (s.bayEnergy b k w1 w2) := by
  unfold State.bayEnergy
  try dsimp only
  repeat' first
    | with_reducible assumption | with_reducible apply State.raiseOnce_safe

theorem State.causeOn_safe (s : State) (b : Nat) (c : Nat) (hl : Within 0x200000 ps) (hx : x₀.Safe ps og s) :
    x₀.Safe ps og (s.causeOn b c) := by
  unfold State.causeOn
  try dsimp only
  repeat' first
    | with_reducible assumption | with_reducible apply State.addCause_safe

theorem State.noteLow_safe (s : State) (b : Nat) (fab : Bool) (mv : Nat) (hl : Within 0x80000000000 ps) (hx : x₀.Safe ps og s) :
    x₀.Safe ps og (s.noteLow b fab mv) := by
  unfold State.noteLow
  try dsimp only
  repeat' first
    | with_reducible assumption | with_reducible apply State.modEng_safe | split

theorem State.repredict_safe (s : State) (b : Nat) (hl : Within 0x200000 ps) (hx : x₀.Safe ps og s) :
    x₀.Safe ps og (s.repredict b) := by
  unfold State.repredict
  try dsimp only
  repeat' first
    | with_reducible assumption | with_reducible apply each_safe | with_reducible apply State.modJob_safe | intro _

theorem State.warn_safe (s : State) (b : Nat) (fab : Bool) (mv : Nat) (hl : Within 0x80004200204 ps) (hx : x₀.Safe ps og s) :
    x₀.Safe ps og (s.warn b fab mv) := by
  unfold State.warn
  try dsimp only
  repeat' first
    | with_reducible assumption | exact hl.of rfl | with_reducible apply State.noteLow_safe
    | with_reducible apply State.warnInput_safe | with_reducible apply State.modEng_safe
    | with_reducible apply State.raise_safe | with_reducible apply State.bayEnergy_safe | with_reducible apply State.count_safe
    | with_reducible apply State.setReg_safe | with_reducible apply State.causeOn_safe
    | with_reducible apply State.repredict_safe | with_reducible apply State.showRate_safe | split

theorem execCorewarn_safe (b : BayId) (mv : Nat) (s : State) (hl : Within 0x80004200204 ps) (hx : x₀.Safe ps og s) :
    x₀.SafeOut ps og (execCorewarn b mv s) := by
  unfold execCorewarn
  try dsimp only
  repeat' first
    | with_reducible assumption | with_reducible apply State.SafeOut.next | with_reducible apply State.warn_safe | split

theorem execFabwarn_safe (b : BayId) (mv : Nat) (s : State) (hl : Within 0x80004200204 ps) (hx : x₀.Safe ps og s) :
    x₀.SafeOut ps og (execFabwarn b mv s) := by
  unfold execFabwarn
  try dsimp only
  repeat' first
    | with_reducible assumption | with_reducible apply State.SafeOut.next | with_reducible apply State.warn_safe | split

theorem execRecover_safe (b : BayId) (fab : Bool) (s : State) (mv : Nat) (hl : Within 0x80004000204 ps) (hx : x₀.Safe ps og s) :
    x₀.SafeOut ps og (execRecover b fab s mv) := by
  unfold execRecover
  try dsimp only
  repeat' first
    | with_reducible assumption | exact hl.of rfl | with_reducible apply State.SafeOut.next
    | with_reducible apply State.noteLow_safe | with_reducible apply State.endWarn_safe
    | with_reducible apply State.bayEnergy_safe | split

theorem State.railReset_safe (s : State) (b : Nat) (fab : Bool) (mv : Nat) (hl : Within 0xa8006f7ff234 ps) (ho : og = none)
    (hx : x₀.Safe ps og s) : x₀.Safe ps og (s.railReset b fab mv) := by
  unfold State.railReset
  try dsimp only
  repeat' first
    | with_reducible assumption | exact hl.of rfl | with_reducible apply State.warn_safe
    | with_reducible apply State.endWarn_safe | with_reducible apply State.fenceBay_safe
    | with_reducible apply State.bayEnergy_safe | split

theorem execCorereset_safe (b : BayId) (mv : Nat) (s : State) (hl : Within 0xa8006f7ff234 ps) (ho : og = none)
    (hx : x₀.Safe ps og s) : x₀.SafeOut ps og (execCorereset b mv s) := by
  unfold execCorereset
  try dsimp only
  repeat' first
    | with_reducible assumption | with_reducible apply State.SafeOut.next | with_reducible apply State.railReset_safe | split

theorem execFabreset_safe (b : BayId) (mv : Nat) (s : State) (hl : Within 0xa8006f7ff234 ps) (ho : og = none)
    (hx : x₀.Safe ps og s) : x₀.SafeOut ps og (execFabreset b mv s) := by
  unfold execFabreset
  try dsimp only
  repeat' first
    | with_reducible assumption | with_reducible apply State.SafeOut.next | with_reducible apply State.railReset_safe | split

theorem execHubwarn_safe (mv : Nat) (s : State) (hl : Within 0x204 ps) (hx : x₀.Safe ps og s) :
    x₀.SafeOut ps og (execHubwarn mv s) := by
  unfold execHubwarn
  try dsimp only
  repeat' first
    | with_reducible assumption | with_reducible apply State.SafeOut.next | with_reducible apply State.raiseOnce_safe | split

theorem State.planChange_safe (s : State) (b : Nat) (hl : Within 0x200000 ps) (hx : x₀.Safe ps og s) :
    x₀.Safe ps og (s.planChange b) := by
  unfold State.planChange
  try dsimp only
  repeat' first
    | with_reducible assumption | with_reducible apply each_safe | with_reducible apply State.modJob_safe | intro _

theorem execFchgGo_safe (_c : CoreId) (b : BayId) (v : Word32) (s : State) (hl : Within 0x2200000 ps) (hx : x₀.Safe ps og s) :
    x₀.SafeOut ps og (execFchgGo _c b v s) := by
  unfold execFchgGo
  try dsimp only
  repeat' first
    | with_reducible assumption | exact hl.of rfl | with_reducible apply State.SafeOut.next
    | with_reducible apply State.modHbm_safe | with_reducible apply State.planChange_safe | split

theorem State.vsetWrite_safe (s : State) (b : Nat) (v : Nat) (hl : Within 0x80000000004 ps) (hx : x₀.Safe ps og s) :
    x₀.Safe ps og (s.vsetWrite b v) := by
  unfold State.vsetWrite
  try dsimp only
  repeat' first
    | with_reducible assumption | with_reducible apply State.setVset_safe | split

theorem execVsetWrite_safe (m : Master) (b : BayId) (v : Word32) (s : State) (hl : Within 0x80000000206 ps)
    (hx : x₀.Safe ps og s) : x₀.SafeOut ps og (execVsetWrite m b v s) := by
  unfold execVsetWrite
  try dsimp only
  repeat' first
    | with_reducible assumption | exact hl.of rfl | with_reducible apply State.SafeOut.next
    | with_reducible apply State.guarded_safe | with_reducible apply State.vsetWrite_safe | intro _

theorem State.dipWrite_safe (s : State) (b : Nat) (v : Nat) (hl : Within 0x4 ps) (hx : x₀.Safe ps og s) :
    x₀.Safe ps og (s.dipWrite b v) := by
  unfold State.dipWrite
  try dsimp only
  repeat' first
    | with_reducible assumption | with_reducible apply State.setReg_safe | split

theorem execDipFree_safe (m : Master) (b : BayId) (v : Word64) (s : State) (hl : Within 0x206 ps) (hx : x₀.Safe ps og s) :
    x₀.SafeOut ps og (execDipFree m b v s) := by
  unfold execDipFree
  try dsimp only
  repeat' first
    | with_reducible assumption | exact hl.of rfl | with_reducible apply State.SafeOut.next
    | with_reducible apply State.guarded_safe | with_reducible apply State.dipWrite_safe | intro _

theorem execRateMonitor_safe (b : BayId) (measured : Nat) (s : State) (hl : Within 0x4 ps) (hx : x₀.Safe ps og s) :
    x₀.SafeOut ps og (execRateMonitor b measured s) := by
  unfold execRateMonitor
  try dsimp only
  repeat' first
    | with_reducible assumption | with_reducible apply State.SafeOut.next | with_reducible apply State.showRate_safe
    | with_reducible apply State.setFld_safe

theorem State.spend_safe (s : State) (b : Nat) (uj : Nat) (hl : Within 0x80000000004 ps) (hx : x₀.Safe ps og s) :
    x₀.Safe ps og (s.spend b uj) := by
  unfold State.spend
  try dsimp only
  repeat' first
    | with_reducible assumption | exact hl.of rfl | with_reducible apply State.modEng_safe
    | with_reducible apply State.setReg_safe

theorem State.sampleBay_safe (s : State) (x : RailSample × Nat) (hl : Within 0x80000000004 ps) (hx : x₀.Safe ps og s) :
    x₀.Safe ps og (s.sampleBay x) := by
  unfold State.sampleBay
  try dsimp only
  repeat' first
    | with_reducible assumption | exact hl.of rfl | with_reducible apply State.noteLow_safe
    | with_reducible apply State.spend_safe | with_reducible apply State.setReg_safe | split

theorem execLedgerSample_safe (bays : List RailSample) (inputUJ : Nat) (s : State) (hl : Within 0x80000000004 ps)
    (hx : x₀.Safe ps og s) : x₀.SafeOut ps og (execLedgerSample bays inputUJ s) := by
  unfold execLedgerSample
  try dsimp only
  repeat' first
    | with_reducible assumption | with_reducible apply State.SafeOut.next | with_reducible apply State.spend_safe
    | with_reducible apply each_safe | with_reducible apply State.sampleBay_safe | intro _

theorem State.stepDown_safe (s : State) (b : Nat) (hl : Within 0x80000000004 ps) (hx : x₀.Safe ps og s) :
    x₀.Safe ps og (s.stepDown b) := by
  unfold State.stepDown
  try dsimp only
  repeat' first
    | with_reducible assumption | exact hl.of rfl | with_reducible apply State.setVset_safe
    | with_reducible apply State.modEng_safe | split

theorem State.stepUp_safe (s : State) (b : Nat) (hl : Within 0x80000000004 ps) (hx : x₀.Safe ps og s) :
    x₀.Safe ps og (s.stepUp b) := by
  unfold State.stepUp
  try dsimp only
  repeat' first
    | with_reducible assumption | exact hl.of rfl | with_reducible apply State.modEng_safe
    | with_reducible apply State.setVset_safe | split

theorem State.steerBay_safe (s : State) (b : Nat) (hl : Within 0x80000000004 ps) (hx : x₀.Safe ps og s) :
    x₀.Safe ps og (s.steerBay b) := by
  unfold State.steerBay
  try dsimp only
  repeat' first
    | with_reducible assumption | with_reducible apply State.stepDown_safe | with_reducible apply State.stepUp_safe | split

theorem State.settleRates_safe (s : State) (hl : Within 0x80000200004 ps) (hx : x₀.Safe ps og s) :
    x₀.Safe ps og (s.settleRates) := by
  unfold State.settleRates
  try dsimp only
  repeat' first
    | with_reducible assumption | exact hl.of rfl | with_reducible apply each_safe | with_reducible apply State.repredict_safe
    | with_reducible apply State.showRate_safe | with_reducible apply State.modEng_safe | split | intro _

theorem State.weighBudget_safe (s : State) (hl : Within 0x80000000204 ps) (hx : x₀.Safe ps og s) :
    x₀.Safe ps og (s.weighBudget) := by
  unfold State.weighBudget
  try dsimp only
  repeat' first
    | with_reducible assumption | exact hl.of rfl | with_reducible apply State.raiseOnce_safe
    | with_reducible apply State.modEng_safe | split

theorem execLedgerTick_safe (inputMJ : Nat) (s : State) (hl : Within 0x80000200204 ps) (hx : x₀.Safe ps og s) :
    x₀.SafeOut ps og (execLedgerTick inputMJ s) := by
  unfold execLedgerTick
  try dsimp only
  repeat' first
    | with_reducible assumption | exact hl.of rfl | with_reducible apply State.SafeOut.next
    | with_reducible apply State.setReg_safe | with_reducible apply State.modEng_safe | with_reducible apply each_safe
    | with_reducible apply State.weighBudget_safe | with_reducible apply State.settleRates_safe
    | with_reducible apply State.steerBay_safe | split | intro _

theorem State.tickAckWrite_safe (s : State) (v : Nat) (hl : Within 0x80000000000 ps) (hx : x₀.Safe ps og s) :
    x₀.Safe ps og (s.tickAckWrite v) := by
  unfold State.tickAckWrite
  try dsimp only
  repeat' first
    | with_reducible assumption | with_reducible apply State.modEng_safe | split

theorem execTickAck_safe (m : Master) (v : Word32) (s : State) (hl : Within 0x80000000206 ps) (hx : x₀.Safe ps og s) :
    x₀.SafeOut ps og (execTickAck m v s) := by
  unfold execTickAck
  try dsimp only
  repeat' first
    | with_reducible assumption | exact hl.of rfl | with_reducible apply State.SafeOut.next
    | with_reducible apply State.guarded_safe | with_reducible apply State.tickAckWrite_safe | intro _

theorem State.capRise_safe (s : State) (watts : Nat) (cap : Nat) (pace : Bool) (hl : Within 0x80000000204 ps)
    (hx : x₀.Safe ps og s) : x₀.Safe ps og (s.capRise watts cap pace) := by
  unfold State.capRise
  try dsimp only
  repeat' first
    | with_reducible assumption | exact hl.of rfl | with_reducible apply State.modEng_safe
    | with_reducible apply State.raiseOnce_safe | split

theorem State.capStep_safe (s : State) (sum : Nat) (cap : Nat) (hl : Within 0x80000000204 ps) (hx : x₀.Safe ps og s) :
    x₀.Safe ps og (s.capStep sum cap) := by
  unfold State.capStep
  try dsimp only
  repeat' first
    | with_reducible assumption | exact hl.of rfl | with_reducible apply State.modEng_safe
    | with_reducible apply State.capRise_safe | split

theorem execCapSample_safe (watts : Nat) (s : State) (hl : Within 0x80000200204 ps) (hx : x₀.Safe ps og s) :
    x₀.SafeOut ps og (execCapSample watts s) := by
  unfold execCapSample
  try dsimp only
  repeat' first
    | with_reducible assumption | exact hl.of rfl | with_reducible apply State.SafeOut.next
    | with_reducible apply State.modEng_safe | with_reducible apply State.capStep_safe
    | with_reducible apply State.addCause_safe | split

theorem State.throtStep_safe (s : State) (b : Nat) (degC : Nat) (hl : Within 0x80000200204 ps) (hx : x₀.Safe ps og s) :
    x₀.Safe ps og (s.throtStep b degC) := by
  unfold State.throtStep
  try dsimp only
  repeat' first
    | with_reducible assumption | exact hl.of rfl | with_reducible apply State.causeOn_safe
    | with_reducible apply State.bayEnergy_safe | with_reducible apply State.modEng_safe | split

theorem State.hotStep_safe (s : State) (b : Nat) (degC : Nat) (hl : Within 0x80000200204 ps) (hx : x₀.Safe ps og s) :
    x₀.Safe ps og (s.hotStep b degC) := by
  unfold State.hotStep
  try dsimp only
  repeat' first
    | with_reducible assumption | exact hl.of rfl | with_reducible apply State.causeOn_safe
    | with_reducible apply State.bayEnergy_safe | with_reducible apply State.modEng_safe
    | with_reducible apply State.setVset_safe | split

theorem State.heat_safe (s : State) (b : Nat) (degC : Nat) (hl : Within 0xa8006f7ff234 ps) (ho : og = none)
    (hx : x₀.Safe ps og s) : x₀.Safe ps og (s.heat b degC) := by
  unfold State.heat
  try dsimp only
  repeat' first
    | with_reducible assumption | exact hl.of rfl | with_reducible apply State.setFld_safe
    | with_reducible apply State.showRate_safe | with_reducible apply State.hotStep_safe
    | with_reducible apply State.throtStep_safe | with_reducible apply State.fenceBay_safe
    | with_reducible apply State.bayEnergy_safe | split

theorem execThrottle_safe (b : BayId) (degC : Nat) (s : State) (hl : Within 0xa8006f7ff234 ps) (ho : og = none)
    (hx : x₀.Safe ps og s) : x₀.SafeOut ps og (execThrottle b degC s) := by
  unfold execThrottle
  try dsimp only
  repeat' first
    | with_reducible assumption | with_reducible apply State.SafeOut.next | with_reducible apply State.heat_safe | split

theorem execHot_safe (b : BayId) (degC : Nat) (s : State) (hl : Within 0xa8006f7ff234 ps) (ho : og = none)
    (hx : x₀.Safe ps og s) : x₀.SafeOut ps og (execHot b degC s) := by
  unfold execHot
  try dsimp only
  repeat' first
    | with_reducible assumption | with_reducible apply State.SafeOut.next | with_reducible apply State.heat_safe | split

theorem execTrip_safe (b : BayId) (degC : Nat) (s : State) (hl : Within 0xa8006f7ff234 ps) (ho : og = none)
    (hx : x₀.Safe ps og s) : x₀.SafeOut ps og (execTrip b degC s) := by
  unfold execTrip
  try dsimp only
  repeat' first
    | with_reducible assumption | with_reducible apply State.SafeOut.next | with_reducible apply State.heat_safe | split

end Sys2Proof.Machine
end

