-- ==== Sys2Proof/Laws/SafeMailbox.lean ====
section
/-! SUPPORT. The operations of Machine/Mailbox.lean keep what Laws/Keeps.lean calls Safe. -/

namespace Sys2Proof.Machine

variable {x₀ : State} {ps : Nat} {og : Option Nat}

theorem State.modMbox_safe (s : State) (mb : Nat) (f : Mbox → Mbox) (hl : Within 0x2000000000 ps) (hx : x₀.Safe ps og s) :
    x₀.Safe ps og (s.modMbox mb f) := by
  unfold State.modMbox
  try dsimp only
  repeat' first
    | with_reducible assumption | with_reducible apply State.Safe.upd_mboxes

theorem State.answer_safe (s : State) (mb : Nat) (status : Status) (bs : (List Byte)) (hl : Within 0x202000001000 ps)
    (hx : x₀.Safe ps og s) : x₀.Safe ps og (s.answer mb status bs) := by
  unfold State.answer
  try dsimp only
  repeat' first
    | with_reducible assumption | exact hl.of rfl | with_reducible apply State.modMbox_safe
    | with_reducible apply State.msixSend_safe | split

theorem State.submitted_safe (s : State) (mb : Nat) (page : Option Nat) (hl : Within 0x202000001000 ps) (hx : x₀.Safe ps og s) :
    x₀.Safe ps og (s.submitted mb page) := by
  unfold State.submitted
  try dsimp only
  repeat' first
    | with_reducible assumption | exact hl.of rfl | with_reducible apply State.modMbox_safe
    | with_reducible apply State.answer_safe | split

theorem State.mailPriv_safe (s : State) (mb : Nat) (op : Nat) (hl : Within 0x202000001000 ps) (hx : x₀.Safe ps og s) :
    x₀.Safe ps og (s.mailPriv mb op) := by
  unfold State.mailPriv
  try dsimp only
  repeat' first
    | with_reducible assumption | exact hl.of rfl | with_reducible apply State.submitted_safe
    | with_reducible apply State.modMbox_safe | split

theorem State.mailPage_safe (s : State) (page : Nat) (op : Nat) (hl : Within 0x202000001000 ps) (hx : x₀.Safe ps og s) :
    x₀.Safe ps og (s.mailPage page op) := by
  unfold State.mailPage
  try dsimp only
  repeat' first
    | with_reducible assumption | exact hl.of rfl | with_reducible apply State.modMbox_safe
    | with_reducible apply State.submitted_safe | split

theorem State.forceRelease_safe (s : State) (u : Nat) (hl : Within 0x2000000000 ps) (hx : x₀.Safe ps og s) :
    x₀.Safe ps og (s.forceRelease u) := by
  unfold State.forceRelease
  try dsimp only
  repeat' first
    | with_reducible assumption | with_reducible apply State.modMbox_safe | split

theorem execClaim_safe (page : Fin 4096) (v : Word32) (s : State) (hl : Within 0x202000001000 ps) (hx : x₀.Safe ps og s) :
    x₀.SafeOut ps og (execClaim page v s) := by
  unfold execClaim
  try dsimp only
  repeat' first
    | with_reducible assumption | with_reducible apply State.SafeOut.next | with_reducible apply State.mailPage_safe | split

theorem State.mailCtl_safe (s : State) (m : Master) (mb : Nat) (op : Nat) (hl : Within 0x202000001000 ps)
    (hx : x₀.Safe ps og s) : x₀.Safe ps og (s.mailCtl m mb op) := by
  unfold State.mailCtl
  try dsimp only
  repeat' first
    | with_reducible assumption | with_reducible apply State.mailPage_safe | with_reducible apply State.mailPriv_safe | split

theorem execSubmit_safe (m : Master) (mb : MailboxId) (v : Word32) (s : State) (hl : Within 0x202000001000 ps)
    (hx : x₀.Safe ps og s) : x₀.SafeOut ps og (execSubmit m mb v s) := by
  unfold execSubmit
  try dsimp only
  repeat' first
    | with_reducible assumption | with_reducible apply State.SafeOut.next | with_reducible apply State.mailCtl_safe | split

theorem execRelease_safe (m : Master) (mb : MailboxId) (v : Word32) (s : State) (hl : Within 0x202000001000 ps)
    (hx : x₀.Safe ps og s) : x₀.SafeOut ps og (execRelease m mb v s) := by
  unfold execRelease
  try dsimp only
  repeat' first
    | with_reducible assumption | with_reducible apply State.SafeOut.next | with_reducible apply State.mailCtl_safe | split

theorem execOwnerRelease_safe (m : Master) (u : Fin 8) (v : Word32) (s : State) (hl : Within 0x2000000206 ps)
    (hx : x₀.Safe ps og s) : x₀.SafeOut ps og (execOwnerRelease m u v s) := by
  unfold execOwnerRelease
  try dsimp only
  repeat' first
    | with_reducible assumption | exact hl.of rfl | with_reducible apply State.SafeOut.next
    | with_reducible apply State.guarded_safe | with_reducible apply State.forceRelease_safe | split | intro _

end Sys2Proof.Machine
end

