-- ==== Sys2Proof/Laws/SafeAccess.lean ====
section
/-! SUPPORT. The operations of Machine/Access.lean keep what Laws/Keeps.lean calls Safe. -/

namespace Sys2Proof.Machine

variable {x₀ : State} {ps : Nat} {og : Option Nat}

theorem State.setLatch_safe (s : State) (m : Master) (off : Nat) (x : Latch) (hl : Within 0x8 ps) (hx : x₀.Safe ps og s) :
    x₀.Safe ps og (s.setLatch m off x) := by
  unfold State.setLatch
  try dsimp only
  repeat' first
    | with_reducible assumption | with_reducible apply State.Safe.upd_latch

theorem State.evringCtl_safe (s : State) (v : Nat) (hl : Within 0x4 ps) (hx : x₀.Safe ps og s) :
    x₀.Safe ps og (s.evringCtl v) := by
  unfold State.evringCtl
  try dsimp only
  repeat' first
    | with_reducible assumption | with_reducible apply State.rwWrite_safe | with_reducible apply State.setReg_safe | split

theorem State.evringTail_safe (s : State) (v : Nat) (hl : Within 0x204 ps) (hx : x₀.Safe ps og s) :
    x₀.Safe ps og (s.evringTail v) := by
  unfold State.evringTail
  try dsimp only
  repeat' first
    | with_reducible assumption | exact hl.of rfl | with_reducible apply State.raise_safe
    | with_reducible apply State.setReg_safe | split

theorem State.edge_safe (s : State) (c : Nat) (j : Nat) (hl : Within 0x800 ps) (hx : x₀.Safe ps og s) :
    x₀.Safe ps og (s.edge c j) := by
  unfold State.edge
  try dsimp only
  repeat' first
    | with_reducible assumption | with_reducible apply State.Safe.upd_icEdge

theorem State.icDone_safe (s : State) (c : Nat) (v : Nat) (hl : Within 0x800 ps) (hx : x₀.Safe ps og s) :
    x₀.Safe ps og (s.icDone c v) := by
  unfold State.icDone
  try dsimp only
  repeat' first
    | with_reducible assumption | split | with_reducible apply State.Safe.upd_icEdge

theorem State.icSignal_safe (s : State) (c : Nat) (v : Nat) (hl : Within 0x800 ps) (hx : x₀.Safe ps og s) :
    x₀.Safe ps og (s.icSignal c v) := by
  unfold State.icSignal
  try dsimp only
  repeat' first
    | with_reducible assumption | with_reducible apply State.edge_safe | split

theorem State.msixRaise_safe (s : State) (c : Nat) (v : Nat) (hl : Within 0x200000001204 ps) (hx : x₀.Safe ps og s) :
    x₀.Safe ps og (s.msixRaise c v) := by
  unfold State.msixRaise
  try dsimp only
  repeat' first
    | with_reducible assumption | exact hl.of rfl | with_reducible apply State.msixSend_safe
    | with_reducible apply State.raise_safe | split

theorem took_safe (o : Host.Outcome State Fault Refusal) (s : State) (ho : x₀.SafeOut ps og o) (hx : x₀.Safe ps og s) :
    x₀.Safe ps og (took o s) := by
  unfold took
  split
  · exact ho
  · exact hx

theorem State.attWrite_safe (s : State) (n : Nat) (a : Nat) (v : Nat) (hl : Within 0x4 ps) (hx : x₀.Safe ps og s) :
    x₀.Safe ps og (s.attWrite n a v) := by
  unfold State.attWrite
  try dsimp only
  repeat' first
    | with_reducible assumption | with_reducible apply State.rwWrite_safe | split

theorem State.schedWrite_safe (s : State) (r : RegAt) (v : Nat) (hl : Within 0x4 ps) (hx : x₀.Safe ps og s) :
    x₀.Safe ps og (s.schedWrite r v) := by
  unfold State.schedWrite
  try dsimp only
  repeat' first
    | with_reducible assumption | with_reducible apply State.rwWrite_safe

theorem State.limitWrite_safe (s : State) (r : RegAt) (v : Nat) (hl : Within 0x4 ps) (hx : x₀.Safe ps og s) :
    x₀.Safe ps og (s.limitWrite r v) := by
  unfold State.limitWrite
  try dsimp only
  repeat' first
    | with_reducible assumption | with_reducible apply State.rwWrite_safe | split

theorem State.commit_safe (s : State) (m : Master) (r : RegAt) (v : Nat) (hl : Within 0x68205fb0daf6 ps) (ho : og = none)
    (hx : x₀.Safe ps og s) : x₀.Safe ps og (s.commit m r v) := by
  unfold State.commit
  try dsimp only
  repeat' first
    | with_reducible assumption | exact hl.of rfl | with_reducible exact Scope.none ho
    | with_reducible apply State.rwWrite_safe | with_reducible apply State.evringCtl_safe
    | with_reducible apply State.evringTail_safe | with_reducible apply State.icDone_safe
    | with_reducible apply State.icSignal_safe | with_reducible apply State.takeFree_safe
    | with_reducible apply State.msixRaise_safe | with_reducible apply State.watchCtl_safe | with_reducible apply took_safe
    | with_reducible apply execWatchDeclare_safe | with_reducible apply execTallyArm_safe
    | with_reducible apply execTallyRelease_safe | with_reducible apply execStrArm_safe
    | with_reducible apply State.schedWrite_safe | with_reducible apply execFchgGo_safe
    | with_reducible apply State.pllWrite_safe | with_reducible apply State.gclkWrite_safe
    | with_reducible apply State.errpinWrite_safe | with_reducible apply State.startLoad_safe
    | with_reducible apply State.opIsolate_safe | with_reducible apply State.endSession_safe
    | with_reducible apply State.restartSession_safe | with_reducible apply State.routeCommit_safe
    | with_reducible apply State.traceCtl_safe | with_reducible apply State.lnkCtlWrite_safe
    | with_reducible apply State.modLink_safe | with_reducible apply State.attWrite_safe
    | with_reducible apply State.laneWrite_safe | with_reducible apply State.forceRelease_safe
    | with_reducible apply State.tickAckWrite_safe | with_reducible apply State.vsetWrite_safe
    | with_reducible apply State.limitWrite_safe | with_reducible apply State.showRate_safe
    | with_reducible apply State.dipWrite_safe | with_reducible apply State.setRegAt_safe
    | with_reducible apply State.fuseProg_safe | with_reducible apply State.bkeyCtl_safe | split

theorem State.writeWord_safe (s : State) (m : Master) (r : RegAt) (hi : Bool) (v : Nat) (hl : Within 0x68205fb0dafe ps)
    (ho : og = none) (hx : x₀.Safe ps og s) : x₀.Safe ps og (s.writeWord m r hi v) := by
  unfold State.writeWord
  try dsimp only
  repeat' first
    | with_reducible assumption | exact hl.of rfl | with_reducible apply State.commit_safe
    | with_reducible apply State.setLatch_safe | split

theorem State.afterRead_safe (s : State) (r : RegAt) (hl : Within 0x6 ps) (hx : x₀.Safe ps og s) :
    x₀.Safe ps og (s.afterRead r) := by
  unfold State.afterRead
  try dsimp only
  repeat' first
    | with_reducible assumption | exact hl.of rfl | with_reducible apply State.setRegAt_safe
    | with_reducible apply State.takeFree_safe | split

theorem State.readWord_safe (s : State) (m : Master) (r : RegAt) (hi : Bool) (hl : Within 0xe ps) (hx : x₀.Safe ps og s) :
    x₀.Safe ps og (s.readWord m r hi).1 := by
  unfold State.readWord
  try dsimp only
  repeat' first
    | with_reducible assumption | exact hl.of rfl | with_reducible apply State.setLatch_safe
    | with_reducible apply State.afterRead_safe | split

theorem State.readWord_pair {s : State} {m : Master} {r : RegAt} {hi : Bool} {t₁ : State} {r₁ : Nat} (hl : Within 0xe ps)
    (hx : x₀.Safe ps og s) (he : s.readWord m r hi = (t₁, r₁)) : x₀.Safe ps og t₁ := by
  have hs := State.readWord_safe s m r hi hl hx
  rw [he] at hs
  exact hs

theorem State.busRead_safe (s : State) (m : Master) (off : Nat) (hl : Within 0x20e ps) (hx : x₀.Safe ps og s) :
    x₀.Safe ps og (s.busRead m off).1 := by
  unfold State.busRead
  try dsimp only
  repeat' first
    | with_reducible assumption | exact hl.of rfl | with_reducible apply State.violateBy_safe
    | with_reducible apply State.readWord_safe | split

theorem State.busRead_pair {s : State} {m : Master} {off : Nat} {t₁ : State} {r₁ : Option Nat} (hl : Within 0x20e ps)
    (hx : x₀.Safe ps og s) (he : s.busRead m off = (t₁, r₁)) : x₀.Safe ps og t₁ := by
  have hs := State.busRead_safe s m off hl hx
  rw [he] at hs
  exact hs

theorem State.busWrite_safe (s : State) (m : Master) (off : Nat) (v : Nat) (hl : Within 0x68205fb0dafe ps) (ho : og = none)
    (hx : x₀.Safe ps og s) : x₀.Safe ps og (s.busWrite m off v) := by
  unfold State.busWrite
  try dsimp only
  repeat' first
    | with_reducible assumption | exact hl.of rfl | with_reducible apply State.violateBy_safe
    | with_reducible apply State.writeWord_safe | with_reducible apply State.mailPage_safe
    | with_reducible apply State.mailPriv_safe | with_reducible apply State.modMbox_safe | split

theorem State.answerRead_safe (s : State) (m : Master) (off : Nat) (v : Option Nat) (hl : Within 0x80000000 ps)
    (hx : x₀.Safe ps og s) : x₀.Safe ps og (s.answerRead m off v) := by
  unfold State.answerRead
  try dsimp only
  repeat' first
    | with_reducible assumption | split | with_reducible apply State.Safe.upd_said

theorem State.readAt_safe (s : State) (m : Master) (off : Nat) (hl : Within 0x8000020e ps) (hx : x₀.Safe ps og s) :
    x₀.Safe ps og (s.readAt m off) := by
  unfold State.readAt
  try dsimp only
  repeat' first
    | with_reducible assumption | exact hl.of rfl | with_reducible apply State.busRead_safe
    | with_reducible apply State.answerRead_safe

theorem State.read64_safe (s : State) (m : Master) (off : Nat) (hl : Within 0x8000020e ps) (hx : x₀.Safe ps og s) :
    x₀.Safe ps og (s.read64 m off) := by
  unfold State.read64
  try dsimp only
  repeat' first
    | with_reducible assumption | exact hl.of rfl | with_reducible apply State.answerRead_safe
    | with_reducible apply State.violateBy_safe | with_reducible apply State.afterRead_safe
    | with_reducible apply State.busRead_safe | split

theorem State.write64_safe (s : State) (m : Master) (off : Nat) (v : Nat) (hl : Within 0x68205fb0dafe ps) (ho : og = none)
    (hx : x₀.Safe ps og s) : x₀.Safe ps og (s.write64 m off v) := by
  unfold State.write64
  try dsimp only
  repeat' first
    | with_reducible assumption | exact hl.of rfl | with_reducible apply State.violateBy_safe
    | with_reducible apply State.guarded_safe | with_reducible apply State.commit_safe
    | with_reducible apply State.busWrite_safe | split | intro _

theorem execRegisterWrite_safe (m : Master) (off : Nat) (v : Word32) (s : State) (hl : Within 0x68205fb0dafe ps)
    (ho : og = none) (hx : x₀.Safe ps og s) : x₀.SafeOut ps og (execRegisterWrite m off v s) := by
  unfold execRegisterWrite
  try dsimp only
  repeat' first
    | with_reducible assumption | with_reducible apply State.SafeOut.next | with_reducible apply State.busWrite_safe

theorem execLpLowRead_safe (m : Master) (off : Nat) (s : State) (hl : Within 0x8000020e ps) (hx : x₀.Safe ps og s) :
    x₀.SafeOut ps og (execLpLowRead m off s) := by
  unfold execLpLowRead
  try dsimp only
  repeat' first
    | with_reducible assumption | with_reducible apply State.SafeOut.next | with_reducible apply State.readAt_safe | split

theorem execLpLowWrite_safe (m : Master) (off : Nat) (v : Word32) (s : State) (hl : Within 0x68205fb0dafe ps) (ho : og = none)
    (hx : x₀.Safe ps og s) : x₀.SafeOut ps og (execLpLowWrite m off v s) := by
  unfold execLpLowWrite
  try dsimp only
  repeat' first
    | with_reducible assumption | with_reducible apply State.SafeOut.next | with_reducible apply State.busWrite_safe | split

theorem execLpHighWrite_safe (m : Master) (off : Nat) (v : Word32) (s : State) (hl : Within 0x68205fb0dafe ps)
    (ho : og = none) (hx : x₀.Safe ps og s) : x₀.SafeOut ps og (execLpHighWrite m off v s) := by
  unfold execLpHighWrite
  try dsimp only
  repeat' first
    | with_reducible assumption | with_reducible apply State.SafeOut.next | with_reducible apply State.busWrite_safe | split

theorem execLpAlignedAccess_safe (m : Master) (off : Nat) (wr : Option Word64) (s : State) (hl : Within 0x6820dfb0dafe ps)
    (ho : og = none) (hx : x₀.Safe ps og s) : x₀.SafeOut ps og (execLpAlignedAccess m off wr s) := by
  unfold execLpAlignedAccess
  try dsimp only
  repeat' first
    | with_reducible assumption | exact hl.of rfl | with_reducible apply State.SafeOut.next
    | with_reducible apply State.read64_safe | with_reducible apply State.write64_safe | split

theorem execSqClearWrite_safe (m : Master) (off : Nat) (v : Word32) (s : State) (hl : Within 0x68205fb0dafe ps)
    (ho : og = none) (hx : x₀.Safe ps og s) : x₀.SafeOut ps og (execSqClearWrite m off v s) := by
  unfold execSqClearWrite
  try dsimp only
  repeat' first
    | with_reducible assumption | with_reducible apply State.SafeOut.next | with_reducible apply State.busWrite_safe | split

theorem execRcCounterRead_safe (m : Master) (off : Nat) (inc : Nat) (s : State) (hl : Within 0x8000020e ps)
    (hx : x₀.Safe ps og s) : x₀.SafeOut ps og (execRcCounterRead m off inc s) := by
  unfold execRcCounterRead
  try dsimp only
  repeat' first
    | with_reducible assumption | exact hl.of rfl | with_reducible apply State.SafeOut.next
    | with_reducible apply State.readAt_safe | with_reducible apply State.countHalf_safe
    | with_reducible apply State.count_safe | split

theorem execUnmappedAccess_safe (m : Master) (off : Nat) (write : Bool) (s : State) (width : Nat) (hl : Within 0x80000206 ps)
    (hx : x₀.Safe ps og s) : x₀.SafeOut ps og (execUnmappedAccess m off write s width) := by
  unfold execUnmappedAccess
  try dsimp only
  repeat' first
    | with_reducible assumption | exact hl.of rfl | with_reducible apply State.SafeOut.next
    | with_reducible apply State.violateBy_safe | with_reducible apply State.answerRead_safe | split

theorem execPrivilegeViolation_safe (m : Master) (off : Nat) (write : Bool) (s : State) (hl : Within 0x6820dfb0dafe ps)
    (ho : og = none) (hx : x₀.Safe ps og s) : x₀.SafeOut ps og (execPrivilegeViolation m off write s) := by
  unfold execPrivilegeViolation
  try dsimp only
  repeat' first
    | with_reducible assumption | exact hl.of rfl | with_reducible apply State.SafeOut.next
    | with_reducible apply State.busWrite_safe | with_reducible apply State.readAt_safe | split

theorem execEvringEnable_safe (m : Master) (v : Word32) (s : State) (hl : Within 0x206 ps) (hx : x₀.Safe ps og s) :
    x₀.SafeOut ps og (execEvringEnable m v s) := by
  unfold execEvringEnable
  try dsimp only
  repeat' first
    | with_reducible assumption | exact hl.of rfl | with_reducible apply State.SafeOut.next
    | with_reducible apply State.guarded_safe | with_reducible apply State.evringCtl_safe | split | intro _

theorem execEvringDisable_safe (m : Master) (v : Word32) (s : State) (hl : Within 0x206 ps) (hx : x₀.Safe ps og s) :
    x₀.SafeOut ps og (execEvringDisable m v s) := by
  unfold execEvringDisable
  try dsimp only
  repeat' first
    | with_reducible assumption | exact hl.of rfl | with_reducible apply State.SafeOut.next
    | with_reducible apply State.guarded_safe | with_reducible apply State.evringCtl_safe | split | intro _

theorem execEvringTailWrite_safe (m : Master) (v : Word32) (s : State) (hl : Within 0x206 ps) (hx : x₀.Safe ps og s) :
    x₀.SafeOut ps og (execEvringTailWrite m v s) := by
  unfold execEvringTailWrite
  try dsimp only
  repeat' first
    | with_reducible assumption | exact hl.of rfl | with_reducible apply State.SafeOut.next
    | with_reducible apply State.guarded_safe | with_reducible apply State.evringTail_safe | intro _

theorem execIcDone_safe (c : CoreId) (v : Word32) (s : State) (hl : Within 0xa06 ps) (hx : x₀.Safe ps og s) :
    x₀.SafeOut ps og (execIcDone c v s) := by
  unfold execIcDone
  try dsimp only
  repeat' first
    | with_reducible assumption | exact hl.of rfl | with_reducible apply State.SafeOut.next
    | with_reducible apply State.guarded_safe | with_reducible apply State.icDone_safe | intro _

theorem execIcRouteWrite_safe (c : CoreId) (n : Fin 2048) (v : Word32) (s : State) (hl : Within 0x206 ps)
    (hx : x₀.Safe ps og s) : x₀.SafeOut ps og (execIcRouteWrite c n v s) := by
  unfold execIcRouteWrite
  try dsimp only
  repeat' first
    | with_reducible assumption | exact hl.of rfl | with_reducible apply State.SafeOut.next
    | with_reducible apply State.guarded_safe | with_reducible apply State.rwWrite_safe | intro _

theorem execIcSignal_safe (c : CoreId) (v : Word32) (s : State) (hl : Within 0xa06 ps) (hx : x₀.Safe ps og s) :
    x₀.SafeOut ps og (execIcSignal c v s) := by
  unfold execIcSignal
  try dsimp only
  repeat' first
    | with_reducible assumption | exact hl.of rfl | with_reducible apply State.SafeOut.next
    | with_reducible apply State.guarded_safe | with_reducible apply State.icSignal_safe | intro _

theorem execSelayTimer_safe (c : CoreId) (s : State) (hl : Within 0x800 ps) (hx : x₀.Safe ps og s) :
    x₀.SafeOut ps og (execSelayTimer c s) := by
  unfold execSelayTimer
  try dsimp only
  repeat' first
    | with_reducible assumption | with_reducible apply State.SafeOut.next | with_reducible apply State.edge_safe

theorem execMsixRaise_safe (c : CoreId) (v : Word32) (s : State) (hl : Within 0x200000001206 ps) (hx : x₀.Safe ps og s) :
    x₀.SafeOut ps og (execMsixRaise c v s) := by
  unfold execMsixRaise
  try dsimp only
  repeat' first
    | with_reducible assumption | exact hl.of rfl | with_reducible apply State.SafeOut.next
    | with_reducible apply State.guarded_safe | with_reducible apply State.msixRaise_safe | intro _

theorem execAmaxWrite_safe (m : Master) (off : Nat) (v : Word32) (fold : Option (BitVec 31)) (s : State)
    (hl : Within 0x206 ps) (hx : x₀.Safe ps og s) : x₀.SafeOut ps og (execAmaxWrite m off v fold s) := by
  unfold execAmaxWrite
  try dsimp only
  repeat' first
    | with_reducible assumption | exact hl.of rfl | with_reducible apply State.SafeOut.next
    | with_reducible apply State.guarded_safe | with_reducible apply State.rwWrite_safe
    | with_reducible apply State.setRegAt_safe | split | intro _

theorem execWatchCtlWrite_safe (m : Master) (g : StallId) (v : Word32) (s : State) (hl : Within 0x4206 ps) (ho : Scope og g)
    (hx : x₀.Safe ps og s) : x₀.SafeOut ps og (execWatchCtlWrite m g v s) := by
  unfold execWatchCtlWrite
  try dsimp only
  repeat' first
    | with_reducible assumption | exact hl.of rfl | with_reducible apply State.SafeOut.next
    | with_reducible apply State.guarded_safe | with_reducible apply State.watchCtl_safe | intro _

theorem State.lostRecord_safe (s : State) (hl : Within 0x404 ps) (hx : x₀.Safe ps og s) : x₀.Safe ps og (s.lostRecord) := by
  unfold State.lostRecord
  try dsimp only
  repeat' first
    | with_reducible assumption | exact hl.of rfl | with_reducible apply State.setReg_safe
    | with_reducible apply State.count_safe | with_reducible apply State.Safe.upd_evLost

theorem State.putRecord_safe (s : State) (e : EvRec) (hl : Within 0x2000000014c4 ps) (hx : x₀.Safe ps og s) :
    x₀.Safe ps og (s.putRecord e) := by
  unfold State.putRecord
  try dsimp only
  repeat' first
    | with_reducible assumption | exact hl.of rfl | with_reducible apply State.cacheLines_safe
    | with_reducible apply State.hwrite_safe | with_reducible apply State.setReg_safe
    | with_reducible apply State.msixSend_safe | split | with_reducible apply State.Safe.upd_evLost

theorem execEventRingWrite_safe (s : State) (hl : Within 0x2000000016c4 ps) (hx : x₀.Safe ps og s) :
    x₀.SafeOut ps og (execEventRingWrite s) := by
  unfold execEventRingWrite
  try dsimp only
  repeat' first
    | with_reducible assumption | exact hl.of rfl | with_reducible apply State.SafeOut.next
    | with_reducible apply State.lostRecord_safe | with_reducible apply State.putRecord_safe | split
    | with_reducible apply State.Safe.upd_events

theorem execRegacc_safe (off : Nat) (wr : Option Word32) (s : State) (hl : Within 0x6820ffb0dafe ps) (ho : og = none)
    (hx : x₀.Safe ps og s) : x₀.SafeOut ps og (execRegacc off wr s) := by
  unfold execRegacc
  try dsimp only
  repeat' first
    | with_reducible assumption | exact hl.of rfl | with_reducible rfl | with_reducible apply State.SafeOut.next
    | with_reducible apply State.jtagRefuse_safe | with_reducible apply State.modBoard_safe
    | with_reducible apply State.busWrite_safe | with_reducible apply State.busRead_safe
    | with_reducible apply State.answerRead_safe | split | intro _

theorem execRegRead_safe (pecOk : Bool) (off : Word32) (s : State) (hl : Within 0x8000020e ps) (hx : x₀.Safe ps og s) :
    x₀.SafeOut ps og (execRegRead pecOk off s) := by
  unfold execRegRead
  try dsimp only
  repeat' first
    | with_reducible assumption | with_reducible apply State.SafeOut.next | with_reducible apply State.readAt_safe | split

theorem execRegWrite_safe (pecOk : Bool) (off : Word32) (v : Word32) (s : State) (hl : Within 0x68205fb0dafe ps)
    (ho : og = none) (hx : x₀.Safe ps og s) : x₀.SafeOut ps og (execRegWrite pecOk off v s) := by
  unfold execRegWrite
  try dsimp only
  repeat' first
    | with_reducible assumption | with_reducible apply State.SafeOut.next | with_reducible apply State.busWrite_safe | split

end Sys2Proof.Machine
end

