-- ==== Sys2Proof/Laws/SafeHostRows.lean ====
section
/-! SUPPORT. The operations of Machine/HostRows.lean keep what Laws/Keeps.lean calls Safe. -/

namespace Sys2Proof.Machine

variable {x₀ : State} {ps : Nat} {og : Option Nat}

theorem execHostLinkDown_safe (s : State) (hl : Within 0x100e00000204 ps) (hx : x₀.Safe ps og s) :
    x₀.SafeOut ps og (execHostLinkDown s) := by
  unfold execHostLinkDown
  try dsimp only
  repeat' first
    | with_reducible assumption | exact hl.of rfl | with_reducible apply State.SafeOut.next
    | with_reducible apply State.raiseOnce_safe | split | with_reducible apply State.Safe.upd_hostUp_speed_width_hostWait

theorem execLinkDownTimeout_safe (s : State) (hl : Within 0x1000004002f4 ps) (hx : x₀.Safe ps og s) :
    x₀.SafeOut ps og (execLinkDownTimeout s) := by
  unfold execLinkDownTimeout
  try dsimp only
  repeat' first
    | with_reducible assumption | exact hl.of rfl | with_reducible apply State.SafeOut.next | with_reducible apply each_safe
    | with_reducible apply State.stopQueue_safe | split | intro _ | with_reducible apply State.Safe.upd_hostWait

theorem State.hostProgram_safe (s : State) (c : HostCfg) (hl : Within 0x601100000000 ps) (hx : x₀.Safe ps og s) :
    x₀.Safe ps og (s.hostProgram c) := by
  unfold State.hostProgram
  try dsimp only
  repeat' first
    | with_reducible assumption | split | with_reducible apply State.Safe.upd_doeErr_hdm_mx_errs

theorem State.linkTrained_safe (s : State) (speed : Nat) (width : Nat) (hl : Within 0x300e804012f4 ps) (hx : x₀.Safe ps og s) :
    x₀.Safe ps og (s.linkTrained speed width) := by
  unfold State.linkTrained
  try dsimp only
  repeat' first
    | with_reducible assumption | exact hl.of rfl | with_reducible apply State.raiseOnce_safe | with_reducible apply each_safe
    | with_reducible apply State.flush_safe | intro _ | with_reducible apply State.Safe.upd_said_hostUp_speed_width_hostWait

theorem execHostLinkUp_safe (speed : Nat) (width : Nat) (cfg : HostCfg) (s : State) (hl : Within 0x701f804012f4 ps)
    (hx : x₀.Safe ps og s) : x₀.SafeOut ps og (execHostLinkUp speed width cfg s) := by
  unfold execHostLinkUp
  try dsimp only
  repeat' first
    | with_reducible assumption | exact hl.of rfl | with_reducible apply State.SafeOut.next
    | with_reducible apply State.hostProgram_safe | with_reducible apply State.linkTrained_safe | split

theorem State.hdmFence_safe (s : State) (b : Nat) (off : Nat) (write : Bool) (hl : Within 0x204 ps) (hx : x₀.Safe ps og s) :
    x₀.Safe ps og (s.hdmFence b off write) := by
  unfold State.hdmFence
  try dsimp only
  repeat' first
    | with_reducible assumption | with_reducible apply State.raiseOnce_safe

theorem execMemrd_safe (hpa : Nat) (s : State) (hl : Within 0x82000204 ps) (hx : x₀.Safe ps og s) :
    x₀.SafeOut ps og (execMemrd hpa s) := by
  unfold execMemrd
  try dsimp only
  repeat' first
    | with_reducible assumption | exact hl.of rfl | with_reducible apply State.SafeOut.next
    | with_reducible apply State.hdmFence_safe | with_reducible apply State.countHalf_safe | split
    | with_reducible refine State.hbmAskRead_safe _ _ _ _ _ _ _ ?_ ?_ (by with_reducible assumption)
    | with_reducible apply State.Safe.upd_said

theorem execMemwr_safe (hpa : Nat) (data : List Byte) (enables : BitVec 64) (poison : Bool) (s : State)
    (hl : Within 0x6000024012f4 ps) (hx : x₀.Safe ps og s) : x₀.SafeOut ps og (execMemwr hpa data enables poison s) := by
  unfold execMemwr
  try dsimp only
  repeat' first
    | with_reducible assumption | exact hl.of rfl | with_reducible apply State.SafeOut.next
    | with_reducible apply State.hdmFence_safe | with_reducible apply State.rasCorrectable_safe
    | with_reducible apply each_safe | with_reducible apply State.countHalf_safe | with_reducible apply State.readTail_safe
    | split | intro _ | with_reducible refine State.hbmAskWrite_safe _ _ _ _ _ _ _ _ ?_ ?_ (by with_reducible assumption)

theorem State.regPacket_safe (s : State) (f : Flit) (serve : State → Host.Outcome State Fault Refusal)
    (h_serve : ∀ y0, x₀.Safe ps og y0 → x₀.SafeOut ps og (serve y0)) (hl : Within 0x1000204 ps) (hx : x₀.Safe ps og s) :
    x₀.SafeOut ps og (s.regPacket f serve) := by
  unfold State.regPacket
  try dsimp only
  repeat' first
    | with_reducible assumption | exact hl.of rfl | with_reducible apply State.SafeOut.next | with_reducible apply h_serve
    | with_reducible apply State.noEndpoint_safe | with_reducible apply State.send_safe
    | with_reducible apply State.takeArrived_safe | split
    | with_reducible refine State.turnedAway_safe _ _ ?_ ?_ (by with_reducible assumption)

theorem execMrd_safe (f : Flit) (s : State) (hl : Within 0x8100020e ps) (hx : x₀.Safe ps og s) :
    x₀.SafeOut ps og (execMrd f s) := by
  unfold execMrd
  try dsimp only
  repeat' first
    | with_reducible assumption | exact hl.of rfl | with_reducible apply State.SafeOut.next
    | with_reducible apply State.regPacket_safe | with_reducible apply State.read64_safe
    | with_reducible apply State.readAt_safe | with_reducible apply State.respond_safe
    | with_reducible apply State.takeFree_safe | split | intro _ | with_reducible apply State.Safe.upd_said

theorem execMwr_safe (f : Flit) (s : State) (hl : Within 0x68205fb0dafe ps) (ho : og = none) (hx : x₀.Safe ps og s) :
    x₀.SafeOut ps og (execMwr f s) := by
  unfold execMwr
  try dsimp only
  repeat' first
    | with_reducible assumption | exact hl.of rfl | with_reducible apply State.SafeOut.next
    | with_reducible apply State.regPacket_safe | with_reducible apply State.write64_safe
    | with_reducible apply State.busWrite_safe | with_reducible apply State.respond_safe
    | with_reducible apply State.takeFree_safe | split | intro _

theorem State.doe_safe (s : State) (a : Doe) (hl : Within 0x80000000 ps) (hx : x₀.Safe ps og s) : x₀.Safe ps og (s.doe a) := by
  unfold State.doe
  try dsimp only
  repeat' first
    | with_reducible assumption | with_reducible apply State.Safe.upd_said

theorem State.doeAsk_safe (s : State) (size : Nat) (f : State → State) (h_f : ∀ y0, x₀.Safe ps og y0 → x₀.Safe ps og (f y0))
    (hl : Within 0x100000000 ps) (hx : x₀.Safe ps og s) : x₀.SafeOut ps og (s.doeAsk size f) := by
  unfold State.doeAsk
  try dsimp only
  repeat' first
    | with_reducible assumption | with_reducible apply State.SafeOut.next | with_reducible apply h_f | split
    | with_reducible apply State.Safe.upd_doeErr

theorem State.spdm_safe (s : State) (size : Nat) (f : State → State) (h_f : ∀ y0, x₀.Safe ps og y0 → x₀.Safe ps og (f y0))
    (hl : Within 0x100000000 ps) (hx : x₀.Safe ps og s) : x₀.SafeOut ps og (s.spdm size f) := by
  unfold State.spdm
  try dsimp only
  repeat' first
    | with_reducible assumption | with_reducible apply h_f | with_reducible apply State.doeAsk_safe | split | intro _

theorem execGetVersion_safe (size : Nat) (s : State) (hl : Within 0x180000000 ps) (hx : x₀.Safe ps og s) :
    x₀.SafeOut ps og (execGetVersion size s) := by
  unfold execGetVersion
  try dsimp only
  repeat' first
    | with_reducible assumption | exact hl.of rfl | with_reducible apply State.spdm_safe | with_reducible apply State.doe_safe
    | intro _

theorem execGetCapabilities_safe (size : Nat) (s : State) (hl : Within 0x180000000 ps) (hx : x₀.Safe ps og s) :
    x₀.SafeOut ps og (execGetCapabilities size s) := by
  unfold execGetCapabilities
  try dsimp only
  repeat' first
    | with_reducible assumption | exact hl.of rfl | with_reducible apply State.spdm_safe | with_reducible apply State.doe_safe
    | intro _

theorem execNegotiateAlgorithms_safe (p384 : Bool) (sha384 : Bool) (size : Nat) (s : State) (hl : Within 0x180000000 ps)
    (hx : x₀.Safe ps og s) : x₀.SafeOut ps og (execNegotiateAlgorithms p384 sha384 size s) := by
  unfold execNegotiateAlgorithms
  try dsimp only
  repeat' first
    | with_reducible assumption | exact hl.of rfl | with_reducible apply State.spdm_safe | with_reducible apply State.doe_safe
    | intro _

theorem execGetDigests_safe (size : Nat) (s : State) (hl : Within 0x180000000 ps) (hx : x₀.Safe ps og s) :
    x₀.SafeOut ps og (execGetDigests size s) := by
  unfold execGetDigests
  try dsimp only
  repeat' first
    | with_reducible assumption | exact hl.of rfl | with_reducible apply State.spdm_safe | with_reducible apply State.doe_safe
    | intro _

theorem execGetCertificate_safe (offset : Nat) (length : Nat) (size : Nat) (s : State) (hl : Within 0x180000000 ps)
    (hx : x₀.Safe ps og s) : x₀.SafeOut ps og (execGetCertificate offset length size s) := by
  unfold execGetCertificate
  try dsimp only
  repeat' first
    | with_reducible assumption | exact hl.of rfl | with_reducible apply State.spdm_safe | with_reducible apply State.doe_safe
    | intro _

theorem execChallenge_safe (nonce : List Byte) (size : Nat) (s : State) (hl : Within 0x180000002 ps) (hx : x₀.Safe ps og s) :
    x₀.SafeOut ps og (execChallenge nonce size s) := by
  unfold execChallenge
  try dsimp only
  repeat' first
    | with_reducible assumption | exact hl.of rfl | with_reducible apply State.spdm_safe
    | with_reducible apply State.takeFree_safe | with_reducible apply State.doe_safe | intro _

theorem execGetMeasurements_safe (index : Nat) (signed : Bool) (size : Nat) (s : State) (hl : Within 0x180000002 ps)
    (hx : x₀.Safe ps og s) : x₀.SafeOut ps og (execGetMeasurements index signed size s) := by
  unfold execGetMeasurements
  try dsimp only
  repeat' first
    | with_reducible assumption | exact hl.of rfl | with_reducible apply State.spdm_safe
    | with_reducible apply State.takeFree_safe | with_reducible apply State.doe_safe | split | intro _

theorem execKeyExchange_safe (code : Byte) (size : Nat) (s : State) (hl : Within 0x180000000 ps) (hx : x₀.Safe ps og s) :
    x₀.SafeOut ps og (execKeyExchange code size s) := by
  unfold execKeyExchange
  try dsimp only
  repeat' first
    | with_reducible assumption | exact hl.of rfl | with_reducible apply State.spdm_safe | with_reducible apply State.doe_safe
    | intro _

theorem execDoeDiscovery_safe (index : Nat) (size : Nat) (s : State) (hl : Within 0x180000000 ps) (hx : x₀.Safe ps og s) :
    x₀.SafeOut ps og (execDoeDiscovery index size s) := by
  unfold execDoeDiscovery
  try dsimp only
  repeat' first
    | with_reducible assumption | exact hl.of rfl | with_reducible apply State.doeAsk_safe
    | with_reducible apply State.doe_safe | split | intro _

end Sys2Proof.Machine
end

