-- ==== Sys2Proof/Laws/SafeFirmware.lean ====
section
/-! SUPPORT. The operations of Machine/Firmware.lean keep what Laws/Keeps.lean calls Safe. -/

namespace Sys2Proof.Machine

variable {x₀ : State} {ps : Nat} {og : Option Nat}

theorem State.command_safe (s : State) (mb : Nat) (op : Nat) (all : Bool) (size : Nat) (rsv : Mbox → Bool) (f : Mbox → State)
    (h_f : ∀ y0, x₀.Safe ps og (f y0)) (hl : Within 0x202000001000 ps) (hx : x₀.Safe ps og s) :
    x₀.SafeOut ps og (s.command mb op all size rsv f) := by
  unfold State.command
  try dsimp only
  repeat' first
    | with_reducible assumption | with_reducible apply State.SafeOut.next | with_reducible apply h_f
    | with_reducible apply State.answer_safe | split

theorem State.queueCommand_safe (s : State) (mb : Nat) (op : Nat) (size : Nat) (rsv : Mbox → Bool) (f : Mbox → Nat → State)
    (h_f : ∀ y0 y1, x₀.Safe ps og (f y0 y1)) (hl : Within 0x202000001000 ps) (hx : x₀.Safe ps og s) :
    x₀.SafeOut ps og (s.queueCommand mb op size rsv f) := by
  unfold State.queueCommand
  try dsimp only
  repeat' first
    | with_reducible assumption | with_reducible apply h_f | with_reducible apply State.command_safe
    | with_reducible apply State.answer_safe | split | intro _

theorem execIdentify_safe (mb : MailboxId) (s : State) (hl : Within 0x202000001000 ps) (hx : x₀.Safe ps og s) :
    x₀.SafeOut ps og (execIdentify mb s) := by
  unfold execIdentify
  try dsimp only
  repeat' first
    | with_reducible assumption | with_reducible apply State.command_safe | with_reducible apply State.answer_safe | intro _

theorem execFqConfig_safe (mb : MailboxId) (s : State) (hl : Within 0x2020004012f4 ps) (hx : x₀.Safe ps og s) :
    x₀.SafeOut ps og (execFqConfig mb s) := by
  unfold execFqConfig
  try dsimp only
  repeat' first
    | with_reducible assumption | exact hl.of rfl | with_reducible apply State.command_safe
    | with_reducible apply State.answer_safe | with_reducible apply State.ringLines_safe
    | with_reducible apply State.modQueue_safe | with_reducible apply State.writeHead_safe | split | intro _

theorem execFqStop_safe (mb : MailboxId) (s : State) (hl : Within 0x2020004012f4 ps) (hx : x₀.Safe ps og s) :
    x₀.SafeOut ps og (execFqStop mb s) := by
  unfold execFqStop
  try dsimp only
  repeat' first
    | with_reducible assumption | exact hl.of rfl | with_reducible apply State.command_safe
    | with_reducible apply State.answer_safe | with_reducible apply State.stopQueue_safe | split | intro _

theorem execXlateInval_safe (mb : MailboxId) (s : State) (hl : Within 0x202000105000 ps) (ho : og = none)
    (hx : x₀.Safe ps og s) : x₀.SafeOut ps og (execXlateInval mb s) := by
  unfold execXlateInval
  try dsimp only
  repeat' first
    | with_reducible assumption | exact hl.of rfl | with_reducible apply State.queueCommand_safe
    | with_reducible apply State.answer_safe | with_reducible apply State.invalidate_safe | split | intro _

theorem execPageResolved_safe (mb : MailboxId) (s : State) (hl : Within 0x202000201000 ps) (hx : x₀.Safe ps og s) :
    x₀.SafeOut ps og (execPageResolved mb s) := by
  unfold execPageResolved
  try dsimp only
  repeat' first
    | with_reducible assumption | exact hl.of rfl | with_reducible apply State.queueCommand_safe
    | with_reducible apply State.answer_safe | with_reducible apply State.modJob_safe
    | with_reducible apply State.causeFor_safe | split | intro _

theorem State.giveUp_safe (s : State) (slot : Nat) (hl : Within 0x204234 ps) (ho : og = none) (hx : x₀.Safe ps og s) :
    x₀.Safe ps og (s.giveUp slot) := by
  unfold State.giveUp
  try dsimp only
  repeat' first
    | with_reducible assumption | exact hl.of rfl | with_reducible apply State.modJob_safe
    | with_reducible apply State.abandonJob_safe | split

theorem execJobAbandon_safe (mb : MailboxId) (s : State) (hl : Within 0x202000205234 ps) (ho : og = none)
    (hx : x₀.Safe ps og s) : x₀.SafeOut ps og (execJobAbandon mb s) := by
  unfold execJobAbandon
  try dsimp only
  repeat' first
    | with_reducible assumption | exact hl.of rfl | with_reducible apply State.queueCommand_safe
    | with_reducible apply State.answer_safe | with_reducible apply State.giveUp_safe | split | intro _

theorem State.ctxCommand_safe (s : State) (mb : Nat) (op : Nat) (size : Nat) (rsv : Mbox → Bool)
    (f : Mbox → Nat → List Byte → State) (h_f : ∀ y0 y1 y2, x₀.Safe ps og (f y0 y1 y2)) (hl : Within 0x202000001000 ps)
    (hx : x₀.Safe ps og s) : x₀.SafeOut ps og (s.ctxCommand mb op size rsv f) := by
  unfold State.ctxCommand
  try dsimp only
  repeat' first
    | with_reducible assumption | with_reducible apply h_f | with_reducible apply State.command_safe
    | with_reducible apply State.answer_safe | split | intro _

theorem execCtxOpen_safe (mb : MailboxId) (s : State) (hl : Within 0xa02000001030 ps) (hx : x₀.Safe ps og s) :
    x₀.SafeOut ps og (execCtxOpen mb s) := by
  unfold execCtxOpen
  try dsimp only
  repeat' first
    | with_reducible assumption | exact hl.of rfl | with_reducible apply State.ctxCommand_safe
    | with_reducible apply State.answer_safe | with_reducible apply State.ctxSet_safe | split | intro _

theorem execCtxSet_safe (mb : MailboxId) (s : State) (hl : Within 0xa02000001030 ps) (hx : x₀.Safe ps og s) :
    x₀.SafeOut ps og (execCtxSet mb s) := by
  unfold execCtxSet
  try dsimp only
  repeat' first
    | with_reducible assumption | exact hl.of rfl | with_reducible apply State.ctxCommand_safe
    | with_reducible apply State.answer_safe | with_reducible apply State.ctxSet_safe | split | intro _

theorem execCtxClose_safe (mb : MailboxId) (s : State) (hl : Within 0xa02000001030 ps) (hx : x₀.Safe ps og s) :
    x₀.SafeOut ps og (execCtxClose mb s) := by
  unfold execCtxClose
  try dsimp only
  repeat' first
    | with_reducible assumption | exact hl.of rfl | with_reducible apply State.ctxCommand_safe
    | with_reducible apply State.answer_safe | with_reducible apply State.ctxSet_safe | split | intro _

theorem execCtxRead_safe (mb : MailboxId) (s : State) (hl : Within 0x202000001000 ps) (hx : x₀.Safe ps og s) :
    x₀.SafeOut ps og (execCtxRead mb s) := by
  unfold execCtxRead
  try dsimp only
  repeat' first
    | with_reducible assumption | with_reducible apply State.ctxCommand_safe | with_reducible apply State.answer_safe | intro _

theorem execBatchClass_safe (mb : MailboxId) (s : State) (hl : Within 0x242000001004 ps) (hx : x₀.Safe ps og s) :
    x₀.SafeOut ps og (execBatchClass mb s) := by
  unfold execBatchClass
  try dsimp only
  repeat' first
    | with_reducible assumption | exact hl.of rfl | with_reducible apply State.command_safe
    | with_reducible apply State.answer_safe | with_reducible apply State.cacheLines_safe | split | intro _
    | with_reducible apply State.Safe.upd_classes

theorem execCfgLoad_safe (mb : MailboxId) (s : State) (hl : Within 0x202008001004 ps) (hx : x₀.Safe ps og s) :
    x₀.SafeOut ps og (execCfgLoad mb s) := by
  unfold execCfgLoad
  try dsimp only
  repeat' first
    | with_reducible assumption | exact hl.of rfl | with_reducible apply State.command_safe
    | with_reducible apply State.answer_safe | with_reducible apply State.modCfg_safe | with_reducible apply State.setReg_safe
    | with_reducible apply State.startLoad_safe | split | intro _

theorem execCfgSession_safe (mb : MailboxId) (s : State) (hl : Within 0x20200d005234 ps) (ho : og = none)
    (hx : x₀.Safe ps og s) : x₀.SafeOut ps og (execCfgSession mb s) := by
  unfold execCfgSession
  try dsimp only
  repeat' first
    | with_reducible assumption | exact hl.of rfl | with_reducible apply State.command_safe
    | with_reducible apply State.answer_safe | with_reducible apply State.endSession_safe
    | with_reducible apply State.restartSession_safe | split | intro _

theorem execCfgIsolate_safe (mb : MailboxId) (s : State) (hl : Within 0x20200d005234 ps) (ho : og = none)
    (hx : x₀.Safe ps og s) : x₀.SafeOut ps og (execCfgIsolate mb s) := by
  unfold execCfgIsolate
  try dsimp only
  repeat' first
    | with_reducible assumption | exact hl.of rfl | with_reducible apply State.command_safe
    | with_reducible apply State.answer_safe | with_reducible apply State.opIsolate_safe | split | intro _

theorem execSpdigestSet_safe (mb : MailboxId) (s : State) (hl : Within 0x202000001004 ps) (hx : x₀.Safe ps og s) :
    x₀.SafeOut ps og (execSpdigestSet mb s) := by
  unfold execSpdigestSet
  try dsimp only
  repeat' first
    | with_reducible assumption | exact hl.of rfl | with_reducible apply State.command_safe
    | with_reducible apply State.answer_safe | with_reducible apply State.setRegBytes_safe | intro _

theorem execBayFence_safe (mb : MailboxId) (s : State) (hl : Within 0xa8206f7ff234 ps) (ho : og = none) (hx : x₀.Safe ps og s) :
    x₀.SafeOut ps og (execBayFence mb s) := by
  unfold execBayFence
  try dsimp only
  repeat' first
    | with_reducible assumption | exact hl.of rfl | with_reducible apply State.command_safe
    | with_reducible apply State.answer_safe | with_reducible apply State.fenceBay_safe | split | intro _

theorem State.openBridges_safe (s : State) (b : Nat) (hl : Within 0x1000000 ps) (hx : x₀.Safe ps og s) :
    x₀.Safe ps og (s.openBridges b) := by
  unfold State.openBridges
  try dsimp only
  repeat' first
    | with_reducible assumption | with_reducible apply each_safe | with_reducible apply State.modNet_safe | intro _

theorem State.restoreContexts_safe (s : State) (b : Nat) (hl : Within 0x30 ps) (hx : x₀.Safe ps og s) :
    x₀.Safe ps og (s.restoreContexts b) := by
  unfold State.restoreContexts
  try dsimp only
  repeat' first
    | with_reducible assumption | with_reducible apply State.copyMem_safe | split

theorem State.rewriteRoutes_safe (s : State) (b : Nat) (hl : Within 0x1000004 ps) (hx : x₀.Safe ps og s) :
    x₀.Safe ps og (s.rewriteRoutes b) := by
  unfold State.rewriteRoutes
  try dsimp only
  repeat' first
    | with_reducible assumption | exact hl.of rfl | with_reducible apply each_safe | with_reducible apply State.setReg_safe
    | with_reducible apply State.routeCommit_safe | intro _

theorem State.returnBay_kept (s : State) (b : Nat) (hl : Within 0x63002236 ps) : s.Kept ps og (s.returnBay b) := by
  unfold State.returnBay
  dsimp only
  refine State.Kept.trans (t := { s with fenced := Tab.set false s.fenced b false })
    ⟨⟨rfl, id, fun k => FuseSlot.within_refl k _, Nat.le_refl _⟩,
      State.Only.of (a := 0x2000) (hl.of rfl) (fun p hp => by cases p <;> first | rfl | contradiction) (.inr rfl)⟩ (State.Safe.kept ?_)
  generalize { s with fenced := Tab.set false s.fenced b false } = y
  have hy : y.Safe ps og y := .refl y
  have port : ∀ (c : Prop) [Decidable c] (y z : State), y.Safe ps og z → y.Safe ps og (if c then z.linkLeave (b / 8) 1 none else z) := by
    intro c _ y z hz
    split
    · exact State.linkLeave_safe _ _ _ _ (hl.of rfl) hz
    · exact hz
  refine State.takeFree_safe _ (hl.of rfl) (State.setReg_safe _ _ _ _ _ (hl.of rfl) (State.rewriteRoutes_safe _ _ (hl.of rfl) (port _ _ _ (State.restoreContexts_safe _ _ (hl.of rfl) (State.openBridges_safe _ _ (hl.of rfl) ?_)))))
  exact State.modHbm_safe _ _ _ (hl.of rfl) (State.showRate_safe _ _ (hl.of rfl) (State.setFld_safe _ _ _ _ _ _ _ (hl.of rfl) (State.modBoard_safe _ _ (fun _ => rfl) (hl.of rfl) hy)))

theorem execBayReturn_kept (mb : MailboxId) (good : Bool) (s : State) (hl : Within 0x202063003236 ps) : s.KeptOut ps og
    (execBayReturn mb good s) := by
  have ha : ∀ st bs, s.Kept ps og (s.answer mb st bs) := fun st bs => (State.answer_safe _ _ _ _ (hl.of rfl) (.refl s)).kept
  unfold execBayReturn State.command
  split
  · exact State.Kept.refl s
  · split
    · exact ha _ _
    · split
      · exact ha _ _
      · dsimp only
        split
        · exact ha _ _
        · split
          · exact ha _ _
          · exact (State.returnBay_kept s _ (hl.of rfl)).trans (State.answer_safe _ _ _ _ (hl.of rfl) (.refl _)).kept

theorem execEngBudget_safe (mb : MailboxId) (s : State) (hl : Within 0x282000001000 ps) (hx : x₀.Safe ps og s) :
    x₀.SafeOut ps og (execEngBudget mb s) := by
  unfold execEngBudget
  try dsimp only
  repeat' first
    | with_reducible assumption | exact hl.of rfl | with_reducible apply State.command_safe
    | with_reducible apply State.answer_safe | with_reducible apply State.modEng_safe | split | intro _

theorem execEngRead_safe (mb : MailboxId) (s : State) (hl : Within 0x202000001000 ps) (hx : x₀.Safe ps og s) :
    x₀.SafeOut ps og (execEngRead mb s) := by
  unfold execEngRead
  try dsimp only
  repeat' first
    | with_reducible assumption | with_reducible apply State.command_safe | with_reducible apply State.answer_safe | intro _

theorem State.lcEvent_safe (s : State) (before : Nat) (target : Nat) (reason : Nat) (hl : Within 0x204 ps)
    (hx : x₀.Safe ps og s) : x₀.Safe ps og (s.lcEvent before target reason) := by
  unfold State.lcEvent
  try dsimp only
  repeat' first
    | with_reducible assumption | with_reducible apply State.raiseOnce_safe

theorem State.runFuses_safe (s : State) (target : Nat) (bad : Option Nat) (l : List (Nat × Nat)) (hl : Within 0x10000206 ps)
    (hx : x₀.Safe ps og s) :
    x₀.Safe ps og (s.runFuses target bad l).1 := by
  induction l generalizing s bad with
  | nil => exact hx
  | cons e t ih =>
    obtain ⟨slot, kind⟩ := e
    unfold State.runFuses
    dsimp only
    split
    · exact ih _ _ (State.fuseResult_safe _ _ _ (hl.of rfl) hx)
    · split
      · exact State.fuseDone_safe s { slot := slot, kind := kind, data := target } false (hl.of rfl) hx
      · exact ih _ _ (State.fuseDone_safe _ _ _ (hl.of rfl) hx)
      · exact ih _ _ (State.fuseDone_safe _ _ _ (hl.of rfl) hx)

theorem State.lcRun_safe (s : State) (mb : Nat) (target : Nat) (bad : Option Nat) (hl : Within 0x20201d005236 ps)
    (ho : og = none) (hx : x₀.Safe ps og s) : x₀.Safe ps og (s.lcRun mb target bad) := by
  unfold State.lcRun
  try dsimp only
  repeat' first
    | with_reducible assumption | exact hl.of rfl | with_reducible rfl | with_reducible apply State.modSec_safe
    | with_reducible apply State.runFuses_safe | with_reducible apply State.answer_safe
    | with_reducible apply State.lcEvent_safe | with_reducible apply each_safe | with_reducible apply State.isolateClear_safe
    | split | intro _

theorem execLcTransition_safe (mb : MailboxId) (bad : Option Nat) (s : State) (hl : Within 0x20201d005236 ps) (ho : og = none)
    (hx : x₀.Safe ps og s) : x₀.SafeOut ps og (execLcTransition mb bad s) := by
  unfold execLcTransition
  try dsimp only
  repeat' first
    | with_reducible assumption | exact hl.of rfl | with_reducible apply State.command_safe
    | with_reducible apply State.answer_safe | with_reducible apply State.newNonce_safe
    | with_reducible apply State.lcEvent_safe | with_reducible apply State.lcRun_safe | split | intro _

theorem execWarmReset_safe (mb : MailboxId) (s : State) (hl : Within 0x21609fef52f6 ps) (ho : og = none)
    (hx : x₀.Safe ps og s) : x₀.SafeOut ps og (execWarmReset mb s) := by
  unfold execWarmReset
  try dsimp only
  repeat' first
    | with_reducible assumption | exact hl.of rfl | with_reducible apply State.command_safe
    | with_reducible apply State.warmReset_safe | intro _

theorem State.answerOdd_safe (s : State) (mb : Nat) (hl : Within 0x202000001000 ps) (hx : x₀.Safe ps og s) :
    x₀.Safe ps og (s.answerOdd mb) := by
  unfold State.answerOdd
  try dsimp only
  repeat' first
    | with_reducible assumption | with_reducible apply State.answer_safe | split

end Sys2Proof.Machine
end

