-- ==== Sys2Proof/Laws/SafeTick.lean ====
section
/-! SUPPORT. The operations of Machine/Tick.lean keep what Laws/Keeps.lean calls Safe. -/

namespace Sys2Proof.Machine

variable {x₀ : State} {ps : Nat} {og : Option Nat}

theorem State.countPeriods_safe (s : State) (hl : Within 0x100 ps) (hx : x₀.Safe ps og s) : x₀.Safe ps og (s.countPeriods) := by
  unfold State.countPeriods
  try dsimp only
  repeat' first
    | with_reducible assumption | with_reducible apply each_safe | split | intro _ | with_reducible apply State.Safe.upd_lcount

theorem State.portPeriod_safe (s : State) (g : Nat) (hl : Within 0x400006b042f4 ps) (ho : Scope og g) (hx : x₀.Safe ps og s) :
    x₀.Safe ps og (s.portPeriod g) := by
  unfold State.portPeriod
  try dsimp only
  repeat' first
    | with_reducible assumption | with_reducible apply State.moveRow_safe | split

theorem State.stallPeriod_safe (s : State) (g : Nat) (hl : Within 0x400006b042f6 ps) (ho : Scope og g) (hx : x₀.Safe ps og s) :
    x₀.Safe ps og (s.stallPeriod g) := by
  unfold State.stallPeriod
  try dsimp only
  repeat' first
    | with_reducible assumption | exact hl.of rfl | with_reducible apply State.count_safe
    | with_reducible apply State.vNextRow_safe | with_reducible apply each_safe | with_reducible apply State.portPeriod_safe
    | split | intro _

theorem State.period_safe (s : State) (hl : Within 0x602047b053f6 ps) (ho : og = none) (hx : x₀.Safe ps og s) :
    x₀.Safe ps og (s.period) := by
  unfold State.period
  try dsimp only
  repeat' first
    | with_reducible assumption | exact hl.of rfl | with_reducible exact Scope.none ho
    | with_reducible apply State.countPeriods_safe | with_reducible apply each_safe
    | with_reducible apply State.stallPeriod_safe | with_reducible apply State.fabPeriod_safe
    | with_reducible apply State.drainTracer_safe | with_reducible apply State.linkPeriod_safe
    | with_reducible apply State.answerOdd_safe | split | intro _

end Sys2Proof.Machine
end

