-- ==== Sys2Proof/Laws/State.lean ====
section
/-! SUPPORT. Fields of the state after each shared operation: those that it leaves, and what is read back from the one it changes. -/

namespace Sys2Proof.Machine

/-- setRegAt changes no field but regs. -/
@[simp] theorem State.setRegAt_fields (s : State) (r : RegAt) (v : Nat) :
    (s.setRegAt r v).pending = s.pending ∧ (s.setRegAt r v).free = s.free ∧ (s.setRegAt r v).latch = s.latch ∧
    (s.setRegAt r v).mem = s.mem ∧ (s.setRegAt r v).memTag = s.memTag ∧ (s.setRegAt r v).host = s.host ∧
    (s.setRegAt r v).hostTag = s.hostTag ∧ (s.setRegAt r v).lcount = s.lcount ∧ (s.setRegAt r v).events = s.events ∧
    (s.setRegAt r v).evLost = s.evLost ∧ (s.setRegAt r v).icEdge = s.icEdge ∧ (s.setRegAt r v).msix = s.msix ∧
    (s.setRegAt r v).fenced = s.fenced ∧ (s.setRegAt r v).stalls = s.stalls ∧ (s.setRegAt r v).cells = s.cells ∧
    (s.setRegAt r v).takeQ = s.takeQ ∧ (s.setRegAt r v).reportQ = s.reportQ ∧ (s.setRegAt r v).answers = s.answers ∧
    (s.setRegAt r v).tokens = s.tokens ∧ (s.setRegAt r v).bayTlb = s.bayTlb ∧ (s.setRegAt r v).jobs = s.jobs ∧
    (s.setRegAt r v).queues = s.queues ∧ (s.setRegAt r v).faultQ = s.faultQ ∧ (s.setRegAt r v).net = s.net ∧
    (s.setRegAt r v).hbms = s.hbms ∧ (s.setRegAt r v).fabs = s.fabs ∧ (s.setRegAt r v).cfg = s.cfg ∧
    (s.setRegAt r v).sec = s.sec ∧ (s.setRegAt r v).board = s.board ∧ (s.setRegAt r v).links = s.links ∧
    (s.setRegAt r v).said = s.said ∧ (s.setRegAt r v).doeErr = s.doeErr ∧ (s.setRegAt r v).hostUp = s.hostUp ∧
    (s.setRegAt r v).speed = s.speed ∧ (s.setRegAt r v).width = s.width ∧ (s.setRegAt r v).hdm = s.hdm ∧
    (s.setRegAt r v).mboxes = s.mboxes ∧ (s.setRegAt r v).fw = s.fw ∧ (s.setRegAt r v).viral = s.viral ∧
    (s.setRegAt r v).warms = s.warms ∧ (s.setRegAt r v).accepts = s.accepts ∧ (s.setRegAt r v).classes = s.classes ∧
    (s.setRegAt r v).eng = s.eng ∧ (s.setRegAt r v).hostWait = s.hostWait ∧ (s.setRegAt r v).mx = s.mx ∧
    (s.setRegAt r v).errs = s.errs ∧ (s.setRegAt r v).ctxLost = s.ctxLost :=
  ⟨rfl, rfl, rfl, rfl, rfl, rfl, rfl, rfl, rfl, rfl, rfl, rfl, rfl, rfl, rfl, rfl, rfl, rfl, rfl, rfl, rfl, rfl, rfl, rfl, rfl, rfl, rfl, rfl, rfl, rfl, rfl, rfl, rfl, rfl, rfl, rfl, rfl, rfl, rfl, rfl, rfl, rfl, rfl, rfl, rfl, rfl, rfl⟩

/-- setReg changes no field but regs. -/
@[simp] theorem State.setReg_fields (s : State) (r : Rn) (n i v : Nat) :
    (s.setReg r n i v).pending = s.pending ∧ (s.setReg r n i v).free = s.free ∧ (s.setReg r n i v).latch = s.latch ∧
    (s.setReg r n i v).mem = s.mem ∧ (s.setReg r n i v).memTag = s.memTag ∧ (s.setReg r n i v).host = s.host ∧
    (s.setReg r n i v).hostTag = s.hostTag ∧ (s.setReg r n i v).lcount = s.lcount ∧ (s.setReg r n i v).events = s.events ∧
    (s.setReg r n i v).evLost = s.evLost ∧ (s.setReg r n i v).icEdge = s.icEdge ∧ (s.setReg r n i v).msix = s.msix ∧
    (s.setReg r n i v).fenced = s.fenced ∧ (s.setReg r n i v).stalls = s.stalls ∧ (s.setReg r n i v).cells = s.cells ∧
    (s.setReg r n i v).takeQ = s.takeQ ∧ (s.setReg r n i v).reportQ = s.reportQ ∧ (s.setReg r n i v).answers = s.answers ∧
    (s.setReg r n i v).tokens = s.tokens ∧ (s.setReg r n i v).bayTlb = s.bayTlb ∧ (s.setReg r n i v).jobs = s.jobs ∧
    (s.setReg r n i v).queues = s.queues ∧ (s.setReg r n i v).faultQ = s.faultQ ∧ (s.setReg r n i v).net = s.net ∧
    (s.setReg r n i v).hbms = s.hbms ∧ (s.setReg r n i v).fabs = s.fabs ∧ (s.setReg r n i v).cfg = s.cfg ∧
    (s.setReg r n i v).sec = s.sec ∧ (s.setReg r n i v).board = s.board ∧ (s.setReg r n i v).links = s.links ∧
    (s.setReg r n i v).said = s.said ∧ (s.setReg r n i v).doeErr = s.doeErr ∧ (s.setReg r n i v).hostUp = s.hostUp ∧
    (s.setReg r n i v).speed = s.speed ∧ (s.setReg r n i v).width = s.width ∧ (s.setReg r n i v).hdm = s.hdm ∧
    (s.setReg r n i v).mboxes = s.mboxes ∧ (s.setReg r n i v).fw = s.fw ∧ (s.setReg r n i v).viral = s.viral ∧
    (s.setReg r n i v).warms = s.warms ∧ (s.setReg r n i v).accepts = s.accepts ∧ (s.setReg r n i v).classes = s.classes ∧
    (s.setReg r n i v).eng = s.eng ∧ (s.setReg r n i v).hostWait = s.hostWait ∧ (s.setReg r n i v).mx = s.mx ∧
    (s.setReg r n i v).errs = s.errs ∧ (s.setReg r n i v).ctxLost = s.ctxLost :=
  ⟨rfl, rfl, rfl, rfl, rfl, rfl, rfl, rfl, rfl, rfl, rfl, rfl, rfl, rfl, rfl, rfl, rfl, rfl, rfl, rfl, rfl, rfl, rfl, rfl, rfl, rfl, rfl, rfl, rfl, rfl, rfl, rfl, rfl, rfl, rfl, rfl, rfl, rfl, rfl, rfl, rfl, rfl, rfl, rfl, rfl, rfl, rfl⟩

/-- rwWrite changes no field but regs. -/
@[simp] theorem State.rwWrite_fields (s : State) (r : RegAt) (v : Nat) :
    (s.rwWrite r v).pending = s.pending ∧ (s.rwWrite r v).free = s.free ∧ (s.rwWrite r v).latch = s.latch ∧
    (s.rwWrite r v).mem = s.mem ∧ (s.rwWrite r v).memTag = s.memTag ∧ (s.rwWrite r v).host = s.host ∧
    (s.rwWrite r v).hostTag = s.hostTag ∧ (s.rwWrite r v).lcount = s.lcount ∧ (s.rwWrite r v).events = s.events ∧
    (s.rwWrite r v).evLost = s.evLost ∧ (s.rwWrite r v).icEdge = s.icEdge ∧ (s.rwWrite r v).msix = s.msix ∧
    (s.rwWrite r v).fenced = s.fenced ∧ (s.rwWrite r v).stalls = s.stalls ∧ (s.rwWrite r v).cells = s.cells ∧
    (s.rwWrite r v).takeQ = s.takeQ ∧ (s.rwWrite r v).reportQ = s.reportQ ∧ (s.rwWrite r v).answers = s.answers ∧
    (s.rwWrite r v).tokens = s.tokens ∧ (s.rwWrite r v).bayTlb = s.bayTlb ∧ (s.rwWrite r v).jobs = s.jobs ∧
    (s.rwWrite r v).queues = s.queues ∧ (s.rwWrite r v).faultQ = s.faultQ ∧ (s.rwWrite r v).net = s.net ∧
    (s.rwWrite r v).hbms = s.hbms ∧ (s.rwWrite r v).fabs = s.fabs ∧ (s.rwWrite r v).cfg = s.cfg ∧ (s.rwWrite r v).sec = s.sec ∧
    (s.rwWrite r v).board = s.board ∧ (s.rwWrite r v).links = s.links ∧ (s.rwWrite r v).said = s.said ∧
    (s.rwWrite r v).doeErr = s.doeErr ∧ (s.rwWrite r v).hostUp = s.hostUp ∧ (s.rwWrite r v).speed = s.speed ∧
    (s.rwWrite r v).width = s.width ∧ (s.rwWrite r v).hdm = s.hdm ∧ (s.rwWrite r v).mboxes = s.mboxes ∧
    (s.rwWrite r v).fw = s.fw ∧ (s.rwWrite r v).viral = s.viral ∧ (s.rwWrite r v).warms = s.warms ∧
    (s.rwWrite r v).accepts = s.accepts ∧ (s.rwWrite r v).classes = s.classes ∧ (s.rwWrite r v).eng = s.eng ∧
    (s.rwWrite r v).hostWait = s.hostWait ∧ (s.rwWrite r v).mx = s.mx ∧ (s.rwWrite r v).errs = s.errs ∧
    (s.rwWrite r v).ctxLost = s.ctxLost :=
  ⟨rfl, rfl, rfl, rfl, rfl, rfl, rfl, rfl, rfl, rfl, rfl, rfl, rfl, rfl, rfl, rfl, rfl, rfl, rfl, rfl, rfl, rfl, rfl, rfl, rfl, rfl, rfl, rfl, rfl, rfl, rfl, rfl, rfl, rfl, rfl, rfl, rfl, rfl, rfl, rfl, rfl, rfl, rfl, rfl, rfl, rfl, rfl⟩

/-- setFld changes no field but regs. -/
@[simp] theorem State.setFld_fields (s : State) (r : Rn) (n i hi lo x : Nat) :
    (s.setFld r n i hi lo x).pending = s.pending ∧ (s.setFld r n i hi lo x).free = s.free ∧
    (s.setFld r n i hi lo x).latch = s.latch ∧ (s.setFld r n i hi lo x).mem = s.mem ∧
    (s.setFld r n i hi lo x).memTag = s.memTag ∧ (s.setFld r n i hi lo x).host = s.host ∧
    (s.setFld r n i hi lo x).hostTag = s.hostTag ∧ (s.setFld r n i hi lo x).lcount = s.lcount ∧
    (s.setFld r n i hi lo x).events = s.events ∧ (s.setFld r n i hi lo x).evLost = s.evLost ∧
    (s.setFld r n i hi lo x).icEdge = s.icEdge ∧ (s.setFld r n i hi lo x).msix = s.msix ∧
    (s.setFld r n i hi lo x).fenced = s.fenced ∧ (s.setFld r n i hi lo x).stalls = s.stalls ∧
    (s.setFld r n i hi lo x).cells = s.cells ∧ (s.setFld r n i hi lo x).takeQ = s.takeQ ∧
    (s.setFld r n i hi lo x).reportQ = s.reportQ ∧ (s.setFld r n i hi lo x).answers = s.answers ∧
    (s.setFld r n i hi lo x).tokens = s.tokens ∧ (s.setFld r n i hi lo x).bayTlb = s.bayTlb ∧
    (s.setFld r n i hi lo x).jobs = s.jobs ∧ (s.setFld r n i hi lo x).queues = s.queues ∧
    (s.setFld r n i hi lo x).faultQ = s.faultQ ∧ (s.setFld r n i hi lo x).net = s.net ∧ (s.setFld r n i hi lo x).hbms = s.hbms ∧
    (s.setFld r n i hi lo x).fabs = s.fabs ∧ (s.setFld r n i hi lo x).cfg = s.cfg ∧ (s.setFld r n i hi lo x).sec = s.sec ∧
    (s.setFld r n i hi lo x).board = s.board ∧ (s.setFld r n i hi lo x).links = s.links ∧
    (s.setFld r n i hi lo x).said = s.said ∧ (s.setFld r n i hi lo x).doeErr = s.doeErr ∧
    (s.setFld r n i hi lo x).hostUp = s.hostUp ∧ (s.setFld r n i hi lo x).speed = s.speed ∧
    (s.setFld r n i hi lo x).width = s.width ∧ (s.setFld r n i hi lo x).hdm = s.hdm ∧
    (s.setFld r n i hi lo x).mboxes = s.mboxes ∧ (s.setFld r n i hi lo x).fw = s.fw ∧ (s.setFld r n i hi lo x).viral = s.viral ∧
    (s.setFld r n i hi lo x).warms = s.warms ∧ (s.setFld r n i hi lo x).accepts = s.accepts ∧
    (s.setFld r n i hi lo x).classes = s.classes ∧ (s.setFld r n i hi lo x).eng = s.eng ∧
    (s.setFld r n i hi lo x).hostWait = s.hostWait ∧ (s.setFld r n i hi lo x).mx = s.mx ∧
    (s.setFld r n i hi lo x).errs = s.errs ∧ (s.setFld r n i hi lo x).ctxLost = s.ctxLost :=
  ⟨rfl, rfl, rfl, rfl, rfl, rfl, rfl, rfl, rfl, rfl, rfl, rfl, rfl, rfl, rfl, rfl, rfl, rfl, rfl, rfl, rfl, rfl, rfl, rfl, rfl, rfl, rfl, rfl, rfl, rfl, rfl, rfl, rfl, rfl, rfl, rfl, rfl, rfl, rfl, rfl, rfl, rfl, rfl, rfl, rfl, rfl, rfl⟩

/-- count changes no field but regs. -/
@[simp] theorem State.count_fields (s : State) (r : Rn) (n k i : Nat) :
    (s.count r n k i).pending = s.pending ∧ (s.count r n k i).free = s.free ∧ (s.count r n k i).latch = s.latch ∧
    (s.count r n k i).mem = s.mem ∧ (s.count r n k i).memTag = s.memTag ∧ (s.count r n k i).host = s.host ∧
    (s.count r n k i).hostTag = s.hostTag ∧ (s.count r n k i).lcount = s.lcount ∧ (s.count r n k i).events = s.events ∧
    (s.count r n k i).evLost = s.evLost ∧ (s.count r n k i).icEdge = s.icEdge ∧ (s.count r n k i).msix = s.msix ∧
    (s.count r n k i).fenced = s.fenced ∧ (s.count r n k i).stalls = s.stalls ∧ (s.count r n k i).cells = s.cells ∧
    (s.count r n k i).takeQ = s.takeQ ∧ (s.count r n k i).reportQ = s.reportQ ∧ (s.count r n k i).answers = s.answers ∧
    (s.count r n k i).tokens = s.tokens ∧ (s.count r n k i).bayTlb = s.bayTlb ∧ (s.count r n k i).jobs = s.jobs ∧
    (s.count r n k i).queues = s.queues ∧ (s.count r n k i).faultQ = s.faultQ ∧ (s.count r n k i).net = s.net ∧
    (s.count r n k i).hbms = s.hbms ∧ (s.count r n k i).fabs = s.fabs ∧ (s.count r n k i).cfg = s.cfg ∧
    (s.count r n k i).sec = s.sec ∧ (s.count r n k i).board = s.board ∧ (s.count r n k i).links = s.links ∧
    (s.count r n k i).said = s.said ∧ (s.count r n k i).doeErr = s.doeErr ∧ (s.count r n k i).hostUp = s.hostUp ∧
    (s.count r n k i).speed = s.speed ∧ (s.count r n k i).width = s.width ∧ (s.count r n k i).hdm = s.hdm ∧
    (s.count r n k i).mboxes = s.mboxes ∧ (s.count r n k i).fw = s.fw ∧ (s.count r n k i).viral = s.viral ∧
    (s.count r n k i).warms = s.warms ∧ (s.count r n k i).accepts = s.accepts ∧ (s.count r n k i).classes = s.classes ∧
    (s.count r n k i).eng = s.eng ∧ (s.count r n k i).hostWait = s.hostWait ∧ (s.count r n k i).mx = s.mx ∧
    (s.count r n k i).errs = s.errs ∧ (s.count r n k i).ctxLost = s.ctxLost :=
  ⟨rfl, rfl, rfl, rfl, rfl, rfl, rfl, rfl, rfl, rfl, rfl, rfl, rfl, rfl, rfl, rfl, rfl, rfl, rfl, rfl, rfl, rfl, rfl, rfl, rfl, rfl, rfl, rfl, rfl, rfl, rfl, rfl, rfl, rfl, rfl, rfl, rfl, rfl, rfl, rfl, rfl, rfl, rfl, rfl, rfl, rfl, rfl⟩

/-- countHalf changes no field but regs. -/
@[simp] theorem State.countHalf_fields (s : State) (r : Rn) (n : Nat) (hi : Bool) (k : Nat) :
    (s.countHalf r n hi k).pending = s.pending ∧ (s.countHalf r n hi k).free = s.free ∧ (s.countHalf r n hi k).latch = s.latch ∧
    (s.countHalf r n hi k).mem = s.mem ∧ (s.countHalf r n hi k).memTag = s.memTag ∧ (s.countHalf r n hi k).host = s.host ∧
    (s.countHalf r n hi k).hostTag = s.hostTag ∧ (s.countHalf r n hi k).lcount = s.lcount ∧
    (s.countHalf r n hi k).events = s.events ∧ (s.countHalf r n hi k).evLost = s.evLost ∧
    (s.countHalf r n hi k).icEdge = s.icEdge ∧ (s.countHalf r n hi k).msix = s.msix ∧ (s.countHalf r n hi k).fenced = s.fenced ∧
    (s.countHalf r n hi k).stalls = s.stalls ∧ (s.countHalf r n hi k).cells = s.cells ∧ (s.countHalf r n hi k).takeQ = s.takeQ ∧
    (s.countHalf r n hi k).reportQ = s.reportQ ∧ (s.countHalf r n hi k).answers = s.answers ∧
    (s.countHalf r n hi k).tokens = s.tokens ∧ (s.countHalf r n hi k).bayTlb = s.bayTlb ∧ (s.countHalf r n hi k).jobs = s.jobs ∧
    (s.countHalf r n hi k).queues = s.queues ∧ (s.countHalf r n hi k).faultQ = s.faultQ ∧ (s.countHalf r n hi k).net = s.net ∧
    (s.countHalf r n hi k).hbms = s.hbms ∧ (s.countHalf r n hi k).fabs = s.fabs ∧ (s.countHalf r n hi k).cfg = s.cfg ∧
    (s.countHalf r n hi k).sec = s.sec ∧ (s.countHalf r n hi k).board = s.board ∧ (s.countHalf r n hi k).links = s.links ∧
    (s.countHalf r n hi k).said = s.said ∧ (s.countHalf r n hi k).doeErr = s.doeErr ∧ (s.countHalf r n hi k).hostUp = s.hostUp ∧
    (s.countHalf r n hi k).speed = s.speed ∧ (s.countHalf r n hi k).width = s.width ∧ (s.countHalf r n hi k).hdm = s.hdm ∧
    (s.countHalf r n hi k).mboxes = s.mboxes ∧ (s.countHalf r n hi k).fw = s.fw ∧ (s.countHalf r n hi k).viral = s.viral ∧
    (s.countHalf r n hi k).warms = s.warms ∧ (s.countHalf r n hi k).accepts = s.accepts ∧
    (s.countHalf r n hi k).classes = s.classes ∧ (s.countHalf r n hi k).eng = s.eng ∧
    (s.countHalf r n hi k).hostWait = s.hostWait ∧ (s.countHalf r n hi k).mx = s.mx ∧ (s.countHalf r n hi k).errs = s.errs ∧
    (s.countHalf r n hi k).ctxLost = s.ctxLost :=
  ⟨rfl, rfl, rfl, rfl, rfl, rfl, rfl, rfl, rfl, rfl, rfl, rfl, rfl, rfl, rfl, rfl, rfl, rfl, rfl, rfl, rfl, rfl, rfl, rfl, rfl, rfl, rfl, rfl, rfl, rfl, rfl, rfl, rfl, rfl, rfl, rfl, rfl, rfl, rfl, rfl, rfl, rfl, rfl, rfl, rfl, rfl, rfl⟩

/-- cacheLines changes no field but regs. -/
@[simp] theorem State.cacheLines_fields (s : State) (wr : Bool) (k : Nat) :
    (s.cacheLines wr k).pending = s.pending ∧ (s.cacheLines wr k).free = s.free ∧ (s.cacheLines wr k).latch = s.latch ∧
    (s.cacheLines wr k).mem = s.mem ∧ (s.cacheLines wr k).memTag = s.memTag ∧ (s.cacheLines wr k).host = s.host ∧
    (s.cacheLines wr k).hostTag = s.hostTag ∧ (s.cacheLines wr k).lcount = s.lcount ∧ (s.cacheLines wr k).events = s.events ∧
    (s.cacheLines wr k).evLost = s.evLost ∧ (s.cacheLines wr k).icEdge = s.icEdge ∧ (s.cacheLines wr k).msix = s.msix ∧
    (s.cacheLines wr k).fenced = s.fenced ∧ (s.cacheLines wr k).stalls = s.stalls ∧ (s.cacheLines wr k).cells = s.cells ∧
    (s.cacheLines wr k).takeQ = s.takeQ ∧ (s.cacheLines wr k).reportQ = s.reportQ ∧ (s.cacheLines wr k).answers = s.answers ∧
    (s.cacheLines wr k).tokens = s.tokens ∧ (s.cacheLines wr k).bayTlb = s.bayTlb ∧ (s.cacheLines wr k).jobs = s.jobs ∧
    (s.cacheLines wr k).queues = s.queues ∧ (s.cacheLines wr k).faultQ = s.faultQ ∧ (s.cacheLines wr k).net = s.net ∧
    (s.cacheLines wr k).hbms = s.hbms ∧ (s.cacheLines wr k).fabs = s.fabs ∧ (s.cacheLines wr k).cfg = s.cfg ∧
    (s.cacheLines wr k).sec = s.sec ∧ (s.cacheLines wr k).board = s.board ∧ (s.cacheLines wr k).links = s.links ∧
    (s.cacheLines wr k).said = s.said ∧ (s.cacheLines wr k).doeErr = s.doeErr ∧ (s.cacheLines wr k).hostUp = s.hostUp ∧
    (s.cacheLines wr k).speed = s.speed ∧ (s.cacheLines wr k).width = s.width ∧ (s.cacheLines wr k).hdm = s.hdm ∧
    (s.cacheLines wr k).mboxes = s.mboxes ∧ (s.cacheLines wr k).fw = s.fw ∧ (s.cacheLines wr k).viral = s.viral ∧
    (s.cacheLines wr k).warms = s.warms ∧ (s.cacheLines wr k).accepts = s.accepts ∧ (s.cacheLines wr k).classes = s.classes ∧
    (s.cacheLines wr k).eng = s.eng ∧ (s.cacheLines wr k).hostWait = s.hostWait ∧ (s.cacheLines wr k).mx = s.mx ∧
    (s.cacheLines wr k).errs = s.errs ∧ (s.cacheLines wr k).ctxLost = s.ctxLost :=
  ⟨rfl, rfl, rfl, rfl, rfl, rfl, rfl, rfl, rfl, rfl, rfl, rfl, rfl, rfl, rfl, rfl, rfl, rfl, rfl, rfl, rfl, rfl, rfl, rfl, rfl, rfl, rfl, rfl, rfl, rfl, rfl, rfl, rfl, rfl, rfl, rfl, rfl, rfl, rfl, rfl, rfl, rfl, rfl, rfl, rfl, rfl, rfl⟩

/-- takeFree changes no field but free. -/
@[simp] theorem State.takeFree_fields (s : State) :
    (s.takeFree).pending = s.pending ∧ (s.takeFree).regs = s.regs ∧ (s.takeFree).latch = s.latch ∧ (s.takeFree).mem = s.mem ∧
    (s.takeFree).memTag = s.memTag ∧ (s.takeFree).host = s.host ∧ (s.takeFree).hostTag = s.hostTag ∧
    (s.takeFree).lcount = s.lcount ∧ (s.takeFree).events = s.events ∧ (s.takeFree).evLost = s.evLost ∧
    (s.takeFree).icEdge = s.icEdge ∧ (s.takeFree).msix = s.msix ∧ (s.takeFree).fenced = s.fenced ∧
    (s.takeFree).stalls = s.stalls ∧ (s.takeFree).cells = s.cells ∧ (s.takeFree).takeQ = s.takeQ ∧
    (s.takeFree).reportQ = s.reportQ ∧ (s.takeFree).answers = s.answers ∧ (s.takeFree).tokens = s.tokens ∧
    (s.takeFree).bayTlb = s.bayTlb ∧ (s.takeFree).jobs = s.jobs ∧ (s.takeFree).queues = s.queues ∧
    (s.takeFree).faultQ = s.faultQ ∧ (s.takeFree).net = s.net ∧ (s.takeFree).hbms = s.hbms ∧ (s.takeFree).fabs = s.fabs ∧
    (s.takeFree).cfg = s.cfg ∧ (s.takeFree).sec = s.sec ∧ (s.takeFree).board = s.board ∧ (s.takeFree).links = s.links ∧
    (s.takeFree).said = s.said ∧ (s.takeFree).doeErr = s.doeErr ∧ (s.takeFree).hostUp = s.hostUp ∧
    (s.takeFree).speed = s.speed ∧ (s.takeFree).width = s.width ∧ (s.takeFree).hdm = s.hdm ∧ (s.takeFree).mboxes = s.mboxes ∧
    (s.takeFree).fw = s.fw ∧ (s.takeFree).viral = s.viral ∧ (s.takeFree).warms = s.warms ∧ (s.takeFree).accepts = s.accepts ∧
    (s.takeFree).classes = s.classes ∧ (s.takeFree).eng = s.eng ∧ (s.takeFree).hostWait = s.hostWait ∧ (s.takeFree).mx = s.mx ∧
    (s.takeFree).errs = s.errs ∧ (s.takeFree).ctxLost = s.ctxLost :=
  ⟨rfl, rfl, rfl, rfl, rfl, rfl, rfl, rfl, rfl, rfl, rfl, rfl, rfl, rfl, rfl, rfl, rfl, rfl, rfl, rfl, rfl, rfl, rfl, rfl, rfl, rfl, rfl, rfl, rfl, rfl, rfl, rfl, rfl, rfl, rfl, rfl, rfl, rfl, rfl, rfl, rfl, rfl, rfl, rfl, rfl, rfl, rfl⟩

theorem State.raise_shape (s : State) (r : Rn) (n k num w0 w1 w2 i : Nat) :
    ∃ a b, s.raise r n k num w0 w1 w2 i = { s with regs := a, events := b } := by
  have h : ∃ v e, s.raise r n k num w0 w1 w2 i = { s.setReg r n i v with events := e } := ⟨_, _, rfl⟩
  obtain ⟨v, e, h⟩ := h
  exact ⟨_, e, h.trans rfl⟩

/-- raise changes no field but regs and events. -/
@[simp] theorem State.raise_fields (s : State) (r : Rn) (n k num w0 w1 w2 i : Nat) :
    (s.raise r n k num w0 w1 w2 i).pending = s.pending ∧ (s.raise r n k num w0 w1 w2 i).free = s.free ∧
    (s.raise r n k num w0 w1 w2 i).latch = s.latch ∧ (s.raise r n k num w0 w1 w2 i).mem = s.mem ∧
    (s.raise r n k num w0 w1 w2 i).memTag = s.memTag ∧ (s.raise r n k num w0 w1 w2 i).host = s.host ∧
    (s.raise r n k num w0 w1 w2 i).hostTag = s.hostTag ∧ (s.raise r n k num w0 w1 w2 i).lcount = s.lcount ∧
    (s.raise r n k num w0 w1 w2 i).evLost = s.evLost ∧ (s.raise r n k num w0 w1 w2 i).icEdge = s.icEdge ∧
    (s.raise r n k num w0 w1 w2 i).msix = s.msix ∧ (s.raise r n k num w0 w1 w2 i).fenced = s.fenced ∧
    (s.raise r n k num w0 w1 w2 i).stalls = s.stalls ∧ (s.raise r n k num w0 w1 w2 i).cells = s.cells ∧
    (s.raise r n k num w0 w1 w2 i).takeQ = s.takeQ ∧ (s.raise r n k num w0 w1 w2 i).reportQ = s.reportQ ∧
    (s.raise r n k num w0 w1 w2 i).answers = s.answers ∧ (s.raise r n k num w0 w1 w2 i).tokens = s.tokens ∧
    (s.raise r n k num w0 w1 w2 i).bayTlb = s.bayTlb ∧ (s.raise r n k num w0 w1 w2 i).jobs = s.jobs ∧
    (s.raise r n k num w0 w1 w2 i).queues = s.queues ∧ (s.raise r n k num w0 w1 w2 i).faultQ = s.faultQ ∧
    (s.raise r n k num w0 w1 w2 i).net = s.net ∧ (s.raise r n k num w0 w1 w2 i).hbms = s.hbms ∧
    (s.raise r n k num w0 w1 w2 i).fabs = s.fabs ∧ (s.raise r n k num w0 w1 w2 i).cfg = s.cfg ∧
    (s.raise r n k num w0 w1 w2 i).sec = s.sec ∧ (s.raise r n k num w0 w1 w2 i).board = s.board ∧
    (s.raise r n k num w0 w1 w2 i).links = s.links ∧ (s.raise r n k num w0 w1 w2 i).said = s.said ∧
    (s.raise r n k num w0 w1 w2 i).doeErr = s.doeErr ∧ (s.raise r n k num w0 w1 w2 i).hostUp = s.hostUp ∧
    (s.raise r n k num w0 w1 w2 i).speed = s.speed ∧ (s.raise r n k num w0 w1 w2 i).width = s.width ∧
    (s.raise r n k num w0 w1 w2 i).hdm = s.hdm ∧ (s.raise r n k num w0 w1 w2 i).mboxes = s.mboxes ∧
    (s.raise r n k num w0 w1 w2 i).fw = s.fw ∧ (s.raise r n k num w0 w1 w2 i).viral = s.viral ∧
    (s.raise r n k num w0 w1 w2 i).warms = s.warms ∧ (s.raise r n k num w0 w1 w2 i).accepts = s.accepts ∧
    (s.raise r n k num w0 w1 w2 i).classes = s.classes ∧ (s.raise r n k num w0 w1 w2 i).eng = s.eng ∧
    (s.raise r n k num w0 w1 w2 i).hostWait = s.hostWait ∧ (s.raise r n k num w0 w1 w2 i).mx = s.mx ∧
    (s.raise r n k num w0 w1 w2 i).errs = s.errs ∧ (s.raise r n k num w0 w1 w2 i).ctxLost = s.ctxLost :=
  by obtain ⟨a, b, h⟩ := s.raise_shape r n k num w0 w1 w2 i; rw [h]; exact ⟨rfl, rfl, rfl, rfl, rfl, rfl, rfl, rfl, rfl, rfl, rfl, rfl, rfl, rfl, rfl, rfl, rfl, rfl, rfl, rfl, rfl, rfl, rfl, rfl, rfl, rfl, rfl, rfl, rfl, rfl, rfl, rfl, rfl, rfl, rfl, rfl, rfl, rfl, rfl, rfl, rfl, rfl, rfl, rfl, rfl, rfl⟩

theorem State.raiseOnce_shape (s : State) (r : Rn) (n k num w0 w1 w2 : Nat) :
    ∃ a b, s.raiseOnce r n k num w0 w1 w2 = { s with regs := a, events := b } := by
  unfold State.raiseOnce
  split
  · exact ⟨s.regs, s.events, rfl⟩
  · exact s.raise_shape r n k num w0 w1 w2 0

/-- raiseOnce changes no field but regs and events. -/
@[simp] theorem State.raiseOnce_fields (s : State) (r : Rn) (n k num w0 w1 w2 : Nat) :
    (s.raiseOnce r n k num w0 w1 w2).pending = s.pending ∧ (s.raiseOnce r n k num w0 w1 w2).free = s.free ∧
    (s.raiseOnce r n k num w0 w1 w2).latch = s.latch ∧ (s.raiseOnce r n k num w0 w1 w2).mem = s.mem ∧
    (s.raiseOnce r n k num w0 w1 w2).memTag = s.memTag ∧ (s.raiseOnce r n k num w0 w1 w2).host = s.host ∧
    (s.raiseOnce r n k num w0 w1 w2).hostTag = s.hostTag ∧ (s.raiseOnce r n k num w0 w1 w2).lcount = s.lcount ∧
    (s.raiseOnce r n k num w0 w1 w2).evLost = s.evLost ∧ (s.raiseOnce r n k num w0 w1 w2).icEdge = s.icEdge ∧
    (s.raiseOnce r n k num w0 w1 w2).msix = s.msix ∧ (s.raiseOnce r n k num w0 w1 w2).fenced = s.fenced ∧
    (s.raiseOnce r n k num w0 w1 w2).stalls = s.stalls ∧ (s.raiseOnce r n k num w0 w1 w2).cells = s.cells ∧
    (s.raiseOnce r n k num w0 w1 w2).takeQ = s.takeQ ∧ (s.raiseOnce r n k num w0 w1 w2).reportQ = s.reportQ ∧
    (s.raiseOnce r n k num w0 w1 w2).answers = s.answers ∧ (s.raiseOnce r n k num w0 w1 w2).tokens = s.tokens ∧
    (s.raiseOnce r n k num w0 w1 w2).bayTlb = s.bayTlb ∧ (s.raiseOnce r n k num w0 w1 w2).jobs = s.jobs ∧
    (s.raiseOnce r n k num w0 w1 w2).queues = s.queues ∧ (s.raiseOnce r n k num w0 w1 w2).faultQ = s.faultQ ∧
    (s.raiseOnce r n k num w0 w1 w2).net = s.net ∧ (s.raiseOnce r n k num w0 w1 w2).hbms = s.hbms ∧
    (s.raiseOnce r n k num w0 w1 w2).fabs = s.fabs ∧ (s.raiseOnce r n k num w0 w1 w2).cfg = s.cfg ∧
    (s.raiseOnce r n k num w0 w1 w2).sec = s.sec ∧ (s.raiseOnce r n k num w0 w1 w2).board = s.board ∧
    (s.raiseOnce r n k num w0 w1 w2).links = s.links ∧ (s.raiseOnce r n k num w0 w1 w2).said = s.said ∧
    (s.raiseOnce r n k num w0 w1 w2).doeErr = s.doeErr ∧ (s.raiseOnce r n k num w0 w1 w2).hostUp = s.hostUp ∧
    (s.raiseOnce r n k num w0 w1 w2).speed = s.speed ∧ (s.raiseOnce r n k num w0 w1 w2).width = s.width ∧
    (s.raiseOnce r n k num w0 w1 w2).hdm = s.hdm ∧ (s.raiseOnce r n k num w0 w1 w2).mboxes = s.mboxes ∧
    (s.raiseOnce r n k num w0 w1 w2).fw = s.fw ∧ (s.raiseOnce r n k num w0 w1 w2).viral = s.viral ∧
    (s.raiseOnce r n k num w0 w1 w2).warms = s.warms ∧ (s.raiseOnce r n k num w0 w1 w2).accepts = s.accepts ∧
    (s.raiseOnce r n k num w0 w1 w2).classes = s.classes ∧ (s.raiseOnce r n k num w0 w1 w2).eng = s.eng ∧
    (s.raiseOnce r n k num w0 w1 w2).hostWait = s.hostWait ∧ (s.raiseOnce r n k num w0 w1 w2).mx = s.mx ∧
    (s.raiseOnce r n k num w0 w1 w2).errs = s.errs ∧ (s.raiseOnce r n k num w0 w1 w2).ctxLost = s.ctxLost :=
  by obtain ⟨a, b, h⟩ := s.raiseOnce_shape r n k num w0 w1 w2; rw [h]; exact ⟨rfl, rfl, rfl, rfl, rfl, rfl, rfl, rfl, rfl, rfl, rfl, rfl, rfl, rfl, rfl, rfl, rfl, rfl, rfl, rfl, rfl, rfl, rfl, rfl, rfl, rfl, rfl, rfl, rfl, rfl, rfl, rfl, rfl, rfl, rfl, rfl, rfl, rfl, rfl, rfl, rfl, rfl, rfl, rfl, rfl, rfl⟩

theorem State.capture_shape (s : State) (ev : Rn) (k : Nat) (info : Rn) (n v : Nat) :
    ∃ a b, s.capture ev k info n v = { s with regs := a, events := b } := by
  unfold State.capture
  split
  · exact ⟨s.regs, s.events, rfl⟩
  · exact ⟨_, s.events, rfl⟩

/-- capture changes no field but regs and events. -/
@[simp] theorem State.capture_fields (s : State) (ev : Rn) (k : Nat) (info : Rn) (n v : Nat) :
    (s.capture ev k info n v).pending = s.pending ∧ (s.capture ev k info n v).free = s.free ∧
    (s.capture ev k info n v).latch = s.latch ∧ (s.capture ev k info n v).mem = s.mem ∧
    (s.capture ev k info n v).memTag = s.memTag ∧ (s.capture ev k info n v).host = s.host ∧
    (s.capture ev k info n v).hostTag = s.hostTag ∧ (s.capture ev k info n v).lcount = s.lcount ∧
    (s.capture ev k info n v).evLost = s.evLost ∧ (s.capture ev k info n v).icEdge = s.icEdge ∧
    (s.capture ev k info n v).msix = s.msix ∧ (s.capture ev k info n v).fenced = s.fenced ∧
    (s.capture ev k info n v).stalls = s.stalls ∧ (s.capture ev k info n v).cells = s.cells ∧
    (s.capture ev k info n v).takeQ = s.takeQ ∧ (s.capture ev k info n v).reportQ = s.reportQ ∧
    (s.capture ev k info n v).answers = s.answers ∧ (s.capture ev k info n v).tokens = s.tokens ∧
    (s.capture ev k info n v).bayTlb = s.bayTlb ∧ (s.capture ev k info n v).jobs = s.jobs ∧
    (s.capture ev k info n v).queues = s.queues ∧ (s.capture ev k info n v).faultQ = s.faultQ ∧
    (s.capture ev k info n v).net = s.net ∧ (s.capture ev k info n v).hbms = s.hbms ∧ (s.capture ev k info n v).fabs = s.fabs ∧
    (s.capture ev k info n v).cfg = s.cfg ∧ (s.capture ev k info n v).sec = s.sec ∧ (s.capture ev k info n v).board = s.board ∧
    (s.capture ev k info n v).links = s.links ∧ (s.capture ev k info n v).said = s.said ∧
    (s.capture ev k info n v).doeErr = s.doeErr ∧ (s.capture ev k info n v).hostUp = s.hostUp ∧
    (s.capture ev k info n v).speed = s.speed ∧ (s.capture ev k info n v).width = s.width ∧
    (s.capture ev k info n v).hdm = s.hdm ∧ (s.capture ev k info n v).mboxes = s.mboxes ∧ (s.capture ev k info n v).fw = s.fw ∧
    (s.capture ev k info n v).viral = s.viral ∧ (s.capture ev k info n v).warms = s.warms ∧
    (s.capture ev k info n v).accepts = s.accepts ∧ (s.capture ev k info n v).classes = s.classes ∧
    (s.capture ev k info n v).eng = s.eng ∧ (s.capture ev k info n v).hostWait = s.hostWait ∧
    (s.capture ev k info n v).mx = s.mx ∧ (s.capture ev k info n v).errs = s.errs ∧
    (s.capture ev k info n v).ctxLost = s.ctxLost :=
  by obtain ⟨a, b, h⟩ := s.capture_shape ev k info n v; rw [h]; exact ⟨rfl, rfl, rfl, rfl, rfl, rfl, rfl, rfl, rfl, rfl, rfl, rfl, rfl, rfl, rfl, rfl, rfl, rfl, rfl, rfl, rfl, rfl, rfl, rfl, rfl, rfl, rfl, rfl, rfl, rfl, rfl, rfl, rfl, rfl, rfl, rfl, rfl, rfl, rfl, rfl, rfl, rfl, rfl, rfl, rfl, rfl⟩

theorem State.violate_shape (s : State) (cls page off : Nat) (write : Bool) (cause : Nat) :
    ∃ a b, s.violate cls page off write cause = { s with regs := a, events := b } := by
  have h : ∀ (c : Prop) [Decidable c] (x : Nat), ∃ a, (if c then s.count .glbViolCount 0 else (s.count .glbViolCount 0).setReg .glbViolInfo 0 0 x)
      = { s with regs := a } := by
    intro c _ x
    have hc : ∃ v, s.count .glbViolCount 0 = s.setReg .glbViolCount 0 0 v := ⟨_, rfl⟩
    obtain ⟨v, hc⟩ := hc
    rw [hc]
    split
    · exact ⟨_, rfl⟩
    · exact ⟨_, rfl⟩
  unfold State.violate
  dsimp only
  obtain ⟨a, ha⟩ := h (bits ((s.count .glbViolCount 0).reg .glbViol) 1 0 ≠ 0)
    (cls * 2 ^ 62 + page * 2 ^ 50 + b2n write * 2 ^ 49 + cause * 2 ^ 48 + off % 2 ^ 44)
  rw [ha]
  obtain ⟨u, e, hu⟩ := State.raise_shape { s with regs := a } .glbViol 0 cause (0x10 + cause) off
    (cls * 2 ^ 30 + page * 2 ^ 18 + b2n write * 2 ^ 17 + bits off 43 32) 0 0
  exact ⟨u, e, hu⟩

/-- violate changes no field but regs and events. -/
@[simp] theorem State.violate_fields (s : State) (cls page off : Nat) (write : Bool) (cause : Nat) :
    (s.violate cls page off write cause).pending = s.pending ∧ (s.violate cls page off write cause).free = s.free ∧
    (s.violate cls page off write cause).latch = s.latch ∧ (s.violate cls page off write cause).mem = s.mem ∧
    (s.violate cls page off write cause).memTag = s.memTag ∧ (s.violate cls page off write cause).host = s.host ∧
    (s.violate cls page off write cause).hostTag = s.hostTag ∧ (s.violate cls page off write cause).lcount = s.lcount ∧
    (s.violate cls page off write cause).evLost = s.evLost ∧ (s.violate cls page off write cause).icEdge = s.icEdge ∧
    (s.violate cls page off write cause).msix = s.msix ∧ (s.violate cls page off write cause).fenced = s.fenced ∧
    (s.violate cls page off write cause).stalls = s.stalls ∧ (s.violate cls page off write cause).cells = s.cells ∧
    (s.violate cls page off write cause).takeQ = s.takeQ ∧ (s.violate cls page off write cause).reportQ = s.reportQ ∧
    (s.violate cls page off write cause).answers = s.answers ∧ (s.violate cls page off write cause).tokens = s.tokens ∧
    (s.violate cls page off write cause).bayTlb = s.bayTlb ∧ (s.violate cls page off write cause).jobs = s.jobs ∧
    (s.violate cls page off write cause).queues = s.queues ∧ (s.violate cls page off write cause).faultQ = s.faultQ ∧
    (s.violate cls page off write cause).net = s.net ∧ (s.violate cls page off write cause).hbms = s.hbms ∧
    (s.violate cls page off write cause).fabs = s.fabs ∧ (s.violate cls page off write cause).cfg = s.cfg ∧
    (s.violate cls page off write cause).sec = s.sec ∧ (s.violate cls page off write cause).board = s.board ∧
    (s.violate cls page off write cause).links = s.links ∧ (s.violate cls page off write cause).said = s.said ∧
    (s.violate cls page off write cause).doeErr = s.doeErr ∧ (s.violate cls page off write cause).hostUp = s.hostUp ∧
    (s.violate cls page off write cause).speed = s.speed ∧ (s.violate cls page off write cause).width = s.width ∧
    (s.violate cls page off write cause).hdm = s.hdm ∧ (s.violate cls page off write cause).mboxes = s.mboxes ∧
    (s.violate cls page off write cause).fw = s.fw ∧ (s.violate cls page off write cause).viral = s.viral ∧
    (s.violate cls page off write cause).warms = s.warms ∧ (s.violate cls page off write cause).accepts = s.accepts ∧
    (s.violate cls page off write cause).classes = s.classes ∧ (s.violate cls page off write cause).eng = s.eng ∧
    (s.violate cls page off write cause).hostWait = s.hostWait ∧ (s.violate cls page off write cause).mx = s.mx ∧
    (s.violate cls page off write cause).errs = s.errs ∧ (s.violate cls page off write cause).ctxLost = s.ctxLost :=
  by obtain ⟨a, b, h⟩ := s.violate_shape cls page off write cause; rw [h]; exact ⟨rfl, rfl, rfl, rfl, rfl, rfl, rfl, rfl, rfl, rfl, rfl, rfl, rfl, rfl, rfl, rfl, rfl, rfl, rfl, rfl, rfl, rfl, rfl, rfl, rfl, rfl, rfl, rfl, rfl, rfl, rfl, rfl, rfl, rfl, rfl, rfl, rfl, rfl, rfl, rfl, rfl, rfl, rfl, rfl, rfl, rfl⟩

/-- write changes no field but mem and memTag. -/
@[simp] theorem State.write_fields (s : State) (a : Nat) (bs : List Byte) (p : Bool) :
    (s.write a bs p).pending = s.pending ∧ (s.write a bs p).free = s.free ∧ (s.write a bs p).regs = s.regs ∧
    (s.write a bs p).latch = s.latch ∧ (s.write a bs p).host = s.host ∧ (s.write a bs p).hostTag = s.hostTag ∧
    (s.write a bs p).lcount = s.lcount ∧ (s.write a bs p).events = s.events ∧ (s.write a bs p).evLost = s.evLost ∧
    (s.write a bs p).icEdge = s.icEdge ∧ (s.write a bs p).msix = s.msix ∧ (s.write a bs p).fenced = s.fenced ∧
    (s.write a bs p).stalls = s.stalls ∧ (s.write a bs p).cells = s.cells ∧ (s.write a bs p).takeQ = s.takeQ ∧
    (s.write a bs p).reportQ = s.reportQ ∧ (s.write a bs p).answers = s.answers ∧ (s.write a bs p).tokens = s.tokens ∧
    (s.write a bs p).bayTlb = s.bayTlb ∧ (s.write a bs p).jobs = s.jobs ∧ (s.write a bs p).queues = s.queues ∧
    (s.write a bs p).faultQ = s.faultQ ∧ (s.write a bs p).net = s.net ∧ (s.write a bs p).hbms = s.hbms ∧
    (s.write a bs p).fabs = s.fabs ∧ (s.write a bs p).cfg = s.cfg ∧ (s.write a bs p).sec = s.sec ∧
    (s.write a bs p).board = s.board ∧ (s.write a bs p).links = s.links ∧ (s.write a bs p).said = s.said ∧
    (s.write a bs p).doeErr = s.doeErr ∧ (s.write a bs p).hostUp = s.hostUp ∧ (s.write a bs p).speed = s.speed ∧
    (s.write a bs p).width = s.width ∧ (s.write a bs p).hdm = s.hdm ∧ (s.write a bs p).mboxes = s.mboxes ∧
    (s.write a bs p).fw = s.fw ∧ (s.write a bs p).viral = s.viral ∧ (s.write a bs p).warms = s.warms ∧
    (s.write a bs p).accepts = s.accepts ∧ (s.write a bs p).classes = s.classes ∧ (s.write a bs p).eng = s.eng ∧
    (s.write a bs p).hostWait = s.hostWait ∧ (s.write a bs p).mx = s.mx ∧ (s.write a bs p).errs = s.errs ∧
    (s.write a bs p).ctxLost = s.ctxLost :=
  ⟨rfl, rfl, rfl, rfl, rfl, rfl, rfl, rfl, rfl, rfl, rfl, rfl, rfl, rfl, rfl, rfl, rfl, rfl, rfl, rfl, rfl, rfl, rfl, rfl, rfl, rfl, rfl, rfl, rfl, rfl, rfl, rfl, rfl, rfl, rfl, rfl, rfl, rfl, rfl, rfl, rfl, rfl, rfl, rfl, rfl, rfl⟩

/-- writeByte changes no field but mem and memTag. -/
@[simp] theorem State.writeByte_fields (s : State) (a : Nat) (v : Byte) (p : Bool) :
    (s.writeByte a v p).pending = s.pending ∧ (s.writeByte a v p).free = s.free ∧ (s.writeByte a v p).regs = s.regs ∧
    (s.writeByte a v p).latch = s.latch ∧ (s.writeByte a v p).host = s.host ∧ (s.writeByte a v p).hostTag = s.hostTag ∧
    (s.writeByte a v p).lcount = s.lcount ∧ (s.writeByte a v p).events = s.events ∧ (s.writeByte a v p).evLost = s.evLost ∧
    (s.writeByte a v p).icEdge = s.icEdge ∧ (s.writeByte a v p).msix = s.msix ∧ (s.writeByte a v p).fenced = s.fenced ∧
    (s.writeByte a v p).stalls = s.stalls ∧ (s.writeByte a v p).cells = s.cells ∧ (s.writeByte a v p).takeQ = s.takeQ ∧
    (s.writeByte a v p).reportQ = s.reportQ ∧ (s.writeByte a v p).answers = s.answers ∧ (s.writeByte a v p).tokens = s.tokens ∧
    (s.writeByte a v p).bayTlb = s.bayTlb ∧ (s.writeByte a v p).jobs = s.jobs ∧ (s.writeByte a v p).queues = s.queues ∧
    (s.writeByte a v p).faultQ = s.faultQ ∧ (s.writeByte a v p).net = s.net ∧ (s.writeByte a v p).hbms = s.hbms ∧
    (s.writeByte a v p).fabs = s.fabs ∧ (s.writeByte a v p).cfg = s.cfg ∧ (s.writeByte a v p).sec = s.sec ∧
    (s.writeByte a v p).board = s.board ∧ (s.writeByte a v p).links = s.links ∧ (s.writeByte a v p).said = s.said ∧
    (s.writeByte a v p).doeErr = s.doeErr ∧ (s.writeByte a v p).hostUp = s.hostUp ∧ (s.writeByte a v p).speed = s.speed ∧
    (s.writeByte a v p).width = s.width ∧ (s.writeByte a v p).hdm = s.hdm ∧ (s.writeByte a v p).mboxes = s.mboxes ∧
    (s.writeByte a v p).fw = s.fw ∧ (s.writeByte a v p).viral = s.viral ∧ (s.writeByte a v p).warms = s.warms ∧
    (s.writeByte a v p).accepts = s.accepts ∧ (s.writeByte a v p).classes = s.classes ∧ (s.writeByte a v p).eng = s.eng ∧
    (s.writeByte a v p).hostWait = s.hostWait ∧ (s.writeByte a v p).mx = s.mx ∧ (s.writeByte a v p).errs = s.errs ∧
    (s.writeByte a v p).ctxLost = s.ctxLost :=
  ⟨rfl, rfl, rfl, rfl, rfl, rfl, rfl, rfl, rfl, rfl, rfl, rfl, rfl, rfl, rfl, rfl, rfl, rfl, rfl, rfl, rfl, rfl, rfl, rfl, rfl, rfl, rfl, rfl, rfl, rfl, rfl, rfl, rfl, rfl, rfl, rfl, rfl, rfl, rfl, rfl, rfl, rfl, rfl, rfl, rfl, rfl⟩

/-- discard changes no field but mem and memTag. -/
@[simp] theorem State.discard_fields (s : State) (a n : Nat) :
    (s.discard a n).pending = s.pending ∧ (s.discard a n).free = s.free ∧ (s.discard a n).regs = s.regs ∧
    (s.discard a n).latch = s.latch ∧ (s.discard a n).host = s.host ∧ (s.discard a n).hostTag = s.hostTag ∧
    (s.discard a n).lcount = s.lcount ∧ (s.discard a n).events = s.events ∧ (s.discard a n).evLost = s.evLost ∧
    (s.discard a n).icEdge = s.icEdge ∧ (s.discard a n).msix = s.msix ∧ (s.discard a n).fenced = s.fenced ∧
    (s.discard a n).stalls = s.stalls ∧ (s.discard a n).cells = s.cells ∧ (s.discard a n).takeQ = s.takeQ ∧
    (s.discard a n).reportQ = s.reportQ ∧ (s.discard a n).answers = s.answers ∧ (s.discard a n).tokens = s.tokens ∧
    (s.discard a n).bayTlb = s.bayTlb ∧ (s.discard a n).jobs = s.jobs ∧ (s.discard a n).queues = s.queues ∧
    (s.discard a n).faultQ = s.faultQ ∧ (s.discard a n).net = s.net ∧ (s.discard a n).hbms = s.hbms ∧
    (s.discard a n).fabs = s.fabs ∧ (s.discard a n).cfg = s.cfg ∧ (s.discard a n).sec = s.sec ∧
    (s.discard a n).board = s.board ∧ (s.discard a n).links = s.links ∧ (s.discard a n).said = s.said ∧
    (s.discard a n).doeErr = s.doeErr ∧ (s.discard a n).hostUp = s.hostUp ∧ (s.discard a n).speed = s.speed ∧
    (s.discard a n).width = s.width ∧ (s.discard a n).hdm = s.hdm ∧ (s.discard a n).mboxes = s.mboxes ∧
    (s.discard a n).fw = s.fw ∧ (s.discard a n).viral = s.viral ∧ (s.discard a n).warms = s.warms ∧
    (s.discard a n).accepts = s.accepts ∧ (s.discard a n).classes = s.classes ∧ (s.discard a n).eng = s.eng ∧
    (s.discard a n).hostWait = s.hostWait ∧ (s.discard a n).mx = s.mx ∧ (s.discard a n).errs = s.errs ∧
    (s.discard a n).ctxLost = s.ctxLost :=
  ⟨rfl, rfl, rfl, rfl, rfl, rfl, rfl, rfl, rfl, rfl, rfl, rfl, rfl, rfl, rfl, rfl, rfl, rfl, rfl, rfl, rfl, rfl, rfl, rfl, rfl, rfl, rfl, rfl, rfl, rfl, rfl, rfl, rfl, rfl, rfl, rfl, rfl, rfl, rfl, rfl, rfl, rfl, rfl, rfl, rfl, rfl⟩

/-- hwrite changes no field but host and hostTag. -/
@[simp] theorem State.hwrite_fields (s : State) (a : Nat) (bs : List Byte) (p : Bool) :
    (s.hwrite a bs p).pending = s.pending ∧ (s.hwrite a bs p).free = s.free ∧ (s.hwrite a bs p).regs = s.regs ∧
    (s.hwrite a bs p).latch = s.latch ∧ (s.hwrite a bs p).mem = s.mem ∧ (s.hwrite a bs p).memTag = s.memTag ∧
    (s.hwrite a bs p).lcount = s.lcount ∧ (s.hwrite a bs p).events = s.events ∧ (s.hwrite a bs p).evLost = s.evLost ∧
    (s.hwrite a bs p).icEdge = s.icEdge ∧ (s.hwrite a bs p).msix = s.msix ∧ (s.hwrite a bs p).fenced = s.fenced ∧
    (s.hwrite a bs p).stalls = s.stalls ∧ (s.hwrite a bs p).cells = s.cells ∧ (s.hwrite a bs p).takeQ = s.takeQ ∧
    (s.hwrite a bs p).reportQ = s.reportQ ∧ (s.hwrite a bs p).answers = s.answers ∧ (s.hwrite a bs p).tokens = s.tokens ∧
    (s.hwrite a bs p).bayTlb = s.bayTlb ∧ (s.hwrite a bs p).jobs = s.jobs ∧ (s.hwrite a bs p).queues = s.queues ∧
    (s.hwrite a bs p).faultQ = s.faultQ ∧ (s.hwrite a bs p).net = s.net ∧ (s.hwrite a bs p).hbms = s.hbms ∧
    (s.hwrite a bs p).fabs = s.fabs ∧ (s.hwrite a bs p).cfg = s.cfg ∧ (s.hwrite a bs p).sec = s.sec ∧
    (s.hwrite a bs p).board = s.board ∧ (s.hwrite a bs p).links = s.links ∧ (s.hwrite a bs p).said = s.said ∧
    (s.hwrite a bs p).doeErr = s.doeErr ∧ (s.hwrite a bs p).hostUp = s.hostUp ∧ (s.hwrite a bs p).speed = s.speed ∧
    (s.hwrite a bs p).width = s.width ∧ (s.hwrite a bs p).hdm = s.hdm ∧ (s.hwrite a bs p).mboxes = s.mboxes ∧
    (s.hwrite a bs p).fw = s.fw ∧ (s.hwrite a bs p).viral = s.viral ∧ (s.hwrite a bs p).warms = s.warms ∧
    (s.hwrite a bs p).accepts = s.accepts ∧ (s.hwrite a bs p).classes = s.classes ∧ (s.hwrite a bs p).eng = s.eng ∧
    (s.hwrite a bs p).hostWait = s.hostWait ∧ (s.hwrite a bs p).mx = s.mx ∧ (s.hwrite a bs p).errs = s.errs ∧
    (s.hwrite a bs p).ctxLost = s.ctxLost :=
  ⟨rfl, rfl, rfl, rfl, rfl, rfl, rfl, rfl, rfl, rfl, rfl, rfl, rfl, rfl, rfl, rfl, rfl, rfl, rfl, rfl, rfl, rfl, rfl, rfl, rfl, rfl, rfl, rfl, rfl, rfl, rfl, rfl, rfl, rfl, rfl, rfl, rfl, rfl, rfl, rfl, rfl, rfl, rfl, rfl, rfl, rfl⟩

/-- setCore changes no field but mem and memTag. -/
@[simp] theorem State.setCore_fields (s : State) (g off w v : Nat) (p : Bool) :
    (s.setCore g off w v p).pending = s.pending ∧ (s.setCore g off w v p).free = s.free ∧
    (s.setCore g off w v p).regs = s.regs ∧ (s.setCore g off w v p).latch = s.latch ∧ (s.setCore g off w v p).host = s.host ∧
    (s.setCore g off w v p).hostTag = s.hostTag ∧ (s.setCore g off w v p).lcount = s.lcount ∧
    (s.setCore g off w v p).events = s.events ∧ (s.setCore g off w v p).evLost = s.evLost ∧
    (s.setCore g off w v p).icEdge = s.icEdge ∧ (s.setCore g off w v p).msix = s.msix ∧
    (s.setCore g off w v p).fenced = s.fenced ∧ (s.setCore g off w v p).stalls = s.stalls ∧
    (s.setCore g off w v p).cells = s.cells ∧ (s.setCore g off w v p).takeQ = s.takeQ ∧
    (s.setCore g off w v p).reportQ = s.reportQ ∧ (s.setCore g off w v p).answers = s.answers ∧
    (s.setCore g off w v p).tokens = s.tokens ∧ (s.setCore g off w v p).bayTlb = s.bayTlb ∧
    (s.setCore g off w v p).jobs = s.jobs ∧ (s.setCore g off w v p).queues = s.queues ∧
    (s.setCore g off w v p).faultQ = s.faultQ ∧ (s.setCore g off w v p).net = s.net ∧ (s.setCore g off w v p).hbms = s.hbms ∧
    (s.setCore g off w v p).fabs = s.fabs ∧ (s.setCore g off w v p).cfg = s.cfg ∧ (s.setCore g off w v p).sec = s.sec ∧
    (s.setCore g off w v p).board = s.board ∧ (s.setCore g off w v p).links = s.links ∧ (s.setCore g off w v p).said = s.said ∧
    (s.setCore g off w v p).doeErr = s.doeErr ∧ (s.setCore g off w v p).hostUp = s.hostUp ∧
    (s.setCore g off w v p).speed = s.speed ∧ (s.setCore g off w v p).width = s.width ∧ (s.setCore g off w v p).hdm = s.hdm ∧
    (s.setCore g off w v p).mboxes = s.mboxes ∧ (s.setCore g off w v p).fw = s.fw ∧ (s.setCore g off w v p).viral = s.viral ∧
    (s.setCore g off w v p).warms = s.warms ∧ (s.setCore g off w v p).accepts = s.accepts ∧
    (s.setCore g off w v p).classes = s.classes ∧ (s.setCore g off w v p).eng = s.eng ∧
    (s.setCore g off w v p).hostWait = s.hostWait ∧ (s.setCore g off w v p).mx = s.mx ∧ (s.setCore g off w v p).errs = s.errs ∧
    (s.setCore g off w v p).ctxLost = s.ctxLost :=
  ⟨rfl, rfl, rfl, rfl, rfl, rfl, rfl, rfl, rfl, rfl, rfl, rfl, rfl, rfl, rfl, rfl, rfl, rfl, rfl, rfl, rfl, rfl, rfl, rfl, rfl, rfl, rfl, rfl, rfl, rfl, rfl, rfl, rfl, rfl, rfl, rfl, rfl, rfl, rfl, rfl, rfl, rfl, rfl, rfl, rfl, rfl⟩

/-- setStall changes no field but stalls. -/
@[simp] theorem State.setStall_fields (s : State) (g : Nat) (st : Stall) :
    (s.setStall g st).pending = s.pending ∧ (s.setStall g st).free = s.free ∧ (s.setStall g st).regs = s.regs ∧
    (s.setStall g st).latch = s.latch ∧ (s.setStall g st).mem = s.mem ∧ (s.setStall g st).memTag = s.memTag ∧
    (s.setStall g st).host = s.host ∧ (s.setStall g st).hostTag = s.hostTag ∧ (s.setStall g st).lcount = s.lcount ∧
    (s.setStall g st).events = s.events ∧ (s.setStall g st).evLost = s.evLost ∧ (s.setStall g st).icEdge = s.icEdge ∧
    (s.setStall g st).msix = s.msix ∧ (s.setStall g st).fenced = s.fenced ∧ (s.setStall g st).cells = s.cells ∧
    (s.setStall g st).takeQ = s.takeQ ∧ (s.setStall g st).reportQ = s.reportQ ∧ (s.setStall g st).answers = s.answers ∧
    (s.setStall g st).tokens = s.tokens ∧ (s.setStall g st).bayTlb = s.bayTlb ∧ (s.setStall g st).jobs = s.jobs ∧
    (s.setStall g st).queues = s.queues ∧ (s.setStall g st).faultQ = s.faultQ ∧ (s.setStall g st).net = s.net ∧
    (s.setStall g st).hbms = s.hbms ∧ (s.setStall g st).fabs = s.fabs ∧ (s.setStall g st).cfg = s.cfg ∧
    (s.setStall g st).sec = s.sec ∧ (s.setStall g st).board = s.board ∧ (s.setStall g st).links = s.links ∧
    (s.setStall g st).said = s.said ∧ (s.setStall g st).doeErr = s.doeErr ∧ (s.setStall g st).hostUp = s.hostUp ∧
    (s.setStall g st).speed = s.speed ∧ (s.setStall g st).width = s.width ∧ (s.setStall g st).hdm = s.hdm ∧
    (s.setStall g st).mboxes = s.mboxes ∧ (s.setStall g st).fw = s.fw ∧ (s.setStall g st).viral = s.viral ∧
    (s.setStall g st).warms = s.warms ∧ (s.setStall g st).accepts = s.accepts ∧ (s.setStall g st).classes = s.classes ∧
    (s.setStall g st).eng = s.eng ∧ (s.setStall g st).hostWait = s.hostWait ∧ (s.setStall g st).mx = s.mx ∧
    (s.setStall g st).errs = s.errs ∧ (s.setStall g st).ctxLost = s.ctxLost :=
  ⟨rfl, rfl, rfl, rfl, rfl, rfl, rfl, rfl, rfl, rfl, rfl, rfl, rfl, rfl, rfl, rfl, rfl, rfl, rfl, rfl, rfl, rfl, rfl, rfl, rfl, rfl, rfl, rfl, rfl, rfl, rfl, rfl, rfl, rfl, rfl, rfl, rfl, rfl, rfl, rfl, rfl, rfl, rfl, rfl, rfl, rfl, rfl⟩

/-- modStall changes no field but stalls. -/
@[simp] theorem State.modStall_fields (s : State) (g : Nat) (f : Stall → Stall) :
    (s.modStall g f).pending = s.pending ∧ (s.modStall g f).free = s.free ∧ (s.modStall g f).regs = s.regs ∧
    (s.modStall g f).latch = s.latch ∧ (s.modStall g f).mem = s.mem ∧ (s.modStall g f).memTag = s.memTag ∧
    (s.modStall g f).host = s.host ∧ (s.modStall g f).hostTag = s.hostTag ∧ (s.modStall g f).lcount = s.lcount ∧
    (s.modStall g f).events = s.events ∧ (s.modStall g f).evLost = s.evLost ∧ (s.modStall g f).icEdge = s.icEdge ∧
    (s.modStall g f).msix = s.msix ∧ (s.modStall g f).fenced = s.fenced ∧ (s.modStall g f).cells = s.cells ∧
    (s.modStall g f).takeQ = s.takeQ ∧ (s.modStall g f).reportQ = s.reportQ ∧ (s.modStall g f).answers = s.answers ∧
    (s.modStall g f).tokens = s.tokens ∧ (s.modStall g f).bayTlb = s.bayTlb ∧ (s.modStall g f).jobs = s.jobs ∧
    (s.modStall g f).queues = s.queues ∧ (s.modStall g f).faultQ = s.faultQ ∧ (s.modStall g f).net = s.net ∧
    (s.modStall g f).hbms = s.hbms ∧ (s.modStall g f).fabs = s.fabs ∧ (s.modStall g f).cfg = s.cfg ∧
    (s.modStall g f).sec = s.sec ∧ (s.modStall g f).board = s.board ∧ (s.modStall g f).links = s.links ∧
    (s.modStall g f).said = s.said ∧ (s.modStall g f).doeErr = s.doeErr ∧ (s.modStall g f).hostUp = s.hostUp ∧
    (s.modStall g f).speed = s.speed ∧ (s.modStall g f).width = s.width ∧ (s.modStall g f).hdm = s.hdm ∧
    (s.modStall g f).mboxes = s.mboxes ∧ (s.modStall g f).fw = s.fw ∧ (s.modStall g f).viral = s.viral ∧
    (s.modStall g f).warms = s.warms ∧ (s.modStall g f).accepts = s.accepts ∧ (s.modStall g f).classes = s.classes ∧
    (s.modStall g f).eng = s.eng ∧ (s.modStall g f).hostWait = s.hostWait ∧ (s.modStall g f).mx = s.mx ∧
    (s.modStall g f).errs = s.errs ∧ (s.modStall g f).ctxLost = s.ctxLost :=
  ⟨rfl, rfl, rfl, rfl, rfl, rfl, rfl, rfl, rfl, rfl, rfl, rfl, rfl, rfl, rfl, rfl, rfl, rfl, rfl, rfl, rfl, rfl, rfl, rfl, rfl, rfl, rfl, rfl, rfl, rfl, rfl, rfl, rfl, rfl, rfl, rfl, rfl, rfl, rfl, rfl, rfl, rfl, rfl, rfl, rfl, rfl, rfl⟩

/-- modCore changes no field but stalls. -/
@[simp] theorem State.modCore_fields (s : State) (g : Nat) (f : Core → Core) :
    (s.modCore g f).pending = s.pending ∧ (s.modCore g f).free = s.free ∧ (s.modCore g f).regs = s.regs ∧
    (s.modCore g f).latch = s.latch ∧ (s.modCore g f).mem = s.mem ∧ (s.modCore g f).memTag = s.memTag ∧
    (s.modCore g f).host = s.host ∧ (s.modCore g f).hostTag = s.hostTag ∧ (s.modCore g f).lcount = s.lcount ∧
    (s.modCore g f).events = s.events ∧ (s.modCore g f).evLost = s.evLost ∧ (s.modCore g f).icEdge = s.icEdge ∧
    (s.modCore g f).msix = s.msix ∧ (s.modCore g f).fenced = s.fenced ∧ (s.modCore g f).cells = s.cells ∧
    (s.modCore g f).takeQ = s.takeQ ∧ (s.modCore g f).reportQ = s.reportQ ∧ (s.modCore g f).answers = s.answers ∧
    (s.modCore g f).tokens = s.tokens ∧ (s.modCore g f).bayTlb = s.bayTlb ∧ (s.modCore g f).jobs = s.jobs ∧
    (s.modCore g f).queues = s.queues ∧ (s.modCore g f).faultQ = s.faultQ ∧ (s.modCore g f).net = s.net ∧
    (s.modCore g f).hbms = s.hbms ∧ (s.modCore g f).fabs = s.fabs ∧ (s.modCore g f).cfg = s.cfg ∧ (s.modCore g f).sec = s.sec ∧
    (s.modCore g f).board = s.board ∧ (s.modCore g f).links = s.links ∧ (s.modCore g f).said = s.said ∧
    (s.modCore g f).doeErr = s.doeErr ∧ (s.modCore g f).hostUp = s.hostUp ∧ (s.modCore g f).speed = s.speed ∧
    (s.modCore g f).width = s.width ∧ (s.modCore g f).hdm = s.hdm ∧ (s.modCore g f).mboxes = s.mboxes ∧
    (s.modCore g f).fw = s.fw ∧ (s.modCore g f).viral = s.viral ∧ (s.modCore g f).warms = s.warms ∧
    (s.modCore g f).accepts = s.accepts ∧ (s.modCore g f).classes = s.classes ∧ (s.modCore g f).eng = s.eng ∧
    (s.modCore g f).hostWait = s.hostWait ∧ (s.modCore g f).mx = s.mx ∧ (s.modCore g f).errs = s.errs ∧
    (s.modCore g f).ctxLost = s.ctxLost :=
  ⟨rfl, rfl, rfl, rfl, rfl, rfl, rfl, rfl, rfl, rfl, rfl, rfl, rfl, rfl, rfl, rfl, rfl, rfl, rfl, rfl, rfl, rfl, rfl, rfl, rfl, rfl, rfl, rfl, rfl, rfl, rfl, rfl, rfl, rfl, rfl, rfl, rfl, rfl, rfl, rfl, rfl, rfl, rfl, rfl, rfl, rfl, rfl⟩

/-- modJob changes no field but jobs. -/
@[simp] theorem State.modJob_fields (s : State) (j : Nat) (f : Job → Job) :
    (s.modJob j f).pending = s.pending ∧ (s.modJob j f).free = s.free ∧ (s.modJob j f).regs = s.regs ∧
    (s.modJob j f).latch = s.latch ∧ (s.modJob j f).mem = s.mem ∧ (s.modJob j f).memTag = s.memTag ∧
    (s.modJob j f).host = s.host ∧ (s.modJob j f).hostTag = s.hostTag ∧ (s.modJob j f).lcount = s.lcount ∧
    (s.modJob j f).events = s.events ∧ (s.modJob j f).evLost = s.evLost ∧ (s.modJob j f).icEdge = s.icEdge ∧
    (s.modJob j f).msix = s.msix ∧ (s.modJob j f).fenced = s.fenced ∧ (s.modJob j f).stalls = s.stalls ∧
    (s.modJob j f).cells = s.cells ∧ (s.modJob j f).takeQ = s.takeQ ∧ (s.modJob j f).reportQ = s.reportQ ∧
    (s.modJob j f).answers = s.answers ∧ (s.modJob j f).tokens = s.tokens ∧ (s.modJob j f).bayTlb = s.bayTlb ∧
    (s.modJob j f).queues = s.queues ∧ (s.modJob j f).faultQ = s.faultQ ∧ (s.modJob j f).net = s.net ∧
    (s.modJob j f).hbms = s.hbms ∧ (s.modJob j f).fabs = s.fabs ∧ (s.modJob j f).cfg = s.cfg ∧ (s.modJob j f).sec = s.sec ∧
    (s.modJob j f).board = s.board ∧ (s.modJob j f).links = s.links ∧ (s.modJob j f).said = s.said ∧
    (s.modJob j f).doeErr = s.doeErr ∧ (s.modJob j f).hostUp = s.hostUp ∧ (s.modJob j f).speed = s.speed ∧
    (s.modJob j f).width = s.width ∧ (s.modJob j f).hdm = s.hdm ∧ (s.modJob j f).mboxes = s.mboxes ∧ (s.modJob j f).fw = s.fw ∧
    (s.modJob j f).viral = s.viral ∧ (s.modJob j f).warms = s.warms ∧ (s.modJob j f).accepts = s.accepts ∧
    (s.modJob j f).classes = s.classes ∧ (s.modJob j f).eng = s.eng ∧ (s.modJob j f).hostWait = s.hostWait ∧
    (s.modJob j f).mx = s.mx ∧ (s.modJob j f).errs = s.errs ∧ (s.modJob j f).ctxLost = s.ctxLost :=
  ⟨rfl, rfl, rfl, rfl, rfl, rfl, rfl, rfl, rfl, rfl, rfl, rfl, rfl, rfl, rfl, rfl, rfl, rfl, rfl, rfl, rfl, rfl, rfl, rfl, rfl, rfl, rfl, rfl, rfl, rfl, rfl, rfl, rfl, rfl, rfl, rfl, rfl, rfl, rfl, rfl, rfl, rfl, rfl, rfl, rfl, rfl, rfl⟩

theorem State.numCount_shape (s : State) (g unit target ovf inv : Nat) :
    ∃ a b, s.numCount g unit target ovf inv = { s with regs := a, events := b } := by
  have h : ∀ (s : State) (c : Prop) [Decidable c] (r : Rn) (n k num : Nat), ∃ a b,
      (if c then s else (s.count r g n).raiseOnce .stlNumEvent g k num g unit target) = { s with regs := a, events := b } := by
    intro s c _ r n k num
    split
    · exact ⟨s.regs, s.events, rfl⟩
    · have hc : ∃ v, s.count r g n = s.setReg r g 0 v := ⟨_, rfl⟩
      obtain ⟨v, hc⟩ := hc
      rw [hc]
      obtain ⟨a, b, hr⟩ := (s.setReg r g 0 v).raiseOnce_shape .stlNumEvent g k num g unit target
      exact ⟨a, b, hr.trans rfl⟩
  unfold State.numCount
  dsimp only
  obtain ⟨a, b, h1⟩ := h s (ovf = 0) .stlNumOvf ovf 0 0x100
  rw [h1]
  obtain ⟨c, d, h2⟩ := h { s with regs := a, events := b } (inv = 0) .stlNumInv inv 1 0x101
  exact ⟨c, d, h2⟩

/-- numCount changes no field but regs and events. -/
@[simp] theorem State.numCount_fields (s : State) (g unit target ovf inv : Nat) :
    (s.numCount g unit target ovf inv).pending = s.pending ∧ (s.numCount g unit target ovf inv).free = s.free ∧
    (s.numCount g unit target ovf inv).latch = s.latch ∧ (s.numCount g unit target ovf inv).mem = s.mem ∧
    (s.numCount g unit target ovf inv).memTag = s.memTag ∧ (s.numCount g unit target ovf inv).host = s.host ∧
    (s.numCount g unit target ovf inv).hostTag = s.hostTag ∧ (s.numCount g unit target ovf inv).lcount = s.lcount ∧
    (s.numCount g unit target ovf inv).evLost = s.evLost ∧ (s.numCount g unit target ovf inv).icEdge = s.icEdge ∧
    (s.numCount g unit target ovf inv).msix = s.msix ∧ (s.numCount g unit target ovf inv).fenced = s.fenced ∧
    (s.numCount g unit target ovf inv).stalls = s.stalls ∧ (s.numCount g unit target ovf inv).cells = s.cells ∧
    (s.numCount g unit target ovf inv).takeQ = s.takeQ ∧ (s.numCount g unit target ovf inv).reportQ = s.reportQ ∧
    (s.numCount g unit target ovf inv).answers = s.answers ∧ (s.numCount g unit target ovf inv).tokens = s.tokens ∧
    (s.numCount g unit target ovf inv).bayTlb = s.bayTlb ∧ (s.numCount g unit target ovf inv).jobs = s.jobs ∧
    (s.numCount g unit target ovf inv).queues = s.queues ∧ (s.numCount g unit target ovf inv).faultQ = s.faultQ ∧
    (s.numCount g unit target ovf inv).net = s.net ∧ (s.numCount g unit target ovf inv).hbms = s.hbms ∧
    (s.numCount g unit target ovf inv).fabs = s.fabs ∧ (s.numCount g unit target ovf inv).cfg = s.cfg ∧
    (s.numCount g unit target ovf inv).sec = s.sec ∧ (s.numCount g unit target ovf inv).board = s.board ∧
    (s.numCount g unit target ovf inv).links = s.links ∧ (s.numCount g unit target ovf inv).said = s.said ∧
    (s.numCount g unit target ovf inv).doeErr = s.doeErr ∧ (s.numCount g unit target ovf inv).hostUp = s.hostUp ∧
    (s.numCount g unit target ovf inv).speed = s.speed ∧ (s.numCount g unit target ovf inv).width = s.width ∧
    (s.numCount g unit target ovf inv).hdm = s.hdm ∧ (s.numCount g unit target ovf inv).mboxes = s.mboxes ∧
    (s.numCount g unit target ovf inv).fw = s.fw ∧ (s.numCount g unit target ovf inv).viral = s.viral ∧
    (s.numCount g unit target ovf inv).warms = s.warms ∧ (s.numCount g unit target ovf inv).accepts = s.accepts ∧
    (s.numCount g unit target ovf inv).classes = s.classes ∧ (s.numCount g unit target ovf inv).eng = s.eng ∧
    (s.numCount g unit target ovf inv).hostWait = s.hostWait ∧ (s.numCount g unit target ovf inv).mx = s.mx ∧
    (s.numCount g unit target ovf inv).errs = s.errs ∧ (s.numCount g unit target ovf inv).ctxLost = s.ctxLost :=
  by obtain ⟨a, b, h⟩ := s.numCount_shape g unit target ovf inv; rw [h]; exact ⟨rfl, rfl, rfl, rfl, rfl, rfl, rfl, rfl, rfl, rfl, rfl, rfl, rfl, rfl, rfl, rfl, rfl, rfl, rfl, rfl, rfl, rfl, rfl, rfl, rfl, rfl, rfl, rfl, rfl, rfl, rfl, rfl, rfl, rfl, rfl, rfl, rfl, rfl, rfl, rfl, rfl, rfl, rfl, rfl, rfl, rfl⟩

theorem State.fabQerr_shape (s : State) (b block cause : Nat) :
    ∃ x y, s.fabQerr b block cause = { s with regs := x, events := y } := by
  unfold State.fabQerr
  dsimp only
  have hc : ∃ v, s.count .fabQerr b = s.setReg .fabQerr b 0 v := ⟨_, rfl⟩
  obtain ⟨v, hc⟩ := hc
  rw [hc]
  obtain ⟨p, q, h1⟩ := (s.setReg .fabQerr b 0 v).capture_shape .fabEvent 1 .fabQerrInfo b (cause * 2 ^ 62 + block * 2 ^ 32)
  rw [h1]
  obtain ⟨x, y, h2⟩ := ({ s.setReg .fabQerr b 0 v with regs := p, events := q } : State).raiseOnce_shape .fabEvent b 1 0x1C1 b block cause
  exact ⟨x, y, h2⟩

/-- fabQerr changes no field but regs and events. -/
@[simp] theorem State.fabQerr_fields (s : State) (b block cause : Nat) :
    (s.fabQerr b block cause).pending = s.pending ∧ (s.fabQerr b block cause).free = s.free ∧
    (s.fabQerr b block cause).latch = s.latch ∧ (s.fabQerr b block cause).mem = s.mem ∧
    (s.fabQerr b block cause).memTag = s.memTag ∧ (s.fabQerr b block cause).host = s.host ∧
    (s.fabQerr b block cause).hostTag = s.hostTag ∧ (s.fabQerr b block cause).lcount = s.lcount ∧
    (s.fabQerr b block cause).evLost = s.evLost ∧ (s.fabQerr b block cause).icEdge = s.icEdge ∧
    (s.fabQerr b block cause).msix = s.msix ∧ (s.fabQerr b block cause).fenced = s.fenced ∧
    (s.fabQerr b block cause).stalls = s.stalls ∧ (s.fabQerr b block cause).cells = s.cells ∧
    (s.fabQerr b block cause).takeQ = s.takeQ ∧ (s.fabQerr b block cause).reportQ = s.reportQ ∧
    (s.fabQerr b block cause).answers = s.answers ∧ (s.fabQerr b block cause).tokens = s.tokens ∧
    (s.fabQerr b block cause).bayTlb = s.bayTlb ∧ (s.fabQerr b block cause).jobs = s.jobs ∧
    (s.fabQerr b block cause).queues = s.queues ∧ (s.fabQerr b block cause).faultQ = s.faultQ ∧
    (s.fabQerr b block cause).net = s.net ∧ (s.fabQerr b block cause).hbms = s.hbms ∧ (s.fabQerr b block cause).fabs = s.fabs ∧
    (s.fabQerr b block cause).cfg = s.cfg ∧ (s.fabQerr b block cause).sec = s.sec ∧ (s.fabQerr b block cause).board = s.board ∧
    (s.fabQerr b block cause).links = s.links ∧ (s.fabQerr b block cause).said = s.said ∧
    (s.fabQerr b block cause).doeErr = s.doeErr ∧ (s.fabQerr b block cause).hostUp = s.hostUp ∧
    (s.fabQerr b block cause).speed = s.speed ∧ (s.fabQerr b block cause).width = s.width ∧
    (s.fabQerr b block cause).hdm = s.hdm ∧ (s.fabQerr b block cause).mboxes = s.mboxes ∧ (s.fabQerr b block cause).fw = s.fw ∧
    (s.fabQerr b block cause).viral = s.viral ∧ (s.fabQerr b block cause).warms = s.warms ∧
    (s.fabQerr b block cause).accepts = s.accepts ∧ (s.fabQerr b block cause).classes = s.classes ∧
    (s.fabQerr b block cause).eng = s.eng ∧ (s.fabQerr b block cause).hostWait = s.hostWait ∧
    (s.fabQerr b block cause).mx = s.mx ∧ (s.fabQerr b block cause).errs = s.errs ∧
    (s.fabQerr b block cause).ctxLost = s.ctxLost :=
  by obtain ⟨a, b, h⟩ := s.fabQerr_shape b block cause; rw [h]; exact ⟨rfl, rfl, rfl, rfl, rfl, rfl, rfl, rfl, rfl, rfl, rfl, rfl, rfl, rfl, rfl, rfl, rfl, rfl, rfl, rfl, rfl, rfl, rfl, rfl, rfl, rfl, rfl, rfl, rfl, rfl, rfl, rfl, rfl, rfl, rfl, rfl, rfl, rfl, rfl, rfl, rfl, rfl, rfl, rfl, rfl, rfl⟩

/-- modQueue changes no field but queues. -/
@[simp] theorem State.modQueue_fields (s : State) (q : Nat) (f : FeedQueue → FeedQueue) :
    (s.modQueue q f).pending = s.pending ∧ (s.modQueue q f).free = s.free ∧ (s.modQueue q f).regs = s.regs ∧
    (s.modQueue q f).latch = s.latch ∧ (s.modQueue q f).mem = s.mem ∧ (s.modQueue q f).memTag = s.memTag ∧
    (s.modQueue q f).host = s.host ∧ (s.modQueue q f).hostTag = s.hostTag ∧ (s.modQueue q f).lcount = s.lcount ∧
    (s.modQueue q f).events = s.events ∧ (s.modQueue q f).evLost = s.evLost ∧ (s.modQueue q f).icEdge = s.icEdge ∧
    (s.modQueue q f).msix = s.msix ∧ (s.modQueue q f).fenced = s.fenced ∧ (s.modQueue q f).stalls = s.stalls ∧
    (s.modQueue q f).cells = s.cells ∧ (s.modQueue q f).takeQ = s.takeQ ∧ (s.modQueue q f).reportQ = s.reportQ ∧
    (s.modQueue q f).answers = s.answers ∧ (s.modQueue q f).tokens = s.tokens ∧ (s.modQueue q f).bayTlb = s.bayTlb ∧
    (s.modQueue q f).jobs = s.jobs ∧ (s.modQueue q f).faultQ = s.faultQ ∧ (s.modQueue q f).net = s.net ∧
    (s.modQueue q f).hbms = s.hbms ∧ (s.modQueue q f).fabs = s.fabs ∧ (s.modQueue q f).cfg = s.cfg ∧
    (s.modQueue q f).sec = s.sec ∧ (s.modQueue q f).board = s.board ∧ (s.modQueue q f).links = s.links ∧
    (s.modQueue q f).said = s.said ∧ (s.modQueue q f).doeErr = s.doeErr ∧ (s.modQueue q f).hostUp = s.hostUp ∧
    (s.modQueue q f).speed = s.speed ∧ (s.modQueue q f).width = s.width ∧ (s.modQueue q f).hdm = s.hdm ∧
    (s.modQueue q f).mboxes = s.mboxes ∧ (s.modQueue q f).fw = s.fw ∧ (s.modQueue q f).viral = s.viral ∧
    (s.modQueue q f).warms = s.warms ∧ (s.modQueue q f).accepts = s.accepts ∧ (s.modQueue q f).classes = s.classes ∧
    (s.modQueue q f).eng = s.eng ∧ (s.modQueue q f).hostWait = s.hostWait ∧ (s.modQueue q f).mx = s.mx ∧
    (s.modQueue q f).errs = s.errs ∧ (s.modQueue q f).ctxLost = s.ctxLost :=
  ⟨rfl, rfl, rfl, rfl, rfl, rfl, rfl, rfl, rfl, rfl, rfl, rfl, rfl, rfl, rfl, rfl, rfl, rfl, rfl, rfl, rfl, rfl, rfl, rfl, rfl, rfl, rfl, rfl, rfl, rfl, rfl, rfl, rfl, rfl, rfl, rfl, rfl, rfl, rfl, rfl, rfl, rfl, rfl, rfl, rfl, rfl, rfl⟩

/-- modNet changes no field but net. -/
@[simp] theorem State.modNet_fields (s : State) (f : Net → Net) :
    (s.modNet f).pending = s.pending ∧ (s.modNet f).free = s.free ∧ (s.modNet f).regs = s.regs ∧ (s.modNet f).latch = s.latch ∧
    (s.modNet f).mem = s.mem ∧ (s.modNet f).memTag = s.memTag ∧ (s.modNet f).host = s.host ∧ (s.modNet f).hostTag = s.hostTag ∧
    (s.modNet f).lcount = s.lcount ∧ (s.modNet f).events = s.events ∧ (s.modNet f).evLost = s.evLost ∧
    (s.modNet f).icEdge = s.icEdge ∧ (s.modNet f).msix = s.msix ∧ (s.modNet f).fenced = s.fenced ∧
    (s.modNet f).stalls = s.stalls ∧ (s.modNet f).cells = s.cells ∧ (s.modNet f).takeQ = s.takeQ ∧
    (s.modNet f).reportQ = s.reportQ ∧ (s.modNet f).answers = s.answers ∧ (s.modNet f).tokens = s.tokens ∧
    (s.modNet f).bayTlb = s.bayTlb ∧ (s.modNet f).jobs = s.jobs ∧ (s.modNet f).queues = s.queues ∧
    (s.modNet f).faultQ = s.faultQ ∧ (s.modNet f).hbms = s.hbms ∧ (s.modNet f).fabs = s.fabs ∧ (s.modNet f).cfg = s.cfg ∧
    (s.modNet f).sec = s.sec ∧ (s.modNet f).board = s.board ∧ (s.modNet f).links = s.links ∧ (s.modNet f).said = s.said ∧
    (s.modNet f).doeErr = s.doeErr ∧ (s.modNet f).hostUp = s.hostUp ∧ (s.modNet f).speed = s.speed ∧
    (s.modNet f).width = s.width ∧ (s.modNet f).hdm = s.hdm ∧ (s.modNet f).mboxes = s.mboxes ∧ (s.modNet f).fw = s.fw ∧
    (s.modNet f).viral = s.viral ∧ (s.modNet f).warms = s.warms ∧ (s.modNet f).accepts = s.accepts ∧
    (s.modNet f).classes = s.classes ∧ (s.modNet f).eng = s.eng ∧ (s.modNet f).hostWait = s.hostWait ∧ (s.modNet f).mx = s.mx ∧
    (s.modNet f).errs = s.errs ∧ (s.modNet f).ctxLost = s.ctxLost :=
  ⟨rfl, rfl, rfl, rfl, rfl, rfl, rfl, rfl, rfl, rfl, rfl, rfl, rfl, rfl, rfl, rfl, rfl, rfl, rfl, rfl, rfl, rfl, rfl, rfl, rfl, rfl, rfl, rfl, rfl, rfl, rfl, rfl, rfl, rfl, rfl, rfl, rfl, rfl, rfl, rfl, rfl, rfl, rfl, rfl, rfl, rfl, rfl⟩

/-- modHbm changes no field but hbms. -/
@[simp] theorem State.modHbm_fields (s : State) (b : Nat) (f : Hbm → Hbm) :
    (s.modHbm b f).pending = s.pending ∧ (s.modHbm b f).free = s.free ∧ (s.modHbm b f).regs = s.regs ∧
    (s.modHbm b f).latch = s.latch ∧ (s.modHbm b f).mem = s.mem ∧ (s.modHbm b f).memTag = s.memTag ∧
    (s.modHbm b f).host = s.host ∧ (s.modHbm b f).hostTag = s.hostTag ∧ (s.modHbm b f).lcount = s.lcount ∧
    (s.modHbm b f).events = s.events ∧ (s.modHbm b f).evLost = s.evLost ∧ (s.modHbm b f).icEdge = s.icEdge ∧
    (s.modHbm b f).msix = s.msix ∧ (s.modHbm b f).fenced = s.fenced ∧ (s.modHbm b f).stalls = s.stalls ∧
    (s.modHbm b f).cells = s.cells ∧ (s.modHbm b f).takeQ = s.takeQ ∧ (s.modHbm b f).reportQ = s.reportQ ∧
    (s.modHbm b f).answers = s.answers ∧ (s.modHbm b f).tokens = s.tokens ∧ (s.modHbm b f).bayTlb = s.bayTlb ∧
    (s.modHbm b f).jobs = s.jobs ∧ (s.modHbm b f).queues = s.queues ∧ (s.modHbm b f).faultQ = s.faultQ ∧
    (s.modHbm b f).net = s.net ∧ (s.modHbm b f).fabs = s.fabs ∧ (s.modHbm b f).cfg = s.cfg ∧ (s.modHbm b f).sec = s.sec ∧
    (s.modHbm b f).board = s.board ∧ (s.modHbm b f).links = s.links ∧ (s.modHbm b f).said = s.said ∧
    (s.modHbm b f).doeErr = s.doeErr ∧ (s.modHbm b f).hostUp = s.hostUp ∧ (s.modHbm b f).speed = s.speed ∧
    (s.modHbm b f).width = s.width ∧ (s.modHbm b f).hdm = s.hdm ∧ (s.modHbm b f).mboxes = s.mboxes ∧ (s.modHbm b f).fw = s.fw ∧
    (s.modHbm b f).viral = s.viral ∧ (s.modHbm b f).warms = s.warms ∧ (s.modHbm b f).accepts = s.accepts ∧
    (s.modHbm b f).classes = s.classes ∧ (s.modHbm b f).eng = s.eng ∧ (s.modHbm b f).hostWait = s.hostWait ∧
    (s.modHbm b f).mx = s.mx ∧ (s.modHbm b f).errs = s.errs ∧ (s.modHbm b f).ctxLost = s.ctxLost :=
  ⟨rfl, rfl, rfl, rfl, rfl, rfl, rfl, rfl, rfl, rfl, rfl, rfl, rfl, rfl, rfl, rfl, rfl, rfl, rfl, rfl, rfl, rfl, rfl, rfl, rfl, rfl, rfl, rfl, rfl, rfl, rfl, rfl, rfl, rfl, rfl, rfl, rfl, rfl, rfl, rfl, rfl, rfl, rfl, rfl, rfl, rfl, rfl⟩

/-- modPc changes no field but hbms. -/
@[simp] theorem State.modPc_fields (s : State) (b pc : Nat) (f : PChan → PChan) :
    (s.modPc b pc f).pending = s.pending ∧ (s.modPc b pc f).free = s.free ∧ (s.modPc b pc f).regs = s.regs ∧
    (s.modPc b pc f).latch = s.latch ∧ (s.modPc b pc f).mem = s.mem ∧ (s.modPc b pc f).memTag = s.memTag ∧
    (s.modPc b pc f).host = s.host ∧ (s.modPc b pc f).hostTag = s.hostTag ∧ (s.modPc b pc f).lcount = s.lcount ∧
    (s.modPc b pc f).events = s.events ∧ (s.modPc b pc f).evLost = s.evLost ∧ (s.modPc b pc f).icEdge = s.icEdge ∧
    (s.modPc b pc f).msix = s.msix ∧ (s.modPc b pc f).fenced = s.fenced ∧ (s.modPc b pc f).stalls = s.stalls ∧
    (s.modPc b pc f).cells = s.cells ∧ (s.modPc b pc f).takeQ = s.takeQ ∧ (s.modPc b pc f).reportQ = s.reportQ ∧
    (s.modPc b pc f).answers = s.answers ∧ (s.modPc b pc f).tokens = s.tokens ∧ (s.modPc b pc f).bayTlb = s.bayTlb ∧
    (s.modPc b pc f).jobs = s.jobs ∧ (s.modPc b pc f).queues = s.queues ∧ (s.modPc b pc f).faultQ = s.faultQ ∧
    (s.modPc b pc f).net = s.net ∧ (s.modPc b pc f).fabs = s.fabs ∧ (s.modPc b pc f).cfg = s.cfg ∧
    (s.modPc b pc f).sec = s.sec ∧ (s.modPc b pc f).board = s.board ∧ (s.modPc b pc f).links = s.links ∧
    (s.modPc b pc f).said = s.said ∧ (s.modPc b pc f).doeErr = s.doeErr ∧ (s.modPc b pc f).hostUp = s.hostUp ∧
    (s.modPc b pc f).speed = s.speed ∧ (s.modPc b pc f).width = s.width ∧ (s.modPc b pc f).hdm = s.hdm ∧
    (s.modPc b pc f).mboxes = s.mboxes ∧ (s.modPc b pc f).fw = s.fw ∧ (s.modPc b pc f).viral = s.viral ∧
    (s.modPc b pc f).warms = s.warms ∧ (s.modPc b pc f).accepts = s.accepts ∧ (s.modPc b pc f).classes = s.classes ∧
    (s.modPc b pc f).eng = s.eng ∧ (s.modPc b pc f).hostWait = s.hostWait ∧ (s.modPc b pc f).mx = s.mx ∧
    (s.modPc b pc f).errs = s.errs ∧ (s.modPc b pc f).ctxLost = s.ctxLost :=
  ⟨rfl, rfl, rfl, rfl, rfl, rfl, rfl, rfl, rfl, rfl, rfl, rfl, rfl, rfl, rfl, rfl, rfl, rfl, rfl, rfl, rfl, rfl, rfl, rfl, rfl, rfl, rfl, rfl, rfl, rfl, rfl, rfl, rfl, rfl, rfl, rfl, rfl, rfl, rfl, rfl, rfl, rfl, rfl, rfl, rfl, rfl, rfl⟩

/-- modFab changes no field but fabs. -/
@[simp] theorem State.modFab_fields (s : State) (b : Nat) (f : Fab → Fab) :
    (s.modFab b f).pending = s.pending ∧ (s.modFab b f).free = s.free ∧ (s.modFab b f).regs = s.regs ∧
    (s.modFab b f).latch = s.latch ∧ (s.modFab b f).mem = s.mem ∧ (s.modFab b f).memTag = s.memTag ∧
    (s.modFab b f).host = s.host ∧ (s.modFab b f).hostTag = s.hostTag ∧ (s.modFab b f).lcount = s.lcount ∧
    (s.modFab b f).events = s.events ∧ (s.modFab b f).evLost = s.evLost ∧ (s.modFab b f).icEdge = s.icEdge ∧
    (s.modFab b f).msix = s.msix ∧ (s.modFab b f).fenced = s.fenced ∧ (s.modFab b f).stalls = s.stalls ∧
    (s.modFab b f).cells = s.cells ∧ (s.modFab b f).takeQ = s.takeQ ∧ (s.modFab b f).reportQ = s.reportQ ∧
    (s.modFab b f).answers = s.answers ∧ (s.modFab b f).tokens = s.tokens ∧ (s.modFab b f).bayTlb = s.bayTlb ∧
    (s.modFab b f).jobs = s.jobs ∧ (s.modFab b f).queues = s.queues ∧ (s.modFab b f).faultQ = s.faultQ ∧
    (s.modFab b f).net = s.net ∧ (s.modFab b f).hbms = s.hbms ∧ (s.modFab b f).cfg = s.cfg ∧ (s.modFab b f).sec = s.sec ∧
    (s.modFab b f).board = s.board ∧ (s.modFab b f).links = s.links ∧ (s.modFab b f).said = s.said ∧
    (s.modFab b f).doeErr = s.doeErr ∧ (s.modFab b f).hostUp = s.hostUp ∧ (s.modFab b f).speed = s.speed ∧
    (s.modFab b f).width = s.width ∧ (s.modFab b f).hdm = s.hdm ∧ (s.modFab b f).mboxes = s.mboxes ∧ (s.modFab b f).fw = s.fw ∧
    (s.modFab b f).viral = s.viral ∧ (s.modFab b f).warms = s.warms ∧ (s.modFab b f).accepts = s.accepts ∧
    (s.modFab b f).classes = s.classes ∧ (s.modFab b f).eng = s.eng ∧ (s.modFab b f).hostWait = s.hostWait ∧
    (s.modFab b f).mx = s.mx ∧ (s.modFab b f).errs = s.errs ∧ (s.modFab b f).ctxLost = s.ctxLost :=
  ⟨rfl, rfl, rfl, rfl, rfl, rfl, rfl, rfl, rfl, rfl, rfl, rfl, rfl, rfl, rfl, rfl, rfl, rfl, rfl, rfl, rfl, rfl, rfl, rfl, rfl, rfl, rfl, rfl, rfl, rfl, rfl, rfl, rfl, rfl, rfl, rfl, rfl, rfl, rfl, rfl, rfl, rfl, rfl, rfl, rfl, rfl, rfl⟩

/-- setQueue changes no field but fabs. -/
@[simp] theorem State.setQueue_fields (s : State) (b j : Nat) (q : FabQueue) :
    (s.setQueue b j q).pending = s.pending ∧ (s.setQueue b j q).free = s.free ∧ (s.setQueue b j q).regs = s.regs ∧
    (s.setQueue b j q).latch = s.latch ∧ (s.setQueue b j q).mem = s.mem ∧ (s.setQueue b j q).memTag = s.memTag ∧
    (s.setQueue b j q).host = s.host ∧ (s.setQueue b j q).hostTag = s.hostTag ∧ (s.setQueue b j q).lcount = s.lcount ∧
    (s.setQueue b j q).events = s.events ∧ (s.setQueue b j q).evLost = s.evLost ∧ (s.setQueue b j q).icEdge = s.icEdge ∧
    (s.setQueue b j q).msix = s.msix ∧ (s.setQueue b j q).fenced = s.fenced ∧ (s.setQueue b j q).stalls = s.stalls ∧
    (s.setQueue b j q).cells = s.cells ∧ (s.setQueue b j q).takeQ = s.takeQ ∧ (s.setQueue b j q).reportQ = s.reportQ ∧
    (s.setQueue b j q).answers = s.answers ∧ (s.setQueue b j q).tokens = s.tokens ∧ (s.setQueue b j q).bayTlb = s.bayTlb ∧
    (s.setQueue b j q).jobs = s.jobs ∧ (s.setQueue b j q).queues = s.queues ∧ (s.setQueue b j q).faultQ = s.faultQ ∧
    (s.setQueue b j q).net = s.net ∧ (s.setQueue b j q).hbms = s.hbms ∧ (s.setQueue b j q).cfg = s.cfg ∧
    (s.setQueue b j q).sec = s.sec ∧ (s.setQueue b j q).board = s.board ∧ (s.setQueue b j q).links = s.links ∧
    (s.setQueue b j q).said = s.said ∧ (s.setQueue b j q).doeErr = s.doeErr ∧ (s.setQueue b j q).hostUp = s.hostUp ∧
    (s.setQueue b j q).speed = s.speed ∧ (s.setQueue b j q).width = s.width ∧ (s.setQueue b j q).hdm = s.hdm ∧
    (s.setQueue b j q).mboxes = s.mboxes ∧ (s.setQueue b j q).fw = s.fw ∧ (s.setQueue b j q).viral = s.viral ∧
    (s.setQueue b j q).warms = s.warms ∧ (s.setQueue b j q).accepts = s.accepts ∧ (s.setQueue b j q).classes = s.classes ∧
    (s.setQueue b j q).eng = s.eng ∧ (s.setQueue b j q).hostWait = s.hostWait ∧ (s.setQueue b j q).mx = s.mx ∧
    (s.setQueue b j q).errs = s.errs ∧ (s.setQueue b j q).ctxLost = s.ctxLost :=
  ⟨rfl, rfl, rfl, rfl, rfl, rfl, rfl, rfl, rfl, rfl, rfl, rfl, rfl, rfl, rfl, rfl, rfl, rfl, rfl, rfl, rfl, rfl, rfl, rfl, rfl, rfl, rfl, rfl, rfl, rfl, rfl, rfl, rfl, rfl, rfl, rfl, rfl, rfl, rfl, rfl, rfl, rfl, rfl, rfl, rfl, rfl, rfl⟩

/-- setEnd changes no field but fabs. -/
@[simp] theorem State.setEnd_fields (s : State) (b e : Nat) (x : FabEnd) :
    (s.setEnd b e x).pending = s.pending ∧ (s.setEnd b e x).free = s.free ∧ (s.setEnd b e x).regs = s.regs ∧
    (s.setEnd b e x).latch = s.latch ∧ (s.setEnd b e x).mem = s.mem ∧ (s.setEnd b e x).memTag = s.memTag ∧
    (s.setEnd b e x).host = s.host ∧ (s.setEnd b e x).hostTag = s.hostTag ∧ (s.setEnd b e x).lcount = s.lcount ∧
    (s.setEnd b e x).events = s.events ∧ (s.setEnd b e x).evLost = s.evLost ∧ (s.setEnd b e x).icEdge = s.icEdge ∧
    (s.setEnd b e x).msix = s.msix ∧ (s.setEnd b e x).fenced = s.fenced ∧ (s.setEnd b e x).stalls = s.stalls ∧
    (s.setEnd b e x).cells = s.cells ∧ (s.setEnd b e x).takeQ = s.takeQ ∧ (s.setEnd b e x).reportQ = s.reportQ ∧
    (s.setEnd b e x).answers = s.answers ∧ (s.setEnd b e x).tokens = s.tokens ∧ (s.setEnd b e x).bayTlb = s.bayTlb ∧
    (s.setEnd b e x).jobs = s.jobs ∧ (s.setEnd b e x).queues = s.queues ∧ (s.setEnd b e x).faultQ = s.faultQ ∧
    (s.setEnd b e x).net = s.net ∧ (s.setEnd b e x).hbms = s.hbms ∧ (s.setEnd b e x).cfg = s.cfg ∧
    (s.setEnd b e x).sec = s.sec ∧ (s.setEnd b e x).board = s.board ∧ (s.setEnd b e x).links = s.links ∧
    (s.setEnd b e x).said = s.said ∧ (s.setEnd b e x).doeErr = s.doeErr ∧ (s.setEnd b e x).hostUp = s.hostUp ∧
    (s.setEnd b e x).speed = s.speed ∧ (s.setEnd b e x).width = s.width ∧ (s.setEnd b e x).hdm = s.hdm ∧
    (s.setEnd b e x).mboxes = s.mboxes ∧ (s.setEnd b e x).fw = s.fw ∧ (s.setEnd b e x).viral = s.viral ∧
    (s.setEnd b e x).warms = s.warms ∧ (s.setEnd b e x).accepts = s.accepts ∧ (s.setEnd b e x).classes = s.classes ∧
    (s.setEnd b e x).eng = s.eng ∧ (s.setEnd b e x).hostWait = s.hostWait ∧ (s.setEnd b e x).mx = s.mx ∧
    (s.setEnd b e x).errs = s.errs ∧ (s.setEnd b e x).ctxLost = s.ctxLost :=
  ⟨rfl, rfl, rfl, rfl, rfl, rfl, rfl, rfl, rfl, rfl, rfl, rfl, rfl, rfl, rfl, rfl, rfl, rfl, rfl, rfl, rfl, rfl, rfl, rfl, rfl, rfl, rfl, rfl, rfl, rfl, rfl, rfl, rfl, rfl, rfl, rfl, rfl, rfl, rfl, rfl, rfl, rfl, rfl, rfl, rfl, rfl, rfl⟩

/-- modCfg changes no field but cfg. -/
@[simp] theorem State.modCfg_fields (s : State) (f : Cfg → Cfg) :
    (s.modCfg f).pending = s.pending ∧ (s.modCfg f).free = s.free ∧ (s.modCfg f).regs = s.regs ∧ (s.modCfg f).latch = s.latch ∧
    (s.modCfg f).mem = s.mem ∧ (s.modCfg f).memTag = s.memTag ∧ (s.modCfg f).host = s.host ∧ (s.modCfg f).hostTag = s.hostTag ∧
    (s.modCfg f).lcount = s.lcount ∧ (s.modCfg f).events = s.events ∧ (s.modCfg f).evLost = s.evLost ∧
    (s.modCfg f).icEdge = s.icEdge ∧ (s.modCfg f).msix = s.msix ∧ (s.modCfg f).fenced = s.fenced ∧
    (s.modCfg f).stalls = s.stalls ∧ (s.modCfg f).cells = s.cells ∧ (s.modCfg f).takeQ = s.takeQ ∧
    (s.modCfg f).reportQ = s.reportQ ∧ (s.modCfg f).answers = s.answers ∧ (s.modCfg f).tokens = s.tokens ∧
    (s.modCfg f).bayTlb = s.bayTlb ∧ (s.modCfg f).jobs = s.jobs ∧ (s.modCfg f).queues = s.queues ∧
    (s.modCfg f).faultQ = s.faultQ ∧ (s.modCfg f).net = s.net ∧ (s.modCfg f).hbms = s.hbms ∧ (s.modCfg f).fabs = s.fabs ∧
    (s.modCfg f).sec = s.sec ∧ (s.modCfg f).board = s.board ∧ (s.modCfg f).links = s.links ∧ (s.modCfg f).said = s.said ∧
    (s.modCfg f).doeErr = s.doeErr ∧ (s.modCfg f).hostUp = s.hostUp ∧ (s.modCfg f).speed = s.speed ∧
    (s.modCfg f).width = s.width ∧ (s.modCfg f).hdm = s.hdm ∧ (s.modCfg f).mboxes = s.mboxes ∧ (s.modCfg f).fw = s.fw ∧
    (s.modCfg f).viral = s.viral ∧ (s.modCfg f).warms = s.warms ∧ (s.modCfg f).accepts = s.accepts ∧
    (s.modCfg f).classes = s.classes ∧ (s.modCfg f).eng = s.eng ∧ (s.modCfg f).hostWait = s.hostWait ∧ (s.modCfg f).mx = s.mx ∧
    (s.modCfg f).errs = s.errs ∧ (s.modCfg f).ctxLost = s.ctxLost :=
  ⟨rfl, rfl, rfl, rfl, rfl, rfl, rfl, rfl, rfl, rfl, rfl, rfl, rfl, rfl, rfl, rfl, rfl, rfl, rfl, rfl, rfl, rfl, rfl, rfl, rfl, rfl, rfl, rfl, rfl, rfl, rfl, rfl, rfl, rfl, rfl, rfl, rfl, rfl, rfl, rfl, rfl, rfl, rfl, rfl, rfl, rfl, rfl⟩

/-- modPad changes no field but cfg. -/
@[simp] theorem State.modPad_fields (s : State) (p : Nat) (f : Pad → Pad) :
    (s.modPad p f).pending = s.pending ∧ (s.modPad p f).free = s.free ∧ (s.modPad p f).regs = s.regs ∧
    (s.modPad p f).latch = s.latch ∧ (s.modPad p f).mem = s.mem ∧ (s.modPad p f).memTag = s.memTag ∧
    (s.modPad p f).host = s.host ∧ (s.modPad p f).hostTag = s.hostTag ∧ (s.modPad p f).lcount = s.lcount ∧
    (s.modPad p f).events = s.events ∧ (s.modPad p f).evLost = s.evLost ∧ (s.modPad p f).icEdge = s.icEdge ∧
    (s.modPad p f).msix = s.msix ∧ (s.modPad p f).fenced = s.fenced ∧ (s.modPad p f).stalls = s.stalls ∧
    (s.modPad p f).cells = s.cells ∧ (s.modPad p f).takeQ = s.takeQ ∧ (s.modPad p f).reportQ = s.reportQ ∧
    (s.modPad p f).answers = s.answers ∧ (s.modPad p f).tokens = s.tokens ∧ (s.modPad p f).bayTlb = s.bayTlb ∧
    (s.modPad p f).jobs = s.jobs ∧ (s.modPad p f).queues = s.queues ∧ (s.modPad p f).faultQ = s.faultQ ∧
    (s.modPad p f).net = s.net ∧ (s.modPad p f).hbms = s.hbms ∧ (s.modPad p f).fabs = s.fabs ∧ (s.modPad p f).sec = s.sec ∧
    (s.modPad p f).board = s.board ∧ (s.modPad p f).links = s.links ∧ (s.modPad p f).said = s.said ∧
    (s.modPad p f).doeErr = s.doeErr ∧ (s.modPad p f).hostUp = s.hostUp ∧ (s.modPad p f).speed = s.speed ∧
    (s.modPad p f).width = s.width ∧ (s.modPad p f).hdm = s.hdm ∧ (s.modPad p f).mboxes = s.mboxes ∧ (s.modPad p f).fw = s.fw ∧
    (s.modPad p f).viral = s.viral ∧ (s.modPad p f).warms = s.warms ∧ (s.modPad p f).accepts = s.accepts ∧
    (s.modPad p f).classes = s.classes ∧ (s.modPad p f).eng = s.eng ∧ (s.modPad p f).hostWait = s.hostWait ∧
    (s.modPad p f).mx = s.mx ∧ (s.modPad p f).errs = s.errs ∧ (s.modPad p f).ctxLost = s.ctxLost :=
  ⟨rfl, rfl, rfl, rfl, rfl, rfl, rfl, rfl, rfl, rfl, rfl, rfl, rfl, rfl, rfl, rfl, rfl, rfl, rfl, rfl, rfl, rfl, rfl, rfl, rfl, rfl, rfl, rfl, rfl, rfl, rfl, rfl, rfl, rfl, rfl, rfl, rfl, rfl, rfl, rfl, rfl, rfl, rfl, rfl, rfl, rfl, rfl⟩

/-- setLoad changes no field but cfg. -/
@[simp] theorem State.setLoad_fields (s : State) (l : Load) :
    (s.setLoad l).pending = s.pending ∧ (s.setLoad l).free = s.free ∧ (s.setLoad l).regs = s.regs ∧
    (s.setLoad l).latch = s.latch ∧ (s.setLoad l).mem = s.mem ∧ (s.setLoad l).memTag = s.memTag ∧ (s.setLoad l).host = s.host ∧
    (s.setLoad l).hostTag = s.hostTag ∧ (s.setLoad l).lcount = s.lcount ∧ (s.setLoad l).events = s.events ∧
    (s.setLoad l).evLost = s.evLost ∧ (s.setLoad l).icEdge = s.icEdge ∧ (s.setLoad l).msix = s.msix ∧
    (s.setLoad l).fenced = s.fenced ∧ (s.setLoad l).stalls = s.stalls ∧ (s.setLoad l).cells = s.cells ∧
    (s.setLoad l).takeQ = s.takeQ ∧ (s.setLoad l).reportQ = s.reportQ ∧ (s.setLoad l).answers = s.answers ∧
    (s.setLoad l).tokens = s.tokens ∧ (s.setLoad l).bayTlb = s.bayTlb ∧ (s.setLoad l).jobs = s.jobs ∧
    (s.setLoad l).queues = s.queues ∧ (s.setLoad l).faultQ = s.faultQ ∧ (s.setLoad l).net = s.net ∧
    (s.setLoad l).hbms = s.hbms ∧ (s.setLoad l).fabs = s.fabs ∧ (s.setLoad l).sec = s.sec ∧ (s.setLoad l).board = s.board ∧
    (s.setLoad l).links = s.links ∧ (s.setLoad l).said = s.said ∧ (s.setLoad l).doeErr = s.doeErr ∧
    (s.setLoad l).hostUp = s.hostUp ∧ (s.setLoad l).speed = s.speed ∧ (s.setLoad l).width = s.width ∧
    (s.setLoad l).hdm = s.hdm ∧ (s.setLoad l).mboxes = s.mboxes ∧ (s.setLoad l).fw = s.fw ∧ (s.setLoad l).viral = s.viral ∧
    (s.setLoad l).warms = s.warms ∧ (s.setLoad l).accepts = s.accepts ∧ (s.setLoad l).classes = s.classes ∧
    (s.setLoad l).eng = s.eng ∧ (s.setLoad l).hostWait = s.hostWait ∧ (s.setLoad l).mx = s.mx ∧ (s.setLoad l).errs = s.errs ∧
    (s.setLoad l).ctxLost = s.ctxLost :=
  ⟨rfl, rfl, rfl, rfl, rfl, rfl, rfl, rfl, rfl, rfl, rfl, rfl, rfl, rfl, rfl, rfl, rfl, rfl, rfl, rfl, rfl, rfl, rfl, rfl, rfl, rfl, rfl, rfl, rfl, rfl, rfl, rfl, rfl, rfl, rfl, rfl, rfl, rfl, rfl, rfl, rfl, rfl, rfl, rfl, rfl, rfl, rfl⟩

/-- modLink changes no field but links. -/
@[simp] theorem State.modLink_fields (s : State) (k : Nat) (f : Link → Link) :
    (s.modLink k f).pending = s.pending ∧ (s.modLink k f).free = s.free ∧ (s.modLink k f).regs = s.regs ∧
    (s.modLink k f).latch = s.latch ∧ (s.modLink k f).mem = s.mem ∧ (s.modLink k f).memTag = s.memTag ∧
    (s.modLink k f).host = s.host ∧ (s.modLink k f).hostTag = s.hostTag ∧ (s.modLink k f).lcount = s.lcount ∧
    (s.modLink k f).events = s.events ∧ (s.modLink k f).evLost = s.evLost ∧ (s.modLink k f).icEdge = s.icEdge ∧
    (s.modLink k f).msix = s.msix ∧ (s.modLink k f).fenced = s.fenced ∧ (s.modLink k f).stalls = s.stalls ∧
    (s.modLink k f).cells = s.cells ∧ (s.modLink k f).takeQ = s.takeQ ∧ (s.modLink k f).reportQ = s.reportQ ∧
    (s.modLink k f).answers = s.answers ∧ (s.modLink k f).tokens = s.tokens ∧ (s.modLink k f).bayTlb = s.bayTlb ∧
    (s.modLink k f).jobs = s.jobs ∧ (s.modLink k f).queues = s.queues ∧ (s.modLink k f).faultQ = s.faultQ ∧
    (s.modLink k f).net = s.net ∧ (s.modLink k f).hbms = s.hbms ∧ (s.modLink k f).fabs = s.fabs ∧ (s.modLink k f).cfg = s.cfg ∧
    (s.modLink k f).sec = s.sec ∧ (s.modLink k f).board = s.board ∧ (s.modLink k f).said = s.said ∧
    (s.modLink k f).doeErr = s.doeErr ∧ (s.modLink k f).hostUp = s.hostUp ∧ (s.modLink k f).speed = s.speed ∧
    (s.modLink k f).width = s.width ∧ (s.modLink k f).hdm = s.hdm ∧ (s.modLink k f).mboxes = s.mboxes ∧
    (s.modLink k f).fw = s.fw ∧ (s.modLink k f).viral = s.viral ∧ (s.modLink k f).warms = s.warms ∧
    (s.modLink k f).accepts = s.accepts ∧ (s.modLink k f).classes = s.classes ∧ (s.modLink k f).eng = s.eng ∧
    (s.modLink k f).hostWait = s.hostWait ∧ (s.modLink k f).mx = s.mx ∧ (s.modLink k f).errs = s.errs ∧
    (s.modLink k f).ctxLost = s.ctxLost :=
  ⟨rfl, rfl, rfl, rfl, rfl, rfl, rfl, rfl, rfl, rfl, rfl, rfl, rfl, rfl, rfl, rfl, rfl, rfl, rfl, rfl, rfl, rfl, rfl, rfl, rfl, rfl, rfl, rfl, rfl, rfl, rfl, rfl, rfl, rfl, rfl, rfl, rfl, rfl, rfl, rfl, rfl, rfl, rfl, rfl, rfl, rfl, rfl⟩

/-- modMbox changes no field but mboxes. -/
@[simp] theorem State.modMbox_fields (s : State) (mb : Nat) (f : Mbox → Mbox) :
    (s.modMbox mb f).pending = s.pending ∧ (s.modMbox mb f).free = s.free ∧ (s.modMbox mb f).regs = s.regs ∧
    (s.modMbox mb f).latch = s.latch ∧ (s.modMbox mb f).mem = s.mem ∧ (s.modMbox mb f).memTag = s.memTag ∧
    (s.modMbox mb f).host = s.host ∧ (s.modMbox mb f).hostTag = s.hostTag ∧ (s.modMbox mb f).lcount = s.lcount ∧
    (s.modMbox mb f).events = s.events ∧ (s.modMbox mb f).evLost = s.evLost ∧ (s.modMbox mb f).icEdge = s.icEdge ∧
    (s.modMbox mb f).msix = s.msix ∧ (s.modMbox mb f).fenced = s.fenced ∧ (s.modMbox mb f).stalls = s.stalls ∧
    (s.modMbox mb f).cells = s.cells ∧ (s.modMbox mb f).takeQ = s.takeQ ∧ (s.modMbox mb f).reportQ = s.reportQ ∧
    (s.modMbox mb f).answers = s.answers ∧ (s.modMbox mb f).tokens = s.tokens ∧ (s.modMbox mb f).bayTlb = s.bayTlb ∧
    (s.modMbox mb f).jobs = s.jobs ∧ (s.modMbox mb f).queues = s.queues ∧ (s.modMbox mb f).faultQ = s.faultQ ∧
    (s.modMbox mb f).net = s.net ∧ (s.modMbox mb f).hbms = s.hbms ∧ (s.modMbox mb f).fabs = s.fabs ∧
    (s.modMbox mb f).cfg = s.cfg ∧ (s.modMbox mb f).sec = s.sec ∧ (s.modMbox mb f).board = s.board ∧
    (s.modMbox mb f).links = s.links ∧ (s.modMbox mb f).said = s.said ∧ (s.modMbox mb f).doeErr = s.doeErr ∧
    (s.modMbox mb f).hostUp = s.hostUp ∧ (s.modMbox mb f).speed = s.speed ∧ (s.modMbox mb f).width = s.width ∧
    (s.modMbox mb f).hdm = s.hdm ∧ (s.modMbox mb f).fw = s.fw ∧ (s.modMbox mb f).viral = s.viral ∧
    (s.modMbox mb f).warms = s.warms ∧ (s.modMbox mb f).accepts = s.accepts ∧ (s.modMbox mb f).classes = s.classes ∧
    (s.modMbox mb f).eng = s.eng ∧ (s.modMbox mb f).hostWait = s.hostWait ∧ (s.modMbox mb f).mx = s.mx ∧
    (s.modMbox mb f).errs = s.errs ∧ (s.modMbox mb f).ctxLost = s.ctxLost :=
  ⟨rfl, rfl, rfl, rfl, rfl, rfl, rfl, rfl, rfl, rfl, rfl, rfl, rfl, rfl, rfl, rfl, rfl, rfl, rfl, rfl, rfl, rfl, rfl, rfl, rfl, rfl, rfl, rfl, rfl, rfl, rfl, rfl, rfl, rfl, rfl, rfl, rfl, rfl, rfl, rfl, rfl, rfl, rfl, rfl, rfl, rfl, rfl⟩

/-- modEng changes no field but eng. -/
@[simp] theorem State.modEng_fields (s : State) (f : Eng → Eng) :
    (s.modEng f).pending = s.pending ∧ (s.modEng f).free = s.free ∧ (s.modEng f).regs = s.regs ∧ (s.modEng f).latch = s.latch ∧
    (s.modEng f).mem = s.mem ∧ (s.modEng f).memTag = s.memTag ∧ (s.modEng f).host = s.host ∧ (s.modEng f).hostTag = s.hostTag ∧
    (s.modEng f).lcount = s.lcount ∧ (s.modEng f).events = s.events ∧ (s.modEng f).evLost = s.evLost ∧
    (s.modEng f).icEdge = s.icEdge ∧ (s.modEng f).msix = s.msix ∧ (s.modEng f).fenced = s.fenced ∧
    (s.modEng f).stalls = s.stalls ∧ (s.modEng f).cells = s.cells ∧ (s.modEng f).takeQ = s.takeQ ∧
    (s.modEng f).reportQ = s.reportQ ∧ (s.modEng f).answers = s.answers ∧ (s.modEng f).tokens = s.tokens ∧
    (s.modEng f).bayTlb = s.bayTlb ∧ (s.modEng f).jobs = s.jobs ∧ (s.modEng f).queues = s.queues ∧
    (s.modEng f).faultQ = s.faultQ ∧ (s.modEng f).net = s.net ∧ (s.modEng f).hbms = s.hbms ∧ (s.modEng f).fabs = s.fabs ∧
    (s.modEng f).cfg = s.cfg ∧ (s.modEng f).sec = s.sec ∧ (s.modEng f).board = s.board ∧ (s.modEng f).links = s.links ∧
    (s.modEng f).said = s.said ∧ (s.modEng f).doeErr = s.doeErr ∧ (s.modEng f).hostUp = s.hostUp ∧
    (s.modEng f).speed = s.speed ∧ (s.modEng f).width = s.width ∧ (s.modEng f).hdm = s.hdm ∧ (s.modEng f).mboxes = s.mboxes ∧
    (s.modEng f).fw = s.fw ∧ (s.modEng f).viral = s.viral ∧ (s.modEng f).warms = s.warms ∧ (s.modEng f).accepts = s.accepts ∧
    (s.modEng f).classes = s.classes ∧ (s.modEng f).hostWait = s.hostWait ∧ (s.modEng f).mx = s.mx ∧
    (s.modEng f).errs = s.errs ∧ (s.modEng f).ctxLost = s.ctxLost :=
  ⟨rfl, rfl, rfl, rfl, rfl, rfl, rfl, rfl, rfl, rfl, rfl, rfl, rfl, rfl, rfl, rfl, rfl, rfl, rfl, rfl, rfl, rfl, rfl, rfl, rfl, rfl, rfl, rfl, rfl, rfl, rfl, rfl, rfl, rfl, rfl, rfl, rfl, rfl, rfl, rfl, rfl, rfl, rfl, rfl, rfl, rfl, rfl⟩

/-- modSec changes no field but sec. -/
@[simp] theorem State.modSec_fields (s : State) (f : Sec → Sec) :
    (s.modSec f).pending = s.pending ∧ (s.modSec f).free = s.free ∧ (s.modSec f).regs = s.regs ∧ (s.modSec f).latch = s.latch ∧
    (s.modSec f).mem = s.mem ∧ (s.modSec f).memTag = s.memTag ∧ (s.modSec f).host = s.host ∧ (s.modSec f).hostTag = s.hostTag ∧
    (s.modSec f).lcount = s.lcount ∧ (s.modSec f).events = s.events ∧ (s.modSec f).evLost = s.evLost ∧
    (s.modSec f).icEdge = s.icEdge ∧ (s.modSec f).msix = s.msix ∧ (s.modSec f).fenced = s.fenced ∧
    (s.modSec f).stalls = s.stalls ∧ (s.modSec f).cells = s.cells ∧ (s.modSec f).takeQ = s.takeQ ∧
    (s.modSec f).reportQ = s.reportQ ∧ (s.modSec f).answers = s.answers ∧ (s.modSec f).tokens = s.tokens ∧
    (s.modSec f).bayTlb = s.bayTlb ∧ (s.modSec f).jobs = s.jobs ∧ (s.modSec f).queues = s.queues ∧
    (s.modSec f).faultQ = s.faultQ ∧ (s.modSec f).net = s.net ∧ (s.modSec f).hbms = s.hbms ∧ (s.modSec f).fabs = s.fabs ∧
    (s.modSec f).cfg = s.cfg ∧ (s.modSec f).board = s.board ∧ (s.modSec f).links = s.links ∧ (s.modSec f).said = s.said ∧
    (s.modSec f).doeErr = s.doeErr ∧ (s.modSec f).hostUp = s.hostUp ∧ (s.modSec f).speed = s.speed ∧
    (s.modSec f).width = s.width ∧ (s.modSec f).hdm = s.hdm ∧ (s.modSec f).mboxes = s.mboxes ∧ (s.modSec f).fw = s.fw ∧
    (s.modSec f).viral = s.viral ∧ (s.modSec f).warms = s.warms ∧ (s.modSec f).accepts = s.accepts ∧
    (s.modSec f).classes = s.classes ∧ (s.modSec f).eng = s.eng ∧ (s.modSec f).hostWait = s.hostWait ∧ (s.modSec f).mx = s.mx ∧
    (s.modSec f).errs = s.errs ∧ (s.modSec f).ctxLost = s.ctxLost :=
  ⟨rfl, rfl, rfl, rfl, rfl, rfl, rfl, rfl, rfl, rfl, rfl, rfl, rfl, rfl, rfl, rfl, rfl, rfl, rfl, rfl, rfl, rfl, rfl, rfl, rfl, rfl, rfl, rfl, rfl, rfl, rfl, rfl, rfl, rfl, rfl, rfl, rfl, rfl, rfl, rfl, rfl, rfl, rfl, rfl, rfl, rfl, rfl⟩

/-- modBoard changes no field but board. -/
@[simp] theorem State.modBoard_fields (s : State) (f : Board → Board) :
    (s.modBoard f).pending = s.pending ∧ (s.modBoard f).free = s.free ∧ (s.modBoard f).regs = s.regs ∧
    (s.modBoard f).latch = s.latch ∧ (s.modBoard f).mem = s.mem ∧ (s.modBoard f).memTag = s.memTag ∧
    (s.modBoard f).host = s.host ∧ (s.modBoard f).hostTag = s.hostTag ∧ (s.modBoard f).lcount = s.lcount ∧
    (s.modBoard f).events = s.events ∧ (s.modBoard f).evLost = s.evLost ∧ (s.modBoard f).icEdge = s.icEdge ∧
    (s.modBoard f).msix = s.msix ∧ (s.modBoard f).fenced = s.fenced ∧ (s.modBoard f).stalls = s.stalls ∧
    (s.modBoard f).cells = s.cells ∧ (s.modBoard f).takeQ = s.takeQ ∧ (s.modBoard f).reportQ = s.reportQ ∧
    (s.modBoard f).answers = s.answers ∧ (s.modBoard f).tokens = s.tokens ∧ (s.modBoard f).bayTlb = s.bayTlb ∧
    (s.modBoard f).jobs = s.jobs ∧ (s.modBoard f).queues = s.queues ∧ (s.modBoard f).faultQ = s.faultQ ∧
    (s.modBoard f).net = s.net ∧ (s.modBoard f).hbms = s.hbms ∧ (s.modBoard f).fabs = s.fabs ∧ (s.modBoard f).cfg = s.cfg ∧
    (s.modBoard f).sec = s.sec ∧ (s.modBoard f).links = s.links ∧ (s.modBoard f).said = s.said ∧
    (s.modBoard f).doeErr = s.doeErr ∧ (s.modBoard f).hostUp = s.hostUp ∧ (s.modBoard f).speed = s.speed ∧
    (s.modBoard f).width = s.width ∧ (s.modBoard f).hdm = s.hdm ∧ (s.modBoard f).mboxes = s.mboxes ∧ (s.modBoard f).fw = s.fw ∧
    (s.modBoard f).viral = s.viral ∧ (s.modBoard f).warms = s.warms ∧ (s.modBoard f).accepts = s.accepts ∧
    (s.modBoard f).classes = s.classes ∧ (s.modBoard f).eng = s.eng ∧ (s.modBoard f).hostWait = s.hostWait ∧
    (s.modBoard f).mx = s.mx ∧ (s.modBoard f).errs = s.errs ∧ (s.modBoard f).ctxLost = s.ctxLost :=
  ⟨rfl, rfl, rfl, rfl, rfl, rfl, rfl, rfl, rfl, rfl, rfl, rfl, rfl, rfl, rfl, rfl, rfl, rfl, rfl, rfl, rfl, rfl, rfl, rfl, rfl, rfl, rfl, rfl, rfl, rfl, rfl, rfl, rfl, rfl, rfl, rfl, rfl, rfl, rfl, rfl, rfl, rfl, rfl, rfl, rfl, rfl, rfl⟩

/-- modFuse changes no field but sec. -/
@[simp] theorem State.modFuse_fields (s : State) (k : Nat) (f : FuseSlot → FuseSlot) :
    (s.modFuse k f).pending = s.pending ∧ (s.modFuse k f).free = s.free ∧ (s.modFuse k f).regs = s.regs ∧
    (s.modFuse k f).latch = s.latch ∧ (s.modFuse k f).mem = s.mem ∧ (s.modFuse k f).memTag = s.memTag ∧
    (s.modFuse k f).host = s.host ∧ (s.modFuse k f).hostTag = s.hostTag ∧ (s.modFuse k f).lcount = s.lcount ∧
    (s.modFuse k f).events = s.events ∧ (s.modFuse k f).evLost = s.evLost ∧ (s.modFuse k f).icEdge = s.icEdge ∧
    (s.modFuse k f).msix = s.msix ∧ (s.modFuse k f).fenced = s.fenced ∧ (s.modFuse k f).stalls = s.stalls ∧
    (s.modFuse k f).cells = s.cells ∧ (s.modFuse k f).takeQ = s.takeQ ∧ (s.modFuse k f).reportQ = s.reportQ ∧
    (s.modFuse k f).answers = s.answers ∧ (s.modFuse k f).tokens = s.tokens ∧ (s.modFuse k f).bayTlb = s.bayTlb ∧
    (s.modFuse k f).jobs = s.jobs ∧ (s.modFuse k f).queues = s.queues ∧ (s.modFuse k f).faultQ = s.faultQ ∧
    (s.modFuse k f).net = s.net ∧ (s.modFuse k f).hbms = s.hbms ∧ (s.modFuse k f).fabs = s.fabs ∧ (s.modFuse k f).cfg = s.cfg ∧
    (s.modFuse k f).board = s.board ∧ (s.modFuse k f).links = s.links ∧ (s.modFuse k f).said = s.said ∧
    (s.modFuse k f).doeErr = s.doeErr ∧ (s.modFuse k f).hostUp = s.hostUp ∧ (s.modFuse k f).speed = s.speed ∧
    (s.modFuse k f).width = s.width ∧ (s.modFuse k f).hdm = s.hdm ∧ (s.modFuse k f).mboxes = s.mboxes ∧
    (s.modFuse k f).fw = s.fw ∧ (s.modFuse k f).viral = s.viral ∧ (s.modFuse k f).warms = s.warms ∧
    (s.modFuse k f).accepts = s.accepts ∧ (s.modFuse k f).classes = s.classes ∧ (s.modFuse k f).eng = s.eng ∧
    (s.modFuse k f).hostWait = s.hostWait ∧ (s.modFuse k f).mx = s.mx ∧ (s.modFuse k f).errs = s.errs ∧
    (s.modFuse k f).ctxLost = s.ctxLost :=
  ⟨rfl, rfl, rfl, rfl, rfl, rfl, rfl, rfl, rfl, rfl, rfl, rfl, rfl, rfl, rfl, rfl, rfl, rfl, rfl, rfl, rfl, rfl, rfl, rfl, rfl, rfl, rfl, rfl, rfl, rfl, rfl, rfl, rfl, rfl, rfl, rfl, rfl, rfl, rfl, rfl, rfl, rfl, rfl, rfl, rfl, rfl, rfl⟩

/-- setEngine changes no field but stalls. -/
@[simp] theorem State.setEngine_fields (s : State) (g k : Nat) (e : Engine) :
    (s.setEngine g k e).pending = s.pending ∧ (s.setEngine g k e).free = s.free ∧ (s.setEngine g k e).regs = s.regs ∧
    (s.setEngine g k e).latch = s.latch ∧ (s.setEngine g k e).mem = s.mem ∧ (s.setEngine g k e).memTag = s.memTag ∧
    (s.setEngine g k e).host = s.host ∧ (s.setEngine g k e).hostTag = s.hostTag ∧ (s.setEngine g k e).lcount = s.lcount ∧
    (s.setEngine g k e).events = s.events ∧ (s.setEngine g k e).evLost = s.evLost ∧ (s.setEngine g k e).icEdge = s.icEdge ∧
    (s.setEngine g k e).msix = s.msix ∧ (s.setEngine g k e).fenced = s.fenced ∧ (s.setEngine g k e).cells = s.cells ∧
    (s.setEngine g k e).takeQ = s.takeQ ∧ (s.setEngine g k e).reportQ = s.reportQ ∧ (s.setEngine g k e).answers = s.answers ∧
    (s.setEngine g k e).tokens = s.tokens ∧ (s.setEngine g k e).bayTlb = s.bayTlb ∧ (s.setEngine g k e).jobs = s.jobs ∧
    (s.setEngine g k e).queues = s.queues ∧ (s.setEngine g k e).faultQ = s.faultQ ∧ (s.setEngine g k e).net = s.net ∧
    (s.setEngine g k e).hbms = s.hbms ∧ (s.setEngine g k e).fabs = s.fabs ∧ (s.setEngine g k e).cfg = s.cfg ∧
    (s.setEngine g k e).sec = s.sec ∧ (s.setEngine g k e).board = s.board ∧ (s.setEngine g k e).links = s.links ∧
    (s.setEngine g k e).said = s.said ∧ (s.setEngine g k e).doeErr = s.doeErr ∧ (s.setEngine g k e).hostUp = s.hostUp ∧
    (s.setEngine g k e).speed = s.speed ∧ (s.setEngine g k e).width = s.width ∧ (s.setEngine g k e).hdm = s.hdm ∧
    (s.setEngine g k e).mboxes = s.mboxes ∧ (s.setEngine g k e).fw = s.fw ∧ (s.setEngine g k e).viral = s.viral ∧
    (s.setEngine g k e).warms = s.warms ∧ (s.setEngine g k e).accepts = s.accepts ∧ (s.setEngine g k e).classes = s.classes ∧
    (s.setEngine g k e).eng = s.eng ∧ (s.setEngine g k e).hostWait = s.hostWait ∧ (s.setEngine g k e).mx = s.mx ∧
    (s.setEngine g k e).errs = s.errs ∧ (s.setEngine g k e).ctxLost = s.ctxLost :=
  ⟨rfl, rfl, rfl, rfl, rfl, rfl, rfl, rfl, rfl, rfl, rfl, rfl, rfl, rfl, rfl, rfl, rfl, rfl, rfl, rfl, rfl, rfl, rfl, rfl, rfl, rfl, rfl, rfl, rfl, rfl, rfl, rfl, rfl, rfl, rfl, rfl, rfl, rfl, rfl, rfl, rfl, rfl, rfl, rfl, rfl, rfl, rfl⟩

/-- setMRun changes no field but stalls. -/
@[simp] theorem State.setMRun_fields (s : State) (g : Nat) (r : MRun) :
    (s.setMRun g r).pending = s.pending ∧ (s.setMRun g r).free = s.free ∧ (s.setMRun g r).regs = s.regs ∧
    (s.setMRun g r).latch = s.latch ∧ (s.setMRun g r).mem = s.mem ∧ (s.setMRun g r).memTag = s.memTag ∧
    (s.setMRun g r).host = s.host ∧ (s.setMRun g r).hostTag = s.hostTag ∧ (s.setMRun g r).lcount = s.lcount ∧
    (s.setMRun g r).events = s.events ∧ (s.setMRun g r).evLost = s.evLost ∧ (s.setMRun g r).icEdge = s.icEdge ∧
    (s.setMRun g r).msix = s.msix ∧ (s.setMRun g r).fenced = s.fenced ∧ (s.setMRun g r).cells = s.cells ∧
    (s.setMRun g r).takeQ = s.takeQ ∧ (s.setMRun g r).reportQ = s.reportQ ∧ (s.setMRun g r).answers = s.answers ∧
    (s.setMRun g r).tokens = s.tokens ∧ (s.setMRun g r).bayTlb = s.bayTlb ∧ (s.setMRun g r).jobs = s.jobs ∧
    (s.setMRun g r).queues = s.queues ∧ (s.setMRun g r).faultQ = s.faultQ ∧ (s.setMRun g r).net = s.net ∧
    (s.setMRun g r).hbms = s.hbms ∧ (s.setMRun g r).fabs = s.fabs ∧ (s.setMRun g r).cfg = s.cfg ∧ (s.setMRun g r).sec = s.sec ∧
    (s.setMRun g r).board = s.board ∧ (s.setMRun g r).links = s.links ∧ (s.setMRun g r).said = s.said ∧
    (s.setMRun g r).doeErr = s.doeErr ∧ (s.setMRun g r).hostUp = s.hostUp ∧ (s.setMRun g r).speed = s.speed ∧
    (s.setMRun g r).width = s.width ∧ (s.setMRun g r).hdm = s.hdm ∧ (s.setMRun g r).mboxes = s.mboxes ∧
    (s.setMRun g r).fw = s.fw ∧ (s.setMRun g r).viral = s.viral ∧ (s.setMRun g r).warms = s.warms ∧
    (s.setMRun g r).accepts = s.accepts ∧ (s.setMRun g r).classes = s.classes ∧ (s.setMRun g r).eng = s.eng ∧
    (s.setMRun g r).hostWait = s.hostWait ∧ (s.setMRun g r).mx = s.mx ∧ (s.setMRun g r).errs = s.errs ∧
    (s.setMRun g r).ctxLost = s.ctxLost :=
  ⟨rfl, rfl, rfl, rfl, rfl, rfl, rfl, rfl, rfl, rfl, rfl, rfl, rfl, rfl, rfl, rfl, rfl, rfl, rfl, rfl, rfl, rfl, rfl, rfl, rfl, rfl, rfl, rfl, rfl, rfl, rfl, rfl, rfl, rfl, rfl, rfl, rfl, rfl, rfl, rfl, rfl, rfl, rfl, rfl, rfl, rfl, rfl⟩

/-- setCell changes no field but cells. -/
@[simp] theorem State.setCell_fields (s : State) (b c : Nat) (x : Cell) :
    (s.setCell b c x).pending = s.pending ∧ (s.setCell b c x).free = s.free ∧ (s.setCell b c x).regs = s.regs ∧
    (s.setCell b c x).latch = s.latch ∧ (s.setCell b c x).mem = s.mem ∧ (s.setCell b c x).memTag = s.memTag ∧
    (s.setCell b c x).host = s.host ∧ (s.setCell b c x).hostTag = s.hostTag ∧ (s.setCell b c x).lcount = s.lcount ∧
    (s.setCell b c x).events = s.events ∧ (s.setCell b c x).evLost = s.evLost ∧ (s.setCell b c x).icEdge = s.icEdge ∧
    (s.setCell b c x).msix = s.msix ∧ (s.setCell b c x).fenced = s.fenced ∧ (s.setCell b c x).stalls = s.stalls ∧
    (s.setCell b c x).takeQ = s.takeQ ∧ (s.setCell b c x).reportQ = s.reportQ ∧ (s.setCell b c x).answers = s.answers ∧
    (s.setCell b c x).tokens = s.tokens ∧ (s.setCell b c x).bayTlb = s.bayTlb ∧ (s.setCell b c x).jobs = s.jobs ∧
    (s.setCell b c x).queues = s.queues ∧ (s.setCell b c x).faultQ = s.faultQ ∧ (s.setCell b c x).net = s.net ∧
    (s.setCell b c x).hbms = s.hbms ∧ (s.setCell b c x).fabs = s.fabs ∧ (s.setCell b c x).cfg = s.cfg ∧
    (s.setCell b c x).sec = s.sec ∧ (s.setCell b c x).board = s.board ∧ (s.setCell b c x).links = s.links ∧
    (s.setCell b c x).said = s.said ∧ (s.setCell b c x).doeErr = s.doeErr ∧ (s.setCell b c x).hostUp = s.hostUp ∧
    (s.setCell b c x).speed = s.speed ∧ (s.setCell b c x).width = s.width ∧ (s.setCell b c x).hdm = s.hdm ∧
    (s.setCell b c x).mboxes = s.mboxes ∧ (s.setCell b c x).fw = s.fw ∧ (s.setCell b c x).viral = s.viral ∧
    (s.setCell b c x).warms = s.warms ∧ (s.setCell b c x).accepts = s.accepts ∧ (s.setCell b c x).classes = s.classes ∧
    (s.setCell b c x).eng = s.eng ∧ (s.setCell b c x).hostWait = s.hostWait ∧ (s.setCell b c x).mx = s.mx ∧
    (s.setCell b c x).errs = s.errs ∧ (s.setCell b c x).ctxLost = s.ctxLost :=
  ⟨rfl, rfl, rfl, rfl, rfl, rfl, rfl, rfl, rfl, rfl, rfl, rfl, rfl, rfl, rfl, rfl, rfl, rfl, rfl, rfl, rfl, rfl, rfl, rfl, rfl, rfl, rfl, rfl, rfl, rfl, rfl, rfl, rfl, rfl, rfl, rfl, rfl, rfl, rfl, rfl, rfl, rfl, rfl, rfl, rfl, rfl, rfl⟩

/-- setLatch changes no field but latch. -/
@[simp] theorem State.setLatch_fields (s : State) (m : Master) (off : Nat) (x : Latch) :
    (s.setLatch m off x).pending = s.pending ∧ (s.setLatch m off x).free = s.free ∧ (s.setLatch m off x).regs = s.regs ∧
    (s.setLatch m off x).mem = s.mem ∧ (s.setLatch m off x).memTag = s.memTag ∧ (s.setLatch m off x).host = s.host ∧
    (s.setLatch m off x).hostTag = s.hostTag ∧ (s.setLatch m off x).lcount = s.lcount ∧ (s.setLatch m off x).events = s.events ∧
    (s.setLatch m off x).evLost = s.evLost ∧ (s.setLatch m off x).icEdge = s.icEdge ∧ (s.setLatch m off x).msix = s.msix ∧
    (s.setLatch m off x).fenced = s.fenced ∧ (s.setLatch m off x).stalls = s.stalls ∧ (s.setLatch m off x).cells = s.cells ∧
    (s.setLatch m off x).takeQ = s.takeQ ∧ (s.setLatch m off x).reportQ = s.reportQ ∧ (s.setLatch m off x).answers = s.answers ∧
    (s.setLatch m off x).tokens = s.tokens ∧ (s.setLatch m off x).bayTlb = s.bayTlb ∧ (s.setLatch m off x).jobs = s.jobs ∧
    (s.setLatch m off x).queues = s.queues ∧ (s.setLatch m off x).faultQ = s.faultQ ∧ (s.setLatch m off x).net = s.net ∧
    (s.setLatch m off x).hbms = s.hbms ∧ (s.setLatch m off x).fabs = s.fabs ∧ (s.setLatch m off x).cfg = s.cfg ∧
    (s.setLatch m off x).sec = s.sec ∧ (s.setLatch m off x).board = s.board ∧ (s.setLatch m off x).links = s.links ∧
    (s.setLatch m off x).said = s.said ∧ (s.setLatch m off x).doeErr = s.doeErr ∧ (s.setLatch m off x).hostUp = s.hostUp ∧
    (s.setLatch m off x).speed = s.speed ∧ (s.setLatch m off x).width = s.width ∧ (s.setLatch m off x).hdm = s.hdm ∧
    (s.setLatch m off x).mboxes = s.mboxes ∧ (s.setLatch m off x).fw = s.fw ∧ (s.setLatch m off x).viral = s.viral ∧
    (s.setLatch m off x).warms = s.warms ∧ (s.setLatch m off x).accepts = s.accepts ∧ (s.setLatch m off x).classes = s.classes ∧
    (s.setLatch m off x).eng = s.eng ∧ (s.setLatch m off x).hostWait = s.hostWait ∧ (s.setLatch m off x).mx = s.mx ∧
    (s.setLatch m off x).errs = s.errs ∧ (s.setLatch m off x).ctxLost = s.ctxLost :=
  ⟨rfl, rfl, rfl, rfl, rfl, rfl, rfl, rfl, rfl, rfl, rfl, rfl, rfl, rfl, rfl, rfl, rfl, rfl, rfl, rfl, rfl, rfl, rfl, rfl, rfl, rfl, rfl, rfl, rfl, rfl, rfl, rfl, rfl, rfl, rfl, rfl, rfl, rfl, rfl, rfl, rfl, rfl, rfl, rfl, rfl, rfl, rfl⟩

/-! ### Reading back -/

theorem State.regAt_setRegAt (s : State) (r q : RegAt) (v : Nat) (h : q.off = r.off → q.reset = r.reset) :
    (s.setRegAt r v).regAt q = if q.off = r.off then v else s.regAt q := by
  unfold State.regAt State.setRegAt
  split
  · rw [h ‹_›, ‹q.off = _›]; exact Tab.get_set_same _ _ _ _
  · simp only [Tab.set]
    split
    · exact Tab.get_del_ne _ _ ‹_›
    · exact Tab.get_ins_ne _ _ _ ‹_›

@[simp] theorem State.regAt_setRegAt_same (s : State) (r : RegAt) (v : Nat) : (s.setRegAt r v).regAt r = v :=
  Tab.get_set_same _ _ _ _

theorem State.regAt_setRegAt_ne (s : State) (r q : RegAt) (v : Nat) (h : q.off ≠ r.off) : (s.setRegAt r v).regAt q = s.regAt q := by
  rw [State.regAt_setRegAt _ _ _ _ (fun e => absurd e h), if_neg h]

@[simp] theorem State.stall_setStall_same (s : State) (g : Nat) (st : Stall) : (s.setStall g st).stall g = st := Tab.get_set_same _ _ _ _

theorem State.stall_setStall_ne (s : State) {g h : Nat} (st : Stall) (e : h ≠ g) : (s.setStall g st).stall h = s.stall h :=
  Tab.get_set_ne _ _ _ e

@[simp] theorem State.job_modJob_same (s : State) (j : Nat) (f : Job → Job) : (s.modJob j f).job j = f (s.job j) := Tab.get_upd_same _ _ _ _

theorem State.job_modJob_ne (s : State) {j k : Nat} (f : Job → Job) (e : k ≠ j) : (s.modJob j f).job k = s.job k := Tab.get_upd_ne _ _ _ e

@[simp] theorem State.queue_modQueue_same (s : State) (q : Nat) (f : FeedQueue → FeedQueue) : (s.modQueue q f).queue q = f (s.queue q) :=
  Tab.get_upd_same _ _ _ _

@[simp] theorem State.hbm_modHbm_same (s : State) (b : Nat) (f : Hbm → Hbm) : (s.modHbm b f).hbm b = f (s.hbm b) := Tab.get_upd_same _ _ _ _

@[simp] theorem State.fab_modFab_same (s : State) (b : Nat) (f : Fab → Fab) : (s.modFab b f).fab b = f (s.fab b) := Tab.get_upd_same _ _ _ _

@[simp] theorem State.pad_modPad_same (s : State) (p : Nat) (f : Pad → Pad) : (s.modPad p f).pad p = f (s.pad p) := Tab.get_upd_same _ _ _ _

@[simp] theorem State.link_modLink_same (s : State) (k : Nat) (f : Link → Link) : (s.modLink k f).link k = f (s.link k) :=
  Tab.get_upd_same _ _ _ _

@[simp] theorem State.mbox_modMbox_same (s : State) (mb : Nat) (f : Mbox → Mbox) : (s.modMbox mb f).mbox mb = f (s.mbox mb) :=
  Tab.get_upd_same _ _ _ _

/-- A byte stored is read back, and a byte outside the bytes stored reads as before. -/
theorem State.read_write_same (s : State) (a : Nat) (bs : List Byte) (p : Bool) : (s.write a bs p).read a bs.length = bs :=
  readBytes_writeBytes _ _ _

theorem State.write_outside (s : State) (a : Nat) (bs : List Byte) (p : Bool) (j : Nat) (h : j < a ∨ a + bs.length ≤ j) :
    Tab.get 0 (s.write a bs p).mem j = Tab.get 0 s.mem j := writeBytes_outside _ _ _ _ h

end Sys2Proof.Machine
end

