-- ==== Sys2Proof/WellFormed.lean ====
section
/-! DEFINITION. The commands that can come from outside: the sizes and ranges that the manual gives what a command brings. The meanings
are total; a command that is not well formed is one that no sender can make. -/

namespace Sys2Proof

/-- A list of n bytes at most. -/
def sized (n : Nat) (bs : List Byte) : Bool := decide (bs.length ≤ n) && decide (0 < bs.length)

/-- A flit carries 64 payload bytes (R344). -/
def Flit.wf (f : Flit) : Bool := f.payload.length == 64

/-- A line of 64 bytes, where one is written (R295). -/
def lineOpt : Option (List Byte) → Bool
  | some d => d.length == 64
  | none => true

/-- The data of a port write is as wide as a port can be (R293). -/
def RamOp.wf : RamOp → Bool
  | .read _ => true
  | .write _ d _ _ => sized 32 d

/-- The HDM decoder takes a multiple of 256 MiB (R390). -/
def hdmWf : Option Nat → Bool
  | some b => b % 2 ^ 28 == 0
  | none => true

/-- A command that a sender can make. (DESIGN CHOICE, log entry 4). -/
def Instr.wf : Instr → Bool
  | .registerWrite _ _ _ => true
  | .lpLowRead _ _ => true
  | .lpLowWrite _ _ _ => true
  | .lpHighWrite _ _ _ => true
  | .lpAlignedAccess _ _ _ => true
  | .sqClearWrite _ _ _ => true
  | .rcCounterRead _ _ _ => true
  | .unmappedAccess _ _ _ w => [8, 16, 32, 64, 128].contains w
  | .privilegeViolation _ _ _ => true
  | .eventRingWrite => true
  | .evringEnable _ _ => true
  | .evringDisable _ _ => true
  | .evringTailWrite _ _ => true
  | .icDone _ _ => true
  | .icRouteWrite _ _ _ => true
  | .icSignal _ _ => true
  | .selayTimer _ => true
  | .msixRaise _ _ => true
  | .amaxWrite _ off _ _ => off % 4 == 0
  | .fence _ c => decide (1 ≤ c) && decide (c ≤ 6)
  | .hubFault c => c == 1 || c == 2
  | .tailSnoop _ ws => ws.all fun w => decide (w.1 < 2 ^ 52)
  | .recordAdmission _ => true
  | .recordRetest _ => true
  | .batchClose _ => true
  | .jobDispatch => true
  | .jobRerun _ => true
  | .jobCommit _ => true
  | .faultNotice => true
  | .mpass _ => true
  | .weightSetRead _ => true
  | .stagedSetMove _ => true
  | .frontSwap _ _ _ => true
  | .epilogueRow _ _ _ => true
  | .mpassComplete _ => true
  | .jbegin _ => true
  | .jcommit _ => true
  | .jcommitComplete _ => true
  | .qrep _ => true
  | .qrepIteration _ => true
  | .wload _ => true
  | .sld _ => true
  | .sst _ => true
  | .fxch _ => true
  | .takeInstruction _ => true
  | .tprod _ => true
  | .tprodProduction _ => true
  | .twait _ => true
  | .token _ => true
  | .fabricTokenBeat _ _ => true
  | .watchExpiry _ => true
  | .watchCtlWrite _ _ _ => true
  | .watchDeclare _ _ _ => true
  | .nop _ => true
  | .add _ => true
  | .sub _ => true
  | .adds _ => true
  | .subs _ => true
  | .and _ => true
  | .or _ => true
  | .xor _ => true
  | .shl _ => true
  | .shr _ => true
  | .sra _ => true
  | .srar _ => true
  | .min _ => true
  | .max _ => true
  | .slt _ => true
  | .seq _ => true
  | .movi _ => true
  | .movh _ => true
  | .mul _ => true
  | .muls _ => true
  | .mulq _ => true
  | .mac _ => true
  | .msu _ => true
  | .macw _ => true
  | .aclr _ => true
  | .ashr _ => true
  | .norm _ => true
  | .nshl _ => true
  | .expx _ => true
  | .expe8 _ => true
  | .aadd _ => true
  | .asub _ => true
  | .aaddl _ => true
  | .amul16 _ => true
  | .aelm _ => true
  | .acmplt _ => true
  | .mov _ => true
  | .ld _ => true
  | .st _ => true
  | .take _ => true
  | .br _ => true
  | .bz _ => true
  | .bnz _ => true
  | .bltz _ => true
  | .loop _ => true
  | .waitt _ => true
  | .pub _ => true
  | .trap _ => true
  | .reti _ => true
  | .halt _ => true
  | .writeLand _ => true
  | .interruptEntry _ => true
  | .issueTimerExpiry _ => true
  | .tallyArm _ _ _ => true
  | .tallyRelease _ _ _ => true
  | .takeNext _ => true
  | .report _ => true
  | .cellRelease _ _ => true
  | .vopAdd _ => true
  | .vopSub _ => true
  | .vopMul _ => true
  | .vopMax _ => true
  | .vopMin _ => true
  | .vopFma _ => true
  | .vopBscale _ => true
  | .vopCvt _ => true
  | .vopAbs _ => true
  | .vopNeg _ => true
  | .vopExp2 _ => true
  | .vopLog2 _ => true
  | .vopRcp _ => true
  | .vopRsqrt _ => true
  | .vopRsum _ => true
  | .vopRmax _ => true
  | .vopRmin _ => true
  | .vopRamax _ => true
  | .vopScani _ => true
  | .vopScane _ => true
  | .vopScanmax _ => true
  | .vopComplete _ _ => true
  | .strArm _ _ _ _ => true
  | .standbyStart _ _ => true
  | .walk _ _ _ _ => true
  | .streamComplete _ _ errs => errs.all fun n => decide (n ≤ 68)
  | .commandSlot _ _ _ n _ => decide (n ≤ 4096)
  | .refreshDue _ _ _ => true
  | .rfmRequest _ _ => true
  | .stackTemperature _ _ => true
  | .retrainSlot _ _ => true
  | .retrainComplete _ _ _ => true
  | .stackFatal _ _ => true
  | .fchgGo _ _ _ => true
  | .fchgDrained _ => true
  | .fchgRelock _ => true
  | .fchgRetrainDone _ _ => true
  | .fabPllWrite _ _ _ _ _ => true
  | .pllLock _ _ => true
  | .pllLockTimeout _ _ => true
  | .pllLossOfLock _ _ => true
  | .gclkSelect _ _ _ _ => true
  | .sleepInput _ _ _ => true
  | .ramPortAccess _ _ _ op => op.wf
  | .queuePush _ _ d _ => sized 32 d
  | .queuePop _ _ => true
  | .rstQ _ _ => true
  | .blockNocAccess _ _ _ w _ => lineOpt w
  | .outboundBeat _ _ => true
  | .inboundBeat _ b => sized 64 b.data
  | .endpointFlit _ _ f => f.wf
  | .endpointDelivery _ _ _ => true
  | .wakeTimeout _ _ => true
  | .load _ _ => true
  | .isolateAndClear _ _ => true
  | .sessionEnd _ _ => true
  | .restart _ _ => true
  | .doneSeen _ => true
  | .cfgDonewait => true
  | .loaderChecks => true
  | .loaderClearDone => true
  | .payloadBlock => true
  | .loaderDigest => true
  | .clockPlanLock => true
  | .loadCommit => true
  | .gatesOpen _ => true
  | .writeEnablesOn _ => true
  | .resetsReleased _ => true
  | .auditStep _ _ => true
  | .fingerprintRecompute => true
  | .errpinWrite _ _ => true
  | .flitCheckFail _ _ => true
  | .flitGrant _ _ => true
  | .traceCtlWrite _ _ _ => true
  | .routeCommit _ _ _ => true
  | .resend _ _ => true
  | .rd f => f.wf
  | .wr p f => f.wf && (p.map Flit.wf).getD true
  | .msg f => f.wf
  | .mrd f => f.wf
  | .mwr f => f.wf
  | .rdata f => f.wf
  | .wack f => f.wf
  | .ack f => f.wf
  | .tans _ => true
  | .mdata f => f.wf
  | .nack f => f.wf
  | .linkEnable _ _ _ => true
  | .linkDisable _ _ _ => true
  | .signalDetected _ _ => true
  | .lanesLocked _ _ => true
  | .lockTimeout _ => true
  | .config _ _ => true
  | .configTimeout _ => true
  | .stepTimeout _ _ => true
  | .markerLockLoss _ _ => true
  | .codeword _ _ l _ => decide (2736 ≤ l.length)
  | .control _ _ _ c => c.length == 8
  | .flit _ f => f.wf
  | .fp _ _ _ => true
  | .fpSend _ => true
  | .sleepIdle _ => true
  | .sleepReq _ => true
  | .sleepAck _ => true
  | .wakeBurst _ => true
  | .linkWakeTimeout _ => true
  | .fecInj _ _ _ => true
  | .injOne _ _ _ _ => true
  | .hostLinkDown => true
  | .linkDownTimeout => true
  | .hostLinkUp v w h => [2, 5, 8, 16, 32].contains v && [1, 2, 4, 8, 16].contains w && hdmWf h.hdm
  | .hotReset => true
  | .memrd hpa => hpa % 64 == 0
  | .memwr hpa d _ _ => hpa % 64 == 0 && sized 64 d
  | .claim _ _ => true
  | .submit _ _ _ => true
  | .release _ _ _ => true
  | .ownerRelease _ _ _ => true
  | .getVersion _ => true
  | .getCapabilities _ => true
  | .negotiateAlgorithms _ _ _ => true
  | .getDigests _ => true
  | .getCertificate o n _ => decide (o < 0x10000) && decide (n < 0x10000)
  | .challenge n _ => sized 32 n
  | .getMeasurements i _ _ => decide (i ≤ 0xFF)
  | .identify _ => true
  | .fqConfig _ => true
  | .fqStop _ => true
  | .xlateInval _ => true
  | .pageResolved _ => true
  | .jobAbandon _ => true
  | .ctxOpen _ => true
  | .ctxSet _ => true
  | .ctxClose _ => true
  | .ctxRead _ => true
  | .batchClass _ => true
  | .cfgLoad _ => true
  | .cfgSession _ => true
  | .cfgIsolate _ => true
  | .spdigestSet _ => true
  | .bayFence _ => true
  | .bayReturn _ _ => true
  | .engBudget _ => true
  | .engRead _ => true
  | .lcTransition _ _ => true
  | .warmReset _ => true
  | .selayCoreFault _ => true
  | .ledgerSample b _ => b.length == 32
  | .ledgerTick _ => true
  | .tickAck _ _ => true
  | .rateMonitor _ _ => true
  | .corewarn _ _ => true
  | .fabwarn _ _ => true
  | .recover _ _ mv => decide (mv < 1024)
  | .corereset _ _ => true
  | .fabreset _ _ => true
  | .hubwarn _ => true
  | .vsetWrite _ _ _ => true
  | .dipFree _ _ _ => true
  | .capSample _ => true
  | .throttle _ _ => true
  | .hot _ _ => true
  | .trip _ _ => true
  | .fuseValue _ _ => true
  | .fuseFill _ _ => true
  | .fuseRevoke _ _ => true
  | .fuseState _ _ => true
  | .fuseProgrammed _ => true
  | .bkeyStore _ _ => true
  | .bkeyZero _ _ => true
  | .boot => true
  | .extest => true
  | .idcode => true
  | .samplePreload c => c.length == 1536
  | .regacc _ _ => true
  | .bypass => true
  | .regRead _ _ => true
  | .regWrite _ _ _ => true
  | .flashErase _ _ => true
  | .flashWrite _ _ d => sized 32 d
  | .flashRead _ _ => true
  | .flashStatus _ => true
  | .flashComplete => true
  | .pushData _ _ d => sized 32 d
  | .pushDone _ _ => true
  | .coldReset _ _ _ => true
  | .bayPowerOn _ => true
  | .powerLoss => true
  | .coldStart => true
  | .logicDieFault _ => true
  | .fabricInterruptLine _ _ _ => true
  | .patternCheck _ _ _ => true
  | .keyExchange _ _ => true
  | .doeDiscovery _ _ => true
  | .testLogicReset => true

end Sys2Proof
end

