-- ==== Sys2Proof/Tests/Slice0.lean ====
section
/-! SUPPORT. Tests of the model: for each statement, states and operands that meet its hypotheses, one conjunct for each clause; the
worked examples of the manual; well-formed commands.
The signatures were made outside the model. -/

namespace Sys2Proof.Tests

open Sys2Proof.Machine

-- One theorem at a time: the kernel's evaluations side by side would take more memory than one process has.
set_option Elab.async false

/-! ### Witnesses: states and operands that meet the hypotheses of each statement -/

theorem witness_StepRunsFront : State.reset.pending = [] ∧ ({ pending := [Instr.boot] } : State).pending = [.boot] := by decide

theorem witness_StepsKeepTheInvariant : State.reset.canonical = true ∧ ∃ t, step State.reset = .next t := ⟨by decide, _, rfl⟩

theorem witness_CommandsChangeOnlyTheirParts :
    (∃ t, exec (.wload 0) State.reset = .next t) ∧ stallOf (.wload 0) = some 0 ∧ (2047 : Nat) ≠ 0 :=
  ⟨⟨_, rfl⟩, rfl, by decide⟩

theorem witness_FencesStrapsAndFlashHold : ∃ t, exec .flashComplete State.reset = .next t := ⟨_, rfl⟩

/-- The event ring at 256 slots, on, with one event waiting. -/
def ringOn : State := { State.reset.setReg .glbEvringCtl 0 0 0x108 with hostUp := true, events := [⟨0x110, 1, 32, 0x18, 7, 2, 3, 4, 5⟩] }

def base : RegAt := ⟨.glbEvringBase, 0, 0, 0⟩

theorem witness_LpRegistersLatchByMaster :
    base.rn.spec.wide = true ∧ State.reset.reaches .bar0 0x40 base false false ∧ State.reset.reaches .bar0 0x44 base true false ∧
    (State.reset.reaches .bar0 0x44 base true true ∧ State.reset.reaches .bar0 0x40 base false true ∧ 0x40 % 8 = 0 ∧
      (State.reset.latchOf .bar0 base.off).stage.getD (State.reset.regAt base % 2 ^ 32) = (0 : Word32).toNat) ∧
    0x40 % 8 = 0 := by unfold State.reaches; decide

theorem witness_PlainWritesTakeTheirFields :
    (Rn.acts .stlArrCtl = false ∧ ∃ t, State.reset.reaches .bar0 (RegAt.mk .stlArrCtl 3 0 0).off ⟨.stlArrCtl, 3, 0, 0⟩ false true ∧
      Rn.stlArrCtl.spec.wide = false ∧ exec (.registerWrite .bar0 (RegAt.mk .stlArrCtl 3 0 0).off 1) State.reset = .next t) ∧
    (Rn.acts .prbFilt = false ∧ ∃ t, State.reset.reaches .bar0 (RegAt.mk .prbFilt 32 3 0).off ⟨.prbFilt, 32, 3, 0⟩ false true ∧
      Rn.prbFilt.spec.wide = true ∧ (RegAt.mk .prbFilt 32 3 0).off % 8 = 0 ∧
      exec (.lpAlignedAccess .bar0 (RegAt.mk .prbFilt 32 3 0).off (some 5)) State.reset = .next t) ∧
    State.reset.reaches (.selay 2) (RegAt.mk .selIcRoute 0 2047 0).off ⟨.selIcRoute, 0, 2047, 0⟩ false true := by
  unfold State.reaches
  exact ⟨⟨by decide, _, by decide, by decide, rfl⟩, ⟨by decide, _, by decide, by decide, by decide, rfl⟩, by decide⟩

/-- The state after two events of GLB_EVENT. -/
def twoEvents : State := (State.reset.raise .glbEvent 0 0 0 0 0 0).raise .glbEvent 0 4 0 0 0 0

theorem witness_EventRegistersClearBySequence :
    twoEvents.reaches .bar0 0x10 ⟨.glbEvent, 0, 0, 0⟩ false true ∧ Rn.hasAcc .glbEvent .sq = true ∧
    bits (0x02000001 : Word32).toNat 31 24 = bits (twoEvents.reg .glbEvent) 31 24 ∧
    bits (0x01000001 : Word32).toNat 31 24 ≠ bits (twoEvents.reg .glbEvent) 31 24 ∧
    twoEvents.reg .glbEvent = evAdvance 0x01000001 4 ∧ bits (0x01000001 : Word32).toNat 31 24 = bits 0x01000001 31 24 := by
  unfold State.reaches; decide

theorem witness_EventsAdvanceTheirRegister : Rn.hasAcc .stlIqEvent .sq = true ∧ (23 : Nat) < 24 := by decide

theorem witness_CountersClearOnRead :
    (State.reset.reaches .bar0 0x28 ⟨.glbViolCount, 0, 0, 0⟩ false false ∧ Rn.hasAcc .glbViolCount .rc = true) ∧
    (State.reset.reaches .bar0 (RegAt.mk .hstCacheLines 0 0 0).off ⟨.hstCacheLines, 0, 0, 0⟩ false false ∧
      Rn.hasAcc .hstCacheLines .rc = true ∧ Rn.hstCacheLines.spec.wide = true) ∧
    (State.reset.reaches .bar0 0x28 ⟨.glbViolCount, 0, 0, 0⟩ false true ∧ Rn.glbViolCount.spec.wide = false) ∧
    State.reset.reaches .bar0 (RegAt.mk .hstCacheLines 0 0 0).off ⟨.hstCacheLines, 0, 0, 0⟩ false true ∧
    State.reset.reaches .bar0 ((RegAt.mk .hstCacheLines 0 0 0).off + 4) ⟨.hstCacheLines, 0, 0, 0⟩ true true ∧
    (RegAt.mk .hstCacheLines 0 0 0).off % 8 = 0 := by
  unfold State.reaches; decide

theorem witness_ViolationsLeaveOnlyTheirTraces :
    (targetOf .bar0 0x7FFFC = .nothing ∧ State.reset.responds .glb = true) ∧
    ((16 : Nat) ≠ 32 ∧ (16 : Nat) ≠ 64) ∧ 0x44 % (64 / 8) ≠ 0 ∧ 0x46 % (32 / 8) ≠ 0 ∧
    targetOf .bar0 0x100000 ≠ .nothing ∧ State.reset.responds (targetOf .bar0 0x100000).blk = true ∧
    State.reset.permits .bar0 (targetOf .bar0 0x100000) true = false := by decide

theorem witness_RunningMaximaKeepTheLarger :
    State.reset.reaches .bar0 (RegAt.mk .stlAmaxArr 2047 3 0).off ⟨.stlAmaxArr, 2047, 3, 0⟩ false true ∧ Rn.isAmax .stlAmaxArr = true := by
  unfold State.reaches; decide

theorem witness_EventRingControls :
    (State.reset.responds .glb = true ∧ (State.reset.view .bar0).may .glbEvringCtl true = true) ∧
    (bit (0x106 : Word32).toNat 8 = true ∧ bit (State.reset.reg .glbEvringCtl) 8 = false ∧ 6 ≤ bits (0x106 : Word32).toNat 4 0 ∧
      bits (0x106 : Word32).toNat 4 0 ≤ 16) ∧
    (ringOn.responds .glb = true ∧ (ringOn.view .bar0).may .glbEvringCtl true = true) ∧
    (bit (0x010 : Word32).toNat 8 = false ∧ bit (ringOn.reg .glbEvringCtl) 8 = true) ∧
    ringOn.reaches .bar0 0x40 ⟨.glbEvringBase, 0, 0, 0⟩ false true ∧
    (2 ^ bits (ringOn.reg .glbEvringCtl) 4 0 = 256 ∧ bits (0 : Word32).toNat 15 0 < 256 ∧
      (bits (0 : Word32).toNat 15 0 + 256 - ringOn.reg .glbEvringTail % 256) % 256 ≤
        (ringOn.reg .glbEvringHead + 256 - ringOn.reg .glbEvringTail % 256) % 256) ∧
    (ringOn.reg .glbEvringHead + 256 - ringOn.reg .glbEvringTail % 256) % 256 <
        (bits (1 : Word32).toNat 15 0 + 256 - ringOn.reg .glbEvringTail % 256) % 256 := by
  unfold State.reaches; decide

theorem witness_RecordsGoToTheRing :
    ringOn.events ≠ [] ∧ 2 ^ bits (ringOn.reg .glbEvringCtl) 4 0 = 256 ∧
    (bit (ringOn.reg .glbEvringCtl) 8 = true ∧ (ringOn.reg .glbEvringHead + 1) % 256 ≠ ringOn.reg .glbEvringTail % 256 ∧
      ringOn.hostUp = true) ∧
    ((ringOn.setReg .glbEvringTail 0 0 1).reg .glbEvringHead + 1) % 256 = (ringOn.setReg .glbEvringTail 0 0 1).reg .glbEvringTail % 256 ∧
    bit (twoEvents.reg .glbEvringCtl) 8 = false ∧ twoEvents.events ≠ [] := by decide

theorem witness_InterruptSourcesOfACore :
    State.reset.responds .sel = true ∧ (bits (2 : Word32).toNat 1 0 = (2 : CoreId).val ∧ (0 : CoreId) ≠ 2) ∧
    (bit (0x1003 : Word32).toNat 12 = true ∧ bits (0x1003 : Word32).toNat 11 0 = 3 ∧ 3 < 4) ∧
    bit (3 : Word32).toNat 12 = false ∧ 4 ≤ bits (0x1004 : Word32).toNat 11 0 := by decide

theorem witness_MsixVectorsAreRaisedInOrder :
    State.reset.responds .sel = true ∧ bits (67 : Word32).toNat 6 0 < 68 ∧ 68 ≤ bits (68 : Word32).toNat 6 0 ∧
    ({ State.reset with mx := { en := true, clear := [(67, true)] } } : State).mx.passes (bits (67 : Word32).toNat 6 0) = true ∧
    State.reset.mx.passes (bits (67 : Word32).toNat 6 0) = false := by decide

/-- A feed queue with its rings in the stack of bay 0, two slots ahead of HEAD. -/
def queue0 : FeedQueue :=
  { en := true, hbm := true, f := 6, c := 6, cb := 0, feed := 0x1000, cpl := 0x3000, root := 0x10000, copies := [0, 16], tail := 2 }

/-- A job image of two words, JBEGIN and JCOMMIT, for stall 0, with a program of one HALT bundle at core offset 0. -/
def image0 : List Byte :=
  leBytes 4 0x424A5848 ++ leBytes 4 1 ++ leBytes 4 288 ++ leBytes 4 0 ++ leBytes 8 0 ++ leBytes 4 128 ++ leBytes 4 0 ++ leBytes 4 0 ++
  leBytes 4 0 ++ leBytes 4 0 ++ leBytes 4 160 ++ leBytes 4 1 ++ leBytes 4 176 ++ leBytes 4 1 ++ List.replicate 68 0 ++ List.replicate 32 0 ++
  (leBytes 4 0 ++ leBytes 4 2 ++ leBytes 4 192 ++ leBytes 4 0) ++ (leBytes 4 0 ++ leBytes 4 0 ++ leBytes 4 64 ++ leBytes 4 224) ++
  leBytes 16 (0x01 * 2 ^ 120 + 2 ^ 24) ++ leBytes 16 (0x02 * 2 ^ 120) ++ leBytes 16 (10 * 2 ^ 124)

/-- Device memory with a tail line, a job record at slot 0, and the image at VA 0x2_0000 under a 1 GiB page. -/
def fed : State :=
  let s := { State.reset with fw := true, queues := [(0, queue0)] }
  let s := s.write 0 (leBytes 4 2) false
  let s := s.write 0x1000 (leBytes 8 0x201 ++ leBytes 8 0x20000 ++ leBytes 8 77) false
  let s := (s.write 0x10000 (leBytes 8 0x11001) false).write 0x11000 (leBytes 8 0xF) false
  s.write 0x20000 image0 false

theorem witness_FeedQueuesReadTheirTail :
    (let s : State := { fed with queues := [(0, { queue0 with hbm := false })], hostWait := true }
     (s.hostStores [(7, 1)]).linkWaits (s.queue 0) = true) ∧ [((0x40 : Nat), (2 : Byte))].getLast? = some (0x40, 2) ∧
    (∀ w ∈ [((0x40 : Nat), (2 : Byte))], w.1 < 0x41 ∨ 0x41 + 8 ≤ w.1) ∧
    (fed.hostStores []).linkWaits (fed.queue 0) = false ∧ fed.watches 0 = true ∧ (fed.queue 0).en = true ∧ fed.watches 1 = false ∧
    ((({ fed with fenced := [(0, true)] } : State).hostStores []).ringRead (fed.queue 0) 0 64 = none) ∧
    ((fed.hostStores []).ringRead (fed.queue 0) 0 64 = some (leBytes 4 2 ++ List.replicate 60 0) ∧ ahead 2 (fed.queue 0).head ≤ 2 ^ (fed.queue 0).f ∧
      ahead 0 (fed.queue 0).written = 0 ∧ (fed.queue 0).waiting = [] ∧ (fed.queue 0).hbm = true ∧ (fed.queue 0).cb + 128 ≤ 0x30000000000) ∧
    2 ^ (fed.queue 0).f < ahead 65 0 ∧ (0 < ahead 1 0 ∧ ahead 1 0 < 2 ^ 31) ∧
    (let s : State := { fed with fenced := [(0, true)], queues := [(0, { queue0 with en := false, stop := 1, waiting := [⟨0, [], 0, [], none, false⟩] })] }
     s.watches 0 = true ∧ (s.hostStores []).linkWaits (s.queue 0) = false ∧ (s.hostStores []).ringRead (s.queue 0) 0 64 = none) := by decide +kernel

/-- The image as the feed engine reads it. -/
def im0 : Image :=
  match (fed.readImage 0 0x20000 false).1 with
  | .ok im => im
  | .error _ => ⟨0, false, 0, 0, ⟨0, false, 0, 0, 0, false⟩, [], [], [], [], []⟩

/-- A record of image im0, and of one that runs 1 step. -/
def rec0 : CmdRec := { bytes := [], fseq := 0, slots := 2, img := im0, ctx := none, cls := 0, deadline := 0, user := 5 }
def recLate : CmdRec := { rec0 with img := { im0 with steps := 1 }, deadline := 1 }

theorem witness_RecordsAreDecided :
    fed.mayDecide 0 = true ∧ (fed.queue 0).held = none ∧
    (let bs := leBytes 8 0x201 ++ leBytes 8 0x20000 ++ leBytes 8 77 ++ List.replicate 104 0
     let u := fed.ringLines (fed.queue 0) 2
     slotsOf (field bs 1 1) = 2 ∧ fed.readSlots (fed.queue 0) 0 1 = some (bs.take 64) ∧ fed.readSlots (fed.queue 0) 0 2 = some bs ∧
     64 ≤ bs.length ∧ 2 ≤ ahead (fed.queue 0).tail (fed.queue 0).head ∧ u.recordForm bs = none ∧ field bs 0 1 ≠ 2 ∧
     u.imageWaits 0 (field bs 8 8) (field bs 4 4 != 0) = false ∧
     (match u.readImage 0 (field bs 8 8) (field bs 4 4 != 0) with
      | (.ok im, k) => im.stage3.isNone && ((u.cacheLines false k).stage4 0 im).isNone
      | _ => false) = true) ∧
    (let s := fed.write 0x1000 (leBytes 1 3) false
     s.mayDecide 0 = true ∧ slotsOf 2 = 2 ∧ s.recordForm (leBytes 8 0x203 ++ List.replicate 120 0) = some 1) ∧
    ((fed.modQueue 0 fun f => { f with held := some rec0 }).weigh 0 rec0 = .accept none none 0 none ∧ fed.freeSlot = some 0) ∧
    (fed.modQueue 0 fun f => { f with held := some rec0, copies := [0] }).weigh 0 rec0 = .hold ∧
    (match (fed.modQueue 0 fun f => { f with held := some recLate }).weigh 0 recLate with
     | .refuse _ => true
     | _ => false) = true := by decide +kernel

/-- The module with one accepted job of image im0 in slot 0. -/
def oneJob : State := { fed with jobs := [(0, { live := true, gen := 1, img := some im0 })] }

/-- Three jobs of an open batch. -/
def batch0 : OpenBatch := { cls := 0, slots := [3, 1, 2], since := 0 }

theorem witness_BatchesCloseAndJobsAreDispatched :
    (fed.batchDue 0 batch0 = true ∧ batch0.slots.Nodup ∧ fed.fw = true) ∧
    (oneJob.fw = true ∧ oneJob.dispatchOrder = [0] ∧ oneJob.mayGo 0 = true ∧ (oneJob.job 0).img = some im0 ∧
      oneJob.chooseCells 0 (oneJob.job 0).cells [] im0.claims.zipIdx = some [] ∧
      (oneJob.placed im0).map (fun x => x.2.map Prod.fst) = some [0]) ∧
    (let s : State := { oneJob with fenced := (List.range 32).map fun b => (b, true) }
     s.placed im0 = none ∧ s.dispatchOrder = [0] ∧ s.mayGo 0 = true) ∧
    (let s : State := { fed with jobs := [(0, { live := true, gen := 1, img := some im0, sent := true, rerun := true })] }
     (s.job 0).live = true ∧ (s.job 0).rerun = true ∧ (s.job 0).asking = false ∧ s.faultComing 0 = false ∧ s.mayGo 0 = true ∧
     (s.placed im0).isSome = true ∧ s.chooseCells 0 (s.job 0).cells [] im0.claims.zipIdx = some []) := by decide +kernel

/-- A fault record of slot 0, generation 1. -/
def fault0 : FaultRec := ⟨1, 0, 0x11, 0, 1, 0, 3, 3, [], 0x5000⟩

theorem witness_FaultsArePostedAndJobsCommitInOrder :
    (let s : State := { oneJob with faultQ := [fault0] }
     s.fw = true ∧ fault0.slot ≠ 0x3FF ∧ (s.job fault0.slot).live = true ∧ (s.job fault0.slot).gen = fault0.gen ∧
     (s.queue (s.job fault0.slot).queue).full = false ∧ (s.job 1).live = false) ∧
    (oneJob.headJob 0 = some 0 ∧ (oneJob.job 0).reasons.any Reason.fault = false ∧ oneJob.jobEnded 0 = false) ∧
    (let s : State := { fed with jobs := [(0, { live := true, gen := 1, img := some im0, sent := true })] }
     s.headJob 0 = some 0 ∧ s.jobEnded 0 = true ∧ (s.queue 0).full = false ∧ (s.queue 0).waiting = [] ∧ s.resultWaits 0 = false) ∧
    (let s : State := { fed with jobs := [(0, { live := true, img := some im0, sent := true, reasons := [{ status := .pcRange, fault := true }] })] }
     0 ∈ s.live ∧ (s.job 0).queue = (0 : QueueId).val ∧ (s.job 0).sent = true ∧ (s.job 0).reasons.any Reason.fault = true) := by
  decide +kernel

/-- The module with stall 5 in a state, and an entry of slot 0, generation 1 with an opcode and the bits below it. -/
def at5 (st : Stall) : State := { State.reset with stalls := [(5, st)] }
def qe (op low : Nat) : QEntry := { word := op * 2 ^ 120 + low, slot := 0, gen := 1, idx := 4 }

/-- Stall 5 runs slot 0 with some entries in its queue. -/
def runs (es : List QEntry) : Stall := { run := some (0, 1), queue := es }

/-- A pass over 128 weight rows of two columns in E4M3, one output row in array 0, with its descriptor at 0x1000. -/
def passBytes : List Byte := leBytes 4 128 ++ leBytes 6 0x330000000102
def passD : PassDesc := PassDesc.of (passBytes ++ List.replicate 54 0)
def passReady (desc : Nat) : State := (at5 (runs [qe 0x10 desc])).write (coreAddr 5 0x1000) passBytes false

/-- A stream of 16 bytes from or to virtual address 0x3F0 and core offset 0xDFFFF0, in engine 3 of stall 5. -/
def sd0 : StreamDesc :=
  { fmt := 5, dims := 1, conv := 5, c := 0, far := 0x3F0, near := 0xDFFFF0, rate := 0, dim := [15, 0, 0, 0, 0], stride := [0, 0, 0, 0],
    npitch := 0, rsv := false }
def tr0 (opc dir : Nat) : Transfer :=
  { e := some (qe opc 0x1000), seq := 2, queue := 0, opc := opc, off := 0x1000, d := sd0, portEn := false, port := 0, base := 0, dir := dir,
    chan := 15, mask := 2 ^ 63, started := false, since := 0, lines := 0, beats := 0, els := [], done := false, pages := [], hold := [],
    held := [] }

/-- Array 0 during that pass, at a pass and a front, with NXT full; and the run with it. -/
def unit0 (pass front epi : Nat) : ArrayUnit :=
  { m := 1, cur := List.replicate 64 [{}, {}], nxt := List.replicate 64 (some [{}, {}]), pass := pass, front := front, epi := epi }
def idle : ArrayUnit := { m := 0 }
def passRun (u : ArrayUnit) (st : Option WSet) : MRun :=
  { e := qe 0x10 0x1000, off := 0x1000, d := passD, bias := [], staging := st, next := 1, units := [u, idle, idle, idle] }

theorem witness_PassesStartWithACheckedDescriptor :
    (let s := passReady 0x1000
     s.headIs 5 .mpass = some (qe 0x10 0x1000) ∧ (s.stall 5).mrun = none ∧ (s.stall 5).moving = false ∧
     firstFail (PassDesc.of (s.read (coreAddr 5 0x1000) 64)).checks = none) ∧
    (let s := passReady 0x2000
     s.headIs 5 .mpass = some (qe 0x10 0x2000) ∧
     firstFail (PassDesc.of (s.read (coreAddr 5 0x2000) 64)).checks = some (2, .formatMismatch)) ∧
    (let r := passRun (unit0 0 0 0) none
     r.staging = none ∧ r.next < r.d.passes ∧ 1 < r.d.n ∧ (r.units.all fun u => u.m == 0 || u.nxtEmpty) = false) ∧
    ((passRun { unit0 0 0 0 with nxt := List.replicate 64 none } (some ⟨[], [], []⟩)).units.all fun u => u.m == 0 || u.nxtEmpty) = true ∧
    (passRun (unit0 0 0 0) (some ⟨[], [], []⟩)).staging.isSome = true := by decide +kernel

/-- Token 7 of slot 0: from stall 5 to a queue, to every stall, or toward the fabric. -/
def tok (ckind pkind : Nat) : TokRec := { init := 0, cstall := 2047, pstall := 5, ckind := ckind, pkind := pkind, name := 7 }
def tokJob (ckind pkind : Nat) : Job := { gen := 1, live := true, stalls := [5, 2047], left := [5], tokens := [tok ckind pkind] }

theorem witness_FrontsAndEpiloguesRun :
    ((at5 {}).stall 5).mrun = none ∧
    (let u := unit0 0 63 0
     let r := passRun u none
     ((at5 { run := some (0, 1), mrun := some r }).stall 5).mrun = some r ∧ u = r.units.getD (0 : UnitId).val { m := 0 } ∧ u.m ≠ 0 ∧ r.d.n ≤ 64 ∧
     u.cur.length = 64 ∧ u.nxt.length = 64 ∧ u.pass < r.d.passes ∧ u.front = (63 : Fin 64).val ∧ u.pass + 1 < r.d.passes ∧
     (u.nxt.getD 63 none).isSome = true) ∧
    (let u := { unit0 0 31 0 with nxt := List.replicate 64 none }
     let r := passRun u none
     u.front = (31 : Fin 64).val ∧ u.pass + 1 < r.d.passes ∧ u.nxt.getD 31 none = none ∧ r.d.isInt = false ∧ 64 * u.pass < r.d.k) ∧
    ((unit0 1 31 0).pass < passD.passes ∧ ¬ (unit0 1 31 0).pass + 1 < passD.passes) ∧
    (idle.m = 0 ∧ passD.passes ≤ (unit0 2 0 0).pass ∧ { unit0 0 0 0 with ahead := true }.ahead = true) ∧
    (let r := passRun (unit0 2 0 63) none
     (unit0 2 0 63).epi = (63 : Fin 64).val ∧ ¬ (r.d.k = 0 ∧ r.d.wsup = true) ∧ (r.units.all fun x => x.readDone r.d) = true ∧
     (unit0 2 0 63).drained r.d = true) ∧
    (let r := passRun (unit0 1 63 62) none
     ((62 : Fin 64).val < (unit0 1 63 62).front) ∧ (r.units.all fun x => x.readDone r.d) = true ∧ (unit0 1 63 62).drained r.d = false ∧
     (unit0 1 62 62).front ≤ (62 : Fin 64).val ∧ ((passRun (unit0 0 63 62) none).units.all fun x => x.readDone r.d) = false ∧
     (r.units.all fun x => x.m == 0 || x.epi == 64) = false) ∧
    (let r := passRun (unit0 2 0 64) none
     (r.units.all fun x => x.m == 0 || x.epi == 64) = true ∧ r.e.prEn = false) ∧
    (let e := qe 0x10 (2 ^ 118 + 7 * 2 ^ 88)
     e.prEn = true ∧ (tokJob 0 0).token 5 e.prTok = some (tok 0 0)) ∧
    (let x : Engine := { active := some { tr0 opWload 0 with hold := [5], held := [⟨0x10, 9, false⟩] } }
     ∃ e, (({ engines := [x, {}, {}, {}] } : Stall).engines.getD 0 {}).active = some e ∧ (5 : StallId).val ∈ e.hold ∧
       (⟨0x10, 9, false⟩ : NearByte) ∈ e.held) := by
  refine ⟨by decide, ?_⟩
  refine ⟨by decide +kernel, by decide +kernel, by decide +kernel, by decide +kernel, by decide +kernel, by decide +kernel, by decide +kernel,
    by decide +kernel, _, rfl, by decide, by decide⟩

/-- A running instance of slot 0, with one answer counted in its map. -/
def inst0 : Inst := { slot := 0, gen := 1, map := [{ tally := 8191, bay := 31, cell := 255, count := 1 }] }

theorem witness_JobsBeginAndCommitOnAStall :
    (let s := at5 { queue := [qe 0x01 (2 ^ 24)] }
     s.headIs 5 .jbegin = some (qe 0x01 (2 ^ 24)) ∧ (qe 0x01 (2 ^ 24)).prEn = false) ∧
    (let s := at5 { runs [qe 0x02 0] with core := { halted := true }, insts := [inst0] }
     s.headIs 5 .jcommit = some (qe 0x02 0) ∧ (s.stall 5).inflight = [] ∧ (s.stall 5).core.halted = true ∧
     (s.stall 5).insts.find? (fun x => x.slot == 0 && x.gen == 1) = some inst0) ∧
    ((at5 (runs [qe 0x02 0])).headIs 5 .jcommit = some (qe 0x02 0) ∧ ((at5 (runs [qe 0x02 0])).stall 5).core.halted = false) ∧
    (let s := at5 { run := some (0, 1), commit := some (qe 0x02 0, 0) }
     (s.stall 5).commit = some (qe 0x02 0, 0) ∧ s.stallUp 5 = true ∧ (s.job 0).gen = 0) := by decide +kernel

/-- A repeat block of one instruction whose iteration is to start. -/
def rep0 : QRep := { e := qe 0x03 0x40, cond := 0x40, len := 1, left := 1, pos := none }

theorem witness_RepeatBlocksWaitsAndTakes :
    (at5 (runs [qe 0x03 0x40])).headIs 5 .qrep = some (qe 0x03 0x40) ∧
    (let s := at5 { runs [] with rep := some rep0 }
     (s.stall 5).rep = some rep0 ∧ rep0.pos = none ∧ (rep0.e.slot, rep0.e.gen) ∉ (s.stall 5).faulted ∧ (s.stall 5).waitOk rep0.e = true ∧
     s.stallUp 5 = true ∧ (s.coreVal 5 rep0.cond 4).p = false ∧ (s.coreVal 5 rep0.cond 4).v = 0 ∧
     ((s.write (coreAddr 5 0x40) [9] false).coreVal 5 rep0.cond 4).v ≠ 0 ∧
     ((s.write (coreAddr 5 0x40) [9] true).coreVal 5 rep0.cond 4).p = true) ∧
    (let e := qe 0x51 (2 ^ 119 + 7 * 2 ^ 100)
     (at5 { runs [e] with counts := [(countKey 0 false 7, 1)] }).headIs 5 .twait = some e ∧ e.wtEn = true) ∧
    (let e := qe 0x50 (2 ^ 118 + 7 * 2 ^ 88)
     let s (k : Nat) : State := { at5 { runs [e] with inflight := [{ e := e, seq := 3 }] } with jobs := [(0, tokJob k 0)] }
     (s 0).headIs 5 .tprod = some e ∧ e.op = some .tprod ∧ e.prEn = true ∧ (s 0).stallUp 5 = true ∧
     ((s 0).job 0).token 5 e.prTok = some (tok 0 0) ∧ ((s 2).job 0).token 5 e.prTok = some (tok 2 0) ∧
     ((s 3).job 0).token 5 e.prTok = some (tok 3 0)) ∧
    (let e := qe 0x40 8191
     let s := at5 { runs [e] with insts := [inst0] }
     s.headIs 5 .take = some e ∧ ((s.stall 5).inflight.filter fun i => i.e.op == some .take).length < 4 ∧
     (s.stall 5).mapSlot 0 1 (bits e.word 12 0) = some { tally := 8191, bay := 31, cell := 255, count := 1 } ∧ s.isFenced 31 = false ∧
     ((at5 (runs [e])).stall 5).mapSlot 0 1 (bits e.word 12 0) = none) := by decide +kernel

/-- A token of slot 0 on its way to stall 5, and a token beat in channel 15 of stall 5. -/
def pkt0 : TokenPkt := { name := 7, core := false, stall := 5, slot := 0, gen := 1, producer := 3 }
def beat7 : PBeat := { kind := 1, poison := false, data := leBytes 64 7 }

theorem witness_TokensAreCountedOrDiscarded :
    (let s (n : Nat) : State := { at5 { insts := [inst0], counts := [(countKey 0 false 7, n)] } with tokens := [pkt0] }
     (s 0).tokens.find? (fun q => q.producer == pkt0.producer && q.stall == pkt0.stall && q.core == pkt0.core) = some pkt0 ∧
     (s 0).isFenced (5 / 64) = false ∧ ((s 0).stall 5).holds 0 1 = true ∧ ((s 65534).stall 5).count 0 false 7 < 65535 ∧
     65535 ≤ ((s 65535).stall 5).count 0 false 7 ∧ ((at5 {}).stall 5).holds 0 1 = false ∧
     { pkt0 with name := 8 } ≠ pkt0) ∧
    (let s (k p : Nat) : State := { at5 { run := some (0, 1), inBuf := [(15, [beat7])] } with jobs := [(0, tokJob k p)] }
     Tab.get [] ((s 0 2).stall 5).inBuf (15 : Fin 16).val = [beat7] ∧ beat7.kind = 1 ∧ (s 0 2).stallUp 5 = true ∧ ofLe beat7.data % 4096 = 7 ∧
     ((s 0 2).job 0).token 5 7 = some (tok 0 2) ∧ (tok 0 2).pkind = 2 ∧ (tok 0 2).pstall = (5 : StallId).val ∧
     ((s 3 2).job 0).token 5 7 = some (tok 3 2) ∧ ((s 0 1).job 0).token 5 7 = some (tok 0 1) ∧ (tok 0 1).pkind ≠ 2 ∧
     ((s 0 2).job 1).token 5 7 = none) := by decide +kernel

theorem witness_TheStallWatch :
    (let s (st : Stall) : State := { (at5 st).setReg .stlWatchCtl 5 0 (2 ^ 31 + 100000) with lcount := [(0, 100000)] }
     let st : Stall := { run := some (0, 1), watch := { quiet := true } }
     ((s st).stall 5).run = some (0, 1) ∧ ((s st).stall 5).watch.frozen = none ∧ ((s st).stall 5).watch.quiet = true ∧
     ((s st).stall 5).watch.expired = false ∧ bit ((s st).reg .stlWatchCtl 5) 31 = true ∧ (s st).stallUp 5 = true ∧
     ((s st).stall 5).watch.since + bits ((s st).reg .stlWatchCtl 5) 29 0 ≤ (s st).local (5 / 64) ∧
     (s { run := some (0, 1), watch := { quiet := true, since := 1 } }).local 0 < 1 + bits ((s st).reg .stlWatchCtl 5) 29 0) ∧
    (State.reset.reaches .bar0 (RegAt.mk .stlWatchCtl 5 0 0).off ⟨.stlWatchCtl, 5, 0, 0⟩ false true) ∧
    (100000 ≤ bits (0x800186A0 : Word32).toNat 29 0 ∧ ¬ 100000 ≤ bits (0x8001869F : Word32).toNat 29 0 ∧
      bits (1000000000 : Word32).toNat 29 0 ≤ 1000000000 ∧ ¬ bits (1000000001 : Word32).toNat 29 0 ≤ 1000000000) ∧
    (let s : State := { at5 { run := some (0, 1) } with jobs := [(0, tokJob 0 0)] }
     bits (0 : Word32).toNat 9 0 = 0 ∧ s.stallUp 5 = true ∧ (s.job 0).gen = 1 ∧ (s.job 0).live = true ∧ (s.stall 5).run = some (0, 1) ∧
     (∀ h ∈ (s.job 0).left, h = 5) ∧ (s.stall 5).run.map Prod.fst ≠ some (bits (1 : Word32).toNat 9 0) ∧ (s.job 1).live = false) ∧
    (let s (ds : List Nat) : State := { at5 { run := some (0, 1) } with jobs := [(0, { tokJob 0 0 with left := [5, 2047], declared := ds })] }
     2047 ∈ ((s []).job 0).left ∧ (2047 : Nat) ≠ 5 ∧ 2047 ∉ ((s []).job 0).declared ∧
     ∀ h ∈ ((s [2047]).job 0).left, h = 5 ∨ h ∈ ((s [2047]).job 0).declared) ∧
    (let s : State := { at5 { run := some (0, 1) } with jobs := [(0, { tokJob 0 0 with left := [2047] })] }
     5 ∉ (s.job 0).left) := by
  unfold State.reaches; decide +kernel

/-- Stall 5 with that transfer in the active slot of engine 3 and the leaf of its page, in device or host memory, in its cache. -/
def moves (opc dir leaf : Nat) (b : List PBeat) : Stall :=
  { engines := [{}, {}, {}, { active := some (tr0 opc dir) }], tlb := [{ queue := 0, level := 1, vpn := 0, entry := leaf }],
    inBuf := [(15, b)] }

/-- The same with the walk begun. -/
def walks (opc leaf : Nat) : Stall := { moves opc 0 leaf [] with engines := [{}, {}, {}, { active := some { tr0 opc 0 with started := true } }] }

theorem witness_StreamsMoveTheirBytes :
    ((moves opSld 0 0xF []).engines[(3 : UnitId).val]? = some { active := some (tr0 opSld 0) } ∧ (tr0 opSld 0).started = false ∧
      (moves opSld 0 0xF []).mrun = none ∧ (tr0 opSld 0).portEn = false ∧ 0x3F0 % 64 + 16 ≤ 64 ∧ 0xDFFFF0 + 16 ≤ 0xE00000) ∧
    ((walks opSst 0xF).engines[(3 : UnitId).val]? = some { active := some { tr0 opSst 0 with started := true } } ∧
      { tr0 opSst 0 with started := true }.row = 0) ∧
    (let s := at5 (walks opSld 0xF)
     tlbLeaf (s.stall 5).tlb 0 0x3F0 = some (1, 0xF) ∧ s.isFenced (placeOf 0x3F0).bay = false ∧ (s.hbm 0).phase = 0 ∧
     leafResult 1 0xF 0x3F0 .load = .ok false 0x3F0 ∧ leafResult 1 0xF 0x3F0 .store = .ok false 0x3F0 ∧ s.poisoned 0x3F0 16 = false ∧
     s.poisoned (coreAddr 5 0xDFFFF0) 16 = false ∧ placeOf 0x3F0 = .hbm 0 0x3F0) ∧
    (let s : State := { at5 (walks opWload 0x1F) with hostUp := true }
     tlbLeaf (s.stall 5).tlb 0 0x3F0 = some (1, 0x1F) ∧ s.hostUp = true ∧ leafResult 1 0x1F 0x3F0 .load = .ok true 0x3F0 ∧
     (readTags s.hostTag 0x3F0 16).any id = false ∧ (∀ i < 64, (s.stall (5 / 64 * 64 + i)).mrun = none) ∧ (tr0 opWload 0).opc = opWload) ∧
    leafResult 1 0x1F 0x3F0 .store = .ok true 0x3F0 ∧
    (let s := at5 (moves opFxch 0 0xF [])
     (tr0 opFxch 0).opc = opFxch ∧ (s.stall 5).chanFirst (tr0 opFxch 0) = true ∧ (tr0 opFxch 0).dir = 0) ∧
    (let b : PBeat := { kind := 0, poison := false, data := List.replicate 64 1 }
     let s := at5 (moves opFxch 1 0xF [b])
     (s.stall 5).chanFirst (tr0 opFxch 1) = true ∧ (tr0 opFxch 1).beats = 0 ∧ (tr0 opFxch 1).done = false ∧
     Tab.get [] (s.stall 5).inBuf (tr0 opFxch 1).chan = [b] ∧ b.data.length = 64) := by decide +kernel

/-- Stall 5 with an SLD at its head whose descriptor, at 0x1000, moves 16 bytes. -/
def sldReady (desc : Nat) (st : Stall) : State :=
  (at5 { st with run := some (0, 1), queue := [qe 0x20 desc] }).write (coreAddr 5 0x1000)
    (leBytes 4 0x00050105 ++ leBytes 4 0 ++ leBytes 8 0x3F0 ++ leBytes 4 0x100 ++ leBytes 4 0 ++ leBytes 4 15) false

theorem witness_TransfersTakeTheirSlots :
    (let s := sldReady 0x2000 {}
     let x := Transfer.ofInstr (qe 0x20 0x2000) (s.stall 5).issues (s.job 0).queue (StreamDesc.of (s.read (coreAddr 5 0x2000) 64))
     s.headIs 5 .sld = some (qe 0x20 0x2000) ∧ (0 : UnitId).val = (qe 0x20 0x2000).unit % 4 ∧ (s.stall 5).mrun = none ∧
     (firstFail (x.d.checks x.opc x.dir x.portEn)).isSome = true ∧ ((s.stall 5).engine 0).standby = none) ∧
    (let s := sldReady 0x1000 {}
     let x := Transfer.ofInstr (qe 0x20 0x1000) (s.stall 5).issues (s.job 0).queue (StreamDesc.of (s.read (coreAddr 5 0x1000) 64))
     s.headIs 5 .sld = some (qe 0x20 0x1000) ∧ firstFail (x.d.checks x.opc x.dir x.portEn) = none ∧ ((s.stall 5).engine 0).active = none) ∧
    (let s := sldReady 0x1000 { engines := [{ active := some (tr0 opSld 0) }, {}, {}, {}] }
     s.headIs 5 .sld = some (qe 0x20 0x1000) ∧ ((s.stall 5).engine 0).active.isSome = true ∧ ((s.stall 5).engine 0).standby = none) ∧
    (let s := sldReady 0x1000 { engines := [{ active := some (tr0 opSld 0), standby := some (tr0 opSld 0) }, {}, {}, {}] }
     ((s.stall 5).engine 0).active.isSome = true ∧ ((s.stall 5).engine 0).standby.isSome = true) ∧
    (let s := sldReady 0x1000 {}
     let d := StreamDesc.of (s.read (coreAddr 5 (bits (0x1000 : Word32).toNat 23 0)) 64)
     firstFail (d.checks opSld 0 false) = none ∧ bit (0x1000 : Word32).toNat 31 = false ∧ bit (0x80001000 : Word32).toNat 31 = true ∧
     (firstFail ((StreamDesc.of (s.read (coreAddr 5 0x2000) 64)).checks opSld 0 false)).isSome = true) ∧
    (let x : Transfer := { tr0 opSld 0 with done := true }
     let st : Stall := { engines := [{}, {}, {}, { active := some x }] }
     st.engines.length = 4 ∧ (st.engine 3).active = some x ∧ x.done = true ∧ x.hold = [] ∧ (st.engine 3).standby = none) ∧
    (let s := at5 (moves opSld 0 0xF [])
     s.stallUp 5 = true ∧ (tlbLeaf (s.stall 5).tlb 0 (0x3F0 : BitVec 48).toNat).isSome = true ∧
     tlbLeaf (s.stall 5).tlb 1 (0x3F0 : BitVec 48).toNat = none ∧ tlbLeaf (Tab.get [] s.bayTlb (5 / 64)) 1 0x3F0 = none ∧
     (s.walk [] 1 0x3F0 .load).1 = .fault 1 0) ∧
    (let s : State := { ((State.reset.write 0x10000 (leBytes 8 0x11001) false).write 0x11000 (leBytes 8 0xF) false) with
       queues := [(0, { root := 0x10000 })] }
     (s.walk [] 0 0x3F0 .load).1 = .ok false 0x3F0) := by decide +kernel

/-- Cell 255 of bay 31, owned by generation 1 of slot 0. -/
def cell0 (state next limit : Nat) : Cell := { state := state, cover := true, job := 0, gen := 1, epoch := 65535, next := next, limit := limit, taken := next }
def celled (c : Cell) (j : Job) : State :=
  { State.reset with
    cells := [(31 * 256 + 255, c)], jobs := [(0, j)], takeQ := [(31, [⟨5, true, 2, 0, 1, 8191, 255⟩])], reportQ := [(31, [⟨5, 0, 1, 255, 3, 65535⟩])] }

theorem witness_TalliesHandOutEachIndexOnce :
    (let s (base limit : Nat) : State := State.reset.setReg .tlyArmRange 31 0 (limit * 2 ^ 32 + base)
     bits (0x400000FF : Word32).toNat 31 30 = 1 ∧ bits ((s 7 7).reg .tlyArmRange 31) 31 0 ≤ bits ((s 7 7).reg .tlyArmRange 31) 63 32 ∧
     bits ((s 8 7).reg .tlyArmRange 31) 63 32 < bits ((s 8 7).reg .tlyArmRange 31) 31 0) ∧
    bits (0x800000FF : Word32).toNat 31 30 = 2 ∧
    (let s := celled (cell0 1 0xFFFFFFFE 0xFFFFFFFF) {}
     Tab.get [] s.takeQ (31 : BayId).val = [⟨5, true, 2, 0, 1, 8191, 255⟩] ∧ s.isFenced 31 = false ∧ (s.cell 31 255).state = 1 ∧
     (s.cell 31 255).job = 0 ∧ (s.cell 31 255).gen = 1 ∧ ((celled (cell0 2 9 9) {}).cell 31 255).state = 2 ∧
     ((celled (cell0 0 0 9) {}).cell 31 255).state = 0) ∧
    (let s := celled (cell0 1 4 9) {}
     Tab.get [] s.reportQ (31 : BayId).val = [⟨5, 0, 1, 255, 3, 65535⟩] ∧ (s.cell 31 255).epoch = 65535 ∧ (s.cell 31 255).state ≠ 0 ∧
     ((celled (cell0 0 4 9) {}).cell 31 255).state = 0) ∧
    (let s := celled (cell0 1 4 9) { gen := 1 }
     (s.cell 31 255).state ≠ 0 ∧ (s.job 0).gen = (s.cell 31 255).gen ∧ (s.job 0).abandoned = false ∧ (s.job 0).left = [] ∧
     (s.cell 31 255).cover = true ∧ (s.cell 31 255).next < (s.cell 31 255).limit) ∧
    ((celled (cell0 1 4 9) { gen := 2 }).job 0).gen ≠ 1 ∧ ((celled (cell0 1 4 9) { gen := 1, left := [5] }).job 0).left ≠ [] := by
  decide +kernel

theorem witness_TallyAnswersReachTheirStall :
    (let a (q : Bool) : TakeAns := ⟨5, q, 2, 0, 1, answerWord 8191 0 65535 6⟩
     let s (q : Bool) : State := { at5 { run := some (0, 1), insts := [inst0], inflight := [{ e := qe 0x40 8191, seq := 2 }] } with answers := [a q] }
     (s true).answers.find? (fun x => x.stall == (5 : StallId).val) = some (a true) ∧ ((s true).stall 5).run = some ((a true).slot, (a true).gen) ∧
     (a true).queue = true ∧ ((s true).stall 5).inflight.find? (fun i => i.seq == (a true).seq) = some { e := qe 0x40 8191, seq := 2 } ∧
     (qe 0x40 8191).prEn = false ∧ (s false).answers.find? (fun x => x.stall == (5 : StallId).val) = some (a false) ∧
     (a false).queue = false ∧ inst0 ∈ ((s true).stall 5).insts ∧ bits (a true).answer 63 51 = 8191 ∧ bits (a true).answer 50 48 = 0 ∧
     ((at5 {}).stall 5).run ≠ some ((a true).slot, (a true).gen) ∧
     (runs []).inflight.find? (fun i => i.seq == (a true).seq) = none ∧ State.reset.answers.find? (fun x => x.stall == (5 : StallId).val) = none) := by decide +kernel

theorem witness_CoreOperationsComputeTheirResults :
    bits (0x7F800000 : Word32).toNat 30 23 = 255 ∧ bits (0x7F000000 : Word32).toNat 30 23 = 254 ∧ bits (0 : Word32).toNat 22 0 = 0 ∧
    (bits (0x400000 : Word32).toNat 30 23 = 0 ∧ 2 ^ 22 ≤ bits (0x400000 : Word32).toNat 22 0) ∧
    (0 : Word32).toNat ∉ [1, 2, 3, 4, 7] ∧ (7 : Word32).toNat ∈ [1, 2, 3, 4, 7] ∧ Fmt.ofCode (7 : Word32).toNat = some .fp4 ∧
    Fmt.fp32.value (0x7FC00000 : Word32).toNat = .nan false ∧ Fmt.fp32.value (0xFF800000 : Word32).toNat = .inf true ∧
    (∃ z m e, m ≠ 0 ∧ Fmt.fp32.value (1 : Word32).toNat = .fin z m e) ∧ ∃ z e, Fmt.fp32.value (0 : Word32).toNat = .fin z 0 e :=
  ⟨by decide, by decide, by decide, by decide, by decide, by decide, by decide, by decide, by decide, ⟨false, 1, _, by decide, rfl⟩, _, _, rfl⟩

/-- Stall 5 with a running control core whose next bundle, at index 0 of 4, is a word, of which the low 96 bits are the slots. -/
def cored (w : Nat) (c : Core) : State :=
  (at5 { run := some (0, 1), core := { c with run := true, plen := 4, pbase := 0x100 } }).write (coreAddr 5 0x100) (leBytes 16 w) false
def coredLater (w : Nat) (c : Core) : State := (cored w c).landDue 5
def goes : Verdict → Bool
  | .go _ => true
  | _ => false
def faults : Verdict → Bool
  | .fault _ _ _ => true
  | _ => false

/-- The slots of ADD g1 ← g2 + g3. -/
def addW : Nat := (0x01 * 2 ^ 24 + 1 * 2 ^ 16 + 2 * 2 ^ 8 + 3) * 2 ^ 64

theorem nextBundle_of_cored (w : Nat) (c : Core) (hu : (cored w c).stallUp 5 = true)
    (hr : ((cored w c).stall 5).core.run = true) (hh : ((cored w c).stall 5).core.halted = false)
    (hp : ((cored w c).stall 5).core.pc < ((cored w c).stall 5).core.plen) (hb : (Bundle.of ((coredLater w c).nextWord 5)).ok = true) :
    (cored w c).NextBundle (5 : StallId) (coredLater w c) (Bundle.of ((coredLater w c).nextWord 5)) :=
  ⟨hr, hh, hu, hp, rfl, rfl, hb⟩

theorem witness_CoreWritesEnterFlight :
    (Instr.add 5, CoreOp.add) ∈ slotOps 5 ∧
    (cored addW {}).NextBundle (5 : StallId) (coredLater addW {}) (Bundle.of ((coredLater addW {}).nextWord 5)) ∧
    (Bundle.of ((coredLater addW {}).nextWord 5)).has .add = true ∧
    goes ((coredLater addW {}).verdict 5 (Bundle.of ((coredLater addW {}).nextWord 5))) = true ∧
    (Bundle.of ((coredLater addW {}).nextWord 5)).ctrl = some .none ∧ ((coredLater addW {}).stall 5).core.loops = [] :=
  ⟨by decide, nextBundle_of_cored addW {} (by decide +kernel) (by decide +kernel) (by decide +kernel) (by decide +kernel)
    (by decide +kernel), by decide +kernel⟩

/-- WAITT of token 7 beside an ADD waits, and a load above core memory faults. -/
theorem witness_CoreWritesEnterFlight_stops :
    ((coredLater (6 * 2 ^ 124 + 7 * 2 ^ 96 + addW) {}).verdict 5 (Bundle.of (6 * 2 ^ 124 + 7 * 2 ^ 96 + addW)) = .wait) ∧
    faults ((coredLater 0x02010203 { g := [(2, { v := 0xE00000 })] }).verdict 5 (Bundle.of 0x02010203)) = true := by decide +kernel

/-- A control word with CREG and CIMM. -/
def ctlW (op creg cimm : Nat) : Nat := op * 2 ^ 124 + creg * 2 ^ 118 + cimm * 2 ^ 96

theorem witness_ControlOperationsSteerTheCore :
    (Instr.br 5, CtlOp.br) ∈ ctlOps 5 ∧
    (cored (ctlW 1 0 3) {}).NextBundle (5 : StallId) (coredLater (ctlW 1 0 3) {}) (Bundle.of ((coredLater (ctlW 1 0 3) {}).nextWord 5)) ∧
    (let go (w : Nat) (c : Core) (o : CtlOp) : Prop := (Bundle.of ((coredLater w c).nextWord 5)).ctrl = some o ∧
       goes ((coredLater w c).verdict 5 (Bundle.of ((coredLater w c).nextWord 5))) = true
     let k (v : Nat) : Core := { g := [(9, { v := v })] }
     let l : Loop := { first := 0, len := 1, n := 2, s := 0, rot := true, k := 0 }
     go (ctlW 1 0 3) {} .br ∧ go (ctlW 2 9 3) (k 0) .bz ∧ go (ctlW 2 9 3) (k 1) .bz ∧ go (ctlW 3 9 3) (k 1) .bnz ∧ go (ctlW 3 9 3) (k 0) .bnz ∧
     go (ctlW 4 9 3) (k (2 ^ 31)) .bltz ∧ go (ctlW 4 9 3) (k 1) .bltz ∧ go (ctlW 5 9 0x142) (k 3) .loop ∧ go (ctlW 5 9 0) (k 0) .loop ∧
     go (ctlW 7 0 7) {} .pub ∧ go (ctlW 8 0 0x1FFF) {} .trap ∧ go (ctlW 8 0 0) { loops := [l] } .trap ∧
     go (ctlW 9 0 0) { handler := true, savedPc := 2 } .reti ∧ go (ctlW 9 0 0) {} .reti ∧ go (ctlW 10 0 0) {} .halt) ∧
    (let s : State := { coredLater (ctlW 6 0 7) {} with stalls := [(5, { ((coredLater (ctlW 6 0 7) {}).stall 5) with counts := [(countKey 0 true 7, 1)] })] }
     (Bundle.of (s.nextWord 5)).ctrl = some .waitt ∧ goes (s.verdict 5 (Bundle.of (s.nextWord 5))) = true) :=
  ⟨by decide, nextBundle_of_cored (ctlW 1 0 3) {} (by decide +kernel) (by decide +kernel) (by decide +kernel) (by decide +kernel)
    (by decide +kernel), by decide +kernel, by decide +kernel⟩

/-- A due write of 9 to a destination. -/
def due (d : CDest) : CWrite := { dest := d, kind := .set, v := 9, p := false, left := 0 }

theorem witness_WritesLandAndInterruptsEnter :
    (∀ d ∈ [CDest.reg 79, .acc 3, .mem 0xDFFFFC, .port 15, .port 23, .port 24, .port 25, .port 26, .port 27, .take],
      (({ main := [due d, { due d with left := 1 }] } : Core).expireTimer.own.filter fun (x : CWrite) => x.left == 0) = [due d]) ∧
    (({ tmr := 0, tmrLoad := 1 } : Core).expireTimer.own.filter fun (x : CWrite) => x.left == 0) = [] ∧ 3 < ({} : Core).acc.length ∧ ({} : Core).ports.length = 8 ∧
    ((at5 { runs [] with core := { run := true } }).stall 5).portUser 7 = none ∧
    (let s := cored 0 { mainSinceReti := true, irqEn := 64, irqEdge := 64, ivec := 3 }
     let u := s.landDue 5
     let p := (u.stall 5).core
     p.run = true ∧ p.halted = false ∧ p.handler = false ∧ p.mainSinceReti = true ∧ u.irqPend 5 &&& p.irqEn ≠ 0 ∧ s.stallUp 5 = true) ∧
    (let q : Core := { tmrLoad := 7, tmr := 0 }
     q.tmrLoad ≠ 0 ∧ q.tmr = 0) := by decide +kernel

theorem witness_NumbersRoundOnceToNearest :
    Fmt.e4m3 ≠ .e8m0 ∧ 0xFE < 2 ^ Fmt.e4m3.width ∧ (Fmt.e4m3.value 0xFE).isFin = true ∧ Fmt.e4m3.isInt = false ∧
    (convert .e4m3 false (.fin true 7 (-1))).ovf = 0 ∧ Fmt.int8.isInt = true ∧ Fmt.fp4 ≠ .e8m0 := by decide

/-- Stall 5 with a VOP at its head and a descriptor of 64 bytes at 0x1000. -/
def vecReady (bs : List Byte) (st : Stall) : State :=
  (at5 { st with run := some (0, 1), queue := [qe 0x30 0x1000] }).write (coreAddr 5 0x1000) bs false

/-- VABS, or the operation of another code, on two FP32 elements from core offset 0 to a core offset. -/
def absBytes (code out : Nat) : List Byte :=
  leBytes 4 code ++ leBytes 4 0x10000 ++ leBytes 4 2 ++ leBytes 12 0 ++ leBytes 4 1 ++ List.replicate 24 0 ++ leBytes 8 out ++ leBytes 4 1

theorem witness_VectorOperationsRun :
    (Instr.vopAbs 5, VOp.abs) ∈ vecOps 5 ∧
    (let s := vecReady (absBytes 0x11 0xDFFFF8) {}
     let d := VDesc.of (s.read (coreAddr 5 0x1000) 64)
     s.headIs 5 .vop = some (qe 0x30 0x1000) ∧ (s.stall 5).vrun = none ∧ d.fail = none ∧ VOp.ofCode d.code = some .abs ∧ d.rows = 1 ∧
     (∀ r < d.rows, ∀ i < d.outLen, d.clash (d.d.off + r * d.d.stride + i) = false) ∧ d.d.inTile = false) ∧
    (let d := VDesc.of ((vecReady (absBytes 0x11 0xDFFFFC) {}).read (coreAddr 5 0x1000) 64)
     d.fail.isSome = true ∧ VOp.ofCode d.code = some .abs) ∧
    ((VDesc.of (absBytes 0xFF 0)).fail.isSome = true ∧ VOp.ofCode (VDesc.of (absBytes 0xFF 0)).code = none) ∧
    VOp.ofCode (VDesc.of (absBytes 0x12 0)).code = some .neg ∧
    (let r (n : Nat) : VRun := { e := qe 0x30 0x1000, d := VDesc.of (absBytes 0x11 0xDFFFF8), row := n, sb := [], flags := 0 }
     ((at5 { vrun := some (r 0) }).stall 5).vrun = some (r 0) ∧ (r 0).row < (r 0).d.rows ∧ (r 1).d.rows ≤ (r 1).row ∧ (r 0).d.fail = none ∧
     (VOp.ofCode (r 0).d.code).isSome = true ∧
     ∀ i < (r 0).d.outLen, (r 0).d.clash ((r 0).d.d.off + (r 0).row * (r 0).d.d.stride + i) = false) := by
  decide +kernel

theorem witness_VectorResultsAreExactSumsAndFunctions :
    (-200 : Int).natAbs ≤ 200 ∧ (23 : Nat) ≤ 23 ∧ ((23 : Nat) : Int) + (-199) = -176 ∧ (-176 : Int) % 2 = 0 ∧
    [(Val.fin false 1 0, false), (Val.inf true, true)].Perm [(Val.inf true, true), (Val.fin false 1 0, false)] :=
  ⟨by decide, by decide, by decide, by decide, List.Perm.swap _ _ _⟩

/-- Requests of a pseudo-channel to line 0 and line 1, with their due times. -/
def rd0 (line due seq : Nat) : HRead := { ask := none, hpa := 64, line := line, due := due, seq := seq, data := List.replicate 64 7, bad := false }
def wr0 (line due seq : Nat) : HWrite := { line := line, due := due, seq := seq, mask := 2 ^ 64 - 1, old := false }

/-- Bay 31 with a ready controller whose pseudo-channel 63 is p. -/
def stack (h : Hbm) (p : PChan) : State := { State.reset with hbms := [(31, { h with ready := true, pcs := [(63, p)] })] }
/-- What that pseudo-channel issues next. -/
def chosen (h : Hbm) (p : PChan) (illegal : List Nat) : Option HCmd :=
  let s := stack h p
  p.choose illegal (s.hbm 31).training.isSome (s.local 31) (bits (s.reg .hbmSched 31) 14 12) (bits (s.reg .hbmSched 31) 19 15)
    (p.drain || (s.hbm 31).phase == 1)

theorem witness_HbmCommandsFollowTheOrder :
    ((0x17FFFFFFFF : Nat) < 0x1800000000 ∧ (63 : Nat) < 64 ∧ 0x5FFFFFFF < 0x60000000) ∧
    (({ forced := [.bank 3], rq := [rd0 0 0 0] } : PChan).forcedNow [] false = some (.bank 3)) ∧
    (({ rq := [rd0 0 0 0] } : PChan).forcedNow [] false = none ∧
      (({ rq := [rd0 0 0 0] } : PChan).reads []).any (fun c => decide (c.due ≤ 0 + 0)) = true) ∧
    (let p : PChan := { rq := [rd0 0 999 0], rows := [(0, 1)] }
     p.forcedNow [] false = none ∧ (∀ c ∈ p.reads [] ++ p.writes [], 0 + 7 < c.due) ∧
     (p.reads []).any (fun c => p.capped 4 c.line == false && p.hit c.line) = true) ∧
    (let p : PChan := { debt := [(47, 1)] }
     p.reads [] = [] ∧ p.idle 47 = true ∧ 1 ≤ Tab.get 0 p.debt 47 ∧ (2 * 47 + 1) ∉ ([] : List Nat)) ∧
    ((stack {} {}).hbm 31).ready = true ∧ (stack {} {}).isFenced 31 = false ∧ ((stack {} {}).hbm 31).phase < 2 ∧
    ((stack {} {}).hbm 31).training ≠ some ((63 : Fin 64).val / 2) ∧
    (chosen {} { rq := [rd0 0 0 0] } [] = some (.read (rd0 0 0 0)) ∧ (rd0 0 0 0).ask = none) ∧
    chosen {} { wq := [wr0 0 0 0] } [] = some (.write (wr0 0 0 0)) ∧ (wr0 0 0 0).mask = 2 ^ 64 - 1 ∧
    chosen {} { debt := [(47, 1)] } [] = some (.refresh 47) ∧ chosen {} {} [] = none ∧ ((stack {} {}).hbm 31).deferred = [] := by
  decide +kernel

theorem witness_StacksRefreshRetrainAndChange :
    (let h := (stack {} {}).hbm 31
     h.ready = true ∧ h.phase = 0 ∧ (stack {} {}).isFenced 31 = false ∧ h.deferred = [] ∧ Tab.get false h.lost 31 = false ∧
     h.training ≠ some 30 ∧ h.training = none ∧ h.near 30 ((stack {} {}).local 31) ((stack {} {}).hbmMargin 31) = false) ∧
    ((stack { training := some 31 } {}).hbm 31).training.isSome = true ∧
    (let h := (stack { deferred := [31] } {}).hbm 31
     31 ∈ h.deferred ∧ h.phase = 0 ∧ 31 ≠ (30 : Fin 32).val) ∧ ((stack { phase := 3 } {}).hbm 31).phase ≠ 0 ∧
    ((stack {} {}).mayChange 31 = true ∧
      (let s : State := { stack {} {} with jobs := [(0, { live := true, gen := 1, limit := some 3200, pred := some 0, sent := true, stalls := [1984] })] }
       s.mayChange 31 = true ∧ s.timedOn 31 = [0] ∧
       ({ s with jobs := [(0, { live := true, gen := 1, limit := some 3199, pred := some 0, sent := true, stalls := [1984] })] } : State).mayChange 31 = false)) ∧
    (let h := (stack { training := some 31, fails := [(31, 2)] } {}).hbm 31
     h.training = some (31 : Fin 32).val ∧ h.deferred = [] ∧ 2 ≤ Tab.get 0 h.fails 31) ∧
    bit ((stack {} {}).reg .hbmEvent 31) 2 = false ∧ bit (1 : Word32).toNat 0 = true ∧
    (let h := (stack { phase := 1 } {}).hbm 31
     h.phase = 1 ∧ h.drained = true ∧ h.training = none) ∧
    ((stack { phase := 1 } { rq := [rd0 0 0 0] }).hbm 31).drained = false ∧ ((stack { phase := 2 } {}).hbm 31).phase = 2 ∧
    ((stack { phase := 3 } {}).hbm 31).back = false ∧ ((stack { phase := 3, back := true } {}).hbm 31).back = true := by decide +kernel

/-- Bay 3 with paddock 24 released, whose site n holds v, and its networks 0 and 1 fed from a pin reference. -/
def paddock (n v : Nat) : State :=
  let s := (State.reset.setReg .fabGclk 3 0 17).setReg .fabGclk 3 1 17
  { s with cfg := { pads := [(24, { state := 4, wen := true, sites := [(n, v)] })] } }

theorem witness_FabricClocksAndMemories :
    (2 < 2 ^ selectorBits [true, false].length ∧ muxSelect [true, false] 0 = none ∧ muxSelect [true, false] 2 = some false ∧
      3 < 2 ^ selectorBits [true, false].length ∧ muxSelect [true, false] 3 = none) ∧ 149999 < cellCount ∧
    (State.reset.board.ir ≠ 0 ∧ State.reset.gates (31 * 8 + 15 / 2) = false) ∧
    (let s := State.reset.setReg .fabPllCfg 3 3 (2 ^ 31)
     s.isFenced 3 = false ∧ bit (s.reg .fabPllCfg 3 3) 31 = true ∧ (s.fab 3).lock.getD 3 false = false) ∧
    (let s : State := { State.reset with fabs := [(3, { lock := [true, true, true, true] })] }
     s.isFenced 3 = false ∧ (s.fab 3).lock.getD 3 false = true ∧
     bits ((s.setReg .fabGclk 3 15 16).reg .fabGclk 3 15) 4 0 ∈ [4 * 3 + 1, 4 * 3 + 2, 4 * 3 + 3, 4 * 3 + 4]) ∧
    (let s := State.reset.setReg .fabPllCfg 3 3 (100 * 2 ^ 19)
     bits (16 : Word32).toNat 4 0 = 4 * 3 + 3 + 1 ∧
     800000 * ((bits (s.reg .fabPllCfg 3 3) 28 26 + 1) * (bits (s.reg .fabPllDiv 3 3) (8 * 3 + 7) (8 * 3) + 1)) <
       s.refKhz 3 3 * bits (s.reg .fabPllCfg 3 3) 25 19) ∧
    ((paddock 0 0).gates (3 * 8 + 0 / 2) = true ∧ (paddock 0 0).gates (3 * 8 + 15 / 2) = false ∧ (paddock 0 0).wakes 3 1 = false) ∧
    (let s := paddock 447 0
     let v := s.blockSite 3 447
     s.gates 24 = true ∧ siteQueue v = false ∧ s.netRuns 3 (siteNet v true) = true ∧ siteWidth v true = 1 ∧ (s.pad 24).wen = true ∧
     siteNet v false = siteNet v true ∧ blockByte 3 447 7 ≤ blockByte 3 447 7 ∧ blockByte 3 447 7 < blockByte 3 447 7 + 1 ∧
     Tab.get 0 (s.fab 3).busy 447 < 16 ∧ (s.gates 25 = false ∧ s.isFenced 3 = false) ∧
     16 ≤ Tab.get 0 (({ s with fabs := [(3, { busy := [(447, 16)] })] } : State).fab 3).busy 447) ∧
    (let s := paddock 447 1
     let v := s.blockSite 3 447
     siteQueue v = true ∧ s.queueOn 3 447 false = true ∧ s.queueOn 3 447 true = true ∧ (s.fabQueue 3 447).n < siteDepth v ∧
     siteQWidth v = 4 ∧ siteDepth v = 4096 ∧ (s.fabQueue 3 447).n = 0 ∧
     (({ s with fabs := [(3, { queues := [(447, { n := 4096 })] })] } : State).fabQueue 3 447).n = 4096) := by decide +kernel

/-- A flit for an address. -/
def flit0 (op : BitVec 5) (dest src : Nat) : Flit :=
  { dest := BitVec.ofNat 16 dest, src := BitVec.ofNat 16 src, op := op, pfx := false, pall := false, retry := false, deadline := 9, tag := 5,
    phase := false, line := 0, wpx := 0, wpy := 0, payload := List.replicate 64 0 }

/-- Stall 192, the first of bay 3, whose port is at site 448 of paddock 24, sends or waits for beats. -/
def port (st : Stall) : State := { paddock 448 0 with stalls := [(192, st)] }

theorem witness_PortsAndEndpointsMoveTheirFlits :
    (let b : OBeat := { chan := 15, kind := 0, last := true, poison := false, data := List.replicate 64 3, seq := 2 }
     let s := port { out := [b], engines := [{ active := some { tr0 opFxch 0 with started := true } }, {}, {}, {}] }
     (s.stall 192).out = [b] ∧ s.portMoves 192 = true ∧ { b with kind := 1 }.kind ≠ 0 ∧ bit (0x8000 : BitVec 16).toNat b.chan = true ∧ b.kind = 0 ∧
     ((s.stall 192).engine 0).active = some { tr0 opFxch 0 with started := true } ∧ bit (0x7FFF : BitVec 16).toNat b.chan = false ∧
     State.reset.portMoves 192 = false) ∧
    (((port {}).stall 192).run = none ∧ (port {}).portMoves 192 = true) ∧
    (let s := port { run := some (0, 1) }
     (s.stall 192).run.isSome = true ∧ (Tab.get [] (s.stall 192).inBuf (15 : Fin 16)).length < 16 ∧
     ∀ k < 4, ((s.stall 192).engine k).active = none) ∧
    (let y : Transfer := { tr0 opFxch 1 with started := true }
     let st : Stall := { run := some (0, 1), engines := [{}, {}, {}, { active := some y }] }
     ((port st).stall 192).engine 3 = { active := some y } ∧ st.pulls y = true ∧ y.chan = (15 : Fin 16).val ∧ y.beats < y.beatCount ∧
     ∀ j < 3, (st.engine j).active = none) ∧
    16 ≤ (Tab.get [] ((port { inBuf := [(15, List.replicate 16 { kind := 0, poison := false, data := [] })] }).stall 192).inBuf (15 : Fin 16)).length ∧
    (let s : State := { paddock 456 16 with
       fabs := [(3, { ends := [(0, { hold := [flit0 1 0 0] })] })], lcount := [(3, 70000)] }
     (s.fabEnd 3 0).hold ≠ [] ∧ endWakes (s.endSite 3 0) = true ∧ s.isFenced 3 = false ∧ (s.fabEnd 3 1).hold = [] ∧
     (s.fabEnd 3 0).since + bits (s.reg .nocWakeCtl 3) 15 0 ≤ s.local 3) ∧
    (let s := paddock 463 0
     s.gates 24 = true ∧ (s.pad 24).state = 4 ∧ s.netRuns 3 (portNet (s.endSite 3 7)) = true ∧
     (flit0 6 (addrOf 32 3 1) 0).op = 6 ∧ (flit0 6 (addrOf 32 3 1) 0).dest.toNat = addrOf 32 3 1 ∧
     (addrKind (flit0 6 (addrOf 31 2 63) 0).dest.toNat = 2 ∧ addrBay (flit0 6 (addrOf 31 2 63) 0).dest.toNat ≠ 32) ∧
     (flit0 6 (addrOf 31 1 0) 0).dest.toNat ≠ addrOf 32 3 1 ∧ addrKind (flit0 6 (addrOf 31 1 0) 0).dest.toNat ≠ 2 ∧
     (flit0 0 0 0).cls ≠ 1 ∧ (flit0 0x15 0 0).cls = 1 ∧ endWakes (s.endSite 3 7) = false ∧ State.reset.gates 24 = false ∧
     (({ s with fabs := [(3, { ends := [(7, { hold := [flit0 6 0 0] })] })] } : State).fabEnd 3 7).hold = flit0 6 0 0 :: [] ∧
     s.linkBound (addrOf 3 2 7) = none ∧ ((State.reset.setReg .lnkAtt 7 0 (2 ^ 31)).linkBound (addrOf 7 2 17)).isSome = true) := by decide +kernel

/-- The module whose router r holds a flit in its first channel. -/
def routed (r dest : Nat) (fenced : List Nat) : State :=
  { State.reset with net := { vc := [(r * 64, [{ f := flit0 1 dest 0 }])] }, fenced := fenced.map fun b => (b, true) }

/-- The module where stall 5 of bay 3 has a packet without an answer to bay 7. -/
def owed (held : Bool) (epoch : Nat) (fenced : List Nat) : State :=
  { State.reset with
    net := { sent := [(addrOf 3 0 5, [{ f := flit0 1 (addrOf 7 0 0) (addrOf 3 0 5), held := held }])], epoch := [(3, epoch)] }
    fenced := fenced.map fun b => (b, true) }

theorem witness_PacketsEnterAndAreGranted :
    (let m := flit0 1 (addrOf 31 1 63) (addrOf 3 0 5)
     let s := State.reset
     Tab.get [] s.net.waiting m.src.toNat = [] ∧ s.net.sentTo m.src.toNat m.dest.toNat = [] ∧
     (∀ ph, Tab.get [] s.net.vc (vcKey (homeRouter m.src.toNat) 4 m.cls ph) = []) ∧ m.cls ≠ 1 ∧ (flit0 0x10 0 0).cls = 1 ∧
     endpointExists m.dest.toNat = true ∧ endpointExists (flit0 1 (addrOf 33 0 0) 0).dest.toNat = false ∧
     isBay (routerBay (homeRouter m.src.toNat)) = true) ∧
    (routerNum (.stall 192) = 192 ∧ (State.reset.heads 192 4).filter (State.reset.grantable 192 4) = [] ∧
      (isBay (routerBay 192) && State.reset.isFenced (routerBay 192)) = false) ∧
    (let s := routed 192 (addrOf 3 0 0) []
     (s.heads 192 4).filter (s.grantable 192 4) ≠ [] ∧ s.leave 192 4 = .endpoint) ∧
    (let s := routed 192 (addrOf 3 0 1) []
     (s.heads 192 1).filter (s.grantable 192 1) ≠ [] ∧ s.leave 192 1 = .next 193 3) ∧
    (let s := routed 199 (addrOf 4 0 0) [4]
     (s.heads 199 1).filter (s.grantable 199 1) ≠ [] ∧ s.leave 199 1 = .refused ∧ (flit0 1 0 0).pfx = false ∧ isBay (routerBay 199) = true) ∧
    (let s := State.reset
     linkOf 192 (1 : Fin 8) = some (193, 3) ∧ linkOf 199 (1 : Fin 8) = some (256, 3) ∧ routerBay 199 ≠ routerBay 256 ∧
     Tab.get false s.net.dead (192 * 8 + 1) = false ∧ s.hopBlocked 3 4 = false ∧ s.hopBlocked 4 3 = false ∧
     Tab.get 0 s.net.fails (199 * 8 + 1) < 8 ∧ 8 ≤ Tab.get 0 ({ fails := [(199 * 8 + 1, 8)] } : Net).fails (199 * 8 + 1)) ∧
    bit (1 : Word32).toNat 0 = true ∧
    (let s := owed true 1 []
     let src : BitVec 16 := BitVec.ofNat 16 (addrOf 3 0 5)
     let dest : BitVec 16 := BitVec.ofNat 16 (addrOf 7 0 0)
     s.net.sentTo src.toNat dest.toNat ≠ [] ∧ (s.net.sentTo src.toNat dest.toNat).all Sent.held = true ∧ isBay (addrBay src.toNat) = true ∧
     s.isFenced (addrBay src.toNat) = false ∧ (∀ p ∈ Tab.get [] s.net.waiting src.toNat, p.held = false) ∧
     (isBay (addrBay dest.toNat) && s.isFenced (addrBay dest.toNat)) = false ∧
     (s.net.sentTo src.toNat dest.toNat).any (fun p => p.epoch == Tab.get 0 s.net.epoch (addrBay src.toNat)) = false ∧
     ((owed true 0 []).net.sentTo src.toNat dest.toNat).any (fun p => p.epoch == Tab.get 0 (owed true 0 []).net.epoch 3) = true ∧
     (owed true 1 [7]).isFenced (addrBay dest.toNat) = true) ∧
    State.reset.responds .prb = true ∧ (State.reset.view .bar0).may .prbTraceCtl true = true ∧ bit (0x80000000 : Word32).toNat 31 = true ∧
    bit (0 : Word32).toNat 0 = false := by
  decide +kernel

theorem witness_PacketsAreServedAndAnswered_away :
    (State.reset.deadEnd (flit0 1 (addrOf 32 0 0) 0) = false ∧ State.reset.behind (flit0 1 (addrOf 32 0 0) 0) = false ∧
      endpointExists (addrOf 32 0 0) = false ∧ endpointExists (addrOf 3 0 5) = true ∧ opClass (flit0 1 0 0).op.toNat ≠ none ∧
      opClass (flit0 0x1F 0 0).op.toNat = none ∧ addrBay (addrOf 31 0 0) < 32 ∧
      ({ State.reset with fenced := [(3, true)] } : State).deadEnd (flit0 1 (addrOf 3 0 5) 0) = true ∧
      ({ State.reset with net := { arrived := [(addrOf 3 0 5, [{ flit0 1 (addrOf 3 0 5) 0 with tag := 6 }])] } } : State).behind
        (flit0 1 (addrOf 3 0 5) 0) = true) := by decide +kernel

theorem witness_PacketsAreServedAndAnswered_lines :
    (let f := flit0 2 (addrOf 3 0 5) 0
     let s := State.reset
     ((some { f with pfx := true }).any s.behind = false ∧ (s.takeArrived { f with pfx := true }).turnedAway f = none ∧
       (none : Option Flit).any s.behind = false ∧ wrMasks none f = (2 ^ 64 - 1, 0)) ∧
     lineAddr f = some (coreAddr 197 0, 0xE00000) ∧ f.line.toNat * 64 < 0xE00000 ∧ reaches f = true ∧ addrKind f.dest.toNat ≠ 1 ∧
     placeOf (coreAddr 197 0) = .core 197 0 ∧ 0xE00000 ≤ ({ f with line := 0x38000 } : Flit).line.toNat * 64 ∧
     (lineAddr { f with line := 0x38000 }).isSome = true) ∧
    (let f := flit0 2 (addrOf 3 3 1) (addrOf 7 0 0)
     reaches f = false ∧ (lineAddr f).isSome = true ∧ State.reset.turnedAway f = none) ∧
    (let f := flit0 2 (addrOf 3 3 2) 0
     let s (v : Nat) : State := { State.reset with cfg := { pads := [(24, { state := 4, wen := true, sites := [(0, v)] })] } }
     (lineAddr f).map (fun x => placeOf x.1) = some (.block 3 0) ∧ (s 1).blockIsQueue 3 0 = true ∧ (s 0).blockIsQueue 3 0 = false) ∧
    (let f := flit0 2 (addrOf 3 2 7) 0
     lineAddr f = none ∧ f.dest.toNat ≠ addrOf 32 3 2 ∧ State.reset.turnedAway f = none) ∧
    (let f := flit0 1 (addrOf 31 1 63) 0
     (lineAddr f).isSome = true ∧ reaches f = true ∧ addrKind f.dest.toNat = 1 ∧ (stack {} {}).hbmOpen 31 = true ∧
     (((stack {} {}).hbm 31).pc (addrIdx f.dest.toNat)).rq.length < 64 ∧ (((stack {} {}).hbm 31).pc 63).wq.length < 64 ∧
     State.reset.hbmOpen 31 = false ∧ (({ wq := [wr0 0 0 0] } : PChan).mergeWith f.line.toNat).isSome = true) ∧
    ((flit0 1 (addrOf 32 3 2) 0).dest.toNat = addrOf 32 3 2 ∧ State.reset.turnedAway (flit0 1 (addrOf 32 3 2) 0) = none ∧
      ({ State.reset with hostUp := true } : State).hostUp = true ∧ State.reset.hostUp = false) := by decide +kernel

theorem witness_PacketsAreServedAndAnswered :
    (let f := flit0 6 (addrOf 7 2 17) 0
     let s := State.reset.setReg .lnkAtt 7 0 (2 ^ 31)
     s.linkBound f.dest.toNat = some (0, 0) ∧ s.keptAnswer f = none ∧ s.turnedAway f = none) ∧
    (let f := flit0 6 (addrOf 7 3 23) 0
     addrBay f.dest.toNat < 32 ∧ addrKind f.dest.toNat = 3 ∧ 16 ≤ addrIdx f.dest.toNat ∧ State.reset.turnedAway f = none ∧
     bit ((State.reset.setReg .lnkAtt 7 7 (2 ^ 31)).reg .lnkAtt (addrBay f.dest.toNat) (addrIdx f.dest.toNat - 16)) 31 = true) ∧
    (addrOf 32 3 0 ≠ addrOf 32 3 1 ∧ addrKind (addrOf 31 1 63) < 2 ∧ addrIdx (addrOf 31 3 9) < 16) ∧
    (let f := flit0 6 (addrOf 32 3 1) 0
     State.reset.linkBound f.dest.toNat = none ∧ State.reset.keptAnswer f = none ∧ State.reset.turnedAway f = none ∧
     ({ State.reset with net := { kept := [(f.dest.toNat * 2 ^ 16, [f.answer 0x13 []])] } } : State).keptAnswer { f with retry := true } =
       some (f.answer 0x13 [])) ∧
    (let f := flit0 6 (addrOf 3 2 7) 0
     (paddock 463 0).linkBound f.dest.toNat = none ∧ addrBay f.dest.toNat < 32 ∧ addrKind f.dest.toNat = 2 ∧
     ((paddock 463 0).pad (addrBay f.dest.toNat * 8 + addrIdx f.dest.toNat / 8)).state = 4 ∧ ((paddock 463 0).fabEnd 3 7).hold.length < 4 ∧
     (State.reset.pad (addrBay f.dest.toNat * 8 + addrIdx f.dest.toNat / 8)).state ≠ 4 ∧
     4 ≤ (({ paddock 463 0 with fabs := [(3, { ends := [(7, { hold := List.replicate 4 f })] })] } : State).fabEnd 3 7).hold.length) ∧
    (let f := { flit0 7 (addrOf 3 0 5) (addrOf 32 3 1) with payload := leBytes 64 0x10 }
     State.reset.reaches (State.reset.packetMaster f) (ofLe (f.payload.take 4)) ⟨.glbEvent, 0, 0, 0⟩ false false ∧
     Rn.glbEvent.spec.wide = false ∧ State.reset.turnedAway f = none ∧ State.reset.linkBound f.dest.toNat = none) ∧
    (let a := flit0 0x11 (addrOf 3 2 7) 0
     State.reset.turnedAway a = none ∧ State.reset.closedEnd a = true) ∧
    (let a := flit0 0x10 (addrOf 3 0 5) (addrOf 7 0 0)
     (owed false 0 []).turnedAway a = none ∧ (owed false 0 []).closedEnd a = false ∧
     (Tab.get [] (owed false 0 []).net.sent a.dest.toNat).find? (fun x => x.f.dest == a.src && x.f.tag == { a with tag := 6 }.tag) = none ∧
     (Tab.get [] (owed false 0 []).net.sent a.dest.toNat).find? (fun x => x.f.dest == a.src && x.f.tag == a.tag) =
       some { f := flit0 1 (addrOf 7 0 0) (addrOf 3 0 5) } ∧
     (isBay (addrBay (addrOf 7 0 0)) && (owed false 0 []).isFenced (addrBay (addrOf 7 0 0))) = false ∧
     (isBay (addrBay (addrOf 7 0 0)) && (owed false 0 [7]).isFenced (addrBay (addrOf 7 0 0))) = true ∧
     a.payload.getD 0 0 ≠ 1 ∧ a.payload.getD 0 0 ≠ 5 ∧ addrKind a.dest.toNat ≠ 2 ∧
     ({ a with payload := leBytes 64 5 } : Flit).payload.getD 0 0 = 5) ∧
    (let f := flit0 1 (addrOf 7 0 0) (addrOf 3 2 5)
     let a := { flit0 0x15 (addrOf 3 2 5) (addrOf 7 0 0) with payload := leBytes 64 4 }
     (Tab.get [] ({ sent := [(addrOf 3 2 5, [{ f := f }])] } : Net).sent a.dest.toNat).find? (fun x => x.f.dest == a.src && x.f.tag == a.tag) =
       some { f := f } ∧ addrKind a.dest.toNat = 2 ∧ addrBay a.dest.toNat ≠ 32 ∧ 2 ≤ (a.payload.getD 0 0).toNat ∧ (a.payload.getD 0 0).toNat ≤ 4 ∧
     (paddock 463 0).closedEnd a = false ∧ (paddock 463 0).linkBound a.dest.toNat = none ∧ (paddock 463 0).turnedAway a = none) := by
  unfold State.reaches; decide +kernel

/-- A trace record in the second half of a line goes with the upper 32 enables and no poison (R346, R359), and waits in the two flits of
its packet at the writer's source. -/
theorem test_trace_record_packet :
    (let p := wrPacket 0 1024 7 3 4095 32 (List.replicate 32 9)
     wrMasks p.pre p.f = ((2 ^ 32 - 1) * 2 ^ 32, 0) ∧ p.f.payload.length = 64 ∧ p.f.payload[31]? = some 0 ∧ p.f.payload[32]? = some 9 ∧
       p.flits.map Flit.pfx = [true, false]) ∧
    (let s := (State.reset.modNet fun n => { n with tracers := [(3, { recs := [(1, List.replicate 32 9)] })] }).drainTracer 3
     (Tab.get [] s.net.sent (traceSource 3)).map (fun p => (p.f.dest.toNat, p.f.line.toNat, p.f.deadline.toNat)) = [(256, 0, 4095)] ∧
       (Tab.get {} s.net.tracers 3).recs = []) := by decide +kernel

/-- A configuration with paddock 24 of bay 3 in a state. -/
def cfgd (session : Nat) (p : Pad) : State := { State.reset with cfg := { session := session, pads := [(24, p)] } }

theorem sha384_ne_nil (bs : List Byte) : sha384 bs ≠ [] := by
  unfold sha384
  exact fun h => absurd (congrArg List.length h) (by rw [List.flatMap_cons]; simp [beBytes, leBytes])

theorem padDigest_congr {s t : State} (h : s.cfg.frames = t.cfg.frames) (p : Nat) : s.padDigest p = t.padDigest p := by
  unfold State.padDigest
  rw [h]

theorem witness_SessionsReleasesAndAudits :
    (State.reset.responds .cfg = true ∧ (State.reset.view (.selay 0)).may .cfgErrpin true = true ∧
      (State.reset.view (.selay 0)).may .cfgLoadCmd true = true ∧ (State.reset.view (.selay 0)).may .cfgSession true = true) ∧
    (bits (0x400000FF : Word32).toNat 31 30 = 1 ∧ State.reset.cfg.load = none ∧ bits (0x800000FF : Word32).toNat 31 30 = 2 ∧
      bits (0x800000FF : Word32).toNat 7 0 = 255 ∧ State.reset.isFenced (255 / 8) = false) ∧
    (bits (1 : Word32).toNat 1 0 = 1 ∧ State.reset.cfg.session = 0 ∧ bits (2 : Word32).toNat 1 0 = 2 ∧ (cfgd 3 {}).cfg.session = 3) ∧
    (let s : State := { (cfgd 1 {}).setReg .cfgCtl 0 0 1 with lcount := [(32, 100000)] }
     s.cfg.session = 1 ∧ bits (s.reg .cfgCtl 0) 15 0 = 1 ∧ s.cfg.ended + 1 * 100000 ≤ s.local 32 ∧ s.cfg.doneHigh = false ∧
     s.cfg.waited = false ∧ bits (State.reset.reg .cfgCtl 0) 15 0 = 0 ∧ State.reset.cfg.session ≠ 1 ∧
     16 ≤ ({ session := 1, doneRun := 15 } : Cfg).doneRun + 1 ∧ ({ session := 1, waited := true } : Cfg).waited = true) ∧
    ((cfgd 2 { state := 2 }).isFenced 3 = false ∧ ((cfgd 2 { state := 2 }).pad 24).state = 2 ∧ (cfgd 2 { state := 2 }).cfg.session = 2 ∧
      (cfgd 2 { state := 2 }).board.ir ≠ 0) ∧
    (let s : State := { cfgd 2 { state := 3, t1 := 5 } with lcount := [(3, 5)] }
     (s.pad 24).state = 3 ∧ (s.pad 24).wen = false ∧ (s.pad 24).at_ + max 1 (s.pad 24).t1 ≤ s.local 3) ∧
    (let s : State := { cfgd 2 { state := 3, wen := true } with lcount := [(3, 1)] }
     (s.pad 24).wen = true ∧ (s.pad 24).at_ + max 1 (s.pad 24).t2 ≤ s.local 3 ∧ (cfgd 2 { state := 3 }).local 3 < ((cfgd 2 { state := 3 }).pad 24).at_ + 1) ∧
    (let s : State := cfgd 2 { state := 4 }
     (Tab.get ({} : Auditor) s.cfg.audits 3).frame + 1 < 14336 ∧ (Tab.get ({} : Auditor) s.cfg.audits 3).pad < 8 ∧ s.isFenced 3 = false) := by
  decide +kernel

/-- A paddock whose digest is right, and one whose digest is not, at the last frame of an audit. -/
theorem witness_SessionsReleasesAndAudits_digest :
    let s (d : List Byte) : State := { State.reset with
      cfg := { pads := [(24, { state := 2, digest := d })], audits := [(3, { pad := 0, frame := 14335, whole := true })] } }
    (∀ d, d = State.reset.padDigest 24 → (s d).padDigest 24 = ((s d).pad 24).digest) ∧
    (s []).padDigest 24 ≠ ((s []).pad 24).digest ∧ (Tab.get ({} : Auditor) (s []).cfg.audits 3).frame = 14335 ∧
    (Tab.get ({} : Auditor) (s []).cfg.audits 3).whole = true ∧ 2 ≤ ((s []).pad 24).state :=
  ⟨fun d h => ((padDigest_congr rfl 24).trans h.symm : _ = d), sha384_ne_nil _, rfl, rfl, by decide⟩

/-- CFG_FP64 as the fingerprint leaves it, and another value. -/
theorem witness_SessionsReleasesAndAudits_fingerprint (x : Nat) (hx : x = ofLe ((sha384 State.reset.fpBytes).take 8)) :
    ofLe ((sha384 (State.reset.setReg .cfgFp64 0 0 x).fpBytes).take 8) = (State.reset.setReg .cfgFp64 0 0 x).reg .cfgFp64 0 ∧
    ofLe ((sha384 (State.reset.setReg .cfgFp64 0 0 (x + 1)).fpBytes).take 8) ≠ (State.reset.setReg .cfgFp64 0 0 (x + 1)).reg .cfgFp64 0 := by
  have h (v : Nat) : (State.reset.setReg .cfgFp64 0 0 v).fpBytes = State.reset.fpBytes := by
    have g {n : Rn} (w : Nat) (hw : (RegAt.mk n 0 w 0).off ≠ (RegAt.mk .cfgFp64 0 0 0).off) :
        (State.reset.setReg .cfgFp64 0 0 v).reg n 0 w = State.reset.reg n 0 w := State.regAt_setRegAt_ne _ _ _ _ hw
    have b (n : Rn) (hn : ∀ w < 12, (RegAt.mk n 0 w 0).off ≠ (RegAt.mk .cfgFp64 0 0 0).off) :
        (State.reset.setReg .cfgFp64 0 0 v).regBytes n 12 = State.reset.regBytes n 12 := by
      unfold State.regBytes
      exact List.flatMap_congr fun w hw => by rw [g w (hn w (List.mem_range.mp hw))]
    have p : (State.reset.setReg .cfgFp64 0 0 v).pad = State.reset.pad := by
      funext q
      unfold State.pad
      rw [(State.setReg_fields _ _ _ _ _).2.2.2.2.2.2.2.2.2.2.2.2.2.2.2.2.2.2.2.2.2.2.2.2.2.2.1]
    unfold State.fpBytes
    rw [p, b .secFwDigest (by decide), b .cfgSpdigest (by decide), g 0 (by decide)]
  have r (v : Nat) : (State.reset.setReg .cfgFp64 0 0 v).reg .cfgFp64 0 = v := State.regAt_setRegAt_same _ _ _
  rw [h, h, r, r, ← hx]
  omega

/-- A load of one region, frames 0 to 14335 and no memory of paddock 24, at a stage. -/
def region0 (d : List Byte) : Region :=
  { pad := 24, ffirst := 0, flast := 14335, mfirst := 0, mlast := 0, mem := false, digest := d, nets := [], plls := [], rsv := false }
def load0 (stage : Nat) (d : List Byte) (started : List (Nat × Nat)) : Load :=
  { stage := stage, host := false, addr := 0, len := 66064, target := 24, mlen := 192, nblk := 1, regions := [region0 d], started := started }
def loads (l : Load) : State := { State.reset with cfg := { load := some l, pads := [(24, { state := 1 })] } }

/-- The loader's refusals and the stages after it. -/
theorem witness_TheLoaderChecksAndCommits :
    (((cfgd 1 {}).loadChecks (load0 1 [] [])).1 = some 1 ∧ (State.reset.loadChecks (load0 1 [] [])).1 = some 2) ∧
    ((loads (load0 1 [] [])).cfg.load = some (load0 1 [] []) ∧ (load0 1 [] []).stage = 1) ∧
    ((loads (load0 2 [] [])).cfg.load = some (load0 2 [] []) ∧ (load0 2 [] []).stage = 2) ∧
    (let l : Load := { load0 3 [] [] with host := true }
     (State.reset.streamRead l (256 + l.mlen) 65616).2 = false ∧ blockFormOk l ((State.reset.streamRead l 448 65616).1.take 64) = false) ∧
    ((State.reset.streamRead (load0 3 [] []) 448 65616).2 = true) ∧
    (let s := State.reset.write 448 ([0, 0, 0, 0, 0, 1, 24, 0, 0, 0, 1]) false
     blockFormOk (load0 3 [] []) ((s.streamRead (load0 3 [] []) 448 65616).1.take 64) = true ∧ s.chosenKey 0 = none) ∧
    (let s : State := { loads (load0 5 [] [(3, 1)]) with fabs := [(3, { lock := [true, true, true, true] })] }
     (load0 5 [] [(3, 1)]).started ≠ [] ∧ ∀ x ∈ (load0 5 [] [(3, 1)]).started, (s.fab x.1).lock.getD x.2 false = true) ∧
    (let s : State := { loads (load0 5 [] [(3, 1)]) with lcount := [(32, 10000)] }
     (s.fab 3).lock.getD 1 false = false ∧ (load0 5 [] [(3, 1)]).since + 10000 ≤ s.local 32) ∧
    ((load0 5 [] []).started = [] ∧ ((load0 5 [] []).regions.map Region.pad).Nodup) := by decide +kernel

theorem witness_TheLoaderChecksAndCommits_digest :
    (∀ d, d = State.reset.padDigest 24 → ∀ r ∈ (load0 4 d []).regions, (loads (load0 4 d [])).padDigest r.pad = r.digest) ∧
    ∃ r ∈ (load0 4 [] []).regions, (loads (load0 4 [] [])).padDigest r.pad ≠ r.digest :=
  ⟨fun d h r hr => by rw [List.mem_singleton.mp hr]; exact (padDigest_congr rfl 24).trans h.symm, region0 [], List.mem_singleton.mpr rfl, sha384_ne_nil _⟩

/-- A state with port 3, and one with LNK_CTL of bay 31 as well. -/
def linked (l : Link) : State := { State.reset with links := [(3, l)] }
def linkedAt (l : Link) (ctl : Nat) : State := (linked l).setReg .lnkCtl 31 0 ctl

/-- A CONFIG frame of a peer. -/
def peer0 (module maxrate fp : Nat) : PeerConfig :=
  { version := 1, module := BitVec.ofNat 16 module, port := 0, maxrate := BitVec.ofNat 2 maxrate, fp64 := BitVec.ofNat 64 fp, epoch := 0 }

theorem witness_LinksTrainAndSleep :
    (State.reset.isFenced 31 = false ∧ State.reset.responds .lnk = true ∧ (State.reset.view .bar0).may .lnkCtl true = true ∧
      bit (0x80000000 : Word32).toNat 31 = true ∧ (State.reset.link 3).state = 0 ∧ (linked { state := 5 }).link 3 = { state := 5 } ∧
      ((linked { state := 7 }).link 3).state = 7 ∧ bit (0x80000000 : Word32).toNat 21 = false ∧ bit (0x80200000 : Word32).toNat 21 = true ∧
      (State.reset.view (.bar2 0)).may .lnkCtl true = false ∧ ({ State.reset with fenced := [(31, true)] } : State).isFenced 31 = true ∧
      bit (0 : Word32).toNat 31 = false) ∧
    (((linked { state := 1 }).link 3).state = 1 ∧
      (let l : Link := { state := 2, signal := 0xFFFF }
       l.signal &&& (linked l).usable 3 &&& 0xFF ≠ l.signal &&& (linked l).usable 3 ∧
       l.signal &&& (linked l).usable 3 &&& 0xFFFF = l.signal &&& (linked l).usable 3) ∧
      (let l : Link := { state := 4, live := 0xFFFF }; l.state = 4 ∧ l.live &&& (0xFFFF : BitVec 16).toNat = l.live) ∧
      ({ state := 8 } : Link).state = 8) ∧
    (let s := linkedAt { state := 2, lock := 0xF } (4 * 2 ^ 23)
     bits (s.reg .lnkCtl 31) 27 23 ≤ lanesIn ((s.link 3).lock &&& s.usable 3)) ∧
    (let s := linkedAt { state := 2, lock := 0x7, retrain := true } (4 * 2 ^ 23)
     lanesIn ((s.link 3).lock &&& s.usable 3) < bits (s.reg .lnkCtl 31) 27 23) ∧
    (let s := linkedAt { state := 3, width := 16, rate := 1 } (16 * 2 ^ 23 + 2 * 2 ^ 28)
     (s.link 3).state = 3 ∧ bits (s.reg .lnkCtl 31) 27 23 ≤ (s.link 3).width ∧
     (s.link 3).rate < min (bits (s.reg .lnkCtl 31) 29 28) (peer0 0 3 0).maxrate.toNat ∧
     min (bits (s.reg .lnkCtl 31) 29 28) (peer0 0 1 0).maxrate.toNat ≤ (s.link 3).rate ∧ (s.link 3).compat = false ∧
     (s.link 3).retrain = false ∧ (s.link 3).fellBack = false) ∧
    (let s := linkedAt { state := 3, width := 8 } (16 * 2 ^ 23)
     (s.link 3).width < bits (s.reg .lnkCtl 31) 27 23) ∧
    (let s := linkedAt { state := 8, lock := 0x7F } (8 * 2 ^ 23)
     (s.link 3).state = 8 ∧ widthOf (lanesIn ((s.link 3).lock &&& s.usable 3)) < bits (s.reg .lnkCtl 31) 27 23 ∧
     bits ((linkedAt { state := 8, lock := 0xFF } (8 * 2 ^ 23)).reg .lnkCtl 31) 27 23 ≤
       widthOf (lanesIn (0xFF &&& (linkedAt { state := 8, lock := 0xFF } (8 * 2 ^ 23)).usable 3))) ∧
    (let p := peer0 7 3 9
     let l : Link := { state := 5, slots := [(3, [1, p.version] ++ leBytes 2 7 ++ [0, 3] ++ [0, 0] ++ leBytes 8 9 ++ leBytes 4 0)] }
     (l.slotIs 3 ([1, p.version] ++ leBytes 2 p.module.toNat ++ leBytes 1 p.port.toNat ++ leBytes 1 p.maxrate.toNat) &&
       ((l.slots.headD (0, [])).2.drop 8).take 12 == leBytes 8 p.fp64.toNat ++ leBytes 4 p.epoch.toNat) = true) ∧
    (let s := (linkedAt { state := 3, width := 16 } (2 ^ 22)).setReg .lnkId 31 0 (7 * 2 ^ 16)
     bits (s.reg .lnkId 31) 31 16 ≠ 0 ∧ bits (s.reg .lnkId 31) 31 16 ≠ (peer0 8 0 0).module.toNat ∧
     bits (s.reg .lnkId 31) 31 16 = (peer0 7 0 0).module.toNat ∧ bit (s.reg .lnkCtl 31) 22 = true ∧
     (peer0 7 0 1).fp64.toNat ≠ s.reg .cfgFp64 0 ∧ (peer0 7 0 0).fp64.toNat = s.reg .cfgFp64 0 ∧ (s.link 3).fresh = true ∧
     ∀ x ∈ (s.link 3).atts, x.waiting = []) ∧
    (({ state := 4, falling := true } : Link).falling = true ∧ ({ state := 4, falling := false, tries := 0 } : Link).tries = 0 ∧
      ({ state := 4, falling := false, tries := 1 } : Link).tries ≠ 0) ∧
    (let l : Link := { state := 6, live := 0xFFFF, sent := [{ num := 0, kind := 3, body := [] }] }
     l.state = 6 ∧ bit l.live 15 = true ∧ l.sent ≠ []) ∧
    (let s := linkedAt { state := 5 } (2 ^ 21)
     bit (s.reg .lnkCtl 31) 21 = true ∧ (s.link 3).sent.length < 1024 ∧ (s.link 3).state = 5 ∧
     ({ state := 5, asked := true } : Link).asked = true) ∧
    ((linked { state := 5 }).link 3).idle = true ∧ ({ state := 5, sent := [{ num := 0, kind := 3, body := [] }] } : Link).idle = false ∧
    ((linked { state := 5, slots := [(3, [3, 0])] }).link 3).slotIs 3 [3] = true ∧
    ((linked { state := 5, slots := [(3, [4, 0])] }).link 3).slotIs 3 [4] = true ∧
    ((linked { state := 7 }).link 3).state = 7 := by
  decide +kernel

/-- A port in compatibility mode receives what a port in that mode sends. -/
theorem receive_frameLine (c : Codeword) (h : Nat) (hh : ofLe (leBytes 3 c.header) = h) :
    ∃ z, (Link.receive { state := 5, compat := true } (frameLine 0 0 c).1) = (some (Codeword.of h c.body, 0), 0, z) := by
  refine ⟨(frameLine 0 0 c).2, ?_⟩
  have r := receiveFrame_frameLine 0 c
  rw [hh] at r
  generalize (frameLine 0 0 c) = f at r ⊢
  unfold Link.receive
  rw [if_pos rfl]
  show (match receiveFrame 0 f.1 with | (c, z) => (c.map fun c => (c, 0), 0, z)) = _
  rw [r]
  rfl

/-- Lines of compatibility mode that give a codeword of the next stream index and of another, numbered and not, and an empty line. -/
theorem witness_LinksCarryFlitsReliably_lines :
    (∃ c z, (Link.receive { state := 5, compat := true } (frameLine 0 0 ⟨false, 0, []⟩).1) = (some (c, 0), 0, z) ∧
      c.unnum = false ∧ c.stridx = 0 % 8) ∧
    (∃ c z, (Link.receive { state := 5, compat := true } (frameLine 0 0 ⟨true, 0, []⟩).1) = (some (c, 0), 0, z) ∧
      c.unnum = true ∧ c.stridx = 0 % 8) ∧
    (∃ c z, (Link.receive { state := 5, compat := true } (frameLine 0 0 ⟨false, 7, []⟩).1) = (some (c, 0), 0, z) ∧
      c.unnum = false ∧ c.stridx ≠ 0 % 8) ∧
    ∃ e z, Link.receive { state := 5 } [] = (none, e, z) :=
  have a := receive_frameLine ⟨false, 0, []⟩ 0 (by decide)
  have b := receive_frameLine ⟨true, 0, []⟩ 0x10000 (by decide)
  have c := receive_frameLine ⟨false, 7, []⟩ 0xE0000 (by decide)
  ⟨⟨_, a.choose, a.choose_spec, by unfold Codeword.of; decide, by unfold Codeword.of; decide⟩,
    ⟨_, b.choose, b.choose_spec, by unfold Codeword.of; decide, by unfold Codeword.of; decide⟩,
    ⟨_, c.choose, c.choose_spec, by unfold Codeword.of; decide, by unfold Codeword.of; decide⟩, _, _, rfl⟩

/-- A FLIT slot of flit f, a FP slot, and a checker in lock. -/
def flitSlot (f : Flit) : Nat × List Byte := (1, f.wire.take 78 ++ [0, 0])
def fpSlot (fp : Nat) : Nat × List Byte := (3, [2, 0, 0, 0, 0, 0, 0, 0] ++ leBytes 8 fp ++ leBytes 4 9)
def sent0 (n replays : Nat) : Numbered := { num := n, kind := 1, body := [], f := some (flit0 6 3 1), replays := replays }

theorem witness_LinksCarryFlitsReliably :
    State.reset.isFenced 31 = false ∧ ((State.reset.link 3).state ≠ 5 ∧ (State.reset.link 3).state ≠ 6) ∧
    (State.reset.link 3).slotIs 2 (controlBytes 0 false []) = false ∧ (State.reset.link 3).slotIs 1 ((Flit.wire (flit0 6 3 1)).take 78) = false ∧
    (State.reset.link 3).slotIs 3 [2] = false ∧
    (let l : Link := { state := 5, marks := [(0, 7)] }
     l.lanes.getD (l.rxIdx % max 1 l.width) 0 = 0 ∧ (([] : List (Fin 4)).take 16 == markerOf 0) = false ∧ l.compat = false ∧
     8 ≤ Tab.get 0 l.marks 0 + 1 ∧ Tab.get 0 ({ state := 5 } : Link).marks 0 + 1 < 8 ∧ 4 < (5 : Fin 16).val ∧ (4 : Fin 16).val ≤ 4) ∧
    ({ naking := true } : Link).naking = true ∧ 1024 ≤ ({ sent := List.replicate 1024 (sent0 0 0) } : Link).sent.length ∧
    (let l : Link := { state := 5, rx := 0xFFFFFFFF }; l.state = 5 ∧ l.naking = false ∧ (0xFFFFFFFF : Word32).toNat = l.rx ∧ (0 : Word32).toNat ≠ l.rx) ∧
    (let l : Link := { state := 5, slots := [(2, controlBytes 7 true [64])], sent := [sent0 6 0, sent0 7 0, sent0 8 7] }
     l.slotIs 2 (controlBytes 7 true [64]) = true ∧ (∀ x ∈ l.atts, x.waiting = []) ∧ l.sent = [sent0 6 0, sent0 7 0] ++ [sent0 8 7] ∧
     (∃ p x, [sent0 6 0, sent0 7 0] = p ++ [x] ∧ x.num = (7 : Word32).toNat ∧ ∀ y ∈ p, y.num ≠ (7 : Word32).toNat)) ∧
    (let l : Link := { state := 5, slots := [(2, controlBytes 5 false [])], sent := [sent0 6 0] }
     l.slotIs 2 (controlBytes 5 false []) = true ∧ l.sent = [] ++ [sent0 6 0] ∧ ∀ y ∈ [sent0 6 0], y.num ≠ (5 : Word32).toNat) ∧
    ([sent0 8 7].any (fun x => decide (8 ≤ x.replays + 1)) = true ∧ [sent0 8 6].any (fun x => decide (8 ≤ x.replays + 1)) = false ∧
      [sent0 8 7].takeWhile (fun x => x.kind != 1) = []) ∧
    (let s := (linked { state := 5, slots := [flitSlot (flit0 6 3 1)] }).setReg .lnkAtt 31 3 0x80001007
     (s.link 3).slotIs 1 ((Flit.wire (flit0 6 3 1)).take 78) = true ∧ bit (s.reg .lnkAtt 31 ((flit0 6 3 1).dest.toNat % 8)) 31 = true ∧
     bit (State.reset.reg .lnkAtt 31 ((flit0 6 3 1).dest.toNat % 8)) 31 = false) ∧
    (let s := linkedAt { state := 6, mmcause := 1, slots := [fpSlot 0] } (2 ^ 22)
     (s.link 3).compat = false ∧ bit (s.reg .lnkCtl 31) 22 = true ∧ (0 : Word64).toNat = s.reg .cfgFp64 0 ∧ (s.link 3).mmcause = 1 ∧
     (s.link 3).slotIs 3 ([2, 0, 0, 0, 0, 0, 0, 0] ++ leBytes 8 (0 : Word64).toNat ++ leBytes 4 (9 : Word32).toNat) = true) ∧
    (let s := linkedAt { state := 5, slots := [fpSlot 1] } (2 ^ 22)
     (1 : Word64).toNat ≠ s.reg .cfgFp64 0 ∧
     (s.link 3).slotIs 3 ([2, 0, 0, 0, 0, 0, 0, 0] ++ leBytes 8 (1 : Word64).toNat ++ leBytes 4 (9 : Word32).toNat) = true) ∧
    ((linked { state := 5, sent := [sent0 0 0] }).link 3).sent.length < 1024 ∧
    (State.reset.responds .lnk = true ∧ (State.reset.view .bar0).may .lnkFecInj true = true ∧ bits (1 : Word32).toNat 4 0 ≠ 0 ∧
      (State.reset.view .bar0).may .lnkLaneCtl true = true ∧ bit (0x8000000 : Word32).toNat 27 = true ∧ bits (0x80000000 : Word32).toNat 4 0 = 0 ∧
      (State.reset.view (.bar2 0)).may .lnkFecInj true = false ∧ (State.reset.view (.bar2 0)).may .lnkLaneCtl true = false ∧
      bit (0 : Word32).toNat 27 = false) ∧
    (let s := (linked { checks := [(15, { locked := true })] }).setReg .lnkLaneCtl 31 15 0xB000A5A5
     bit (s.reg .lnkLaneCtl 31 15) 31 = true ∧ bits (s.reg .lnkLaneCtl 31 15) 29 28 = 3 ∧
     (Tab.get ({} : Checker) (s.link 3).checks 15).locked = true ∧ bit (State.reset.reg .lnkLaneCtl 31 15) 31 = false ∧
     (Tab.get ({} : Checker) (s.link 3).checks 15).expect 3 0xA5A5 = some true) := by
  refine ⟨by decide, by decide, by decide, by decide, by decide, by decide, by decide, le_of_eq List.length_replicate.symm, by decide, ⟨by decide, by decide, by decide, [sent0 6 0], sent0 7 0, by decide, by decide, by decide⟩, ?_⟩
  decide +kernel

/-- The module on the CXL link, with the stacks at host physical address 0; the stack of bay 31 is ready. -/
def hosted (p : PChan) : State := { stack {} p with hdm := some 0, hostUp := true }

/-- Mailbox i with OPC op, LEN len and a payload, in a state of the frame. -/
def frame (st op len : Nat) (payload : List Byte) : Mbox :=
  { state := st, req := writeBytes [] 0x110 (leBytes 2 op ++ leBytes 2 len ++ List.replicate 12 0 ++ payload) }

theorem witness_HostLinkWindowAndDoe_link :
    ({ State.reset with hostUp := true } : State).hostUp = true ∧
    (let s : State := { State.reset with hostWait := true, queues := [(63, { en := true, tail := 1, f := 4, c := 4 })] }
     s.hostUp = false ∧ s.hostWait = true ∧ s.reading (s.queue 63) = true ∧ ∀ e ∈ s.queues, e.1 = 1 → s.reading e.2 = false) ∧
    (State.reset.hostWait = false ∧ linkRateOk 3 16 = false ∧ 0x20000000 % 2 ^ 28 = 0 ∧ 0x20000001 % 2 ^ 28 ≠ 0) ∧
    (State.reset.hostUp = false ∧ State.reset.board.powered = true ∧ State.reset.board.held = false ∧ linkRateOk 32 16 = true) ∧
    ((hosted {}).hdm = some 0 ∧ (hosted {}).hostUp = true ∧ 0 ≤ 0x2FFFFFFFFFF ∧ 0x2FFFFFFFFFF < 0 + 0x30000000000 ∧
      (0x2FFFFFFFFFF - 0) / 64 * 64 / 0x1800000000 = 31 ∧ (hosted {}).isFenced 31 = false ∧ (hosted {}).hbmOpen 31 = true ∧
      (((hosted {}).hbm 31).pc (hbmPc ((0x2FFFFFFFFFF - 0) / 64 * 64 % 0x1800000000))).rq.length < 64 ∧
      (((hosted {}).hbm 31).pc (hbmPc ((0x2FFFFFFFFFF - 0) / 64 * 64 % 0x1800000000))).wq.length < 64) ∧
    ({ hosted {} with fenced := [(31, true)] } : State).isFenced 31 = true := by decide +kernel

theorem witness_HostLinkWindowAndDoe_mailboxes :
    State.reset.responds .hst = true ∧ (4095 : Fin 4096).val % 8 = 7 ∧
    (bits (0x40000000 : Word32).toNat 31 30 = 1 ∧ (State.reset.mbox 15).state = 0 ∧ ({ state := 3 } : Mbox).state ≠ 0) ∧
    ((15 : MailboxId).val = 8 + 7 ∧ bits (0xC0000000 : Word32).toNat 31 30 = 3 ∧ ({ state := 1, owner := some 4095 } : Mbox).owner = some 4095 ∧
      ({ state := 3, owner := some 4095 } : Mbox).state = 3 ∧ ({ state := 2 } : Mbox).state = 2) ∧
    ((State.reset.view .bar0).may .hstMbOwner true = true ∧ bit (0 : Word32).toNat 31 = false) ∧
    (bits (0x80000000 : Word32).toNat 31 30 = 2 ∧ (State.reset.view .bar0).may .hstStatus true = true ∧ (7 : MailboxId).val < 8) ∧
    ((frame 1 0x33 1760 []).len ≤ 1760 ∧ (frame 1 0x33 1760 []).opc ∈ mailOpcodes ∧ 1760 < (frame 1 0x33 1761 []).len ∧
      (frame 1 0x35 4 []).opc ∉ mailOpcodes ∧ (frame 1 0x35 4 []).drop = false) := by decide +kernel

theorem witness_HostLinkWindowAndDoe_doe : ({ State.reset with hostUp := true, fw := true } : State).fw = true ∧ 4096 < 4097 ∧ 4096 ≤ 4096 := by
  decide

/-- Mailbox mb awaits the answer to a command. -/
def waitsIn (s : State) (mb : Nat) (m : Mbox) : State := { s with fw := true, mboxes := [(mb, m)] }

/-- A request stands in a mailbox, as a check that runs. -/
def asking (s : State) (mb op size : Nat) (all : Bool) : Bool :=
  s.fw && (s.mbox mb).state == 2 && (s.mbox mb).opc == op && decide (size ≤ (s.mbox mb).len) && decide ((s.mbox mb).len ≤ 1760) &&
    (s.mbox mb).zeroTail && !(s.mbox mb).drop && (all || decide (mb < 8))

theorem asks_of_asking {s : State} {mb op size : Nat} {all : Bool} (h : asking s mb op size all = true) :
    s.Asks mb op size all (s.mbox mb) := by
  simp only [asking, Bool.and_eq_true, Bool.not_eq_true', Bool.or_eq_true, beq_iff_eq, decide_eq_true_eq] at h
  obtain ⟨⟨⟨⟨⟨⟨⟨a, b⟩, c⟩, d⟩, e⟩, f⟩, g⟩, i⟩ := h
  exact ⟨rfl, a, b, c, d, e, f, g, fun h8 => i.resolve_right (by omega)⟩

/-- The FQ_CONFIG payload of queue 63 with rings in the stack of bay 0, and with a HEAD line that does not exist. -/
def fqArgs (cb : Nat) : List Byte :=
  leBytes 1 63 ++ leBytes 1 1 ++ leBytes 1 4 ++ leBytes 1 16 ++ leBytes 2 0xFFFF ++ leBytes 2 0 ++ leBytes 8 cb ++ leBytes 8 0x1000 ++
    leBytes 8 0x3000 ++ leBytes 8 0 ++ leBytes 1 8 ++ List.replicate 7 0 ++ leBytes 8 0x10000 ++ leBytes 8 0 ++ leBytes 8 0 ++ leBytes 4 9 ++
    leBytes 4 0

theorem witness_MailboxCommandsOnQueuesAndJobs_queues :
    (MailCmd 15 false none (.ctxRead 15) 0x33 true 4 ∧ MailCmd 15 false none (.fqStop 15) 0x11 false 1) ∧
    ((frame 2 0x33 3 []).len < 4 ∧ { frame 2 0x33 4 [] with req := [(0x118, 1)] }.zeroTail = false ∧ (frame 1 0x33 4 []).state ≠ 2) ∧
    asking (waitsIn fed 15 (frame 2 0x01 0 [])) 15 0x01 0 true = true ∧
    (let m := frame 2 0x10 80 (fqArgs 0)
     asking (waitsIn fed 7 m) 7 0x10 80 false = true ∧ m.arg 1 1 < 8 ∧ m.zero 6 8 = true ∧ m.zero 41 48 = true ∧ m.zero 76 80 = true ∧
     fqRange m = false ∧ (waitsIn fed 7 m).queueBusy 63 = false ∧ ((waitsIn fed 7 m).queue 63).waiting = [] ∧
     (waitsIn fed 7 m).linkWaits (m.newQueue {}) = false ∧ ((waitsIn fed 7 m).ringRead (m.newQueue {}) (m.newQueue {}).cb 64).isSome = true ∧
     ({ waitsIn fed 7 m with fenced := [(0, true)] } : State).ringRead (m.newQueue {}) (m.newQueue {}).cb 64 = none) ∧
    fqRange (frame 2 0x10 80 (fqArgs 64)) = true ∧
    ({ State.reset with jobs := [(1023, { live := true, queue := 63 })] } : State).queueBusy 63 = true ∧
    (asking (waitsIn fed 7 (frame 2 0x11 1 [64])) 7 0x11 1 false = true ∧ 64 ≤ (frame 2 0x11 1 [64]).arg 0 1 ∧
      (frame 2 0x11 1 [63]).arg 0 1 < 64 ∧ (fed.queue 63).en = false ∧ (fed.queue 0).en = true) := by
  refine ⟨⟨by unfold MailCmd; decide, by unfold MailCmd; decide⟩, ?_⟩
  decide +kernel

/-- The module with the live job of slot 1023, which waits for the answers to two notices. -/
def noticed (as : List Nat) : State :=
  { fed with jobs := [(1023, { live := true, asking := true, notices := as, aseq := 5, queue := 0, gen := 2 })] }

/-- A context of queue 63 in the payload, with its state and the context's number. -/
def ctxArgs (c state : Nat) : List Byte := leBytes 4 c ++ List.replicate 8 0 ++ leBytes 1 state ++ leBytes 1 63 ++ List.replicate 54 0

theorem witness_MailboxCommandsOnQueuesAndJobs_jobs :
    (let m := { frame 2 0x20 24 (leBytes 8 0 ++ leBytes 8 0x1000 ++ leBytes 8 4096) with page := some 0xFFFF }
     asking (waitsIn fed 15 m) 15 0x20 24 true = true ∧ m.zero 1 8 = true ∧ (waitsIn fed 15 m).ownsQueue 15 m 0 = true ∧
     m.arg 8 8 % 4096 = 0 ∧ m.arg 8 8 < 2 ^ 48) ∧
    (let m := frame 2 0x21 16 (leBytes 2 0 ++ leBytes 2 1023 ++ leBytes 1 2 ++ leBytes 3 0 ++ leBytes 8 0x7000)
     asking (waitsIn (noticed [0x7000, 0x8000]) 7 m) 7 0x21 16 true = true ∧ m.zero 1 2 = true ∧ m.zero 5 8 = true ∧ m.arg 2 2 = 1023 ∧
     m.arg 4 1 = 2 ∧ m.arg 8 8 ∈ [0x7000, 0x8000] ∧ m.arg 8 8 ∈ [0x7000] ∧ m.arg 8 8 ∉ [0x8000] ∧ (waitsIn fed 7 m).ownsQueue 7 m 0 = true) ∧
    (let m := frame 2 0x22 8 (leBytes 4 0 ++ leBytes 4 5)
     asking (waitsIn (noticed []) 7 m) 7 0x22 8 true = true ∧ m.zero 1 4 = true ∧ (waitsIn (noticed []) 7 m).ownsQueue 7 m 0 = true ∧
     ((waitsIn (noticed []) 7 m).job ((waitsIn (noticed []) 7 m).runner 1023)).asking = true ∧
     (waitsIn (noticed []) 7 m).live.find? (fun j => ((waitsIn (noticed []) 7 m).job j).queue == 0 &&
       ((waitsIn (noticed []) 7 m).job j).aseq == m.arg 4 4) = some 1023 ∧
     (waitsIn fed 7 m).live.find? (fun j => ((waitsIn fed 7 m).job j).queue == 0 && ((waitsIn fed 7 m).job j).aseq == m.arg 4 4) = none) ∧
    (let m := frame 2 0x30 68 (ctxArgs 262143 1)
     let s := waitsIn fed 7 m
     m.arg 0 4 = 262143 ∧ s.isFenced (262143 / 8192) = false ∧ s.isFenced ((262143 / 8192 + 16) % 32) = false ∧
     field (s.read (ctxHome 262143) 64) 8 1 = 0 ∧ Tab.get false s.ctxLost 262143 = false ∧
     Tab.get false ({ s with ctxLost := [(262143, true)] } : State).ctxLost 262143 = true ∧ asking s 7 0x30 68 true = true ∧ field (m.payload 4 64) 8 1 = 1 ∧ ctxForm m = true ∧
     field (m.payload 4 64) 9 1 < 64 ∧ s.ownsQueue 7 m (field (m.payload 4 64) 9 1) = true) ∧
    (let m := frame 2 0x31 68 (ctxArgs 262143 2)
     let s := (waitsIn fed 7 m).write (ctxHome 262143) ((ctxArgs 0 1).drop 4) false
     asking s 7 0x31 68 true = true ∧ field (s.read (ctxHome 262143) 64) 8 1 ≠ 0 ∧ field (m.payload 4 64) 8 1 = 2 ∧ s.ctxBusy 262143 = false ∧
     s.ownsQueue 7 m (field (s.read (ctxHome 262143) 64) 9 1) = true ∧
     ({ s with jobs := [(0, { live := true, ctx := some 262143 })] } : State).ctxBusy 262143 = true) ∧
    asking (waitsIn fed 7 (frame 2 0x32 4 (leBytes 4 5))) 7 0x32 4 true = true ∧
    asking (waitsIn fed 7 (frame 2 0x33 4 (leBytes 4 5))) 7 0x33 4 true = true := by decide +kernel

/-- The BATCH_CLASS payload of class 63 for queue 0 with the image at a virtual address. -/
def classArgs (va fill : Nat) : List Byte :=
  leBytes 1 63 ++ leBytes 1 0 ++ leBytes 6 0 ++ leBytes 8 va ++ leBytes 4 0xDFFFC0 ++ leBytes 4 0 ++ leBytes 8 0 ++ leBytes 4 fill ++
    leBytes 4 10000000

theorem witness_MailboxCommandsOnQueuesAndJobs_classes :
    (let m := frame 2 0x34 40 (classArgs 0x20000 4096)
     let s := waitsIn fed 7 m
     asking s 7 0x34 40 false = true ∧ m.arg 0 1 = 63 ∧ m.arg 1 1 = 0 ∧ m.zero 2 8 = true ∧ m.zero 20 24 = true ∧ m.arg 16 4 % 64 = 0 ∧
     m.arg 16 4 < 0xE00000 ∧ m.arg 32 4 = 4096 ∧ m.arg 36 4 = 10000000 ∧ s.classOpen 63 = false ∧ s.imageWaits 0 (m.arg 8 8) false = false ∧
     (match (s.readImage 0 (m.arg 8 8) false).1 with
      | .ok im => im.stage3.isNone && (s.stage4 0 im).isNone
      | .error _ => false) = true) ∧
    (frame 2 0x34 40 (classArgs 0x20000 4097)).arg 32 4 = 4097 ∧
    (match (fed.readImage 0 ((frame 2 0x34 40 (classArgs 0x40000 1)).arg 8 8) false).1 with
     | .ok _ => false
     | .error _ => true) = true ∧
    ({ fed with queues := [(1, { batch := some { cls := 63, slots := [], since := 0 } })] } : State).classOpen 63 = true := by decide +kernel

theorem witness_MailboxCommandsOnTheModule :
    (let m := frame 2 0x40 20 (leBytes 1 0 ++ leBytes 1 0 ++ leBytes 2 0xFFFF ++ leBytes 4 0 ++ leBytes 8 0x1000 ++ leBytes 4 66064)
     asking (waitsIn State.reset 7 m) 7 0x40 20 false = true ∧ m.arg 0 1 < 2 ∧ m.zero 1 2 = true ∧ m.zero 4 8 = true ∧ m.arg 2 2 = 0xFFFF ∧
     m.arg 8 8 < 2 ^ 52 ∧ State.reset.cfg.asked = none ∧ State.reset.cfg.load = none ∧ (loads (load0 1 [] [])).cfg.load.isSome = true ∧
     ({ State.reset with cfg := { asked := some 7 } } : State).cfg.asked = some 7) ∧
    (asking (waitsIn (cfgd 3 {}) 7 (frame 2 0x41 1 [2])) 7 0x41 1 false = true ∧ (cfgd 3 {}).cfg.session = 3 ∧ (cfgd 0 {}).cfg.session = 0 ∧
      (frame 2 0x41 1 [1]).arg 0 1 = 1 ∧ (frame 2 0x41 1 [3]).arg 0 1 ≠ 2) ∧
    (asking (waitsIn (cfgd 2 { state := 4 }) 7 (frame 2 0x42 2 [255, 0])) 7 0x42 2 false = true ∧ (frame 2 0x42 2 [255, 0]).arg 0 2 < 256 ∧
      256 ≤ (frame 2 0x42 2 [0, 1]).arg 0 2) ∧
    asking (waitsIn State.reset 7 (frame 2 0x43 48 [])) 7 0x43 48 false = true ∧
    (asking (waitsIn State.reset 7 (frame 2 0x50 1 [31])) 7 0x50 1 false = true ∧ (frame 2 0x50 1 [31]).arg 0 1 < 32 ∧
      32 ≤ (frame 2 0x50 1 [32]).arg 0 1 ∧ asking (waitsIn State.reset 7 (frame 2 0x51 1 [31])) 7 0x51 1 false = true ∧
      ({ State.reset with fenced := [(31, true)] } : State).isFenced 31 = true ∧ State.reset.isFenced 31 = false) ∧
    (let m := frame 2 0x60 8 (leBytes 4 27000 ++ leBytes 4 1000)
     asking (waitsIn State.reset 7 m) 7 0x60 8 false = true ∧ m.arg 0 4 ≤ 27000 ∧ m.arg 4 4 ≤ 1000 ∧ 1 ≤ m.arg 0 4 ∧
     (frame 2 0x60 8 (leBytes 4 27000 ++ leBytes 4 1001)).arg 4 4 = 1001) ∧
    asking (waitsIn State.reset 7 (frame 2 0x61 0 [])) 7 0x61 0 false = true ∧
    (let m := frame 2 0x70 8 (leBytes 1 0)
     asking (waitsIn State.reset 7 m) 7 0x70 8 false = true ∧ m.zero 1 4 = true ∧ m.arg 4 4 ≤ 1024 ∧ 8 + m.arg 4 4 ≤ m.len ∧
     State.reset.sec.prog = none ∧ (waitsIn State.reset 7 m).lcCheck (m.arg 0 1) (m.payload 8 (m.arg 4 4)) = some 1) ∧
    asking (waitsIn State.reset 7 (frame 2 0x80 0 [])) 7 0x80 0 false = true := by decide +kernel

/-- Bay 31 with a rail's warning. -/
def warned (fab : Bool) (w : RailWarn) : State := { State.reset with eng := { rails := [(31 * 2 + b2n fab, some w)] } }

theorem witness_EnergyVoltageAndHeat :
    (([⟨7, 750, 750⟩] : List RailSample)[0]? = some ⟨7, 750, 750⟩ ∧ (31 : Nat) < 32 ∧ State.reset.isFenced 31 = false) ∧ State.reset.eng.budget = none ∧
    (State.reset.responds .eng = true ∧ (State.reset.view (.selay 0)).may .engTickAck true = true ∧ bit (1 : Word32).toNat 0 = true) ∧
    (let l := bits (State.reset.reg .engBayWarn 31) 9 0
     let f := bits (State.reset.reg .engBayWarn 31) 25 16
     l - 1 < l ∧ f - 1 < f ∧ State.reset.warning 31 false = none ∧ (warned true ⟨0, 600⟩).warning 31 true = some ⟨0, 600⟩) ∧
    (let s := warned true ⟨0, 600⟩
     775 = bits (s.reg .engBayWarn 31) 25 16 + 15 ∧ s.warning 31 true = some ⟨0, 600⟩ ∧ 775 ≤ 775 ∧ 775 < 776) ∧
    (let s := (warned true ⟨0, 600⟩).setReg .engBayDip 31 0 (2 * 2 ^ 62)
     bits (s.reg .engBayDip 31) 63 62 = 2 ∧ bit (s.reg .engBayDip 31) 60 = false) ∧
    ((579 : Nat) < 580 ∧ (719 : Nat) < 720 ∧ (699 : Nat) < 700) ∧
    ((State.reset.view (.selay 0)).may .engBayVset true = true ∧
      (let lo := bits (State.reset.reg .engBayVlim 31) 9 0
       max lo (bits (State.reset.reg .engBayWarn 31) 9 0 + 30) ≤ 750 ∧ 750 ≤ bits (State.reset.reg .engBayVlim 31) 25 16 ∧ 750 % 10 = 0 ∧
       Tab.get false State.reset.eng.hot 31 = false ∧ 755 % 10 ≠ 0)) ∧
    ((State.reset.view (.selay 0)).may .engBayDip true = true ∧ bit (0 : Word64).toNat 60 = false ∧
      bit ((State.reset.setReg .engBayDip 31 0 (2 ^ 60)).reg .engBayDip 31) 60 = true) ∧
    ((4095 : Nat) < 4096) ∧
    (let s (up below : Nat) (watts : List Nat) : State := { State.reset.setReg .engCap 0 0 100 with eng := { up := up, below := below, watts := watts } }
     96 * (s 1 0 [1000000]).reg .engCap 0 * 20 < (2000 :: (s 1 0 [1000000]).eng.watts.take 19).sum * 100 ∧ (s 1 0 []).atFloor = false ∧
     (s 0 99 []).eng.below = 99 ∧ (0 :: (s 0 99 []).eng.watts.take 19).sum * 100 < 94 * (s 0 99 []).reg .engCap 0 * 20) ∧
    (let s : State := { State.reset with fenced := (List.range 32).map fun b => (b, true) }
     s.atFloor = true) ∧
    ((104 : Nat) < 105 ∧ (114 : Nat) < 115 ∧ (115 : Nat) ≤ 115) := by decide +kernel

theorem bit_of_lt {v k : Nat} (h : v < 2 ^ k) (j : Nat) (hj : k ≤ j) : bit v j = false := by
  rw [bit_eq_testBit]
  exact Nat.testBit_lt_two_pow (Nat.lt_of_lt_of_le h (Nat.pow_le_pow_right (by decide) hj))

theorem witness_FusesAreOnlyBlown :
    (let s : State := { State.reset with sec := { fuses := [(0, { val := 5 })] } }
     bit (s.fuse 0).val 2 = true ∧ ∀ j, 2 < j → bit (s.fuse 0).val j = false) ∧
    (∀ j, bit (State.reset.fuse 0).val j = false) ∧
    ({ State.reset with sec := { fuses := [(0, { val := 16 })] } } : State).lc = 5 ∧ ∃ t, exec .flashComplete State.reset = .next t :=
  ⟨⟨by decide, fun j h => bit_of_lt (v := 5) (k := 3) (by decide) j h⟩, fun j => bit_of_lt (v := 0) (k := 0) (by decide) j (by omega), by decide, _, rfl⟩

theorem witness_FuseProgrammingAndBatteryKey :
    (State.reset.responds .sec = true ∧ (State.reset.view .jtag).may .secFuseProg true = true ∧ State.reset.sec.prog = none) ∧
    (bits (0x80000001 : Word32).toNat 5 4 = 0 ∧ bit (0x80000001 : Word32).toNat 31 = true ∧ bits (0x80000001 : Word32).toNat 2 0 = 1 ∧
      State.reset.fuseRefusal .jtag 1 0 = none ∧ State.reset.fuseBlown 1 0 = false ∧ State.reset.fuseRefusal .jtag 0 0 = some 1) ∧
    (let s : State := { State.reset with sec := { fuses := [(0, { val := 4 }), (5, { val := 2 ^ fuseWidth 5 - 1, set := true, rev := true })] } }
     s.lc = 3 ∧ s.fuseRefusal (.selay 0) 5 1 = none ∧ s.fuseBlown 5 1 = true ∧ s.fuseRefusal (.selay 0) 5 2 = none ∧ s.fuseBlown 5 2 = true) ∧
    ({ State.reset with sec := { prog := some ⟨7, 0, 3⟩ } } : State).sec.prog = some ⟨7, 0, 3⟩ ∧
    ((State.reset.view .jtag).may .secBkeyCtl true = true ∧ bits (1 : Word32).toNat 1 0 = 1 ∧ bits (2 : Word32).toNat 1 0 = 2 ∧
      State.reset.lc ≠ 2 ∧ State.reset.lc ≠ 3) := by decide +kernel

/-- The module in state MAKER. -/
def maker (pushed : Bool) : State := { State.reset with sec := { fuses := [(0, { val := 1 })], straps := { bootsrc := pushed } } }

theorem witness_BootChainTriesItsSlots :
    ((maker false).board.powered = true ∧ (maker false).board.held = false ∧ (maker false).bootable = true ∧ (maker false).sec.straps.bootsrc = false ∧ (maker false).sec.stage = 0 ∧
      (maker false).bootCheck ((maker false).bootImage .slotA) ≠ none ∧ (maker false).bootCheck ((maker false).bootImage .slotB) ≠ none) ∧
    State.reset.lc = 0 ∧
    ((maker true).busTakes true = true ∧ (maker true).sec.straps.bootsrc = true ∧ (maker true).sec.stage = 0 ∧ (maker true).bootable = true ∧
      (1573088 : Word32).toNat < 1573120 ∧ (1573088 : Word32).toNat % 32 = 0 ∧ (List.replicate 32 (1 : Byte)).length = 32) := by decide +kernel

theorem witness_JtagAndBusInstructions :
    (State.reset.lc ≠ 3 ∧ State.reset.lc ≠ 5 ∧ State.reset.noneReleased = true ∧ (cfgd 2 { state := 4 }).noneReleased = false) ∧
    (State.reset.reaches .jtag 0x10 ⟨.glbEvent, 0, 0, 0⟩ false false ∧ Rn.glbEvent.spec.wide = false ∧ State.reset.busTakes true = true ∧
      State.reset.reaches .mgmtBus (0x10 : Word32).toNat ⟨.glbEvent, 0, 0, 0⟩ false false) := by
  unfold State.reaches
  decide +kernel

theorem witness_FlashOverTheBus :
    State.reset.busTakes true = true ∧ (List.replicate 32 (1 : Byte)).length = 32 ∧ State.reset.flashMay (0xBF0000 : Word32).toNat 0x10000 true = true ∧
    (0xBF0000 : Word32).toNat % 0x10000 = 0 ∧ State.reset.flashMay (0xBFFFE0 : Word32).toNat 32 true = true ∧ (0xBFFFE0 : Word32).toNat % 32 = 0 ∧
    State.reset.flashMay (0xC00000 : Word32).toNat 32 true = false ∧ State.reset.flashMay (0xBFFFE0 : Word32).toNat 32 false = true ∧
    ({ State.reset with board := { op := some (.erase 0) } } : State).board.op = some (.erase 0) ∧
    ({ State.reset with board := { op := some (.write 0 []) } } : State).board.op = some (.write 0 []) := by decide +kernel

theorem witness_ResetsAndPower :
    State.reset.board.powered = true ∧ 1000 ≤ 1000 ∧ State.reset.sec.prog = none ∧ 999 < 1000 ∧
    ({ State.reset with board := { powered := false } } : State).board.powered = false ∧ State.reset.board.held = false ∧
    State.reset.isFenced 31 = false ∧ Tab.get false ({ State.reset with board := { railsUp := [] } } : State).board.railsUp 31 = false := by
  decide +kernel

theorem witness_WarmResetsStopTheUnits :
    State.reset.board.powered = true ∧ State.reset.board.held = false ∧ ({ State.reset with fw := true } : State).fw = true ∧
    State.reset.sec.prog = none ∧ State.reset.bootable = false := by decide +kernel

theorem witness_FencesAndDieFaults :
    ({ State.reset with fw := true } : State).fw = true ∧ State.reset.isFenced 31 = false ∧ 1 ≤ 6 ∧
    ({ State.reset with fenced := [(31, true)] } : State).isFenced 31 = true := by decide +kernel

/-- A public key of P-384, and the little-endian number of its SHA-384 digest. -/
def key0 : List Byte := beBytes 96 0x7ae9e1db1160794c70c1ef071be5191f6c66240f4608fbe8a44ecd36c3ed5db97500f2e4d84e3fb45850fd6f4303302bd8ac21444cd80d241538d8034b399a0dee3636eb5cb00b9499d061a571db0f14bb47ed79453948ed63f3a6ccbbf6e74f
def digest0 : Nat := 0x7002639514331f46f45b3c35292c795006d9194e7a2a82ab903616c06a675a5c049d84ab49f9b9ca500ecaef09b33849

/-- A firmware image of SVN 3 whose body is 64 bytes, signed with that key. -/
def fwImage : List Byte :=
  leBytes 4 0x5357464C ++ leBytes 4 1 ++ leBytes 4 3 ++ leBytes 4 64 ++ List.replicate 48 0 ++ key0 ++
    beBytes 96 0xe86b995e350e4d312a95a6b7d5d8cdcdb4682f588800a1cd6c972e1dcb2a5ac38d90046951b03ccb3b179a89fda88b1b4163c5ee3c17bf79028cf91f5db1a683566413189c132f8d497e98bf5f0646b76d445e07144b336442388a56a892b69c ++ List.replicate 64 7

/-- A module in state MAKER with that key and images in its flash slots. -/
def signed (a : Nat) : State := { State.reset with
  sec := { fuses := [(0, { val := 1 }), (2, { val := digest0, set := true })] }
  board := { flash := (((List.range 320).zip fwImage).map fun x => (a + x.1, x.2)).filter fun x => x.2 != 0xFF } }

theorem flashBytes_length (t : Tab Byte) (a n : Nat) : (flashBytes t a n).length = n := by
  induction n generalizing a with
  | zero => rfl
  | succ n ih => rw [flashBytes, List.length_cons, ih]

theorem flashBytes_split (t : Tab Byte) (a m n : Nat) : flashBytes t a (m + n) = flashBytes t a m ++ flashBytes t (a + m) n := by
  induction m generalizing a with
  | zero => simp [flashBytes]
  | succ m ih => rw [show m + 1 + n = (m + n) + 1 by omega, flashBytes, ih, flashBytes, show a + (m + 1) = a + 1 + m by omega]; rfl

/-- What follows the body of an image plays no part in its check. -/
theorem bootCheck_append (s : State) (x y : List Byte) (h : x.length = 320) (hl : field x 12 4 = 64) (hn : s.bootCheck x = none) :
    s.bootCheck (x ++ y) = none := by
  have f (o n : Nat) (ho : o + n ≤ 320) : ((x ++ y).drop o).take n = (x.drop o).take n := by
    rw [List.drop_append_of_le_length (by omega), List.take_append_of_le_length (by rw [List.length_drop]; omega)]
  have g (o n : Nat) (ho : o + n ≤ 320) : field (x ++ y) o n = field x o n := by unfold field; rw [f o n ho]
  have z (o n : Nat) (ho : o + n ≤ 320) : zeros (x ++ y) o n = zeros x o n := by unfold zeros; rw [f o n ho]
  have p : signedPart (x ++ y) = signedPart x := by
    unfold signedPart
    rw [g 12 4 (by omega), hl, f 256 64 (by omega), List.take_append_of_le_length (by omega)]
  unfold State.bootCheck at hn ⊢
  simp only [g 0 4 (by omega), g 4 2 (by omega), z 6 2 (by omega), z 24 40 (by omega), g 12 4 (by omega), g 8 4 (by omega),
    f 64 96 (by omega), f 160 96 (by omega), p, hl, h, List.length_append] at hn ⊢
  simp only [show 256 + 64 ≤ 320 + y.length by omega] at ⊢
  exact hn

theorem boots (a : Nat) (t : Tab Byte) (h : field (flashBytes t a 320) 12 4 = 64) (hn : (signed 0).bootCheck (flashBytes t a 320) = none) :
    (signed 0).bootCheck (flashBytes t a 1573120) = none := by
  rw [show 1573120 = 320 + 1572800 from rfl, flashBytes_split]
  exact bootCheck_append _ _ _ (flashBytes_length _ _ _) h hn

/-- The image boots from slot A, from slot B with slot A erased, and pushed. -/
theorem witness_BootChainTriesItsSlots_starts :
    ((signed 0).board.powered = true ∧ (signed 0).board.held = false ∧ (signed 0).bootable = true ∧ (signed 0).sec.straps.bootsrc = false ∧
      (signed 0).sec.stage = 0 ∧ (signed 0).bootCheck ((signed 0).bootImage .slotA) = none) ∧
    ((signed 0x400000).bootCheck ((signed 0x400000).bootImage .slotA) ≠ none ∧
      (signed 0x400000).bootCheck ((signed 0x400000).bootImage .slotB) = none) ∧
    let s : State := { signed 0 with sec := { (signed 0).sec with stage := 1, straps := { bootsrc := true } }
                                     board := { sram := writeBytes [] 0 fwImage, pushed := some 320 } }
    s.board.powered = true ∧ s.board.held = false ∧ s.bootable = true ∧ s.sec.straps.bootsrc = true ∧ s.sec.stage = 1 ∧
      s.bootCheck (s.bootImage .bus) = none := by
  refine ⟨⟨rfl, rfl, by decide +kernel, rfl, rfl, boots _ _ (by decide +kernel) (by decide +kernel)⟩, ⟨by decide +kernel, ?_⟩,
    rfl, rfl, by decide +kernel, rfl, rfl, by decide +kernel⟩
  exact (boots 0x400000 (signed 0x400000).board.flash (by decide +kernel) (by decide +kernel) : _)

/-- A token of that key for a target, signed. -/
def token0 (target signer sig : Nat) : List Byte :=
  leBytes 4 0x4B54434C ++ [1, BitVec.ofNat 8 target, BitVec.ofNat 8 signer, 0] ++ List.replicate 24 0 ++ key0 ++ beBytes 96 sig

/-- A request for a target, with a token. -/
def lcRequest (target signer sig : Nat) : Mbox := frame 2 0x70 232 (leBytes 4 target ++ leBytes 4 224 ++ token0 target signer sig)

/-- A module with fuses. -/
def fused (f : Tab FuseSlot) : State := { State.reset with sec := { fuses := f } }

/-- OWNER to FIELD with and without the AES key that it needs, and MAKER to RETIRED. -/
theorem witness_MailboxCommandsOnTheModule_granted :
    (let m := lcRequest 3 1 0xe86b995e350e4d312a95a6b7d5d8cdcdb4682f588800a1cd6c972e1dcb2a5ac38d90046951b03ccb3b179a89fda88b1b58f850a28de0dae4cb25692a934918e17a04710f2572352acc3feadd9ba3ad7a14e8e50125a77824546c0d31b84924c9
     let s := waitsIn (fused [(0, { val := 2 }), (4, { val := digest0, set := true }), (5, { val := 5, set := true })]) 7 m
     let s' := waitsIn (fused [(0, { val := 2 }), (4, { val := digest0, set := true })]) 7 m
     asking s 7 0x70 8 false = true ∧ asking s' 7 0x70 8 false = true ∧ m.arg 0 1 = 3 ∧ m.zero 1 4 = true ∧ m.arg 4 4 = 224 ∧
     8 + m.arg 4 4 ≤ m.len ∧ s.sec.prog = none ∧ s.cfg.load = none ∧ s.lcCheck 3 (m.payload 8 (m.arg 4 4)) = none ∧ s.lcMissing 3 = none ∧
     s'.lcCheck 3 (m.payload 8 (m.arg 4 4)) = none ∧ (s'.lcMissing 3).isSome = true) ∧
    (let m := lcRequest 5 0 0xe86b995e350e4d312a95a6b7d5d8cdcdb4682f588800a1cd6c972e1dcb2a5ac38d90046951b03ccb3b179a89fda88b1b99bee662272c6537ce2b45cefa08320630944ca839b5f6cad8e5a4ce32eb3ab721a61a5cb6c2df6f06d49062791cad79
     let s := waitsIn (fused [(0, { val := 1 }), (2, { val := digest0, set := true })]) 7 m
     asking s 7 0x70 8 false = true ∧ m.arg 0 1 = 5 ∧ m.zero 1 4 = true ∧ m.arg 4 4 = 224 ∧
     s.lcCheck 5 (m.payload 8 (m.arg 4 4)) = none ∧ s.lcMissing 5 = none) := by decide +kernel

/-- A stream of one region and one block, signed, but for its block. -/
def stream0 : List Byte :=
  leBytes 4 0x4B4F4843 ++ leBytes 4 1 ++ leBytes 4 192 ++ leBytes 4 1 ++ List.replicate 48 0 ++ key0 ++
    (leBytes 8 0 ++ leBytes 4 1 ++ leBytes 4 0 ++ leBytes 4 9 ++ leBytes 2 1 ++ List.replicate 42 0) ++
    (leBytes 2 24 ++ leBytes 4 0 ++ leBytes 2 14335 ++ List.replicate 120 0) ++
    beBytes 96 0xe86b995e350e4d312a95a6b7d5d8cdcdb4682f588800a1cd6c972e1dcb2a5ac38d90046951b03ccb3b179a89fda88b1b27a2a303079b7ef4b6aefa9afbeae9611aaa3fce359cb38e89f7c937db704efc916214e89fb4f29a866e8de9bc322b31

/-- A module in state MAKER with the key of the stream, the stream in its memory, and a load of it. -/
def streamed (session : Nat) : State :=
  let s : State := { State.reset with
    sec := { fuses := [(0, { val := 1 }), (2, { val := digest0, set := true }), (5, { val := 5, set := true })] }
    cfg := { session := session, load := some (load0 1 [] []) } }
  { s with mem := writeBytes [] 0 stream0 }

theorem witness_TheLoaderChecksAndCommits_passes :
    (streamed 0).cfg.load = some (load0 1 [] []) ∧ ((streamed 0).loadChecks (load0 1 [] [])).1 = none ∧
    ((streamed 2).loadChecks (load0 1 [] [])).1 = none ∧ (streamed 2).cfg.session = 2 := by decide +kernel

/-- The tag with which a ciphertext opens. -/
def gcmTag (key iv aad ct : List Byte) : List Byte :=
  let ks := aesKeys key
  let h := ofBe ((aesBlock ks (List.replicate 16 0)).map (BitVec.ofNat 8))
  let y := ghash h (ceilDiv aad.length 16) 0 aad
  let y := ghash h (ceilDiv ct.length 16) y ct
  let y := ghash h 1 y (beBytes 8 (8 * aad.length) ++ beBytes 8 (8 * ct.length))
  let e := ofBe ((aesBlock ks ((iv ++ beBytes 4 1).map BitVec.toNat)).map (BitVec.ofNat 8))
  beBytes 16 (y ^^^ e)

theorem gcmOpen_opens (key iv aad ct : List Byte) :
    ∃ tag, tag.length = 16 ∧ gcmOpen key iv aad ct tag = some (gcmCtr (aesKeys key) iv (ceilDiv ct.length 16) 2 ct) :=
  ⟨gcmTag key iv aad ct, by rw [gcmTag, beBytes, List.length_reverse]; rfl, if_pos rfl⟩

theorem aesRounds_length (ks : List (List Nat)) (k s : List Nat) : (aesRounds (ks ++ [k]) s).length = min 16 k.length := by
  induction ks generalizing s with
  | nil => simp [aesRounds, aesShift]
  | cons x ks ih =>
    cases ks with
    | nil => exact ih _
    | cons y ks => exact ih _

/-- A block under a key schedule is 16 bytes. -/
theorem aesBlock_length (k0 : List Nat) (ks : List (List Nat)) (k b : List Nat) (h : k.length = 16) :
    (aesBlock (k0 :: (ks ++ [k])) b).length = 16 := by rw [aesBlock, aesRounds_length, h]; rfl

theorem gcmCtr_length (ks : List (List Nat)) (iv : List Byte) (hk : ∀ b, (aesBlock ks b).length = 16) (n c : Nat) (bs : List Byte)
    (h : bs.length = 16 * n) : (gcmCtr ks iv n c bs).length = 16 * n := by
  induction n generalizing c bs with
  | zero => rfl
  | succ n ih =>
    rw [gcmCtr, List.length_append, List.length_zipWith, hk, ih _ _ (by rw [List.length_drop]; omega), List.length_take]
    omega

/-- The AES key of fuse slot 5. -/
def aesKey0 : List Byte := leBytes 32 5

theorem aesKey0_block (b : List Nat) : (aesBlock (aesKeys aesKey0) b).length = 16 := by
  have h : ∃ k0 ks k, aesKeys aesKey0 = k0 :: (ks ++ [k]) ∧ k.length = 16 :=
    ⟨(aesKeys aesKey0).headD [], ((aesKeys aesKey0).drop 1).dropLast, (aesKeys aesKey0).getLastD [], by decide +kernel, by decide +kernel⟩
  obtain ⟨k0, ks, k, e, hk⟩ := h
  rw [e]
  exact aesBlock_length _ _ _ _ hk

theorem readTags_nil (a n : Nat) : (readTags [] a n).any id = false := by
  induction n generalizing a with
  | zero => rfl
  | succ n ih => rw [readTags, List.any_cons, ih]; rfl

/-- A module with an AES key, a load l of one region in stage 3, and a payload block of zeros with a header and a tag. -/
def blocked (l : Load) (hdr tag : List Byte) : State := { State.reset with
  sec := { fuses := [(5, { val := 5, set := true })] }
  cfg := { load := some l }
  mem := writeBytes [] 448 (hdr ++ (List.replicate 65536 0 ++ tag)) }

/-- The block opens under the tag, and is read whole. -/
theorem opens (l : Load) (hdr : List Byte) (h : hdr.length = 64) (ha : l.addr = 0) (hh : l.host = false) :
    ∃ tag plain : List Byte, plain.length = 65536 ∧
      (blocked l hdr tag).streamRead l 448 65616 = (hdr ++ (List.replicate 65536 0 ++ tag), true) ∧
      (blocked l hdr tag).chosenKey 0 = some aesKey0 ∧
      let bs := hdr ++ (List.replicate 65536 0 ++ tag)
      bs.take 64 = hdr ∧ gcmOpen aesKey0 (l.id ++ hdr.take 4) hdr ((bs.drop 64).take 65536) (bs.drop 65600) = some plain := by
  obtain ⟨tag, ht, e⟩ := gcmOpen_opens aesKey0 (l.id ++ hdr.take 4) hdr (List.replicate 65536 0)
  have hc : (List.replicate 65536 (0 : Byte)).length = 16 * 4096 := List.length_replicate
  refine ⟨tag, gcmCtr (aesKeys aesKey0) (l.id ++ hdr.take 4) 4096 2 (List.replicate 65536 0), gcmCtr_length _ _ aesKey0_block 4096 2 _ hc, ?_, rfl,
    List.take_left' h, ?_⟩
  · have n : (hdr ++ (List.replicate 65536 0 ++ tag)).length = 65616 := by
      rw [List.length_append, List.length_append, h, hc, ht]
    have r : (blocked l hdr tag).read 448 65616 = hdr ++ (List.replicate 65536 0 ++ tag) :=
      n ▸ readBytes_writeBytes [] 448 (hdr ++ (List.replicate 65536 0 ++ tag))
    have p : (blocked l hdr tag).poisoned 448 65616 = false := readTags_nil _ _
    unfold State.streamRead
    simp only [ha, hh, Nat.zero_add, r, p]
    rfl
  · have c : (hdr ++ (List.replicate 65536 0 ++ tag)).drop 64 = List.replicate 65536 0 ++ tag := List.drop_left' h
    have d : (hdr ++ (List.replicate 65536 0 ++ tag)).drop 65600 = tag := by
      rw [show 65600 = 64 + 65536 from rfl, ← List.drop_drop, c]; exact List.drop_left' (hc.trans rfl)
    have n : ceilDiv (List.replicate 65536 (0 : Byte)).length 16 = 4096 := by rw [List.length_replicate]; decide
    rw [c, d, List.take_left' (hc.trans rfl), e, n]

/-- Headers of a block of one frame, of one block memory, and of a frame out of range; a load whose region has memories. -/
def blockHdr (kind first : Nat) : List Byte :=
  leBytes 4 0 ++ [BitVec.ofNat 8 kind, 1] ++ leBytes 2 24 ++ leBytes 2 first ++ leBytes 2 1 ++ List.replicate 52 0
def memLoad : Load := { load0 3 [] [] with regions := [{ region0 [] with mem := true, mlast := 447, flast := 100 }] }

/-- Blocks that decrypt, of either kind, and one that decrypts and lies out of range. -/
theorem witness_TheLoaderChecksAndCommits_block :
    (∀ k first : Nat, (blockHdr k first).length = 64) ∧ memLoad.stage = 3 ∧ (∀ hdr tag, (blocked memLoad hdr tag).cfg.load = some memLoad) ∧
    (∀ k first : Nat, ∃ tag plain : List Byte, plain.length = 65536 ∧
      (blocked memLoad (blockHdr k first) tag).streamRead memLoad (256 + memLoad.mlen + memLoad.next * 65616) 65616 =
        (blockHdr k first ++ (List.replicate 65536 0 ++ tag), true) ∧
      (blocked memLoad (blockHdr k first) tag).chosenKey memLoad.keysrc = some aesKey0 ∧
      let bs := blockHdr k first ++ (List.replicate 65536 0 ++ tag)
      bs.take 64 = blockHdr k first ∧
        gcmOpen aesKey0 (memLoad.id ++ (blockHdr k first).take 4) (blockHdr k first) ((bs.drop 64).take 65536) (bs.drop 65600) = some plain) ∧
    (blockFormOk memLoad (blockHdr 0 7) = true ∧ blockRangeOk memLoad (blockHdr 0 7) = true ∧ field (blockHdr 0 7) 4 1 = 0) ∧
    (blockFormOk memLoad (blockHdr 1 447) = true ∧ blockRangeOk memLoad (blockHdr 1 447) = true ∧ field (blockHdr 1 447) 4 1 = 1) ∧
    blockFormOk memLoad (blockHdr 0 101) = true ∧ blockRangeOk memLoad (blockHdr 0 101) = false :=
  ⟨fun _ _ => rfl, rfl, fun _ _ => rfl, fun k first => opens memLoad (blockHdr k first) rfl rfl rfl, by decide, by decide, by decide⟩
theorem test_ecdsa_verifies_its_digest_alone :
    ecdsaVerify key0 (sha384 (signedPart fwImage)) ((fwImage.drop 160).take 96) = true ∧
    ecdsaVerify key0 (List.replicate 48 1) ((fwImage.drop 160).take 96) = false := by decide +kernel

/-! ### Well-formed commands: one of each check that the check refuses, and one that it takes -/

/-- A flit whose payload is short. -/
def shortFlit : Flit := { flit0 1 0 0 with payload := [] }

theorem test_wf_refuses :
    ([.unmappedAccess .bar0 0 false 24, .amaxWrite .bar0 2 0 none, .fence 0 7, .tailSnoop 0 [(2 ^ 52, 0)], .hubFault 3, .commandSlot 0 0 [] 4097 0, .ramPortAccess 0 0 false (.write 0 [] false false), .queuePush 0 0 [] false,
      .blockNocAccess 0 0 0 (some []) false, .inboundBeat 0 { chan := 0, kind := 0, poison := false, data := [] },
      .endpointFlit 0 0 shortFlit, .rd shortFlit, .wr (some shortFlit) (flit0 2 0 0), .codeword 0 0 [] 0, .control 0 0 false [], .flit 0 shortFlit,
      .hostLinkUp 3 1 {}, .hostLinkUp 2 3 {}, .hostLinkUp 2 1 { hdm := some 1 }, .memrd 1, .memwr 0 [] 0 false, .getCertificate 0x10000 0 0,
      .challenge [] 0, .getMeasurements 256 false 0, .streamComplete 0 0 [69], .recover 0 false 1024, .ledgerSample [] 0, .samplePreload [], .flashWrite true 0 [], .pushData true 0 []] :
      List Instr).all (fun c => !c.wf) = true := by decide +kernel

theorem test_wf_takes :
    ([.amaxWrite .bar0 4 0 none, .fence 0 6, .hubFault 2, .commandSlot 0 0 [] 4096 0, .rd (flit0 1 0 0), .hostLinkUp 32 16 { hdm := some 0x10000000 }, .memrd 64,
      .challenge [1] 0] : List Instr).all Instr.wf = true := by decide +kernel

/-! ### Worked examples of the manual -/

/-- The worked example of R49: events 0x17 and 0x18 of BAY_EVENT of bay 12, a stale clearing write and a fresh one. -/
theorem test_sq_clear_example :
    (RegAt.mk .bayEvent 12 0 0).off = 0x02C00010 ∧ evAdvance 0x16000000 1 = 0x17000002 ∧ evAdvance 0x17000002 3 = 0x1800000A ∧
    (let s := State.reset.setReg .bayEvent 12 0 0x1800000A
     (match exec (.sqClearWrite .bar0 0x02C00010 0x17000002) s with
      | .next t => t.reg .bayEvent 12 == 0x1800000A
      | _ => false) = true ∧
     (match exec (.sqClearWrite .bar0 0x02C00010 0x1800000A) s with
      | .next t => t.reg .bayEvent 12 == 0x18000000
      | _ => false) = true) := by decide +kernel

/-- The worked example of R264: offset 0x3_2345_6740 of a stack. -/
theorem test_hbm_mapping_example : hbmPc 0x323456740 = 50 ∧ hbmL 0x323456740 = 0x0C8D1540 ∧ hbmOff 50 0x0C8D1540 = 0x323456740 := by
  decide +kernel

/-- The examples of R132 and R133. -/
theorem test_rounding_examples : halfUp (-5) 1 = -2 ∧ halfUp 5 1 = 3 ∧ expe8Of 0x447A0000 3 = (0x81, false) ∧ expxOf 0x3F800000 = 0 ∧
    expxOf 1 = -149 ∧ expxOf 0 = -150 ∧ expxOf 0x7F800000 = 128 := by decide +kernel

/-- The example of R368. -/
theorem test_stuff_example : stuff 0 0 [2, 1, 1, 1, 1, 1, 1, 1, 3] = [2, 1, 1, 1, 1, 1, 1, 2, 1, 3] ∧
    unstuff 0 0 [2, 1, 1, 1, 1, 1, 1, 2, 1, 3] = ([2, 1, 1, 1, 1, 1, 1, 1, 3], 0) := by decide

/-- The digest of the bytes of abc that FIPS 180-4 gives. -/
theorem test_sha384_abc : sha384 [0x61, 0x62, 0x63] =
    beBytes 48 0xcb00753f45a35e8bb5a03d699ac65007272c32ab0eded1631a8b605a43ff5bed8086072ba1e7cc2358baeca134c825a7 := by decide +kernel

/-- The queue is served first in, first out, and an empty one lets time pass. -/
theorem test_step_front : (match step { State.reset with pending := [.coldStart, .doneSeen true] } with
    | .next t => t.pending == [.doneSeen true]
    | _ => false) = true ∧
  (match step State.reset with
    | .next t => t.local 32 == 1
    | _ => false) = true := by decide +kernel

theorem test_decode_gives_nothing : decodeTableWord 32 0 = none := rfl

end Sys2Proof.Tests
end

/-! PROOF. What a register write reaches and what a plain write leaves (R10, R42, R43): the rules of setRegAt, rwWrite, busWrite,
write64 and guarded, and the statement that plain writes take their fields. -/

namespace Sys2Proof.Machine

/-! ### What a stored register value leaves as it was -/

theorem State.setRegAt_sameBut (s : State) (r : RegAt) (v : Nat) : SameBut [.regs] s (s.setRegAt r v) := by
  intro p hp
  cases p with
  | regs => simp at hp
  | _ => rfl

theorem State.setRegAt_regsBut (s : State) (r : RegAt) (v : Nat) : RegsBut [r.off] s (s.setRegAt r v) :=
  fun q hq => s.regAt_setRegAt_ne r q v (by simpa using hq)

theorem State.rwWrite_sameBut (s : State) (r : RegAt) (v : Nat) : SameBut [.regs] s (s.rwWrite r v) :=
  s.setRegAt_sameBut r _

theorem State.rwWrite_regsBut (s : State) (r : RegAt) (v : Nat) : RegsBut [r.off] s (s.rwWrite r v) :=
  s.setRegAt_regsBut r _

/-! ### What a plain write gives the fields of its register -/

@[simp] theorem State.regAt_rwWrite_same (s : State) (r : RegAt) (v : Nat) :
    (s.rwWrite r v).regAt r = rwMerge r.rn.spec.flds (s.regAt r) v := s.regAt_setRegAt_same r _

theorem State.rwWrite_field (s : State) (r : RegAt) (v : Nat) {f : Fld} (hf : f ∈ r.rn.spec.flds) (hrw : f.acc = .rw) :
    bits ((s.rwWrite r v).regAt r) f.hi f.lo =
      if f.least ≤ bits v f.hi f.lo ∧ bits v f.hi f.lo ≤ f.most then bits v f.hi f.lo else bits (s.regAt r) f.hi f.lo := by
  obtain ⟨ordered, apart⟩ := r.rn.fields_apart
  rw [State.regAt_rwWrite_same, rwMerge_field _ _ _ ordered apart f hf hrw]

theorem State.rwWrite_bit_outside (s : State) (r : RegAt) (v w : Nat)
    (h : ∀ f ∈ r.rn.spec.flds, f.acc = .rw → w < f.lo ∨ f.hi < w) :
    bit ((s.rwWrite r v).regAt r) w = bit (s.regAt r) w := by
  rw [State.regAt_rwWrite_same, bit_eq_testBit, bit_eq_testBit, rwMerge_outside _ _ _ _ r.rn.fields_apart.1 h]

theorem bits_lt (v hi lo : Nat) : bits v hi lo < 2 ^ (hi + 1 - lo) := Nat.mod_lt _ (by positivity)

theorem bit_eq_bits (v i : Nat) : bit v i = (bits v i i == 1) := by simp [bit, bits]

/-- A field of which no value is reserved takes whatever is written. -/
theorem State.rwWrite_field_unreserved (s : State) (r : RegAt) (v : Nat) {f : Fld} (hf : f ∈ r.rn.spec.flds) (hrw : f.acc = .rw)
    (hleast : f.least = 0) (hmost : 2 ^ (f.hi + 1 - f.lo) ≤ f.most + 1) :
    bits ((s.rwWrite r v).regAt r) f.hi f.lo = bits v f.hi f.lo := by
  have := bits_lt v f.hi f.lo
  rw [s.rwWrite_field r v hf hrw, if_pos (by omega)]

/-- The write of a register that does not act is a plain write of the part that the register has bits for: a register
with an arm of its own in commit acts, but for NOC_ROUTE. -/
theorem State.commit_of_not_acts (s : State) (m : Master) {r : RegAt} (v : Nat) (h : r.rn.acts = false) :
    s.commit m r v = s.rwWrite r (r.taken v) := by
  obtain ⟨k, n, i, j⟩ := r
  cases k <;> simp [Rn.acts, Rn.hasAcc, Rn.spec] at h <;> rfl

/-! ### What an access that reaches a register does -/

theorem State.permits_reg {s : State} {m : Master} {r : RegAt} (hi : Bool) {write : Bool} (h : (s.view m).may r.rn write = true) :
    s.permits m (.reg r hi) write = true := by
  cases m with
  | bar2 p => rfl
  | _ => exact h

/-- A page of BAR2 has no view of registers. -/
theorem State.reaches_not_bar2 {s : State} {p : Fin 4096} {off : Nat} {r : RegAt} {hi write : Bool} :
    ¬ s.reaches (.bar2 p) off r hi write := fun ⟨_, _, hmay⟩ => absurd hmay (by simp [State.view, View.may])

/-- A 32-bit write that reaches a word of a register writes that word. -/
theorem State.busWrite_of_reaches {s : State} {m : Master} {off : Nat} {r : RegAt} {hi : Bool} (v : Nat)
    (h : s.reaches m off r hi true) : s.busWrite m off v = s.writeWord m r hi v := by
  obtain ⟨htarget, hresp, hmay⟩ := id h
  have hperm := State.permits_reg hi hmay
  unfold State.busWrite
  rw [htarget]
  cases m with
  | bar2 p => exact absurd h State.reaches_not_bar2
  | _ => simp [hperm, hresp, Target.blk]

theorem State.guarded_of_may {s : State} {m : Master} {r : RegAt} {write : Bool} (f : State → State)
    (hresp : s.responds r.rn.spec.blk = true) (hmay : (s.view m).may r.rn write = true) : s.guarded m r write f = f s := by
  simp [State.guarded, hresp, hmay]

/-- A 32-bit write that reaches a register of 32 bits commits its value. -/
theorem State.busWrite_narrow {s : State} {m : Master} {off : Nat} {r : RegAt} {hi : Bool} (v : Nat)
    (h : s.reaches m off r hi true) (hnarrow : r.rn.spec.wide = false) : s.busWrite m off v = s.commit m r v := by
  rw [State.busWrite_of_reaches v h, State.writeWord, if_pos hnarrow]

/-- An aligned 64-bit write that reaches a register of 64 bits commits its value. -/
theorem State.write64_wide {s : State} {m : Master} {off : Nat} {r : RegAt} (v : Nat) (h : s.reaches m off r false true)
    (hwide : r.rn.spec.wide = true) (haligned : off % 8 = 0) : s.write64 m off v = s.commit m r v := by
  obtain ⟨htarget, hresp, hmay⟩ := h
  have hat : wideAt m off = some r := by simp [wideAt, htarget, hwide]
  simp [State.write64, haligned, hat, State.guarded_of_may _ hresp hmay]

/-! ### The commands -/

theorem exec_registerWrite (m : Master) (off : Nat) (v : Word32) (s : State) :
    exec (.registerWrite m off v) s = .next (s.busWrite m off v.toNat) := rfl

theorem exec_lpAlignedAccess_write (m : Master) (off : Nat) (v : Word64) (s : State) :
    exec (.lpAlignedAccess m off (some v)) s = .next (s.write64 m off v.toNat) := rfl

/-- A Selay core may write every register, so that IC_ROUTE_WRITE is never refused where the module answers. -/
theorem exec_icRouteWrite (c : CoreId) (n : Fin 2048) (v : Word32) {s : State} (hresp : s.responds .sel = true) :
    exec (.icRouteWrite c n v) s = .next (s.rwWrite ⟨.selIcRoute, 0, n, 0⟩ v.toNat) :=
  congrArg Host.Outcome.next (State.guarded_of_may (m := .selay c) (r := ⟨.selIcRoute, 0, n, 0⟩) _ hresp rfl)

/-- A command that writes a whole register that does not act is a plain write, in either width. -/
theorem exec_write_of_not_acts {r : RegAt} {s t : State} {v : Nat} {m : Master} {off : Nat} (hacts : r.rn.acts = false)
    (hreach : s.reaches m off r false true)
    (hexec : (r.rn.spec.wide = false ∧ ∃ x : Word32, x.toNat = v ∧ exec (.registerWrite m off x) s = .next t) ∨
      (r.rn.spec.wide = true ∧ off % 8 = 0 ∧ ∃ x : Word64, x.toNat = v ∧ exec (.lpAlignedAccess m off (some x)) s = .next t)) :
    t = s.rwWrite r (r.taken v) := by
  rw [← s.commit_of_not_acts m v hacts]
  obtain ⟨hnarrow, x, rfl, hx⟩ | ⟨hwide, haligned, x, rfl, hx⟩ := hexec
  · rw [exec_registerWrite, State.busWrite_narrow _ hreach hnarrow] at hx
    injection hx with hx
    exact hx.symm
  · rw [exec_lpAlignedAccess_write, State.write64_wide _ hreach hwide haligned] at hx
    injection hx with hx
    exact hx.symm

/-- IC_ROUTE_WRITE is the REGISTER_WRITE of that register by its core. -/
theorem exec_icRouteWrite_eq_registerWrite {c : CoreId} {n : Fin 2048} (v : Word32) {s : State} {off : Nat}
    (h : s.reaches (.selay c) off ⟨.selIcRoute, 0, n, 0⟩ false true) :
    exec (.icRouteWrite c n v) s = exec (.registerWrite (.selay c) off v) s := by
  obtain ⟨_, hresp, _⟩ := id h
  rw [exec_icRouteWrite c n v hresp, exec_registerWrite, State.busWrite_narrow _ h rfl, State.commit_of_not_acts _ _ _ rfl]
  rfl

/-- Both fields of an interrupt route, the enable in bit 8 and the core in bits 1 and 0, take what is written (R60). -/
theorem State.rwWrite_icRoute (s : State) (n : Nat) (v : Nat) :
    bit ((s.rwWrite ⟨.selIcRoute, 0, n, 0⟩ v).reg .selIcRoute 0 n) 8 = bit v 8 ∧
      bits ((s.rwWrite ⟨.selIcRoute, 0, n, 0⟩ v).reg .selIcRoute 0 n) 1 0 = bits v 1 0 := by
  have field (f : Fld) (hf : f ∈ Rn.selIcRoute.spec.flds) := s.rwWrite_field_unreserved ⟨.selIcRoute, 0, n, 0⟩ v hf
  have enable := field ⟨8, 8, .rw, 0, 0, 1, false⟩ (by decide) rfl rfl (by decide)
  have core := field ⟨1, 0, .rw, 0, 0, 3, false⟩ (by decide) rfl rfl (by decide)
  exact ⟨by rw [bit_eq_bits, bit_eq_bits]; exact congrArg (· == 1) enable, core⟩

end Sys2Proof.Machine

namespace Sys2Proof.Proofs

open Sys2Proof.Machine

/-- Settles O8: a register that does not act commits a write by rwWrite, whose fields and frame are known. -/
theorem plainWritesTakeTheirFields : Obligations.PlainWritesTakeTheirFields := by
  unfold Obligations.PlainWritesTakeTheirFields
  refine ⟨fun r s t v w hacts ⟨m, off, hreach, hexec⟩ => ?_, fun m off r v w s _ => ?_, fun c n v s hresp => ⟨fun off => ?_, ?_⟩⟩
  · obtain rfl := exec_write_of_not_acts hacts hreach hexec
    exact ⟨s.rwWrite_sameBut r _, s.rwWrite_regsBut r _, fun f hf hrw => s.rwWrite_field r _ hf hrw, s.rwWrite_bit_outside r _ w⟩
  · exact ⟨fun _ => ⟨_, exec_registerWrite m off v s⟩, fun _ => ⟨_, exec_lpAlignedAccess_write m off w s⟩⟩
  · exact exec_icRouteWrite_eq_registerWrite v
  · exact ⟨_, exec_icRouteWrite c n v hresp, s.rwWrite_sameBut _ _, s.rwWrite_regsBut _ _, s.rwWrite_icRoute n v.toNat⟩

end Sys2Proof.Proofs

/-! PROOF. The module right after a cold reset (R8, R26). -/

namespace Sys2Proof.Machine

/-! ### What the state right after a cold reset reads as -/

theorem State.regAt_reset (r : RegAt) : State.reset.regAt r = r.reset := Tab.get_nil _ _

/-- Tags of a range of which none is listed are all clear. -/
theorem readTags_nil (a n : Nat) : readTags [] a n = List.replicate n false := by
  induction n generalizing a with
  | zero => rfl
  | succ n ih => rw [readTags, ih, List.replicate_succ, Tab.get_nil]

theorem State.poisoned_reset (a n : Nat) : State.reset.poisoned a n = false := by
  have htags : readTags State.reset.memTag a n = List.replicate n false := readTags_nil a n
  simp [State.poisoned, htags]

theorem State.isFenced_reset (b : Nat) : State.reset.isFenced b = false := Tab.get_nil _ _

theorem State.local_reset (b : Nat) : State.reset.local b = 0 := Tab.get_nil _ _

theorem State.stall_reset (g : Nat) : State.reset.stall g = {} := Tab.get_nil _ _

theorem State.link_reset (k : Nat) : State.reset.link k = {} := Tab.get_nil _ _

end Sys2Proof.Machine

namespace Sys2Proof.Proofs

open Sys2Proof.Machine

/-- Settles O2: State.reset lists nothing, so that each table reads its default. -/
theorem resetStateOfTheModule : Obligations.ResetStateOfTheModule := by
  unfold Obligations.ResetStateOfTheModule
  refine ⟨rfl, rfl, State.regAt_reset, fun b => ⟨State.isFenced_reset b, State.local_reset b⟩, rfl, rfl, State.poisoned_reset,
    fun g => ?stall, fun k => ?link, rfl, rfl, rfl⟩
  case stall => rw [State.stall_reset]; exact ⟨rfl, rfl⟩
  case link => rw [State.link_reset]

end Sys2Proof.Proofs

/-! PROOF. What a command changes, row by row: the law of its meaning, over the parts that touches lists for it. Fences, straps and
boot flash (R31, R481, R483) follow. -/

namespace Sys2Proof.Machine

theorem Within.of_eq {a l : Nat} (h : l = a) : Within a l := by rw [h, Within, Nat.or_self]

theorem State.SafeOut.safe {ps : Nat} {og : Option Nat} {s t : State} {o : Host.Outcome State Fault Refusal} (h : s.SafeOut ps og o)
    (e : o = .next t) : s.Safe ps og t := by
  subst e
  exact h

/-- The law of FINGERPRINT_RECOMPUTE about its next state: the outcome itself, of which SafeOut speaks, is decided by a digest. -/
theorem execFingerprintRecompute_next {s t : State} (h : execFingerprintRecompute s = .next t) : s.Safe 0x204 none t := by
  have regs (d : List Byte) (new : Nat) : s.Safe 0x204 none ((s.setRegBytes .cfgFp d).setReg .cfgFp64 0 0 new) :=
    State.setReg_safe _ _ _ _ _ rfl (State.setRegBytes_safe _ _ _ rfl (.refl s))
  unfold execFingerprintRecompute at h
  generalize sha384 s.fpBytes = d at h
  dsimp only at h
  split at h
  · injection h with h
    subst h
    exact regs d _
  · injection h with h
    subst h
    exact State.raiseOnce_safe _ _ _ _ _ _ _ _ rfl (regs d _)

/-- A flash operation that ends changes nothing but the board. -/
theorem execFlashComplete_next {s t : State} (h : execFlashComplete s = .next t) :
    s.fencesStay t ∧ t.sec.straps = s.sec.straps := by
  unfold execFlashComplete at h
  split at h <;> (injection h with h; subst h; exact ⟨fun _ hb => hb, rfl⟩)

/-- The commands that return a bay, reset the module, remove its power or end a flash operation. -/
def unsettles : Instr → Bool
  | .bayReturn _ _ | .coldReset _ _ _ | .powerLoss | .flashComplete => true
  | _ => false

/-- Every other command is safe within the parts that touches lists for it and the stall that stallOf names. -/
theorem exec_safe {c : Instr} {s t : State} (hc : unsettles c = false) (h : exec c s = .next t) :
    s.Safe (Part.mask (touches c)) (stallOf c) t := by
  cases c with
  | bayReturn _ _ | coldReset _ _ _ | powerLoss | flashComplete => cases hc
  | registerWrite m off v => exact (execRegisterWrite_safe m off v s (.of_eq rfl) rfl (.refl s)).safe h
  | lpLowRead m off => exact (execLpLowRead_safe m off s (.of_eq rfl) (.refl s)).safe h
  | lpLowWrite m off v => exact (execLpLowWrite_safe m off v s (.of_eq rfl) rfl (.refl s)).safe h
  | lpHighWrite m off v => exact (execLpHighWrite_safe m off v s (.of_eq rfl) rfl (.refl s)).safe h
  | lpAlignedAccess m off wr => exact (execLpAlignedAccess_safe m off wr s (.of_eq rfl) rfl (.refl s)).safe h
  | sqClearWrite m off v => exact (execSqClearWrite_safe m off v s (.of_eq rfl) rfl (.refl s)).safe h
  | rcCounterRead m off inc => exact (execRcCounterRead_safe m off inc s (.of_eq rfl) (.refl s)).safe h
  | unmappedAccess m off write width => exact (execUnmappedAccess_safe m off write s width (.of_eq rfl) (.refl s)).safe h
  | privilegeViolation m off write => exact (execPrivilegeViolation_safe m off write s (.of_eq rfl) rfl (.refl s)).safe h
  | eventRingWrite => exact (execEventRingWrite_safe s (.of_eq rfl) (.refl s)).safe h
  | evringEnable m v => exact (execEvringEnable_safe m v s (.of_eq rfl) (.refl s)).safe h
  | evringDisable m v => exact (execEvringDisable_safe m v s (.of_eq rfl) (.refl s)).safe h
  | evringTailWrite m v => exact (execEvringTailWrite_safe m v s (.of_eq rfl) (.refl s)).safe h
  | icDone c v => exact (execIcDone_safe c v s (.of_eq rfl) (.refl s)).safe h
  | icRouteWrite c n v => exact (execIcRouteWrite_safe c n v s (.of_eq rfl) (.refl s)).safe h
  | icSignal c v => exact (execIcSignal_safe c v s (.of_eq rfl) (.refl s)).safe h
  | selayTimer c => exact (execSelayTimer_safe c s (.of_eq rfl) (.refl s)).safe h
  | msixRaise c v => exact (execMsixRaise_safe c v s (.of_eq rfl) (.refl s)).safe h
  | amaxWrite m off v fold => exact (execAmaxWrite_safe m off v fold s (.of_eq rfl) (.refl s)).safe h
  | fence b cause => exact (execFence_safe b cause s (.of_eq rfl) rfl (.refl s)).safe h
  | hubFault cause => exact (execHubFault_safe cause s (.of_eq rfl) (.refl s)).safe h
  | tailSnoop q stores => exact (execTailSnoop_safe q s stores (.of_eq rfl) (.refl s)).safe h
  | recordAdmission q => exact (execRecordAdmission_safe q s (.of_eq rfl) (.refl s)).safe h
  | recordRetest q => exact (execRecordRetest_safe q s (.of_eq rfl) (.refl s)).safe h
  | batchClose q => exact (execBatchClose_safe q s (.of_eq rfl) (.refl s)).safe h
  | jobDispatch => exact (execJobDispatch_safe s (.of_eq rfl) rfl (.refl s)).safe h
  | jobRerun slot => exact (execJobRerun_safe slot s (.of_eq rfl) rfl (.refl s)).safe h
  | jobCommit q => exact (execJobCommit_safe q s (.of_eq rfl) rfl (.refl s)).safe h
  | faultNotice => exact (execFaultNotice_safe s (.of_eq rfl) rfl (.refl s)).safe h
  | mpass g => exact (execMpass_safe g s (.of_eq rfl) (.inr rfl) (.refl s)).safe h
  | weightSetRead g => exact (execWeightSetRead_safe g s (.of_eq rfl) (.inr rfl) (.refl s)).safe h
  | stagedSetMove g => exact (execStagedSetMove_safe g s (.of_eq rfl) (.inr rfl) (.refl s)).safe h
  | frontSwap g a row => exact (execFrontSwap_safe g a row s (.of_eq rfl) (.inr rfl) (.refl s)).safe h
  | epilogueRow g a row => exact (execEpilogueRow_safe g a row s (.of_eq rfl) (.inr rfl) (.refl s)).safe h
  | mpassComplete g => exact (execMpassComplete_safe g s (.of_eq rfl) rfl (.refl s)).safe h
  | jbegin g => exact (execJbegin_safe g s (.of_eq rfl) rfl (.refl s)).safe h
  | jcommit g => exact (execJcommit_safe g s (.of_eq rfl) (.inr rfl) (.refl s)).safe h
  | jcommitComplete g => exact (execJcommitComplete_safe g s (.of_eq rfl) (.inr rfl) (.refl s)).safe h
  | qrep g => exact (execQrep_safe g s (.of_eq rfl) (.inr rfl) (.refl s)).safe h
  | qrepIteration g => exact (execQrepIteration_safe g s (.of_eq rfl) (.inr rfl) (.refl s)).safe h
  | wload g => exact (execWload_safe g s (.of_eq rfl) (.inr rfl) (.refl s)).safe h
  | sld g => exact (execSld_safe g s (.of_eq rfl) (.inr rfl) (.refl s)).safe h
  | sst g => exact (execSst_safe g s (.of_eq rfl) (.inr rfl) (.refl s)).safe h
  | fxch g => exact (execFxch_safe g s (.of_eq rfl) (.inr rfl) (.refl s)).safe h
  | takeInstruction g => exact (execTakeInstruction_safe g s (.of_eq rfl) (.inr rfl) (.refl s)).safe h
  | tprod g => exact (execTprod_safe g s (.of_eq rfl) (.inr rfl) (.refl s)).safe h
  | tprodProduction g => exact (execTprodProduction_safe g s (.of_eq rfl) rfl (.refl s)).safe h
  | twait g => exact (execTwait_safe g s (.of_eq rfl) (.inr rfl) (.refl s)).safe h
  | token p => exact (execToken_safe p s (.of_eq rfl) rfl (.refl s)).safe h
  | fabricTokenBeat g chan => exact (execFabricTokenBeat_safe g chan s (.of_eq rfl) rfl (.refl s)).safe h
  | watchExpiry g => exact (execWatchExpiry_safe g s (.of_eq rfl) (.inr rfl) (.refl s)).safe h
  | watchCtlWrite m g v => exact (execWatchCtlWrite_safe m g v s (.of_eq rfl) (.inr rfl) (.refl s)).safe h
  | watchDeclare c g v => exact (execWatchDeclare_safe c g v s (.of_eq rfl) rfl (.refl s)).safe h
  | nop g => exact (execNop_safe g s (.of_eq rfl) rfl (.refl s)).safe h
  | add g => exact (execAdd_safe g s (.of_eq rfl) rfl (.refl s)).safe h
  | sub g => exact (execSub_safe g s (.of_eq rfl) rfl (.refl s)).safe h
  | adds g => exact (execAdds_safe g s (.of_eq rfl) rfl (.refl s)).safe h
  | subs g => exact (execSubs_safe g s (.of_eq rfl) rfl (.refl s)).safe h
  | and g => exact (execAnd_safe g s (.of_eq rfl) rfl (.refl s)).safe h
  | or g => exact (execOr_safe g s (.of_eq rfl) rfl (.refl s)).safe h
  | xor g => exact (execXor_safe g s (.of_eq rfl) rfl (.refl s)).safe h
  | shl g => exact (execShl_safe g s (.of_eq rfl) rfl (.refl s)).safe h
  | shr g => exact (execShr_safe g s (.of_eq rfl) rfl (.refl s)).safe h
  | sra g => exact (execSra_safe g s (.of_eq rfl) rfl (.refl s)).safe h
  | srar g => exact (execSrar_safe g s (.of_eq rfl) rfl (.refl s)).safe h
  | min g => exact (execMin_safe g s (.of_eq rfl) rfl (.refl s)).safe h
  | max g => exact (execMax_safe g s (.of_eq rfl) rfl (.refl s)).safe h
  | slt g => exact (execSlt_safe g s (.of_eq rfl) rfl (.refl s)).safe h
  | seq g => exact (execSeq_safe g s (.of_eq rfl) rfl (.refl s)).safe h
  | movi g => exact (execMovi_safe g s (.of_eq rfl) rfl (.refl s)).safe h
  | movh g => exact (execMovh_safe g s (.of_eq rfl) rfl (.refl s)).safe h
  | mul g => exact (execMul_safe g s (.of_eq rfl) rfl (.refl s)).safe h
  | muls g => exact (execMuls_safe g s (.of_eq rfl) rfl (.refl s)).safe h
  | mulq g => exact (execMulq_safe g s (.of_eq rfl) rfl (.refl s)).safe h
  | mac g => exact (execMac_safe g s (.of_eq rfl) rfl (.refl s)).safe h
  | msu g => exact (execMsu_safe g s (.of_eq rfl) rfl (.refl s)).safe h
  | macw g => exact (execMacw_safe g s (.of_eq rfl) rfl (.refl s)).safe h
  | aclr g => exact (execAclr_safe g s (.of_eq rfl) rfl (.refl s)).safe h
  | ashr g => exact (execAshr_safe g s (.of_eq rfl) rfl (.refl s)).safe h
  | norm g => exact (execNorm_safe g s (.of_eq rfl) rfl (.refl s)).safe h
  | nshl g => exact (execNshl_safe g s (.of_eq rfl) rfl (.refl s)).safe h
  | expx g => exact (execExpx_safe g s (.of_eq rfl) rfl (.refl s)).safe h
  | expe8 g => exact (execExpe8_safe g s (.of_eq rfl) rfl (.refl s)).safe h
  | aadd g => exact (execAadd_safe g s (.of_eq rfl) rfl (.refl s)).safe h
  | asub g => exact (execAsub_safe g s (.of_eq rfl) rfl (.refl s)).safe h
  | aaddl g => exact (execAaddl_safe g s (.of_eq rfl) rfl (.refl s)).safe h
  | amul16 g => exact (execAmul16_safe g s (.of_eq rfl) rfl (.refl s)).safe h
  | aelm g => exact (execAelm_safe g s (.of_eq rfl) rfl (.refl s)).safe h
  | acmplt g => exact (execAcmplt_safe g s (.of_eq rfl) rfl (.refl s)).safe h
  | mov g => exact (execMov_safe g s (.of_eq rfl) rfl (.refl s)).safe h
  | ld g => exact (execLd_safe g s (.of_eq rfl) rfl (.refl s)).safe h
  | st g => exact (execSt_safe g s (.of_eq rfl) rfl (.refl s)).safe h
  | take g => exact (execTake_safe g s (.of_eq rfl) rfl (.refl s)).safe h
  | br g => exact (execBr_safe g s (.of_eq rfl) rfl (.refl s)).safe h
  | bz g => exact (execBz_safe g s (.of_eq rfl) rfl (.refl s)).safe h
  | bnz g => exact (execBnz_safe g s (.of_eq rfl) rfl (.refl s)).safe h
  | bltz g => exact (execBltz_safe g s (.of_eq rfl) rfl (.refl s)).safe h
  | loop g => exact (execLoop_safe g s (.of_eq rfl) rfl (.refl s)).safe h
  | waitt g => exact (execWaitt_safe g s (.of_eq rfl) rfl (.refl s)).safe h
  | pub g => exact (execPub_safe g s (.of_eq rfl) rfl (.refl s)).safe h
  | trap g => exact (execTrap_safe g s (.of_eq rfl) rfl (.refl s)).safe h
  | reti g => exact (execReti_safe g s (.of_eq rfl) rfl (.refl s)).safe h
  | halt g => exact (execHalt_safe g s (.of_eq rfl) rfl (.refl s)).safe h
  | writeLand g => exact (execWriteLand_safe g s (.of_eq rfl) (.inr rfl) (.refl s)).safe h
  | interruptEntry g => exact (execInterruptEntry_safe g s (.of_eq rfl) (.inr rfl) (.refl s)).safe h
  | issueTimerExpiry g => exact (execIssueTimerExpiry_safe g s (.of_eq rfl) (.inr rfl) (.refl s)).safe h
  | tallyArm c b v => exact (execTallyArm_safe c b v s (.of_eq rfl) (.refl s)).safe h
  | tallyRelease c b v => exact (execTallyRelease_safe c b v s (.of_eq rfl) (.refl s)).safe h
  | takeNext b => exact (execTakeNext_safe b s (.of_eq rfl) (.refl s)).safe h
  | report b => exact (execReport_safe b s (.of_eq rfl) rfl (.refl s)).safe h
  | cellRelease b cell => exact (execCellRelease_safe b cell s (.of_eq rfl) (.refl s)).safe h
  | vopAdd g => exact (execVopAdd_safe g s (.of_eq rfl) (.inr rfl) (.refl s)).safe h
  | vopSub g => exact (execVopSub_safe g s (.of_eq rfl) (.inr rfl) (.refl s)).safe h
  | vopMul g => exact (execVopMul_safe g s (.of_eq rfl) (.inr rfl) (.refl s)).safe h
  | vopMax g => exact (execVopMax_safe g s (.of_eq rfl) (.inr rfl) (.refl s)).safe h
  | vopMin g => exact (execVopMin_safe g s (.of_eq rfl) (.inr rfl) (.refl s)).safe h
  | vopFma g => exact (execVopFma_safe g s (.of_eq rfl) (.inr rfl) (.refl s)).safe h
  | vopBscale g => exact (execVopBscale_safe g s (.of_eq rfl) (.inr rfl) (.refl s)).safe h
  | vopCvt g => exact (execVopCvt_safe g s (.of_eq rfl) (.inr rfl) (.refl s)).safe h
  | vopAbs g => exact (execVopAbs_safe g s (.of_eq rfl) (.inr rfl) (.refl s)).safe h
  | vopNeg g => exact (execVopNeg_safe g s (.of_eq rfl) (.inr rfl) (.refl s)).safe h
  | vopExp2 g => exact (execVopExp2_safe g s (.of_eq rfl) (.inr rfl) (.refl s)).safe h
  | vopLog2 g => exact (execVopLog2_safe g s (.of_eq rfl) (.inr rfl) (.refl s)).safe h
  | vopRcp g => exact (execVopRcp_safe g s (.of_eq rfl) (.inr rfl) (.refl s)).safe h
  | vopRsqrt g => exact (execVopRsqrt_safe g s (.of_eq rfl) (.inr rfl) (.refl s)).safe h
  | vopRsum g => exact (execVopRsum_safe g s (.of_eq rfl) (.inr rfl) (.refl s)).safe h
  | vopRmax g => exact (execVopRmax_safe g s (.of_eq rfl) (.inr rfl) (.refl s)).safe h
  | vopRmin g => exact (execVopRmin_safe g s (.of_eq rfl) (.inr rfl) (.refl s)).safe h
  | vopRamax g => exact (execVopRamax_safe g s (.of_eq rfl) (.inr rfl) (.refl s)).safe h
  | vopScani g => exact (execVopScani_safe g s (.of_eq rfl) (.inr rfl) (.refl s)).safe h
  | vopScane g => exact (execVopScane_safe g s (.of_eq rfl) (.inr rfl) (.refl s)).safe h
  | vopScanmax g => exact (execVopScanmax_safe g s (.of_eq rfl) (.inr rfl) (.refl s)).safe h
  | vopComplete g waits => exact (execVopComplete_safe g waits s (.of_eq rfl) rfl (.refl s)).safe h
  | strArm c g k v => exact (execStrArm_safe c g k v s (.of_eq rfl) (.inr rfl) (.refl s)).safe h
  | standbyStart g k => exact (execStandbyStart_safe g k s (.of_eq rfl) (.inr rfl) (.refl s)).safe h
  | walk g q dva acc => exact (execWalk_safe g q dva acc s (.of_eq rfl) (.inr rfl) (.refl s)).safe h
  | streamComplete g k errs => exact (execStreamComplete_safe g k s errs (.of_eq rfl) rfl (.refl s)).safe h
  | commandSlot b pc illegal symErrs odecc => exact (execCommandSlot_safe b pc illegal symErrs odecc s (.of_eq rfl) (.refl s)).safe h
  | refreshDue b pc bank => exact (execRefreshDue_safe b pc bank s (.of_eq rfl) (.refl s)).safe h
  | rfmRequest b pc => exact (execRfmRequest_safe b pc s (.of_eq rfl) (.refl s)).safe h
  | stackTemperature b degC => exact (execStackTemperature_safe b degC s (.of_eq rfl) (.refl s)).safe h
  | retrainSlot b ch => exact (execRetrainSlot_safe b ch s (.of_eq rfl) (.refl s)).safe h
  | retrainComplete b ch ok => exact (execRetrainComplete_safe b ch ok s (.of_eq rfl) (.refl s)).safe h
  | stackFatal b catastrophic => exact (execStackFatal_safe b catastrophic s (.of_eq rfl) (.refl s)).safe h
  | fchgGo c b v => exact (execFchgGo_safe c b v s (.of_eq rfl) (.refl s)).safe h
  | fchgDrained b => exact (execFchgDrained_safe b s (.of_eq rfl) (.refl s)).safe h
  | fchgRelock b => exact (execFchgRelock_safe b s (.of_eq rfl) (.refl s)).safe h
  | fchgRetrainDone b failed => exact (execFchgRetrainDone_safe b failed s (.of_eq rfl) (.refl s)).safe h
  | fabPllWrite c b n div v => exact (execFabPllWrite_safe c b n div v s (.of_eq rfl) (.refl s)).safe h
  | pllLock b n => exact (execPllLock_safe b n s (.of_eq rfl) (.refl s)).safe h
  | pllLockTimeout b n => exact (execPllLockTimeout_safe b n s (.of_eq rfl) (.refl s)).safe h
  | pllLossOfLock b n => exact (execPllLossOfLock_safe b n s (.of_eq rfl) (.refl s)).safe h
  | gclkSelect c b n v => exact (execGclkSelect_safe c b n v s (.of_eq rfl) (.refl s)).safe h
  | sleepInput b n level => exact (execSleepInput_safe b n level s (.of_eq rfl) (.refl s)).safe h
  | ramPortAccess b block portB op => exact (execRamPortAccess_safe b block portB op s (.of_eq rfl) (.refl s)).safe h
  | queuePush b block data poison => exact (execQueuePush_safe b block data poison s (.of_eq rfl) (.refl s)).safe h
  | queuePop b block => exact (execQueuePop_safe b block s (.of_eq rfl) (.refl s)).safe h
  | rstQ b block => exact (execRstQ_safe b block s (.of_eq rfl) (.refl s)).safe h
  | blockNocAccess b block line wr portBEnable => exact (execBlockNocAccess_safe b block line wr portBEnable s (.of_eq rfl) (.refl s)).safe h
  | outboundBeat g ready => exact (execOutboundBeat_safe g ready s (.of_eq rfl) (.inr rfl) (.refl s)).safe h
  | inboundBeat g beat => exact (execInboundBeat_safe g beat s (.of_eq rfl) (.inr rfl) (.refl s)).safe h
  | endpointFlit b ep f => exact (execEndpointFlit_safe b ep f s (.of_eq rfl) (.refl s)).safe h
  | endpointDelivery b ep domainReady => exact (execEndpointDelivery_safe b ep domainReady s (.of_eq rfl) (.refl s)).safe h
  | wakeTimeout b ep => exact (execWakeTimeout_safe b ep s (.of_eq rfl) (.refl s)).safe h
  | load m v => exact (execLoad_safe m v s (.of_eq rfl) (.refl s)).safe h
  | isolateAndClear m v => exact (execIsolateAndClear_safe m v s (.of_eq rfl) rfl (.refl s)).safe h
  | sessionEnd m v => exact (execSessionEnd_safe m v s (.of_eq rfl) (.refl s)).safe h
  | restart m v => exact (execRestart_safe m v s (.of_eq rfl) rfl (.refl s)).safe h
  | doneSeen high => exact (execDoneSeen_safe s high (.of_eq rfl) (.refl s)).safe h
  | cfgDonewait => exact (execCfgDonewait_safe s (.of_eq rfl) (.refl s)).safe h
  | loaderChecks => exact (execLoaderChecks_safe s (.of_eq rfl) rfl (.refl s)).safe h
  | loaderClearDone => exact (execLoaderClearDone_safe s (.of_eq rfl) (.refl s)).safe h
  | payloadBlock => exact (execPayloadBlock_safe s (.of_eq rfl) rfl (.refl s)).safe h
  | loaderDigest => exact (execLoaderDigest_safe s (.of_eq rfl) rfl (.refl s)).safe h
  | clockPlanLock => exact (execClockPlanLock_safe s (.of_eq rfl) rfl (.refl s)).safe h
  | loadCommit => exact (execLoadCommit_safe s (.of_eq rfl) (.refl s)).safe h
  | gatesOpen p => exact (execGatesOpen_safe p s (.of_eq rfl) (.refl s)).safe h
  | writeEnablesOn p => exact (execWriteEnablesOn_safe p s (.of_eq rfl) (.refl s)).safe h
  | resetsReleased p => exact (execResetsReleased_safe p s (.of_eq rfl) (.refl s)).safe h
  | auditStep b votes => exact (execAuditStep_safe b votes s (.of_eq rfl) rfl (.refl s)).safe h
  | fingerprintRecompute => exact execFingerprintRecompute_next h
  | errpinWrite m v => exact (execErrpinWrite_safe m v s (.of_eq rfl) (.refl s)).safe h
  | flitCheckFail r port => exact (execFlitCheckFail_safe r port s (.of_eq rfl) (.refl s)).safe h
  | flitGrant r port => exact (execFlitGrant_safe r port s (.of_eq rfl) (.refl s)).safe h
  | traceCtlWrite m region v => exact (execTraceCtlWrite_safe m region v s (.of_eq rfl) (.refl s)).safe h
  | routeCommit c b v => exact (execRouteCommit_safe c b v s (.of_eq rfl) (.refl s)).safe h
  | resend src dest => exact (execResend_safe src dest s (.of_eq rfl) (.refl s)).safe h
  | rd f => exact (execRd_safe f s (.of_eq rfl) (.refl s)).safe h
  | wr pfx f => exact (execWr_safe pfx f s (.of_eq rfl) (.refl s)).safe h
  | msg f => exact (execMsg_safe f s (.of_eq rfl) (.refl s)).safe h
  | mrd f => exact (execMrd_safe f s (.of_eq rfl) (.refl s)).safe h
  | mwr f => exact (execMwr_safe f s (.of_eq rfl) rfl (.refl s)).safe h
  | rdata f => exact (execRdata_safe f s (.of_eq rfl) (.refl s)).safe h
  | wack f => exact (execWack_safe f s (.of_eq rfl) (.refl s)).safe h
  | ack f => exact (execAck_safe f s (.of_eq rfl) (.refl s)).safe h
  | tans g => exact (execTans_safe g s (.of_eq rfl) rfl (.refl s)).safe h
  | mdata f => exact (execMdata_safe f s (.of_eq rfl) (.refl s)).safe h
  | nack f => exact (execNack_safe f s (.of_eq rfl) (.refl s)).safe h
  | linkEnable m k v => exact (execLinkEnable_safe m k v s (.of_eq rfl) (.refl s)).safe h
  | linkDisable m k v => exact (execLinkDisable_safe m k v s (.of_eq rfl) (.refl s)).safe h
  | signalDetected k lanes => exact (execSignalDetected_safe k lanes s (.of_eq rfl) (.refl s)).safe h
  | lanesLocked k lanes => exact (execLanesLocked_safe k lanes s (.of_eq rfl) (.refl s)).safe h
  | lockTimeout k => exact (execLockTimeout_safe k s (.of_eq rfl) (.refl s)).safe h
  | config k peer => exact (execConfig_safe k peer s (.of_eq rfl) (.refl s)).safe h
  | configTimeout k => exact (execConfigTimeout_safe k s (.of_eq rfl) (.refl s)).safe h
  | stepTimeout k failed => exact (execStepTimeout_safe k failed s (.of_eq rfl) (.refl s)).safe h
  | markerLockLoss k lane => exact (execMarkerLockLoss_safe k lane s (.of_eq rfl) (.refl s)).safe h
  | codeword k number line skew => exact (execCodeword_safe k number line s skew (.of_eq rfl) (.refl s)).safe h
  | control k ackNo nak credits => exact (execControl_safe k ackNo nak credits s (.of_eq rfl) (.refl s)).safe h
  | flit k f => exact (execFlit_safe k f s (.of_eq rfl) (.refl s)).safe h
  | fp k fp64 epoch => exact (execFp_safe k fp64 epoch s (.of_eq rfl) (.refl s)).safe h
  | fpSend k => exact (execFpSend_safe k s (.of_eq rfl) (.refl s)).safe h
  | sleepIdle k => exact (execSleepIdle_safe k s (.of_eq rfl) (.refl s)).safe h
  | sleepReq k => exact (execSleepReq_safe k s (.of_eq rfl) (.refl s)).safe h
  | sleepAck k => exact (execSleepAck_safe k s (.of_eq rfl) (.refl s)).safe h
  | wakeBurst k => exact (execWakeBurst_safe k s (.of_eq rfl) (.refl s)).safe h
  | linkWakeTimeout k => exact (execLinkWakeTimeout_safe k s (.of_eq rfl) (.refl s)).safe h
  | fecInj m k v => exact (execFecInj_safe m k v s (.of_eq rfl) (.refl s)).safe h
  | injOne m k lane v => exact (execInjOne_safe m k lane v s (.of_eq rfl) (.refl s)).safe h
  | hostLinkDown => exact (execHostLinkDown_safe s (.of_eq rfl) (.refl s)).safe h
  | linkDownTimeout => exact (execLinkDownTimeout_safe s (.of_eq rfl) (.refl s)).safe h
  | hostLinkUp speed width cfg => exact (execHostLinkUp_safe speed width cfg s (.of_eq rfl) (.refl s)).safe h
  | hotReset => exact (execHotReset_safe s (.of_eq rfl) rfl (.refl s)).safe h
  | memrd hpa => exact (execMemrd_safe hpa s (.of_eq rfl) (.refl s)).safe h
  | memwr hpa data enables poison => exact (execMemwr_safe hpa data enables poison s (.of_eq rfl) (.refl s)).safe h
  | claim page v => exact (execClaim_safe page v s (.of_eq rfl) (.refl s)).safe h
  | submit m mb v => exact (execSubmit_safe m mb v s (.of_eq rfl) (.refl s)).safe h
  | release m mb v => exact (execRelease_safe m mb v s (.of_eq rfl) (.refl s)).safe h
  | ownerRelease m u v => exact (execOwnerRelease_safe m u v s (.of_eq rfl) (.refl s)).safe h
  | getVersion size => exact (execGetVersion_safe size s (.of_eq rfl) (.refl s)).safe h
  | getCapabilities size => exact (execGetCapabilities_safe size s (.of_eq rfl) (.refl s)).safe h
  | negotiateAlgorithms p384 sha384 size => exact (execNegotiateAlgorithms_safe p384 sha384 size s (.of_eq rfl) (.refl s)).safe h
  | getDigests size => exact (execGetDigests_safe size s (.of_eq rfl) (.refl s)).safe h
  | getCertificate offset length size => exact (execGetCertificate_safe offset length size s (.of_eq rfl) (.refl s)).safe h
  | challenge nonce size => exact (execChallenge_safe nonce size s (.of_eq rfl) (.refl s)).safe h
  | getMeasurements index signed size => exact (execGetMeasurements_safe index signed size s (.of_eq rfl) (.refl s)).safe h
  | identify mb => exact (execIdentify_safe mb s (.of_eq rfl) (.refl s)).safe h
  | fqConfig mb => exact (execFqConfig_safe mb s (.of_eq rfl) (.refl s)).safe h
  | fqStop mb => exact (execFqStop_safe mb s (.of_eq rfl) (.refl s)).safe h
  | xlateInval mb => exact (execXlateInval_safe mb s (.of_eq rfl) rfl (.refl s)).safe h
  | pageResolved mb => exact (execPageResolved_safe mb s (.of_eq rfl) (.refl s)).safe h
  | jobAbandon mb => exact (execJobAbandon_safe mb s (.of_eq rfl) rfl (.refl s)).safe h
  | ctxOpen mb => exact (execCtxOpen_safe mb s (.of_eq rfl) (.refl s)).safe h
  | ctxSet mb => exact (execCtxSet_safe mb s (.of_eq rfl) (.refl s)).safe h
  | ctxClose mb => exact (execCtxClose_safe mb s (.of_eq rfl) (.refl s)).safe h
  | ctxRead mb => exact (execCtxRead_safe mb s (.of_eq rfl) (.refl s)).safe h
  | batchClass mb => exact (execBatchClass_safe mb s (.of_eq rfl) (.refl s)).safe h
  | cfgLoad mb => exact (execCfgLoad_safe mb s (.of_eq rfl) (.refl s)).safe h
  | cfgSession mb => exact (execCfgSession_safe mb s (.of_eq rfl) rfl (.refl s)).safe h
  | cfgIsolate mb => exact (execCfgIsolate_safe mb s (.of_eq rfl) rfl (.refl s)).safe h
  | spdigestSet mb => exact (execSpdigestSet_safe mb s (.of_eq rfl) (.refl s)).safe h
  | bayFence mb => exact (execBayFence_safe mb s (.of_eq rfl) rfl (.refl s)).safe h
  | engBudget mb => exact (execEngBudget_safe mb s (.of_eq rfl) (.refl s)).safe h
  | engRead mb => exact (execEngRead_safe mb s (.of_eq rfl) (.refl s)).safe h
  | lcTransition mb bad => exact (execLcTransition_safe mb bad s (.of_eq rfl) rfl (.refl s)).safe h
  | warmReset mb => exact (execWarmReset_safe mb s (.of_eq rfl) rfl (.refl s)).safe h
  | selayCoreFault c => exact (execSelayCoreFault_safe c s (.of_eq rfl) rfl (.refl s)).safe h
  | ledgerSample bays inputUJ => exact (execLedgerSample_safe bays inputUJ s (.of_eq rfl) (.refl s)).safe h
  | ledgerTick inputMJ => exact (execLedgerTick_safe inputMJ s (.of_eq rfl) (.refl s)).safe h
  | tickAck m v => exact (execTickAck_safe m v s (.of_eq rfl) (.refl s)).safe h
  | rateMonitor b measured => exact (execRateMonitor_safe b measured s (.of_eq rfl) (.refl s)).safe h
  | corewarn b mv => exact (execCorewarn_safe b mv s (.of_eq rfl) (.refl s)).safe h
  | fabwarn b mv => exact (execFabwarn_safe b mv s (.of_eq rfl) (.refl s)).safe h
  | recover b fab mv => exact (execRecover_safe b fab s mv (.of_eq rfl) (.refl s)).safe h
  | corereset b mv => exact (execCorereset_safe b mv s (.of_eq rfl) rfl (.refl s)).safe h
  | fabreset b mv => exact (execFabreset_safe b mv s (.of_eq rfl) rfl (.refl s)).safe h
  | hubwarn mv => exact (execHubwarn_safe mv s (.of_eq rfl) (.refl s)).safe h
  | vsetWrite m b v => exact (execVsetWrite_safe m b v s (.of_eq rfl) (.refl s)).safe h
  | dipFree m b v => exact (execDipFree_safe m b v s (.of_eq rfl) (.refl s)).safe h
  | capSample watts => exact (execCapSample_safe watts s (.of_eq rfl) (.refl s)).safe h
  | throttle b degC => exact (execThrottle_safe b degC s (.of_eq rfl) rfl (.refl s)).safe h
  | hot b degC => exact (execHot_safe b degC s (.of_eq rfl) rfl (.refl s)).safe h
  | trip b degC => exact (execTrip_safe b degC s (.of_eq rfl) rfl (.refl s)).safe h
  | fuseValue m v => exact (execFuseValue_safe m v s (.of_eq rfl) (.refl s)).safe h
  | fuseFill m v => exact (execFuseFill_safe m v s (.of_eq rfl) (.refl s)).safe h
  | fuseRevoke m v => exact (execFuseRevoke_safe m v s (.of_eq rfl) (.refl s)).safe h
  | fuseState m v => exact (execFuseState_safe m v s (.of_eq rfl) (.refl s)).safe h
  | fuseProgrammed verified => exact (execFuseProgrammed_safe verified s (.of_eq rfl) (.refl s)).safe h
  | bkeyStore m v => exact (execBkeyStore_safe m v s (.of_eq rfl) (.refl s)).safe h
  | bkeyZero m v => exact (execBkeyZero_safe m v s (.of_eq rfl) (.refl s)).safe h
  | boot => exact (execBoot_safe s (.of_eq rfl) (.refl s)).safe h
  | extest => exact (execExtest_safe s (.of_eq rfl) (.refl s)).safe h
  | idcode => exact (execIdcode_safe s (.of_eq rfl) (.refl s)).safe h
  | samplePreload cells => exact (execSamplePreload_safe cells s (.of_eq rfl) (.refl s)).safe h
  | regacc off wr => exact (execRegacc_safe off wr s (.of_eq rfl) rfl (.refl s)).safe h
  | bypass => exact (execBypass_safe s (.of_eq rfl) (.refl s)).safe h
  | regRead pecOk off => exact (execRegRead_safe pecOk off s (.of_eq rfl) (.refl s)).safe h
  | regWrite pecOk off v => exact (execRegWrite_safe pecOk off v s (.of_eq rfl) rfl (.refl s)).safe h
  | flashErase pecOk off => exact (execFlashErase_safe pecOk off s (.of_eq rfl) (.refl s)).safe h
  | flashWrite pecOk off data => exact (execFlashWrite_safe pecOk off data s (.of_eq rfl) (.refl s)).safe h
  | flashRead pecOk off => exact (execFlashRead_safe pecOk off s (.of_eq rfl) (.refl s)).safe h
  | flashStatus pecOk => exact (execFlashStatus_safe pecOk s (.of_eq rfl) (.refl s)).safe h
  | pushData pecOk off data => exact (execPushData_safe pecOk off data s (.of_eq rfl) (.refl s)).safe h
  | pushDone pecOk len => exact (execPushDone_safe pecOk len s (.of_eq rfl) (.refl s)).safe h
  | bayPowerOn b => exact (execBayPowerOn_safe b s (.of_eq rfl) (.refl s)).safe h
  | coldStart => exact (execColdStart_safe s (.of_eq rfl) (.refl s)).safe h
  | logicDieFault b => exact (execLogicDieFault_safe b s (.of_eq rfl) (.refl s)).safe h
  | fabricInterruptLine b k level => exact (execFabricInterruptLine_safe b k level s (.of_eq rfl) (.refl s)).safe h
  | patternCheck k lane received => exact (execPatternCheck_safe k lane received s (.of_eq rfl) (.refl s)).safe h
  | keyExchange code size => exact (execKeyExchange_safe code size s (.of_eq rfl) (.refl s)).safe h
  | doeDiscovery index size => exact (execDoeDiscovery_safe index size s (.of_eq rfl) (.refl s)).safe h
  | testLogicReset => exact (execTestLogicReset_safe s (.of_eq rfl) (.refl s)).safe h

end Sys2Proof.Machine

namespace Sys2Proof.Proofs

open Sys2Proof.Machine

/-- Settles O5: every command but the four that the statement names is safe, which keeps fences, straps and flash, and the end of a
flash operation changes the flash alone. -/
theorem fencesStrapsAndFlashHold : Obligations.FencesStrapsAndFlashHold := by
  unfold Obligations.FencesStrapsAndFlashHold
  intro c s t h hreturn hcold hloss
  by_cases hflash : c = .flashComplete
  · subst hflash
    obtain ⟨hfences, hstraps⟩ := execFlashComplete_next h
    exact ⟨hfences, hstraps, fun hne => absurd rfl hne⟩
  · have hc : unsettles c = false := by
      unfold unsettles
      split
      · exact absurd rfl (hreturn _ _)
      · exact absurd rfl (hcold _ _ _)
      · exact absurd rfl hloss
      · exact absurd rfl hflash
      · rfl
    obtain ⟨hfences, hstraps, hflash⟩ := (exec_safe hc h).holds
    exact ⟨hfences, hstraps, fun _ => hflash⟩

end Sys2Proof.Proofs

/-! PROOF. A warm reset of a module that is off (R422, R493), and the statement about the mailbox commands on the module. -/

namespace Sys2Proof.Machine

/-- A module that is off, or that RESET_N holds, takes no warm reset. -/
theorem State.warmReset_off {s : State} (cause : Nat) (h : s.board.powered = false ∨ s.board.held = true) : s.warmReset cause = s :=
  if_pos h

/-- WARM_RESET stands in mailbox 0 of a module whose firmware counts as running while its power is off. No run from reset leads
here, since a loss of power ends the firmware; the statement is about every state and does not ask for power. -/
def warmResetWithoutPower : State :=
  { State.reset with fw := true, board := { powered := false }, mboxes := [(0, { state := 2, req := [(0x110, 0x80)] })] }

theorem warmResetWithoutPower_asks : warmResetWithoutPower.Asks 0 0x80 0 false (warmResetWithoutPower.mbox 0) :=
  { box := rfl, fw := rfl, busy := rfl, opc := by decide, least := Nat.zero_le _, most := by decide, tail := by decide
    kept := rfl, view := fun h => absurd h (by decide) }

end Sys2Proof.Machine

namespace Sys2Proof.Proofs

open Sys2Proof.Machine

/-- Refutes O51: its clause on WARM_RESET does not ask for a module that is on and out of reset. In warmResetWithoutPower the command
is the warm reset, which changes nothing there, so that mailbox 0 stays BUSY, where the statement has it FREE. -/
theorem not_mailboxCommandsOnTheModule : ¬ Obligations.MailboxCommandsOnTheModule := by
  unfold Obligations.MailboxCommandsOnTheModule
  intro h
  obtain ⟨-, -, -, -, -, -, -, -, hwarm⟩ := h 0 warmResetWithoutPower (warmResetWithoutPower.mbox 0)
  obtain ⟨t, -, hreset, -, -, -, -, hboxes, -⟩ := hwarm warmResetWithoutPower_asks
  rw [State.warmReset_off 2 (.inl rfl)] at hreset
  obtain ⟨hfree, -, -⟩ := hboxes 0
  subst hreset
  exact absurd hfree (by decide)

end Sys2Proof.Proofs

/-! PROOF. A fence and the faults of a die (R15, R31, R32, R497): what is read of the tables and the memory after each order of a
fence, and what its orders leave to one another. -/

namespace Sys2Proof.Machine

/-! ### Tables, folds and parts -/

/-- A table of which only the entries of some keys are kept reads as unlisted at the others. -/
theorem Tab.get_filter {α : Type} (d : α) (t : Tab α) (p : Nat → Bool) (k : Nat) :
    Tab.get d (t.filter fun e => p e.1) k = if p k = true then Tab.get d t k else d := by
  induction t with
  | nil => simp
  | cons e t ih =>
    obtain ⟨a, v⟩ := e
    by_cases ha : a = k
    · subst ha
      cases hp : p a <;> simp [hp, Tab.get, ih]
    · cases hp : p a <;> simp [hp, Tab.get, ih, ha]

/-- A key that no step of a fold of stores names reads as before. -/
theorem Tab.get_foldl_set_ne {α β : Type} [DecidableEq β] (d : β) (l : List α) (key : α → Nat) (val : α → β) (t : Tab β) (k : Nat)
    (h : ∀ e ∈ l, k ≠ key e) : Tab.get d (l.foldl (fun t e => Tab.set d t (key e) (val e)) t) k = Tab.get d t k := by
  induction l generalizing t with
  | nil => rfl
  | cons e l ih =>
    rw [List.foldl_cons, ih _ fun x hx => h x (List.mem_cons_of_mem _ hx), Tab.get_set_ne _ _ _ (h e List.mem_cons_self)]

/-- What each step keeps holds after all of them. -/
theorem each_induct {α : Type} {P : State → Prop} {f : State → α → State} (l : List α) {s : State}
    (step : ∀ y, ∀ a ∈ l, P y → P (f y a)) (h : P s) : P (each l s f) := by
  unfold each
  induction l generalizing s with
  | nil => exact h
  | cons a l ih =>
    exact ih (fun y x hx => step y x (List.mem_cons_of_mem _ hx)) (step s a List.mem_cons_self h)

/-- A part outside the parts that may change is the same. -/
theorem State.Safe.part {ps : Nat} {og : Option Nat} {s t : State} (h : s.Safe ps og t) (p : Part)
    (hp : ps.testBit p.ctorIdx = false) : p.same s t := h.only.part p hp

theorem State.Safe.sameBut {l : List Part} {og : Option Nat} {s t : State} (h : s.Safe (Part.mask l) og t) : SameBut l s t :=
  fun p hp => h.part p (Part.mask_mem l p hp)

theorem SameBut.mono {l m : List Part} {s t : State} (h : SameBut l s t) (hlm : ∀ p ∈ l, p ∈ m) : SameBut m s t :=
  fun p hp => h p fun hl => hp (hlm p hl)

/-! ### Events -/

/-- An event stores the advanced value in its register, and touches no other. -/
theorem State.regAt_raise (s : State) (r : Rn) (n k num w0 w1 w2 i : Nat) (q : RegAt) :
    (s.raise r n k num w0 w1 w2 i).regAt q = (s.setReg r n i (evAdvance (s.reg r n i) k)).regAt q := by
  unfold State.raise State.regAt
  rfl

theorem State.reg_raise_same (s : State) (r : Rn) (n k num w0 w1 w2 i : Nat) :
    (s.raise r n k num w0 w1 w2 i).reg r n i = evAdvance (s.reg r n i) k := by
  rw [State.reg, State.regAt_raise, State.setReg, State.regAt_setRegAt_same]

theorem State.raise_regsBut (s : State) (r : Rn) (n k num w0 w1 w2 i : Nat) :
    RegsBut [(RegAt.mk r n i 0).off] s (s.raise r n k num w0 w1 w2 i) := by
  intro q hq
  rw [State.regAt_raise, State.setReg]
  exact s.setRegAt_regsBut _ _ q hq

/-- The pending bit of an event that advanced is set. -/
theorem bit_evAdvance_same (v : Nat) {k : Nat} (hk : k < 24) : bit (evAdvance v k) k = true := by
  have hlow : bits v 23 0 ||| 2 ^ k < 2 ^ 24 := Nat.or_lt_two_pow (bits_lt v 23 0) (Nat.pow_lt_pow_right (by decide) hk)
  rw [bit_eq_testBit, evAdvance, Nat.mul_comm, Nat.testBit_two_pow_mul_add _ hlow, if_pos hk, Nat.testBit_or, Nat.testBit_two_pow_self,
    Bool.or_true]

/-- A vector changes no register. -/
theorem State.msixSend_regAt (s : State) (v : Nat) (q : RegAt) : (s.msixSend v).regAt q = s.regAt q := rfl

/-- Viral and the error status of the port are no registers. -/
theorem State.viral_regAt (s : State) (q : RegAt) : ({ s with viral := true } : State).rasFatal.regAt q = s.regAt q := rfl

/-! ### Memory that is discarded, and memory that is copied -/

theorem State.read_one (s : State) (a : Nat) : s.read a 1 = [Tab.get 0 s.mem a] := rfl

theorem State.discard_mem (s : State) (a n x : Nat) :
    Tab.get 0 (s.discard a n).mem x = if x < a ∨ a + n ≤ x then Tab.get 0 s.mem x else 0 := by
  have h := Tab.get_filter 0 s.mem (fun k => decide (k < a) || decide (a + n ≤ k)) x
  simp only [Bool.or_eq_true, decide_eq_true_eq] at h
  exact h

/-- A copy changes no byte outside its destination. -/
theorem State.copyMem_outside (s : State) (src dst n : Nat) {x : Nat} (h : x < dst ∨ dst + n ≤ x) :
    Tab.get 0 (s.copyMem src dst n).mem x = Tab.get 0 s.mem x := by
  unfold State.copyMem
  dsimp only
  rw [Tab.get_foldl_set_ne 0 _ (fun e : Nat × Byte => dst + (e.1 - src)) (fun e => e.2), State.discard_mem, if_pos h]
  intro e he
  have hsrc : src ≤ e.1 ∧ e.1 < src + n := by simpa using (List.mem_filter.1 he).2
  omega

/-! ### The orders of a fence (R32) -/

/-- The first orders: bay b is fenced, its jobs are marked, and its units and memories lose what they hold. -/
def State.emptyBay (s : State) (b : Nat) : State :=
  State.dropBay (State.fenceJobs { s with
    fenced := Tab.set false s.fenced b true
    ctxLost := ({ s with fenced := Tab.set false s.fenced b true }.ctxDoomed b).foldl (fun t c => Tab.set false t c true) s.ctxLost } b) b

/-- The orders after them, but for the journals: the fabric, the bridges, the port and the rails of the bay. -/
def State.detachBay (s : State) (b : Nat) : State :=
  let s := (s.fencePads b).dropNet b
  (if b % 8 = 7 then s.linkStop (b / 8) 4 else s).railsOff b

/-- The parts that the first orders may change. -/
theorem State.emptyBay_safe (s : State) (b : Nat) : s.Safe 0x8000063fe234 none (s.emptyBay b) := by
  have hfence := (State.Safe.refl s).fence b (og := none) (ps := 0x8000063fe234) rfl
  exact State.dropBay_safe _ _ rfl rfl (State.fenceJobs_safe _ _ rfl rfl (hfence.upd_ctxLost rfl))

/-- The later orders leave the fences, the tallies, the walk caches, the stack and the device memory alone. -/
theorem State.detachBay_safe {x : State} {ps : Nat} {og : Option Nat} (s : State) (b : Nat) (hl : Within 0x8006d004204 ps)
    (ho : og = none) (hx : x.Safe ps og s) : x.Safe ps og (s.detachBay b) := by
  have hnet : x.Safe ps og ((s.fencePads b).dropNet b) :=
    State.dropNet_safe _ _ (hl.of rfl) (State.fencePads_safe _ _ (hl.of rfl) ho hx)
  refine State.railsOff_safe _ _ (hl.of rfl) ?_
  split
  · exact State.linkStop_safe _ _ _ (hl.of rfl) hnet
  · exact hnet

theorem State.dropBay_fenced (s : State) (b : Nat) : (s.dropBay b).fenced = s.fenced := rfl

theorem State.emptyBay_fenced (s : State) (b : Nat) : (s.emptyBay b).fenced = Tab.set false s.fenced b true := by
  have hjobs (y : State) := (State.fenceJobs_safe y b (ps := 0x204234) (og := none) rfl rfl (.refl y)).part .fenced rfl
  exact (State.dropBay_fenced _ b).trans (hjobs _)

theorem State.emptyBay_cells (s : State) (b : Nat) : (s.emptyBay b).cells = s.cells.filter fun e => e.1 / 256 != b := by
  have hjobs (y : State) : (y.fenceJobs b).cells = y.cells :=
    (State.fenceJobs_safe y b (ps := 0x204234) (og := none) rfl rfl (.refl y)).part .cells rfl
  exact congrArg (fun t : Tab Cell => t.filter fun e => e.1 / 256 != b) (hjobs _)

/-- The cells of the bay are gone, and every other cell stays. -/
theorem State.emptyBay_cell (s : State) (b k : Nat) :
    Tab.get {} (s.emptyBay b).cells k = if k / 256 = b then ({} : Cell) else Tab.get {} s.cells k := by
  have h := Tab.get_filter {} s.cells (fun k => k / 256 != b) k
  rw [State.emptyBay_cells, h]
  by_cases hk : k / 256 = b <;> simp [hk]

/-- The tally traffic, the walk cache and the controller of the bay are empty. -/
theorem State.dropBay_units (s : State) (b : Nat) : Tab.get [] (s.dropBay b).takeQ b = [] ∧ Tab.get [] (s.dropBay b).reportQ b = [] ∧
    Tab.get [] (s.dropBay b).bayTlb b = [] ∧ (s.dropBay b).hbm b = {} :=
  ⟨Tab.get_set_same [] s.takeQ b [], Tab.get_set_same [] s.reportQ b [], Tab.get_set_same [] s.bayTlb b [],
    Tab.get_set_same ({} : Hbm) s.hbms b {}⟩

theorem State.emptyBay_units (s : State) (b : Nat) : Tab.get [] (s.emptyBay b).takeQ b = [] ∧
    Tab.get [] (s.emptyBay b).reportQ b = [] ∧ Tab.get [] (s.emptyBay b).bayTlb b = [] ∧ (s.emptyBay b).hbm b = {} :=
  State.dropBay_units _ b

/-- The addresses of the memories of bay b: core, block and system memory, and the stack. -/
def inBay (b x : Nat) : Prop :=
  (coreAddr (b * 64) 0 ≤ x ∧ x < coreAddr (b * 64) 0 + 64 * 0x1000000) ∨ (blockAddr b 0 ≤ x ∧ x < blockAddr b 0 + 0x4000000) ∨
  (sysAddr b 0 ≤ x ∧ x < sysAddr b 0 + 0x800000) ∨ (hbmAddr b 0 ≤ x ∧ x < hbmAddr b 0 + 0x1800000000)

/-- A byte of a discarded range is zero. -/
theorem State.discard_mem_inside (s : State) {a n x : Nat} (h : a ≤ x ∧ x < a + n) : Tab.get 0 (s.discard a n).mem x = 0 := by
  rw [State.discard_mem, if_neg (by omega)]

/-- A byte that is zero stays so when a range is discarded. -/
theorem State.discard_mem_zero {s : State} {x : Nat} (a n : Nat) (h : Tab.get 0 s.mem x = 0) : Tab.get 0 (s.discard a n).mem x = 0 := by
  rw [State.discard_mem, h, ite_self]

theorem State.dropBay_mem (s : State) {b x : Nat} (h : inBay b x) : Tab.get 0 (s.dropBay b).mem x = 0 := by
  unfold State.dropBay
  obtain hcore | hblock | hsys | hhbm := h
  · exact State.discard_mem_zero _ _ (State.discard_mem_zero _ _ (State.discard_mem_zero _ _ (State.discard_mem_inside _ hcore)))
  · exact State.discard_mem_zero _ _ (State.discard_mem_zero _ _ (State.discard_mem_inside _ hblock))
  · exact State.discard_mem_zero _ _ (State.discard_mem_inside _ hsys)
  · exact State.discard_mem_inside _ hhbm

/-- The rails of the bay are off, and stay so while its journals move. -/
theorem State.detachBay_rails (s : State) (b : Nat) : Tab.get false (s.detachBay b).board.railsUp b = false := by
  unfold State.detachBay State.railsOff
  exact Tab.get_set_same false (Board.railsUp _) b false

/-- A journal copy lies in the stack of its bay, below every other memory. -/
theorem journalAddr_below {n q : Nat} (hn : n < 32) (hq : q < 64) : journalAddr n q 0 + 0x200000 ≤ 0x30000000000 := by
  unfold journalAddr hbmAddr
  omega

/-- Journals move within the stacks: a byte of any other memory stays. -/
theorem State.moveJournals_outside (s : State) (b : Nat) {x : Nat} (hx : 0x30000000000 ≤ x) :
    Tab.get 0 (s.moveJournals b).mem x = Tab.get 0 s.mem x := by
  unfold State.moveJournals
  refine each_induct (P := fun y => Tab.get 0 y.mem x = Tab.get 0 s.mem x) _ (fun y q hq hy => ?_) rfl
  have hq64 : q < 64 := by
    obtain ⟨e, he, rfl⟩ := List.mem_map.1 hq
    have := (List.mem_filter.1 he).2
    simp only [Bool.and_eq_true, decide_eq_true_eq] at this
    exact this.1
  split
  · exact hy
  · split
    · exact hy
    · rename_i n hfind
      have hn : n < 32 := List.mem_range.1 (List.mem_of_find?_eq_some hfind)
      have := journalAddr_below hn hq64
      exact (State.copyMem_outside y _ _ _ (.inr (by omega))).trans hy

/-! ### The state after a fence -/

/-- What a fence has left before its event and its vector. -/
def State.cutBay (s : State) (b : Nat) : State := ((s.emptyBay b).detachBay b).moveJournals b

theorem State.fenceBay_eq {s : State} {b : Nat} (cause : Nat) (h : s.isFenced b = false) :
    s.fenceBay b cause = ((s.cutBay b).raise .bayEvent b 0 0x000 cause 0 0).msixSend 67 :=
  if_neg (by simp [h])

theorem State.fenceBay_fenced {s : State} {b : Nat} (cause : Nat) (h : s.isFenced b = true) : s.fenceBay b cause = s := if_pos h

/-- The later orders, the event and the vector keep what the first orders have emptied. -/
theorem State.cutBay_safe (s : State) (b : Nat) : (s.emptyBay b).Safe 0x8006d404234 none (s.cutBay b) :=
  State.moveJournals_safe _ _ rfl (State.detachBay_safe _ _ rfl rfl (.refl _))

theorem State.fenceBay_safe_after {s : State} {b : Nat} (cause : Nat) (h : s.isFenced b = false) :
    (s.emptyBay b).Safe 0x28006d405234 none (s.fenceBay b cause) := by
  rw [State.fenceBay_eq cause h]
  refine State.msixSend_safe _ _ rfl (State.raise_safe _ _ _ _ _ _ _ _ _ rfl ?_)
  exact State.moveJournals_safe _ _ rfl (State.detachBay_safe _ _ rfl rfl (.refl _))

theorem State.fenceBay_isFenced {s : State} {b : Nat} (cause : Nat) (h : s.isFenced b = false) (c : Nat) :
    (s.fenceBay b cause).isFenced c = if c = b then true else s.isFenced c := by
  have hafter : (s.fenceBay b cause).fenced = (s.emptyBay b).fenced := (State.fenceBay_safe_after cause h).part .fenced rfl
  rw [State.isFenced, hafter, State.emptyBay_fenced, Tab.get_set]
  rfl

/-- The event of the fence is pending. -/
theorem State.fenceBay_event {s : State} {b : Nat} (cause : Nat) (h : s.isFenced b = false) :
    bit ((s.fenceBay b cause).reg .bayEvent b) 0 = true := by
  rw [State.fenceBay_eq cause h, State.reg, State.msixSend_regAt, ← State.reg, State.reg_raise_same, bit_evAdvance_same _ (by decide)]

/-- The tally cells of the fenced bay are gone, and every other cell stays. -/
theorem State.fenceBay_cell {s : State} {b : Nat} (cause : Nat) (h : s.isFenced b = false) (k : Nat) :
    Tab.get {} (s.fenceBay b cause).cells k = if k / 256 = b then ({} : Cell) else Tab.get {} s.cells k := by
  have hafter : (s.fenceBay b cause).cells = (s.emptyBay b).cells := (State.fenceBay_safe_after cause h).part .cells rfl
  rw [hafter, State.emptyBay_cell]

/-- The tally traffic, the walk cache and the controller of the fenced bay are empty. -/
theorem State.fenceBay_units {s : State} {b : Nat} (cause : Nat) (h : s.isFenced b = false) :
    Tab.get [] (s.fenceBay b cause).takeQ b = [] ∧ Tab.get [] (s.fenceBay b cause).reportQ b = [] ∧
    Tab.get [] (s.fenceBay b cause).bayTlb b = [] ∧ (s.fenceBay b cause).hbm b = {} := by
  have hafter := State.fenceBay_safe_after cause h
  have htake : (s.fenceBay b cause).takeQ = (s.emptyBay b).takeQ := hafter.part .takeQ rfl
  have hreport : (s.fenceBay b cause).reportQ = (s.emptyBay b).reportQ := hafter.part .reportQ rfl
  have htlb : (s.fenceBay b cause).bayTlb = (s.emptyBay b).bayTlb := hafter.part .bayTlb rfl
  have hhbms : (s.fenceBay b cause).hbms = (s.emptyBay b).hbms := hafter.part .hbms rfl
  rw [htake, hreport, htlb, State.hbm, hhbms]
  exact s.emptyBay_units b

/-- The vector of the fence comes after every vector before it. -/
theorem State.fenceBay_msix {s : State} {b : Nat} (cause : Nat) (h : s.isFenced b = false) :
    (s.fenceBay b cause).msix = s.msix ++ [67] := by
  have hempty : (s.emptyBay b).msix = s.msix := (s.emptyBay_safe b).part .msix rfl
  have hcut : (s.cutBay b).msix = (s.emptyBay b).msix := (s.cutBay_safe b).part .msix rfl
  rw [State.fenceBay_eq cause h]
  simp [State.msixSend, hcut, hempty]

/-- Every byte of the core, block and system memories of the fenced bay reads zero. -/
theorem State.fenceBay_mem {s : State} {b x : Nat} (cause : Nat) (h : s.isFenced b = false) (hbay : inBay b x)
    (hx : 0x30000000000 ≤ x) : (s.fenceBay b cause).read x 1 = [0] := by
  have hmem : (s.fenceBay b cause).mem = (s.cutBay b).mem := by
    rw [State.fenceBay_eq cause h]
    simp [State.msixSend]
  have hdetach : ((s.emptyBay b).detachBay b).mem = (s.emptyBay b).mem :=
    (State.detachBay_safe (s.emptyBay b) b (ps := 0x8006d004204) (og := none) rfl rfl (.refl _)).part .mem rfl
  rw [State.read_one, hmem, State.cutBay, State.moveJournals_outside _ b hx, hdetach, State.emptyBay, State.dropBay_mem _ hbay]

/-- The rails of the fenced bay are off. -/
theorem State.fenceBay_rails {s : State} {b : Nat} (cause : Nat) (h : s.isFenced b = false) :
    Tab.get false (s.fenceBay b cause).board.railsUp b = false := by
  have hboard : (s.fenceBay b cause).board = (s.cutBay b).board := by
    rw [State.fenceBay_eq cause h]
    simp [State.msixSend]
  have hmove : (s.cutBay b).board = ((s.emptyBay b).detachBay b).board :=
    (State.moveJournals_safe ((s.emptyBay b).detachBay b) b (ps := 0x400030) (og := none) rfl (.refl _)).part .board rfl
  rw [hboard, hmove, State.detachBay_rails]

/-! ### The commands -/

theorem exec_fence {s : State} (b : BayId) {cause : Nat} (hfw : s.fw = true) (hlow : 1 ≤ cause) (hhigh : cause ≤ 6) :
    exec (.fence b cause) s = .next (s.fenceBay b cause) := if_pos (by simp [hfw, hlow, hhigh])

theorem exec_fence_fenced {s : State} {b : BayId} (cause : Nat) (h : s.isFenced b = true) : exec (.fence b cause) s = .next s := by
  show execFence b cause s = .next s
  unfold execFence
  rw [State.fenceBay_fenced cause h, ite_self]

/-- A module whose hub die has failed. -/
def State.hubFailed (s : State) (cause : Nat) : State :=
  ({ s.raise .glbEvent 0 2 0x002 cause 0 0 with viral := true }.rasFatal).msixSend 67

theorem exec_hubFault (s : State) {cause : Nat} (h : cause = 1 ∨ cause = 2) :
    exec (.hubFault cause) s = .next (s.hubFailed cause) := if_pos h

/-- A hub fault changes the registers by its event alone. -/
theorem State.hubFailed_regAt (s : State) (cause : Nat) (q : RegAt) :
    (s.hubFailed cause).regAt q = (s.raise .glbEvent 0 2 0x002 cause 0 0).regAt q := by
  rw [State.hubFailed, State.msixSend_regAt, State.viral_regAt]

theorem State.hubFailed_event (s : State) (cause : Nat) :
    (s.hubFailed cause).reg .glbEvent = evAdvance (s.reg .glbEvent) 2 := by
  rw [State.reg, State.hubFailed_regAt, ← State.reg, State.reg_raise_same]

theorem State.hubFailed_regsBut (s : State) (cause : Nat) : RegsBut [0x10] s (s.hubFailed cause) := by
  intro q hq
  rw [State.hubFailed_regAt]
  exact s.raise_regsBut .glbEvent 0 2 0x002 cause 0 0 0 q hq

theorem exec_logicDieFault {s : State} {b : BayId} (h : s.isFenced b = false) :
    exec (.logicDieFault b) s = .next (s.raise .bayEvent b 4 0x004 2 0 0) := if_neg (by simp [h])

end Sys2Proof.Machine

namespace Sys2Proof.Proofs

open Sys2Proof.Machine

/-- Settles O60: the later orders of a fence keep what its first orders have emptied, and the faults of a die are their events. -/
theorem fencesAndDieFaults : Obligations.FencesAndDieFaults := by
  unfold Obligations.FencesAndDieFaults
  intro s b cause
  refine ⟨fun hfw hlow hhigh h => ⟨_, exec_fence b hfw hlow hhigh, ?fence⟩, exec_fence_fenced cause,
    fun hcause => ⟨_, exec_hubFault s hcause, ?hub⟩, exec_logicDieFault⟩
  case fence =>
    have hbay := b.isLt
    have hframe := exec_safe (c := .fence b cause) rfl (exec_fence b hfw hlow hhigh)
    obtain ⟨htake, hreport, htlb, hhbm⟩ := State.fenceBay_units cause h
    refine ⟨?self, fun c hc => ?other, State.fenceBay_event cause h, State.fenceBay_msix cause h, fun k hk => ?gone, fun k hk => ?kept,
      htake, hreport, htlb, hhbm, fun off hoff => ?core, fun off hoff => ?block, fun off hoff => ?sys, State.fenceBay_rails cause h,
      hframe.sameBut .host (by simp [touches]), hframe.sameBut .lcount (by simp [touches])⟩
    case self => rw [State.fenceBay_isFenced cause h, if_pos rfl]
    case other => rw [State.fenceBay_isFenced cause h, if_neg hc]
    case gone => rw [State.fenceBay_cell cause h, if_pos hk]
    case kept => rw [State.fenceBay_cell cause h, if_neg hk]
    case core =>
      refine State.fenceBay_mem cause h (.inl ?_) ?_ <;> unfold coreAddr <;> omega
    case block =>
      refine State.fenceBay_mem cause h (.inr (.inl ?_)) ?_ <;> unfold blockAddr <;> omega
    case sys =>
      refine State.fenceBay_mem cause h (.inr (.inr (.inl ?_))) ?_ <;> unfold sysAddr <;> omega
  case hub =>
    have hframe := exec_safe (c := .hubFault cause) rfl (exec_hubFault s hcause)
    refine ⟨hframe.sameBut.mono (by simp [touches]), s.hubFailed_regsBut cause, s.hubFailed_event cause, rfl, ?_, ?_⟩
    · simp [State.hubFailed, State.msixSend, State.rasFatal]
    · simp [State.hubFailed, State.msixSend, State.rasFatal]

end Sys2Proof.Proofs

/-! PROOF. Fault notices and commits (R35, R206, R258, R416, R421): what the operations of the feed engine leave of the jobs and of
the counts of a queue. -/

namespace Sys2Proof.Machine

/-! ### Jobs -/

/-- A change of one job keeps what it keeps of that job, in every slot. -/
theorem State.modJob_keeps {β : Type} (g : Job → β) {f : Job → Job} (hf : ∀ x, g (f x) = g x) (s : State) (j k : Nat) :
    g ((s.modJob j f).job k) = g (s.job k) := by
  by_cases hk : k = j
  · subst hk
    rw [State.job_modJob_same, hf]
  · rw [State.job_modJob_ne s f hk]

/-- The stalls drop what they hold of a job without a change of the job slots. -/
theorem State.leaveStalls_jobs (s : State) (l : List Nat) (slot gen : Nat) :
    (each l (each l s fun y g => if y.isFenced (g / 64) then y else y.abandonStall g slot gen) fun y g => y.releaseHeld g).jobs = s.jobs := by
  refine each_induct (P := fun y => y.jobs = s.jobs) _ (fun y g _ hy => ?_) ?_
  · exact Eq.trans ((State.releaseHeld_safe y g (ps := 0x4030) (og := none) rfl rfl (.refl y)).part .jobs rfl) hy
  · refine each_induct (P := fun y => y.jobs = s.jobs) _ (fun y g _ hy => ?_) rfl
    split
    · exact hy
    · exact Eq.trans ((State.abandonStall_safe y g slot gen (ps := 0x4204) (og := none) rfl (.inl rfl) (.refl y)).part .jobs rfl) hy

/-- Firmware abandons a job in its own slot alone. -/
theorem State.abandonJob_jobs (s : State) (slot : Nat) :
    (s.abandonJob slot).jobs = Tab.upd {} s.jobs slot fun j => { j with abandoned := true, left := [] } := by
  rw [← s.leaveStalls_jobs (s.job slot).stalls slot (s.job slot).gen]
  rfl

theorem State.abandonJob_job_same (s : State) (slot : Nat) :
    (s.abandonJob slot).job slot = { s.job slot with abandoned := true, left := [] } := by
  rw [State.job, State.abandonJob_jobs, Tab.get_upd_same]
  rfl

theorem State.abandonJob_job_ne (s : State) {slot k : Nat} (h : k ≠ slot) : (s.abandonJob slot).job k = s.job k := by
  rw [State.job, State.abandonJob_jobs, Tab.get_upd_ne _ _ _ h]
  rfl

/-- A condition of R424 goes into the causes of a job and nowhere else. -/
theorem State.addCause_job (s : State) (p : Nat → Bool) (c k : Nat) : ∃ cs, (s.addCause p c).job k = { s.job k with causes := cs } := by
  unfold State.addCause
  refine each_induct (P := fun y => ∃ cs, y.job k = { s.job k with causes := cs }) _ (fun y j _ hy => ?_) ⟨(s.job k).causes, rfl⟩
  obtain ⟨cs, hy⟩ := hy
  by_cases hk : k = j
  · subst hk
    rw [State.job_modJob_same, hy]
    split
    · exact ⟨cs, rfl⟩
    · exact ⟨_, rfl⟩
  · exact ⟨cs, by rw [State.job_modJob_ne y _ hk, hy]⟩

/-- What says whether a slot holds an accepted job, and which: its generation, and whether it is live. -/
def Job.tenure (x : Job) : Nat × Bool := (x.gen, x.live)

/-- A job that leaves its batch hands its run to the next one, which changes the tenure of no slot. -/
theorem State.leaveBatch_tenure (s : State) (slot k : Nat) : ((s.leaveBatch slot).job k).tenure = (s.job k).tenure := by
  unfold State.leaveBatch
  dsimp only
  split
  · rfl
  · split
    · split
      · rfl
      · refine (State.modJob_keeps Job.tenure (by intro x; rfl) _ _ k).trans ?_
        exact each_induct (P := fun y => (y.job k).tenure = (s.job k).tenure) _
          (fun y i _ hy => (State.modJob_keeps Job.tenure (by intro x; rfl) y i k).trans hy) rfl
    · exact State.modJob_keeps Job.tenure (by intro x; rfl) s _ k

/-- Where no job leads others, a job that leaves its batch changes no other's abandonment. -/
theorem State.leaveBatch_abandoned {s : State} (hbatch : ∀ j, (s.job j).batch = []) (slot k : Nat) :
    ((s.leaveBatch slot).job k).abandoned = (s.job k).abandoned := by
  unfold State.leaveBatch
  dsimp only
  split
  · rfl
  · split
    · rw [hbatch slot]
      rfl
    · exact State.modJob_keeps Job.abandoned (by intro x; rfl) s _ k

/-! ### The counts of a queue -/

/-- The counts of queue q: of its journal records and of its entries. -/
def State.counts (s : State) (q : Nat) : Nat × Nat := ((s.queue q).jseq, (s.queue q).cseq)

/-- The counts of queue q after a record and its entry. -/
def State.countsNext (s : State) (q : Nat) : Nat × Nat := (((s.queue q).jseq + 1) % 2 ^ 32, ((s.queue q).cseq + 1) % 2 ^ 32)

theorem State.counts_congr {s t : State} (q : Nat) (h : t.queues = s.queues) : t.counts q = s.counts q := by
  unfold State.counts State.queue
  rw [h]

/-- A change of one queue that keeps its counts keeps those of all. -/
theorem State.modQueue_counts (s : State) (p : Nat) {f : FeedQueue → FeedQueue} (hf : ∀ x, ((f x).jseq, (f x).cseq) = (x.jseq, x.cseq))
    (q : Nat) : (s.modQueue p f).counts q = s.counts q := by
  unfold State.counts
  by_cases hq : q = p
  · subst hq
    rw [State.queue_modQueue_same, hf]
  · have : (s.modQueue p f).queue q = s.queue q := Tab.get_upd_ne _ _ _ hq
    rw [this]

/-- An event of a queue changes no queue. -/
theorem State.queueError_queues (s : State) (q cause w2 : Nat) : (s.queueError q cause w2).queues = s.queues := by
  simp [State.queueError]

theorem State.muteQueue_counts (s : State) (p q : Nat) : (s.muteQueue p).counts q = s.counts q := by
  unfold State.muteQueue
  split
  · rfl
  · refine (State.modQueue_counts _ _ (by intro x; rfl) q).trans ?_
    split
    · exact State.counts_congr q (s.queueError_queues _ _ _)
    · rfl

theorem State.ringWrite_counts (s : State) (f : FeedQueue) (a : Nat) (bs : List Byte) (q : Nat) :
    (s.ringWrite f a bs).counts q = s.counts q :=
  State.counts_congr q ((State.ringWrite_safe s f a bs (ps := 0xf4) (og := none) rfl (.refl s)).part .queues rfl)

theorem State.writeHead_counts (s : State) (p q : Nat) : (s.writeHead p).counts q = s.counts q := by
  unfold State.writeHead
  dsimp only
  split
  · rfl
  · split
    · exact s.muteQueue_counts p q
    · exact s.ringWrite_counts _ _ _ q

/-- An entry waits or is written without a change of a count. -/
theorem State.flushOne_counts (s : State) (p q : Nat) : (s.flushOne p).1.counts q = s.counts q := by
  have hmirror (a : Nat) (bs : List Byte) : ((s.cacheLines true 4).hwrite a bs).counts q = s.counts q :=
    State.counts_congr q (by simp)
  have hmsix (y : State) (v : Nat) : (y.msixSend v).counts q = y.counts q := rfl
  have hring (y : State) (mute lost : Bool) (a : Nat) (bs : List Byte) :
      (if mute then y else if lost then y.muteQueue p else y.ringWrite (s.queue p) a bs).counts q = y.counts q := by
    split
    · rfl
    · split
      · exact y.muteQueue_counts p q
      · exact y.ringWrite_counts _ a bs q
  unfold State.flushOne
  dsimp only
  split
  · rfl
  next e rest _ =>
    split
    · rfl
    · generalize hy : (if e.jrec.isEmpty = true then s else
          (s.cacheLines true 4).hwrite ((s.queue p).mirror + e.jseq % 2 ^ (s.queue p).j * 256) e.jrec) = y
      have hcounts : y.counts q = s.counts q := by
        rw [← hy]
        split
        · rfl
        · exact hmirror _ _
      split
      · exact (State.modQueue_counts y p (by intro x; rfl) q).trans hcounts
      · split
        · exact (State.modQueue_counts y p (by intro x; rfl) q).trans hcounts
        · split
          · rw [hmsix]
            exact ((State.modQueue_counts _ p (by intro x; rfl) q).trans (hring y _ _ _ _)).trans hcounts
          · exact ((State.modQueue_counts _ p (by intro x; rfl) q).trans (hring y _ _ _ _)).trans hcounts

theorem State.flushN_counts (s : State) (p n q : Nat) : (s.flushN p n).counts q = s.counts q := by
  induction n generalizing s with
  | zero => rfl
  | succ n ih =>
    unfold State.flushN
    dsimp only
    split
    · rw [ih, State.flushOne_counts]
    · exact s.flushOne_counts p q

theorem State.flush_counts (s : State) (p q : Nat) : (s.flush p).counts q = s.counts q := by
  rw [State.flush, State.writeHead_counts, State.flushN_counts]

/-- A record and its entry take one of each count of their queue. -/
theorem State.post_counts (s : State) (q : Nat) (r : JRec) (head : Option Nat) :
    (s.post q r head).counts q = s.countsNext q := by
  have hjournal (jseq : Nat) (bs : List Byte) : (s.journalWrite q jseq bs).queue q = s.queue q := by
    have h : (s.journalWrite q jseq bs).queues = s.queues :=
      (State.journalWrite_safe s q jseq bs (ps := 0x30) (og := none) rfl (.refl s)).part .queues rfl
    rw [State.queue, h]
    rfl
  rw [State.post, State.flush_counts, State.counts, State.queue_modQueue_same, hjournal, State.countsNext]

theorem State.post_jobs (s : State) (q : Nat) (r : JRec) (head : Option Nat) : (s.post q r head).jobs = s.jobs :=
  (State.post_safe s q r head (ps := 0x2000004012f4) (og := none) rfl (.refl s)).part .jobs rfl

/-- The records of conditions of R424 leave the queues alone. -/
theorem State.addCause_counts (s : State) (p : Nat → Bool) (c q : Nat) : (s.addCause p c).counts q = s.counts q :=
  State.counts_congr q ((State.addCause_safe s p c (ps := 0x200000) (og := none) rfl (.refl s)).part .queues rfl)

theorem State.ctxWrite_counts (s : State) (c : Nat) (bs : List Byte) (q : Nat) : (s.ctxWrite c bs).counts q = s.counts q :=
  State.counts_congr q ((State.ctxWrite_safe s c bs (ps := 0x30) (og := none) rfl (.refl s)).part .queues rfl)

theorem State.ctxWrite_jobs (s : State) (c : Nat) (bs : List Byte) : (s.ctxWrite c bs).jobs = s.jobs :=
  (State.ctxWrite_safe s c bs (ps := 0x30) (og := none) rfl (.refl s)).part .jobs rfl

theorem State.job_congr {s t : State} (k : Nat) (h : t.jobs = s.jobs) : t.job k = s.job k := by
  unfold State.job
  rw [h]

/-- Changes of jobs leave the queues alone. -/
theorem State.modJob_counts (s : State) (j : Nat) (f : Job → Job) (q : Nat) : (s.modJob j f).counts q = s.counts q := rfl

theorem State.leaveBatch_counts (s : State) (slot q : Nat) : (s.leaveBatch slot).counts q = s.counts q := by
  unfold State.leaveBatch
  dsimp only
  split
  · exact State.modQueue_counts s _ (by intro x; rfl) q
  · split
    · split
      · rfl
      · rw [State.modJob_counts]
        exact each_induct (P := fun y => y.counts q = s.counts q) _ (fun y i _ hy => (y.modJob_counts i _ q).trans hy) rfl
    · rfl

/-! ### Commit -/

/-- A state whose jobs differ from those of s in their causes alone, and whose queue q has the given counts. -/
structure State.Caused (s : State) (q : Nat) (counts : Nat × Nat) (y : State) : Prop where
  job (k : Nat) : ∃ cs, y.job k = { s.job k with causes := cs }
  counts : y.counts q = counts

theorem State.Caused.addCause {s y : State} {q : Nat} {n : Nat × Nat} (h : s.Caused q n y) (p : Nat → Bool) (c : Nat) :
    s.Caused q n (y.addCause p c) where
  job k := by
    obtain ⟨cs, hcs⟩ := y.addCause_job p c k
    obtain ⟨cs', hcs'⟩ := h.job k
    exact ⟨cs, by rw [hcs, hcs']⟩
  counts := (y.addCause_counts p c q).trans h.counts

theorem State.Caused.ctxWrite {s y : State} {q : Nat} {n : Nat × Nat} (h : s.Caused q n y) (c : Nat) (bs : List Byte) :
    s.Caused q n (y.ctxWrite c bs) where
  job k := by
    rw [State.job_congr k (y.ctxWrite_jobs c bs)]
    exact h.job k
  counts := (y.ctxWrite_counts c bs q).trans h.counts

theorem State.countsNext_congr {s y : State} {q : Nat} (h : y.counts q = s.counts q) : y.countsNext q = s.countsNext q := by
  obtain ⟨hj, hc⟩ := Prod.mk.inj h
  rw [State.countsNext, hj, hc, State.countsNext]

theorem State.Caused.post {s y : State} {q : Nat} (h : s.Caused q (s.counts q) y) (r : JRec) (head : Option Nat) :
    s.Caused q (s.countsNext q) (y.post q r head) where
  job k := by
    rw [State.job_congr k (y.post_jobs q r head)]
    exact h.job k
  counts := (y.post_counts q r head).trans (State.countsNext_congr h.counts)

/-- A commit frees the slot last. -/
theorem State.commitJob_shape (s : State) (slot : Nat) :
    ∃ y, s.Caused (s.job slot).queue (s.countsNext (s.job slot).queue) y ∧
      s.commitJob slot = (if (s.job slot).ctx.isSome then y.leaveBatch slot else y).modJob slot fun x => { gen := x.gen } := by
  unfold State.commitJob
  dsimp only
  refine ⟨_, ?_, rfl⟩
  refine State.Caused.post ?_ _ _
  have hself : s.Caused (s.job slot).queue (s.counts (s.job slot).queue) s := ⟨fun k => ⟨(s.job k).causes, rfl⟩, rfl⟩
  have hcause : s.Caused (s.job slot).queue (s.counts (s.job slot).queue)
      (if s.exceeded slot then s.addCause (fun k => s.bears slot k) 6 else s) := by
    split
    · exact hself.addCause _ _
    · exact hself
  split
  · exact hcause.ctxWrite _ _
  · exact hcause

/-- A commit frees its slot and keeps the generation. -/
theorem State.commitJob_job_same (s : State) (slot : Nat) : (s.commitJob slot).job slot = { gen := (s.job slot).gen } := by
  obtain ⟨y, hy, h⟩ := s.commitJob_shape slot
  obtain ⟨cs, hjob⟩ := hy.job slot
  have hgen : ((if (s.job slot).ctx.isSome then y.leaveBatch slot else y).job slot).gen = (s.job slot).gen := by
    split
    · exact ((Prod.mk.inj (y.leaveBatch_tenure slot slot)).1).trans (by rw [hjob])
    · rw [hjob]
  rw [h, State.job_modJob_same, hgen]

/-- A commit ends no other job. -/
theorem State.commitJob_live_ne (s : State) {slot k : Nat} (hk : k ≠ slot) : ((s.commitJob slot).job k).live = (s.job k).live := by
  obtain ⟨y, hy, h⟩ := s.commitJob_shape slot
  obtain ⟨cs, hjob⟩ := hy.job k
  rw [h, State.job_modJob_ne _ _ hk]
  split
  · exact ((Prod.mk.inj (y.leaveBatch_tenure slot k)).2).trans (by rw [hjob])
  · rw [hjob]

/-- Where no job leads others, a commit changes no other job's abandonment. -/
theorem State.commitJob_abandoned_ne {s : State} (hbatch : ∀ j, (s.job j).batch = []) {slot k : Nat} (hk : k ≠ slot) :
    ((s.commitJob slot).job k).abandoned = (s.job k).abandoned := by
  obtain ⟨y, hy, h⟩ := s.commitJob_shape slot
  have hlone (j : Nat) : (y.job j).batch = [] := by
    obtain ⟨cs, hjob⟩ := hy.job j
    rw [hjob]
    exact hbatch j
  obtain ⟨cs, hjob⟩ := hy.job k
  rw [h, State.job_modJob_ne _ _ hk]
  split
  · rw [State.leaveBatch_abandoned hlone, hjob]
  · rw [hjob]

theorem State.commitJob_counts (s : State) (slot : Nat) :
    (s.commitJob slot).counts (s.job slot).queue = s.countsNext (s.job slot).queue := by
  obtain ⟨y, hy, h⟩ := s.commitJob_shape slot
  rw [h, State.modJob_counts]
  split
  · rw [State.leaveBatch_counts, hy.counts]
  · exact hy.counts

/-! ### The first accepted job -/

theorem mem_insertBy {α : Type} (key : α → Nat) (x : α) (l : List α) {a : α} (h : a ∈ insertBy key x l) : a = x ∨ a ∈ l := by
  induction l with
  | nil => exact .inl (List.mem_singleton.mp h)
  | cons y t ih =>
    rw [insertBy] at h
    split at h
    · exact List.mem_cons.mp h
    · rcases List.mem_cons.mp h with rfl | h
      · exact .inr List.mem_cons_self
      · exact (ih h).imp_right (List.mem_cons_of_mem y)

theorem mem_sortBy {α : Type} (key : α → Nat) (l : List α) {a : α} (h : a ∈ sortBy key l) : a ∈ l := by
  suffices hfold : ∀ acc, a ∈ l.foldl (fun acc x => insertBy key x acc) acc → a ∈ acc ∨ a ∈ l from
    (hfold [] h).resolve_left List.not_mem_nil
  clear h
  induction l with
  | nil => exact fun acc h => .inl h
  | cons x t ih =>
    intro acc h
    rcases ih _ h with h | h
    · exact (mem_insertBy key x acc h).symm.imp_right fun e => List.mem_cons.mpr (.inl e)
    · exact .inr (List.mem_cons_of_mem _ h)

/-- The first accepted job of a queue is one of the queue. -/
theorem State.queue_of_headJob {s : State} {q j : Nat} (h : s.headJob q = some j) : (s.job j).queue = q := by
  have hmem := mem_sortBy _ _ (List.mem_of_head? h)
  exact eq_of_beq (List.mem_filter.mp hmem).2

/-! ### FAULT_NOTICE -/

/-- The notice of fault record f is posted: its job has it, the record has left the queue of records, and queue q has one more record
and entry. -/
structure State.Noticed (s : State) (f : FaultRec) (rest : List FaultRec) (q : Nat) (t : State) : Prop where
  faultQ : t.faultQ = rest
  faults : (t.job f.slot).faults = (s.job f.slot).faults ++ [f.kind]
  posted : (t.job f.slot).posted = (s.job f.slot).posted + 1
  counts : t.counts q = s.countsNext q

section
variable {s y : State} {f : FaultRec} {rest : List FaultRec} {q : Nat}

/-- A change of jobs that is none of their faults leaves a notice posted. -/
theorem State.Noticed.modJob (h : s.Noticed f rest q y) (j : Nat) {g : Job → Job}
    (hg : ∀ x, ((g x).faults, (g x).posted) = (x.faults, x.posted)) : s.Noticed f rest q (y.modJob j g) := by
  obtain ⟨hfaults, hposted⟩ := Prod.mk.inj (State.modJob_keeps (fun x => (x.faults, x.posted)) hg y j f.slot)
  exact ⟨h.faultQ, hfaults.trans h.faults, hposted.trans h.posted, h.counts⟩

theorem State.Noticed.abandonJob (h : s.Noticed f rest q y) : s.Noticed f rest q (y.abandonJob f.slot) where
  faultQ := ((State.abandonJob_safe y f.slot (ps := 0x204234) (og := none) rfl rfl (.refl y)).part .faultQ rfl).trans h.faultQ
  faults := by rw [State.abandonJob_job_same, h.faults]
  posted := by rw [State.abandonJob_job_same, h.posted]
  counts := (State.counts_congr q
    ((State.abandonJob_safe y f.slot (ps := 0x204234) (og := none) rfl rfl (.refl y)).part .queues rfl)).trans h.counts

theorem State.Noticed.causeFor (h : s.Noticed f rest q y) (slot c : Nat) : s.Noticed f rest q (y.causeFor slot c) := by
  obtain ⟨cs, hjob⟩ := State.addCause_job y (fun k => k == slot || ((y.job k).queue == (y.job slot).queue &&
    decide ((y.job slot).order < (y.job k).order))) c f.slot
  exact
    { faultQ := ((State.causeFor_safe y slot c (ps := 0x200000) (og := none) rfl (.refl y)).part .faultQ rfl).trans h.faultQ
      faults := (congrArg Job.faults hjob).trans h.faults
      posted := (congrArg Job.posted hjob).trans h.posted
      counts := (y.addCause_counts _ c q).trans h.counts }

end

/-- The entry of a fault record follows its count in the job. -/
theorem State.noticed_post (s : State) (f : FaultRec) (rest : List FaultRec) (q : Nat) (r : JRec) (head : Option Nat) :
    s.Noticed f rest q ((State.modJob { s with faultQ := rest } f.slot fun x =>
      { x with faults := x.faults ++ [f.kind], posted := x.posted + 1 }).post q r head) := by
  generalize hy : (State.modJob { s with faultQ := rest } f.slot fun x =>
      { x with faults := x.faults ++ [f.kind], posted := x.posted + 1 }) = y
  have hjob : y.job f.slot = { s.job f.slot with
      faults := (s.job f.slot).faults ++ [f.kind], posted := (s.job f.slot).posted + 1 } := by
    rw [← hy, State.job_modJob_same]
    rfl
  have hcounts : y.countsNext q = s.countsNext q := by rw [← hy]; rfl
  have hfaultQ : y.faultQ = rest := by rw [← hy]; rfl
  exact
    { faultQ := ((State.post_safe y q r head (ps := 0x2000004012f4) (og := none) rfl (.refl y)).part .faultQ rfl).trans hfaultQ
      faults := by rw [State.job_congr _ (y.post_jobs q r head), hjob]
      posted := by rw [State.job_congr _ (y.post_jobs q r head), hjob]
      counts := (y.post_counts q r head).trans hcounts }

theorem execFaultNotice_gone {s : State} {f : FaultRec} {rest : List FaultRec} (hq : s.faultQ = f :: rest) (hfw : s.fw = true)
    (hgone : (s.job f.slot).live = false ∨ (s.job f.slot).gen ≠ f.gen) : execFaultNotice s = .next { s with faultQ := rest } := by
  have hdrop : f.slot = 0x3FF ∧ f.idx = 0xFFFF ∨ ¬ (s.job f.slot).live = true ∨ (s.job f.slot).gen ≠ f.gen :=
    .inr (hgone.imp_left fun h => by simp [h])
  unfold execFaultNotice
  rw [hq]
  dsimp only
  rw [hfw, if_neg (by simp), if_pos hdrop]

theorem execFaultNotice_posts {s : State} {f : FaultRec} {rest : List FaultRec} (hq : s.faultQ = f :: rest) (hfw : s.fw = true)
    (hslot : f.slot ≠ 0x3FF) (hlive : (s.job f.slot).live = true) (hgen : (s.job f.slot).gen = f.gen)
    (hroom : (s.queue (s.job f.slot).queue).full = false) :
    ∃ t, execFaultNotice s = .next t ∧ s.Noticed f rest (s.job f.slot).queue t := by
  have hon : ¬ (!s.fw) = true := by simp [hfw]
  have hnotFull : ¬ (s.queue (s.job f.slot).queue).full = true := by simp [hroom]
  have hkeep : ¬ (f.slot = 0x3FF ∧ f.idx = 0xFFFF ∨ ¬ (s.job f.slot).live = true ∨ (s.job f.slot).gen ≠ f.gen) := by
    simp [hslot, hlive, hgen]
  unfold execFaultNotice
  rw [hq]
  dsimp only
  rw [if_neg hon, if_neg hkeep, if_neg hnotFull]
  generalize hy : State.post _ _ _ none = y
  have hposted : s.Noticed f rest (s.job f.slot).queue y := hy ▸ s.noticed_post f rest _ _ none
  clear hy
  split
  · refine ⟨_, rfl, State.Noticed.causeFor ?_ _ _⟩
    refine State.Noticed.modJob ?_ _ (by intro x; rfl)
    split
    · exact hposted
    · exact hposted.abandonJob
  · exact ⟨_, rfl, hposted.modJob _ (by intro x; rfl)⟩

/-! ### JOB_COMMIT -/

/-- The jobs of queue q that met a precise fault and are not abandoned yet. -/
def State.toAbandon (s : State) (q : Nat) : List Nat :=
  s.live.filter fun j => (s.job j).queue == q && !(s.job j).abandoned && (s.job j).sent && (s.job j).reasons.any Reason.fault

/-- What JOB_COMMIT does once the jobs with a precise fault are abandoned. -/
def State.commitHead (s : State) (q : Nat) : State :=
  match s.headJob q with
  | none => s
  | some j =>
    if !s.jobEnded j || (s.queue q).full || s.resultWaits j then s
    else if !(s.queue q).waiting.isEmpty then
      if (s.queue q).room then s else s.addCause (fun k => (s.job k).queue == q) 8
    else s.commitJob j

theorem exec_jobCommit {s : State} (q : QueueId) (hfw : s.fw = true) :
    exec (.jobCommit q) s = .next ((each (s.toAbandon q) s fun s j => s.abandonJob j).commitHead q) := by
  have hexec : exec (.jobCommit q) s = execJobCommit q s := rfl
  rw [hexec, execJobCommit, hfw, if_neg (by simp)]
  unfold State.commitHead State.toAbandon
  dsimp only
  generalize each _ s _ = y
  cases y.headJob q with
  | none => rfl
  | some j =>
    dsimp only
    split
    · rfl
    · split <;> rfl

theorem State.toAbandon_nil {s : State} (q : Nat)
    (h : ∀ k, (s.job k).abandoned = true ∨ (s.job k).reasons.any Reason.fault = false) : s.toAbandon q = [] := by
  refine List.filter_eq_nil_iff.mpr fun k _ => ?_
  rcases h k with h | h <;> simp [h]

/-- Abandoning jobs leaves a job abandoned that was, and abandons each of the list. -/
theorem State.abandoned_of_each {l : List Nat} {s : State} {k : Nat} (h : (s.job k).abandoned = true ∨ k ∈ l) :
    ((each l s fun s j => s.abandonJob j).job k).abandoned = true := by
  induction l generalizing s with
  | nil => exact h.resolve_right List.not_mem_nil
  | cons j l ih =>
    refine ih (s := s.abandonJob j) ?_
    by_cases hk : k = j
    · exact .inl (by rw [hk, State.abandonJob_job_same])
    · rw [State.abandonJob_job_ne s hk]
      exact h.imp_right fun h => (List.mem_cons.mp h).resolve_left hk

theorem State.abandonJob_batch (s : State) (slot k : Nat) : ((s.abandonJob slot).job k).batch = (s.job k).batch := by
  by_cases hk : k = slot
  · rw [hk, State.abandonJob_job_same]
  · rw [State.abandonJob_job_ne s hk]

/-- An abandoned job stays so, or its slot is freed. -/
theorem State.commitHead_abandoned {s : State} (hbatch : ∀ j, (s.job j).batch = []) (q : Nat) {k : Nat}
    (h : (s.job k).abandoned = true) : ((s.commitHead q).job k).abandoned = true ∨ ((s.commitHead q).job k).live = false := by
  unfold State.commitHead
  split
  · exact .inl h
  next j _ =>
    split
    · exact .inl h
    · split
      · split
        · exact .inl h
        · obtain ⟨cs, hjob⟩ := s.addCause_job (fun k => (s.job k).queue == q) 8 k
          exact .inl (by rw [hjob, h])
      · by_cases hk : k = j
        · exact .inr (by rw [hk, State.commitJob_job_same])
        · exact .inl (by rw [State.commitJob_abandoned_ne hbatch hk, h])

/-- The first accepted job of a queue commits once it has ended and the earlier entries are written. -/
theorem State.commitHead_ended {s : State} {q j : Nat} (hhead : s.headJob q = some j) (hended : s.jobEnded j = true)
    (hroom : (s.queue q).full = false) (hwritten : (s.queue q).waiting = []) (hresult : s.resultWaits j = false) :
    s.commitHead q = s.commitJob j := by
  simp [State.commitHead, hhead, hended, hroom, hwritten, hresult]

theorem State.commitHead_waits {s : State} {q j : Nat} (hhead : s.headJob q = some j)
    (h : s.jobEnded j = false ∨ s.resultWaits j = true) : s.commitHead q = s := by
  have hwait : (!s.jobEnded j || (s.queue q).full || s.resultWaits j) = true := by
    rcases h with h | h <;> simp [h]
  simp only [State.commitHead, hhead, hwait, if_true]

end Sys2Proof.Machine

namespace Sys2Proof.Proofs
open Sys2Proof.Machine

/-- Settles O21: a notice is posted with its count in the job, whatever the job may then do (`execFaultNotice_posts`); a commit is a
post of its record between a change of late causes and the release of the slot (`State.commitJob_shape`). -/
theorem faultsArePostedAndJobsCommitInOrder : Obligations.FaultsArePostedAndJobsCommitInOrder := by
  unfold Obligations.FaultsArePostedAndJobsCommitInOrder
  refine ⟨fun s f rest hq hfw => ⟨execFaultNotice_gone hq hfw, fun hslot hlive hgen hroom => ?_⟩,
    fun q s j hfw hhead hclean => ?_, fun q s k hfw hlive hqueue hsent hfault hbatch => ?_⟩
  · obtain ⟨t, hexec, ht⟩ := execFaultNotice_posts hq hfw hslot hlive hgen hroom
    exact ⟨t, hexec, ht.faultQ, ht.faults, ht.posted, (Prod.mk.inj ht.counts).1⟩
  · have hexec : exec (.jobCommit q) s = .next (s.commitHead q) := by
      rw [exec_jobCommit q hfw, State.toAbandon_nil _ hclean]
      rfl
    refine ⟨fun hended hroom hwritten hresult => ⟨s.commitJob j, ?_, s.commitJob_job_same j, ?_⟩, fun hwait => ?_⟩
    · rw [hexec, State.commitHead_ended hhead hended hroom hwritten hresult]
    · have hcounts := s.commitJob_counts j
      rw [State.queue_of_headJob hhead] at hcounts
      obtain ⟨hjseq, hcseq⟩ := Prod.mk.inj hcounts
      exact ⟨hjseq, hcseq, fun k hk => s.commitJob_live_ne hk⟩
    · rw [hexec, State.commitHead_waits hhead hwait]
  · refine ⟨_, exec_jobCommit q hfw, State.commitHead_abandoned ?_ q (State.abandoned_of_each ?_)⟩
    · intro j
      exact each_induct (P := fun y => (y.job j).batch = []) _ (fun y i _ hy => (y.abandonJob_batch i j).trans hy) (hbatch j)
    · by_cases hab : (s.job k).abandoned = true
      · exact .inl hab
      · exact .inr (List.mem_filter.mpr ⟨hlive, by simp [hqueue, hab, hsent, hfault]⟩)

end Sys2Proof.Proofs

/-! PROOF. Every step, of a command or of a period, keeps canonical memories, blown fuses, the order of the free values and the rest of
the queue (R37, R456). -/

namespace Sys2Proof.Machine

theorem State.KeptOut.kept {ps : Nat} {og : Option Nat} {s t : State} {o : Host.Outcome State Fault Refusal} (h : s.KeptOut ps og o)
    (e : o = .next t) : s.Kept ps og t := by
  subst e
  exact h

/-- Every command keeps what Keeps names: the four that return a bay, reset the module, remove its power or end a flash operation by
laws of their own, and every other because it is safe. -/
theorem exec_keeps {c : Instr} {s t : State} (h : exec c s = .next t) : s.Keeps t := by
  cases hc : unsettles c with
  | false => exact (exec_safe hc h).keeps
  | true =>
    cases c with
    | bayReturn mb good => exact ((execBayReturn_kept (og := none) mb good s (.of_eq rfl)).kept h).keeps
    | coldReset lowNs straps kept => exact ((execColdReset_kept lowNs straps kept s (.of_eq rfl) rfl).kept h).keeps
    | powerLoss => exact ((execPowerLoss_kept s (.of_eq rfl) rfl).kept h).keeps
    | flashComplete => exact ((execFlashComplete_kept (og := none) s (.of_eq rfl)).kept h).keeps
    | _ => cases hc

/-- A period of the host reference keeps it too. -/
theorem State.period_keeps (s : State) : s.Keeps s.period :=
  (State.period_safe s (og := none) (.of_eq rfl) rfl (.refl s)).keeps

theorem step_of_pending {s : State} {c : Instr} {rest : List Instr} (h : s.pending = c :: rest) :
    step s = exec c { s with pending := rest } := by
  simp only [step, h]

theorem step_of_empty {s : State} (h : s.pending = []) : step s = .next s.period := by
  simp only [step, h]

end Sys2Proof.Machine

namespace Sys2Proof.Proofs

open Sys2Proof.Machine

/-- Settles O3: the step is the front command on the state without it, or a period; each keeps the invariant. -/
theorem stepsKeepTheInvariant : Obligations.StepsKeepTheInvariant := by
  unfold Obligations.StepsKeepTheInvariant
  intro s t h
  cases hp : s.pending with
  | nil =>
    rw [step_of_empty hp] at h
    injection h with h
    subst h
    have hkeeps := s.period_keeps
    exact ⟨hkeeps.canon, hkeeps.fuses, hkeeps.order, hkeeps.queue.trans hp⟩
  | cons c rest =>
    rw [step_of_pending hp] at h
    have hkeeps := exec_keeps h
    exact ⟨hkeeps.canon, hkeeps.fuses, hkeeps.order, hkeeps.queue⟩

end Sys2Proof.Proofs

/-! PROOF. Reads and writes of 64-bit registers (R45): what reaches a word of a register, and what each access leaves of the latches. -/

namespace Sys2Proof.Machine

/-! ### Latches -/

/-- Two masters have different numbers. -/
theorem Master.key_injective : Function.Injective Master.key := by
  intro a b h
  cases a <;> cases b <;> grind [Master.key]

@[simp] theorem State.latchOf_setLatch_same (s : State) (m : Master) (off : Nat) (x : Latch) : (s.setLatch m off x).latchOf m off = x :=
  Tab.get_set_same _ _ _ _

/-- The latches that another master has of the same register stay. -/
theorem State.latchOf_setLatch_ne (s : State) {m m' : Master} (off : Nat) (x : Latch) (h : m' ≠ m) :
    (s.setLatch m off x).latchOf m' off = s.latchOf m' off := by
  refine Tab.get_set_ne _ _ _ fun e => h (Master.key_injective ?_)
  omega

theorem State.latchOf_congr {s t : State} (h : t.latch = s.latch) (m : Master) (off : Nat) : t.latchOf m off = s.latchOf m off := by
  rw [State.latchOf, h, State.latchOf]

theorem State.setLatch_sameBut (s : State) (m : Master) (off : Nat) (x : Latch) : SameBut [.latch] s (s.setLatch m off x) := by
  intro p hp
  cases p with
  | latch => simp at hp
  | _ => rfl

/-- The latches change with the accesses to them, and with no write of a register. -/
theorem State.commit_latch (s : State) (m : Master) (r : RegAt) (v : Nat) : (s.commit m r v).latch = s.latch :=
  (State.commit_safe s m r v (ps := 0x68205fb0daf6) (og := none) rfl rfl (.refl s)).part .latch rfl

theorem State.afterRead_latch (s : State) (r : RegAt) : (s.afterRead r).latch = s.latch := by
  unfold State.afterRead
  dsimp only
  split <;> split <;> rfl

/-! ### What a read that reaches a register does -/

/-- A 32-bit read that reaches a word of a register answers that word. -/
theorem State.busRead_of_reaches {s : State} {m : Master} {off : Nat} {r : RegAt} {hi : Bool} (h : s.reaches m off r hi false) :
    s.busRead m off = ((s.readWord m r hi).1, some (s.readWord m r hi).2) := by
  obtain ⟨htarget, hresp, hmay⟩ := h
  have hperm := State.permits_reg hi hmay
  unfold State.busRead
  rw [htarget]
  simp [hperm, hresp, Target.blk]

theorem State.readAt_of_reaches {s : State} {m : Master} {off : Nat} {r : RegAt} {hi : Bool} (h : s.reaches m off r hi false) :
    s.readAt m off = (s.readWord m r hi).1.answerRead m off (some (s.readWord m r hi).2) := by
  rw [State.readAt, State.busRead_of_reaches h]

/-- A read of the low word answers it and loads the shadow. -/
theorem State.readWord_low {r : RegAt} (s : State) (m : Master) (hwide : r.rn.spec.wide = true) :
    s.readWord m r false =
      ((s.setLatch m r.off { s.latchOf m r.off with shadow := s.shown m r / 2 ^ 32 }).afterRead r, s.shown m r % 2 ^ 32) := by
  simp [State.readWord, hwide]

theorem State.readWord_narrow {r : RegAt} (s : State) (m : Master) (hnarrow : r.rn.spec.wide = false) :
    s.readWord m r false = (s.afterRead r, s.shown m r % 2 ^ 32) := by
  simp [State.readWord, hnarrow]

theorem wideAt_of_reaches {s : State} {m : Master} {off : Nat} {r : RegAt} {write : Bool} (h : s.reaches m off r false write)
    (hwide : r.rn.spec.wide = true) : wideAt m off = some r := by
  obtain ⟨htarget, -, -⟩ := h
  simp [wideAt, htarget, hwide]

/-- An aligned 64-bit read that reaches a register of 64 bits answers both words. -/
theorem State.read64_wide {s : State} {m : Master} {off : Nat} {r : RegAt} (h : s.reaches m off r false false)
    (hwide : r.rn.spec.wide = true) (haligned : off % 8 = 0) :
    s.read64 m off = (s.afterRead r).answerRead m off (some (s.shown m r)) := by
  have hat := wideAt_of_reaches h hwide
  obtain ⟨-, hresp, hmay⟩ := h
  simp [State.read64, haligned, hat, hresp, hmay]

/-! ### What a write that reaches a word of a 64-bit register does -/

theorem State.writeWord_low {r : RegAt} (s : State) (m : Master) (v : Nat) (hwide : r.rn.spec.wide = true) :
    s.writeWord m r false v = s.setLatch m r.off { s.latchOf m r.off with stage := some v } := by
  simp [State.writeWord, hwide]

/-- A high write commits both words, the low one from the staging word or else from the register, and reloads the staging word. -/
theorem State.writeWord_high {r : RegAt} {s : State} {m : Master} {lo : Nat} (v : Nat) (hwide : r.rn.spec.wide = true)
    (hlo : (s.latchOf m r.off).stage.getD (s.regAt r % 2 ^ 32) = lo) :
    s.writeWord m r true v =
      (s.commit m r (v * 2 ^ 32 + lo)).setLatch m r.off { s.latchOf m r.off with stage := some lo } := by
  simp [State.writeWord, hwide, ← hlo]

/-- Two words side by side are the number of both. -/
theorem append_toNat (v lo : Word32) : (v ++ lo).toNat = v.toNat * 2 ^ 32 + lo.toNat := by
  rw [BitVec.toNat_append, ← Nat.shiftLeft_add_eq_or_of_lt lo.isLt, Nat.shiftLeft_eq]

/-! ### The commands -/

theorem lpWord_of_reaches {s : State} {m : Master} {off : Nat} {r : RegAt} {hi write : Bool} (h : s.reaches m off r hi write)
    (hwide : r.rn.spec.wide = true) : lpWord m off = some hi := by
  obtain ⟨htarget, -, -⟩ := h
  simp [lpWord, htarget, hwide]

section
variable {s : State} {m : Master} {off : Nat} {r : RegAt}

theorem exec_lpLowRead (h : s.reaches m off r false false) (hwide : r.rn.spec.wide = true) :
    exec (.lpLowRead m off) s =
      .next (((s.setLatch m r.off { s.latchOf m r.off with shadow := s.shown m r / 2 ^ 32 }).afterRead r).answerRead m off
        (some (s.shown m r % 2 ^ 32))) := by
  have hexec : exec (.lpLowRead m off) s = .next (s.readAt m off) := if_pos (lpWord_of_reaches h hwide)
  rw [hexec, State.readAt_of_reaches h, State.readWord_low s m hwide]

theorem exec_lpLowWrite (v : Word32) (h : s.reaches m off r false true) (hwide : r.rn.spec.wide = true) :
    exec (.lpLowWrite m off v) s = .next (s.setLatch m r.off { s.latchOf m r.off with stage := some v.toNat }) := by
  have hexec : exec (.lpLowWrite m off v) s = .next (s.busWrite m off v.toNat) := if_pos (lpWord_of_reaches h hwide)
  rw [hexec, State.busWrite_of_reaches _ h, State.writeWord_low s m _ hwide]

theorem exec_lpHighWrite {lo : Nat} (v : Word32) (h : s.reaches m off r true true) (hwide : r.rn.spec.wide = true)
    (hlo : (s.latchOf m r.off).stage.getD (s.regAt r % 2 ^ 32) = lo) :
    exec (.lpHighWrite m off v) s =
      .next ((s.commit m r (v.toNat * 2 ^ 32 + lo)).setLatch m r.off { s.latchOf m r.off with stage := some lo }) := by
  have hexec : exec (.lpHighWrite m off v) s = .next (s.busWrite m off v.toNat) := if_pos (lpWord_of_reaches h hwide)
  rw [hexec, State.busWrite_of_reaches _ h, State.writeWord_high _ hwide hlo]

theorem exec_lpAlignedAccess_read (h : s.reaches m off r false false) (hwide : r.rn.spec.wide = true) (haligned : off % 8 = 0) :
    exec (.lpAlignedAccess m off none) s = .next ((s.afterRead r).answerRead m off (some (s.shown m r))) :=
  congrArg Host.Outcome.next (State.read64_wide h hwide haligned)

theorem exec_lpAlignedAccess_commit (v : Word64) (h : s.reaches m off r false true) (hwide : r.rn.spec.wide = true)
    (haligned : off % 8 = 0) : exec (.lpAlignedAccess m off (some v)) s = .next (s.commit m r v.toNat) := by
  rw [exec_lpAlignedAccess_write, State.write64_wide _ h hwide haligned]

end

end Sys2Proof.Machine

namespace Sys2Proof.Proofs

open Sys2Proof.Machine

/-- Settles O7: each of the five accesses changes the latch that it names and no other, and a commit changes none. -/
theorem lpRegistersLatchByMaster : Obligations.LpRegistersLatchByMaster := by
  unfold Obligations.LpRegistersLatchByMaster
  refine ⟨fun m off => Tab.get_nil _ _, fun m off r v s hwide => ⟨fun h => ?lowRead, fun h => ?highRead, fun h => ?lowWrite,
    fun low lo h hlow haligned hstage => ?highWrite, fun w haligned => ⟨fun h => ?read, fun h => ?write⟩⟩⟩
  case lowRead =>
    have hlatch (m' : Master) := State.latchOf_congr (State.afterRead_latch
      (s.setLatch m r.off { s.latchOf m r.off with shadow := s.shown m r / 2 ^ 32 }) r) m' r.off
    refine ⟨_, exec_lpLowRead h hwide, rfl, ?_, fun m' hm => ?_⟩
    · exact (hlatch m).trans (State.latchOf_setLatch_same _ _ _ _)
    · exact (hlatch m').trans (State.latchOf_setLatch_ne _ _ _ hm)
  case highRead => exact State.busRead_of_reaches h
  case lowWrite =>
    exact ⟨_, exec_lpLowWrite v h hwide, s.setLatch_sameBut _ _ _, State.latchOf_setLatch_same _ _ _ _,
      fun m' hm => State.latchOf_setLatch_ne _ _ _ hm⟩
  case highWrite =>
    refine ⟨_, exec_lpAlignedAccess_commit _ hlow hwide haligned, ?_⟩
    rw [exec_lpHighWrite v h hwide hstage, append_toNat]
  case read => exact ⟨_, exec_lpAlignedAccess_read h hwide haligned, rfl, s.afterRead_latch r⟩
  case write => exact ⟨_, exec_lpAlignedAccess_commit w h hwide haligned, s.commit_latch m r _⟩

end Sys2Proof.Proofs

/-! PROOF. Event registers (R47, R48): the sequence and the pending bits after an event and after a clearing write. -/

namespace Sys2Proof.Machine

/-! ### Numbers: a sequence of 8 bits above 24 pending bits -/

theorem bits_seq {q x : Nat} (hq : q < 2 ^ 8) (hx : x < 2 ^ 24) : bits (q * 2 ^ 24 + x) 31 24 = q := by
  simp only [bits]
  omega

theorem bits_pending {q x : Nat} (hx : x < 2 ^ 24) : bits (q * 2 ^ 24 + x) 23 0 = x := by
  simp only [bits]
  omega

theorem bit_bits_pending (v : Nat) {k : Nat} (hk : k < 24) : bit (bits v 23 0) k = bit v k := by
  simp [bit_eq_testBit, bits_testBit, hk]

theorem bit_pending {q x k : Nat} (hx : x < 2 ^ 24) (hk : k < 24) : bit (q * 2 ^ 24 + x) k = bit x k := by
  rw [← bit_bits_pending _ hk, bits_pending hx]

theorem bit_two_pow (k j : Nat) : bit (2 ^ k) j = (j == k) := by
  rw [bit_eq_testBit, Nat.testBit_two_pow, Bool.beq_eq_decide_eq, decide_eq_decide]
  exact eq_comm

theorem bit_or_two_pow (v k j : Nat) : bit (v ||| 2 ^ k) j = (bit v j || j == k) := by
  rw [← bit_two_pow, bit_eq_testBit, Nat.testBit_or, bit_eq_testBit, bit_eq_testBit]

/-- A number less the bits that it shares with another has the bits that the other has not. -/
theorem bit_sub_and (x y i : Nat) : bit (x - (x &&& y)) i = (bit x i && !bit y i) := by
  simp only [bit_eq_testBit]
  induction i generalizing x y with
  | zero =>
    have hle : x &&& y ≤ x := Nat.and_le_left
    have hbit := Nat.testBit_and x y 0
    simp only [Nat.testBit_zero] at hbit ⊢
    grind
  | succ i ih =>
    have hle : x &&& y ≤ x := Nat.and_le_left
    have hdiv : (x &&& y) / 2 = x / 2 &&& y / 2 := Nat.and_div_two
    have hbit := Nat.testBit_and x y 0
    have hhalf : (x - (x &&& y)) / 2 = x / 2 - (x / 2 &&& y / 2) := by
      simp only [Nat.testBit_zero] at hbit
      grind
    rw [Nat.testBit_succ, hhalf, ih, Nat.testBit_succ, Nat.testBit_succ]

/-! ### An event -/

theorem nextSeq_lt {q : Nat} (h : q < 2 ^ 8) : nextSeq q < 2 ^ 8 := by
  unfold nextSeq
  split <;> omega

theorem nextSeq_ne (q : Nat) : nextSeq q ≠ q := by
  unfold nextSeq
  split <;> omega

theorem pending_or_lt (v : Nat) {k : Nat} (hk : k < 24) : bits v 23 0 ||| 2 ^ k < 2 ^ 24 :=
  Nat.or_lt_two_pow (bits_lt v 23 0) (Nat.pow_lt_pow_right (by decide) hk)

theorem bits_evAdvance_seq (v : Nat) {k : Nat} (hk : k < 24) : bits (evAdvance v k) 31 24 = nextSeq (bits v 31 24) :=
  bits_seq (nextSeq_lt (bits_lt v 31 24)) (pending_or_lt v hk)

theorem bits_evAdvance_pending (v : Nat) {k : Nat} (hk : k < 24) : bits (evAdvance v k) 23 0 = bits v 23 0 ||| 2 ^ k :=
  bits_pending (pending_or_lt v hk)

/-- An event sets its pending bit and keeps the others. -/
theorem bit_evAdvance (v : Nat) {k j : Nat} (hk : k < 24) (hj : j < 24) : bit (evAdvance v k) j = (bit v j || j == k) := by
  rw [← bit_bits_pending (evAdvance v k) hj, bits_evAdvance_pending v hk, bit_or_two_pow, bit_bits_pending v hj]

theorem State.raise_sameBut (s : State) (r : Rn) (n k num w0 w1 w2 i : Nat) :
    SameBut [.regs, .events] s (s.raise r n k num w0 w1 w2 i) :=
  (State.raise_safe s r n k num w0 w1 w2 i (ps := Part.mask [.regs, .events]) (og := none) rfl (.refl s)).sameBut

/-- The record of an event is built from the value that its register takes. -/
theorem State.raise_events (s : State) (r : Rn) (n k num w0 w1 w2 i : Nat) :
    (s.raise r n k num w0 w1 w2 i).events = s.events ++ [
      { code := r.spec.blk.id * 1024 + num, seq := bits (evAdvance (s.reg r n i) k) 31 24, bay := r.spec.blk.bayOf n
        off := (RegAt.mk r n i 0).off, time := s.local (r.spec.blk.bayOf n), pend := bits (evAdvance (s.reg r n i) k) 23 0
        w0 := w0 % 2 ^ 32, w1 := w1 % 2 ^ 32, w2 := w2 % 2 ^ 32 }] := by
  simp only [State.raise, State.local, State.setReg_fields]

/-! ### A clearing write -/

theorem pending_sub_lt (v w : Nat) : bits v 23 0 - (bits v 23 0 &&& bits w 23 0) < 2 ^ 24 :=
  Nat.lt_of_le_of_lt (Nat.sub_le _ _) (bits_lt v 23 0)

theorem evClear_of_ne {v w : Nat} (h : bits w 31 24 ≠ bits v 31 24) : evClear v w = v := if_neg h

theorem bits_evClear_seq (v w : Nat) : bits (evClear v w) 31 24 = bits v 31 24 := by
  unfold evClear
  split
  · exact bits_seq (bits_lt v 31 24) (pending_sub_lt v w)
  · rfl

theorem bit_evClear {v w k : Nat} (h : bits w 31 24 = bits v 31 24) (hk : k < 24) :
    bit (evClear v w) k = (bit v k && !bit w k) := by
  rw [evClear, if_pos h, bit_pending (pending_sub_lt v w) hk, bit_sub_and, bit_bits_pending v hk, bit_bits_pending w hk]

/-! ### The registers with a sequence -/

/-- An event register has 32 bits. -/
theorem Rn.narrow_of_sq {r : Rn} (h : r.hasAcc .sq = true) : r.spec.wide = false := by
  cases r <;> simp [Rn.hasAcc, Rn.spec] at h <;> rfl

/-- Its sequence and its pending bits are 0 after reset. -/
theorem RegAt.reset_of_sq {r : RegAt} (h : r.rn.hasAcc .sq = true) : r.reset = 0 := by
  obtain ⟨k, n, i, j⟩ := r
  cases k <;> simp [Rn.hasAcc, Rn.spec] at h <;> rfl

/-- A write of it is a clearing write. -/
theorem State.commit_of_sq (s : State) (m : Master) {r : RegAt} (v : Nat) (h : r.rn.hasAcc .sq = true) :
    s.commit m r v = s.setRegAt r (evClear (s.regAt r) v) := by
  obtain ⟨k, n, i, j⟩ := r
  cases k <;> simp [Rn.hasAcc, Rn.spec] at h <;> rfl

theorem accAt_of_reaches {s : State} {m : Master} {off : Nat} {r : RegAt} {write : Bool} {a : Acc} (h : s.reaches m off r false write)
    (hacc : r.rn.hasAcc a = true) : accAt m off a = some r := by
  obtain ⟨htarget, -, -⟩ := h
  simp [accAt, htarget, hacc]

theorem exec_sqClearWrite {s : State} {m : Master} {off : Nat} {r : RegAt} (v : Word32) (h : s.reaches m off r false true)
    (hsq : r.rn.hasAcc .sq = true) : exec (.sqClearWrite m off v) s = .next (s.setRegAt r (evClear (s.regAt r) v.toNat)) := by
  have hexec : exec (.sqClearWrite m off v) s = .next (s.busWrite m off v.toNat) := if_pos (by rw [accAt_of_reaches h hsq]; rfl)
  rw [hexec, State.busWrite_narrow _ h (Rn.narrow_of_sq hsq), State.commit_of_sq _ _ _ hsq]

end Sys2Proof.Machine

namespace Sys2Proof.Proofs

open Sys2Proof.Machine

/-- Settles O9: the write stores evClear; after an event of the same step the sequence that the write carries is no longer current. -/
theorem eventRegistersClearBySequence : Obligations.EventRegistersClearBySequence := by
  unfold Obligations.EventRegistersClearBySequence
  intro m off r v s h hsq
  have hexec := exec_sqClearWrite v h hsq
  have hvalue := s.regAt_setRegAt_same r (evClear (s.regAt r) v.toNat)
  refine ⟨⟨_, hexec, s.setRegAt_sameBut r _, s.setRegAt_regsBut r _, ?seq, fun heq k hk => ?clears, fun hne => ?keeps⟩,
    fun x k hk hx hseq => ⟨_, hexec, ?late⟩⟩
  case seq => rw [hvalue, bits_evClear_seq]
  case clears => rw [hvalue, bit_evClear heq hk]
  case keeps => rw [hvalue, evClear_of_ne hne]
  case late =>
    have hstale : bits v.toNat 31 24 ≠ bits (s.regAt r) 31 24 := by
      rw [hseq, hx, bits_evAdvance_seq x hk]
      exact (nextSeq_ne _).symm
    exact hvalue.trans (evClear_of_ne hstale)

/-- Settles O10: an event stores evAdvance, and its record is built from the value stored. -/
theorem eventsAdvanceTheirRegister : Obligations.EventsAdvanceTheirRegister := by
  unfold Obligations.EventsAdvanceTheirRegister
  refine ⟨fun r hsq => ⟨Rn.narrow_of_sq hsq, fun n i => ?reset⟩, fun q => rfl, fun s r n i k num w0 w1 w2 hk => ?event⟩
  case reset =>
    have hzero : State.reset.reg r n i = 0 := (State.regAt_reset _).trans (RegAt.reset_of_sq (r := ⟨r, n, i, 0⟩) hsq)
    rw [hzero]
    rfl
  case event =>
    have hvalue := s.reg_raise_same r n k num w0 w1 w2 i
    refine ⟨s.raise_sameBut r n k num w0 w1 w2 i, s.raise_regsBut r n k num w0 w1 w2 i, ?seq, fun j hj => ?pending, _,
      s.raise_events r n k num w0 w1 w2 i, rfl, ?recSeq, rfl, rfl, rfl, ?recPending⟩
    case seq => rw [hvalue, bits_evAdvance_seq _ hk]
    case pending => rw [hvalue, bit_evAdvance _ hk hj]
    case recSeq => exact (congrArg (fun x => bits x 31 24) hvalue).symm
    case recPending => exact (congrArg (fun x => bits x 23 0) hvalue).symm

end Sys2Proof.Proofs

/-! PROOF. Counters (R50): the read that clears them, the increment of the same step, and writes, which leave them. -/

namespace Sys2Proof.Machine

/-! ### Frames -/

theorem SameBut.trans {l : List Part} {s t u : State} (h : SameBut l s t) (g : SameBut l t u) : SameBut l s u :=
  fun p hp => Part.same_trans (h p hp) (g p hp)

theorem RegsBut.trans {l : List Nat} {s t u : State} (h : RegsBut l s t) (g : RegsBut l t u) : RegsBut l s u :=
  fun q hq => (g q hq).trans (h q hq)

theorem RegsBut.mono {l m : List Nat} {s t : State} (h : RegsBut l s t) (hlm : ∀ x ∈ l, x ∈ m) : RegsBut m s t :=
  fun q hq => h q fun hl => hq (hlm _ hl)

theorem State.regAt_congr {s t : State} (h : t.regs = s.regs) (q : RegAt) : t.regAt q = s.regAt q := by
  rw [State.regAt, h, State.regAt]

theorem State.responds_congr {s t : State} {l : List Part} (h : SameBut l s t) (hboard : .board ∉ l) (hsec : .sec ∉ l) (k : Blk) :
    t.responds k = s.responds k := by
  have hb : t.board = s.board := h .board hboard
  have hs : t.sec = s.sec := h .sec hsec
  rw [State.responds, hb, hs, State.responds]

theorem State.answerRead_sameBut (s : State) (m : Master) (off : Nat) (v : Option Nat) : SameBut [.said] s (s.answerRead m off v) := by
  intro p hp
  cases v with
  | none => exact p.same_refl s
  | some v =>
    cases p with
    | said => simp at hp
    | _ => rfl

/-! ### A register named with another index -/

/-- A register is its offset and its reset value. -/
theorem State.setRegAt_of_place {q r : RegAt} (s : State) (v : Nat) (hoff : q.off = r.off) (hreset : q.reset = r.reset) :
    s.setRegAt q v = s.setRegAt r v := by
  rw [State.setRegAt, hoff, hreset, State.setRegAt]

theorem State.regAt_of_place {q r : RegAt} (s : State) (hoff : q.off = r.off) (hreset : q.reset = r.reset) :
    s.regAt q = s.regAt r := by
  rw [State.regAt, hoff, hreset, State.regAt]

/-! ### The registers that are counters -/

/-- A counter fills its register: one of 32 bits, one of 64 bits, or two halves of 32 bits. -/
theorem Rn.counter_cases {r : Rn} (h : r.hasAcc .rc = true) :
    (r.spec.wide = false ∧ r.spec.flds = [⟨31, 0, .rc, 0, 0, 2 ^ 32 - 1, false⟩]) ∨
    (r.spec.wide = true ∧ r.spec.flds = [⟨63, 0, .rc, 0, 0, 2 ^ 64 - 1, false⟩]) ∨
    (r.spec.wide = true ∧ r.spec.flds = [⟨63, 32, .rc, 0, 0, 2 ^ 32 - 1, false⟩, ⟨31, 0, .rc, 0, 0, 2 ^ 32 - 1, false⟩]) := by
  cases r <;> simp [Rn.hasAcc, Rn.spec] at h ⊢

/-- A counter has one index at most, and one whose halves count apart has none. -/
theorem Rn.stride_of_rc {r : Rn} (h : r.hasAcc .rc = true) : r.spec.sj = 0 ∧ (r.halved = true → r.spec.si = 0) := by
  cases r <;> simp [Rn.hasAcc, Rn.spec] at h <;> decide

theorem RegAt.reset_of_rc {r : RegAt} (h : r.rn.hasAcc .rc = true) : r.reset = 0 := by
  obtain ⟨k, n, i, j⟩ := r
  cases k <;> simp [Rn.hasAcc, Rn.spec] at h <;> rfl

/-- A counter is read as it stands. -/
theorem State.shown_of_rc (s : State) (m : Master) {r : RegAt} (h : r.rn.hasAcc .rc = true) : s.shown m r = s.regAt r := by
  obtain ⟨k, n, i, j⟩ := r
  cases k <;> simp [Rn.hasAcc, Rn.spec] at h <;> rfl

theorem Rn.not_acts_of_rc {r : Rn} (h : r.hasAcc .rc = true) : r.acts = false := by
  cases r <;> simp [Rn.hasAcc, Rn.spec] at h <;> rfl

/-- A number of which the top field is cleared keeps the bits below. -/
theorem putBits_zero_top {v hi lo : Nat} (hlo : lo ≤ hi) (hv : v < 2 ^ (hi + 1)) : putBits v hi lo 0 = v % 2 ^ lo := by
  have hfield : v / 2 ^ lo < 2 ^ (hi + 1 - lo) := by
    refine Nat.div_lt_of_lt_mul ?_
    rwa [← pow_add, Nat.add_sub_cancel' (by omega)]
  rw [putBits, bits, Nat.mod_eq_of_lt hfield, Nat.zero_mod, Nat.zero_mul, Nat.add_zero, Nat.mod_eq_sub_div_mul]

theorem Rn.top_of_narrow {r : Rn} (h : r.spec.wide = false) : r.top + 1 = 2 ^ 32 := by
  rw [Rn.top, h]
  rfl

theorem Rn.top_of_wide {r : Rn} (h : r.spec.wide = true) : r.top + 1 = 2 ^ 64 := by
  rw [Rn.top, h]
  rfl

/-- The read clears the whole register. -/
theorem rcCleared_eq_zero {r : Rn} (h : r.hasAcc .rc = true) (v : Nat) : rcCleared r v = 0 := by
  unfold rcCleared
  obtain ⟨hwide, hflds⟩ | ⟨hwide, hflds⟩ | ⟨hwide, hflds⟩ := Rn.counter_cases h
  · rw [Rn.top_of_narrow hwide, hflds, List.foldl_cons, List.foldl_nil, if_pos rfl,
      putBits_zero_top (by decide) (Nat.mod_lt _ (by positivity)), pow_zero, Nat.mod_one]
  · rw [Rn.top_of_wide hwide, hflds, List.foldl_cons, List.foldl_nil, if_pos rfl,
      putBits_zero_top (by decide) (Nat.mod_lt _ (by positivity)), pow_zero, Nat.mod_one]
  · rw [Rn.top_of_wide hwide, hflds, List.foldl_cons, List.foldl_cons, List.foldl_nil, if_pos rfl, if_pos rfl,
      putBits_zero_top (by decide) (Nat.mod_lt _ (by positivity)),
      putBits_zero_top (by decide) (Nat.mod_lt _ (by positivity)), pow_zero, Nat.mod_one]

/-- A counter has no field that a write takes. -/
theorem rwMerge_of_rc {r : Rn} (h : r.hasAcc .rc = true) (old v : Nat) : rwMerge r.spec.flds old v = old := by
  obtain ⟨-, hflds⟩ | ⟨-, hflds⟩ | ⟨-, hflds⟩ := Rn.counter_cases h <;> simp [rwMerge, hflds]

/-- A write stores what a counter holds. -/
theorem State.commit_of_rc (s : State) (m : Master) {r : RegAt} (v : Nat) (h : r.rn.hasAcc .rc = true) :
    s.commit m r v = s.setRegAt r (s.regAt r) := by
  rw [s.commit_of_not_acts m v (Rn.not_acts_of_rc h), State.rwWrite, rwMerge_of_rc h]

theorem State.afterRead_of_rc (s : State) {r : RegAt} (h : r.rn.hasAcc .rc = true) : s.afterRead r = s.setRegAt r 0 := by
  have hne : r.rn ≠ .selIcPendPriv := fun e => absurd h (by rw [e]; decide)
  simp [State.afterRead, h, hne, rcCleared_eq_zero h]

/-- An increment counts in the register of the same block and index. -/
theorem State.count_of_rc (s : State) {r : RegAt} (k : Nat) (h : r.rn.hasAcc .rc = true) :
    s.count r.rn r.inst k r.i = s.setRegAt r (min r.rn.top (s.regAt r + k)) := by
  have hoff : (RegAt.mk r.rn r.inst r.i 0).off = r.off := by simp [RegAt.off, (Rn.stride_of_rc h).1]
  have hreset : (RegAt.mk r.rn r.inst r.i 0).reset = r.reset := rfl
  rw [State.count, State.setReg, State.reg, State.regAt_of_place s hoff hreset, State.setRegAt_of_place s _ hoff hreset]

theorem State.countHalf_of_rc (s : State) {r : RegAt} (k : Nat) (h : r.rn.hasAcc .rc = true) (hhalved : r.rn.halved = true) :
    s.countHalf r.rn r.inst false k =
      s.setRegAt r (s.regAt r / 2 ^ 32 * 2 ^ 32 + min (2 ^ 32 - 1) (s.regAt r % 2 ^ 32 + k)) := by
  have hoff : (RegAt.mk r.rn r.inst 0 0).off = r.off := by simp [RegAt.off, (Rn.stride_of_rc h).1, (Rn.stride_of_rc h).2 hhalved]
  have hreset : (RegAt.mk r.rn r.inst 0 0).reset = r.reset := by rw [RegAt.reset_of_rc h, RegAt.reset_of_rc (r := ⟨r.rn, r.inst, 0, 0⟩) h]
  simp only [State.countHalf, State.setReg, State.reg, State.regAt_of_place s hoff hreset, State.setRegAt_of_place s _ hoff hreset,
    Bool.false_eq_true, if_false]

/-! ### RC_COUNTER_READ -/

/-- The top of what counts after the read: of the low half where the halves count apart. -/
def Rn.lowTop (r : Rn) : Nat := if r.halved then 2 ^ 32 - 1 else r.top

/-- What a counter's read leaves: its answer, the counter at a value, the high word in the shadow, and nothing else. -/
structure CounterRead (s t : State) (m : Master) (off : Nat) (r : RegAt) (v : Nat) : Prop where
  rest  : SameBut [.regs, .latch, .said] s t
  regs  : RegsBut [r.off] s t
  said  : t.said = some (.reg m off (s.regAt r % 2 ^ 32))
  value : t.regAt r = v
  latch : r.rn.spec.wide = true → t.latchOf m r.off = { s.latchOf m r.off with shadow := s.regAt r / 2 ^ 32 }

section
variable {s : State} {m : Master} {off : Nat} {r : RegAt}

/-- A read without an increment leaves the counter clear. -/
theorem State.readAt_of_rc (h : s.reaches m off r false false) (hrc : r.rn.hasAcc .rc = true) :
    CounterRead s (s.readAt m off) m off r 0 := by
  rw [State.readAt_of_reaches h]
  cases hwide : r.rn.spec.wide with
  | true =>
    rw [State.readWord_low s m hwide, State.shown_of_rc s m hrc, State.afterRead_of_rc _ hrc]
    exact {
      rest := ((s.setLatch_sameBut m r.off _).mono (by simp)).trans
        (((State.setRegAt_sameBut _ r 0).mono (by simp)).trans ((State.answerRead_sameBut _ m off _).mono (by simp)))
      regs := State.setRegAt_regsBut (s.setLatch m r.off _) r 0
      said := rfl
      value := State.regAt_setRegAt_same _ r 0
      latch := fun _ => State.latchOf_setLatch_same s m r.off _ }
  | false =>
    rw [State.readWord_narrow s m hwide, State.shown_of_rc s m hrc, State.afterRead_of_rc _ hrc]
    exact {
      rest := ((s.setRegAt_sameBut r 0).mono (by simp)).trans ((State.answerRead_sameBut _ m off _).mono (by simp))
      regs := s.setRegAt_regsBut r 0
      said := rfl
      value := State.regAt_setRegAt_same _ r 0
      latch := fun hw => absurd (hw.symm.trans hwide) (by decide) }

/-- What counts after the read takes the place of the cleared value. -/
theorem CounterRead.setRegAt {y : State} {v : Nat} (h : CounterRead s y m off r v) (w : Nat) :
    CounterRead s (y.setRegAt r w) m off r w where
  rest := h.rest.trans ((y.setRegAt_sameBut r w).mono (by simp))
  regs := h.regs.trans (y.setRegAt_regsBut r w)
  said := h.said
  value := y.regAt_setRegAt_same r w
  latch := h.latch

theorem exec_rcCounterRead (inc : Nat) (h : s.reaches m off r false false) (hrc : r.rn.hasAcc .rc = true) :
    ∃ t, exec (.rcCounterRead m off inc) s = .next t ∧ CounterRead s t m off r (min r.rn.lowTop inc) := by
  have hread := State.readAt_of_rc h hrc
  obtain ⟨-, hanswers, -⟩ := id h
  have hresp : (s.readAt m off).responds r.rn.spec.blk = true :=
    (State.responds_congr hread.rest (by simp) (by simp) _).trans hanswers
  have hexec : exec (.rcCounterRead m off inc) s = execRcCounterRead m off inc s := rfl
  rw [hexec, execRcCounterRead, accAt_of_reaches h hrc]
  dsimp only
  by_cases hinc : inc = 0
  · subst hinc
    rw [Nat.min_zero, if_pos (.inl rfl)]
    exact ⟨_, rfl, hread⟩
  · rw [if_neg (by simp [hinc, hresp])]
    cases hhalved : r.rn.halved with
    | true =>
      have hlow : r.rn.lowTop = 2 ^ 32 - 1 := if_pos hhalved
      rw [if_pos rfl, State.countHalf_of_rc _ inc hrc hhalved, hread.value, hlow, Nat.zero_div, Nat.zero_mul, Nat.zero_mod,
        Nat.zero_add, Nat.zero_add]
      exact ⟨_, rfl, hread.setRegAt _⟩
    | false =>
      have hlow : r.rn.lowTop = r.rn.top := if_neg (by simp [hhalved])
      rw [if_neg (by simp), State.count_of_rc _ inc hrc, hread.value, hlow, Nat.zero_add]
      exact ⟨_, rfl, hread.setRegAt _⟩

end

theorem State.reg_count_same (s : State) (r : Rn) (n k i : Nat) : (s.count r n k i).reg r n i = min r.top (s.reg r n i + k) :=
  s.regAt_setRegAt_same _ _

end Sys2Proof.Machine

namespace Sys2Proof.Proofs

open Sys2Proof.Machine

/-- Settles O11: a counter fills its register, so that the read clears all of it and a write finds no field to take. -/
theorem countersClearOnRead : Obligations.CountersClearOnRead := by
  unfold Obligations.CountersClearOnRead
  refine ⟨fun m off r inc s h hrc => ?_, fun m off r v s h hnarrow hrc => ?_, fun m off r v w s hrc hwide haligned =>
    ⟨fun h => ?_, fun h => ?_, fun h => ?_⟩, fun s r n k i => s.reg_count_same r n k i⟩
  · obtain ⟨t, hexec, hread⟩ := exec_rcCounterRead inc h hrc
    exact ⟨t, hexec, hread.rest, hread.regs, hread.said, hread.value, hread.latch⟩
  · have hexec : exec (.registerWrite m off v) s = .next (s.setRegAt r (s.regAt r)) := by
      rw [exec_registerWrite, State.busWrite_narrow _ h hnarrow, State.commit_of_rc s m _ hrc]
    exact ⟨_, hexec, s.setRegAt_sameBut r _, s.setRegAt_regsBut r _, s.regAt_setRegAt_same r _⟩
  · have hexec := exec_lpAlignedAccess_read h hwide haligned
    rw [State.afterRead_of_rc s hrc] at hexec
    exact ⟨_, hexec, ((s.setRegAt_sameBut r 0).mono (by simp)).trans ((State.answerRead_sameBut _ m off _).mono (by simp)),
      s.setRegAt_regsBut r 0, rfl, s.regAt_setRegAt_same r 0⟩
  · have hexec := exec_lpAlignedAccess_commit w h hwide haligned
    rw [State.commit_of_rc s m _ hrc] at hexec
    exact ⟨_, hexec, s.setRegAt_sameBut r _, s.setRegAt_regsBut r _, s.regAt_setRegAt_same r _⟩
  · have hexec := exec_lpHighWrite v h hwide rfl
    rw [State.commit_of_rc s m _ hrc] at hexec
    exact ⟨_, hexec, ((s.setRegAt_sameBut r _).mono (by simp)).trans ((State.setLatch_sameBut _ m r.off _).mono (by simp)),
      s.setRegAt_regsBut r _, s.regAt_setRegAt_same r _⟩

end Sys2Proof.Proofs

/-! PROOF. Access violations (R38, R43, R44): what a violation leaves in its registers and in the event ring, by any master. -/

namespace Sys2Proof.Machine

/-! ### Registers beside the one that is stored -/

theorem State.reg_setReg_same (s : State) (r : Rn) (n i v : Nat) : (s.setReg r n i v).reg r n i = v := s.regAt_setRegAt_same _ _

theorem State.reg_setReg_ne (s : State) {r q : Rn} {n i m j : Nat} (v : Nat) (h : (RegAt.mk q m j 0).off ≠ (RegAt.mk r n i 0).off) :
    (s.setReg r n i v).reg q m j = s.reg q m j := s.regAt_setRegAt_ne _ _ v h

theorem State.setReg_sameBut (s : State) (r : Rn) (n i v : Nat) : SameBut [.regs] s (s.setReg r n i v) := s.setRegAt_sameBut _ _

theorem State.setReg_regsBut (s : State) (r : Rn) (n i v : Nat) : RegsBut [(RegAt.mk r n i 0).off] s (s.setReg r n i v) :=
  s.setRegAt_regsBut _ _

theorem State.reg_raise_ne (s : State) {r q : Rn} {n i m j : Nat} (k num w0 w1 w2 : Nat)
    (h : (RegAt.mk q m j 0).off ≠ (RegAt.mk r n i 0).off) : (s.raise r n k num w0 w1 w2 i).reg q m j = s.reg q m j :=
  s.raise_regsBut r n k num w0 w1 w2 i ⟨q, m, j, 0⟩ (by simpa using h)

/-! ### A violation -/

/-- GLB_VIOL_INFO of a violation. -/
def violInfo (cls page off : Nat) (write : Bool) (cause : Nat) : Nat :=
  cls * 2 ^ 62 + page * 2 ^ 50 + b2n write * 2 ^ 49 + cause * 2 ^ 48 + off % 2 ^ 44

/-- A violation that is counted and, where none is pending, captured, before its event. -/
def State.violNoted (s : State) (info : Nat) : State :=
  if bits ((s.count .glbViolCount 0).reg .glbViol) 1 0 ≠ 0 then s.count .glbViolCount 0
  else (s.count .glbViolCount 0).setReg .glbViolInfo 0 0 info

theorem State.violate_eq (s : State) (cls page off : Nat) (write : Bool) (cause : Nat) :
    s.violate cls page off write cause = (s.violNoted (violInfo cls page off write cause)).raise .glbViol 0 cause (0x10 + cause) off
      (cls * 2 ^ 30 + page * 2 ^ 18 + b2n write * 2 ^ 17 + bits off 43 32) 0 := rfl

section
variable (s : State) (info : Nat)

theorem State.violNoted_sameBut : SameBut [.regs] s (s.violNoted info) := by
  unfold State.violNoted
  split
  · exact s.setReg_sameBut _ _ _ _
  · exact (s.setReg_sameBut _ _ _ _).trans (State.setReg_sameBut _ _ _ _ _)

theorem State.violNoted_regsBut : RegsBut violOffs s (s.violNoted info) := by
  have hcount : RegsBut violOffs s (s.count .glbViolCount 0) := (s.setReg_regsBut _ _ _ _).mono (by decide)
  unfold State.violNoted
  split
  · exact hcount
  · exact hcount.trans ((State.setReg_regsBut _ _ _ _ _).mono (by decide))

theorem State.reg_count_viol : (s.count .glbViolCount 0).reg .glbViol = s.reg .glbViol := s.reg_setReg_ne _ (by decide)

theorem State.violNoted_viol : (s.violNoted info).reg .glbViol = s.reg .glbViol := by
  unfold State.violNoted
  split
  · exact s.reg_count_viol
  · exact (State.reg_setReg_ne _ _ (by decide)).trans s.reg_count_viol

theorem State.violNoted_count : (s.violNoted info).reg .glbViolCount = min (2 ^ 32 - 1) (s.reg .glbViolCount + 1) := by
  have hcount : (s.count .glbViolCount 0).reg .glbViolCount = min (2 ^ 32 - 1) (s.reg .glbViolCount + 1) :=
    s.reg_count_same .glbViolCount 0 1 0
  unfold State.violNoted
  split
  · exact hcount
  · exact (State.reg_setReg_ne _ _ (by decide)).trans hcount

theorem State.violNoted_info :
    (s.violNoted info).reg .glbViolInfo = if bits (s.reg .glbViol) 1 0 = 0 then info else s.reg .glbViolInfo := by
  unfold State.violNoted
  rw [s.reg_count_viol, ite_not]
  split
  · exact State.reg_setReg_same _ _ _ _ _
  · exact s.reg_setReg_ne _ (by decide)

end

theorem b2n_le (b : Bool) : b2n b ≤ 1 := by cases b <;> decide

/-- Word 1 of the record holds its fields without a carry. -/
theorem violWord_lt {cls page : Nat} (off : Nat) (write : Bool) (hcls : cls < 4) (hpage : page < 4096) :
    cls * 2 ^ 30 + page * 2 ^ 18 + b2n write * 2 ^ 17 + bits off 43 32 < 2 ^ 32 := by
  have hwrite := b2n_le write
  have hoff : bits off 43 32 < 2 ^ 12 := bits_lt off 43 32
  omega

theorem Master.page_lt (m : Master) : Master.page m < 4096 := by
  cases m with
  | bar2 p => exact p.isLt
  | _ => exact Nat.succ_pos _

theorem Master.cls_lt {m : Master} {c : Nat} (h : Master.cls m = some c) : c < 4 := by
  cases m <;> simp [Master.cls] at h <;> omega

/-- A violation of a master of class cls leaves its event, its count and, where none was pending, its capture. -/
theorem State.violate_leaves (s : State) (m : Master) {cls cause : Nat} (off : Nat) (write : Bool) (hcls : cls < 4) (hcause : cause < 24)
    {t : State} (ht : t = s.violate cls (Master.page m) off write cause) :
    SameBut [.regs, .events] s t ∧ RegsBut violOffs s t ∧ t.reg .glbViol = evAdvance (s.reg .glbViol) cause ∧
    t.reg .glbViolCount = min (2 ^ 32 - 1) (s.reg .glbViolCount + 1) ∧
    t.reg .glbViolInfo = (if bits (s.reg .glbViol) 1 0 = 0 then violInfo cls (Master.page m) off write cause else s.reg .glbViolInfo) ∧
    t.events = s.events ++ [violRec s m off write cause cls] := by
  have hviol := s.violNoted_viol (violInfo cls (Master.page m) off write cause)
  have hcount := s.violNoted_count (violInfo cls (Master.page m) off write cause)
  have hinfo := s.violNoted_info (violInfo cls (Master.page m) off write cause)
  have hrest := s.violNoted_sameBut (violInfo cls (Master.page m) off write cause)
  have hregs := s.violNoted_regsBut (violInfo cls (Master.page m) off write cause)
  rw [State.violate_eq] at ht
  generalize s.violNoted (violInfo cls (Master.page m) off write cause) = y at *
  subst ht
  refine ⟨(hrest.mono (by simp)).trans (y.raise_sameBut _ _ _ _ _ _ _ _), hregs.trans ((y.raise_regsBut _ _ _ _ _ _ _ _).mono (by decide)),
    ?viol, ?count, ?info, ?record⟩
  case viol => rw [State.reg_raise_same, hviol]
  case count => rw [State.reg_raise_ne _ _ _ _ _ _ (by decide), hcount]
  case info => rw [State.reg_raise_ne _ _ _ _ _ _ (by decide), hinfo]
  case record =>
    have hevents : y.events = s.events := hrest .events (by simp)
    have hlocal : y.local 32 = s.local 32 := congrArg (fun t => Tab.get 0 t 32) (hrest .lcount (by simp))
    rw [State.raise_events, hevents, hviol, Nat.mod_eq_of_lt (violWord_lt off write hcls (Master.page_lt m)),
      bits_evAdvance_seq _ hcause, bits_evAdvance_pending _ hcause]
    have hoff : (RegAt.mk .glbViol 0 0 0).off = 0x18 := rfl
    simp only [violRec, Rn.spec, Blk.bayOf, Blk.id, hlocal, hoff, Nat.zero_mul, Nat.zero_add, Nat.zero_mod]

theorem State.takeFree_sameBut (s : State) : SameBut [.free] s s.takeFree := by
  intro p hp
  cases p with
  | free => simp at hp
  | _ => rfl

/-- A violation of any master is one of its class; the class of a Selay core is a free value. -/
theorem State.violateBy_of_class (s : State) (m : Master) (off : Nat) (write : Bool) (cause : Nat) :
    ∃ cls < 4, (∀ c, Master.cls m = some c → cls = c) ∧
      SameBut [.free] (s.violate cls (Master.page m) off write cause) (s.violateBy m off write cause) := by
  cases hcls : Master.cls m with
  | some c =>
    have hby : s.violateBy m off write cause = s.violate c (Master.page m) off write cause := by rw [State.violateBy, hcls]
    exact ⟨c, Master.cls_lt hcls, fun c' h => Option.some.inj h, fun p _ => hby ▸ p.same_refl _⟩
  | none =>
    have hpage : Master.page m = 0 := by
      cases m with
      | bar2 p => cases hcls
      | _ => rfl
    have hby : s.violateBy m off write cause = (s.violate (s.freeVal 2) (Master.page m) off write cause).takeFree := by
      rw [State.violateBy, hcls, hpage]
    exact ⟨s.freeVal 2, BitVec.isLt _, fun c h => (Option.some_ne_none c h.symm).elim, hby ▸ State.takeFree_sameBut _⟩

/-- What a violating access leaves: its violation and, for a read, the answer zero. -/
def State.violated (s : State) (m : Master) (off : Nat) (write : Bool) (cause : Nat) : State :=
  if write then s.violateBy m off write cause else (s.violateBy m off write cause).answerRead m off (some 0)

theorem State.violated_sameBut (s : State) (m : Master) (off : Nat) (write : Bool) (cause : Nat) :
    SameBut [.said] (s.violateBy m off write cause) (s.violated m off write cause) := by
  cases write with
  | true => exact fun p _ => p.same_refl _
  | false => exact State.answerRead_sameBut _ m off (some 0)

theorem State.violated_said (s : State) (m : Master) (off : Nat) (write : Bool) (cause : Nat) :
    (s.violated m off write cause).said = if write then (s.violateBy m off write cause).said else some (.reg m off 0) := by
  cases write <;> rfl

theorem State.violated_leaves (s : State) (m : Master) (off : Nat) (write : Bool) {cause : Nat} (hcause : cause < 24) :
    Violated s (s.violated m off write cause) m off write cause := by
  obtain ⟨cls, hcls, hclass, hby⟩ := s.violateBy_of_class m off write cause
  obtain ⟨hrest, hregs, hviol, hcount, hinfo, hevents⟩ := s.violate_leaves m off write hcls hcause rfl
  have hout : SameBut [.free, .said] (s.violate cls (Master.page m) off write cause) (s.violated m off write cause) :=
    (hby.mono (by simp)).trans ((s.violated_sameBut m off write cause).mono (by simp))
  have hreg (q : RegAt) := State.regAt_congr (hout .regs (by simp)) q
  have hsaid : (s.violateBy m off write cause).said = s.said := (hby .said (by simp)).trans (hrest .said (by simp))
  exact {
    rest := (hrest.mono (by simp)).trans (hout.mono (by simp))
    regs := fun q hq => (hreg q).trans (hregs q hq)
    viol := (hreg _).trans hviol
    count := (hreg _).trans hcount
    info := ⟨cls, hcls, hclass, (hreg _).trans hinfo, (hout .events (by simp)).trans hevents⟩
    said := by rw [State.violated_said, hsaid] }

/-! ### The commands -/

theorem exec_unmappedAccess {s : State} {m : Master} {off width : Nat} (write : Bool)
    (h : targetOf m off = .nothing ∨ (width ≠ 32 ∧ width ≠ 64) ∨ off % (width / 8) ≠ 0) (hresp : s.responds .glb = true) :
    exec (.unmappedAccess m off write width) s = .next (s.violated m off write 1) := by
  have hbad : ¬ (accessOk off width = true ∧ targetOf m off ≠ .nothing) := by
    rintro ⟨hok, htarget⟩
    simp only [accessOk, Bool.and_eq_true, Bool.or_eq_true, beq_iff_eq] at hok
    obtain ⟨hwidth, halign⟩ := hok
    rcases h with h | ⟨h32, h64⟩ | h
    · exact htarget h
    · exact hwidth.elim h32 h64
    · exact h halign
  have hexec : exec (.unmappedAccess m off write width) s = execUnmappedAccess m off write s width := rfl
  rw [hexec, execUnmappedAccess, if_neg hbad, if_neg (by simp [hresp])]
  rfl

theorem exec_privilegeViolation {s : State} {m : Master} {off : Nat} {write : Bool} (htarget : targetOf m off ≠ .nothing)
    (hresp : s.responds (targetOf m off).blk = true) (hperm : s.permits m (targetOf m off) write = false) :
    exec (.privilegeViolation m off write) s = .next (s.violated m off write 0) := by
  have hexec : exec (.privilegeViolation m off write) s = execPrivilegeViolation m off write s := rfl
  rw [hexec, execPrivilegeViolation, if_pos ⟨htarget, hperm⟩]
  cases write with
  | true => simp [State.busWrite, State.violated, hresp, hperm]
  | false => simp [State.readAt, State.busRead, State.violated, hresp, hperm]

end Sys2Proof.Machine

namespace Sys2Proof.Proofs

open Sys2Proof.Machine

/-- Settles O12: both commands end in the violation of their master, with the answer zero for a read. -/
theorem violationsLeaveOnlyTheirTraces : Obligations.ViolationsLeaveOnlyTheirTraces := by
  unfold Obligations.ViolationsLeaveOnlyTheirTraces
  intro m off width write s
  exact ⟨fun h hresp => ⟨_, exec_unmappedAccess write h hresp, s.violated_leaves m off write (by decide)⟩,
    fun htarget hresp hperm => ⟨_, exec_privilegeViolation htarget hresp hperm, s.violated_leaves m off write (by decide)⟩⟩

end Sys2Proof.Proofs

/-! PROOF. The event ring (R51 to R54): writes of its controls, and the record that is written at HEAD or lost. -/

namespace Sys2Proof.Machine

/-! ### The fields of GLB_EVRING_CTL -/

/-- The place of GLB_EVRING_CTL. -/
def evringCtlAt : RegAt := ⟨.glbEvringCtl, 0, 0, 0⟩

/-- The interrupt enable of the ring, bit 9, and EN, bit 8, take what is written. -/
theorem State.rwWrite_evringCtl_flags (s : State) (v : Nat) :
    bit ((s.rwWrite evringCtlAt v).reg .glbEvringCtl) 9 = bit v 9 ∧ bit ((s.rwWrite evringCtlAt v).reg .glbEvringCtl) 8 = bit v 8 := by
  have field (f : Fld) (hf : f ∈ Rn.glbEvringCtl.spec.flds) := s.rwWrite_field_unreserved evringCtlAt v hf
  have interrupt := field ⟨9, 9, .rw, 0, 0, 1, true⟩ (by decide) rfl rfl (by decide)
  have enable := field ⟨8, 8, .rw, 0, 0, 1, true⟩ (by decide) rfl rfl (by decide)
  simp only [bit_eq_bits]
  exact ⟨congrArg (· == 1) interrupt, congrArg (· == 1) enable⟩

/-- LOG2 takes 6 to 16 and keeps its value else. -/
theorem State.rwWrite_evringCtl_log2 (s : State) (v : Nat) :
    bits ((s.rwWrite evringCtlAt v).reg .glbEvringCtl) 4 0 =
      if 6 ≤ bits v 4 0 ∧ bits v 4 0 ≤ 16 then bits v 4 0 else bits (s.reg .glbEvringCtl) 4 0 :=
  s.rwWrite_field evringCtlAt v (f := ⟨4, 0, .rw, 6, 6, 16, true⟩) (by decide) rfl

theorem bits_putBits_low (v x : Nat) : bits (putBits v 4 0 (bits x 4 0)) 4 0 = bits x 4 0 := by
  simp only [bits, putBits]
  omega

theorem bit_putBits_high (v x : Nat) {i : Nat} (hi : 4 < i) : bit (putBits v 4 0 x) i = bit v i := by
  rw [bit_eq_testBit, putBits_testBit v 4 0 x i (by decide), if_neg (by omega), bit_eq_testBit]

/-! ### Writes of the controls -/

/-- The ring starts at index 0. -/
def State.evringStart (s : State) : State := (s.setReg .glbEvringHead 0 0 0).setReg .glbEvringTail 0 0 0

theorem State.evringStart_sameBut (s : State) : SameBut [.regs] s s.evringStart :=
  (s.setReg_sameBut _ _ _ _).trans (State.setReg_sameBut _ _ _ _ _)

theorem State.evringStart_regsBut (s : State) : RegsBut [0x4C, 0x50] s s.evringStart :=
  RegsBut.trans ((s.setReg_regsBut .glbEvringHead 0 0 0).mono (by decide)) ((State.setReg_regsBut _ .glbEvringTail 0 0 0).mono (by decide))

theorem State.evringStart_ctl (s : State) : s.evringStart.reg .glbEvringCtl = s.reg .glbEvringCtl :=
  s.evringStart_regsBut evringCtlAt (by decide)

theorem State.evringStart_head (s : State) : s.evringStart.reg .glbEvringHead = 0 :=
  (State.reg_setReg_ne _ _ (by decide)).trans (s.reg_setReg_same .glbEvringHead 0 0 0)

theorem State.evringStart_tail (s : State) : s.evringStart.reg .glbEvringTail = 0 := State.reg_setReg_same _ _ _ _ _

theorem State.evringCtl_enable {s : State} {v : Nat} (hv : bit v 8 = true) (hold : bit (s.reg .glbEvringCtl) 8 = false) :
    s.evringCtl v = (s.rwWrite evringCtlAt v).evringStart := by
  simp [State.evringCtl, State.evringStart, evringCtlAt, hv, hold]

/-- With EN set the write carries the LOG2 that stands. -/
theorem State.evringCtl_enabled {s : State} (v : Nat) (hold : bit (s.reg .glbEvringCtl) 8 = true) :
    s.evringCtl v = s.rwWrite evringCtlAt (putBits v 4 0 (bits (s.reg .glbEvringCtl) 4 0)) := by
  simp [State.evringCtl, evringCtlAt, hold]

theorem View.may_evringTail (v : View) : v.may .glbEvringTail true = v.may .glbEvringCtl true := by
  cases v <;> rfl

section
variable {s : State} {m : Master} {v : Word32}

theorem exec_evringEnable (hresp : s.responds .glb = true) (hmay : (s.view m).may .glbEvringCtl true = true)
    (hv : bit v.toNat 8 = true) (hold : bit (s.reg .glbEvringCtl) 8 = false) :
    exec (.evringEnable m v) s = .next (s.evringCtl v.toNat) :=
  (if_pos ⟨hv, hold⟩).trans (congrArg Host.Outcome.next (State.guarded_of_may (r := evringCtlAt) _ hresp hmay))

theorem exec_evringDisable (hresp : s.responds .glb = true) (hmay : (s.view m).may .glbEvringCtl true = true)
    (hv : bit v.toNat 8 = false) (hold : bit (s.reg .glbEvringCtl) 8 = true) :
    exec (.evringDisable m v) s = .next (s.evringCtl v.toNat) :=
  (if_pos ⟨hv, hold⟩).trans (congrArg Host.Outcome.next (State.guarded_of_may (r := evringCtlAt) _ hresp hmay))

theorem exec_evringTailWrite (hresp : s.responds .glb = true) (hmay : (s.view m).may .glbEvringCtl true = true) :
    exec (.evringTailWrite m v) s = .next (s.evringTail v.toNat) :=
  congrArg Host.Outcome.next
    (State.guarded_of_may (r := ⟨.glbEvringTail, 0, 0, 0⟩) _ hresp ((View.may_evringTail _).trans hmay))

end

/-- A TAIL not past HEAD is taken. -/
theorem State.evringTail_taken {s : State} {v n : Nat} (hn : n = 2 ^ bits (s.reg .glbEvringCtl) 4 0) (hv : bits v 15 0 < n)
    (h : (bits v 15 0 + n - s.reg .glbEvringTail % n) % n ≤ (s.reg .glbEvringHead + n - s.reg .glbEvringTail % n) % n) :
    s.evringTail v = s.setReg .glbEvringTail 0 0 (bits v 15 0) := by
  have hsize : s.evringSize = n := hn.symm
  simp only [State.evringTail, hsize, Nat.mod_eq_of_lt hv]
  exact if_neg (Nat.not_lt.mpr h)

/-- A TAIL past HEAD is an event. -/
theorem State.evringTail_past {s : State} {v n : Nat} (hn : n = 2 ^ bits (s.reg .glbEvringCtl) 4 0) (hv : bits v 15 0 < n)
    (h : (s.reg .glbEvringHead + n - s.reg .glbEvringTail % n) % n < (bits v 15 0 + n - s.reg .glbEvringTail % n) % n) :
    s.evringTail v = s.raise .glbEvent 0 4 0x004 (bits v 15 0) (s.reg .glbEvringHead) (s.reg .glbEvringTail) := by
  have hsize : s.evringSize = n := hn.symm
  simp only [State.evringTail, hsize, Nat.mod_eq_of_lt hv]
  exact if_pos h

/-! ### The record at HEAD -/

/-- The state after the bytes of a record are stored, and their line of host memory is counted. -/
def State.recordWritten (s : State) (e : EvRec) : State :=
  (s.hwrite (s.reg .glbEvringBase + 32 * s.reg .glbEvringHead) (e.bytes s.evLost)).cacheLines true

/-- The state after a record is stored and HEAD is one on, before the ring's vector. -/
def State.recordStored (s : State) (e : EvRec) : State :=
  { (s.recordWritten e).setReg .glbEvringHead 0 0 ((s.reg .glbEvringHead + 1) % s.evringSize) with evLost := false }

/-- The ring's vector is raised after the record, or it is not. -/
theorem State.putRecord_cases (s : State) (e : EvRec) :
    s.putRecord e = s.recordStored e ∨ s.putRecord e = (s.recordStored e).msixSend 0 := by
  unfold State.putRecord
  dsimp only
  split
  · exact .inr rfl
  · exact .inl rfl

theorem State.putRecord_eq_of {β : Type} (f : State → β) (hf : ∀ t : State, f (t.msixSend 0) = f t) (s : State) (e : EvRec) :
    f (s.putRecord e) = f (s.recordStored e) := by
  rcases s.putRecord_cases e with h | h <;> rw [h]
  exact hf _

theorem EvRec.bytes_length (e : EvRec) (lost : Bool) : (e.bytes lost).length = 32 := by
  simp [EvRec.bytes, leBytes_length]

/-- The mark of lost records is no register. -/
theorem State.evLost_regAt (s : State) (b : Bool) (q : RegAt) : ({ s with evLost := b } : State).regAt q = s.regAt q := rfl

theorem State.recordStored_host (s : State) (e : EvRec) :
    (s.recordStored e).host = writeBytes s.host (s.reg .glbEvringBase + 32 * s.reg .glbEvringHead) (e.bytes s.evLost) := by
  simp [State.recordStored, State.recordWritten, State.hwrite]

/-- The record changes HST_CACHE_LINES and HEAD alone. -/
theorem State.recordWritten_reg (s : State) (e : EvRec) {q : Rn}
    (hlines : (RegAt.mk q 0 0 0).off ≠ (RegAt.mk .hstCacheLines 0 0 0).off) : (s.recordWritten e).reg q = s.reg q := by
  unfold State.recordWritten State.cacheLines State.countHalf
  dsimp only
  rw [State.reg_setReg_ne _ _ hlines]
  exact State.regAt_congr (s := s) (by simp) _

theorem State.recordStored_regAt (s : State) (e : EvRec) (q : RegAt) :
    (s.recordStored e).regAt q =
      ((s.recordWritten e).setReg .glbEvringHead 0 0 ((s.reg .glbEvringHead + 1) % s.evringSize)).regAt q := by
  unfold State.recordStored
  exact State.evLost_regAt _ _ _

theorem State.recordStored_reg (s : State) (e : EvRec) {q : Rn} (hhead : (RegAt.mk q 0 0 0).off ≠ (RegAt.mk .glbEvringHead 0 0 0).off)
    (hlines : (RegAt.mk q 0 0 0).off ≠ (RegAt.mk .hstCacheLines 0 0 0).off) : (s.recordStored e).reg q = s.reg q := by
  rw [State.reg, State.recordStored_regAt, ← State.reg, State.reg_setReg_ne _ _ hhead, State.recordWritten_reg s e hlines]

theorem State.recordStored_head (s : State) (e : EvRec) :
    (s.recordStored e).reg .glbEvringHead = (s.reg .glbEvringHead + 1) % s.evringSize := by
  rw [State.reg, State.recordStored_regAt, ← State.reg, State.reg_setReg_same]

theorem State.hread_one (s : State) (a : Nat) : s.hread a 1 = [Tab.get 0 s.host a] := rfl

/-- What a record leaves at HEAD: its bytes, HEAD one on, and no other byte of host memory. -/
structure RecordAtHead (s t : State) (e : EvRec) (rest : List EvRec) : Prop where
  events : t.events = rest
  lost   : t.evLost = false
  head   : t.reg .glbEvringHead = (s.reg .glbEvringHead + 1) % s.evringSize
  bytes  : t.hread (s.reg .glbEvringBase + 32 * s.reg .glbEvringHead) 32 = e.bytes s.evLost
  others : ∀ a, a < s.reg .glbEvringBase + 32 * s.reg .glbEvringHead ∨ s.reg .glbEvringBase + 32 * s.reg .glbEvringHead + 32 ≤ a →
    t.hread a 1 = s.hread a 1
  event  : t.reg .glbEvent = s.reg .glbEvent
  tail   : t.reg .glbEvringTail = s.reg .glbEvringTail

theorem State.putRecord_leaves (s : State) (e : EvRec) (rest : List EvRec) :
    RecordAtHead s (State.putRecord { s with events := rest } e) e rest := by
  generalize hs : ({ s with events := rest } : State) = y
  have hlen := e.bytes_length y.evLost
  have hhost : (y.putRecord e).host = writeBytes y.host (y.reg .glbEvringBase + 32 * y.reg .glbEvringHead) (e.bytes y.evLost) :=
    (State.putRecord_eq_of State.host (fun _ => rfl) y e).trans (y.recordStored_host e)
  have hreg (q : Rn) : (y.putRecord e).reg q = (y.recordStored e).reg q :=
    State.putRecord_eq_of (State.reg · q) (fun _ => rfl) y e
  have hleaves : RecordAtHead y (y.putRecord e) e y.events :=
    { events := (State.putRecord_eq_of State.events (fun _ => rfl) y e).trans (by simp [State.recordStored, State.recordWritten])
      lost := State.putRecord_eq_of State.evLost (fun _ => rfl) y e
      head := (hreg _).trans (y.recordStored_head e)
      bytes := by rw [State.hread, hhost, ← hlen, readBytes_writeBytes]
      others := fun a ha => by rw [State.hread_one, hhost, writeBytes_outside _ _ _ _ (by rwa [hlen]), State.hread_one]
      event := (hreg _).trans (y.recordStored_reg e (by decide) (by decide))
      tail := (hreg _).trans (y.recordStored_reg e (by decide) (by decide)) }
  subst hs
  exact ⟨hleaves.events, hleaves.lost, hleaves.head, hleaves.bytes, hleaves.others, hleaves.event, hleaves.tail⟩

/-! ### The record that is lost -/

/-- The count of a lost record and its event, which leaves no record. -/
def State.lostCounted (s : State) : State := (s.count .glbEvringLost 0).setReg .glbEvent 0 0 (evAdvance (s.reg .glbEvent) 0)

theorem State.lostRecord_eq (s : State) : s.lostRecord = { s.lostCounted with evLost := true } := rfl

theorem State.lostRecord_sameBut (s : State) : SameBut [.regs, .evLost] s s.lostRecord := by
  have hregs : SameBut [.regs] s s.lostCounted := (s.setReg_sameBut _ _ _ _).trans (State.setReg_sameBut _ _ _ _ _)
  refine (hregs.mono (by simp)).trans fun p hp => ?_
  rw [State.lostRecord_eq]
  cases p with
  | evLost => simp at hp
  | _ => rfl

theorem State.lostRecord_regAt (s : State) (q : RegAt) : s.lostRecord.regAt q = s.lostCounted.regAt q := by
  rw [State.lostRecord_eq, State.evLost_regAt]

theorem State.lostRecord_regsBut (s : State) : RegsBut [0x10, 0x54] s s.lostRecord := by
  have hcount : RegsBut [0x10, 0x54] s (s.count .glbEvringLost 0) := (s.setReg_regsBut .glbEvringLost 0 0 _).mono (by decide)
  have hcounted : RegsBut [0x10, 0x54] s s.lostCounted := hcount.trans ((State.setReg_regsBut _ .glbEvent 0 0 _).mono (by decide))
  exact fun q hq => (s.lostRecord_regAt q).trans (hcounted q hq)

theorem State.lostRecord_count (s : State) : s.lostRecord.reg .glbEvringLost = min (2 ^ 32 - 1) (s.reg .glbEvringLost + 1) := by
  rw [State.reg, State.lostRecord_regAt, ← State.reg, State.lostCounted, State.reg_setReg_ne _ _ (by decide), State.reg_count_same]
  rfl

theorem State.lostRecord_event (s : State) : s.lostRecord.reg .glbEvent = evAdvance (s.reg .glbEvent) 0 := by
  rw [State.reg, State.lostRecord_regAt, ← State.reg, State.lostCounted, State.reg_setReg_same]

/-! ### EVENT_RING_WRITE -/

/-- The records that wait are no registers. -/
theorem State.events_regAt (s : State) (l : List EvRec) (q : RegAt) : ({ s with events := l } : State).regAt q = s.regAt q := rfl

theorem State.events_sameBut (s : State) (l : List EvRec) : SameBut [.events] s { s with events := l } := by
  intro p hp
  cases p with
  | events => simp at hp
  | _ => rfl

theorem exec_eventRingWrite_put {s : State} {e : EvRec} {rest : List EvRec} (h : s.events = e :: rest)
    (hon : bit (s.reg .glbEvringCtl) 8 = true)
    (hroom : (s.reg .glbEvringHead + 1) % s.evringSize ≠ s.reg .glbEvringTail % s.evringSize) (hup : s.hostUp = true) :
    exec .eventRingWrite s = .next (State.putRecord { s with events := rest } e) := by
  have hexec : exec .eventRingWrite s = execEventRingWrite s := rfl
  rw [hexec, execEventRingWrite, h]
  simp [hon, hroom, hup]

theorem exec_eventRingWrite_lost {s : State} {e : EvRec} {rest : List EvRec} (h : s.events = e :: rest)
    (hlost : bit (s.reg .glbEvringCtl) 8 = false ∨
      (s.reg .glbEvringHead + 1) % s.evringSize = s.reg .glbEvringTail % s.evringSize) :
    exec .eventRingWrite s = .next (State.lostRecord { s with events := rest }) := by
  have hexec : exec .eventRingWrite s = execEventRingWrite s := rfl
  rw [hexec, execEventRingWrite, h]
  exact if_pos (hlost.imp_right fun h => by simp [h])

end Sys2Proof.Machine

namespace Sys2Proof.Proofs

open Sys2Proof.Machine

/-- Settles O14: a write of GLB_EVRING_CTL is a plain write, with LOG2 held while EN is set; TAIL is compared with HEAD. -/
theorem eventRingControls : Obligations.EventRingControls := by
  unfold Obligations.EventRingControls
  intro m v s hresp hmay
  refine ⟨fun hv hold => ?enable, fun hv hold => ?disable, fun w off hon h haligned => ?base,
    fun n old head hn hold hhead hv => ⟨fun hle => ?taken, fun hlt => ?past⟩⟩
  case enable =>
    have hexec := exec_evringEnable hresp hmay hv hold
    rw [State.evringCtl_enable hv hold] at hexec
    obtain ⟨hinterrupt, henable⟩ := s.rwWrite_evringCtl_flags v.toNat
    have hlog2 := s.rwWrite_evringCtl_log2 v.toNat
    refine ⟨_, hexec, (s.rwWrite_sameBut _ _).trans (State.evringStart_sameBut _), ?_, State.evringStart_head _, State.evringStart_tail _,
      ?_, ?_, fun hleast hmost => ?_⟩
    · exact ((s.rwWrite_regsBut evringCtlAt _).mono (by decide)).trans ((State.evringStart_regsBut _).mono (by decide))
    · rw [State.evringStart_ctl, henable, hv]
    · rw [State.evringStart_ctl, hinterrupt]
    · rw [State.evringStart_ctl, hlog2, if_pos ⟨hleast, hmost⟩]
  case disable =>
    have hexec := exec_evringDisable hresp hmay hv hold
    rw [State.evringCtl_enabled _ hold] at hexec
    obtain ⟨hinterrupt, henable⟩ := s.rwWrite_evringCtl_flags (putBits v.toNat 4 0 (bits (s.reg .glbEvringCtl) 4 0))
    have hlog2 := s.rwWrite_evringCtl_log2 (putBits v.toNat 4 0 (bits (s.reg .glbEvringCtl) 4 0))
    rw [bits_putBits_low, ite_self] at hlog2
    refine ⟨_, hexec, s.rwWrite_sameBut _ _, s.rwWrite_regsBut evringCtlAt _, ?_, hlog2, ?_⟩
    · rw [henable, bit_putBits_high _ _ (by decide), hv]
    · rw [hinterrupt, bit_putBits_high _ _ (by decide)]
  case base =>
    rw [exec_lpAlignedAccess_commit w h rfl haligned]
    exact congrArg Host.Outcome.next (if_pos hon)
  case taken =>
    subst hold hhead
    have hexec := exec_evringTailWrite (v := v) hresp hmay
    rw [State.evringTail_taken hn hv hle] at hexec
    exact ⟨_, hexec, s.setReg_sameBut _ _ _ _, s.setReg_regsBut .glbEvringTail 0 0 _, s.reg_setReg_same _ _ _ _⟩
  case past =>
    subst hold hhead
    have hexec := exec_evringTailWrite (v := v) hresp hmay
    rw [State.evringTail_past hn hv hlt] at hexec
    exact ⟨_, hexec, s.raise_sameBut _ _ _ _ _ _ _ _, s.raise_regsBut .glbEvent 0 4 0x004 _ _ _ 0, s.reg_raise_same _ _ _ _ _ _ _ _⟩

/-- Settles O15: a record is put at HEAD where the ring is on, has room and the link is up, and is lost where it is off or full. -/
theorem recordsGoToTheRing : Obligations.RecordsGoToTheRing := by
  unfold Obligations.RecordsGoToTheRing
  intro s e rest n head hevents hn hhead
  have hsize : s.evringSize = n := hn.symm
  subst hhead
  refine ⟨fun hon hroom hup => ?put, fun hlost => ?lost⟩
  case put =>
    have hexec := exec_eventRingWrite_put hevents hon (by rwa [hsize]) hup
    have hframe := exec_safe (c := .eventRingWrite) rfl hexec
    obtain ⟨hrest, hlost, hhead, hbytes, hothers, hevent, htail⟩ := s.putRecord_leaves e rest
    rw [hsize] at hhead
    exact ⟨_, hexec, hframe.sameBut, hrest, hlost, hhead, hbytes, hothers, hevent, htail⟩
  case lost =>
    have hexec := exec_eventRingWrite_lost hevents (hlost.imp_right fun h => by rwa [hsize])
    have hkept (q : RegAt) := s.events_regAt rest q
    refine ⟨_, hexec, ((s.events_sameBut rest).mono (by simp)).trans ((State.lostRecord_sameBut _).mono (by simp)),
      fun q hq => (State.lostRecord_regsBut _ q hq).trans (hkept q), State.lostRecord_sameBut _ .events (by simp), rfl, ?_, ?_⟩
    · rw [State.lostRecord_count, State.reg, hkept, State.reg]
    · rw [State.lostRecord_event, State.reg, hkept, State.reg]

end Sys2Proof.Proofs

/-! PROOF. The interrupt controller and MSI-X (R57 to R61): the edges of a core's own bank, and the vectors that a core raises. -/

namespace Sys2Proof.Machine

/-- A Selay core may write every register. -/
theorem State.guarded_of_core {s : State} (c : CoreId) {r : RegAt} (f : State → State) (hresp : s.responds r.rn.spec.blk = true) :
    s.guarded (.selay c) r true f = f s := State.guarded_of_may f hresp rfl

/-! ### Edges of a core's own bank -/

theorem State.icEdge_sameBut (s : State) (e : Tab Nat) : SameBut [.icEdge] s { s with icEdge := e } := by
  intro p hp
  cases p with
  | icEdge => simp at hp
  | _ => rfl

/-- Below the level-sensitive sources the pending word shows the edges. -/
theorem State.bit_pendPrivate (s : State) (c : Nat) {j : Nat} (hj : j < 4) :
    bit (s.pendPrivate c) j = bit (Tab.get 0 s.icEdge c) j := by
  unfold State.pendPrivate
  dsimp only
  generalize hlevels : (List.range 8).foldl _ 0 = levels
  have hdvd : 2 ^ 4 ∣ levels := by
    subst hlevels
    refine foldl_inv (fun v => 2 ^ 4 ∣ v) _ _ _ (fun v i hv => ?_) (dvd_zero _)
    exact hv.add (Dvd.dvd.mul_left (pow_dvd_pow 2 (Nat.le_add_left 4 i)) _)
  obtain ⟨q, rfl⟩ := hdvd
  have hedges : Tab.get 0 s.icEdge c % 16 < 2 ^ 4 := Nat.mod_lt _ (by decide)
  rw [Nat.add_comm, bit_eq_testBit, Nat.testBit_two_pow_mul_add _ hedges, if_pos hj, bit_eq_testBit]
  exact (Nat.testBit_mod_two_pow _ 4 j).trans (by simp [hj])

/-- An edge sets its source and leaves every other one. -/
theorem State.bit_edge (s : State) (c j x i : Nat) :
    bit (Tab.get 0 (s.edge c j).icEdge x) i = (bit (Tab.get 0 s.icEdge x) i || (x == c && i == j)) := by
  have hget : Tab.get 0 (s.edge c j).icEdge x = if x = c then Tab.get 0 s.icEdge c ||| 2 ^ j else Tab.get 0 s.icEdge x :=
    Tab.get_set 0 s.icEdge c x _
  rw [hget]
  by_cases hx : x = c
  · subst hx
    simp [bit_or_two_pow]
  · simp [hx]

theorem State.icDone_edge {s : State} {c v : Nat} (hv : bit v 12 = true) (hj : bits v 11 0 < 4) :
    s.icDone c v = { s with icEdge := Tab.upd 0 s.icEdge c fun x => x - (x &&& 2 ^ bits v 11 0) } := if_pos ⟨hv, hj⟩

theorem State.icDone_level {s : State} {c v : Nat} (h : bit v 12 = false ∨ 4 ≤ bits v 11 0) : s.icDone c v = s := by
  refine if_neg fun ⟨hv, hj⟩ => ?_
  rcases h with h | h
  · exact absurd (h.symm.trans hv) (by decide)
  · omega

/-- A clear removes its source and leaves every other one. -/
theorem bit_get_clear (t : Tab Nat) (c j x i : Nat) :
    bit (Tab.get 0 (Tab.upd 0 t c fun v => v - (v &&& 2 ^ j)) x) i = (bit (Tab.get 0 t x) i && !(x == c && i == j)) := by
  have hget : Tab.get 0 (Tab.upd 0 t c fun v => v - (v &&& 2 ^ j)) x =
      if x = c then Tab.get 0 t c - (Tab.get 0 t c &&& 2 ^ j) else Tab.get 0 t x := Tab.get_set 0 t c x _
  rw [hget]
  by_cases hx : x = c
  · subst hx
    simp [bit_sub_and, bit_two_pow]
  · simp [hx]

/-- The source of a signal from core c at core t is its place among the other cores. -/
theorem signalSource_eq (c t : CoreId) (h : c ≠ t) :
    (if c.val < t.val then 1 + c.val else c.val) = 1 + ((List.range 4).filter (· ≠ t.val)).idxOf c.val := by
  revert c t
  decide

theorem exec_selayTimer (c : CoreId) (s : State) : exec (.selayTimer c) s = .next (s.edge c 0) := rfl

section
variable {s : State} (c : CoreId) (v : Word32)

theorem exec_icSignal (hresp : s.responds .sel = true) : exec (.icSignal c v) s = .next (s.icSignal c v.toNat) :=
  congrArg Host.Outcome.next (State.guarded_of_core c (r := ⟨.selIcSignal, 0, 0, 0⟩) _ hresp)

theorem exec_icDone (hresp : s.responds .sel = true) : exec (.icDone c v) s = .next (s.icDone c v.toNat) :=
  congrArg Host.Outcome.next (State.guarded_of_core c (r := ⟨.selIcDone, 0, 0, 0⟩) _ hresp)

theorem exec_msixRaise (hresp : s.responds .sel = true) : exec (.msixRaise c v) s = .next (s.msixRaise c v.toNat) :=
  congrArg Host.Outcome.next (State.guarded_of_core c (r := ⟨.selMsixRaise, 0, 0, 0⟩) _ hresp)

end

theorem State.icSignal_self {s : State} {c : CoreId} {v : Nat} (h : bits v 1 0 = c.val) : s.icSignal c v = s := if_pos h

theorem State.icSignal_other {s : State} {c t : CoreId} {v : Nat} (h : bits v 1 0 = t.val) (hne : c ≠ t) :
    s.icSignal c v = s.edge t (1 + ((List.range 4).filter (· ≠ t.val)).idxOf c.val) := by
  have hother : t.val ≠ c.val := fun e => hne (Fin.ext e.symm)
  rw [← signalSource_eq c t hne]
  simp only [State.icSignal, h, if_neg hother]

/-! ### MSI-X -/

theorem State.msixSend_sameBut (s : State) (v : Nat) : SameBut [.msix, .mx] s (s.msixSend v) :=
  (State.msixSend_safe s v (ps := Part.mask [.msix, .mx]) (og := none) rfl (.refl s)).sameBut

theorem Msix.raise_passes {m : Msix} {v : Nat} (h : m.passes v = true) : m.raise v = { m with sent := m.sent ++ [v] } := if_pos h

theorem Msix.raise_masked {m : Msix} {v : Nat} (h : m.passes v = false) : m.raise v = { m with pend := Tab.set false m.pend v true } :=
  if_neg (by simp [h])

/-- A masked vector is pending, with every other that was. -/
theorem get_set_pending (t : Tab Bool) (v x : Nat) : Tab.get false (Tab.set false t v true) x = (Tab.get false t x || x == v) := by
  rw [Tab.get_set]
  by_cases hx : x = v <;> simp [hx]

end Sys2Proof.Machine

namespace Sys2Proof.Proofs

open Sys2Proof.Machine

/-- Settles O16: an edge is one bit of its core's word, which a further edge keeps and SEL_IC_DONE clears. -/
theorem interruptSourcesOfACore : Obligations.InterruptSourcesOfACore := by
  unfold Obligations.InterruptSourcesOfACore
  refine ⟨fun s c j hj => s.bit_pendPrivate c hj, fun c tg j v s => ⟨?timer, fun hresp htg hne => ?signal, fun hresp hself => ?self,
    fun hresp hv hnum hj => ?done, fun hresp hlevel => ?level⟩⟩
  case timer => exact ⟨_, exec_selayTimer c s, s.icEdge_sameBut _, s.bit_edge c 0⟩
  case signal =>
    have hexec := exec_icSignal c v hresp
    rw [State.icSignal_other htg hne] at hexec
    exact ⟨_, hexec, s.icEdge_sameBut _, s.bit_edge _ _⟩
  case self => rw [exec_icSignal c v hresp, State.icSignal_self hself]
  case done =>
    subst hnum
    have hexec := exec_icDone c v hresp
    rw [State.icDone_edge hv hj] at hexec
    exact ⟨_, hexec, s.icEdge_sameBut _, bit_get_clear s.icEdge _ _⟩
  case level => rw [exec_icDone c v hresp, State.icDone_level hlevel]

/-- Settles O17: a vector of the table is sent or pending, and one past it is an event of GLB_EVENT. -/
theorem msixVectorsAreRaisedInOrder : Obligations.MsixVectorsAreRaisedInOrder := by
  unfold Obligations.MsixVectorsAreRaisedInOrder
  intro c v s hresp
  refine ⟨fun hin => ?inside, fun hout => ?past⟩
  case inside =>
    have hexec : exec (.msixRaise c v) s = .next (s.msixSend (bits v.toNat 6 0)) :=
      (exec_msixRaise c v hresp).trans (congrArg Host.Outcome.next (if_pos hin))
    refine ⟨_, hexec, s.msixSend_sameBut _, rfl, Msix.raise_passes, fun hmasked => ?_⟩
    have hraise : (s.msixSend (bits v.toNat 6 0)).mx = { s.mx with pend := Tab.set false s.mx.pend (bits v.toNat 6 0) true } :=
      Msix.raise_masked hmasked
    rw [hraise]
    exact ⟨rfl, get_set_pending s.mx.pend _⟩
  case past => exact (exec_msixRaise c v hresp).trans (congrArg Host.Outcome.next (if_neg (Nat.not_lt.mpr hout)))

end Sys2Proof.Proofs

/-! PROOF. Running maxima (R87): a write of STL_AMAX_ARR, STL_AMAX_STR or STL_AMAX_VEC and a fold of the same step. -/

namespace Sys2Proof.Machine

/-- A register with the fold of a step taken in: the larger of its magnitude and the folded one (R87). -/
def State.amaxTake (s : State) (r : RegAt) : Option (BitVec 31) → State
  | some x => s.setRegAt r (max (bits (s.regAt r) 30 0) x.toNat)
  | none => s

/-- A running maximum is one magnitude of 31 bits, without its sign bit. -/
theorem Rn.amax_flds {r : Rn} (h : r.isAmax = true) : r.spec.flds = [⟨30, 0, .rw, 0, 0, 2 ^ 31 - 1, false⟩] := by
  simp only [Rn.isAmax, Bool.or_eq_true, beq_iff_eq] at h
  obtain (rfl | rfl) | rfl := h <;> rfl

theorem exec_amaxWrite {m : Master} {off : Nat} {r : RegAt} {s : State} (v : Word32) (fold : Option (BitVec 31))
    (h : s.reaches m off r false true) (hamax : r.rn.isAmax = true) :
    exec (.amaxWrite m off v fold) s = .next ((s.rwWrite r v.toNat).amaxTake r fold) := by
  obtain ⟨htarget, hresp, hmay⟩ := h
  change execAmaxWrite m off v fold s = _
  simp only [execAmaxWrite, htarget, hamax, if_true, State.guarded_of_may _ hresp hmay]
  cases fold <;> rfl

theorem State.amaxTake_sameBut (s : State) (r : RegAt) (fold : Option (BitVec 31)) : SameBut [.regs] s (s.amaxTake r fold) :=
  match fold with
  | some _ => s.setRegAt_sameBut r _
  | none => fun p _ => p.same_refl s

theorem State.amaxTake_regsBut (s : State) (r : RegAt) (fold : Option (BitVec 31)) : RegsBut [r.off] s (s.amaxTake r fold) :=
  match fold with
  | some _ => s.setRegAt_regsBut r _
  | none => fun _ _ => rfl

theorem State.bits_regAt_amaxTake (s : State) (r : RegAt) (fold : Option (BitVec 31)) :
    bits ((s.amaxTake r fold).regAt r) 30 0 = max (bits (s.regAt r) 30 0) ((fold.map BitVec.toNat).getD 0) := by
  cases fold with
  | none => simp [State.amaxTake]
  | some x =>
    have hlarger : max (bits (s.regAt r) 30 0) x.toNat < 2 ^ 31 := Nat.max_lt.mpr ⟨bits_lt _ 30 0, x.isLt⟩
    simpa [State.amaxTake, bits] using Nat.mod_eq_of_lt hlarger

end Sys2Proof.Machine

namespace Sys2Proof.Proofs

open Sys2Proof.Machine

/-- Settles O13: the write fills the one field of the register, and the fold keeps the larger of that field and its own value. -/
theorem runningMaximaKeepTheLarger : Obligations.RunningMaximaKeepTheLarger := by
  unfold Obligations.RunningMaximaKeepTheLarger
  intro m off r v fold s hreach hamax
  have hfield : bits ((s.rwWrite r v.toNat).regAt r) 30 0 = bits v.toNat 30 0 :=
    s.rwWrite_field_unreserved r v.toNat (f := ⟨30, 0, .rw, 0, 0, 2 ^ 31 - 1, false⟩) (by simp [Rn.amax_flds hamax]) rfl rfl (by decide)
  refine ⟨_, exec_amaxWrite v fold hreach hamax, (s.rwWrite_sameBut r _).trans (State.amaxTake_sameBut _ r fold),
    (s.rwWrite_regsBut r _).trans (State.amaxTake_regsBut _ r fold), ?_⟩
  rw [State.bits_regAt_amaxTake, hfield]

end Sys2Proof.Proofs

/-! PROOF. Rounding to nearest, ties to even (R75): what the one rounding function gives, as numbers. -/

namespace Sys2Proof.Machine

/-! ### Signed values and bits -/

theorem sInt_decide_natAbs (v : Int) : sInt (decide (v < 0)) v.natAbs = v := by
  by_cases h : v < 0
  · simp [sInt, h, abs_of_neg h]
  · simp [sInt, h, abs_of_nonneg (not_lt.mp h)]

theorem Val.rat_fin (s : Bool) (m : Nat) (e : Int) : (Val.fin s m e).rat = (sInt s m : ℚ) * 2 ^ e := by
  cases s <;> simp [Val.rat, sInt]

theorem Val.abs_rat_fin (s : Bool) (m : Nat) (e : Int) : |(Val.fin s m e).rat| = (m : ℚ) * 2 ^ e := by
  rw [Val.rat_fin, abs_mul, abs_of_pos (by positivity : (0 : ℚ) < 2 ^ e)]
  cases s <;> simp [sInt]

theorem Val.abs_rat_sub_rat (s : Bool) (m n : Nat) (e k : Int) :
    |(Val.fin s m e).rat - (Val.fin s n k).rat| = |(m : ℚ) * 2 ^ e - n * 2 ^ k| := by
  cases s with
  | false => simp [Val.rat]
  | true => rw [← abs_neg]; simp [Val.rat]; ring_nf

theorem bitLen_eq_size (m : Nat) : bitLen m = m.size := by
  refine eq_of_forall_ge_iff fun n => ?_
  rw [Nat.size_le, bitLen]
  split
  · simp [*]
  · rw [Nat.succ_le_iff, Nat.log2_lt ‹_›]

theorem bitLen_le {m n : Nat} : bitLen m ≤ n ↔ m < 2 ^ n := by rw [bitLen_eq_size, Nat.size_le]

theorem lt_bitLen {m n : Nat} : n < bitLen m ↔ 2 ^ n ≤ m := by rw [bitLen_eq_size, Nat.lt_size]

theorem bitLen_two_pow (j : Nat) : bitLen (2 ^ j) = j + 1 := by rw [bitLen_eq_size, Nat.size_pow]

theorem bitLen_mul_two_pow {m : Nat} (hm : m ≠ 0) (k : Nat) : bitLen (m * 2 ^ k) = bitLen m + k := by
  rw [bitLen_eq_size, bitLen_eq_size, ← Nat.shiftLeft_eq, Nat.size_shiftLeft hm]

/-! ### The nearest integer -/

/-- The integer i is nearest to x, and even where two are nearest (R75). -/
def IsNearest (x : ℚ) (i : Int) : Prop := |(i : ℚ) - x| ≤ 1 / 2 ∧ (|(i : ℚ) - x| = 1 / 2 → i % 2 = 0)

theorem IsNearest.neg {x : ℚ} {i : Int} (h : IsNearest x i) : IsNearest (-x) (-i) := by
  have habs : |((-i : Int) : ℚ) - -x| = |(i : ℚ) - x| := by rw [← abs_neg]; push_cast; ring_nf
  unfold IsNearest
  rw [habs]
  exact ⟨h.1, fun htie => by have := h.2 htie; omega⟩

theorem isNearest_intCast (i : Int) : IsNearest i i := by simp [IsNearest]

/-- No integer is nearer than the nearest. -/
theorem IsNearest.le {x : ℚ} {i : Int} (h : IsNearest x i) (j : Int) : |(i : ℚ) - x| ≤ |(j : ℚ) - x| := by
  obtain rfl | hne := eq_or_ne i j
  · rfl
  · have hapart : (1 : ℚ) ≤ |(i : ℚ) - j| := by exact_mod_cast Int.one_le_abs (sub_ne_zero.mpr hne)
    have htriangle : |(i : ℚ) - j| ≤ |(i : ℚ) - x| + |(j : ℚ) - x| := abs_sub_comm (j : ℚ) x ▸ abs_sub_le _ _ _
    linarith [h.1]

theorem IsNearest.le_of_le {x : ℚ} {i j : Int} (h : IsNearest x i) (hj : x ≤ j) : i ≤ j := by
  have hdist := (le_abs_self _).trans (h.le j)
  rw [abs_of_nonneg (sub_nonneg.mpr hj)] at hdist
  exact_mod_cast (sub_le_sub_iff_right x).mp hdist

theorem IsNearest.ge_of_ge {x : ℚ} {i j : Int} (h : IsNearest x i) (hj : (j : ℚ) ≤ x) : j ≤ i := by
  have hdist := (neg_abs_le _).trans' (neg_le_neg (h.le j))
  rw [abs_of_nonpos (sub_nonpos.mpr hj), neg_neg] at hdist
  exact_mod_cast (sub_le_sub_iff_right x).mp hdist

/-- Two nearest integers are 1 apart, both ties, and so both even. -/
theorem IsNearest.unique {x : ℚ} {i j : Int} (hi : IsNearest x i) (hj : IsNearest x j) : i = j := by
  by_contra hne
  have hapart : (1 : ℚ) ≤ |(i : ℚ) - j| := by exact_mod_cast Int.one_le_abs (sub_ne_zero.mpr hne)
  have htriangle : |(i : ℚ) - j| ≤ |(i : ℚ) - x| + |(j : ℚ) - x| := abs_sub_comm (j : ℚ) x ▸ abs_sub_le _ _ _
  have hi2 := hi.2 (by linarith [hi.1, hj.1])
  have hj2 := hj.2 (by linarith [hi.1, hj.1])
  have hnear : |(i : ℚ) - j| ≤ 1 := by linarith [hi.1, hj.1]
  have : |i - j| ≤ 1 := by exact_mod_cast hnear
  rw [abs_le] at this
  omega

/-- In halves of h: i is nearest to m / 2h when 2hi is at most h from m, and even at h. -/
theorem isNearest_of_halves {i m h : Int} (hpos : 0 < h) (hnear : |i * (2 * h) - m| ≤ h)
    (htie : |i * (2 * h) - m| = h → i % 2 = 0) : IsNearest ((m : ℚ) / (2 * h)) i := by
  have hq : (0 : ℚ) < h := by exact_mod_cast hpos
  have hdist : |(i : ℚ) - m / (2 * h)| = ((|i * (2 * h) - m| : Int) : ℚ) / (2 * h) := by
    rw [show (i : ℚ) - m / (2 * h) = (i * (2 * h) - m) / (2 * h) by field_simp, abs_div, abs_of_pos (by positivity : (0 : ℚ) < 2 * h)]
    push_cast
    rfl
  have hnear' : ((|i * (2 * h) - m| : Int) : ℚ) ≤ h := by exact_mod_cast hnear
  unfold IsNearest
  rw [hdist]
  refine ⟨?_, fun heq => htie ?_⟩
  · rw [div_le_iff₀ (by positivity)]
    linarith
  · rw [div_eq_iff (by positivity)] at heq
    have : ((|i * (2 * h) - m| : Int) : ℚ) = h := by linarith
    exact_mod_cast this

/-! ### A right shift, and a value in units of a power of two -/

theorem rne_zero (m : Nat) : rne m 0 = m := by simp [rne]

theorem rne_isNearest (m k : Nat) : IsNearest ((m : ℚ) / 2 ^ k) (rne m k) := by
  cases k with
  | zero => simpa [rne_zero] using isNearest_intCast m
  | succ j =>
    have hunit : (2 : Nat) ^ (j + 1) = 2 * 2 ^ j := by ring
    have hhalf : 0 < 2 ^ j := Nat.two_pow_pos j
    have hdiv := Nat.div_add_mod m (2 * 2 ^ j)
    have hmod := Nat.mod_lt m (by omega : 0 < 2 * 2 ^ j)
    have hcast : ((m : ℚ) / 2 ^ (j + 1)) = ((m : Int) : ℚ) / (2 * (((2 ^ j : Nat) : Int) : ℚ)) := by push_cast; ring
    unfold rne
    simp only [hunit, Nat.add_sub_cancel, if_neg (Nat.succ_ne_zero j), hcast]
    generalize hq : m / (2 * 2 ^ j) = q at *
    generalize hr : m % (2 * 2 ^ j) = r at *
    generalize 2 ^ j = h at *
    have hm : (m : Int) = q * (2 * h) + r := by rw [← hdiv]; push_cast; ring
    have hup : ((q : Int) + 1) * (2 * h) = q * (2 * h) + 2 * h := by ring
    refine isNearest_of_halves (by omega) ?near fun htie => ?tie
    case near =>
      rw [hm, abs_le]
      split_ifs <;> push_cast <;> omega
    case tie =>
      rw [hm, abs_eq (by omega)] at htie
      split_ifs at htie ⊢ <;> push_cast at htie <;> omega

/-- m × 2^e in units of 2^q, rounded to nearest. -/
def roundAt (m : Nat) (e q : Int) : Nat := if q ≤ e then m * 2 ^ (e - q).toNat else rne m (q - e).toNat

theorem roundAt_isNearest (m : Nat) (e q : Int) : IsNearest ((m : ℚ) * 2 ^ (e - q)) (roundAt m e q) := by
  unfold roundAt
  split
  · obtain ⟨k, hk⟩ := Int.eq_ofNat_of_zero_le (sub_nonneg.mpr ‹q ≤ e›)
    simpa [hk] using isNearest_intCast ((m * 2 ^ k : Nat) : Int)
  · obtain ⟨k, hk⟩ := Int.eq_ofNat_of_zero_le (sub_nonneg.mpr (not_le.mp ‹¬q ≤ e›).le)
    rw [← neg_sub q e, zpow_neg, ← div_eq_mul_inv, hk]
    exact rne_isNearest m k

/-- What a value is rounded to depends on its number alone. -/
theorem roundAt_eq {m n : Nat} {e f q : Int} (h : (m : ℚ) * 2 ^ e = n * 2 ^ f) : roundAt m e q = roundAt n f q := by
  have hunits : (m : ℚ) * 2 ^ (e - q) = n * 2 ^ (f - q) := by
    rw [zpow_sub₀ two_ne_zero, zpow_sub₀ two_ne_zero, ← mul_div_assoc, ← mul_div_assoc, h]
  exact_mod_cast (hunits ▸ roundAt_isNearest m e q).unique (roundAt_isNearest n f q)

theorem roundInt_eq (s : Bool) (m : Nat) (e : Int) : roundInt s m e = sInt s (roundAt m e 0) := by
  simp [roundInt, roundAt, sInt]

theorem roundInt_isNearest (s : Bool) (m : Nat) (e : Int) : IsNearest (Val.fin s m e).rat (roundInt s m e) := by
  have h := roundAt_isNearest m e 0
  rw [sub_zero] at h
  rw [roundInt_eq, Val.rat_fin]
  cases s with
  | false => simpa [sInt] using h
  | true => simpa [sInt] using h.neg

/-- An integer rounds to itself. -/
theorem roundInt_of_rat {s : Bool} {m : Nat} {e i : Int} (h : (Val.fin s m e).rat = i) : roundInt s m e = i :=
  (h ▸ roundInt_isNearest s m e).unique (isNearest_intCast i)

/-! ### Conversion to an integer format -/

theorem clampSigned_eq (w : Nat) (i : Int) : clampSigned w i = max (-2 ^ (w - 1)) (min (2 ^ (w - 1) - 1) i) := by
  have hpos : (0 : Int) < 2 ^ (w - 1) := by positivity
  simp only [clampSigned]
  push_cast
  generalize (2 : Int) ^ (w - 1) = h at *
  split_ifs <;> omega

theorem clampSigned_eq_self_iff (w : Nat) (i : Int) : clampSigned w i = i ↔ -2 ^ (w - 1) ≤ i ∧ i < 2 ^ (w - 1) := by
  rw [clampSigned_eq]
  have hpos : (0 : Int) < 2 ^ (w - 1) := by positivity
  generalize (2 : Int) ^ (w - 1) = h at *
  omega

theorem convert_int {f : Fmt} (hf : f.isInt = true) (o s : Bool) (m : Nat) (e : Int) :
    convert f o (.fin s m e) = { val := ofSigned f.width (clampSigned f.width (roundInt s m e))
                                 ovf := if clampSigned f.width (roundInt s m e) = roundInt s m e then 0 else 1 } := by
  simp only [convert, hf, if_true]

theorem Fmt.value_int {f : Fmt} (hf : f.isInt = true) (v : Nat) :
    f.value v = .fin (decide (toSigned f.width v < 0)) (toSigned f.width v).natAbs 0 := by
  cases f <;> simp [Fmt.isInt] at hf <;> rfl

/-- An element of an integer format is its signed reading. -/
theorem Fmt.rat_value_int {f : Fmt} (hf : f.isInt = true) (v : Nat) : (f.value v).rat = toSigned f.width v := by
  rw [Fmt.value_int hf, Val.rat_fin, sInt_decide_natAbs, zpow_zero, mul_one]

theorem toSigned_range (w v : Nat) : -2 ^ (w - 1) ≤ toSigned w v ∧ toSigned w v < 2 ^ (w - 1) := by
  cases w with
  | zero => simp [toSigned, Nat.mod_one]
  | succ n =>
    have hmod : v % (2 ^ n * 2) < 2 ^ n * 2 := Nat.mod_lt v (by positivity)
    have hcast : (2 : Int) ^ n = (2 ^ n : Nat) := by push_cast; rfl
    simp only [toSigned, Nat.add_sub_cancel, hcast, Nat.pow_succ]
    generalize v % (2 ^ n * 2) = r at *
    generalize 2 ^ n = h at *
    split_ifs <;> omega

theorem ofSigned_toSigned {w v : Nat} (h : v < 2 ^ w) : ofSigned w (toSigned w v) = v := by
  have hself : (v : Int) % (2 ^ w : Nat) = v := Int.emod_eq_of_lt (by omega) (by exact_mod_cast h)
  simp only [ofSigned, toSigned, Nat.mod_eq_of_lt h]
  split
  · rw [Int.sub_emod_right, hself, Int.toNat_natCast]
  · rw [hself, Int.toNat_natCast]

/-- An element of an integer format converts to its own format unchanged. -/
theorem convert_value_int {f : Fmt} (hf : f.isInt = true) (o : Bool) {v : Nat} (hv : v < 2 ^ f.width) :
    convert f o (f.value v) = { val := v, ovf := 0, inv := 0 } := by
  have hround := roundInt_of_rat (Fmt.value_int hf v ▸ Fmt.rat_value_int hf v)
  have hclamp := (clampSigned_eq_self_iff _ _).mpr (toSigned_range f.width v)
  rw [Fmt.value_int hf, convert_int hf, hround, hclamp, ofSigned_toSigned hv, if_pos rfl]

end Sys2Proof.Machine

/-! PROOF. Floating-point formats (R62 to R66, R75, R77, R78): an element as its sign and its two fields, the lattice of the finite
magnitudes, and a conversion as the nearest of them. -/

namespace Sys2Proof.Machine

/-! ### An element and its fields -/

/-- A format with a sign, an exponent field and a mantissa field. -/
def Fmt.IsFloat (f : Fmt) : Prop := f.isInt = false ∧ f ≠ .e8m0

/-- Bits of the exponent field. -/
def Fmt.expBits (f : Fmt) : Nat := f.shape.1

/-- Bits of the mantissa field. -/
def Fmt.manBits (f : Fmt) : Nat := f.shape.2.1

/-- The exponent of the least quantum, that of the subnormal numbers. -/
def Fmt.least (f : Fmt) : Int := 1 - f.shape.2.2 - f.manBits

/-- The mantissa of fields E and M, as an integer. -/
def Fmt.mant (f : Fmt) (E M : Nat) : Nat := if E = 0 then M else 2 ^ f.manBits + M

/-- The exponent of the quantum of field E. -/
def Fmt.quant (f : Fmt) (E : Nat) : Int := f.least + (E - 1 : Nat)

/-- Fields E and M belong to a finite number. -/
def Fmt.Finite (f : Fmt) (E M : Nat) : Prop := ¬ (f.hasInf = true ∧ E = 2 ^ f.expBits - 1) ∧ ¬ (f = .e4m3 ∧ E = 15 ∧ M = 7)

/-- The value of sign s and fields E and M (R62 to R65). -/
def Fmt.ofFields (f : Fmt) (s : Bool) (E M : Nat) : Val :=
  if f.hasInf = true ∧ E = 2 ^ f.expBits - 1 then (if M = 0 then .inf s else .nan s)
  else if f = .e4m3 ∧ E = 15 ∧ M = 7 then .nan s
  else .fin s (f.mant E M) (f.quant E)

/-- A magnitude with its sign bit. -/
def Fmt.signed (f : Fmt) (s : Bool) (v : Nat) : Nat := if s then f.signBit + v else v

/-- The element of sign s and fields E and M. -/
def Fmt.word (f : Fmt) (s : Bool) (E M : Nat) : Nat := f.signed s (E * 2 ^ f.manBits + M)

theorem Fmt.IsFloat.cases {f : Fmt} (hf : f.IsFloat) :
    f = .fp32 ∨ f = .bf16 ∨ f = .fp16 ∨ f = .e4m3 ∨ f = .e5m2 ∨ f = .fp4 := by
  obtain ⟨hint, hscale⟩ := hf
  cases f <;> simp [Fmt.isInt] at hint hscale ⊢

theorem Fmt.width_eq {f : Fmt} (hf : f.IsFloat) : f.width = f.expBits + f.manBits + 1 := by
  obtain rfl | rfl | rfl | rfl | rfl | rfl := hf.cases <;> rfl

theorem Fmt.bits_pos {f : Fmt} (hf : f.IsFloat) : 0 < f.expBits ∧ 0 < f.manBits := by
  obtain rfl | rfl | rfl | rfl | rfl | rfl := hf.cases <;> decide

/-- The mantissa field and the exponent field by division. -/
theorem Fmt.bits_fields {f : Fmt} (hf : f.IsFloat) (v : Nat) : bits v (f.manBits - 1) 0 = v % 2 ^ f.manBits ∧
    bits v (f.expBits + f.manBits - 1) f.manBits = v / 2 ^ f.manBits % 2 ^ f.expBits := by
  obtain ⟨hexp, hman⟩ := Fmt.bits_pos hf
  have hlow : f.manBits - 1 + 1 - 0 = f.manBits := by omega
  have hhigh : f.expBits + f.manBits - 1 + 1 - f.manBits = f.expBits := by omega
  simp only [bits, hlow, hhigh, pow_zero, Nat.div_one, and_self]

theorem Fmt.fields_lt {f : Fmt} (hf : f.IsFloat) (v : Nat) :
    bits v (f.expBits + f.manBits - 1) f.manBits < 2 ^ f.expBits ∧ bits v (f.manBits - 1) 0 < 2 ^ f.manBits := by
  obtain ⟨hman, hexp⟩ := Fmt.bits_fields hf v
  rw [hman, hexp]
  exact ⟨Nat.mod_lt _ (Nat.two_pow_pos _), Nat.mod_lt _ (Nat.two_pow_pos _)⟩

theorem Fmt.ofFields_of_finite {f : Fmt} {E M : Nat} (h : f.Finite E M) (s : Bool) :
    f.ofFields s E M = .fin s (f.mant E M) (f.quant E) := by
  rw [Fmt.ofFields, if_neg h.1, if_neg h.2]

theorem Fmt.isFin_ofFields {f : Fmt} {E M : Nat} {s : Bool} (h : (f.ofFields s E M).isFin = true) : f.Finite E M := by
  unfold Fmt.ofFields at h
  split at h
  · split at h <;> cases h
  · split at h
    · cases h
    · exact ⟨‹_›, ‹_›⟩

/-- Fields of no finite number and of no NaN are those of an infinity. -/
theorem Fmt.infinite_of_not_nan {f : Fmt} {s : Bool} {E M : Nat} (hfin : ¬ f.Finite E M) (hnum : ∀ z, f.ofFields s E M ≠ .nan z) :
    f.hasInf = true ∧ E = 2 ^ f.expBits - 1 ∧ M = 0 := by
  unfold Fmt.ofFields at hnum
  split at hnum
  · split at hnum
    · exact ⟨‹_ ∧ _›.1, ‹_ ∧ _›.2, ‹_›⟩
    · exact absurd rfl (hnum s)
  · split at hnum
    · exact absurd rfl (hnum s)
    · exact absurd ⟨‹_›, ‹_›⟩ hfin

/-- The value of an element is that of its fields. -/
theorem Fmt.value_eq {f : Fmt} (hf : f.IsFloat) (v : Nat) : f.value v =
    f.ofFields (bit v (f.expBits + f.manBits)) (bits v (f.expBits + f.manBits - 1) f.manBits) (bits v (f.manBits - 1) 0) := by
  have hnumber (s : Bool) (E M : Nat) : (if E = 0 then Val.fin s M (1 - f.shape.2.2 - f.manBits)
      else .fin s (2 ^ f.manBits + M) (E - f.shape.2.2 - f.manBits)) = .fin s (f.mant E M) (f.quant E) := by
    unfold Fmt.mant Fmt.quant Fmt.least
    split <;> congr 1 <;> omega
  rw [Fmt.ofFields, ← hnumber]
  obtain rfl | rfl | rfl | rfl | rfl | rfl := hf.cases <;> rfl

/-- An element by its fields: the sign bit, the exponent field and the mantissa field, one above the other. -/
theorem Fmt.word_eq {f : Fmt} (hf : f.IsFloat) (s : Bool) (E M : Nat) :
    f.word s E M = (b2n s * 2 ^ f.expBits + E) * 2 ^ f.manBits + M := by
  rw [Fmt.word, Fmt.signed, Fmt.signBit, Fmt.width_eq hf, Nat.add_sub_cancel, pow_add]
  cases s
  · simp [b2n]
  · simp [b2n]; ring

theorem Fmt.value_word {f : Fmt} (hf : f.IsFloat) {E M : Nat} (s : Bool) (hE : E < 2 ^ f.expBits) (hM : M < 2 ^ f.manBits) :
    f.value (f.word s E M) = f.ofFields s E M := by
  obtain ⟨hman, hexp⟩ := Fmt.bits_fields hf (f.word s E M)
  have hhigh : f.word s E M / 2 ^ f.manBits = b2n s * 2 ^ f.expBits + E := by
    rw [Fmt.word_eq hf, mul_comm, Nat.mul_add_div (Nat.two_pow_pos _), Nat.div_eq_of_lt hM, add_zero]
  have hsign : bit (f.word s E M) (f.expBits + f.manBits) = s := by
    rw [bit, add_comm, pow_add, ← Nat.div_div_eq_div_mul, hhigh, mul_comm, Nat.mul_add_div (Nat.two_pow_pos _), Nat.div_eq_of_lt hE]
    cases s <;> rfl
  rw [Fmt.value_eq hf, hsign, hman, hexp, hhigh, Nat.mul_add_mod_of_lt hE, Fmt.word_eq hf, Nat.mul_add_mod_of_lt hM]

theorem Fmt.word_fields {f : Fmt} (hf : f.IsFloat) {v : Nat} (hv : v < 2 ^ f.width) :
    f.word (bit v (f.expBits + f.manBits)) (bits v (f.expBits + f.manBits - 1) f.manBits) (bits v (f.manBits - 1) 0) = v := by
  obtain ⟨hman, hexp⟩ := Fmt.bits_fields hf v
  have hsign : b2n (bit v (f.expBits + f.manBits)) = v / 2 ^ f.manBits / 2 ^ f.expBits := by
    have hlt : v / 2 ^ f.manBits / 2 ^ f.expBits < 2 := by
      rw [Nat.div_div_eq_div_mul, ← pow_add, add_comm]
      exact Nat.div_lt_of_lt_mul (by rwa [← pow_succ, ← Fmt.width_eq hf])
    rw [bit, add_comm, pow_add, ← Nat.div_div_eq_div_mul, Nat.mod_eq_of_lt hlt]
    generalize v / 2 ^ f.manBits / 2 ^ f.expBits = q at *
    interval_cases q <;> rfl
  rw [Fmt.word_eq hf, hsign, hman, hexp, Nat.div_add_mod', Nat.div_add_mod']

/-! ### The lattice of a format -/

/-- m × 2^q is a magnitude of the format, its exponent unbounded upward: a subnormal number of the least quantum, or a normal one. -/
structure Fmt.OnLattice (f : Fmt) (m : Nat) (q : Int) : Prop where
  fits   : m < 2 ^ (f.manBits + 1)
  least  : f.least ≤ q
  normal : q = f.least ∨ 2 ^ f.manBits ≤ m

theorem Fmt.onLattice_fields (f : Fmt) (E : Nat) {M : Nat} (hM : M < 2 ^ f.manBits) : f.OnLattice (f.mant E M) (f.quant E) := by
  have hpow : 2 ^ (f.manBits + 1) = 2 * 2 ^ f.manBits := by ring
  unfold Fmt.mant Fmt.quant
  split
  · exact ⟨by omega, by omega, .inl (by omega)⟩
  · exact ⟨by omega, by omega, .inr (by omega)⟩

theorem Fmt.OnLattice.exists_fields {f : Fmt} {m : Nat} {q : Int} (h : f.OnLattice m q) :
    ∃ E M, M < 2 ^ f.manBits ∧ f.mant E M = m ∧ f.quant E = q := by
  obtain ⟨hfits, hleast, hnormal⟩ := h
  have hpow : 2 ^ (f.manBits + 1) = 2 * 2 ^ f.manBits := by ring
  by_cases hsub : m < 2 ^ f.manBits
  · exact ⟨0, m, hsub, by simp [Fmt.mant], by simp [Fmt.quant]; omega⟩
  · obtain ⟨k, hk⟩ := Int.eq_ofNat_of_zero_le (sub_nonneg.mpr hleast)
    refine ⟨k + 1, m - 2 ^ f.manBits, by omega, ?_, ?_⟩
    · simp [Fmt.mant]; omega
    · simp [Fmt.quant]; omega

/-- Among the magnitudes of the lattice, one of a smaller quantum is smaller. -/
theorem Fmt.OnLattice.lt_of_quant_lt {f : Fmt} {m n : Nat} {q r : Int} (hm : m < 2 ^ (f.manBits + 1)) (hn : f.OnLattice n r)
    (hq : f.least ≤ q) (hqr : q < r) : (m : ℚ) * 2 ^ q < n * 2 ^ r := by
  have hnormal : 2 ^ f.manBits ≤ n := hn.normal.resolve_left (by omega)
  calc (m : ℚ) * 2 ^ q < 2 ^ (f.manBits + 1) * 2 ^ q := by gcongr; exact_mod_cast hm
    _ = 2 ^ f.manBits * 2 ^ (q + 1) := by rw [zpow_add₀ two_ne_zero]; ring
    _ ≤ n * 2 ^ r := mul_le_mul (by exact_mod_cast hnormal) (zpow_le_zpow_right₀ one_le_two (by omega)) (by positivity) (by positivity)

theorem Fmt.OnLattice.le_iff {f : Fmt} {m n : Nat} {q r : Int} (hm : f.OnLattice m q) (hn : f.OnLattice n r) :
    (m : ℚ) * 2 ^ q ≤ n * 2 ^ r ↔ q < r ∨ q = r ∧ m ≤ n := by
  rcases lt_trichotomy q r with hlt | rfl | hgt
  · simp [hlt, (hn.lt_of_quant_lt hm.fits hm.least hlt).le]
  · simp [mul_le_mul_iff_left₀ (by positivity : (0 : ℚ) < 2 ^ q)]
  · have := hm.lt_of_quant_lt hn.fits hn.least hgt
    constructor
    · intro hle; linarith
    · omega

theorem Fmt.mant_eq_zero {f : Fmt} {E M : Nat} : f.mant E M = 0 ↔ E = 0 ∧ M = 0 := by
  have := Nat.two_pow_pos f.manBits
  unfold Fmt.mant
  split <;> omega

theorem Fmt.largest_onLattice {f : Fmt} (hf : f.IsFloat) : f.OnLattice f.largest.1 f.largest.2 := by
  obtain rfl | rfl | rfl | rfl | rfl | rfl := hf.cases <;> constructor <;> decide

/-- Fields belong to a finite number when its magnitude is at most the largest one. -/
theorem Fmt.finite_iff {f : Fmt} (hf : f.IsFloat) {E M : Nat} (hM : M < 2 ^ f.manBits) :
    E < 2 ^ f.expBits ∧ f.Finite E M ↔ f.quant E < f.largest.2 ∨ f.quant E = f.largest.2 ∧ f.mant E M ≤ f.largest.1 := by
  obtain rfl | rfl | rfl | rfl | rfl | rfl := hf.cases <;>
    simp [Fmt.Finite, Fmt.hasInf, Fmt.largest, Fmt.quant, Fmt.mant, Fmt.least, Fmt.expBits, Fmt.manBits, Fmt.shape] at * <;>
    split <;> omega

theorem magGt_iff {a b : Nat} {p q : Int} : magGt a p b q = true ↔ (b : ℚ) * 2 ^ q < a * 2 ^ p := by
  have hscale (n : Nat) {k l : Int} (h : l ≤ k) : (n : ℚ) * 2 ^ k = (n * 2 ^ (k - l).toNat : Nat) * 2 ^ l := by
    push_cast
    rw [mul_assoc, ← zpow_natCast, ← zpow_add₀ two_ne_zero, Int.toNat_of_nonneg (by omega), sub_add_cancel]
  rw [hscale a (min_le_left p q), hscale b (min_le_right p q), mul_lt_mul_iff_left₀ (by positivity), Nat.cast_lt, magGt,
    decide_eq_true_eq]

/-! ### Encoding -/

theorem encodeMag_eq (f : Fmt) {m : Nat} (q : Int) (h : m ≠ 2 ^ (f.manBits + 1)) : encodeMag f m q =
    if m < 2 ^ f.manBits then m else (q + f.manBits + f.shape.2.2).toNat * 2 ^ f.manBits + (m - 2 ^ f.manBits) := by
  unfold Fmt.manBits at h
  simp only [encodeMag, h, if_false]
  rfl

theorem encodeMag_carry (f : Fmt) (q : Int) : encodeMag f (2 ^ (f.manBits + 1)) q = encodeMag f (2 ^ f.manBits) (q + 1) := by
  have hne : (2 : Nat) ^ f.manBits ≠ 2 ^ (f.manBits + 1) := by have := Nat.two_pow_pos f.manBits; rw [pow_succ]; omega
  unfold Fmt.manBits at hne ⊢
  simp only [encodeMag, hne, if_false, if_true]

theorem encodeMag_fields (f : Fmt) (E : Nat) {M : Nat} (hM : M < 2 ^ f.manBits) :
    encodeMag f (f.mant E M) (f.quant E) = E * 2 ^ f.manBits + M := by
  rw [encodeMag_eq f _ (f.onLattice_fields E hM).fits.ne]
  obtain rfl | hE := Nat.eq_zero_or_pos E
  · simp [Fmt.mant, hM]
  · have hfield : (f.quant E + f.manBits + f.shape.2.2).toNat = E := by unfold Fmt.quant Fmt.least; omega
    simp [Fmt.mant, hE.ne', hfield]

/-! ### A magnitude rounded to the lattice -/

/-- The exponent of the quantum to which a format rounds m × 2^e. -/
def Fmt.quantum (f : Fmt) (m : Nat) (e : Int) : Int := max (bitLen m + e - (f.manBits + 1)) f.least

theorem toLattice_rne (f : Fmt) (m : Nat) (e : Int) : toLattice f rne m e = (roundAt m e (f.quantum m e), f.quantum m e) := by
  unfold toLattice roundAt Fmt.quantum Fmt.least Fmt.manBits
  dsimp only
  split <;> rfl

theorem Fmt.OnLattice.quantum_eq {f : Fmt} {m : Nat} {q : Int} (h : f.OnLattice m q) : f.quantum m q = q := by
  have hlen := bitLen_le.mpr h.fits
  obtain rfl | hnormal := h.normal
  · exact max_eq_right (by omega)
  · have := lt_bitLen.mpr hnormal
    rw [Fmt.quantum, max_eq_left] <;> have := h.least <;> omega

theorem roundAt_self (m : Nat) (q : Int) : roundAt m q q = m := by simp [roundAt]

section
variable {f : Fmt} {m : Nat} {e : Int}

/-- A magnitude in units of its quantum has at most one bit more than the mantissa field. -/
theorem Fmt.scaled_lt : (m : ℚ) * 2 ^ (e - f.quantum m e) < 2 ^ (f.manBits + 1) := by
  have hle : (bitLen m : Int) + (e - f.quantum m e) ≤ (f.manBits + 1 : Nat) := by
    have := le_max_left ((bitLen m : Int) + e - (f.manBits + 1)) f.least
    unfold Fmt.quantum; omega
  calc (m : ℚ) * 2 ^ (e - f.quantum m e) < 2 ^ bitLen m * 2 ^ (e - f.quantum m e) := by
        gcongr
        exact_mod_cast bitLen_le.mp le_rfl
    _ = 2 ^ ((bitLen m : Int) + (e - f.quantum m e)) := by rw [zpow_add₀ two_ne_zero, zpow_natCast]
    _ ≤ 2 ^ (f.manBits + 1) := by exact_mod_cast zpow_le_zpow_right₀ (one_le_two (α := ℚ)) hle

/-- Above the least quantum it has all of them. -/
theorem Fmt.le_scaled (hm : m ≠ 0) (h : f.quantum m e ≠ f.least) : 2 ^ f.manBits ≤ (m : ℚ) * 2 ^ (e - f.quantum m e) := by
  have hlen : 0 < bitLen m := lt_bitLen.mpr (Nat.one_le_iff_ne_zero.mpr hm)
  have hexp : (f.manBits : Int) = (bitLen m - 1 : Nat) + (e - f.quantum m e) := by
    have : f.quantum m e = bitLen m + e - (f.manBits + 1) := (max_choice _ _).resolve_right h
    omega
  calc (2 : ℚ) ^ f.manBits = 2 ^ (bitLen m - 1) * 2 ^ (e - f.quantum m e) := by
        rw [← zpow_natCast, hexp, zpow_add₀ two_ne_zero, zpow_natCast]
    _ ≤ m * 2 ^ (e - f.quantum m e) := by
        gcongr
        exact_mod_cast lt_bitLen.mp (by omega)

/-- A rounded magnitude is one of the lattice, after a carry out of the mantissa with the next quantum; its encoding is that one's. -/
theorem Fmt.exists_onLattice (f : Fmt) (hm : m ≠ 0) (e : Int) : ∃ n r, f.OnLattice n r ∧
    ((roundAt m e (f.quantum m e) : Nat) : ℚ) * 2 ^ f.quantum m e = n * 2 ^ r ∧
    encodeMag f (roundAt m e (f.quantum m e)) (f.quantum m e) = encodeMag f n r := by
  have hround := roundAt_isNearest m e (f.quantum m e)
  have hleast : f.least ≤ f.quantum m e := le_max_right _ _
  have hle : roundAt m e (f.quantum m e) ≤ 2 ^ (f.manBits + 1) := by
    exact_mod_cast hround.le_of_le (j := 2 ^ (f.manBits + 1)) (by exact_mod_cast Fmt.scaled_lt.le)
  have hge (h : f.quantum m e ≠ f.least) : 2 ^ f.manBits ≤ roundAt m e (f.quantum m e) := by
    exact_mod_cast hround.ge_of_ge (j := 2 ^ f.manBits) (by exact_mod_cast Fmt.le_scaled hm h)
  obtain hlt | heq := hle.lt_or_eq
  · exact ⟨_, _, ⟨hlt, hleast, or_iff_not_imp_left.mpr hge⟩, rfl, rfl⟩
  · refine ⟨2 ^ f.manBits, f.quantum m e + 1, ⟨by simp [pow_succ], by omega, .inr le_rfl⟩, ?_, ?_⟩
    · rw [heq, zpow_add₀ two_ne_zero]
      push_cast
      ring
    · rw [heq, encodeMag_carry]

/-- No magnitude of the lattice is nearer than the rounded one: those of at least its quantum are integers in units of it, and
the others lie below the least mantissa that the quantum has (R75). -/
theorem Fmt.rounded_nearest (hm : m ≠ 0) {n : Nat} {r : Int} (hn : n < 2 ^ (f.manBits + 1)) (hr : f.least ≤ r) :
    |((roundAt m e (f.quantum m e) : Nat) : ℚ) * 2 ^ f.quantum m e - m * 2 ^ e| ≤ |(n : ℚ) * 2 ^ r - m * 2 ^ e| := by
  have hround := roundAt_isNearest m e (f.quantum m e)
  have hscaled := fun h => Fmt.le_scaled (f := f) (e := e) hm h
  generalize f.quantum m e = q at *
  have hunit (x : ℚ) : |x * 2 ^ q - m * 2 ^ e| = |x - m * 2 ^ (e - q)| * 2 ^ q := by
    rw [← abs_of_pos (by positivity : (0 : ℚ) < 2 ^ q), ← abs_mul, abs_of_pos (by positivity : (0 : ℚ) < 2 ^ q), sub_mul,
      mul_assoc, ← zpow_add₀ two_ne_zero, sub_add_cancel]
  have hnr : (n : ℚ) * 2 ^ r = (n * 2 ^ (r - q)) * 2 ^ q := by rw [mul_assoc, ← zpow_add₀ two_ne_zero, sub_add_cancel]
  rw [hnr, hunit, hunit]
  refine mul_le_mul_of_nonneg_right ?_ (by positivity)
  obtain hle | hlt := le_or_gt q r
  · obtain ⟨k, hk⟩ := Int.eq_ofNat_of_zero_le (sub_nonneg.mpr hle)
    have := hround.le ((n * 2 ^ k : Nat) : Int)
    rw [hk]
    exact_mod_cast this
  · have hmant := hscaled (by omega)
    have hbelow : (n : ℚ) * 2 ^ (r - q) ≤ 2 ^ f.manBits := by
      calc (n : ℚ) * 2 ^ (r - q) ≤ 2 ^ (f.manBits + 1) * 2 ^ (-1 : Int) :=
            mul_le_mul (by exact_mod_cast hn.le) (zpow_le_zpow_right₀ one_le_two (by omega)) (by positivity) (by positivity)
        _ = 2 ^ f.manBits := by rw [zpow_neg_one, pow_succ, mul_inv_cancel_right₀ two_ne_zero]
    calc _ ≤ |(2 : ℚ) ^ f.manBits - m * 2 ^ (e - q)| := by exact_mod_cast hround.le (2 ^ f.manBits)
      _ ≤ _ := by
        rw [abs_of_nonpos (sub_nonpos.mpr hmant), abs_of_nonpos (sub_nonpos.mpr (hbelow.trans hmant))]
        linarith

end

/-! ### Conversion to a floating-point format -/

section
variable {f : Fmt} (hf : f.IsFloat) (o s : Bool)
include hf

theorem convert_nan_float (hfp4 : f ≠ .fp4) : convert f o (.nan s) = { val := f.signed s f.nan } := by
  simp only [convert, hf.1, Bool.false_eq_true, if_false, if_neg hfp4]
  rfl

theorem convert_inf_float (hinf : f.hasInf = true) : convert f o (.inf s) = { val := f.word s (2 ^ f.expBits - 1) 0 } := by
  have hfield : bits f.nan (f.width - 2) f.manBits = 2 ^ f.expBits - 1 := by cases f <;> simp [Fmt.hasInf] at hinf <;> decide
  simp only [convert, hf.1, Bool.false_eq_true, if_false, if_pos hinf, Fmt.word, add_zero, ← hfield]
  rfl

theorem convert_zero_float (e : Int) : convert f o (.fin s 0 e) = { val := f.word s 0 0 } := by
  simp only [convert, hf.1, Bool.false_eq_true, if_false, if_true, Fmt.word, zero_mul]
  rfl

/-- A conversion is the encoding of the rounded magnitude, unless that is above the largest finite one (R75, R77). -/
theorem convert_fin_float {m : Nat} (hm : m ≠ 0) (e : Int) : convert f o (.fin s m e) =
    if magGt (roundAt m e (f.quantum m e)) (f.quantum m e) f.largest.1 f.largest.2 = true then
      { val := f.signed s (if (f.hasInf && o) = true then bits f.nan (f.width - 2) f.manBits * 2 ^ f.manBits
          else encodeMag f f.largest.1 f.largest.2), ovf := 1 }
    else { val := f.signed s (encodeMag f (roundAt m e (f.quantum m e)) (f.quantum m e)) } := by
  simp only [convert, hf.1, Bool.false_eq_true, if_false, if_neg hm, toLattice_rne]
  rfl

/-- A value of the lattice that is at most the largest converts to its own fields. -/
theorem convert_fields_float {E M : Nat} (hE : E < 2 ^ f.expBits) (hM : M < 2 ^ f.manBits) (hfin : f.Finite E M) :
    convert f o (.fin s (f.mant E M) (f.quant E)) = { val := f.word s E M } := by
  have hlat := f.onLattice_fields E hM
  obtain hzero | hmant := eq_or_ne (f.mant E M) 0
  · rw [hzero, convert_zero_float hf o s, (Fmt.mant_eq_zero.mp hzero).1, (Fmt.mant_eq_zero.mp hzero).2]
  · have hbound := (hlat.le_iff (Fmt.largest_onLattice hf)).mpr ((Fmt.finite_iff hf hM).mp ⟨hE, hfin⟩)
    rw [convert_fin_float hf o s hmant, hlat.quantum_eq, roundAt_self, if_neg (mt magGt_iff.mp hbound.not_gt),
      encodeMag_fields f E hM, Fmt.word]

/-- An element that is no NaN converts to its own format unchanged. -/
theorem convert_value_float {v : Nat} (hv : v < 2 ^ f.width) (hnum : ∀ z, f.value v ≠ .nan z) :
    convert f o (f.value v) = { val := v, ovf := 0, inv := 0 } := by
  have hword := Fmt.word_fields hf hv
  obtain ⟨hE, hM⟩ := Fmt.fields_lt hf v
  rw [Fmt.value_eq hf] at hnum ⊢
  generalize bit v (f.expBits + f.manBits) = s at *
  generalize bits v (f.expBits + f.manBits - 1) f.manBits = E at *
  generalize bits v (f.manBits - 1) 0 = M at *
  by_cases hfin : f.Finite E M
  · rw [Fmt.ofFields_of_finite hfin, convert_fields_float hf o s hE hM hfin, hword]
  · obtain ⟨hinf, rfl, rfl⟩ := Fmt.infinite_of_not_nan hfin hnum
    rw [Fmt.ofFields, if_pos ⟨hinf, rfl⟩, if_pos rfl, convert_inf_float hf o s hinf, hword]

/-- A conversion that does not overflow gives a finite element, the number that rounding gives. -/
theorem value_convert_of_no_overflow {m : Nat} {e : Int} (hm : m ≠ 0) (h : (convert f o (.fin s m e)).ovf = 0) :
    ∃ n r, f.value (convert f o (.fin s m e)).val = .fin s n r ∧
      (n : ℚ) * 2 ^ r = (roundAt m e (f.quantum m e) : Nat) * 2 ^ f.quantum m e := by
  obtain ⟨n, r, hlat, hnum, henc⟩ := f.exists_onLattice hm e
  rw [convert_fin_float hf o s hm] at h ⊢
  split at h
  · cases h
  · have hbound := not_lt.mp (mt magGt_iff.mpr ‹_›)
    rw [hnum, hlat.le_iff (Fmt.largest_onLattice hf)] at hbound
    obtain ⟨E, M, hM, rfl, rfl⟩ := hlat.exists_fields
    obtain ⟨hE, hfin⟩ := (Fmt.finite_iff hf hM).mpr hbound
    refine ⟨_, _, ?_, hnum.symm⟩
    rw [if_neg ‹_›, henc, encodeMag_fields f E hM, ← Fmt.ofFields_of_finite hfin, ← Fmt.value_word hf s hE hM, Fmt.word]

theorem value_convert_zero_float (e : Int) : f.value (convert f o (.fin s 0 e)).val = .fin s 0 f.least := by
  have hfin : f.Finite 0 0 := by obtain rfl | rfl | rfl | rfl | rfl | rfl := hf.cases <;> simp [Fmt.Finite, Fmt.expBits, Fmt.shape]
  rw [convert_zero_float hf o s, Fmt.value_word hf s (Nat.two_pow_pos _) (Nat.two_pow_pos _), Fmt.ofFields_of_finite hfin]
  simp [Fmt.mant, Fmt.quant]

/-- A finite element is a mantissa in units of at least the least quantum. -/
theorem Fmt.value_of_isFin {y : Nat} (hy : (f.value y).isFin = true) :
    ∃ z n r, f.value y = .fin z n r ∧ n < 2 ^ (f.manBits + 1) ∧ f.least ≤ r := by
  rw [Fmt.value_eq hf] at hy ⊢
  have hlat := f.onLattice_fields (bits y (f.expBits + f.manBits - 1) f.manBits) (Fmt.fields_lt hf y).2
  exact ⟨_, _, _, Fmt.ofFields_of_finite (Fmt.isFin_ofFields hy) _, hlat.fits, hlat.least⟩

/-- A conversion that does not overflow gives a finite element, and none is nearer (R75). -/
theorem convert_nearest_float {m : Nat} {e : Int} {y : Nat} (h : (convert f o (.fin s m e)).ovf = 0)
    (hy : (f.value y).isFin = true) :
    (f.value (convert f o (.fin s m e)).val).isFin = true ∧
    |(f.value (convert f o (.fin s m e)).val).rat - (Val.fin s m e).rat| ≤ |(f.value y).rat - (Val.fin s m e).rat| := by
  obtain rfl | hm := eq_or_ne m 0
  · rw [value_convert_zero_float hf o s]
    exact ⟨rfl, by simp [Val.rat]⟩
  · obtain ⟨n, r, hval, hnum⟩ := value_convert_of_no_overflow hf o s hm h
    obtain ⟨z, k, i, hfin, hk, hi⟩ := Fmt.value_of_isFin hf hy
    refine ⟨by rw [hval, Val.isFin], ?_⟩
    calc _ = |(n : ℚ) * 2 ^ r - m * 2 ^ e| := by rw [hval, Val.abs_rat_sub_rat]
      _ ≤ |(k : ℚ) * 2 ^ i - m * 2 ^ e| := hnum ▸ Fmt.rounded_nearest hm hk hi
      _ ≤ _ := by
        rw [hfin, ← Val.abs_rat_fin z k i, ← Val.abs_rat_fin s m e]
        exact abs_abs_sub_abs_le _ _

end

theorem Fmt.isInt_or_isFloat {f : Fmt} (h : f ≠ .e8m0) : f.isInt = true ∨ f.IsFloat := by
  cases hint : f.isInt
  · exact .inr ⟨hint, h⟩
  · exact .inl rfl

theorem convert_nan {f : Fmt} (h : f ≠ .e8m0) (o s : Bool) : convert f o (.nan s) =
    if f.isInt = true ∨ f = .fp4 then { val := 0, ovf := 0, inv := 1 }
    else { val := (if s then 2 ^ (f.width - 1) else 0) + f.nan, ovf := 0, inv := 0 } := by
  by_cases hzero : f.isInt = true ∨ f = .fp4
  · rw [if_pos hzero]
    obtain hint | rfl := hzero
    · simp only [convert, if_pos hint]
    · rfl
  · obtain ⟨hint, hfp4⟩ := not_or.mp hzero
    rw [if_neg hzero, convert_nan_float ((Fmt.isInt_or_isFloat h).resolve_left hint) o s hfp4]
    cases s <;> simp [Fmt.signed, Fmt.signBit]

end Sys2Proof.Machine

namespace Sys2Proof.Proofs

open Sys2Proof.Machine

/-- Settles O36: the integer formats by the nearest integer, clamped, and the others by their lattice of finite magnitudes. -/
theorem numbersRoundOnceToNearest : Obligations.NumbersRoundOnceToNearest := by
  unfold Obligations.NumbersRoundOnceToNearest
  refine ⟨fun f o v hscale hv hnum => ?own, fun f o s m e y hint hscale => convert_nearest_float ⟨hint, hscale⟩ o s,
    fun f o s m e hint => ?int, fun f o s hscale => convert_nan hscale o s⟩
  case own =>
    obtain hint | hfloat := Fmt.isInt_or_isFloat hscale
    · exact convert_value_int hint o hv
    · exact convert_value_float hfloat o hv hnum
  case int =>
    obtain ⟨hnear, htie⟩ := roundInt_isNearest s m e
    refine ⟨roundInt s m e, hnear, htie, ?_⟩
    simp only [convert_int hint, clampSigned_eq_self_iff]
    simp only [clampSigned_eq, ofSigned, Nat.cast_pow, Nat.cast_ofNat]

end Sys2Proof.Proofs

/-! PROOF. Results of the vector engine (R81, R82, R165 to R168): exact sums and products rounded once, sums that no order changes,
and the functions of R167 where their results are exact. -/

namespace Sys2Proof.Machine

/-! ### Sums and products of finite values -/

/-- The exact sum of finite values in units of the smaller quantum; a zero keeps a sign that both operands have (R75). -/
theorem Val.add_fin (a b : Bool) (m n : Nat) (e f : Int) : ∃ k i, (Val.fin a m e).add (.fin b n f) = (.fin k i (e ⊓ f), false) ∧
    (Val.fin k i (e ⊓ f)).rat = (Val.fin a m e).rat + (Val.fin b n f).rat ∧ (i = 0 → k = (a && b)) := by
  have hunits (s : Bool) (x : Nat) {l k : Int} (h : l ≤ k) : (sInt s (x * 2 ^ (k - l).toNat) : ℚ) * 2 ^ l = (Val.fin s x k).rat := by
    have hpow : (2 : ℚ) ^ (k - l).toNat * 2 ^ l = 2 ^ k := by
      rw [← zpow_natCast, ← zpow_add₀ two_ne_zero, Int.toNat_of_nonneg (by omega), sub_add_cancel]
    rw [Val.rat_fin, ← hpow]
    cases s <;> simp [sInt] <;> ring
  have hsum := congrArg₂ (· + ·) (hunits a m (min_le_left e f)) (hunits b n (min_le_right e f))
  simp only [← add_mul, ← Int.cast_add] at hsum
  simp only [Val.add]
  generalize sInt a _ + sInt b _ = v at *
  by_cases hv : v = 0
  · exact ⟨_, _, by rw [if_pos hv], by simpa [hv, Val.rat] using hsum, fun _ => rfl⟩
  · exact ⟨_, _, by rw [if_neg hv], by rw [Val.rat_fin, sInt_decide_natAbs, hsum], fun h => absurd h (by omega)⟩

theorem Val.mul_fin (a b : Bool) (m n : Nat) (e f : Int) :
    (Val.fin a m e).mul (.fin b n f) = (.fin (a != b) (m * n) (e + f), false) := rfl

theorem Val.rat_mul (a b : Bool) (m n : Nat) (e f : Int) :
    (Val.fin (a != b) (m * n) (e + f)).rat = (Val.fin a m e).rat * (Val.fin b n f).rat := by
  simp only [Val.rat, zpow_add₀ (two_ne_zero (α := ℚ))]
  cases a <;> cases b <;> push_cast <;> simp <;> ring

theorem Val.rat_neg (s : Bool) (m : Nat) (e : Int) : (Val.fin (!s) m e).rat = -(Val.fin s m e).rat := by
  cases s <;> simp [Val.rat]

/-- A result is the exact number q, rounded once. -/
def VRes.Rounds (r : VRes) (cf : Fmt) (q : ℚ) : Prop := ∃ k i y, Val.rat (.fin k i y) = q ∧ r = roundTo cf (.fin k i y) false

/-- ADD, SUB, MUL, FMA, NEG and ABS of finite values round the exact result once (R165, R166). -/
theorem VOp.elem_rounds (cf : Fmt) (s u z : Bool) (m n l : Nat) (e f h : Int) :
    let a : Val := .fin s m e
    let b : Val := .fin u n f
    let c : Val := .fin z l h
    (VOp.add.elem cf a b c).Rounds cf (a.rat + b.rat) ∧ (VOp.sub.elem cf a b c).Rounds cf (a.rat - b.rat) ∧
    (VOp.mul.elem cf a b c).Rounds cf (a.rat * b.rat) ∧ (VOp.fma.elem cf a b c).Rounds cf (a.rat * b.rat + c.rat) ∧
    (VOp.neg.elem cf a b c).Rounds cf (-a.rat) ∧ (VOp.abs.elem cf a b c).Rounds cf |a.rat| := by
  intro a b c
  refine ⟨?add, ?sub, ⟨_, _, _, Val.rat_mul s u m n e f, rfl⟩, ?fma, ⟨_, _, _, Val.rat_neg s m e, rfl⟩,
    ⟨false, m, e, ?abs, rfl⟩⟩
  case add =>
    obtain ⟨k, i, hadd, hrat, -⟩ := Val.add_fin s u m n e f
    exact ⟨k, i, _, hrat, by simp only [VOp.elem, a, b, hadd]⟩
  case sub =>
    obtain ⟨k, i, hadd, hrat, -⟩ := Val.add_fin s (!u) m n e f
    exact ⟨k, i, _, by rw [hrat, Val.rat_neg, sub_eq_add_neg], by simp only [VOp.elem, a, b, Val.neg, hadd]⟩
  case fma =>
    obtain ⟨k, i, hadd, hrat, -⟩ := Val.add_fin (s != u) z (m * n) l (e + f) h
    exact ⟨k, i, _, by rw [hrat, Val.rat_mul], by simp only [VOp.elem, a, b, c, Val.mul_fin, hadd, Bool.or_self]⟩
  case abs => rw [Val.abs_rat_fin, Val.rat_fin, sInt, if_neg Bool.false_ne_true, Int.cast_natCast]

/-! ### INT32 -/

theorem toSigned_toNat (x : Word32) : toSigned 32 x.toNat = x.toInt := by
  have := x.isLt
  rw [toSigned, BitVec.toInt_eq_toNat_cond]
  simp only [Nat.mod_eq_of_lt x.isLt]
  split <;> split <;> omega

/-- The value of a signed integer. -/
def Val.ofInt (i : Int) : Val := .fin (decide (i < 0)) i.natAbs 0

theorem value_int32 (x : Word32) : Fmt.int32.value x.toNat = Val.ofInt x.toInt := by
  rw [← toSigned_toNat]; rfl

theorem Val.rat_ofInt (i : Int) : (Val.ofInt i).rat = i := by
  rw [Val.ofInt, Val.rat_fin, sInt_decide_natAbs, zpow_zero, mul_one]

/-- A result is the integer i, saturated once. -/
def VRes.Saturates (r : VRes) (i : Int) : Prop :=
  r.x = .ofInt (BitVec.ofInt 32 (max (-2 ^ 31) (min (2 ^ 31 - 1) i))).toInt ∧
    r.ovf = (if -2 ^ 31 ≤ i ∧ i < 2 ^ 31 then 0 else 1) ∧ r.inv = 0

theorem VRes.Rounds.saturates {r : VRes} {q : ℚ} {i : Int} (h : r.Rounds .int32 q) (hq : q = i) : r.Saturates i := by
  obtain ⟨k, m, e, hrat, rfl⟩ := h
  have hround := roundInt_of_rat (hrat.trans hq)
  simp only [VRes.Saturates, roundTo, convert_int (f := .int32) rfl, hround, clampSigned_eq_self_iff]
  refine ⟨?_, rfl, rfl⟩
  rw [← value_int32, clampSigned_eq, BitVec.toNat_ofInt]
  rfl

/-- In INT32, ADD, SUB, MUL, FMA, NEG and ABS form the exact integer and saturate once (R165). -/
theorem VOp.elem_int32 (i j k : Int) :
    (VOp.add.elem .int32 (.ofInt i) (.ofInt j) (.ofInt k)).Saturates (i + j) ∧
    (VOp.sub.elem .int32 (.ofInt i) (.ofInt j) (.ofInt k)).Saturates (i - j) ∧
    (VOp.mul.elem .int32 (.ofInt i) (.ofInt j) (.ofInt k)).Saturates (i * j) ∧
    (VOp.fma.elem .int32 (.ofInt i) (.ofInt j) (.ofInt k)).Saturates (i * j + k) ∧
    (VOp.neg.elem .int32 (.ofInt i) (.ofInt j) (.ofInt k)).Saturates (-i) ∧
    (VOp.abs.elem .int32 (.ofInt i) (.ofInt j) (.ofInt k)).Saturates |i| := by
  obtain ⟨hadd, hsub, hmul, hfma, hneg, habs⟩ := VOp.elem_rounds .int32 (decide (i < 0)) (decide (j < 0)) (decide (k < 0))
    i.natAbs j.natAbs k.natAbs 0 0 0
  refine ⟨hadd.saturates ?_, hsub.saturates ?_, hmul.saturates ?_, hfma.saturates ?_, hneg.saturates ?_, habs.saturates ?_⟩
  all_goals
    push_cast
    simp only [← Val.rat_ofInt]
    rfl

theorem Val.nlt_ofInt (i j : Int) : (Val.ofInt i).nlt (Val.ofInt j) = decide (i < j) := by
  simp [Val.ofInt, Val.nlt, sInt_decide_natAbs]

/-- Integers have no negative zero, so that their order is that of the numbers (R82). -/
theorem Val.lt_ofInt (i j : Int) : (Val.ofInt i).lt (Val.ofInt j) = decide (i < j) := by
  have hzero : (i.natAbs == 0 && j.natAbs == 0 && decide (i < 0) && !decide (j < 0)) = false := by
    by_cases hi : i < 0
    · simp [hi.ne]
    · simp [hi]
  change ((Val.ofInt i).nlt (Val.ofInt j) || (i.natAbs == 0 && j.natAbs == 0 && decide (i < 0) && !decide (j < 0))) = _
  rw [hzero, Bool.or_false, Val.nlt_ofInt]

theorem Val.max_ofInt (i j : Int) : (Val.ofInt i).max (Val.ofInt j) = Val.ofInt (if i ≤ j then j else i) := by
  change (if (Val.ofInt i).lt (Val.ofInt j) = true then Val.ofInt j else Val.ofInt i) = _
  rw [Val.lt_ofInt, ← apply_ite Val.ofInt]
  congr 1
  simp only [decide_eq_true_eq]
  split_ifs <;> omega

theorem Val.min_ofInt (i j : Int) : (Val.ofInt i).min (Val.ofInt j) = Val.ofInt (if i ≤ j then i else j) := by
  change (if (Val.ofInt j).lt (Val.ofInt i) = true then Val.ofInt j else Val.ofInt i) = _
  rw [Val.lt_ofInt, ← apply_ite Val.ofInt]
  congr 1
  simp only [decide_eq_true_eq]
  split_ifs <;> omega

/-! ### Sums that no order changes (R168) -/

/-- A value takes a sum up to plus infinity, or makes it a NaN. -/
def Val.up : Val → Bool
  | .nan _ | .inf false => true
  | _ => false

/-- A value takes a sum down to minus infinity, or makes it a NaN. -/
def Val.down : Val → Bool
  | .nan _ | .inf true => true
  | _ => false

/-- The sum that goes up, down, or both. -/
def Val.reach (u d : Bool) : Val := if u && d then .nan false else .inf d

theorem Val.finite_of_not {x : Val} (hup : x.up = false) (hdown : x.down = false) : ∃ s m e, x = .fin s m e := by
  cases x with
  | fin s m e => exact ⟨s, m, e, rfl⟩
  | nan s => cases hup
  | inf s => cases s <;> simp [Val.up, Val.down] at hup hdown

theorem Val.reach_up_down {u d : Bool} (h : (u || d) = true) : (Val.reach u d).up = u ∧ (Val.reach u d).down = d := by
  revert u d; decide

theorem Val.add_infinite {x y : Val} (h : (x.up || y.up || (x.down || y.down)) = true) :
    (x.add y).1 = .reach (x.up || y.up) (x.down || y.down) := by
  cases x with
  | nan s => cases y <;> rfl
  | inf s =>
    cases y with
    | nan u => cases s <;> rfl
    | inf u => revert s u; decide
    | fin u n f => cases s <;> rfl
  | fin s m e =>
    cases y with
    | nan u => rfl
    | inf u => cases u <;> rfl
    | fin u n f => cases h

theorem Val.add_up_down (x y : Val) : (x.add y).1.up = (x.up || y.up) ∧ (x.add y).1.down = (x.down || y.down) := by
  cases h : x.up || y.up || (x.down || y.down)
  · simp only [Bool.or_eq_false_iff] at h
    obtain ⟨⟨hxu, hyu⟩, hxd, hyd⟩ := h
    obtain ⟨s, m, e, rfl⟩ := Val.finite_of_not hxu hxd
    obtain ⟨u, n, f, rfl⟩ := Val.finite_of_not hyu hyd
    obtain ⟨k, i, hadd, -⟩ := Val.add_fin s u m n e f
    rw [hadd]
    exact ⟨rfl, rfl⟩
  · rw [Val.add_infinite h]
    exact Val.reach_up_down h

theorem Val.rat_eq_zero {s : Bool} {m : Nat} {e : Int} : (Val.fin s m e).rat = 0 ↔ m = 0 := by
  rw [← abs_eq_zero, Val.abs_rat_fin]
  simp [(zpow_pos (two_pos (α := ℚ)) e).ne']

theorem Val.rat_nonpos (m : Nat) (e : Int) : (Val.fin true m e).rat ≤ 0 := by
  have : 0 ≤ (m : ℚ) * 2 ^ e := by positivity
  simpa [Val.rat] using this

/-- Finite values of one quantum and one number are equal, where a zero has one sign. -/
theorem Val.fin_ext {k k' : Bool} {i i' : Nat} {e : Int} (h : (Val.fin k i e).rat = (Val.fin k' i' e).rat) (hzero : i = 0 → k = k') :
    Val.fin k i e = .fin k' i' e := by
  rw [Val.rat_fin, Val.rat_fin, mul_left_inj' (by positivity), Int.cast_inj] at h
  cases k <;> cases k' <;> simp [sInt] at h hzero ⊢ <;> omega

/-- A sum of three that is zero has a sign that all three have. -/
theorem sign_of_zero_sum {k a b c : Bool} {i l m n : Nat} {q e f h : Int}
    (hrat : (Val.fin k i q).rat = (Val.fin a l e).rat + (Val.fin b m f).rat) (hk : i = 0 → k = (a && b))
    (hsum : (Val.fin k i q).rat + (Val.fin c n h).rat = 0) : (k && c) = (a && b && c) := by
  obtain hi | hi := eq_or_ne i 0
  · rw [hk hi]
  · have hne : (Val.fin k i q).rat ≠ 0 := mt Val.rat_eq_zero.mp hi
    have hpair : ¬ (k = true ∧ c = true) := by
      rintro ⟨rfl, rfl⟩
      exact hne (by linarith [Val.rat_nonpos i q, Val.rat_nonpos n h])
    have hall : ¬ ((a = true ∧ b = true) ∧ c = true) := by
      rintro ⟨⟨rfl, rfl⟩, rfl⟩
      exact hne (by linarith [Val.rat_nonpos l e, Val.rat_nonpos m f, Val.rat_nonpos n h])
    simp only [← Bool.and_eq_true, Bool.not_eq_true] at hpair hall
    rw [hpair, hall]

theorem Val.add_right_comm_fin (a b c : Bool) (l m n : Nat) (e f h : Int) :
    (((Val.fin a l e).add (.fin b m f)).1.add (.fin c n h)).1 = (((Val.fin a l e).add (.fin c n h)).1.add (.fin b m f)).1 := by
  obtain ⟨k, i, hadd, hrat, hzero⟩ := Val.add_fin a b l m e f
  obtain ⟨k', i', hadd', hrat', hzero'⟩ := Val.add_fin a c l n e h
  obtain ⟨z, j, hsum, hq, hz⟩ := Val.add_fin k c i n (e ⊓ f) h
  obtain ⟨z', j', hsum', hq', hz'⟩ := Val.add_fin k' b i' m (e ⊓ h) f
  rw [hadd, hadd', hsum, hsum']
  rw [inf_right_comm e h f] at hq' ⊢
  have hsame : (Val.fin z j (e ⊓ f ⊓ h)).rat = (Val.fin z' j' (e ⊓ f ⊓ h)).rat := by rw [hq, hq', hrat, hrat']; ring
  refine Val.fin_ext hsame fun hj => ?_
  have htotal : (Val.fin z j (e ⊓ f ⊓ h)).rat = 0 := Val.rat_eq_zero.mpr hj
  have htotal' := hsame ▸ htotal
  rw [hz hj, hz' (Val.rat_eq_zero.mp htotal'), sign_of_zero_sum hrat hzero (hq ▸ htotal),
    sign_of_zero_sum hrat' hzero' (hq' ▸ htotal'), Bool.and_right_comm]

theorem Val.add_add_infinite {x y z : Val} (h : (x.up || y.up || z.up || (x.down || y.down || z.down)) = true) :
    ((x.add y).1.add z).1 = .reach (x.up || y.up || z.up) (x.down || y.down || z.down) := by
  obtain ⟨hup, hdown⟩ := Val.add_up_down x y
  rw [← hup, ← hdown] at h ⊢
  exact Val.add_infinite h

/-- A sum of three does not depend on the order of the last two: a finite one by its number and sign, the others by what they
reach. -/
theorem Val.add_right_comm (x y z : Val) : ((x.add y).1.add z).1 = ((x.add z).1.add y).1 := by
  have hup : (x.up || z.up || y.up) = (x.up || y.up || z.up) := Bool.or_right_comm _ _ _
  have hdown : (x.down || z.down || y.down) = (x.down || y.down || z.down) := Bool.or_right_comm _ _ _
  cases h : x.up || y.up || z.up || (x.down || y.down || z.down)
  · simp only [Bool.or_eq_false_iff] at h
    obtain ⟨⟨⟨hxu, hyu⟩, hzu⟩, ⟨hxd, hyd⟩, hzd⟩ := h
    obtain ⟨a, l, e, rfl⟩ := Val.finite_of_not hxu hxd
    obtain ⟨b, m, f, rfl⟩ := Val.finite_of_not hyu hyd
    obtain ⟨c, n, h, rfl⟩ := Val.finite_of_not hzu hzd
    exact Val.add_right_comm_fin a b c l m n e f h
  · rw [Val.add_add_infinite h, Val.add_add_infinite (by rw [hup, hdown, h]), hup, hdown]

theorem VAcc.add_right_comm (q : VAcc) (x y : Val × Bool) : (q.add x.1 x.2).add y.1 y.2 = (q.add y.1 y.2).add x.1 x.2 := by
  simp only [VAcc.add, VAcc.mk.injEq]
  exact ⟨q.x.add_right_comm _ _, Bool.or_right_comm _ _ _, Bool.or_right_comm _ _ _, Bool.or_right_comm _ _ _⟩

/-- An accumulator holds the same whatever the order of what it covers. -/
theorem VAcc.foldl_perm {l l' : List (Val × Bool)} (h : l.Perm l') (q : VAcc) :
    l.foldl (fun q x => q.add x.1 x.2) q = l'.foldl (fun q x => q.add x.1 x.2) q :=
  h.foldl_eq' (fun x _ y _ q => q.add_right_comm x y) q

/-! ### The functions of R167 where their results are exact -/

theorem isFloat_fp32 : Fmt.fp32.IsFloat := ⟨rfl, nofun⟩

/-- A conversion depends on the number alone, whatever power of two its mantissa holds. -/
theorem convert_mul_two_pow {f : Fmt} (hf : f.IsFloat) (o s : Bool) (m k : Nat) (e : Int) :
    convert f o (.fin s (m * 2 ^ k) (e - k)) = convert f o (.fin s m e) := by
  obtain rfl | hm := eq_or_ne m 0
  · rw [zero_mul, convert_zero_float hf o s, convert_zero_float hf o s]
  · have hnum : ((m * 2 ^ k : Nat) : ℚ) * 2 ^ (e - k) = m * 2 ^ e := by
      rw [zpow_sub₀ two_ne_zero, zpow_natCast]
      push_cast
      field_simp
    have hquantum : f.quantum (m * 2 ^ k) (e - k) = f.quantum m e := by
      unfold Fmt.quantum
      rw [bitLen_mul_two_pow hm]
      congr 1
      push_cast
      ring
    rw [convert_fin_float hf o s hm, convert_fin_float hf o s (mul_ne_zero hm (by positivity)), hquantum, roundAt_eq hnum]

/-- A power of two as FP32, with no sticky bit below it. -/
theorem toFp32_sticky_two_pow (s : Bool) (k : Nat) (e : Int) : toFp32 (sticky s (2 ^ k) (e - k) false) = toFp32 (.fin s 1 e) := by
  have hshift : sticky s (2 ^ k) (e - k) false = .fin s (1 * 2 ^ (k + 1)) (e - (k + 1 : Nat)) := by
    simp only [sticky, b2n]
    congr 1
    · simp; ring
    · push_cast; ring
  rw [hshift]
  exact convert_mul_two_pow isFloat_fp32 true s 1 (k + 1) e

/-- From 2^128 on a power of two overflows. -/
theorem toFp32_two_pow_overflow {i : Int} (h : 128 ≤ i) : toFp32 (.fin false 1 i) = { val := 0x7F800000, ovf := 1 } := by
  have hquantum : Fmt.fp32.quantum 1 i = i - 23 := by
    change max ((1 : Int) + i - (23 + 1)) (-149) = _
    omega
  have hround : roundAt 1 i (i - 23) = 2 ^ 23 := by simp [roundAt]
  have hlarge : magGt (2 ^ 23) (i - 23) Fmt.fp32.largest.1 Fmt.fp32.largest.2 = true := magGt_iff.mpr <| by
    calc (((2 ^ 24 - 1 : Nat) : ℚ)) * 2 ^ (104 : Int) < 2 ^ (128 : Int) := by norm_num
      _ ≤ 2 ^ i := zpow_le_zpow_right₀ one_le_two h
      _ = ((2 ^ 23 : Nat) : ℚ) * 2 ^ (i - 23) := by rw [zpow_sub₀ two_ne_zero]; push_cast; field_simp
  rw [toFp32, convert_fin_float isFloat_fp32 true false one_ne_zero, hquantum, hround, if_pos hlarge]
  rfl

theorem isNearest_zero {x : ℚ} (h0 : 0 ≤ x) (h : x < 1 / 2) : IsNearest x 0 := by
  have habs : |((0 : Int) : ℚ) - x| = x := by rw [Int.cast_zero, zero_sub, abs_neg, abs_of_nonneg h0]
  unfold IsNearest
  rw [habs]
  exact ⟨h.le, fun htie => absurd htie h.ne⟩

/-- Below 2^(−150) a power of two rounds to zero. -/
theorem toFp32_two_pow_underflow {i : Int} (h : i < -150) : toFp32 (.fin false 1 i) = { val := 0 } := by
  have hquantum : Fmt.fp32.quantum 1 i = -149 := by
    change max ((1 : Int) + i - (23 + 1)) (-149) = _
    omega
  have hsmall : (2 : ℚ) ^ (i - -149) < 1 / 2 := by
    calc (2 : ℚ) ^ (i - -149) < 2 ^ (-1 : Int) := zpow_lt_zpow_right₀ one_lt_two (by omega)
      _ = 1 / 2 := by norm_num
  have hround : roundAt 1 i (-149) = 0 := by
    have := (roundAt_isNearest 1 i (-149)).unique (isNearest_zero (by positivity) (by simpa using hsmall))
    exact_mod_cast this
  rw [toFp32, convert_fin_float isFloat_fp32 true false one_ne_zero, hquantum, hround]
  decide

theorem exp2Of_int {i : Int} (hi : i ≠ 0) : exp2Of (.ofInt i) =
    if 128 ≤ i then toFp32 (.fin false 1 128) else if i < -151 then toFp32 (.fin false 1 (-200)) else toFp32 (.fin false 1 i) := by
  have hm : i.natAbs ≠ 0 := by omega
  have hlen : ¬ ((bitLen i.natAbs : Int) + 0 ≤ -25) := by omega
  have habove : (Val.fin false 128 0).nlt (.ofInt i) = decide (128 < i) := Val.nlt_ofInt 128 i
  have hbelow : (Val.ofInt i).nlt (.fin false 128 0) = decide (i < 128) := Val.nlt_ofInt i 128
  have hunder : (Val.ofInt i).nlt (.fin true 151 0) = decide (i < -151) := by
    rw [← Val.nlt_ofInt]; rfl
  have hover : (128 < i ∨ ¬ i < 0 ∧ ¬ i < 128) ↔ 128 ≤ i := by omega
  unfold Val.ofInt at *
  simp only [exp2Of, if_neg hm, if_neg hlen, habove, hbelow, hunder, decide_eq_true_eq, Bool.not_eq_true', decide_eq_false_iff_not, hover]
  simp [sInt_decide_natAbs]

/-- EXP2 of an integer is a power of two (R167). -/
theorem exp2Of_ofInt (i : Int) : exp2Of (.ofInt i) = toFp32 (.fin false 1 i) := by
  obtain rfl | hi := eq_or_ne i 0
  · rfl
  rw [exp2Of_int hi]
  split_ifs with hover hunder
  · rw [toFp32_two_pow_overflow hover, toFp32_two_pow_overflow le_rfl]
  · rw [toFp32_two_pow_underflow (i := -200) (by decide), toFp32_two_pow_underflow (by omega)]
  · rfl

theorem log2Of_negative {m : Nat} (hm : m ≠ 0) (e : Int) : log2Of (.fin true m e) = { val := 0x7FC00000, ovf := 0, inv := 1 } := by
  simp only [log2Of, if_neg hm, if_true]
  rfl

theorem rsqrtOf_negative {m : Nat} (hm : m ≠ 0) (e : Int) : rsqrtOf (.fin true m e) = { val := 0x7FC00000, ovf := 0, inv := 1 } := by
  simp only [rsqrtOf, if_neg hm, if_true]
  rfl

theorem log2Of_two_pow (j : Nat) (e : Int) : log2Of (.fin false (2 ^ j) e) = toFp32 (.ofInt (j + e)) := by
  simp [log2Of, bitLen_two_pow, Val.ofInt]

theorem rcpOf_two_pow (s : Bool) (j : Nat) (e : Int) : rcpOf (.fin s (2 ^ j) e) = toFp32 (.fin s 1 (-j - e)) := by
  have hm : (2 : Nat) ^ j ≠ 0 := by positivity
  have hexp : -((j + 1 + 64 : Nat) : Int) - e = (-j - e) - (65 : Nat) := by push_cast; ring
  have hdvd : (2 : Nat) ^ (j + 1 + 64) = 2 ^ 65 * 2 ^ j := by ring
  simp only [rcpOf, if_neg hm, bitLen_two_pow, hexp, hdvd, Nat.mul_div_cancel _ (Nat.two_pow_pos j), Nat.mul_mod_left,
    bne_self_eq_false]
  exact toFp32_sticky_two_pow s 65 (-j - e)

/-- Newton's iteration from above the root halves its distance each time, and stops at the root. -/
theorem isqrtFrom_eq_sqrt {n : Nat} (hn : n ≠ 0) {fuel k : Nat} (hk : k ≤ fuel) {x : Nat} (hx : n.sqrt ≤ x)
    (hstart : x < n.sqrt + 2 ^ k) : isqrtFrom n fuel x = n.sqrt := by
  have hfuel : x < n.sqrt + 2 ^ fuel := hstart.trans_le (by gcongr; norm_num)
  clear hstart hk
  have hroot : 0 < n.sqrt := Nat.sqrt_pos.mpr (Nat.pos_of_ne_zero hn)
  have hle := Nat.sqrt_le n
  have hlt := Nat.lt_succ_sqrt n
  generalize n.sqrt = r at *
  induction fuel generalizing x with
  | zero => exact le_antisymm (by simpa [isqrtFrom] using Nat.lt_succ_iff.mp hfuel) hx
  | succ fuel ih =>
    have hpos : 0 < x := by omega
    rw [isqrtFrom]
    obtain rfl | habove := hx.eq_or_lt
    · have hdiv : r ≤ n / r := (Nat.le_div_iff_mul_le hpos).mpr hle
      rw [if_neg (by omega)]
    · have hdiv : n / x < r + 1 := (Nat.div_lt_iff_lt_mul hpos).mpr (by nlinarith)
      have hbelow : 2 * r - x ≤ n / x := by
        rw [Nat.le_div_iff_mul_le hpos]
        obtain hcase | hcase := le_total (2 * r) x
        · simp [Nat.sub_eq_zero_of_le hcase]
        · zify [hcase] at hle ⊢
          nlinarith [sq_nonneg ((r : Int) - x)]
      rw [if_pos (by omega)]
      exact ih (by omega) (by rw [pow_succ] at hfuel; omega)

theorem isqrt_eq_sqrt {n : Nat} (hn : bitLen n ≤ 1000) : isqrt n = n.sqrt := by
  unfold isqrt
  split
  · simp [*]
  · have hstart : n.sqrt < 2 ^ ((bitLen n + 1) / 2) := by
      rw [Nat.sqrt_lt', ← pow_mul]
      exact (bitLen_le.mp le_rfl).trans_le (Nat.pow_le_pow_right two_pos (by omega))
    have hroot : 0 < n.sqrt := Nat.sqrt_pos.mpr (Nat.pos_of_ne_zero ‹_›)
    exact isqrtFrom_eq_sqrt ‹_› (show (bitLen n + 1) / 2 ≤ 600 by omega) hstart.le (Nat.lt_add_of_pos_left hroot)

theorem isqrt_two_pow {k : Nat} (hk : k < 500) : isqrt (2 ^ (2 * k)) = 2 ^ k := by
  rw [isqrt_eq_sqrt (by rw [bitLen_two_pow]; omega), mul_comm, pow_mul, Nat.sqrt_eq']

theorem rsqrtOf_even {t : Nat} (ht : t ≤ 100) (u : Int) {m : Nat} {e : Int} (hm : m ≠ 0)
    (h : (if e % 2 = 0 then (m, e) else (2 * m, e - 1)) = (2 ^ (2 * t), 2 * u)) :
    rsqrtOf (.fin false m e) = toFp32 (.fin false 1 (-t - u)) := by
  have hdiv : 2 ^ 200 / 2 ^ (2 * t) = 2 ^ (2 * (100 - t)) := by
    rw [Nat.pow_div (by omega) two_pos]
    congr 1
    omega
  have hexact : 2 ^ (100 - t) * 2 ^ (100 - t) * 2 ^ (2 * t) = 2 ^ 200 := by
    rw [← pow_add, ← pow_add]
    congr 1
    omega
  have hexp : -100 - 2 * u / 2 = (-t - u) - (100 - t : Nat) := by omega
  simp only [rsqrtOf, if_neg hm, h, hdiv, isqrt_two_pow (show 100 - t < 500 by omega), hexact, hexp, bne_self_eq_false]
  exact toFp32_sticky_two_pow false (100 - t) (-t - u)

theorem rsqrtOf_two_pow {j : Nat} (hj : j ≤ 23) {e : Int} (heven : ((j : Int) + e) % 2 = 0) :
    rsqrtOf (.fin false (2 ^ j) e) = toFp32 (.fin false 1 (-((j : Int) + e) / 2)) := by
  have hm : (2 : Nat) ^ j ≠ 0 := by positivity
  by_cases he : e % 2 = 0
  · obtain ⟨t, rfl⟩ : ∃ t, j = 2 * t := ⟨j / 2, by omega⟩
    obtain ⟨u, rfl⟩ : ∃ u, e = 2 * u := ⟨e / 2, by omega⟩
    rw [rsqrtOf_even (by omega) u hm (if_pos he)]
    congr 2
    omega
  · obtain ⟨t, ht⟩ : ∃ t, j + 1 = 2 * t := ⟨(j + 1) / 2, by omega⟩
    obtain ⟨u, hu⟩ : ∃ u, e - 1 = 2 * u := ⟨(e - 1) / 2, by omega⟩
    have hpair : (2 * 2 ^ j, e - 1) = (2 ^ (2 * t), 2 * u) := by rw [← ht, hu, pow_succ, mul_comm]
    rw [rsqrtOf_even (by omega) u hm ((if_neg he).trans hpair)]
    congr 2
    omega

end Sys2Proof.Machine

namespace Sys2Proof.Proofs

open Sys2Proof.Machine

/-- Settles O38: finite results round the exact number, which in INT32 saturates; the exact sum commutes; the functions of R167
meet a power of two or an integer without a remainder. -/
theorem vectorResultsAreExactSumsAndFunctions : Obligations.VectorResultsAreExactSumsAndFunctions := by
  unfold Obligations.VectorResultsAreExactSumsAndFunctions
  refine ⟨fun a b c => ?int32, fun cf s u z m n l e f h => VOp.elem_rounds cf s u z m n l e f h, fun s m j e => ?functions,
    fun f l l' hperm _ => ?sum, fun a b z => ?nan⟩
  case int32 =>
    simp only [value_int32]
    obtain ⟨hadd, hsub, hmul, hfma, hneg, habs⟩ := VOp.elem_int32 a.toInt b.toInt c.toInt
    refine ⟨hadd, hsub, hmul, hfma, hneg, habs, ?_, ?_⟩
    · rw [VOp.elem, Val.max_ofInt, apply_ite Val.ofInt]; split <;> rfl
    · rw [VOp.elem, Val.min_ofInt, apply_ite Val.ofInt]; split <;> rfl
  case functions =>
    refine ⟨rfl, rfl, rfl, rfl, ?exp2Inf, ?log2Inf, rfl, ?rsqrtInf, rfl, rfl, rfl, rfl,
      fun hm => ⟨log2Of_negative hm e, rsqrtOf_negative hm e⟩, fun i _ => exp2Of_ofInt i, log2Of_two_pow j e,
      fun hj _ _ => ⟨rcpOf_two_pow s j e, rsqrtOf_two_pow hj⟩⟩
    all_goals cases s <;> rfl
  case sum => simp only [VAcc.foldl_perm hperm, hperm.any_eq]
  case nan => cases a <;> cases b <;> exact ⟨rfl, rfl, rfl, rfl⟩

end Sys2Proof.Proofs

/-! PROOF. The start of a matrix pass and its load path (R97, R99, R100, R103): what the issue of an instruction, a precise fault and
a step of the stall watch leave of a stall, then the outcomes of MPASS. -/

namespace Sys2Proof.Machine

/-! ### Stalls, issue and the stall watch -/

@[simp] theorem State.stall_modStall_same (s : State) (g : Nat) (f : Stall → Stall) : (s.modStall g f).stall g = f (s.stall g) :=
  s.stall_setStall_same g _

theorem State.stall_congr {s t : State} (g : Nat) (h : t.stalls = s.stalls) : t.stall g = s.stall g := by
  rw [State.stall, h, State.stall]

/-- The head leaves the queue without a change of the running matrix pass. -/
theorem Stall.pop_mrun (st : Stall) (e : QEntry) : (st.pop e).mrun = st.mrun := by
  unfold Stall.pop
  dsimp only
  repeat' split
  all_goals rfl

/-- A step of the watch changes nothing else of its stall. -/
theorem Stall.watchStep_eq (st : Stall) (now : Nat) (activity quiet : Bool) :
    st.watchStep now activity quiet = { st with watch := (st.watchStep now activity quiet).watch } := by
  unfold Stall.watchStep
  dsimp only
  repeat' split
  all_goals rfl

theorem State.settle_stall_same (s : State) (g : Nat) :
    (s.settle g).stall g = { s.stall g with watch := ((s.settle g).stall g).watch } := by
  rw [State.settle, State.stall_modStall_same]
  exact Stall.watchStep_eq _ _ _ _

theorem State.settle_regAt (s : State) (g : Nat) (q : RegAt) : (s.settle g).regAt q = s.regAt q := rfl

theorem State.settle_events (s : State) (g : Nat) : (s.settle g).events = s.events := rfl

theorem State.settle_job (s : State) (g k : Nat) : (s.settle g).job k = s.job k := rfl

theorem State.issue_stall_kept (s : State) (g : Nat) (e : QEntry) : (s.issue g e true).stall g =
    { (s.stall g).pop e with inflight := ((s.stall g).pop e).inflight ++ [{ e := e, seq := (s.stall g).issues }] } :=
  State.stall_modStall_same _ _ _

theorem State.issue_stall_done (s : State) (g : Nat) (e : QEntry) : (s.issue g e false).stall g = (s.stall g).pop e :=
  State.stall_modStall_same _ _ _

theorem State.issue_regsBut (s : State) (g : Nat) (e : QEntry) (keep : Bool) :
    RegsBut [(RegAt.mk .stlIqIssued g 0 0).off] s (s.issue g e keep) := s.setReg_regsBut .stlIqIssued g 0 _

theorem State.capture_regsBut (s : State) (ev : Rn) (k : Nat) (info : Rn) (n v : Nat) :
    RegsBut [(RegAt.mk info n 0 0).off] s (s.capture ev k info n v) := by
  unfold State.capture
  split
  · exact fun _ _ => rfl
  · exact s.setReg_regsBut info n 0 v

theorem State.raise_record (s : State) (r : Rn) (n k num w0 w1 w2 i : Nat) : ∃ x ∈ (s.raise r n k num w0 w1 w2 i).events,
    x.code = r.spec.blk.id * 1024 + num ∧ x.w0 = w0 % 2 ^ 32 ∧ x.w1 = w1 % 2 ^ 32 ∧ x.w2 = w2 % 2 ^ 32 := by
  rw [State.raise_events]
  exact ⟨_, List.mem_append_right _ (List.mem_singleton_self _), rfl, rfl, rfl, rfl⟩

/-! ### A precise fault (R206) -/

/-- The registers and events of a precise fault, before its stall and its job take it. -/
def State.iqNoted (s : State) (g : Nat) (e : QEntry) (cause detail w1 w2 : Nat) : State :=
  (s.capture .stlIqEvent 0 .stlIqFault g (e.idx * 2 ^ 48 + cause * 2 ^ 40 + e.slot * 2 ^ 30 + detail % 2 ^ 24)).raise .stlIqEvent g 0
    0x140 g (e.idx * 2 ^ 16 + w1 + cause) (e.slot * 2 ^ 20 + w2)

section
variable (s : State) (g : Nat) (e : QEntry) (cause detail w1 w2 : Nat) (st : Status) (tok : Option Nat)

theorem State.iqFault_eq : s.iqFault g e cause detail w1 w2 st tok =
    ((s.iqNoted g e cause detail w1 w2).modStall g fun x => { x with faulted := (e.slot, e.gen) :: x.faulted }).addReason e.slot e.gen
      { status := st, fault := true, stall := g, idx := e.idx, tok := tok } := rfl

theorem State.addReason_fields (slot gen : Nat) (r : Reason) : (s.addReason slot gen r).regs = s.regs ∧
    (s.addReason slot gen r).events = s.events ∧ (s.addReason slot gen r).stalls = s.stalls := by
  unfold State.addReason
  split <;> exact ⟨rfl, rfl, rfl⟩

theorem State.mem_addReason {slot gen : Nat} (r : Reason) (h : (s.job slot).gen = gen) :
    r ∈ ((s.addReason slot gen r).job slot).reasons := by
  rw [State.addReason, if_pos h, State.job_modJob_same]
  exact List.mem_append_right _ (List.mem_singleton_self r)

theorem State.iqNoted_regsBut :
    RegsBut [(RegAt.mk .stlIqFault g 0 0).off, (RegAt.mk .stlIqEvent g 0 0).off] s (s.iqNoted g e cause detail w1 w2) :=
  ((s.capture_regsBut _ _ _ _ _).mono (by simp)).trans ((State.raise_regsBut _ _ _ _ _ _ _ _ _).mono (by simp))

theorem State.iqFault_regsBut :
    RegsBut [(RegAt.mk .stlIqFault g 0 0).off, (RegAt.mk .stlIqEvent g 0 0).off] s (s.iqFault g e cause detail w1 w2 st tok) := by
  rw [State.iqFault_eq]
  refine (s.iqNoted_regsBut g e cause detail w1 w2).trans fun q _ => State.regAt_congr ?_ q
  rw [(State.addReason_fields _ _ _ _).1]
  rfl

theorem State.iqFault_stall_same : (s.iqFault g e cause detail w1 w2 st tok).stall g =
    { s.stall g with faulted := (e.slot, e.gen) :: (s.stall g).faulted } := by
  have hnoted : (s.iqNoted g e cause detail w1 w2).stall g = s.stall g := State.stall_congr g (by simp [State.iqNoted])
  rw [State.iqFault_eq, State.stall_congr g (State.addReason_fields _ _ _ _).2.2, State.stall_modStall_same, hnoted]

theorem State.mem_events_iqFault {x : EvRec} (h : x ∈ s.events) : x ∈ (s.iqFault g e cause detail w1 w2 st tok).events := by
  have hcapture : ∀ v, (s.capture .stlIqEvent 0 .stlIqFault g v).events = s.events := fun v => by
    unfold State.capture
    split <;> rfl
  rw [State.iqFault_eq, (State.addReason_fields _ _ _ _).2.1]
  show x ∈ (s.iqNoted g e cause detail w1 w2).events
  rw [State.iqNoted, State.raise_events, hcapture]
  exact List.mem_append_left _ h

theorem State.iqFault_reason (h : (s.job e.slot).gen = e.gen) :
    { status := st, fault := true, stall := g, idx := e.idx, tok := tok } ∈
      ((s.iqFault g e cause detail w1 w2 st tok).job e.slot).reasons := by
  have hjob : ((s.iqNoted g e cause detail w1 w2).modStall g fun x => { x with faulted := (e.slot, e.gen) :: x.faulted }).job e.slot =
      s.job e.slot := State.job_congr e.slot (by simp [State.iqNoted])
  rw [State.iqFault_eq]
  exact State.mem_addReason _ _ (by rw [hjob, h])

end

/-! ### Reads of a core memory -/

section
variable {s t : State} (hmem : t.mem = s.mem) (htag : t.memTag = s.memTag)
include hmem htag

theorem State.coreVal_congr (g off w : Nat) : t.coreVal g off w = s.coreVal g off w := by
  simp only [State.coreVal, State.read, State.poisoned, hmem, htag]

theorem State.coreElem_congr (g : Nat) (f : Fmt) (row j : Nat) : t.coreElem g f row j = s.coreElem g f row j := by
  simp only [State.coreElem, State.coreVal_congr hmem htag]

theorem State.weightSet_congr (g : Nat) (d : PassDesc) (p : Nat) : t.weightSet g d p = s.weightSet g d p := by
  simp only [State.weightSet, State.weightRows, State.weightScales, State.coreElem_congr hmem htag, State.coreVal_congr hmem htag]

end

/-- A weight of a set: the element in the operand's bits, or zero past K. -/
theorem State.weightSet_row (s : State) (g : Nat) (d : PassDesc) (p : Nat) {k n : Nat} (hk : k < 64) (hn : n < d.n) :
    ((s.weightSet g d p).rows.getD k []).getD n {} =
      if 64 * p + k < d.k then
        { s.coreElem g d.sfmt (d.wBase + (64 * p + k) * d.wStride) n with
          v := (expand d.sfmt (s.coreElem g d.sfmt (d.wBase + (64 * p + k) * d.wStride) n).v).2 }
      else {} := by
  simp [State.weightSet, State.weightRows, hk, hn]

theorem State.weightRows_length (s : State) (g : Nat) (d : PassDesc) (p : Nat) : (s.weightRows g d p).length = 64 := by
  simp [State.weightRows]

/-! ### The checks of a descriptor -/

/-- The check that fails first is one of the list. -/
theorem mem_of_firstFail {l : List (Nat × Bool × Status)} {n : Nat} {st : Status} (h : firstFail l = some (n, st)) :
    n ∈ l.map Prod.fst := by
  fun_induction firstFail l with
  | case1 => exact absurd h nofun
  | case2 m st' l =>
    injection h with h
    injection h with hm
    simp [hm]
  | case3 m st' l ih => exact List.mem_cons_of_mem _ (ih h)

/-- The number of a check that fails is one of the ten of R97. -/
theorem PassDesc.firstFail_le {d : PassDesc} {n : Nat} {st : Status} (h : firstFail d.checks = some (n, st)) : n ≤ 10 := by
  have hnumbers : d.checks.map Prod.fst = [1, 2, 3, 4, 5, 6, 7, 8, 9, 10] := rfl
  have hmem := mem_of_firstFail h
  rw [hnumbers] at hmem
  exact (by decide : ∀ x ∈ [1, 2, 3, 4, 5, 6, 7, 8, 9, 10], x ≤ 10) n hmem

/-! ### What an accepted MPASS starts -/

/-- The running maxima after an MPASS has cleared those that its descriptor names. -/
def State.clearMaxima (s : State) (g : Nat) (d : PassDesc) : State :=
  if d.ccw.amaxClr ∧ ¬ (d.k = 0 ∧ d.wsup = true) then each (List.range 4) s fun s a => s.setReg .stlAmaxArr g a 0 else s

theorem State.clearMaxima_fields (s : State) (g : Nat) (d : PassDesc) : (s.clearMaxima g d).mem = s.mem ∧
    (s.clearMaxima g d).memTag = s.memTag ∧ (s.clearMaxima g d).stalls = s.stalls := by
  unfold State.clearMaxima
  split <;> exact ⟨rfl, rfl, rfl⟩

/-- An array of m output rows as an MPASS of k weight rows starts it, with its first weight set. -/
def ArrayUnit.start (k : Nat) (w : WSet) (m : Nat) : ArrayUnit :=
  if m = 0 ∨ k = 0 then { m := m } else { m := m, cur := w.rows, nxt := List.replicate 64 none, cur0 := w.scale0, cur1 := w.scale1 }

/-- The run that an MPASS starts. -/
def State.passStart (s : State) (g : Nat) (e : QEntry) (d : PassDesc) : MRun :=
  { e := e, off := e.desc, d := d
    bias := if d.biasEn ∧ ¬ (d.k = 0 ∧ d.wsup = true) then (List.range d.n).map fun n => s.coreVal g (d.bBase + 4 * n) 4 else []
    staging := none, next := 1, units := d.m.map (ArrayUnit.start d.k (s.weightSet g d 0)) }

theorem State.passStart_congr {s t : State} (hmem : t.mem = s.mem) (htag : t.memTag = s.memTag) (g : Nat) (e : QEntry) (d : PassDesc) :
    t.passStart g e d = s.passStart g e d := by
  simp only [State.passStart, State.weightSet_congr hmem htag, State.coreVal_congr hmem htag]

@[simp] theorem ArrayUnit.start_m (k : Nat) (w : WSet) (m : Nat) : (ArrayUnit.start k w m).m = m := by
  unfold ArrayUnit.start
  split <;> rfl

theorem ArrayUnit.start_of_active {k m : Nat} (w : WSet) (hm : m ≠ 0) (hk : k ≠ 0) : ArrayUnit.start k w m =
    { m := m, cur := w.rows, nxt := List.replicate 64 none, cur0 := w.scale0, cur1 := w.scale1 } := if_neg (by simp [hm, hk])

/-- An array starts before its first pass, with nothing summed. -/
theorem ArrayUnit.start_fresh (k : Nat) (w : WSet) (m : Nat) : (ArrayUnit.start k w m).acc = [] ∧ (ArrayUnit.start k w m).sums = [] ∧
    (ArrayUnit.start k w m).pass = 0 ∧ (ArrayUnit.start k w m).front = 0 ∧ (ArrayUnit.start k w m).epi = 0 ∧
    (ArrayUnit.start k w m).ahead = false := by
  unfold ArrayUnit.start
  split <;> exact ⟨rfl, rfl, rfl, rfl, rfl, rfl⟩

/-- The state after an MPASS whose descriptor passes the checks. -/
def State.passStarted (s : State) (g : Nat) (e : QEntry) (d : PassDesc) : State :=
  (((s.issue g e true).clearMaxima g d).setMRun g (s.passStart g e d)).settle g

/-- What the array unit makes of an MPASS of which check n fails, before the fault of the instruction queue. -/
def State.passNoted (s : State) (g : Nat) (e : QEntry) (info n : Nat) : State :=
  ((s.issue g e false).capture .stlArrEvent 0 .stlArrFault g info).raise .stlArrEvent g 0 0x110 g n e.desc

/-- The state after an MPASS of which check n fails, with its status. -/
def State.passRefused (s : State) (g : Nat) (e : QEntry) (info n : Nat) (st : Status) : State :=
  ((s.passNoted g e info n).iqFault g e 1 e.desc 0 0 st).settle g

section
variable {g : StallId} {s : State} {e : QEntry} {d : PassDesc} (hhead : s.headIs g .mpass = some e) (hrun : (s.stall g).mrun = none)
  (hmoving : (s.stall g).moving = false) (hd : d = PassDesc.of (s.read (coreAddr g e.desc) 64))
include hhead hrun hmoving hd

theorem exec_mpass_starts (hpass : firstFail d.checks = none) : exec (.mpass g) s = .next (s.passStarted g e d) := by
  subst hd
  show execMpass g s = _
  obtain ⟨hmem, htag, -⟩ := (s.issue g e true).clearMaxima_fields g (PassDesc.of (s.read (coreAddr g e.desc) 64))
  have hstart := State.passStart_congr (s := s) hmem htag g e (PassDesc.of (s.read (coreAddr g e.desc) 64))
  rw [State.passStarted, ← hstart]
  simp only [execMpass, hhead, hrun, hmoving, hpass, Option.isSome_none, Bool.or_false, Bool.false_eq_true, if_false]
  rfl

theorem exec_mpass_refuses {n : Nat} {st : Status} (hfail : firstFail d.checks = some (n, st)) :
    ∃ info, exec (.mpass g) s = .next (s.passRefused g e info n st) := by
  subst hd
  show ∃ info, execMpass g s = _
  simp only [execMpass, hhead, hrun, hmoving, hfail, Option.isSome_none, Bool.or_false, Bool.false_eq_true, if_false]
  exact ⟨_, rfl⟩

end

/-! ### What the two outcomes leave -/

theorem State.passStarted_sameBut (s : State) (g : Nat) (e : QEntry) (d : PassDesc) : SameBut [.regs, .stalls] s (s.passStarted g e d) := by
  refine State.Safe.sameBut (og := none) (State.settle_safe _ _ _ rfl (.inl rfl) (State.setMRun_safe _ _ _ rfl (.inl rfl) ?_))
  have hissue := State.issue_safe s g e true (ps := Part.mask [.regs, .stalls]) (og := none) rfl (.inl rfl) (.refl s)
  unfold State.clearMaxima
  split
  · exact each_safe _ _ _ (fun y a hy => State.setReg_safe y _ _ _ _ rfl hy) hissue
  · exact hissue

theorem State.passStarted_stall_same (s : State) (g : Nat) (e : QEntry) (d : PassDesc) : (s.passStarted g e d).stall g =
    { (s.stall g).pop e with
      inflight := ((s.stall g).pop e).inflight ++ [{ e := e, seq := (s.stall g).issues }]
      mrun := some (s.passStart g e d), watch := ((s.passStarted g e d).stall g).watch } := by
  have hstall : ((s.issue g e true).clearMaxima g d).stall g = (s.issue g e true).stall g :=
    State.stall_congr g (State.clearMaxima_fields _ g d).2.2
  rw [State.issue_stall_kept] at hstall
  conv_lhs => rw [State.passStarted, State.settle_stall_same, State.setMRun, State.stall_modStall_same, hstall]
  rfl

/-- The registers that an MPASS writes when it issues or faults are none of the running maxima. -/
theorem amaxArr_off_ne {r : Rn} (g : Nat) {a : Nat} (ha : a < 4)
    (hr : r ∈ [Rn.stlIqIssued, .stlArrFault, .stlArrEvent, .stlIqFault, .stlIqEvent]) :
    (RegAt.mk .stlAmaxArr g a 0).off ≠ (RegAt.mk r g 0 0).off := by
  simp only [List.mem_cons, List.not_mem_nil, or_false] at hr
  obtain rfl | rfl | rfl | rfl | rfl := hr <;> simp [RegAt.off, Rn.spec] <;> omega

theorem amaxArr_off_injective (g : Nat) {a b : Nat} (h : (RegAt.mk .stlAmaxArr g a 0).off = (RegAt.mk .stlAmaxArr g b 0).off) : a = b := by
  simp only [RegAt.off, Rn.spec] at h
  omega

theorem State.reg_each_clear (s : State) (g : Nat) (l : List Nat) (a : Nat) :
    (each l s fun s a => s.setReg .stlAmaxArr g a 0).reg .stlAmaxArr g a = if a ∈ l then 0 else s.reg .stlAmaxArr g a := by
  induction l generalizing s with
  | nil => rfl
  | cons b l ih =>
    rw [each, List.foldl_cons, ← each, ih]
    obtain rfl | hne := eq_or_ne a b
    · simp [State.reg_setReg_same]
    · simp [hne, State.reg_setReg_ne s 0 fun h => hne (amaxArr_off_injective g h)]

theorem State.passStarted_maxima (s : State) (g : Nat) (e : QEntry) (d : PassDesc) {a : Nat} (ha : a < 4) :
    (s.passStarted g e d).reg .stlAmaxArr g a =
      if d.ccw.amaxClr = true ∧ ¬ (d.k = 0 ∧ d.wsup = true) then 0 else s.reg .stlAmaxArr g a := by
  have hissue : (s.issue g e true).reg .stlAmaxArr g a = s.reg .stlAmaxArr g a :=
    s.issue_regsBut g e true _ (by simpa using amaxArr_off_ne g ha (by simp))
  show ((s.issue g e true).clearMaxima g d).reg .stlAmaxArr g a = _
  unfold State.clearMaxima
  split
  · rw [State.reg_each_clear, if_pos (List.mem_range.mpr ha)]
  · exact hissue

section
variable (s : State) (g : Nat) (e : QEntry) (info n : Nat) (st : Status)

theorem State.passNoted_regsBut :
    RegsBut ([Rn.stlIqIssued, .stlArrFault, .stlArrEvent].map fun r => (RegAt.mk r g 0 0).off) s (s.passNoted g e info n) :=
  (((s.issue_regsBut g e false).mono (by simp)).trans ((State.capture_regsBut _ _ _ _ _ _).mono (by simp))).trans
    ((State.raise_regsBut _ _ _ _ _ _ _ _ _).mono (by simp))

/-- Past the array unit, a refused MPASS writes the fault registers of the instruction queue alone. -/
theorem State.passRefused_regsBut :
    RegsBut [(RegAt.mk .stlIqFault g 0 0).off, (RegAt.mk .stlIqEvent g 0 0).off] (s.passNoted g e info n) (s.passRefused g e info n st) :=
  fun q hq => (State.settle_regAt _ g q).trans (State.iqFault_regsBut _ _ _ _ _ _ _ _ _ q hq)

theorem State.passRefused_maxima {a : Nat} (ha : a < 4) :
    (s.passRefused g e info n st).reg .stlAmaxArr g a = s.reg .stlAmaxArr g a := by
  have off {r : Rn} := amaxArr_off_ne (r := r) g ha
  exact (s.passRefused_regsBut g e info n st _ (by simp [off])).trans (s.passNoted_regsBut g e info n _ (by simp [off]))

theorem State.passRefused_event : bit ((s.passRefused g e info n st).reg .stlArrEvent g) 0 = true := by
  have hkept : (s.passRefused g e info n st).reg .stlArrEvent g = (s.passNoted g e info n).reg .stlArrEvent g :=
    s.passRefused_regsBut g e info n st _ (by simp [RegAt.off, Rn.spec])
  rw [hkept, State.passNoted, State.reg_raise_same, bit_evAdvance_same _ (by decide)]

theorem State.passNoted_stall_same : (s.passNoted g e info n).stall g = (s.stall g).pop e := by
  rw [← State.issue_stall_done]
  exact State.stall_congr g (by simp [State.passNoted])

theorem State.passNoted_job (k : Nat) : (s.passNoted g e info n).job k = s.job k :=
  State.job_congr k (by simp [State.passNoted, State.issue])

/-- No run of the array unit starts, and the job issues nothing more on the stall. -/
theorem State.passRefused_stall (hrun : (s.stall g).mrun = none) : ((s.passRefused g e info n st).stall g).mrun = none ∧
    (e.slot, e.gen) ∈ ((s.passRefused g e info n st).stall g).faulted := by
  rw [State.passRefused, State.settle_stall_same, State.iqFault_stall_same, State.passNoted_stall_same]
  exact ⟨(Stall.pop_mrun _ e).trans hrun, List.mem_cons_self⟩

theorem State.passRefused_record {g : StallId} (hn : n ≤ 10) :
    ∃ x ∈ (s.passRefused g e info n st).events, x.code % 1024 = 0x110 ∧ x.w0 = g.val ∧ x.w1 = n ∧ x.w2 = e.desc := by
  have hdesc : e.desc < 2 ^ 24 := bits_lt e.word 23 0
  obtain ⟨x, hx, hcode, hw0, hw1, hw2⟩ :=
    State.raise_record ((s.issue g e false).capture .stlArrEvent 0 .stlArrFault g info) .stlArrEvent g 0 0x110 g n e.desc 0
  have hmem := State.mem_events_iqFault _ g e 1 e.desc 0 0 st none hx
  rw [← State.settle_events _ g] at hmem
  refine ⟨x, hmem, by rw [hcode]; decide, ?_, ?_, ?_⟩
  · rw [hw0, Nat.mod_eq_of_lt (by omega)]
  · rw [hw1, Nat.mod_eq_of_lt (by omega)]
  · rw [hw2, Nat.mod_eq_of_lt (by omega)]

theorem State.passRefused_reason (hgen : (s.job e.slot).gen = e.gen) :
    { status := st, fault := true, stall := g, idx := e.idx } ∈ ((s.passRefused g e info n st).job e.slot).reasons := by
  rw [State.passRefused, State.settle_job]
  exact State.iqFault_reason _ _ _ _ _ _ _ _ _ (by rw [State.passNoted_job, hgen])

end

/-! ### The load path (R100) -/

theorem State.setMRun_stall_same (s : State) (g : Nat) (r : MRun) : (s.setMRun g r).stall g = { s.stall g with mrun := some r } :=
  State.stall_modStall_same _ _ _

section
variable {g : StallId} {s : State} {r : MRun} (hrun : (s.stall g).mrun = some r)
include hrun

theorem exec_weightSetRead (hstaging : r.staging = none) (hnext : r.next < r.d.passes) : exec (.weightSetRead g) s =
    .next (s.setMRun g { r with staging := some (s.weightSet g r.d r.next), next := r.next + 1 }) := by
  show execWeightSetRead g s = _
  simp [execWeightSetRead, hrun, hstaging, hnext]

theorem exec_stagedSetMove {w : WSet} (hstaging : r.staging = some w) : exec (.stagedSetMove g) s =
    if r.units.all (fun u => u.m == 0 || u.nxtEmpty) then
      .next (s.setMRun g { r with staging := none, units := r.units.map fun u => if u.m = 0 then u else u.load w })
    else .next s := by
  show execStagedSetMove g s = _
  simp only [execStagedSetMove, hrun, hstaging]

end

/-- A staged set reaches the NXT registers of an active array, and nothing of an idle one. -/
theorem ArrayUnit.load_if_active (u : ArrayUnit) (w : WSet) : let v := if u.m = 0 then u else u.load w
    v.cur = u.cur ∧ v.acc = u.acc ∧ (u.m = 0 → v = u) ∧
      (u.m ≠ 0 → v.nxt = w.rows.map some ∧ v.nxt0 = some w.scale0 ∧ v.nxt1 = some w.scale1) := by
  dsimp only
  split
  · exact ⟨rfl, rfl, fun _ => rfl, fun h => absurd ‹u.m = 0› h⟩
  · exact ⟨rfl, rfl, fun h => absurd h ‹u.m ≠ 0›, fun _ => ⟨rfl, rfl, rfl⟩⟩

end Sys2Proof.Machine

namespace Sys2Proof.Proofs

open Sys2Proof.Machine

/-- Settles O22: the state after MPASS is passStarted or passRefused, as the checks say, and every part of either is known by its
last writer. -/
theorem passesStartWithACheckedDescriptor : Obligations.PassesStartWithACheckedDescriptor := by
  unfold Obligations.PassesStartWithACheckedDescriptor
  intro g s
  refine ⟨fun e d hhead hrun hmoving hd => ⟨fun hpass => ?starts, fun n st hfail => ?refuses⟩,
    fun r hrun hstaging hnext => exec_weightSetRead hrun hstaging hnext, fun d p k n hk hn => s.weightSet_row g d p hk hn,
    fun r w hrun hstaging => ⟨fun hempty => ?moves, fun hfull => ?waits⟩⟩
  case starts =>
    refine ⟨_, exec_mpass_starts hhead hrun hmoving hd hpass, s.passStarted_sameBut g e d,
      ⟨s.passStart g e d, rfl, rfl, rfl, rfl, ?rows, fun u hu => ?unit, s.passStarted_stall_same g e d⟩,
      fun a ha => s.passStarted_maxima g e d ha⟩
    case rows => simp [State.passStart, Function.comp_def]
    case unit =>
      obtain ⟨m, -, rfl⟩ := List.mem_map.mp hu
      obtain ⟨hacc, hsums, hpass, hfront, hepi, hahead⟩ := ArrayUnit.start_fresh d.k (s.weightSet g d 0) m
      refine ⟨hacc, hsums, hpass, hfront, hepi, hahead, fun hm hk => ?_⟩
      rw [ArrayUnit.start_of_active _ (by simpa using hm) hk]
      exact ⟨rfl, s.weightRows_length g d 0, List.length_replicate, by simp [ArrayUnit.nxtEmpty]⟩
  case refuses =>
    obtain ⟨info, hexec⟩ := exec_mpass_refuses hhead hrun hmoving hd hfail
    obtain ⟨hidle, hfaulted⟩ := s.passRefused_stall g e info n st hrun
    exact ⟨_, hexec, (exec_safe (c := .mpass g) rfl hexec).sameBut, hidle, hfaulted, fun a ha => s.passRefused_maxima g e info n st ha,
      s.passRefused_event g e info n st, s.passRefused_record e info n st (PassDesc.firstFail_le hfail),
      fun hgen => ⟨_, s.passRefused_reason g e info n st hgen, rfl, rfl, rfl, rfl⟩⟩
  case moves =>
    have hexec := exec_stagedSetMove hrun hstaging
    rw [if_pos hempty] at hexec
    refine ⟨_, hexec, (exec_safe (c := .stagedSetMove g) rfl hexec).sameBut, _, s.setMRun_stall_same g _, List.length_map _,
      fun a u hu => ⟨_, by rw [List.getElem?_map, hu]; rfl, u.load_if_active w⟩⟩
  case waits => rw [exec_stagedSetMove hrun hstaging, if_neg (by simp [hfull])]

end Sys2Proof.Proofs

/-! PROOF. Why the statement on fronts and epilogues fails: a counter past its top that nothing counts (R50, R110). -/

namespace Sys2Proof.Machine

/-- A pass over no weight rows, with one output row in array 0: its fronts have left, and the epilogue has taken that row. -/
def drainedRun : MRun :=
  { e := ⟨0x10 * 2 ^ 120, 0, 0, 0⟩, off := 0, d := { PassDesc.of [] with n := 1, m := [1, 0, 0, 0] }, bias := [], staging := none
    next := 1, units := [{ m := 1, epi := 1 }, { m := 0 }, { m := 0 }, { m := 0 }] }

/-- Stall 0 runs that pass, and its STL_ARR_POISON holds 2^32, which has no place in its 32 bits. No run from reset leads here, since
the counter stays at its all-ones value (R50); the statement is about every state and does not ask for a register within its bits. -/
def poisonPastTop : State :=
  { State.reset with stalls := [(0, { mrun := some drainedRun })] }.setReg .stlArrPoison 0 0 (2 ^ 32)

theorem poisonPastTop_poison : poisonPastTop.reg .stlArrPoison = 2 ^ 32 := State.reg_setReg_same _ .stlArrPoison 0 0 _

/-- Row 1 is past M: the epilogue goes on to row 2 and writes nothing. -/
theorem exec_epilogueRow_poisonPastTop : exec (.epilogueRow 0 0 1) poisonPastTop =
    .next ((poisonPastTop.setMRun 0 { drainedRun with units := drainedRun.units.set 0 { m := 1, epi := 2 } }).modStall 0
      fun st => { st with drain := true }) := rfl

end Sys2Proof.Machine

namespace Sys2Proof.Proofs

open Sys2Proof.Machine

/-- Refutes O23: its clause on EPILOGUE_ROW has STL_ARR_POISON at most 2^32 - 1 after the row, with no poisoned element counted as
well. The epilogue leaves the counter as it was when it counts none, so that in poisonPastTop it stays at 2^32. -/
theorem not_frontsAndEpiloguesRun : ¬ Obligations.FrontsAndEpiloguesRun := by
  unfold Obligations.FrontsAndEpiloguesRun
  intro h
  obtain ⟨-, hrows⟩ := h 0 0 1 poisonPastTop
  obtain ⟨-, -, -, hepilogue, -⟩ := hrows drainedRun { m := 1, epi := 1 } rfl rfl
  obtain ⟨-, -, t, hexec, -, -, -, -, hpoison, -⟩ :=
    hepilogue _ _ (by decide) rfl (by decide) (by decide) (.inl (by decide)) rfl rfl
  rw [exec_epilogueRow_poisonPastTop] at hexec
  injection hexec with ht
  have hkept : t.reg .stlArrPoison = 2 ^ 32 := ht ▸ poisonPastTop_poison
  have htop : t.reg .stlArrPoison ≤ 2 ^ 32 - 1 := hpoison.trans_le (Nat.min_le_left _ _)
  rw [hkept] at htop
  exact absurd htop (by decide)

end Sys2Proof.Proofs

/-! PROOF. What the units around a control core leave of the core and of its registers (R39). -/

namespace Sys2Proof.Machine

/-! ### Registers of a control core -/

/-- A place in the window of a control core: each stall's 4 KiB hold STL_, CCO_, VEC_ and STR_ in turn, 1 KiB each (R39). -/
def RegAt.inCore (q : RegAt) : Prop := q.off % 4096 / 1024 = 1

/-- The registers that stream engines, converters, stacks, blocks, tallies and queues write stand outside. -/
theorem outside_inCore {r : Rn} (n i : Nat)
    (hr : r ∈ [Rn.stlNumEvent, .stlNumOvf, .stlNumInv, .stlIqIssued, .stlIqEvent, .stlIqFault, .stlTokProd, .stlTokFabdrop, .strEvent,
      .strFaultInfo, .strFaultCoord, .strFaultDva, .strFaults, .strPoison, .strTlbMiss, .strWalks, .tlyEvent, .tlyForeignInfo,
      .hbmEvent, .hbmErrInfo, .hbmCe, .hbmUe, .bayEvent, .fabEvent, .fabQerrInfo, .fabQerr, .fabPortDrop, .fabPortBeats]) :
    ¬ (RegAt.mk r n i 0).inCore := by
  fin_cases hr <;> simp only [RegAt.inCore, RegAt.off, Rn.spec, Blk.base, bayWindow] <;> omega

theorem hstCacheLines_outside : ¬ (RegAt.mk .hstCacheLines 0 0 0).inCore := by
  unfold RegAt.inCore
  decide

/-- So do the registers that each of the four stream engines has. -/
theorem engine_outside_inCore {r : Rn} (n : Nat) {k : Nat} (hk : k < 4) (hr : r ∈ [Rn.stlAmaxStr, .strLines]) :
    ¬ (RegAt.mk r n k 0).inCore := by
  fin_cases hr <;> simp only [RegAt.inCore, RegAt.off, Rn.spec, Blk.base, bayWindow] <;> omega

theorem cco_inCore {r : Rn} (n : Nat) (hr : r ∈ [Rn.ccoEvent, .ccoFault, .ccoIssued, .ccoBusconf, .ccoAsDrop]) :
    (RegAt.mk r n 0 0).inCore := by
  fin_cases hr <;> simp only [RegAt.inCore, RegAt.off, Rn.spec, Blk.base, bayWindow] <;> omega

/-! ### Steps beside a control core -/

/-- What stands of a control core beside the elements that wait in its ports. -/
def Core.sansPorts (c : Core) : Core := { c with ports := [] }

/-- A step beside the control core of stall g: of the core it may take elements of ports, and it writes no register of a core. -/
structure State.Aside (g : Nat) (s t : State) : Prop where
  core : (t.stall g).core.sansPorts = (s.stall g).core.sansPorts
  regs : ∀ q : RegAt, q.inCore → t.regAt q = s.regAt q

section
variable {x s t : State} {g : Nat}

theorem State.Aside.refl (g : Nat) (s : State) : s.Aside g s := ⟨rfl, fun _ _ => rfl⟩

theorem State.Aside.trans (h : x.Aside g s) (h' : s.Aside g t) : x.Aside g t :=
  ⟨h'.core.trans h.core, fun q hq => (h'.regs q hq).trans (h.regs q hq)⟩

/-- A change of other parts than stalls and registers. -/
theorem State.Aside.same (h : x.Aside g s) (hstalls : t.stalls = s.stalls) (hregs : t.regs = s.regs) : x.Aside g t :=
  h.trans ⟨by rw [State.stall_congr g hstalls], fun q _ => State.regAt_congr hregs q⟩

/-- A step whose law names neither part. -/
theorem State.Aside.of_safe {ps : Nat} {og : Option Nat} (h : x.Aside g s) (hsafe : s.Safe ps og t) (hstalls : ps.testBit 14 = false)
    (hregs : ps.testBit 2 = false) : x.Aside g t :=
  h.same (hsafe.part .stalls hstalls) (hsafe.part .regs hregs)

theorem State.setReg_aside {r : Rn} {n i : Nat} (v : Nat) (hr : ¬ (RegAt.mk r n i 0).inCore) (h : x.Aside g s) :
    x.Aside g (s.setReg r n i v) :=
  h.trans ⟨rfl, fun q hq => s.setReg_regsBut r n i v q fun hmem => hr (by
    rw [List.mem_singleton] at hmem
    rwa [RegAt.inCore, ← hmem])⟩

theorem State.count_aside {r : Rn} {n i : Nat} (k : Nat) (hr : ¬ (RegAt.mk r n i 0).inCore) (h : x.Aside g s) :
    x.Aside g (s.count r n k i) := State.setReg_aside _ hr h

theorem State.raise_aside {r : Rn} {n i : Nat} (k num w0 w1 w2 : Nat) (hr : ¬ (RegAt.mk r n i 0).inCore) (h : x.Aside g s) :
    x.Aside g (s.raise r n k num w0 w1 w2 i) :=
  h.trans ⟨by rw [State.stall_congr (s := s) g (by simp)], fun q hq => (s.regAt_raise r n k num w0 w1 w2 i q).trans
    ((State.setReg_aside _ hr (.refl g s)).regs q hq)⟩

theorem State.raiseOnce_aside {r : Rn} {n : Nat} (k num w0 w1 w2 : Nat) (hr : ¬ (RegAt.mk r n 0 0).inCore) (h : x.Aside g s) :
    x.Aside g (s.raiseOnce r n k num w0 w1 w2) := by
  unfold State.raiseOnce
  split
  · exact h
  · exact State.raise_aside _ _ _ _ _ hr h

theorem State.capture_aside {info : Rn} {n : Nat} (ev : Rn) (k v : Nat) (hr : ¬ (RegAt.mk info n 0 0).inCore) (h : x.Aside g s) :
    x.Aside g (s.capture ev k info n v) := by
  unfold State.capture
  split
  · exact h
  · exact State.setReg_aside v hr h

theorem State.stall_modStall_ne (s : State) {g h : Nat} (f : Stall → Stall) (hne : h ≠ g) : (s.modStall g f).stall h = s.stall h :=
  s.stall_setStall_ne _ hne

theorem State.modStall_aside {y : Nat} {f : Stall → Stall} (hf : (f (s.stall y)).core.sansPorts = (s.stall y).core.sansPorts)
    (h : x.Aside g s) : x.Aside g (s.modStall y f) := by
  refine h.trans ⟨?_, fun _ _ => rfl⟩
  obtain rfl | hne := eq_or_ne g y
  · rw [State.stall_modStall_same, hf]
  · rw [State.stall_modStall_ne _ _ hne]

theorem each_aside {α : Type} (l : List α) {f : State → α → State} (hf : ∀ y, ∀ a ∈ l, x.Aside g y → x.Aside g (f y a))
    (h : x.Aside g s) : x.Aside g (each l s f) := each_induct l hf h

end

end Sys2Proof.Machine

/-! PROOF. Job begin and commit on a stall (R117, R118, R148, R180, R184, R222, R227). -/

namespace Sys2Proof.Machine

/-! ### Tokens that leave a stall, and the rules of issue and watch -/

/-- A token that is handed to delivery changes at most the beats that wait at the port of its consumer's stall. -/
theorem State.tokenOut_stall (s : State) (g slot gen : Nat) (t : TokRec) (chan h : Nat) : (s.tokenOut g slot gen t chan).stall h =
    { s.stall h with out := ((s.tokenOut g slot gen t chan).stall h).out } := by
  unfold State.tokenOut
  dsimp only
  split
  · obtain rfl | hne := eq_or_ne h t.cstall
    · rw [State.stall_modStall_same]
    · rw [State.stall_modStall_ne _ _ hne]
  · rfl
  · rfl

theorem State.tokenOut_regs (s : State) (g slot gen : Nat) (t : TokRec) (chan : Nat) : (s.tokenOut g slot gen t chan).regs = s.regs := by
  unfold State.tokenOut
  dsimp only
  split <;> rfl

theorem State.produce_stall (s : State) (g slot gen name chan h : Nat) : (s.produce g slot gen name chan).stall h =
    { s.stall h with out := ((s.produce g slot gen name chan).stall h).out } := by
  unfold State.produce
  dsimp only
  split
  · rfl
  · exact State.tokenOut_stall _ _ _ _ _ _ _

/-- The watch keeps what an abandonment froze. -/
theorem Stall.watchStep_frozen (st : Stall) (now : Nat) (activity quiet : Bool) :
    (st.watchStep now activity quiet).watch.frozen = st.watch.frozen := by
  unfold Stall.watchStep
  dsimp only
  repeat' split
  all_goals rfl

theorem State.settle_frozen (s : State) (g : Nat) (activity : Bool) :
    ((s.settle g activity).stall g).watch.frozen = (s.stall g).watch.frozen := by
  rw [State.settle, State.stall_modStall_same, Stall.watchStep_frozen]

theorem State.settle_stall (s : State) (g : Nat) (activity : Bool) :
    (s.settle g activity).stall g = { s.stall g with watch := ((s.settle g activity).stall g).watch } := by
  rw [State.settle, State.stall_modStall_same]
  exact Stall.watchStep_eq _ _ _ _

theorem State.settle_sameBut (s : State) (g : Nat) (activity : Bool) : SameBut [.stalls] s (s.settle g activity) :=
  (State.settle_safe (ps := Part.mask [.stalls]) (og := none) s g activity rfl (.inl rfl) (.refl s)).sameBut

theorem Stall.pop_inflight (st : Stall) (e : QEntry) : (st.pop e).inflight = st.inflight := by
  unfold Stall.pop
  dsimp only
  repeat' split
  all_goals rfl

/-! ### JBEGIN -/

/-- The state in which the control core of a job that begins has started, before its token is produced. -/
def State.coreStarted (s : State) (g : Nat) (e : QEntry) : State :=
  (s.issue g e false).modStall g fun st =>
    { st with run := some (e.slot, e.gen), core := Core.start e.word (s.reg .ccoCtl g), vt := [], vtTag := [], watch := {} }

/-- The state after the JBEGIN at the head. -/
def State.jobBegun (s : State) (g : Nat) (e : QEntry) : State :=
  (if e.prEn then (s.coreStarted g e).produce g e.slot e.gen e.prTok 0 else s.coreStarted g e).settle g

theorem exec_jbegin {g : StallId} {s : State} {e : QEntry} (hhead : s.headIs g .jbegin = some e) :
    exec (.jbegin g) s = .next (s.jobBegun g e) := by
  show execJbegin g s = _
  simp only [execJbegin, hhead]
  rfl

theorem State.coreStarted_stall (s : State) (g : Nat) (e : QEntry) : (s.coreStarted g e).stall g = { (s.stall g).pop e with
    run := some (e.slot, e.gen), core := Core.start e.word (s.reg .ccoCtl g), vt := [], vtTag := [], watch := {} } := by
  rw [State.coreStarted, State.stall_modStall_same, State.issue_stall_done]

theorem State.jobBegun_stall (s : State) (g : Nat) (e : QEntry) : ∃ out watch, watch.frozen = none ∧
    (s.jobBegun g e).stall g = { (s.stall g).pop e with
      run := some (e.slot, e.gen), core := Core.start e.word (s.reg .ccoCtl g), vt := [], vtTag := [], watch := watch, out := out } := by
  have hfrozen := State.settle_frozen (if e.prEn then (s.coreStarted g e).produce g e.slot e.gen e.prTok 0 else s.coreStarted g e) g true
  refine ⟨((s.jobBegun g e).stall g).out, ((s.jobBegun g e).stall g).watch, hfrozen.trans ?_, ?_⟩
  · split
    · rw [State.produce_stall, State.coreStarted_stall]
    · rw [State.coreStarted_stall]
  · rw [State.jobBegun, State.settle_stall]
    split
    · rw [State.produce_stall, State.coreStarted_stall]
    · rw [State.coreStarted_stall]

theorem State.jobBegun_tokens (s : State) (g : Nat) {e : QEntry} (h : e.prEn = false) : (s.jobBegun g e).tokens = s.tokens := by
  simp [State.jobBegun, h, State.coreStarted, State.issue, State.settle]

/-- A core that starts holds zero in every name and accumulator. -/
theorem Core.start_gVal (word ctl n : Nat) : (Core.start word ctl).gVal n = {} := rfl

theorem Core.start_acc (word ctl i : Nat) : (Core.start word ctl).acc.getD i (0, false) = (0, false) := by
  match i with
  | 0 | 1 | 2 | 3 => rfl
  | i + 4 => rfl

/-! ### JCOMMIT -/

/-- One completion report is handed to its bay. -/
def State.sendReport (s : State) (r : Nat × Report) : State := { s with reportQ := Tab.upd [] s.reportQ r.1 (· ++ [r.2]) }

theorem State.sendReport_get (s : State) (r : Nat × Report) (b : Nat) : Tab.get [] (s.sendReport r).reportQ b =
    Tab.get [] s.reportQ b ++ if r.1 = b then [r.2] else [] := by
  split
  · subst b
    exact Tab.get_upd_same [] s.reportQ r.1 (· ++ [r.2])
  · rw [List.append_nil]
    exact Tab.get_upd_ne [] s.reportQ (· ++ [r.2]) (Ne.symm ‹_›)

theorem State.sendReports_get (rs : List (Nat × Report)) (s : State) (b : Nat) : Tab.get [] (each rs s State.sendReport).reportQ b =
    Tab.get [] s.reportQ b ++ (rs.filter fun x => x.1 == b).map Prod.snd := by
  induction rs generalizing s with
  | nil => simp [each]
  | cons r rs ih =>
    rw [each, List.foldl_cons, ← each, ih, State.sendReport_get]
    by_cases h : r.1 = b <;> simp [h]

theorem State.sendReports_stalls (rs : List (Nat × Report)) (s : State) : (each rs s State.sendReport).stalls = s.stalls :=
  each_induct (P := fun y => y.stalls = s.stalls) rs (fun _ _ _ h => h) rfl

/-- The state after the JCOMMIT at the head, with its reports sent. -/
def State.jobCommitted (s : State) (g : Nat) (e : QEntry) : State :=
  (each (s.reportsOf g e.slot e.gen) ((s.issue g e false).modStall g fun st =>
    { st with commit := some (e, (s.reportsOf g e.slot e.gen).length) }) State.sendReport).settle g

section
variable {g : StallId} {s : State} {e : QEntry} (hhead : s.headIs g .jcommit = some e)
include hhead

theorem exec_jcommit (hidle : (s.stall g).inflight = []) (hhalted : (s.stall g).core.halted = true) :
    exec (.jcommit g) s = .next (s.jobCommitted g e) := by
  show execJcommit g s = _
  simp only [execJcommit, hhead, hidle, hhalted]
  rfl

theorem exec_jcommit_waits (h : (s.stall g).inflight ≠ [] ∨ (s.stall g).core.halted = false) : exec (.jcommit g) s = .next s := by
  show execJcommit g s = _
  obtain h | h := h <;> simp [execJcommit, hhead, h]

end

theorem State.jobCommitted_stall (s : State) (g : Nat) (e : QEntry) : (s.jobCommitted g e).stall g = { (s.stall g).pop e with
    commit := some (e, (s.reportsOf g e.slot e.gen).length), watch := ((s.jobCommitted g e).stall g).watch } := by
  conv_lhs => rw [State.jobCommitted, State.settle_stall, State.stall_congr g (State.sendReports_stalls _ _),
    State.stall_modStall_same, State.issue_stall_done]
  rfl

theorem State.jobCommitted_reports (s : State) (g : Nat) (e : QEntry) (b : Nat) : Tab.get [] (s.jobCommitted g e).reportQ b =
    Tab.get [] s.reportQ b ++ ((s.reportsOf g e.slot e.gen).filter fun x => x.1 == b).map Prod.snd :=
  State.sendReports_get (s.reportsOf g e.slot e.gen) _ b

/-- One report for each map slot with OK answers whose cell is in a bay in service. -/
theorem State.reportsOf_eq {s : State} {g slot gen : Nat} {i : Inst}
    (h : (s.stall g).insts.find? (fun x => x.slot == slot && x.gen == gen) = some i) : s.reportsOf g slot gen =
      (i.map.filter fun m => m.count != 0 && !s.isFenced m.bay).map fun m =>
        (m.bay, { stall := g, slot := slot, gen := gen, cell := m.cell, count := m.count, epoch := m.epoch }) := by
  simp only [State.reportsOf, h]
  induction i.map with
  | nil => rfl
  | cons m l ih =>
    rw [List.filterMap_cons, ih]
    by_cases hcount : m.count = 0 <;> cases hfenced : s.isFenced m.bay <;> simp [hcount, hfenced]

/-! ### JCOMMIT_COMPLETE -/

/-- The elements that wait in port p of a stall are discarded and counted. -/
def State.dropPort (g : Nat) (ports : List (List Nat)) (s : State) (p : Nat) : State :=
  if (ports.getD p []).length = 0 then s
  else (s.count .ccoAsDrop g (ports.getD p []).length).raise .ccoEvent g 2 0x122 g p (ports.getD p []).length

/-- So are those of every port. -/
def State.dropPorts (s : State) (g : Nat) : State := each (List.range 8) s (State.dropPort g (s.stall g).core.ports)

theorem State.dropPort_asDrop (s : State) (g : Nat) (ports : List (List Nat)) (p : Nat) : (s.dropPort g ports p).reg .ccoAsDrop g =
    if (ports.getD p []).length = 0 then s.reg .ccoAsDrop g
    else min (2 ^ 32 - 1) (s.reg .ccoAsDrop g + (ports.getD p []).length) := by
  unfold State.dropPort
  split
  · rfl
  · rw [State.reg_raise_ne _ _ _ _ _ _ (by simp [RegAt.off, Rn.spec]), State.reg_count_same]
    rfl

/-- A counter that stays at its top adds up what it counts. -/
theorem State.dropPorts_each_asDrop (g : Nat) (ports : List (List Nat)) (l : List Nat) (s : State) :
    let n := (l.map fun p => (ports.getD p []).length).sum
    (each l s (State.dropPort g ports)).reg .ccoAsDrop g =
      if n = 0 then s.reg .ccoAsDrop g else min (2 ^ 32 - 1) (s.reg .ccoAsDrop g + n) := by
  induction l generalizing s with
  | nil => rfl
  | cons p l ih =>
    simp only at ih
    rw [each, List.foldl_cons, ← each, ih, State.dropPort_asDrop]
    simp only [List.map_cons, List.sum_cons]
    repeat' split
    all_goals omega

theorem sum_take_length (ports : List (List Nat)) (n : Nat) :
    ((ports.take n).map List.length).sum = ((List.range n).map fun p => (ports.getD p []).length).sum := by
  induction n generalizing ports with
  | zero => rfl
  | succ n ih =>
    rw [List.range_succ_eq_map, List.map_cons, List.sum_cons, List.map_map]
    cases ports with
    | nil => simp [Function.comp_def]
    | cons a ports =>
      rw [List.take_succ_cons, List.map_cons, List.sum_cons, ih]
      rfl

theorem replicate_nil_getD (n p : Nat) : (List.replicate n ([] : List Nat)).getD p [] = [] := by
  rw [List.getD, List.getElem?_replicate]
  split <;> rfl

/-- No port holds anything, and the run and the job's map are gone. -/
def Stall.freed (st : Stall) (e : QEntry) : Stall :=
  { st with run := none, commit := none, core := { st.core with ports := List.replicate 8 [] }
            insts := st.insts.filter fun i => !(i.slot == e.slot && i.gen == e.gen) }

/-- The job leaves its stall. -/
def State.leaveStall (s : State) (g : StallId) (e : QEntry) : State :=
  if (s.job e.slot).gen = e.gen then s.modJob e.slot fun j => { j with left := j.left.filter (· != g.val) } else s

/-- The state after the JCOMMIT_COMPLETE of an entry. -/
def State.jobFreed (s : State) (g : StallId) (e : QEntry) : State :=
  (((((s.dropPorts g).modStall g fun st => st.freed e).dropInbound g 2).leaveStall g e)).settle g

theorem exec_jcommitComplete {g : StallId} {s : State} {e : QEntry} (hcommit : (s.stall g).commit = some (e, 0))
    (hup : s.stallUp g = true) : exec (.jcommitComplete g) s = .next (s.jobFreed g e) := by
  show execJcommitComplete g s = _
  simp only [execJcommitComplete, hcommit, hup]
  rfl

theorem State.dropPort_parts (s : State) (g : Nat) (ports : List (List Nat)) (p : Nat) :
    (s.dropPort g ports p).stalls = s.stalls ∧ (s.dropPort g ports p).jobs = s.jobs := by
  unfold State.dropPort
  split <;> simp

theorem State.dropPorts_parts (s : State) (g : Nat) : (s.dropPorts g).stalls = s.stalls ∧ (s.dropPorts g).jobs = s.jobs :=
  each_induct (P := fun y => y.stalls = s.stalls ∧ y.jobs = s.jobs) _ (fun y p _ h =>
    ⟨(y.dropPort_parts g _ p).1.trans h.1, (y.dropPort_parts g _ p).2.trans h.2⟩) ⟨rfl, rfl⟩

/-- A beat that is discarded leaves stalls and jobs. -/
theorem State.beatDrop_parts (s : State) (g chan reason : Nat) (b : PBeat) :
    (s.beatDrop g chan reason b).stalls = s.stalls ∧ (s.beatDrop g chan reason b).jobs = s.jobs := by
  unfold State.beatDrop State.fabTokDrop
  dsimp only
  split <;> simp

theorem State.beatDrop_aside {x s : State} {h : Nat} (g chan reason : Nat) (b : PBeat) (hx : x.Aside h s) :
    x.Aside h (s.beatDrop g chan reason b) := by
  have hdrop := State.raiseOnce_aside 2 0x1C2 g chan reason (outside_inCore (r := .fabEvent) (g / 64) 0 (by simp))
    (State.count_aside 1 (outside_inCore (r := .fabPortDrop) (g / 64) 0 (by simp)) hx)
  unfold State.beatDrop State.fabTokDrop
  dsimp only
  split
  · exact State.raise_aside _ _ _ _ _ (outside_inCore g 0 (by simp)) (State.count_aside 1 (outside_inCore g 0 (by simp)) hdrop)
  · exact hdrop

/-- Every inbound beat is discarded: the buffers are empty, and the rest of stalls and jobs is as it was. -/
theorem State.dropInbound_parts (s : State) (g reason : Nat) :
    (s.dropInbound g reason).stall g = { s.stall g with inBuf := [] } ∧ (s.dropInbound g reason).jobs = s.jobs := by
  have hparts := each_induct (P := fun y => y.stalls = (s.modStall g fun st => { st with inBuf := [] }).stalls ∧ y.jobs = s.jobs)
    (List.range 16) (f := fun y c => each (Tab.get [] (s.stall g).inBuf c) y fun y b => y.beatDrop g c reason b)
    (fun y c _ hy => each_induct (P := fun y => y.stalls = _ ∧ y.jobs = _) _ (fun z b _ hz =>
      ⟨(z.beatDrop_parts g c reason b).1.trans hz.1, (z.beatDrop_parts g c reason b).2.trans hz.2⟩) hy) ⟨rfl, rfl⟩
  exact ⟨(State.stall_congr g hparts.1).trans (State.stall_modStall_same _ _ _), hparts.2⟩

theorem State.dropInbound_aside {x s : State} (g reason : Nat) (hx : x.Aside g s) : x.Aside g (s.dropInbound g reason) :=
  each_aside _ (fun _ c _ hy => each_aside _ (fun _ b _ hz => State.beatDrop_aside g c reason b hz) hy) (State.modStall_aside rfl hx)

theorem State.leaveStall_parts (s : State) (g : StallId) (e : QEntry) :
    (s.leaveStall g e).stalls = s.stalls ∧ (s.leaveStall g e).regs = s.regs := by
  unfold State.leaveStall
  split <;> exact ⟨rfl, rfl⟩

theorem State.jobFreed_stall (s : State) (g : StallId) (e : QEntry) : (s.jobFreed g e).stall g =
    { (s.stall g).freed e with inBuf := [], watch := ((s.jobFreed g e).stall g).watch } := by
  conv_lhs => rw [State.jobFreed, State.settle_stall, State.stall_congr g (State.leaveStall_parts _ g e).1,
    (State.dropInbound_parts _ g 2).1, State.stall_modStall_same, State.stall_congr g (s.dropPorts_parts g).1]
  rfl

theorem State.jobFreed_asDrop (s : State) (g : StallId) (e : QEntry) :
    let n := (((s.stall g).core.ports.take 8).map List.length).sum
    (s.jobFreed g e).reg .ccoAsDrop g = if n = 0 then s.reg .ccoAsDrop g else min (2 ^ 32 - 1) (s.reg .ccoAsDrop g + n) := by
  have haside := State.dropInbound_aside g 2 (.refl g ((s.dropPorts g).modStall g fun st => st.freed e))
  have hkept : (s.jobFreed g e).reg .ccoAsDrop g = (s.dropPorts g).reg .ccoAsDrop g := by
    rw [State.jobFreed, State.reg, State.settle_regAt, State.regAt_congr (State.leaveStall_parts _ g e).2,
      haside.regs _ (cco_inCore g (by simp))]
    rfl
  rw [hkept, sum_take_length]
  exact State.dropPorts_each_asDrop g _ _ s

theorem State.jobFreed_left (s : State) (g : StallId) {e : QEntry} (h : (s.job e.slot).gen = e.gen) :
    ((s.jobFreed g e).job e.slot).left = (s.job e.slot).left.filter (· != g.val) := by
  have hjob : (((s.dropPorts g).modStall g fun st => st.freed e).dropInbound g 2).job e.slot = s.job e.slot :=
    State.job_congr _ ((State.dropInbound_parts _ g 2).2.trans (s.dropPorts_parts g).2)
  rw [State.jobFreed, State.settle_job, State.leaveStall, if_pos (by rw [hjob, h]), State.job_modJob_same, hjob]

end Sys2Proof.Machine

namespace Sys2Proof.Proofs

open Sys2Proof.Machine

/-- Settles O24: the states after JBEGIN, JCOMMIT and JCOMMIT_COMPLETE are jobBegun, jobCommitted and jobFreed, whose stalls, reports,
registers and jobs are known. -/
theorem jobsBeginAndCommitOnAStall : Obligations.JobsBeginAndCommitOnAStall := by
  unfold Obligations.JobsBeginAndCommitOnAStall
  intro g s
  refine ⟨fun e hhead => ?begin, fun e hhead => ⟨fun hidle hhalted => ?commit, exec_jcommit_waits hhead⟩,
    fun slot gen i h => State.reportsOf_eq h, fun e hcommit hup => ?complete⟩
  case begin =>
    have hexec := exec_jbegin hhead
    obtain ⟨out, watch, hfrozen, hstall⟩ := s.jobBegun_stall g e
    refine ⟨_, hexec, (exec_safe (c := .jbegin g) rfl hexec).sameBut, ?_⟩
    rw [hstall]
    exact ⟨rfl, rfl, rfl, rfl, rfl, rfl, Core.start_gVal _ _, Core.start_acc _ _, fun _ => rfl, hfrozen, Stall.pop_inflight _ e, rfl,
      s.jobBegun_tokens g⟩
  case commit =>
    have hexec := exec_jcommit hhead hidle hhalted
    exact ⟨_, hexec, (exec_safe (c := .jcommit g) rfl hexec).sameBut, s.jobCommitted_stall g e, s.jobCommitted_reports g e⟩
  case complete =>
    have hexec := exec_jcommitComplete hcommit hup
    refine ⟨_, hexec, (exec_safe (c := .jcommitComplete g) rfl hexec).sameBut, ?_⟩
    rw [s.jobFreed_stall g e]
    exact ⟨rfl, rfl, rfl, fun p => replicate_nil_getD 8 p, rfl, s.jobFreed_asDrop g e, s.jobFreed_left g⟩

end Sys2Proof.Proofs

/-! PROOF. What the operations of the control core compute (R129, R131 to R134). -/

namespace Sys2Proof.Machine

/-! ### Words as operands and as results -/

/-- An operand that is a 32-bit word. -/
def Opd.word (a : Word32) : Opd := { v := a.toNat }

/-- A result that is a 32-bit word, which sets no SAT. -/
def wordResult (r : Word32) : Int × Bool := ((r.toNat : Int), false)

/-- A result that saturates to 32 bits, and sets SAT where it does. -/
def satResult (r : Int) : Int × Bool :=
  (((BitVec.ofInt 32 (max (-2 ^ 31) (min (2 ^ 31 - 1) r))).toNat : Int), decide (r < -2 ^ 31 ∨ 2 ^ 31 - 1 < r))

theorem wrap32_eq {i : Int} {r : Word32} (h : BitVec.ofInt 32 i = r) : wrap32 i = r.toNat := by
  rw [← h, BitVec.toNat_ofInt]
  rfl

/-- A result that wraps is the word that the integers give modulo 2^32. -/
theorem wrapped_eq {i : Int} {r : Word32} (h : BitVec.ofInt 32 i = r) : (wrap32 i, false) = wordResult r := by
  rw [wrap32_eq h, wordResult]

theorem ofInt_toNat (a : Word32) : BitVec.ofInt 32 a.toNat = a := by simp

theorem ofInt_two_pow (a : Word32) (n : Nat) {i : Int} (h : BitVec.ofInt 32 i = a) : BitVec.ofInt 32 (i * (2 ^ n : Nat)) = a <<< n := by
  rw [BitVec.ofInt_mul, h, BitVec.shiftLeft_eq_mul_twoPow]
  congr 1
  apply BitVec.eq_of_toNat_eq
  rw [BitVec.ofInt_natCast, BitVec.toNat_ofNat, BitVec.toNat_twoPow]

theorem saturated_eq (r : Int) : (wrap32 (clampSat 32 r).1, (clampSat 32 r).2) = satResult r := by
  have hclamp := clampSigned_eq 32 r
  have hself := clampSigned_eq_self_iff 32 r
  rw [satResult, Prod.mk.injEq]
  refine ⟨?_, ?_⟩
  · rw [wrap32_eq rfl]
    simp only [clampSat, hclamp]
  · rw [Bool.eq_iff_iff, clampSat, bne_iff_ne, decide_eq_true_iff, ne_eq, hself]
    omega

theorem toSigned_setWidth (a : Word32) : toSigned 16 a.toNat = (a.setWidth 16).toInt := by
  rw [BitVec.toInt_eq_toNat_cond, BitVec.toNat_setWidth]
  simp only [toSigned]
  split <;> split <;> omega

/-! ### Wrapping, logical and comparing operations (R131, R134) -/

section
variable (a b : Word32) (x : Slot)

theorem result_add : CoreOp.add.result (.word a) (.word b) x = wordResult (a + b) :=
  wrapped_eq (by rw [BitVec.ofInt_add]; exact congrArg₂ _ (ofInt_toNat a) (ofInt_toNat b))

theorem result_sub : CoreOp.sub.result (.word a) (.word b) x = wordResult (a - b) :=
  wrapped_eq (by
    rw [sub_eq_add_neg, BitVec.ofInt_add, BitVec.ofInt_neg, BitVec.sub_eq_add_neg]
    exact congrArg₂ (· + -·) (ofInt_toNat a) (ofInt_toNat b))

theorem result_mul : CoreOp.mul.result (.word a) (.word b) x = wordResult (a * b) :=
  wrapped_eq (by rw [BitVec.ofInt_mul]; exact congrArg₂ _ (ofInt_toNat a) (ofInt_toNat b))

theorem result_and : CoreOp.and.result (.word a) (.word b) x = wordResult (a &&& b) := by
  rw [wordResult, BitVec.toNat_and]
  rfl

theorem result_or : CoreOp.or.result (.word a) (.word b) x = wordResult (a ||| b) := by
  rw [wordResult, BitVec.toNat_or]
  rfl

theorem result_xor : CoreOp.xor.result (.word a) (.word b) x = wordResult (a ^^^ b) := by
  rw [wordResult, BitVec.toNat_xor]
  rfl

theorem result_shl : CoreOp.shl.result (.word a) (.word b) x = wordResult (a <<< (b.toNat % 32)) :=
  wrapped_eq (by rw [Nat.cast_mul]; exact ofInt_two_pow a (b.toNat % 32) (ofInt_toNat a))

theorem result_shr : CoreOp.shr.result (.word a) (.word b) x = wordResult (a >>> (b.toNat % 32)) := by
  rw [wordResult, BitVec.toNat_ushiftRight, Nat.shiftRight_eq_div_pow]
  rfl

theorem result_sra : CoreOp.sra.result (.word a) (.word b) x = wordResult (a.sshiftRight (b.toNat % 32)) :=
  wrapped_eq (by
    rw [BitVec.sshiftRight, Int.shiftRight_eq_div_pow, ← toSigned_toNat]
    rfl)

theorem result_min : CoreOp.min.result (.word a) (.word b) x = wordResult (if a.toInt ≤ b.toInt then a else b) := by
  rw [← toSigned_toNat a, ← toSigned_toNat b, CoreOp.result, wordResult]
  by_cases h : toSigned 32 a.toNat ≤ toSigned 32 b.toNat
  · rw [if_pos h]
    exact congrArg (·, false) (if_pos h)
  · rw [if_neg h]
    exact congrArg (·, false) (if_neg h)

theorem result_max : CoreOp.max.result (.word a) (.word b) x = wordResult (if a.toInt ≤ b.toInt then b else a) := by
  rw [← toSigned_toNat a, ← toSigned_toNat b, CoreOp.result, wordResult]
  by_cases h : toSigned 32 a.toNat ≤ toSigned 32 b.toNat
  · rw [if_pos h]
    exact congrArg (·, false) (if_pos h)
  · rw [if_neg h]
    exact congrArg (·, false) (if_neg h)

/-- A comparison gives 1 or 0. -/
theorem flag_eq {p q : Prop} [Decidable p] [Decidable q] (h : p ↔ q) :
    ((if decide p then 1 else 0 : Int), false) = wordResult (if q then 1 else 0) := by
  by_cases hq : q <;> simp [wordResult, h, hq]

theorem result_slt : CoreOp.slt.result (.word a) (.word b) x = wordResult (if a.toInt < b.toInt then 1 else 0) :=
  flag_eq (by rw [← toSigned_toNat, ← toSigned_toNat]; rfl)

theorem result_seq : CoreOp.seq.result (.word a) (.word b) x = wordResult (if a = b then 1 else 0) :=
  flag_eq (p := a.toNat = b.toNat) BitVec.toNat_inj

theorem result_acmplt : CoreOp.acmplt.result (.word a) (.word b) x = wordResult (if a.toNat < b.toNat then 1 else 0) :=
  flag_eq Iff.rfl

theorem result_aaddl : CoreOp.aaddl.result (.word a) (.word b) x = wordResult (a + b <<< 6) :=
  wrapped_eq (by
    rw [Nat.cast_add, Nat.cast_mul, BitVec.ofInt_add]
    exact congrArg₂ _ (ofInt_toNat a) (ofInt_two_pow b 6 (ofInt_toNat b)))

theorem result_amul16 : CoreOp.amul16.result (.word a) (.word b) x = wordResult ((a &&& 0xFFFF) * (b &&& 0xFFFF)) := by
  have hlow (c : Word32) : (c &&& 0xFFFF).toNat = c.toNat % 65536 := by
    rw [BitVec.toNat_and]
    exact Nat.and_two_pow_sub_one_eq_mod c.toNat 16
  have hlt (c : Word32) : c.toNat % 65536 < 65536 := Nat.mod_lt _ (by decide)
  have hprod := Nat.mul_lt_mul'' (hlt a) (hlt b)
  rw [wordResult, BitVec.toNat_mul, hlow, hlow, Nat.mod_eq_of_lt hprod]
  rfl

/-! ### Saturating and rounding operations (R129, R132) -/

theorem result_adds : CoreOp.adds.result (.word a) (.word b) x = satResult (a.toInt + b.toInt) := by
  rw [← saturated_eq, ← toSigned_toNat, ← toSigned_toNat]
  rfl

theorem result_subs : CoreOp.subs.result (.word a) (.word b) x = satResult (a.toInt - b.toInt) := by
  rw [← saturated_eq, ← toSigned_toNat, ← toSigned_toNat]
  rfl

theorem result_muls : CoreOp.muls.result (.word a) (.word b) x = satResult (a.toInt * b.toInt) := by
  rw [← saturated_eq, ← toSigned_toNat, ← toSigned_toNat]
  rfl

theorem result_mulq : CoreOp.mulq.result (.word a) (.word b) x = satResult ((a.toInt * b.toInt + 2 ^ 30) / 2 ^ 31) := by
  rw [← saturated_eq, ← toSigned_toNat, ← toSigned_toNat]
  rfl

theorem result_srar : CoreOp.srar.result (.word a) (.word b) x = let n := b.toNat % 32
    wordResult (if n = 0 then a else BitVec.ofInt 32 ((a.toInt + (2 ^ (n - 1) : Nat)) / (2 ^ n : Nat))) := by
  refine wrapped_eq ?_
  show BitVec.ofInt 32 (halfUp (toSigned 32 a.toNat) (b.toNat % 32)) = _
  rw [toSigned_toNat, halfUp]
  split
  · exact BitVec.ofInt_toInt
  · rfl

/-! ### Products that accumulate, and values that are carried over (R131, R134) -/

theorem result_mac : CoreOp.mac.result (.word a) (.word b) x = ((a.setWidth 16).toInt * (b.setWidth 16).toInt, false) := by
  rw [← toSigned_setWidth, ← toSigned_setWidth]
  rfl

theorem result_msu : CoreOp.msu.result (.word a) (.word b) x = (-((a.setWidth 16).toInt * (b.setWidth 16).toInt), false) := by
  rw [← toSigned_setWidth, ← toSigned_setWidth]
  rfl

theorem result_macw : CoreOp.macw.result (.word a) (.word b) x = (a.toInt * b.toInt, false) := by
  rw [← toSigned_toNat, ← toSigned_toNat]
  rfl

theorem result_aclr : CoreOp.aclr.result (.word a) (.word b) x = (a.toInt, false) := by
  rw [← toSigned_toNat]
  rfl

theorem result_mov : CoreOp.mov.result (.word a) (.word b) x = if x.dst / 64 = 1 then (a.toInt, false) else wordResult a := by
  rw [← toSigned_toNat, CoreOp.result]
  split <;> rfl

theorem result_aelm : CoreOp.aelm.result (.word a) (.word b) x =
    (((bits b.toNat 6 6 * 2 ^ 31 + bits b.toNat 5 0 * 2 ^ 25 + (if 2 ^ 25 ≤ a.toNat then 0x1FFFFFF else a.toNat) : Nat) : Int),
      decide (2 ^ 25 ≤ a.toNat)) := by
  have hbig : (bits a.toNat 31 25 != 0) = decide (2 ^ 25 ≤ a.toNat) := by
    rw [Bool.eq_iff_iff, bne_iff_ne, decide_eq_true_iff, bits]
    omega
  show (((aelmOf a.toNat b.toNat).1 : Int), (aelmOf a.toNat b.toNat).2) = _
  simp only [aelmOf, hbig, decide_eq_true_iff]
  split
  · rfl
  · have hlow : bits a.toNat 24 0 = a.toNat := by
      rw [bits]
      omega
    rw [hlow]

end

/-! ### Redundant sign bits (R131) -/

/-- Redundant sign bits leave a signed value of as many bits fewer, and no more of them can go. -/
theorem redundant_spec {w : Nat} (i : Int) (hlow : -2 ^ (w - 1) ≤ i) (hhigh : i < 2 ^ (w - 1)) :
    redundant w i ≤ w - 1 ∧ -2 ^ (w - 1 - redundant w i) ≤ i ∧ i < 2 ^ (w - 1 - redundant w i) ∧
      (redundant w i < w - 1 → i < -2 ^ (w - 2 - redundant w i) ∨ 2 ^ (w - 2 - redundant w i) ≤ i) := by
  obtain ⟨m, hm⟩ : ∃ m, m = (if i < 0 then -i - 1 else i).toNat := ⟨_, rfl⟩
  have hcast : (m : Int) = if i < 0 then -i - 1 else i := by
    rw [hm, Int.toNat_of_nonneg]
    split <;> omega
  have hbelow (n : Nat) : m < 2 ^ n ↔ -2 ^ n ≤ i ∧ i < 2 ^ n := by
    rw [← Int.ofNat_lt, hcast]
    push_cast
    split <;> omega
  have hlen : bitLen m ≤ w - 1 := bitLen_le.mpr ((hbelow _).mpr ⟨hlow, hhigh⟩)
  have hred : redundant w i = w - 1 - bitLen m := by rw [redundant, hm]
  have hrest : w - 1 - redundant w i = bitLen m := by omega
  obtain ⟨hl, hh⟩ := (hbelow (bitLen m)).mp (bitLen_le.mp le_rfl)
  refine ⟨by omega, by rwa [hrest], by rwa [hrest], fun hlt => ?_⟩
  have hone : w - 2 - redundant w i = bitLen m - 1 := by omega
  have hnot : ¬ m < 2 ^ (bitLen m - 1) := Nat.not_lt.mpr (lt_bitLen.mp (by omega))
  rw [hbelow] at hnot
  rw [hone]
  omega

/-- An accumulator as an operand: its low word, and its 40-bit value. -/
def Opd.acc (w : Int) : Opd := { v := ofSigned 32 w, wide := some w }

section
variable (w : Int) (a b : Word32) (x : Slot)

theorem result_norm_word (B : Opd) : (CoreOp.norm.result (.word a) B x).1 = (redundant 32 a.toInt : Int) := by
  rw [← toSigned_toNat]
  rfl

theorem result_norm_acc (B : Opd) : (CoreOp.norm.result (.acc w) B x).1 = (redundant 40 w : Int) := rfl

theorem norm_word : let r := (CoreOp.norm.result (.word a) (.word b) x).1
    0 ≤ r ∧ r ≤ 31 ∧ -2 ^ (31 - r.toNat) ≤ a.toInt ∧ a.toInt < 2 ^ (31 - r.toNat) ∧
      (r < 31 → a.toInt < -2 ^ (30 - r.toNat) ∨ 2 ^ (30 - r.toNat) ≤ a.toInt) := by
  obtain ⟨hle, hl, hh, hmore⟩ := redundant_spec (w := 32) a.toInt (BitVec.le_toInt a) BitVec.toInt_lt
  simp only [result_norm_word, Int.toNat_natCast]
  exact ⟨by omega, by omega, hl, hh, fun h => hmore (by omega)⟩

theorem norm_acc (hlow : -2 ^ 39 ≤ w) (hhigh : w < 2 ^ 39) : let r := (CoreOp.norm.result (.acc w) (.word b) x).1
    0 ≤ r ∧ r ≤ 39 ∧ -2 ^ (39 - r.toNat) ≤ w ∧ w < 2 ^ (39 - r.toNat) ∧
      (r < 39 → w < -2 ^ (38 - r.toNat) ∨ 2 ^ (38 - r.toNat) ≤ w) := by
  obtain ⟨hle, hl, hh, hmore⟩ := redundant_spec (w := 40) w hlow hhigh
  simp only [result_norm_acc, Int.toNat_natCast]
  exact ⟨by omega, by omega, hl, hh, fun h => hmore (by omega)⟩

theorem result_nshl_word : CoreOp.nshl.result (.word a) (.word b) x =
    wordResult (a <<< (CoreOp.norm.result (.word a) (.word b) x).1.toNat) := by
  rw [result_norm_word, Int.toNat_natCast, ← toSigned_toNat]
  exact wrapped_eq (ofInt_two_pow a _ ((congrArg _ (toSigned_toNat a)).trans BitVec.ofInt_toInt))

theorem result_nshl_acc : CoreOp.nshl.result (.acc w) (.word b) x =
    (((bits ((w * 2 ^ (CoreOp.norm.result (.acc w) (.word b) x).1.toNat) % 2 ^ 40).toNat 39 8 : Nat) : Int), false) := by
  rw [result_norm_acc, Int.toNat_natCast]
  simp only [CoreOp.result, Opd.acc, ofSigned]
  push_cast
  rfl

theorem result_ashr_acc : CoreOp.ashr.result (.acc w) (.word b) x = let k := min (b.toNat % 64) 39
    if k = 0 then satResult w else satResult ((w + (2 ^ (k - 1) : Nat)) / (2 ^ k : Nat)) := by
  have hbits : bits b.toNat 5 0 = b.toNat % 64 := by simp [bits]
  have hresult : CoreOp.ashr.result (.acc w) (.word b) x = satResult (halfUp w (min (b.toNat % 64) 39)) := by
    rw [← saturated_eq, ← hbits]
    rfl
  rw [hresult, halfUp]
  exact apply_ite satResult _ _ _

/-! ### The exponent of an FP32 word (R132) -/

theorem result_expx_special (h : bits a.toNat 30 23 = 255) : CoreOp.expx.result (.word a) (.word b) x = wordResult 128 := by
  simp only [CoreOp.result, Opd.word, expxOf, h]
  rfl

theorem result_expx_normal (hlow : 1 ≤ bits a.toNat 30 23) (hhigh : bits a.toNat 30 23 ≤ 254) :
    CoreOp.expx.result (.word a) (.word b) x = wordResult (.ofInt 32 ((bits a.toNat 30 23 : Int) - 127)) := by
  have hexp : expxOf a.toNat = (bits a.toNat 30 23 : Int) - 127 := by
    simp only [expxOf]
    rw [if_neg (by omega), if_pos (by omega)]
  exact wrapped_eq (congrArg _ hexp)

theorem result_expx_zero (he : bits a.toNat 30 23 = 0) (hm : bits a.toNat 22 0 = 0) :
    CoreOp.expx.result (.word a) (.word b) x = wordResult (.ofInt 32 (-150)) := by
  simp only [CoreOp.result, Opd.word, expxOf, he, hm]
  rfl

theorem result_expx_subnormal {p : Nat} (he : bits a.toNat 30 23 = 0) (hlow : 2 ^ p ≤ bits a.toNat 22 0)
    (hhigh : bits a.toNat 22 0 < 2 ^ (p + 1)) :
    CoreOp.expx.result (.word a) (.word b) x = wordResult (.ofInt 32 ((p : Int) - 149)) := by
  have hlen : bitLen (bits a.toNat 22 0) = p + 1 := le_antisymm (bitLen_le.mpr hhigh) (lt_bitLen.mpr hlow)
  have hpos : bits a.toNat 22 0 ≠ 0 := by
    have := Nat.two_pow_pos p
    omega
  have hexp : expxOf a.toNat = (p : Int) - 149 := by
    simp only [expxOf]
    rw [he, if_neg (by decide), if_neg (by decide), if_neg hpos, hlen]
    push_cast
    omega
  exact wrapped_eq (congrArg _ hexp)

end

/-! ### The scale byte of an FP32 word (R133) -/

/-- The formats that EXPE8 names have a largest magnitude. -/
theorem expe8_format {code : Nat} {f : Fmt} (hcode : code ∈ [1, 2, 3, 4, 7]) (hf : Fmt.ofCode code = some f) : 0 < f.largest.1 := by
  fin_cases hcode <;> (injection hf with hf; subst hf; decide)

/-- The least power of two by which the largest magnitude n × 2^q reaches m × 2^e. -/
def leastScale (m : Nat) (e : Int) (n : Nat) (q : Int) : Int :=
  let k := (bitLen m : Int) + e - bitLen n - q
  if magGt m e n (q + k) then k + 1 else k

/-- A magnitude lies between the powers of two that its length names. -/
theorem bitLen_bracket {m : Nat} (hm : m ≠ 0) (e : Int) :
    (2 : ℚ) ^ ((bitLen m : Int) + e - 1) ≤ m * 2 ^ e ∧ (m : ℚ) * 2 ^ e < 2 ^ ((bitLen m : Int) + e) := by
  have hpos : 0 < bitLen m := lt_bitLen.mpr (by omega)
  have hlow : (2 : ℚ) ^ (bitLen m - 1) ≤ m := by exact_mod_cast lt_bitLen.mp (Nat.sub_lt hpos Nat.one_pos)
  have hhigh : (m : ℚ) < 2 ^ bitLen m := by exact_mod_cast bitLen_le.mp (le_refl (bitLen m))
  have hsplit : (2 : ℚ) ^ ((bitLen m : Int) + e - 1) = 2 ^ (bitLen m - 1) * 2 ^ e := by
    rw [← zpow_natCast, ← zpow_add₀ two_ne_zero]
    congr 1
    omega
  refine ⟨?_, ?_⟩
  · rw [hsplit]
    gcongr
  · rw [zpow_add₀ two_ne_zero, zpow_natCast]
    gcongr

theorem leastScale_spec {m n : Nat} (hm : m ≠ 0) (hn : n ≠ 0) (e q : Int) : let k := leastScale m e n q
    (m : ℚ) * 2 ^ e ≤ n * 2 ^ (q + k) ∧ (n : ℚ) * 2 ^ (q + k - 1) < m * 2 ^ e := by
  obtain ⟨k, hk⟩ : ∃ k : Int, k = (bitLen m : Int) + e - bitLen n - q := ⟨_, rfl⟩
  obtain ⟨hmlow, hmhigh⟩ := bitLen_bracket hm e
  obtain ⟨hnlow, -⟩ := bitLen_bracket hn (q + k + 1)
  obtain ⟨-, hnhigh⟩ := bitLen_bracket hn (q + k - 1)
  rw [show (bitLen n : Int) + (q + k + 1) - 1 = bitLen m + e by omega] at hnlow
  rw [show (bitLen n : Int) + (q + k - 1) = bitLen m + e - 1 by omega] at hnhigh
  simp only [leastScale, ← hk]
  split
  · have hgt := magGt_iff.mp ‹_›
    rw [← add_assoc, add_sub_cancel_right]
    exact ⟨(hmhigh.trans_le hnlow).le, hgt⟩
  · exact ⟨not_lt.mp (mt magGt_iff.mpr ‹_›), hnhigh.trans_le hmlow⟩

section
variable {a b : Word32} (x : Slot)

theorem result_expe8 : CoreOp.expe8.result (.word a) (.word b) x = (((expe8Of a.toNat b.toNat).1 : Int), (expe8Of a.toNat b.toNat).2) := rfl

theorem result_expe8_reserved (h : b.toNat ∉ [1, 2, 3, 4, 7]) : CoreOp.expe8.result (.word a) (.word b) x = (0xFF, false) := by
  simp only [List.mem_cons, List.not_mem_nil, or_false] at h
  simp only [result_expe8, expe8Of, if_pos h]
  rfl

variable {f : Fmt} (hcode : b.toNat ∈ [1, 2, 3, 4, 7]) (hf : Fmt.ofCode b.toNat = some f)
include hcode

theorem result_expe8_nan {z : Bool} (h : Fmt.fp32.value a.toNat = .nan z) :
    CoreOp.expe8.result (.word a) (.word b) x = (0xFF, false) := by
  simp only [List.mem_cons, List.not_mem_nil, or_false] at hcode
  simp only [result_expe8, expe8Of, if_neg (not_not_intro hcode), h]
  rfl

theorem result_expe8_inf {z : Bool} (h : Fmt.fp32.value a.toNat = .inf z) :
    CoreOp.expe8.result (.word a) (.word b) x = (0xFE, true) := by
  simp only [List.mem_cons, List.not_mem_nil, or_false] at hcode
  simp only [result_expe8, expe8Of, if_neg (not_not_intro hcode), h]
  rfl

theorem result_expe8_zero {z : Bool} {e : Int} (h : Fmt.fp32.value a.toNat = .fin z 0 e) :
    CoreOp.expe8.result (.word a) (.word b) x = (0x7F, false) := by
  simp only [List.mem_cons, List.not_mem_nil, or_false] at hcode
  simp only [result_expe8, expe8Of, if_neg (not_not_intro hcode), h]
  rfl

include hf

theorem result_expe8_fin {z : Bool} {m : Nat} {e : Int} (h : Fmt.fp32.value a.toNat = .fin z m e) (hm : m ≠ 0) :
    CoreOp.expe8.result (.word a) (.word b) x = let k := leastScale m e f.largest.1 f.largest.2
      if 127 + k < 0 then (0, true) else if 0xFE < 127 + k then (0xFE, true) else (127 + k, false) := by
  simp only [List.mem_cons, List.not_mem_nil, or_false] at hcode
  simp only [result_expe8, expe8Of, if_neg (not_not_intro hcode), h, if_neg hm, hf, Option.getD_some]
  generalize hk : leastScale m e f.largest.1 f.largest.2 = k
  simp only [leastScale] at hk
  rw [hk]
  split
  · rfl
  · split
    · rfl
    · simp only [Prod.mk.injEq, and_true]
      exact Int.toNat_of_nonneg (by omega)

end

end Sys2Proof.Machine

namespace Sys2Proof.Proofs

open Sys2Proof.Machine

/-- Settles O32: the result of each operation is that of one lemma above, over words, accumulators and FP32 magnitudes. -/
theorem coreOperationsComputeTheirResults : Obligations.CoreOperationsComputeTheirResults := by
  unfold Obligations.CoreOperationsComputeTheirResults
  intro a b x
  refine ⟨⟨result_add a b x, result_add a b x, result_sub a b x, result_sub a b x, result_mul a b x, result_and a b x, result_or a b x,
      result_xor a b x, result_shl a b x, result_shr a b x, result_sra a b x, result_min a b x, result_max a b x, result_slt a b x,
      result_seq a b x, result_acmplt a b x, result_aaddl a b x, result_amul16 a b x⟩,
    ⟨result_adds a b x, result_subs a b x, result_muls a b x, result_mulq a b x, result_srar a b x⟩,
    ⟨result_mac a b x, result_msu a b x, result_macw a b x, result_aclr a b x, rfl, rfl, result_mov a b x, result_aelm a b x⟩,
    fun w hlow hhigh => ⟨result_ashr_acc w b x, norm_acc w b x hlow hhigh, result_nshl_acc w b x⟩,
    ⟨norm_word a b x, result_nshl_word a b x⟩,
    ⟨result_expx_special a b x, result_expx_normal a b x, result_expx_zero a b x, fun p => result_expx_subnormal a b x⟩,
    result_expe8_reserved x, fun f hcode hf => ⟨fun z => result_expe8_nan x hcode, fun z => result_expe8_inf x hcode,
      fun z m e h => ⟨fun hm => ?_, fun hm => ?_⟩⟩⟩
  · subst hm
    exact result_expe8_zero x hcode h
  · obtain ⟨hreach, hleast⟩ := leastScale_spec hm (expe8_format hcode hf).ne' e f.largest.2
    exact ⟨_, hreach, hleast, result_expe8_fin x hcode hf h hm⟩

end Sys2Proof.Proofs

/-! PROOF. What moves data beside a control core leaves the core and its registers (R148, R244 to R258). -/

namespace Sys2Proof.Machine

variable {x s : State} {g : Nat}

theorem State.countHalf_aside {r : Rn} {n : Nat} (hi : Bool) (k : Nat) (hr : ¬ (RegAt.mk r n 0 0).inCore) (h : x.Aside g s) :
    x.Aside g (s.countHalf r n hi k) := by
  unfold State.countHalf
  exact State.setReg_aside _ hr h

theorem State.cacheLines_aside (wr : Bool) (k : Nat) (h : x.Aside g s) : x.Aside g (s.cacheLines wr k) :=
  State.countHalf_aside wr k hstCacheLines_outside h

theorem State.numCount_aside (n unit target ovf inv : Nat) (h : x.Aside g s) : x.Aside g (s.numCount n unit target ovf inv) := by
  have hfirst : x.Aside g (if ovf = 0 then s else (s.count .stlNumOvf n ovf).raiseOnce .stlNumEvent n 0 0x100 n unit target) := by
    split
    · exact h
    · exact State.raiseOnce_aside _ _ _ _ _ (outside_inCore n 0 (by simp)) (State.count_aside ovf (outside_inCore n 0 (by simp)) h)
  unfold State.numCount
  dsimp only
  split
  · exact hfirst
  · exact State.raiseOnce_aside _ _ _ _ _ (outside_inCore n 0 (by simp)) (State.count_aside inv (outside_inCore n 0 (by simp)) hfirst)

theorem State.fabQerr_aside (b block cause : Nat) (h : x.Aside g s) : x.Aside g (s.fabQerr b block cause) :=
  State.raiseOnce_aside _ _ _ _ _ (outside_inCore b 0 (by simp)) (State.capture_aside _ _ _ (outside_inCore b 0 (by simp))
    (State.count_aside 1 (outside_inCore b 0 (by simp)) h))

theorem State.foreign_aside (b : Nat) (r : TakeReq) (reason : Nat) (h : x.Aside g s) : x.Aside g (s.foreign b r reason) :=
  State.raiseOnce_aside _ _ _ _ _ (outside_inCore b 0 (by simp)) (State.capture_aside _ _ _ (outside_inCore b 0 (by simp)) h)

theorem State.sendTake_aside (y : Nat) (queue : Bool) (seq slot gen tally : Nat) (h : x.Aside g s) :
    x.Aside g (s.sendTake y queue seq slot gen tally) := by
  unfold State.sendTake
  dsimp only
  split
  · exact (State.foreign_aside (y / 64) _ 1 h).same rfl rfl
  · split
    · exact h
    · exact h.same rfl rfl

/-! ### Lines of a stack -/

theorem State.modHbm_aside (b : Nat) (f : Hbm → Hbm) (h : x.Aside g s) : x.Aside g (s.modHbm b f) := h.same rfl rfl

theorem State.hbmStack_aside (b cause ch : Nat) (h : x.Aside g s) : x.Aside g (s.hbmStack b cause ch) := by
  unfold State.hbmStack
  split
  · exact h
  · exact State.raise_aside _ _ _ _ _ (outside_inCore b 0 (by simp)) (State.raise_aside _ _ _ _ _ (outside_inCore b 0 (by simp)) h)

theorem State.hbmUeAt_aside (b pc line : Nat) (rmw : Bool) (h : x.Aside g s) : x.Aside g (s.hbmUeAt b pc line rmw) := by
  unfold State.hbmUeAt
  dsimp only
  repeat' first
    | with_reducible assumption | exact outside_inCore _ _ (by simp) | with_reducible apply State.count_aside
    | with_reducible apply State.capture_aside | with_reducible apply State.raise_aside
    | with_reducible apply State.hbmStack_aside | with_reducible apply State.modHbm_aside | split

theorem State.hbmCheck_aside (b pc line : Nat) (bad : Bool) (symErrs : Nat) (rmw : Bool) (h : x.Aside g s) :
    x.Aside g (s.hbmCheck b pc line bad symErrs rmw).1 := by
  unfold State.hbmCheck
  split
  · exact State.hbmUeAt_aside b pc line rmw h
  · split
    · exact State.count_aside 1 (outside_inCore b 0 (by simp)) h
    · exact h

/-! ### Translation and far lines -/

theorem State.Aside.upd_bayTlb {v : Tab (List TlbEntry)} (h : x.Aside g s) : x.Aside g { s with bayTlb := v } := h.same rfl rfl

theorem State.Aside.upd_hostTag {v : Tab Bool} (h : x.Aside g s) : x.Aside g { s with hostTag := v } := h.same rfl rfl

theorem State.Aside.upd_faultQ {v : List FaultRec} (h : x.Aside g s) : x.Aside g { s with faultQ := v } := h.same rfl rfl

theorem State.translate_aside (y q va : Nat) (acc : Access) (h : x.Aside g s) : x.Aside g (s.translate y q va acc).1 := by
  unfold State.translate
  dsimp only
  repeat' first
    | with_reducible assumption | exact outside_inCore _ _ (by simp) | with_reducible apply State.count_aside
    | with_reducible apply State.cacheLines_aside | split
    | with_reducible refine State.modStall_aside (by rfl) ?_ | with_reducible apply State.Aside.upd_bayTlb

theorem State.rasCorrectable_aside (k : Nat) (h : x.Aside g s) : x.Aside g (s.rasCorrectable k) := h.same rfl rfl

theorem State.serveB_aside (b j : Nat) (h : x.Aside g s) : x.Aside g (s.serveB b j) :=
  h.of_safe (State.serveB_safe (og := none) s b j (Nat.or_self _) (.refl s)) rfl rfl

theorem State.bayLost_aside (t : Transfer) (y : Nat) (p : Place) (h : x.Aside g s) : x.Aside g (s.bayLost t y p) :=
  h.of_safe (State.bayLost_safe (og := none) s t y p (Nat.or_self _) (.refl s)) rfl rfl

theorem State.write_aside (a : Nat) (bs : List Byte) (p : Bool) (h : x.Aside g s) : x.Aside g (s.write a bs p) := h.same rfl rfl

theorem State.writeTagged_aside (a : Nat) (bs : List (Byte × Bool)) (h : x.Aside g s) : x.Aside g (s.writeTagged a bs) :=
  h.of_safe (State.writeTagged_safe (og := none) s a bs (Nat.or_self _) (.refl s)) rfl rfl

theorem State.writeByte_aside (a : Nat) (v : Byte) (p : Bool) (h : x.Aside g s) : x.Aside g (s.writeByte a v p) := h.same rfl rfl

theorem State.hwrite_aside (a : Nat) (bs : List Byte) (p : Bool) (h : x.Aside g s) : x.Aside g (s.hwrite a bs p) := h.same rfl rfl

theorem State.hbmWrite_aside (pa : Nat) (bs : List (Byte × Bool)) (h : x.Aside g s) : x.Aside g (s.hbmWrite pa bs) := h.same rfl rfl

theorem State.modJob_aside (j : Nat) (f : Job → Job) (h : x.Aside g s) : x.Aside g (s.modJob j f) := h.same rfl rfl

theorem State.takeFree_aside (h : x.Aside g s) : x.Aside g s.takeFree := h.same rfl rfl

theorem State.lineRead_aside (y : Nat) (t : Transfer) (va n sym : Nat) (h : x.Aside g s) : x.Aside g (s.lineRead y t va n sym).1 := by
  unfold State.lineRead
  dsimp only
  repeat' first
    | with_reducible assumption | with_reducible apply State.translate_aside | with_reducible apply State.cacheLines_aside
    | with_reducible apply State.rasCorrectable_aside | with_reducible apply State.bayLost_aside
    | with_reducible apply State.hbmCheck_aside | with_reducible apply State.serveB_aside | split

theorem State.hbmStore_aside (b off pa : Nat) (bs : List (Byte × Bool)) (sym : Nat) (h : x.Aside g s) :
    x.Aside g (s.hbmStore b off pa bs sym) := by
  unfold State.hbmStore
  dsimp only
  repeat' first
    | with_reducible assumption | with_reducible apply State.hbmWrite_aside | with_reducible apply State.write_aside
    | with_reducible apply State.hbmCheck_aside | split

theorem State.hostWrite_aside (pa : Nat) (bs : List (Byte × Bool)) (h : x.Aside g s) : x.Aside g (s.hostWrite pa bs) := by
  have hbytes := State.hwrite_aside pa (bs.map Prod.fst) false (State.cacheLines_aside true 1 h)
  unfold State.hostWrite
  split
  · exact hbytes.upd_hostTag
  · exact hbytes

theorem State.lineWrite_aside (y : Nat) (t : Transfer) (va : Nat) (bs : List (Byte × Bool)) (sym : Nat) (h : x.Aside g s) :
    x.Aside g (s.lineWrite y t va bs sym).1 := by
  unfold State.lineWrite
  dsimp only
  repeat' first
    | with_reducible assumption | with_reducible apply State.translate_aside | with_reducible apply State.hostWrite_aside
    | with_reducible apply State.bayLost_aside | with_reducible apply State.hbmStore_aside
    | with_reducible apply State.serveB_aside | with_reducible apply State.fabQerr_aside
    | with_reducible apply State.writeTagged_aside | split

theorem State.strFault_aside (y k : Nat) (t : Transfer) (kind level key : Nat) (coord : List Nat) (dva : Nat) (h : x.Aside g s) :
    x.Aside g (s.strFault y k t kind level key coord dva).1 := by
  unfold State.strFault
  dsimp only
  repeat' first
    | with_reducible assumption | exact outside_inCore _ _ (by simp) | with_reducible apply State.count_aside
    | with_reducible apply State.capture_aside | with_reducible apply State.raiseOnce_aside
    | with_reducible apply State.modJob_aside | split | dsimp only
    | with_reducible apply State.Aside.upd_faultQ

/-! ### Converters and moves -/

theorem stlAmaxStr_outside (n : Nat) {k : Nat} (hk : k < 4) : ¬ (RegAt.mk .stlAmaxStr n k 0).inCore :=
  engine_outside_inCore n hk (by simp)

theorem State.convertElem_aside (y : Nat) {k : Nat} (hk : k < 4) (d : StreamDesc) (deliver : Bool) (e : PVal) (h : x.Aside g s) :
    x.Aside g (s.convertElem y k d deliver e).1 := by
  unfold State.convertElem
  dsimp only
  repeat' first
    | with_reducible assumption | with_reducible exact stlAmaxStr_outside _ hk | exact outside_inCore _ _ (by simp)
    | with_reducible apply State.count_aside | with_reducible apply State.numCount_aside | with_reducible apply State.setReg_aside
    | split

theorem State.convertAll_aside (y : Nat) {k : Nat} (hk : k < 4) (d : StreamDesc) (deliver : Bool) (l : List PVal) (h : x.Aside g s) :
    x.Aside g (s.convertAll y k d deliver l).1 :=
  foldl_inv (fun b : State × List PVal => x.Aside g b.1) l _ _ (fun _ _ hy => State.convertElem_aside y hk _ _ _ hy) h

theorem Mv.load_aside {m : Mv} (y k va n wfBits : Nat) (ix : List Nat) (h : x.Aside g m.s) :
    x.Aside g (m.load y k va n wfBits ix).1.s := by
  unfold Mv.load
  refine foldl_inv (fun b : Mv × List (Byte × Bool) => x.Aside g b.1.s) _ _ _ ?_ h
  intro y a h
  dsimp only
  repeat' first
    | with_reducible assumption | with_reducible apply State.lineRead_aside | with_reducible apply State.strFault_aside
    | split

theorem Mv.store_aside {m : Mv} (y k va : Nat) (bs : List (Byte × Bool)) (wfBits : Nat) (ix : List Nat) (h : x.Aside g m.s) :
    x.Aside g (m.store y k va bs wfBits ix).s := by
  unfold Mv.store
  refine foldl_inv (fun b : Mv => x.Aside g b.s) _ _ _ ?_ h
  intro y a h
  dsimp only
  repeat' first
    | with_reducible assumption | with_reducible apply State.lineWrite_aside | with_reducible apply State.strFault_aside
    | split

theorem Mv.near_aside {m : Mv} (y off : Nat) (bs : List (Byte × Bool)) (h : x.Aside g m.s) : x.Aside g (m.near y off bs).s := by
  unfold Mv.near
  dsimp only
  split
  · exact each_aside _ (fun _ _ _ hy => State.writeTagged_aside _ _ hy) h
  · exact State.writeTagged_aside _ _ h

theorem Mv.portElem_aside {m : Mv} (y : Nat) {k : Nat} (hk : k < 4) (e el : Nat) (h : x.Aside g m.s) :
    x.Aside g (m.portElem y k e el).s := by
  unfold Mv.portElem
  dsimp only
  repeat' first
    | with_reducible assumption | with_reducible apply Mv.near_aside | with_reducible apply State.convertAll_aside
    | with_reducible apply Mv.load_aside | with_reducible apply Mv.store_aside | with_reducible apply State.strFault_aside
    | split

theorem Mv.sendAll_aside {m : Mv} (y : Nat) {k : Nat} (hk : k < 4) (h : x.Aside g m.s) : x.Aside g (m.sendAll y k).s := by
  unfold Mv.sendAll
  with_reducible apply State.modStall_aside
  · rfl
  refine foldl_inv (fun b : State × List PVal => x.Aside g b.1) _ (m.s, []) _ ?_ h
  intro z a hz
  dsimp only
  repeat' first
    | with_reducible assumption | with_reducible apply State.convertElem_aside | with_reducible apply State.takeFree_aside
    | split

theorem Mv.receive_aside {m : Mv} (y : Nat) {k : Nat} (hk : k < 4) (b : PBeat) (h : x.Aside g m.s) :
    x.Aside g (m.receive y k b).s := by
  unfold Mv.receive
  dsimp only
  repeat' first
    | with_reducible assumption | with_reducible apply State.modJob_aside | split
    | with_reducible refine foldl_inv (State.Aside g x) _ _ _ (fun _ _ _ => ?_) ?_
    | with_reducible apply State.writeByte_aside | with_reducible apply State.writeTagged_aside
    | with_reducible apply State.convertElem_aside

theorem State.setEngine_aside (y k : Nat) (e : Engine) (h : x.Aside g s) : x.Aside g (s.setEngine y k e) :=
  State.modStall_aside rfl h

theorem Mv.commit_aside {m : Mv} (y : Nat) {k : Nat} (hk : k < 4) (hs : x.Aside g s) (h : x.Aside g m.s) :
    x.Aside g (m.commit y k s) := by
  unfold Mv.commit
  dsimp only
  split
  · exact hs
  · exact State.setEngine_aside _ _ _ (State.count_aside _ (engine_outside_inCore y hk (by simp)) h)

theorem State.pullBeats_aside (y : Nat) {k : Nat} (hk : k < 4) (fuel : Nat) (h : x.Aside g s) : x.Aside g (s.pullBeats y k fuel) := by
  induction fuel generalizing s with
  | zero => exact h
  | succ fuel ih =>
    unfold State.pullBeats
    dsimp only
    repeat' first
      | with_reducible assumption | exact outside_inCore _ _ (by simp) | with_reducible apply ih | with_reducible apply Mv.commit_aside
      | with_reducible apply Mv.receive_aside | with_reducible apply State.setEngine_aside | with_reducible apply State.count_aside
      | with_reducible refine State.modStall_aside (by rfl) ?_ | split

/-! ### Ports -/

theorem firstIssued_mem {p : Transfer → Bool} {l : List (Nat × Transfer × Bool)} {r : Nat × Transfer × Bool}
    (h : firstIssued p l = some r) : r ∈ l := by
  have hall : ∀ y, firstIssued p l = some y → y ∈ l := by
    unfold firstIssued
    refine List.foldlRecOn l _ (motive := fun best => ∀ y, best = some y → y ∈ l) (by simp) fun best hbest a ha y hy => ?_
    repeat' split at hy
    all_goals first | exact hbest y hy | (cases hy; exact ha)
  exact hall r h

theorem Stall.transfers_engine {st : Stall} {r : Nat × Transfer × Bool} (h : r ∈ st.transfers) : r.1 < 4 := by
  simp only [Stall.transfers, List.mem_flatMap, List.mem_range, List.mem_append] at h
  obtain ⟨k, hk, h | h⟩ := h
  all_goals
    split at h
    · rw [List.mem_singleton.mp h]
      exact hk
    · cases h

/-- A port's elements go to one of the four engines. -/
theorem Stall.portUser_engine {st : Stall} {p k : Nat} {t : Transfer} (h : st.portUser p = some (k, t)) : k < 4 := by
  unfold Stall.portUser at h
  split at h
  · cases h
    exact Stall.transfers_engine (firstIssued_mem ‹_›)
  · cases h

theorem State.modCore_aside {y : Nat} {f : Core → Core} (hf : (f (s.stall y).core).sansPorts = (s.stall y).core.sansPorts)
    (h : x.Aside g s) : x.Aside g (s.modCore y f) := State.modStall_aside hf h

theorem State.pullPort_aside (y p fuel : Nat) (h : x.Aside g s) : x.Aside g (s.pullPort y p fuel) := by
  induction fuel generalizing s with
  | zero => exact h
  | succ fuel ih =>
    unfold State.pullPort
    split
    · exact h
    next k t huser =>
      have hk := Stall.portUser_engine huser
      dsimp only
      repeat' first
        | with_reducible assumption | with_reducible apply ih | with_reducible apply State.pullBeats_aside
        | with_reducible apply Mv.commit_aside | with_reducible apply Mv.sendAll_aside | with_reducible apply Mv.portElem_aside
        | with_reducible apply State.modCore_aside | rfl | split

/-- A port that no transfer uses keeps what it holds. -/
theorem State.pullPort_unused {y p : Nat} (h : (s.stall y).portUser p = none) (fuel : Nat) : s.pullPort y p fuel = s := by
  cases fuel with
  | zero => rfl
  | succ fuel => rw [State.pullPort, h]

end Sys2Proof.Machine

/-! PROOF. What a landing write of a control core can change (R124, R128, R138, R139). -/

namespace Sys2Proof.Machine

/-! ### What steers a core -/

/-- A control core without the parts that a landing write reaches: registers, accumulators, staging, ports, tallies, RRB, interrupt
enables, edges and timer. -/
def Core.steering (c : Core) : Core :=
  { c with sat := false, rrb := 0, g := [], acc := [], sbStage := [], tally := [], takeSeq := 0, irqEn := 0, irqEdge := 0
           tmrLoad := 0, tmr := 0, ports := [] }

/-- Nor the writes in flight of the context that issues. -/
def Core.still (c : Core) : Core := c.steering.setOwn []

section
variable (c : Core) (ws vs : List CWrite)

@[simp] theorem Core.own_setOwn : (c.setOwn ws).own = ws := by
  cases h : c.handler <;> simp [Core.setOwn, Core.own, h]

@[simp] theorem Core.setOwn_setOwn : (c.setOwn ws).setOwn vs = c.setOwn vs := by
  cases h : c.handler <;> simp [Core.setOwn, h]

@[simp] theorem Core.own_steering : c.steering.own = c.own := rfl

@[simp] theorem Core.steering_setOwn : (c.setOwn ws).steering = c.steering.setOwn ws := by
  cases h : c.handler <;> simp [Core.setOwn, Core.steering, h]

@[simp] theorem Core.steering_expireTimer : c.expireTimer.steering = c.steering := by
  unfold Core.expireTimer
  split <;> rfl

@[simp] theorem Core.own_expireTimer : c.expireTimer.own = c.own := by
  rw [← Core.own_steering, Core.steering_expireTimer, Core.own_steering]

@[simp] theorem Core.steering_tickTimer : c.tickTimer.steering = c.steering := by
  unfold Core.tickTimer
  split <;> rfl

@[simp] theorem Core.own_tickTimer : c.tickTimer.own = c.own := by
  rw [← Core.own_steering, Core.steering_tickTimer, Core.own_steering]

theorem Core.steering_sansPorts : c.sansPorts.steering = c.steering := rfl

@[simp] theorem Core.still_setOwn : (c.setOwn ws).still = c.still := by
  rw [Core.still, Core.steering_setOwn, Core.setOwn_setOwn, Core.still]

@[simp] theorem Core.still_advance : c.advance.still = c.still := c.still_setOwn _

@[simp] theorem Core.still_tickTimer : c.tickTimer.still = c.still := by rw [Core.still, Core.steering_tickTimer, Core.still]

@[simp] theorem Core.still_expireTimer : c.expireTimer.still = c.still := by rw [Core.still, Core.steering_expireTimer, Core.still]

end

section
variable (c : Core)

theorem Core.setOwn_eq (ws : List CWrite) : c.setOwn ws =
    { c with main := if c.handler then c.main else ws, hand := if c.handler then ws else c.hand } := by
  unfold Core.setOwn
  split <;> rfl

@[simp] theorem Core.still_handler : c.still.handler = c.handler := by
  rw [Core.still, Core.setOwn_eq]
  rfl

@[simp] theorem Core.still_pc : c.still.pc = c.pc := by
  rw [Core.still, Core.setOwn_eq]
  rfl

@[simp] theorem Core.still_loops : c.still.loops = c.loops := by
  rw [Core.still, Core.setOwn_eq]
  rfl

@[simp] theorem Core.still_savedPc : c.still.savedPc = c.savedPc := by
  rw [Core.still, Core.setOwn_eq]
  rfl

@[simp] theorem Core.still_savedLoops : c.still.savedLoops = c.savedLoops := by
  rw [Core.still, Core.setOwn_eq]
  rfl

@[simp] theorem Core.still_main : c.still.main = if c.handler then c.main else [] := by
  rw [Core.still, Core.setOwn_eq]
  rfl

end

/-- The parts that landing leaves to a core: where it is, its loops, what an interrupt saved, and in a handler the main program's
writes. -/
theorem Core.parts_of_still {c d : Core} (h : c.still = d.still) : c.handler = d.handler ∧ c.pc = d.pc ∧ c.loops = d.loops ∧
    c.savedPc = d.savedPc ∧ c.savedLoops = d.savedLoops ∧ (d.handler = true → c.main = d.main) := by
  have hhandler : c.handler = d.handler := by simpa using congrArg Core.handler h
  refine ⟨hhandler, by simpa using congrArg Core.pc h, by simpa using congrArg Core.loops h,
    by simpa using congrArg Core.savedPc h, by simpa using congrArg Core.savedLoops h, fun hd => ?_⟩
  simpa [hhandler, hd] using congrArg Core.main h

/-! ### A write that lands -/

/-- A step that at most lands writes on stall g: what steers its core is as it was, and no register of a core is written. -/
structure State.Lands (g : Nat) (s t : State) : Prop where
  core : (t.stall g).core.steering = (s.stall g).core.steering
  regs : ∀ q : RegAt, q.inCore → t.regAt q = s.regAt q

section
variable {x s t : State} {g : Nat}

theorem State.Lands.refl (g : Nat) (s : State) : s.Lands g s := ⟨rfl, fun _ _ => rfl⟩

theorem State.Lands.trans (h : x.Lands g s) (h' : s.Lands g t) : x.Lands g t :=
  ⟨h'.core.trans h.core, fun q hq => (h'.regs q hq).trans (h.regs q hq)⟩

theorem State.Aside.lands (h : s.Aside g t) : s.Lands g t :=
  ⟨by rw [← Core.steering_sansPorts, h.core, Core.steering_sansPorts], h.regs⟩

theorem State.stall_modCore_same (s : State) (g : Nat) (f : Core → Core) :
    (s.modCore g f).stall g = { s.stall g with core := f (s.stall g).core } := State.stall_modStall_same s g _

theorem State.modCore_lands {f : Core → Core} (hf : (f (s.stall g).core).steering = (s.stall g).core.steering) :
    s.Lands g (s.modCore g f) := by
  refine ⟨?_, fun _ _ => rfl⟩
  rw [State.stall_modCore_same]
  exact hf

/-- A landing write reaches registers, accumulators, memory, staging, ports and tallies alone. -/
theorem State.landOne_lands (s : State) (g : Nat) (w : CWrite) : s.Lands g (s.landOne g w) := by
  unfold State.landOne
  split
  · refine State.modCore_lands ?_
    dsimp only
    split <;> rfl
  · refine State.modCore_lands ?_
    dsimp only
    split <;> rfl
  · exact (State.write_aside _ _ _ (.refl g s)).lands
  · exact (State.modCore_lands (by rfl)).trans (State.sendTake_aside g _ _ _ _ _ (.refl g _)).lands
  · dsimp only
    split
    · exact State.modCore_lands (by rfl)
    · split
      · exact (State.modCore_lands (by rfl)).trans (State.pullPort_aside g _ _ (.refl g _)).lands
      · repeat' split
        all_goals exact State.modCore_lands (by rfl)

/-! ### The due writes of a context -/

/-- The writes in flight of the issuing context after those that are due have landed. -/
def Core.notDue (c : Core) : List CWrite := c.own.filter fun w => w.left != 0

/-- Those that are due. -/
def Core.due (c : Core) : List CWrite := c.own.filter fun w => w.left == 0

@[simp] theorem Core.notDue_expireTimer (c : Core) : c.expireTimer.notDue = c.notDue := by
  rw [Core.notDue, Core.own_expireTimer, Core.notDue]

@[simp] theorem Core.due_expireTimer (c : Core) : c.expireTimer.due = c.due := by
  rw [Core.due, Core.own_expireTimer, Core.due]

/-- The state before the due writes land: the timer has been looked at, and they are no longer in flight. -/
def State.landing (s : State) (g : Nat) : State :=
  (s.modCore g Core.expireTimer).modCore g fun c => c.setOwn c.notDue

theorem State.landing_stall (s : State) (g : Nat) : (s.landing g).stall g =
    { s.stall g with core := (s.stall g).core.expireTimer.setOwn (s.stall g).core.notDue } := by
  rw [State.landing, State.stall_modCore_same, State.stall_modCore_same, Core.notDue_expireTimer]

theorem State.landDue_eq (s : State) (g : Nat) :
    s.landDue g = each (kept (s.stall g).core.due) (s.landing g) fun s w => s.landOne g w := by
  have hdue : ((s.modCore g Core.expireTimer).stall g).core.due = (s.stall g).core.due := by
    rw [State.stall_modCore_same, Core.due_expireTimer]
  rw [← hdue]
  rfl

theorem State.landing_lands (s : State) (g : Nat) : (s.landing g).Lands g (s.landDue g) := by
  rw [State.landDue_eq]
  exact each_induct (P := State.Lands g _) _ (fun y w _ hy => hy.trans (y.landOne_lands g w)) (.refl g _)

theorem State.landDue_core (s : State) (g : Nat) :
    ((s.landDue g).stall g).core.steering = (s.stall g).core.steering.setOwn (s.stall g).core.notDue := by
  rw [(s.landing_lands g).core, State.landing_stall]
  simp

theorem State.landDue_regs (s : State) (g : Nat) {q : RegAt} (hq : q.inCore) : (s.landDue g).regAt q = s.regAt q :=
  (s.landing_lands g).regs q hq

theorem State.landDue_own (s : State) (g : Nat) : ((s.landDue g).stall g).core.own = (s.stall g).core.notDue := by
  rw [← Core.own_steering, State.landDue_core, Core.own_setOwn]

theorem State.landDue_still (s : State) (g : Nat) : ((s.landDue g).stall g).core.still = (s.stall g).core.still := by
  rw [Core.still, State.landDue_core, Core.setOwn_setOwn, Core.still]

/-! ### Empty bundles, and writes that land without one -/

theorem State.landAll_still (s : State) (g fuel : Nat) : ((s.landAll g fuel).stall g).core.still = (s.stall g).core.still := by
  induction fuel generalizing s with
  | zero => rfl
  | succ fuel ih =>
    rw [State.landAll]
    split
    · exact s.landDue_still g
    · rw [ih, State.stall_modCore_same, Core.still_advance, State.landDue_still]

theorem State.landAll_regs (s : State) (g fuel : Nat) {q : RegAt} (hq : q.inCore) : (s.landAll g fuel).regAt q = s.regAt q := by
  induction fuel generalizing s with
  | zero => rfl
  | succ fuel ih =>
    rw [State.landAll]
    split
    · exact s.landDue_regs g hq
    · exact (ih _).trans (s.landDue_regs g hq)

/-- The state after an empty bundle has issued. -/
def State.emptyBundle (s : State) (g : Nat) : State :=
  ((s.landDue g).count .ccoIssued g).modCore g fun c => (c.advance.tickTimer).expireTimer

theorem State.drainOwn_succ (s : State) (g fuel : Nat) : s.drainOwn g (fuel + 1) =
    if ((s.landDue g).stall g).core.own.isEmpty then s.landDue g else (s.emptyBundle g).drainOwn g fuel := rfl

theorem State.emptyBundle_still (s : State) (g : Nat) : ((s.emptyBundle g).stall g).core.still = (s.stall g).core.still := by
  rw [State.emptyBundle, State.stall_modCore_same, Core.still_expireTimer, Core.still_tickTimer, Core.still_advance]
  exact s.landDue_still g

theorem State.emptyBundle_own (s : State) (g : Nat) : ((s.emptyBundle g).stall g).core.own =
    (s.stall g).core.notDue.map fun w => { w with left := w.left - 1 } := by
  rw [State.emptyBundle, State.stall_modCore_same, Core.own_expireTimer, Core.own_tickTimer, Core.advance, Core.own_setOwn,
    ← s.landDue_own g]
  rfl

theorem State.drainOwn_still (s : State) (g fuel : Nat) : ((s.drainOwn g fuel).stall g).core.still = (s.stall g).core.still := by
  induction fuel generalizing s with
  | zero => rfl
  | succ fuel ih =>
    rw [State.drainOwn_succ]
    split
    · exact s.landDue_still g
    · rw [ih, State.emptyBundle_still]

/-- Enough empty bundles land every write of the context. -/
theorem State.drainOwn_own {s : State} {g fuel n : Nat} (hn : n < fuel) (h : ∀ w ∈ (s.stall g).core.own, w.left ≤ n) :
    ((s.drainOwn g fuel).stall g).core.own = [] := by
  induction fuel generalizing s n with
  | zero => omega
  | succ fuel ih =>
    rw [State.drainOwn_succ]
    split
    · exact List.isEmpty_iff.mp ‹_›
    next hleft =>
      have hlate : ∀ w ∈ (s.stall g).core.notDue, w.left ≠ 0 ∧ w.left ≤ n := fun w hw => by
        obtain ⟨hmem, hne⟩ := List.mem_filter.mp hw
        exact ⟨bne_iff_ne.mp hne, h w hmem⟩
      have hpos : 0 < n := by
        rw [State.landDue_own, List.isEmpty_iff] at hleft
        obtain ⟨w, hw⟩ := List.exists_mem_of_ne_nil _ hleft
        have := hlate w hw
        omega
      refine ih (n := n - 1) (by omega) fun w hw => ?_
      rw [State.emptyBundle_own, List.mem_map] at hw
      obtain ⟨v, hv, rfl⟩ := hw
      exact Nat.sub_le_sub_right (hlate v hv).2 1

end

end Sys2Proof.Machine

/-! PROOF. Where a due write of a control core lands, interrupt entry and the issue-step timer (R124, R128, R138, R150, R153, R154). -/

namespace Sys2Proof.Machine

/-! ### A word of core memory -/

theorem ofLe_leBytes_mod (n v : Nat) : ofLe (leBytes n v) = v % 256 ^ n := by
  induction n generalizing v with
  | zero => rw [pow_zero, Nat.mod_one]; rfl
  | succ n ih =>
    rw [leBytes, ofLe, ih, BitVec.toNat_ofNat, pow_succ' 256 n]
    exact Nat.mod_mul.symm

theorem writeTags_outside (t : Tab Bool) (a : Nat) (p : Bool) (n j : Nat) (h : j < a ∨ a + n ≤ j) :
    Tab.get false (writeTags t a p n) j = Tab.get false t j := by
  induction n generalizing t a with
  | zero => rfl
  | succ n ih => rw [writeTags, ih _ _ (by omega), Tab.get_set_ne _ _ _ (by omega)]

theorem readTags_writeTags (t : Tab Bool) (a : Nat) (p : Bool) (n : Nat) : readTags (writeTags t a p n) a n = List.replicate n p := by
  induction n generalizing t a with
  | zero => rfl
  | succ n ih =>
    rw [writeTags, readTags, ih, writeTags_outside _ _ _ _ _ (.inl (Nat.lt_succ_self a)), Tab.get_set_same, List.replicate_succ]

theorem State.coreVal_setCore (s : State) (g off v : Nat) (p : Bool) :
    (s.setCore g off 4 v p).coreVal g off 4 = { v := v % 2 ^ 32, p := p } := by
  have hbytes : (s.setCore g off 4 v p).read (coreAddr g off) 4 = leBytes 4 v := by
    have hread := readBytes_writeBytes s.mem (coreAddr g off) (leBytes 4 v)
    rwa [leBytes_length] at hread
  have htags : (s.setCore g off 4 v p).poisoned (coreAddr g off) 4 = p := by
    show (readTags (writeTags s.memTag (coreAddr g off) p (leBytes 4 v).length) (coreAddr g off) 4).any id = p
    rw [leBytes_length, readTags_writeTags]
    cases p <;> rfl
  rw [State.coreVal, hbytes, htags, ofLe_leBytes_mod, show 256 ^ 4 = 2 ^ 32 by norm_num]

theorem State.setCore_outside (s : State) {g off v y : Nat} (p : Bool) (h : y < coreAddr g off ∨ coreAddr g off + 4 ≤ y) :
    Tab.get 0 (s.setCore g off 4 v p).mem y = Tab.get 0 s.mem y ∧
      Tab.get false (s.setCore g off 4 v p).memTag y = Tab.get false s.memTag y := by
  rw [← leBytes_length 4 v] at h
  exact ⟨writeBytes_outside _ _ _ _ h, writeTags_outside _ _ _ _ _ h⟩

/-! ### What a landing write does at its destination -/

theorem Core.setOwn_own (c : Core) : c.setOwn c.own = c := by
  unfold Core.setOwn Core.own
  split <;> rfl

section
variable {s : State} {g : Nat} {w : CWrite}

/-- The register that a write leaves: MOVH keeps the low half. -/
def CWrite.register (w : CWrite) (old : PVal) : PVal :=
  if w.kind = .high then { v := w.v.toNat * 65536 + old.v % 65536, p := w.p || old.p } else { v := w.v.toNat, p := w.p }

theorem State.landOne_reg {p : Nat} (h : w.dest = .reg p) : s.landOne g w =
    s.modCore g fun c => { c with g := Tab.set {} c.g p (w.register (Tab.get {} c.g p)) } := by
  unfold State.landOne CWrite.register
  rw [h]
  cases w.kind <;> rfl

/-- The accumulator that a write leaves. -/
def CWrite.accumulator (w : CWrite) (old : Int × Bool) : Int × Bool :=
  if w.kind = .accumulate then (clampSigned 40 (old.1 + w.v), w.p || old.2) else (w.v, w.p)

theorem CWrite.accumulator_eq (w : CWrite) (old : Int × Bool) : w.accumulator old = if w.kind = .accumulate then
    (max (-2 ^ 39) (min (2 ^ 39 - 1) (old.1 + w.v)), w.p || old.2) else (w.v, w.p) := by
  rw [CWrite.accumulator, clampSigned_eq]

/-- A write to an accumulator adds to it or replaces it, and sets SAT where the sum passes its 40 bits. -/
theorem State.landOne_acc {a : Nat} (h : w.dest = .acc a) : ∃ sat : Bool, s.landOne g w =
      s.modCore g (fun c => { c with acc := c.acc.set a (w.accumulator (c.acc.getD a (0, false))), sat := sat }) ∧
    (w.kind = .accumulate →
      (((s.stall g).core.acc.getD a (0, false)).1 + w.v < -2 ^ 39 ∨ 2 ^ 39 ≤ ((s.stall g).core.acc.getD a (0, false)).1 + w.v) →
      sat = true) := by
  unfold State.landOne CWrite.accumulator
  rw [h]
  cases hkind : w.kind with
  | accumulate =>
    obtain ⟨sum, hsum⟩ : ∃ sum, sum = ((s.stall g).core.acc.getD a (0, false)).1 + w.v := ⟨_, rfl⟩
    refine ⟨(s.stall g).core.sat || clampSigned 40 sum != sum, ?_, fun _ hout => ?_⟩
    · rw [hsum]
      rfl
    · rw [← hsum] at hout
      rw [Bool.or_eq_true, bne_iff_ne, ne_eq, clampSigned_eq_self_iff]
      omega
  | set => exact ⟨(s.stall g).core.sat, rfl, fun hacc => by cases hacc⟩
  | high => exact ⟨(s.stall g).core.sat, rfl, fun hacc => by cases hacc⟩

theorem State.landOne_mem {off : Nat} (h : w.dest = .mem off) : s.landOne g w = s.setCore g off 4 w.v.toNat w.p := by
  unfold State.landOne
  rw [h]

theorem State.landOne_stage {i : Nat} (h : w.dest = .port i) (hi : i < 16) : s.landOne g w =
    s.modCore g fun c => { c with sbStage := Tab.set {} c.sbStage i { v := w.v.toNat, p := w.p } } := by
  unfold State.landOne
  rw [h]
  exact if_pos hi

/-- An address port that no transfer uses keeps the element. -/
theorem State.landOne_port {i : Nat} (h : w.dest = .port i) (hlow : 16 ≤ i) (hhigh : i < 24)
    (huser : (s.stall g).portUser (i - 16) = none) : s.landOne g w =
      s.modCore g fun c => { c with ports := c.ports.set (i - 16) (c.ports.getD (i - 16) [] ++ [w.v.toNat]) } := by
  unfold State.landOne
  rw [h]
  dsimp only
  rw [if_neg (by omega), if_pos hhigh]
  refine State.pullPort_unused ?_ 17
  rw [State.stall_modCore_same]
  exact huser

theorem State.landOne_rrb (h : w.dest = .port 24) : s.landOne g w = s.modCore g fun c => { c with rrb := w.v.toNat % 32 } := by
  unfold State.landOne
  rw [h]
  rfl

theorem State.landOne_irqEn (h : w.dest = .port 25) : s.landOne g w = s.modCore g fun c => { c with irqEn := w.v.toNat % 256 } := by
  unfold State.landOne
  rw [h]
  rfl

theorem State.landOne_irqEdge (h : w.dest = .port 26) : s.landOne g w =
    s.modCore g fun c => { c with irqEdge := c.irqEdge - (c.irqEdge &&& w.v.toNat) } := by
  unfold State.landOne
  rw [h]
  rfl

theorem State.landOne_timer (h : w.dest = .port 27) : s.landOne g w =
    s.modCore g fun c => { c with tmrLoad := w.v.toNat, tmr := w.v.toNat } := by
  unfold State.landOne
  rw [h]
  rfl

/-- The core after it has asked for a tally. -/
def Core.asked (c : Core) : Core := { c with takeSeq := c.takeSeq + 1, tally := c.tally ++ [(c.takeSeq, none)] }

theorem State.landOne_ask {slot gen : Nat} (h : w.dest = .take) (hrun : (s.stall g).run = some (slot, gen)) :
    s.landOne g w = (s.modCore g Core.asked).sendTake g false (s.stall g).core.takeSeq slot gen w.v.toNat := by
  unfold State.landOne
  rw [h]
  dsimp only
  rw [hrun]
  rfl

/-- A take-next request of a tally that a map slot names goes to the bay of the serving cell. -/
theorem State.sendTake_mapped {queue : Bool} {seq slot gen tally : Nat} {m : MapSlot}
    (hmap : (s.stall g).mapSlot slot gen tally = some m) (hfence : s.isFenced m.bay = false) :
    s.sendTake g queue seq slot gen tally = { s with takeQ := Tab.upd [] s.takeQ m.bay (· ++
      [{ stall := g, queue := queue, seq := seq, slot := slot, gen := gen, tally := tally, cell := m.cell }]) } := by
  unfold State.sendTake
  dsimp only
  rw [hmap]
  dsimp only
  rw [if_neg (ne_true_of_eq_false hfence)]

theorem State.landOne_take {slot gen : Nat} {m : MapSlot} (h : w.dest = .take) (hrun : (s.stall g).run = some (slot, gen))
    (hmap : (s.stall g).mapSlot slot gen w.v.toNat = some m) (hfence : s.isFenced m.bay = false) :
    ((s.landOne g w).stall g).core = (s.stall g).core.asked ∧ (s.landOne g w).takeQ = Tab.upd [] s.takeQ m.bay (· ++
      [{ stall := g, queue := false, seq := (s.stall g).core.takeSeq, slot := slot, gen := gen, tally := w.v.toNat, cell := m.cell }]) := by
  have hstall := State.stall_modCore_same s g Core.asked
  have hsend := State.sendTake_mapped (s := s.modCore g Core.asked) (g := g) (queue := false) (seq := (s.stall g).core.takeSeq)
    (slot := slot) (gen := gen) (tally := w.v.toNat) (m := m) (by rw [hstall]; exact hmap) hfence
  rw [State.landOne_ask h hrun, hsend]
  exact ⟨congrArg Stall.core hstall, rfl⟩

end

/-! ### WRITE_LAND, INTERRUPT_ENTRY and ISSUE_TIMER_EXPIRY -/

theorem Core.due_eq_nil {c : Core} (h : c.due = []) : c.notDue = c.own := by
  rw [Core.due, List.filter_eq_nil_iff] at h
  exact List.filter_eq_self.mpr fun w hw => by simpa using h w hw

theorem State.landDue_none {s : State} {g : Nat} (h : (s.stall g).core.due = []) : s.landDue g = s.landing g := by
  rw [State.landDue_eq, h]
  rfl

theorem State.landDue_one {s : State} {g : Nat} {w : CWrite} (h : (s.stall g).core.due = [w]) :
    s.landDue g = (s.landing g).landOne g w := by
  have hkept : kept [w] = [w] := by simp [kept]
  rw [State.landDue_eq, h, hkept]
  rfl

/-- The stall after WRITE_LAND, and the parts that no bookkeeping of the watch touches. -/
theorem State.landed_core (s : State) (g : Nat) : (((s.landDue g).settle g false).stall g).core = ((s.landDue g).stall g).core := by
  rw [State.settle_stall]

theorem State.landed_part (s : State) (g : Nat) {p : Part} (hp : p ∉ [Part.stalls]) : p.same (s.landDue g) ((s.landDue g).settle g false) :=
  State.settle_sameBut _ _ _ p hp

/-- Before its writes land, the core is the one whose timer has been looked at but for the writes in flight. -/
theorem State.landing_core (s : State) (g : Nat) : ∃ main hand, ((s.landing g).stall g).core =
    { (s.stall g).core.expireTimer with main := main, hand := hand } := by
  rw [State.landing_stall, Core.setOwn_eq]
  exact ⟨_, _, rfl⟩

/-- A due write whose landing is a change of the core: the core after WRITE_LAND, and memory as it was. -/
theorem State.landed_modCore {s : State} {g : Nat} {w : CWrite} {f : Core → Core} (hdue : (s.stall g).core.due = [w])
    (hland : (s.landing g).landOne g w = (s.landing g).modCore g f) :
    ∃ main hand, (((s.landDue g).settle g false).stall g).core = f { (s.stall g).core.expireTimer with main := main, hand := hand } ∧
      ((s.landDue g).settle g false).mem = s.mem := by
  obtain ⟨main, hand, hcore⟩ := s.landing_core g
  have hmem := s.landed_part g (p := .mem) (by decide)
  refine ⟨main, hand, ?_, ?_⟩
  · rw [State.landed_core, State.landDue_one hdue, hland, State.stall_modCore_same, hcore]
  · rw [hmem, State.landDue_one hdue, hland]
    rfl

/-- A due write to core memory: the word at its destination, the registers as they were, and every other byte with its tag. -/
theorem State.landed_mem {s : State} {g off : Nat} {w : CWrite} (hdue : (s.stall g).core.due = [w]) (hdest : w.dest = .mem off) :
    let t := (s.landDue g).settle g false
    t.coreVal g off 4 = { v := w.v.toNat % 2 ^ 32, p := w.p } ∧ (t.stall g).core.g = (s.stall g).core.expireTimer.g ∧
      ∀ y, y < coreAddr g off ∨ coreAddr g off + 4 ≤ y →
        Tab.get 0 t.mem y = Tab.get 0 s.mem y ∧ Tab.get false t.memTag y = Tab.get false s.memTag y := by
  have hland := (State.landDue_one hdue).trans (State.landOne_mem hdest)
  have hmem : ((s.landDue g).settle g false).mem = _ := (s.landed_part g (p := .mem) (by decide)).trans (congrArg State.mem hland)
  have htag : ((s.landDue g).settle g false).memTag = _ :=
    (s.landed_part g (p := .memTag) (by decide)).trans (congrArg State.memTag hland)
  obtain ⟨main, hand, hcore⟩ := s.landing_core g
  refine ⟨?_, ?_, fun y hy => ?_⟩
  · rw [State.coreVal_congr hmem htag, State.coreVal_setCore]
  · rw [State.landed_core, hland]
    exact (congrArg Core.g hcore :)
  · rw [hmem, htag]
    exact State.setCore_outside (s.landing g) w.p hy

/-- A due take-next request whose tally a map slot names. -/
theorem State.landed_take {s : State} {g slot gen : Nat} {w : CWrite} {m : MapSlot} (hdue : (s.stall g).core.due = [w])
    (hdest : w.dest = .take) (hrun : (s.stall g).run = some (slot, gen)) (hmap : (s.stall g).mapSlot slot gen w.v.toNat = some m)
    (hfence : s.isFenced m.bay = false) : ∃ main hand,
      (((s.landDue g).settle g false).stall g).core = Core.asked { (s.stall g).core.expireTimer with main := main, hand := hand } ∧
      ((s.landDue g).settle g false).takeQ = Tab.upd [] s.takeQ m.bay (· ++ [{ stall := g, queue := false
                                                                               seq := ((s.landing g).stall g).core.takeSeq
                                                                               slot := slot, gen := gen, tally := w.v.toNat
                                                                               cell := m.cell }]) := by
  obtain ⟨main, hand, hcore⟩ := s.landing_core g
  have hstall := s.landing_stall g
  obtain ⟨hasked, hqueue⟩ := State.landOne_take (s := s.landing g) (g := g) (slot := slot) (gen := gen) (m := m) hdest
    (by rw [hstall]; exact hrun) (by rw [hstall]; exact hmap) hfence
  rw [← State.landDue_one hdue] at hasked hqueue
  refine ⟨main, hand, ?_, (s.landed_part g (p := .takeQ) (by decide)).trans hqueue⟩
  rw [State.landed_core, hasked, hcore]

section
variable {g : StallId} {s : State}

/-- The core of an interrupt that enters. -/
def Core.entered (c : Core) : Core :=
  { c with savedPc := c.pc, savedLoops := c.loops, loops := [], handler := true, pc := c.ivec }

theorem exec_interruptEntry_refused (h : let c := ((s.landDue g).stall g).core
    c.run = false ∨ c.halted = true ∨ c.handler = true ∨ c.mainSinceReti = false ∨ (s.landDue g).irqPend g &&& c.irqEn = 0) :
    exec (.interruptEntry g) s = .next s := by
  refine if_pos ?_
  tauto

theorem exec_interruptEntry (hrun : ((s.landDue g).stall g).core.run = true) (hhalted : ((s.landDue g).stall g).core.halted = false)
    (hhandler : ((s.landDue g).stall g).core.handler = false) (hmain : ((s.landDue g).stall g).core.mainSinceReti = true)
    (hpend : (s.landDue g).irqPend g &&& ((s.landDue g).stall g).core.irqEn ≠ 0) (hup : s.stallUp g = true) :
    exec (.interruptEntry g) s = .next (((s.landDue g).modCore g Core.entered).settle g false) := by
  refine if_neg ?_
  simp [hrun, hhalted, hhandler, hmain, hpend, hup]

/-- In a handler g0 to g15 name the shadow copies. -/
theorem Core.entered_gVal (c : Core) {n : Nat} (h : n < 16) : c.entered.gVal n = Tab.get {} c.g (64 + n) := by
  have hphys : c.entered.phys n = 64 + n := by
    rw [Core.phys, if_pos h]
    rfl
  rw [Core.gVal, hphys]
  rfl

theorem State.modCore_sameBut (s : State) (g : Nat) (f : Core → Core) : SameBut [.stalls] s (s.modCore g f) :=
  (State.modCore_safe (ps := Part.mask [.stalls]) (og := none) s g f rfl (.inl rfl) (.refl s)).sameBut

end

end Sys2Proof.Machine

namespace Sys2Proof.Proofs

open Sys2Proof.Machine

/-- Settles O35: a due write lands at its destination by its rule; interrupt entry and the timer act on the core alone. -/
theorem writesLandAndInterruptsEnter : Obligations.WritesLandAndInterruptsEnter := by
  unfold Obligations.WritesLandAndInterruptsEnter
  intro g s q
  refine ⟨fun w hdue => ?land, fun hnone => ?none, fun u hu => ?enter, ?timer⟩
  case land =>
    replace hdue : (s.stall g).core.due = [w] := by rw [← Core.due_expireTimer]; exact hdue
    refine ⟨_, rfl, ?_, ?_, fun p hdest => ?reg, fun a hdest hlen => ?acc, fun off hdest => ?mem, fun i hdest hkind => ?port,
      fun hdest slot gen m hrun hmap hfence => ?take⟩
    · rw [State.landed_core, State.landDue_own]
      exact (Core.notDue_expireTimer _).symm
    · obtain ⟨-, hpc, -⟩ := Core.parts_of_still ((s.landDue_still g).trans (Core.still_expireTimer _).symm)
      rw [State.landed_core, hpc]
    case reg =>
      obtain ⟨main, hand, hcore, hmem⟩ := State.landed_modCore hdue (State.landOne_reg hdest)
      rw [hcore]
      exact ⟨Tab.get_set_same _ _ _ _, fun p' hne => Tab.get_set_ne _ _ _ hne, rfl, hmem⟩
    case acc =>
      obtain ⟨sat, hland, hsat⟩ := State.landOne_acc (s := s.landing g) (g := g) hdest
      obtain ⟨main, hand, hcore, hmem⟩ := State.landed_modCore hdue hland
      obtain ⟨main', hand', hbefore⟩ := s.landing_core g
      rw [hbefore] at hsat
      rw [hcore]
      refine ⟨?_, fun a' hne => List.getElem?_set_ne hne.symm, rfl, hmem, hsat⟩
      rw [← CWrite.accumulator_eq]
      exact List.getElem?_set_self hlen
    case mem => exact State.landed_mem hdue hdest
    case port =>
      refine ⟨fun hi => ?stage, fun hlow hhigh hlen huser => ?port, fun hi => ?rrb, fun hi => ?irqEn, fun hi => ?irqEdge, fun hi => ?tmr⟩
      case stage =>
        obtain ⟨main, hand, hcore, hmem⟩ := State.landed_modCore hdue (State.landOne_stage hdest hi)
        rw [hcore]
        exact ⟨Tab.get_set_same _ _ _ _, rfl⟩
      case port =>
        obtain ⟨main, hand, hcore, hmem⟩ := State.landed_modCore hdue (State.landOne_port hdest hlow hhigh (by
          rw [State.landing_stall]
          exact huser))
        have hport : i - 16 < q.ports.length := by omega
        rw [hcore]
        exact ⟨List.getElem?_set_self hport, hmem⟩
      all_goals subst hi
      case rrb =>
        obtain ⟨main, hand, hcore, hmem⟩ := State.landed_modCore hdue (State.landOne_rrb hdest)
        rw [hcore]
      case irqEn =>
        obtain ⟨main, hand, hcore, hmem⟩ := State.landed_modCore hdue (State.landOne_irqEn hdest)
        rw [hcore]
      case irqEdge =>
        obtain ⟨main, hand, hcore, hmem⟩ := State.landed_modCore hdue (State.landOne_irqEdge hdest)
        rw [hcore]
        exact bit_sub_and _ _
      case tmr =>
        obtain ⟨main, hand, hcore, hmem⟩ := State.landed_modCore hdue (State.landOne_timer hdest)
        rw [hcore]
        exact ⟨rfl, rfl⟩
    case take =>
      obtain ⟨main, hand, hcore, htakeQ⟩ := State.landed_take hdue hdest hrun hmap hfence
      rw [hcore, htakeQ]
      exact ⟨rfl, _, Tab.get_upd_same _ _ _ _, rfl, rfl, rfl, rfl⟩
  case none =>
    replace hnone : (s.stall g).core.due = [] := by rw [← Core.due_expireTimer]; exact hnone
    refine ⟨_, rfl, ?_, ?_⟩
    · rw [State.landDue_none hnone]
      exact ((s.modCore_sameBut g _).trans (State.modCore_sameBut _ g _)).trans (State.settle_sameBut _ g false)
    · rw [State.landed_core, State.landDue_none hnone, State.landing_stall, Core.due_eq_nil hnone, ← Core.own_expireTimer]
      exact Core.setOwn_own _
  case enter =>
    subst hu
    refine ⟨fun hrun hhalted hhandler hmain hpend hup => ⟨_, exec_interruptEntry hrun hhalted hhandler hmain hpend hup,
      (State.modCore_sameBut _ g _).trans (State.settle_sameBut _ g false), ?_⟩, exec_interruptEntry_refused⟩
    rw [State.settle_stall, State.stall_modCore_same]
    exact ⟨rfl, fun n hn => Core.entered_gVal _ hn, rfl⟩
  case timer =>
    refine ⟨_, rfl, s.modCore_sameBut g _, fun hload hzero => ?_, fun hidle => ?_⟩
    · rw [State.stall_modCore_same, Core.expireTimer, if_pos ⟨hload, hzero⟩]
    · rw [State.stall_modCore_same, Core.expireTimer, if_neg (by tauto)]

end Sys2Proof.Proofs

/-! PROOF. How a bundle of a control core issues, waits or faults (R119, R130, R136 to R150). -/

namespace Sys2Proof.Machine

/-! ### The commands -/

theorem exec_slotOp {g : StallId} (s : State) : ∀ p ∈ slotOps g, exec p.1 s = coreStep g (Bundle.has p.2) s := by
  intro p hp
  fin_cases hp <;> rfl

theorem exec_ctlOp {g : StallId} (s : State) : ∀ p ∈ ctlOps g, exec p.1 s = coreStep g (Bundle.ctl p.2) s := by
  intro p hp
  fin_cases hp <;> rfl

/-- What a core does with a bundle after the checks. -/
def State.follow (u : State) (g : Nat) (b : Bundle) : Verdict → State
  | .wait => u.settle g false
  | .fault cause slot detail => (u.coreFault g cause slot detail).settle g
  | .go outs => (u.issueBundle g (u.nextWord g) b outs).settle g

/-- The command of an operation that the next bundle holds does what the checks say. -/
theorem coreStep_follow {g : Nat} {s u : State} {b : Bundle} {has : Bundle → Bool} (h : s.NextBundle g u b) (hhas : has b = true) :
    coreStep g has s = .next (u.follow g b (u.verdict g b)) := by
  obtain ⟨hrun, hgoing, hup, hrange, rfl, rfl, hok⟩ := h
  unfold coreStep
  dsimp only
  rw [if_neg (by simp [hrun, hgoing, hup]), if_neg (Nat.not_le.mpr hrange), if_neg (by simp [hhas]), if_neg (by simp [hok])]
  cases (s.landDue g).verdict g (Bundle.of ((s.landDue g).nextWord g)) <;> rfl

/-! ### The checks of a bundle that issues -/

/-- What an active slot gives. -/
def State.outOf (s : State) (g : Nat) (b : Bundle) (a : Nat × CoreOp × Slot) : SlotOut :=
  s.slotOut g ((s.stall g).core.fields b) a.1 a.2.1 a.2.2

/-- A bundle that issues: its slots' outcomes hold no fault, its control operation has none, and it waits for nothing. -/
theorem State.verdict_go {s : State} {g : Nat} {b : Bundle} {outs : List SlotOut} (h : s.verdict g b = .go outs) :
    outs = ((s.stall g).core.active b).map (s.outOf g b) ∧ slotFault outs = none ∧ (s.stall g).core.ctlFault b = none ∧
      (s.stall g).bundleWait ((s.stall g).run.getD (0, 0)).1 b = 0 := by
  unfold State.verdict at h
  dsimp only at h
  split at h
  · cases h
  · cases h
  split at h
  · cases h
  split at h
  · cases h
  split at h
  · cases h
  next hctl =>
  split at h
  · cases h
  next hslot =>
  split at h
  · cases h
  split at h
  · cases h
  next hwait =>
  injection h with h
  subst h
  exact ⟨rfl, hslot, hctl, not_not.mp hwait⟩

theorem slotFault_none {outs : List SlotOut} (h : slotFault outs = none) {o : SlotOut} (ho : o ∈ outs) : o.fault = none := by
  have hnone := List.findSome?_eq_none_iff.mp h o ho
  simpa using hnone

section
variable {c : Core} {b : Bundle} (h : c.ctlFault b = none)
include h

theorem Core.ctlFault_target (htaken : c.taken b = true) : b.cimm < c.plen := by
  unfold Core.ctlFault at h
  split at h
  next hnone => simp [Core.taken, hnone] at htaken
  next o _ =>
    by_contra hpast
    split at h
    · cases h
    · rw [if_pos (by simp [htaken, Nat.not_lt.mp hpast])] at h
      cases h

theorem Core.ctlFault_loop (hctrl : b.ctrl = some .loop) : c.handler = false ∧ c.loops.length < 2 := by
  have htaken : c.taken b = false := by simp [Core.taken, hctrl]
  simp only [Core.ctlFault, hctrl, htaken] at h
  split at h
  · cases h
  · rw [if_neg (by simp)] at h
    split at h
    · cases h
    next hdeep =>
      simp only [true_and, not_or, Bool.not_eq_true, Nat.not_le] at hdeep
      exact hdeep

end

/-! ### The writes of a bundle that issues -/

/-- The write that a slot puts into flight: one issue step of its latency passes with the bundle. -/
def SlotOut.flight (o : SlotOut) : Option CWrite := o.write.map fun x => { x with left := x.left - 1 }

section
variable {s : State} {g : Nat} {fs : List Field} {i : Nat} {o : CoreOp} {x : Slot}

theorem State.slotOut_ld (h : (s.slotOut g fs i .ld x).fault = none) :
    let off := ((s.operand g fs i 1).v + (s.operand g fs i 2).v) % 2 ^ 32 / 4 * 4
    off < 0xE00000 ∧ (s.slotOut g fs i .ld x).flight = some { dest := (s.stall g).core.destOf x.dst, kind := .set
                                                              v := (s.coreVal g off 4).v, p := (s.coreVal g off 4).p, left := 3 } := by
  simp only [State.slotOut] at h ⊢
  split at h
  · cases h
  next hpoison =>
  split at h
  · cases h
  next hrange =>
  split at h
  · cases h
  next hport =>
  rw [if_neg hpoison, if_neg hrange, if_neg hport]
  exact ⟨by omega, rfl⟩

theorem State.slotOut_st (h : (s.slotOut g fs i .st x).fault = none) :
    let off := (s.operand g fs i 1).v / 4 * 4
    off < 0xE00000 ∧ (s.slotOut g fs i .st x).flight =
      some { dest := .mem off, kind := .set, v := (s.operand g fs i 2).v, p := (s.operand g fs i 2).p, left := 1 } := by
  simp only [State.slotOut] at h ⊢
  split at h
  · cases h
  next hpoison =>
  split at h
  · cases h
  next hrange =>
  rw [if_neg hpoison, if_neg hrange]
  exact ⟨by omega, rfl⟩

theorem State.slotOut_take (h : (s.slotOut g fs i .take x).fault = none) :
    (s.operand g fs i 1).v < 8192 ∧ (s.slotOut g fs i .take x).flight =
      some { dest := .take, kind := .set, v := (s.operand g fs i 1).v, p := false, left := 0 } := by
  simp only [State.slotOut] at h ⊢
  split at h
  · cases h
  next hpoison =>
  split at h
  · cases h
  next hrange =>
  rw [if_neg hpoison, if_neg hrange]
  exact ⟨by omega, rfl⟩

/-- Every other operation writes its result. -/
theorem State.slotOut_result (hld : o ≠ .ld) (hst : o ≠ .st) (htake : o ≠ .take) (h : (s.slotOut g fs i o x).fault = none) :
    let a := s.operand g fs i 1
    let b := s.operand g fs i 2
    ∃ kind, (s.slotOut g fs i o x).flight = some { dest := (s.stall g).core.destOf x.dst, kind := kind, v := (o.result a b x).1
                                                   p := (decide (1 ≤ o.reads) && a.p) || (decide (2 ≤ o.reads) && b.p)
                                                   left := o.latency - 1 } := by
  intro a b
  unfold State.slotOut at h ⊢
  split at h
  · contradiction
  · contradiction
  · contradiction
  dsimp only at h ⊢
  split at h
  · cases h
  next hport =>
  rw [if_neg hport]
  exact ⟨_, rfl⟩

theorem CoreOp.latency_le (o : CoreOp) : o.latency ≤ 4 := by cases o <;> decide

theorem State.slotOut_latency (h : (s.slotOut g fs i o x).fault = none) : ∃ w, (s.slotOut g fs i o x).flight = some w ∧ w.left ≤ 3 := by
  by_cases hld : o = .ld
  · subst hld
    exact ⟨_, (State.slotOut_ld h).2, le_refl 3⟩
  by_cases hst : o = .st
  · subst hst
    exact ⟨_, (State.slotOut_st h).2, Nat.le_add_left 1 2⟩
  by_cases htake : o = .take
  · subst htake
    exact ⟨_, (State.slotOut_take h).2, Nat.zero_le 3⟩
  obtain ⟨kind, hflight⟩ := State.slotOut_result hld hst htake h
  exact ⟨_, hflight, Nat.sub_le_sub_right o.latency_le 1⟩

end

/-- Where a list's every element gives a value, the values stand at its elements' places. -/
theorem filterMap_total {α β : Type} {f : α → Option β} {l : List α} (h : ∀ a ∈ l, ∃ v, f a = some v) :
    (l.filterMap f).length = l.length ∧ ∀ (j : Nat) (a : α) (v : β), l[j]? = some a → f a = some v → (l.filterMap f)[j]? = some v := by
  induction l with
  | nil => exact ⟨rfl, fun j a v hj => by simp at hj⟩
  | cons a l ih =>
    obtain ⟨v, hv⟩ := h a List.mem_cons_self
    obtain ⟨hlen, hat⟩ := ih fun x hx => h x (List.mem_cons_of_mem _ hx)
    rw [List.filterMap_cons_some hv]
    refine ⟨by simp [hlen], fun j x y hj hy => ?_⟩
    cases j with
    | zero =>
      rw [List.getElem?_cons_zero, Option.some_inj] at hj
      subst hj
      rw [List.getElem?_cons_zero, ← hv, hy]
    | succ j => exact hat j x y hj hy

end Sys2Proof.Machine

/-! PROOF. What issue and the control operation do to a core (R130, R136, R137, R139, R142). -/

namespace Sys2Proof.Machine

/-! ### Issue -/

/-- The core after a bundle's reads of LCOUNT_LO and TALLY, and its saturations, have taken effect. -/
def Core.noted (c : Core) (bus : Option Nat) (high : Nat) (sat : Bool) : Core :=
  let c := if bus = some 8 then { c with lcHigh := high } else c
  let c := if bus = some 10 then { c with tally := c.tally.drop 1 } else c
  { c with sat := c.sat || sat, mainSinceReti := c.mainSinceReti || !c.handler }

/-- The core after the writes of a bundle have entered flight. -/
def Core.joined (c : Core) (new : List CWrite) : Core := (c.advance.setOwn (c.advance.own ++ new)).tickTimer

/-- The state after a bundle has issued, before its control operation acts. -/
def State.issued (s : State) (g w : Nat) (b : Bundle) (outs : List SlotOut) : State :=
  ((s.count .ccoIssued g).count .ccoBusconf g (busLosers ((s.stall g).core.fields b)).length).modCore g fun c =>
    ((c.noted (busWinner ((s.stall g).core.fields b) 2) (s.local (g / 64) / 2 ^ 32 % 2 ^ 32) (outs.any SlotOut.sat)).captureBundle
      w).joined (outs.filterMap SlotOut.flight)

theorem State.issueBundle_eq (s : State) (g w : Nat) (b : Bundle) (outs : List SlotOut) :
    s.issueBundle g w b outs = (s.issued g w b outs).control g b := rfl

/-- A core without the parts that issue reaches: the writes in flight of its context, the loop cache, the timer, and what special
sources and saturations leave. -/
def Core.parked (c : Core) : Core :=
  { c with lcHigh := 0, tally := [], sat := false, mainSinceReti := false, cache := [], tmr := 0
           main := if c.handler then c.main else [], hand := if c.handler then [] else c.hand }

section
variable (c : Core)

theorem Core.parked_noted (bus : Option Nat) (high : Nat) (sat : Bool) : (c.noted bus high sat).parked = c.parked := by
  unfold Core.noted
  dsimp only
  repeat' split
  all_goals rfl

theorem Core.own_noted (bus : Option Nat) (high : Nat) (sat : Bool) : (c.noted bus high sat).own = c.own := by
  unfold Core.noted
  dsimp only
  repeat' split
  all_goals rfl

theorem Core.captureBundle_eq (w : Nat) : c.captureBundle w = { c with cache := (c.captureBundle w).cache } := by
  unfold Core.captureBundle
  repeat' split
  all_goals rfl

theorem Core.parked_captureBundle (w : Nat) : (c.captureBundle w).parked = c.parked := by
  rw [Core.captureBundle_eq]
  rfl

theorem Core.own_captureBundle (w : Nat) : (c.captureBundle w).own = c.own := by
  rw [Core.captureBundle_eq]
  rfl

theorem Core.parked_setOwn (ws : List CWrite) : (c.setOwn ws).parked = c.parked := by
  cases h : c.handler <;> simp [Core.setOwn, Core.parked, h]

theorem Core.parked_tickTimer : c.tickTimer.parked = c.parked := by
  unfold Core.tickTimer
  split <;> rfl

theorem Core.own_advance : c.advance.own = c.own.map fun w => { w with left := w.left - 1 } := c.own_setOwn _

theorem Core.parked_joined (new : List CWrite) : (c.joined new).parked = c.parked := by
  rw [Core.joined, Core.parked_tickTimer, Core.parked_setOwn, Core.advance, Core.parked_setOwn]

theorem Core.own_joined (new : List CWrite) : (c.joined new).own = c.own.map (fun w => { w with left := w.left - 1 }) ++ new := by
  rw [Core.joined, Core.own_tickTimer, Core.own_setOwn, Core.own_advance]

end

/-- Core r is core q after the issue of a bundle whose slots put the writes `new` into flight. -/
structure Core.Issued (q r : Core) (new : List CWrite) : Prop where
  parked : r.parked = q.parked
  own : r.own = q.own.map (fun w => { w with left := w.left - 1 }) ++ new

section
variable {q r : Core} {new : List CWrite} (h : q.Issued r new)
include h

theorem Core.Issued.g : r.g = q.g := (congrArg Core.g h.parked :)
theorem Core.Issued.acc : r.acc = q.acc := (congrArg Core.acc h.parked :)
theorem Core.Issued.sbStage : r.sbStage = q.sbStage := (congrArg Core.sbStage h.parked :)
theorem Core.Issued.ports : r.ports = q.ports := (congrArg Core.ports h.parked :)
theorem Core.Issued.rrb : r.rrb = q.rrb := (congrArg Core.rrb h.parked :)
theorem Core.Issued.loops : r.loops = q.loops := (congrArg Core.loops h.parked :)
theorem Core.Issued.pc : r.pc = q.pc := (congrArg Core.pc h.parked :)
theorem Core.Issued.handler : r.handler = q.handler := (congrArg Core.handler h.parked :)
theorem Core.Issued.savedPc : r.savedPc = q.savedPc := (congrArg Core.savedPc h.parked :)
theorem Core.Issued.savedLoops : r.savedLoops = q.savedLoops := (congrArg Core.savedLoops h.parked :)

theorem Core.Issued.main (hq : q.handler = true) : r.main = q.main := by
  have hmain := (congrArg Core.main h.parked :)
  simpa [Core.parked, h.handler, hq] using hmain

theorem Core.Issued.gVal (n : Nat) : r.gVal n = q.gVal n := by simp only [Core.gVal, Core.phys, h.g, h.handler, h.rrb]

theorem Core.Issued.taken (b : Bundle) : r.taken b = q.taken b := by simp only [Core.taken, h.gVal]

end

section
variable (s : State) (g w : Nat) (b : Bundle) (outs : List SlotOut)

theorem State.issued_stall : (s.issued g w b outs).stall g = { s.stall g with core := ((s.issued g w b outs).stall g).core } := by
  conv_lhs => rw [State.issued, State.stall_modCore_same]
  rw [State.issued, State.stall_modCore_same]
  rfl

theorem State.issued_core : (s.stall g).core.Issued ((s.issued g w b outs).stall g).core (outs.filterMap SlotOut.flight) := by
  rw [State.issued, State.stall_modCore_same]
  refine ⟨?_, ?_⟩
  · rw [Core.parked_joined, Core.parked_captureBundle, Core.parked_noted]
    rfl
  · rw [Core.own_joined, Core.own_captureBundle, Core.own_noted]
    rfl

theorem State.issued_ccoIssued : (s.issued g w b outs).reg .ccoIssued g = min (2 ^ 64 - 1) (s.reg .ccoIssued g + 1) :=
  (State.reg_setReg_ne _ _ (by simp [RegAt.off, Rn.spec])).trans (s.reg_count_same _ _ _ _)

theorem State.issued_ccoBusconf : (s.issued g w b outs).reg .ccoBusconf g =
    min (2 ^ 32 - 1) (s.reg .ccoBusconf g + (busLosers ((s.stall g).core.fields b)).length) := by
  refine (State.reg_count_same _ _ _ _ _).trans ?_
  rw [State.count, State.reg_setReg_ne _ _ (by simp [RegAt.off, Rn.spec])]
  rfl

end

/-! ### The control operation -/

/-- What WAITT, PUB and TRAP do before issue goes on. -/
def State.acted (s : State) (g : Nat) (b : Bundle) : State :=
  match b.ctrl with
  | some .waitt => s.modStall g fun st => st.takeCount ((s.stall g).run.getD (0, 0)).1 true (bits b.cimm 11 0)
  | some .pub =>
    let t := s.modCore g fun c => { c with sb := c.sbStage }
    if bit b.cimm 12 then t.produce g ((s.stall g).run.getD (0, 0)).1 ((s.stall g).run.getD (0, 0)).2 (bits b.cimm 11 0) 0 else t
  | some .trap => s.raise .ccoEvent g 1 0x121 g b.cimm (s.stall g).core.pc
  | _ => s

section
variable {s : State} {g : Nat} {b : Bundle}

theorem State.control_taken (h : (s.stall g).core.taken b = true) : s.control g b = s.modCore g fun c => c.jump b.cimm := by
  have hbranch : b.ctrl = some .br ∨ b.ctrl = some .bz ∨ b.ctrl = some .bnz ∨ b.ctrl = some .bltz := by
    unfold Core.taken at h
    dsimp only at h
    split at h <;> simp_all
  obtain hctrl | hctrl | hctrl | hctrl := hbranch
  all_goals
    unfold State.control
    rw [hctrl]
    exact if_pos h

theorem State.control_loop (h : b.ctrl = some .loop) : s.control g b = s.modCore g fun c => c.startLoop b := by
  unfold State.control
  rw [h]

theorem State.control_reti (h : b.ctrl = some .reti) : s.control g b = s.leaveHandler g := by
  unfold State.control
  rw [h]

theorem State.control_halt (h : b.ctrl = some .halt) : s.control g b = s.haltCore g := by
  unfold State.control
  rw [h]

/-- Every other control operation goes on to the next bundle. -/
theorem State.control_next (htaken : (s.stall g).core.taken b = false) (hloop : b.ctrl ≠ some .loop) (hreti : b.ctrl ≠ some .reti)
    (hhalt : b.ctrl ≠ some .halt) : s.control g b = (s.acted g b).modCore g Core.next := by
  have hstay : ¬ (s.stall g).core.taken b = true := by simp [htaken]
  unfold State.control State.acted
  rcases hctrl : b.ctrl with _ | o
  · rfl
  · cases o
    case loop | reti | halt => contradiction
    case br | bz | bnz | bltz => exact if_neg hstay
    all_goals rfl

end

/-! ### The next index -/

section
variable {c : Core}

theorem Core.next_outside (h : c.loops = []) : c.next = { c with pc := c.pc + 1 } := by
  rw [Core.next, Core.fallThrough, h]

theorem Core.next_within {l : Loop} {outer : List Loop} (h : c.loops = l :: outer) (hend : l.first + l.len ≠ c.pc + 1) :
    c.next = { c with pc := c.pc + 1 } := by
  rw [Core.next, Core.fallThrough, h]
  exact if_pos hend

theorem Core.next_again {l : Loop} {outer : List Loop} (h : c.loops = l :: outer) (hend : l.first + l.len = c.pc + 1)
    (hmore : l.k + 1 < l.n + l.s) :
    c.next = { c with rrb := if l.rot then (c.rrb + 31) % 32 else c.rrb, pc := l.first, loops := { l with k := l.k + 1 } :: outer } := by
  rw [Core.next, Core.fallThrough, h]
  dsimp only
  rw [if_neg (not_not_intro hend), if_pos hmore]

/-- A core without what the control operation reaches: its place, its loops with their cache, RRB and the published set. -/
def Core.working (c : Core) : Core := { c with pc := 0, loops := [], rrb := 0, tag := none, cache := [], sb := [] }

theorem Core.working_fallThrough (n fuel : Nat) : (c.fallThrough n fuel).working = c.working := by
  induction fuel generalizing c with
  | zero => rfl
  | succ fuel ih =>
    unfold Core.fallThrough
    split
    · rfl
    · split
      · rfl
      · dsimp only
        split
        · rfl
        · rw [ih]
          rfl

theorem Core.working_next : c.next.working = c.working := Core.working_fallThrough _ _

theorem Core.working_startLoop (b : Bundle) : (c.startLoop b).working = c.working := by
  unfold Core.startLoop
  dsimp only
  split
  · exact Core.working_fallThrough _ _
  · split <;> rfl

end

/-! ### What the control operation leaves -/

section
variable (s : State) (g : Nat) (b : Bundle)

theorem State.produce_regs_inCore (slot gen name chan : Nat) {q : RegAt} (hq : q.inCore) :
    (s.produce g slot gen name chan).regAt q = s.regAt q := by
  have hcount := (State.count_aside 1 (outside_inCore (r := .stlTokProd) g 0 (by simp)) (.refl g s)).regs q hq
  unfold State.produce
  dsimp only
  split
  · exact hcount
  · exact (State.regAt_congr (State.tokenOut_regs _ _ _ _ _ _) q).trans hcount

theorem State.produce_mem (slot gen name chan : Nat) :
    (s.produce g slot gen name chan).mem = s.mem ∧ (s.produce g slot gen name chan).memTag = s.memTag := by
  unfold State.produce State.tokenOut
  dsimp only
  repeat' split
  all_goals exact ⟨rfl, rfl⟩

theorem State.acted_core : ∃ sb, ((s.acted g b).stall g).core = { (s.stall g).core with sb := sb } := by
  unfold State.acted
  dsimp only
  split
  · rw [State.stall_modStall_same]
    exact ⟨_, rfl⟩
  · split
    · rw [State.produce_stall, State.stall_modCore_same]
      exact ⟨_, rfl⟩
    · rw [State.stall_modCore_same]
      exact ⟨_, rfl⟩
  · rw [State.stall_congr (s := s) g (by simp)]
    exact ⟨_, rfl⟩
  · exact ⟨_, rfl⟩

theorem State.acted_mem : (s.acted g b).mem = s.mem ∧ (s.acted g b).memTag = s.memTag := by
  unfold State.acted
  dsimp only
  split
  · exact ⟨rfl, rfl⟩
  · split
    · exact State.produce_mem _ _ _ _ _ _
    · exact ⟨rfl, rfl⟩
  · simp
  · exact ⟨rfl, rfl⟩

theorem State.acted_reg {r : Rn} (hr : r ∈ [Rn.ccoIssued, .ccoBusconf]) : (s.acted g b).reg r g = s.reg r g := by
  have hcore : (RegAt.mk r g 0 0).inCore := cco_inCore g (by fin_cases hr <;> simp)
  unfold State.acted
  dsimp only
  split
  · rfl
  · split
    · exact State.produce_regs_inCore _ _ _ _ _ _ hcore
    · rfl
  · exact State.reg_raise_ne _ _ _ _ _ _ (by fin_cases hr <;> simp [RegAt.off, Rn.spec])
  · rfl

end

/-- A control operation other than HALT and RETI leaves memory, what its core works with, and the counters of issue. -/
structure State.Steered (g : Nat) (s t : State) : Prop where
  mem : t.mem = s.mem
  memTag : t.memTag = s.memTag
  core : (t.stall g).core.working = (s.stall g).core.working
  regs : ∀ r ∈ [Rn.ccoIssued, .ccoBusconf], t.reg r g = s.reg r g

section
variable {s : State} {g : Nat} {b : Bundle}

theorem State.modCore_steered {f : Core → Core} (hf : (f (s.stall g).core).working = (s.stall g).core.working) :
    s.Steered g (s.modCore g f) := ⟨rfl, rfl, by rw [State.stall_modCore_same]; exact hf, fun _ _ => rfl⟩

theorem State.control_steered (hreti : b.ctrl ≠ some .reti) (hhalt : b.ctrl ≠ some .halt) : s.Steered g (s.control g b) := by
  by_cases htaken : (s.stall g).core.taken b = true
  · rw [State.control_taken htaken]
    exact State.modCore_steered rfl
  by_cases hloop : b.ctrl = some .loop
  · rw [State.control_loop hloop]
    exact State.modCore_steered (Core.working_startLoop b)
  rw [State.control_next (Bool.eq_false_iff.mpr htaken) hloop hreti hhalt]
  obtain ⟨sb, hcore⟩ := s.acted_core g b
  obtain ⟨hmem, htag⟩ := s.acted_mem g b
  refine ⟨hmem, htag, ?_, fun r hr => s.acted_reg g b hr⟩
  rw [State.stall_modCore_same, hcore]
  exact Core.working_next

end

end Sys2Proof.Machine

/-! PROOF. The ten control operations (R120, R136, R137, R142, R149, R155, R157). -/

namespace Sys2Proof.Machine

/-! ### A bundle that issues under a control operation's command -/

theorem exec_ctlOp_go {g : StallId} {s u : State} {b : Bundle} {c : Instr} {o : CtlOp} {outs : List SlotOut} (hop : (c, o) ∈ ctlOps g)
    (hnext : s.NextBundle g u b) (hctrl : b.ctrl = some o) (hgo : u.verdict g b = .go outs) :
    exec c s = .next (((u.issued g (u.nextWord g) b outs).control g b).settle g) := by
  have hhas : Bundle.ctl o b = true := by rw [Bundle.ctl, hctrl, beq_self_eq_true]
  rw [exec_ctlOp s (c, o) hop, coreStep_follow hnext hhas, hgo]
  rfl

theorem State.settle_core (s : State) (g : Nat) (activity : Bool) : ((s.settle g activity).stall g).core = (s.stall g).core := by
  rw [State.settle_stall]

theorem State.regAt_modCore (s : State) (g : Nat) (f : Core → Core) (q : RegAt) : (s.modCore g f).regAt q = s.regAt q := rfl

theorem State.events_modCore (s : State) (g : Nat) (f : Core → Core) : (s.modCore g f).events = s.events := rfl

/-! ### Branches and loops -/

/-- Where issue goes on after a bundle at q's place. -/
theorem Core.next_place {q c : Core} (hpc : c.pc = q.pc) (hloops : c.loops = q.loops) (hrrb : c.rrb = q.rrb) :
    (q.loops = [] → c.next.pc = q.pc + 1) ∧ ∀ l outer, q.loops = l :: outer →
      (l.first + l.len ≠ q.pc + 1 → c.next.pc = q.pc + 1 ∧ c.next.loops = q.loops) ∧
      (l.first + l.len = q.pc + 1 → l.k + 1 < l.n + l.s → c.next.pc = l.first ∧ c.next.loops = { l with k := l.k + 1 } :: outer ∧
        c.next.rrb = if l.rot then (q.rrb + 31) % 32 else q.rrb) := by
  rw [← hpc, ← hloops, ← hrrb]
  refine ⟨fun h => ?_, fun l outer h => ⟨fun hend => ?_, fun hend hmore => ?_⟩⟩
  · rw [Core.next_outside h]
  · rw [Core.next_within h hend]
    exact ⟨rfl, rfl⟩
  · rw [Core.next_again h hend hmore]
    exact ⟨rfl, rfl, rfl⟩

theorem Core.next_sb (c : Core) : c.next.sb = c.sb := by
  have hfall (n fuel : Nat) : ∀ d : Core, (d.fallThrough n fuel).sb = d.sb := by
    induction fuel with
    | zero => exact fun _ => rfl
    | succ fuel ih =>
      intro d
      unfold Core.fallThrough
      repeat' first | rfl | exact ih _ | (dsimp only; split) | split
  exact hfall _ _ c

theorem Core.startLoop_empty {c : Core} {b : Bundle} (hn : (c.gVal b.creg).v = 0) (hloops : c.loops = []) :
    c.startLoop b = { c with pc := c.pc + 1 + (bits b.cimm 5 0 + 1) } := by
  unfold Core.startLoop
  dsimp only
  rw [if_pos hn, Core.fallThrough, hloops]

theorem Core.startLoop_first {c : Core} {b : Bundle} (hn : (c.gVal b.creg).v ≠ 0) :
    (c.startLoop b).pc = c.pc + 1 ∧ (c.startLoop b).loops = { first := c.pc + 1, len := bits b.cimm 5 0 + 1, n := (c.gVal b.creg).v
                                                              s := bits b.cimm 9 7, rot := bit b.cimm 6, k := 0 } :: c.loops := by
  unfold Core.startLoop
  dsimp only
  rw [if_neg hn]
  split <;> exact ⟨rfl, rfl⟩

/-! ### WAITT, PUB and TRAP -/

theorem Stall.bundleWait_waitt {st : Stall} {slot : Nat} {b : Bundle} (h : st.bundleWait slot b = 0) (hctrl : b.ctrl = some .waitt) :
    st.count slot true (bits b.cimm 11 0) ≠ 0 := by
  intro hzero
  unfold Stall.bundleWait at h
  dsimp only at h
  simp only [hctrl, hzero, beq_self_eq_true, Bool.and_self, if_true] at h
  have hwaits (p q r : Prop) [Decidable p] [Decidable q] [Decidable r] : (if p then 3 else if q then 7 else if r then 4 else 2) ≠ 0 := by
    split_ifs <;> decide
  exact hwaits _ _ _ h

theorem State.acted_waitt {s : State} {g : Nat} {b : Bundle} (h : b.ctrl = some .waitt) :
    (s.acted g b).stall g = (s.stall g).takeCount ((s.stall g).run.getD (0, 0)).1 true (bits b.cimm 11 0) := by
  unfold State.acted
  rw [h]
  exact State.stall_modStall_same _ _ _

theorem Stall.count_takeCount (st : Stall) (slot : Nat) (core : Bool) (name : Nat) :
    (st.takeCount slot core name).count slot core name = st.count slot core name - 1 := by
  unfold Stall.count Stall.takeCount
  exact Tab.get_upd_same 0 st.counts (countKey slot core name) (· - 1)

theorem State.acted_pub_core {s : State} {g : Nat} {b : Bundle} (h : b.ctrl = some .pub) :
    ((s.acted g b).stall g).core = { (s.stall g).core with sb := (s.stall g).core.sbStage } := by
  unfold State.acted
  rw [h]
  dsimp only
  split
  · rw [State.produce_stall, State.stall_modCore_same]
  · rw [State.stall_modCore_same]

theorem State.acted_pub_silent {s : State} {g : Nat} {b : Bundle} (h : b.ctrl = some .pub) (hbit : bit b.cimm 12 = false) :
    (s.acted g b).tokens = s.tokens := by
  unfold State.acted
  rw [h]
  dsimp only
  rw [if_neg (by simp [hbit])]
  rfl

/-- A token toward queues or a control core is handed on as one packet. -/
theorem State.produce_tokens {s : State} {g slot gen name chan : Nat} {k : TokRec} (htok : (s.job slot).token g name = some k)
    (hkind : k.ckind < 2) : (s.produce g slot gen name chan).tokens = s.tokens ++ [
      { name := BitVec.ofNat 12 k.name, core := k.ckind == 1, stall := Fin.ofNat 2048 k.cstall, slot := Fin.ofNat 1024 slot
        gen := BitVec.ofNat 8 gen, producer := Fin.ofNat 2048 g }] := by
  have htok' : ((s.count .stlTokProd g).job slot).token g name = some k := htok
  unfold State.produce
  dsimp only
  rw [htok']
  dsimp only
  unfold State.tokenOut
  dsimp only
  split
  · omega
  · omega
  · rfl

theorem State.acted_pub_token {s : State} {g : Nat} {b : Bundle} {slot gen : Nat} {k : TokRec} (h : b.ctrl = some .pub)
    (hbit : bit b.cimm 12 = true) (hrun : (s.stall g).run = some (slot, gen))
    (htok : (s.job slot).token g (bits b.cimm 11 0) = some k) (hkind : k.ckind < 2) : (s.acted g b).tokens = s.tokens ++ [
      { name := BitVec.ofNat 12 k.name, core := k.ckind == 1, stall := Fin.ofNat 2048 k.cstall, slot := Fin.ofNat 1024 slot
        gen := BitVec.ofNat 8 gen, producer := Fin.ofNat 2048 g }] := by
  unfold State.acted
  rw [h]
  dsimp only
  rw [if_pos hbit, hrun]
  exact State.produce_tokens htok hkind

theorem State.acted_trap {s : State} {g : Nat} {b : Bundle} (h : b.ctrl = some .trap) :
    s.acted g b = s.raise .ccoEvent g 1 0x121 g b.cimm (s.stall g).core.pc := by
  unfold State.acted
  rw [h]

/-! ### RETI and HALT -/

/-- The core of a handler that has returned. -/
def Core.resumed (c : Core) : Core :=
  { c with handler := false, loops := c.savedLoops, savedLoops := [], pc := c.savedPc, mainSinceReti := false }

theorem State.leaveHandler_handler {s : State} {g : Nat} (h : (s.stall g).core.handler = true) :
    s.leaveHandler g = (s.drainOwn g 6).modCore g Core.resumed := if_pos h

theorem State.leaveHandler_main {s : State} {g : Nat} (h : (s.stall g).core.handler = false) : s.leaveHandler g = s.modCore g Core.next :=
  if_neg (by simp [h])

/-- The writes of a bundle that issues, and those before it that had at most 4 issue steps left, have at most 3. -/
theorem State.issued_left {s : State} {g w : Nat} {b : Bundle} {outs : List SlotOut} (hgo : s.verdict g b = .go outs)
    (hown : ∀ x ∈ (s.stall g).core.own, x.left ≤ 4) : ∀ x ∈ ((s.issued g w b outs).stall g).core.own, x.left ≤ 3 := by
  obtain ⟨houts, hslot, -, -⟩ := State.verdict_go hgo
  intro x hx
  rw [(s.issued_core g w b outs).own, List.mem_append] at hx
  obtain hx | hx := hx
  · obtain ⟨y, hy, rfl⟩ := List.mem_map.mp hx
    exact Nat.sub_le_sub_right (hown y hy) 1
  · obtain ⟨y, hy, hflight⟩ := List.mem_filterMap.mp hx
    have hfault := slotFault_none hslot hy
    rw [houts] at hy
    obtain ⟨a, -, rfl⟩ := List.mem_map.mp hy
    obtain ⟨v, hv, hleft⟩ := State.slotOut_latency hfault
    rw [State.outOf, hv, Option.some_inj] at hflight
    rwa [← hflight]

/-! ### The core after each of them -/

section
variable {s : State} {g : Nat} {b : Bundle} {q : Core} {new : List CWrite} (hq : q.Issued (s.stall g).core new)
include hq

theorem State.control_taken_core (htaken : q.taken b = true) : ((s.control g b).stall g).core.pc = b.cimm ∧
    ((s.control g b).stall g).core.loops = q.loops.filter fun l => decide (l.first ≤ b.cimm) && decide (b.cimm < l.first + l.len) := by
  rw [State.control_taken ((hq.taken b).trans htaken), State.stall_modCore_same, ← hq.loops]
  exact ⟨rfl, rfl⟩

theorem State.control_next_core (htaken : q.taken b = false) (hloop : b.ctrl ≠ some .loop) (hreti : b.ctrl ≠ some .reti)
    (hhalt : b.ctrl ≠ some .halt) : let r := ((s.control g b).stall g).core
    (q.loops = [] → r.pc = q.pc + 1) ∧ ∀ l outer, q.loops = l :: outer →
      (l.first + l.len ≠ q.pc + 1 → r.pc = q.pc + 1 ∧ r.loops = q.loops) ∧
      (l.first + l.len = q.pc + 1 → l.k + 1 < l.n + l.s → r.pc = l.first ∧ r.loops = { l with k := l.k + 1 } :: outer ∧
        r.rrb = if l.rot then (q.rrb + 31) % 32 else q.rrb) := by
  obtain ⟨sb, hcore⟩ := s.acted_core g b
  rw [State.control_next ((hq.taken b).trans htaken) hloop hreti hhalt, State.stall_modCore_same, hcore]
  exact Core.next_place hq.pc hq.loops hq.rrb

theorem State.control_loop_core (hctrl : b.ctrl = some .loop) : let r := ((s.control g b).stall g).core
    let v := (q.gVal b.creg).v
    (v ≠ 0 → r.pc = q.pc + 1 ∧ r.loops =
      { first := q.pc + 1, len := bits b.cimm 5 0 + 1, n := v, s := bits b.cimm 9 7, rot := bit b.cimm 6, k := 0 } :: q.loops) ∧
    (v = 0 → q.loops = [] → r.pc = q.pc + 1 + (bits b.cimm 5 0 + 1) ∧ r.loops = []) := by
  rw [State.control_loop hctrl, State.stall_modCore_same, ← hq.gVal, ← hq.pc, ← hq.loops]
  refine ⟨Core.startLoop_first, fun hn hloops => ?_⟩
  rw [Core.startLoop_empty hn hloops]
  exact ⟨rfl, hloops⟩

theorem State.control_reti_handler (hctrl : b.ctrl = some .reti) (hhandler : q.handler = true) :
    let r := ((s.control g b).stall g).core
    r.handler = false ∧ r.pc = q.savedPc ∧ r.loops = q.savedLoops ∧ r.main = q.main ∧ r.mainSinceReti = false ∧
      ((∀ w ∈ (s.stall g).core.own, w.left ≤ 3) → r.hand = []) := by
  have hdrained : ((s.drainOwn g 6).stall g).core.handler = true ∧ ((s.drainOwn g 6).stall g).core.savedPc = q.savedPc ∧
      ((s.drainOwn g 6).stall g).core.savedLoops = q.savedLoops ∧ ((s.drainOwn g 6).stall g).core.main = q.main := by
    obtain ⟨hhand, -, -, hpc, hloops, hmain⟩ := Core.parts_of_still (s.drainOwn_still g 6)
    exact ⟨hhand.trans (hq.handler.trans hhandler), hpc.trans hq.savedPc, hloops.trans hq.savedLoops,
      (hmain (hq.handler.trans hhandler)).trans (hq.main hhandler)⟩
  obtain ⟨hhand, hpc, hloops, hmain⟩ := hdrained
  rw [State.control_reti hctrl, State.leaveHandler_handler (hq.handler.trans hhandler), State.stall_modCore_same]
  refine ⟨rfl, hpc, hloops, hmain, rfl, fun hleft => ?_⟩
  have hown := State.drainOwn_own (show 3 < 6 by decide) hleft
  rwa [Core.own, if_pos hhand] at hown

theorem State.control_reti_main (hctrl : b.ctrl = some .reti) (hhandler : q.handler = false) (hloops : q.loops = []) :
    ((s.control g b).stall g).core.pc = q.pc + 1 := by
  rw [State.control_reti hctrl, State.leaveHandler_main (hq.handler.trans hhandler), State.stall_modCore_same,
    Core.next_outside (hq.loops.trans hloops), ← hq.pc]

theorem State.control_halt_core (hctrl : b.ctrl = some .halt) : let r := ((s.control g b).stall g).core
    r.halted = true ∧ r.run = false ∧ r.pc = q.pc ∧ ((∀ w ∈ (s.stall g).core.own, w.left ≤ 3) → r.own = []) := by
  obtain ⟨-, hpc, -⟩ := Core.parts_of_still (s.drainOwn_still g 6)
  rw [State.control_halt hctrl, State.haltCore, State.stall_modCore_same]
  exact ⟨rfl, rfl, hpc.trans hq.pc, fun hleft => State.drainOwn_own (show 3 < 6 by decide) hleft⟩

end

section
variable {c : Core} {b : Bundle} {o : CtlOp} (h : b.ctrl = some o)
include h

/-- A branch is taken where its test of CREG holds. -/
theorem Core.taken_of_branch (hbranch : o = .br ∨ (o = .bz ∧ (c.gVal b.creg).v = 0) ∨ (o = .bnz ∧ (c.gVal b.creg).v ≠ 0) ∨
    (o = .bltz ∧ bit (c.gVal b.creg).v 31 = true)) : c.taken b = true := by
  obtain rfl | ⟨rfl, hv⟩ | ⟨rfl, hv⟩ | ⟨rfl, hv⟩ := hbranch
  · simp [Core.taken, h]
  all_goals simp [Core.taken, h, hv]

/-- Where it does not, and for an operation that is no branch, issue goes on. -/
theorem Core.taken_of_stay (hstay : (o = .bz ∧ (c.gVal b.creg).v ≠ 0) ∨ (o = .bnz ∧ (c.gVal b.creg).v = 0) ∨
    (o = .bltz ∧ bit (c.gVal b.creg).v 31 = false) ∨ o = .waitt ∨ o = .pub ∨ o = .trap) : c.taken b = false := by
  obtain ⟨rfl, hv⟩ | ⟨rfl, hv⟩ | ⟨rfl, hv⟩ | rfl | rfl | rfl := hstay
  case inr.inr.inr.inl | inr.inr.inr.inr.inl | inr.inr.inr.inr.inr => simp [Core.taken, h]
  all_goals simp [Core.taken, h, hv]

end

end Sys2Proof.Machine

namespace Sys2Proof.Proofs

open Sys2Proof.Machine

/-- Settles O34: the bundle issues, and its control operation acts on a core that is at its place with its loops and registers. -/
theorem controlOperationsSteerTheCore : Obligations.ControlOperationsSteerTheCore := by
  unfold Obligations.ControlOperationsSteerTheCore
  intro g s u b c o outs hop hnext hctrl hgo q v
  obtain ⟨-, -, hfault, hwait⟩ := State.verdict_go hgo
  have hq := u.issued_core g (u.nextWord g) b outs
  have hstall := u.issued_stall g (u.nextWord g) b outs
  have hleft := State.issued_left (w := u.nextWord g) hgo
  have hparts : (u.issued g (u.nextWord g) b outs).tokens = u.tokens ∧ (u.issued g (u.nextWord g) b outs).jobs = u.jobs ∧
      (u.issued g (u.nextWord g) b outs).events = u.events := ⟨rfl, rfl, rfl⟩
  refine ⟨_, exec_ctlOp_go hop hnext hctrl hgo, ?_⟩
  generalize u.issued g (u.nextWord g) b outs = y at *
  obtain ⟨htokens, hjobs, hevents⟩ := hparts
  simp only [State.settle_core]
  have hacted (ho : o = .waitt ∨ o = .pub ∨ o = .trap) : y.control g b = (y.acted g b).modCore g Core.next := by
    refine State.control_next ((hq.taken b).trans (Core.taken_of_stay hctrl (.inr (.inr (.inr ho))))) ?_ ?_ ?_ <;>
      · rw [hctrl]
        obtain rfl | rfl | rfl := ho <;> decide
  refine ⟨fun hbranch => ?branch, fun hstay => ?stay, fun hloop => ?loop, fun hwaitt slot gen hrun => ?waitt, fun hpub => ?pub,
    fun htrap => ?trap, fun hreti => ?reti, fun hhalt => ?halt⟩
  case branch =>
    have htaken := Core.taken_of_branch hctrl hbranch
    obtain ⟨hpc, hloops⟩ := State.control_taken_core hq htaken
    exact ⟨hpc, Core.ctlFault_target hfault htaken, hloops⟩
  case stay =>
    refine State.control_next_core hq (Core.taken_of_stay hctrl hstay) ?_ ?_ ?_ <;>
      · rw [hctrl]
        obtain ⟨rfl, -⟩ | ⟨rfl, -⟩ | ⟨rfl, -⟩ | rfl | rfl | rfl := hstay <;> decide
  case loop =>
    subst hloop
    obtain ⟨-, hdepth⟩ := Core.ctlFault_loop hfault hctrl
    exact ⟨hdepth, State.control_loop_core hq hctrl⟩
  case waitt =>
    have hstart : (y.stall g).run = some (slot, gen) := by rw [hstall]; exact hrun
    have hcounts : (y.stall g).count slot true (bits b.cimm 11 0) = (u.stall g).count slot true (bits b.cimm 11 0) := by
      rw [hstall]
      rfl
    rw [hrun] at hwait
    have hpos := Stall.bundleWait_waitt hwait (hwaitt ▸ hctrl)
    rw [State.settle_stall, hacted (.inl hwaitt), State.stall_modCore_same, State.acted_waitt (hwaitt ▸ hctrl), hstart]
    refine (congrArg (· + 1) (Stall.count_takeCount (y.stall g) slot true _)).trans ?_
    rw [hcounts]
    exact Nat.sub_add_cancel (Nat.one_le_iff_ne_zero.mpr hpos)
  case pub =>
    have hpubbed : b.ctrl = some .pub := hpub ▸ hctrl
    have hsent : ((y.control g b).settle g).tokens = (y.acted g b).tokens := by
      rw [hacted (.inr (.inl hpub))]
      rfl
    refine ⟨?_, fun hbit => ?_, fun slot gen k hbit hrun htok hkind => ?_⟩
    · rw [hacted (.inr (.inl hpub)), State.stall_modCore_same, Core.next_sb, State.acted_pub_core hpubbed]
      exact hq.sbStage
    · rw [hsent, State.acted_pub_silent hpubbed hbit, htokens]
    · rw [hsent, State.acted_pub_token hpubbed hbit (by rw [hstall]; exact hrun) (by rw [State.job_congr slot hjobs]; exact htok) hkind,
        htokens]
      exact ⟨_, rfl, rfl, rfl, rfl⟩
  case trap =>
    have hraised : y.control g b = (y.raise .ccoEvent g 1 0x121 g b.cimm q.pc).modCore g Core.next := by
      rw [hacted (.inr (.inr htrap)), State.acted_trap (htrap ▸ hctrl), hq.pc]
    have hcimm : b.cimm < 2 ^ 13 := by
      rw [hnext.bundle]
      exact bits_lt _ _ _
    rw [hraised]
    refine ⟨?_, ?_⟩
    · rw [State.reg, State.settle_regAt, State.regAt_modCore]
      exact (congrArg (bit · 1) (y.reg_raise_same .ccoEvent g 1 0x121 g b.cimm q.pc 0)).trans (bit_evAdvance_same _ (by decide))
    · rw [State.settle_events, State.events_modCore, State.raise_events, hevents]
      exact ⟨_, rfl, Nat.mul_add_mod_self_right _ _ _, Nat.mod_eq_of_lt (by omega), Nat.mod_eq_of_lt (by omega), rfl⟩
  case reti =>
    subst hreti
    refine ⟨fun hhandler => ?_, State.control_reti_main hq hctrl⟩
    obtain ⟨hhand, hpc, hloops, hmain, hmark, hempty⟩ := State.control_reti_handler hq hctrl hhandler
    refine ⟨hhand, hpc, hloops, hmain, hmark, fun hlate => hempty (hleft ?_)⟩
    rwa [Core.own, if_pos hhandler]
  case halt =>
    subst hhalt
    obtain ⟨hhalted, hrun, hpc, hempty⟩ := State.control_halt_core hq hctrl
    exact ⟨hhalted, hrun, hpc, fun hlate => hempty (hleft hlate)⟩

end Sys2Proof.Proofs

/-! PROOF. The slot operations: issue, wait and fault of a bundle (R119, R124, R130, R135, R138, R150, R156). -/

namespace Sys2Proof.Machine

/-! ### A fault of a control core -/

/-- A core that has stopped. -/
def Core.stopped (c : Core) : Core := { c with run := false, halted := true }

/-- The state of a core that faults, once the writes in flight of its contexts have landed. -/
def State.faultLanded (s : State) (g : Nat) : State :=
  if (s.stall g).core.handler then
    (((s.landAll g 5).modCore g fun c => { c with handler := false }).landAll g 5).modCore g fun c => { c with handler := true }
  else s.landAll g 5

/-- It stops, and its fault is captured and raised. -/
def State.faultNoted (s : State) (g cause slot detail : Nat) : State :=
  (((s.faultLanded g).modCore g Core.stopped).capture .ccoEvent 0 .ccoFault g (detail % 2 ^ 24 * 2 ^ 32 + cause * 2 ^ 28 +
      slot * 2 ^ 25 + b2n (s.stall g).core.handler * 2 ^ 24 + (s.stall g).core.pc % 8192)).raise .ccoEvent g 0 0x120 g cause
    (b2n (s.stall g).core.handler * 2 ^ 15 + (s.stall g).core.pc % 8192)

section
variable (s : State) (g cause slot detail : Nat)

theorem State.coreFault_eq : ∃ e f, s.coreFault g cause slot detail =
    (if cause = 4 ∧ (State.job ((s.faultNoted g cause slot detail).iqFault g e 6 0 0 0 (Machine.coreStatus cause)) e.slot).gen = e.gen
     then ((s.faultNoted g cause slot detail).iqFault g e 6 0 0 0 (Machine.coreStatus cause)).modJob e.slot f
     else (s.faultNoted g cause slot detail).iqFault g e 6 0 0 0 (Machine.coreStatus cause)) :=
  ⟨_, _, rfl⟩

/-- Main writes that a fault in a handler lands after those of the handler. -/
theorem State.landMain_pc (n : Nat) : ((((s.modCore g fun c => { c with handler := false }).landAll g n).modCore g fun c =>
    { c with handler := true }).stall g).core.pc = (s.stall g).core.pc := by
  obtain ⟨-, hpc, -⟩ := Core.parts_of_still ((s.modCore g fun c => { c with handler := false }).landAll_still g n)
  rw [State.stall_modCore_same s] at hpc
  rw [State.stall_modCore_same]
  exact hpc

theorem State.faultLanded_pc : ((s.faultLanded g).stall g).core.pc = (s.stall g).core.pc := by
  obtain ⟨-, hpc, -⟩ := Core.parts_of_still (s.landAll_still g 5)
  unfold State.faultLanded
  split
  · rw [State.landMain_pc, hpc]
  · exact hpc

theorem State.faultLanded_regs {q : RegAt} (hq : q.inCore) : (s.faultLanded g).regAt q = s.regAt q := by
  unfold State.faultLanded
  split
  · rw [State.regAt_modCore, State.landAll_regs _ _ _ hq, State.regAt_modCore, State.landAll_regs _ _ _ hq]
  · exact s.landAll_regs g 5 hq

theorem State.faultNoted_core : ((s.faultNoted g cause slot detail).stall g).core = ((s.faultLanded g).stall g).core.stopped := by
  have hstalls : (s.faultNoted g cause slot detail).stalls = ((s.faultLanded g).modCore g Core.stopped).stalls := by
    unfold State.faultNoted State.capture
    split <;> simp
  rw [State.stall_congr g hstalls, State.stall_modCore_same]

theorem State.faultNoted_event : bit ((s.faultNoted g cause slot detail).reg .ccoEvent g) 0 = true := by
  rw [State.faultNoted, State.reg_raise_same]
  exact bit_evAdvance_same _ (by decide)

/-- The first fault is captured with the index of its bundle. -/
theorem State.faultNoted_fault (h : bit (s.reg .ccoEvent g) 0 = false) :
    bits ((s.faultNoted g cause slot detail).reg .ccoFault g) 12 0 = (s.stall g).core.pc % 8192 := by
  have hclear : ((s.faultLanded g).modCore g Core.stopped).pendBit .ccoEvent g 0 = false :=
    (congrArg (bit · 0) (s.faultLanded_regs g (cco_inCore (r := .ccoEvent) g (by simp)))).trans h
  rw [State.faultNoted, State.reg_raise_ne _ _ _ _ _ _ (by simp [RegAt.off, Rn.spec]), State.capture,
    if_neg (ne_true_of_eq_false hclear), State.reg_setReg_same, bits]
  omega

/-- What the instruction queue notes of a fault of the core leaves the core and its registers. -/
theorem State.coreFault_parts : ((s.coreFault g cause slot detail).stall g).core = ((s.faultLanded g).stall g).core.stopped ∧
    ∀ r ∈ [Rn.ccoEvent, .ccoFault], (s.coreFault g cause slot detail).reg r g = (s.faultNoted g cause slot detail).reg r g := by
  obtain ⟨e, f, heq⟩ := s.coreFault_eq g cause slot detail
  obtain ⟨y, hy⟩ : ∃ y, y = (s.faultNoted g cause slot detail).iqFault g e 6 0 0 0 (Machine.coreStatus cause) := ⟨_, rfl⟩
  obtain ⟨hstalls, hregs⟩ : (s.coreFault g cause slot detail).stalls = y.stalls ∧ (s.coreFault g cause slot detail).regs = y.regs := by
    rw [heq, ← hy]
    split <;> exact ⟨rfl, rfl⟩
  refine ⟨?_, fun r hr => ?_⟩
  · rw [State.stall_congr g hstalls, hy, State.iqFault_stall_same]
    exact s.faultNoted_core g cause slot detail
  · have hoff : (RegAt.mk r g 0 0).off ∉ [(RegAt.mk .stlIqFault g 0 0).off, (RegAt.mk .stlIqEvent g 0 0).off] := by
      fin_cases hr <;> simp [RegAt.off, Rn.spec, Blk.base] <;> omega
    rw [State.reg, State.regAt_congr hregs, hy]
    exact State.iqFault_regsBut _ _ _ _ _ _ _ _ _ _ hoff

end

/-! ### The writes that enter flight -/

section
variable {u : State} {g : Nat} {b : Bundle} {outs : List SlotOut} (hgo : u.verdict g b = .go outs)
include hgo

theorem State.outOf_fault {a : Nat × CoreOp × Slot} (ha : a ∈ (u.stall g).core.active b) : (u.outOf g b a).fault = none := by
  obtain ⟨rfl, hslot, -, -⟩ := State.verdict_go hgo
  exact slotFault_none hslot (List.mem_map_of_mem ha)

/-- One new write stands for each active slot, in the order of the slots. -/
theorem State.flight_entries : (outs.filterMap SlotOut.flight).length = ((u.stall g).core.active b).length ∧
    ∀ (j : Nat) (a : Nat × CoreOp × Slot) (w : CWrite), ((u.stall g).core.active b)[j]? = some a →
      (u.outOf g b a).flight = some w → (outs.filterMap SlotOut.flight)[j]? = some w := by
  have htotal := filterMap_total (f := fun a => (u.outOf g b a).flight) (l := (u.stall g).core.active b) fun a ha => by
    obtain ⟨w, hw, -⟩ := State.slotOut_latency (State.outOf_fault hgo ha)
    exact ⟨w, hw⟩
  obtain ⟨houts, -, -, -⟩ := State.verdict_go hgo
  rw [houts, List.filterMap_map]
  exact htotal

end

theorem State.control_none {s : State} {g : Nat} {b : Bundle} (h : b.ctrl = some .none) : s.control g b = s.modCore g Core.next := by
  unfold State.control
  rw [h]

end Sys2Proof.Machine

namespace Sys2Proof.Proofs

open Sys2Proof.Machine

/-- Settles O33: a bundle that issues puts its writes into flight and lands none; one that waits or faults leaves its place. -/
theorem coreWritesEnterFlight : Obligations.CoreWritesEnterFlight := by
  unfold Obligations.CoreWritesEnterFlight
  intro g s u b c o hop hnext hhas q
  have hexec := (exec_slotOp s (c, o) hop).trans (coreStep_follow hnext hhas)
  refine ⟨fun outs hgo hhalt hreti => ?go, fun hwait => ?wait, fun cause i d hfault => ?fault⟩
  case go =>
    rw [hgo] at hexec
    obtain ⟨y, hy⟩ : ∃ y, y = u.issued g (u.nextWord g) b outs := ⟨_, rfl⟩
    have hq := u.issued_core g (u.nextWord g) b outs
    have hissued := u.issued_ccoIssued g (u.nextWord g) b outs
    have hbusconf := u.issued_ccoBusconf g (u.nextWord g) b outs
    obtain ⟨hmem₀, htag₀⟩ : y.mem = u.mem ∧ y.memTag = u.memTag := by rw [hy]; exact ⟨rfl, rfl⟩
    rw [← hy] at hq hissued hbusconf
    obtain ⟨hmem, htag, hcore, hregs⟩ := State.control_steered (s := y) (g := g) (b := b) hreti hhalt
    obtain ⟨hlen, hentry⟩ := State.flight_entries hgo
    have hworking {α : Type} (f : Core → α) (hf : ∀ d : Core, f d.working = f d) : f ((y.control g b).stall g).core = f (y.stall g).core := by
      rw [← hf, hcore, hf]
    have hreg (r : Rn) (hr : r ∈ [Rn.ccoIssued, .ccoBusconf]) : (((y.control g b).settle g).reg r g) = y.reg r g := by
      rw [State.reg, State.settle_regAt]
      exact hregs r hr
    refine ⟨_, hexec, ?_⟩
    rw [State.follow, State.issueBundle_eq, ← hy]
    simp only [State.settle_core]
    refine ⟨hmem.trans hmem₀, htag.trans htag₀, (hworking Core.g fun _ => rfl).trans hq.g, (hworking Core.acc fun _ => rfl).trans hq.acc,
      (hworking Core.sbStage fun _ => rfl).trans hq.sbStage, (hworking Core.ports fun _ => rfl).trans hq.ports,
      (hreg _ (by simp)).trans hissued, (hreg _ (by simp)).trans hbusconf,
      ⟨outs.filterMap SlotOut.flight, (hworking Core.own fun _ => rfl).trans hq.own, hlen, fun j i p x hj => ?_⟩, fun hnone hloops => ?_⟩
    · have hfault := State.outOf_fault hgo (List.mem_of_getElem? hj)
      refine ⟨fun hld hst htake => ?_, fun hp => ?_, fun hp => ?_, fun hp => ?_⟩
      · obtain ⟨kind, hflight⟩ := State.slotOut_result hld hst htake hfault
        exact ⟨kind, hentry j _ _ hj hflight⟩
      all_goals subst hp
      · obtain ⟨hrange, hflight⟩ := State.slotOut_ld hfault
        exact ⟨hrange, hentry j _ _ hj hflight⟩
      · obtain ⟨hrange, hflight⟩ := State.slotOut_st hfault
        exact ⟨hrange, hentry j _ _ hj hflight⟩
      · obtain ⟨hrange, hflight⟩ := State.slotOut_take hfault
        exact ⟨hrange, hentry j _ _ hj hflight⟩
    · rw [State.control_none hnone, State.stall_modCore_same, Core.next_outside (hq.loops.trans hloops)]
      exact ⟨congrArg (· + 1) hq.pc, hq.rrb⟩
  case wait =>
    rw [hwait] at hexec
    exact ⟨_, hexec, u.settle_sameBut g false, u.settle_stall g false⟩
  case fault =>
    rw [hfault] at hexec
    obtain ⟨hcore, hregs⟩ := u.coreFault_parts g cause i d
    refine ⟨_, hexec, ?_⟩
    simp only [State.follow, State.settle_core, hcore]
    refine ⟨rfl, rfl, u.faultLanded_pc g, ?_, fun hclear => ?_⟩
    · rw [State.reg, State.settle_regAt]
      exact (congrArg (bit · 0) (hregs .ccoEvent (by simp))).trans (u.faultNoted_event g cause i d)
    · rw [State.reg, State.settle_regAt]
      exact (congrArg (bits · 12 0) (hregs .ccoFault (by simp))).trans (u.faultNoted_fault g cause i d hclear)

end Sys2Proof.Proofs

/-! PROOF. Rows of the vector engine (R161, R164, R170, R171, R173): the bytes that hold a row, the results that pass the output
stage, and what a row leaves of memory and of the stall. -/

namespace Sys2Proof.Machine

/-! ### How many bytes a row of results takes -/

theorem packNibbles_length : ∀ l : List PVal, (packNibbles l).length = ceilDiv l.length 2
  | [] => rfl
  | [_] => by simp [packNibbles, ceilDiv]
  | _ :: _ :: t => by
    simp only [packNibbles, List.length_cons, packNibbles_length t, ceilDiv]
    omega

theorem pack_length (f : Fmt) (l : List PVal) : (pack f l).length = rowBytes f l.length := by
  unfold pack rowBytes
  split
  · exact packNibbles_length l
  · simp [leBytes_length, List.map_const']

/-- A measure that every step raises by one rises by the length of the list. -/
theorem foldl_measure {α β : Type} {f : β → α → β} {m : β → Nat} (h : ∀ y a, m (f y a) = m y + 1) (l : List α) (y : β) :
    m (l.foldl f y) = m y + l.length := by
  induction l generalizing y with
  | nil => rfl
  | cons a l ih => rw [List.foldl_cons, ih, h, List.length_cons, Nat.add_assoc, Nat.add_comm 1]

theorem State.vScan_length (s : State) (g : Nat) (d : VDesc) (r : Nat) : (s.vScan g d r).length = d.cols := by
  unfold State.vScan
  refine (foldl_measure (m := fun st : VAcc × Bool × Bool × List VRes => st.2.2.2.length) (fun st jx => ?_) _ _).trans ?_
  · exact List.length_append
  · simp [State.vRow]

theorem State.vResults_length (s : State) (g : Nat) (d : VDesc) (r : Nat) :
    (s.vResults g d r).length = if d.op.reduces then 1 else d.cols := by
  unfold State.vResults
  split
  · rfl
  · split
    · exact s.vScan_length g d r
    · simp

/-! ### The output stage -/

/-- The element that the output stage writes for a result. -/
def VDesc.element (d : VDesc) (x : VRes) : PVal :=
  if x.p = true then { v := 0, p := true }
  else { v := (convert d.target d.ccw.ovfInf (x.x.coarse d.ccw.scaleEn d.c).1).val, p := false }

theorem State.vOut_element (s : State) (g : Nat) (d : VDesc) (r j : Nat) (x : VRes) : (s.vOut g d r j x).2 = d.element x := by
  unfold State.vOut VDesc.element
  dsimp only
  split <;> rfl

/-- The bytes of row r, with their tags. -/
def State.vRowBytes (s : State) (g : Nat) (d : VDesc) (r : Nat) : List (Byte × Bool) :=
  pack d.target ((s.vResults g d r).map d.element)

theorem State.vRowBytes_length (s : State) (g : Nat) (d : VDesc) (r : Nat) : (s.vRowBytes g d r).length = d.outLen := by
  rw [State.vRowBytes, pack_length, List.length_map, State.vResults_length, VDesc.outLen]

/-- One result passes the output stage, beside the elements already formed. -/
def State.outStep (g : Nat) (d : VDesc) (r : Nat) (y : State × List PVal) (jx : Nat × VRes) : State × List PVal :=
  ((y.1.vOut g d r jx.1 jx.2).1, y.2 ++ [(y.1.vOut g d r jx.1 jx.2).2])

/-- The state in which the results of a row have been counted, folded and noted, and none is written. -/
def State.rowCounted (s : State) (g : Nat) (d : VDesc) (r : Nat) (res : List VRes) : State :=
  (((List.range res.length).zip res).foldl (State.outStep g d r) (s, [])).1

theorem outStep_elements (g : Nat) (d : VDesc) (r : Nat) (l : List (Nat × VRes)) (y : State × List PVal) :
    (l.foldl (State.outStep g d r) y).2 = y.2 ++ l.map fun jx => d.element jx.2 := by
  induction l generalizing y with
  | nil => simp
  | cons jx l ih => rw [List.foldl_cons, ih, State.outStep, State.vOut_element, List.map_cons, List.append_assoc, List.singleton_append]

theorem State.rowCounted_safe (s : State) (g : Nat) (d : VDesc) (r : Nat) (res : List VRes) :
    s.Safe (Part.mask [.regs, .events]) none (s.rowCounted g d r res) :=
  foldl_fst _ _ _ (fun y jx hy => State.vOut_safe y.1 g d r jx.1 jx.2 rfl hy) (.refl s)

/-- The output stage leaves memory and stalls as they were. -/
theorem State.rowCounted_parts (s : State) (g : Nat) (d : VDesc) (r : Nat) (res : List VRes) :
    (s.rowCounted g d r res).mem = s.mem ∧ (s.rowCounted g d r res).memTag = s.memTag ∧
    (s.rowCounted g d r res).stalls = s.stalls :=
  have h := s.rowCounted_safe g d r res
  ⟨h.part .mem rfl, h.part .memTag rfl, h.part .stalls rfl⟩

/-! ### Bytes of a destination -/

/-- Bytes with their tags written from byte a of the destination up. -/
def State.vWriteFrom (s : State) (g : Nat) (d : VDesc) (a : Nat) : List (Byte × Bool) → State
  | [] => s
  | b :: bs => (s.vWrite g d a b.1 b.2).vWriteFrom g d (a + 1) bs

theorem State.foldl_vWrite (g : Nat) (d : VDesc) (a k : Nat) (bs : List (Byte × Bool)) (s : State) :
    ((List.range' k bs.length).zip bs).foldl (fun y ib => y.vWrite g d (a + ib.1) ib.2.1 ib.2.2) s = s.vWriteFrom g d (a + k) bs := by
  induction bs generalizing k s with
  | nil => rfl
  | cons b bs ih => exact ih (k + 1) _

theorem State.vRowOut_eq (s : State) (g : Nat) (d : VDesc) (r : Nat) (res : List VRes) : s.vRowOut g d r res =
    (s.rowCounted g d r res).vWriteFrom g d (d.d.off + r * d.d.stride) (pack d.target (res.map d.element)) := by
  have hels : (((List.range res.length).zip res).foldl (State.outStep g d r) (s, [])).2 = res.map d.element := by
    rw [outStep_elements, List.nil_append, ← Function.comp_def, ← List.map_map, List.map_snd_zip (by simp)]
  have hfold := State.foldl_vWrite g d (d.d.off + r * d.d.stride) 0 (pack d.target (res.map d.element)) (s.rowCounted g d r res)
  rw [← List.range_eq_range', Nat.add_zero, ← hels] at hfold
  rw [← hels]
  exact hfold

section
variable (s : State) (g : Nat) (d : VDesc)

/-- What each byte's write keeps holds after all of them. -/
theorem State.vWriteFrom_induct {P : State → Prop} {s : State} (step : ∀ y a v p, P y → P (y.vWrite g d a v p)) (a : Nat)
    (bs : List (Byte × Bool)) (h : P s) : P (s.vWriteFrom g d a bs) := by
  induction bs generalizing s a with
  | nil => exact h
  | cons b bs ih => exact ih (a + 1) (step s a b.1 b.2 h)

theorem State.vWrite_tile {d : VDesc} (h : d.d.inTile = true) (a : Nat) (v : Byte) (p : Bool) :
    (s.vWrite g d a v p).mem = s.mem ∧ (s.vWrite g d a v p).memTag = s.memTag := by
  unfold State.vWrite
  dsimp only
  rw [if_pos h]
  split <;> exact ⟨rfl, rfl⟩

theorem State.vWrite_core {d : VDesc} (h : d.d.inTile = false) (a : Nat) (v : Byte) (p : Bool) :
    (s.vWrite g d a v p).stalls = s.stalls := by
  unfold State.vWrite
  dsimp only
  rw [if_neg (by simp [h])]
  split <;> rfl

theorem State.vWriteFrom_tile {d : VDesc} (h : d.d.inTile = true) (a : Nat) (bs : List (Byte × Bool)) :
    (s.vWriteFrom g d a bs).mem = s.mem ∧ (s.vWriteFrom g d a bs).memTag = s.memTag :=
  State.vWriteFrom_induct g d (P := fun y => y.mem = s.mem ∧ y.memTag = s.memTag)
    (fun y a v p hy => ⟨(y.vWrite_tile g h a v p).1.trans hy.1, (y.vWrite_tile g h a v p).2.trans hy.2⟩) a bs ⟨rfl, rfl⟩

theorem State.vWriteFrom_core {d : VDesc} (h : d.d.inTile = false) (a : Nat) (bs : List (Byte × Bool)) :
    (s.vWriteFrom g d a bs).stalls = s.stalls :=
  State.vWriteFrom_induct g d (P := fun y => y.stalls = s.stalls) (fun y a v p hy => (y.vWrite_core g h a v p).trans hy) a bs rfl

/-- A stall beside the contents of its tile buffers. -/
def Stall.sansTiles (st : Stall) : Stall := { st with vt := [], vtTag := [] }

theorem State.vWrite_sansTiles (a : Nat) (v : Byte) (p : Bool) : ((s.vWrite g d a v p).stall g).sansTiles = (s.stall g).sansTiles := by
  cases h : d.d.inTile with
  | false => rw [State.stall_congr g (s.vWrite_core g h a v p)]
  | true =>
    unfold State.vWrite
    dsimp only
    rw [if_pos h, State.stall_modStall_same]
    split <;> rfl

theorem State.vWriteFrom_sansTiles (a : Nat) (bs : List (Byte × Bool)) :
    ((s.vWriteFrom g d a bs).stall g).sansTiles = (s.stall g).sansTiles :=
  State.vWriteFrom_induct g d (P := fun y => (y.stall g).sansTiles = (s.stall g).sansTiles)
    (fun y a v p hy => (y.vWrite_sansTiles g d a v p).trans hy) a bs rfl

/-! ### What a destination holds after a write that no operand overlaps -/

/-- The table that holds the bytes of a specification. -/
def State.vMem (s : State) (g : Nat) (sp : VSpec) : Tab Byte := if sp.inTile then (s.stall g).vt else s.mem

/-- The key of byte a of a specification in that table. -/
def VSpec.key (sp : VSpec) (g a : Nat) : Nat := if sp.inTile then sp.index * 0x4000 + a else coreAddr g a

theorem VSpec.key_add (sp : VSpec) (a i : Nat) : sp.key g (a + i) = sp.key g a + i := by
  unfold VSpec.key coreAddr
  split <;> omega

/-- The n bytes of the destination from byte a up lie in no operand that is not in place (R173). -/
def VDesc.Apart (d : VDesc) (a n : Nat) : Prop := ∀ i < n, d.clash (a + i) = false

variable {s d}

theorem VDesc.Apart.head {a n : Nat} (h : d.Apart a (n + 1)) : d.clash a = false := h 0 n.succ_pos

theorem VDesc.Apart.tail {a n : Nat} (h : d.Apart a (n + 1)) : d.Apart (a + 1) n := fun i hi => by
  rw [Nat.add_assoc, Nat.add_comm 1]
  exact h (i + 1) (by omega)

theorem State.vMem_vWrite {a : Nat} (h : d.clash a = false) (v : Byte) (p : Bool) :
    (s.vWrite g d a v p).vMem g d.d = Tab.set 0 (s.vMem g d.d) (d.d.key g a) v := by
  unfold State.vWrite State.vMem VSpec.key
  rw [h]
  cases d.d.inTile with
  | false => rfl
  | true => simp

/-- One byte that is written reads back with its tag, and the others read as before. -/
theorem State.vByte_vWrite {a : Nat} (h : d.clash a = false) (v : Byte) (p : Bool) (x : Nat) :
    (s.vWrite g d a v p).vByte g d.d x = if x = a then (v, p) else s.vByte g d.d x := by
  unfold State.vWrite State.vByte
  rw [h]
  cases d.d.inTile with
  | false => by_cases hx : x = a <;> simp [State.writeByte, Tab.get_set, coreAddr, hx]
  | true => by_cases hx : x = a <;> simp [Tab.get_set, hx]

theorem State.vMem_vWriteFrom {a : Nat} {bs : List (Byte × Bool)} (h : d.Apart a bs.length) :
    (s.vWriteFrom g d a bs).vMem g d.d = writeBytes (s.vMem g d.d) (d.d.key g a) (bs.map Prod.fst) := by
  induction bs generalizing s a with
  | nil => rfl
  | cons b bs ih =>
    rw [State.vWriteFrom, ih h.tail, State.vMem_vWrite g h.head, VSpec.key_add]
    rfl

theorem State.vByte_vWriteFrom_below {a x : Nat} {bs : List (Byte × Bool)} (h : d.Apart a bs.length) (hx : x < a) :
    (s.vWriteFrom g d a bs).vByte g d.d x = s.vByte g d.d x := by
  induction bs generalizing s a with
  | nil => rfl
  | cons b bs ih => rw [State.vWriteFrom, ih h.tail (by omega), State.vByte_vWrite g h.head, if_neg (by omega)]

theorem State.vByte_vWriteFrom {a i : Nat} {bs : List (Byte × Bool)} {b : Byte × Bool} (h : d.Apart a bs.length)
    (hb : bs[i]? = some b) : (s.vWriteFrom g d a bs).vByte g d.d (a + i) = b := by
  induction bs generalizing s a i with
  | nil => simp at hb
  | cons c bs ih =>
    cases i with
    | zero =>
      obtain rfl : c = b := Option.some.inj hb
      exact (State.vByte_vWriteFrom_below g h.tail (Nat.lt_succ_self a)).trans ((State.vByte_vWrite g h.head _ _ _).trans (if_pos rfl))
    | succ i =>
      rw [← Nat.add_assoc, Nat.add_right_comm]
      exact ih h.tail hb

end

/-! ### The next row -/

section
variable {s : State} {g : Nat} {r : VRun} (hrun : (s.stall g).vrun = some r)
include hrun

theorem State.vNextRow_eq (hrow : r.row < r.d.rows) : s.vNextRow g =
    ((s.rowCounted g r.d r.row (s.vResults g r.d r.row)).vWriteFrom g r.d (r.d.d.off + r.row * r.d.d.stride)
      (s.vRowBytes g r.d r.row)).modStall g fun st => { st with vrun := some { r with row := r.row + 1 } } := by
  rw [State.vRowBytes, ← State.vRowOut_eq, State.vNextRow, hrun]
  exact if_pos hrow

/-- Beside the tile buffers, a row moves the running operation on and changes nothing of its stall. -/
theorem State.vNextRow_stall (hrow : r.row < r.d.rows) : ((s.vNextRow g).stall g).sansTiles =
    { (s.stall g).sansTiles with vrun := some { r with row := r.row + 1 } } := by
  have hwritten := (State.vWriteFrom_sansTiles (s.rowCounted g r.d r.row (s.vResults g r.d r.row)) g r.d
    (r.d.d.off + r.row * r.d.d.stride) (s.vRowBytes g r.d r.row)).trans (congrArg Stall.sansTiles
      (State.stall_congr g (s.rowCounted_parts g r.d r.row (s.vResults g r.d r.row)).2.2))
  rw [State.vNextRow_eq hrun hrow, State.stall_modStall_same, ← hwritten]
  rfl

theorem State.vNextRow_vrun (hrow : r.row < r.d.rows) : ((s.vNextRow g).stall g).vrun = some { r with row := r.row + 1 } :=
  (congrArg Stall.vrun (State.vNextRow_stall hrun hrow) :)

theorem State.vNextRow_inflight (hrow : r.row < r.d.rows) : ((s.vNextRow g).stall g).inflight = (s.stall g).inflight :=
  (congrArg Stall.inflight (State.vNextRow_stall hrun hrow) :)

/-- A row in a tile buffer changes no core memory, and one in core memory no tile buffer. -/
theorem State.vNextRow_tile (hrow : r.row < r.d.rows) (h : r.d.d.inTile = true) :
    (s.vNextRow g).mem = s.mem ∧ (s.vNextRow g).memTag = s.memTag := by
  obtain ⟨hmem, htag, -⟩ := s.rowCounted_parts g r.d r.row (s.vResults g r.d r.row)
  rw [State.vNextRow_eq hrun hrow]
  exact ⟨(State.vWriteFrom_tile _ g h _ _).1.trans hmem, (State.vWriteFrom_tile _ g h _ _).2.trans htag⟩

theorem State.vNextRow_core (hrow : r.row < r.d.rows) (h : r.d.d.inTile = false) : ((s.vNextRow g).stall g).vt = (s.stall g).vt := by
  obtain ⟨-, -, hstalls⟩ := s.rowCounted_parts g r.d r.row (s.vResults g r.d r.row)
  rw [State.vNextRow_eq hrun hrow, State.stall_modStall_same]
  exact (congrArg Stall.vt (State.stall_congr g ((State.vWriteFrom_core _ g h _ _).trans hstalls)) :)

section
variable (hrow : r.row < r.d.rows) (hapart : r.d.Apart (r.d.d.off + r.row * r.d.d.stride) r.d.outLen)
include hrow hapart

theorem State.vNextRow_bytes {i : Nat} {b : Byte × Bool} (hb : (s.vRowBytes g r.d r.row)[i]? = some b) :
    (s.vNextRow g).vByte g r.d.d (r.d.d.off + r.row * r.d.d.stride + i) = b := by
  rw [← s.vRowBytes_length g] at hapart
  rw [State.vNextRow_eq hrun hrow, ← State.vByte_vWriteFrom g hapart hb]
  simp only [State.vByte, State.stall_modStall_same]
  rfl

theorem State.vNextRow_vMem : (s.vNextRow g).vMem g r.d.d =
    writeBytes (s.vMem g r.d.d) (r.d.d.key g (r.d.d.off + r.row * r.d.d.stride)) ((s.vRowBytes g r.d r.row).map Prod.fst) := by
  obtain ⟨hmem, -, hstalls⟩ := s.rowCounted_parts g r.d r.row (s.vResults g r.d r.row)
  have hbefore : (s.rowCounted g r.d r.row (s.vResults g r.d r.row)).vMem g r.d.d = s.vMem g r.d.d := by
    rw [State.vMem, hmem, State.stall_congr g hstalls, State.vMem]
  rw [← s.vRowBytes_length g] at hapart
  rw [State.vNextRow_eq hrun hrow, ← hbefore, ← State.vMem_vWriteFrom g hapart]
  simp only [State.vMem, State.stall_modStall_same]
  rfl

theorem State.vNextRow_outside {y : Nat} (hy : y < r.d.d.key g (r.d.d.off + r.row * r.d.d.stride) ∨
    r.d.d.key g (r.d.d.off + r.row * r.d.d.stride) + r.d.outLen ≤ y) :
    Tab.get 0 ((s.vNextRow g).vMem g r.d.d) y = Tab.get 0 (s.vMem g r.d.d) y := by
  rw [State.vNextRow_vMem hrun hrow hapart]
  exact writeBytes_outside _ _ _ _ (by rwa [List.length_map, State.vRowBytes_length])

end

end

theorem State.vNextRow_sameBut (s : State) (g : Nat) : SameBut [.free, .regs, .mem, .memTag, .events, .stalls] s (s.vNextRow g) :=
  (State.vNextRow_safe (ps := Part.mask [.free, .regs, .mem, .memTag, .events, .stalls]) (og := none) s g rfl (.inl rfl) (.refl s)).sameBut

end Sys2Proof.Machine

/-! PROOF. VOP and VOP_COMPLETE (R159, R162, R164, R172, R177, R178): the start of an operation, a descriptor that fails a check, and
the completion; then the statement on the vector operations. -/

namespace Sys2Proof.Machine

/-! ### VOP -/

theorem exec_vecOp {g : StallId} (s : State) : ∀ p ∈ vecOps g, exec p.1 s = .next (s.vop g p.2) := by
  intro p hp
  fin_cases hp <;> rfl

/-- The state after a VOP whose descriptor passes the checks. -/
def State.vecStarted (s : State) (g : Nat) (e : QEntry) (d : VDesc) : State := ((s.issue g e true).vStart g e d).settle g

/-- What the vector engine makes of a VOP that fails check k, before the fault of the instruction queue. -/
def State.vecNoted (s : State) (g : Nat) (e : QEntry) (d : VDesc) (k : VCheck) : State :=
  ((s.issue g e false).capture .vecEvent 0 .vecFault g (k.who * 2 ^ 40 + k.num * 2 ^ 36 + d.code * 2 ^ 24 + e.desc)).raise .vecEvent g 0
    0x130 g k.num e.desc

/-- The state after a VOP that fails check k. -/
def State.vecRefused (s : State) (g : Nat) (e : QEntry) (d : VDesc) (k : VCheck) : State :=
  ((s.vecNoted g e d k).iqFault g e 2 e.desc 0 0 k.st).settle g

section
variable {s : State} {g : Nat} {o : VOp} {e : QEntry} {d : VDesc} (hhead : s.headIs g .vop = some e) (hrun : (s.stall g).vrun = none)
  (hd : d = VDesc.of (s.read (coreAddr g e.desc) 64))
include hhead hrun hd

theorem State.vop_other (hknown : VOp.ofCode d.code ≠ none) (hother : VOp.ofCode d.code ≠ some o) : s.vop g o = s := by
  subst hd
  simp [State.vop, hhead, hrun, hother, Option.isSome_iff_ne_none, hknown]

theorem State.vop_starts (hop : VOp.ofCode d.code = some o) (hpass : d.fail = none) : s.vop g o = s.vecStarted g e d := by
  subst hd
  simp [State.vop, hhead, hrun, hop, hpass, State.vecStarted]

theorem State.vop_refuses {k : VCheck} (hop : VOp.ofCode d.code = none ∨ VOp.ofCode d.code = some o) (hfail : d.fail = some k) :
    s.vop g o = s.vecRefused g e d k := by
  subst hd
  have hmine : ¬ ((VOp.ofCode (VDesc.of (s.read (coreAddr g e.desc) 64)).code).isSome = true ∧
      VOp.ofCode (VDesc.of (s.read (coreAddr g e.desc) 64)).code ≠ some o) := by
    rcases hop with hop | hop <;> simp [hop]
  simp only [State.vop, hhead, hrun, hmine, hfail, Option.isSome_none, Bool.false_eq_true, if_false]
  rfl

end

/-- The head leaves the queue without a change of the core, the vector engine or its tile buffers. -/
theorem Stall.pop_vector (st : Stall) (e : QEntry) : (st.pop e).core = st.core ∧ (st.pop e).vrun = st.vrun ∧ (st.pop e).vt = st.vt := by
  unfold Stall.pop
  dsimp only
  repeat' split
  all_goals exact ⟨rfl, rfl, rfl⟩

/-- The registers that the vector engine and the queue write when a VOP issues or faults are not its running maximum. -/
theorem amaxVec_off_ne {r : Rn} (g : Nat) (hr : r ∈ [Rn.stlIqIssued, .vecFault, .vecEvent, .stlIqFault, .stlIqEvent]) :
    (RegAt.mk .stlAmaxVec g 0 0).off ≠ (RegAt.mk r g 0 0).off := by
  fin_cases hr <;> simp only [RegAt.off, Rn.spec, Blk.base, bayWindow] <;> omega

section
variable (s : State) (g : Nat) (e : QEntry) (d : VDesc)

theorem State.vecStarted_sameBut : SameBut [.free, .regs, .stalls] s (s.vecStarted g e d) :=
  (State.settle_safe (ps := Part.mask [.free, .regs, .stalls]) (og := none) _ _ _ rfl (.inl rfl)
    (State.vStart_safe _ _ _ _ rfl (.inl rfl) (State.issue_safe _ _ _ _ rfl (.inl rfl) (.refl s)))).sameBut

/-- What the start of an operation does to its stall, once the running maximum is cleared and the free flags are taken. -/
theorem State.vStart_stall : ∃ flags, (s.vStart g e d).stall g = { s.stall g with
    vrun := some { e := e, d := d, row := 0, sb := (s.stall g).core.sb, flags := flags }, vop := d.code } := by
  refine ⟨(if d.ccw.amaxClr then s.setReg .stlAmaxVec g 0 0 else s).freeVal 8, ?_⟩
  unfold State.vStart
  dsimp only
  rw [State.stall_modStall_same, State.stall_congr (s := s) g (by split <;> split <;> rfl)]

theorem State.vStart_amax : (s.vStart g e d).reg .stlAmaxVec g = if d.ccw.amaxClr = true then 0 else s.reg .stlAmaxVec g := by
  have hregs : (s.vStart g e d).regs = (if d.ccw.amaxClr then s.setReg .stlAmaxVec g 0 0 else s).regs := by
    unfold State.vStart
    dsimp only
    split <;> split <;> rfl
  rw [State.reg, State.regAt_congr hregs]
  split
  · exact s.reg_setReg_same _ _ _ _
  · rfl

theorem State.vecStarted_stall : ∃ flags, (s.vecStarted g e d).stall g = { (s.stall g).pop e with
    inflight := ((s.stall g).pop e).inflight ++ [{ e := e, seq := (s.stall g).issues }]
    vrun := some { e := e, d := d, row := 0, sb := (s.stall g).core.sb, flags := flags }, vop := d.code
    watch := ((s.vecStarted g e d).stall g).watch } := by
  obtain ⟨flags, hstart⟩ := (s.issue g e true).vStart_stall g e d
  rw [State.issue_stall_kept] at hstart
  refine ⟨flags, ?_⟩
  conv_lhs => rw [State.vecStarted, State.settle_stall_same, hstart]
  simp only [(Stall.pop_vector _ e).1]
  rfl

theorem State.vecStarted_amax :
    (s.vecStarted g e d).reg .stlAmaxVec g = if d.ccw.amaxClr = true then 0 else s.reg .stlAmaxVec g := by
  have hissue : (s.issue g e true).reg .stlAmaxVec g = s.reg .stlAmaxVec g :=
    s.issue_regsBut g e true _ (by simpa using amaxVec_off_ne g (by simp))
  exact ((s.issue g e true).vStart_amax g e d).trans (by rw [hissue])

variable (k : VCheck)

theorem State.vecRefused_sameBut : SameBut [.regs, .events, .stalls, .jobs] s (s.vecRefused g e d k) :=
  (State.settle_safe (ps := Part.mask [.regs, .events, .stalls, .jobs]) (og := none) _ _ _ rfl (.inl rfl)
    (State.vecFault_safe _ _ _ d k rfl (.inl rfl) (State.issue_safe s g e false rfl (.inl rfl) (.refl s)))).sameBut

theorem State.vecNoted_regsBut :
    RegsBut ([Rn.stlIqIssued, .vecFault, .vecEvent].map fun r => (RegAt.mk r g 0 0).off) s (s.vecNoted g e d k) :=
  (((s.issue_regsBut g e false).mono (by simp)).trans ((State.capture_regsBut _ _ _ _ _ _).mono (by simp))).trans
    ((State.raise_regsBut _ _ _ _ _ _ _ _ _).mono (by simp))

/-- Past the vector engine, a refused VOP writes the fault registers of the instruction queue alone. -/
theorem State.vecRefused_regsBut :
    RegsBut [(RegAt.mk .stlIqFault g 0 0).off, (RegAt.mk .stlIqEvent g 0 0).off] (s.vecNoted g e d k) (s.vecRefused g e d k) :=
  fun q hq => (State.settle_regAt _ g q).trans (State.iqFault_regsBut _ _ _ _ _ _ _ _ _ q hq)

theorem State.vecRefused_amax : (s.vecRefused g e d k).reg .stlAmaxVec g = s.reg .stlAmaxVec g := by
  have off {r : Rn} := amaxVec_off_ne (r := r) g
  exact (s.vecRefused_regsBut g e d k _ (by simp [off])).trans (s.vecNoted_regsBut g e d k _ (by simp [off]))

theorem State.vecRefused_event : bit ((s.vecRefused g e d k).reg .vecEvent g) 0 = true := by
  have hkept : (s.vecRefused g e d k).reg .vecEvent g = (s.vecNoted g e d k).reg .vecEvent g :=
    s.vecRefused_regsBut g e d k _ (by simp [RegAt.off, Rn.spec, Blk.base, bayWindow]; omega)
  rw [hkept, State.vecNoted, State.reg_raise_same, bit_evAdvance_same _ (by decide)]

theorem State.vecRefused_stall : (s.vecRefused g e d k).stall g = { (s.stall g).pop e with
    faulted := (e.slot, e.gen) :: ((s.stall g).pop e).faulted, watch := ((s.vecRefused g e d k).stall g).watch } := by
  have hnoted : (s.vecNoted g e d k).stall g = (s.stall g).pop e := by
    rw [← State.issue_stall_done]
    exact State.stall_congr g (by simp [State.vecNoted])
  conv_lhs => rw [State.vecRefused, State.settle_stall_same, State.iqFault_stall_same, hnoted]
  rfl

theorem State.vecRefused_record {g : StallId} : ∃ x ∈ (s.vecRefused g e d k).events,
    x.code % 1024 = 0x130 ∧ x.w0 = g.val ∧ x.w1 = k.num % 2 ^ 32 ∧ x.w2 = e.desc := by
  have hdesc : e.desc < 2 ^ 24 := bits_lt e.word 23 0
  obtain ⟨x, hx, hcode, hw0, hw1, hw2⟩ := State.raise_record ((s.issue g e false).capture .vecEvent 0 .vecFault g
    (k.who * 2 ^ 40 + k.num * 2 ^ 36 + d.code * 2 ^ 24 + e.desc)) .vecEvent g 0 0x130 g k.num e.desc 0
  have hmem := State.mem_events_iqFault _ g e 2 e.desc 0 0 k.st none hx
  rw [← State.settle_events _ g] at hmem
  refine ⟨x, hmem, by rw [hcode]; decide, ?_, hw1, ?_⟩
  · rw [hw0, Nat.mod_eq_of_lt (by omega)]
  · rw [hw2, Nat.mod_eq_of_lt (by omega)]

end

/-! ### VOP_COMPLETE -/

/-- The state in which a vector operation has ended and its instruction is not yet complete. -/
def State.vecDone (s : State) (g waits : Nat) : State :=
  ((s.count .vecOps g).count .vecWaits g waits).modStall g fun st =>
    { st with vrun := none, core := { st.core with irqEdge := st.core.irqEdge ||| 32 } }

/-- The state after VOP_COMPLETE of an operation that has taken all its rows. -/
def State.vecCompleted (s : State) (g : Nat) (e : QEntry) (waits : Nat) : State :=
  ((s.vecDone g waits).complete g e ((s.stall g).seqOf e)).settle g

theorem exec_vopComplete_idle {g : StallId} {s : State} (h : (s.stall g).vrun = none) (waits : Nat) :
    exec (.vopComplete g waits) s = .next s := by
  show execVopComplete g waits s = _
  rw [execVopComplete, h]

section
variable {g : StallId} {s : State} {r : VRun} (hrun : (s.stall g).vrun = some r) (waits : Nat)
include hrun

theorem exec_vopComplete (n : Nat) (hn : r.d.rows - r.row = n) : exec (.vopComplete g waits) s =
    .next ((((s.vRows g n).vecDone g waits).complete g r.e ((s.stall g).seqOf r.e)).settle g) := by
  subst hn
  show execVopComplete g waits s = _
  rw [execVopComplete, hrun]
  rfl

/-- VOP_COMPLETE takes the next row first. -/
theorem exec_vopComplete_row (hrow : r.row < r.d.rows) :
    exec (.vopComplete g waits) s = exec (.vopComplete g waits) (s.vNextRow g) := by
  obtain ⟨n, hn⟩ : ∃ n, r.d.rows - r.row = n + 1 := ⟨r.d.rows - r.row - 1, by omega⟩
  have hseq : ((s.vNextRow g).stall g).seqOf r.e = (s.stall g).seqOf r.e := by
    rw [Stall.seqOf, State.vNextRow_inflight hrun hrow, Stall.seqOf]
  rw [exec_vopComplete hrun waits (n + 1) hn, exec_vopComplete (State.vNextRow_vrun hrun hrow) waits n (by dsimp only; omega), hseq]
  rfl

theorem exec_vopComplete_ends (hrows : r.d.rows ≤ r.row) :
    exec (.vopComplete g waits) s = .next (s.vecCompleted g r.e waits) :=
  exec_vopComplete hrun waits 0 (Nat.sub_eq_zero_of_le hrows)

end

theorem State.complete_stall (s : State) (g : Nat) (e : QEntry) (seq : Nat) : (s.complete g e seq).stall g =
    { s.stall g with inflight := (s.stall g).inflight.filter fun i => !(i.seq == seq), out := ((s.complete g e seq).stall g).out } := by
  unfold State.complete
  dsimp only
  split
  · conv_lhs => rw [State.produce_stall, State.stall_modStall_same]
  · rw [State.stall_modStall_same]

theorem State.complete_mem (s : State) (g : Nat) (e : QEntry) (seq : Nat) : (s.complete g e seq).mem = s.mem := by
  unfold State.complete
  dsimp only
  split
  · exact (State.produce_mem _ _ _ _ _ _).1
  · rfl

theorem State.complete_tokens (s : State) (g : Nat) {e : QEntry} (seq : Nat) (h : e.prEn = false) :
    (s.complete g e seq).tokens = s.tokens := by
  simp [State.complete, h]

theorem State.produce_regsBut (s : State) (g slot gen name chan : Nat) :
    RegsBut [(RegAt.mk .stlTokProd g 0 0).off] s (s.produce g slot gen name chan) := by
  have hcount : RegsBut [(RegAt.mk .stlTokProd g 0 0).off] s (s.count .stlTokProd g) := s.setReg_regsBut .stlTokProd g 0 _
  unfold State.produce
  dsimp only
  split
  · exact hcount
  · exact fun q hq => (State.regAt_congr (State.tokenOut_regs _ _ _ _ _ _) q).trans (hcount q hq)

theorem State.complete_regsBut (s : State) (g : Nat) (e : QEntry) (seq : Nat) :
    RegsBut [(RegAt.mk .stlTokProd g 0 0).off] s (s.complete g e seq) := by
  unfold State.complete
  dsimp only
  split
  · exact State.produce_regsBut _ _ _ _ _ _
  · exact fun _ _ => rfl

section
variable (s : State) (g waits : Nat) (e : QEntry)

theorem State.vecDone_stall : (s.vecDone g waits).stall g =
    { s.stall g with vrun := none, core := { (s.stall g).core with irqEdge := (s.stall g).core.irqEdge ||| 32 } } :=
  State.stall_modStall_same _ _ _

theorem State.vecDone_counts : (s.vecDone g waits).reg .vecOps g = min (Rn.top .vecOps) (s.reg .vecOps g + 1) ∧
    (s.vecDone g waits).reg .vecWaits g = min (Rn.top .vecWaits) (s.reg .vecWaits g + waits) := by
  have hoff : (RegAt.mk .vecOps g 0 0).off ≠ (RegAt.mk .vecWaits g 0 0).off := by simp [RegAt.off, Rn.spec]
  refine ⟨((s.count .vecOps g).reg_setReg_ne _ hoff).trans (s.reg_setReg_same _ _ _ _), ?_⟩
  refine ((s.count .vecOps g).reg_setReg_same _ _ _ _).trans ?_
  rw [show (s.count .vecOps g).reg .vecWaits g = s.reg .vecWaits g from s.reg_setReg_ne _ hoff.symm]

theorem State.vecCompleted_stall : ∃ watch out, (s.vecCompleted g e waits).stall g = { s.stall g with
    vrun := none, core := { (s.stall g).core with irqEdge := (s.stall g).core.irqEdge ||| 32 }
    inflight := (s.stall g).inflight.filter fun i => !(i.seq == (s.stall g).seqOf e), watch := watch, out := out } := by
  refine ⟨((s.vecCompleted g e waits).stall g).watch,
    (((s.vecDone g waits).complete g e ((s.stall g).seqOf e)).stall g).out, ?_⟩
  conv_lhs => rw [State.vecCompleted, State.settle_stall_same, State.complete_stall, State.vecDone_stall]
  rfl

theorem State.vecCompleted_reg {r : Rn} (hr : r ∈ [Rn.vecOps, .vecWaits]) :
    (s.vecCompleted g e waits).reg r g = (s.vecDone g waits).reg r g := by
  refine (State.settle_regAt _ g _).trans (State.complete_regsBut _ _ _ _ _ ?_)
  fin_cases hr <;> simp only [RegAt.off, Rn.spec, Blk.base, bayWindow, List.mem_singleton] <;> omega

theorem State.vecCompleted_mem : (s.vecCompleted g e waits).mem = s.mem := State.complete_mem _ _ _ _

theorem State.vecCompleted_tokens (h : e.prEn = false) : (s.vecCompleted g e waits).tokens = s.tokens := State.complete_tokens _ _ _ h

end

end Sys2Proof.Machine

namespace Sys2Proof.Proofs

open Sys2Proof.Machine

/-- Settles O37: a VOP starts as vecStarted or is refused as vecRefused, a row is written from the bytes of its results, and
VOP_COMPLETE takes a row more or ends as vecCompleted. -/
theorem vectorOperationsRun : Obligations.VectorOperationsRun := by
  unfold Obligations.VectorOperationsRun
  intro g s
  refine ⟨fun c o e d hop hhead hrun hd => ⟨fun k hfail hmine => ?refuses, fun hknown hother => ?other, fun hpass hmine => ?starts⟩,
    fun r d t hrun hd hrow _ _ hapart ht => ?row, fun waits => ⟨fun hidle => exec_vopComplete_idle hidle waits,
      fun r hrun => ⟨fun hrow => exec_vopComplete_row hrun waits hrow, fun hrows => ?ends⟩⟩⟩
  case refuses =>
    have hexec := exec_vecOp s (c, o) hop
    rw [State.vop_refuses hhead hrun hd hmine hfail] at hexec
    obtain ⟨-, hvrun, hvt⟩ := Stall.pop_vector (s.stall g) e
    refine ⟨_, hexec, s.vecRefused_sameBut g e d k, ?_, ?_, ?_, s.vecRefused_event g e d k, s.vecRefused_amax g e d k,
      s.vecRefused_record e d k⟩ <;> rw [State.vecRefused_stall]
    · exact hvt
    · exact hvrun.trans hrun
    · exact List.mem_cons_self
  case other =>
    rw [exec_vecOp s (c, o) hop, State.vop_other hhead hrun hd hknown hother]
  case starts =>
    have hexec := exec_vecOp s (c, o) hop
    rw [State.vop_starts hhead hrun hd hmine hpass] at hexec
    obtain ⟨flags, hstall⟩ := s.vecStarted_stall g e d
    refine ⟨_, hexec, s.vecStarted_sameBut g e d, ⟨flags, ?_⟩, ?_, ?_, ?_, ?_, s.vecStarted_amax g e d⟩ <;> rw [hstall]
    exact (Stall.pop_vector _ e).2.2
  case row =>
    subst hd ht
    refine ⟨s.vNextRow_sameBut g, State.vNextRow_vrun hrun hrow, fun i b hb => State.vNextRow_bytes hrun hrow hapart hb, ?_⟩
    have houtside {y : Nat} := State.vNextRow_outside hrun hrow hapart (y := y)
    cases htile : r.d.d.inTile with
    | true =>
      obtain ⟨hmem, htag⟩ := State.vNextRow_tile hrun hrow htile
      simp only [State.vMem, VSpec.key, htile, if_true, ← Nat.add_assoc] at houtside
      exact ⟨hmem, htag, fun y => houtside⟩
    | false =>
      simp only [State.vMem, VSpec.key, htile, Bool.false_eq_true, if_false] at houtside
      exact ⟨State.vNextRow_core hrun hrow htile, fun y => houtside⟩
  case ends =>
    obtain ⟨watch, out, hstall⟩ := s.vecCompleted_stall g waits r.e
    obtain ⟨hops, hwaits⟩ := s.vecDone_counts g waits
    refine ⟨_, exec_vopComplete_ends hrun waits hrows, ?_, ?_, (s.vecCompleted_reg g waits r.e (by simp)).trans hops,
      (s.vecCompleted_reg g waits r.e (by simp)).trans hwaits, s.vecCompleted_mem g waits r.e, ?_, s.vecCompleted_tokens g waits r.e⟩ <;>
    rw [hstall]

end Sys2Proof.Proofs

/-! PROOF. Repeat blocks, waits, productions and takes of the instruction queue (R180, R184, R187 to R193, R221). -/

namespace Sys2Proof.Machine

/-! ### The head and its issue -/

/-- The head that a command finds meets the shared conditions of R184. -/
theorem State.headIs_conditions {s : State} {g : Nat} {o : Op} {e : QEntry} (h : s.headIs g o = some e) :
    e.op = some o ∧ (s.stall g).canIssue e = true ∧ s.stallUp g = true := by
  unfold State.headIs at h
  dsimp only at h
  split at h
  · split at h
    · cases h
      assumption
    · cases h
  · cases h

/-- An instruction other than QREP issues with its wait satisfied (R188, R193). -/
theorem Stall.waitOk_of_canIssue {st : Stall} {e : QEntry} (h : st.canIssue e = true) (hop : e.op ≠ some .qrep) : st.waitOk e = true := by
  simp only [Stall.canIssue, Bool.and_eq_true, Bool.or_eq_true, beq_iff_eq] at h
  exact h.1.1.2.resolve_left hop

theorem Stall.count_pos_of_waitOk {st : Stall} {e : QEntry} (h : st.waitOk e = true) (hwt : e.wtEn = true) :
    1 ≤ st.count e.slot false e.wtTok := by
  simpa [Stall.waitOk, hwt] using h

/-- The head that leaves the queue takes a count of its wait; the waits of a QREP belong to its iterations. -/
theorem Stall.pop_counts (st : Stall) (e : QEntry) : (st.pop e).counts =
    if e.wtEn && e.op ≠ some .qrep then (st.takeCount e.slot false e.wtTok).counts else st.counts := by
  unfold Stall.pop
  dsimp only
  repeat' split
  all_goals rfl

theorem Stall.pop_insts (st : Stall) (e : QEntry) : (st.pop e).insts = st.insts := by
  unfold Stall.pop
  dsimp only
  repeat' split
  all_goals rfl

theorem Stall.mapSlot_congr {st st' : Stall} (h : st'.insts = st.insts) (slot gen tally : Nat) :
    st'.mapSlot slot gen tally = st.mapSlot slot gen tally := by
  rw [Stall.mapSlot, h, Stall.mapSlot]

/-! ### QREP and its iterations -/

/-- The repeat block that a QREP makes current, with no iteration begun. -/
def QRep.of (e : QEntry) : QRep :=
  { e := e, cond := bits e.word 23 0, len := bits e.word 29 24 + 1, left := bits e.word 47 32 + 1, pos := none }

/-- The state after the QREP at the head. -/
def State.blockBegun (s : State) (g : Nat) (e : QEntry) : State :=
  ((s.issue g e false).modStall g fun st => { st with rep := some (QRep.of e) }).settle g

theorem exec_qrep {g : StallId} {s : State} {e : QEntry} (hhead : s.headIs g .qrep = some e) :
    exec (.qrep g) s = .next (s.blockBegun g e) := by
  show execQrep g s = _
  simp only [execQrep, hhead]
  rfl

theorem State.blockBegun_stall (s : State) (g : Nat) (e : QEntry) : (s.blockBegun g e).stall g =
    { (s.stall g).pop e with rep := some (QRep.of e), watch := ((s.blockBegun g e).stall g).watch } := by
  conv_lhs => rw [State.blockBegun, State.settle_stall, State.stall_modStall_same, State.issue_stall_done]
  rfl

/-- The stall after an iteration has taken the count that its QREP waits for. -/
def Stall.iterated (st : Stall) (r : QRep) : Stall := if r.e.wtEn then st.takeCount r.e.slot false r.e.wtTok else st

/-- The state after it. -/
def State.iterated (s : State) (g : Nat) (r : QRep) : State :=
  if r.e.wtEn then s.modStall g fun st => st.takeCount r.e.slot false r.e.wtTok else s

theorem State.iterated_stall (s : State) (g : Nat) (r : QRep) : (s.iterated g r).stall g = (s.stall g).iterated r := by
  unfold State.iterated Stall.iterated
  split
  · exact State.stall_modStall_same _ _ _
  · rfl

theorem State.iterated_safe (s : State) (g : Nat) (r : QRep) : s.Safe (Part.mask [.stalls]) none (s.iterated g r) := by
  unfold State.iterated
  split
  · exact State.modStall_safe _ _ _ rfl (.inl rfl) (.refl s)
  · exact .refl s

/-- Its condition word is still that of the state before it. -/
theorem State.iterated_coreVal (s : State) (g : Nat) (r : QRep) (off w : Nat) : (s.iterated g r).coreVal g off w = s.coreVal g off w :=
  State.coreVal_congr ((s.iterated_safe g r).part .mem rfl) ((s.iterated_safe g r).part .memTag rfl) g off w

theorem Stall.iterated_rep (st : Stall) (r : QRep) : (st.iterated r).rep = st.rep := by
  unfold Stall.iterated
  split <;> rfl

/-- The state after the iteration whose condition word is zero: the block is left. -/
def State.blockEnded (s : State) (g : Nat) (r : QRep) : State :=
  ((s.iterated g r).modStall g fun st => { st with rep := none, queue := st.queue.drop r.len }.refill).settle g

/-- The state after the iteration whose condition word is neither zero nor poisoned: the block's first instruction is the head. -/
def State.blockEntered (s : State) (g : Nat) (r : QRep) : State :=
  ((s.iterated g r).modStall g fun st => { st with rep := some { r with pos := some 0 } }).settle g

/-- The state after the fault of a poisoned condition word, before the job notes the poison. -/
def State.blockFaulted (s : State) (g : Nat) (r : QRep) : State := (s.iterated g r).iqFault g r.e 5 r.cond 0 0 .poisoned

/-- The job of an entry notes that it met poison. -/
def State.notePoison (s : State) (e : QEntry) : State :=
  if (s.job e.slot).gen = e.gen then s.modJob e.slot Job.metPoison else s

/-- The state after a poisoned condition word. -/
def State.blockPoisoned (s : State) (g : Nat) (r : QRep) : State := ((s.blockFaulted g r).notePoison r.e).settle g

section
variable {g : StallId} {s : State} {r : QRep} (hrep : (s.stall g).rep = some r) (hpos : r.pos = none)
  (hfault : (r.e.slot, r.e.gen) ∉ (s.stall g).faulted) (hwait : (s.stall g).waitOk r.e = true) (hup : s.stallUp g = true)
include hrep hpos hfault hwait hup

/-- An iteration whose wait is satisfied ends its block, enters it, or faults it, as its condition word says (R188, R189). -/
theorem exec_qrepIteration : exec (.qrepIteration g) s = .next (
    if (s.coreVal g r.cond 4).p then s.blockPoisoned g r
    else if (s.coreVal g r.cond 4).v = 0 then s.blockEnded g r else s.blockEntered g r) := by
  have hacts : (r.pos.isSome || (s.stall g).faulted.contains (r.e.slot, r.e.gen) || !(s.stall g).waitOk r.e || !s.stallUp g) = false := by
    simp [hpos, hfault, hwait, hup]
  have hword := s.iterated_coreVal g r r.cond 4
  rw [← hword]
  show execQrepIteration g s = _
  simp only [execQrepIteration, hrep, hacts, Bool.false_eq_true, if_false]
  change (if ((s.iterated g r).coreVal g r.cond 4).p then _ else if ((s.iterated g r).coreVal g r.cond 4).v = 0 then _ else _) = _
  split
  · rfl
  · split <;> rfl

end

/-- A change of a stall and the step of its watch leave every other part. -/
theorem State.modStall_settle_sameBut {s y : State} (h : s.Safe (Part.mask [.stalls]) none y) (g : Nat) (f : Stall → Stall) :
    SameBut [.stalls] s ((y.modStall g f).settle g) :=
  State.Safe.sameBut (og := none) (State.settle_safe _ _ _ rfl (.inl rfl) (State.modStall_safe _ _ _ rfl (.inl rfl) h))

theorem State.blockEnded_sameBut (s : State) (g : Nat) (r : QRep) : SameBut [.stalls] s (s.blockEnded g r) :=
  State.modStall_settle_sameBut (s.iterated_safe g r) g _

theorem State.blockEntered_sameBut (s : State) (g : Nat) (r : QRep) : SameBut [.stalls] s (s.blockEntered g r) :=
  State.modStall_settle_sameBut (s.iterated_safe g r) g _

theorem State.blockEnded_stall (s : State) (g : Nat) (r : QRep) : (s.blockEnded g r).stall g =
    { ({ (s.stall g).iterated r with rep := none, queue := ((s.stall g).iterated r).queue.drop r.len } : Stall).refill with
      watch := ((s.blockEnded g r).stall g).watch } := by
  conv_lhs => rw [State.blockEnded, State.settle_stall, State.stall_modStall_same, State.iterated_stall]
  rfl

theorem State.blockEntered_stall (s : State) (g : Nat) (r : QRep) : (s.blockEntered g r).stall g =
    { (s.stall g).iterated r with rep := some { r with pos := some 0 }, watch := ((s.blockEntered g r).stall g).watch } := by
  conv_lhs => rw [State.blockEntered, State.settle_stall, State.stall_modStall_same, State.iterated_stall]
  rfl

theorem State.iqFault_event (s : State) (g : Nat) (e : QEntry) (cause detail w1 w2 : Nat) (st : Status) (tok : Option Nat) :
    bit ((s.iqFault g e cause detail w1 w2 st tok).reg .stlIqEvent g) 0 = true := by
  have hregs : (s.iqFault g e cause detail w1 w2 st tok).regs = (s.iqNoted g e cause detail w1 w2).regs := by
    rw [State.iqFault_eq, (State.addReason_fields _ _ _ _).1]
    rfl
  rw [State.reg, State.regAt_congr hregs]
  exact (congrArg (bit · 0) (State.reg_raise_same _ _ _ _ _ _ _ _ _)).trans (bit_evAdvance_same _ (by decide))

theorem State.notePoison_parts (s : State) (e : QEntry) : (s.notePoison e).stalls = s.stalls ∧ (s.notePoison e).regs = s.regs := by
  unfold State.notePoison
  split <;> exact ⟨rfl, rfl⟩

/-- A poisoned condition word leaves the block where it stands, and its job is the one that the fault stops. -/
theorem State.blockPoisoned_fault {s : State} {g : Nat} {r : QRep} (hrep : (s.stall g).rep = some r) :
    ((s.blockPoisoned g r).stall g).rep = some r ∧ (r.e.slot, r.e.gen) ∈ ((s.blockPoisoned g r).stall g).faulted ∧
      bit ((s.blockPoisoned g r).reg .stlIqEvent g) 0 = true := by
  obtain ⟨hstalls, hregs⟩ := (s.blockFaulted g r).notePoison_parts r.e
  have hevent : bit ((s.blockPoisoned g r).reg .stlIqEvent g) 0 = true := by
    rw [State.blockPoisoned, State.reg, State.settle_regAt, State.regAt_congr hregs]
    exact State.iqFault_event _ _ _ _ _ _ _ _ _
  rw [State.blockPoisoned, State.settle_stall, State.stall_congr g hstalls, State.blockFaulted, State.iqFault_stall_same,
    State.iterated_stall]
  exact ⟨((s.stall g).iterated_rep r).trans hrep, List.mem_cons_self, hevent⟩

/-! ### TWAIT and TPROD -/

theorem exec_twait {g : StallId} {s : State} {e : QEntry} (hhead : s.headIs g .twait = some e) :
    exec (.twait g) s = .next ((s.issue g e false).settle g) := by
  show execTwait g s = _
  simp only [execTwait, hhead]

theorem exec_tprod {g : StallId} {s : State} {e : QEntry} (hhead : s.headIs g .tprod = some e) :
    exec (.tprod g) s = .next ((s.issue g e true).settle g) := by
  show execTprod g s = _
  simp only [execTprod, hhead]

/-- A TWAIT with WT_EN takes one count of its token. -/
theorem Stall.pop_twait {st : Stall} {e : QEntry} (hissue : st.canIssue e = true) (hop : e.op = some .twait) (hwt : e.wtEn = true) :
    (st.pop e).count e.slot false e.wtTok + 1 = st.count e.slot false e.wtTok := by
  have hpos := Stall.count_pos_of_waitOk (Stall.waitOk_of_canIssue hissue (by simp [hop])) hwt
  have hcount : (st.pop e).count e.slot false e.wtTok = (st.takeCount e.slot false e.wtTok).count e.slot false e.wtTok := by
    rw [Stall.count, Stall.pop_counts, if_pos (by simp [hwt, hop]), Stall.count]
  rw [hcount, Stall.count_takeCount]
  omega

/-! ### Tokens handed to delivery -/

/-- The packets of a token that stall g hands to delivery: one for each consumer (R192). -/
def TokRec.packets (k : TokRec) (g : StallId) (slot gen : Nat) (stalls : List Nat) : List TokenPkt :=
  (if k.ckind = 2 then stalls else [k.cstall]).map fun c =>
    { name := BitVec.ofNat 12 k.name, core := k.ckind == 1, stall := Fin.ofNat 2048 c, slot := Fin.ofNat 1024 slot
      gen := BitVec.ofNat 8 gen, producer := g }

/-- Its token beat on channel 0 where its consumer is the fabric (R196). -/
def TokRec.beat (k : TokRec) : OBeat := { chan := 0, kind := 1, last := false, poison := false, data := leBytes 64 k.name, seq := 0 }

section
variable (s : State) (g : StallId) (slot gen : Nat) {k : TokRec}

theorem State.tokenOut_packets (hkind : k.ckind < 3) (chan : Nat) :
    (s.tokenOut g slot gen k chan).tokens = s.tokens ++ k.packets g slot gen (s.job slot).stalls := by
  have hproducer : Fin.ofNat 2048 g.val = g := Fin.ofNat_val_eq_self g
  unfold State.tokenOut TokRec.packets
  rw [hproducer]
  dsimp only
  split
  next h => omega
  next h => simp [h]
  next h2 h3 => rw [if_neg h3, List.map_singleton]

theorem State.tokenOut_beat (hkind : k.ckind = 3) : s.tokenOut g slot gen k 0 =
    s.modStall k.cstall fun st => { st with out := st.out ++ [k.beat] } := by
  unfold State.tokenOut
  dsimp only
  rw [hkind]
  rfl

end

/-- An issued instruction is complete. -/
def Stall.retire (st : Stall) (seq : Nat) : Stall := { st with inflight := st.inflight.filter fun i => !(i.seq == seq) }

theorem exec_tprodProduction {g : StallId} {s : State} {i : Issued} {rest : List Issued} (hissued : (s.stall g).inflight = i :: rest)
    (hop : i.e.op = some .tprod) (hup : s.stallUp g = true) :
    exec (.tprodProduction g) s = .next ((s.complete g i.e i.seq).settle g) := by
  show execTprodProduction g s = _
  simp only [execTprodProduction, hissued, hop, hup, and_self, if_true]

/-- A token of the job's table is counted where it is produced, and handed to delivery. -/
theorem State.produce_token {s : State} {g slot gen name chan : Nat} {k : TokRec} (htok : (s.job slot).token g name = some k) :
    s.produce g slot gen name chan = (s.count .stlTokProd g).tokenOut g slot gen k chan := by
  have htok' : ((s.count .stlTokProd g).job slot).token g name = some k := htok
  unfold State.produce
  dsimp only
  rw [htok']

section
variable {s : State} {g : StallId} {e : QEntry} {k : TokRec} (seq : Nat) (hpr : e.prEn = true)
  (htok : (s.job e.slot).token g e.prTok = some k)
include hpr htok

/-- An instruction with PR_EN completes, and its token is counted and handed to delivery. -/
theorem State.complete_token : s.complete g e seq =
    ((s.modStall g fun st => st.retire seq).count .stlTokProd g).tokenOut g e.slot e.gen k 0 :=
  (if_pos hpr).trans (State.produce_token (s := s.modStall g fun st => st.retire seq) htok)

theorem State.complete_packets (hkind : k.ckind < 3) :
    (s.complete g e seq).tokens = s.tokens ++ k.packets g e.slot e.gen (s.job e.slot).stalls := by
  rw [State.complete_token seq hpr htok]
  exact State.tokenOut_packets _ g e.slot e.gen hkind 0

theorem State.complete_tokProd : (s.complete g e seq).reg .stlTokProd g = min (2 ^ 32 - 1) (s.reg .stlTokProd g + 1) := by
  rw [State.complete_token seq hpr htok, State.reg, State.regAt_congr (State.tokenOut_regs _ _ _ _ _ _)]
  exact State.reg_count_same _ .stlTokProd g 1 0

/-- A token toward the fabric leaves as one beat of the stall port of CSTALL, and as no packet. -/
theorem State.complete_beat (hkind : k.ckind = 3) : (s.complete g e seq).tokens = s.tokens ∧
    ((s.complete g e seq).stall k.cstall).out = (s.stall k.cstall).out ++ [k.beat] := by
  rw [State.complete_token seq hpr htok, State.tokenOut_beat _ g e.slot e.gen hkind]
  have hretired : ((s.modStall g fun st => st.retire seq).stall k.cstall).out = (s.stall k.cstall).out := by
    obtain hsame | hne := eq_or_ne k.cstall g.val
    · rw [hsame, State.stall_modStall_same]
      rfl
    · rw [State.stall_modStall_ne _ _ hne]
  refine ⟨rfl, ?_⟩
  rw [State.stall_modStall_same]
  exact congrArg (· ++ [k.beat]) hretired

end

theorem State.settle_out (s : State) (g h : Nat) (activity : Bool) : ((s.settle g activity).stall h).out = (s.stall h).out := by
  obtain rfl | hne := eq_or_ne h g
  · rw [State.settle_stall]
  · exact congrArg Stall.out (s.stall_modStall_ne _ hne)

/-! ### TAKE -/

/-- The state after the TAKE at the head. -/
def State.takeAsked (s : State) (g : Nat) (e : QEntry) : State :=
  ((s.issue g e true).sendTake g true (s.stall g).issues e.slot e.gen (bits e.word 12 0)).settle g

theorem exec_takeInstruction {g : StallId} {s : State} {e : QEntry} (hhead : s.headIs g .take = some e)
    (hroom : ((s.stall g).inflight.filter fun i => i.e.op == some .take).length < 4) :
    exec (.takeInstruction g) s = .next (s.takeAsked g e) := by
  show execTakeInstruction g s = _
  simp only [execTakeInstruction, hhead, if_neg (Nat.not_le.mpr hroom)]
  rfl

/-- The issue of an instruction leaves the tally maps. -/
theorem State.issue_mapSlot (s : State) (g : Nat) (e : QEntry) (slot gen tally : Nat) :
    ((s.issue g e true).stall g).mapSlot slot gen tally = (s.stall g).mapSlot slot gen tally := by
  rw [State.issue_stall_kept]
  exact Stall.mapSlot_congr (Stall.pop_insts _ e) slot gen tally

/-- The request that a TAKE sends for a tally served by a map slot's cell. -/
def State.takeRequest (s : State) (g : Nat) (e : QEntry) (m : MapSlot) : TakeReq :=
  { stall := g, queue := true, seq := (s.stall g).issues, slot := e.slot, gen := e.gen, tally := bits e.word 12 0, cell := m.cell }

theorem State.takeAsked_mapped {s : State} {g : Nat} {e : QEntry} {m : MapSlot}
    (hmap : (s.stall g).mapSlot e.slot e.gen (bits e.word 12 0) = some m) (hfence : s.isFenced m.bay = false) :
    s.takeAsked g e = State.settle { s.issue g e true with
      takeQ := Tab.upd [] s.takeQ m.bay (· ++ [s.takeRequest g e m]) } g := by
  rw [State.takeAsked, State.sendTake_mapped ((s.issue_mapSlot g e _ _ _).trans hmap) hfence]
  rfl

/-- The request goes to the serving cell's bay, and no other table changes but the stall's own. -/
theorem State.takeAsked_request {s : State} {g : Nat} {e : QEntry} {m : MapSlot}
    (hmap : (s.stall g).mapSlot e.slot e.gen (bits e.word 12 0) = some m) (hfence : s.isFenced m.bay = false) :
    SameBut [.regs, .stalls, .takeQ] s (s.takeAsked g e) ∧
      Tab.get [] (s.takeAsked g e).takeQ m.bay = Tab.get [] s.takeQ m.bay ++ [s.takeRequest g e m] ∧
      ∀ b, b ≠ m.bay → Tab.get [] (s.takeAsked g e).takeQ b = Tab.get [] s.takeQ b := by
  rw [State.takeAsked_mapped hmap hfence]
  refine ⟨?_, Tab.get_upd_same [] s.takeQ m.bay (· ++ [s.takeRequest g e m]), fun b hb =>
    Tab.get_upd_ne [] s.takeQ (· ++ [s.takeRequest g e m]) hb⟩
  have hissue : SameBut [.regs, .stalls, .takeQ] s (s.issue g e true) :=
    (State.issue_safe s g e true (ps := Part.mask [.regs, .stalls, .takeQ]) (og := none) rfl (.inl rfl) (.refl s)).sameBut
  refine SameBut.trans (fun p hp => ?_) ((State.settle_sameBut _ g true).mono (by simp))
  have hpart := hissue p hp
  cases p with
  | takeQ => simp at hp
  | _ => exact hpart

/-- An event that is raised only while its bit is clear leaves that bit set. -/
theorem State.raiseOnce_event (s : State) (r : Rn) (n : Nat) {k : Nat} (num w0 w1 w2 : Nat) (hk : k < 24) :
    bit ((s.raiseOnce r n k num w0 w1 w2).reg r n) k = true := by
  unfold State.raiseOnce
  split
  · assumption
  · rw [State.reg_raise_same, bit_evAdvance_same _ hk]

/-- A TAKE of a tally that no map slot names is answered by the stall itself. -/
theorem State.takeAsked_foreign {s : State} {g : Nat} {e : QEntry}
    (hmap : (s.stall g).mapSlot e.slot e.gen (bits e.word 12 0) = none) : (s.takeAsked g e).takeQ = s.takeQ ∧
      (s.takeAsked g e).answers = s.answers ++ [{
        stall := g, queue := true, seq := (s.stall g).issues, slot := e.slot, gen := e.gen
        answer := answerWord (bits e.word 12 0) 2 0 0xFFFFFFFF }] ∧
      bit ((s.takeAsked g e).reg .tlyEvent (g / 64)) 0 = true := by
  have hmap' := (s.issue_mapSlot g e e.slot e.gen (bits e.word 12 0)).trans hmap
  unfold State.takeAsked State.sendTake
  dsimp only
  rw [hmap']
  dsimp only
  have hforeign (y : State) (b : Nat) (r : TakeReq) : (y.foreign b r 1).takeQ = y.takeQ ∧ (y.foreign b r 1).answers = y.answers ∧
      bit ((y.foreign b r 1).reg .tlyEvent b) 0 = true := by
    exact ⟨by simp [State.foreign], by simp [State.foreign], State.raiseOnce_event _ _ _ _ _ _ _ (by decide)⟩
  obtain ⟨htake, hanswers, hevent⟩ := hforeign (s.issue g e true) (g / 64)
    { stall := g, queue := true, seq := (s.stall g).issues, slot := e.slot, gen := e.gen, tally := bits e.word 12 0, cell := 0 }
  exact ⟨htake, congrArg (· ++ _) hanswers, hevent⟩

end Sys2Proof.Machine

namespace Sys2Proof.Proofs

open Sys2Proof.Machine

/-- Settles O25: the states after QREP, its iterations, TWAIT, TPROD, its production and TAKE, each with the stall, the tokens and the
requests that it leaves. -/
theorem repeatBlocksWaitsAndTakes : Obligations.RepeatBlocksWaitsAndTakes := by
  unfold Obligations.RepeatBlocksWaitsAndTakes
  intro g s
  refine ⟨fun e hhead => ?qrep, fun r x hrep hpos hfault hwait hup hx => ?iteration, fun e hhead => ?twait, fun e hhead => ?tprod,
    fun i rest k hissued hop hup hpr htok hkind => ?packets, fun i rest k hissued hop hup hpr htok hkind => ?beat,
    fun e hhead hroom => ⟨fun m hmap hfence => ?request, fun hmap => ?foreign⟩⟩
  case qrep =>
    have hexec := exec_qrep hhead
    exact ⟨_, hexec, (exec_safe (c := .qrep g) rfl hexec).sameBut, s.blockBegun_stall g e⟩
  case iteration =>
    have hexec := exec_qrepIteration hrep hpos hfault hwait hup
    have hx : x = (s.stall g).iterated r := hx
    subst hx
    refine ⟨fun hclean hzero => ⟨_, hexec, ?_⟩, fun hclean hword => ⟨_, hexec, ?_⟩, fun hpoison => ⟨_, hexec, ?_⟩⟩
    · rw [if_neg (by simp [hclean]), if_pos hzero]
      exact ⟨s.blockEnded_sameBut g r, s.blockEnded_stall g r⟩
    · rw [if_neg (by simp [hclean]), if_neg hword]
      exact ⟨s.blockEntered_sameBut g r, s.blockEntered_stall g r⟩
    · refine ⟨(exec_safe (c := .qrepIteration g) rfl hexec).sameBut, ?_⟩
      rw [if_pos hpoison]
      exact State.blockPoisoned_fault hrep
  case twait =>
    have hexec := exec_twait hhead
    obtain ⟨hop, hissue, -⟩ := State.headIs_conditions hhead
    have hstall := State.settle_stall (s.issue g e false) g true
    rw [State.issue_stall_done] at hstall
    refine ⟨_, hexec, (exec_safe (c := .twait g) rfl hexec).sameBut, hstall, fun hwt => ?_⟩
    rw [hstall]
    exact Stall.pop_twait hissue hop hwt
  case tprod =>
    have hexec := exec_tprod hhead
    have hstall := State.settle_stall (s.issue g e true) g true
    rw [State.issue_stall_kept] at hstall
    exact ⟨_, hexec, (exec_safe (c := .tprod g) rfl hexec).sameBut, hstall⟩
  case packets =>
    have hexec := exec_tprodProduction hissued hop hup
    refine ⟨_, hexec, (exec_safe (c := .tprodProduction g) rfl hexec).sameBut, ?_, State.complete_packets i.seq hpr htok hkind,
      State.complete_tokProd i.seq hpr htok⟩
    rw [State.settle_stall, State.complete_stall]
  case beat =>
    have hexec := exec_tprodProduction hissued hop hup
    obtain ⟨htokens, hout⟩ := State.complete_beat i.seq hpr htok hkind
    exact ⟨_, hexec, htokens, (State.settle_out _ g k.cstall true).trans hout⟩
  case request => exact ⟨_, exec_takeInstruction hhead hroom, State.takeAsked_request hmap hfence⟩
  case foreign => exact ⟨_, exec_takeInstruction hhead hroom, State.takeAsked_foreign hmap⟩

end Sys2Proof.Proofs

/-! PROOF. Tokens at their consumers, and token beats from the fabric (R192, R194 to R197, R206, R208, R301). -/

namespace Sys2Proof.Machine

/-! ### TOKEN -/

/-- The state in which a packet is no longer on its way. -/
def State.tokenTaken (s : State) (p : TokenPkt) : State := { s with tokens := s.tokens.erase p }

theorem State.tokenTaken_sameBut (s : State) (p : TokenPkt) : SameBut [.tokens] s (s.tokenTaken p) := by
  intro q hq
  cases q with
  | tokens => simp at hq
  | _ => rfl

theorem exec_token_first {s : State} {p : TokenPkt}
    (h : s.tokens.find? (fun q => q.producer == p.producer && q.stall == p.stall && q.core == p.core) = some p) :
    exec (.token p) s = .next ((s.tokenTaken p).deliver p) := by
  show execToken p s = _
  simp only [execToken, h, if_true]
  rfl

/-- A packet waits while an earlier one of its producer is on its way to the same consumer. -/
theorem exec_token_waits {s : State} {p q : TokenPkt}
    (h : s.tokens.find? (fun q => q.producer == p.producer && q.stall == p.stall && q.core == p.core) = some q) (hne : q ≠ p) :
    exec (.token p) s = .next s := by
  show execToken p s = _
  simp only [execToken, h, if_neg hne]

/-- The stall after a packet is counted for its consumer. -/
def Stall.counted (st : Stall) (p : TokenPkt) : Stall :=
  { st with counts := Tab.set 0 st.counts (countKey p.slot.val p.core p.name.toNat) (st.count p.slot.val p.core p.name.toNat + 1) }

theorem Stall.count_counted (st : Stall) (p : TokenPkt) :
    (st.counted p).count p.slot.val p.core p.name.toNat = st.count p.slot.val p.core p.name.toNat + 1 :=
  Tab.get_set_same 0 st.counts (countKey p.slot.val p.core p.name.toNat) (st.count p.slot.val p.core p.name.toNat + 1)

/-- The entry that a fault names is of the job that met it. -/
theorem Stall.entryOf_job (st : Stall) (slot gen : Nat) : (st.entryOf slot gen).slot = slot ∧ (st.entryOf slot gen).gen = gen := by
  unfold Stall.entryOf
  split
  · split
    · assumption
    · exact ⟨rfl, rfl⟩
  · exact ⟨rfl, rfl⟩

/-- The state after a packet that its consumer's count has no room for, before the watch steps. -/
def State.overflowed (s : State) (p : TokenPkt) : State :=
  s.iqFault p.stall ((s.stall p.stall).entryOf p.slot.val p.gen.toNat) 4 p.name.toNat (p.producer.val / 8 % 256 * 256) p.name.toNat
    .tokenOverflow (some p.name.toNat)

section
variable {s : State} {p : TokenPkt} (hfence : s.isFenced (p.stall.val / 64) = false)
include hfence

theorem State.deliver_stale (hholds : (s.stall p.stall).holds p.slot.val p.gen.toNat = false) :
    s.deliver p = s.count .stlTokStale p.stall := by
  simp [State.deliver, hfence, hholds]

theorem State.deliver_counted (hholds : (s.stall p.stall).holds p.slot.val p.gen.toNat = true)
    (hroom : (s.stall p.stall).count p.slot.val p.core p.name.toNat < 65535) :
    s.deliver p = (s.modStall p.stall fun st => st.counted p).settle p.stall := by
  simp only [State.deliver, hfence, hholds, Bool.false_eq_true, if_false, Bool.not_true, if_neg (Nat.not_le.mpr hroom)]
  rfl

theorem State.deliver_overflow (hholds : (s.stall p.stall).holds p.slot.val p.gen.toNat = true)
    (hfull : 65535 ≤ (s.stall p.stall).count p.slot.val p.core p.name.toNat) :
    s.deliver p = (s.overflowed p).settle p.stall false := by
  simp only [State.deliver, hfence, hholds, Bool.false_eq_true, if_false, Bool.not_true, if_pos hfull]
  rfl

end

theorem State.deliver_tokens (s : State) (p : TokenPkt) : (s.deliver p).tokens = s.tokens :=
  (State.deliver_safe (ps := 0x204204) (og := none) s p rfl rfl (.refl s)).part .tokens rfl

/-- A stale packet is counted in STL_TOK_STALE and changes no other register. -/
theorem State.stale_leaves (s : State) (p : TokenPkt) : let t := (s.tokenTaken p).count .stlTokStale p.stall
    SameBut [.regs, .tokens] s t ∧ RegsBut [(RegAt.mk .stlTokStale p.stall 0 0).off] s t ∧
      t.reg .stlTokStale p.stall = min (2 ^ 32 - 1) (s.reg .stlTokStale p.stall + 1) :=
  ⟨((s.tokenTaken_sameBut p).mono (by simp)).trans ((State.setReg_sameBut _ _ _ _ _).mono (by simp)),
    (s.tokenTaken p).setReg_regsBut .stlTokStale p.stall 0 _, (s.tokenTaken p).reg_count_same .stlTokStale p.stall 1 0⟩

theorem State.counted_leaves (s : State) (p : TokenPkt) : let t := ((s.tokenTaken p).modStall p.stall fun st => st.counted p).settle p.stall
    SameBut [.stalls, .tokens] s t ∧ t.stall p.stall = { (s.stall p.stall).counted p with watch := (t.stall p.stall).watch } := by
  refine ⟨((s.tokenTaken_sameBut p).mono (by simp)).trans
    ((State.modStall_settle_sameBut (.refl _) _ _).mono (by simp)), ?_⟩
  conv_lhs => rw [State.settle_stall, State.stall_modStall_same]
  rfl

theorem State.overflowed_leaves (s : State) (p : TokenPkt) : let t := (s.overflowed p).settle p.stall false
    (t.stall p.stall).counts = (s.stall p.stall).counts ∧ (p.slot.val, p.gen.toNat) ∈ (t.stall p.stall).faulted ∧
      bit (t.reg .stlIqEvent p.stall) 0 = true := by
  dsimp only
  obtain ⟨hslot, hgen⟩ := (s.stall p.stall).entryOf_job p.slot.val p.gen.toNat
  have hevent : bit ((s.overflowed p).reg .stlIqEvent p.stall) 0 = true := State.iqFault_event _ _ _ _ _ _ _ _ _
  rw [State.settle_stall, State.overflowed, State.iqFault_stall_same, hslot, hgen]
  exact ⟨rfl, List.mem_cons_self, hevent⟩

/-! ### Steps beside the instruction queues -/

/-- A place in the window of an instruction queue: its registers hold 256 bytes of each stall's 4 KiB (R39). -/
def RegAt.inQueue (q : RegAt) : Prop := q.off % 4096 / 256 = 1

/-- The registers that inbound beats write stand outside. -/
theorem outside_inQueue {r : Rn} (n : Nat) (hr : r ∈ [Rn.stlNumEvent, .stlNumOvf, .stlNumInv, .strPoison, .fabPortBeats]) :
    ¬ (RegAt.mk r n 0 0).inQueue := by
  fin_cases hr <;> simp only [RegAt.inQueue, RegAt.off, Rn.spec, Blk.base, bayWindow] <;> omega

/-- So do the registers that each of the four stream engines has. -/
theorem engine_outside_inQueue {r : Rn} (n : Nat) {k : Nat} (hk : k < 4) (hr : r ∈ [Rn.stlAmaxStr, .strLines]) :
    ¬ (RegAt.mk r n k 0).inQueue := by
  fin_cases hr <;> simp only [RegAt.inQueue, RegAt.off, Rn.spec, Blk.base, bayWindow] <;> omega

theorem queue_inQueue {r : Rn} (n : Nat) (hr : r ∈ [Rn.stlIqEvent, .stlTokFabdrop]) : (RegAt.mk r n 0 0).inQueue := by
  fin_cases hr <;> simp only [RegAt.inQueue, RegAt.off, Rn.spec, Blk.base, bayWindow] <;> omega

/-- A step beside the instruction queues: their registers, the packets on their way, and of each stall the faulted jobs and the
outbound beats are as they were, and no record of an event is lost. -/
structure State.PastQueue (s t : State) : Prop where
  regs : ∀ q : RegAt, q.inQueue → t.regAt q = s.regAt q
  events : s.events ⊆ t.events
  tokens : t.tokens = s.tokens
  stall : ∀ h, (t.stall h).faulted = (s.stall h).faulted ∧ (t.stall h).out = (s.stall h).out

section
variable {x s t : State}

theorem State.PastQueue.refl (s : State) : s.PastQueue s := ⟨fun _ _ => rfl, fun _ h => h, rfl, fun _ => ⟨rfl, rfl⟩⟩

theorem State.PastQueue.trans (h : x.PastQueue s) (h' : s.PastQueue t) : x.PastQueue t :=
  ⟨fun q hq => (h'.regs q hq).trans (h.regs q hq), fun _ he => h'.events (h.events he), h'.tokens.trans h.tokens, fun g =>
    ⟨(h'.stall g).1.trans (h.stall g).1, (h'.stall g).2.trans (h.stall g).2⟩⟩

/-- A step that leaves registers, events, stalls and packets. -/
theorem State.PastQueue.of_safe {ps : Nat} {og : Option Nat} (h : x.PastQueue s) (hsafe : s.Safe ps og t)
    (hps : ps &&& Part.mask [.regs, .events, .stalls, .tokens] = 0) : x.PastQueue t := by
  have hpart (p : Part) (hp : (Part.mask [.regs, .events, .stalls, .tokens]).testBit p.ctorIdx = true) : ps.testBit p.ctorIdx = false := by
    have := congrArg (Nat.testBit · p.ctorIdx) hps
    simpa [Nat.testBit_and, hp] using this
  have hstalls : t.stalls = s.stalls := hsafe.part .stalls (hpart _ rfl)
  exact h.trans ⟨fun q _ => State.regAt_congr (hsafe.part .regs (hpart _ rfl)) q,
    fun e he => (hsafe.part .events (hpart _ rfl)).symm ▸ he, hsafe.part .tokens (hpart _ rfl), fun g => by
      rw [State.stall_congr g hstalls]
      exact ⟨rfl, rfl⟩⟩

theorem State.setReg_past {r : Rn} {n i : Nat} (v : Nat) (hr : ¬ (RegAt.mk r n i 0).inQueue) (h : x.PastQueue s) :
    x.PastQueue (s.setReg r n i v) :=
  h.trans ⟨fun q hq => s.setReg_regsBut r n i v q fun hmem => hr (by
    rw [List.mem_singleton] at hmem
    rwa [RegAt.inQueue, ← hmem]), fun _ he => he, rfl, fun _ => ⟨rfl, rfl⟩⟩

theorem State.count_past {r : Rn} {n i : Nat} (k : Nat) (hr : ¬ (RegAt.mk r n i 0).inQueue) (h : x.PastQueue s) :
    x.PastQueue (s.count r n k i) := State.setReg_past _ hr h

theorem State.mem_events_raise {e : EvRec} (r : Rn) (n k num w0 w1 w2 i : Nat) (h : e ∈ s.events) :
    e ∈ (s.raise r n k num w0 w1 w2 i).events := by
  rw [State.raise_events]
  exact List.mem_append_left _ h

theorem State.raiseOnce_past {r : Rn} {n : Nat} (k num w0 w1 w2 : Nat) (hr : ¬ (RegAt.mk r n 0 0).inQueue) (h : x.PastQueue s) :
    x.PastQueue (s.raiseOnce r n k num w0 w1 w2) := by
  unfold State.raiseOnce
  split
  · exact h
  · exact h.trans ⟨fun q hq => (s.regAt_raise r n k num w0 w1 w2 0 q).trans ((State.setReg_past _ hr (.refl s)).regs q hq),
      fun _ he => State.mem_events_raise r n k num w0 w1 w2 0 he, by simp, fun g => by
        rw [State.stall_congr (s := s) g (by simp)]
        exact ⟨rfl, rfl⟩⟩

theorem State.modStall_past (y : Nat) {f : Stall → Stall}
    (hf : (f (s.stall y)).faulted = (s.stall y).faulted ∧ (f (s.stall y)).out = (s.stall y).out) (h : x.PastQueue s) :
    x.PastQueue (s.modStall y f) := by
  refine h.trans ⟨fun _ _ => rfl, fun _ he => he, rfl, fun g => ?_⟩
  obtain rfl | hne := eq_or_ne g y
  · rwa [State.stall_modStall_same]
  · rw [State.stall_modStall_ne _ _ hne]
    exact ⟨rfl, rfl⟩

theorem State.numCount_past (n unit target ovf inv : Nat) (h : x.PastQueue s) : x.PastQueue (s.numCount n unit target ovf inv) := by
  have outside {r : Rn} := outside_inQueue (r := r) n
  have hovf : x.PastQueue (if ovf = 0 then s else (s.count .stlNumOvf n ovf).raiseOnce .stlNumEvent n 0 0x100 n unit target) := by
    split
    · exact h
    · exact State.raiseOnce_past _ _ _ _ _ (outside (by simp)) (State.count_past ovf (outside (by simp)) h)
  unfold State.numCount
  dsimp only
  split
  · exact hovf
  · exact State.raiseOnce_past _ _ _ _ _ (outside (by simp)) (State.count_past inv (outside (by simp)) hovf)

theorem State.convertElem_past (y : Nat) {k : Nat} (hk : k < 4) (d : StreamDesc) (deliver : Bool) (e : PVal) (h : x.PastQueue s) :
    x.PastQueue (s.convertElem y k d deliver e).1 := by
  have hamax := engine_outside_inQueue (r := .stlAmaxStr) y hk (by simp)
  unfold State.convertElem
  dsimp only
  repeat' first
    | with_reducible assumption | exact outside_inQueue _ (by simp)
    | with_reducible apply State.count_past | with_reducible apply State.numCount_past | with_reducible apply State.setReg_past
    | split

/-- The elements of an inbound beat go to core memory, and its poison to the job. -/
theorem Mv.receive_past {m : Mv} (y : Nat) {k : Nat} (hk : k < 4) (b : PBeat) (h : x.PastQueue m.s) :
    x.PastQueue (m.receive y k b).s := by
  have hbyte {z : State} (a : Nat) (v : Byte) (p : Bool) (hz : x.PastQueue z) : x.PastQueue (z.writeByte a v p) :=
    hz.of_safe (State.writeByte_safe (ps := 0x30) (og := none) z a v p rfl (.refl z)) rfl
  have hbytes {z : State} (a : Nat) (bs : List (Byte × Bool)) (hz : x.PastQueue z) : x.PastQueue (z.writeTagged a bs) :=
    hz.of_safe (State.writeTagged_safe (ps := 0x30) (og := none) z a bs rfl (.refl z)) rfl
  have hjob {z : State} (j : Nat) (f : Job → Job) (hz : x.PastQueue z) : x.PastQueue (z.modJob j f) :=
    hz.of_safe (State.modJob_safe (ps := 0x200000) (og := none) z j f rfl (.refl z)) rfl
  unfold Mv.receive
  dsimp only
  repeat' first
    | with_reducible assumption | with_reducible apply hjob | split
    | with_reducible refine foldl_inv (State.PastQueue x) _ _ _ (fun _ _ _ => ?_) ?_
    | with_reducible apply hbyte | with_reducible apply hbytes
    | with_reducible apply State.convertElem_past

theorem State.setEngine_past (y k : Nat) (e : Engine) (h : x.PastQueue s) : x.PastQueue (s.setEngine y k e) :=
  State.modStall_past y ⟨rfl, rfl⟩ h

theorem Mv.commit_past {m : Mv} (y : Nat) {k : Nat} (hk : k < 4) (hs : x.PastQueue s) (h : x.PastQueue m.s) :
    x.PastQueue (m.commit y k s) := by
  unfold Mv.commit
  dsimp only
  split
  · exact hs
  · exact State.setEngine_past _ _ _ (State.count_past _ (engine_outside_inQueue y hk (by simp)) h)

/-- Inbound data beats that move to their exchange pass by the instruction queue. -/
theorem State.pullBeats_past (y : Nat) {k : Nat} (hk : k < 4) (fuel : Nat) (h : x.PastQueue s) : x.PastQueue (s.pullBeats y k fuel) := by
  induction fuel generalizing s with
  | zero => exact h
  | succ fuel ih =>
    unfold State.pullBeats
    dsimp only
    repeat' first
      | with_reducible assumption | exact outside_inQueue _ (by simp) | with_reducible apply ih | with_reducible apply Mv.commit_past
      | with_reducible apply Mv.receive_past | with_reducible apply State.setEngine_past | with_reducible apply State.count_past
      | with_reducible refine State.modStall_past _ ⟨by rfl, by rfl⟩ ?_ | split

theorem State.settle_past (y : Nat) (activity : Bool) (h : x.PastQueue s) : x.PastQueue (s.settle y activity) := by
  unfold State.settle
  refine State.modStall_past y ?_ h
  rw [Stall.watchStep_eq]
  exact ⟨rfl, rfl⟩

end

/-! ### FABRIC_TOKEN_BEAT -/

/-- The state in which a token beat has left its channel buffer. -/
def State.beatTaken (s : State) (g : StallId) (chan : Fin 16) (rest : List PBeat) : State :=
  s.modStall g fun st => { st with inBuf := Tab.set [] st.inBuf chan.val rest }

/-- The name of a token beat, checked against the table of the job that runs (R197): handed to delivery, or discarded. -/
def State.checkName (s : State) (g : StallId) (run : Option (Nat × Nat)) (name : Nat) : State :=
  match run with
  | none => s.fabTokDrop g name 3
  | some (slot, gen) =>
    match (s.job slot).token g name with
    | none => s.fabTokDrop g name 1
    | some k =>
      if k.pkind ≠ 2 ∨ k.pstall ≠ g.val then s.fabTokDrop g name 2
      else (s.count .fabPortBeats (g.val / 64)).tokenOut g slot gen k 0

/-- The beats behind it move, and the watch steps. -/
def State.beatsMove (s : State) (g : StallId) : State :=
  (each [0, 1, 2, 3] s fun s k => s.pullBeats g k 0x10000).settle g

/-- The state in which an accepted token beat is handed to delivery. -/
def State.beatAccepted (s : State) (g : StallId) (chan : Fin 16) (rest : List PBeat) (slot gen : Nat) (k : TokRec) : State :=
  ((s.beatTaken g chan rest).count .fabPortBeats (g.val / 64)).tokenOut g slot gen k 0

/-- The port refuses a name for a reason of R197: the stall runs no job, its job has no such token, or not from the fabric here. -/
def State.refusesName (s : State) (g : StallId) (name reason : Nat) : Prop :=
  ((s.stall g).run = none ∧ reason = 3) ∨
    ∃ slot gen, (s.stall g).run = some (slot, gen) ∧ (((s.job slot).token g name = none ∧ reason = 1) ∨
      ∃ k : TokRec, (s.job slot).token g name = some k ∧ (k.pkind ≠ 2 ∨ k.pstall ≠ g.val) ∧ reason = 2)

theorem State.beatTaken_past (s : State) (g : StallId) (chan : Fin 16) (rest : List PBeat) : s.PastQueue (s.beatTaken g chan rest) :=
  State.modStall_past g ⟨rfl, rfl⟩ (.refl s)

theorem State.beatsMove_past (s : State) (g : StallId) : s.PastQueue (s.beatsMove g) :=
  State.settle_past g true (each_induct (P := fun y => s.PastQueue y) [0, 1, 2, 3] (fun _ _ hk hy =>
    State.pullBeats_past g ((by decide : ∀ k ∈ [0, 1, 2, 3], k < 4) _ hk) _ hy) (.refl s))

theorem exec_fabricTokenBeat {g : StallId} {chan : Fin 16} {s : State} {b : PBeat} {rest : List PBeat}
    (hhead : Tab.get [] (s.stall g).inBuf chan.val = b :: rest) (hkind : b.kind = 1) (hup : s.stallUp g = true) :
    exec (.fabricTokenBeat g chan) s =
      .next (((s.beatTaken g chan rest).checkName g (s.stall g).run (ofLe b.data % 4096)).beatsMove g) := by
  show execFabricTokenBeat g chan s = _
  simp only [execFabricTokenBeat, hhead]
  exact if_neg (by simp [hkind, hup])

theorem State.checkName_accepts {s : State} {g : StallId} {slot gen name : Nat} {k : TokRec}
    (htok : (s.job slot).token g name = some k) (hpkind : k.pkind = 2) (hpstall : k.pstall = g.val) :
    s.checkName g (some (slot, gen)) name = (s.count .fabPortBeats (g.val / 64)).tokenOut g slot gen k 0 := by
  simp only [State.checkName, htok]
  exact if_neg (by simp [hpkind, hpstall])

theorem State.checkName_drops {s y : State} {g : StallId} {name reason : Nat} (hrefused : s.refusesName g name reason)
    (hjobs : y.jobs = s.jobs) : y.checkName g (s.stall g).run name = y.fabTokDrop g name reason := by
  obtain ⟨hrun, rfl⟩ | ⟨slot, gen, hrun, ⟨htok, rfl⟩ | ⟨k, htok, hother, rfl⟩⟩ := hrefused
  · rw [hrun, State.checkName]
  · rw [← State.job_congr slot hjobs] at htok
    simp only [hrun, State.checkName, htok]
  · rw [← State.job_congr slot hjobs] at htok
    simp only [hrun, State.checkName, htok]
    exact if_pos hother

theorem State.fabTokDrop_parts (s : State) (g name reason : Nat) :
    (s.fabTokDrop g name reason).tokens = s.tokens ∧ (s.fabTokDrop g name reason).stalls = s.stalls := by
  simp [State.fabTokDrop]

section
variable (s : State) (g : StallId) (chan : Fin 16) (rest : List PBeat)

/-- An accepted token beat is no discarded one. -/
theorem State.beatAccepted_fabdrop (slot gen : Nat) (k : TokRec) :
    ((s.beatAccepted g chan rest slot gen k).beatsMove g).reg .stlTokFabdrop g = s.reg .stlTokFabdrop g := by
  have hplace := queue_inQueue (r := .stlTokFabdrop) g (by simp)
  rw [State.reg, (State.beatsMove_past _ g).regs _ hplace, State.beatAccepted, State.regAt_congr (State.tokenOut_regs _ _ _ _ _ _)]
  exact (State.count_past 1 (outside_inQueue _ (by simp)) (s.beatTaken_past g chan rest)).regs _ hplace

theorem State.beatAccepted_packets (slot gen : Nat) {k : TokRec} (hkind : k.ckind < 3) :
    ((s.beatAccepted g chan rest slot gen k).beatsMove g).tokens = s.tokens ++ k.packets g slot gen (s.job slot).stalls :=
  (State.beatsMove_past _ g).tokens.trans (State.tokenOut_packets _ g slot gen hkind 0)

theorem State.beatAccepted_beat (slot gen : Nat) {k : TokRec} (hkind : k.ckind = 3) :
    let t := (s.beatAccepted g chan rest slot gen k).beatsMove g
    t.tokens = s.tokens ∧ (t.stall k.cstall).out = (s.stall k.cstall).out ++ [k.beat] := by
  have hmove := State.beatsMove_past (s.beatAccepted g chan rest slot gen k) g
  have hout := ((s.beatTaken_past g chan rest).stall k.cstall).2
  dsimp only
  rw [hmove.tokens, (hmove.stall k.cstall).2, State.beatAccepted, State.tokenOut_beat _ g slot gen hkind, State.stall_modStall_same]
  exact ⟨rfl, congrArg (· ++ [k.beat]) hout⟩

/-- A refused name is counted and raises FABTOK with its reason. -/
theorem State.beatRefused_leaves {name reason : Nat} (hname : name < 4096) (hreason : reason ≤ 3) :
    let t := ((s.beatTaken g chan rest).fabTokDrop g name reason).beatsMove g
    t.tokens = s.tokens ∧ (t.stall g).faulted = (s.stall g).faulted ∧
      t.reg .stlTokFabdrop g = min (2 ^ 32 - 1) (s.reg .stlTokFabdrop g + 1) ∧ bit (t.reg .stlIqEvent g) 2 = true ∧
      ∃ x ∈ t.events, x.code % 1024 = 0x142 ∧ x.w0 = g.val ∧ x.w2 = reason * 4096 + name := by
  have hmove := State.beatsMove_past ((s.beatTaken g chan rest).fabTokDrop g name reason) g
  have hregs {r : Rn} (hr : r ∈ [Rn.stlIqEvent, .stlTokFabdrop]) := hmove.regs _ (queue_inQueue g hr)
  obtain ⟨htokens, hstalls⟩ := (s.beatTaken g chan rest).fabTokDrop_parts g name reason
  have hfaulted := (congrArg Stall.faulted (State.stall_congr g.val hstalls)).trans ((s.beatTaken_past g chan rest).stall g).1
  refine ⟨hmove.tokens.trans htokens, (hmove.stall g).1.trans hfaulted,
    (hregs (r := .stlTokFabdrop) (by simp)).trans ?_, (congrArg (bit · 2) (hregs (r := .stlIqEvent) (by simp))).trans ?_, ?_⟩
  · refine (State.reg_raise_ne _ (q := .stlTokFabdrop) (m := g) (j := 0) _ _ _ _ _ (by simp [RegAt.off, Rn.spec])).trans ?_
    exact (s.beatTaken g chan rest).reg_count_same .stlTokFabdrop g 1 0
  · exact (congrArg (bit · 2) (State.reg_raise_same _ _ _ _ _ _ _ _ _)).trans (bit_evAdvance_same _ (by decide))
  · obtain ⟨x, hx, hcode, hw0, -, hw2⟩ := State.raise_record ((s.beatTaken g chan rest).count .stlTokFabdrop g) .stlIqEvent g 2 0x142 g
      (match ((s.beatTaken g chan rest).stall g).run with | some (slot, _) => slot | none => 0x3FF) (reason * 4096 + name) 0
    refine ⟨x, hmove.events hx, by rw [hcode]; decide, ?_, ?_⟩
    · rw [hw0, Nat.mod_eq_of_lt (by omega)]
    · rw [hw2, Nat.mod_eq_of_lt (by omega)]

end

end Sys2Proof.Machine

namespace Sys2Proof.Proofs

open Sys2Proof.Machine

/-- Settles O26: a first packet is counted, found stale or overflows, as State.deliver's cases say; a token beat is accepted or dropped,
and the data beats that move behind it pass by the instruction queue. -/
theorem tokensAreCountedOrDiscarded : Obligations.TokensAreCountedOrDiscarded := by
  unfold Obligations.TokensAreCountedOrDiscarded
  refine ⟨fun p s => ⟨fun hfirst hfence => ?_, fun q hq hne => exec_token_waits hq hne⟩,
    fun g chan s b rest name hhead hkind hup hname => ?_⟩
  · have hexec := exec_token_first hfirst
    have htokens := (s.tokenTaken p).deliver_tokens p
    refine ⟨fun hholds hroom => ?counted, fun hholds => ?stale, fun hholds hfull => ?overflow⟩
    case counted =>
      refine ⟨_, hexec, ?_, htokens, ?_⟩ <;> rw [State.deliver_counted (s := s.tokenTaken p) hfence hholds hroom]
      · exact (s.counted_leaves p).1
      · refine ⟨(s.counted_leaves p).2, ?_⟩
        rw [(s.counted_leaves p).2]
        exact Stall.count_counted _ p
    case stale =>
      obtain ⟨hsame, hregs, hcount⟩ := s.stale_leaves p
      rw [State.deliver_stale (s := s.tokenTaken p) hfence hholds] at hexec
      exact ⟨_, hexec, hsame, rfl, hregs, hcount⟩
    case overflow =>
      refine ⟨_, hexec, (exec_safe (c := .token p) rfl hexec).sameBut, htokens, ?_⟩
      rw [State.deliver_overflow (s := s.tokenTaken p) hfence hholds hfull]
      exact (s.tokenTaken p).overflowed_leaves p
  · subst hname
    refine ⟨fun slot gen k hrun htok hpkind hpstall hckind => ?packets, fun slot gen k hrun htok hpkind hpstall hckind => ?beat,
      fun reason hrefused => ?refused⟩
    case packets =>
      have hexec := exec_fabricTokenBeat hhead hkind hup
      rw [hrun, State.checkName_accepts (s := s.beatTaken g chan rest) htok hpkind hpstall] at hexec
      exact ⟨_, hexec, s.beatAccepted_fabdrop g chan rest slot gen k, s.beatAccepted_packets g chan rest slot gen hckind⟩
    case beat =>
      have hexec := exec_fabricTokenBeat hhead hkind hup
      rw [hrun, State.checkName_accepts (s := s.beatTaken g chan rest) htok hpkind hpstall] at hexec
      obtain ⟨htokens, hout⟩ := s.beatAccepted_beat g chan rest slot gen hckind
      exact ⟨_, hexec, htokens, s.beatAccepted_fabdrop g chan rest slot gen k, hout⟩
    case refused =>
      have hreason : reason ≤ 3 := by
        obtain ⟨-, rfl⟩ | ⟨_, _, -, ⟨-, rfl⟩ | ⟨_, -, -, rfl⟩⟩ := hrefused <;> decide
      have hexec := exec_fabricTokenBeat hhead hkind hup
      rw [State.checkName_drops (y := s.beatTaken g chan rest) hrefused rfl] at hexec
      exact ⟨_, hexec, s.beatRefused_leaves g chan rest (Nat.mod_lt _ (by decide)) hreason⟩

end Sys2Proof.Proofs

/-! PROOF. The stall watch, and the jobs that it finds deadlocked (R202, R203, R205, R208). -/

namespace Sys2Proof.Machine

/-! ### WATCH_EXPIRY -/

/-- The stall after its interval has expired. -/
def Stall.expire (st : Stall) : Stall := { st with watch := { st.watch with expired := true } }

/-- The state after the expiry of a stall that runs the job of a slot. -/
def State.watchExpired (s : State) (g : StallId) (slot : Nat) : State :=
  ((s.modStall g Stall.expire).raise .stlIqEvent g 1 0x141 g slot (s.watchWord g)).raise .bayEvent (g.val / 64) 5 0x005 g slot (s.watchWord g)

theorem exec_watchExpiry_expires {g : StallId} {s : State} {slot gen : Nat} (hrun : (s.stall g).run = some (slot, gen))
    (hfrozen : (s.stall g).watch.frozen = none) (hquiet : (s.stall g).watch.quiet = true) (hfirst : (s.stall g).watch.expired = false)
    (hen : bit (s.reg .stlWatchCtl g) 31 = true) (hup : s.stallUp g = true)
    (hlong : (s.stall g).watch.since + bits (s.reg .stlWatchCtl g) 29 0 ≤ s.local (g.val / 64)) :
    exec (.watchExpiry g) s = .next (s.watchExpired g slot) := by
  show execWatchExpiry g s = _
  simp only [execWatchExpiry, hrun, hfrozen, hquiet, hfirst, hen, hup, decide_eq_false (Nat.not_lt.mpr hlong)]
  rfl

theorem exec_watchExpiry_waits {g : StallId} {s : State} (h : (s.stall g).run = none ∨ (s.stall g).watch.quiet = false ∨
    (s.stall g).watch.expired = true ∨ bit (s.reg .stlWatchCtl g) 31 = false ∨
    s.local (g.val / 64) < (s.stall g).watch.since + bits (s.reg .stlWatchCtl g) 29 0) : exec (.watchExpiry g) s = .next s := by
  show execWatchExpiry g s = _
  unfold execWatchExpiry
  dsimp only
  split
  · rfl
  next hrun =>
    refine if_pos ?_
    simp only [hrun, reduceCtorEq, false_or] at h
    obtain h | h | h | h := h <;> simp [h]

theorem State.watchExpired_stall (s : State) (g : StallId) (slot : Nat) : (s.watchExpired g slot).stall g = (s.stall g).expire :=
  (State.stall_congr (s := s.modStall g Stall.expire) g (by simp [State.watchExpired])).trans (State.stall_modStall_same _ _ _)

/-- WATCH is raised in STL_IQ_EVENT and in BAY_EVENT. -/
theorem State.watchExpired_event (s : State) (g : StallId) (slot : Nat) :
    bit ((s.watchExpired g slot).reg .stlIqEvent g) 1 = true ∧ bit ((s.watchExpired g slot).reg .bayEvent (g.val / 64)) 5 = true := by
  have hoff : (RegAt.mk .stlIqEvent g 0 0).off ≠ (RegAt.mk .bayEvent (g.val / 64) 0 0).off := by
    simp only [RegAt.off, Rn.spec, Blk.base, bayWindow]
    omega
  constructor
  · rw [State.watchExpired, State.reg_raise_ne _ _ _ _ _ _ hoff, State.reg_raise_same, bit_evAdvance_same _ (by decide)]
  · rw [State.watchExpired, State.reg_raise_same, bit_evAdvance_same _ (by decide)]

/-- One record for each, which say the same. -/
theorem State.watchExpired_records (s : State) (g : StallId) (slot : Nat) : ∃ x y : EvRec,
    (s.watchExpired g slot).events = s.events ++ [x, y] ∧ x.code % 1024 = 0x141 ∧ y.code % 1024 = 0x005 ∧ x.w0 = g.val ∧
      y.w0 = g.val ∧ x.w1 = slot % 2 ^ 32 ∧ y.w1 = x.w1 ∧ y.w2 = x.w2 := by
  have hg : g.val % 2 ^ 32 = g.val := Nat.mod_eq_of_lt (by omega)
  have hiq : (Rn.stlIqEvent.spec.blk.id * 1024 + 0x141) % 1024 = 0x141 := by decide
  have hbay : (Rn.bayEvent.spec.blk.id * 1024 + 0x005) % 1024 = 0x005 := by decide
  rw [State.watchExpired, State.raise_events, State.raise_events, List.append_assoc]
  exact ⟨_, _, rfl, hiq, hbay, hg, hg, rfl, rfl, rfl⟩

/-! ### Writes of STL_WATCH_CTL -/

theorem exec_watchCtlWrite {m : Master} {g : StallId} {off : Nat} {s : State} (v : Word32)
    (h : s.reaches m off ⟨.stlWatchCtl, g, 0, 0⟩ false true) : exec (.watchCtlWrite m g v) s = .next (s.watchCtl g v.toNat) := by
  obtain ⟨-, hresp, hmay⟩ := h
  exact congrArg Host.Outcome.next (State.guarded_of_may (r := ⟨.stlWatchCtl, g, 0, 0⟩) (fun s => s.watchCtl g v.toNat) hresp hmay)

/-- It is the REGISTER_WRITE of that register. -/
theorem exec_registerWrite_watchCtl {m : Master} {g : StallId} {off : Nat} {s : State} (v : Word32)
    (h : s.reaches m off ⟨.stlWatchCtl, g, 0, 0⟩ false true) : exec (.registerWrite m off v) s = .next (s.watchCtl g v.toNat) := by
  rw [exec_registerWrite, State.busWrite_narrow _ h rfl]
  rfl

/-- EN above an INTERVAL of 30 bits. -/
theorem watchCtl_fields (v : Nat) {x : Nat} (hx : x < 2 ^ 30) :
    bit (bits v 31 31 * 2 ^ 31 + x) 31 = bit v 31 ∧ bits (bits v 31 31 * 2 ^ 31 + x) 29 0 = x := by
  have hen : (bits v 31 31 * 2 ^ 31 + x) / 2 ^ 31 = bits v 31 31 := by omega
  constructor
  · rw [bit, hen, bit_eq_bits v 31, Nat.mod_eq_of_lt (show bits v 31 31 < 2 from bits_lt v 31 31)]
  · simp only [bits]
    omega

section
variable (s : State) (g v : Nat)

theorem State.watchCtl_sameBut : SameBut [.regs, .stalls] s (s.watchCtl g v) :=
  (State.watchCtl_safe (ps := Part.mask [.regs, .stalls]) (og := none) s g v rfl (.inl rfl) (.refl s)).sameBut

/-- The measurement is kept beside the registers. -/
theorem State.watchCtl_regs : ∃ x < 2 ^ 30, x = (if 100000 ≤ bits v 29 0 ∧ bits v 29 0 ≤ 1000000000 then bits v 29 0
      else bits (s.reg .stlWatchCtl g) 29 0) ∧
    (s.watchCtl g v).regs = (s.setReg .stlWatchCtl g 0 (bits v 31 31 * 2 ^ 31 + x)).regs := by
  refine ⟨_, ?_, rfl, ?_⟩
  · split <;> exact bits_lt _ 29 0
  · unfold State.watchCtl
    dsimp only
    split <;> rfl

theorem State.watchCtl_regsBut : RegsBut [(RegAt.mk .stlWatchCtl g 0 0).off] s (s.watchCtl g v) := by
  obtain ⟨x, -, -, hregs⟩ := s.watchCtl_regs g v
  exact fun q hq => (State.regAt_congr hregs q).trans (s.setReg_regsBut .stlWatchCtl g 0 _ q hq)

/-- EN is taken as written, and an INTERVAL out of range leaves the one before. -/
theorem State.watchCtl_value : bit ((s.watchCtl g v).reg .stlWatchCtl g) 31 = bit v 31 ∧
    bits ((s.watchCtl g v).reg .stlWatchCtl g) 29 0 = (if 100000 ≤ bits v 29 0 ∧ bits v 29 0 ≤ 1000000000 then bits v 29 0
      else bits (s.reg .stlWatchCtl g) 29 0) := by
  obtain ⟨x, hlt, hx, hregs⟩ := s.watchCtl_regs g v
  have hreg : (s.watchCtl g v).reg .stlWatchCtl g = bits v 31 31 * 2 ^ 31 + x :=
    (State.regAt_congr hregs _).trans (s.reg_setReg_same .stlWatchCtl g 0 _)
  rw [hreg, ← hx]
  exact watchCtl_fields v hlt

/-- An INTERVAL that is placed, or EN that is set, begins the measurement again. -/
theorem State.watchCtl_stall : (s.watchCtl g v).stall g = { s.stall g with watch := { (s.stall g).watch with
    since := if (100000 ≤ bits v 29 0 ∧ bits v 29 0 ≤ 1000000000) ∨ (bit v 31 = true ∧ bit (s.reg .stlWatchCtl g) 31 = false)
      then s.local (g / 64) else (s.stall g).watch.since } } := by
  have hset (w : Nat) : (s.setReg .stlWatchCtl g 0 w).stall g = s.stall g ∧
    (s.setReg .stlWatchCtl g 0 w).local (g / 64) = s.local (g / 64) := ⟨rfl, rfl⟩
  unfold State.watchCtl
  dsimp only
  by_cases hrestart : (100000 ≤ bits v 29 0 ∧ bits v 29 0 ≤ 1000000000) ∨ (bit v 31 = true ∧ bit (s.reg .stlWatchCtl g) 31 = false)
  · rw [if_pos hrestart, if_pos hrestart, State.stall_modStall_same, (hset _).1, (hset _).2]
  · rw [if_neg hrestart, if_neg hrestart, (hset _).1]

end

/-! ### STL_WATCH_DECLARE -/

/-- The state after the DEADLOCK of the slot that the stall runs; another slot changes nothing there. -/
def State.deadlocked (s : State) (g slot : Nat) : State :=
  match (s.stall g).run with
  | some (sl, gen) => if sl = slot then s.deadlock g slot gen else s
  | none => s

/-- The job notes the stall as one that was declared. -/
def Job.declare (j : Job) (g : Nat) : Job := { j with declared := g :: j.declared.filter (· != g) }

theorem Job.mem_declare (j : Job) (g h : Nat) : h ∈ (j.declare g).declared ↔ h = g ∨ h ∈ j.declared := by
  by_cases hg : h = g <;> simp [Job.declare, hg]

/-- Every stall that still holds the job has been declared, one of them now. -/
theorem Job.all_declared {j : Job} {g : Nat} :
    j.left.all (j.declare g).declared.contains = true ↔ ∀ h ∈ j.left, h = g ∨ h ∈ j.declared := by
  simp only [List.all_eq_true, List.contains_iff_mem, Job.mem_declare]

theorem State.deadlocked_running {s : State} {g slot gen : Nat} (hrun : (s.stall g).run = some (slot, gen)) :
    s.deadlocked g slot = s.deadlock g slot gen := by
  rw [State.deadlocked, hrun]
  exact if_pos rfl

theorem State.deadlocked_other {s : State} {g slot : Nat} (h : (s.stall g).run.map Prod.fst ≠ some slot) : s.deadlocked g slot = s := by
  unfold State.deadlocked
  split
  next hrun => exact if_neg fun hslot => h (by rw [hrun, hslot]; rfl)
  · rfl

/-- The event of a deadlock leaves the jobs. -/
theorem State.deadlock_raised_job (s : State) (g slot : Nat) :
    (s.raise .stlIqEvent g 3 0x143 g slot (s.watchWord g)).job slot = s.job slot := State.job_congr slot (by simp)

/-- A deadlock adds to the reasons of the job and changes nothing else of it. -/
theorem State.deadlock_job (s : State) (g slot gen : Nat) :
    ∃ rs, (s.deadlock g slot gen).job slot = { s.job slot with reasons := rs } := by
  have hraised := s.deadlock_raised_job g slot
  unfold State.deadlock State.addReason
  dsimp only
  split
  · rw [State.job_modJob_same, hraised]
    exact ⟨_, rfl⟩
  · exact ⟨(s.job slot).reasons, hraised⟩

theorem State.deadlocked_job (s : State) (g slot : Nat) : ∃ rs, (s.deadlocked g slot).job slot = { s.job slot with reasons := rs } := by
  unfold State.deadlocked
  split
  · split
    · exact s.deadlock_job g slot _
    · exact ⟨_, rfl⟩
  · exact ⟨_, rfl⟩

theorem State.deadlocked_sameBut (s : State) (g slot : Nat) : SameBut [.regs, .events, .jobs] s (s.deadlocked g slot) := by
  refine State.Safe.sameBut (og := none) ?_
  unfold State.deadlocked
  split
  · split
    · exact State.deadlock_safe s g slot _ rfl (.refl s)
    · exact .refl s
  · exact .refl s

/-- The state in which the job of a slot has noted a declaration. -/
def State.declare (s : State) (g slot : Nat) : State := s.modJob slot fun j => j.declare g

/-- The state after STL_WATCH_DECLARE of a job that the stall holds: the job waits for its other stalls, or is abandoned. -/
def State.declaredIn (s : State) (g slot : Nat) : State :=
  if (s.job slot).left.all ((s.job slot).declare g).declared.contains then
    ((s.deadlocked g slot).declare g slot).abandonJob slot
  else (s.deadlocked g slot).declare g slot

theorem State.declare_job (s : State) (g slot : Nat) : (s.declare g slot).job slot = (s.job slot).declare g :=
  s.job_modJob_same slot fun j => j.declare g

section
variable {c : CoreId} {g : StallId} {v : Word32} {s : State} {slot : Nat} (hslot : bits v.toNat 9 0 = slot)
  (hup : s.stallUp g = true)
include hslot hup

/-- A declaration first records the deadlock of a job that runs there; then a job that the stall holds notes it (R205). -/
theorem exec_watchDeclare : let y := s.deadlocked g slot
    exec (.watchDeclare c g v) s = if (y.job slot).live = false ∨ g.val ∉ (y.job slot).left then .next y
      else .next (if (y.job slot).left.all ((y.declare g slot).job slot).declared.contains then (y.declare g slot).abandonJob slot
        else y.declare g slot) := by
  subst hslot
  show execWatchDeclare c g v s = _
  exact if_neg (by simp [hup])

theorem exec_watchDeclare_held (hlive : (s.job slot).live = true) (hleft : g.val ∈ (s.job slot).left) :
    exec (.watchDeclare c g v) s = .next (s.declaredIn g slot) := by
  obtain ⟨rs, hjob⟩ := s.deadlocked_job g slot
  rw [exec_watchDeclare hslot hup, if_neg (by simp [hjob, hlive, hleft]), State.declare_job, hjob]
  rfl

theorem exec_watchDeclare_free (h : (s.job slot).live = false ∨ g.val ∉ (s.job slot).left) :
    exec (.watchDeclare c g v) s = .next (s.deadlocked g slot) := by
  obtain ⟨rs, hjob⟩ := s.deadlocked_job g slot
  rw [exec_watchDeclare hslot hup, if_pos (by rwa [hjob])]

end

theorem exec_watchDeclare_idle {c : CoreId} {g : StallId} {v : Word32} {s : State} (h : s.stallUp g = false ∨
    ((s.stall g).run.map Prod.fst ≠ some (bits v.toNat 9 0) ∧
      ((s.job (bits v.toNat 9 0)).live = false ∨ g.val ∉ (s.job (bits v.toNat 9 0)).left))) :
    exec (.watchDeclare c g v) s = .next s := by
  cases hup : s.stallUp g with
  | false =>
    show execWatchDeclare c g v s = _
    exact if_pos hup
  | true =>
    obtain ⟨hrun, hfree⟩ := h.resolve_left (by simp [hup])
    rw [exec_watchDeclare_free rfl hup hfree, State.deadlocked_other hrun]

/-! ### What an abandonment leaves of the events -/

/-- Bit k of STL_IQ_EVENT of stall g stays pending, and no record of an event is lost. -/
structure State.StaysNoted (g k : Nat) (s t : State) : Prop where
  pending : bit (s.reg .stlIqEvent g) k = true → bit (t.reg .stlIqEvent g) k = true
  events : s.events ⊆ t.events

section
variable {x s t : State} {g k : Nat}

theorem State.StaysNoted.refl (g k : Nat) (s : State) : s.StaysNoted g k s := ⟨id, fun _ h => h⟩

theorem State.StaysNoted.trans (h : x.StaysNoted g k s) (h' : s.StaysNoted g k t) : x.StaysNoted g k t :=
  ⟨h'.pending ∘ h.pending, fun _ he => h'.events (h.events he)⟩

theorem State.StaysNoted.same (h : x.StaysNoted g k s) (hregs : t.regs = s.regs) (hevents : t.events = s.events) : x.StaysNoted g k t :=
  h.trans ⟨fun hbit => by rwa [State.reg, State.regAt_congr hregs], fun _ he => hevents.symm ▸ he⟩

theorem State.count_noted {r : Rn} {n : Nat} (hr : (RegAt.mk .stlIqEvent g 0 0).off ≠ (RegAt.mk r n 0 0).off)
    (h : x.StaysNoted g k s) : x.StaysNoted g k (s.count r n) :=
  h.trans ⟨fun hbit => by rwa [State.count, State.reg_setReg_ne _ _ hr], fun _ he => he⟩

/-- An event in any register keeps the bits that are pending in STL_IQ_EVENT. -/
theorem State.raise_noted {r : Rn} {n j : Nat} (num w0 w1 w2 : Nat) (hk : k < 24) (hj : j < 24)
    (hr : (RegAt.mk r n 0 0).reset = 0) (h : x.StaysNoted g k s) : x.StaysNoted g k (s.raise r n j num w0 w1 w2) := by
  refine h.trans ⟨fun hbit => ?_, fun _ he => State.mem_events_raise r n j num w0 w1 w2 0 he⟩
  by_cases hoff : (RegAt.mk .stlIqEvent g 0 0).off = (RegAt.mk r n 0 0).off
  · have hplace (y : State) : y.reg .stlIqEvent g = y.reg r n := y.regAt_of_place hoff hr.symm
    rw [hplace, State.reg_raise_same, bit_evAdvance _ hj hk, ← hplace, hbit, Bool.true_or]
  · rwa [State.reg_raise_ne _ _ _ _ _ _ hoff]

theorem State.raiseOnce_noted {r : Rn} {n j : Nat} (num w0 w1 w2 : Nat) (hk : k < 24) (hj : j < 24)
    (hr : (RegAt.mk r n 0 0).reset = 0) (h : x.StaysNoted g k s) : x.StaysNoted g k (s.raiseOnce r n j num w0 w1 w2) := by
  unfold State.raiseOnce
  split
  · exact h
  · exact State.raise_noted num w0 w1 w2 hk hj hr h

theorem State.beatDrop_noted (y chan reason : Nat) (b : PBeat) (hk : k < 24) (h : x.StaysNoted g k s) :
    x.StaysNoted g k (s.beatDrop y chan reason b) := by
  have hport : (RegAt.mk .stlIqEvent g 0 0).off ≠ (RegAt.mk .fabPortDrop (y / 64) 0 0).off := by
    simp only [RegAt.off, Rn.spec, Blk.base, bayWindow]
    omega
  have hfab : (RegAt.mk .stlIqEvent g 0 0).off ≠ (RegAt.mk .stlTokFabdrop y 0 0).off := by
    simp only [RegAt.off, Rn.spec, Blk.base, bayWindow]
    omega
  have hdrop := State.raiseOnce_noted 0x1C2 y chan reason hk (r := .fabEvent) (n := y / 64) (j := 2) (by decide) rfl
    (State.count_noted hport h)
  unfold State.beatDrop State.fabTokDrop
  dsimp only
  split
  · exact State.raise_noted _ _ _ _ hk (by decide) rfl (State.count_noted hfab hdrop)
  · exact hdrop

theorem State.dropInbound_noted (y reason : Nat) (hk : k < 24) (h : x.StaysNoted g k s) : x.StaysNoted g k (s.dropInbound y reason) :=
  each_induct (P := fun z => x.StaysNoted g k z) (List.range 16) (fun _ c _ hz =>
    each_induct (P := fun z => x.StaysNoted g k z) _ (fun _ b _ hw => State.beatDrop_noted y c reason b hk hw) hz) (h.same rfl rfl)

theorem State.abandonStall_noted (y slot gen : Nat) (hk : k < 24) (h : x.StaysNoted g k s) :
    x.StaysNoted g k (s.abandonStall y slot gen) := by
  unfold State.abandonStall
  dsimp only
  split
  · exact State.dropInbound_noted y 2 hk (h.same rfl rfl)
  · exact h.same rfl rfl

theorem State.abandonJob_noted (slot : Nat) (hk : k < 24) (h : x.StaysNoted g k s) : x.StaysNoted g k (s.abandonJob slot) := by
  have hstalls := each_induct (P := fun z => x.StaysNoted g k z) (s.job slot).stalls
    (f := fun z y => if z.isFenced (y / 64) then z else z.abandonStall y slot (s.job slot).gen) (fun z y _ hz => by
      split
      · exact hz
      · exact State.abandonStall_noted y slot _ hk hz) h
  refine State.StaysNoted.same (each_induct (P := fun z => x.StaysNoted g k z) (s.job slot).stalls (f := State.releaseHeld)
    (fun z y _ hz => ?_) hstalls) rfl rfl
  have hsafe := State.releaseHeld_safe z y (ps := 0x4030) (og := none) rfl rfl (.refl z)
  exact hz.same (hsafe.part .regs rfl) (hsafe.part .events rfl)

end

/-- A deadlock raises DEADLOCK on its stall with a record that names the slot, and is a reason of the job that runs there. -/
theorem State.deadlock_leaves (s : State) (g : StallId) {slot : Nat} (hslot : slot < 2 ^ 32) (gen : Nat) :
    let t := s.deadlock g slot gen
    bit (t.reg .stlIqEvent g) 3 = true ∧ (∃ x ∈ t.events, x.code % 1024 = 0x143 ∧ x.w0 = g.val ∧ x.w1 = slot) ∧
      ((s.job slot).gen = gen → ∃ x ∈ (t.job slot).reasons, x.status = .deadlock ∧ x.stall = g.val) := by
  obtain ⟨hregs, hevents, -⟩ := (s.raise .stlIqEvent g 3 0x143 g slot (s.watchWord g)).addReason_fields slot gen
    { status := .deadlock, stall := g, idx := bits (s.watchWord g) 31 16, tok := s.awaited g }
  obtain ⟨x, hx, hcode, hw0, hw1, -⟩ := s.raise_record .stlIqEvent g 3 0x143 g slot (s.watchWord g) 0
  refine ⟨?_, ⟨x, hevents.symm ▸ hx, by rw [hcode]; decide, ?_, ?_⟩, fun hgen => ?_⟩
  · refine (congrArg (bit · 3) ((State.regAt_congr hregs _).trans (s.reg_raise_same _ _ _ _ _ _ _ _))).trans ?_
    exact bit_evAdvance_same _ (by decide)
  · rw [hw0, Nat.mod_eq_of_lt (by omega)]
  · rw [hw1, Nat.mod_eq_of_lt hslot]
  · exact ⟨_, State.mem_addReason _ _ ((congrArg Job.gen (s.deadlock_raised_job g slot)).trans hgen), rfl, rfl⟩

/-- A declaration keeps the event, the record and the reason of the deadlock, whether the job is abandoned or waits. -/
theorem State.declaredIn_keeps (s : State) (g slot : Nat) : (s.deadlocked g slot).StaysNoted g 3 (s.declaredIn g slot) ∧
    ((s.declaredIn g slot).job slot).reasons = ((s.deadlocked g slot).job slot).reasons := by
  have hnoted : (s.deadlocked g slot).StaysNoted g 3 ((s.deadlocked g slot).declare g slot) :=
    (State.StaysNoted.refl g 3 _).same rfl rfl
  unfold State.declaredIn
  split
  · refine ⟨State.abandonJob_noted slot (by decide) hnoted, ?_⟩
    rw [State.abandonJob_job_same, State.declare_job]
    rfl
  · refine ⟨hnoted, ?_⟩
    rw [State.declare_job]
    rfl

theorem State.declaredIn_abandons {s : State} {g slot : Nat} (h : ∀ x ∈ (s.job slot).left, x = g ∨ x ∈ (s.job slot).declared) :
    ((s.declaredIn g slot).job slot).abandoned = true ∧ ((s.declaredIn g slot).job slot).left = [] := by
  rw [State.declaredIn, if_pos (Job.all_declared.mpr h), State.abandonJob_job_same]
  exact ⟨rfl, rfl⟩

theorem State.declaredIn_waits {s : State} {g slot : Nat} (h : ∃ x ∈ (s.job slot).left, x ≠ g ∧ x ∉ (s.job slot).declared) :
    SameBut [.regs, .events, .jobs] s (s.declaredIn g slot) ∧ ((s.declaredIn g slot).job slot).left = (s.job slot).left ∧
      ∀ x, x ∈ ((s.declaredIn g slot).job slot).declared ↔ x = g ∨ x ∈ (s.job slot).declared := by
  obtain ⟨x, hx, hne, hnew⟩ := h
  obtain ⟨rs, hjob⟩ := s.deadlocked_job g slot
  have hmod : SameBut [.jobs] (s.deadlocked g slot) ((s.deadlocked g slot).declare g slot) :=
    (State.modJob_safe (ps := Part.mask [.jobs]) (og := none) _ _ _ rfl (.refl _)).sameBut
  have hall : ¬ (s.job slot).left.all ((s.job slot).declare g).declared.contains = true := fun hall =>
    (Job.all_declared.mp hall x hx).elim hne hnew
  rw [State.declaredIn, if_neg hall, State.declare_job, hjob]
  exact ⟨(s.deadlocked_sameBut g slot).trans (hmod.mono (by simp)), rfl, (s.job slot).mem_declare g⟩

end Sys2Proof.Machine

namespace Sys2Proof.Proofs

open Sys2Proof.Machine

/-- Settles O27: the expiry of a quiet stall, a write of STL_WATCH_CTL and a declared deadlock, whose event, record and reason stay
through the abandonment of the job. -/
theorem theStallWatch : Obligations.TheStallWatch := by
  unfold Obligations.TheStallWatch
  intro g s
  refine ⟨fun slot gen hrun hfrozen hquiet hfirst hen hup hlong => ?expires, exec_watchExpiry_waits, fun m off v hreach => ?write,
    fun c v slot hslot hup => ?declare, fun _ _ => exec_watchDeclare_idle⟩
  case expires =>
    have hexec := exec_watchExpiry_expires hrun hfrozen hquiet hfirst hen hup hlong
    obtain ⟨hiq, hbay⟩ := s.watchExpired_event g slot
    exact ⟨_, hexec, (exec_safe (c := .watchExpiry g) rfl hexec).sameBut, s.watchExpired_stall g slot, hiq, hbay,
      s.watchExpired_records g slot⟩
  case write =>
    have hexec := exec_watchCtlWrite v hreach
    obtain ⟨hen, hinterval⟩ := s.watchCtl_value g v.toNat
    exact ⟨hexec.trans (exec_registerWrite_watchCtl v hreach).symm, _, hexec, s.watchCtl_sameBut g _, s.watchCtl_regsBut g _, hen,
      hinterval, s.watchCtl_stall g _⟩
  case declare =>
    have hlt : slot < 2 ^ 32 := hslot ▸ (bits_lt v.toNat 9 0).trans (by decide)
    have hdeadlock (gen : Nat) (hrun : (s.stall g).run = some (slot, gen)) :=
      State.deadlocked_running hrun ▸ s.deadlock_leaves g hlt gen
    by_cases hheld : (s.job slot).live = true ∧ g.val ∈ (s.job slot).left
    · obtain ⟨hlive, hleft⟩ := hheld
      obtain ⟨hkeeps, hreasons⟩ := s.declaredIn_keeps g slot
      refine ⟨_, exec_watchDeclare_held hslot hup hlive hleft, fun gen hrun => ?_, fun _ _ => ⟨State.declaredIn_abandons,
        State.declaredIn_waits⟩, fun h => absurd h (by simp [hlive, hleft])⟩
      obtain ⟨hevent, ⟨x, hx, hrecord⟩, hreason⟩ := hdeadlock gen hrun
      exact ⟨hkeeps.pending hevent, ⟨x, hkeeps.events hx, hrecord⟩, hreasons ▸ hreason⟩
    · have hfree : (s.job slot).live = false ∨ g.val ∉ (s.job slot).left := by
        simpa [or_iff_not_imp_left] using hheld
      obtain ⟨rs, hjob⟩ := s.deadlocked_job g slot
      refine ⟨_, exec_watchDeclare_free hslot hup hfree, hdeadlock, fun hlive hleft => absurd ⟨hlive, hleft⟩ hheld, fun _ =>
        ⟨s.deadlocked_sameBut g slot, ?_⟩⟩
      rw [hjob]

end Sys2Proof.Proofs

/-! PROOF. Tally cells (R217 to R219, R222, R223, R237): arming, takes, completion reports and release. -/

namespace Sys2Proof.Machine

/-! ### One cell -/

/-- Cell c of bay b has become x, and every other cell is as it was. -/
structure State.CellBecomes (s : State) (b c : Nat) (x : Cell) (t : State) : Prop where
  cell : t.cell b c = x
  others : ∀ y, y ≠ b * 256 + c → Tab.get {} t.cells y = Tab.get {} s.cells y

theorem State.setCell_sameBut (s : State) (b c : Nat) (x : Cell) : SameBut [.cells] s (s.setCell b c x) :=
  (State.setCell_safe s b c x (ps := Part.mask [.cells]) (og := none) rfl (.refl s)).sameBut

theorem State.cellBecomes_setCell (s : State) (b c : Nat) (x : Cell) : s.CellBecomes b c x (s.setCell b c x) :=
  ⟨Tab.get_set_same _ _ _ _, fun _ hy => Tab.get_set_ne _ _ _ hy⟩

theorem State.CellBecomes.congr {s t u : State} {b c : Nat} {x : Cell} (h : s.CellBecomes b c x t) (hcells : u.cells = t.cells) :
    s.CellBecomes b c x u :=
  ⟨by rw [State.cell, hcells]; exact h.cell, fun y hy => by rw [hcells]; exact h.others y hy⟩

/-- An event that is raised only while its bit is clear changes its register and leaves a record, or changes nothing. -/
theorem State.raiseOnce_sameBut (s : State) (r : Rn) (n k num w0 w1 w2 : Nat) :
    SameBut [.regs, .events] s (s.raiseOnce r n k num w0 w1 w2) :=
  (State.raiseOnce_safe s r n k num w0 w1 w2 (ps := Part.mask [.regs, .events]) (og := none) rfl (.refl s)).sameBut

theorem State.raiseOnce_regsBut (s : State) (r : Rn) (n k num w0 w1 w2 : Nat) :
    RegsBut [(RegAt.mk r n 0 0).off] s (s.raiseOnce r n k num w0 w1 w2) := by
  unfold State.raiseOnce
  split
  · exact fun _ _ => rfl
  · exact s.raise_regsBut r n k num w0 w1 w2 0

/-! ### Arming and release by a register write (R218, R223) -/

section
variable (c : CoreId) (b : BayId) {v : Word32} {s : State}

theorem exec_tallyArm (hop : bits v.toNat 31 30 = 1) (hrange : bits (s.reg .tlyArmRange b) 31 0 ≤ bits (s.reg .tlyArmRange b) 63 32) :
    exec (.tallyArm c b v) s = .next (s.armCell b (bits v.toNat 7 0) (bits v.toNat 20 11) (bits v.toNat 28 21)
      (bits (s.reg .tlyArmRange b) 31 0) (bits (s.reg .tlyArmRange b) 63 32) (bit v.toNat 29)) := by
  show execTallyArm c b v s = _
  rw [execTallyArm, if_neg (not_not_intro hop), if_neg (Nat.not_lt.mpr hrange)]

theorem exec_tallyArm_refused (hop : bits v.toNat 31 30 = 1)
    (hrange : bits (s.reg .tlyArmRange b) 63 32 < bits (s.reg .tlyArmRange b) 31 0) : exec (.tallyArm c b v) s =
      .next (s.raiseOnce .tlyEvent b 3 0x183 (bits v.toNat 7 0) (bits (s.reg .tlyArmRange b) 31 0) (bits (s.reg .tlyArmRange b) 63 32)) := by
  show execTallyArm c b v s = _
  rw [execTallyArm, if_neg (not_not_intro hop), if_pos hrange]

theorem exec_tallyRelease (hop : bits v.toNat 31 30 = 2) : exec (.tallyRelease c b v) s =
    .next (s.setCell b (bits v.toNat 7 0) { s.cell b (bits v.toNat 7 0) with state := 0 }) := by
  show execTallyRelease c b v s = _
  rw [execTallyRelease, if_neg (not_not_intro hop)]

end

/-! ### TAKE_NEXT (R219, R221) -/

section
variable {x : Cell} {slot gen : Nat}

theorem Cell.take_armed (hstate : x.state = 1) (hjob : x.job = slot) (hgen : x.gen = gen) : x.take slot gen =
    ({ x with next := x.next + 1, taken := x.taken + 1, state := if x.next + 1 = x.limit then 2 else 1 }, 0, x.next) := by
  simp [Cell.take, hstate, hjob, hgen]

theorem Cell.take_exhausted (hstate : x.state = 2) (hjob : x.job = slot) (hgen : x.gen = gen) :
    x.take slot gen = (x, 1, 0xFFFFFFFF) := by
  simp [Cell.take, hstate, hjob, hgen]

theorem Cell.take_foreign (h : x.state = 0 ∨ x.job ≠ slot ∨ x.gen ≠ gen) : x.take slot gen = (x, 2, 0xFFFFFFFF) := if_pos h

end

/-- A FOREIGN answer leaves FOREIGN pending, and changes only its capture and its event. -/
theorem State.foreign_leaves (s : State) (b : Nat) (r : TakeReq) (reason : Nat) :
    SameBut [.regs, .events] s (s.foreign b r reason) ∧ bit ((s.foreign b r reason).reg .tlyEvent b) 0 = true ∧
      RegsBut [(RegAt.mk .tlyForeignInfo b 0 0).off, (RegAt.mk .tlyEvent b 0 0).off] s (s.foreign b r reason) :=
  ⟨(State.foreign_safe s b r reason (ps := Part.mask [.regs, .events]) (og := none) rfl (.refl s)).sameBut,
    State.raiseOnce_event _ _ _ _ _ _ _ (by decide),
    ((s.capture_regsBut _ _ _ _ _).mono (by simp)).trans ((State.raiseOnce_regsBut _ _ _ _ _ _ _ _).mono (by simp))⟩

section
variable (s : State) (b : Nat) (r : TakeReq) (rest : List TakeReq)

/-- The request has left its bay's tally unit, which has taken from the cell and counted it. -/
def State.takeCounted : State :=
  (State.setCell { s with takeQ := Tab.set [] s.takeQ b rest } b r.cell ((s.cell b r.cell).take r.slot r.gen).1).count .tlyTakes b

/-- So it has, and a FOREIGN answer has been noted. -/
def State.takeNoted : State :=
  if ((s.cell b r.cell).take r.slot r.gen).2.1 = 2 then
    (s.takeCounted b r rest).foreign b r (if (s.cell b r.cell).state = 0 then 2 else 3)
  else s.takeCounted b r rest

/-- The answer to a request: its status and index are those of the take. -/
def State.takeAnswer : TakeAns :=
  { stall := r.stall, queue := r.queue, seq := r.seq, slot := r.slot, gen := r.gen
    answer := answerWord r.tally ((s.cell b r.cell).take r.slot r.gen).2.1 (s.cell b r.cell).epoch
      ((s.cell b r.cell).take r.slot r.gen).2.2 }

theorem State.takeNoted_sameBut : SameBut [.regs, .events] (s.takeCounted b r rest) (s.takeNoted b r rest) := by
  unfold State.takeNoted
  split
  · exact (State.foreign_leaves _ b r _).1
  · exact fun p _ => p.same_refl _

theorem State.takeNoted_answers : (s.takeNoted b r rest).answers = s.answers := s.takeNoted_sameBut b r rest .answers (by simp)

theorem State.takeNoted_takes : (s.takeNoted b r rest).reg .tlyTakes b = min (2 ^ 64 - 1) (s.reg .tlyTakes b + 1) := by
  have hcounted : (s.takeCounted b r rest).reg .tlyTakes b = min (2 ^ 64 - 1) (s.reg .tlyTakes b + 1) := State.reg_count_same _ _ _ _ _
  unfold State.takeNoted
  split
  · refine Eq.trans ((State.foreign_leaves _ b r _).2.2 ⟨.tlyTakes, b, 0, 0⟩ ?_) hcounted
    simp [RegAt.off, Rn.spec]
  · exact hcounted

end

theorem exec_takeNext {b : BayId} {s : State} {r : TakeReq} {rest : List TakeReq} (hq : Tab.get [] s.takeQ b.val = r :: rest)
    (hfence : s.isFenced b = false) : exec (.takeNext b) s =
      .next { s.takeNoted b r rest with answers := s.answers ++ [s.takeAnswer b r] } := by
  have hanswers := s.takeNoted_answers b r rest
  rw [← hanswers]
  show execTakeNext b s = _
  rw [execTakeNext, hq]
  dsimp only
  rw [hfence, if_neg (by simp)]
  rfl


section
variable (s : State) (b : Nat) (r : TakeReq) (rest : List TakeReq)

theorem State.takeNoted_cells : s.CellBecomes b r.cell ((s.cell b r.cell).take r.slot r.gen).1 (s.takeNoted b r rest) :=
  (s.cellBecomes_setCell b r.cell _).congr (s.takeNoted_sameBut b r rest .cells (by simp))

theorem State.takeNoted_takeQ : Tab.get [] (s.takeNoted b r rest).takeQ b = rest :=
  (congrArg (fun q => Tab.get [] q b) (s.takeNoted_sameBut b r rest .takeQ (by simp))).trans (Tab.get_set_same _ _ _ _)

theorem State.takeNoted_foreign (h : ((s.cell b r.cell).take r.slot r.gen).2.1 = 2) :
    bit ((s.takeNoted b r rest).reg .tlyEvent b) 0 = true := by
  rw [State.takeNoted, if_pos h]
  exact (State.foreign_leaves _ b r _).2.1

theorem State.takeNoted_events (h : ((s.cell b r.cell).take r.slot r.gen).2.1 ≠ 2) : (s.takeNoted b r rest).events = s.events := by
  rw [State.takeNoted, if_neg h]
  rfl

end

/-! ### REPORT (R222, R224) -/

/-- A stall whose JCOMMIT waits for reports of the run waits for one fewer. -/
def Stall.reported (r : Report) (st : Stall) : Stall :=
  match st.commit with
  | some (e, n) => if e.slot = r.slot ∧ e.gen = r.gen then { st with commit := some (e, n - 1) } else st
  | none => st

theorem exec_report {b : BayId} {s : State} {r : Report} {rest : List Report} (hq : Tab.get [] s.reportQ b.val = r :: rest)
    (hfence : s.isFenced b = false) : exec (.report b) s =
      .next ((State.applyReport { s with reportQ := Tab.set [] s.reportQ b rest } b r).modStall r.stall (Stall.reported r)) := by
  show execReport b s = _
  rw [execReport, hq]
  dsimp only
  rw [hfence, if_neg (by simp)]
  rfl

theorem Stall.reported_waits {r : Report} {st : Stall} {e : QEntry} {n : Nat} (h : st.commit = some (e, n)) (hslot : e.slot = r.slot)
    (hgen : e.gen = r.gen) : Stall.reported r st = { st with commit := some (e, n - 1) } := by
  rw [Stall.reported, h]
  exact if_pos ⟨hslot, hgen⟩

section
variable {s : State} {b : Nat} {r : Report}

theorem State.applyReport_counted (hepoch : (s.cell b r.cell).epoch = r.epoch) (hstate : (s.cell b r.cell).state ≠ 0) :
    s.applyReport b r = s.setCell b r.cell { s.cell b r.cell with done := (s.cell b r.cell).done + r.count } :=
  if_pos ⟨hepoch, hstate⟩

theorem State.applyReport_late (h : (s.cell b r.cell).epoch ≠ r.epoch ∨ (s.cell b r.cell).state = 0) : s.applyReport b r =
    (s.count .tlyLate b r.count).raiseOnce .tlyEvent b 1 0x181 (b * 256 + r.cell) r.count r.epoch :=
  if_neg fun ⟨hepoch, hstate⟩ => h.elim (· hepoch) hstate

/-- A late report changes no cell: it is counted, and LATE is pending. -/
theorem State.applyReport_late_leaves (h : (s.cell b r.cell).epoch ≠ r.epoch ∨ (s.cell b r.cell).state = 0) :
    (s.applyReport b r).cells = s.cells ∧ bit ((s.applyReport b r).reg .tlyEvent b) 1 = true ∧
      (s.applyReport b r).reg .tlyLate b = min (2 ^ 32 - 1) (s.reg .tlyLate b + r.count) := by
  rw [State.applyReport_late h]
  refine ⟨by simp, State.raiseOnce_event _ _ _ _ _ _ _ (by decide), ?_⟩
  exact (State.raiseOnce_regsBut _ _ _ _ _ _ _ _ ⟨.tlyLate, b, 0, 0⟩ (by simp [RegAt.off, Rn.spec])).trans
    (s.reg_count_same .tlyLate b r.count 0)

theorem State.applyReport_stalls : (s.applyReport b r).stalls = s.stalls :=
  (State.applyReport_safe s b r (ps := 0x8204) (og := none) rfl (.refl s)).part .stalls rfl

theorem State.applyReport_reportQ : (s.applyReport b r).reportQ = s.reportQ :=
  (State.applyReport_safe s b r (ps := 0x8204) (og := none) rfl (.refl s)).part .reportQ rfl

end

/-! ### CELL_RELEASE (R223) -/

section
variable {b : BayId} {cell : Fin 256} {s : State} (hstate : (s.cell b cell).state ≠ 0)
include hstate

theorem exec_cellRelease_dropped (h : (s.job (s.cell b cell).job).gen ≠ (s.cell b cell).gen ∨
    (s.job (s.cell b cell).job).abandoned = true) :
    exec (.cellRelease b cell) s = .next (s.setCell b cell { s.cell b cell with state := 0 }) := by
  show execCellRelease b cell s = _
  rw [execCellRelease]
  exact (if_neg hstate).trans (if_pos h)

variable (hgen : (s.job (s.cell b cell).job).gen = (s.cell b cell).gen) (hkept : (s.job (s.cell b cell).job).abandoned = false)
include hgen hkept

theorem exec_cellRelease_completed (hleft : (s.job (s.cell b cell).job).left = []) :
    exec (.cellRelease b cell) s = .next (s.releaseCell b cell true) := by
  show execCellRelease b cell s = _
  simp [execCellRelease, hstate, hgen, hkept, hleft]

theorem exec_cellRelease_waits (hleft : (s.job (s.cell b cell).job).left ≠ []) : exec (.cellRelease b cell) s = .next s := by
  show execCellRelease b cell s = _
  simp [execCellRelease, hstate, hgen, hkept, hleft]

end

section
variable {s : State} {b c : Nat}

theorem Cell.short_iff {x : Cell} : x.short = true ↔ x.cover = true ∧ (x.next < x.limit ∨ x.done ≠ x.taken) := by
  simp [Cell.short]

theorem State.releaseCell_whole (h : (s.cell b c).short = false) :
    s.releaseCell b c true = s.setCell b c { s.cell b c with state := 0 } := by
  simp [State.releaseCell, h]

theorem State.releaseCell_short (h : (s.cell b c).short = true) : s.releaseCell b c true =
    ((s.setCell b c { s.cell b c with state := 0 }).raiseOnce .tlyEvent b 2 0x182 (b * 256 + c) (s.cell b c).next
      (s.cell b c).done).addReason (s.cell b c).job (s.cell b c).gen { status := .tallyShort } := by
  simp [State.releaseCell, h]

theorem State.addReason_cells (s : State) (slot gen : Nat) (r : Reason) : (s.addReason slot gen r).cells = s.cells := by
  unfold State.addReason
  split <;> rfl

theorem State.releaseCell_cells (s : State) (b c : Nat) :
    s.CellBecomes b c { s.cell b c with state := 0 } (s.releaseCell b c true) := by
  refine (s.cellBecomes_setCell b c _).congr ?_
  cases h : (s.cell b c).short with
  | false => rw [State.releaseCell_whole h]
  | true => rw [State.releaseCell_short h, State.addReason_cells, (State.raiseOnce_sameBut _ _ _ _ _ _ _ _ .cells (by simp) : _ = _)]

/-- A cell that fails the coverage check leaves SHORT pending and fails its job. -/
theorem State.releaseCell_short_leaves (h : (s.cell b c).short = true) (hgen : (s.job (s.cell b c).job).gen = (s.cell b c).gen) :
    bit ((s.releaseCell b c true).reg .tlyEvent b) 2 = true ∧
      ∃ r ∈ ((s.releaseCell b c true).job (s.cell b c).job).reasons, r.status = .tallyShort := by
  rw [State.releaseCell_short h]
  refine ⟨?_, { status := .tallyShort }, State.mem_addReason _ _ ?_, rfl⟩
  · rw [State.reg, State.regAt_congr (State.addReason_fields _ _ _ _).1]
    exact State.raiseOnce_event _ _ _ _ _ _ _ (by decide)
  · rw [State.job_congr (s := s) _ (by simp)]
    exact hgen

end

end Sys2Proof.Machine

namespace Sys2Proof.Proofs

open Sys2Proof.Machine

/-- Settles O30: each command is a change of one cell beside counts, events and reasons; what a take answers is `Cell.take`, by the
cell's state and owner. -/
theorem talliesHandOutEachIndexOnce : Obligations.TalliesHandOutEachIndexOnce := by
  unfold Obligations.TalliesHandOutEachIndexOnce
  intro b s
  refine ⟨fun c v hop => ⟨fun hrange => ?arm, fun hrange => ?refused⟩, fun c v hop => ?release, fun r rest x hq hfence hx => ?take,
    fun r rest x hq hfence hx => ?report, fun cell x j hx hj hstate => ?freed⟩
  case arm =>
    obtain ⟨hcell, hothers⟩ := s.cellBecomes_setCell b (bits v.toNat 7 0) ((s.cell b (bits v.toNat 7 0)).arm (bits v.toNat 20 11)
      (bits v.toNat 28 21) (bits (s.reg .tlyArmRange b) 31 0) (bits (s.reg .tlyArmRange b) 63 32) (bit v.toNat 29))
    exact ⟨_, exec_tallyArm c b hop hrange, s.setCell_sameBut _ _ _, hcell, hothers⟩
  case refused =>
    exact ⟨_, exec_tallyArm_refused c b hop hrange, s.raiseOnce_sameBut _ _ _ _ _ _ _, s.raiseOnce_event _ _ _ _ _ _ (by decide)⟩
  case release =>
    obtain ⟨hcell, hothers⟩ := s.cellBecomes_setCell b (bits v.toNat 7 0) { s.cell b (bits v.toNat 7 0) with state := 0 }
    exact ⟨_, exec_tallyRelease c b hop, s.setCell_sameBut _ _ _, hcell, hothers⟩
  case take =>
    subst hx
    have hexec := exec_takeNext hq hfence
    obtain ⟨hcell, hothers⟩ := s.takeNoted_cells b r rest
    have hforeign := s.takeNoted_foreign b r rest
    refine ⟨_, hexec, (exec_safe (c := .takeNext b) rfl hexec).sameBut, s.takeNoted_takeQ b r rest, s.takeNoted_takes b r rest, hothers,
      _, _, rfl, fun harmed hjob hgen => ?_, fun hexhausted hjob hgen => ?_, fun hother => ?_, s.takeNoted_events b r rest⟩
    · rw [Cell.take_armed harmed hjob hgen] at hcell ⊢
      exact ⟨rfl, rfl, hcell⟩
    · rw [Cell.take_exhausted hexhausted hjob hgen] at hcell ⊢
      exact ⟨rfl, rfl, hcell⟩
    · rw [Cell.take_foreign hother] at hcell hforeign ⊢
      exact ⟨rfl, rfl, hcell, hforeign rfl⟩
  case report =>
    subst hx
    have hexec := exec_report hq hfence
    generalize hy : State.applyReport { s with reportQ := Tab.set [] s.reportQ b rest } b r = y at hexec
    have hstalls : y.stalls = s.stalls := hy ▸ State.applyReport_stalls
    have hrest : y.reportQ = Tab.set [] s.reportQ b rest := hy ▸ State.applyReport_reportQ
    refine ⟨_, hexec, (exec_safe (c := .report b) rfl hexec).sameBut, ?_, fun hepoch hstate => ?_, fun hlate => ?_,
      fun e n hcommit hslot hgen => ?_⟩
    · exact (congrArg (fun q => Tab.get [] q b.val) hrest).trans (Tab.get_set_same _ _ _ _)
    · have hcounted := State.applyReport_counted (s := { s with reportQ := Tab.set [] s.reportQ b rest }) (b := b) (r := r) hepoch hstate
      rw [hy] at hcounted
      subst hcounted
      obtain ⟨hcell, hothers⟩ := s.cellBecomes_setCell b r.cell { s.cell b r.cell with done := (s.cell b r.cell).done + r.count }
      exact ⟨hcell, (State.modStall_safe (ps := Part.mask [.stalls, .cells, .reportQ]) (og := none) _ _ _ rfl (.inl rfl)
        (State.setCell_safe _ _ _ _ rfl (State.Safe.upd_reportQ (.refl s) rfl))).sameBut, hothers⟩
    · rw [← hy]
      exact State.applyReport_late_leaves (s := { s with reportQ := Tab.set [] s.reportQ b rest }) hlate
    · rw [State.stall_modStall_same, State.stall_congr _ hstalls, Stall.reported_waits hcommit hslot hgen]
  case freed =>
    subst hx hj
    refine ⟨fun hdropped => ?_, fun hgen hkept hleft => ?_, exec_cellRelease_waits hstate⟩
    · exact ⟨_, exec_cellRelease_dropped hstate hdropped, s.setCell_sameBut _ _ _, (s.cellBecomes_setCell _ _ _).cell⟩
    · have hexec := exec_cellRelease_completed hstate hgen hkept hleft
      obtain ⟨hcell, hothers⟩ := s.releaseCell_cells b cell
      refine ⟨_, hexec, (exec_safe (c := .cellRelease b cell) rfl hexec).sameBut, hcell, hothers, fun hcover hshort => ?_,
        fun hwhole => ?_⟩
      · exact State.releaseCell_short_leaves (Cell.short_iff.mpr ⟨hcover, hshort⟩) hgen
      · have hcovered : (s.cell b cell).short = false := by
          rw [Bool.eq_false_iff, Ne, Cell.short_iff]
          rintro ⟨hcover, hshort⟩
          obtain hbare | ⟨hnext, hdone⟩ := hwhole
          · exact absurd hcover (by simp [hbare])
          · omega
        rw [State.releaseCell_whole hcovered]
        exact s.setCell_sameBut _ _ _

end Sys2Proof.Proofs

/-! PROOF. Tally answers (R220 to R222): what is read of the stall and the memory after the answer that TANS brings. -/

namespace Sys2Proof.Machine

/-! ### Words of core memory of any width -/

section
variable (s : State) (g off w v : Nat) (p : Bool)

theorem State.read_setCore : (s.setCore g off w v p).read (coreAddr g off) w = leBytes w v := by
  have hread := readBytes_writeBytes s.mem (coreAddr g off) (leBytes w v)
  rwa [leBytes_length] at hread

theorem State.poisoned_setCore_clean : (s.setCore g off w v false).poisoned (coreAddr g off) w = false := by
  show (readTags (writeTags s.memTag (coreAddr g off) false (leBytes w v).length) (coreAddr g off) w).any id = false
  simp [leBytes_length, readTags_writeTags]

theorem State.setCore_beside {y : Nat} (h : y < coreAddr g off ∨ coreAddr g off + w ≤ y) :
    Tab.get 0 (s.setCore g off w v p).mem y = Tab.get 0 s.mem y ∧
      Tab.get false (s.setCore g off w v p).memTag y = Tab.get false s.memTag y := by
  rw [← leBytes_length w v] at h
  exact ⟨writeBytes_outside _ _ _ _ h, writeTags_outside _ _ _ _ _ h⟩

end

/-! ### The map slots of a stall -/

/-- The stall after an answer to a job that runs there: an OK answer counts in its map slot. -/
def Stall.answered (st : Stall) (a : TakeAns) : Stall :=
  if bits a.answer 50 48 = 0 then st.countTake a.slot a.gen (bits a.answer 63 51) (bits a.answer 47 32) else st

theorem Stall.answered_inflight (st : Stall) (a : TakeAns) : (st.answered a).inflight = st.inflight := by
  unfold Stall.answered
  split <;> rfl

/-- The map slots of a run after one more OK answer for a tally. -/
def Inst.counted (tally epoch : Nat) (i : Inst) : Inst :=
  { i with map := i.map.map fun m => if m.tally = tally then { m with count := m.count + 1, epoch := epoch } else m }

theorem Inst.mem_counted {i : Inst} {m : MapSlot} {tally : Nat} (epoch : Nat) (hm : m ∈ i.map) (htally : m.tally = tally) :
    { m with count := m.count + 1, epoch := epoch } ∈ (i.counted tally epoch).map :=
  List.mem_map.mpr ⟨m, hm, if_pos htally⟩

theorem Stall.mem_insts_countTake {st : Stall} {i : Inst} {slot gen : Nat} (tally epoch : Nat) (hi : i ∈ st.insts) (hslot : i.slot = slot)
    (hgen : i.gen = gen) : i.counted tally epoch ∈ (st.countTake slot gen tally epoch).insts :=
  List.mem_map.mpr ⟨i, hi, if_pos ⟨hslot, hgen⟩⟩

/-! ### TANS -/

section
variable (s : State) (g : Nat) (a : TakeAns)

/-- The answer has arrived: it is no longer on its way, and counts in its map slot when it is OK. -/
def State.ansTaken : State :=
  if bits a.answer 50 48 = 0 then
    State.modStall { s with answers := s.answers.erase a } g fun st =>
      st.countTake a.slot a.gen (bits a.answer 63 51) (bits a.answer 47 32)
  else { s with answers := s.answers.erase a }

/-- The answer is written at the DEST of the TAKE that issue i holds, which completes. -/
def State.ansWritten (i : Issued) : State :=
  ((s.ansTaken g a).setCore g (bits i.e.word 47 24) 8 a.answer false).complete g i.e i.seq

/-- The answer takes its place in the control core's answer queue. -/
def State.ansQueued : State := (s.ansTaken g a).modCore g fun c => { c with tally := fillTake a.seq a.answer c.tally }

theorem State.ansTaken_stall : (s.ansTaken g a).stall g = (s.stall g).answered a := by
  unfold State.ansTaken Stall.answered
  split
  · exact State.stall_modStall_same _ _ _
  · rfl

theorem State.ansTaken_sameBut : SameBut [.stalls, .answers] s (s.ansTaken g a) := by
  have herase := State.Safe.upd_answers (a := s.answers.erase a) (ps := Part.mask [.stalls, .answers]) (og := none) (.refl s) rfl
  unfold State.ansTaken
  split
  · exact (State.modStall_safe (ps := Part.mask [.stalls, .answers]) _ g _ rfl (.inl rfl) herase).sameBut
  · exact herase.sameBut

theorem State.ansTaken_answers : (s.ansTaken g a).answers = s.answers.erase a := by
  unfold State.ansTaken
  split <;> rfl

end

section
variable {g : StallId} {s : State} {a : TakeAns}

theorem exec_tans_none (h : s.answers.find? (fun x => x.stall == g.val) = none) : exec (.tans g) s = .next s := by
  show execTans g s = _
  rw [execTans, h]

variable (hfirst : s.answers.find? (fun x => x.stall == g.val) = some a)
include hfirst

theorem exec_tans_discarded (hrun : (s.stall g).run ≠ some (a.slot, a.gen)) :
    exec (.tans g) s = .next { s with answers := s.answers.erase a } := by
  show execTans g s = _
  rw [execTans, hfirst]
  exact if_pos hrun

variable (hrun : (s.stall g).run = some (a.slot, a.gen))
include hrun

/-- What TANS does with an answer to the job that runs on its stall. -/
theorem exec_tans_running : exec (.tans g) s = .next (State.settle (if a.queue then
      match (s.stall g).inflight.find? fun i => i.seq == a.seq with
      | none => s.ansTaken g a
      | some i => s.ansWritten g a i
    else s.ansQueued g a) g) := by
  have hinflight : ((s.ansTaken g a).stall g).inflight = (s.stall g).inflight := by
    rw [State.ansTaken_stall, Stall.answered_inflight]
  have hmodel : exec (.tans g) s = if a.queue then
      match ((s.ansTaken g a).stall g).inflight.find? fun i => i.seq == a.seq with
      | none => .next ((s.ansTaken g a).settle g)
      | some i => .next ((s.ansWritten g a i).settle g)
    else .next ((s.ansQueued g a).settle g) := by
    show execTans g s = _
    rw [execTans, hfirst]
    exact if_neg (not_not_intro hrun)
  rw [hmodel, hinflight]
  cases a.queue with
  | false => rfl
  | true => cases (s.stall g).inflight.find? fun i => i.seq == a.seq <;> rfl

theorem exec_tans_unclaimed (hqueue : a.queue = true) (hnone : (s.stall g).inflight.find? (fun i => i.seq == a.seq) = none) :
    exec (.tans g) s = .next ((s.ansTaken g a).settle g) := by
  rw [exec_tans_running hfirst hrun, hqueue, hnone]
  rfl

theorem exec_tans_written {i : Issued} (hqueue : a.queue = true)
    (hissued : (s.stall g).inflight.find? (fun i => i.seq == a.seq) = some i) :
    exec (.tans g) s = .next ((s.ansWritten g a i).settle g) := by
  rw [exec_tans_running hfirst hrun, hqueue, hissued]
  rfl

theorem exec_tans_queued (hqueue : a.queue = false) : exec (.tans g) s = .next ((s.ansQueued g a).settle g) := by
  rw [exec_tans_running hfirst hrun, hqueue]
  rfl

end

section
variable (s : State) (g : Nat) (a : TakeAns)

theorem State.ansQueued_stall : (s.ansQueued g a).stall g = { (s.stall g).answered a with
    core := { ((s.stall g).answered a).core with tally := fillTake a.seq a.answer ((s.stall g).answered a).core.tally } } := by
  rw [State.ansQueued, State.modCore, State.stall_modStall_same, State.ansTaken_stall]

theorem State.ansQueued_sameBut : SameBut [.stalls] (s.ansTaken g a) (s.ansQueued g a) :=
  (State.modCore_safe (ps := Part.mask [.stalls]) (og := none) _ _ _ rfl (.inl rfl) (.refl _)).sameBut

variable (i : Issued)

theorem State.ansWritten_stall : (s.ansWritten g a i).stall g = { (s.stall g).answered a with
    inflight := ((s.stall g).answered a).inflight.filter fun j => !(j.seq == i.seq), out := ((s.ansWritten g a i).stall g).out } := by
  have hstalls : ((s.ansTaken g a).setCore g (bits i.e.word 47 24) 8 a.answer false).stall g = (s.stall g).answered a :=
    (State.stall_congr (s := s.ansTaken g a) g (by simp)).trans (s.ansTaken_stall g a)
  conv_lhs => rw [State.ansWritten, State.complete_stall, hstalls]
  rfl

theorem State.ansWritten_answers : (s.ansWritten g a i).answers = s.answers.erase a := by
  have hcomplete := (State.complete_safe ((s.ansTaken g a).setCore g (bits i.e.word 47 24) 8 a.answer false) g i.e i.seq 0
    (ps := 0x84004) (og := none) rfl rfl (.refl _)).part .answers rfl
  exact (Eq.trans hcomplete (by simp)).trans (s.ansTaken_answers g a)

/-- The eight bytes at DEST hold the answer, without poison, and no other byte has changed. -/
theorem State.ansWritten_memory :
    ofLe ((s.ansWritten g a i).read (coreAddr g (bits i.e.word 47 24)) 8) = a.answer % 2 ^ 64 ∧
      (s.ansWritten g a i).poisoned (coreAddr g (bits i.e.word 47 24)) 8 = false ∧
      ∀ y, y < coreAddr g (bits i.e.word 47 24) ∨ coreAddr g (bits i.e.word 47 24) + 8 ≤ y →
        Tab.get 0 (s.ansWritten g a i).mem y = Tab.get 0 s.mem y ∧
        Tab.get false (s.ansWritten g a i).memTag y = Tab.get false s.memTag y := by
  have hmem : (s.ansTaken g a).mem = s.mem := s.ansTaken_sameBut g a .mem (by simp)
  have htag : (s.ansTaken g a).memTag = s.memTag := s.ansTaken_sameBut g a .memTag (by simp)
  generalize hy : (s.ansTaken g a).setCore g (bits i.e.word 47 24) 8 a.answer false = y
  have hsafe := State.complete_safe y g i.e i.seq 0 (ps := 0x84004) (og := none) rfl rfl (.refl y)
  have hmem' : (s.ansWritten g a i).mem = y.mem := by
    rw [State.ansWritten, hy]
    exact hsafe.part .mem rfl
  have htag' : (s.ansWritten g a i).memTag = y.memTag := by
    rw [State.ansWritten, hy]
    exact hsafe.part .memTag rfl
  rw [State.read, State.poisoned, hmem', htag', ← State.read, ← State.poisoned, ← hmem, ← htag, ← hy]
  refine ⟨?_, State.poisoned_setCore_clean _ _ _ _ _, fun _ h => State.setCore_beside _ _ _ _ _ _ h⟩
  rw [State.read_setCore, ofLe_leBytes_mod, show 256 ^ 8 = 2 ^ 64 by norm_num]

/-- A TAKE without a token to produce completes on its stall alone. -/
theorem State.ansWritten_silent (h : i.e.prEn = false) : (s.ansWritten g a i).regs = s.regs ∧ (s.ansWritten g a i).tokens = s.tokens ∧
    (s.ansWritten g a i).stall g =
      { (s.stall g).answered a with inflight := ((s.stall g).answered a).inflight.filter fun j => !(j.seq == i.seq) } := by
  have hcomplete : s.ansWritten g a i = ((s.ansTaken g a).setCore g (bits i.e.word 47 24) 8 a.answer false).modStall g fun st =>
      { st with inflight := st.inflight.filter fun j => !(j.seq == i.seq) } := by
    rw [State.ansWritten, State.complete, if_neg (by simp [h])]
  have hregs : (s.ansTaken g a).regs = s.regs := s.ansTaken_sameBut g a .regs (by simp)
  have htokens : (s.ansTaken g a).tokens = s.tokens := s.ansTaken_sameBut g a .tokens (by simp)
  have hstall := s.ansTaken_stall g a
  rw [hcomplete]
  refine ⟨by simpa using hregs, by simpa using htokens, ?_⟩
  rw [State.stall_modStall_same, ← hstall]
  rfl

end

/-- However an answer to a running job is served, its stall's runs and their maps are those after the count. -/
theorem exec_tans_insts {g : StallId} {s : State} {a : TakeAns} (hfirst : s.answers.find? (fun x => x.stall == g.val) = some a)
    (hrun : (s.stall g).run = some (a.slot, a.gen)) :
    Does (.tans g) s fun t => (t.stall g).insts = ((s.stall g).answered a).insts := by
  have hsettle (y : State) : ((y.settle g).stall g).insts = (y.stall g).insts := by rw [State.settle_stall]
  cases hqueue : a.queue with
  | false =>
    refine ⟨_, exec_tans_queued hfirst hrun hqueue,
      (hsettle _).trans (by rw [State.ansQueued_stall])⟩
  | true =>
    cases hissued : (s.stall g).inflight.find? (fun i => i.seq == a.seq) with
    | none =>
      refine ⟨_, exec_tans_unclaimed hfirst hrun hqueue hissued,
        (hsettle _).trans (by rw [State.ansTaken_stall])⟩
    | some i =>
      refine ⟨_, exec_tans_written hfirst hrun hqueue hissued,
        (hsettle _).trans (by rw [State.ansWritten_stall])⟩

end Sys2Proof.Machine

namespace Sys2Proof.Proofs

open Sys2Proof.Machine

/-- Settles O31: an answer to the job that runs is counted (`Stall.answered`) and then written, queued or left, and the watch settles;
any other is dropped. -/
theorem tallyAnswersReachTheirStall : Obligations.TallyAnswersReachTheirStall := by
  unfold Obligations.TallyAnswersReachTheirStall
  refine ⟨fun g s => exec_tans_none, fun g s a hfirst => ⟨fun hrun => ?discarded, fun hrun x hx => ?running,
    fun i m hi hslot hgen hm htally hok hrun => ?counted⟩⟩
  case discarded =>
    exact ⟨_, exec_tans_discarded hfirst hrun,
      (State.Safe.upd_answers (ps := Part.mask [.answers]) (og := none) (.refl s) rfl).sameBut, rfl⟩
  case running =>
    obtain rfl : x = (s.stall g).answered a := hx
    have htaken := s.ansTaken_sameBut g a
    have hanswers := s.ansTaken_answers g a
    have hsettle (y : State) : SameBut [.stalls, .answers] y (y.settle g) := (y.settle_sameBut g true).mono (by simp)
    refine ⟨fun hqueue hnone => ?unclaimed, fun i hqueue hissued => ?written, fun hqueue => ?queued⟩
    case unclaimed =>
      refine ⟨_, exec_tans_unclaimed hfirst hrun hqueue hnone, htaken.trans (hsettle _), hanswers, ?_⟩
      conv_lhs => rw [State.settle_stall, State.ansTaken_stall]
    case written =>
      have hexec := exec_tans_written hfirst hrun hqueue hissued
      obtain ⟨hread, hclean, hbeside⟩ := s.ansWritten_memory g a i
      refine ⟨_, hexec, ((exec_safe (c := .tans g) rfl hexec).sameBut).mono (by simp [touches]), s.ansWritten_answers g a i, hread, hclean,
        hbeside, fun hsilent => ?_⟩
      obtain ⟨hregs, htokens, hstall⟩ := s.ansWritten_silent g a i hsilent
      refine ⟨hregs, htokens, ?_⟩
      conv_lhs => rw [State.settle_stall, hstall]
    case queued =>
      refine ⟨_, exec_tans_queued hfirst hrun hqueue,
        (htaken.trans ((s.ansQueued_sameBut g a).mono (by simp))).trans (hsettle _), hanswers, ?_⟩
      conv_lhs => rw [State.settle_stall, State.ansQueued_stall]
  case counted =>
    obtain ⟨t, hexec, hinsts⟩ := exec_tans_insts hfirst hrun
    refine ⟨t, hexec, i.counted (bits a.answer 63 51) (bits a.answer 47 32), ?_, rfl, rfl, Inst.mem_counted _ hm htally⟩
    rw [hinsts, Stall.answered, if_pos hok]
    exact Stall.mem_insts_countTake _ _ hi hslot hgen

end Sys2Proof.Proofs

/-! PROOF. Batches, dispatch and re-runs (R214, R216, R234, R421): what a batch that closes leaves of its jobs, and what the start of a
run leaves of its runner and of the stalls of its placement. -/

namespace Sys2Proof.Machine

/-! ### A batch closes (R234) -/

/-- A job of a batch gets its runner and its place. -/
def State.seatJob (r : Nat) (s : State) (x : Nat × Nat) : State := s.modJob x.1 fun j => { j with leader := some r, entry := x.2 }

theorem State.seatJobs_job {l : List (Nat × Nat)} (r : Nat) (s : State) (hnodup : (l.map Prod.fst).Nodup) {x : Nat × Nat} (hx : x ∈ l) :
    ((each l s (State.seatJob r)).job x.1).leader = some r ∧ ((each l s (State.seatJob r)).job x.1).entry = x.2 := by
  induction l generalizing s with
  | nil => cases hx
  | cons p l ih =>
    obtain ⟨hfresh, hnodup⟩ := List.nodup_cons.mp hnodup
    obtain rfl | hx := List.mem_cons.mp hx
    · refine each_induct (P := fun y => (y.job x.1).leader = some r ∧ (y.job x.1).entry = x.2) l (fun y a ha hy => ?_) ?_
      · have hne : x.1 ≠ a.1 := fun h => hfresh (List.mem_map.mpr ⟨a, ha, h.symm⟩)
        rwa [State.seatJob, State.job_modJob_ne _ _ hne]
      · rw [State.seatJob, State.job_modJob_same]
        exact ⟨rfl, rfl⟩
    · exact ih _ hnodup hx

/-- Queue q has no open batch, and the jobs of the one that it had are led by the first. -/
def State.batchClosed (s : State) (q r : Nat) (slots : List Nat) : State :=
  (each slots.zipIdx (s.modQueue q fun x => { x with batch := none }) (State.seatJob r)).modJob r fun j =>
    { j with batch := slots, rows := slots.length }

theorem exec_batchClose {q : QueueId} {s : State} {b : OpenBatch} {r : Nat} {rest : List Nat} (hbatch : (s.queue q).batch = some b)
    (hslots : b.slots = r :: rest) (hfw : s.fw = true) (hdue : s.batchDue q b = true) :
    exec (.batchClose q) s = .next (s.batchClosed q r b.slots) := by
  show execBatchClose q s = _
  simp only [execBatchClose, State.closeBatch, hbatch, hfw, hdue, hslots]
  rfl

section
variable (s : State) (q r : Nat) {slots : List Nat}

theorem State.batchClosed_queue : ((s.batchClosed q r slots).queue q).batch = none := by
  have hqueues : (s.batchClosed q r slots).queues = (s.modQueue q fun x => { x with batch := none }).queues :=
    each_induct (P := fun y => y.queues = (s.modQueue q fun x => { x with batch := none }).queues) _ (fun _ _ _ hy => hy) rfl
  rw [State.queue, hqueues, ← State.queue, State.queue_modQueue_same]

theorem State.batchClosed_runner : ((s.batchClosed q r slots).job r).batch = slots := by
  rw [State.batchClosed, State.job_modJob_same]

theorem State.batchClosed_seat (hnodup : slots.Nodup) {i j : Nat} (h : slots[i]? = some j) :
    ((s.batchClosed q r slots).job j).leader = some r ∧ ((s.batchClosed q r slots).job j).entry = i := by
  have hseat := State.seatJobs_job r (s.modQueue q fun x => { x with batch := none }) (l := slots.zipIdx) (by
    rwa [List.zipIdx_map_fst]) (x := (j, i)) (List.mk_mem_zipIdx_iff_getElem?.mpr h)
  have hkeeps := State.modJob_keeps (fun x => (x.leader, x.entry)) (f := fun j => { j with batch := slots, rows := slots.length })
    (fun _ => rfl) (each slots.zipIdx (s.modQueue q fun x => { x with batch := none }) (State.seatJob r)) r j
  obtain ⟨hleader, hentry⟩ := Prod.mk.inj hkeeps
  exact ⟨hleader.trans hseat.1, hentry.trans hseat.2⟩

end

/-! ### Shadow copies change no job (R420) -/

section
variable (s : State) {t : Transfer}

@[simp] theorem State.translate_jobs (g q va : Nat) (acc : Access) : (s.translate g q va acc).1.jobs = s.jobs :=
  (State.translate_safe s g q va acc (ps := 0x104004) (og := none) rfl (.inl rfl) (.refl s)).part .jobs rfl

@[simp] theorem State.hbmCheck_jobs (b pc line : Nat) (bad : Bool) (symErrs : Nat) (rmw : Bool) :
    (s.hbmCheck b pc line bad symErrs rmw).1.jobs = s.jobs :=
  (State.hbmCheck_safe s b pc line bad symErrs rmw (ps := 0x2000204) (og := none) rfl (.refl s)).part .jobs rfl

@[simp] theorem State.serveB_jobs (b j : Nat) : (s.serveB b j).jobs = s.jobs :=
  (State.serveB_safe s b j (ps := 0x4000000) (og := none) rfl (.refl s)).part .jobs rfl

@[simp] theorem State.hbmStore_jobs (b off pa : Nat) (bs : List (Byte × Bool)) (sym : Nat) : (s.hbmStore b off pa bs sym).jobs = s.jobs :=
  (State.hbmStore_safe s b off pa bs sym (ps := 0x2000234) (og := none) rfl (.refl s)).part .jobs rfl

@[simp] theorem State.hostWrite_jobs (pa : Nat) (bs : List (Byte × Bool)) : (s.hostWrite pa bs).jobs = s.jobs :=
  (State.hostWrite_safe s pa bs (ps := 0xc4) (og := none) rfl (.refl s)).part .jobs rfl

@[simp] theorem State.writeTagged_jobs (a : Nat) (bs : List (Byte × Bool)) : (s.writeTagged a bs).jobs = s.jobs :=
  (State.writeTagged_safe s a bs (ps := 0x30) (og := none) rfl (.refl s)).part .jobs rfl

-- A transfer of firmware's own belongs to no instruction, and so to no job (R246).
variable (hfirmware : t.e = none)
include hfirmware

theorem State.bayLost_firmware (g : Nat) (p : Place) : s.bayLost t g p = s := by
  unfold State.bayLost
  rw [hfirmware]
  cases p <;> rfl

theorem State.lineRead_jobs (g va n sym : Nat) : (s.lineRead g t va n sym).1.jobs = s.jobs := by
  unfold State.lineRead
  dsimp only
  repeat' split
  all_goals simp [State.bayLost_firmware _ hfirmware, State.rasCorrectable]

theorem State.lineWrite_jobs (g va : Nat) (bs : List (Byte × Bool)) (sym : Nat) : (s.lineWrite g t va bs sym).1.jobs = s.jobs := by
  unfold State.lineWrite
  dsimp only
  repeat' split
  all_goals simp [State.bayLost_firmware _ hfirmware]

theorem State.strFault_firmware (g k kind level key : Nat) (coord : List Nat) (dva : Nat) :
    (s.strFault g k t kind level key coord dva).1.jobs = s.jobs ∧ (s.strFault g k t kind level key coord dva).2.e = none := by
  unfold State.strFault
  split
  · exact ⟨rfl, hfirmware⟩
  · rw [hfirmware]
    dsimp only
    refine ⟨?_, rfl⟩
    split <;> simp

end

/-- A transfer of firmware's own moves on, and the jobs are those of s. -/
structure Mv.Firmware (s : State) (m : Mv) : Prop where
  jobs : m.s.jobs = s.jobs
  entry : m.t.e = none

theorem Mv.load_firmware {s : State} {m : Mv} (g k va n wfBits : Nat) (ix : List Nat) (h : m.Firmware s) :
    (m.load g k va n wfBits ix).1.Firmware s := by
  unfold Mv.load
  refine foldl_inv (fun b : Mv × List (Byte × Bool) => b.1.Firmware s) _ _ _ (fun ⟨m, out⟩ line hm => ?_) h
  obtain ⟨hjobs, hentry⟩ := hm
  have hline (a len sym : Nat) : (m.s.lineRead g m.t a len sym).1.jobs = s.jobs := (m.s.lineRead_jobs hentry g a len sym).trans hjobs
  dsimp only
  split
  · exact ⟨hjobs, hentry⟩
  · split
    · exact ⟨hjobs, hentry⟩
    · obtain ⟨hfault, hentry'⟩ := State.strFault_firmware _ hentry _ _ _ _ _ _ _
      exact ⟨hfault.trans (hline _ _ _), hentry'⟩
    · split
      · obtain ⟨hfault, hentry'⟩ := State.strFault_firmware _ (t := { m.t with lines := m.t.lines + 1 }) hentry _ _ _ _ _ _ _
        exact ⟨hfault.trans (hline _ _ _), hentry'⟩
      · exact ⟨hline _ _ _, hentry⟩

theorem Mv.store_firmware {s : State} {m : Mv} (g k va : Nat) (bs : List (Byte × Bool)) (wfBits : Nat) (ix : List Nat) (h : m.Firmware s) :
    (m.store g k va bs wfBits ix).Firmware s := by
  unfold Mv.store
  refine foldl_inv (fun m : Mv => m.Firmware s) _ _ _ (fun m line hm => ?_) h
  obtain ⟨hjobs, hentry⟩ := hm
  have hline (a : Nat) (bs : List (Byte × Bool)) (sym : Nat) : (m.s.lineWrite g m.t a bs sym).1.jobs = s.jobs :=
    (m.s.lineWrite_jobs hentry g a bs sym).trans hjobs
  dsimp only
  split
  · exact ⟨hjobs, hentry⟩
  · split
    · exact ⟨hline _ _ _, hentry⟩
    · obtain ⟨hfault, hentry'⟩ := State.strFault_firmware _ hentry _ _ _ _ _ _ _
      exact ⟨hfault.trans (hline _ _ _), hentry'⟩
    · exact ⟨hjobs, hentry⟩

theorem State.copyLines_jobs (s : State) (g q src dst n : Nat) : (s.copyLines g q src dst n).jobs = s.jobs := by
  unfold State.copyLines
  dsimp only
  simp only [State.count_fields]
  refine (foldl_inv (fun x : State × Transfer × Transfer => x.1.jobs = s.jobs ∧ x.2.1.e = none ∧ x.2.2.e = none) _ _ _
    (fun ⟨y, t, u⟩ i hy => ?_) ⟨rfl, rfl, rfl⟩).1
  obtain ⟨hjobs, hload, hstore⟩ := hy
  have hm := Mv.load_firmware (m := { s := y, t := t }) g 0 (src + 64 * i) 64 8 [0, 0, 0, 0] ⟨hjobs, hload⟩
  have hw := Mv.store_firmware (m := { s := (Mv.load { s := y, t := t } g 0 (src + 64 * i) 64 8 [0, 0, 0, 0]).1.s, t := u }) g 1
    (dst + 64 * i) (Mv.load { s := y, t := t } g 0 (src + 64 * i) 64 8 [0, 0, 0, 0]).2 8 [0, 0, 0, 0] ⟨hm.jobs, hstore⟩
  exact ⟨hw.jobs, hm.entry, hw.entry⟩

theorem State.copyShadows_jobs (s : State) (g q : Nat) (back : Bool) (off : Nat) (l : List (Nat × Nat)) :
    (s.copyShadows g q back off l).jobs = s.jobs := by
  induction l generalizing s off with
  | nil => rfl
  | cons e l ih =>
    obtain ⟨va, n⟩ := e
    rw [State.copyShadows, ih]
    split
    · exact s.copyLines_jobs _ _ _ _ _
    · exact s.copyLines_jobs _ _ _ _ _

/-! ### The start of a run (R214, R215, R421) -/

/-- The list of one stall adds the run to those of the stall, and changes no other's. -/
theorem State.placeList_insts (s : State) (r gen g : Nat) (l : JList) (map : List MapSlot) (tokens : List TokRec) (on : List Nat) (h : Nat) :
    ((s.placeList r gen g l map tokens on).stall h).insts =
      (s.stall h).insts ++ if h = g then [{ slot := r, gen := gen, map := map }] else [] := by
  unfold State.placeList
  dsimp only
  split
  · subst h
    rw [State.settle_stall, State.stall_modStall_same, State.stall_modStall_same]
    rfl
  next hne =>
    rw [State.settle, State.stall_modStall_ne _ _ hne, State.stall_modStall_ne _ _ hne, State.stall_modStall_ne _ _ hne, List.append_nil]

/-- Every stall of a placement has its run once all lists are placed. -/
theorem State.placeLists_insts (r gen : Nat) (map : List MapSlot) (tokens : List TokRec) (stalls : List Nat) {on : List (Nat × JList)}
    (s : State) {x : Nat × JList} (hx : x ∈ on) :
    ({ slot := r, gen := gen, map := map } : Inst) ∈
      ((each on s fun s x => s.placeList r gen x.1 x.2 map tokens stalls).stall x.1).insts := by
  induction on generalizing s with
  | nil => cases hx
  | cons p on ih =>
    obtain rfl | hx := List.mem_cons.mp hx
    · refine each_induct (P := fun y => ({ slot := r, gen := gen, map := map } : Inst) ∈ (y.stall x.1).insts) on (fun y a _ hy => ?_) ?_
      · rw [State.placeList_insts]
        exact List.mem_append_left _ hy
      · rw [State.placeList_insts, if_pos rfl]
        exact List.mem_append_right _ (List.mem_singleton_self _)
    · exact ih _ hx

/-- The slot of a runner whose new run starts. -/
def Job.launched (x : Job) (gen : Nat) (cells : List (Nat × Nat)) (tokens : List TokRec) (stalls causes : List Nat) : Job :=
  { x with gen := gen, sent := true, cells := cells, tokens := tokens, stalls := stalls, left := stalls, abandoned := false
           reasons := [], faults := [], poison := false, foreign := false, declared := [], rerun := false, asking := false, notices := []
           used := [], attempts := x.attempts + 1, causes := causes }

/-- A new run of runner r has started, with a generation and the cells that serve its claims, on the stalls of its lists. -/
structure State.Launched (s : State) (r gen : Nat) (cells : List (Nat × Nat)) (on : List (Nat × JList)) (t : State) : Prop where
  job : ∃ tokens causes, t.job r = (s.job r).launched gen cells tokens (on.map Prod.fst) causes
  insts : ∀ x ∈ on, ∃ i ∈ (t.stall x.1).insts, i.slot = r ∧ i.gen = gen

section
variable {s : State} {r : Nat} {im : Image} {m : List (Nat × Nat)} {on : List (Nat × JList)} {cells : List (Nat × Nat)}

/-- The segments and the lists of a run follow the change of its runner's slot. -/
theorem State.lists_launched {y : State} (hjob : y.job r = s.job r) {f : Job → Job} {gen : Nat} {tokens : List TokRec}
    (hf : ∀ x, ∃ causes, f x = x.launched gen cells tokens (on.map Prod.fst) causes) (map : List MapSlot) (stalls : List Nat) :
    s.Launched r gen cells on
      (each on ((y.modJob r f).placeSegs im m stalls) fun s x => s.placeList r gen x.1 x.2 map tokens stalls) where
  job := by
    have hsegs := State.placeSegs_safe (y.modJob r f) im m stalls (ps := 0x4030) (og := none) rfl (.refl _)
    have hlists := each_safe on _ (fun s x => s.placeList r gen x.1 x.2 map tokens stalls) (fun z x hz =>
      State.placeList_safe z r gen x.1 x.2 map tokens stalls (ps := 0x4030) rfl (.inl rfl) hz) hsegs
    obtain ⟨causes, hlaunched⟩ := hf (s.job r)
    exact ⟨tokens, causes, by rw [State.job_congr r (hlists.part .jobs rfl), State.job_modJob_same, hjob, hlaunched]⟩
  insts x hx := ⟨_, State.placeLists_insts r gen map tokens stalls _ hx, rfl, rfl⟩

/-- The pointer list that a batch gets is no part of the jobs or of the stalls. -/
theorem State.Launched.pointers {t : State} {gen : Nat} (h : s.Launched r gen cells on t) (lone : Bool) (stalls : List Nat) (off : Nat)
    (bs : List Byte) :
    s.Launched r gen cells on (if lone then t else each stalls t.takeFree fun s g => s.write (coreAddr g off) bs false) := by
  have hsafe : t.Safe 0x32 none (each stalls t.takeFree fun s g => s.write (coreAddr g off) bs false) :=
    each_safe _ _ _ (fun y g hy => State.write_safe y _ _ _ rfl hy) (State.takeFree_safe t rfl (.refl t))
  split
  · exact h
  · exact ⟨by rw [State.job_congr r (hsafe.part .jobs rfl)]; exact h.job,
      fun x hx => by rw [State.stall_congr _ (hsafe.part .stalls rfl)]; exact h.insts x hx⟩

/-- Shadow copies, the record of a dispatch and the arming of cells are no part of the jobs. -/
theorem State.launch_prelude_jobs (s : State) (g q : Nat) (back journal : Bool) (im : Image) (x : JRec) (r gen : Nat)
    (l : List (Claim × (Nat × Nat))) :
    (each l (if journal then State.postSilent (if im.inplace then s.copyShadows g q back 0 im.shadows else s) q x
      else if im.inplace then s.copyShadows g q back 0 im.shadows else s) fun s x => s.armClaim r gen x.1 x.2).jobs = s.jobs := by
  have hcopy : (if im.inplace then s.copyShadows g q back 0 im.shadows else s).jobs = s.jobs := by
    split
    · exact s.copyShadows_jobs _ _ _ _ _
    · rfl
  have hpost (y : State) : (y.postSilent q x).jobs = y.jobs :=
    (State.postSilent_safe y q x (ps := 0x2000004012f4) (og := none) rfl (.refl y)).part .jobs rfl
  refine each_induct (P := fun y => y.jobs = s.jobs) l (fun y x _ hy => Eq.trans ?_ hy) ?_
  · exact (State.armClaim_safe y r gen x.1 x.2 (ps := 0x8004) (og := none) rfl (.refl y)).part .jobs rfl
  · split
    · exact (hpost _).trans hcopy
    · exact hcopy

/-- A launch whose placement stands and whose cells are free starts the run. -/
theorem State.launch_starts (again : Bool) (himage : (s.job r).img = some im) (hplaced : s.placed im = some (m, on))
    (hcells : s.chooseCells r (s.job r).cells [] im.claims.zipIdx = some cells) : ∃ t, s.launch r again = some t ∧
      s.Launched r (if again then ((s.job r).gen + 1) % 256 else (s.job r).gen) cells on t := by
  simp only [State.launch, himage, hplaced, hcells, Option.map_some]
  refine ⟨_, rfl, ?_⟩
  generalize (if again then ((s.job r).gen + 1) % 256 else (s.job r).gen) = gen
  exact (State.lists_launched (State.job_congr r (s.launch_prelude_jobs _ _ _ _ _ _ _ _ _)) (fun _ => ⟨_, rfl⟩) _ _).pointers _ _ _ _

/-- A launch whose placement is lost ends the job (R216). -/
theorem State.launch_lost (again : Bool) (himage : (s.job r).img = some im) (hplaced : s.placed im = none) : s.launch r again =
    some (s.modJob r fun x => { x with reasons := [{ status := .placeLost }], abandoned := true, rerun := false, left := [] }) := by
  simp only [State.launch, himage, hplaced]

/-! ### JOB_DISPATCH and JOB_RERUN -/

/-- The first job in the order of dispatch is the one that starts, where it may go and does. -/
theorem exec_jobDispatch_first {rest : List Nat} {t : State} (hfw : s.fw = true) (horder : s.dispatchOrder = r :: rest)
    (hgo : s.mayGo r = true) (hlaunch : s.launch r false = some t) : exec .jobDispatch s = .next t := by
  show execJobDispatch s = _
  rw [execJobDispatch, hfw, horder, List.findSome?_cons, hgo, if_pos rfl, hlaunch]
  rfl

theorem exec_jobRerun_launched {slot : Fin 1024} {t : State} (hfw : s.fw = true) (hlive : (s.job slot).live = true)
    (hrerun : (s.job slot).rerun = true) (hasking : (s.job slot).asking = false) (hfault : s.faultComing slot = false)
    (hgo : s.mayGo slot = true) (hlaunch : s.launch slot true = some t) : exec (.jobRerun slot) s = .next t := by
  show execJobRerun slot s = _
  simp [execJobRerun, hfw, hlive, hrerun, hasking, hfault, hgo, hlaunch]

end

end Sys2Proof.Machine

namespace Sys2Proof.Proofs

open Sys2Proof.Machine

/-- Settles O20: a batch that closes seats its jobs one by one; what the start of a run does before and after the change of its
runner's slot is no part of the jobs, since firmware's own transfers belong to none. -/
theorem batchesCloseAndJobsAreDispatched : Obligations.BatchesCloseAndJobsAreDispatched := by
  unfold Obligations.BatchesCloseAndJobsAreDispatched
  refine ⟨fun q s b r rest hbatch hslots hfw hdue hnodup => ?batch, fun s r im m on hfw himage =>
    ⟨fun rest horder hgo => ⟨fun hplaced => ?lost, fun cells hplaced hcells => ?dispatch⟩,
      fun slot cells hslot hlive hrerun hasking hfault hgo hplaced hcells => ?rerun⟩⟩
  case batch =>
    have hexec := exec_batchClose hbatch hslots hfw hdue
    exact ⟨_, hexec, (exec_safe (c := .batchClose q) rfl hexec).sameBut, s.batchClosed_queue q r, s.batchClosed_runner q r,
      fun i j h => s.batchClosed_seat q r hnodup h⟩
  case lost =>
    refine ⟨_, exec_jobDispatch_first hfw horder hgo (State.launch_lost false himage hplaced),
      (State.modJob_safe (ps := Part.mask [.jobs]) (og := none) s r _ rfl (.refl s)).sameBut, ?_⟩
    rw [State.job_modJob_same]
    exact ⟨rfl, rfl, rfl⟩
  case dispatch =>
    obtain ⟨t, hlaunch, ⟨tokens, causes, hjob⟩, hinsts⟩ := State.launch_starts false himage hplaced hcells
    refine ⟨t, exec_jobDispatch_first hfw horder hgo hlaunch, ?_⟩
    beta_reduce
    rw [hjob]
    exact ⟨rfl, rfl, rfl, rfl, rfl, rfl, rfl, hinsts⟩
  case rerun =>
    subst hslot
    obtain ⟨t, hlaunch, ⟨tokens, causes, hjob⟩, -⟩ := State.launch_starts true himage hplaced hcells
    refine ⟨t, exec_jobRerun_launched hfw hlive hrerun hasking hfault hgo hlaunch, ?_⟩
    beta_reduce
    rw [hjob]
    exact ⟨rfl, rfl, rfl, rfl⟩

end Sys2Proof.Proofs

/-! PROOF. Descriptor slots of the stream engines, and walks through the root of a queue (R242, R244 to R246, R252, R255). -/

namespace Sys2Proof.Machine

/-! ### The first empty slot of an engine -/

/-- The head leaves the queue without a change of the stream engines. -/
theorem Stall.pop_engines (st : Stall) (e : QEntry) : (st.pop e).engines = st.engines := by
  unfold Stall.pop
  dsimp only
  repeat' split
  all_goals rfl

theorem State.issue_engines (s : State) (g : Nat) (e : QEntry) (keep : Bool) :
    ((s.issue g e keep).stall g).engines = (s.stall g).engines := by
  cases keep
  · rw [State.issue_stall_done, Stall.pop_engines]
  · rw [State.issue_stall_kept]
    exact Stall.pop_engines _ e

section
variable {s : State} {g k : Nat} (t : Transfer)

theorem State.arm_active (h : ((s.stall g).engine k).active = none) :
    s.arm g k t = ((s.setEngine g k { (s.stall g).engine k with active := some t }).startTransfer g k, false) := by
  simp only [State.arm, h]

theorem State.arm_standby (hactive : ((s.stall g).engine k).active.isSome = true) (hstandby : ((s.stall g).engine k).standby = none) :
    s.arm g k t = (s.setEngine g k { (s.stall g).engine k with standby := some t }, false) := by
  obtain ⟨u, hu⟩ := Option.isSome_iff_exists.mp hactive
  simp only [State.arm, hu, hstandby]

theorem State.arm_full (h : ((s.stall g).engine k).active.isSome = true ∧ ((s.stall g).engine k).standby.isSome = true) :
    s.arm g k t = (s, true) := by
  obtain ⟨u, hu⟩ := Option.isSome_iff_exists.mp h.1
  obtain ⟨v, hv⟩ := Option.isSome_iff_exists.mp h.2
  simp only [State.arm, hu, hv]

end

theorem exec_standbyStart (g : StallId) (k : UnitId) (s : State) : exec (.standbyStart g k) s = .next (s.startTransfer g k) := rfl

/-! ### SLD, SST, WLOAD and FXCH (R242, R244) -/

theorem exec_streamOp {g : StallId} (s : State) :
    ∀ p ∈ [(Instr.sld g, Op.sld), (.sst g, .sst), (.wload g, .wload), (.fxch g, .fxch)], exec p.1 s = .next (s.streamInstr g p.2) := by
  simp only [List.forall_mem_cons]
  exact ⟨rfl, rfl, rfl, rfl, by simp⟩

/-- The state after a stream instruction whose descriptor fails a check, with its status. -/
def State.streamRefused (s : State) (g : Nat) (e : QEntry) (st : Status) : State :=
  ((s.issue g e false).iqFault g e 3 e.desc 0 0 st).settle g

/-- The transfer that the instruction at the head names. -/
def State.streamOf (s : State) (g : Nat) (e : QEntry) : Transfer :=
  Transfer.ofInstr e (s.stall g).issues (s.job e.slot).queue (StreamDesc.of (s.read (coreAddr g e.desc) 64))

section
variable {s : State} {g k : Nat} {o : Op} {e : QEntry} (hhead : s.headIs g o = some e) (hk : k = e.unit % 4)
include hhead hk

theorem State.streamInstr_waits (h : (s.stall g).mrun.isSome = true ∨
    ((s.stall g).engine k).active.isSome = true ∧ ((s.stall g).engine k).standby.isSome = true) : s.streamInstr g o = s := by
  subst hk
  simp only [State.streamInstr, hhead]
  rw [if_pos (by simpa using h)]

variable (hrun : (s.stall g).mrun = none)
include hrun

/-- With an empty slot and no MPASS, the checks of the descriptor decide. -/
theorem State.streamInstr_eq (hfree : ((s.stall g).engine k).active = none ∨ ((s.stall g).engine k).standby = none) {x : Transfer}
    (hx : x = s.streamOf g e) : s.streamInstr g o = match firstFail (x.d.checks x.opc x.dir x.portEn) with
      | some (_, st) => s.streamRefused g e st
      | none => (((s.issue g e true).arm g k x).1).settle g := by
  subst hk hx
  have hroom : ((s.stall g).mrun.isSome || (((s.stall g).engine (e.unit % 4)).active.isSome &&
      ((s.stall g).engine (e.unit % 4)).standby.isSome)) = false := by
    obtain h | h := hfree <;> simp [hrun, h]
  simp only [State.streamInstr, hhead, hroom, Bool.false_eq_true, if_false]
  rfl

variable {x : Transfer} (hx : x = s.streamOf g e)
include hx

theorem State.streamInstr_refuses {n : Nat} {st : Status} (hstandby : ((s.stall g).engine k).standby = none)
    (hfail : firstFail (x.d.checks x.opc x.dir x.portEn) = some (n, st)) : s.streamInstr g o = s.streamRefused g e st := by
  rw [State.streamInstr_eq hhead hk hrun (.inr hstandby) hx, hfail]

variable (hpass : firstFail (x.d.checks x.opc x.dir x.portEn) = none)
include hpass

theorem State.streamInstr_starts (hactive : ((s.stall g).engine k).active = none) : s.streamInstr g o =
    (((s.issue g e true).setEngine g k { (s.stall g).engine k with active := some x }).startTransfer g k).settle g := by
  have hengine : ((s.issue g e true).stall g).engine k = (s.stall g).engine k := by
    rw [Stall.engine, State.issue_engines, Stall.engine]
  rw [State.streamInstr_eq hhead hk hrun (.inl hactive) hx, hpass]
  show (((s.issue g e true).arm g k x).1).settle g = _
  rw [State.arm_active _ (by rw [hengine, hactive]), hengine]

theorem State.streamInstr_stands (hactive : ((s.stall g).engine k).active.isSome = true)
    (hstandby : ((s.stall g).engine k).standby = none) :
    s.streamInstr g o = ((s.issue g e true).setEngine g k { (s.stall g).engine k with standby := some x }).settle g := by
  have hengine : ((s.issue g e true).stall g).engine k = (s.stall g).engine k := by
    rw [Stall.engine, State.issue_engines, Stall.engine]
  rw [State.streamInstr_eq hhead hk hrun (.inr hstandby) hx, hpass]
  show (((s.issue g e true).arm g k x).1).settle g = _
  rw [State.arm_standby _ (by rw [hengine, hactive]) (by rw [hengine, hstandby]), hengine]

end

section
variable (s : State) (g : Nat) (e : QEntry)

theorem State.streamRefused_sameBut (st : Status) : SameBut [.regs, .events, .stalls, .jobs] s (s.streamRefused g e st) :=
  State.Safe.sameBut (og := none) (State.settle_safe _ _ _ rfl (.inl rfl)
    (State.iqFault_safe _ _ _ _ _ _ _ _ _ rfl (.inl rfl) (State.issue_safe s g e false rfl (.inl rfl) (.refl s))))

theorem State.streamRefused_stall (st : Status) : ((s.streamRefused g e st).stall g).engines = (s.stall g).engines ∧
    (e.slot, e.gen) ∈ ((s.streamRefused g e st).stall g).faulted := by
  rw [State.streamRefused, State.settle_stall_same, State.iqFault_stall_same]
  exact ⟨s.issue_engines g e false, List.mem_cons_self⟩

theorem State.streamRefused_reason (st : Status) (h : (s.job e.slot).gen = e.gen) :
    { status := st, fault := true, stall := g, idx := e.idx } ∈ ((s.streamRefused g e st).job e.slot).reasons := by
  rw [State.streamRefused, State.settle_job]
  exact State.iqFault_reason _ _ _ _ _ _ _ _ _ (by rw [State.job_congr (s := s) e.slot (by simp [State.issue]), h])

/-- A transfer that stands by behind the active one. -/
theorem State.stands_leaves (k : Nat) (x : Engine) : let t := ((s.issue g e true).setEngine g k x).settle g
    SameBut [.regs, .stalls] s t ∧ t.stall g = { (s.stall g).pop e with
      inflight := ((s.stall g).pop e).inflight ++ [{ e := e, seq := (s.stall g).issues }]
      engines := (s.stall g).engines.set k x
      watch := (t.stall g).watch } := by
  refine ⟨State.Safe.sameBut (og := none) (State.settle_safe _ _ _ rfl (.inl rfl) (State.setEngine_safe _ _ _ _ rfl (.inl rfl)
    (State.issue_safe s g e true rfl (.inl rfl) (.refl s)))), ?_⟩
  conv_lhs => rw [State.settle_stall_same, State.setEngine, State.stall_modStall_same, State.issue_stall_kept]
  rw [Stall.pop_engines]
  rfl

end


/-! ### STR_ARM (R244, R246) -/

/-- The state after an arm that is refused with the number of a failed check, or 0. -/
def State.rearmed (s : State) (g k n off : Nat) : State :=
  (s.count .strRearms g).raiseOnce .strEvent g 1 0x151 g k (n * 2 ^ 24 + off)

/-- The transfer that an arm names. -/
def State.armedOf (s : State) (g v opc : Nat) : Transfer :=
  { e := none, seq := (s.stall g).issues, queue := bits v 29 24, opc := opc, off := bits v 23 0
    d := StreamDesc.of (s.read (coreAddr g (bits v 23 0)) 64), portEn := false, port := 0, base := 0, dir := 0, chan := 0, mask := 0
    started := false, since := 0, lines := 0, beats := 0, els := [], done := false, pages := [], hold := [], held := [] }

theorem State.rearmed_sameBut (s : State) (g k n off : Nat) : SameBut [.regs, .events] s (s.rearmed g k n off) :=
  State.Safe.sameBut (og := none) (State.raiseOnce_safe _ _ _ _ _ _ _ _ rfl (State.count_safe _ _ _ _ _ rfl (.refl s)))

theorem State.rearmed_event (s : State) (g k n off : Nat) : bit ((s.rearmed g k n off).reg .strEvent g) 1 = true :=
  State.raiseOnce_event _ _ _ _ _ _ _ (by decide)

theorem State.rearmed_count (s : State) (g k n off : Nat) :
    (s.rearmed g k n off).reg .strRearms g = min (2 ^ 32 - 1) (s.reg .strRearms g + 1) :=
  (State.raiseOnce_regsBut _ _ _ _ _ _ _ _ ⟨.strRearms, g, 0, 0⟩ (by simp [RegAt.off, Rn.spec])).trans (s.reg_count_same .strRearms g 1 0)

section
variable {s : State} {g : StallId} {k : UnitId} {v : Word32} {opc : Nat} (c : CoreId)
  (hopc : opc = if bit v.toNat 31 = true then opSst else opSld)
include hopc

theorem exec_strArm : exec (.strArm c g k v) s =
    match firstFail ((s.armedOf g v.toNat opc).d.checks opc 0 false) with
    | some (n, _) => .next (s.rearmed g k n (bits v.toNat 23 0))
    | none => if (s.arm g k (s.armedOf g v.toNat opc)).2 = true then .next (s.rearmed g k 0 (bits v.toNat 23 0))
        else .next (s.arm g k (s.armedOf g v.toNat opc)).1 := by
  have hdir : (if bits v.toNat 31 31 = 1 then opSst else opSld) = opc := by
    rw [hopc, bit_eq_bits]
    simp
  subst hdir
  rfl

theorem exec_strArm_refused (h : (firstFail ((s.armedOf g v.toNat opc).d.checks opc 0 false)).isSome = true ∨
    ((s.stall g).engine k).active.isSome = true ∧ ((s.stall g).engine k).standby.isSome = true) :
    ∃ n, exec (.strArm c g k v) s = .next (s.rearmed g k n (bits v.toNat 23 0)) := by
  rw [exec_strArm c hopc]
  split
  · exact ⟨_, rfl⟩
  · next hpass =>
    obtain h | h := h
    · simp [hpass] at h
    · rw [State.arm_full _ h]
      exact ⟨0, rfl⟩

variable (hpass : firstFail ((s.armedOf g v.toNat opc).d.checks opc 0 false) = none)
include hpass

theorem exec_strArm_starts (hactive : ((s.stall g).engine k).active = none) : exec (.strArm c g k v) s =
    exec (.standbyStart g k) (s.setEngine g k { (s.stall g).engine k with active := some (s.armedOf g v.toNat opc) }) := by
  rw [exec_strArm c hopc, hpass, State.arm_active _ hactive]
  rfl

theorem exec_strArm_stands (hactive : ((s.stall g).engine k).active.isSome = true) (hstandby : ((s.stall g).engine k).standby = none) :
    exec (.strArm c g k v) s =
      .next (s.setEngine g k { (s.stall g).engine k with standby := some (s.armedOf g v.toNat opc) }) := by
  rw [exec_strArm c hopc, hpass, State.arm_standby _ hactive hstandby]
  rfl

end

/-! ### What the beats that one engine takes leave of the rest of the stall -/

/-- The control core, the issued instructions and engine k of a stall are as before. -/
structure Stall.Beside (k : Nat) (a b : Stall) : Prop where
  core : b.core = a.core
  inflight : b.inflight = a.inflight
  engine : b.engine k = a.engine k

theorem Stall.Beside.refl (k : Nat) (a : Stall) : a.Beside k a := ⟨rfl, rfl, rfl⟩

theorem Stall.Beside.trans {k : Nat} {a b c : Stall} (h : a.Beside k b) (h' : b.Beside k c) : a.Beside k c :=
  ⟨h'.core.trans h.core, h'.inflight.trans h.inflight, h'.engine.trans h.engine⟩

/-- A beat that one engine receives changes no stall. -/
theorem Mv.receive_stall (m : Mv) (g k : Nat) (b : PBeat) (h : Nat) : (m.receive g k b).s.stall h = m.s.stall h :=
  State.stall_congr h ((Mv.receive_safe m g k b (ps := 0x200234) (og := none) rfl (.refl m.s)).part .stalls rfl)

section
variable {g j k : Nat} (hjk : j ≠ k)
include hjk

theorem State.setEngine_beside (s : State) (e : Engine) : (s.stall g).Beside k ((s.setEngine g j e).stall g) := by
  rw [State.setEngine, State.stall_modStall_same]
  refine ⟨rfl, rfl, ?_⟩
  simp [Stall.engine, List.getElem?_set_ne hjk]

theorem Mv.commit_beside {m : Mv} {s : State} (h : m.s.stall g = s.stall g) : (s.stall g).Beside k ((m.commit g j s).stall g) := by
  unfold Mv.commit
  dsimp only
  split
  · exact .refl k _
  · exact (congrArg (Stall.Beside k · _) h.symm).mpr (State.setEngine_beside hjk _ _)

theorem State.pullBeats_beside (fuel : Nat) (s : State) : (s.stall g).Beside k ((s.pullBeats g j fuel).stall g) := by
  induction fuel generalizing s with
  | zero => exact .refl k _
  | succ fuel ih =>
    unfold State.pullBeats
    dsimp only
    split
    case h_1 => exact .refl k _
    split
    case isTrue => exact .refl k _
    split
    case isTrue => exact State.setEngine_beside hjk s _
    split
    case h_2 => exact .refl k _
    next t _ _ _ _ b rest _ =>
    split
    case isTrue => exact .refl k _
    refine .trans ?_ (ih _)
    have hbeat : (s.stall g).Beside k ((s.modStall g fun st => { st with inBuf := Tab.set [] st.inBuf t.chan rest }).stall g) := by
      rw [State.stall_modStall_same]
      exact ⟨rfl, rfl, rfl⟩
    refine hbeat.trans (Mv.commit_beside hjk ?_)
    split <;> exact Mv.receive_stall _ _ _ _ _

end

/-- An engine whose active slot holds no started transfer takes no beat. -/
theorem State.pullBeats_idle {s : State} {g k : Nat} (fuel : Nat) (h : ∀ t, ((s.stall g).engine k).active = some t → t.started = false) :
    s.pullBeats g k fuel = s := by
  cases fuel with
  | zero => rfl
  | succ fuel =>
    unfold State.pullBeats
    split
    · rfl
    · next t ht => rw [if_pos (by simp [Stall.pulls, h t ht])]

/-! ### STREAM_COMPLETE (R245) -/

/-- The state after the active slot of engine k is freed: its standby is promoted, and source k of the control core raised. -/
def State.slotFreed (s : State) (g k : Nat) : State :=
  ((s.setEngine g k { active := ((s.stall g).engine k).standby, standby := none }).modCore g
    fun c => { c with irqEdge := c.irqEdge ||| 2 ^ k })

/-- Then the started exchanges of the four engines take the beats that wait for them. -/
def State.slotTurned (s : State) (g k : Nat) : State := each [0, 1, 2, 3] (s.slotFreed g k) fun s j => s.pullBeats g j 0x10000

section
variable {g : StallId} {k : UnitId} {s : State} {x : Transfer} (hx : ((s.stall g).engine k).active = some x) (hdone : x.done = true)
include hx hdone

theorem State.rowsLeft_done : s.rowsLeft g k = 0 := by
  rw [State.rowsLeft, show ((s.stall g).engine k).walking = none by simp [Engine.walking, hx, hdone]]

variable (hhold : x.hold = []) (errs : List Nat)
include hhold

theorem exec_streamComplete_arm (he : x.e = none) : exec (.streamComplete g k errs) s = .next ((s.slotTurned g k).settle g false) := by
  show execStreamComplete g k s errs = _
  simp only [execStreamComplete, State.rowsLeft_done hx hdone, State.moveRows, hx, hdone, hhold, he, Bool.not_true, List.isEmpty_nil,
    Bool.or_self, Bool.false_eq_true, if_false]
  rfl

theorem exec_streamComplete_instr {e : QEntry} (he : x.e = some e) : exec (.streamComplete g k errs) s =
    .next (((s.slotTurned g k).complete g e x.seq (if x.opc = opFxch then x.chan else 0)).settle g) := by
  show execStreamComplete g k s errs = _
  simp only [execStreamComplete, State.rowsLeft_done hx hdone, State.moveRows, hx, hdone, hhold, he, Bool.not_true, List.isEmpty_nil,
    Bool.or_self, Bool.false_eq_true, if_false]
  rfl

end

section
variable (s : State) (g k : Nat)

theorem State.slotFreed_stall : (s.slotFreed g k).stall g = { s.stall g with
    engines := (s.stall g).engines.set k { active := ((s.stall g).engine k).standby, standby := none }
    core := { (s.stall g).core with irqEdge := (s.stall g).core.irqEdge ||| 2 ^ k } } := by
  rw [State.slotFreed, State.stall_modCore_same, State.setEngine, State.stall_modStall_same]

variable {s g k} (hk : k < (s.stall g).engines.length)
include hk

theorem State.slotFreed_engine : ((s.slotFreed g k).stall g).engine k = { active := ((s.stall g).engine k).standby, standby := none } := by
  rw [State.slotFreed_stall, Stall.engine]
  simp [hk]

/-- The promoted descriptor takes no beat before it starts, so the engines' turns leave it and the core as they stand. -/
theorem State.slotTurned_beside (hstandby : ∀ y : Transfer, ((s.stall g).engine k).standby = some y → y.started = false) :
    ((s.slotFreed g k).stall g).Beside k ((s.slotTurned g k).stall g) := by
  refine each_induct (P := fun y => ((s.slotFreed g k).stall g).Beside k (y.stall g)) _ (fun y j _ hy => ?_) (.refl k _)
  obtain rfl | hjk := eq_or_ne j k
  · rwa [State.pullBeats_idle]
    rw [hy.engine, State.slotFreed_engine hk]
    exact hstandby
  · exact hy.trans (State.pullBeats_beside hjk _ y)

end

theorem State.slotTurned_tokens (s : State) (g k : Nat) : (s.slotTurned g k).tokens = s.tokens :=
  each_induct (P := fun y => y.tokens = s.tokens) _
    (fun y j _ hy => ((State.pullBeats_safe y g j _ (ps := 0x204234) (og := none) rfl (.inl rfl) (.refl y)).part .tokens rfl).trans hy) rfl

/-- An instruction that completes leaves the issued ones, and its stall is else as it was but for the beats that wait at its port. -/
theorem State.complete_stall_chan (s : State) (g : Nat) (e : QEntry) (seq chan : Nat) : (s.complete g e seq chan).stall g =
    { s.stall g with inflight := (s.stall g).inflight.filter fun i => !(i.seq == seq), out := ((s.complete g e seq chan).stall g).out } := by
  unfold State.complete
  dsimp only
  split
  · conv_lhs => rw [State.produce_stall, State.stall_modStall_same]
  · rw [State.stall_modStall_same]

theorem State.complete_tokens_chan (s : State) (g : Nat) {e : QEntry} (seq chan : Nat) (h : e.prEn = false) :
    (s.complete g e seq chan).tokens = s.tokens := by
  simp [State.complete, h]

theorem State.settle_tokens (s : State) (g : Nat) (activity : Bool) : (s.settle g activity).tokens = s.tokens :=
  s.settle_sameBut g activity .tokens (by simp)

/-- What a completion keeps and changes of the stall: the freed slot, the raised source, the issued instructions. -/
structure Stall.Completed (a b : Stall) (k : Nat) (inflight : List Issued) : Prop where
  active : (b.engine k).active = (a.engine k).standby
  standby : (b.engine k).standby = none
  irq : b.core.irqEdge = a.core.irqEdge ||| 2 ^ k
  inflight : b.inflight = inflight

/-- The watch and the waiting beats do not count. -/
theorem Stall.Completed.watched {a b : Stall} {k : Nat} {l : List Issued} (h : a.Completed b k l) (w : Watch) :
    a.Completed { b with watch := w } k l := ⟨h.active, h.standby, h.irq, h.inflight⟩

theorem Stall.Completed.retired {a b : Stall} {k : Nat} {l : List Issued} (h : a.Completed b k l) (p : Issued → Bool) (o : List OBeat) :
    a.Completed { b with inflight := b.inflight.filter p, out := o } k (l.filter p) :=
  ⟨h.active, h.standby, h.irq, congrArg (List.filter p) h.inflight⟩

section
variable {s : State} {g k : Nat} (hk : k < (s.stall g).engines.length)
  (hstandby : ∀ y : Transfer, ((s.stall g).engine k).standby = some y → y.started = false)
include hk hstandby

theorem State.slotTurned_stall : (s.stall g).Completed ((s.slotTurned g k).stall g) k (s.stall g).inflight := by
  have hslot := State.slotTurned_beside hk hstandby
  have hengine := hslot.engine.trans (State.slotFreed_engine hk)
  rw [State.slotFreed_stall] at hslot
  exact ⟨congrArg Engine.active hengine, congrArg Engine.standby hengine, congrArg Core.irqEdge hslot.core, hslot.inflight⟩

theorem State.slotTurned_settle : (s.stall g).Completed (((s.slotTurned g k).settle g false).stall g) k (s.stall g).inflight := by
  rw [State.settle_stall]
  exact (State.slotTurned_stall hk hstandby).watched _

theorem State.slotTurned_complete (e : QEntry) (seq chan : Nat) :
    (s.stall g).Completed ((((s.slotTurned g k).complete g e seq chan).settle g).stall g) k
      ((s.stall g).inflight.filter fun i => !(i.seq == seq)) := by
  rw [State.settle_stall, State.complete_stall_chan]
  exact ((State.slotTurned_stall hk hstandby).retired _ _).watched _

end

/-! ### Walks (R252, R255) -/

theorem exec_walk {g : StallId} {q : QueueId} {va : BitVec 48} {acc : Access} {s : State} (hup : s.stallUp g = true) :
    exec (.walk g q va acc) s = .next (s.translate g q va.toNat acc).1 := by
  show execWalk g q va acc s = _
  simp only [execWalk, hup, Bool.not_true, Bool.false_eq_true, if_false]

theorem State.translate_cached {s : State} {g q va l e : Nat} (acc : Access) (h : tlbLeaf (s.stall g).tlb q va = some (l, e)) :
    s.translate g q va acc = (s, leafResult l e va acc) := by
  simp only [State.translate, h]

/-- The state after a walk is counted. -/
def State.walkCounted (s : State) (g q va : Nat) : State :=
  let f : FeedQueue := Tab.get {} s.queues q
  ((s.count .strTlbMiss g).count .strWalks g).cacheLines false
    (((s.count .strTlbMiss g).count .strWalks g).hostReads (Tab.get [] s.bayTlb (g / 64)) q va 4 0 f.rootHost f.root)

/-- The state after the entries that a walk read are cached by the bay and the stall. -/
def State.walkCached (s : State) (g : Nat) (seen : List TlbEntry) : State :=
  ({ s with bayTlb := Tab.set [] s.bayTlb (g / 64) (seen.foldl (tlbAdd 1024) (Tab.get [] s.bayTlb (g / 64))) } : State).modStall g
    fun st => { st with tlb := seen.foldl (tlbAdd 64) st.tlb }

/-- What a walk with its outcome and the entries that it read leaves: only one that ends in a page is cached. -/
def State.walkEnded (s : State) (g : Nat) (w : Trans × List TlbEntry) : State × Trans :=
  match w.1 with
  | .ok h pa => (s.walkCached g w.2, .ok h pa)
  | .fault k l => (s, .fault k l)
  | .wait => (s, .wait)

theorem State.translate_missed {s : State} {g q va : Nat} (acc : Access) (hstall : tlbLeaf (s.stall g).tlb q va = none)
    (hbay : tlbLeaf (Tab.get [] s.bayTlb (g / 64)) q va = none) : s.translate g q va acc =
      (s.walkCounted g q va).walkEnded g ((s.walkCounted g q va).walk (Tab.get [] s.bayTlb (g / 64)) q va acc) := by
  have hbay' : tlbLeaf (Tab.get [] (s.count .strTlbMiss g).bayTlb (g / 64)) q va = none := hbay
  have hcounted (w : Trans × List TlbEntry) : (s.walkCounted g q va).walkEnded g w = match w.1 with
      | .fault k l => (s.walkCounted g q va, .fault k l)
      | .wait => (s.walkCounted g q va, .wait)
      | .ok h pa => ((s.walkCounted g q va).walkCached g w.2, .ok h pa) := by
    obtain ⟨_ | _ | _, _⟩ := w <;> rfl
  simp only [State.translate, hstall, hbay', hcounted]
  rfl

/-- An entry that is added to a cache stands in it. -/
theorem mem_tlbAdd {n : Nat} (hn : 1 ≤ n) (t : List TlbEntry) (x : TlbEntry) : x ∈ tlbAdd n t x := by
  unfold tlbAdd
  dsimp only
  split
  · exact List.contains_iff_mem.mp ‹_›
  split
  · next hfull =>
    obtain ⟨y, t, rfl⟩ := List.exists_cons_of_ne_nil (show t ≠ [] by rintro rfl; simp at hfull; omega)
    simp
  · simp

/-- A table read that fails gives no page. -/
theorem State.tableEntry_error {s : State} {host : Bool} {table i l : Nat} {r : Trans} (h : s.tableEntry host table i l = .error r)
    (b : Bool) (pa : Nat) : r ≠ .ok b pa := by
  rintro rfl
  unfold State.tableEntry at h
  dsimp only at h
  repeat' split at h
  all_goals simp at h

/-- A walk that ends in a page read its leaf last. -/
theorem State.walkFrom_leaf (s : State) (bay : List TlbEntry) (q va : Nat) (acc : Access) {h : Bool} {pa : Nat} (fuel l : Nat)
    (host : Bool) (table : Nat) (seen : List TlbEntry) (hok : (s.walkFrom bay q va acc fuel l host table seen).1 = .ok h pa) :
    ∃ read y, (s.walkFrom bay q va acc fuel l host table seen).2 = read ++ [y] ∧ y.queue = q ∧ bit y.entry 3 = true ∧
      y.vpn = va / 2 ^ levelShift y.level ∧ leafResult y.level y.entry va acc = .ok h pa := by
  induction fuel generalizing l host table seen with
  | zero => cases hok
  | succ fuel ih =>
    unfold State.walkFrom at hok ⊢
    dsimp only at hok ⊢
    split at hok
    case h_1 r hread =>
      dsimp only at hok
      split at hread
      · cases hread
      · exact absurd hok (State.tableEntry_error hread h pa)
    case h_2 e hread =>
      split at hok
      · cases hok
      next hvalid =>
      split at hok
      · cases hok
      next hform =>
      rw [if_neg hvalid, if_neg hform]
      split at hok
      · next hleaf =>
        rw [if_pos hleaf]
        exact ⟨seen, _, rfl, rfl, hleaf, rfl, hok⟩
      · next hleaf =>
        rw [if_neg hleaf]
        exact ih _ _ _ _ hok

section
variable (s : State) (g q va : Nat)

theorem State.walkCounted_sameBut : SameBut [.regs] s (s.walkCounted g q va) :=
  State.Safe.sameBut (og := none)
    (State.cacheLines_safe _ _ _ rfl (State.count_safe _ _ _ _ _ rfl (State.count_safe s _ _ _ _ rfl (.refl s))))

theorem State.walkCounted_strWalks : (s.walkCounted g q va).reg .strWalks g = min (2 ^ 32 - 1) (s.reg .strWalks g + 1) := by
  have hoff : (RegAt.mk .strWalks g 0 0).off ≠ (RegAt.mk .hstCacheLines 0 0 0).off := by
    simp only [RegAt.off, Rn.spec, Blk.base, bayWindow]
    omega
  refine (State.reg_setReg_ne _ _ hoff).trans ?_
  rw [State.reg_count_same]
  exact congrArg (min _ <| · + 1) (State.reg_setReg_ne _ _ (by simp [RegAt.off, Rn.spec]))

theorem State.walkCounted_shape : ∃ r, s.walkCounted g q va = { s with regs := r } := by
  have hcount (y : State) (r : Rn) : ∃ a, y.count r g = { y with regs := a } := ⟨_, rfl⟩
  have hlines (y : State) (n : Nat) : ∃ a, y.cacheLines false n = { y with regs := a } := ⟨_, rfl⟩
  obtain ⟨a, ha⟩ := hcount s .strTlbMiss
  obtain ⟨b, hb⟩ := hcount { s with regs := a } .strWalks
  rw [State.walkCounted, ha, hb]
  exact (hlines _ _).imp fun _ h => h

/-- A table entry does not depend on the registers. -/
theorem State.tableEntry_regs (r : Tab Nat) (host : Bool) (table i l : Nat) :
    ({ s with regs := r } : State).tableEntry host table i l = s.tableEntry host table i l := rfl

theorem State.walkFrom_regs (r : Tab Nat) (bay : List TlbEntry) (acc : Access) (fuel l : Nat) (host : Bool) (table : Nat)
    (seen : List TlbEntry) : ({ s with regs := r } : State).walkFrom bay q va acc fuel l host table seen =
      s.walkFrom bay q va acc fuel l host table seen := by
  induction fuel generalizing l host table seen with
  | zero => rfl
  | succ fuel ih =>
    unfold State.walkFrom
    simp only [State.tableEntry_regs, ih]

/-- The counts of a walk change nothing that it reads. -/
theorem State.walkCounted_walk (bay : List TlbEntry) (acc : Access) : (s.walkCounted g q va).walk bay q va acc = s.walk bay q va acc := by
  obtain ⟨r, hr⟩ := s.walkCounted_shape g q va
  rw [hr]
  exact s.walkFrom_regs q va r bay acc _ _ _ _ _

end

section
variable {s : State} {g q va : Nat} {acc : Access} (hstall : tlbLeaf (s.stall g).tlb q va = none)
  (hbay : tlbLeaf (Tab.get [] s.bayTlb (g / 64)) q va = none)
include hstall hbay

theorem State.translate_strWalks : (s.translate g q va acc).1.reg .strWalks g = min (2 ^ 32 - 1) (s.reg .strWalks g + 1) := by
  rw [State.translate_missed acc hstall hbay, ← s.walkCounted_strWalks g q va]
  unfold State.walkEnded
  split <;> rfl

theorem State.translate_page {h : Bool} {pa : Nat} (hok : (s.walk (Tab.get [] s.bayTlb (g / 64)) q va acc).1 = .ok h pa) :
    ∃ y ∈ ((s.translate g q va acc).1.stall g).tlb, y.queue = q ∧ bit y.entry 3 = true ∧ y.vpn = va / 2 ^ levelShift y.level ∧
      leafResult y.level y.entry va acc = .ok h pa := by
  obtain ⟨read, y, hread, hy⟩ := State.walkFrom_leaf _ _ _ _ _ _ _ _ _ _ hok
  refine ⟨y, ?_, hy⟩
  rw [State.translate_missed acc hstall hbay, State.walkCounted_walk, State.walkEnded]
  simp only [hok, State.walkCached, State.stall_modStall_same]
  have hseen : (s.walk (Tab.get [] s.bayTlb (g / 64)) q va acc).2 = read ++ [y] := hread
  rw [hseen, List.foldl_append]
  exact mem_tlbAdd (by decide) _ y

theorem State.translate_fault {kind l : Nat} (hfault : (s.walk (Tab.get [] s.bayTlb (g / 64)) q va acc).1 = .fault kind l) :
    SameBut [.regs] s (s.translate g q va acc).1 := by
  rw [State.translate_missed acc hstall hbay, State.walkCounted_walk, State.walkEnded]
  simp only [hfault]
  exact s.walkCounted_sameBut g q va

end
end Sys2Proof.Machine

namespace Sys2Proof.Proofs
open Sys2Proof.Machine

/-- Settles O29: the free slots and the checks of the descriptor decide what an instruction or an arm does; a completion is read off
the freed slot, which no engine's turn touches; a walk's outcome decides whether the entries it read are cached. -/
theorem transfersTakeTheirSlots : Obligations.TransfersTakeTheirSlots := by
  unfold Obligations.TransfersTakeTheirSlots
  intro g k s
  refine ⟨fun c o e x hc hhead hk hx => ?_, fun c v opc d hopc hd => ?_, fun x hlen hactive hdone hhold hstandby errs => ?_,
    fun q va acc hup => ?_⟩
  case refine_1 =>
    rw [show exec c s = .next (s.streamInstr g o) from exec_streamOp s (c, o) hc]
    refine ⟨fun hfull => congrArg _ (State.streamInstr_waits hhead hk hfull), fun hrun => ⟨fun n st hfail hstandby => ?_, fun hpass =>
      ⟨fun hactive => ?_, fun hactive hstandby => ?_⟩⟩⟩
    · have hexec := State.streamInstr_refuses hhead hk hrun hx hstandby hfail
      obtain ⟨hengines, hfaulted⟩ := s.streamRefused_stall g e st
      exact ⟨_, (exec_streamOp s (c, o) hc).trans (congrArg _ hexec), s.streamRefused_sameBut g e st, hengines, hfaulted,
        fun hgen => ⟨_, s.streamRefused_reason g e st hgen, rfl, rfl, rfl⟩⟩
    · exact ⟨_, exec_standbyStart g k _, congrArg _ (State.streamInstr_starts hhead hk hrun hx hpass hactive)⟩
    · have hexec := State.streamInstr_stands hhead hk hrun hx hpass hactive hstandby
      exact ⟨_, (exec_streamOp s (c, o) hc).trans (congrArg _ hexec), s.stands_leaves g e k _⟩
  case refine_2 =>
    subst hd
    refine ⟨fun hrefused => ?_, fun hpass => ⟨s.armedOf g v.toNat opc, rfl, rfl, rfl, rfl, rfl, exec_strArm_starts c hopc hpass,
      exec_strArm_stands c hopc hpass⟩⟩
    obtain ⟨n, hexec⟩ := exec_strArm_refused c hopc hrefused
    exact ⟨_, hexec, s.rearmed_sameBut g k n _, s.rearmed_event g k n _, s.rearmed_count g k n _⟩
  case refine_3 =>
    have hk : k.val < (s.stall g).engines.length := by
      rw [hlen]
      exact k.isLt
    cases he : x.e with
    | none =>
      obtain ⟨hpromoted, hnone, hirq, hinflight⟩ := State.slotTurned_settle hk hstandby
      exact ⟨_, exec_streamComplete_arm hactive hdone hhold errs he, hpromoted, hnone, hirq, hinflight, fun _ =>
        (State.settle_tokens _ g false).trans (s.slotTurned_tokens g k)⟩
    | some e =>
      obtain ⟨hpromoted, hnone, hirq, hinflight⟩ :=
        State.slotTurned_complete hk hstandby e x.seq (if x.opc = opFxch then x.chan else 0)
      exact ⟨_, exec_streamComplete_instr hactive hdone hhold errs he, hpromoted, hnone, hirq, hinflight, fun hpr =>
        (State.settle_tokens _ g true).trans ((State.complete_tokens_chan _ g x.seq _ (hpr e rfl)).trans (s.slotTurned_tokens g k))⟩
  case refine_4 =>
    refine ⟨fun hcached => ?_, fun hstall hbay => ⟨_, exec_walk hup, ?_, State.translate_strWalks hstall hbay,
      fun h pa => State.translate_page hstall hbay, fun kind l => State.translate_fault hstall hbay⟩⟩
    · obtain ⟨⟨l, e⟩, hleaf⟩ := Option.isSome_iff_exists.mp hcached
      rw [exec_walk hup, State.translate_cached acc hleaf]
    · exact State.Safe.sameBut (og := none) (State.translate_safe s g q va.toNat acc rfl (.inl rfl) (.refl s))

end Sys2Proof.Proofs

/-! PROOF. Mailbox commands on queues, translations, jobs, contexts and batch classes (R255, R260, R410, R426 to R431). -/

namespace Sys2Proof.Machine

/-! ### Requests and answers (R399, R400, R426) -/

theorem State.mbox_modMbox_ne (s : State) {mb x : Nat} (h : x ≠ mb) (f : Mbox → Mbox) : (s.modMbox mb f).mbox x = s.mbox x :=
  Tab.get_upd_ne _ _ _ h

theorem State.mbox_congr {s t : State} (h : t.mboxes = s.mboxes) (mb : Nat) : t.mbox mb = s.mbox mb := by
  rw [State.mbox, h, State.mbox]

theorem State.queue_congr {s t : State} (h : t.queues = s.queues) (q : Nat) : t.queue q = s.queue q := by
  rw [State.queue, h, State.queue]

theorem State.answer_sameBut (s : State) (mb : Nat) (st : Status) (bs : List Byte) : SameBut [.msix, .mx, .mboxes] s (s.answer mb st bs) :=
  State.Safe.sameBut (og := none) (State.answer_safe s mb st bs rfl (.refl s))

/-- What the answer area holds. -/
theorem Mbox.answerArea_read (m : Mbox) (status : Nat) (bs : List Byte) : readBytes (m.answerArea status bs) 0x800 (16 + bs.length) =
    leBytes 2 m.opc ++ leBytes 2 status ++ leBytes 4 m.tag ++ leBytes 4 bs.length ++ leBytes 4 0 ++ bs := by
  have hlen : (leBytes 2 m.opc ++ leBytes 2 status ++ leBytes 4 m.tag ++ leBytes 4 bs.length ++ leBytes 4 0 ++ bs).length =
      16 + bs.length := by
    simp only [List.length_append, leBytes_length]
  rw [Mbox.answerArea, ← hlen, readBytes_writeBytes]

theorem State.msixSend_mbox (s : State) (v mb : Nat) : (s.msixSend v).mbox mb = s.mbox mb := rfl

/-- A mailbox once its command is answered. -/
def Mbox.answered (m : Mbox) (status : Nat) (bs : List Byte) : Mbox :=
  { m with state := 3, acount := (m.acount + 1) % 2 ^ 16, ans := m.answerArea status bs, page := none }

theorem Mbox.answered_fields (m : Mbox) (status : Nat) (bs : List Byte) : (m.answered status bs).state = 3 ∧
    (m.answered status bs).owner = m.owner ∧ (m.answered status bs).acount = (m.acount + 1) % 2 ^ 16 ∧
    (m.answered status bs).ans = m.answerArea status bs := by
  simp only [Mbox.answered, and_self]

section
variable {s : State} {mb : Nat} (hkept : (s.mbox mb).drop = false) (st : Status) (bs : List Byte)
include hkept

theorem State.answer_posted : s.answer mb st bs = (s.modMbox mb (·.answered st.code bs)).msixSend (if mb < 8 then 1 else 2) := by
  simp only [State.answer, hkept, Bool.false_eq_true, if_false]
  rfl

theorem State.answer_mbox_same : (s.answer mb st bs).mbox mb = (s.mbox mb).answered st.code bs := by
  rw [State.answer_posted hkept]
  exact (State.msixSend_mbox _ _ _).trans (s.mbox_modMbox_same mb _)

theorem State.answer_mbox_ne {x : Nat} (h : x ≠ mb) : (s.answer mb st bs).mbox x = s.mbox x := by
  rw [State.answer_posted hkept]
  exact (State.msixSend_mbox _ _ _).trans (s.mbox_modMbox_ne h _)

theorem State.answer_vector : (s.answer mb st bs).msix.getLast? = some (if mb < 8 then 1 else 2) := by
  rw [State.answer_posted hkept]
  exact List.getLast?_concat

end

/-- An answer that is not discarded, from a state whose mailboxes are those of s. -/
theorem State.answer_answered {s u : State} {mb : Nat} (hboxes : u.mboxes = s.mboxes) (hkept : (s.mbox mb).drop = false) (st : Status)
    (bs : List Byte) : Answered s (u.answer mb st bs) mb st.code bs := by
  have hbox := State.mbox_congr hboxes
  have hdrop : (u.mbox mb).drop = false := by rw [hbox, hkept]
  have hown := (State.answer_mbox_same hdrop st bs).trans (congrArg (Mbox.answered · st.code bs) (hbox mb))
  obtain ⟨hstate, howner, hacount, hans⟩ := (s.mbox mb).answered_fields st.code bs
  rw [← hown] at hstate howner hacount hans
  refine ⟨hstate, howner, hacount, ?_, State.answer_vector hdrop st bs, fun x hx => (State.answer_mbox_ne hdrop st bs hx).trans (hbox x)⟩
  rw [hans]
  exact Mbox.answerArea_read _ _ _

theorem does_answer {s : State} {mb : Nat} {c : Instr} {st : Status} {bs : List Byte} (hkept : (s.mbox mb).drop = false)
    (hexec : exec c s = .next (s.answer mb st bs)) :
    Does c s fun t => SameBut [.msix, .mx, .mboxes] s t ∧ Answered s t mb st.code bs :=
  ⟨_, hexec, s.answer_sameBut mb st bs, State.answer_answered rfl hkept st bs⟩

/-- An answer after a change of some parts, the mailboxes not among them. -/
theorem State.answer_after {s u : State} {mb : Nat} {l m : List Part} (hkept : (s.mbox mb).drop = false) (hu : SameBut l s u)
    (hboxes : Part.mboxes ∉ l) (hl : ∀ p ∈ l, p ∈ m) (hm : ∀ p ∈ [Part.msix, .mx, .mboxes], p ∈ m) (st : Status) (bs : List Byte) :
    SameBut m s (u.answer mb st bs) ∧ Answered s (u.answer mb st bs) mb st.code bs :=
  ⟨(hu.mono hl).trans ((u.answer_sameBut mb st bs).mono hm), State.answer_answered (hu .mboxes hboxes) hkept st bs⟩

theorem State.request_asked {s : State} {mb op : Nat} (hfw : s.fw = true) (hbusy : (s.mbox mb).state = 2) (hopc : (s.mbox mb).opc = op)
    (hlen : (s.mbox mb).len ≤ 1760) : s.request mb op = some (s.mbox mb) := by
  simp [State.request, hfw, hbusy, hopc, hlen]

theorem State.request_idle {s : State} {mb op : Nat} (h : (s.mbox mb).state ≠ 2 ∨ (s.mbox mb).opc ≠ op ∨ s.fw = false) :
    s.request mb op = none := by
  rw [State.request, if_neg]
  simp only [Bool.and_eq_true, beq_iff_eq, decide_eq_true_eq, not_and]
  obtain h | h | h := h <;> simp [h]

section
variable {s : State} {mb op size : Nat} {all : Bool} (rsv : Mbox → Bool) (f : Mbox → State)

theorem State.command_idle (h : (s.mbox mb).state ≠ 2 ∨ (s.mbox mb).opc ≠ op ∨ s.fw = false) :
    s.command mb op all size rsv f = .next s := by
  rw [State.command, State.request_idle h]

section
variable (hrequest : s.request mb op = some (s.mbox mb))
include hrequest

theorem State.command_view (hview : 8 ≤ mb ∧ all = false) : s.command mb op all size rsv f = .next (s.answer mb .mbView) := by
  simp only [State.command, hrequest, if_pos hview]

theorem State.command_form (hview : 8 ≤ mb → all = true) (hform : (s.mbox mb).len < size ∨ (s.mbox mb).zeroTail = false) :
    s.command mb op all size rsv f = .next (s.answer mb .mbForm) := by
  have hview' : ¬ (8 ≤ mb ∧ all = false) := fun h => by simp [hview h.1] at h
  simp only [State.command, hrequest, if_neg hview']
  rw [if_pos (by tauto)]

end

theorem State.command_asked {rsv : Mbox → Bool} {m : Mbox} (hasks : s.Asks mb op size all m) (hrsv : rsv m = true) :
    s.command mb op all size rsv f = .next (f m) := by
  obtain ⟨rfl, hfw, hbusy, hopc, hleast, hmost, htail, -, hview⟩ := hasks
  have hview' : ¬ (8 ≤ mb ∧ all = false) := fun h => by simp [hview h.1] at h
  simp only [State.command, State.request_asked hfw hbusy hopc hmost, if_neg hview']
  rw [if_neg (by simp [htail, hrsv, Nat.not_lt.mpr hleast])]

theorem State.queueCommand_asked {rsv : Mbox → Bool} {m : Mbox} (f : Mbox → Nat → State) (hasks : s.Asks mb op size true m)
    (hrsv : rsv m = true) (hown : s.ownsQueue mb m (m.arg 0 1) = true) (hq : m.arg 0 1 < 64) :
    s.queueCommand mb op size rsv f = .next (f m (m.arg 0 1)) := by
  rw [State.queueCommand, State.command_asked _ hasks hrsv]
  simp [hown, Nat.not_le.mpr hq]

end

theorem State.Asks.mbox_kept {s : State} {mb op size : Nat} {all : Bool} {m : Mbox} (hasks : s.Asks mb op size all m) :
    (s.mbox mb).drop = false := hasks.box ▸ hasks.kept

/-- The answer of a command changes no queue, job, stall, table of translations, memory or class. -/
theorem State.answer_queue (s : State) (mb : Nat) (st : Status) (bs : List Byte) (q : Nat) : (s.answer mb st bs).queue q = s.queue q :=
  State.queue_congr (s.answer_sameBut mb st bs .queues (by simp)) q

theorem State.answer_job (s : State) (mb : Nat) (st : Status) (bs : List Byte) (k : Nat) : (s.answer mb st bs).job k = s.job k :=
  State.job_congr k (s.answer_sameBut mb st bs .jobs (by simp))

theorem State.answer_stall (s : State) (mb : Nat) (st : Status) (bs : List Byte) (g : Nat) : (s.answer mb st bs).stall g = s.stall g :=
  State.stall_congr g (s.answer_sameBut mb st bs .stalls (by simp))

/-- Every command of the table is a command of the mailbox. -/
theorem exec_mailCmd {mb : MailboxId} {good : Bool} {bad : Option Nat} {c : Instr} {op size : Nat} {all : Bool}
    (h : MailCmd mb good bad c op all size) (s : State) : ∃ rsv f, exec c s = s.command mb op all size rsv f := by
  unfold MailCmd at h
  fin_cases h <;> exact ⟨_, _, rfl⟩

theorem exec_identify {mb : MailboxId} {s : State} {m : Mbox} (hasks : s.Asks mb 0x01 0 true m) :
    exec (.identify mb) s = .next (s.answer mb .ok (leBytes 2 0x4832 ++ leBytes 1 0xA1 ++ [0] ++ leBytes 4 s.sec.version ++ leBytes 4 s.sec.svn ++ leBytes 4 s.fencedMask ++
      leBytes 4 s.warms)) := by
  show execIdentify mb s = _
  rw [execIdentify, State.command_asked _ hasks rfl]

/-! ### FQ_CONFIG and FQ_STOP (R428 to R430) -/

theorem State.queue_modQueue_ne (s : State) {q x : Nat} (h : x ≠ q) (f : FeedQueue → FeedQueue) : (s.modQueue q f).queue x = s.queue x :=
  Tab.get_upd_ne _ _ _ h

theorem State.ringWrite_queues (s : State) (f : FeedQueue) (a : Nat) (bs : List Byte) : (s.ringWrite f a bs).queues = s.queues :=
  (State.ringWrite_safe s f a bs (ps := 0xf4) (og := none) rfl (.refl s)).part .queues rfl

/-- A ring that can be read takes writes. -/
theorem State.ringLost_of_read {s : State} {f : FeedQueue} {a n : Nat} {bs : List Byte} (h : s.ringRead f a n = some bs) :
    s.ringLost f a = false := by
  unfold State.ringRead at h
  split at h
  · split at h
    · cases h
    · next hgood =>
      simp only [not_or, Bool.not_eq_true] at hgood
      simp [State.ringLost, hgood.2.1]
  · simp [State.ringLost, *]

/-- A head line that is not lost changes no queue. -/
theorem State.writeHead_queues {s : State} {q : Nat} (h : s.ringLost (s.queue q) (s.queue q).cb = false) :
    (s.writeHead q).queues = s.queues := by
  unfold State.writeHead
  dsimp only
  split
  · rfl
  · rw [if_neg (by simp [h])]
    exact s.ringWrite_queues _ _ _

/-- The queue that FQ_CONFIG leaves: it stands at the counts that its control block holds (R428). -/
def FeedQueue.placed (f : FeedQueue) (bs : List Byte) (copies : List Nat) : FeedQueue :=
  { f with head := field bs 0 4, tail := field bs 0 4, written := field bs 4 4, cdone := field bs 4 4, cseq := field bs 4 4
           copies := copies }

theorem FeedQueue.placed_fields (m : Mbox) (old : FeedQueue) (bs : List Byte) (copies : List Nat) :
    let f := (m.newQueue old).placed bs copies
    f.en = true ∧ f.head = field bs 0 4 ∧ f.tail = field bs 0 4 ∧ f.written = field bs 4 4 ∧ f.cdone = field bs 4 4 ∧
      f.aseq = m.arg 72 4 ∧ f.owner = m.arg 4 2 ∧ f.root = bits (m.arg 48 8) 51 12 * 4096 ∧ f.jseq = old.jseq ∧ f.copies = copies := by
  simp only [FeedQueue.placed, Mbox.newQueue, and_self]

/-- The state after queue q is configured. -/
def State.configured (s : State) (q : Nat) (f : FeedQueue) (bs : List Byte) : State :=
  ((s.ringLines f 1).modQueue q fun _ => f.placed bs (s.journalBays q)).writeHead q

theorem State.ringLines_fenced (s : State) (f : FeedQueue) (n : Nat) : (s.ringLines f n).fenced = s.fenced :=
  (State.ringLines_safe s f n (ps := 0x4) (og := none) rfl (.refl s)).part .fenced rfl

theorem State.ringLines_queues (s : State) (f : FeedQueue) (n : Nat) : (s.ringLines f n).queues = s.queues :=
  (State.ringLines_safe s f n (ps := 0x4) (og := none) rfl (.refl s)).part .queues rfl

theorem State.journalBays_congr {s t : State} (h : t.fenced = s.fenced) (q : Nat) : t.journalBays q = s.journalBays q := by
  simp only [State.journalBays, State.isFenced, h]

section
variable {s : State} {q : Nat} {f : FeedQueue} {bs : List Byte}

theorem State.configured_sameBut : SameBut [.regs, .mem, .memTag, .host, .hostTag, .events, .queues] s (s.configured q f bs) :=
  State.Safe.sameBut (og := none)
    (State.writeHead_safe _ _ rfl (State.modQueue_safe _ _ _ rfl (State.ringLines_safe _ _ _ rfl (.refl s))))

theorem State.configured_queues (hread : s.ringRead f f.cb 64 = some bs) : (s.configured q f bs).queues =
    ((s.ringLines f 1).modQueue q fun _ => f.placed bs (s.journalBays q)).queues := by
  refine State.writeHead_queues ?_
  rw [State.queue_modQueue_same]
  have hlost := State.ringLost_of_read hread
  simp only [State.ringLost, State.isFenced, FeedQueue.placed] at hlost ⊢
  rwa [show ((s.ringLines f 1).modQueue q _).fenced = s.fenced from s.ringLines_fenced f 1]

variable (hread : s.ringRead f f.cb 64 = some bs)
include hread

theorem State.configured_queue_same : (s.configured q f bs).queue q = f.placed bs (s.journalBays q) := by
  rw [State.queue_congr (State.configured_queues hread), State.queue_modQueue_same]

theorem State.configured_queue_ne {x : Nat} (h : x ≠ q) : (s.configured q f bs).queue x = s.queue x := by
  rw [State.queue_congr (State.configured_queues hread), State.queue_modQueue_ne _ h, State.queue_congr (s.ringLines_queues f 1)]

end

section
variable {mb : MailboxId} {s : State} {m : Mbox} (hasks : s.Asks mb 0x10 80 false m) (hflags : m.arg 1 1 < 8) (hz₁ : m.zero 6 8 = true)
  (hz₂ : m.zero 41 48 = true) (hz₃ : m.zero 76 80 = true)
include hasks hflags hz₁ hz₂ hz₃

theorem exec_fqConfig_range (hrange : fqRange m = true) : exec (.fqConfig mb) s = .next (s.answer mb .range) := by
  show execFqConfig mb s = _
  rw [execFqConfig, State.command_asked _ hasks (by simp [hflags, hz₁, hz₂, hz₃]), if_pos hrange]

variable (hrange : fqRange m = false)
include hrange

theorem exec_fqConfig_busy (hbusy : s.queueBusy (m.arg 0 1) = true ∨ (s.queue (m.arg 0 1)).waiting ≠ []) :
    exec (.fqConfig mb) s = .next (s.answer mb .busy) := by
  show execFqConfig mb s = _
  rw [execFqConfig, State.command_asked _ hasks (by simp [hflags, hz₁, hz₂, hz₃]), if_neg (by simp [hrange]), if_pos (by simpa using hbusy)]

variable (hidle : s.queueBusy (m.arg 0 1) = false) (hempty : (s.queue (m.arg 0 1)).waiting = [])
  (hlink : s.linkWaits (m.newQueue (s.queue (m.arg 0 1))) = false)
include hidle hempty hlink

theorem exec_fqConfig_unread (hread : s.ringRead (m.newQueue (s.queue (m.arg 0 1))) (m.newQueue (s.queue (m.arg 0 1))).cb 64 = none) :
    exec (.fqConfig mb) s = .next (s.answer mb .range) := by
  show execFqConfig mb s = _
  rw [execFqConfig, State.command_asked _ hasks (by simp [hflags, hz₁, hz₂, hz₃]), if_neg (by simp [hrange])]
  simp only [hidle, hempty, hlink, hread, List.isEmpty_nil, Bool.not_true, Bool.or_self, Bool.false_eq_true, if_false]

theorem exec_fqConfig_read {bs : List Byte}
    (hread : s.ringRead (m.newQueue (s.queue (m.arg 0 1))) (m.newQueue (s.queue (m.arg 0 1))).cb 64 = some bs) :
    exec (.fqConfig mb) s = .next ((s.configured (m.arg 0 1) (m.newQueue (s.queue (m.arg 0 1))) bs).answer mb .ok) := by
  show execFqConfig mb s = _
  rw [execFqConfig, State.command_asked _ hasks (by simp [hflags, hz₁, hz₂, hz₃]), if_neg (by simp [hrange])]
  simp only [hidle, hempty, hlink, hread, List.isEmpty_nil, Bool.not_true, Bool.or_self, Bool.false_eq_true, if_false,
    State.journalBays_congr (s.ringLines_fenced _ 1)]
  rfl

end

theorem State.muteQueue_queue_ne (s : State) {q x : Nat} (h : x ≠ q) : (s.muteQueue q).queue x = s.queue x := by
  unfold State.muteQueue
  dsimp only
  split
  · rfl
  · rw [State.queue_modQueue_ne _ h]
    split
    · exact State.queue_congr (by simp [State.queueError]) x
    · rfl

theorem State.writeHead_queue_ne (s : State) {q x : Nat} (h : x ≠ q) : (s.writeHead q).queue x = s.queue x := by
  unfold State.writeHead
  dsimp only
  split
  · rfl
  split
  · exact s.muteQueue_queue_ne h
  · exact State.queue_congr (s.ringWrite_queues _ _ _) x

section
variable {s : State} {q : Nat} (hen : (s.queue q).en = false) (hheld : (s.queue q).held = none)
include hen hheld

/-- A stopped queue whose head line is lost only takes note of that. -/
theorem State.muteQueue_queue_same : ∃ b, (s.muteQueue q).queue q = { s.queue q with mute := b } := by
  unfold State.muteQueue
  dsimp only
  split
  · exact ⟨_, rfl⟩
  · refine ⟨true, ?_⟩
    rw [if_neg (by simp [hen]), State.queue_modQueue_same]
    simp [hen, hheld]

theorem State.writeHead_queue_same : ∃ b, (s.writeHead q).queue q = { s.queue q with mute := b } := by
  unfold State.writeHead
  dsimp only
  split
  · exact ⟨_, rfl⟩
  split
  · exact State.muteQueue_queue_same hen hheld
  · exact ⟨_, State.queue_congr (s.ringWrite_queues _ _ _) q⟩

end

theorem State.stopQueue_sameBut (s : State) (q : Nat) :
    SameBut [.regs, .mem, .memTag, .host, .hostTag, .events, .queues] s (s.stopQueue q 4 0) :=
  State.Safe.sameBut (og := none) (State.stopQueue_safe s q 4 0 rfl (.refl s))

/-- A queue that FQ_STOP has stopped (R430). -/
theorem State.stopQueue_queue_same (s : State) (q : Nat) : ∃ b, (s.stopQueue q 4 0).queue q =
    { s.queue q with en := false, held := none, stop := 4, mute := b } := by
  have hstop := s.queue_modQueue_same q fun x => { x with en := false, held := none, stop := 4 }
  obtain ⟨b, hb⟩ := State.writeHead_queue_same (q := q) (congrArg FeedQueue.en hstop) (congrArg FeedQueue.held hstop)
  rw [hstop] at hb
  exact ⟨b, hb⟩

theorem State.stopQueue_queue_ne (s : State) {q x : Nat} (h : x ≠ q) : (s.stopQueue q 4 0).queue x = s.queue x :=
  (State.writeHead_queue_ne _ h).trans (s.queue_modQueue_ne h _)

section
variable {mb : MailboxId} {s : State} {m : Mbox} (hasks : s.Asks mb 0x11 1 false m)
include hasks

theorem exec_fqStop_range (hq : 64 ≤ m.arg 0 1) : exec (.fqStop mb) s = .next (s.answer mb .range) := by
  show execFqStop mb s = _
  rw [execFqStop, State.command_asked _ hasks rfl, if_pos hq]

variable (hq : m.arg 0 1 < 64)
include hq

theorem exec_fqStop_stopped (hen : (s.queue (m.arg 0 1)).en = false) : exec (.fqStop mb) s = .next (s.answer mb .ok) := by
  show execFqStop mb s = _
  rw [execFqStop, State.command_asked _ hasks rfl, if_neg (by omega), if_neg (by simp [hen])]

theorem exec_fqStop_running (hen : (s.queue (m.arg 0 1)).en = true) :
    exec (.fqStop mb) s = .next ((s.stopQueue (m.arg 0 1) 4 0).answer mb .ok) := by
  show execFqStop mb s = _
  rw [execFqStop, State.command_asked _ hasks rfl, if_neg (by omega), if_pos hen]

end

/-! ### XLATE_INVAL (R255) -/

theorem mem_tlbInval {q va len : Nat} {t : List TlbEntry} {e : TlbEntry} : e ∈ tlbInval q va len t ↔ e ∈ t ∧ (e.queue = q →
    len ≠ 0 ∧ (va + len ≤ e.vpn * 2 ^ levelShift e.level ∨ (e.vpn + 1) * 2 ^ levelShift e.level ≤ va)) := by
  rw [tlbInval, List.mem_filter]
  refine and_congr_right fun _ => ?_
  simp only [Bool.not_eq_true', Bool.and_eq_false_iff, Bool.or_eq_false_iff, beq_eq_false_iff_ne, decide_eq_false_iff_not, not_lt]
  tauto

theorem tlbInval_idem (q va len : Nat) (t : List TlbEntry) : tlbInval q va len (tlbInval q va len t) = tlbInval q va len t := by
  simp [tlbInval]

/-- A key that a table does not hold reads as the default. -/
theorem Tab.get_of_notMem {α : Type} {d : α} {t : Tab α} {k : Nat} (h : k ∉ t.map Prod.fst) : Tab.get d t k = d := by
  induction t with
  | nil => rfl
  | cons e t ih =>
    obtain ⟨hne, hrest⟩ := not_or.mp (List.mem_cons.not.mp h)
    rw [Tab.get, if_neg (Ne.symm hne), ih hrest]

/-- An idempotent update applied key by key. -/
theorem Tab.get_foldl_upd {α : Type} [DecidableEq α] (d : α) {f : α → α} (hf : ∀ x, f (f x) = f x) (l : List Nat) (t : Tab α) (k : Nat) :
    Tab.get d (l.foldl (fun t j => Tab.upd d t j f) t) k = if k ∈ l then f (Tab.get d t k) else Tab.get d t k := by
  induction l generalizing t with
  | nil => rfl
  | cons j l ih =>
    rw [List.foldl_cons, ih]
    obtain rfl | hne := eq_or_ne k j
    · simp [hf]
    · simp [Tab.get_upd_ne _ _ _ hne, hne]

section
variable (q va len : Nat)

/-- A stall after the invalidation. -/
def Stall.invalidated (st : Stall) : Stall := { st with tlb := tlbInval q va len st.tlb }

theorem Stall.invalidated_idem (st : Stall) : (st.invalidated q va len).invalidated q va len = st.invalidated q va len :=
  congrArg (fun t => { st with tlb := t }) (tlbInval_idem q va len st.tlb)

theorem each_invalidated_stalls (l : List Nat) (s : State) : (each l s fun s g => s.modStall g (Stall.invalidated q va len)).stalls =
    l.foldl (fun t g => Tab.upd {} t g (Stall.invalidated q va len)) s.stalls := by
  unfold each
  induction l generalizing s with
  | nil => rfl
  | cons g l ih => exact ih _

theorem each_invalidated_bays (l : List Nat) (s : State) :
    (each l s fun s b => { s with bayTlb := Tab.upd [] s.bayTlb b (tlbInval q va len) }).bayTlb =
      l.foldl (fun t b => Tab.upd [] t b (tlbInval q va len)) s.bayTlb := by
  unfold each
  induction l generalizing s with
  | nil => rfl
  | cons b l ih => exact ih _

variable (s : State)

theorem State.invalidate_sameBut : SameBut [.stalls, .bayTlb] s (s.invalidate q va len) :=
  State.Safe.sameBut (og := none) (State.invalidate_safe s q va len rfl rfl (.refl s))

/-- The state after the stalls' caches are invalidated. -/
def State.stallsInvalidated : State := each (s.stalls.map Prod.fst) s fun s g => s.modStall g (Stall.invalidated q va len)

theorem State.invalidate_eq : s.invalidate q va len = each (List.range 32) (s.stallsInvalidated q va len)
    fun s b => { s with bayTlb := Tab.upd [] s.bayTlb b (tlbInval q va len) } := rfl

theorem State.invalidate_stall (g : Nat) : (s.invalidate q va len).stall g = (s.stall g).invalidated q va len := by
  have hbays : (s.invalidate q va len).stalls = (s.stallsInvalidated q va len).stalls :=
    each_induct (P := fun y => y.stalls = (s.stallsInvalidated q va len).stalls) _ (fun _ _ _ hy => hy) rfl
  rw [State.stall_congr g hbays, State.stall, State.stallsInvalidated, each_invalidated_stalls,
    Tab.get_foldl_upd _ (Stall.invalidated_idem q va len)]
  split
  · rfl
  · next hkey =>
    rw [Tab.get_of_notMem hkey, State.stall, Tab.get_of_notMem hkey]
    rfl

theorem State.invalidate_bay {b : Nat} (hb : b < 32) :
    Tab.get [] (s.invalidate q va len).bayTlb b = tlbInval q va len (Tab.get [] s.bayTlb b) := by
  have hstalls : (s.stallsInvalidated q va len).bayTlb = s.bayTlb :=
    each_induct (P := fun y => y.bayTlb = s.bayTlb) _ (fun _ _ _ hy => hy) rfl
  rw [State.invalidate_eq, each_invalidated_bays, Tab.get_foldl_upd _ (tlbInval_idem q va len), if_pos (List.mem_range.mpr hb), hstalls]

end

theorem exec_xlateInval {mb : MailboxId} {s : State} {m : Mbox} (hasks : s.Asks mb 0x20 24 true m) (hz : m.zero 1 8 = true)
    (hown : s.ownsQueue mb m (m.arg 0 1) = true) (hq : m.arg 0 1 < 64) (halign : m.arg 8 8 % 4096 = 0) (hva : m.arg 8 8 < 2 ^ 48) :
    exec (.xlateInval mb) s = .next ((s.invalidate (m.arg 0 1) (m.arg 8 8) (m.arg 16 8)).answer mb .ok) := by
  show execXlateInval mb s = _
  rw [execXlateInval, State.queueCommand_asked _ hasks hz hown hq]
  dsimp only
  rw [if_neg (by omega)]

/-! ### PAGE_RESOLVED (R260) -/

/-- A job after one of its notices is answered. -/
def Job.answered (j : Job) (rest : List Nat) : Job :=
  if rest.isEmpty then { j with notices := [], asking := false, rerun := j.mayRetry, retried := j.retried + b2n j.mayRetry }
  else { j with notices := rest }

theorem Job.answered_notices (j : Job) (rest : List Nat) : (j.answered rest).notices = rest := by
  unfold Job.answered
  split
  · next h => exact (List.isEmpty_iff.mp h).symm
  · rfl

theorem Job.answered_waits (j : Job) {rest : List Nat} (h : rest ≠ []) :
    (j.answered rest).asking = j.asking ∧ (j.answered rest).rerun = j.rerun := by
  rw [Job.answered, if_neg (by simpa using h)]
  exact ⟨rfl, rfl⟩

theorem Job.answered_runs (j : Job) : (j.answered []).asking = false ∧ (j.answered []).rerun = j.mayRetry := ⟨rfl, rfl⟩

/-- The state after the notice of a page is answered. -/
def State.resolved (s : State) (slot dva : Nat) : State :=
  let rest := (s.job slot).notices.erase dva
  let t := s.modJob slot (·.answered rest)
  if rest.isEmpty && (s.job slot).mayRetry then t.causeFor slot 1 else t

theorem State.resolved_sameBut (s : State) (slot dva : Nat) : SameBut [.jobs] s (s.resolved slot dva) := by
  have hmod := State.modJob_safe s slot (·.answered ((s.job slot).notices.erase dva)) (ps := Part.mask [.jobs]) (og := none) rfl (.refl s)
  unfold State.resolved
  dsimp only
  split
  · exact State.Safe.sameBut (og := none) (State.causeFor_safe _ _ _ rfl hmod)
  · exact hmod.sameBut

/-- Only causes change, beside what the answer does to the job. -/
theorem State.resolved_job (s : State) (slot dva k : Nat) : ∃ cs, (s.resolved slot dva).job k =
    { (s.modJob slot (·.answered ((s.job slot).notices.erase dva))).job k with causes := cs } := by
  unfold State.resolved
  dsimp only
  split
  · exact State.addCause_job _ _ _ _
  · exact ⟨_, rfl⟩

section
variable {mb : MailboxId} {s : State} {m : Mbox} (hasks : s.Asks mb 0x21 16 true m) (hz₁ : m.zero 1 2 = true) (hz₂ : m.zero 5 8 = true)
  (hown : s.ownsQueue mb m (m.arg 0 1) = true) (hq : m.arg 0 1 < 64)
include hasks hz₁ hz₂ hown hq

theorem exec_pageResolved_refused (hdva : m.arg 8 8 ∉ (s.job (m.arg 2 2)).notices) :
    exec (.pageResolved mb) s = .next (s.answer mb .range) := by
  show execPageResolved mb s = _
  rw [execPageResolved, State.queueCommand_asked _ hasks (by simp [hz₁, hz₂]) hown hq]
  simp [hdva]

theorem exec_pageResolved_taken (hslot : m.arg 2 2 < 1024) (hlive : (s.job (m.arg 2 2)).live = true)
    (hqueue : (s.job (m.arg 2 2)).queue = m.arg 0 1) (hgen : (s.job (m.arg 2 2)).gen = m.arg 4 1)
    (hasking : (s.job (m.arg 2 2)).asking = true) (hdva : m.arg 8 8 ∈ (s.job (m.arg 2 2)).notices) :
    exec (.pageResolved mb) s = .next ((s.resolved (m.arg 2 2) (m.arg 8 8)).answer mb .ok) := by
  show execPageResolved mb s = _
  rw [execPageResolved, State.queueCommand_asked _ hasks (by simp [hz₁, hz₂]) hown hq]
  dsimp only
  rw [if_neg (by simp [hslot, hlive, hqueue, hgen, hasking, hdva])]
  rfl

end

/-! ### JOB_ABANDON (R429) -/

/-- The job of a slot is live as before, and its own end is known. -/
def State.Settles (s t : State) (slot : Nat) (st : Status) : Prop :=
  (t.job slot).live = (s.job slot).live ∧ (t.job slot).own = some st

section
variable {s t : State} {slot : Nat} {st : Status} (h : s.Settles t slot st)
include h

theorem State.Settles.modJob (r : Nat) {f : Job → Job} (hlive : ∀ j, (f j).live = j.live) (hown : ∀ j, (f j).own = j.own) :
    s.Settles (t.modJob r f) slot st :=
  ⟨(State.modJob_keeps Job.live hlive t r slot).trans h.1, (State.modJob_keeps Job.own hown t r slot).trans h.2⟩

theorem State.Settles.abandonJob (r : Nat) : s.Settles (t.abandonJob r) slot st := by
  obtain rfl | hne := eq_or_ne slot r
  · unfold State.Settles
    rw [State.abandonJob_job_same]
    exact h
  · unfold State.Settles
    rw [State.abandonJob_job_ne _ hne]
    exact h

end

theorem State.giveUp_mboxes (s : State) (slot : Nat) : (s.giveUp slot).mboxes = s.mboxes :=
  (State.giveUp_safe s slot (ps := 0x204234) (og := none) rfl rfl (.refl s)).part .mboxes rfl

theorem State.giveUp_settles (s : State) (slot : Nat) :
    s.Settles (s.giveUp slot) slot (if (s.job (s.runner slot)).asking then .poisoned else .abandoned) := by
  have hown (st : Status) : s.Settles (s.modJob slot fun x => { x with own := some st }) slot st := by
    unfold State.Settles
    rw [State.job_modJob_same]
    exact ⟨rfl, rfl⟩
  unfold State.giveUp
  dsimp only
  split
  · exact (hown _).modJob _ (fun _ => rfl) (fun _ => rfl)
  split
  · exact hown _
  · refine State.Settles.modJob ?_ _ (fun _ => rfl) (fun _ => rfl)
    split
    · exact hown _
    · exact (hown _).abandonJob _

section
variable {mb : MailboxId} {s : State} {m : Mbox} (hasks : s.Asks mb 0x22 8 true m) (hz : m.zero 1 4 = true)
  (hown : s.ownsQueue mb m (m.arg 0 1) = true) (hq : m.arg 0 1 < 64)
include hasks hz hown hq

theorem exec_jobAbandon_none (hnone : s.live.find? (fun j => (s.job j).queue == m.arg 0 1 && (s.job j).aseq == m.arg 4 4) = none) :
    exec (.jobAbandon mb) s = .next (s.answer mb .range) := by
  show execJobAbandon mb s = _
  rw [execJobAbandon, State.queueCommand_asked _ hasks hz hown hq]
  simp only [hnone]

theorem exec_jobAbandon_some {slot : Nat}
    (hsome : s.live.find? (fun j => (s.job j).queue == m.arg 0 1 && (s.job j).aseq == m.arg 4 4) = some slot) :
    exec (.jobAbandon mb) s = .next ((s.giveUp slot).answer mb .ok) := by
  show execJobAbandon mb s = _
  rw [execJobAbandon, State.queueCommand_asked _ hasks hz hown hq]
  simp only [hsome]

end

/-! ### Contexts (R231, R236, R431) -/

/-- Bytes that two memories share read alike. -/
theorem readBytes_congr {t u : Tab Byte} {a n : Nat} (h : ∀ y, a ≤ y → y < a + n → Tab.get 0 u y = Tab.get 0 t y) :
    readBytes u a n = readBytes t a n := by
  induction n generalizing a with
  | zero => rfl
  | succ n ih =>
    rw [readBytes, readBytes, h a (Nat.le_refl a) (by omega), ih fun y hy hlt => h y (by omega) (by omega)]

/-- The store and its mirror do not meet: one stands in system memory, the other in a stack. -/
theorem ctxMirror_below_home {c : Nat} (hc : c < 262144) : ctxMirror c + 64 ≤ ctxHome c := by
  unfold ctxMirror ctxHome hbmAddr sysAddr
  omega

section
variable {s : State} {c : Nat} (hhome : s.isFenced (c / 8192) = false)
include hhome

theorem State.ctxBytes_inService : s.ctxBytes c = if Tab.get false s.ctxLost c then List.replicate 64 0 else s.read (ctxHome c) 64 := by
  unfold State.ctxBytes State.ctxRead
  split
  · rfl
  · simp [hhome]

variable (hmirror : s.isFenced ((c / 8192 + 16) % 32) = false)
include hmirror

theorem State.ctxSet_inService (bs : List Byte) : s.ctxSet c bs =
    (({ s with ctxLost := Tab.set false s.ctxLost c false } : State).write (ctxHome c) bs false).write (ctxMirror c) bs false := by
  have hhome' : ({ s with ctxLost := Tab.set false s.ctxLost c false } : State).isFenced (c / 8192) = false := hhome
  have hmirror' : (({ s with ctxLost := Tab.set false s.ctxLost c false } : State).write (ctxHome c) bs false).isFenced
      ((c / 8192 + 16) % 32) = false := hmirror
  simp only [State.ctxSet, State.ctxWrite, hhome', hmirror', Bool.false_eq_true, if_false]

variable {bs : List Byte} (hlen : bs.length = 64)
include hlen

theorem State.ctxSet_read_mirror : (s.ctxSet c bs).read (ctxMirror c) 64 = bs := by
  rw [State.ctxSet_inService hhome hmirror]
  conv_lhs => rw [← hlen]
  exact State.read_write_same _ _ _ _

theorem State.ctxSet_read_home (hc : c < 262144) : (s.ctxSet c bs).read (ctxHome c) 64 = bs := by
  rw [State.ctxSet_inService hhome hmirror]
  refine (readBytes_congr fun y hy _ => State.write_outside _ _ _ _ _ (.inr ?_)).trans ?_
  · rw [hlen]
    exact (ctxMirror_below_home hc).trans hy
  · conv_lhs => rw [← hlen]
    exact State.read_write_same _ _ _ _

theorem State.ctxSet_outside {y : Nat} (hy : y < ctxHome c ∨ ctxHome c + 64 ≤ y) (hy' : y < ctxMirror c ∨ ctxMirror c + 64 ≤ y) :
    Tab.get 0 (s.ctxSet c bs).mem y = Tab.get 0 s.mem y := by
  rw [State.ctxSet_inService hhome hmirror, State.write_outside _ _ _ _ _ (by rwa [hlen]), State.write_outside _ _ _ _ _ (by rwa [hlen])]

omit hlen

theorem State.ctxSet_lost : Tab.get false (s.ctxSet c bs).ctxLost c = false := by
  rw [State.ctxSet_inService hhome hmirror]
  exact Tab.get_set_same false s.ctxLost c false

end

theorem State.ctxSet_sameBut (s : State) (c : Nat) (bs : List Byte) : SameBut [.mem, .memTag, .ctxLost] s (s.ctxSet c bs) :=
  State.Safe.sameBut (og := none) (State.ctxSet_safe s c bs rfl (.refl s))

theorem State.ctxCommand_asked {s : State} {mb op size c : Nat} {rsv : Mbox → Bool} {m : Mbox} {bs : List Byte}
    (f : Mbox → Nat → List Byte → State) (hasks : s.Asks mb op size true m) (hrsv : rsv m = true) (hcm : c = m.arg 0 4)
    (hbs : bs = s.ctxBytes c) (hc : c < 262144) (hown : field bs 8 1 ≠ 0 → s.ownsQueue mb m (field bs 9 1) = true) :
    s.ctxCommand mb op size rsv f = .next (f m c bs) := by
  subst hcm hbs
  rw [State.ctxCommand, State.command_asked _ hasks hrsv]
  dsimp only
  rw [if_neg (by omega), if_neg]
  rintro ⟨hstate, hlost⟩
  rw [ctxQueue, hown hstate] at hlost
  cases hlost

section
variable {mb : MailboxId} {s : State} {m : Mbox} {c : Nat} {bs : List Byte} (hcm : c = m.arg 0 4) (hbs : bs = s.ctxBytes c)
  (hc : c < 262144) (hown : field bs 8 1 ≠ 0 → s.ownsQueue mb m (field bs 9 1) = true)
include hcm hbs hc hown

theorem exec_ctxRead (hasks : s.Asks mb 0x33 4 true m) : exec (.ctxRead mb) s = .next (s.answer mb .ok bs) := by
  show execCtxRead mb s = _
  rw [execCtxRead, State.ctxCommand_asked _ hasks rfl hcm hbs hc hown]

theorem exec_ctxOpen (hasks : s.Asks mb 0x30 68 true m) (hfree : field bs 8 1 = 0) (hnew : field (m.payload 4 64) 8 1 = 1)
    (hform : ctxForm m = true) (hq : field (m.payload 4 64) 9 1 < 64) (hqown : s.ownsQueue mb m (field (m.payload 4 64) 9 1) = true) :
    exec (.ctxOpen mb) s = .next ((s.ctxSet c (m.payload 4 64)).answer mb .ok) := by
  show execCtxOpen mb s = _
  rw [execCtxOpen, State.ctxCommand_asked _ hasks hform hcm hbs hc hown]
  simp [ctxState, ctxQueue, hfree, hnew, hqown, Nat.not_le.mpr hq]

/-- CTX_CLOSE is answered by the state of the context. -/
theorem exec_ctxClose (hasks : s.Asks mb 0x32 4 true m) : exec (.ctxClose mb) s = .next (
    if field bs 8 1 = 0 then s.answer mb .ctxState else if s.ctxBusy c then s.answer mb .busy
    else (s.ctxSet c (List.replicate 64 0)).answer mb .ok) := by
  show execCtxClose mb s = _
  rw [execCtxClose, State.ctxCommand_asked _ hasks rfl hcm hbs hc hown]
  rw [ctxState]

/-- So is CTX_SET of a well-formed context. -/
theorem exec_ctxSet (hasks : s.Asks mb 0x31 68 true m) (hnew : field (m.payload 4 64) 8 1 = 1 ∨ field (m.payload 4 64) 8 1 = 2)
    (hform : ctxForm m = true) (hq : field (m.payload 4 64) 9 1 < 64) (hqown : s.ownsQueue mb m (field (m.payload 4 64) 9 1) = true) :
    exec (.ctxSet mb) s = .next (
      if field bs 8 1 = 0 then s.answer mb .ctxState else if s.ctxBusy c then s.answer mb .busy
      else (s.ctxSet c (m.payload 4 64)).answer mb .ok) := by
  show execCtxSet mb s = _
  rw [execCtxSet, State.ctxCommand_asked _ hasks hform hcm hbs hc hown]
  dsimp only
  rw [if_neg (by simp [ctxQueue, hqown]), if_neg (by rw [ctxState, ctxQueue]; omega), ctxState]

end

/-- What a command leaves that has stored a context and is answered. -/
theorem State.ctxSet_answer {mb : MailboxId} {s : State} {c : Nat} {stored : List Byte} (hkept : (s.mbox mb).drop = false)
    (hc : c < 262144) (hhome : s.isFenced (c / 8192) = false) (hmirror : s.isFenced ((c / 8192 + 16) % 32) = false)
    (hlen : stored.length = 64) : let t := (s.ctxSet c stored).answer mb .ok
    SameBut [.mem, .memTag, .msix, .mx, .mboxes, .ctxLost] s t ∧ Answered s t mb 0 [] ∧ t.read (ctxHome c) 64 = stored ∧
      Tab.get false t.ctxLost c = false ∧ t.read (ctxMirror c) 64 = stored ∧
      ∀ y, (y < ctxHome c ∨ ctxHome c + 64 ≤ y) → (y < ctxMirror c ∨ ctxMirror c + 64 ≤ y) → Tab.get 0 t.mem y = Tab.get 0 s.mem y := by
  intro t
  have hmem : t.mem = (s.ctxSet c stored).mem := State.answer_sameBut _ _ _ _ .mem (by simp)
  have hlost : t.ctxLost = (s.ctxSet c stored).ctxLost := State.answer_sameBut _ _ _ _ .ctxLost (by simp)
  obtain ⟨hsame, hanswered⟩ := State.answer_after (m := [.mem, .memTag, .msix, .mx, .mboxes, .ctxLost]) hkept
    (s.ctxSet_sameBut c stored) (by simp) (by simp) (by simp) .ok []
  refine ⟨hsame, hanswered, ?_, ?_, ?_, fun y hy hy' => ?_⟩
  · rw [State.read, hmem]
    exact State.ctxSet_read_home hhome hmirror hlen hc
  · rw [hlost]
    exact State.ctxSet_lost hhome hmirror
  · rw [State.read, hmem]
    exact State.ctxSet_read_mirror hhome hmirror hlen
  · rw [hmem]
    exact State.ctxSet_outside hhome hmirror hlen hy hy'

/-! ### BATCH_CLASS (R410) -/

section
variable {s t : State} (hfenced : t.fenced = s.fenced)
include hfenced

theorem State.spares_congr (bays lost : List Nat) : t.spares bays lost = s.spares bays lost := by
  induction lost generalizing bays with
  | nil => rfl
  | cons b lost ih => simp only [State.spares, State.isFenced, hfenced, ih]

theorem State.placed_congr (im : Image) : t.placed im = s.placed im := by
  have hall : t.isFenced = s.isFenced := by
    funext b
    rw [State.isFenced, hfenced, State.isFenced]
  simp only [State.placed, hall, State.spares_congr hfenced]

/-- The placement checks read the fences and the queue alone. -/
theorem State.stage4_congr (hqueues : t.queues = s.queues) (q : Nat) (im : Image) : t.stage4 q im = s.stage4 q im := by
  simp only [State.stage4, State.placed_congr hfenced, State.queue_congr hqueues]

end

theorem State.cacheLines_sameBut (s : State) (wr : Bool) (n : Nat) : SameBut [.regs] s (s.cacheLines wr n) :=
  State.Safe.sameBut (og := none) (State.cacheLines_safe s wr n rfl (.refl s))

theorem State.stage4_cacheLines (s : State) (wr : Bool) (n q : Nat) (im : Image) : (s.cacheLines wr n).stage4 q im = s.stage4 q im :=
  State.stage4_congr (s.cacheLines_sameBut wr n .fenced (by simp)) (s.cacheLines_sameBut wr n .queues (by simp)) q im

/-- The class that BATCH_CLASS keeps. -/
def Mbox.newClass (m : Mbox) (im : Image) : BatchClass :=
  { img := im, queue := m.arg 1 1, listOff := m.arg 16 4, result := m.arg 24 8, fill := m.arg 32 4, wait := m.arg 36 4 }

/-- The state after class k is kept. -/
def State.classKept (s : State) (k : Nat) (b : BatchClass) : State := { s with classes := Tab.set none s.classes k (some b) }

theorem State.classKept_classes (s : State) (k : Nat) (b : BatchClass) :
    (s.classKept k b).classes = Tab.set none s.classes k (some b) := rfl

theorem State.classKept_sameBut (s : State) (k : Nat) (b : BatchClass) : SameBut [.classes] s (s.classKept k b) := by
  intro p hp
  cases p with
  | classes => simp at hp
  | _ => rfl

section
variable {mb : MailboxId} {s : State} {m : Mbox} (hasks : s.Asks mb 0x34 40 false m) (hz₁ : m.zero 2 8 = true)
  (hz₂ : m.zero 20 24 = true) (hk : m.arg 0 1 < 64) (hq : m.arg 1 1 < 64) (halign : m.arg 16 4 % 64 = 0) (hoff : m.arg 16 4 < 0xE00000)
include hasks hz₁ hz₂ hk hq halign hoff

theorem exec_batchClass_form (h : m.arg 32 4 = 0 ∨ 4096 < m.arg 32 4 ∨ 10000000 < m.arg 36 4) :
    exec (.batchClass mb) s = .next (s.answer mb .batchForm) := by
  show execBatchClass mb s = _
  rw [execBatchClass, State.command_asked _ hasks (by simp [hz₁, hz₂])]
  dsimp only
  rw [if_neg (by omega), if_pos (by omega)]

variable (hfill : 1 ≤ m.arg 32 4) (hmost : m.arg 32 4 ≤ 4096) (hwait : m.arg 36 4 ≤ 10000000)
include hfill hmost hwait

theorem exec_batchClass_busy (hopen : s.classOpen (m.arg 0 1) = true) : exec (.batchClass mb) s = .next (s.answer mb .busy) := by
  show execBatchClass mb s = _
  rw [execBatchClass, State.command_asked _ hasks (by simp [hz₁, hz₂])]
  dsimp only
  rw [if_neg (by omega), if_neg (by omega), if_pos hopen]

variable (hclosed : s.classOpen (m.arg 0 1) = false) (hlink : s.imageWaits (m.arg 1 1) (m.arg 8 8) false = false)
include hclosed hlink

theorem exec_batchClass_refused {r : Refuse} {n : Nat} (hread : s.readImage (m.arg 1 1) (m.arg 8 8) false = (.error r, n)) :
    exec (.batchClass mb) s = .next ((s.cacheLines false n).answer mb r.status) := by
  show execBatchClass mb s = _
  rw [execBatchClass, State.command_asked _ hasks (by simp [hz₁, hz₂])]
  dsimp only
  rw [if_neg (by omega), if_neg (by omega), if_neg (by simp [hclosed]), if_neg (by simp [hlink]), hread]

theorem exec_batchClass_kept {im : Image} {n : Nat} (hread : s.readImage (m.arg 1 1) (m.arg 8 8) false = (.ok im, n))
    (hstage3 : im.stage3 = none) (hstage4 : s.stage4 (m.arg 1 1) im = none) :
    exec (.batchClass mb) s = .next (((s.cacheLines false n).classKept (m.arg 0 1) (m.newClass im)).answer mb .ok) := by
  have hpass : (im.stage3.orElse fun _ => (s.cacheLines false n).stage4 (m.arg 1 1) im) = none := by
    rw [hstage3]
    exact (s.stage4_cacheLines false n _ im).trans hstage4
  show execBatchClass mb s = _
  rw [execBatchClass, State.command_asked _ hasks (by simp [hz₁, hz₂])]
  dsimp only
  rw [if_neg (by omega), if_neg (by omega), if_neg (by simp [hclosed]), if_neg (by simp [hlink]), hread]
  dsimp only
  rw [hpass, Mbox.newClass, State.classKept]

end

end Sys2Proof.Machine

namespace Sys2Proof.Proofs
open Sys2Proof.Machine

/-- Settles O50: each command's form and view decide whether it is answered at once; its effect is then one of the states that the
rules above describe, and the answer is posted in a state whose mailboxes are untouched. -/
theorem mailboxCommandsOnQueuesAndJobs : Obligations.MailboxCommandsOnQueuesAndJobs := by
  unfold Obligations.MailboxCommandsOnQueuesAndJobs
  intro mb s
  refine ⟨fun good bad c op size all m hc hm => ?_, fun m hasks => ?_, fun m q f bs hasks hq hf hflags hz₁ hz₂ hz₃ => ?_,
    fun m q hasks hq => ?_, fun m q hasks hq hz hown hlt halign hva => ?_,
    fun m q slot j hasks hq hslot hj hz₁ hz₂ hown hlt hslots hlive hqueue hgen hasking => ?_,
    fun m q slot hasks hq hz hown hlt => ?_, fun m c bs new hc hrange hhome hmirror hbs hnew hown => ?_,
    fun m k q n x hasks hk hq hz₁ hz₂ hklt hqlt halign hoff => ?_⟩
  case refine_1 =>
    subst hm
    obtain ⟨rsv, f, hexec⟩ := exec_mailCmd hc s
    rw [hexec]
    refine ⟨State.command_idle rsv f, fun hfw hbusy hopc hlen hkept => ?_⟩
    have hrequest := State.request_asked hfw hbusy hopc hlen
    exact ⟨fun hmb hall => does_answer hkept (hexec.trans (State.command_view rsv f hrequest ⟨hmb, hall⟩)),
      fun hview hform => does_answer hkept (hexec.trans (State.command_form rsv f hrequest hview hform))⟩
  case refine_2 => exact does_answer hasks.mbox_kept (exec_identify hasks)
  case refine_3 =>
    subst hq hf
    have hkept := hasks.mbox_kept
    refine ⟨fun hr => does_answer hkept (exec_fqConfig_range hasks hflags hz₁ hz₂ hz₃ hr), fun hr => ⟨fun hbusy =>
      does_answer hkept (exec_fqConfig_busy hasks hflags hz₁ hz₂ hz₃ hr hbusy), fun hidle hempty hlink => ⟨fun hread =>
      does_answer hkept (exec_fqConfig_unread hasks hflags hz₁ hz₂ hz₃ hr hidle hempty hlink hread), fun hread => ?_⟩⟩⟩
    obtain ⟨hsame, hanswered⟩ := State.answer_after (u := s.configured (m.arg 0 1) (m.newQueue (s.queue (m.arg 0 1))) bs)
      (m := [.regs, .mem, .memTag, .host, .hostTag, .events, .msix, .mx, .queues, .mboxes]) hkept State.configured_sameBut
      (by simp) (by simp) (by simp) .ok []
    obtain ⟨hen, hhead, htail, hwritten, hcdone, haseq, howner, hroot, hjseq, hcopies⟩ :=
      FeedQueue.placed_fields m (s.queue (m.arg 0 1)) bs (s.journalBays (m.arg 0 1))
    refine ⟨_, exec_fqConfig_read hasks hflags hz₁ hz₂ hz₃ hr hidle hempty hlink hread, hsame, hanswered, ?_⟩
    rw [State.answer_queue, State.configured_queue_same hread]
    exact ⟨hen, hhead, htail, hwritten, hcdone, haseq, howner, hroot, hjseq, hcopies, fun x hx =>
      (State.answer_queue _ _ _ _ x).trans (State.configured_queue_ne hread hx)⟩
  case refine_4 =>
    subst hq
    have hkept := hasks.mbox_kept
    refine ⟨fun hq => does_answer hkept (exec_fqStop_range hasks hq), fun hq hen => does_answer hkept (exec_fqStop_stopped hasks hq hen),
      fun hq hen => ⟨_, exec_fqStop_running hasks hq hen,
        State.answer_answered (s.stopQueue_sameBut _ .mboxes (by simp)) hkept _ _, ?_⟩⟩
    obtain ⟨b, hb⟩ := s.stopQueue_queue_same (m.arg 0 1)
    rw [State.answer_queue, hb]
    exact ⟨rfl, rfl, rfl, rfl,
      (State.answer_sameBut _ _ _ _ .jobs (by simp)).trans (s.stopQueue_sameBut _ .jobs (by simp)), fun x hx =>
      (State.answer_queue _ _ _ _ x).trans (s.stopQueue_queue_ne hx)⟩
  case refine_5 =>
    subst hq
    obtain ⟨hsame, hanswered⟩ := State.answer_after (u := s.invalidate (m.arg 0 1) (m.arg 8 8) (m.arg 16 8))
      (m := [.msix, .mx, .stalls, .bayTlb, .mboxes]) hasks.mbox_kept (State.invalidate_sameBut _ _ _ s) (by simp) (by simp) (by simp) .ok []
    have hbays := (s.invalidate (m.arg 0 1) (m.arg 8 8) (m.arg 16 8)).answer_sameBut mb .ok [] .bayTlb (by simp)
    refine ⟨_, exec_xlateInval hasks hz hown hlt halign hva, hsame, hanswered, fun g => ?_, fun old new hcaches e => ?_⟩
    · rw [State.answer_stall, State.invalidate_stall]
      rfl
    · obtain ⟨g, rfl, rfl⟩ | ⟨b, hb, rfl, rfl⟩ := hcaches
      · rw [State.answer_stall, State.invalidate_stall]
        exact mem_tlbInval
      · rw [hbays, State.invalidate_bay _ _ _ _ hb]
        exact mem_tlbInval
  case refine_6 =>
    subst hq hslot hj
    have hkept := hasks.mbox_kept
    refine ⟨fun hdva => ?_, fun hdva => does_answer hkept (exec_pageResolved_refused hasks hz₁ hz₂ hown hlt hdva)⟩
    obtain ⟨hsame, hanswered⟩ := State.answer_after (u := s.resolved (m.arg 2 2) (m.arg 8 8)) (m := [.msix, .mx, .jobs, .mboxes])
      hkept (s.resolved_sameBut _ _) (by simp) (by simp) (by simp) .ok []
    refine ⟨_, exec_pageResolved_taken hasks hz₁ hz₂ hown hlt hslots hlive hqueue hgen hasking hdva, hsame, hanswered, ?_⟩
    obtain ⟨cs, hjob⟩ := s.resolved_job (m.arg 2 2) (m.arg 8 8) (m.arg 2 2)
    rw [State.job_modJob_same] at hjob
    rw [State.answer_job, hjob]
    have hlen := List.length_erase_of_mem hdva
    refine ⟨Job.answered_notices _ _, fun htwo => ?_, fun hone => ?_, fun k hk => ?_⟩
    · obtain ⟨hstill, hrerun⟩ := (s.job (m.arg 2 2)).answered_waits (rest := (s.job (m.arg 2 2)).notices.erase (m.arg 8 8))
        (List.ne_nil_of_length_pos (by omega))
      exact ⟨hstill.trans hasking, hrerun⟩
    · rw [List.eq_nil_of_length_eq_zero (hlen.trans (by omega))]
      exact Job.answered_runs _
    · obtain ⟨cs, hother⟩ := s.resolved_job (m.arg 2 2) (m.arg 8 8) k
      rw [State.answer_job, hother, State.job_modJob_ne _ _ hk]
  case refine_7 =>
    subst hq
    have hkept := hasks.mbox_kept
    refine ⟨fun hnone => does_answer hkept (exec_jobAbandon_none hasks hz hown hlt hnone), fun hsome =>
      ⟨_, exec_jobAbandon_some hasks hz hown hlt hsome, State.answer_answered (s.giveUp_mboxes slot) hkept _ _, ?_⟩⟩
    rw [State.answer_job]
    exact s.giveUp_settles slot
  case refine_8 =>
    have hbytes : bs = s.ctxBytes c := hbs.trans (State.ctxBytes_inService hhome).symm
    refine ⟨fun hasks => does_answer hasks.mbox_kept (exec_ctxRead hc hbytes hrange hown hasks), fun k stored hk hform => ?_,
      fun k hk => ?_⟩
    · subst hnew
      have hlen (x : Nat) : (m.payload x 64).length = 64 := readBytes_length _ _ _
      obtain ⟨rfl, hasks, hfree, hready, rfl⟩ | ⟨rfl, hasks, hused, hready, hidle, rfl⟩ | ⟨rfl, hasks, hused, hidle, rfl⟩ := hk
      · obtain ⟨hform, hq, hqown⟩ := hform (by simp)
        exact ⟨_, exec_ctxOpen hc hbytes hrange hown hasks hfree hready hform hq hqown,
          State.ctxSet_answer hasks.mbox_kept hrange hhome hmirror (hlen 4)⟩
      · obtain ⟨hform, hq, hqown⟩ := hform (by simp)
        have hexec := exec_ctxSet hc hbytes hrange hown hasks hready hform hq hqown
        rw [if_neg hused, if_neg (by simp [hidle])] at hexec
        exact ⟨_, hexec, State.ctxSet_answer hasks.mbox_kept hrange hhome hmirror (hlen 4)⟩
      · have hexec := exec_ctxClose hc hbytes hrange hown hasks
        rw [if_neg hused, if_neg (by simp [hidle])] at hexec
        exact ⟨_, hexec, State.ctxSet_answer hasks.mbox_kept hrange hhome hmirror List.length_replicate⟩
    · subst hnew
      obtain ⟨stored, hkept, hexec⟩ : ∃ stored, (s.mbox mb).drop = false ∧ exec k s = .next (if field bs 8 1 = 0 then s.answer mb .ctxState
          else if s.ctxBusy c then s.answer mb .busy else (s.ctxSet c stored).answer mb .ok) := by
        obtain ⟨rfl, hasks, hform, hqown, hready, hq⟩ | ⟨rfl, hasks⟩ := hk
        · exact ⟨_, hasks.mbox_kept, exec_ctxSet hc hbytes hrange hown hasks hready hform hq hqown⟩
        · exact ⟨_, hasks.mbox_kept, exec_ctxClose hc hbytes hrange hown hasks⟩
      refine ⟨fun hfree => ?_, fun hused hbusy => ?_⟩
      · rw [if_pos hfree] at hexec
        exact does_answer hkept hexec
      · rw [if_neg hused, if_pos hbusy] at hexec
        exact does_answer hkept hexec
  case refine_9 =>
    subst hk hq
    have hkept := hasks.mbox_kept
    refine ⟨fun hform => does_answer hkept (exec_batchClass_form hasks hz₁ hz₂ hklt hqlt halign hoff hform), fun hfill hmost hwait =>
      ⟨fun hopen => does_answer hkept (exec_batchClass_busy hasks hz₁ hz₂ hklt hqlt halign hoff hfill hmost hwait hopen),
        fun hclosed hlink hread => ⟨fun r hr => ?_, fun im him hstage3 hstage4 => ?_⟩⟩⟩
    · subst hr
      exact ⟨_, exec_batchClass_refused hasks hz₁ hz₂ hklt hqlt halign hoff hfill hmost hwait hclosed hlink hread,
        State.answer_after hkept (s.cacheLines_sameBut false n) (by simp) (by simp) (by simp) _ _⟩
    · subst him
      have hsame : SameBut [.regs, .classes] s ((s.cacheLines false n).classKept (m.arg 0 1) (m.newClass im)) :=
        ((s.cacheLines_sameBut false n).mono (by simp)).trans ((State.classKept_sameBut _ _ _).mono (by simp))
      obtain ⟨hrest, hanswered⟩ := State.answer_after (m := [.regs, .msix, .mx, .mboxes, .classes]) hkept hsame
        (by simp) (by simp) (by simp) .ok []
      refine ⟨_, exec_batchClass_kept hasks hz₁ hz₂ hklt hqlt halign hoff hfill hmost hwait hclosed hlink hread hstage3 hstage4,
        hrest, hanswered, m.newClass im, ?_⟩
      rw [State.answer_sameBut _ _ _ _ .classes (by simp), State.classKept_classes, s.cacheLines_sameBut false n .classes (by simp)]
      exact ⟨Tab.get_set_same _ _ _ _, rfl, rfl, rfl, rfl, rfl, rfl, fun y hy => Tab.get_set_ne _ _ _ hy⟩

end Sys2Proof.Proofs

/-! PROOF. The bytes that a started transfer moves when nothing is converted: one far line, or one beat (R239, R240, R244, R257, R299,
R301). -/

namespace Sys2Proof.Machine

/-! ### A descriptor of one row of n bytes (R238, R240) -/

/-- A descriptor of n bytes in one row: int8 on both sides, with nothing to scale or to cut. -/
def StreamDesc.flat (c far near rate p n : Nat) : StreamDesc :=
  { fmt := 5, dims := 1, conv := 5, c := c, far := far, near := near, rate := rate, dim := [n - 1, 0, 0, 0, 0], stride := [0, 0, 0, 0]
    npitch := p, rsv := false }

namespace StreamDesc

section
variable (c far near rate p n : Nat)

@[simp] theorem flat_sfmt : (flat c far near rate p n).sfmt = .int8 := rfl
theorem flat_ccw : (flat c far near rate p n).ccw =
    { scaleEn := false, amaxClr := false, amaxEn := false, ovfInf := false, target := 5, rsv := 0 } := by
  show CCW.of 5 = _
  decide

@[simp] theorem flat_tfmt : (flat c far near rate p n).tfmt = .int8 := by rw [tfmt, flat_ccw]; rfl
@[simp] theorem flat_scaleEn : (flat c far near rate p n).ccw.scaleEn = false := by rw [flat_ccw]
@[simp] theorem flat_amaxEn : (flat c far near rate p n).ccw.amaxEn = false := by rw [flat_ccw]
@[simp] theorem flat_amaxClr : (flat c far near rate p n).ccw.amaxClr = false := by rw [flat_ccw]
@[simp] theorem flat_far : (flat c far near rate p n).far = far := rfl
@[simp] theorem flat_near : (flat c far near rate p n).near = near := rfl

@[simp] theorem flat_farFmt (opc dir : Nat) : (flat c far near rate p n).farFmt opc dir = .int8 := by simp [farFmt]
@[simp] theorem flat_nearFmt (opc dir : Nat) : (flat c far near rate p n).nearFmt opc dir = .int8 := by simp [nearFmt]

/-- Beyond the first dimension there is one index. -/
@[simp] theorem flat_dim_succ (i : Nat) : (flat c far near rate p n).dim.getD (i + 1) 0 = 0 := by
  show [0, 0, 0, 0].getD i 0 = 0
  match i with
  | 0 | 1 | 2 | 3 => rfl
  | _ + 4 => rfl

@[simp] theorem flat_count_succ (i : Nat) : (flat c far near rate p n).count (i + 1) = 1 := by
  rw [count, flat_dim_succ]
  rfl

@[simp] theorem flat_cut_succ (i : Nat) : (flat c far near rate p n).cut (i + 1) = 0 := by
  rw [cut, flat_dim_succ]
  rfl

@[simp] theorem flat_used_succ (i : Nat) : (flat c far near rate p n).used (i + 1) = 1 := by simp [used]

@[simp] theorem flat_total : (flat c far near rate p n).total = 1 := by simp [total]
@[simp] theorem flat_rowAt : (flat c far near rate p n).rowAt 0 = (0, 0, 0, 0) := by simp [rowAt]
@[simp] theorem flat_rows : (flat c far near rate p n).rows = [(0, 0, 0, 0)] := by simp [rows, List.range_one]
@[simp] theorem flat_rowIn : (flat c far near rate p n).rowIn (0, 0, 0, 0) = true := by simp [rowIn]
@[simp] theorem flat_row : (flat c far near rate p n).row 0 0 0 0 = 0 := by simp [row]
@[simp] theorem flat_farRow : (flat c far near rate p n).farRow 0 0 0 0 = far := by simp [farRow]

variable {n} (hpos : 1 ≤ n) (hmost : n ≤ 0x10000)
include hpos hmost

theorem flat_count_zero : (flat c far near rate p n).count 0 = n := by
  show bits (n - 1) 15 0 + 1 = n
  unfold bits
  omega

omit hpos in
theorem flat_cut_zero : (flat c far near rate p n).cut 0 = 0 := by
  show bits (n - 1) 31 16 = 0
  unfold bits
  omega

theorem flat_used_zero : (flat c far near rate p n).used 0 = n := by
  rw [used, flat_count_zero c far near rate p hpos hmost, flat_cut_zero c far near rate p hmost, Nat.sub_zero]

end
end StreamDesc

/-! ### Bytes without poison -/

/-- An int8 element that is one unpoisoned byte. -/
def cleanVal (b : Byte) : PVal := { v := b.toNat, p := false }

/-- An unpoisoned byte with its tag. -/
def cleanByte (b : Byte) : Byte × Bool := (b, false)

theorem State.convertElem_clean (s : State) (g k c far near rate p n : Nat) (deliver : Bool) (b : Byte) :
    s.convertElem g k (.flat c far near rate p n) deliver (cleanVal b) = (s, cleanVal b) := by
  simp [State.convertElem, cleanVal]

theorem State.convertAll_clean (s : State) (g k c far near rate p n : Nat) (deliver : Bool) (bs : List Byte) :
    s.convertAll g k (.flat c far near rate p n) deliver (bs.map cleanVal) = (s, bs.map cleanVal) := by
  induction bs using List.reverseRecOn with
  | nil => rfl
  | append_singleton bs b ih =>
    rw [State.convertAll, List.map_append, List.foldl_append, ← State.convertAll, ih]
    simp [State.convertElem_clean]

theorem unpack_clean (bs : List Byte) : unpack .int8 bs.length (bs.map cleanByte) = bs.map cleanVal := by
  refine List.ext_getElem (by simp [unpack]) fun j hj _ => ?_
  have hlt : j < bs.length := by simpa [unpack] using hj
  simp [unpack, Fmt.width, List.take_one_drop_eq_of_lt_length, hlt, cleanByte, cleanVal, ofLe]

theorem pack_clean (bs : List Byte) : pack .int8 (bs.map cleanVal) = bs.map cleanByte := by
  rw [pack, if_neg (by decide)]
  induction bs with
  | nil => rfl
  | cons b bs ih => simp [Fmt.width, leBytes, cleanVal, cleanByte] at ih ⊢; exact ih

theorem map_fst_cleanByte (bs : List Byte) : (bs.map cleanByte).map Prod.fst = bs := by simp [Function.comp_def, cleanByte]

theorem any_snd_cleanByte (bs : List Byte) : (bs.map cleanByte).any Prod.snd = false := by simp [cleanByte]

/-! ### Clean bytes in memory -/

theorem readBytes_eq_map (t : Tab Byte) (a n : Nat) : readBytes t a n = (List.range n).map fun i => Tab.get 0 t (a + i) := by
  induction n generalizing a with
  | zero => rfl
  | succ n ih =>
    rw [readBytes, ih, List.range_succ_eq_map]
    simp [Function.comp_def, Nat.add_assoc, Nat.add_comm 1]

theorem readTags_clean_iff {t : Tab Bool} {a n : Nat} :
    (readTags t a n).any id = false ↔ ∀ y, a ≤ y → y < a + n → Tab.get false t y = false := by
  induction n generalizing a with
  | zero => simp [readTags]; omega
  | succ n ih =>
    rw [readTags, List.any_cons, Bool.or_eq_false_iff, ih]
    constructor
    · rintro ⟨hfirst, hrest⟩ y hy hlt
      obtain rfl | hne := eq_or_ne y a
      · exact hfirst
      · exact hrest y (by omega) (by omega)
    · exact fun h => ⟨h a (by omega) (by omega), fun y hy hlt => h y (by omega) (by omega)⟩

/-- Bytes read with their tags, none of them poisoned. -/
theorem zip_clean {t : Tab Byte} {u : Tab Bool} {a n : Nat} (h : (readTags u a n).any id = false) :
    (readBytes t a n).zip (readTags u a n) = (readBytes t a n).map cleanByte := by
  induction n generalizing a with
  | zero => rfl
  | succ n ih =>
    rw [readTags, List.any_cons, Bool.or_eq_false_iff] at h
    obtain ⟨hfirst, hrest⟩ := h
    rw [readBytes, readTags, List.zip_cons_cons, List.map_cons, ih hrest, cleanByte]
    exact congrArg (fun p => (_, p) :: _) hfirst

theorem State.writeTagged_clean (s : State) (a : Nat) (bs : List Byte) : s.writeTagged a (bs.map cleanByte) = s.write a bs false := by
  induction bs generalizing s a with
  | nil => rfl
  | cons b bs ih => exact ih _ _

section
variable {s : State} {g near n : Nat} (h : s.poisoned (coreAddr g near) n = false)
include h

/-- The elements of an unpoisoned near row are its bytes. -/
theorem State.coreElem_clean {j : Nat} (hj : j < n) :
    s.coreElem g .int8 near j = cleanVal (Tab.get 0 s.mem (coreAddr g near + j)) := by
  have haddr : coreAddr g near + j = coreAddr g (near + j) := by unfold coreAddr; omega
  have htag : Tab.get false s.memTag (coreAddr g near + j) = false := readTags_clean_iff.mp h _ (by omega) (by omega)
  rw [haddr] at htag ⊢
  simp [State.coreElem, State.coreVal, State.poisoned, State.read, readTags, readBytes, Fmt.width, cleanVal, ofLe, htag]

theorem State.nearElems_clean : s.nearElems g .int8 near n = (s.read (coreAddr g near) n).map cleanVal := by
  rw [State.nearElems, State.read, readBytes_eq_map, List.map_map]
  exact List.map_congr_left fun j hj => State.coreElem_clean h (List.mem_range.mp hj)

end

/-! ### The same bytes at several places -/

/-- Clean bytes stored at each of some addresses. -/
def State.writeAll (s : State) (l : List Nat) (bs : List Byte) : State := each l s fun s a => s.write a bs false

section
variable {s : State} {l : List Nat} {bs : List Byte}

theorem State.writeAll_cons (a : Nat) : s.writeAll (a :: l) bs = (s.write a bs false).writeAll l bs := rfl

theorem State.writeAll_outside {y : Nat} (h : ∀ a ∈ l, y < a ∨ a + bs.length ≤ y) : Tab.get 0 (s.writeAll l bs).mem y = Tab.get 0 s.mem y ∧
    Tab.get false (s.writeAll l bs).memTag y = Tab.get false s.memTag y := by
  refine each_induct (P := fun t => Tab.get 0 t.mem y = Tab.get 0 s.mem y ∧ Tab.get false t.memTag y = Tab.get false s.memTag y) l
    (fun t a ha ht => ?_) ⟨rfl, rfl⟩
  exact ⟨(writeBytes_outside _ _ _ _ (h a ha)).trans ht.1, (writeTags_outside _ _ _ _ _ (h a ha)).trans ht.2⟩

/-- Places that do not overlap each hold the bytes. -/
theorem State.writeAll_holds (hdisj : ∀ a ∈ l, ∀ b ∈ l, a ≠ b → a + bs.length ≤ b ∨ b + bs.length ≤ a) {a : Nat} (ha : a ∈ l) :
    (s.writeAll l bs).read a bs.length = bs ∧ (s.writeAll l bs).poisoned a bs.length = false := by
  induction l generalizing s with
  | nil => cases ha
  | cons b l ih =>
    rw [State.writeAll_cons]
    by_cases hl : a ∈ l
    · exact ih (fun x hx y hy => hdisj x (List.mem_cons_of_mem _ hx) y (List.mem_cons_of_mem _ hy)) hl
    · obtain rfl : a = b := (List.mem_cons.mp ha).resolve_right hl
      have hkept (y : Nat) (hy : a ≤ y) (hlt : y < a + bs.length) := State.writeAll_outside (s := s.write a bs false) (l := l) (bs := bs)
        (y := y) fun x hx => by
          have := hdisj x (List.mem_cons_of_mem _ hx) a List.mem_cons_self fun h => hl (h ▸ hx)
          omega
      constructor
      · exact (readBytes_congr fun y hy hlt => (hkept y hy hlt).1).trans (s.read_write_same a bs false)
      · have hwritten : (readTags (writeTags s.memTag a false bs.length) a bs.length).any id = false := by
          rw [readTags_writeTags]
          simp
        exact readTags_clean_iff.mpr fun y hy hlt => (hkept y hy hlt).2.trans (readTags_clean_iff.mp hwritten y hy hlt)

end

/-! ### One far line -/

theorem linesOf_one {fuel a n : Nat} (hpos : 1 ≤ n) (hline : a % 64 + n ≤ 64) : linesOf (fuel + 2) a n = [(a, n)] := by
  have hmin : min n (64 - a % 64) = n := by omega
  rw [linesOf, if_neg (by omega)]
  dsimp only
  rw [hmin, Nat.sub_self]
  rfl

/-- The memory that a far line reaches answers: host memory through the CXL link, a stack in service at its own frequency. -/
def State.farUp (s : State) (host : Bool) (pa : Nat) : Prop :=
  if host then s.hostUp = true else s.isFenced (placeOf pa).bay = false ∧ ∀ b off, placeOf pa = .hbm b off → (s.hbm b).phase = 0

theorem State.hbmCheck_clean (s : State) (b pc line : Nat) (bad rmw : Bool) : s.hbmCheck b pc line bad 0 rmw = (s, false) := by
  simp [State.hbmCheck]

/-- The bytes of a far place. -/
def State.farRead (s : State) (host : Bool) (pa n : Nat) : List Byte := if host then s.hread pa n else s.read pa n

section
variable {s : State} {g : Nat} {t : Transfer} {far n l e pa : Nat} (hfar : far < 2 ^ 48)
  (hleaf : tlbLeaf (s.stall g).tlb t.queue far = some (l, e))
include hfar hleaf

theorem State.lineRead_host (hup : s.hostUp = true) (hok : leafResult l e far .load = .ok true pa)
    (hclean : (readTags s.hostTag pa n).any id = false) :
    s.lineRead g t far n 0 = (s.cacheLines false, .data ((s.hread pa n).map cleanByte) true) := by
  have hva : ¬ 2 ^ 48 ≤ far := by omega
  have hbytes : (s.hread pa n).zip (readTags s.hostTag pa n) = (s.hread pa n).map cleanByte := zip_clean hclean
  have hread : (s.cacheLines false).hread pa n = s.hread pa n := by
    rw [State.hread, s.cacheLines_sameBut false 1 .host (by simp), State.hread]
  simp only [State.lineRead, if_neg hva, State.translate_cached .load hleaf, hok, hup, if_true, hclean, Bool.false_eq_true, if_false,
    hread, hbytes]

/-- A read of device memory may serve a block and count, no more. -/
theorem State.lineRead_device (hserved : s.isFenced (placeOf pa).bay = false)
    (hphase : ∀ b off, placeOf pa = .hbm b off → (s.hbm b).phase = 0) (hok : leafResult l e far .load = .ok false pa)
    (hclean : s.poisoned pa n = false) :
    ∃ y src, s.lineRead g t far n 0 = (y, .data ((s.read pa n).map cleanByte) src) ∧ SameBut [.regs, .fabs] s y := by
  have hva : ¬ 2 ^ 48 ≤ far := by omega
  have hbytes : (s.read pa n).zip (readTags s.memTag pa n) = (s.read pa n).map cleanByte := zip_clean hclean
  simp only [State.lineRead, if_neg hva, State.translate_cached .load hleaf, hok, hserved, Bool.false_eq_true, if_false]
  split
  case h_1 b off hplace =>
    rw [if_neg (by simp [hphase b off hplace])]
    simp only [State.hbmCheck_clean, Bool.false_eq_true, if_false, hbytes]
    exact ⟨s, true, rfl, fun p _ => p.same_refl s⟩
  case h_2 b off hplace =>
    have hserve : SameBut [.regs, .fabs] s (s.serveB b (off / 16384)) :=
      State.Safe.sameBut (og := none) (State.serveB_safe s b (off / 16384) rfl (.refl s))
    exact ⟨_, false, congrArg (fun bs => (s.serveB b (off / 16384), Line.data bs false)) hbytes, hserve⟩
  case h_3 =>
    rw [hbytes]
    exact ⟨s, false, rfl, fun p _ => p.same_refl s⟩

end

/-- No byte of the far place is poisoned. -/
def State.farClean (s : State) (host : Bool) (pa n : Nat) : Prop :=
  (if host then (readTags s.hostTag pa n).any id else s.poisoned pa n) = false

section
variable {s : State} {g : Nat} {t : Transfer} {far n l e pa : Nat} {host : Bool} (hfar : far < 2 ^ 48)
  (hleaf : tlbLeaf (s.stall g).tlb t.queue far = some (l, e)) (hup : s.farUp host pa)
include hfar hleaf hup

theorem State.lineRead_clean (hok : leafResult l e far .load = .ok host pa) (hclean : s.farClean host pa n) :
    ∃ y src, s.lineRead g t far n 0 = (y, .data ((s.farRead host pa n).map cleanByte) src) ∧ SameBut [.regs, .fabs] s y := by
  cases host with
  | true =>
    exact ⟨_, true, State.lineRead_host hfar hleaf hup hok hclean, (s.cacheLines_sameBut false 1).mono (by simp)⟩
  | false => exact State.lineRead_device hfar hleaf hup.1 hup.2 hok hclean

/-- A span of one clean line is loaded as it stands. -/
theorem Mv.load_clean (hpos : 1 ≤ n) (hline : far % 64 + n ≤ 64) (hok : leafResult l e far .load = .ok host pa)
    (hclean : s.farClean host pa n) (k wf : Nat) (ix : List Nat) : ∃ y, SameBut [.regs, .fabs] s y ∧
      ({ s := s, t := t } : Mv).load g k far n wf ix =
        ({ s := y, t := { t with lines := t.lines + 1 } }, (s.farRead host pa n).map cleanByte) := by
  obtain ⟨y, src, hread, hsame⟩ := State.lineRead_clean hfar hleaf hup hok hclean
  refine ⟨y, hsame, ?_⟩
  simp only [Mv.load, linesOf_one hpos hline, List.foldl_cons, List.foldl_nil, Bool.false_eq_true, if_false, List.headD_nil, hread,
    any_snd_cleanByte, Bool.false_and, List.nil_append, List.drop_nil]

end

/-! ### Near rows -/

/-- Where a load places its row: at the near address of its stall, or of every stall of MASK. -/
def Transfer.dests (t : Transfer) (g near : Nat) : List Nat :=
  if t.opc = opWload then ((List.range 64).filter fun i => bit t.mask i).map fun i => coreAddr (g / 64 * 64 + i) near
  else [coreAddr g near]

theorem Mv.near_clean {s : State} {t : Transfer} {g near : Nat} {bs : List Byte} (hrange : near + bs.length ≤ 0xE00000)
    (hidle : ∀ i < 64, (s.stall (g / 64 * 64 + i)).mrun = none) :
    ({ s := s, t := t } : Mv).near g near (bs.map cleanByte) = { s := s.writeAll (t.dests g near) bs, t := t } := by
  have htake : (bs.map cleanByte).take (0xE00000 - near) = bs.map cleanByte := List.take_of_length_le (by simp; omega)
  unfold Mv.near
  dsimp only
  rw [htake]
  split
  · next hopc =>
    have hbusy : (((List.range 64).filter fun i => bit t.mask i).filter fun i => (s.stall (g / 64 * 64 + i)).mrun.isSome) = [] := by
      refine List.filter_eq_nil_iff.mpr fun i hi => ?_
      rw [hidle i (List.mem_range.mp (List.mem_of_mem_filter hi))]
      simp
    have heach (l : List Nat) (y : State) : each l y (fun y i => y.writeTagged (coreAddr (g / 64 * 64 + i) near) (bs.map cleanByte)) =
        y.writeAll (l.map fun i => coreAddr (g / 64 * 64 + i) near) bs := by
      simp only [State.writeTagged_clean, State.writeAll, each, List.foldl_map]
    rw [hbusy, Transfer.dests, if_pos hopc]
    simp [heach]
  · next hopc =>
    rw [State.writeTagged_clean, Transfer.dests, if_neg hopc]
    rfl

theorem Transfer.dests_hold {t : Transfer} {g near a : Nat} : a ∈ t.dests g near ↔
    if t.opc = opWload then ∃ i < 64, bit t.mask i = true ∧ a = coreAddr (g / 64 * 64 + i) near else a = coreAddr g near := by
  unfold Transfer.dests
  split
  · simp only [List.mem_map, List.mem_filter, List.mem_range, and_assoc, eq_comm]
  · exact List.mem_singleton

/-- Near places of two stalls do not overlap. -/
theorem Transfer.dests_apart {t : Transfer} {g near n : Nat} (hrange : near + n ≤ 0xE00000) :
    ∀ a ∈ t.dests g near, ∀ b ∈ t.dests g near, a ≠ b → a + n ≤ b ∨ b + n ≤ a := by
  intro a ha b hb hne
  rw [Transfer.dests_hold] at ha hb
  split at ha
  · next hopc =>
    rw [if_pos hopc] at hb
    obtain ⟨i, -, -, rfl⟩ := ha
    obtain ⟨j, -, -, rfl⟩ := hb
    have hij : i ≠ j := fun h => hne (by rw [h])
    unfold coreAddr
    omega
  · next hopc =>
    rw [if_neg hopc] at hb
    exact absurd (ha.trans hb.symm) hne

/-! ### The row of a walk (R240) -/

theorem rowBytes_int8 (n : Nat) : rowBytes .int8 n = n := by simp [rowBytes, Fmt.width]

section
variable {s : State} {g k : Nat} {x : Transfer} {c far near rate p n : Nat} (hd : x.d = .flat c far near rate p n) (hpos : 1 ≤ n)
  (hmost : n ≤ 0x10000) (hline : far % 64 + n ≤ 64)
include hd hpos hmost hline

/-- Its bytes come from the near place and are written to the far line. -/
theorem Mv.storeRow_clean {y : State} (hclean : s.poisoned (coreAddr g near) n = false)
    (hwrite : s.lineWrite g x far ((s.read (coreAddr g near) n).map cleanByte) 0 = (y, none)) :
    ({ s := s, t := x } : Mv).storeRow g k (0, 0, 0, 0) = { s := y, t := { x with lines := x.lines + 1 } } := by
  have hlen : (s.read (coreAddr g near) n).length = n := readBytes_length _ _ _
  have htake : (((s.read (coreAddr g near) n).map cleanByte).drop (far - far)).take n = (s.read (coreAddr g near) n).map cleanByte := by
    rw [Nat.sub_self, List.drop_zero, List.take_of_length_le (by rw [List.length_map, hlen])]
  unfold Mv.storeRow
  simp only [hd, StreamDesc.flat_rowIn, Bool.not_true, Bool.false_eq_true, if_false, StreamDesc.flat_farFmt, StreamDesc.flat_nearFmt,
    StreamDesc.flat_farRow, Int.toNat_natCast, StreamDesc.flat_used_zero c far near rate p hpos hmost, StreamDesc.flat_row,
    StreamDesc.flat_near, Nat.zero_mul, Nat.add_zero]
  rw [State.nearElems_clean hclean, State.convertAll_clean, pack_clean]
  unfold Mv.store
  simp only [List.length_map, hlen, linesOf_one hpos hline, List.foldl_cons, List.foldl_nil, Bool.false_eq_true, if_false, htake,
    List.headD_nil, hwrite, List.drop_nil]
  rw [hd]

variable (hfar : far < 2 ^ 48) (hnear : near + n ≤ 0xE00000) {l e pa : Nat} {host : Bool}
  (hleaf : tlbLeaf (s.stall g).tlb x.queue far = some (l, e)) (hup : s.farUp host pa)
include hfar hnear hleaf hup

/-- Its bytes come from the far place and go to every near place of the transfer. -/
theorem Mv.loadRow_clean (hok : leafResult l e far .load = .ok host pa) (hclean : s.farClean host pa n)
    (hidle : ∀ i < 64, (s.stall (g / 64 * 64 + i)).mrun = none) : ∃ y, SameBut [.regs, .fabs] s y ∧
      ({ s := s, t := x } : Mv).loadRow g k (0, 0, 0, 0) =
        { s := y.writeAll (x.dests g near) (s.farRead host pa n), t := { x with lines := x.lines + 1 } } := by
  obtain ⟨y, hsame, hload⟩ := Mv.load_clean (t := x) hfar hleaf hup hpos hline hok hclean k Fmt.int8.width [0, 0, 0, 0]
  refine ⟨y, hsame, ?_⟩
  have hlen : (s.farRead host pa n).length = n := by
    unfold State.farRead
    split <;> exact readBytes_length _ _ _
  have hunpack := unpack_clean (s.farRead host pa n)
  rw [hlen] at hunpack
  have hstall (h : Nat) : y.stall h = s.stall h := State.stall_congr h (hsame .stalls (by simp))
  unfold Mv.loadRow
  simp only [hd, StreamDesc.flat_rowIn, if_true, StreamDesc.flat_farFmt, StreamDesc.flat_nearFmt, StreamDesc.flat_farRow, Int.toNat_natCast,
    StreamDesc.flat_used_zero c far near rate p hpos hmost, rowBytes_int8, hload, Bool.false_eq_true, if_false,
    StreamDesc.flat_cut_zero c far near rate p hmost, List.replicate_zero, List.append_nil, StreamDesc.flat_row, StreamDesc.flat_near,
    Nat.zero_mul, Nat.add_zero]
  rw [hunpack, State.convertAll_clean, pack_clean]
  exact Mv.near_clean (by rwa [hlen]) fun i hi => by rw [hstall, hidle i hi]

end

/-! ### Far writes (R254, R257) -/

/-- Bytes of a far place are written; the other memory stands. -/
structure State.FarWritten (s t : State) (host : Bool) (pa : Nat) (bs : List Byte) : Prop where
  rest : SameBut [.regs, .mem, .memTag, .host, .hostTag, .fabs] s t
  mem : t.mem = if host then s.mem else writeBytes s.mem pa bs
  host : t.host = if host then writeBytes s.host pa bs else s.host

theorem State.hostWrite_clean (s : State) (pa : Nat) (bs : List Byte) :
    s.hostWrite pa (bs.map cleanByte) = (s.cacheLines true).hwrite pa bs := by
  simp only [State.hostWrite, any_snd_cleanByte, map_fst_cleanByte, Bool.false_eq_true, if_false]

theorem State.hbmWrite_mem (s : State) (pa : Nat) (bs : List Byte) : (s.hbmWrite pa (bs.map cleanByte)).mem = writeBytes s.mem pa bs := by
  have hbytes : (bs.map cleanByte).map (fun b => if b.2 then 0 else b.1) = bs := by simp [cleanByte, Function.comp_def]
  exact congrArg (writeBytes s.mem pa) hbytes

theorem State.hbmStore_clean (s : State) (b off pa : Nat) (bs : List Byte) :
    s.hbmStore b off pa (bs.map cleanByte) 0 = s.hbmWrite pa (bs.map cleanByte) := by
  unfold State.hbmStore
  split
  · rfl
  · simp only [State.hbmCheck_clean, Bool.false_eq_true, if_false]

section
variable {s y : State} (pa : Nat) (bs : List Byte)

theorem State.FarWritten.of_hwrite (h : SameBut [.regs] s y) : s.FarWritten (y.hwrite pa bs) true pa bs := by
  have hwrite : SameBut [.host, .hostTag] y (y.hwrite pa bs) :=
    State.Safe.sameBut (og := none) (State.hwrite_safe y pa bs false rfl (.refl y))
  refine ⟨(h.mono (by simp)).trans (hwrite.mono (by simp)), (hwrite .mem (by simp)).trans (h .mem (by simp)), ?_⟩
  show writeBytes y.host pa bs = writeBytes s.host pa bs
  rw [show y.host = s.host from h .host (by simp)]

theorem State.FarWritten.of_write (h : SameBut [.fabs] s y) : s.FarWritten (y.write pa bs false) false pa bs := by
  have hwrite : SameBut [.mem, .memTag] y (y.write pa bs false) :=
    State.Safe.sameBut (og := none) (State.write_safe y pa bs false rfl (.refl y))
  refine ⟨(h.mono (by simp)).trans (hwrite.mono (by simp)), ?_, (hwrite .host (by simp)).trans (h .host (by simp))⟩
  show writeBytes y.mem pa bs = writeBytes s.mem pa bs
  rw [show y.mem = s.mem from h .mem (by simp)]

theorem State.FarWritten.of_hbmWrite (s : State) : s.FarWritten (s.hbmWrite pa (bs.map cleanByte)) false pa bs := by
  have hwrite : SameBut [.mem, .memTag] s (s.hbmWrite pa (bs.map cleanByte)) :=
    State.Safe.sameBut (og := none) (State.hbmWrite_safe s pa _ rfl (.refl s))
  exact ⟨hwrite.mono (by simp), s.hbmWrite_mem pa bs, hwrite .host (by simp)⟩

end

theorem State.blockIsQueue_congr {s t : State} (h : t.cfg = s.cfg) (b off : Nat) : t.blockIsQueue b off = s.blockIsQueue b off := by
  rw [State.blockIsQueue, h, State.blockIsQueue]

section
variable {s : State} {g : Nat} {t : Transfer} {far l e pa : Nat} {host : Bool} (hfar : far < 2 ^ 48)
  (hleaf : tlbLeaf (s.stall g).tlb t.queue far = some (l, e)) (hup : s.farUp host pa) (hok : leafResult l e far .store = .ok host pa)
include hfar hleaf hup hok

theorem State.lineWrite_clean (bs : List Byte) (hqueue : ∀ b off, placeOf pa = .block b off → s.blockIsQueue b off = false) :
    ∃ y, s.lineWrite g t far (bs.map cleanByte) 0 = (y, none) ∧ s.FarWritten y host pa bs := by
  have hva : ¬ 2 ^ 48 ≤ far := by omega
  simp only [State.lineWrite, if_neg hva, State.translate_cached .store hleaf, hok]
  cases host with
  | true =>
    have hup' : s.hostUp = true := hup
    simp only [hup', if_true, State.hostWrite_clean]
    exact ⟨_, rfl, .of_hwrite pa bs (s.cacheLines_sameBut true 1)⟩
  | false =>
    obtain ⟨hserved, hphase⟩ := hup
    simp only [hserved, Bool.false_eq_true, if_false]
    split
    case h_1 b off hplace =>
      rw [if_neg (by simp [hphase b off hplace]), State.hbmStore_clean]
      exact ⟨_, rfl, .of_hbmWrite pa bs s⟩
    case h_2 b off hplace =>
      have hserve : SameBut [.fabs] s (s.serveB b (off / 16384)) :=
        State.Safe.sameBut (og := none) (State.serveB_safe s b (off / 16384) rfl (.refl s))
      rw [State.blockIsQueue_congr (hserve .cfg (by simp)), hqueue b off hplace, if_neg (by simp), State.writeTagged_clean]
      exact ⟨_, rfl, .of_write pa bs hserve⟩
    case h_3 =>
      rw [State.writeTagged_clean]
      exact ⟨_, rfl, .of_write pa bs fun p _ => p.same_refl s⟩

end

/-- What a far write leaves in the two memories. -/
theorem State.far_bytes {s u : State} {host : Bool} {pa : Nat} {bs : List Byte}
    (hmem : u.mem = if host then s.mem else writeBytes s.mem pa bs) (hhost : u.host = if host then writeBytes s.host pa bs else s.host) :
    if host then u.mem = s.mem ∧ u.hread pa bs.length = bs ∧ ∀ y, y < pa ∨ pa + bs.length ≤ y → Tab.get 0 u.host y = Tab.get 0 s.host y
    else u.host = s.host ∧ u.read pa bs.length = bs ∧ ∀ y, y < pa ∨ pa + bs.length ≤ y → Tab.get 0 u.mem y = Tab.get 0 s.mem y := by
  cases host with
  | true =>
    rw [if_pos rfl] at hmem hhost ⊢
    rw [State.hread, hhost]
    exact ⟨hmem, readBytes_writeBytes _ _ _, fun y hy => writeBytes_outside _ _ _ _ hy⟩
  | false =>
    rw [if_neg (by decide)] at hmem hhost ⊢
    rw [State.read, hmem]
    exact ⟨hhost, readBytes_writeBytes _ _ _, fun y hy => writeBytes_outside _ _ _ _ hy⟩

/-! ### The row moves, and the transfer is done -/

/-- A transfer of one row once it has moved. -/
def Transfer.moved (x : Transfer) : Transfer := { x with lines := x.lines + 1, row := x.row + 1, done := true }

/-- The state y with the moved transfer back in its slot, and its line counted. -/
def State.rowDone (y : State) (g k : Nat) (x : Transfer) : State :=
  (y.count .strLines g 1 k).setEngine g k { (y.stall g).engine k with active := some x.moved }

theorem State.rowDone_sameBut (y : State) (g k : Nat) (x : Transfer) : SameBut [.regs, .stalls] y (y.rowDone g k x) :=
  State.Safe.sameBut (og := none) (State.setEngine_safe _ _ _ _ rfl (.inl rfl) (State.count_safe _ _ _ _ _ rfl (.refl y)))

theorem State.rowDone_active {y : State} {g k : Nat} (x : Transfer) (hk : k < (y.stall g).engines.length) :
    (((y.rowDone g k x).stall g).engine k).active = some x.moved := by
  rw [State.rowDone, State.setEngine, State.stall_modStall_same, Stall.engine]
  have hcount : (y.count .strLines g 1 k).stall g = y.stall g := State.stall_congr g rfl
  simp [hcount, hk]

/-- A walk without rows left. -/
theorem State.rowsLeft_moved {s : State} {g k : Nat} {x : Transfer} (h : ((s.stall g).engine k).active = some x.moved) :
    s.rowsLeft g k = 0 := by
  have hwalk : ((s.stall g).engine k).walking = none := by simp [Engine.walking, h, Transfer.moved]
  rw [State.rowsLeft, hwalk]

section
variable {s y : State} {g k : Nat} {x : Transfer} (hactive : ((s.stall g).engine k).active = some x) (hwalks : x.walks = true)
  (hstarted : x.started = true) (hdone : x.done = false)
include hactive hwalks hstarted hdone

theorem Engine.walking_started : ((s.stall g).engine k).walking = some x := by
  simp [Engine.walking, hactive, hwalks, hstarted, hdone]

variable {c far near rate p n : Nat} (hd : x.d = .flat c far near rate p n) (hrow : x.row = 0)
include hd hrow

theorem State.rowsLeft_flat : s.rowsLeft g k = 1 := by
  rw [State.rowsLeft, Engine.walking_started hactive hwalks hstarted hdone]
  dsimp only
  rw [hd, hrow, StreamDesc.flat_total]

theorem State.moveRow_flat (hmove : (if x.opc = opSst then ({ s := s, t := x } : Mv).storeRow g k (0, 0, 0, 0)
      else ({ s := s, t := x } : Mv).loadRow g k (0, 0, 0, 0)) = { s := y, t := { x with lines := x.lines + 1 } }) :
    s.moveRow g k = (y.rowDone g k x, []) := by
  unfold State.moveRow
  rw [Engine.walking_started hactive hwalks hstarted hdone]
  dsimp only
  rw [hd, hrow, StreamDesc.flat_rowAt, hmove]
  simp [Mv.commit, hactive, hd, hrow, State.rowDone, Transfer.moved]

end

/-- A completion moves the row that is left first. -/
theorem exec_streamComplete_moves {g : StallId} {k : UnitId} {s u : State} (hs : s.rowsLeft g k = 1) (hu : u.rowsLeft g k = 0)
    (hmove : (s.moveRow g k).1 = u) : exec (.streamComplete g k []) s = exec (.streamComplete g k []) u := by
  show execStreamComplete g k s [] = execStreamComplete g k u []
  simp only [execStreamComplete, hs, hu, State.moveRows, hmove]

/-- What a moved row leaves, whatever it moved: the completion goes on from there, with the transfer done. -/
theorem State.rowDone_leaves {g : StallId} {k : UnitId} {s y : State} {x : Transfer} (hk : k.val < (s.stall g).engines.length)
    (hleft : s.rowsLeft g k = 1) (hmove : s.moveRow g k = (y.rowDone g k x, [])) (hstalls : y.stalls = s.stalls) :
    exec (.streamComplete g k []) s = exec (.streamComplete g k []) (y.rowDone g k x) ∧
      ∃ z : Transfer, (((y.rowDone g k x).stall g).engine k).active = some z ∧ z.done = true ∧ z.e = x.e ∧ z.hold = x.hold := by
  have hactive := State.rowDone_active (y := y) x (by rwa [State.stall_congr g.val hstalls] : k.val < (y.stall g).engines.length)
  exact ⟨exec_streamComplete_moves hleft (State.rowsLeft_moved hactive) (congrArg Prod.fst hmove), x.moved, hactive, rfl, rfl, rfl⟩

theorem State.writeAll_sameBut (s : State) (l : List Nat) (bs : List Byte) : SameBut [.mem, .memTag] s (s.writeAll l bs) :=
  each_induct (P := fun t => SameBut [.mem, .memTag] s t) l
    (fun t a _ ht => ht.trans (State.Safe.sameBut (og := none) (State.write_safe t a bs false rfl (.refl t)))) fun p _ => p.same_refl s

/-! ### STANDBY_START (R244) -/

/-- A transfer that starts, and the state with it. -/
def Transfer.begun (x : Transfer) (since : Nat) : Transfer := { x with started := true, since := since }
def State.begun (s : State) (g k : Nat) (x : Transfer) : State :=
  s.setEngine g k { (s.stall g).engine k with active := some (x.begun (s.local (g / 64))) }

section
variable {s : State} {g k : Nat} {x : Transfer} {c far near rate p n : Nat} (hactive : ((s.stall g).engine k).active = some x)
  (hd : x.d = .flat c far near rate p n) (hport : x.portEn = false) (hstarted : x.started = false) (hrun : (s.stall g).mrun = none)
include hactive hd hport hstarted hrun

theorem State.startTransfer_walk (hopc : x.opc ≠ opFxch) : s.startTransfer g k = s.begun g k x := by
  simp [State.startTransfer, hactive, hd, hport, hstarted, hrun, hopc, Transfer.walks, State.begun, Transfer.begun]

variable (hopc : x.opc = opFxch) (hfirst : (s.stall g).chanFirst x = true)
include hopc hfirst

theorem State.startTransfer_send (hdir : x.dir = 0) : s.startTransfer g k =
    (({ s := s.begun g k x, t := x.begun (s.local (g / 64)) } : Mv).sendAll g k).commit g k (s.begun g k x) := by
  simp [State.startTransfer, hactive, hd, hport, hstarted, hrun, hopc, hfirst, hdir, Transfer.walks, State.begun, Transfer.begun]

theorem State.startTransfer_receive (hdir : x.dir = 1) : s.startTransfer g k = (s.begun g k x).pullBeats g k 0x10000 := by
  simp [State.startTransfer, hactive, hd, hport, hstarted, hrun, hopc, hfirst, hdir, Transfer.walks, State.begun, Transfer.begun]

end

/-! ### A beat that leaves (R299) -/

/-- A fold whose steps keep the first component and append to the second. -/
theorem foldl_appends {σ α β : Type} {F : σ × List β → α → σ × List β} {s : σ} (h : α → β) (l : List α) (out : List β)
    (hF : ∀ a ∈ l, ∀ out, F (s, out) a = (s, out ++ [h a])) : l.foldl F (s, out) = (s, out ++ l.map h) := by
  induction l generalizing out with
  | nil => simp
  | cons a l ih =>
    rw [List.foldl_cons, hF a List.mem_cons_self, ih _ fun b hb => hF b (List.mem_cons_of_mem _ hb)]
    simp

section
variable {t : Transfer} {c far near rate p n : Nat} (hd : t.d = .flat c far near rate p n) (hport : t.portEn = false) (hpos : 1 ≤ n)
  (hmost : n ≤ 0x10000)
include hd hport hpos hmost

theorem Transfer.places_flat : t.places = (List.range n).map fun j => (near, j, true) := by
  unfold Transfer.places
  simp only [hport, Bool.false_eq_true, if_false, hd, StreamDesc.flat_rows, List.flatMap_cons, List.flatMap_nil, List.append_nil,
    StreamDesc.flat_row, StreamDesc.flat_near, StreamDesc.flat_rowIn, StreamDesc.flat_count_zero c far near rate p hpos hmost,
    StreamDesc.flat_used_zero c far near rate p hpos hmost, Nat.zero_mul, Nat.add_zero, Bool.true_and]
  exact List.map_congr_left fun j hj => by rw [decide_eq_true (List.mem_range.mp hj)]

end

theorem elemByte_int8 (row j : Nat) : elemByte .int8 row j = row + j := by simp [elemByte, Fmt.width]

theorem inCore_int8 {near n j : Nat} (hnear : near + n ≤ 0xE00000) (hj : j < n) : inCore .int8 near j = true := by
  have hwidth : ceilDiv Fmt.int8.width 8 = 1 := rfl
  rw [inCore, decide_eq_true_eq, elemByte_int8, hwidth]
  omega

/-- The beat of an exchange of at most 64 bytes. -/
def Transfer.beat (t : Transfer) (bs : List Byte) : OBeat :=
  { chan := t.chan, kind := 0, last := true, poison := false, seq := t.seq, data := bs ++ List.replicate (64 - bs.length) 0 }

section
variable {s : State} {g k : Nat} {t : Transfer} {c far near rate p n : Nat} (hd : t.d = .flat c far near rate p n)
  (hport : t.portEn = false) (hpos : 1 ≤ n) (hbeat : n ≤ 64) (hnear : near + n ≤ 0xE00000)
  (hclean : s.poisoned (coreAddr g near) n = false)
include hd hport hpos hbeat hnear hclean

theorem Mv.sendAll_clean : ({ s := s, t := t } : Mv).sendAll g k =
    { s := s.modStall g fun st => { st with out := st.out ++ [t.beat (s.read (coreAddr g near) n)] }, t := t } := by
  have hlen : (s.read (coreAddr g near) n).length = n := readBytes_length _ _ _
  have helems : (List.range n).map (fun j => s.coreElem g .int8 near j) = (s.read (coreAddr g near) n).map cleanVal :=
    State.nearElems_clean hclean
  unfold Mv.sendAll
  dsimp only
  rw [t.places_flat hd hport hpos (by omega), hd]
  simp only [StreamDesc.flat_nearFmt, StreamDesc.flat_farFmt]
  rw [foldl_appends (fun r => s.coreElem g .int8 near r.2.1)]
  · have hcount : ceilDiv n 64 = 1 := by unfold ceilDiv; omega
    have hwhole : ((s.read (coreAddr g near) n).map cleanByte).take 64 = (s.read (coreAddr g near) n).map cleanByte :=
      List.take_of_length_le (by rw [List.length_map, hlen]; exact hbeat)
    simp only [List.nil_append, List.map_map, Function.comp_def, helems, pack_clean, List.length_map, hlen, hcount, List.range_one,
      List.map_cons, List.map_nil, Nat.mul_zero, List.drop_zero, hwhole]
    have hpoison : ((s.read (coreAddr g near) n).map cleanByte ++ List.replicate (64 - n) (0, false)).any Prod.snd = false := by
      rw [List.any_append, any_snd_cleanByte]
      simp
    have hdata : ((s.read (coreAddr g near) n).map cleanByte ++ List.replicate (64 - n) (0, false)).map
        (fun b : Byte × Bool => if b.2 then 0 else b.1) =
        s.read (coreAddr g near) n ++ List.replicate (64 - n) 0 := by
      simp [cleanByte, Function.comp_def]
    rw [hpoison, hdata, Transfer.beat, hlen]
    rfl
  · intro r hr out
    obtain ⟨j, hj, rfl⟩ := List.mem_map.mp hr
    have hj := List.mem_range.mp hj
    simp only [inCore_int8 hnear hj, if_true, State.coreElem_clean hclean hj, State.convertElem_clean]

end

theorem State.modStall_sameBut (s : State) (g : Nat) (f : Stall → Stall) : SameBut [.stalls] s (s.modStall g f) :=
  State.Safe.sameBut (og := none) (State.modStall_safe s g f rfl (.inl rfl) (.refl s))

/-- A move that is not blocked leaves its state, its transfer back in the slot, the lines counted. -/
theorem Mv.commit_sameBut {m : Mv} (hblocked : m.blocked = false) (g k : Nat) (old : State) :
    SameBut [.regs, .stalls] m.s (m.commit g k old) := by
  unfold Mv.commit
  rw [if_neg (by simp [hblocked])]
  exact State.Safe.sameBut (og := none) (State.setEngine_safe _ _ _ _ rfl (.inl rfl) (State.count_safe _ _ _ _ _ rfl (.refl m.s)))

/-- Of the stall, only the slot changes. -/
theorem Mv.commit_stall {m : Mv} (hblocked : m.blocked = false) (g k : Nat) (old : State) : (m.commit g k old).stall g =
    { m.s.stall g with engines := (m.s.stall g).engines.set k { (m.s.stall g).engine k with active := some m.t } } := by
  unfold Mv.commit
  rw [if_neg (by simp [hblocked])]
  dsimp only
  rw [State.setEngine, State.stall_modStall_same]
  exact congrArg (fun st : Stall => { st with engines := st.engines.set k { (m.s.stall g).engine k with active := some m.t } })
    (State.stall_congr g rfl)

theorem State.begun_stall (s : State) (g k : Nat) (x : Transfer) : (s.begun g k x).stall g = { s.stall g with
    engines := (s.stall g).engines.set k { (s.stall g).engine k with active := some (x.begun (s.local (g / 64))) } } := by
  rw [State.begun, State.setEngine, State.stall_modStall_same]

theorem State.begun_sameBut (s : State) (g k : Nat) (x : Transfer) : SameBut [.stalls] s (s.begun g k x) :=
  State.Safe.sameBut (og := none) (State.setEngine_safe s g k _ rfl (.inl rfl) (.refl s))

/-- An exchange that has sent its one beat, and the state that it leaves. -/
def State.sending (s : State) (g k : Nat) (x : Transfer) (bs : List Byte) : Mv :=
  { s := (s.begun g k x).modStall g fun st => { st with out := st.out ++ [x.beat bs] }, t := x.begun (s.local (g / 64)) }
def State.sent (s : State) (g k : Nat) (x : Transfer) (bs : List Byte) : State := (s.sending g k x bs).commit g k (s.begun g k x)

theorem State.sent_sameBut (s : State) (g k : Nat) (x : Transfer) (bs : List Byte) : SameBut [.regs, .stalls] s (s.sent g k x bs) := by
  have hout : SameBut [.stalls] (s.begun g k x) (s.sending g k x bs).s := by
    rw [State.sending]
    dsimp only
    exact State.modStall_sameBut _ _ _
  exact (((s.begun_sameBut g k x).trans hout).mono (by simp)).trans (Mv.commit_sameBut rfl g k _)

theorem State.sent_out (s : State) (g k : Nat) (x : Transfer) (bs : List Byte) :
    ((s.sent g k x bs).stall g).out = (s.stall g).out ++ [x.beat bs] := by
  rw [State.sent, Mv.commit_stall rfl, State.sending, State.stall_modStall_same, State.begun_stall]

section
variable {s : State} {g : StallId} {k : UnitId} {x : Transfer} {c far near rate p n : Nat}
  (hactive : ((s.stall g).engine k).active = some x) (hd : x.d = .flat c far near rate p n) (hport : x.portEn = false) (hstarted : x.started = false) (hrun : (s.stall g).mrun = none)
  (hopc : x.opc = opFxch) (hfirst : (s.stall g).chanFirst x = true) (hpos : 1 ≤ n) (hbeat : n ≤ 64) (hnear : near + n ≤ 0xE00000)
include hactive hd hport hstarted hrun hopc hfirst hpos hbeat hnear

theorem exec_standbyStart_sends (hdir : x.dir = 0) (hclean : s.poisoned (coreAddr g near) n = false) :
    exec (.standbyStart g k) s = .next (s.sent g k x (s.read (coreAddr g near) n)) := by
  have hbegun := s.begun_sameBut g k x
  have hread : (s.begun g k x).read (coreAddr g near) n = s.read (coreAddr g near) n := by
    rw [State.read, hbegun .mem (by simp), State.read]
  have hclean' : (s.begun g k x).poisoned (coreAddr g near) n = false := by
    rw [State.poisoned, hbegun .memTag (by simp)]
    exact hclean
  have hsend := Mv.sendAll_clean (s := s.begun g k x) (g := g) (k := k) (t := x.begun (s.local (g / 64))) hd hport hpos hbeat hnear hclean'
  rw [exec_standbyStart, State.startTransfer_send hactive hd hport hstarted hrun hopc hfirst hdir, hsend, hread]
  rfl

end

/-! ### The first exchange of a channel (R300) -/

/-- A transfer of a slot once the active one of engine k has started. -/
def Transfer.restarted (k since : Nat) (r : Nat × Transfer × Bool) : Nat × Transfer × Bool :=
  if r.1 = k ∧ r.2.2 = true then (r.1, r.2.1.begun since, r.2.2) else r

/-- The first issued of what is found so far and one more transfer. -/
def earlier (p : Transfer → Bool) (best : Option (Nat × Transfer × Bool)) (r : Nat × Transfer × Bool) : Option (Nat × Transfer × Bool) :=
  if p r.2.1 then
    match best with
    | some b => if r.2.1.seq < b.2.1.seq then some r else best
    | none => some r
  else best

theorem firstIssued_eq (p : Transfer → Bool) (l : List (Nat × Transfer × Bool)) : firstIssued p l = l.foldl (earlier p) none := rfl

section
variable {p : Transfer → Bool} {f : Nat × Transfer × Bool → Nat × Transfer × Bool} (hp : ∀ r, p (f r).2.1 = p r.2.1)
  (hseq : ∀ r, (f r).2.1.seq = r.2.1.seq)
include hp hseq

theorem earlier_map (best : Option (Nat × Transfer × Bool)) (r : Nat × Transfer × Bool) :
    earlier p (best.map f) (f r) = (earlier p best r).map f := by
  unfold earlier
  rw [hp]
  split
  · cases best with
    | none => rfl
    | some b =>
      simp only [Option.map_some, hseq]
      split <;> rfl
  · rfl

/-- What changes nothing by which the first transfer is found finds it again. -/
theorem firstIssued_map (l : List (Nat × Transfer × Bool)) : firstIssued p (l.map f) = (firstIssued p l).map f := by
  have hfold (best : Option (Nat × Transfer × Bool)) : (l.map f).foldl (earlier p) (best.map f) = (l.foldl (earlier p) best).map f := by
    induction l generalizing best with
    | nil => rfl
    | cons r l ih => rw [List.map_cons, List.foldl_cons, List.foldl_cons, earlier_map hp hseq, ih]
  rw [firstIssued_eq, firstIssued_eq]
  exact hfold none

end

theorem Transfer.restarted_keeps {β : Type} (f : Transfer → β) (hf : ∀ t since, f (t.begun since) = f t) (k since : Nat)
    (r : Nat × Transfer × Bool) : f (Transfer.restarted k since r).2.1 = f r.2.1 := by
  unfold Transfer.restarted
  split
  · exact hf _ _
  · rfl

/-- The transfers in the slots of one engine. -/
def Engine.listed (e : Engine) (i : Nat) : List (Nat × Transfer × Bool) :=
  (match e.active with | some t => [(i, t, true)] | none => []) ++ (match e.standby with | some t => [(i, t, false)] | none => [])

theorem Stall.transfers_eq (st : Stall) : st.transfers = (List.range 4).flatMap fun i => (st.engine i).listed i := rfl

theorem Engine.listed_restarted_ne (e : Engine) {i k : Nat} (h : i ≠ k) (since : Nat) :
    (e.listed i).map (Transfer.restarted k since) = e.listed i := by
  have hother (t : Transfer) (b : Bool) : Transfer.restarted k since (i, t, b) = (i, t, b) := if_neg fun hi => h hi.1
  obtain ⟨_ | t, _ | u⟩ := e <;> simp [Engine.listed, hother]

theorem Engine.listed_restarted_same {e : Engine} {x : Transfer} (h : e.active = some x) (k since : Nat) :
    (e.listed k).map (Transfer.restarted k since) = ({ e with active := some (x.begun since) } : Engine).listed k := by
  obtain ⟨a, _ | u⟩ := e <;> obtain rfl : a = some x := h <;> simp [Engine.listed, Transfer.restarted]

/-- A stall once the active transfer of engine k has started. -/
def Stall.begun (st : Stall) (k since : Nat) (x : Transfer) : Stall :=
  { st with engines := st.engines.set k { st.engine k with active := some (x.begun since) } }

section
variable {st : Stall} {k since : Nat} {x : Transfer} (hk : k < st.engines.length) (hactive : (st.engine k).active = some x)
include hk

theorem Stall.engine_begun : (st.begun k since x).engine k = { st.engine k with active := some (x.begun since) } := by
  simp [Stall.begun, Stall.engine, hk]

include hactive

theorem Stall.transfers_begun : (st.begun k since x).transfers = st.transfers.map (Transfer.restarted k since) := by
  rw [Stall.transfers_eq, Stall.transfers_eq, List.map_flatMap]
  refine List.flatMap_congr fun i _ => ?_
  obtain rfl | hne := eq_or_ne i k
  · rw [Stall.engine_begun hk, Engine.listed_restarted_same hactive]
  · have hengine : (st.begun k since x).engine i = st.engine i := by
      simp [Stall.begun, Stall.engine, List.getElem?_set_ne hne.symm]
    rw [hengine, Engine.listed_restarted_ne _ hne]

theorem Stall.chanFirst_begun : (st.begun k since x).chanFirst (x.begun since) = st.chanFirst x := by
  have hpick := firstIssued_map (p := fun u => u.opc == opFxch && u.chan == x.chan && u.dir == x.dir) (f := Transfer.restarted k since)
    (Transfer.restarted_keeps (fun u => u.opc == opFxch && u.chan == x.chan && u.dir == x.dir) (fun _ _ => rfl) k since)
    (Transfer.restarted_keeps Transfer.seq (fun _ _ => rfl) k since) st.transfers
  unfold Stall.chanFirst
  rw [Stall.transfers_begun hk hactive]
  show (match firstIssued (fun u => u.opc == opFxch && u.chan == x.chan && u.dir == x.dir) _ with
    | some (_, u, _) => u.seq == x.seq
    | none => true) = _
  rw [hpick]
  cases firstIssued (fun u => u.opc == opFxch && u.chan == x.chan && u.dir == x.dir) st.transfers with
  | none => rfl
  | some r => exact congrArg (· == x.seq) (Transfer.restarted_keeps Transfer.seq (fun _ _ => rfl) k since r)

end

/-! ### A beat that arrives (R299, R301) -/

/-- Bytes placed one by one from an offset of the row. -/
theorem foldl_places {F : State → (Nat × Nat × Bool) × PVal → State} {g near n : Nat}
    (hF : ∀ j < n, ∀ (s : State) (b : Byte), F s ((near, j, true), cleanVal b) = s.writeByte (coreAddr g near + j) b false)
    (bs : List Byte) :
    ∀ (i : Nat) (s : State), i + bs.length ≤ n →
      (((List.range' i bs.length).map fun j => (near, j, true)).zip (bs.map cleanVal)).foldl F s =
        s.write (coreAddr g near + i) bs false := by
  induction bs with
  | nil => exact fun _ _ _ => rfl
  | cons b bs ih =>
    intro i s hle
    rw [List.length_cons] at hle
    rw [List.length_cons, List.range'_succ, List.map_cons, List.map_cons, List.zip_cons_cons, List.foldl_cons, hF i (by omega),
      ih (i + 1) _ (by omega)]
    rfl

section
variable {s : State} {g k : Nat} {t : Transfer} {c far near rate p n : Nat} (hd : t.d = .flat c far near rate p n)
  (hport : t.portEn = false) (hpos : 1 ≤ n) (hbeat : n ≤ 64)
include hd hport hpos hbeat

theorem Transfer.beatCount_flat : t.beatCount = 1 := by
  rw [Transfer.beatCount, t.places_flat hd hport hpos (by omega), hd, StreamDesc.flat_farFmt, rowBytes_int8, List.length_map,
    List.length_range, ceilDiv]
  omega

theorem Mv.receive_clean (hnear : near + n ≤ 0xE00000) (hbeats : t.beats = 0) {b : PBeat} (hpoison : b.poison = false)
    (hlen : b.data.length = 64) : ({ s := s, t := t } : Mv).receive g k b =
      { s := s.write (coreAddr g near) (b.data.take n) false, t := { t with beats := 1, lines := t.lines + 1 } } := by
  have hes : unpack .int8 64 (b.data.map fun x => (x, false)) = b.data.map cleanVal := by
    rw [← hlen]
    exact unpack_clean b.data
  have htake : (b.data.take n).length = n := by rw [List.length_take, hlen]; omega
  have hplaces : ((List.range n).map fun j => (near, j, true)).take 64 = (List.range' 0 n).map fun j => (near, j, true) := by
    rw [List.take_of_length_le (by simpa using hbeat), List.range_eq_range']
  have hzip : ((List.range' 0 n).map fun j => (near, j, true)).zip (b.data.map cleanVal) =
      ((List.range' 0 (b.data.take n).length).map fun j => (near, j, true)).zip ((b.data.take n).map cleanVal) := by
    rw [htake, List.zip_eq_zip_take_min]
    simp only [List.length_map, List.length_range', hlen, Nat.min_eq_left hbeat, List.map_take]
    rw [List.take_of_length_le (by simp)]
  unfold Mv.receive
  dsimp only
  rw [t.places_flat hd hport hpos (by omega), hd, hbeats]
  simp only [StreamDesc.flat_nearFmt, StreamDesc.flat_farFmt, hpoison, Bool.false_eq_true, if_false]
  have hper : 64 * 8 / Fmt.int8.width = 64 := rfl
  rw [hper, Nat.zero_mul, List.drop_zero, hplaces, hes, hzip, foldl_places (g := g) (near := near) (n := n) ?_ _ _ _ (by omega)]
  · rfl
  · intro j hj y v
    have haddr : coreAddr g (elemByte .int8 near j) = coreAddr g near + j := by
      rw [elemByte_int8]
      unfold coreAddr
      omega
    have hpack : pack .int8 [cleanVal v] = [v].map cleanByte := pack_clean [v]
    simp only [inCore_int8 hnear hj, Bool.and_self, if_true, State.convertElem_clean, haddr, hpack, State.writeTagged_clean]
    rfl

end

/-- A done transfer takes no beat. -/
theorem State.pullBeats_done {s : State} {g k : Nat} {t : Transfer} (h : ((s.stall g).engine k).active = some t) (hdone : t.done = true)
    (fuel : Nat) : s.pullBeats g k fuel = s := by
  cases fuel with
  | zero => rfl
  | succ fuel =>
    unfold State.pullBeats
    rw [h]
    dsimp only
    rw [if_pos (by simp [Stall.pulls, hdone])]

/-- The state after the first waiting beat of a channel is taken, and the beat as an exchange receives it. -/
def State.beatGone (s : State) (g chan : Nat) (rest : List PBeat) : State :=
  s.modStall g fun st => { st with inBuf := Tab.set [] st.inBuf chan rest }
def State.beatMove (s : State) (g k : Nat) (t : Transfer) (b : PBeat) (rest : List PBeat) : Mv :=
  ({ s := (s.beatGone g t.chan rest).count .fabPortBeats (g / 64), t := t } : Mv).receive g k b

/-- An exchange that has all its beats. -/
def Mv.ended (m : Mv) : Mv := { m with t := { m.t with done := true } }

section
variable {s : State} {g k : Nat} {t : Transfer} {b : PBeat} {rest : List PBeat} (hactive : ((s.stall g).engine k).active = some t)
  (hpulls : (s.stall g).pulls t = true) (hneed : t.beats < t.beatCount) (hbuf : Tab.get [] (s.stall g).inBuf t.chan = b :: rest)
  (hkind : b.kind = 0)
include hactive hpulls hneed hbuf hkind

theorem State.pullBeats_last (hlast : t.beatCount ≤ (s.beatMove g k t b rest).t.beats) (fuel : Nat) : s.pullBeats g k (fuel + 1) =
    State.pullBeats ((s.beatMove g k t b rest).ended.commit g k (s.beatGone g t.chan rest)) g k fuel := by
  conv_lhs => unfold State.pullBeats
  rw [hactive]
  dsimp only
  rw [if_neg (by simp [hpulls]), if_neg (by omega), hbuf]
  dsimp only
  rw [if_neg (by simp [hkind])]
  exact congrArg (fun m : Mv => (m.commit g k (s.beatGone g t.chan rest)).pullBeats g k fuel) (if_pos hlast)

end

/-- An exchange that started and has received its one beat, and the state that it leaves. -/
def Transfer.received (t : Transfer) : Transfer := { t with beats := 1, lines := t.lines + 1, done := true }
def State.receiving (s : State) (g near : Nat) (t : Transfer) (bs : List Byte) : Mv :=
  { s := ((s.beatGone g t.chan []).count .fabPortBeats (g / 64)).write (coreAddr g near) bs false, t := t.received }
def State.received (s : State) (g k near : Nat) (t : Transfer) (bs : List Byte) : State :=
  (s.receiving g near t bs).commit g k (s.beatGone g t.chan [])

section
variable (s : State) (g k near : Nat) (t : Transfer) (bs : List Byte)

theorem State.receiving_mem : (s.receiving g near t bs).s.mem = writeBytes s.mem (coreAddr g near) bs := rfl

theorem State.received_mem : (s.received g k near t bs).mem = writeBytes s.mem (coreAddr g near) bs :=
  (Mv.commit_sameBut rfl g k _ .mem (by simp)).trans (s.receiving_mem g near t bs)

theorem State.receiving_stall : (s.receiving g near t bs).s.stall g =
    { s.stall g with inBuf := Tab.set [] (s.stall g).inBuf t.chan [] } := by
  have hstalls : (s.receiving g near t bs).s.stalls = (s.beatGone g t.chan []).stalls := rfl
  rw [State.stall_congr g hstalls, State.beatGone, State.stall_modStall_same]

theorem State.received_inBuf : Tab.get [] ((s.received g k near t bs).stall g).inBuf t.chan = [] := by
  rw [State.received, Mv.commit_stall rfl, State.receiving_stall]
  exact Tab.get_set_same [] (s.stall g).inBuf t.chan []

theorem State.received_active (hk : k < (s.stall g).engines.length) :
    (((s.received g k near t bs).stall g).engine k).active = some t.received := by
  rw [State.received, Mv.commit_stall rfl, State.receiving_stall, Stall.engine]
  simp [State.receiving, hk]

end

section
variable {s : State} {g k : Nat} {t : Transfer} {c far near rate p n : Nat} (hd : t.d = .flat c far near rate p n)
  (hport : t.portEn = false) (hpos : 1 ≤ n) (hbeat : n ≤ 64) (hnear : near + n ≤ 0xE00000) (hbeats : t.beats = 0) {b : PBeat}
  (hpoison : b.poison = false) (hlen : b.data.length = 64)
include hd hport hpos hbeat hnear hbeats hpoison hlen

theorem State.beatMove_ended : (s.beatMove g k t b []).ended = s.receiving g near t (b.data.take n) := by
  rw [State.beatMove, Mv.receive_clean hd hport hpos hbeat hnear hbeats hpoison hlen]
  rfl

/-- One beat is all that an exchange of at most 64 bytes takes. -/
theorem State.pullBeats_receives (hkind : b.kind = 0) (hk : k < (s.stall g).engines.length)
    (hactive : ((s.stall g).engine k).active = some t) (hpulls : (s.stall g).pulls t = true) (hbuf : Tab.get [] (s.stall g).inBuf t.chan = [b]) (fuel : Nat) :
    s.pullBeats g k (fuel + 1) = s.received g k near t (b.data.take n) := by
  have hcount : t.beatCount = 1 := Transfer.beatCount_flat hd hport hpos hbeat
  have hlast : t.beatCount ≤ (s.beatMove g k t b []).t.beats := by
    rw [hcount, State.beatMove, Mv.receive_clean hd hport hpos hbeat hnear hbeats hpoison hlen]
  rw [State.pullBeats_last hactive hpulls (by omega) hbuf hkind hlast,
    State.beatMove_ended hd hport hpos hbeat hnear hbeats hpoison hlen]
  exact State.pullBeats_done (State.received_active s g k near t _ hk) rfl fuel

end

section
variable {s : State} {g : StallId} {k : UnitId} {x : Transfer} {c far near rate p n : Nat}
  (hactive : ((s.stall g).engine k).active = some x) (hd : x.d = .flat c far near rate p n) (hport : x.portEn = false) (hstarted : x.started = false) (hrun : (s.stall g).mrun = none)
  (hopc : x.opc = opFxch) (hfirst : (s.stall g).chanFirst x = true) (hpos : 1 ≤ n) (hbeat : n ≤ 64) (hnear : near + n ≤ 0xE00000)
  (hk : k.val < (s.stall g).engines.length) (hdir : x.dir = 1) (hbeats : x.beats = 0) (hdone : x.done = false) {b : PBeat}
  (hbuf : Tab.get [] (s.stall g).inBuf x.chan = [b]) (hkind : b.kind = 0) (hpoison : b.poison = false) (hlen : b.data.length = 64)
include hactive hd hport hstarted hrun hopc hfirst hpos hbeat hnear hk hdir hbeats hdone hbuf hkind hpoison hlen

theorem exec_standbyStart_receives : exec (.standbyStart g k) s =
    .next ((s.begun g k x).received g k near (x.begun (s.local (g.val / 64))) (b.data.take n)) := by
  have hstall : (s.begun g k x).stall g = (s.stall g).begun k (s.local (g.val / 64)) x := s.begun_stall g k x
  have hengines : k.val < ((s.begun g k x).stall g).engines.length := by
    rw [hstall, Stall.begun, List.length_set]
    exact hk
  have hengine : (((s.begun g k x).stall g).engine k).active = some (x.begun (s.local (g.val / 64))) := by
    rw [hstall, Stall.engine_begun hk]
  have hpulls : ((s.begun g k x).stall g).pulls (x.begun (s.local (g.val / 64))) = true := by
    rw [Stall.pulls, hstall, Stall.chanFirst_begun hk hactive, hfirst]
    simp [Transfer.begun, hopc, hdir, hdone, hport]
  have hbuf' : Tab.get [] ((s.begun g k x).stall g).inBuf x.chan = [b] := by
    rw [hstall]
    exact hbuf
  rw [exec_standbyStart, State.startTransfer_receive hactive hd hport hstarted hrun hopc hfirst hdir]
  exact congrArg _ (State.pullBeats_receives (t := x.begun (s.local (g.val / 64))) hd hport hpos hbeat hnear hbeats hpoison hlen
    hkind hengines hengine hpulls hbuf' 0xFFFF)

end

end Sys2Proof.Machine

namespace Sys2Proof.Proofs
open Sys2Proof.Machine

/-- Settles O28: the descriptor has one row and converts nothing, so the row's bytes move as they are; the row is the last one, so
the transfer is done with it, and an exchange is done with one beat. -/
theorem streamsMoveTheirBytes : Obligations.StreamsMoveTheirBytes := by
  unfold Obligations.StreamsMoveTheirBytes
  intro g k s en x far near n c rate p hen hactive hport hd hpos hmost hline hfar hnear
  have hd : x.d = .flat c far near rate p n := hd
  have hengine : (s.stall g).engine k = en := by rw [Stall.engine, List.getD_eq_getElem?_getD, hen, Option.getD_some]
  obtain ⟨hk, -⟩ := List.getElem?_eq_some_iff.mp hen
  have hactive : ((s.stall g).engine k).active = some x := by rw [hengine, hactive]
  refine ⟨fun hopc hstarted hrun => ?_, fun hopc hstarted hdone hrow u host l e pa hu hleaf hup => ?_,
    fun hopc hstarted hrun hfirst => ⟨fun hdir hbeat hclean => ?_, fun b hdir hbeat hbeats hdone hbuf hkind hpoison hlen => ?_⟩⟩
  case refine_1 =>
    rw [exec_standbyStart, State.startTransfer_walk hactive hd hport hstarted hrun hopc, State.begun, hengine]
    rfl
  case refine_2 =>
    have hwalks : x.walks = true := by simp [Transfer.walks, hport, hopc]
    have hleft := State.rowsLeft_flat hactive hwalks hstarted hdone hd hrow
    refine ⟨fun hload hok hclean hidle => ?_, fun hstore hok hclean hqueue => ?_⟩
    · intro to_
      have hto (a : Nat) : to_ a ↔ a ∈ x.dests g near := by
        rw [Transfer.dests_hold]
        obtain h | h := hload
        · simp only [to_, h, if_true, show opSld ≠ opWload by decide, if_false]
        · simp only [to_, h, if_true, show opWload ≠ opSld by decide, if_false]
      obtain ⟨y, hsame, hrowmove⟩ := Mv.loadRow_clean (k := k) hd hpos hmost hline hfar hnear hleaf hup hok hclean hidle
      have hwritten := y.writeAll_sameBut (x.dests g near) (s.farRead host pa n)
      have hmove := State.moveRow_flat hactive hwalks hstarted hdone hd hrow (by
        rw [if_neg (by obtain h | h := hload <;> rw [h] <;> decide), hrowmove])
      obtain ⟨hcomplete, hz⟩ := State.rowDone_leaves hk hleft hmove ((hwritten .stalls (by simp)).trans (hsame .stalls (by simp)))
      have hlast := (y.writeAll (x.dests g near) (s.farRead host pa n)).rowDone_sameBut g k x
      obtain rfl := hu.trans (congrArg Prod.fst hmove)
      have hlen : (s.farRead host pa n).length = n := by
        unfold State.farRead
        split <;> exact readBytes_length _ _ _
      refine ⟨((hsame.mono (by simp)).trans (hwritten.mono (by simp))).trans (hlast.mono (by simp)), hcomplete, fun a ha => ?_,
        fun z hz => ?_, hz⟩
      · have hplaced := State.writeAll_holds (s := y) (bs := s.farRead host pa n)
          (by rw [hlen]; exact Transfer.dests_apart hnear) ((hto a).mp ha)
        rw [hlen] at hplaced
        rw [State.read, hlast .mem (by simp), State.poisoned, hlast .memTag (by simp)]
        exact hplaced
      · rw [hlast .mem (by simp), hlast .memTag (by simp)]
        have houtside := State.writeAll_outside (s := y) (l := x.dests g near) (bs := s.farRead host pa n) (y := z)
          (by rw [hlen]; exact fun a ha => hz a ((hto a).mpr ha))
        rwa [hsame .mem (by simp), hsame .memTag (by simp)] at houtside
    · obtain ⟨y, hwrite, hfar⟩ := State.lineWrite_clean hfar hleaf hup hok (s.read (coreAddr g near) n) hqueue
      have hmove := State.moveRow_flat hactive hwalks hstarted hdone hd hrow
        ((if_pos hstore).trans (Mv.storeRow_clean (k := k) hd hpos hmost hline hclean hwrite))
      obtain ⟨hcomplete, hz⟩ := State.rowDone_leaves hk hleft hmove (hfar.rest .stalls (by simp))
      have hlast := y.rowDone_sameBut g k x
      obtain rfl := hu.trans (congrArg Prod.fst hmove)
      have hlen : (s.read (coreAddr g near) n).length = n := readBytes_length _ _ _
      refine ⟨(hfar.rest.mono (by simp)).trans (hlast.mono (by simp)), hcomplete, ?_, hz⟩
      have hbytes := State.far_bytes ((hlast .mem (by simp)).trans hfar.mem) ((hlast .host (by simp)).trans hfar.host)
      rwa [hlen] at hbytes
  case refine_3 =>
    exact ⟨_, exec_standbyStart_sends hactive hd hport hstarted hrun hopc hfirst hpos hbeat hnear hdir hclean,
      s.sent_sameBut g k x _, by
        rw [s.sent_out g k x, Transfer.beat, State.read, readBytes_length]⟩
  case refine_4 =>
    have htake : (b.data.take n).length = n := by rw [List.length_take, hlen]; omega
    have hmem := (s.begun g k x).received_mem g k near (x.begun (s.local (g.val / 64))) (b.data.take n)
    rw [s.begun_sameBut g k x .mem (by simp)] at hmem
    have hengines : k.val < ((s.begun g k x).stall g).engines.length := by rwa [s.begun_stall g k x, List.length_set]
    refine ⟨_, exec_standbyStart_receives hactive hd hport hstarted hrun hopc hfirst hpos hbeat hnear hk hdir hbeats hdone hbuf hkind
      hpoison hlen, ?_, State.received_inBuf _ g k near _ _, fun y hy => ?_, _, State.received_active _ g k near _ _ hengines, rfl, rfl⟩
    · have hread := readBytes_writeBytes s.mem (coreAddr g near) (b.data.take n)
      rw [htake] at hread
      rw [State.read, hmem]
      exact hread
    · rw [hmem]
      exact writeBytes_outside _ _ _ _ (by rwa [htake])

end Sys2Proof.Proofs

/-! PROOF. The packet network as its endpoints use it (R342, R348, R352 to R355): the registers that its operations change, and what
they read of the state. -/

namespace Sys2Proof.Machine

/-! ### What every operation of the network keeps -/

theorem State.pushVc_induct {P : State → Prop} (hnet : ∀ (y : State) (f : Net → Net), P y → P (y.modNet f)) (r inPort cls : Nat) (x : Hop)
    {s : State} (h : P s) : P (s.pushVc r inPort cls x) := by
  unfold State.pushVc
  exact hnet _ _ h

section
variable {P : State → Prop} (hnet : ∀ (y : State) (f : Net → Net), P y → P (y.modNet f))
  (hdiscard : ∀ (y : State) (b rs reason : Nat) (f : Flit), P y → P (y.netDiscard b rs reason f))
include hnet hdiscard

theorem State.routerNack_induct (r : Nat) (f : Flit) (reason : Nat) {s : State} (h : P s) : P (s.routerNack r f reason) := by
  unfold State.routerNack
  dsimp only
  split
  · exact hdiscard _ _ _ _ _ h
  · exact State.pushVc_induct hnet _ _ _ _ (hdiscard _ _ _ _ _ h)

theorem State.enter_induct (p : Sent) {s : State} (h : P s) : P (s.enter p) := by
  have hflits (l : List Flit) (key cls link : Nat) (wp : Bool) (y : State) (hy : P y) :
      P (l.foldl (fun s f => s.pushVc key 4 cls { f := f, wp := wp, link := link }) y) := by
    induction l generalizing y with
    | nil => exact hy
    | cons f l ih => exact ih _ (State.pushVc_induct hnet _ _ _ _ hy)
  have hin : P (if endpointExists p.f.dest.toNat then
      p.flits.foldl (fun s f => s.pushVc (homeRouter p.f.src.toNat) 4 p.f.cls { f := f, wp := p.wp, link := p.link }) s
    else s.routerNack (homeRouter p.f.src.toNat) p.f 4) := by
    split
    · exact hflits _ _ _ _ _ _ h
    · exact State.routerNack_induct hnet hdiscard _ _ _ h
  unfold State.enter
  dsimp only
  split
  · exact hin
  · exact hnet _ _ hin

theorem State.pumpList_induct (left l : List Sent) {s : State} (h : P s) : P (s.pumpList left l).1 := by
  induction l generalizing s left with
  | nil => exact h
  | cons p t ih =>
    unfold State.pumpList
    dsimp only
    split
    · exact ih _ (State.enter_induct hnet hdiscard _ h)
    · exact ih _ h

theorem State.pump_induct (src : Nat) {s : State} (h : P s) : P (s.pump src) := by
  unfold State.pump
  exact hnet _ _ (State.pumpList_induct hnet hdiscard _ _ h)

theorem State.send_induct (p : Sent) {s : State} (h : P s) : P (s.send p) :=
  State.pump_induct hnet hdiscard _ (hnet _ _ h)

theorem State.respond_induct (f a : Flit) {s : State} (h : P s) : P (s.respond f a) := by
  unfold State.respond
  dsimp only
  refine State.send_induct hnet hdiscard _ ?_
  split
  · exact hnet _ _ h
  · exact h

end

/-! ### The registers of a discard -/

/-- The offsets of NOC_DISCARD and NOC_EVENT of every bay. -/
def nocOffs : List Nat :=
  (List.range 32).flatMap fun b => [(RegAt.mk .nocDiscard b 0 0).off, (RegAt.mk .nocEvent b 0 0).off]

/-- A register of a block of a bay that is not its network is none of them. -/
theorem off_not_mem_nocOffs {r : RegAt} (h : ∀ b < 32, r.off ≠ (RegAt.mk .nocDiscard b 0 0).off ∧ r.off ≠ (RegAt.mk .nocEvent b 0 0).off) :
    r.off ∉ nocOffs := by
  intro hmem
  obtain ⟨b, hb, hr⟩ := List.mem_flatMap.mp hmem
  obtain ⟨hdiscard, hevent⟩ := h b (List.mem_range.mp hb)
  simp only [List.mem_cons, List.not_mem_nil, or_false] at hr
  exact hr.elim hdiscard hevent

theorem State.netDiscard_regsBut (s : State) (b rs reason : Nat) (f : Flit) :
    RegsBut [(RegAt.mk .nocDiscard b 0 0).off, (RegAt.mk .nocEvent b 0 0).off] s (s.netDiscard b rs reason f) := by
  unfold State.netDiscard
  split
  · exact ((s.setReg_regsBut .nocDiscard b 0 _).mono (by simp)).trans ((State.raiseOnce_regsBut _ _ _ _ _ _ _ _).mono (by simp))
  · exact fun _ _ => rfl

theorem State.netDiscard_nocOffs (s : State) (b rs reason : Nat) (f : Flit) : RegsBut nocOffs s (s.netDiscard b rs reason f) := by
  by_cases hb : b < 32
  · refine (s.netDiscard_regsBut b rs reason f).mono fun x hx => ?_
    exact List.mem_flatMap.mpr ⟨b, List.mem_range.mpr hb, hx⟩
  · have hhub : s.netDiscard b rs reason f = s := if_neg (by simpa [isBay] using hb)
    rw [hhub]
    exact fun _ _ => rfl

/-- The answer of an endpoint changes no other register. -/
theorem State.respond_regsBut (s : State) (f a : Flit) : RegsBut nocOffs s (s.respond f a) :=
  State.respond_induct (P := RegsBut nocOffs s) (fun _ _ h => h)
    (fun _ _ _ _ _ h => h.trans (State.netDiscard_nocOffs _ _ _ _ _)) f a fun _ _ => rfl

theorem nocEvent_off_ne {b c : Nat} (h : b ≠ c) : (RegAt.mk .nocEvent b 0 0).off ≠ (RegAt.mk .nocEvent c 0 0).off := by
  simp only [RegAt.off, Rn.spec, Blk.base, bayWindow]
  omega

theorem nocEvent_off_ne_discard (b c : Nat) : (RegAt.mk .nocEvent b 0 0).off ≠ (RegAt.mk .nocDiscard c 0 0).off := by
  simp only [RegAt.off, Rn.spec, Blk.base, bayWindow]
  omega

/-- A discard in a bay is counted there and leaves NOC_DISCARD pending (R352, R360). -/
theorem State.netDiscard_event (s : State) {b : Nat} (rs reason : Nat) (f : Flit) (hb : b < 32) :
    bit ((s.netDiscard b rs reason f).reg .nocEvent b) 0 = true := by
  have hbay : isBay b = true := by simpa [isBay] using hb
  rw [State.netDiscard, if_pos hbay]
  exact State.raiseOnce_event _ _ _ _ _ _ _ (by decide)

theorem State.netDiscard_count (s : State) {b : Nat} (rs reason : Nat) (f : Flit) (hb : b < 32) :
    (s.netDiscard b rs reason f).reg .nocDiscard b = min (Rn.top .nocDiscard) (s.reg .nocDiscard b + 1) := by
  have hbay : isBay b = true := by simpa [isBay] using hb
  rw [State.netDiscard, if_pos hbay]
  have hcount := s.reg_count_same .nocDiscard b 1 0
  refine Eq.trans ?_ hcount
  exact State.raiseOnce_regsBut _ .nocEvent b 0 _ _ _ _ ⟨.nocDiscard, b, 0, 0⟩ (by simpa using (nocEvent_off_ne_discard b b).symm)

/-- No discard clears the pending bit of another. -/
theorem State.netDiscard_keeps_event (s : State) (b c rs reason : Nat) (f : Flit) (h : bit (s.reg .nocEvent b) 0 = true) :
    bit ((s.netDiscard c rs reason f).reg .nocEvent b) 0 = true := by
  by_cases hbc : b = c
  · subst hbc
    by_cases hb : b < 32
    · exact s.netDiscard_event rs reason f hb
    · have hhub : s.netDiscard b rs reason f = s := if_neg (by simpa [isBay] using hb)
      rwa [hhub]
  · have hkept : (s.netDiscard c rs reason f).reg .nocEvent b = s.reg .nocEvent b :=
      s.netDiscard_regsBut c rs reason f ⟨.nocEvent, b, 0, 0⟩ (by simp [nocEvent_off_ne hbc, nocEvent_off_ne_discard])
    rwa [hkept]

theorem State.respond_keeps_event (s : State) (f a : Flit) {b : Nat} (h : bit (s.reg .nocEvent b) 0 = true) :
    bit ((s.respond f a).reg .nocEvent b) 0 = true :=
  State.respond_induct (P := fun y => bit (y.reg .nocEvent b) 0 = true) (fun _ _ h => h)
    (fun _ _ _ _ _ h => State.netDiscard_keeps_event _ _ _ _ _ _ h) f a h

/-! ### Parts of the state -/

theorem State.modNet_sameBut (s : State) (f : Net → Net) : SameBut [.net] s (s.modNet f) :=
  (State.modNet_safe s f (ps := Part.mask [.net]) (og := none) rfl (.refl s)).sameBut

theorem State.netDiscard_sameBut (s : State) (b rs reason : Nat) (f : Flit) :
    SameBut [.regs, .events] s (s.netDiscard b rs reason f) :=
  (State.netDiscard_safe s b rs reason f (ps := Part.mask [.regs, .events]) (og := none) rfl (.refl s)).sameBut

theorem State.respond_sameBut (s : State) (f a : Flit) : SameBut [.regs, .events, .net] s (s.respond f a) :=
  (State.respond_safe s f a (ps := Part.mask [.regs, .events, .net]) (og := none) rfl (.refl s)).sameBut

end Sys2Proof.Machine

/-! PROOF. Lines and commands of a stack (R264, R267, R278, R280): the address mapping, the order of a command slot, and what the
command that it issues leaves. -/

namespace Sys2Proof.Machine

/-! ### The address mapping (R264) -/

theorem xor_lt_64 {x y : Nat} (hx : x < 64) (hy : y < 64) : x ^^^ y < 64 := Nat.xor_lt_two_pow (n := 6) hx hy

theorem hbmPc_lt (a : Nat) : hbmPc a < 64 := xor_lt_64 (Nat.mod_lt _ (by decide)) (Nat.mod_lt _ (by decide))

/-- A stack offset is a row of lines, a line of 64 lines within it, and a byte. -/
theorem hbmOff_fields {pc l : Nat} (hpc : pc < 64) : hbmOff pc l / 16384 = l / 256 ∧
    hbmOff pc l / 256 % 64 = pc ^^^ (l / 256 % 64) ∧ hbmOff pc l % 256 = l % 256 := by
  have hxor := xor_lt_64 hpc (Nat.mod_lt (l / 256) (show 0 < 64 by decide))
  unfold hbmOff
  dsimp only
  omega

theorem hbmOff_lt {pc l : Nat} (hpc : pc < 64) (hl : l < 0x60000000) : hbmOff pc l < 0x1800000000 := by
  obtain ⟨hrow, -, -⟩ := hbmOff_fields (l := l) hpc
  omega

theorem hbmPc_hbmOff {pc : Nat} (l : Nat) (hpc : pc < 64) : hbmPc (hbmOff pc l) = pc := by
  obtain ⟨hrow, hplace, -⟩ := hbmOff_fields (l := l) hpc
  rw [hbmPc, hplace, hrow, Nat.xor_assoc, Nat.xor_self, Nat.xor_zero]

theorem hbmL_hbmOff {pc : Nat} (l : Nat) (hpc : pc < 64) : hbmL (hbmOff pc l) = l := by
  obtain ⟨hrow, -, hbyte⟩ := hbmOff_fields (l := l) hpc
  rw [hbmL, hrow, hbyte]
  omega

theorem hbmOff_hbmPc_hbmL (a : Nat) : hbmOff (hbmPc a) (hbmL a) = a := by
  have hrow : hbmL a / 256 = a / 16384 := by
    unfold hbmL
    omega
  have hbyte : hbmL a % 256 = a % 256 := by
    unfold hbmL
    omega
  unfold hbmOff
  dsimp only
  rw [hrow, hbyte, hbmPc, Nat.xor_assoc, Nat.xor_self, Nat.xor_zero]
  omega

/-! ### The first of a list by a key -/

/-- The order of the keys of minBy. -/
def keyLe (x y : Nat × Nat × Nat) : Prop := x.1 < y.1 ∨ (x.1 = y.1 ∧ (x.2.1 < y.2.1 ∨ (x.2.1 = y.2.1 ∧ x.2.2 ≤ y.2.2)))

theorem keyLe_refl (x : Nat × Nat × Nat) : keyLe x x := .inr ⟨rfl, .inr ⟨rfl, Nat.le_refl _⟩⟩

theorem keyLe_trans {x y z : Nat × Nat × Nat} (h : keyLe x y) (g : keyLe y z) : keyLe x z := by
  unfold keyLe at *
  omega

theorem keyLe_total {x y : Nat × Nat × Nat} (h : ¬ keyLe x y) : keyLe y x := by
  unfold keyLe at *
  omega

/-- The first of a list that holds something is in the list, and no key is below its own. -/
theorem minBy_of_mem {α : Type} (k : α → Nat × Nat × Nat) {l : List α} {a : α} (h : a ∈ l) :
    ∃ b ∈ l, minBy k l = some b ∧ ∀ c ∈ l, keyLe (k b) (k c) := by
  induction l generalizing a with
  | nil => exact absurd h List.not_mem_nil
  | cons x t ih =>
    cases t with
    | nil => exact ⟨x, List.mem_cons_self, rfl, by simp [keyLe_refl]⟩
    | cons y t =>
      obtain ⟨b, hb, hmin, hle⟩ := ih List.mem_cons_self
      by_cases hx : keyLe (k x) (k b)
      · refine ⟨x, List.mem_cons_self, ?_, List.forall_mem_cons.mpr ⟨keyLe_refl _, fun c hc => keyLe_trans hx (hle c hc)⟩⟩
        rw [minBy, hmin]
        exact if_pos hx
      · refine ⟨b, List.mem_cons_of_mem _ hb, ?_, List.forall_mem_cons.mpr ⟨keyLe_total hx, hle⟩⟩
        rw [minBy, hmin]
        exact if_neg hx

/-! ### The order of a command slot (R267) -/

/-- The keys of the orders: due time and arrival; a row hit before the others, then arrival, or due time and arrival; the highest
debt. -/
def HCand.dueKey (c : HCand) : Nat × Nat × Nat := (c.due, c.seq, 0)
def drainKey (x : HCand × Bool) : Nat × Nat × Nat := (b2n (!x.2), x.1.seq, 0)
def hitKey (x : HCand × Bool) : Nat × Nat × Nat := (b2n (!x.2), x.1.due, x.1.seq)
def PChan.debtKey (p : PChan) (k : Nat) : Nat × Nat × Nat := (48 - Tab.get 0 p.debt k, k, 0)

/-- The legal requests. -/
def PChan.offered (p : PChan) (illegal : List Nat) : List HCand := p.reads illegal ++ p.writes illegal

/-- Those that are due by a time. -/
def PChan.dueBy (p : PChan) (illegal : List Nat) (time : Nat) : List HCand := (p.offered illegal).filter fun c => decide (c.due ≤ time)

/-- The idle banks whose refresh is owed and legal. -/
def PChan.owing (p : PChan) (illegal : List Nat) : List Nat :=
  (List.range 48).filter fun k => p.idle k && decide (1 ≤ Tab.get 0 p.debt k) && !illegal.contains (2 * k + 1)

section
variable (p : PChan) (illegal : List Nat) (paused : Bool) (now urgent cap : Nat) (drain : Bool)

/-- The orders of R267, each asked when those before it hold nothing. -/
theorem PChan.choose_eq : p.choose illegal paused now urgent cap drain =
    ((((((p.forcedNow illegal paused).map HCmd.forced).or
      ((minBy HCand.dueKey (p.dueBy illegal (now + urgent))).map HCand.cmd)).or
      (if drain then (minBy drainKey (p.offers cap (p.writes illegal))).map fun x => x.1.cmd else none)).or
      ((minBy hitKey (p.offers cap (p.reads illegal))).map fun x => x.1.cmd)).or
      ((minBy p.debtKey (p.owing illegal)).map HCmd.refresh)) := by
  have hdue : minBy (fun c : HCand => (c.due, c.seq, 0)) ((p.reads illegal ++ p.writes illegal).filter fun c => decide (c.due ≤ now + urgent)) =
    minBy HCand.dueKey (p.dueBy illegal (now + urgent)) := rfl
  have hdrain (l : List (HCand × Bool)) : minBy (fun (c, h) => (b2n (!h), c.seq, 0)) l = minBy drainKey l := rfl
  have hhit (l : List (HCand × Bool)) : minBy (fun (c, h) => (b2n (!h), c.due, c.seq)) l = minBy hitKey l := rfl
  unfold PChan.choose
  dsimp only
  rw [hdue, hdrain, hhit]
  cases p.forcedNow illegal paused with
  | some f => rfl
  | none =>
    cases minBy HCand.dueKey (p.dueBy illegal (now + urgent)) with
    | some c => rfl
    | none =>
      cases drain <;> cases minBy drainKey (p.offers cap (p.writes illegal)) <;> cases minBy hitKey (p.offers cap (p.reads illegal)) <;> rfl

variable {p illegal paused now urgent cap drain}

theorem PChan.choose_of_forced {f : HForced} (h : p.forcedNow illegal paused = some f) :
    p.choose illegal paused now urgent cap drain = some (.forced f) := by
  rw [PChan.choose_eq, h]
  rfl

theorem PChan.choose_of_due {c : HCand} (hforced : p.forcedNow illegal paused = none)
    (h : minBy HCand.dueKey (p.dueBy illegal (now + urgent)) = some c) :
    p.choose illegal paused now urgent cap drain = some c.cmd := by
  rw [PChan.choose_eq, hforced, h]
  rfl

/-- Without a forced command and an urgent request, outside drain mode, reads come before idle banks. -/
theorem PChan.choose_of_calm (hforced : p.forcedNow illegal paused = none)
    (hcalm : ∀ c ∈ p.reads illegal ++ p.writes illegal, now + urgent < c.due) :
    p.choose illegal paused now urgent cap false =
      ((minBy hitKey (p.offers cap (p.reads illegal))).map fun x => x.1.cmd).or ((minBy p.debtKey (p.owing illegal)).map HCmd.refresh) := by
  have hdue : p.dueBy illegal (now + urgent) = [] :=
    List.filter_eq_nil_iff.mpr fun c hc => by simpa using hcalm c hc
  rw [PChan.choose_eq, hforced, hdue]
  rfl

/-- The urgent request that is due first is served. -/
theorem PChan.choose_urgent {c : HCand} (hforced : p.forcedNow illegal paused = none) (hc : c ∈ p.reads illegal ++ p.writes illegal)
    (hdue : c.due ≤ now + urgent) : ∃ d ∈ p.reads illegal ++ p.writes illegal,
      p.choose illegal paused now urgent cap drain = some d.cmd ∧ d.due ≤ c.due ∧ (d.due = c.due → d.seq ≤ c.seq) := by
  have hmem : c ∈ p.dueBy illegal (now + urgent) := List.mem_filter.mpr ⟨hc, by simpa using hdue⟩
  obtain ⟨d, hd, hmin, hle⟩ := minBy_of_mem HCand.dueKey hmem
  have hkey := hle c hmem
  simp only [keyLe, HCand.dueKey] at hkey
  exact ⟨d, List.mem_of_mem_filter hd, PChan.choose_of_due hforced hmin, by omega, by omega⟩

/-- What is offered is a request of the list; it is offered as a row hit only when it is one. -/
theorem PChan.of_mem_offers {l : List HCand} {x : HCand × Bool} (h : x ∈ p.offers cap l) :
    x.1 ∈ l ∧ (x.2 = true → p.hit x.1.line = true) := by
  obtain ⟨c, hc, hx⟩ := List.mem_filterMap.mp h
  dsimp only at hx
  split at hx
  · split at hx
    · obtain rfl := Option.some.inj hx
      exact ⟨hc, fun hfalse => absurd hfalse Bool.false_ne_true⟩
    · exact absurd hx (Option.some_ne_none _).symm
  · obtain rfl := Option.some.inj hx
    exact ⟨hc, id⟩

/-- A request to a bank that has not had its run is offered. -/
theorem PChan.mem_offers {l : List HCand} {c : HCand} (hc : c ∈ l) (hcap : p.capped cap c.line = false) :
    (c, p.hit c.line) ∈ p.offers cap l :=
  List.mem_filterMap.mpr ⟨c, hc, by simp [hcap]⟩

/-- Of the reads, a row hit is served first. -/
theorem PChan.choose_hit {c : HCand} (hforced : p.forcedNow illegal paused = none)
    (hcalm : ∀ c ∈ p.reads illegal ++ p.writes illegal, now + urgent < c.due) (hc : c ∈ p.reads illegal)
    (hcap : p.capped cap c.line = false) (hhit : p.hit c.line = true) : ∃ d ∈ p.reads illegal,
      p.choose illegal paused now urgent cap false = some d.cmd ∧ p.hit d.line = true ∧ d.due ≤ c.due := by
  have hmem := PChan.mem_offers hc hcap
  rw [hhit] at hmem
  obtain ⟨⟨d, hit⟩, hd, hmin, hle⟩ := minBy_of_mem hitKey hmem
  have hkey := hle _ hmem
  obtain ⟨hread, hline⟩ := PChan.of_mem_offers hd
  cases hit with
  | false => simp [keyLe, hitKey, b2n] at hkey
  | true =>
    simp only [keyLe, hitKey] at hkey
    refine ⟨d, hread, ?_, hline rfl, by omega⟩
    rw [PChan.choose_of_calm hforced hcalm, hmin]
    rfl

/-- Without a read, the idle bank that owes most is refreshed. -/
theorem PChan.choose_refresh {k : Nat} (hforced : p.forcedNow illegal paused = none)
    (hcalm : ∀ c ∈ p.reads illegal ++ p.writes illegal, now + urgent < c.due) (hreads : p.reads illegal = []) (hk : k < 48)
    (hidle : p.idle k = true) (hdebt : 1 ≤ Tab.get 0 p.debt k) (hlegal : (2 * k + 1) ∉ illegal) :
    ∃ j, p.choose illegal paused now urgent cap false = some (.refresh j) ∧
      min 48 (Tab.get 0 p.debt k) ≤ min 48 (Tab.get 0 p.debt j) := by
  have hmem : k ∈ p.owing illegal := List.mem_filter.mpr ⟨List.mem_range.mpr hk, by simp [hidle, hdebt, hlegal]⟩
  obtain ⟨j, hj, hmin, hle⟩ := minBy_of_mem p.debtKey hmem
  have hkey := hle k hmem
  simp only [keyLe, PChan.debtKey] at hkey
  refine ⟨j, ?_, by omega⟩
  rw [PChan.choose_of_calm hforced hcalm, hreads, hmin]
  rfl

end

/-! ### Pseudo-channels of a controller -/

theorem State.hbm_congr {s t : State} (h : t.hbms = s.hbms) (b : Nat) : t.hbm b = s.hbm b := by
  rw [State.hbm, h, State.hbm]

theorem Hbm.pc_modPc (h : Hbm) (k i : Nat) (f : PChan → PChan) : (h.modPc k f).pc i = if i = k then f (h.pc k) else h.pc i :=
  Tab.get_set _ _ _ _ _

@[simp] theorem State.pc_modPc_same (s : State) (b pc : Nat) (f : PChan → PChan) :
    ((s.modPc b pc f).hbm b).pc pc = f ((s.hbm b).pc pc) := by
  rw [State.modPc, State.hbm_modHbm_same, Hbm.pc_modPc, if_pos rfl]

/-- The queues of a pseudo-channel: its reads and its writes. -/
def PChan.queues (p : PChan) : List HRead × List HWrite := (p.rq, p.wq)

theorem Hbm.startPause_queues (h : Hbm) (ch i : Nat) : ((h.startPause ch).pc i).queues = (h.pc i).queues := by
  have hmod (y : Hbm) (k : Nat) : ((y.modPc k PChan.pausing).pc i).queues = (y.pc i).queues := by
    rw [Hbm.pc_modPc]
    split
    · next hk => rw [hk]; rfl
    · rfl
  exact (hmod _ _).trans (hmod _ _)

theorem PChan.drainStep_queues (p : PChan) (hi lo : Nat) : (p.drainStep hi lo).queues = p.queues := by
  unfold PChan.drainStep
  repeat' split
  all_goals rfl

theorem State.drainPc_queues (s : State) (b pc : Nat) : (((s.drainPc b pc).hbm b).pc pc).queues = ((s.hbm b).pc pc).queues := by
  unfold State.drainPc
  dsimp only
  rw [State.pc_modPc_same, PChan.drainStep_queues]

/-! ### A deferred pause that starts after a command (R274) -/

theorem State.hbmResume_queues (s : State) (b i : Nat) : (((s.hbmResume b).hbm b).pc i).queues = ((s.hbm b).pc i).queues := by
  unfold State.hbmResume
  dsimp only
  split
  · rfl
  · split
    · rw [State.hbm_modHbm_same, Hbm.startPause_queues]
    · rfl

theorem State.hbmResume_of_none {s : State} {b : Nat} (h : (s.hbm b).deferred = []) : s.hbmResume b = s := by
  simp [State.hbmResume, h]

theorem State.hbmResume_sameBut (s : State) (b : Nat) : SameBut [.hbms] s (s.hbmResume b) :=
  (State.hbmResume_safe s b (ps := Part.mask [.hbms]) (og := none) rfl (.refl s)).sameBut

/-! ### Errors (R280, R281, R283) -/

/-- The events of a stack. -/
def hbmEventOffs (b : Nat) : List Nat := [(RegAt.mk .hbmEvent b 0 0).off, (RegAt.mk .bayEvent b 0 0).off]

theorem bayEvent_off_ne (b : Nat) : (RegAt.mk .hbmEvent b 0 0).off ≠ (RegAt.mk .bayEvent b 0 0).off := by
  simp only [RegAt.off, Rn.spec, Blk.base, bayWindow]
  omega

/-- An event of the stack leaves each pending bit that was set, and sets its own. -/
theorem State.raise_hbmEvent (s : State) (b num w0 w1 w2 : Nat) {k j : Nat} (hk : k < 24) (hj : j < 24)
    (h : bit (s.reg .hbmEvent b) j = true ∨ j = k) : bit ((s.raise .hbmEvent b k num w0 w1 w2).reg .hbmEvent b) j = true := by
  rw [State.reg_raise_same, bit_evAdvance _ hk hj]
  simpa using h

/-- HBM of BAY_EVENT changes no bit of the stack's own event register. -/
theorem State.raise_bayEvent_hbm (s : State) (b k num w0 w1 w2 : Nat) :
    (s.raise .bayEvent b k num w0 w1 w2).reg .hbmEvent b = s.reg .hbmEvent b :=
  State.reg_raise_ne _ _ _ _ _ _ (bayEvent_off_ne b)

section
variable (s : State) (b cause ch : Nat)

theorem State.hbmStack_regsBut : RegsBut (hbmEventOffs b) s (s.hbmStack b cause ch) := by
  unfold State.hbmStack
  split
  · exact fun _ _ => rfl
  · exact ((s.raise_regsBut _ _ _ _ _ _ _ _).mono (by simp [hbmEventOffs])).trans
      ((State.raise_regsBut _ _ _ _ _ _ _ _ _).mono (by simp [hbmEventOffs]))

theorem State.hbmStack_sameBut : SameBut [.regs, .events] s (s.hbmStack b cause ch) :=
  (State.hbmStack_safe s b cause ch (ps := Part.mask [.regs, .events]) (og := none) rfl (.refl s)).sameBut

theorem State.hbmStack_event : bit ((s.hbmStack b cause ch).reg .hbmEvent b) 2 = true := by
  unfold State.hbmStack
  split
  · assumption
  · rw [State.raise_bayEvent_hbm]
    exact s.raise_hbmEvent b _ _ _ _ (by decide) (by decide) (.inr rfl)

theorem State.hbmStack_keeps {j : Nat} (hj : j < 24) (h : bit (s.reg .hbmEvent b) j = true) :
    bit ((s.hbmStack b cause ch).reg .hbmEvent b) j = true := by
  unfold State.hbmStack
  split
  · exact h
  · rw [State.raise_bayEvent_hbm]
    exact s.raise_hbmEvent b _ _ _ _ (by decide) hj (.inl h)

end

section
variable (s : State) (b pc line : Nat) (rmw : Bool)

/-- An uncorrectable read is counted, captured and raised. -/
def State.ueNoted : State :=
  let n := hbmOff pc (line * 64) / 64
  let y := (s.count .hbmUe b).capture .hbmEvent 0 .hbmErrInfo b (2 ^ 61 + b2n rmw * 2 ^ 60 + n * 64)
  if y.pendBit .hbmEvent b 0 then y else (y.raise .hbmEvent b 0 0x1A0 b n (b2n rmw)).raise .bayEvent b 3 0x003 0x1A0 n (b2n rmw)

/-- The times of the uncorrectable reads of its channel within the last second, its own among them. -/
def State.ueRecent : List Nat :=
  let y := s.ueNoted b pc line rmw
  ((Tab.get [] (y.hbm b).ueTimes (pc / 2)).filter fun t => decide (y.local b ≤ t + 100000000)) ++ [y.local b]

def State.ueTimed : State :=
  (s.ueNoted b pc line rmw).modHbm b fun h => { h with ueTimes := Tab.set [] h.ueTimes (pc / 2) (s.ueRecent b pc line rmw) }

theorem State.hbmUeAt_eq : s.hbmUeAt b pc line rmw =
    if bits ((s.ueTimed b pc line rmw).reg .hbmErrCtl b) 4 0 < (s.ueRecent b pc line rmw).length
    then (s.ueTimed b pc line rmw).hbmStack b 2 (pc / 2) else s.ueTimed b pc line rmw := rfl

/-- Too many of them are fatal. -/
theorem State.hbmUeAt_cases : s.hbmUeAt b pc line rmw = s.ueTimed b pc line rmw ∨
    s.hbmUeAt b pc line rmw = (s.ueTimed b pc line rmw).hbmStack b 2 (pc / 2) := by
  rw [State.hbmUeAt_eq]
  split
  · exact .inr rfl
  · exact .inl rfl

/-- The registers of an uncorrectable read beside its count. -/
def hbmErrOffs (b : Nat) : List Nat := (RegAt.mk .hbmErrInfo b 0 0).off :: hbmEventOffs b

theorem State.ueNoted_regsBut : RegsBut (hbmErrOffs b) (s.count .hbmUe b) (s.ueNoted b pc line rmw) := by
  have hinfo := (s.count .hbmUe b).capture_regsBut .hbmEvent 0 .hbmErrInfo b (2 ^ 61 + b2n rmw * 2 ^ 60 + hbmOff pc (line * 64) / 64 * 64)
  unfold State.ueNoted
  dsimp only
  split
  · exact hinfo.mono (by simp [hbmErrOffs])
  · exact ((hinfo.mono (by simp [hbmErrOffs])).trans ((State.raise_regsBut _ _ _ _ _ _ _ _ _).mono (by simp [hbmErrOffs, hbmEventOffs]))).trans
      ((State.raise_regsBut _ _ _ _ _ _ _ _ _).mono (by simp [hbmErrOffs, hbmEventOffs]))

theorem State.ueNoted_event : bit ((s.ueNoted b pc line rmw).reg .hbmEvent b) 0 = true := by
  unfold State.ueNoted
  dsimp only
  split
  · assumption
  · rw [State.raise_bayEvent_hbm]
    exact State.raise_hbmEvent _ b _ _ _ _ (by decide) (by decide) (.inr rfl)

theorem State.ueNoted_hbms : (s.ueNoted b pc line rmw).hbms = s.hbms := by
  unfold State.ueNoted
  dsimp only
  split <;> simp

theorem State.hbmUeAt_regsBut : RegsBut (hbmErrOffs b) (s.count .hbmUe b) (s.hbmUeAt b pc line rmw) := by
  have htimed : RegsBut (hbmErrOffs b) (s.count .hbmUe b) (s.ueTimed b pc line rmw) := s.ueNoted_regsBut b pc line rmw
  obtain h | h := s.hbmUeAt_cases b pc line rmw
  · rwa [h]
  · rw [h]
    exact htimed.trans ((State.hbmStack_regsBut _ _ _ _).mono fun x hx => List.mem_cons_of_mem _ hx)

theorem State.hbmUeAt_event : bit ((s.hbmUeAt b pc line rmw).reg .hbmEvent b) 0 = true := by
  have htimed : bit ((s.ueTimed b pc line rmw).reg .hbmEvent b) 0 = true := s.ueNoted_event b pc line rmw
  obtain h | h := s.hbmUeAt_cases b pc line rmw
  · rwa [h]
  · rw [h]
    exact State.hbmStack_keeps _ _ _ _ (by decide) htimed

theorem State.hbmUeAt_pc (i : Nat) : ((s.hbmUeAt b pc line rmw).hbm b).pc i = (s.hbm b).pc i := by
  have htimed : ((s.ueTimed b pc line rmw).hbm b).pc i = (s.hbm b).pc i := by
    rw [State.ueTimed, State.hbm_modHbm_same, State.hbm_congr (s.ueNoted_hbms b pc line rmw) b]
    rfl
  obtain h | h := s.hbmUeAt_cases b pc line rmw
  · rwa [h]
  · rw [h, State.hbm_congr (State.hbmStack_sameBut _ _ _ _ .hbms (by simp)) b, htimed]

end

/-! ### The check bits of a line that is read (R278 to R280) -/

section
variable (s : State) (b pc line : Nat) (bad : Bool) (symErrs : Nat) (rmw : Bool)

theorem State.hbmCheck_ue : (s.hbmCheck b pc line bad symErrs rmw).2 = decide (2 ≤ symErrs) := by
  unfold State.hbmCheck
  split
  · simp [*]
  · split <;> simp [*]

theorem State.hbmCheck_pc (i : Nat) : ((s.hbmCheck b pc line bad symErrs rmw).1.hbm b).pc i = (s.hbm b).pc i := by
  unfold State.hbmCheck
  split
  · exact s.hbmUeAt_pc b pc line rmw i
  · split <;> rfl

/-- What the errors of a line leave in the registers of the stack. -/
structure State.Checked (s : State) (b symErrs : Nat) (bad : Bool) (t : State) : Prop where
  ue : t.reg .hbmUe b = if 2 ≤ symErrs then min (Rn.top .hbmUe) (s.reg .hbmUe b + 1) else s.reg .hbmUe b
  event : 2 ≤ symErrs → bit (t.reg .hbmEvent b) 0 = true
  ce : t.reg .hbmCe b = if symErrs = 1 ∧ bad = false then min (Rn.top .hbmCe) (s.reg .hbmCe b + 1) else s.reg .hbmCe b

/-- The offsets of two registers of the stack of a bay, or of its event registers, are equal only for one register. -/
theorem hbmUe_off_not_mem (b : Nat) : (RegAt.mk .hbmUe b 0 0).off ∉ hbmErrOffs b := by
  simp only [hbmErrOffs, hbmEventOffs, List.mem_cons, List.not_mem_nil, or_false, not_or, RegAt.off, Rn.spec, Blk.base, bayWindow]
  omega

theorem hbmCe_off_not_mem (b : Nat) : (RegAt.mk .hbmCe b 0 0).off ∉ (RegAt.mk .hbmUe b 0 0).off :: hbmErrOffs b := by
  simp only [hbmErrOffs, hbmEventOffs, List.mem_cons, List.not_mem_nil, or_false, not_or, RegAt.off, Rn.spec, Blk.base, bayWindow]
  omega

theorem State.hbmCheck_checked : s.Checked b symErrs bad (s.hbmCheck b pc line bad symErrs rmw).1 := by
  unfold State.hbmCheck
  split
  · next hue =>
    have hregs := s.hbmUeAt_regsBut b pc line rmw
    have hall : RegsBut ((RegAt.mk .hbmUe b 0 0).off :: hbmErrOffs b) s (s.hbmUeAt b pc line rmw) :=
      ((s.setReg_regsBut .hbmUe b 0 _).mono (by simp)).trans (hregs.mono fun x hx => List.mem_cons_of_mem _ hx)
    refine ⟨?_, fun _ => s.hbmUeAt_event b pc line rmw, ?_⟩
    · rw [if_pos hue, ← s.reg_count_same]
      exact hregs _ (hbmUe_off_not_mem b)
    · rw [if_neg (by omega)]
      exact hall _ (hbmCe_off_not_mem b)
  · next hue =>
    have hce : (RegAt.mk .hbmUe b 0 0).off ≠ (RegAt.mk .hbmCe b 0 0).off := by
      simp only [RegAt.off, Rn.spec]
      omega
    split
    · next hone => exact ⟨by rw [if_neg hue]; exact s.reg_setReg_ne _ hce, fun h => absurd h hue, by rw [if_pos hone]; exact s.reg_count_same _ _ _ _⟩
    · next hone => exact ⟨by rw [if_neg hue], fun h => absurd h hue, by rw [if_neg hone]⟩

end

/-- A register that neither side changes does not matter to the errors of a line. -/
theorem State.Checked.congr {s s' t t' : State} {b symErrs : Nat} {bad : Bool} (h : s'.Checked b symErrs bad t') {l m : List Nat}
    (hs : RegsBut l s s') (ht : RegsBut m t' t)
    (hl : ∀ r ∈ [Rn.hbmUe, .hbmCe], (RegAt.mk r b 0 0).off ∉ l)
    (hm : ∀ r ∈ [Rn.hbmUe, .hbmCe, .hbmEvent], (RegAt.mk r b 0 0).off ∉ m) : s.Checked b symErrs bad t := by
  have hbefore (r : Rn) (hr : r ∈ [Rn.hbmUe, .hbmCe]) : s'.reg r b = s.reg r b := hs ⟨r, b, 0, 0⟩ (hl r hr)
  have hafter (r : Rn) (hr : r ∈ [Rn.hbmUe, .hbmCe, .hbmEvent]) : t.reg r b = t'.reg r b := ht ⟨r, b, 0, 0⟩ (hm r hr)
  obtain ⟨hue, hevent, hce⟩ := h
  refine ⟨?_, fun h => ?_, ?_⟩
  · rw [hafter _ (by simp), hue, hbefore _ (by simp)]
  · rw [hafter _ (by simp), hevent h]
  · rw [hafter _ (by simp), hce, hbefore _ (by simp)]

/-- The network has no register of a stack. -/
theorem hbm_off_not_mem_nocOffs {r : Rn} (hr : r ∈ [Rn.hbmUe, .hbmCe, .hbmEvent]) (b : Nat) :
    (RegAt.mk r b 0 0).off ∉ nocOffs := by
  refine off_not_mem_nocOffs fun c _ => ?_
  simp only [List.mem_cons, List.not_mem_nil, or_false] at hr
  obtain rfl | rfl | rfl := hr <;> simp only [RegAt.off, Rn.spec, Blk.base, bayWindow] <;> omega

/-! ### A request that is served -/

section
variable (s : State) (b : Nat)

theorem State.hbmLate_regsBut (due : Nat) : RegsBut [(RegAt.mk .hbmLate b 0 0).off] s (s.hbmLate b due) := by
  unfold State.hbmLate
  split
  · exact s.setReg_regsBut _ _ _ _
  · exact fun _ _ => rfl

theorem State.hbmLate_hbms (due : Nat) : (s.hbmLate b due).hbms = s.hbms := by
  unfold State.hbmLate
  split <;> simp

theorem State.hbmAnswer_hbms (r : HRead) (bad : Bool) : (s.hbmAnswer r bad).hbms = s.hbms := by
  unfold State.hbmAnswer
  dsimp only
  split
  · exact State.respond_sameBut _ _ _ .hbms (by simp)
  · rfl

theorem State.hbmAnswer_regsBut (r : HRead) (bad : Bool) : RegsBut nocOffs s (s.hbmAnswer r bad) := by
  unfold State.hbmAnswer
  dsimp only
  split
  · exact s.respond_regsBut _ _
  · exact fun _ _ => rfl

theorem State.hbmAnswer_said {r : HRead} (bad : Bool) (h : r.ask = none) :
    (s.hbmAnswer r bad).said = some (.line r.hpa (if bad then List.replicate 64 0 else r.data) bad) := by
  simp only [State.hbmAnswer, h]

end

section
variable (s : State) (b pc cap symErrs : Nat) (r : HRead) (w : HWrite)

/-- A read that is served leaves its queue; one after its due time is counted. -/
def State.readServed : State :=
  (s.hbmLate b r.due).modPc b pc fun p => { p.served cap r.line with rq := p.rq.filter fun x => x.seq != r.seq }

theorem State.hbmDo_read : s.hbmDo b pc cap symErrs (.read r) =
    (((s.readServed b pc cap r).hbmCheck b pc r.line r.bad symErrs false).1.drainPc b pc).hbmAnswer r (decide (2 ≤ symErrs) || r.bad) := by
  rw [← State.hbmCheck_ue (s.readServed b pc cap r) b pc r.line r.bad symErrs false]
  rfl

/-- A write likewise. -/
def State.writeServed : State :=
  (s.hbmLate b w.due).modPc b pc fun p => { p.served cap w.line with wq := p.wq.filter fun x => x.seq != w.seq }

theorem State.hbmDo_write : s.hbmDo b pc cap symErrs (.write w) =
    if w.mask = 2 ^ 64 - 1 then (s.writeServed b pc cap w).drainPc b pc
    else if 2 ≤ symErrs then (((s.writeServed b pc cap w).hbmCheck b pc w.line w.old symErrs true).1.hbmRmwLost b pc w).drainPc b pc
    else ((s.writeServed b pc cap w).hbmCheck b pc w.line w.old symErrs true).1.drainPc b pc := by
  have hue := State.hbmCheck_ue (s.writeServed b pc cap w) b pc w.line w.old symErrs true
  by_cases hmask : w.mask = 2 ^ 64 - 1
  · rw [if_pos hmask]
    unfold State.hbmDo
    dsimp only
    rw [if_pos hmask]
    rfl
  · rw [if_neg hmask]
    unfold State.hbmDo
    dsimp only
    rw [if_neg hmask]
    show (if ((s.writeServed b pc cap w).hbmCheck b pc w.line w.old symErrs true).2 then _ else _ : State).drainPc b pc = _
    rw [hue]
    by_cases hbad : 2 ≤ symErrs
    · rw [if_pos hbad, if_pos (decide_eq_true hbad)]
      rfl
    · rw [if_neg hbad, if_neg (by simpa using hbad)]
      rfl

theorem State.readServed_queues : (((s.readServed b pc cap r).hbm b).pc pc).queues =
    (((s.hbm b).pc pc).rq.filter (fun x => x.seq != r.seq), ((s.hbm b).pc pc).wq) := by
  rw [State.readServed, State.pc_modPc_same, State.hbm_congr (s.hbmLate_hbms b r.due)]
  rfl

theorem State.writeServed_queues : (((s.writeServed b pc cap w).hbm b).pc pc).queues =
    (((s.hbm b).pc pc).rq, ((s.hbm b).pc pc).wq.filter (fun x => x.seq != w.seq)) := by
  rw [State.writeServed, State.pc_modPc_same, State.hbm_congr (s.hbmLate_hbms b w.due)]
  rfl

theorem State.hbmDo_read_queues : (((s.hbmDo b pc cap symErrs (.read r)).hbm b).pc pc).queues =
    (((s.hbm b).pc pc).rq.filter (fun x => x.seq != r.seq), ((s.hbm b).pc pc).wq) := by
  rw [State.hbmDo_read, State.hbm_congr (State.hbmAnswer_hbms _ _ _), State.drainPc_queues, State.hbmCheck_pc, State.readServed_queues]

/-- A read makes the errors of its line, and no other change of the registers that tell of errors. -/
theorem State.hbmDo_read_checked : s.Checked b symErrs r.bad (s.hbmDo b pc cap symErrs (.read r)) := by
  have hlate : RegsBut [(RegAt.mk .hbmLate b 0 0).off] s (s.readServed b pc cap r) := s.hbmLate_regsBut b r.due
  rw [State.hbmDo_read]
  refine (State.hbmCheck_checked _ b pc r.line r.bad symErrs false).congr hlate (State.hbmAnswer_regsBut _ _ _) (fun q hq => ?_)
    fun q hq => hbm_off_not_mem_nocOffs hq b
  fin_cases hq <;> simp [RegAt.off, Rn.spec]

/-- Memory and its tags stand while a read is served. -/
theorem State.hbmDo_read_sameBut : SameBut [.regs, .events, .net, .hbms, .said] s (s.hbmDo b pc cap symErrs (.read r)) := by
  rw [State.hbmDo_read]
  refine State.Safe.sameBut (og := none) (State.hbmAnswer_safe _ _ _ rfl (State.drainPc_safe _ _ _ rfl
    (State.hbmCheck_safe _ _ _ _ _ _ _ rfl (State.modPc_safe _ _ _ _ rfl (State.hbmLate_safe _ _ _ rfl (.refl s))))))

theorem State.hbmDo_read_said (h : r.ask = none) : (s.hbmDo b pc cap symErrs (.read r)).said =
    some (.line r.hpa (if symErrs < 2 ∧ r.bad = false then r.data else List.replicate 64 0) (decide (2 ≤ symErrs) || r.bad)) := by
  have hbad : (decide (2 ≤ symErrs) || r.bad) = true ↔ ¬ (symErrs < 2 ∧ r.bad = false) := by
    cases r.bad <;> simp [Nat.succ_le_iff]
  rw [State.hbmDo_read, State.hbmAnswer_said _ _ h]
  simp only [hbad, ite_not]

/-! ### A write that drains -/

/-- The numbers of the requests in the queues. -/
def PChan.seqNos (p : PChan) : List Nat × List Nat := (p.rq.map HRead.seq, p.wq.map HWrite.seq)

theorem PChan.seqNos_of_queues {p q : PChan} (h : p.queues = q.queues) : p.seqNos = q.seqNos :=
  congrArg (fun x : List HRead × List HWrite => (x.1.map HRead.seq, x.2.map HWrite.seq)) h

/-- A read half that was uncorrectable poisons lines, and no request leaves its queue. -/
theorem State.hbmRmwLost_seqNos : (((s.hbmRmwLost b pc w).hbm b).pc pc).seqNos = ((s.hbm b).pc pc).seqNos := by
  have hread (l : List HRead) (f : HRead → HRead) (hf : ∀ x, (f x).seq = x.seq) : (l.map f).map HRead.seq = l.map HRead.seq := by
    simp [hf]
  have hwrite (l : List HWrite) (f : HWrite → HWrite) (hf : ∀ x, (f x).seq = x.seq) : (l.map f).map HWrite.seq = l.map HWrite.seq := by
    simp [hf]
  unfold State.hbmRmwLost
  dsimp only
  rw [State.pc_modPc_same]
  refine Prod.ext (hread _ _ fun x => ?_) (hwrite _ _ fun x => ?_)
  · split <;> rfl
  · split <;> rfl

theorem State.hbmDo_write_seqNos : (((s.hbmDo b pc cap symErrs (.write w)).hbm b).pc pc).seqNos =
    (((s.hbm b).pc pc).rq.map HRead.seq, (((s.hbm b).pc pc).wq.filter fun x => x.seq != w.seq).map HWrite.seq) := by
  have hserved : (((s.writeServed b pc cap w).hbm b).pc pc).seqNos =
      (((s.hbm b).pc pc).rq.map HRead.seq, (((s.hbm b).pc pc).wq.filter fun x => x.seq != w.seq).map HWrite.seq) :=
    congrArg (fun x : List HRead × List HWrite => (x.1.map HRead.seq, x.2.map HWrite.seq)) (s.writeServed_queues b pc cap w)
  rw [State.hbmDo_write]
  split
  · rw [PChan.seqNos_of_queues (State.drainPc_queues _ _ _), hserved]
  · split
    · rw [PChan.seqNos_of_queues (State.drainPc_queues _ _ _), State.hbmRmwLost_seqNos, State.hbmCheck_pc, hserved]
    · rw [PChan.seqNos_of_queues (State.drainPc_queues _ _ _), State.hbmCheck_pc, hserved]

/-- A write that is whole, or whose line was read well, changes no byte when it drains, and its queue by itself alone. -/
theorem State.hbmDo_write_clean (h : w.mask = 2 ^ 64 - 1 ∨ symErrs < 2) :
    SameBut [.regs, .events, .hbms] s (s.hbmDo b pc cap symErrs (.write w)) ∧
    (((s.hbmDo b pc cap symErrs (.write w)).hbm b).pc pc).queues =
      (((s.hbm b).pc pc).rq, ((s.hbm b).pc pc).wq.filter (fun x => x.seq != w.seq)) := by
  have hserved : s.Safe (Part.mask [.regs, .events, .hbms]) none (s.writeServed b pc cap w) :=
    State.modPc_safe _ _ _ _ rfl (State.hbmLate_safe _ _ _ rfl (.refl s))
  rw [State.hbmDo_write]
  by_cases hmask : w.mask = 2 ^ 64 - 1
  · rw [if_pos hmask]
    exact ⟨State.Safe.sameBut (State.drainPc_safe _ _ _ rfl hserved), by rw [State.drainPc_queues, State.writeServed_queues]⟩
  · rw [if_neg hmask, if_neg (by omega)]
    exact ⟨State.Safe.sameBut (State.drainPc_safe _ _ _ rfl (State.hbmCheck_safe _ _ _ _ _ _ _ rfl hserved)), by
      rw [State.drainPc_queues, State.hbmCheck_pc, State.writeServed_queues]⟩

end

/-! ### A bank that is refreshed -/

theorem PChan.refreshed_leaves (p : PChan) (k : Nat) : Tab.get 0 (p.refreshed k).debt k = Tab.get 0 p.debt k - 1 ∧
    Tab.get 0 (p.refreshed k).rows k = 0 ∧ (∀ j, j ≠ k → Tab.get 0 (p.refreshed k).debt j = Tab.get 0 p.debt j) ∧
    (p.refreshed k).rq = p.rq ∧ (p.refreshed k).wq = p.wq :=
  ⟨Tab.get_upd_same 0 p.debt k (· - 1), Tab.get_set_same 0 p.rows k 0, fun _ hj => Tab.get_upd_ne 0 p.debt (· - 1) hj, rfl, rfl⟩

/-! ### COMMAND_SLOT -/

section
variable {b : BayId} {pc : Fin 64} {illegal : List Nat} {symErrs odecc : Nat} {s : State}

/-- The command of a slot that the registers of the bay call for. -/
def State.hbmChoice (s : State) (b : BayId) (pc : Fin 64) (illegal : List Nat) : Option HCmd :=
  ((s.hbm b).pc pc).choose illegal (s.hbm b).training.isSome (s.local b) (bits (s.reg .hbmSched b) 14 12) (bits (s.reg .hbmSched b) 19 15)
    (((s.hbm b).pc pc).drain || (s.hbm b).phase == 1)

/-- The slots of a pseudo-channel are its own: its controller is ready and in service, and its channel is not in training. -/
structure State.SlotOpen (s : State) (b : BayId) (pc : Fin 64) : Prop where
  ready : (s.hbm b).ready = true
  up : s.isFenced b = false
  phase : (s.hbm b).phase < 2
  trained : (s.hbm b).training ≠ some (pc.val / 2)

theorem State.SlotOpen.not_closed (h : s.SlotOpen b pc) :
    ¬ ((!(s.hbm b).ready || s.isFenced b || decide (2 ≤ (s.hbm b).phase) || (s.hbm b).training == some (pc.val / 2)) = true) := by
  have hphase := h.phase
  simp [h.ready, h.up, h.trained]
  omega

/-- The state in which a slot issues: the corrections of the on-die ECC are counted. -/
theorem exec_commandSlot_issues (hopen : s.SlotOpen b pc) {c : HCmd} (h : s.hbmChoice b pc illegal = some c) :
    exec (.commandSlot b pc illegal symErrs odecc) s =
      .next (((s.count .hbmOdecc b odecc).hbmDo b pc (bits (s.reg .hbmSched b) 19 15) symErrs c).hbmResume b) := by
  have hexec : exec (.commandSlot b pc illegal symErrs odecc) s = execCommandSlot b pc illegal symErrs odecc s := rfl
  have hlocal : (s.count .hbmOdecc b odecc).local b = s.local b := rfl
  rw [State.hbmChoice] at h
  rw [hexec, execCommandSlot]
  dsimp only
  rw [if_neg hopen.not_closed, hlocal, h]

theorem exec_commandSlot_idle (hopen : s.SlotOpen b pc) (h : s.hbmChoice b pc illegal = none) :
    exec (.commandSlot b pc illegal symErrs odecc) s = .next ((s.count .hbmOdecc b odecc).hbmResume b) := by
  have hexec : exec (.commandSlot b pc illegal symErrs odecc) s = execCommandSlot b pc illegal symErrs odecc s := rfl
  have hlocal : (s.count .hbmOdecc b odecc).local b = s.local b := rfl
  rw [State.hbmChoice] at h
  rw [hexec, execCommandSlot]
  dsimp only
  rw [if_neg hopen.not_closed, hlocal, h]

end

end Sys2Proof.Machine

namespace Sys2Proof.Proofs

open Sys2Proof.Machine

/-- Settles O39: the mapping has an inverse, the orders of a slot are asked one after another, and each command changes its queue, its
bank and the counts of its errors. -/
theorem hbmCommandsFollowTheOrder : Obligations.HbmCommandsFollowTheOrder := by
  unfold Obligations.HbmCommandsFollowTheOrder
  refine ⟨fun a ha => ⟨hbmOff_hbmPc_hbmL a, hbmPc_lt a, by unfold hbmL; omega⟩,
    fun pc l hpc hl => ⟨hbmOff_lt hpc hl, hbmPc_hbmOff l hpc, hbmL_hbmOff l hpc⟩,
    fun p illegal paused drain now urgent cap => ⟨fun f => PChan.choose_of_forced, fun hforced c => PChan.choose_urgent hforced, ?calm⟩,
    fun b pc illegal symErrs odecc s h p hh hp hready hup hphase htrained => ?slot⟩
  case calm =>
    intro hforced hcalm hdrain
    subst hdrain
    exact ⟨fun c => PChan.choose_hit hforced hcalm, fun hreads k => PChan.choose_refresh hforced hcalm hreads⟩
  case slot =>
    subst hp hh
    have hopen : s.SlotOpen b pc := ⟨hready, hup, hphase, htrained⟩
    refine ⟨fun r hr => ⟨_, exec_commandSlot_issues hopen hr, ?read⟩, fun w hw => ⟨_, exec_commandSlot_issues hopen hw, ?write⟩,
      fun k hk hdeferred => ⟨_, exec_commandSlot_issues hopen hk, ?refresh⟩,
      fun hnone hdeferred => ⟨_, exec_commandSlot_idle hopen hnone, ?idle⟩⟩
    case read =>
      have hcounted : SameBut [.regs] s (s.count .hbmOdecc b odecc) := s.setReg_sameBut _ _ _ _
      have hdo := State.hbmDo_read_sameBut (s.count .hbmOdecc b odecc) b pc (bits (s.reg .hbmSched b) 19 15) symErrs r
      have hqueues := State.hbmDo_read_queues (s.count .hbmOdecc b odecc) b pc (bits (s.reg .hbmSched b) 19 15) symErrs r
      have hchecked := State.hbmDo_read_checked (s.count .hbmOdecc b odecc) b pc (bits (s.reg .hbmSched b) 19 15) symErrs r
      have hsaid := State.hbmDo_read_said (s.count .hbmOdecc b odecc) b pc (bits (s.reg .hbmSched b) 19 15) symErrs r
      generalize (s.count .hbmOdecc b odecc).hbmDo b pc (bits (s.reg .hbmSched b) 19 15) symErrs (.read r) = y at *
      have hresume := y.hbmResume_sameBut b
      rw [← State.hbmResume_queues] at hqueues
      have herrors : s.Checked b symErrs r.bad (y.hbmResume b) := hchecked.congr (s.setReg_regsBut .hbmOdecc b 0 _)
        (m := []) (fun q _ => State.regAt_congr (hresume .regs (by simp)) q) (by simp [RegAt.off, Rn.spec]) (by simp)
      exact ⟨(hresume .mem (by simp)).trans ((hdo .mem (by simp)).trans (hcounted .mem (by simp))),
        (hresume .memTag (by simp)).trans ((hdo .memTag (by simp)).trans (hcounted .memTag (by simp))),
        congrArg Prod.fst hqueues, congrArg Prod.snd hqueues, fun hask => (hresume .said (by simp)).trans (hsaid hask),
        herrors.ue, herrors.event, herrors.ce⟩
    case write =>
      have hcounted : SameBut [.regs] s (s.count .hbmOdecc b odecc) := s.setReg_sameBut _ _ _ _
      have hseqs := State.hbmDo_write_seqNos (s.count .hbmOdecc b odecc) b pc (bits (s.reg .hbmSched b) 19 15) symErrs w
      have hclean := State.hbmDo_write_clean (s.count .hbmOdecc b odecc) b pc (bits (s.reg .hbmSched b) 19 15) symErrs w
      generalize (s.count .hbmOdecc b odecc).hbmDo b pc (bits (s.reg .hbmSched b) 19 15) symErrs (.write w) = y at *
      have hresume := y.hbmResume_sameBut b
      have hqueues := y.hbmResume_queues b pc
      rw [← PChan.seqNos_of_queues hqueues] at hseqs
      refine ⟨congrArg Prod.snd hseqs, congrArg Prod.fst hseqs, fun hok => ?_⟩
      obtain ⟨hdo, hleft⟩ := hclean hok
      exact ⟨(hresume .mem (by simp)).trans ((hdo .mem (by simp)).trans (hcounted .mem (by simp))),
        congrArg Prod.snd (hqueues.trans hleft)⟩
    case refresh =>
      have hpc : (((s.count .hbmOdecc b odecc).hbmDo b pc (bits (s.reg .hbmSched b) 19 15) symErrs (.refresh k)).hbm b).pc pc =
        ((s.hbm b).pc pc).refreshed k := State.pc_modPc_same _ _ _ _
      have hstays : ((s.count .hbmOdecc b odecc).hbmDo b pc (bits (s.reg .hbmSched b) 19 15) symErrs (.refresh k)).hbm b =
        (s.hbm b).modPc pc (·.refreshed k) := State.hbm_modHbm_same _ _ _
      rw [State.hbmResume_of_none (by rw [hstays]; exact hdeferred)]
      dsimp only
      rw [hpc]
      exact ⟨State.Safe.sameBut (og := none) (State.modPc_safe _ _ _ _ rfl (State.count_safe _ _ _ _ _ rfl (.refl s))),
        PChan.refreshed_leaves _ k⟩
    case idle =>
      rw [State.hbmResume_of_none (s := s.count .hbmOdecc b odecc) hdeferred]
      exact s.setReg_sameBut _ _ _ _

end Sys2Proof.Proofs

/-! PROOF. Refresh, retraining, temperature, fatal errors and frequency changes of a stack (R270 to R277, R281, R283, R452). -/

namespace Sys2Proof.Machine

/-! ### Refresh (R270 to R272) -/

/-- The debt of a bank after a refresh has fallen due: one more, up to the limit. -/
def PChan.nextDebt (p : PChan) (bank limit : Nat) : Nat :=
  if Tab.get 0 p.debt bank < limit then Tab.get 0 p.debt bank + 1 else Tab.get 0 p.debt bank

/-- At the limit its refresh, or one of all banks while it has requests, is forced. -/
def PChan.owes (p : PChan) (bank limit : Nat) : PChan :=
  let q := { p with debt := Tab.set 0 p.debt bank (p.nextDebt bank limit) }
  if p.nextDebt bank limit < limit ∨ q.forced.contains (.bank bank) = true ∨ q.forced.contains (.all bank) = true then q
  else { q with forced := q.forced ++ [if q.idle bank then .bank bank else .all bank] }

section
variable (p : PChan) (bank limit : Nat)

theorem PChan.owes_leaves : (p.owes bank limit).rq = p.rq ∧ (p.owes bank limit).wq = p.wq ∧
    (p.owes bank limit).debt = Tab.set 0 p.debt bank (p.nextDebt bank limit) := by
  unfold PChan.owes
  dsimp only
  split <;> exact ⟨rfl, rfl, rfl⟩

theorem PChan.owes_debt : Tab.get 0 (p.owes bank limit).debt bank = p.nextDebt bank limit ∧
    ∀ j, j ≠ bank → Tab.get 0 (p.owes bank limit).debt j = Tab.get 0 p.debt j := by
  obtain ⟨-, -, hdebt⟩ := p.owes_leaves bank limit
  rw [hdebt]
  exact ⟨Tab.get_set_same _ _ _ _, fun j hj => Tab.get_set_ne _ _ _ hj⟩

theorem PChan.owes_forced : (p.nextDebt bank limit < limit → (p.owes bank limit).forced = p.forced) ∧
    (limit ≤ p.nextDebt bank limit → .bank bank ∈ (p.owes bank limit).forced ∨ .all bank ∈ (p.owes bank limit).forced) := by
  unfold PChan.owes
  dsimp only
  split
  · next h => exact ⟨fun _ => rfl, fun hfull => by simpa using h.resolve_left (by omega)⟩
  · next h =>
    refine ⟨fun hbelow => absurd (.inl hbelow) h, fun _ => ?_⟩
    split <;> simp

end

theorem exec_refreshDue {b : BayId} (pc : Fin 64) (bank : Fin 48) {s : State} (hready : (s.hbm b).ready = true)
    (hup : s.isFenced b = false) (hphase : (s.hbm b).phase < 2) :
    exec (.refreshDue b pc bank) s = .next (s.modPc b pc (·.owes bank (bits (s.reg .hbmRefCtl b) 3 0))) :=
  if_neg (by simp [hready, hup, hphase])

theorem exec_rfmRequest {b : BayId} (pc : Fin 64) {s : State} (hready : (s.hbm b).ready = true) (hup : s.isFenced b = false) :
    exec (.rfmRequest b pc) s = .next (s.modPc b pc fun p => { p with forced := p.forced ++ [.all 48] }) :=
  if_neg (by simp [hready, hup])

/-! ### A slot of a channel (R273, R274) -/

/-- The slot of a channel changes nothing, defers its pause, or starts it. -/
theorem State.hbmSlot_cases (s : State) (b ch : Nat) : s.hbmSlot b ch = s ∨
    s.hbmSlot b ch = s.modHbm b (fun h => { h with deferred := h.deferred ++ [ch] }) ∨
    s.hbmSlot b ch = s.modHbm b (·.startPause ch) := by
  unfold State.hbmSlot
  dsimp only
  split
  · exact .inl rfl
  · split
    · exact .inr (.inl rfl)
    · exact .inr (.inr rfl)

/-- A channel's pause may begin: no change runs, and the channel is in service and not in training. -/
structure Hbm.Pausable (h : Hbm) (ch : Nat) : Prop where
  ready : h.ready = true
  phase : h.phase = 0
  lost : Tab.get false h.lost ch = false
  trained : h.training ≠ some ch
  none : h.deferred = []

section
variable {s : State} {b ch : Nat} (hup : s.isFenced b = false) (h : (s.hbm b).Pausable ch)
include hup h

theorem State.hbmSlot_starts (hidle : (s.hbm b).training = none) (hnear : (s.hbm b).near ch (s.local b) (s.hbmMargin b) = false) :
    s.hbmSlot b ch = s.modHbm b (·.startPause ch) := by
  obtain ⟨hready, hphase, hlost, htrained, hnone⟩ := h
  simp [State.hbmSlot, hready, hphase, hlost, hnone, hup, hidle, hnear]

theorem State.hbmSlot_defers (hbusy : (s.hbm b).training.isSome = true ∨ (s.hbm b).near ch (s.local b) (s.hbmMargin b) = true) :
    s.hbmSlot b ch = s.modHbm b fun h => { h with deferred := h.deferred ++ [ch] } := by
  obtain ⟨hready, hphase, hlost, htrained, hnone⟩ := h
  obtain hbusy | hbusy := hbusy <;> simp [State.hbmSlot, hready, hphase, hlost, htrained, hnone, hup, hbusy]

end

theorem Hbm.startPause_debt (h : Hbm) (ch : Nat) :
    ((h.startPause ch).pc (2 * ch)).debt = [] ∧ ((h.startPause ch).pc (2 * ch + 1)).debt = [] := by
  have hfields : (h.startPause ch).pc = ((h.modPc (2 * ch) PChan.pausing).modPc (2 * ch + 1) PChan.pausing).pc := rfl
  rw [hfields]
  simp [Hbm.pc_modPc, PChan.pausing]

theorem Hbm.startPause_pc_ne (h : Hbm) {ch i : Nat} (hfirst : i ≠ 2 * ch) (hsecond : i ≠ 2 * ch + 1) :
    (h.startPause ch).pc i = h.pc i := by
  have hfields : (h.startPause ch).pc = ((h.modPc (2 * ch) PChan.pausing).modPc (2 * ch + 1) PChan.pausing).pc := rfl
  rw [hfields]
  simp [Hbm.pc_modPc, hfirst, hsecond]

/-! ### A pause that was deferred to the next slot (R274) -/

/-- The pause of a channel is forced on a pseudo-channel of it. -/
def PChan.forcePause (p : PChan) : PChan := if p.forced.contains .pause then p else { p with forced := p.forced ++ [.pause] }

/-- It is forced on both of them. -/
def Hbm.forcePause (h : Hbm) (ch : Nat) : Hbm := (h.modPc (2 * ch) PChan.forcePause).modPc (2 * ch + 1) PChan.forcePause

theorem Hbm.forceDeferred_eq (h : Hbm) : h.forceDeferred = { h.deferred.foldl Hbm.forcePause h with deferred := [] } := rfl

theorem Hbm.forceDeferred_of_none {h : Hbm} (hnone : h.deferred = []) : h.forceDeferred = h := by
  rw [Hbm.forceDeferred_eq, hnone]
  cases h
  simp_all

theorem PChan.forcePause_forced (p : PChan) : .pause ∈ p.forcePause.forced := by
  unfold PChan.forcePause
  split
  · simpa using ‹p.forced.contains .pause = true›
  · simp

theorem Hbm.forcePause_keeps {h : Hbm} {i : Nat} (ch : Nat) (hi : .pause ∈ (h.pc i).forced) : .pause ∈ ((h.forcePause ch).pc i).forced := by
  have hmod (y : Hbm) (k : Nat) (hy : .pause ∈ (y.pc i).forced) : .pause ∈ ((y.modPc k PChan.forcePause).pc i).forced := by
    rw [Hbm.pc_modPc]
    split
    · exact PChan.forcePause_forced _
    · exact hy
  exact hmod _ _ (hmod _ _ hi)

theorem Hbm.forcePause_forced (h : Hbm) {ch i : Nat} (hi : i = 2 * ch ∨ i = 2 * ch + 1) : .pause ∈ ((h.forcePause ch).pc i).forced := by
  unfold Hbm.forcePause
  obtain rfl | rfl := hi
  · rw [Hbm.pc_modPc, if_neg (by omega), Hbm.pc_modPc, if_pos rfl]
    exact PChan.forcePause_forced _
  · rw [Hbm.pc_modPc, if_pos rfl]
    exact PChan.forcePause_forced _

theorem Hbm.foldl_forcePause {l : List Nat} {h : Hbm} {i : Nat}
    (hi : .pause ∈ (h.pc i).forced ∨ ∃ d ∈ l, i = 2 * d ∨ i = 2 * d + 1) : .pause ∈ ((l.foldl Hbm.forcePause h).pc i).forced := by
  induction l generalizing h with
  | nil => exact hi.resolve_right (by simp)
  | cons ch l ih =>
    refine ih (h := h.forcePause ch) ?_
    obtain hi | ⟨d, hd, hi⟩ := hi
    · exact .inl (Hbm.forcePause_keeps ch hi)
    · obtain rfl | hd := List.mem_cons.mp hd
      · exact .inl (h.forcePause_forced hi)
      · exact .inr ⟨d, hd, hi⟩

/-- The state in which a slot that is no longer another's finds the controller. -/
def State.slotPassed (s : State) (b ch : Nat) : State :=
  s.modHbm b fun h => { h.forceDeferred with slotCh := ch, slotAt := s.local b }

theorem exec_retrainSlot {b : BayId} (ch : Fin 32) {s : State} (hphase : (s.hbm b).phase = 0) :
    exec (.retrainSlot b ch) s = .next ((s.slotPassed b ch).hbmSlot b ch) := if_neg (by simp [hphase])

theorem exec_retrainSlot_skipped {b : BayId} (ch : Fin 32) {s : State} (hphase : (s.hbm b).phase ≠ 0) :
    exec (.retrainSlot b ch) s = .next (s.modHbm b fun h => { h with slotCh := ch.val, slotAt := s.local b }) :=
  if_pos (by simp [hphase])

theorem State.slotPassed_hbm (s : State) (b ch : Nat) :
    (s.slotPassed b ch).hbm b = { (s.hbm b).forceDeferred with slotCh := ch, slotAt := s.local b } := s.hbm_modHbm_same b _

/-- Without deferred pauses the controller is as it was but for the slot. -/
theorem State.slotPassed_pausable {s : State} {b ch : Nat} (h : (s.hbm b).Pausable ch) :
    (s.slotPassed b ch).hbm b = { s.hbm b with slotCh := ch, slotAt := s.local b } ∧ ((s.slotPassed b ch).hbm b).Pausable ch := by
  have hbm : (s.slotPassed b ch).hbm b = { s.hbm b with slotCh := ch, slotAt := s.local b } := by
    rw [State.slotPassed_hbm, Hbm.forceDeferred_of_none h.none]
  rw [hbm]
  exact ⟨rfl, h.ready, h.phase, h.lost, h.trained, h.none⟩

/-! ### STACK_TEMPERATURE -/

theorem State.hbmSlot_temp (s : State) (b ch : Nat) : ((s.hbmSlot b ch).hbm b).temp = (s.hbm b).temp := by
  obtain h | h | h := s.hbmSlot_cases b ch
  · rw [h]
  · rw [h, State.hbm_modHbm_same]
  · rw [h, State.hbm_modHbm_same]
    rfl

theorem exec_stackTemperature {b : BayId} (degC : BitVec 8) {s : State} (hup : s.isFenced b = false) : ∃ l : List Nat,
    exec (.stackTemperature b degC) s =
      .next (each l (s.modHbm b fun h => { h with temp := degC.toNat }) fun s ch => s.hbmSlot b ch) :=
  ⟨_, if_neg (by simp [hup])⟩

/-! ### RETRAIN_COMPLETE (R275) -/

/-- The pause ends. -/
def State.pauseEnded (s : State) (b : Nat) : State := s.modHbm b fun h => { h with training := none }

theorem State.pauseEnded_hbm (s : State) (b : Nat) : (s.pauseEnded b).hbm b = { s.hbm b with training := none } := s.hbm_modHbm_same b _

/-- A channel that has retrained has no failures, and its bad lanes are replaced by spares. -/
def Hbm.retrained (h : Hbm) (ch lanes : Nat) : Hbm :=
  { h with fails := Tab.set 0 h.fails ch 0, trained := Tab.set 0 h.trained ch h.temp, lanes := Tab.set 0 h.lanes ch lanes }

theorem Hbm.retrained_leaves (h : Hbm) (ch lanes : Nat) :
    Tab.get 0 (h.retrained ch lanes).fails ch = 0 ∧ Tab.get 0 (h.retrained ch lanes).trained ch = h.temp :=
  ⟨Tab.get_set_same 0 h.fails ch 0, Tab.get_set_same 0 h.trained ch h.temp⟩

/-- A failure is counted and raised. -/
def State.failureRaised (s : State) (b ch n : Nat) : State :=
  (s.modHbm b fun h => { h with fails := Tab.set 0 h.fails ch n }).raiseOnce .hbmEvent b 1 0x1A1 b ch n

/-- The third in a row loses the channel. -/
def State.trainFailed (s : State) (b ch n : Nat) : State :=
  if n < 3 then s.failureRaised b ch n
  else ((s.failureRaised b ch n).modHbm b fun h => { h with lost := Tab.set false h.lost ch true }).hbmStack b 1 ch

section
variable {b : BayId} {ch : Fin 32} {s : State} (hup : s.isFenced b = false) (htrain : (s.hbm b).training = some ch.val)
include hup htrain

theorem exec_retrainComplete_ok : ∃ lanes, exec (.retrainComplete b ch true) s =
    .next (((s.pauseEnded b).takeFree.modHbm b (·.retrained ch lanes)).hbmResume b) :=
  ⟨_, if_neg (by simp [hup, htrain])⟩

theorem exec_retrainComplete_failed : exec (.retrainComplete b ch false) s =
    .next (((s.pauseEnded b).trainFailed b ch (Tab.get 0 (s.hbm b).fails ch.val + 1)).hbmResume b) :=
  if_neg (by simp [hup, htrain])

end

section
variable (s : State) (b ch n : Nat)

theorem State.failureRaised_hbm : (s.failureRaised b ch n).hbm b = { s.hbm b with fails := Tab.set 0 (s.hbm b).fails ch n } := by
  rw [State.failureRaised, State.hbm_congr (State.raiseOnce_sameBut _ _ _ _ _ _ _ _ .hbms (by simp)), State.hbm_modHbm_same]

theorem State.failureRaised_event : bit ((s.failureRaised b ch n).reg .hbmEvent b) 1 = true :=
  State.raiseOnce_event _ _ _ _ _ _ _ (by decide)

/-- The failures, the pause, the deferred pauses and the event after a failure. -/
theorem State.trainFailed_leaves : SameBut [.regs, .events, .hbms] s (s.trainFailed b ch n) ∧
    ((s.trainFailed b ch n).hbm b).training = (s.hbm b).training ∧ ((s.trainFailed b ch n).hbm b).deferred = (s.hbm b).deferred ∧
    Tab.get 0 ((s.trainFailed b ch n).hbm b).fails ch = n ∧ bit ((s.trainFailed b ch n).reg .hbmEvent b) 1 = true ∧
    (3 ≤ n → Tab.get false ((s.trainFailed b ch n).hbm b).lost ch = true ∧ bit ((s.trainFailed b ch n).reg .hbmEvent b) 2 = true) := by
  have hraised : s.Safe (Part.mask [.regs, .events, .hbms]) none (s.failureRaised b ch n) :=
    State.raiseOnce_safe _ _ _ _ _ _ _ _ rfl (State.modHbm_safe _ _ _ rfl (.refl s))
  have hbm := s.failureRaised_hbm b ch n
  have hevent := s.failureRaised_event b ch n
  unfold State.trainFailed
  split
  · next hn => exact ⟨hraised.sameBut, by rw [hbm], by rw [hbm], by rw [hbm]; exact Tab.get_set_same _ _ _ _, hevent, by omega⟩
  · have hlost : (((s.failureRaised b ch n).modHbm b fun h => { h with lost := Tab.set false h.lost ch true }).hbmStack b 1 ch).hbm b =
        { s.hbm b with fails := Tab.set 0 (s.hbm b).fails ch n, lost := Tab.set false (s.hbm b).lost ch true } := by
      rw [State.hbm_congr (State.hbmStack_sameBut _ _ _ _ .hbms (by simp)), State.hbm_modHbm_same, hbm]
    refine ⟨State.Safe.sameBut (State.hbmStack_safe _ _ _ _ rfl (State.modHbm_safe _ _ _ rfl hraised)), by rw [hlost], by rw [hlost],
      by rw [hlost]; exact Tab.get_set_same 0 _ _ _, State.hbmStack_keeps _ _ _ _ (by decide) hevent,
      fun _ => ⟨by rw [hlost]; exact Tab.get_set_same false (s.hbm b).lost ch true, State.hbmStack_event _ _ _ _⟩⟩

end

/-! ### STACK_FATAL (R281, R283) -/

theorem exec_stackFatal {b : BayId} (cat : Bool) {s : State} (hup : s.isFenced b = false) :
    exec (.stackFatal b cat) s = .next (s.hbmStack b (if cat then 3 else 4) 0xFFFFFFFF) := if_neg (by simp [hup])

/-- A first fatal error is recorded with its cause, and raised in the bay. -/
theorem State.hbmStack_first {s : State} {b : Nat} (cause ch : Nat) (h : bit (s.reg .hbmEvent b) 2 = false) :
    bit ((s.hbmStack b cause ch).reg .bayEvent b) 3 = true ∧
    ∃ x ∈ (s.hbmStack b cause ch).events, x.code % 1024 = 0x1A2 ∧ x.w0 = b % 2 ^ 32 ∧ x.w1 = cause % 2 ^ 32 := by
  have hraised : s.hbmStack b cause ch =
      (s.raise .hbmEvent b 2 0x1A2 b cause ch).raise .bayEvent b 3 0x003 0x1A2 cause ch := if_neg (by simp [State.pendBit, h])
  obtain ⟨x, hx, hcode, hw0, hw1, -⟩ := s.raise_record .hbmEvent b 2 0x1A2 b cause ch 0
  rw [hraised]
  refine ⟨?_, x, ?_, ?_, hw0, hw1⟩
  · rw [State.reg_raise_same, bit_evAdvance_same _ (by decide)]
  · rw [State.raise_events]
    exact List.mem_append_left _ hx
  · rw [hcode]
    rfl

/-! ### A frequency change (R276, R277, R452) -/

theorem State.job_each_ne {l : List Nat} {f : Job → Job} {s : State} {j : Nat} (h : j ∉ l) :
    (each l s fun s j => s.modJob j f).job j = s.job j := by
  refine each_induct (P := fun y => y.job j = s.job j) l (fun y a ha hy => ?_) rfl
  have hne : j ≠ a := fun hj => h (hj ▸ ha)
  rw [State.job_modJob_ne y f hne, hy]

/-- A change of every job of a list without repetition reaches each of them once. -/
theorem State.job_each {l : List Nat} {f : Job → Job} {s : State} {j : Nat} (hl : l.Nodup) (h : j ∈ l) :
    (each l s fun s j => s.modJob j f).job j = f (s.job j) := by
  induction l generalizing s with
  | nil => exact absurd h List.not_mem_nil
  | cons a l ih =>
    obtain ⟨ha, hl⟩ := List.nodup_cons.mp hl
    obtain rfl | h := List.mem_cons.mp h
    · exact (State.job_each_ne ha).trans (State.job_modJob_same _ _ _)
    · have hne : j ≠ a := fun hj => ha (hj ▸ h)
      refine (ih (s := s.modJob a f) hl h).trans ?_
      rw [State.job_modJob_ne s f hne]

theorem State.planChange_sameBut (s : State) (b : Nat) : SameBut [.jobs] s (s.planChange b) :=
  (State.planChange_safe s b (ps := Part.mask [.jobs]) (og := none) rfl (.refl s)).sameBut

theorem exec_fchgGo (c : CoreId) {b : BayId} {v : Word32} {s : State} (hup : s.isFenced b = false) (hgo : bit v.toNat 0 = true)
    (hphase : (s.hbm b).phase = 0) (hready : (s.hbm b).ready = true) (hmay : s.mayChange b = true) :
    exec (.fchgGo c b v) s = .next ((s.planChange b).modHbm b fun h => { h with phase := 1, back := false }) :=
  if_neg (by simp [hup, hgo, hphase, hready, hmay])

theorem exec_fchgGo_refused (c : CoreId) {b : BayId} (v : Word32) {s : State} (hmay : s.mayChange b = false) :
    exec (.fchgGo c b v) s = .next s := if_pos (by simp [hmay])

theorem exec_fchgDrained {b : BayId} {s : State} (hup : s.isFenced b = false) (hphase : (s.hbm b).phase = 1)
    (hdrained : (s.hbm b).drained = true) (hidle : (s.hbm b).training = none) :
    exec (.fchgDrained b) s = .next (s.modHbm b fun h => { h.selfRefresh with since := s.local b, deferred := [] }) :=
  if_neg (by simp [hup, hphase, hdrained, hidle])

theorem exec_fchgDrained_waits {b : BayId} {s : State} (hdrained : (s.hbm b).drained = false) : exec (.fchgDrained b) s = .next s :=
  if_pos (by simp [hdrained])

theorem exec_fchgRelock {b : BayId} {s : State} (hup : s.isFenced b = false) (hphase : (s.hbm b).phase = 2) :
    exec (.fchgRelock b) s = .next (s.modHbm b fun h => { h with phase := 3, tset := 1 - h.tset }) :=
  if_neg (by simp [hup, hphase])

theorem exec_fchgRetrainDone_back {b : BayId} {s : State} (hup : s.isFenced b = false) (hphase : (s.hbm b).phase = 3)
    (hback : (s.hbm b).back = false) :
    exec (.fchgRetrainDone b true) s = .next (s.modHbm b fun h => { h.selfRefresh with back := true }) := by
  have hgoes : ¬ ((s.hbm b).phase ≠ 3 ∨ s.isFenced b = true) := by simp [hup, hphase]
  exact (if_neg hgoes).trans (if_pos (by simp [hback]))

/-- The end of a change: acceptance resumes with the set in force, and every channel has trained at the present temperature. -/
def Hbm.changed (h : Hbm) : Hbm :=
  { h with phase := 0, back := false, fails := [], trained := (List.range 32).foldl (fun t ch => Tab.set 0 t ch h.temp) h.trained }

theorem exec_fchgRetrainDone {b : BayId} {failed : Bool} {s : State} (hup : s.isFenced b = false) (hphase : (s.hbm b).phase = 3)
    (hend : failed = false ∨ (s.hbm b).back = true) : ∃ w1 w2 : Nat, exec (.fchgRetrainDone b failed) s =
      .next ((s.modHbm b Hbm.changed).raiseOnce .hbmEvent b 3 0x1A3 b w1 w2) := by
  have hgoes : ¬ ((s.hbm b).phase ≠ 3 ∨ s.isFenced b = true) := by simp [hup, hphase]
  have hstays : ¬ ((failed && !(s.hbm b).back) = true) := by
    obtain h | h := hend <;> simp [h]
  exact ⟨_, _, (if_neg hgoes).trans (if_neg hstays)⟩

end Sys2Proof.Machine

namespace Sys2Proof.Proofs

open Sys2Proof.Machine

/-- Settles O40: each command of the refreshes, the retraining and the frequency change leaves the controller in the state that its
lemma names. -/
theorem stacksRefreshRetrainAndChange : Obligations.StacksRefreshRetrainAndChange := by
  unfold Obligations.StacksRefreshRetrainAndChange
  intro b pc ch s h hh hup
  subst hh
  refine ⟨fun bank p limit hready hphase hp hlimit => ?refresh, fun hready => ?rfm, fun degC => ?temperature,
    fun hready hphase hnone hlost htrained => ⟨fun hidle hnear => ?starts, fun hbusy => ?defers⟩, fun hphase => ?skipped,
    fun d hd hphase hne => ?forced, fun htrain hnone => ⟨?trained, ?failed⟩, fun cat => ?fatal,
    fun c v hgo hphase hready => ⟨fun hmay => ?go, exec_fchgGo_refused c v⟩, fun hphase hdrained hidle => ?drained,
    fun hphase hdrained => exec_fchgDrained_waits hdrained, fun hphase => ?relock,
    fun hphase => ⟨fun failed hend => ?done, fun hback => ?back⟩⟩
  case refresh =>
    subst hp hlimit
    have hexec := exec_refreshDue pc bank hready hup hphase
    refine ⟨_, hexec, (exec_safe (c := .refreshDue b pc bank) rfl hexec).sameBut, _, State.pc_modPc_same _ _ _ _, ?_⟩
    obtain ⟨hrq, hwq, -⟩ := PChan.owes_leaves ((s.hbm b).pc pc) bank (bits (s.reg .hbmRefCtl b) 3 0)
    obtain ⟨hsame, hothers⟩ := PChan.owes_debt ((s.hbm b).pc pc) bank (bits (s.reg .hbmRefCtl b) 3 0)
    obtain ⟨hbelow, hfull⟩ := PChan.owes_forced ((s.hbm b).pc pc) bank (bits (s.reg .hbmRefCtl b) 3 0)
    exact ⟨hrq, hwq, hsame, hothers, by rwa [hsame], by rwa [hsame]⟩
  case rfm =>
    have hexec := exec_rfmRequest pc hready hup
    exact ⟨_, hexec, (exec_safe (c := .rfmRequest b pc) rfl hexec).sameBut, by rw [State.pc_modPc_same]⟩
  case temperature =>
    obtain ⟨l, hexec⟩ := exec_stackTemperature degC hup
    refine ⟨_, hexec, (exec_safe (c := .stackTemperature b degC) rfl hexec).sameBut, ?_⟩
    refine each_induct (P := fun y => (y.hbm b).temp = degC.toNat) l (fun y a _ hy => (y.hbmSlot_temp b a).trans hy) ?_
    rw [State.hbm_modHbm_same]
  case starts =>
    have hexec := exec_retrainSlot ch hphase
    obtain ⟨hpassed, hpausable⟩ := State.slotPassed_pausable (ch := ch.val) ⟨hready, hphase, hlost, htrained, hnone⟩
    have hslot := State.hbmSlot_starts (s := s.slotPassed b ch) hup hpausable (by rw [hpassed]; exact hidle) (by rw [hpassed]; exact hnear)
    refine ⟨_, hexec, (exec_safe (c := .retrainSlot b ch) rfl hexec).sameBut, ?_⟩
    rw [hslot, State.hbm_modHbm_same, hpassed]
    exact ⟨rfl, rfl, rfl, Hbm.startPause_debt _ _⟩
  case defers =>
    have hexec := exec_retrainSlot ch hphase
    obtain ⟨hpassed, hpausable⟩ := State.slotPassed_pausable (ch := ch.val) ⟨hready, hphase, hlost, htrained, hnone⟩
    have hslot := State.hbmSlot_defers (s := s.slotPassed b ch) hup hpausable (by rw [hpassed]; exact hbusy)
    refine ⟨_, hexec, (exec_safe (c := .retrainSlot b ch) rfl hexec).sameBut, ?_⟩
    rw [hslot, State.hbm_modHbm_same, hpassed]
    exact ⟨rfl, congrArg (· ++ [ch.val]) hnone⟩
  case skipped =>
    have hexec := exec_retrainSlot_skipped ch hphase
    exact ⟨_, hexec, (exec_safe (c := .retrainSlot b ch) rfl hexec).sameBut, State.hbm_modHbm_same _ _ _⟩
  case forced =>
    have hpause (i : Nat) (hi : i = 2 * d ∨ i = 2 * d + 1) : .pause ∈ (((s.slotPassed b ch).hbm b).pc i).forced := by
      rw [State.slotPassed_hbm]
      exact Hbm.foldl_forcePause (.inr ⟨d, hd, hi⟩)
    have hempty : ((s.slotPassed b ch).hbm b).deferred = [] := by rw [State.slotPassed_hbm]; rfl
    refine ⟨_, exec_retrainSlot ch hphase, ?_⟩
    obtain h | h | h := (s.slotPassed b ch).hbmSlot_cases b ch
    · rw [h, hempty]
      exact ⟨by simp, hpause _ (.inl rfl), hpause _ (.inr rfl)⟩
    · rw [h, State.hbm_modHbm_same, hempty]
      exact ⟨by simp, hpause _ (.inl rfl), hpause _ (.inr rfl)⟩
    · rw [h, State.hbm_modHbm_same, Hbm.startPause_pc_ne _ (by omega) (by omega), Hbm.startPause_pc_ne _ (by omega) (by omega)]
      refine ⟨fun x hx => ?_, hpause _ (.inl rfl), hpause _ (.inr rfl)⟩
      have hx : x ∈ ((s.slotPassed b ch).hbm b).deferred := List.mem_of_mem_filter hx
      exact absurd (hempty ▸ hx) List.not_mem_nil
  case trained =>
    obtain ⟨lanes, hexec⟩ := exec_retrainComplete_ok hup htrain
    have hbm : ((s.pauseEnded b).takeFree.modHbm b (·.retrained ch lanes)).hbm b =
        { s.hbm b with training := none }.retrained ch lanes := by
      have hended : (s.pauseEnded b).takeFree.hbm b = { s.hbm b with training := none } := s.pauseEnded_hbm b
      rw [State.hbm_modHbm_same, hended]
    refine ⟨_, hexec, ?_⟩
    rw [State.hbmResume_of_none (by rw [hbm]; exact hnone)]
    dsimp only
    rw [hbm]
    exact ⟨State.Safe.sameBut (og := none) (State.modHbm_safe _ _ _ rfl (State.takeFree_safe _ rfl (State.modHbm_safe _ _ _ rfl (.refl s)))),
      rfl, Hbm.retrained_leaves _ _ _⟩
  case failed =>
    have hexec := exec_retrainComplete_failed hup htrain
    have hpause : SameBut [.regs, .events, .hbms] s (s.pauseEnded b) :=
      State.Safe.sameBut (og := none) (State.modHbm_safe _ _ _ rfl (.refl s))
    obtain ⟨hrest, hidle, hstays, hfails, hevent, hthird⟩ := (s.pauseEnded b).trainFailed_leaves b ch (Tab.get 0 (s.hbm b).fails ch.val + 1)
    rw [State.pauseEnded_hbm] at hidle hstays
    refine ⟨_, hexec, ?_⟩
    rw [State.hbmResume_of_none (hstays.trans hnone)]
    exact ⟨hpause.trans hrest, hidle, hfails, hevent, fun h => hthird (by omega)⟩
  case fatal =>
    refine ⟨_, exec_stackFatal cat hup, State.hbmStack_sameBut _ _ _ _, State.hbmStack_event _ _ _ _, fun hclear => ?_⟩
    obtain ⟨hbay, x, hx, hcode, hw0, hw1⟩ := State.hbmStack_first (if cat then 3 else 4) 0xFFFFFFFF hclear
    have hb := b.isLt
    exact ⟨hbay, x, hx, hcode, by omega, by cases cat <;> simpa using hw1⟩
  case go =>
    have hexec := exec_fchgGo c hup hgo hphase hready hmay
    have hplan : (s.planChange b).hbm b = s.hbm b := State.hbm_congr (s.planChange_sameBut b .hbms (by simp)) b
    have hchange : ((s.planChange b).modHbm b fun h => { h with phase := 1, back := false }).hbm b =
        { s.hbm b with phase := 1, back := false } := by rw [State.hbm_modHbm_same, hplan]
    refine ⟨_, hexec, (exec_safe (c := .fchgGo c b v) rfl hexec).sameBut, hchange, ?_, fun hl j hj => ?_, fun j hj => ?_⟩
    · rw [State.hbmOpen, hchange]
      simp
    · exact congrArg Job.pred (State.job_each hl hj)
    · exact State.job_each_ne hj
  case drained =>
    have hexec := exec_fchgDrained hup hphase hdrained hidle
    refine ⟨_, hexec, (exec_safe (c := .fchgDrained b) rfl hexec).sameBut, ?_⟩
    rw [State.hbm_modHbm_same]
    exact ⟨rfl, rfl, rfl, rfl⟩
  case relock =>
    have hexec := exec_fchgRelock hup hphase
    exact ⟨_, hexec, (exec_safe (c := .fchgRelock b) rfl hexec).sameBut, State.hbm_modHbm_same _ _ _⟩
  case done =>
    obtain ⟨w1, w2, hexec⟩ := exec_fchgRetrainDone hup hphase hend
    refine ⟨_, hexec, (exec_safe (c := .fchgRetrainDone b failed) rfl hexec).sameBut, ?_⟩
    rw [State.hbm_congr (State.raiseOnce_sameBut _ _ _ _ _ _ _ _ .hbms (by simp)), State.hbm_modHbm_same]
    exact ⟨rfl, rfl, rfl, State.raiseOnce_event _ _ _ _ _ _ _ (by decide)⟩
  case back =>
    have hexec := exec_fchgRetrainDone_back hup hphase hback
    refine ⟨_, hexec, State.Safe.sameBut (og := none) (State.modHbm_safe _ _ _ rfl (.refl s)), ?_⟩
    rw [State.hbm_modHbm_same]
    exact ⟨rfl, rfl⟩

end Sys2Proof.Proofs

/-! PROOF. Packets at their endpoints, and answers at their sources (R342, R345, R346, R351 to R356, R378). -/

namespace Sys2Proof.Machine

/-! ### Packets that their endpoint does not take up (R342, R345, R351) -/

section
variable {s : State} {f : Flit}

theorem State.turnedAway_waits (h : s.deadEnd f = true ∨ s.behind f = true) : s.turnedAway f = some s :=
  if_pos (by simpa using h)

theorem State.turnedAway_reserved (hdead : s.deadEnd f = false) (hbehind : s.behind f = false) (hop : opClass f.op.toNat = none) :
    s.turnedAway f = some (s.badOp f) :=
  (if_neg (by simp [hdead, hbehind])).trans (if_pos hop)

theorem State.turnedAway_nowhere (hdead : s.deadEnd f = false) (hbehind : s.behind f = false) (hop : opClass f.op.toNat ≠ none)
    (hend : endpointExists f.dest.toNat = false) : s.turnedAway f = some (s.noEndpoint f) :=
  (if_neg (by simp [hdead, hbehind])).trans ((if_neg hop).trans (if_pos (by simp [hend])))

theorem State.exists_of_turnedAway (h : s.turnedAway f = none) : endpointExists f.dest.toNat = true := by
  by_contra hend
  by_cases hdead : s.deadEnd f = true ∨ s.behind f = true
  · rw [State.turnedAway_waits hdead] at h
    cases h
  · simp only [not_or, Bool.not_eq_true] at hdead hend
    by_cases hop : opClass f.op.toNat = none
    · rw [State.turnedAway_reserved hdead.1 hdead.2 hop] at h
      cases h
    · rw [State.turnedAway_nowhere hdead.1 hdead.2 hop hend] at h
      cases h

end

/-- The commands by which a packet of one flit reaches its endpoint, or an answer its source. -/
def arrivalsOf (f : Flit) : List Instr :=
  [.rd f, .wr none f, .msg f, .mrd f, .mwr f, .rdata f, .wack f, .ack f, .mdata f, .nack f]

/-- The state in which a WR finds its line, once its prefix flit has been taken. -/
def State.prefixTaken (s : State) : Option Flit → State
  | some p => s.takeArrived p
  | none => s

theorem exec_wr_behind {s : State} {pfx : Option Flit} (f : Flit) (h : pfx.any s.behind = true) : exec (.wr pfx f) s = .next s := by
  show execWr pfx f s = _
  unfold execWr
  simp only [h, if_true]

section
variable {s t : State} {f : Flit}

theorem exec_wr_away {pfx : Option Flit} (hpfx : pfx.any s.behind = false) (h : (s.prefixTaken pfx).turnedAway f = some t) :
    exec (.wr pfx f) s = .next (if s.deadEnd f || (s.prefixTaken pfx).behind f then s else t) := by
  show execWr pfx f s = _
  unfold execWr
  cases pfx with
  | none =>
    rw [State.prefixTaken] at h
    simp [h, State.prefixTaken]
  | some p =>
    rw [State.prefixTaken] at h
    simp [hpfx, h, State.prefixTaken]

/-- A WR waits while its prefix flit or its line does. -/
theorem exec_wr_prefixWaits {p : Flit} (h : s.behind p = true ∨ s.deadEnd f = true ∨ (s.takeArrived p).behind f = true) :
    exec (.wr (some p) f) s = .next s := by
  by_cases hp : s.behind p = true
  · exact exec_wr_behind f hp
  · have hwaits : s.deadEnd f = true ∨ (s.takeArrived p).behind f = true := h.resolve_left hp
    rw [exec_wr_away (pfx := some p) (by simpa using hp) (State.turnedAway_waits (s := s.takeArrived p) hwaits), State.prefixTaken,
      if_pos (by simpa using hwaits)]

theorem exec_wr_prefixAway {p : Flit} (hp : s.behind p = false) (hdead : s.deadEnd f = false)
    (hbehind : (s.takeArrived p).behind f = false) (h : (s.takeArrived p).turnedAway f = some t) :
    exec (.wr (some p) f) s = .next t := by
  rw [exec_wr_away (pfx := some p) (by simpa using hp) h, State.prefixTaken, hdead, hbehind]
  rfl

theorem State.deliverAnswer_away (h : s.turnedAway f = some t) : s.deliverAnswer f = t := by
  simp [State.deliverAnswer, State.answerAway, h]

/-- What becomes of a packet that is not taken up does not depend on its command. -/
theorem exec_away {c : Instr} (hc : c ∈ arrivalsOf f) (h : s.turnedAway f = some t) : exec c s = .next t := by
  simp only [arrivalsOf, List.mem_cons, List.not_mem_nil, or_false] at hc
  have hanswer : s.deliverAnswer f = t := State.deliverAnswer_away h
  have hregister (serve : State → Host.Outcome State Fault Refusal) : s.regPacket f serve = .next t := by
    unfold State.regPacket
    simp only [h]
  obtain rfl | rfl | rfl | rfl | rfl | rfl | rfl | rfl | rfl | rfl := hc
  · show execRd f s = _
    unfold execRd
    simp only [h]
  · have hwaits : (if s.deadEnd f || s.behind f then s else t) = t := by
      split
      · next hwaits =>
        rw [State.turnedAway_waits (by simpa using hwaits)] at h
        exact Option.some.inj h
      · rfl
    rw [exec_wr_away (pfx := none) (s := s) rfl h]
    exact congrArg Host.Outcome.next hwaits
  · show execMsg f s = _
    unfold execMsg
    simp only [h]
  · show execMrd f s = _
    unfold execMrd
    exact hregister _
  · show execMwr f s = _
    unfold execMwr
    exact hregister _
  · exact congrArg Host.Outcome.next hanswer
  · exact congrArg Host.Outcome.next hanswer
  · exact congrArg Host.Outcome.next hanswer
  · exact congrArg Host.Outcome.next hanswer
  · show execNack f s = _
    unfold execNack State.answerAway
    simp only [h]

end

/-! ### Frames of what an endpoint does -/

theorem State.takeArrived_sameBut (s : State) (f : Flit) : SameBut [.net] s (s.takeArrived f) := s.modNet_sameBut _

theorem State.badOp_sameBut (s : State) (f : Flit) : SameBut [.regs, .events, .net] s (s.badOp f) :=
  (State.badOp_safe s f (ps := Part.mask [.regs, .events, .net]) (og := none) rfl (.refl s)).sameBut

theorem State.badOp_event (s : State) {f : Flit} (h : addrBay f.dest.toNat < 32) :
    bit ((s.badOp f).reg .nocEvent (addrBay f.dest.toNat)) 0 = true := State.netDiscard_event _ _ _ _ h

theorem State.badOp_count (s : State) {f : Flit} (h : addrBay f.dest.toNat < 32) : (s.badOp f).reg .nocDiscard (addrBay f.dest.toNat) =
    min (Rn.top .nocDiscard) (s.reg .nocDiscard (addrBay f.dest.toNat) + 1) := State.netDiscard_count _ _ _ _ h

theorem State.noEndpoint_event (s : State) {f : Flit} (h : addrBay f.dest.toNat < 32) :
    bit ((s.noEndpoint f).reg .nocEvent (addrBay f.dest.toNat)) 0 = true := by
  unfold State.noEndpoint State.refuse
  dsimp only
  split
  · exact State.netDiscard_event _ _ _ _ h
  · exact State.respond_keeps_event _ _ _ (State.netDiscard_event _ _ _ _ h)

/-! ### The line of a packet (R37, R264, R344) -/

section
variable {f : Flit} {a size : Nat}

theorem lineAddr_bay (h : lineAddr f = some (a, size)) : addrBay f.dest.toNat ≠ 32 := by
  intro hb
  simp [lineAddr, hb] at h

/-- The hub holds no lines but the host's. -/
theorem lineAddr_not_host (h : lineAddr f = some (a, size)) : f.dest.toNat ≠ addrOf 32 3 2 := by
  intro hd
  refine lineAddr_bay h ?_
  rw [hd]
  rfl

theorem lineAddr_pc (h : lineAddr f = some (a, size)) (hkind : addrKind f.dest.toNat = 1) :
    a = hbmAddr (addrBay f.dest.toNat) (hbmOff (addrIdx f.dest.toNat) (f.line.toNat * 64)) ∧ size = hbmLines * 64 := by
  have hb := lineAddr_bay h
  simp only [lineAddr, hb, if_false, hkind, Option.some.injEq, Prod.mk.injEq] at h
  exact ⟨h.1.symm, h.2.symm⟩

/-- A packet's line enters the queues of a pseudo-channel when it lies within the stack. -/
theorem lineAddr_queued (h : lineAddr f = some (a, size)) : (addrKind f.dest.toNat = 1 ∧ f.line.toNat < hbmLines) ↔
    (addrKind f.dest.toNat = 1 ∧ f.line.toNat * 64 < size) := by
  constructor
  · rintro ⟨hkind, hline⟩
    obtain ⟨-, hsize⟩ := lineAddr_pc h hkind
    exact ⟨hkind, by omega⟩
  · rintro ⟨hkind, hline⟩
    obtain ⟨-, hsize⟩ := lineAddr_pc h hkind
    exact ⟨hkind, by omega⟩

theorem reaches_of_pc (hkind : addrKind f.dest.toNat = 1) : reaches f = true := by simp [reaches, hkind]

theorem not_pc_of_barred (hreach : reaches f = false) : addrKind f.dest.toNat ≠ 1 := fun hkind => by
  simp [reaches_of_pc hkind] at hreach

/-- A stack is no block memory. -/
theorem placeOf_pc (h : lineAddr f = some (a, size)) (hkind : addrKind f.dest.toNat = 1) (hend : endpointExists f.dest.toNat = true)
    (hline : f.line.toNat * 64 < size) (x off : Nat) : placeOf a ≠ .block x off := by
  obtain ⟨ha, hsize⟩ := lineAddr_pc h hkind
  have hb := lineAddr_bay h
  have hexists : addrBay f.dest.toNat < 32 ∧ addrIdx f.dest.toNat < 64 := by
    simp only [endpointExists, hb, if_false, hkind] at hend
    split at hend
    · cases hend
    · exact ⟨by omega, by simpa using hend⟩
  have hoff := hbmOff_lt (l := f.line.toNat * 64) hexists.2 (by rw [hsize, hbmLines] at hline; omega)
  have hlow : a < 0x30000000000 := by
    rw [ha, hbmAddr]
    omega
  simp [placeOf, hlow]

end

/-! ### RD (R265, R345) -/

section
variable {s : State} {f : Flit} (haway : s.turnedAway f = none)
include haway

theorem exec_rd_host (hd : f.dest.toNat = addrOf 32 3 2) (hup : s.hostUp = true) : exec (.rd f) s =
    .next (((s.cacheLines false).takeArrived f).respond f (f.answer 0x10
      (if (readTags s.hostTag (ofLe (f.payload.take 8)) 64).any id then [] else s.hread (ofLe (f.payload.take 8)) 64)
      ((readTags s.hostTag (ofLe (f.payload.take 8)) 64).any id))) := by
  show execRd f s = _
  unfold execRd
  simp only [haway, hd, hup, if_true]

theorem exec_rd_hostDown (hd : f.dest.toNat = addrOf 32 3 2) (hup : s.hostUp = false) : exec (.rd f) s =
    .next (if s.hostWait then s else (s.takeArrived f).respond f (f.answer 0x10 [] true)) := by
  show execRd f s = _
  unfold execRd
  simp only [haway, hd, hup, if_true, Bool.false_eq_true, if_false]
  split <;> rfl

theorem exec_rd_notTaken (hline : lineAddr f = none) (hd : f.dest.toNat ≠ addrOf 32 3 2) :
    exec (.rd f) s = .next (s.notTaken f) := by
  show execRd f s = _
  unfold execRd
  simp only [haway, hd, hline, if_false]

variable {a size : Nat} (haddr : lineAddr f = some (a, size))
include haddr

/-- A line that is not queued is read at once. -/
theorem exec_rd_line (hqueued : ¬ (addrKind f.dest.toNat = 1 ∧ f.line.toNat * 64 < size)) :
    exec (.rd f) s = .next (s.readLine f a size) := by
  show execRd f s = _
  unfold execRd
  rw [← lineAddr_queued haddr] at hqueued
  simp only [haway, lineAddr_not_host haddr, haddr, if_false, hqueued]

/-- The read of a line of a stack enters its queue, or waits. -/
theorem exec_rd_queued (hkind : addrKind f.dest.toNat = 1) (hline : f.line.toNat * 64 < size) {o : Option State}
    (hask : s.hbmAskRead (addrBay f.dest.toNat) (addrIdx f.dest.toNat) f.line.toNat f.deadline.toNat (some f) 0 = o) :
    exec (.rd f) s = .next ((o.map (·.takeArrived f)).getD s) := by
  have hqueued := (lineAddr_queued haddr).mpr ⟨hkind, hline⟩
  show execRd f s = _
  unfold execRd
  simp only [haway, lineAddr_not_host haddr, haddr, if_false, if_pos hqueued, hask]
  cases o <;> rfl

end

section
variable {s : State} {f : Flit} {a size : Nat}

theorem State.readLine_past (h : size ≤ f.line.toNat * 64) :
    s.readLine f a size = ((s.takeArrived f).violate 3 0 a false 1).respond f (f.answer 0x10 []) := if_pos h

theorem State.readLine_barred (h : f.line.toNat * 64 < size) (hreach : Machine.reaches f = false) :
    s.readLine f a size = ((s.takeArrived f).violate 3 0 a false 0).respond f (f.answer 0x10 []) :=
  (if_neg (by omega)).trans (if_pos (by simp [hreach]))

theorem State.readLine_read (h : f.line.toNat * 64 < size) (hreach : Machine.reaches f = true) :
    s.readLine f a size = (s.takeArrived f).respond f
      (f.answer 0x10 (if s.poisoned a 64 then [] else s.read a 64) (s.poisoned a 64)) :=
  (if_neg (by omega)).trans (if_neg (by simp [hreach]))

end

section
variable {s : State} {b pc : Nat} (line d : Nat) (ask : Option Flit) (hpa : Nat)

theorem State.hbmAskRead_full (h : s.hbmOpen b = false ∨ 64 ≤ ((s.hbm b).pc pc).rq.length) :
    s.hbmAskRead b pc line d ask hpa = none := if_pos (by simpa using h)

/-- The read that enters the queue: its line as the arrival order of R268 gives it. -/
def State.readAsked (s : State) (b pc line d : Nat) (ask : Option Flit) (hpa : Nat) : HRead :=
  { ask := ask, hpa := hpa, line := line, due := s.local b + d, seq := ((s.hbm b).pc pc).seqs
    data := s.read (hbmAddr b (hbmOff pc (line * 64))) 64, bad := s.poisoned (hbmAddr b (hbmOff pc (line * 64))) 64 }

/-- A read that a write of its line holds is counted. -/
def State.heldCounted (s : State) (b pc line : Nat) : State :=
  if ((s.hbm b).pc pc).wq.any fun w => w.line == line then s.count .hbmRawHolds b else s

/-- A read enters its queue, and a matching write takes the earlier due time. -/
def PChan.withRead (p : PChan) (r : HRead) : PChan :=
  { p with rq := p.rq ++ [r], seqs := p.seqs + 1
           wq := p.wq.map fun w => if w.line = r.line then { w with due := Nat.min w.due r.due } else w }

theorem State.hbmAskRead_open (hopen : s.hbmOpen b = true) (hroom : ((s.hbm b).pc pc).rq.length < 64) :
    s.hbmAskRead b pc line d ask hpa =
      some (((s.heldCounted b pc line).modPc b pc (·.withRead (s.readAsked b pc line d ask hpa))).drainPc b pc) :=
  if_neg (by simp [hopen, hroom])

theorem State.heldCounted_leaves : SameBut [.regs] s (s.heldCounted b pc line) ∧
    RegsBut [(RegAt.mk .hbmRawHolds b 0 0).off] s (s.heldCounted b pc line) := by
  unfold State.heldCounted
  split
  · exact ⟨s.setReg_sameBut _ _ _ _, s.setReg_regsBut _ _ _ _⟩
  · exact ⟨fun p _ => p.same_refl s, fun _ _ => rfl⟩

/-- It is the last read of its queue. -/
theorem State.withRead_leaves (r : HRead) : let t := ((s.heldCounted b pc line).modPc b pc (·.withRead r)).drainPc b pc
    SameBut [.regs, .hbms] s t ∧ RegsBut [(RegAt.mk .hbmRawHolds b 0 0).off] s t ∧ ((t.hbm b).pc pc).rq = ((s.hbm b).pc pc).rq ++ [r] := by
  obtain ⟨hrest, hregs⟩ := s.heldCounted_leaves (b := b) (pc := pc) line
  have hqueues := State.drainPc_queues ((s.heldCounted b pc line).modPc b pc (·.withRead r)) b pc
  rw [State.pc_modPc_same, State.hbm_congr (hrest .hbms (by simp))] at hqueues
  refine ⟨(hrest.mono (by simp)).trans ?_, hregs, congrArg Prod.fst hqueues⟩
  exact State.Safe.sameBut (og := none) (State.drainPc_safe _ _ _ rfl (State.modPc_safe _ _ _ _ rfl (.refl _)))

end

/-! ### Bytes stored one by one (R346) -/

/-- What a write gives a byte of its line: 0 for a poisoned one. -/
def lineByte (bs : List Byte) (pmask i : Nat) : Byte := if bit pmask i then 0 else bs.getD i 0

/-- A key that the steps of a fold of stores name takes its value, and any other reads as before. -/
theorem Tab.get_foldl_set_at {α : Type} [DecidableEq α] (d : α) (l : List Nat) (a : Nat) (val : Nat → α) (t : Tab α) (k : Nat) :
    Tab.get d (l.foldl (fun t i => Tab.set d t (a + i) (val i)) t) (a + k) = if k ∈ l then val k else Tab.get d t (a + k) := by
  induction l generalizing t with
  | nil => simp
  | cons i l ih =>
    rw [List.foldl_cons, ih]
    by_cases hk : k ∈ l
    · simp [hk]
    · by_cases hki : k = i
      · subst hki
        simp [hk]
      · rw [if_neg hk, if_neg (by simp [hk, hki]), Tab.get_set_ne _ _ _ (by omega)]

/-- The enabled bytes of a line. -/
def enabled (mask : Nat) : List Nat := (List.range 64).filter fun i => bit mask i

theorem mem_enabled {mask k : Nat} (hk : k < 64) : k ∈ enabled mask ↔ bit mask k = true := by
  simp [enabled, hk]

section
variable (s : State) (a : Nat) (bs : List Byte) (mask pmask : Nat)

theorem State.storeBytes_eq : s.storeBytes a bs mask pmask = { s with
    mem := (enabled mask).foldl (fun t i => Tab.set 0 t (a + i) (lineByte bs pmask i)) s.mem
    memTag := (enabled mask).foldl (fun t i => Tab.set false t (a + i) (bit pmask i)) s.memTag } := by
  have hall (l : List Nat) (y : State) : each l y (fun s i => s.writeByte (a + i) (lineByte bs pmask i) (bit pmask i)) = { y with
      mem := l.foldl (fun t i => Tab.set 0 t (a + i) (lineByte bs pmask i)) y.mem
      memTag := l.foldl (fun t i => Tab.set false t (a + i) (bit pmask i)) y.memTag } := by
    induction l generalizing y with
    | nil => rfl
    | cons i l ih => exact ih _
  exact hall _ s

theorem State.hostBytes_eq : s.hostBytes a bs mask pmask = { s with
    host := (enabled mask).foldl (fun t i => Tab.set 0 t (a + i) (lineByte bs pmask i)) s.host
    hostTag := (enabled mask).foldl (fun t i => Tab.set false t (a + i) (bit pmask i)) s.hostTag } := by
  have hall (l : List Nat) (y : State) : each l y (fun s i => s.hwrite (a + i) [lineByte bs pmask i] (bit pmask i)) = { y with
      host := l.foldl (fun t i => Tab.set 0 t (a + i) (lineByte bs pmask i)) y.host
      hostTag := l.foldl (fun t i => Tab.set false t (a + i) (bit pmask i)) y.hostTag } := by
    induction l generalizing y with
    | nil => rfl
    | cons i l ih => exact ih _
  exact hall _ s

end

/-- A memory after the enabled bytes of the line at a have been written. -/
structure LineStored (t u : Tab Byte) (a : Nat) (bs : List Byte) (mask pmask : Nat) : Prop where
  outside : ∀ y, y < a ∨ a + 64 ≤ y → Tab.get 0 u y = Tab.get 0 t y
  inside : ∀ k < 64, Tab.get 0 u (a + k) = if bit mask k = true then (if bit pmask k = true then 0 else bs.getD k 0)
    else Tab.get 0 t (a + k)

theorem LineStored.of_enabled (t : Tab Byte) (a : Nat) (bs : List Byte) (mask pmask : Nat) :
    LineStored t ((enabled mask).foldl (fun t i => Tab.set 0 t (a + i) (lineByte bs pmask i)) t) a bs mask pmask := by
  refine ⟨fun y hy => Tab.get_foldl_set_ne 0 _ (fun i => a + i) (lineByte bs pmask) t y fun i hi => ?_, fun k hk => ?_⟩
  · have hlt := List.mem_range.mp (List.mem_of_mem_filter hi)
    omega
  · simp only [Tab.get_foldl_set_at, mem_enabled hk, lineByte]

/-- A whole line that is written with its other bytes as they were. -/
theorem LineStored.of_line (t : Tab Byte) (a : Nat) (bs : List Byte) (mask pmask : Nat) :
    LineStored t (writeBytes t a ((List.range 64).map fun i =>
      if bit mask i then (if bit pmask i then 0 else bs.getD i 0) else (readBytes t a 64).getD i 0)) a bs mask pmask := by
  refine ⟨fun y hy => writeBytes_outside _ _ _ _ (by simpa using hy), fun k hk => ?_⟩
  rw [writeBytes_inside _ _ _ _ (by simpa using hk)]
  simp [readBytes_eq_map, hk]

/-! ### WR (R265, R345, R346) -/

section
variable {s : State} {pfx : Option Flit} {f : Flit} {mask pmask : Nat} (hpfx : pfx.any s.behind = false)
  (haway : (s.prefixTaken pfx).turnedAway f = none) (hmask : wrMasks pfx f = (mask, pmask))
include hpfx haway hmask

theorem exec_wr_host (hd : f.dest.toNat = addrOf 32 3 2) (hup : s.hostUp = true) : exec (.wr pfx f) s =
    .next (((((s.prefixTaken pfx).cacheLines true).takeArrived f).hostBytes (ofLe ((pfx.getD f).payload.take 8)) f.payload mask
      pmask).respond f (f.answer 0x11 [])) := by
  show execWr pfx f s = _
  unfold execWr
  cases pfx <;> (rw [State.prefixTaken] at haway; simp [hpfx, haway, hmask, hd, hup, State.prefixTaken])

theorem exec_wr_hostDown (hd : f.dest.toNat = addrOf 32 3 2) (hup : s.hostUp = false) : exec (.wr pfx f) s =
    .next (if s.hostWait then s else ((s.prefixTaken pfx).takeArrived f).respond f (f.answer 0x11 [])) := by
  show execWr pfx f s = _
  unfold execWr
  cases pfx <;> (rw [State.prefixTaken] at haway; cases s.hostWait <;> simp [hpfx, haway, hd, hup, State.prefixTaken])

theorem exec_wr_notTaken (hline : lineAddr f = none) (hd : f.dest.toNat ≠ addrOf 32 3 2) :
    exec (.wr pfx f) s = .next ((s.prefixTaken pfx).notTaken f) := by
  show execWr pfx f s = _
  unfold execWr
  cases pfx <;> (rw [State.prefixTaken] at haway; simp [hpfx, haway, hd, hline, State.prefixTaken])

variable {a size : Nat} (haddr : lineAddr f = some (a, size))
include haddr

theorem exec_wr_line (hqueued : ¬ (addrKind f.dest.toNat = 1 ∧ f.line.toNat * 64 < size)) :
    exec (.wr pfx f) s = .next ((s.prefixTaken pfx).writeLine f a size mask pmask) := by
  have hd := lineAddr_not_host haddr
  rw [← lineAddr_queued haddr] at hqueued
  show execWr pfx f s = _
  unfold execWr
  cases pfx <;> (rw [State.prefixTaken] at haway; simp only [hpfx, haway, hmask, hd, haddr, hqueued, State.prefixTaken]; simp)

theorem exec_wr_queued (hkind : addrKind f.dest.toNat = 1) (hline : f.line.toNat * 64 < size) {o : Option State}
    (hask : (s.prefixTaken pfx).hbmAskWrite (addrBay f.dest.toNat) (addrIdx f.dest.toNat) f.line.toNat f.deadline.toNat f.payload mask
      pmask = o) :
    exec (.wr pfx f) s = .next ((o.map fun y => (y.takeArrived f).respond f (f.answer 0x11 [])).getD s) := by
  have hd := lineAddr_not_host haddr
  have hqueued := (lineAddr_queued haddr).mpr ⟨hkind, hline⟩
  show execWr pfx f s = _
  unfold execWr
  cases pfx <;> (rw [State.prefixTaken] at haway hask; simp only [hpfx, haway, hmask, hd, haddr, if_pos hqueued, hask]; cases o <;> simp)

end

section
variable {s : State} {f : Flit} {a size : Nat} (mask pmask : Nat)

theorem State.writeLine_past (h : size ≤ f.line.toNat * 64) : s.writeLine f a size mask pmask =
    ((s.takeArrived f).violate 3 0 a true 1).respond f (f.answer 0x11 []) := by
  unfold State.writeLine
  simp only [h, if_true]

theorem State.writeLine_barred (h : f.line.toNat * 64 < size) (hreach : Machine.reaches f = false) :
    s.writeLine f a size mask pmask = ((s.takeArrived f).violate 3 0 a true 0).respond f (f.answer 0x11 []) := by
  unfold State.writeLine
  simp [Nat.not_le.mpr h, hreach]

variable (h : f.line.toNat * 64 < size) (hreach : Machine.reaches f = true)
include h hreach

theorem State.writeLine_queue {x off : Nat} (hplace : placeOf a = .block x off) (hqueue : s.blockIsQueue x off = true) :
    s.writeLine f a size mask pmask = ((s.takeArrived f).fabQerr x (off / 16384) 3).respond f (f.answer 0x11 []) := by
  have hqueue : (s.takeArrived f).blockIsQueue x off = true := hqueue
  unfold State.writeLine
  simp [Nat.not_le.mpr h, hreach, hplace, hqueue]

theorem State.writeLine_stored (hqueue : ∀ x off, placeOf a = .block x off → s.blockIsQueue x off = false) :
    s.writeLine f a size mask pmask = ((s.takeArrived f).storeBytes a f.payload mask pmask).respond f (f.answer 0x11 []) := by
  have hstore : (match placeOf a with
      | .block b off => if (s.takeArrived f).blockIsQueue b off then (s.takeArrived f).fabQerr b (off / 16384) 3
        else (s.takeArrived f).storeBytes a f.payload mask pmask
      | _ => (s.takeArrived f).storeBytes a f.payload mask pmask) = (s.takeArrived f).storeBytes a f.payload mask pmask := by
    split
    · next x off hplace =>
      have hplain : (s.takeArrived f).blockIsQueue x off = false := hqueue x off hplace
      simp [hplain]
    · rfl
  unfold State.writeLine
  simp only [Nat.not_le.mpr h, hreach, Bool.not_true, Bool.false_eq_true, if_false]
  exact congrArg (fun y : State => y.respond f (f.answer 0x11 [])) hstore

end

section
variable {s : State} {b pc line : Nat} (d : Nat) (bs : List Byte) (mask pmask : Nat)

/-- The queue of a write has room for it, or it merges with a write of its line. -/
def State.writeRoom (s : State) (b pc line : Nat) : Prop :=
  s.hbmOpen b = true ∧ ((((s.hbm b).pc pc).mergeWith line).isSome = true ∨ ((s.hbm b).pc pc).wq.length < 64)

theorem State.hbmAskWrite_full (h : ¬ s.writeRoom b pc line) : s.hbmAskWrite b pc line d bs mask pmask = none := by
  refine if_pos ?_
  unfold State.writeRoom at h
  cases hopen : s.hbmOpen b with
  | false => rfl
  | true =>
    simp only [hopen, true_and, not_or, Bool.not_eq_true, Nat.not_lt] at h
    simpa using h

/-- A write that is accepted stores its line at once. -/
theorem State.hbmAskWrite_accepted (h : s.writeRoom b pc line) : ∃ bad F, s.hbmAskWrite b pc line d bs mask pmask =
    some (((s.storeLine (hbmAddr b (hbmOff pc (line * 64))) bs mask pmask bad).modPc b pc F).drainPc b pc) := by
  refine ⟨_, _, if_neg ?_⟩
  obtain ⟨hopen, hroom⟩ := h
  obtain hroom | hroom := hroom
  · cases hmerge : ((s.hbm b).pc pc).mergeWith line <;> simp_all
  · simp [hopen, hroom]

theorem State.storeLine_stored (a : Nat) (bad : Bool) : LineStored s.mem (s.storeLine a bs mask pmask bad).mem a bs mask pmask :=
  .of_line s.mem a bs mask pmask

end

/-! ### What the network reads of the state (R341, R348, R350, R352) -/

/-- Two states have the same network, and the same bays are fenced. -/
structure State.SameNet (s t : State) : Prop where
  net : t.net = s.net
  fenced : t.fenced = s.fenced

namespace State.SameNet

variable {s t : State} (h : s.SameNet t)
include h

theorem modNet (f : Net → Net) : (s.modNet f).SameNet (t.modNet f) := ⟨congrArg f h.net, h.fenced⟩

theorem routeEntry (b d : Nat) : t.routeEntry b d = s.routeEntry b d := by
  unfold State.routeEntry
  rw [h.net]

theorem hubEntry (d : Nat) : t.hubEntry d = s.hubEntry d := by
  unfold State.hubEntry State.isFenced
  rw [h.fenced]

theorem plan (b d : Nat) : t.plan b d = s.plan b d := by simp only [State.plan, h.routeEntry, h.hubEntry]

theorem routed (p : Sent) : t.routed p = s.routed p := by simp only [State.routed, h.plan]

theorem maySend (p : Sent) : t.maySend p = s.maySend p := by simp only [State.maySend, h.net]

theorem hasRoom (p : Sent) : t.hasRoom p = s.hasRoom p := by simp only [State.hasRoom, h.net]

theorem netDiscard (b rs reason : Nat) (f : Flit) : (s.netDiscard b rs reason f).SameNet (t.netDiscard b rs reason f) := by
  have hkeeps (y : State) := y.netDiscard_sameBut b rs reason f
  exact ⟨((hkeeps t .net (by simp)).trans h.net).trans (hkeeps s .net (by simp)).symm,
    ((hkeeps t .fenced (by simp)).trans h.fenced).trans (hkeeps s .fenced (by simp)).symm⟩

theorem pushVc (r inPort cls : Nat) (x : Hop) : (s.pushVc r inPort cls x).SameNet (t.pushVc r inPort cls x) := by
  unfold State.pushVc
  exact h.modNet _

theorem routerNack (r : Nat) (f : Flit) (reason : Nat) : (s.routerNack r f reason).SameNet (t.routerNack r f reason) := by
  have hdiscard := h.netDiscard (routerBay r) (routerS r) reason f
  unfold State.routerNack
  dsimp only
  split
  · exact hdiscard
  · rw [hdiscard.plan]
    exact hdiscard.pushVc _ _ _ _

theorem enter (p : Sent) : (s.enter p).SameNet (t.enter p) := by
  have hflits (l : List Flit) (key cls link : Nat) (wp : Bool) (y z : State) (hy : y.SameNet z) :
      (l.foldl (fun s f => s.pushVc key 4 cls { f := f, wp := wp, link := link }) y).SameNet
        (l.foldl (fun s f => s.pushVc key 4 cls { f := f, wp := wp, link := link }) z) := by
    induction l generalizing y z with
    | nil => exact hy
    | cons f l ih => exact ih _ _ (hy.pushVc _ _ _ _)
  unfold State.enter
  dsimp only
  split <;> split
  · exact hflits _ _ _ _ _ _ _ h
  · exact h.routerNack _ _ _
  · exact (hflits _ _ _ _ _ _ _ h).modNet _
  · exact (h.routerNack _ _ _).modNet _

theorem pumpList (left l : List Sent) : (s.pumpList left l).1.SameNet (t.pumpList left l).1 ∧
    (t.pumpList left l).2 = (s.pumpList left l).2 := by
  induction l generalizing s t left with
  | nil => exact ⟨h, rfl⟩
  | cons p l ih =>
    unfold State.pumpList
    dsimp only
    rw [h.routed, h.maySend, h.hasRoom]
    split
    · exact ih (h.enter _) _
    · exact ih h _

theorem pump (src : Nat) : (s.pump src).SameNet (t.pump src) := by
  unfold State.pump
  dsimp only
  obtain ⟨hnet, hleft⟩ := h.pumpList [] (Tab.get [] s.net.waiting src)
  rw [h.net, hleft]
  exact hnet.modNet _

theorem send (p : Sent) : (s.send p).SameNet (t.send p) := (h.modNet _).pump _

theorem respond (f a : Flit) : (s.respond f a).SameNet (t.respond f a) := by
  unfold State.respond
  dsimp only
  split
  · exact (h.modNet _).send _
  · exact h.send _

end State.SameNet

/-! ### MSG (R345, R354 to R356, R378, R379) -/

section
variable {s : State} {f : Flit} (haway : s.turnedAway f = none)
include haway

theorem exec_msg_kept {a : Flit} (h : s.keptAnswer f = some a) : exec (.msg f) s = .next ((s.takeArrived f).send { f := a }) := by
  show execMsg f s = _
  unfold execMsg
  simp only [haway, h]

variable (hkept : s.keptAnswer f = none)
include hkept

theorem exec_msg_bound {k a : Nat} (h : s.linkBound f.dest.toNat = some (k, a)) : exec (.msg f) s = .next (s.msgLink k a f) := by
  show execMsg f s = _
  unfold execMsg
  simp only [haway, hkept, h]

variable (hfree : s.linkBound f.dest.toNat = none)
include hfree

theorem exec_msg_selay (hd : f.dest.toNat = addrOf 32 3 1) : exec (.msg f) s =
    .next (((s.takeArrived f).modNet fun n => { n with selay := n.selay ++ [f] }).respond f (f.answer 0x13 [])) := by
  have hbay : addrBay (addrOf 32 3 1) = 32 := rfl
  have hidx : addrIdx (addrOf 32 3 1) = 1 := rfl
  show execMsg f s = _
  unfold execMsg
  rw [hd] at hfree
  simp only [haway, hkept, hd, hfree, hbay, hidx, if_true]

theorem exec_msg_fabric (hb : addrBay f.dest.toNat < 32) (hkind : addrKind f.dest.toNat = 2) :
    exec (.msg f) s = .next (s.msgEndpoint f) := by
  show execMsg f s = _
  unfold execMsg
  simp only [haway, hkept, hfree, hkind, if_true, if_neg (show ¬ addrBay f.dest.toNat = 32 by omega)]

theorem exec_msg_attachment (hb : addrBay f.dest.toNat < 32) (hkind : addrKind f.dest.toNat = 3) (hi : 16 ≤ addrIdx f.dest.toNat) :
    exec (.msg f) s = .next (if bit (s.reg .lnkAtt (addrBay f.dest.toNat) (addrIdx f.dest.toNat - 16)) 31
      then s.msgLink (addrBay f.dest.toNat / 8) (addrIdx f.dest.toNat - 16) f else s.noEndpoint f) := by
  show execMsg f s = _
  unfold execMsg
  simp only [haway, hkept, hfree, if_neg (show ¬ addrBay f.dest.toNat = 32 by omega),
    if_neg (show ¬ addrKind f.dest.toNat = 2 by omega), if_pos (show _ ∧ _ from ⟨hkind, hi⟩)]
  split <;> rfl

/-- No other endpoint takes a message. -/
theorem exec_msg_badOp (h : addrBay f.dest.toNat = 32 ∧ f.dest.toNat ≠ addrOf 32 3 1 ∨
    addrBay f.dest.toNat < 32 ∧ (addrKind f.dest.toNat < 2 ∨ addrKind f.dest.toNat = 3 ∧ addrIdx f.dest.toNat < 16)) :
    exec (.msg f) s = .next (s.badOp f) := by
  have hend := State.exists_of_turnedAway haway
  show execMsg f s = _
  unfold execMsg
  obtain ⟨hb, hd⟩ | ⟨hb, hkind⟩ := h
  · have hidx : addrIdx f.dest.toNat ≠ 1 := by
      intro hidx
      simp only [endpointExists, hb, if_true, Bool.and_eq_true, beq_iff_eq] at hend
      refine hd ?_
      have hkind := hend.1
      unfold addrBay at hb
      unfold addrKind at hkind
      unfold addrIdx at hidx
      unfold addrOf
      omega
    simp only [haway, hkept, hfree, hb, if_true, if_neg hidx]
  · simp only [haway, hkept, hfree, if_neg (show ¬ addrBay f.dest.toNat = 32 by omega),
      if_neg (show ¬ addrKind f.dest.toNat = 2 by omega), if_neg (show ¬ (addrKind f.dest.toNat = 3 ∧ 16 ≤ addrIdx f.dest.toNat) by omega)]

end

/-! ### The packets that a fabric endpoint holds (R356) -/

theorem State.setEnd_sameBut (s : State) (b e : Nat) (x : FabEnd) : SameBut [.fabs] s (s.setEnd b e x) :=
  State.Safe.sameBut (og := none) (State.setEnd_safe s b e x rfl (.refl s))

theorem State.fabEnd_setEnd (s : State) (b e k : Nat) (x : FabEnd) :
    (s.setEnd b e x).fabEnd b k = if k = e then x else s.fabEnd b k := by
  unfold State.fabEnd State.setEnd
  rw [State.fab_modFab_same]
  exact Tab.get_set {} (s.fab b).ends e k x

/-- An endpoint takes one more packet among those it holds. -/
theorem State.setEnd_holds {s u : State} {b e : Nat} {f : Flit} {since : Nat} {parts : List Part} (hparts : SameBut parts s u)
    (hfabs : u.fabs = s.fabs) :
    SameBut (.fabs :: parts) s (u.setEnd b e { hold := (s.fabEnd b e).hold ++ [f], since := since }) ∧
      ((u.setEnd b e { hold := (s.fabEnd b e).hold ++ [f], since := since }).fabEnd b e).hold = (s.fabEnd b e).hold ++ [f] ∧
      ∀ k, k ≠ e → (u.setEnd b e { hold := (s.fabEnd b e).hold ++ [f], since := since }).fabEnd b k = s.fabEnd b k := by
  refine ⟨(hparts.mono fun _ => List.mem_cons_of_mem _).trans ((u.setEnd_sameBut b e _).mono (by simp)), ?_, fun k hk => ?_⟩
  · rw [State.fabEnd_setEnd, if_pos rfl]
  · rw [State.fabEnd_setEnd, if_neg hk]
    exact congrArg (fun t => Tab.get {} (Tab.get {} t b : Fab).ends k) hfabs

section
variable {s : State} {f : Flit}

theorem State.msgEndpoint_closed
    (h : (s.pad (addrBay f.dest.toNat * 8 + addrIdx f.dest.toNat / 8)).state ≠ 4) :
    s.msgEndpoint f = (s.takeArrived f).refuse (addrBay f.dest.toNat) (routerS (homeRouter f.dest.toNat)) 2 f := if_pos h

variable (hopen : (s.pad (addrBay f.dest.toNat * 8 + addrIdx f.dest.toNat / 8)).state = 4)
include hopen

theorem State.msgEndpoint_full (h : 4 ≤ (s.fabEnd (addrBay f.dest.toNat) (addrIdx f.dest.toNat)).hold.length) :
    s.msgEndpoint f = s := (if_neg (not_not.mpr hopen)).trans (if_pos h)

theorem State.msgEndpoint_held (h : (s.fabEnd (addrBay f.dest.toNat) (addrIdx f.dest.toNat)).hold.length < 4) :
    ∃ since, s.msgEndpoint f = (s.takeArrived f).setEnd (addrBay f.dest.toNat) (addrIdx f.dest.toNat)
      { hold := (s.fabEnd (addrBay f.dest.toNat) (addrIdx f.dest.toNat)).hold ++ [f], since := since } :=
  ⟨_, (if_neg (not_not.mpr hopen)).trans (if_neg (by omega))⟩

end

/-! ### Register packets (R42, R45, R345) -/

theorem exec_registerPacket {f : Flit} {c : Instr} (hc : c ∈ [Instr.mrd f, .mwr f]) (s : State) :
    ∃ serve, exec c s = s.regPacket f serve := by
  simp only [List.mem_cons, List.not_mem_nil, or_false] at hc
  obtain rfl | rfl := hc
  · show ∃ serve, execMrd f s = s.regPacket f serve
    exact ⟨_, by rw [execMrd]⟩
  · show ∃ serve, execMwr f s = s.regPacket f serve
    exact ⟨_, by rw [execMwr]⟩

section
variable {s : State} {f : Flit} (haway : s.turnedAway f = none)
include haway

theorem regPacket_bound {serve : State → Host.Outcome State Fault Refusal} (h : (s.linkBound f.dest.toNat).isSome = true) :
    s.regPacket f serve = .next (s.noEndpoint f) := by
  unfold State.regPacket
  simp only [haway, h, if_true]

theorem exec_registerPacket_bound {c : Instr} (hc : c ∈ [Instr.mrd f, .mwr f]) (h : (s.linkBound f.dest.toNat).isSome = true) :
    exec c s = .next (s.noEndpoint f) := by
  obtain ⟨serve, hexec⟩ := exec_registerPacket hc s
  rw [hexec, regPacket_bound haway h]

variable (hfree : s.linkBound f.dest.toNat = none)
include hfree

theorem regPacket_kept {serve : State → Host.Outcome State Fault Refusal} {a : Flit} (h : s.keptAnswer f = some a) :
    s.regPacket f serve = .next ((s.takeArrived f).send { f := a }) := by
  unfold State.regPacket
  simp [haway, hfree, h]

theorem exec_registerPacket_kept {c : Instr} (hc : c ∈ [Instr.mrd f, .mwr f]) {a : Flit} (h : s.keptAnswer f = some a) :
    exec c s = .next ((s.takeArrived f).send { f := a }) := by
  obtain ⟨serve, hexec⟩ := exec_registerPacket hc s
  rw [hexec, regPacket_kept haway hfree h]

variable (hkept : s.keptAnswer f = none)
include hkept

theorem regPacket_served {serve : State → Host.Outcome State Fault Refusal} : s.regPacket f serve = serve (s.takeArrived f) := by
  unfold State.regPacket
  simp [haway, hfree, hkept]

end

/-- The read by which a register packet gets its value. -/
def State.packetRead (s : State) (m : Master) (off : Nat) : State :=
  if (wideAt m off).isSome then s.read64 m off else s.readAt m off

/-- The value that a register packet is answered. -/
def State.saidValue (s : State) : Nat :=
  match s.said with
  | some (.reg _ _ v) => v
  | _ => 0

theorem State.packetRead_sameBut (s : State) (m : Master) (off : Nat) :
    SameBut [.free, .regs, .latch, .events, .said] s (s.packetRead m off) := by
  unfold State.packetRead
  split
  · exact State.Safe.sameBut (og := none) (State.read64_safe s m off rfl (.refl s))
  · exact State.Safe.sameBut (og := none) (State.readAt_safe s m off rfl (.refl s))

/-- A register packet that reaches a register reads it: whole when it has 64 bits. -/
theorem State.packetRead_reaches {s : State} {m : Master} {off : Nat} {r : RegAt} (h : s.reaches m off r false false)
    (haligned : r.rn.spec.wide = true → off % 8 = 0) :
    (s.packetRead m off).saidValue = if r.rn.spec.wide then s.shown m r else s.shown m r % 2 ^ 32 := by
  unfold State.packetRead
  cases hwide : r.rn.spec.wide with
  | true =>
    rw [wideAt_of_reaches h hwide, State.read64_wide h hwide (haligned hwide)]
    rfl
  | false =>
    have hnone : wideAt m off = none := by
      obtain ⟨htarget, -, -⟩ := h
      simp [wideAt, htarget, hwide]
    rw [hnone, State.readAt_of_reaches h, State.readWord_narrow s m hwide]
    rfl

/-- The state after a read, without what it said: a read leaves the network and the fences. -/
theorem State.packetRead_sameNet (s u : State) (m : Master) (off : Nat) :
    s.SameNet { (s.packetRead m off).takeFree with said := u.said } := by
  have hsame := s.packetRead_sameBut m off
  exact ⟨hsame .net (by simp), hsame .fenced (by simp)⟩

section
variable {s : State} {f : Flit} (haway : s.turnedAway f = none) (hfree : s.linkBound f.dest.toNat = none)
  (hkept : s.keptAnswer f = none)
include haway hfree hkept

theorem exec_mrd_served {u : State} {m : Master} {off : Nat} (hu : u = s.takeArrived f) (hm : m = u.packetMaster f)
    (hoff : off = ofLe (f.payload.take 4)) :
    exec (.mrd f) s = .next ({ (u.packetRead m off).takeFree with said := s.said }.respond f
      (f.answer 0x14 (leBytes 8 (u.packetRead m off).saidValue))) := by
  subst hu hm hoff
  show execMrd f s = _
  unfold execMrd
  rw [regPacket_served haway hfree hkept]
  rfl

theorem mrd_sameBut {t : State} (hexec : exec (.mrd f) s = .next t) : SameBut [.free, .regs, .latch, .events, .net] s t := by
  have htouches := (exec_safe (c := .mrd f) rfl hexec).sameBut
  have hsaid : t.said = s.said := by
    rw [exec_mrd_served haway hfree hkept rfl rfl rfl] at hexec
    injection hexec with hexec
    subst hexec
    exact State.respond_sameBut _ _ _ .said (by simp)
  intro p hp
  by_cases hps : p = .said
  · subst hps
    exact hsaid
  · exact htouches p (by simpa [touches, hps] using hp)

theorem exec_mwr_served {u : State} {m : Master} {off v : Nat} (hu : u = s.takeArrived f) (hm : m = u.packetMaster f)
    (hoff : off = ofLe (f.payload.take 4)) (hv : v = ofLe ((f.payload.drop 8).take 8)) :
    exec (.mwr f) s = .next ((if (f.payload.getD 16 0).toNat = 8 then u.write64 m off v
      else u.busWrite m off (v % 2 ^ 32)).takeFree.respond f (f.answer 0x13 [])) := by
  subst hu hm hoff hv
  show execMwr f s = _
  unfold execMwr
  rw [regPacket_served haway hfree hkept]
  rfl

end

theorem ofLe_lt (bs : List Byte) : ofLe bs < 256 ^ bs.length := by
  induction bs with
  | nil => simp [ofLe]
  | cons b bs ih =>
    have hb := b.isLt
    rw [ofLe, List.length_cons, pow_succ]
    omega

/-- A write packet makes the write of a register by its master. -/
theorem exec_packetWrite (s : State) (m : Master) (off : Nat) (whole : Prop) [Decidable whole] (bs : List Byte) (hlen : bs.length ≤ 8) :
    exec (if whole then .lpAlignedAccess m off (some (BitVec.ofNat 64 (ofLe bs))) else .registerWrite m off (BitVec.ofNat 32 (ofLe bs))) s =
      .next (if whole then s.write64 m off (ofLe bs) else s.busWrite m off (ofLe bs % 2 ^ 32)) := by
  have hlt : ofLe bs < 2 ^ 64 :=
    calc ofLe bs < 256 ^ bs.length := ofLe_lt bs
      _ ≤ 256 ^ 8 := Nat.pow_le_pow_right (by decide) hlen
      _ = 2 ^ 64 := by decide
  split
  · rw [exec_lpAlignedAccess_write, BitVec.toNat_ofNat, Nat.mod_eq_of_lt hlt]
  · rw [exec_registerWrite, BitVec.toNat_ofNat]

/-! ### The packet that an answer answers (R345, R354) -/

/-- Whether a packet of a source is the one that an answer names: by its destination and its tag. -/
def answeredBy (f : Flit) (x : Sent) : Bool := x.f.dest == f.src && x.f.tag == f.tag

/-- What stays of the packets of a source when the one found goes. -/
def packetsLeft (l : List Sent) : Option Sent → List Sent
  | some p => l.erase p
  | none => l

theorem answeredBy_iff {f : Flit} {x : Sent} : answeredBy f x = true ↔ x.f.dest.toNat = f.src.toNat ∧ x.f.tag = f.tag := by
  simp [answeredBy, BitVec.toNat_inj]

theorem packetsLeft_cons {l : List Sent} {p : Sent} {f : Flit} (hp : ¬ answeredBy f p = true) :
    packetsLeft (p :: l) (l.find? (answeredBy f)) = p :: packetsLeft l (l.find? (answeredBy f)) := by
  cases hfind : l.find? (answeredBy f) with
  | none => rfl
  | some q =>
    have hne : ¬ (p == q) = true := by
      rw [beq_iff_eq]
      rintro rfl
      exact hp (List.find?_some hfind)
    exact List.erase_cons_tail hne

/-- The first packet that the answer names goes, and no other. -/
theorem takeSent_eq (f : Flit) (l : List Sent) :
    takeSent f.src.toNat f.tag l = (l.find? (answeredBy f), packetsLeft l (l.find? (answeredBy f))) := by
  induction l with
  | nil => rfl
  | cons p l ih =>
    rw [takeSent]
    by_cases hp : answeredBy f p = true
    · rw [if_pos (answeredBy_iff.mp hp), List.find?_cons_of_pos hp]
      simp [packetsLeft]
    · rw [if_neg (mt answeredBy_iff.mpr hp), List.find?_cons_of_neg hp, ih, packetsLeft_cons hp]

theorem State.answered_eq (s : State) (f : Flit) : (s.answered f).1 =
    ((s.modNet fun n => { n with sent := Tab.set [] n.sent f.dest.toNat (packetsLeft (Tab.get [] s.net.sent f.dest.toNat)
      ((Tab.get [] s.net.sent f.dest.toNat).find? (answeredBy f))) }).takeArrived f).pump f.dest.toNat := by
  unfold State.answered
  simp only [takeSent_eq]

theorem State.answered_sameBut (s : State) (f : Flit) : SameBut [.regs, .events, .net] s (s.answered f).1 :=
  State.Safe.sameBut (og := none) (State.answered_safe s f rfl (.refl s))

/-! ### Packets that a NACK holds (R352, R353) -/

/-- The outstanding packets of a source after a NACK of one: it is held, or gone when it fails. -/
def packetsAfter (f : Flit) (left : Option Sent) (l : List Sent) : List Sent :=
  l.filterMap fun x => if answeredBy f x then left else some x

/-- A source holds the packet that a NACK names until it may be resent, or lets it fail. -/
def State.refused (s : State) (f : Flit) (p : Sent) : State :=
  (s.holdOrFail f.dest.toNat p).1.modNet fun n =>
    { n with sent := Tab.upd [] n.sent f.dest.toNat (packetsAfter f (s.holdOrFail f.dest.toNat p).2) }

theorem mem_packetsAfter_held {f : Flit} {l : List Sent} {p : Sent} (q : Sent) (h : l.find? (answeredBy f) = some p) :
    q ∈ packetsAfter f (some q) l :=
  List.mem_filterMap.mpr ⟨p, List.mem_of_find?_eq_some h, if_pos (List.find?_some h)⟩

theorem not_answered_of_mem_packetsAfter {f : Flit} {l : List Sent} {x : Sent} (h : x ∈ packetsAfter f none l) :
    ¬ (x.f.dest = f.src ∧ x.f.tag = f.tag) := by
  obtain ⟨y, -, hy⟩ := List.mem_filterMap.mp h
  split at hy
  · cases hy
  · next hkeeps =>
    cases hy
    simpa [answeredBy] using hkeeps

section
variable (s : State) (f : Flit) (p : Sent)

theorem State.holdOrFail_state (src : Nat) : (s.holdOrFail src p).1 = s := by
  unfold State.holdOrFail
  split <;> rfl

theorem State.refused_sameBut : SameBut [.net] s (s.refused f p) := by
  unfold State.refused
  rw [State.holdOrFail_state]
  exact State.modNet_sameBut _ _

theorem State.sent_refused : Tab.get [] (s.refused f p).net.sent f.dest.toNat =
    packetsAfter f (s.holdOrFail f.dest.toNat p).2 (Tab.get [] s.net.sent f.dest.toNat) := by
  unfold State.refused
  rw [State.holdOrFail_state]
  exact Tab.get_upd_same [] s.net.sent f.dest.toNat _

variable {s p}

theorem State.holdOrFail_held {src : Nat} (h : (isBay (addrBay p.f.dest.toNat) && s.isFenced (addrBay p.f.dest.toNat)) = false) :
    (s.holdOrFail src p).2 = some { p with held := true, epoch := Tab.get 0 s.net.epoch (addrBay src) } := by
  unfold State.holdOrFail
  rw [h]
  rfl

theorem State.holdOrFail_fails {src : Nat} (h : (isBay (addrBay p.f.dest.toNat) && s.isFenced (addrBay p.f.dest.toNat)) = true) :
    (s.holdOrFail src p).2 = none := by
  unfold State.holdOrFail
  rw [h]
  rfl

end

/-! ### Answers at a source (R345, R352, R353, R355) -/

/-- The commands by which an answer reaches its source. -/
def answersOf (f : Flit) : List Instr := [.rdata f, .wack f, .ack f, .mdata f]

/-- A fabric endpoint whose packet fails holds the NACK for its logic. -/
def State.fabricTold (s : State) (f : Flit) : State :=
  (s.answered f).1.setEnd (addrBay f.dest.toNat) (addrIdx f.dest.toNat)
    { hold := (s.fabEnd (addrBay f.dest.toNat) (addrIdx f.dest.toNat)).hold ++ [f]
      since := if (s.fabEnd (addrBay f.dest.toNat) (addrIdx f.dest.toNat)).hold = [] then s.local (addrBay f.dest.toNat)
        else (s.fabEnd (addrBay f.dest.toNat) (addrIdx f.dest.toNat)).since }

section
variable {s : State} {f : Flit}

theorem State.answerAway_closed (haway : s.turnedAway f = none) (h : s.closedEnd f = true) : s.answerAway f =
    some ((s.takeArrived f).netDiscard (addrBay f.dest.toNat) (routerS (homeRouter f.dest.toNat)) 2 f) := by
  simp [State.answerAway, haway, h]

theorem State.answerAway_open (haway : s.turnedAway f = none) (h : s.closedEnd f = false) : s.answerAway f = none := by
  simp [State.answerAway, haway, h]

theorem bay_of_closedEnd (h : s.closedEnd f = true) : addrBay f.dest.toNat < 32 := by
  simp only [State.closedEnd, isBay, Bool.and_eq_true, decide_eq_true_eq] at h
  exact h.1.1.2

theorem exec_answer {c : Instr} (hc : c ∈ answersOf f) : exec c s = .next (s.deliverAnswer f) := by
  simp only [answersOf, List.mem_cons, List.not_mem_nil, or_false] at hc
  obtain rfl | rfl | rfl | rfl := hc <;> rfl

theorem exec_nack_away {t : State} (h : s.answerAway f = some t) : exec (.nack f) s = .next t := by
  show execNack f s = _
  unfold execNack
  simp only [h]

/-- An answer to an endpoint whose paddock is not released is discarded. -/
theorem exec_answer_closed {c : Instr} (hc : c ∈ answersOf f ∨ c = .nack f) (haway : s.turnedAway f = none)
    (h : s.closedEnd f = true) : exec c s =
      .next ((s.takeArrived f).netDiscard (addrBay f.dest.toNat) (routerS (homeRouter f.dest.toNat)) 2 f) := by
  have hclosed := State.answerAway_closed haway h
  obtain hc | rfl := hc
  · rw [exec_answer hc, State.deliverAnswer, hclosed]
  · exact exec_nack_away hclosed

variable (haway : s.turnedAway f = none) (hopen : s.closedEnd f = false)
include haway hopen

/-- An answer ends the packet that it answers. -/
theorem exec_answer_open {c : Instr} (hc : c ∈ answersOf f) : exec c s = .next (s.answered f).1 := by
  rw [exec_answer hc, State.deliverAnswer, State.answerAway_open haway hopen]

theorem exec_nack_stray (h : (Tab.get [] s.net.sent f.dest.toNat).find? (answeredBy f) = none) :
    exec (.nack f) s = .next (s.takeArrived f) := by
  show execNack f s = _
  unfold execNack
  rw [State.answerAway_open haway hopen]
  show (match (Tab.get [] s.net.sent f.dest.toNat).find? (answeredBy f) with | none => _ | some p => _) = _
  rw [h]

section
variable {p : Sent} (hfind : (Tab.get [] s.net.sent f.dest.toNat).find? (answeredBy f) = some p)
include hfind

/-- What a NACK does with the packet that it names. -/
theorem exec_nack_found : exec (.nack f) s =
    if (f.payload.getD 0 0).toNat = 1 ∨ (f.payload.getD 0 0).toNat = 5 then .next ((s.takeArrived f).refused f p)
    else if addrBay f.dest.toNat ≠ 32 ∧ addrKind f.dest.toNat = 2 ∧ 2 ≤ (f.payload.getD 0 0).toNat ∧ (f.payload.getD 0 0).toNat ≤ 4 ∧
        (s.linkBound f.dest.toNat).isNone = true then
      if 4 ≤ (s.fabEnd (addrBay f.dest.toNat) (addrIdx f.dest.toNat)).hold.length then .next s
      else .next (s.fabricTold f)
    else .next (s.answered f).1 := by
  show execNack f s = _
  unfold execNack
  rw [State.answerAway_open haway hopen]
  show (match (Tab.get [] s.net.sent f.dest.toNat).find? (answeredBy f) with | none => _ | some p => _) = _
  rw [hfind]
  rfl

theorem exec_nack_held (hreason : (f.payload.getD 0 0).toNat = 1 ∨ (f.payload.getD 0 0).toNat = 5) :
    exec (.nack f) s = .next ((s.takeArrived f).refused f p) := by
  rw [exec_nack_found haway hopen hfind, if_pos hreason]

variable (hone : (f.payload.getD 0 0).toNat ≠ 1) (hfive : (f.payload.getD 0 0).toNat ≠ 5)
include hone hfive

theorem exec_nack_failed (h : addrKind f.dest.toNat ≠ 2 ∨ addrBay f.dest.toNat = 32 ∨ (f.payload.getD 0 0).toNat < 2 ∨
    4 < (f.payload.getD 0 0).toNat ∨ (s.linkBound f.dest.toNat).isSome = true) : exec (.nack f) s = .next (s.answered f).1 := by
  rw [exec_nack_found haway hopen hfind, if_neg (not_or.mpr ⟨hone, hfive⟩), if_neg]
  rintro ⟨hhub, hkind, hlow, hhigh, hbound⟩
  rw [Option.isNone_iff_eq_none] at hbound
  simp only [hhub, hkind, hbound, ne_eq, not_true, Option.isSome_none, Bool.false_eq_true, false_or, or_false] at h
  omega

variable (hhub : addrBay f.dest.toNat ≠ 32) (hkind : addrKind f.dest.toNat = 2) (hlow : 2 ≤ (f.payload.getD 0 0).toNat)
  (hhigh : (f.payload.getD 0 0).toNat ≤ 4) (hfree : s.linkBound f.dest.toNat = none)
include hhub hkind hlow hhigh hfree

/-- A NACK that a fabric's logic is to see reaches its endpoint once it holds fewer than 4 packets. -/
theorem exec_nack_fabric : exec (.nack f) s =
    if 4 ≤ (s.fabEnd (addrBay f.dest.toNat) (addrIdx f.dest.toNat)).hold.length then .next s else .next (s.fabricTold f) := by
  rw [exec_nack_found haway hopen hfind, if_neg (not_or.mpr ⟨hone, hfive⟩),
    if_pos ⟨hhub, hkind, hlow, hhigh, by rw [hfree]; rfl⟩]

end
end

/-! ### What a WR leaves unchanged (R346) -/

section
variable (s : State) (pfx : Option Flit)

theorem State.prefixTaken_sameBut : SameBut [.net] s (s.prefixTaken pfx) := by
  cases pfx with
  | none => exact fun p _ => p.same_refl s
  | some p => exact s.takeArrived_sameBut p

theorem State.prefixTaken_linkBound (d : Nat) : (s.prefixTaken pfx).linkBound d = s.linkBound d := by cases pfx <;> rfl

theorem State.prefixTaken_blockIsQueue (b off : Nat) : (s.prefixTaken pfx).blockIsQueue b off = s.blockIsQueue b off := by
  cases pfx <;> rfl

theorem State.prefixTaken_writeRoom (b pc line : Nat) : (s.prefixTaken pfx).writeRoom b pc line ↔ s.writeRoom b pc line := by
  cases pfx <;> exact Iff.rfl

end

theorem State.takeArrived_net {s t : State} (f : Flit) (h : t.net = s.net) : (t.takeArrived f).net = (s.takeArrived f).net := by
  unfold State.takeArrived State.modNet
  rw [h]

section
variable (s : State) (a : Nat) (bs : List Byte) (mask pmask : Nat)

theorem State.hostBytes_stored : LineStored s.host (s.hostBytes a bs mask pmask).host a bs mask pmask := by
  rw [State.hostBytes_eq]
  exact .of_enabled _ _ _ _ _

theorem State.storeBytes_stored : LineStored s.mem (s.storeBytes a bs mask pmask).mem a bs mask pmask := by
  rw [State.storeBytes_eq]
  exact .of_enabled _ _ _ _ _

theorem State.storeBytes_tag {k : Nat} (hk : k < 64) : Tab.get false (s.storeBytes a bs mask pmask).memTag (a + k) =
    if bit mask k = true then bit pmask k else Tab.get false s.memTag (a + k) := by
  rw [State.storeBytes_eq]
  simp only [Tab.get_foldl_set_at, mem_enabled hk]

end

section
variable {s : State} {pfx : Option Flit} {f : Flit} {mask pmask : Nat} (hpfx : pfx.any s.behind = false)
  (haway : (s.prefixTaken pfx).turnedAway f = none) (hmask : wrMasks pfx f = (mask, pmask))
include hpfx haway hmask

/-- A write of a line of host memory stores its enabled bytes there. -/
theorem wr_host (hd : f.dest.toNat = addrOf 32 3 2) (hup : s.hostUp = true) : Does (.wr pfx f) s fun t =>
    SameBut [.regs, .host, .hostTag, .events, .net] s t ∧
    (∃ v : State, v.net = ((s.prefixTaken pfx).takeArrived f).net ∧ t = v.respond f (f.answer 0x11 [])) ∧
    LineStored s.host t.host (ofLe ((pfx.getD f).payload.take 8)) f.payload mask pmask := by
  have hprefix := s.prefixTaken_sameBut pfx
  have hcounted : SameBut [.regs] (s.prefixTaken pfx) ((s.prefixTaken pfx).cacheLines true) :=
    State.Safe.sameBut (og := none) (State.cacheLines_safe _ _ _ rfl (.refl _))
  refine ⟨_, exec_wr_host hpfx haway hmask hd hup, ?_, ⟨_, ?_, rfl⟩, ?_⟩
  · refine (hprefix.mono (by simp)).trans ((hcounted.mono (by simp)).trans (((State.takeArrived_sameBut _ f).mono (by simp)).trans ?_))
    exact State.Safe.sameBut (og := none) (State.respond_safe _ _ _ rfl (State.hostBytes_safe _ _ _ _ _ rfl (.refl _)))
  · rw [State.hostBytes_eq]
    exact State.takeArrived_net f (hcounted .net (by simp))
  · have hhost : (((s.prefixTaken pfx).cacheLines true).takeArrived f).host = s.host :=
      (State.takeArrived_sameBut _ f .host (by simp)).trans ((hcounted .host (by simp)).trans (hprefix .host (by simp)))
    have hstored := State.hostBytes_stored (((s.prefixTaken pfx).cacheLines true).takeArrived f) (ofLe ((pfx.getD f).payload.take 8))
      f.payload mask pmask
    rw [hhost] at hstored
    rw [State.respond_sameBut _ _ _ .host (by simp)]
    exact hstored

variable {a size : Nat} (haddr : lineAddr f = some (a, size))
include haddr

theorem exec_wr_past (hpast : size ≤ f.line.toNat * 64) : exec (.wr pfx f) s =
    .next ((((s.prefixTaken pfx).takeArrived f).violate 3 0 a true 1).respond f (f.answer 0x11 [])) := by
  rw [exec_wr_line hpfx haway hmask haddr (by omega), State.writeLine_past _ _ hpast]

variable (hline : f.line.toNat * 64 < size)
include hline

theorem exec_wr_barred (hreach : reaches f = false) : exec (.wr pfx f) s =
    .next ((((s.prefixTaken pfx).takeArrived f).violate 3 0 a true 0).respond f (f.answer 0x11 [])) := by
  rw [exec_wr_line hpfx haway hmask haddr fun h => not_pc_of_barred hreach h.1, State.writeLine_barred _ _ hline hreach]

/-- A line of block memory that is a fabric's queue refuses the write. -/
theorem exec_wr_blockQueue (hreach : reaches f = true) {x off : Nat} (hplace : placeOf a = .block x off)
    (hqueue : s.blockIsQueue x off = true) : exec (.wr pfx f) s =
    .next ((((s.prefixTaken pfx).takeArrived f).fabQerr x (off / 16384) 3).respond f (f.answer 0x11 [])) := by
  have hkind : addrKind f.dest.toNat ≠ 1 := fun hkind =>
    placeOf_pc haddr hkind (State.exists_of_turnedAway haway) hline x off hplace
  rw [exec_wr_line hpfx haway hmask haddr fun h => hkind h.1,
    State.writeLine_queue _ _ hline hreach hplace ((s.prefixTaken_blockIsQueue pfx x off).trans hqueue)]

theorem exec_wr_full (hkind : addrKind f.dest.toNat = 1)
    (hfull : ¬ s.writeRoom (addrBay f.dest.toNat) (addrIdx f.dest.toNat) f.line.toNat) : exec (.wr pfx f) s = .next s := by
  rw [← s.prefixTaken_writeRoom pfx] at hfull
  rw [exec_wr_queued hpfx haway hmask haddr hkind hline (State.hbmAskWrite_full _ _ _ _ hfull)]
  rfl

/-- A write of a line of a stack enters its queue, and its bytes are stored. -/
theorem wr_queued (hkind : addrKind f.dest.toNat = 1) (hroom : s.writeRoom (addrBay f.dest.toNat) (addrIdx f.dest.toNat) f.line.toNat) :
    Does (.wr pfx f) s fun t => SameBut [.regs, .mem, .memTag, .events, .net, .hbms] s t ∧
      (∃ v : State, v.net = ((s.prefixTaken pfx).takeArrived f).net ∧ t = v.respond f (f.answer 0x11 [])) ∧
      LineStored s.mem t.mem a f.payload mask pmask := by
  have hprefix := s.prefixTaken_sameBut pfx
  obtain ⟨bad, F, hask⟩ := State.hbmAskWrite_accepted f.deadline.toNat f.payload mask pmask
    ((s.prefixTaken_writeRoom pfx _ _ _).mpr hroom)
  rw [← (lineAddr_pc haddr hkind).1] at hask
  have hstored := (s.prefixTaken pfx).storeLine_stored f.payload mask pmask a bad
  have hmem : SameBut [.mem, .memTag] (s.prefixTaken pfx) ((s.prefixTaken pfx).storeLine a f.payload mask pmask bad) :=
    State.Safe.sameBut (og := none) (State.storeLine_safe _ _ _ _ _ _ rfl (.refl _))
  have hexec := exec_wr_queued hpfx haway hmask haddr hkind hline hask
  generalize (s.prefixTaken pfx).storeLine a f.payload mask pmask bad = y at *
  have hqueue : SameBut [.hbms] y ((y.modPc (addrBay f.dest.toNat) (addrIdx f.dest.toNat) F).drainPc (addrBay f.dest.toNat)
      (addrIdx f.dest.toNat)) :=
    State.Safe.sameBut (og := none) (State.drainPc_safe _ _ _ rfl (State.modPc_safe _ _ _ _ rfl (.refl _)))
  generalize (y.modPc (addrBay f.dest.toNat) (addrIdx f.dest.toNat) F).drainPc (addrBay f.dest.toNat) (addrIdx f.dest.toNat) = z at *
  refine ⟨_, hexec, ?_, ⟨z.takeArrived f, State.takeArrived_net f ?_, rfl⟩, ?_⟩
  · exact (hprefix.mono (by simp)).trans ((hmem.mono (by simp)).trans ((hqueue.mono (by simp)).trans
      (((z.takeArrived_sameBut f).mono (by simp)).trans ((State.respond_sameBut _ _ _).mono (by simp)))))
  · exact (hqueue .net (by simp)).trans (hmem .net (by simp))
  · have hall : ((z.takeArrived f).respond f (f.answer 0x11 [])).mem = y.mem := (State.respond_sameBut _ _ _ .mem (by simp)).trans
      ((z.takeArrived_sameBut f .mem (by simp)).trans (hqueue .mem (by simp)))
    rw [← hprefix .mem (by simp)]
    exact hall ▸ hstored

/-- A write of a line that is not queued stores its enabled bytes and their tags. -/
theorem wr_line (hkind : addrKind f.dest.toNat ≠ 1) (hreach : reaches f = true)
    (hqueue : ∀ x off, placeOf a = .block x off → s.blockIsQueue x off = false) :
    Does (.wr pfx f) s fun t => SameBut [.regs, .mem, .memTag, .events, .net] s t ∧
      (∃ v : State, v.net = ((s.prefixTaken pfx).takeArrived f).net ∧ t = v.respond f (f.answer 0x11 [])) ∧
      LineStored s.mem t.mem a f.payload mask pmask ∧
      ∀ k < 64, Tab.get false t.memTag (a + k) = if bit mask k = true then bit pmask k else Tab.get false s.memTag (a + k) := by
  have hexec := exec_wr_line hpfx haway hmask haddr fun h => hkind h.1
  rw [State.writeLine_stored mask pmask hline hreach fun x off h => (s.prefixTaken_blockIsQueue pfx x off).trans (hqueue x off h)]
    at hexec
  have htaken : SameBut [.net] s ((s.prefixTaken pfx).takeArrived f) :=
    (s.prefixTaken_sameBut pfx).trans (State.takeArrived_sameBut _ f)
  generalize (s.prefixTaken pfx).takeArrived f = y at *
  have hmem : SameBut [.mem, .memTag] y (y.storeBytes a f.payload mask pmask) :=
    State.Safe.sameBut (og := none) (State.storeBytes_safe _ _ _ _ _ rfl (.refl _))
  have hanswer := (y.storeBytes a f.payload mask pmask).respond_sameBut f (f.answer 0x11 [])
  refine ⟨_, hexec, ?_, ⟨_, hmem .net (by simp), rfl⟩, ?_, fun k hk => ?_⟩
  · exact (htaken.mono (by simp)).trans ((hmem.mono (by simp)).trans (hanswer.mono (by simp)))
  · rw [hanswer .mem (by simp), ← htaken .mem (by simp)]
    exact y.storeBytes_stored a f.payload mask pmask
  · rw [hanswer .memTag (by simp), ← htaken .memTag (by simp)]
    exact y.storeBytes_tag a f.payload mask pmask hk

end

/-! ### What the packets and answers of an endpoint do -/

section
variable {s : State} {f : Flit}

section
variable (haway : s.turnedAway f = none) {a size : Nat} (haddr : lineAddr f = some (a, size))
include haway haddr

theorem exec_rd_past (hpast : size ≤ f.line.toNat * 64) :
    exec (.rd f) s = .next (((s.takeArrived f).violate 3 0 a false 1).respond f (f.answer 0x10 [])) := by
  rw [exec_rd_line haway haddr (by omega), State.readLine_past hpast]

variable (hline : f.line.toNat * 64 < size)
include hline

theorem exec_rd_barred (hreach : reaches f = false) :
    exec (.rd f) s = .next (((s.takeArrived f).violate 3 0 a false 0).respond f (f.answer 0x10 [])) := by
  rw [exec_rd_line haway haddr fun h => not_pc_of_barred hreach h.1, State.readLine_barred hline hreach]

theorem exec_rd_read (hreach : reaches f = true) (hkind : addrKind f.dest.toNat ≠ 1) :
    exec (.rd f) s = .next ((s.takeArrived f).respond f
      (f.answer 0x10 (if s.poisoned a 64 then [] else s.read a 64) (s.poisoned a 64))) := by
  rw [exec_rd_line haway haddr fun h => hkind h.1, State.readLine_read hline hreach]

variable (hkind : addrKind f.dest.toNat = 1)
include hkind

theorem exec_rd_full (hfull : s.hbmOpen (addrBay f.dest.toNat) = false ∨
    64 ≤ ((s.hbm (addrBay f.dest.toNat)).pc (addrIdx f.dest.toNat)).rq.length) : exec (.rd f) s = .next s := by
  rw [exec_rd_queued haway haddr hkind hline (State.hbmAskRead_full _ _ _ _ hfull)]
  rfl

/-- A read of a line of a stack enters its queue when it has room. -/
theorem rd_queued (hopen : s.hbmOpen (addrBay f.dest.toNat) = true)
    (hroom : ((s.hbm (addrBay f.dest.toNat)).pc (addrIdx f.dest.toNat)).rq.length < 64) : Does (.rd f) s fun t =>
      SameBut [.regs, .net, .hbms] s t ∧ RegsBut [(RegAt.mk .hbmRawHolds (addrBay f.dest.toNat) 0 0).off] s t ∧
      t.net = (s.takeArrived f).net ∧ ((t.hbm (addrBay f.dest.toNat)).pc (addrIdx f.dest.toNat)).rq =
        ((s.hbm (addrBay f.dest.toNat)).pc (addrIdx f.dest.toNat)).rq ++
          [s.readAsked (addrBay f.dest.toNat) (addrIdx f.dest.toNat) f.line.toNat f.deadline.toNat (some f) 0] := by
  have hexec := exec_rd_queued haway haddr hkind hline (State.hbmAskRead_open f.line.toNat f.deadline.toNat (some f) 0 hopen hroom)
  obtain ⟨hrest, hregs, hqueue⟩ := s.withRead_leaves (b := addrBay f.dest.toNat) (pc := addrIdx f.dest.toNat) f.line.toNat
    (s.readAsked (addrBay f.dest.toNat) (addrIdx f.dest.toNat) f.line.toNat f.deadline.toNat (some f) 0)
  exact ⟨_, hexec, (hrest.mono (by simp)).trans ((State.takeArrived_sameBut _ f).mono (by simp)), hregs,
    State.takeArrived_net f (hrest .net (by simp)), hqueue⟩

end

theorem msg_held (haway : s.turnedAway f = none) (hkept : s.keptAnswer f = none) (hfree : s.linkBound f.dest.toNat = none)
    (hb : addrBay f.dest.toNat < 32) (hkind : addrKind f.dest.toNat = 2)
    (hopen : (s.pad (addrBay f.dest.toNat * 8 + addrIdx f.dest.toNat / 8)).state = 4)
    (hroom : (s.fabEnd (addrBay f.dest.toNat) (addrIdx f.dest.toNat)).hold.length < 4) : Does (.msg f) s fun t =>
      SameBut [.net, .fabs] s t ∧ t.net = (s.takeArrived f).net ∧ (t.fabEnd (addrBay f.dest.toNat) (addrIdx f.dest.toNat)).hold =
        (s.fabEnd (addrBay f.dest.toNat) (addrIdx f.dest.toNat)).hold ++ [f] ∧
      ∀ e, e ≠ addrIdx f.dest.toNat → t.fabEnd (addrBay f.dest.toNat) e = s.fabEnd (addrBay f.dest.toNat) e := by
  obtain ⟨since, hheld⟩ := State.msgEndpoint_held hopen hroom
  obtain ⟨hrest, hhold, hothers⟩ := State.setEnd_holds (f := f) (since := since) (e := addrIdx f.dest.toNat)
    (b := addrBay f.dest.toNat) (s.takeArrived_sameBut f) rfl
  rw [← hheld] at hrest hhold hothers
  refine ⟨_, exec_msg_fabric haway hkept hfree hb hkind, hrest.mono (by simp), ?_, hhold, hothers⟩
  rw [hheld]
  rfl

/-- A register packet that reaches a register is answered with what it shows. -/
theorem mrd_reaches (haway : s.turnedAway f = none) (hfree : s.linkBound f.dest.toNat = none) (hkept : s.keptAnswer f = none)
    {u : State} {m : Master} {off : Nat} (hu : u = s.takeArrived f) (hm : m = u.packetMaster f) (hoff : off = ofLe (f.payload.take 4))
    {r : RegAt} (hreach : u.reaches m off r false false) (haligned : r.rn.spec.wide = true → off % 8 = 0) :
    Does (.mrd f) s fun t => SameBut [.free, .regs, .latch, .events, .net] s t ∧ t.net = (u.respond f (f.answer 0x14
      (leBytes 8 (if r.rn.spec.wide then u.shown m r else u.shown m r % 2 ^ 32)))).net := by
  have hexec := exec_mrd_served haway hfree hkept hu hm hoff
  rw [State.packetRead_reaches hreach haligned] at hexec
  exact ⟨_, hexec, mrd_sameBut haway hfree hkept hexec, ((u.packetRead_sameNet s m off).respond f _).net⟩

/-- A closed endpoint loses the answer, and says so. -/
theorem answer_closed {c : Instr} (hc : c ∈ answersOf f ∨ c = .nack f) (haway : s.turnedAway f = none) (h : s.closedEnd f = true) :
    Does c s fun t => SameBut [.regs, .events, .net] s t ∧
      RegsBut [(RegAt.mk .nocDiscard (addrBay f.dest.toNat) 0 0).off, (RegAt.mk .nocEvent (addrBay f.dest.toNat) 0 0).off] s t ∧
      t.net = (s.takeArrived f).net ∧ bit (t.reg .nocEvent (addrBay f.dest.toNat)) 0 = true ∧
      t.reg .nocDiscard (addrBay f.dest.toNat) = min (Rn.top .nocDiscard) (s.reg .nocDiscard (addrBay f.dest.toNat) + 1) := by
  have hb := bay_of_closedEnd h
  have hdiscard := State.netDiscard_sameBut (s.takeArrived f) (addrBay f.dest.toNat) (routerS (homeRouter f.dest.toNat)) 2 f
  exact ⟨_, exec_answer_closed hc haway h, ((s.takeArrived_sameBut f).mono (by simp)).trans (hdiscard.mono (by simp)),
    State.netDiscard_regsBut _ _ _ _ _, hdiscard .net (by simp), State.netDiscard_event _ _ _ _ hb, State.netDiscard_count _ _ _ _ hb⟩

section
variable (haway : s.turnedAway f = none) (hopen : s.closedEnd f = false) {p : Sent}
  (hfind : (Tab.get [] s.net.sent f.dest.toNat).find? (answeredBy f) = some p)
include haway hopen hfind

/-- A NACK of reason 1 or 5 holds the packet at its source, with the route epoch of its bay. -/
theorem nack_holds (hreason : (f.payload.getD 0 0).toNat = 1 ∨ (f.payload.getD 0 0).toNat = 5)
    (hlive : (isBay (addrBay p.f.dest.toNat) && s.isFenced (addrBay p.f.dest.toNat)) = false) : Does (.nack f) s fun t =>
      SameBut [.net] s t ∧ { p with held := true, epoch := Tab.get 0 s.net.epoch (addrBay f.dest.toNat) } ∈
        Tab.get [] t.net.sent f.dest.toNat := by
  have hleft : ((s.takeArrived f).holdOrFail f.dest.toNat p).2 = _ := State.holdOrFail_held hlive
  refine ⟨_, exec_nack_held haway hopen hfind hreason, (s.takeArrived_sameBut f).trans (State.refused_sameBut _ f p), ?_⟩
  rw [State.sent_refused, hleft]
  exact mem_packetsAfter_held _ hfind

/-- It fails when its destination's bay is fenced. -/
theorem nack_fails (hreason : (f.payload.getD 0 0).toNat = 1 ∨ (f.payload.getD 0 0).toNat = 5)
    (hfenced : (isBay (addrBay p.f.dest.toNat) && s.isFenced (addrBay p.f.dest.toNat)) = true) : Does (.nack f) s fun t =>
      SameBut [.net] s t ∧ ∀ x ∈ Tab.get [] t.net.sent f.dest.toNat, ¬ (x.f.dest = f.src ∧ x.f.tag = f.tag) := by
  have hleft : ((s.takeArrived f).holdOrFail f.dest.toNat p).2 = none := State.holdOrFail_fails hfenced
  refine ⟨_, exec_nack_held haway hopen hfind hreason, (s.takeArrived_sameBut f).trans (State.refused_sameBut _ f p), fun x hx => ?_⟩
  rw [State.sent_refused, hleft] at hx
  exact not_answered_of_mem_packetsAfter hx

end

/-- The logic of a fabric endpoint is told of a packet that failed. -/
theorem State.fabricTold_leaves : SameBut [.regs, .events, .net, .fabs] s (s.fabricTold f) ∧ (s.fabricTold f).net = (s.answered f).1.net ∧
    ((s.fabricTold f).fabEnd (addrBay f.dest.toNat) (addrIdx f.dest.toNat)).hold =
      (s.fabEnd (addrBay f.dest.toNat) (addrIdx f.dest.toNat)).hold ++ [f] ∧
    ∀ e, e ≠ addrIdx f.dest.toNat → (s.fabricTold f).fabEnd (addrBay f.dest.toNat) e = s.fabEnd (addrBay f.dest.toNat) e := by
  have hsame := s.answered_sameBut f
  obtain ⟨hrest, hhold, hothers⟩ := State.setEnd_holds (f := f) (e := addrIdx f.dest.toNat) (b := addrBay f.dest.toNat) hsame
    (hsame .fabs (by simp))
  exact ⟨hrest.mono (by simp), rfl, hhold, hothers⟩

end
end Sys2Proof.Machine

namespace Sys2Proof.Proofs

open Sys2Proof.Machine

/-- Settles O44: each packet of the network by its command and its endpoint, each answer by the packet that it names. -/
theorem packetsAreServedAndAnswered : Obligations.PacketsAreServedAndAnswered := by
  rintro f s _ _ _ rfl rfl rfl
  refine ⟨fun c hc => ⟨fun h => ?waits, fun hdead hbehind => ⟨fun hop => ?reserved, fun hop hend => ?nowhere⟩⟩,
    fun p u hu => ⟨fun h => ?prefixWaits, fun hp hdead hbehind => ?prefixAway⟩,
    fun pfx u mask pm hpfx hu haway hmask => ?write, fun haway => ?request,
    fun haway hclosed c hc => ?closed, fun haway hopen hit rs gone hhit hrs hgone u hu => ?answer⟩
  case waits => exact exec_away hc (State.turnedAway_waits h)
  case reserved =>
    exact ⟨exec_away hc (State.turnedAway_reserved hdead hbehind hop), s.badOp_sameBut f, fun hb => ⟨s.badOp_event hb, s.badOp_count hb⟩⟩
  case nowhere => exact ⟨exec_away hc (State.turnedAway_nowhere hdead hbehind hop hend), fun hb => s.noEndpoint_event hb⟩
  case prefixWaits =>
    subst hu
    exact exec_wr_prefixWaits h
  case prefixAway =>
    subst hu
    exact ⟨fun hop => exec_wr_prefixAway hp hdead hbehind (State.turnedAway_reserved hdead hbehind hop),
      fun hop hend => exec_wr_prefixAway hp hdead hbehind (State.turnedAway_nowhere hdead hbehind hop hend)⟩
  case write =>
    obtain rfl : u = s.prefixTaken pfx := hu.trans (by cases pfx <;> rfl)
    refine ⟨fun hline hd => ?notTaken, fun hd => ⟨fun hup a ha => ?host, fun hup => exec_wr_hostDown hpfx haway hmask hd hup⟩,
      fun a size haddr => ⟨exec_wr_past hpfx haway hmask haddr, exec_wr_barred hpfx haway hmask haddr,
        fun hline hreach room hroom => ?stored⟩⟩
    case notTaken =>
      rw [exec_wr_notTaken hpfx haway hmask hline hd, State.notTaken, State.prefixTaken_linkBound]
    case host =>
      subst ha
      obtain ⟨t, hexec, hrest, hanswer, hstored⟩ := wr_host hpfx haway hmask hd hup
      exact ⟨t, hexec, hrest, hanswer, hstored.outside, hstored.inside⟩
    case stored =>
      refine ⟨fun hfull => ?_, fun x off => exec_wr_blockQueue hpfx haway hmask haddr hline hreach, fun hfits hplain => ?_⟩
      · rw [hroom, Classical.not_imp] at hfull
        exact exec_wr_full hpfx haway hmask haddr hline hfull.1 hfull.2
      · by_cases hkind : addrKind f.dest.toNat = 1
        · obtain ⟨t, hexec, hrest, hanswer, hstored⟩ := wr_queued hpfx haway hmask haddr hline hkind (hroom.mp hfits hkind)
          exact ⟨t, hexec, hrest, hanswer, hstored.outside, hstored.inside, fun h => absurd hkind h⟩
        · obtain ⟨t, hexec, hrest, hanswer, hstored, htags⟩ := wr_line hpfx haway hmask haddr hline hkind hreach hplain
          exact ⟨t, hexec, hrest.mono (by simp), hanswer, hstored.outside, hstored.inside, fun _ => ⟨hrest .hbms (by simp), htags⟩⟩
  case closed => exact answer_closed (by simpa [answersOf, or_assoc] using hc) haway hclosed
  case answer =>
    replace hhit : hit = (Tab.get [] s.net.sent f.dest.toNat).find? (answeredBy f) := hhit
    have hended : u = (s.answered f).1 := by
      rw [hu, State.answered_eq, ← hhit, hgone]
      cases hit <;> rfl
    subst hended hrs
    refine ⟨fun c hc => ⟨exec_answer_open haway hopen hc, s.answered_sameBut f⟩, fun hnone => ?_, fun p hp => ⟨fun hreason => ?_,
      fun hone hfive => ⟨exec_nack_failed haway hopen (hhit.symm.trans hp) hone hfive, fun hkind hhub hlow hhigh hfree => ?_⟩⟩⟩
    · exact exec_nack_stray haway hopen (hhit.symm.trans hnone)
    · exact ⟨nack_holds haway hopen (hhit.symm.trans hp) hreason, nack_fails haway hopen (hhit.symm.trans hp) hreason⟩
    · rw [Does, exec_nack_fabric haway hopen (hhit.symm.trans hp) hone hfive hhub hkind hlow hhigh hfree]
      exact ⟨fun hfull => if_pos hfull, fun hroom => ⟨_, if_neg (by omega), State.fabricTold_leaves⟩⟩
  case request =>
    refine ⟨fun hline hd => exec_rd_notTaken haway hline hd, fun hd => ⟨fun hup a ha => ?host, fun hup => exec_rd_hostDown haway hd hup⟩,
      fun a size haddr => ⟨exec_rd_past haway haddr, exec_rd_barred haway haddr, fun hline hreach => ?read⟩,
      fun c hc hbound => ?bound, fun a ha c hc => ?kept, fun hkept => ⟨fun k a h => exec_msg_bound haway hkept h, fun hfree => ?served⟩⟩
    case host =>
      subst ha
      exact exec_rd_host haway hd hup
    case read =>
      refine ⟨exec_rd_read haway haddr hline hreach, exec_rd_full haway haddr hline, fun hkind hup hroom => ?_⟩
      obtain ⟨t, hexec, hrest, hregs, hnet, hqueue⟩ := rd_queued haway haddr hline hkind hup hroom
      refine ⟨t, hexec, hrest, hregs, hnet, _, hqueue, rfl, rfl, rfl, ?_⟩
      rw [(lineAddr_pc haddr hkind).1]
      rfl
    case bound => exact exec_registerPacket_bound haway hc hbound
    case kept =>
      obtain rfl | ⟨hfree, hc⟩ := hc
      · exact exec_msg_kept haway ha
      · exact exec_registerPacket_kept haway hfree hc ha
    case served =>
      refine ⟨exec_msg_selay haway hkept hfree, fun hb hkind hup => ⟨fun hfull => ?_, msg_held haway hkept hfree hb hkind hup⟩,
        fun hb hkind hdown => ?_, exec_msg_attachment haway hkept hfree, exec_msg_badOp haway hkept hfree,
        fun u m off hu hm hoff => ⟨fun w hw => ?_, fun r => mrd_reaches haway hfree hkept hu hm hoff, ?_⟩⟩
      · rw [exec_msg_fabric haway hkept hfree hb hkind, State.msgEndpoint_full hup hfull]
      · rw [exec_msg_fabric haway hkept hfree hb hkind, State.msgEndpoint_closed hdown]
      · replace hw : w = u.packetRead m off := hw
        subst hw
        exact ⟨_, exec_mrd_served haway hfree hkept hu hm hoff, _, rfl, fun m' x y hsaid => by rw [State.saidValue, hsaid]⟩
      · exact ⟨_, exec_mwr_served haway hfree hkept hu hm hoff rfl, _, rfl, exec_packetWrite u m off _ _ (List.length_take_le _ _)⟩

end Sys2Proof.Proofs
